-- ==== Sys2Proof/Word.lean ====
section
/-! DEFINITION. The word types of the spec: bytes, 64-bit registers, 64-byte lines. -/

namespace Sys2Proof.Machine

/-- A byte of memory, of a frame or of a card. -/
abbrev Byte := BitVec 8
/-- The contents of a memory-mapped register (R7) or of a hart's integer register. -/
abbrev W64 := BitVec 64
/-- The 64 bytes of a cache line, byte 0 in bits 7:0 (R6). -/
abbrev Line := BitVec 512

end Sys2Proof.Machine
end

