-- ==== Sys2Proof/Syntax.lean ====
section
/-! DEFINITION. The commands of the block: one constructor of `Instr` for each row of spec/opcode_table.json, with the
operands that the numbered rules give the operation or event. The table gives no row any bits, so the operands are the
model's reading of each row (log entry 1). Numbers that name a node, a line, a channel, a port or a function are `Nat`;
register and memory contents are bit vectors. -/

namespace Sys2Proof

/-- Transports of Table 17.6; `keeper` is the keeper program's own cards (R446). -/
inductive Transport where
  | ring (secure : Bool)
  | mctp (endpoint : Nat)
  | jtag
  | keeper
  deriving DecidableEq, Repr, Inhabited

/-- How a card came: its transport, the world it counts as (R446), and the header fields that its replies echo. -/
structure CardCtx where
  via : Transport
  world : Bool
  tag : Nat
  seq : Nat
  deriving DecidableEq, Repr, Inhabited

/-- A flit (R41, Tables 2.1 and 2.2). `hdrErr` and `datErr` count the wrong bits that HCHK and the data check bits
would find: the manual does not give the SECDED code itself. `mask` is the byte mask of a partial write (Table 4.1). -/
structure Flit where
  dest : Nat
  src : Nat
  req : Nat
  cls : Nat
  prio : Bool := false
  world : Bool := false
  poison : Bool := false
  hasData : Bool := false
  mpriv : Bool := false
  opcode : Nat
  txn : Nat := 0
  stamp : Nat := 0
  line : Nat := 0
  tenant : Nat := 0x3FFF
  data : BitVec 512 := 0
  mask : Nat := 2 ^ 64 - 1
  hdrErr : Nat := 0
  datErr : Nat := 0
  deriving DecidableEq, Repr, Inhabited

/-- An instruction that a hart issues: the hart and the instruction's bits (its length, and the trap value of an illegal
instruction). -/
structure Ins where
  hart : Nat
  bits : Nat := 3
  deriving DecidableEq, Repr, Inhabited

/-- What a load does with the bytes it reads. -/
inductive LoadKind where
  | signed | unsigned | float | vector
  deriving DecidableEq, Repr, Inhabited

/-- The scalar AES operations (Zkne, Zknd); `ks1i` carries its round number. -/
inductive AesOp where
  | es | esm | ds | dsm | im | ks1i (rnum : Nat) | ks2
  deriving DecidableEq, Repr, Inhabited

/-- Integer operations of two operands (RV64I and M, Zba, Zbb, Zbc, Zbs, Zbkb, Zbkx, Zknh). -/
inductive AluOp where
  | add | sub | sll | slt | sltu | xor | srl | sra | or | and
  | addw | subw | sllw | srlw | sraw
  | mul | mulh | mulhsu | mulhu | mulw | div | divu | rem | remu | divw | divuw | remw | remuw
  | sh1add | sh2add | sh3add | adduw | sh1adduw | sh2adduw | sh3adduw | slliuw
  | andn | orn | xnor | clz | ctz | cpop | clzw | ctzw | cpopw | max | maxu | min | minu
  | sextb | sexth | zexth | rol | ror | rolw | rorw | orcb | rev8 | bclr | bext | binv | bset
  | clmul | clmulh | clmulr | pack | packh | packw | brev8 | xperm4 | xperm8
  | sha256sig0 | sha256sig1 | sha256sum0 | sha256sum1 | sha512sig0 | sha512sig1 | sha512sum0 | sha512sum1
  | aes (op : AesOp)
  deriving DecidableEq, Repr, Inhabited

/-- Conditions of branches. -/
inductive BrOp where
  | eq | ne | lt | ge | ltu | geu
  deriving DecidableEq, Repr, Inhabited

/-- The scalar FP operations that may raise flags (F and D); a conversion from or to an integer has its width and sign. -/
inductive FpOp where
  | add | sub | mul | div | sqrt | madd | msub | nmsub | nmadd | min | max | eq | lt | le | classify
  | toInt (long signed : Bool) | fromInt (long signed : Bool) | cvt
  deriving DecidableEq, Repr, Inhabited

/-- Ordinary instructions (R328, R349): those that neither access memory nor serialise. A vector operation is named by a
code, since the manual gives its result only by naming the RISC-V specifications (log entry 12). -/
inductive CoreOp where
  | alu (op : AluOp) (rd rs1 rs2 : Nat)
  | aluImm (op : AluOp) (rd rs1 : Nat) (imm : Int)
  | lui (rd : Nat) (imm : Int)
  | auipc (rd : Nat) (imm : Int)
  | branch (op : BrOp) (rs1 rs2 : Nat) (off : Int)
  | jal (rd : Nat) (off : Int)
  | jalr (rd rs1 : Nat) (off : Int)
  | fp (op : FpOp) (rm rd rs1 rs2 rs3 : Nat) (double : Bool)
  | fsgnj (kind rd rs1 rs2 : Nat) (double : Bool)
  | fmvToInt (rd rs1 : Nat) (double : Bool)
  | fmvToFp (rd rs1 : Nat) (double : Bool)
  | vec (code vd vs1 vs2 rs1 : Nat) (isFp toX toF : Bool)
  | vsetvl (rd rs1 vt : Nat) (kind : Nat)
  | csrRead (rd num : Nat)
  | hint
  | wfi
  | ecall
  | ebreak
  | illegal
  deriving DecidableEq, Repr, Inhabited

/-- Atomic operations. -/
inductive AmoOp where
  | swap | add | xor | and | or | min | max | minu | maxu
  deriving DecidableEq, Repr, Inhabited


/-- An angle message as it arrives (Table 8.1): the fields that Table 8.2 and R199 check. -/
structure AngleMsg where
  rid : Nat
  vendor : Nat := 0x1F9A
  ep : Bool := false
  subtype : Nat := 1
  length : Nat := 4
  ptmValid : Bool := true
  spindown : Bool := false
  indexTime : Nat
  period : Nat := 0
  deriving DecidableEq, Repr, Inhabited

/-- The events that return the device from Slack, Doffed or Dark (R497, R500, R508): an interrupt, the RTC alarm, a pattern on
the Treadle pair (as its complement or not), an edge on it, and an edge on a latched source. -/
inductive WakeCause where
  | irq | rtc | pattern (reversed : Bool) | edge | latch (source : Nat)
  deriving DecidableEq, Repr, Inhabited

/-- The DIMMs of a channel as training finds them (R392, R393): whether they are supported, alike and train, their logical
ranks, the capacity of all of them in GiB, and the data rate in units of 100 MT/s. -/
structure Dimms where
  trained : Bool := true
  ranks : Nat := 1
  capacity : Nat := 16
  speed : Nat := 64
  deriving DecidableEq, Repr, Inhabited

/-- The configuration block of an image (Table 22.5), whose encoding the manual does not give: BIF by root port, SHU_MODE and
TX_INV, the spare rank by channel (0xF none), the mirror set by pair, and CREEL_CH_CFG by feed. -/
structure ImageCfg where
  bifs : List Nat := []
  shuMode : Nat := 0
  txInv : Nat := 0
  spare : List Nat := []
  mirror : Nat := 0
  feeds : List (BitVec 64) := []
  deriving DecidableEq, Repr, Inhabited

/-- What a boot flow meets outside the state of the block (R575): the straps; whether the SRAM wipe, both copies of the
persistent configuration or the wrap-key generator fail; the dies whose routers fail their test (R63); the DIMMs by channel;
and the configuration blocks of images A and B. -/
structure BootEnv where
  bootsel : Nat := 0
  prof : Nat := 0
  wipeFails : Bool := false
  configBad : Bool := false
  wrapFails : Bool := false
  routerBad : List Nat := []
  dimms : List (Option Dimms) := []
  cfgA : ImageCfg := {}
  cfgB : ImageCfg := {}
  deriving DecidableEq, Repr, Inhabited

/-- The steps of a keeper's patrol (R581) that act on the device: the patrol starts; FEED.ON is sent (again); a drive's
angle clock is set; its zone table, read into DRAM, is loaded; a queue pair is set up in the drive-queue engine; a range
or a drive is logged; the shelf is done or given up; Dark is entered. -/
inductive PatrolEvent where
  | start
  | feedOn
  | clock (drive : Nat)
  | zones (drive z table : Nat)
  | pair (qp drive qid subfn rid shift dstrd dbBase : Nat)
  | badRange (drive nsid slba nlb status : Nat)
  | absent (drive : Nat)
  | done
  | abort
  | finish
  deriving DecidableEq, Repr, Inhabited

/-- The commands: every row of spec/opcode_table.json. -/
inductive Instr where
  /-- REGISTER_WRITE (R8). A write to a register that has no behaviour row of its own sets or ignores its fields by field type. -/
  | registerWrite (world mpriv : Bool) (node addr n : Nat) (value : BitVec 64)
  /-- LEASE_RING_READ (R25). A Lease ring frame with OP read reaches its stop, which returns the register value and sets STAT. -/
  | leaseRingRead (stop offset tag bad : Nat)
  /-- LEASE_RING_WRITE (R25). A Lease ring frame with OP write reaches its stop, which writes the register and sets STAT. -/
  | leaseRingWrite (stop offset tag bad : Nat) (value : BitVec 64)
  /-- LEASE_RING_PING (R25). A Lease ring frame with OP ping reaches its stop, which answers with STAT. -/
  | leaseRingPing (stop offset tag bad : Nat)
  /-- RING_FRAME_TIMEOUT (R28). A frame is not back within 512 ring cycles, so Dobby bypasses compute-die segments to find the break and logs a record. -/
  | ringFrameTimeout (brk : Nat)
  /-- PCIE_INBOUND_WRITE (R31). An inbound PCIe memory write is decoded by address and checked, then applied, routed or refused. -/
  | pcieInboundWrite (port rid addr : Nat) (data : List (BitVec 8)) (poison : Bool)
  /-- PCIE_INBOUND_READ (R31). An inbound PCIe memory read is decoded by address and checked, then answered or refused. -/
  | pcieInboundRead (port rid addr n : Nat)
  /-- FLIT_ARRIVAL (R47). Flits on a router's link inputs are ranked and assigned to productive outputs, deflected, or ejected in one mesh cycle. -/
  | flitArrival (node : Nat)
  /-- FLIT_INJECT (R48). A node injects the head flit of its injection queue into a free productive link output. -/
  | flitInject (node : Nat)
  /-- INJECTION_WAIT_EXPIRY (R48). A head flit that has waited 8 mesh cycles may take any free link output. -/
  | injectionWaitExpiry (node : Nat)
  /-- CLASS_AGE_EXPIRY (R49). A class whose head flit has waited 64 mesh cycles goes before the classes that follow it. -/
  | classAgeExpiry (node : Nat) (cls : Nat)
  /-- STARVE_ASSERT (R52). A node whose head flit has waited STARVE_LIMIT cycles asserts the starve line so only starving nodes inject. -/
  | starveAssert (node : Nat)
  /-- DIE_FIFO_DRIFT (R55). A phase drift beyond one mesh cycle at a die-boundary FIFO raises a FATAL record and stops the mesh clock. -/
  | dieFifoDrift
  /-- NEIGHBOUR_THERMAL_STEP (R58). Every 1 ms while neighbouring tiles differ by more than 45 °C the hotter tile's clock is lowered by 0.1 GHz. -/
  | neighbourThermalStep (hot cool : Nat) (hotTemp coolTemp : Int) (after : Nat)
  /-- TILE_DRAIN (R60). The TILE.DRAIN card stops new requests at a node, stops the hart, writes back lines and moves map entries. -/
  | tileDrain (c : CardCtx) (node : Nat)
  /-- DRAIN_COMPLETE (R60). When OUTSTANDING is 0 and the injection queue is empty the router sets DRAINED and Dobby replies OK. -/
  | drainComplete (node : Nat)
  /-- DRAIN_TIMEOUT (R61). A drain not complete within DRAIN_TMO leaves the node in Drain and replies TIMEOUT. -/
  | drainTimeout (node : Nat)
  /-- TILE_FENCE (R60). The TILE.FENCE card stops ejection to the domain and starts the fence responder, forced when FORCE is set. -/
  | tileFence (c : CardCtx) (node : Nat) (force : Bool)
  /-- FENCE_WAIT_EXPIRY (R60). 1,536 mesh cycles after the domain's last injection the router sets FENCED and Dobby replies OK. -/
  | fenceWaitExpiry (node : Nat)
  /-- TILE_POWER_OFF (R62). The TILE.POWER card with ON 0 switches off a Fenced domain. -/
  | tilePowerOff (c : CardCtx) (node : Nat)
  /-- TILE_POWER_ON (R494). The TILE.POWER card with ON 1 switches on an Off domain, loads repair, zero-initialises it and leaves it Fenced. -/
  | tilePowerOn (c : CardCtx) (node : Nat)
  /-- TILE_TEST (R557). The TILE.TEST card tests a Fenced domain, zero-initialises it and returns RESULT. -/
  | tileTest (c : CardCtx) (node : Nat)
  /-- TILE_RESTORE (R62). The TILE.RESTORE card stops the responder, resumes ejection and sets the node to Run. -/
  | tileRestore (c : CardCtx) (node : Nat)
  /-- TILE_SPARE (R559). The TILE.SPARE card brings a spare into service, moves map entries, state and hart ID, and runs the hart there. -/
  | tileSpare (c : CardCtx) (failed : Nat) (spare : Nat) (result : Nat)
  /-- MISS_TAG_ACQUIRE (R72). A slice miss waiting for a memory tag takes a freed tag and sends its MEM_RD or MEM_WR. -/
  | missTagAcquire (node : Nat)
  /-- MAP_UPDATE_FLIT (R81). A requester receives a FENCE-class map update, updates its copy of the slice map and acknowledges. -/
  | mapUpdateFlit (req : Nat) (entry : Nat)
  /-- MAP_UPDATE_ACKED (R81). After the last acknowledgement node 0 tells the old slice to start answering FENCED and walking its sets. -/
  | mapUpdateAcked (entry : Nat)
  /-- MAP_WALK_END (R81). When the old slice's walk ends with no release open, Dobby writes the entry stable and distributes it. -/
  | mapWalkEnd (entry : Nat)
  /-- SLICE_SCRUB_READ (R101). The slice background read checks and corrects lines over one pass of SCRUB × 100 ms. -/
  | sliceScrubRead (node : Nat) (line : Nat) (wrong : Nat)
  /-- STRIDE_PREFETCH_ISSUE (R88). An active stride detector issues a prefetch into L2 while at least 16 miss slots are free. -/
  | stridePrefetchIssue (node : Nat) (pc : Nat)
  /-- INSTRUCTION_EXECUTE (R328). An ordinary instruction issues to its unit and writes its result after the latency of Table 12.3. -/
  | instructionExecute (u : Ins) (op : CoreOp)
  /-- LOAD (R332). A load is served from the store queue or caches, or takes a fault, poison fault or I/O path. -/
  | load (u : Ins) (rd rs1 : Nat) (imm : Int) (size : Nat) (kind : LoadKind) (hyp : Nat)
  /-- STORE (R331). A store takes a store queue entry and retires in program order. -/
  | store (u : Ins) (rs1 rs2 : Nat) (imm : Int) (size : Nat) (kind : LoadKind) (hyp : Nat)
  /-- STORE_DRAIN (R331). A retired store writes L1D, merging into full-line stores or streaming to the home. -/
  | storeDrain (hart : Nat)
  /-- AMO (R336). An AMO executes on a DRAM line held in M, or faults outside the DRAM window. -/
  | amo (u : Ins) (op : AmoOp) (rd rs1 rs2 size : Nat)
  /-- LOAD_RESERVED (R334). An LR reserves a line and L1D delays snoops to it for up to 64 core cycles. -/
  | loadReserved (u : Ins) (rd rs1 size : Nat)
  /-- STORE_CONDITIONAL (R336). An SC completes or fails on its reservation and faults outside the DRAM window. -/
  | storeConditional (u : Ins) (rd rs1 rs2 size : Nat)
  /-- IO_ACCESS (R336). The oldest instruction sends one I/O load or store as an IO-class flit and retires on its answer. -/
  | ioAccess (hart : Nat) (ext : Option (BitVec 64))
  /-- BRANCH_MISPREDICT (R338). A branch resolves against its prediction and the core restores its checkpoint and refetches. -/
  | branchMispredict (hart pc : Nat)
  /-- MEMORY_ORDER_FLUSH (R333). A store address resolves onto an issued younger load, which is flushed and refetched with the pair learned. -/
  | memoryOrderFlush (hart loadPc storePc : Nat)
  /-- LOAD_REPLAY (R334). A younger load whose line was invalidated before an older load to the same bytes performed is replayed. -/
  | loadReplay (hart : Nat)
  /-- EXCEPTION (R342). The oldest instruction's exception discards younger instructions and enters the trap handler. -/
  | exception (hart cause tval gpa : Nat)
  /-- INTERRUPT_TAKEN (R342). A pending interrupt at the hart discards unretired instructions and enters the handler. -/
  | interruptTaken (hart : Nat)
  /-- XRET (R342). An xRET serialises and resumes at the return address. -/
  | xret (u : Ins) (mret : Bool)
  /-- FENCE (R330). A FENCE holds the younger accesses it orders until the older ones have performed. -/
  | fence (u : Ins) (pred : Nat)
  /-- FENCE_I (R330). FENCE.I serialises, discards fetched instructions and refetches them. -/
  | fenceI (u : Ins)
  /-- CSR_WRITE (R330). A CSR write serialises and takes effect for the next instruction fetched. -/
  | csrWrite (u : Ins) (rd num op rs1 : Nat) (imm : Bool)
  /-- PAUSE (R352). The pause hint stops dispatch for 32 core cycles or until an interrupt is pending. -/
  | pause (u : Ins)
  /-- PREFETCH_I (R91). prefetch.i fills L1I and L2 when 16 miss slots are free, else it is dropped. -/
  | prefetchI (u : Ins) (rs1 : Nat) (imm : Int)
  /-- PREFETCH_R (R91). prefetch.r fills L1D and L2 when 16 miss slots are free, else it is dropped. -/
  | prefetchR (u : Ins) (rs1 : Nat) (imm : Int)
  /-- PREFETCH_W (R91). prefetch.w takes ownership into L1D and L2 when 16 miss slots are free, else it is dropped. -/
  | prefetchW (u : Ins) (rs1 : Nat) (imm : Int)
  /-- CBO_ZERO (R95). cbo.zero zeroes a line in place or claims ownership without data and allocates it as zeros. -/
  | cboZero (u : Ins) (rs1 : Nat)
  /-- CBO_CLEAN (R96). cbo.clean writes a dirty line back to memory and keeps the copies clean. -/
  | cboClean (u : Ins) (rs1 : Nat)
  /-- CBO_FLUSH (R96). cbo.flush writes a dirty line back to memory and invalidates every copy. -/
  | cboFlush (u : Ins) (rs1 : Nat)
  /-- CBO_INVAL (R96). cbo.inval executes as cbo.flush. -/
  | cboInval (u : Ins) (rs1 : Nat)
  /-- SFENCE_VMA (R381). SFENCE.VMA removes matching V=0 TLB entries and stage-1 walk-cache entries and marks walks stale. -/
  | sfenceVma (u : Ins) (rs1 rs2 : Nat)
  /-- HFENCE_VVMA (R381). HFENCE.VVMA removes matching V=1 entries of the running VMID. -/
  | hfenceVvma (u : Ins) (rs1 rs2 : Nat)
  /-- HFENCE_GVMA (R381). HFENCE.GVMA removes V=1 entries and walk-cache entries of a VMID or of all VMIDs. -/
  | hfenceGvma (u : Ins) (rs2 : Nat)
  /-- DETERMINISTIC_ENTER (R344). A CORE_DETCTL write that sets EN drains the core, empties caches, clears the predictor and zeroes the scratchpad. -/
  | deterministicEnter (u : Ins) (rd op rs1 : Nat) (imm : Bool)
  /-- DETERMINISTIC_EXIT (R344). A CORE_DETCTL write that clears EN drains, zeroes the scratchpad and returns the caches to service. -/
  | deterministicExit (u : Ins) (rd op rs1 : Nat) (imm : Bool)
  /-- CORE_BPCTL_FLUSH (R341). A write of 1 to CORE_BPCTL.FLUSH clears every predictor structure. -/
  | coreBpctlFlush (u : Ins) (rd op rs1 : Nat) (imm : Bool)
  /-- CORE_BPCTX_WRITE (R339). A write of CORE_BPCTX.SECRET forms a new predictor context tag. -/
  | coreBpctxWrite (u : Ins) (rd op rs1 : Nat) (imm : Bool)
  /-- CORE_FPCTL_WRITE (R361). A write to CORE_FPCTL changes trap enables, mode or PEND and sets FS to Dirty. -/
  | coreFpctlWrite (u : Ins) (rd op rs1 : Nat) (imm : Bool)
  /-- FPSYNC (R360). FPSYNC traps with cause 24 when PEND is nonzero and clears PEND, else retires. -/
  | fpsync (u : Ins)
  /-- WGATE (R478). WGATE checks an entry slot of the other world and passes the hart into that world at a WLAND. -/
  | wgate (u : Ins) (rs1 : Nat)
  /-- WLAND (R365). WLAND retires as a no-op landing marker. -/
  | wland (u : Ins)
  /-- RD_SHARED (R115). A home admits or NACKs a read for sharing and serves it from the slice, memory or the owner. -/
  | rdShared (node : Nat) (f : Flit)
  /-- RD_UNIQUE (R115). A home admits or NACKs a read with ownership and invalidates or snoops the other copies. -/
  | rdUnique (node : Nat) (f : Flit)
  /-- UPGRADE (R115). A home upgrades a listed sharer to M with invalidations, or serves it as RD_UNIQUE. -/
  | upgrade (node : Nat) (f : Flit)
  /-- RD_ONCE (R115). A home returns a copy of the current data without changing the entry. -/
  | rdOnce (node : Nat) (f : Flit)
  /-- WR_FULL (R115). A home writes a full line into the slice and invalidates every private copy. -/
  | wrFull (node : Nat) (f : Flit)
  /-- WR_PART (R115). A home merges a masked write into the current line in the slice. -/
  | wrPart (node : Nat) (f : Flit)
  /-- CLAIM_ZERO (R115). A home gives ownership without data and invalidates the other copies and the slice line. -/
  | claimZero (node : Nat) (f : Flit)
  /-- EVICT_DIRTY (R115). A home takes an announced write-back by WB_GO, or completes a stale one without it. -/
  | evictDirty (node : Nat) (f : Flit)
  /-- EVICT_CLEAN (R115). A home removes a sharer or clean owner from the entry. -/
  | evictClean (node : Nat) (f : Flit)
  /-- CLEAN (R115). A home writes dirty data to memory and answers COMP once the channel accepts. -/
  | clean (node : Nat) (f : Flit)
  /-- FLUSH (R115). A home flushes every copy to memory and frees the entry. -/
  | flush (node : Nat) (f : Flit)
  /-- REL (R121). The old home releases a line to the new home during a map move and answers REL_DONE. -/
  | rel (node : Nat) (f : Flit)
  /-- SNP_SHARED (R109). An owner forwards data as S to the requester and downgrades. -/
  | snpShared (node : Nat) (f : Flit)
  /-- SNP_UNIQUE (R109). An owner forwards data and ownership to the requester and invalidates. -/
  | snpUnique (node : Nat) (f : Flit)
  /-- INV (R109). A sharer or owner invalidates its copy and acknowledges. -/
  | inv (node : Nat) (f : Flit)
  /-- SNP_ONCE (R109). An owner sends a copy of the data to the home without changing state. -/
  | snpOnce (node : Nat) (f : Flit)
  /-- SNP_CLEAN (R109). An owner sends dirty data to the home and becomes clean. -/
  | snpClean (node : Nat) (f : Flit)
  /-- SNP_FLUSH (R109). An owner sends its data to the home and invalidates. -/
  | snpFlush (node : Nat) (f : Flit)
  /-- SNP_ACK (R109). A home records a finished snoop whose data went to the requester. -/
  | snpAck (node : Nat) (f : Flit)
  /-- SNP_MISS (R109). A home records that a snooped agent held no copy. -/
  | snpMiss (node : Nat) (f : Flit)
  /-- SNP_DATA (R109). A home receives snooped data and writes dirty data into the slice. -/
  | snpData (node : Nat) (f : Flit)
  /-- NACK_Q (R119). A requester receives NACK_Q, becomes ticket holder and waits for GRANT. -/
  | nackQ (node : Nat) (f : Flit)
  /-- NACK (R119). A requester receives NACK and waits for its ticket holder's admission before retrying. -/
  | nack (node : Nat) (f : Flit)
  /-- GRANT (R119). A requester receives GRANT and retries its ticketed request with TXN[11] set. -/
  | grant (node : Nat) (f : Flit)
  /-- GRANT_ISSUE (R118). When a line closes the home grants the oldest queued ticket and reserves the line. -/
  | grantIssue (node : Nat)
  /-- COMP (R108). A requester receives COMP and closes its request. -/
  | comp (node : Nat) (f : Flit)
  /-- COMP_ACK (R108). A home receives COMP_ACK and closes the read transaction. -/
  | compAck (node : Nat) (f : Flit)
  /-- FENCED (R64). A requester receives FENCED, rereads the slice map and retries once, or fails on a second one. -/
  | fenced (node : Nat) (f : Flit)
  /-- WB_GO (R115). A tile receives WB_GO and sends its write-back data. -/
  | wbGo (node : Nat) (f : Flit)
  /-- WB_DATA (R115). A home writes received write-back data into the slice and answers COMP. -/
  | wbData (node : Nat) (f : Flit)
  /-- REL_DONE (R81). A new home receives REL_DONE and serves the released line from memory. -/
  | relDone (node : Nat) (f : Flit)
  /-- FAULT (R125). A requester receives FAULT and completes the request as failed with a poisoned fill or error completion. -/
  | faultMsg (node : Nat) (f : Flit)
  /-- DATA_S (R109). A requester installs data in S and sends COMP_ACK. -/
  | dataS (node : Nat) (f : Flit)
  /-- DATA_E (R109). A requester installs data in E and sends COMP_ACK. -/
  | dataE (node : Nat) (f : Flit)
  /-- DATA_M (R109). A requester installs dirty data in M and sends COMP_ACK. -/
  | dataM (node : Nat) (f : Flit)
  /-- DATA_ONCE (R109). A requester receives a copy of data that it does not keep. -/
  | dataOnce (node : Nat) (f : Flit)
  /-- MEM_RD (R395). A controller reads a line pair and answers MEM_DATA, from the pair buffer when possible. -/
  | memRd (node : Nat) (f : Flit) (wrong : Nat) (wrong2 : Nat)
  /-- MEM_WR (R395). A controller writes a line, pairing or merging with its companion, and answers COMP. -/
  | memWr (node : Nat) (f : Flit)
  /-- MEM_DATA (R109). A home receives a line read from DRAM and fills the slice. -/
  | memData (node : Nat) (f : Flit)
  /-- GRANT_RETRY_TIMEOUT (R118). A grant whose retry does not arrive within HOME_TMO is dropped and its reservation freed. -/
  | grantRetryTimeout (node : Nat) (req : Nat)
  /-- GRANT_WAIT_TIMEOUT (R120). A requester waiting longer than GRANT_TMO for GRANT resends its request without a ticket. -/
  | grantWaitTimeout (req line : Nat)
  /-- HOME_TIMEOUT (R123). A home wait on another agent expires, marks the agent dead, poisons its lines and completes the transaction. -/
  | homeTimeout (node : Nat) (line : Nat)
  /-- REQUESTER_TIMEOUT (R125). A request with no answer within 2 × HOME_TMO completes as failed with a UCR record. -/
  | requesterTimeout (req line : Nat)
  /-- BTN_MAC (R134). BTN.MAC reads a source line into a batten buffer and sends ACC with its coefficient to the destination home. -/
  | btnMac (u : Ins) (rd rs1 rs2 rs3 : Nat)
  /-- BTN_XOR (R132). BTN.XOR acts as BTN.MAC with coefficient 1. -/
  | btnXor (u : Ins) (rd rs1 rs2 : Nat)
  /-- BTN_WOPEN (R145). BTN.WOPEN checks a window descriptor, takes a tracker slot and sends ZEROs to open a landing window. -/
  | btnWopen (u : Ins) (rd rs1 rs2 : Nat)
  /-- BTN_WCLOSE (R150). BTN.WCLOSE accepts the close of an OPEN window and moves it to CLOSING. -/
  | btnWclose (u : Ins) (rd rs1 : Nat)
  /-- BTN_WABORT (R150). BTN.WCLOSE with rs1[16] set aborts an OPEN window and moves it to CLOSING with ABORTED. -/
  | btnWabort (u : Ins) (rd rs1 : Nat)
  /-- BTN_FENCE (R136). BTN.FENCE waits for every batten buffer to free, returns the failure count and clears it. -/
  | btnFence (u : Ins) (rd : Nat)
  /-- ACC (R140). A home admits or chains an accumulate, gathers the line and applies destination ^= coefficient · source. -/
  | acc (node : Nat) (f : Flit)
  /-- ZERO (R140). A home takes ownership of a window line, fills it with zeros and marks it. -/
  | zero (node : Nat) (f : Flit)
  /-- ACK (R134). A requester or window controller receives ACK and frees its buffer or counts the contribution. -/
  | ack (node : Nat) (f : Flit)
  /-- RELEASE (R140). A home clears the window mark of a line after its open transaction closes. -/
  | release (node : Nat) (f : Flit)
  /-- WINDOW_CLOSE_DRAINED (R151). When a CLOSING window's outstanding count reaches 0 it sets INCOMPLETE and sends RELEASEs. -/
  | windowCloseDrained (w : Nat)
  /-- WINDOW_CLOSE_RELEASED (R151). When every RELEASE is answered the controller writes the close notice. -/
  | windowCloseReleased (w : Nat)
  /-- WINDOW_NOTICE_DONE (R151). When the notice write completes or fails, the vector is raised, LAST_FLAGS set and the slot freed. -/
  | windowNoticeDone (w : Nat)
  /-- FUNC_CREATE (R166). The FUNC.CREATE card checks and allocates queue pairs and vectors and makes a function ACTIVE. -/
  | funcCreate (c : CardCtx) (func nq nv maxIn ctx ptRoot ext : Nat) (targets : List Nat)
  /-- FUNC_QUIESCE (R185). The FUNC.QUIESCE card stops fetch and waits for in-flight requests, or ends them at once with FORCE. -/
  | funcQuiesce (c : CardCtx) (func timeoutMs : Nat) (force : Bool)
  /-- FUNC_QUIESCE_DONE (R185). When a quiescing function has no request in flight it becomes QUIESCED and the final reply OK is sent. -/
  | funcQuiesceDone (func : Nat)
  /-- FUNC_QUIESCE_TIMEOUT (R185). A quiesce timeout passes first and the final reply is TIMEOUT. -/
  | funcQuiesceTimeout (func : Nat)
  /-- FUNC_FREEZE (R187). The FUNC.FREEZE card moves a QUIESCED function to FROZEN unless a window of it is open. -/
  | funcFreeze (c : CardCtx) (func : Nat)
  /-- FUNC_SAVE (R188). The FUNC.SAVE card writes the save blob of a FROZEN function. -/
  | funcSave (c : CardCtx) (func blob : Nat)
  /-- FUNC_RESTORE (R189). The FUNC.RESTORE card checks a blob, allocates and loads queue records and leaves the function FROZEN. -/
  | funcRestore (c : CardCtx) (func nv ctx ptRoot ext blob : Nat) (targets : List Nat)
  /-- FUNC_RESUME (R190). The FUNC.RESUME card sets a function ACTIVE and restarts fetch. -/
  | funcResume (c : CardCtx) (func : Nat)
  /-- FUNC_DESTROY (R190). The FUNC.DESTROY card zeroes the context, clears vectors and key slots and frees the function. -/
  | funcDestroy (c : CardCtx) (func : Nat)
  /-- FUNC_RESET (R190). The FUNC.RESET card disables every queue, zeroes the shadows and sets the function ACTIVE. -/
  | funcReset (c : CardCtx) (func : Nat)
  /-- LOOM_SQ_TAIL_WRITE (R170). A doorbell write stores the submission tail in the queue's shadow or puts the queue in error. -/
  | loomSqTailWrite (func queue : Nat) (value : BitVec 64)
  /-- LOOM_CQ_HEAD_WRITE (R170). A doorbell write stores the completion head in the queue's shadow or puts the queue in error. -/
  | loomCqHeadWrite (func queue : Nat) (value : BitVec 64)
  /-- LOOM_QUEUE_ENABLE (R171). A write of LOOM_QCTLq.EN = 1 checks the queue settings and starts the queue from index 0. -/
  | loomQueueEnable (func queue : Nat) (value : BitVec 64)
  /-- LOOM_QUEUE_DISABLE (R169). A write of LOOM_QCTLq.EN = 0 disables the queue at once. -/
  | loomQueueDisable (func queue : Nat) (value : BitVec 64)
  /-- CONTEXT_SWAP (R181). The engine evicts the longest-idle resident context and loads a waiting function's context. -/
  | contextSwap
  /-- RESIDENCY_QUANTUM_EXPIRY (R182). A context resident for QUANTUM while the holding list is not empty stops fetching. -/
  | residencyQuantumExpiry (func : Nat)
  /-- LOOM_FETCH (R176). The engine fetches submission entries round robin, checks each and starts its request. -/
  | loomFetch
  /-- LOOM_COMPLETION (R179). A finished request writes its completion entry after its data is visible. -/
  | loomCompletion (req : Nat)
  /-- COALESCE_TIMER_EXPIRY (R180). COAL_US after the oldest unsignalled completion the queue signals its vector. -/
  | coalesceTimerExpiry (func queue : Nat)
  /-- PERST_RELEASE (R201). 100 ms after a paired feed reaches regulation PERST is released and training starts. -/
  | perstRelease (port : Nat)
  /-- PCIE_LINK_UP (R201). A root port link comes up and raises the port's Harness source. -/
  | pcieLinkUp (port sub speed lanes : Nat)
  /-- PCIE_LINK_FAIL_TIMEOUT (R201). A link still down 1 s after release logs a CE record and keeps retraining. -/
  | pcieLinkFailTimeout (port : Nat)
  /-- PCIE_SURPRISE_DOWN (R202). A link down while EXPECT_DOWN is 0 enters DPC, ends its commands and contains its controllers. -/
  | pcieSurpriseDown (port sub : Nat)
  /-- PCIE_LANE_LOSS (R563). A link that loses lanes retrains at a narrower width with a CE record. -/
  | pcieLaneLoss (port sub lanes : Nat)
  /-- DPC_RELEASE (R202). Software clears DPC Trigger Status, the link retrains and controllers go to DOWN. -/
  | dpcRelease (port : Nat)
  /-- DQ_CTRL_ENABLE (R203). A write of DQ_CTRL_An.EN = 1 after link up returns a controller to UP. -/
  | dqCtrlEnable (world : Bool) (drive : Nat) (value : BitVec 64)
  /-- DQ_CTRL_DISABLE (R212). A write of DQ_CTRL_An.EN = 0 disables a controller and frees its slots. -/
  | dqCtrlDisable (world : Bool) (drive : Nat) (value : BitVec 64)
  /-- DQ_QP_ENABLE (R205). A write of DQ_QPq.EN = 1 checks and enables a drive queue pair. -/
  | dqQpEnable (world : Bool) (qp : Nat) (value : BitVec 64)
  /-- DQ_QP_DISABLE (R205). A write of DQ_QPq.EN = 0 ends the pair's commands with DRIVE_DOWN and frees their slots. -/
  | dqQpDisable (world : Bool) (qp : Nat) (value : BitVec 64)
  /-- DRIVE_CQ_DOORBELL (R214). After 8 entries or 1 µs the engine writes the drive's completion head doorbell. -/
  | driveCqDoorbell (qp : Nat)
  /-- DRIVE_COMMAND_TIMEOUT (R216). A drive command outlives TMO, its slot is revoked and the request ends DRIVE_TMO. -/
  | driveCommandTimeout (slot : Nat)
  /-- PTM_REQUEST (R199). A root port answers a PTM request with timestamps from TIME. -/
  | ptmRequest (port : Nat)
  /-- ANGLE_MESSAGE (R223). An angle message is checked and, if accepted, updates the drive's angle clock. -/
  | angleMessage (m : AngleMsg)
  /-- CLOCK_ACQUIRE_TIMEOUT (R226). An ACQUIRE clock with no accepted message for 16 × NOM_PERIOD goes to DEGRADED. -/
  | clockAcquireTimeout (drive : Nat)
  /-- CLOCK_COAST_START (R226). A LOCKED clock with no accepted message for 16 × PERIOD goes to COAST. -/
  | clockCoastStart (drive : Nat)
  /-- CLOCK_COAST_EXPIRY (R226). A COAST clock with no accepted message for COAST_REVS revolutions goes to DEGRADED. -/
  | clockCoastExpiry (drive : Nat)
  /-- GROUP_GATHER_EXPIRY (R241). GATHER after a group's first member the group is scheduled short. -/
  | groupGatherExpiry (func group : Nat)
  /-- PICK_PAIR_CLAIM (R237). 1 µs before release the drive-queue engine claims a pair and writes the command. -/
  | pickPairClaim (slot : Nat)
  /-- PICK_RELEASE (R236). At its release time a heap entry's doorbell write leaves the root port. -/
  | pickRelease
  /-- PICK_ALARM_ARM (R244). A write of PICK_ALARMa.ARM = 1 arms an alarm or sets BADVEC. -/
  | pickAlarmArm (world : Bool) (alarm : Nat) (value : BitVec 64)
  /-- PICK_ALARM_DISARM (R244). A write of PICK_ALARMa.ARM = 0 disarms an alarm. -/
  | pickAlarmDisarm (world : Bool) (alarm : Nat) (value : BitVec 64)
  /-- PICK_ALARM_FIRE (R244). An armed alarm fires at its angle, clears ARM, sets FIRED and raises its vector. -/
  | pickAlarmFire (alarm : Nat)
  /-- PICK_CLOCK_CFG (R245). The PICK.CLOCK_CFG card writes clock settings, releases the drives' entries and restarts the clocks. -/
  | pickClockCfg (c : CardCtx) (first count nomPeriod : Nat) (cfg : BitVec 64)
  /-- PICK_MAP_LOAD (R245). The PICK.MAP_LOAD card reads and replaces a drive's zone table. -/
  | pickMapLoad (c : CardCtx) (drive z table : Nat)
  /-- PICK_MODE (R245). The PICK.MODE card sets the clock mode of one or all drives and releases their entries. -/
  | pickMode (c : CardCtx) (drive mode : Nat)
  /-- SHUTTLE_PORT_CFG (R251). The SHUTTLE.PORT_CFG card applies a mode or a port's configuration, enabling or disabling it. -/
  | shuttlePortCfg (c : CardCtx) (mode port op txInv : Nat) (cfg mac : BitVec 64) (thr : List (BitVec 64))
  /-- PORT_FLUSH_RX (R263). The RX flush bit of SHUTTLE.PORT_CFG flushes a port's receive FIFO at frame boundaries. -/
  | portFlushRx (c : CardCtx) (port : Nat)
  /-- PORT_FLUSH_TX (R263). The TX flush bit of SHUTTLE.PORT_CFG flushes a port's transmit FIFO at frame boundaries. -/
  | portFlushTx (c : CardCtx) (port : Nat)
  /-- SHUTTLE_PARSE_CFG (R283). The SHUTTLE.PARSE_CFG card writes the parser configuration. -/
  | shuttleParseCfg (c : CardCtx) (image : BitVec 64)
  /-- FRAME_RECEIVE (R255). A received frame is filtered, given a priority and written to the RX FIFO with a notice. -/
  | frameReceive (port : Nat) (data : List (BitVec 8)) (fcsOk : Bool) (fecCe fecUce : Nat)
  /-- PFC_RESEND_TIMER (R267). While occupancy stays above XON the PFC frame is sent again every 0x7FFF quanta. -/
  | pfcResendTimer (port prio : Nat)
  /-- PFC_XON_SEND (R267). When occupancy falls to XON or below the MAC sends quanta 0 for the priority. -/
  | pfcXonSend (port : Nat)
  /-- PAUSE_FRAME_RECEIVE (R266). A valid PAUSE frame loads every priority's pause timer. -/
  | pauseFrameReceive (port dest quanta : Nat) (fcsOk : Bool)
  /-- PFC_FRAME_RECEIVE (R266). A valid PFC frame loads the pause timers of its enabled classes. -/
  | pfcFrameReceive (port dest enable : Nat) (quanta : List Nat) (fcsOk : Bool)
  /-- PAUSE_TIMER_EXPIRY (R266). A priority's pause timer reaches 0 and the priority resumes. -/
  | pauseTimerExpiry (port prio : Nat)
  /-- PAUSE_WATCHDOG_EXPIRY (R270). A priority paused longer than PAUSE_WD logs a CE record and raises the port source. -/
  | pauseWatchdogExpiry (port prio : Nat)
  /-- FRAME_PARSE (R271). The parser takes a frame notice, walks its headers and gives one reason code. -/
  | frameParse (port : Nat)
  /-- TX_FRAME_START (R261). The TX MAC starts a frame, and ends it with an error block on underrun or poison. -/
  | txFrameStart (port : Nat) (underrun poison : Bool)
  /-- SHU_RING_ENABLE (R276). A write of EN = 1 to an exception or raw ring checks it and resets its indices. -/
  | shuRingEnable (world : Bool) (port : Nat) (raw : Bool) (value : BitVec 64)
  /-- SHU_RAWQ_TAIL_WRITE (R278). Software advances the raw transmit ring TAIL. -/
  | shuRawqTailWrite (world : Bool) (port : Nat) (value : BitVec 64)
  /-- RAW_SLOT_SEND (R278). The device copies a raw ring slot into the TX FIFO and advances HEAD, or skips a bad slot. -/
  | rawSlotSend (port : Nat)
  /-- ETH_LINK_CHANGE (R281). A port's LINK changes and raises the port's Harness source. -/
  | ethLinkChange (port : Nat) (up lfault rfault : Bool) (lanes : List Nat)
  /-- ETH_LINK_FAIL_TIMEOUT (R281). A port not up 1 s after enable logs a CE record and keeps retraining. -/
  | ethLinkFailTimeout (port : Nat)
  /-- QP_CREATE (R288). SHU_QP_CMD CREATE checks a descriptor, reserves operation slots and sets the queue pair RTS. -/
  | qpCreate (world : Bool) (qpn : Nat)
  /-- QP_ERROR (R289). SHU_QP_CMD ERROR puts a queue pair in ERROR. -/
  | qpError (world : Bool) (qpn : Nat)
  /-- QP_DESTROY (R287). SHU_QP_CMD DESTROY waits for operations in flight, then frees the queue pair. -/
  | qpDestroy (world : Bool) (qpn : Nat)
  /-- MR_REG (R287). SHU_QP_CMD REG checks and copies a region entry into the table. -/
  | mrReg (world : Bool) (region : Nat)
  /-- MR_DEREG (R287). SHU_QP_CMD DEREG invalidates a region entry and waits for inbound accesses using it. -/
  | mrDereg (world : Bool) (region : Nat)
  /-- SHU_SQ_TAIL_WRITE (R291). A queue-pair send doorbell records the send tail or puts the queue pair in ERROR. -/
  | shuSqTailWrite (func slot : Nat) (value : BitVec 64)
  /-- SHU_RQ_TAIL_WRITE (R291). A queue-pair receive doorbell records the receive tail. -/
  | shuRqTailWrite (func slot : Nat) (value : BitVec 64)
  /-- SHU_CQ_HEAD_WRITE (R291). A queue-pair completion doorbell records the head and arms the vector when ARM is set. -/
  | shuCqHeadWrite (func slot : Nat) (value : BitVec 64)
  /-- QP_WORK_FETCH (R292). The transport fetches a send entry of an active queue pair and builds its packets. -/
  | qpWorkFetch (qpn : Nat)
  /-- ROCE_SEND (R294). An inbound RC SEND packet is checked in PSN order and written into the next receive buffer. -/
  | roceSend
  /-- UD_SEND (R296). An inbound UD SEND is checked and delivered into a receive buffer or dropped. -/
  | udSend
  /-- ROCE_RDMA_WRITE (R295). An inbound RDMA WRITE passes region checks and writes tenant memory. -/
  | roceRdmaWrite
  /-- ROCE_RDMA_READ_REQUEST (R300). An inbound RDMA READ request passes region checks and reads tenant memory for its response. -/
  | roceRdmaReadRequest
  /-- READ_RESPONSE_SEND (R297). After every line of a payload is read the transport sends the packet or NAKs a poisoned one. -/
  | readResponseSend (qpn : Nat)
  /-- ROCE_READ_RESPONSE (R294). An inbound READ response delivers data for the initiator's READ. -/
  | roceReadResponse
  /-- ROCE_ACKNOWLEDGE (R298). An inbound ACK or NAK acknowledges, retransmits or completes the initiator's work requests. -/
  | roceAcknowledge
  /-- ROCE_CNP (R286). A received CNP halves the queue pair's send rate limit. -/
  | roceCnp
  /-- ACK_TIMEOUT (R298). With no ACK within the local timeout the transport resends from the oldest unacknowledged PSN. -/
  | ackTimeout (qpn : Nat)
  /-- RNR_TIMER_EXPIRY (R298). An RNR NAK's timer expires and the request is retried. -/
  | rnrTimerExpiry (qpn : Nat)
  /-- RESPONDER_ACK_TIMER (R298). The responder acknowledges within 1 µs of its oldest unacknowledged packet. -/
  | responderAckTimer (qpn : Nat)
  /-- CNP_RATE_INCREASE (R286). After 55 µs with no CNP a queue pair's rate limit rises by 1/16 of the port rate. -/
  | cnpRateIncrease (qpn : Nat)
  /-- XFORM_LANE_START (R312). An XFORM request takes a free lane, reads and checks its header and binds its key. -/
  | xformLaneStart (lane : Nat)
  /-- XFORM_COMPLETE (R315). A transform request finishes its output, or fails, and its Loom completion follows. -/
  | xformComplete (req : Nat)
  /-- KEY_LOAD (R319). The KEY.LOAD card wraps a key into a slot's record, zeroes the buffer and invalidates the cache. -/
  | keyLoad (c : CardCtx) (slot type func buf : Nat)
  /-- IOTLB_INVALIDATE_FUNCTION (R387). A PE_IOTLB_INVw write with GO and SCOPE 0 removes every IOTLB entry of a function. -/
  | iotlbInvalidateFunction (w world : Bool) (value : BitVec 64)
  /-- IOTLB_INVALIDATE_PAGE (R387). A PE_IOTLB_INVw write with GO and SCOPE 1 removes the entries that cover a page. -/
  | iotlbInvalidatePage (w world : Bool) (value : BitVec 64)
  /-- IOTLB_INVALIDATE_DONE (R387). GO clears when no removed entry remains and every access through one has ended. -/
  | iotlbInvalidateDone (w : Bool)
  /-- PAIR_BUFFER_EXPIRY (R395). A companion line kept in the pair buffer expires after 200 ns. -/
  | pairBufferExpiry (chan : Nat) (line : Nat)
  /-- RANK_POWER_DOWN (R397). A rank idle for PD_IDLE memory clocks enters power-down. -/
  | rankPowerDown (chan : Nat) (rank : Nat)
  /-- DDR_ALERT (R401). A DIMM alert replays commands, retrains, or on the fourth alert retires the channel. -/
  | ddrAlert (chan : Nat) (write : Bool)
  /-- PATROL_SCRUB (R402). The patrol reads a line pair, writes back corrections and poisons uncorrectable lines. -/
  | patrolScrub (chan : Nat) (line : Nat) (wrong : Nat) (chanLocal : Bool)
  /-- ECS_COMMAND (R400). The controller issues a manual ECS command so each row is checked every ECS_H hours. -/
  | ecsCommand (chan : Nat)
  /-- ECS_COUNT_READ (R400). Hourly the controller reads each device's ECS count and logs a CE record above threshold. -/
  | ecsCountRead (chan : Nat) (rank : Nat) (device : Nat) (count : Nat) (threshold : Nat)
  /-- BUCKET_LEAK (R404). Every BKT_LEAK hours a rank's leaky bucket loses 1. -/
  | bucketLeak (chan : Nat) (rank : Nat)
  /-- MEM_SCRUB_CFG (R415). The MEM.SCRUB_CFG card writes scrub and bucket settings of one or all channels. -/
  | memScrubCfg (c : CardCtx) (channel : Nat) (period : Nat) (ecsH : Nat) (bktThr : Nat) (bktLeak : Nat)
  /-- MEM_MIRROR_SET (R406). The MEM.MIRROR card with OP off or on stores mirroring for the next cold reset. -/
  | memMirrorSet (c : CardCtx) (pair : Nat) (on : Bool)
  /-- MEM_MIRROR_RESYNC (R406). The MEM.MIRROR card with OP RESYNC copies the serving side into the returned side. -/
  | memMirrorResync (c : CardCtx) (pair : Nat)
  /-- MIRROR_RESYNC_DONE (R406). A resync copy ends, mirroring resumes and the final reply OK is sent. -/
  | mirrorResyncDone (pair : Nat)
  /-- MEM_SPARE_RANK (R407). The MEM.SPARE_RANK card copies a failing rank into the spare rank. -/
  | memSpareRank (c : CardCtx) (channel : Nat) (rank : Nat)
  /-- SPARE_COPY_DONE (R407). A sparing copy ends, the spare replaces the rank and the sparing is recorded in flash. -/
  | spareCopyDone (chan : Nat)
  /-- MEM_PPR_SOFT (R408). The MEM.PPR card with soft repair repairs one row online through a row buffer. -/
  | memPprSoft (c : CardCtx) (channel : Nat) (rank : Nat) (bg : Nat) (bank : Nat) (row : Nat) (resource : Bool)
  /-- MEM_PPR_HARD (R408). The MEM.PPR card with hard repair repairs one row of a retired, Fenced channel. -/
  | memPprHard (c : CardCtx) (channel : Nat) (rank : Nat) (bg : Nat) (bank : Nat) (row : Nat) (resource : Bool)
  /-- MEM_RETIRE (R410). The MEM.RETIRE card switches homes to a mirror partner and fences the channel's node, or forces it. -/
  | memRetire (c : CardCtx) (channel : Nat) (force : Bool)
  /-- ZERO_FILL_DONE (R409). A channel completes its zero-fill and sets ZF_DONE. -/
  | zeroFillDone (chan : Nat)
  /-- WIRED_LINE_CHANGE (R419). A wired source line changes level and sets IP for a level or selected edge. -/
  | wiredLineChange (src : Nat) (level : Bool)
  /-- VECTOR_RAISE (R423). An engine raises a message vector, which sets IP or is discarded when invalid. -/
  | vectorRaise (vec : Nat)
  /-- HRN_SRC_ENABLE (R421). A write of HRN_SRCn.EN = 1 checks the target and enables the source or sets BADCFG. -/
  | hrnSrcEnable (world : Bool) (src : Nat) (value : BitVec 64)
  /-- HRN_SRC_DISABLE (R430). A write of HRN_SRCn.EN = 0 disables the source and re-evaluates the file. -/
  | hrnSrcDisable (world : Bool) (src : Nat) (value : BitVec 64)
  /-- HRN_THRESH_WRITE (R430). A write to HRN_THRESH changes the file threshold before its answer. -/
  | hrnThreshWrite (world : Bool) (hart : Nat) (file : Nat) (value : BitVec 64)
  /-- HRN_CLAIM_READ (R429). A read of HRN_CLAIM claims the best claimable ID or returns OTHER, spurious or none. -/
  | hrnClaimRead (world : Bool) (hart : Nat) (file : Nat)
  /-- HRN_COMPLETE_WRITE (R430). A write to HRN_COMPLETE ends the service of an in-service ID or counts a bad complete. -/
  | hrnCompleteWrite (world : Bool) (hart : Nat) (file : Nat) (id : Nat)
  /-- HRN_CHAIN_READ (R431). A read of HRN_CHAIN completes the highest in-service ID and claims again in one access. -/
  | hrnChainRead (world : Bool) (hart : Nat) (file : Nat)
  /-- HRN_MSIP_WRITE (R434). A write to HRN_MSIP sets or clears a software interrupt of file 0 or 9. -/
  | hrnMsipWrite (world : Bool) (hart : Nat) (file : Nat) (value : Bool)
  /-- HRN_TIMECMP_WRITE (R434). A write to HRN_TIMECMP sets a file's timer compare. -/
  | hrnTimecmpWrite (world : Bool) (hart : Nat) (file : Nat) (value : BitVec 64)
  /-- TIMER_COMPARE_MATCH (R434). TIME reaches a file's compare and the timer source becomes 1. -/
  | timerCompareMatch (hart : Nat) (file : Nat)
  /-- EIP_SET (R426). A tile applies EIP_SET to its file bit under the sequence rule. -/
  | eipSet (node : Nat) (f : Flit)
  /-- EIP_CLR (R426). A tile applies EIP_CLR to its file bit under the sequence rule. -/
  | eipClr (node : Nat) (f : Flit)
  /-- MSIP_SET (R426). A tile sets the software interrupt source of a machine file. -/
  | msipSet (node : Nat) (f : Flit)
  /-- MSIP_CLR (R426). A tile clears the software interrupt source of a machine file. -/
  | msipClr (node : Nat) (f : Flit)
  /-- TIP_SET (R426). A tile sets the timer source of a file. -/
  | tipSet (node : Nat) (f : Flit)
  /-- TIP_CLR (R426). A tile clears the timer source of a file. -/
  | tipClr (node : Nat) (f : Flit)
  /-- UNDELIVERED (R427). The Harness receives UNDELIVERED and holds every later send for that hart. -/
  | undelivered (node : Nat) (f : Flit)
  /-- EDGE_LATCH_CAPTURE (R435). An edge of 50 ns or more on sources 1–64 is latched while the Harness clock is stopped. -/
  | edgeLatchCapture (src : Nat) (rising : Bool)
  /-- EDGE_LATCH_TRANSFER (R435). Within 1 µs of the Harness clock starting each latched edge sets LATCHED and IP. -/
  | edgeLatchTransfer
  /-- DBY_RING_PROD_WRITE (R449). A host write of DBY_RINGw_PROD makes new cards available for Dobby to consume. -/
  | dbyRingProdWrite (world w : Bool) (value : BitVec 64)
  /-- DBY_RING_RCONS_WRITE (R449). A host write of DBY_RINGw_RCONS frees reply space and updates source 90 or 91. -/
  | dbyRingRconsWrite (world w : Bool) (value : BitVec 64)
  /-- CARD_CONSUME (R451). Dobby reads a card from a ring, reserves reply space, checks it and queues it or answers it. -/
  | cardConsume (w : Bool)
  /-- MCTP_MESSAGE (R450). An assembled MCTP message carrying a card is checked, deduplicated and queued. -/
  | mctpMessage (endpoint : Nat) (msg : List (BitVec 8))
  /-- MAILBOX_CARD (R446). A card arrives through the JTAG mailbox and is checked under its WORLD field. -/
  | mailboxCard (l : List (BitVec 8))
  /-- CARD_SERVE (R453). The card pair takes the next card by class order and ageing and carries it out. -/
  | cardServe (ok : Bool) (result : Nat)
  /-- CARD_CLASS_AGED (R453). A class whose oldest card has waited 10 ms is aged and served before classes that are not. -/
  | cardClassAged (cls : Nat)
  /-- DBY_RING_ENABLE (R462). A write of DBY_RINGw_CFG.EN = 1 checks the ring and resets its indices. -/
  | dbyRingEnable (world w : Bool) (value : BitVec 64)
  /-- DBY_RING_DISABLE (R462). A write of DBY_RINGw_CFG.EN = 0 stops consumption from the ring. -/
  | dbyRingDisable (world w : Bool) (value : BitVec 64)
  /-- DBY_RING_DISABLE_DONE (R462). When every card taken from a disabled ring has its final reply, EN reads 0. -/
  | dbyRingDisableDone (w : Bool)
  /-- DOBBY_WATCHDOG_EXPIRY (R459). The card loop reports no progress for 100 ms and the card pair restarts. -/
  | dobbyWatchdogExpiry
  /-- CARD_PAIR_MISMATCH (R459). A card-pair lockstep mismatch restarts the card pair and answers open cards FAULT. -/
  | cardPairMismatch (scratch : Bool)
  /-- SAFETY_PAIR_MISMATCH (R459). A safety-pair lockstep mismatch withdraws every safety key and logs FATAL. -/
  | safetyPairMismatch
  /-- INFO_IDENTIFY (R455). The INFO.IDENTIFY card returns chip ID, UID, life cycle, image and firmware version. -/
  | infoIdentify (c : CardCtx)
  /-- INFO_CAPS (R455). The INFO.CAPS card returns grade, harts, spares, channels, mode, feeds, DRAM size, profile and state. -/
  | infoCaps (c : CardCtx)
  /-- INFO_TELEMETRY (R456). The INFO.TELEMETRY card writes or returns a telemetry snapshot. -/
  | infoTelemetry (c : CardCtx) (snap : Nat)
  /-- SET_STATE_WOVEN (R491). The POWER.SET_STATE card with STATE 0 returns the device from Slack or Doffed to Woven. -/
  | setStateWoven (c : CardCtx)
  /-- SET_STATE_SLACK (R496). The POWER.SET_STATE card with STATE 1 parks every running tile. -/
  | setStateSlack (c : CardCtx)
  /-- SET_STATE_DOFFED (R498). The POWER.SET_STATE card with STATE 2 writes back, enters self-refresh and switches off the compute dies. -/
  | setStateDoffed (c : CardCtx)
  /-- SET_STATE_DARK (R502). The POWER.SET_STATE card with STATE 3 arms the Treadle and switches off every rail except VDD_AON. -/
  | setStateDark (c : CardCtx)
  /-- POWER_GET_STATE (R455). The POWER.GET_STATE card returns the state, profile, RUN_COUNT and every TSTATE. -/
  | powerGetState (c : CardCtx)
  /-- POWER_SET_PROFILE (R37). The POWER.SET_PROFILE card changes reserved ways, mesh clock, core clocks and the other settings in order. -/
  | powerSetProfile (c : CardCtx) (l : List (BitVec 8))
  /-- POWER_REFUSALS (R457). The POWER.REFUSALS card returns the refusal log and may clear it. -/
  | powerRefusals (c : CardCtx) (clear : Nat)
  /-- PARK_COMPLETE (R496). The last tile parks and the Slack entry replies OK. -/
  | parkComplete
  /-- SLACK_WAKE_EVENT (R497). An armed IRQ, RTC, Treadle or latch event in Slack unparks the tiles and returns to Woven. -/
  | slackWakeEvent (w : WakeCause)
  /-- DOFFED_WRITEBACK_DONE (R498). When every dirty line is written back, DRAM enters self-refresh and the compute dies go off. -/
  | doffedWritebackDone
  /-- DOFFED_ENTRY_ABORT (R498). Write-back not done by 50 ms aborts the Doffed entry with TIMEOUT. -/
  | doffedEntryAbort
  /-- DOFFED_WAKE_EVENT (R500). An armed event in Doffed starts the wake to Woven. -/
  | doffedWakeEvent (w : WakeCause)
  /-- WAKE_STEP_READY (R501). A wake step's ready signal arrives and the next step of the wake order starts. -/
  | wakeStepReady
  /-- WAKE_STEP_TIMEOUT (R501). A Doffed wake step times out, the compute dies go off again and the reply is FAULT. -/
  | wakeStepTimeout (unit : Nat) (router : Bool)
  /-- DARK_WAKE (R504). A wake in Dark runs the cold boot of everything except the Treadle island. -/
  | darkWake (w : WakeCause)
  /-- DARK_WAKE_STEP_TIMEOUT (R506). A timeout in steps 1–7 of a Dark wake or boot switches rails off, writes TRD_ABORT and returns to Dark. -/
  | darkWakeStepTimeout (block : Nat)
  /-- WAKE_RETRY (R506). 1 s after an aborted wake the sequencer retries once as a Dark wake. -/
  | wakeRetry
  /-- TREADLE_PATTERN_WAKE (R507). A Manchester frame matching the wake code or its complement is accepted as a wake. -/
  | treadlePatternWake (frame : BitVec 32)
  /-- TREADLE_EDGE_WAKE (R507). In MODE 1 an edge of 1 µs or more on the pair is accepted as a wake. -/
  | treadleEdgeWake (width : Nat)
  /-- TREADLE_PAIR_CHECK (R508). Once per second the Treadle checks the pair differential and sets or clears PAIR_FAULT. -/
  | treadlePairCheck (low : Bool)
  /-- LATCH_WAKE (R497). An edge on a source enabled in TRD_WAKE_MASK wakes the device. -/
  | latchWake (src : Nat) (rising : Bool)
  /-- RTC_ALARM (R509). The RTC reaches CMP, clears EN and sets source 34's latch. -/
  | rtcAlarm
  /-- TIME_OFS_CAPTURE (R510). Every 32 RTC ticks the logic captures TIME and COUNT and writes TRD_TIME_OFS. -/
  | timeOfsCapture
  /-- POWER_LIMIT_SAMPLE (R512). Every 100 µs the device sums regulator telemetry for the package power average. -/
  | powerLimitSample (reads : List (Nat × Nat))
  /-- POWER_LIMIT_STEP (R512). On its 1 ms or 10 ms step the limit loop lowers or raises running tile clocks by 0.1 GHz. -/
  | powerLimitStep
  /-- TILE_THERMAL_STEP (R513). Every 1 ms a tile at 100 °C or more has its clock lowered, and restored after 100 ms at 95 °C. -/
  | tileThermalStep (node : Nat) (temp : Int) (after : Nat)
  /-- PMBUS_NO_ANSWER (R606). A regulator that misses three reads is counted at its maximum and a UCR record is logged. -/
  | pmbusNoAnswer (regulator : Nat)
  /-- VR_PG_LOSS (R605). A power-good input low for 100 µs removes every rail, holds FATAL_N and ignores wakes. -/
  | vrPgLoss (input : Nat)
  /-- CRD_LINK_FRAME (R524). A CRD link frame arrives every 10 µs and refreshes its key. -/
  | crdLinkFrame (safe : Bool) (feed vin vout energy : Nat) (current temp : Int)
  /-- CRD_LINK_LOSS (R524). A link with no valid frame for 50 µs is lost. -/
  | crdLinkLoss (safe : Bool)
  /-- LINK_KEY_WITHDRAW (R524). 100 µs after one link's loss with the other working, the lost link's key is withdrawn from every channel. -/
  | linkKeyWithdraw (safe : Bool)
  /-- HOST_SIDE_RESET (R536). Both links lost within 100 µs makes every on channel hold and starts the hold timer. -/
  | hostSideReset
  /-- INTERLOCK_CHANGE (R522). An interlock reading changes; an open loop pulls a running channel down with cause ILK. -/
  | interlockChange (feed : Nat) (safety closed : Bool)
  /-- SAFETY_KEY_DECISION (R523). The safety pair sets or withdraws a channel's safety key from interlock, thermal and life-cycle conditions. -/
  | safetyKeyDecision (feed : Nat)
  /-- FEED_ON (R525). The FEED.ON card checks state, interlock, links and budget and reserves the channel's inrush. -/
  | feedOn (c : CardCtx) (feed slew ilimit : Nat)
  /-- FEED_KEY_WAIT_TIMEOUT (R622). Keys or interlock not present 10 ms after FEED.ON end the card FAULT and release the reservation. -/
  | feedKeyWaitTimeout (feed : Nat)
  /-- FEED_START (R526). With both keys present and the interlock closed a channel runs its pre-start checks and ramp. -/
  | feedStart (feed check : Nat)
  /-- FEED_REGULATION (R526). A channel reaches regulation, enters STATE 2, raises its source and replies OK. -/
  | feedRegulation (feed : Nat)
  /-- FEED_RAMP_TIMEOUT (R526). A channel not in regulation by the ramp timeout trips with RAMP_TMO. -/
  | feedRampTimeout (feed : Nat)
  /-- FEED_DETECTOR_TRIP (R529). A channel detector condition pulls both gates down, latches the channel and logs a record. -/
  | feedDetectorTrip (feed cause others : Nat)
  /-- FET_SHORT_CHECK (R566). 10 µs after a pull-down, current found means FET_SHORT, a FATAL record and retirement. -/
  | fetShortCheck (feed : Nat) (found : Bool)
  /-- SPIN_RESERVATION_END (R527). SPIN_S after regulation a channel's inrush reservation is released. -/
  | spinReservationEnd (feed : Nat)
  /-- FEED_RETRY (R533). After its wait a tripped channel with RETRY tries again, or ends its retries latched. -/
  | feedRetry (feed check : Nat)
  /-- FEED_OFF (R535). The FEED.OFF card runs the port side, then ramps one or all channels down or clears a latch. -/
  | feedOff (c : CardCtx) (feed : Nat) (force : Bool)
  /-- FEED_RAMPDOWN_DONE (R535). When GATE − SRC falls below 1 V or 20 ms pass, both gates are pulled down and the channel is off. -/
  | feedRampdownDone (feed : Nat)
  /-- FEED_STATUS (R455). The FEED.STATUS card returns status records of one or all channels. -/
  | feedStatus (c : CardCtx) (feed : Nat)
  /-- FEED_BUDGET (R528). The FEED.BUDGET card sets BUDGET and MAX_RAMPS for later requests. -/
  | feedBudget (c : CardCtx) (budget maxRamps : Nat)
  /-- FEED_RECLAIM (R537). The FEED.RECLAIM card returns named holding channels to STATE 2 and ramps the others down. -/
  | feedReclaim (c : CardCtx) (mask holdS : Nat)
  /-- HOLD_END (R536). HOLD_S after a host-side reset, channels still holding begin the ordered ramp-down. -/
  | holdEnd
  /-- HOLD_RAMPDOWN_NEXT (R536). GAP × 100 ms after the previous one the next holding channel starts its ramp-down. -/
  | holdRampdownNext
  /-- FEED_SELF_TEST (R565). Every 60 s the CRD tests each off channel's blocking gate and comparators. -/
  | feedSelfTest (feed result : Nat)
  /-- DIODE_READING (R544). Every 100 µs each die diode is read and checked, and a faulted diode is replaced by the other. -/
  | diodeReading (die diode : Nat) (temp : Int) (faulted : Bool)
  /-- THERMAL_TRIP (R617). Readings of 110 °C held for 1 ms trip THERMTRIP_N and FATAL_N and remove the rails. -/
  | thermalTrip (tripDie : Nat)
  /-- LIFE_ADVANCE (R484). The LIFE.ADVANCE card verifies a signed token, programs the life-cycle fuses and starts a reset. -/
  | lifeAdvance (c : CardCtx) (target len addr : Nat) (fuseOk : Bool)
  /-- WORLD_LOCK (R472). The WORLD.LOCK card checks an assignment table and sets watermarks, assignments and KEY_BASE. -/
  | worldLock (c : CardCtx) (table : Nat)
  /-- SEL_DEBUG_WRITE (R481). A write to SEL_DEBUG by a permitted M-mode hart changes the debug enables or sets LOCK. -/
  | selDebugWrite (world mpriv : Bool) (value : BitVec 64)
  /-- RAS_READ_BANKS (R552). The RAS.READ_BANKS card returns valid records of a bank and may clear them. -/
  | rasReadBanks (c : CardCtx) (block : Nat) (first : Nat) (clear : Nat)
  /-- RAS_INJECT (R413). The RAS.INJECT card arms one injected fault in a named block. -/
  | rasInject (c : CardCtx) (block : Nat) (kind : Nat) (devices : Nat) (addr : Nat)
  /-- RAS_RECORD_CLEAR (R550). A write of 1 to RAS_STATUSr.VALID clears a record. -/
  | rasRecordClear (world : Bool) (block : Nat) (slot : Nat)
  /-- ERROR_SUMMARY_ACTION (R551). Dobby acts on a UCR record sent on the error summary line by forcing a fence or retiring a channel. -/
  | errorSummaryAction
  /-- W1C_STATUS_CLEAR (R8). A write of 1 to a W1C status bit such as LATCHED, LOST, WAKE_FAIL or TRD_ABORT.VALID clears it. -/
  | w1cStatusClear (world : Bool) (addr : Nat) (value : BitVec 64)
  /-- PROBE_ARM_COMPARATOR (R591). The PROBE.ARM card with UNIT 0 or 1 loads a router comparator image. -/
  | probeArmComparator (c : CardCtx) (node : Nat) (unit : Nat) (image : List (BitVec 8))
  /-- PROBE_ARM_COUNTER (R593). The PROBE.ARM card with UNIT 0x40–0x7F loads a die counter image. -/
  | probeArmCounter (c : CardCtx) (node : Nat) (unit : Nat) (image : List (BitVec 8))
  /-- PROBE_ARM_TRACE (R596). The PROBE.ARM card with UNIT 0x10 starts or stops a die's trace. -/
  | probeArmTrace (c : CardCtx) (node : Nat) (image : List (BitVec 8))
  /-- PROBE_READ (R598). The PROBE.READ card returns counter, comparator or trace status values. -/
  | probeRead (c : CardCtx) (node : Nat) (unit : Nat) (count : Nat)
  /-- TRACE_SYNC (R595). The trace SRAM writes a sync record every 2^22 mesh cycles. -/
  | traceSync (die : Nat)
  /-- TRACE_POST_END (R596). POST records after a STOP match the trace stops. -/
  | tracePostEnd (die : Nat)
  /-- FW_STAGE (R578). The FW.STAGE card verifies an image and writes it into a flash slot. -/
  | fwStage (c : CardCtx) (slot len addr : Nat) (ok : Bool)
  /-- FW_ACTIVATE_NEXT_RESET (R578). The FW.ACTIVATE card with WHEN 0 sets a trial slot or confirms the running trial. -/
  | fwActivateNextReset (c : CardCtx) (slot : Nat) (fuseOk : Bool)
  /-- FW_ACTIVATE_NOW (R578). The FW.ACTIVATE card with WHEN 1 restarts the card pair from the slot's firmware. -/
  | fwActivateNow (c : CardCtx) (slot : Nat)
  /-- POWER_ON_RESET (R567). VDD_AON applied resets the Treadle island and runs the boot flow. -/
  | powerOnReset
  /-- COLD_RESET_PIN (R611). RST_N held low for 10 µs or more starts a cold reset. -/
  | coldResetPin (low : Nat)
  /-- WARM_RESET_PIN (R611). WRST_N held low for 10 µs or more starts a warm reset. -/
  | warmResetPin (low : Nat)
  /-- PWR_RESET_WARM (R570). A write of PWR_RESET with the key and KIND 1 starts a warm reset. -/
  | pwrResetWarm (world : Bool) (value : BitVec 64)
  /-- PWR_RESET_COLD (R570). A write of PWR_RESET with the key and KIND 2 starts a cold reset. -/
  | pwrResetCold (world : Bool) (value : BitVec 64)
  /-- BOOT_FLOW (R575). The boot flow senses fuses and straps, wipes, trains memory, selects and verifies an image and releases hart 0. -/
  | bootFlow (env : BootEnv)
  /-- PWR_HART_GO (R579). A write of PWR_HART_GO with GO releases a stopped hart at ADDR or sets ERR. -/
  | pwrHartGo (world : Bool) (value : BitVec 64)
  /-- KEEPER_SHELF_PATROL (R581). The keeper powers a shelf, sets its drives' clocks and verifies every LBA, logging bad ranges. -/
  | keeperShelfPatrol (e : PatrolEvent)
  /-- KEEPER_VERIFY_REQUEST (R582). A keeper request through the keeper port becomes a TIMED VERIFY in the Pick unit. -/
  | keeperVerifyRequest (drive nsid slba nlb : Nat)
  /-- JTAG_TAP_RESET (R585). TRST_N low or five TMS-high cycles reset the TAP with IDCODE selected. -/
  | jtagTapReset
  /-- JTAG_EXTEST (R586). The EXTEST instruction drives the boundary register when permitted, else acts as BYPASS. -/
  | jtagExtest
  /-- JTAG_SAMPLE_PRELOAD (R585). The SAMPLE/PRELOAD instruction captures or loads the boundary register. -/
  | jtagSamplePreload (cells : Nat)
  /-- JTAG_IDCODE (R587). The IDCODE instruction selects the 32-bit IDCODE register. -/
  | jtagIdcode
  /-- JTAG_CLAMP (R586). The CLAMP instruction holds the boundary outputs when permitted, else acts as BYPASS. -/
  | jtagClamp
  /-- JTAG_HIGHZ (R586). The HIGHZ instruction floats the outputs when permitted, else acts as BYPASS. -/
  | jtagHighz
  /-- JTAG_DMI (R588). The DMI instruction gives access to the debug module interface. -/
  | jtagDmi (scan : Option (BitVec 41))
  /-- JTAG_DTMCS (R585). The DTMCS instruction selects the debug transport control register. -/
  | jtagDtmcs
  /-- JTAG_MAILBOX (R585). The MAILBOX instruction selects the card mailbox in non-deployed life cycles. -/
  | jtagMailbox
  /-- JTAG_BYPASS (R585). The BYPASS instruction, or any unlisted code, selects the 1-bit bypass register. -/
  | jtagBypass
  /-- DM_HALT_REQUEST (R589). A debug halt request halts a hart, or is held until its tile runs in a permitted world. -/
  | dmHaltRequest (hart : Nat)
  /-- DM_RESUME (R588). A debug resume request resumes a halted hart. -/
  | dmResume (hart : Nat)
  /-- DM_ABSTRACT_COMMAND (R588). An abstract command accesses a halted hart's registers or memory. -/
  | dmAbstractCommand (hart : Nat) (cmd : BitVec 32)
  /-- DM_SYSTEM_BUS_ACCESS (R590). A system bus access is sent with the world its enables permit and checked, or sets sberror. -/
  | dmSystemBusAccess (write : Bool) (addr size : Nat) (value : BitVec 64) (ext : Option (BitVec 64))
  /-- PCIE_ERROR_MESSAGE (R198). An ERR_FATAL (or selected ERR_NONFATAL) message from a device below a root port triggers DPC containment, ends the port's commands and contains its controllers. -/
  | pcieErrorMessage (port sub : Nat) (fatal selected : Bool)
  /-- CHANNEL_TRAINING_TIMEOUT (R506). A channel that misses its step-8 training or step-9 zero-fill timeout in a Dark wake or boot flow is left unpopulated with a UCR record while the wake goes on. -/
  | channelTrainingTimeout (chan : Nat)
  /-- CRD_SUPPLY_LOSS (R518). The CRD loses every supply input, its gates fall off through the board resistors and its channel state and retirements are lost. -/
  | crdSupplyLoss
  /-- TILE_TEST_DONE (R557). The tests of a Fenced node end, its arrays are zero-initialised, and the final reply carries RESULT with a TEST record when nonzero. -/
  | tileTestDone (node : Nat) (result : Nat)
  deriving DecidableEq, Repr

end Sys2Proof
end

