-- ==== Sys2Proof/WellFormed.lean ====
section
/-! DEFINITION. Well-formed commands: every operand that names a node, a hart, a channel, a port, a die, a message class,
a function, a feed, a map entry, an interrupt source, a CSR or an integer register names one that exists, and the fields of a
flit fit their widths (Table 2.1). A card's parameters are not checked here: Dobby checks them (R455). -/

namespace Sys2Proof

/-- A node of the 16 × 14 torus (section 1.2). -/
def nodeOk (n : Nat) : Bool := decide (n < 224)
/-- A hart number (R22): 192 harts. -/
def hartOk (h : Nat) : Bool := decide (h < 192)
/-- A DRAM channel. -/
def chanOk (c : Nat) : Bool := decide (c < 12)
/-- A root port. -/
def portOk (p : Nat) : Bool := decide (p < 16)
/-- A drive controller (Table 7.14). -/
def driveOk (n : Nat) : Bool := decide (n < 1024)
/-- A hardware queue pair (Table 7.16). -/
def qpOk (q : Nat) : Bool := decide (q < 4096)
/-- An angle alarm (Table 8.16). -/
def alarmOk (a : Nat) : Bool := decide (a < 64)
/-- A compute die. -/
def dieOk (d : Nat) : Bool := decide (d < 4)
/-- A message class (Table 2.2). -/
def classOk (c : Nat) : Bool := decide (c < 8)
/-- A Loom function. -/
def funcOk (f : Nat) : Bool := decide (f < 16384)
/-- An instruction's hart. -/
def insOk (u : Ins) : Bool := hartOk u.hart
/-- An integer register. -/
def xregOk (r : Nat) : Bool := decide (r < 32)
/-- A CSR number. -/
def csrOk (n : Nat) : Bool := decide (n < 4096)
/-- A feed (Table 20.12). -/
def feedOk (n : Nat) : Bool := decide (n < 16)
/-- An entry of the slice map (section 3.2). -/
def entryOk (n : Nat) : Bool := decide (n < 4096)
/-- An interrupt source (Table 16.3). -/
def srcOk (n : Nat) : Bool := decide (n < 1024)
/-- A card's transport exists and its echoed fields fit (Tables 17.3, 17.6). -/
def ctxOk (c : CardCtx) : Bool :=
  decide (c.tag < 65536) && decide (c.seq < 2 ^ 32) && (match c.via with | .mctp e => decide (e < 256) | _ => true)
/-- The header fields of a flit fit their widths (Table 2.1). -/
def flitOk (f : Flit) : Bool :=
  nodeOk f.dest && nodeOk f.src && decide (f.req < 256) && classOk f.cls && decide (f.opcode < 256) &&
  decide (f.txn < 4096) && decide (f.stamp < 2048) && decide (f.line < 2 ^ 42) && decide (f.tenant < 16384)

/-- The checks of each command. -/
def Instr.wf (i : Instr) : Bool :=
  match i with
  | .registerWrite _ _ node _ _ _ => nodeOk node
  | .leaseRingRead _ _ _ _ => true
  | .leaseRingWrite _ _ _ _ _ => true
  | .leaseRingPing _ _ _ _ => true
  | .ringFrameTimeout _ => true
  | .pcieInboundWrite port _ _ _ _ => portOk port
  | .pcieInboundRead port _ _ _ => portOk port
  | .flitArrival node => nodeOk node
  | .flitInject node => nodeOk node
  | .injectionWaitExpiry node => nodeOk node
  | .classAgeExpiry node cls => nodeOk node && classOk cls
  | .starveAssert node => nodeOk node
  | .dieFifoDrift => true
  | .neighbourThermalStep hot cool _ _ _ => nodeOk hot && nodeOk cool
  | .tileDrain c _ => ctxOk c
  | .drainComplete node => nodeOk node
  | .drainTimeout node => nodeOk node
  | .tileFence c _ _ => ctxOk c
  | .fenceWaitExpiry node => nodeOk node
  | .tilePowerOff c _ => ctxOk c
  | .tilePowerOn c _ => ctxOk c
  | .tileTest c _ => ctxOk c
  | .tileRestore c _ => ctxOk c
  | .tileSpare c _ _ _ => ctxOk c
  | .missTagAcquire node => nodeOk node
  | .mapUpdateFlit _ entry => entryOk entry
  | .mapUpdateAcked entry => entryOk entry
  | .mapWalkEnd entry => entryOk entry
  | .sliceScrubRead node _ _ => nodeOk node
  | .stridePrefetchIssue node _ => nodeOk node
  | .instructionExecute u _ => insOk u
  | .load u rd rs1 _ _ _ _ => insOk u && xregOk rd && xregOk rs1
  | .store u rs1 rs2 _ _ _ _ => insOk u && xregOk rs1 && xregOk rs2
  | .storeDrain hart => hartOk hart
  | .amo u _ rd rs1 rs2 _ => insOk u && xregOk rd && xregOk rs1 && xregOk rs2
  | .loadReserved u rd rs1 _ => insOk u && xregOk rd && xregOk rs1
  | .storeConditional u rd rs1 rs2 _ => insOk u && xregOk rd && xregOk rs1 && xregOk rs2
  | .ioAccess hart _ => hartOk hart
  | .branchMispredict hart _ => hartOk hart
  | .memoryOrderFlush hart _ _ => hartOk hart
  | .loadReplay hart => hartOk hart
  | .exception hart _ _ _ => hartOk hart
  | .interruptTaken hart => hartOk hart
  | .xret u _ => insOk u
  | .fence u _ => insOk u
  | .fenceI u => insOk u
  | .csrWrite u rd num _ rs1 _ => insOk u && xregOk rd && csrOk num && xregOk rs1
  | .pause u => insOk u
  | .prefetchI u rs1 _ => insOk u && xregOk rs1
  | .prefetchR u rs1 _ => insOk u && xregOk rs1
  | .prefetchW u rs1 _ => insOk u && xregOk rs1
  | .cboZero u rs1 => insOk u && xregOk rs1
  | .cboClean u rs1 => insOk u && xregOk rs1
  | .cboFlush u rs1 => insOk u && xregOk rs1
  | .cboInval u rs1 => insOk u && xregOk rs1
  | .sfenceVma u rs1 rs2 => insOk u && xregOk rs1 && xregOk rs2
  | .hfenceVvma u rs1 rs2 => insOk u && xregOk rs1 && xregOk rs2
  | .hfenceGvma u rs2 => insOk u && xregOk rs2
  | .deterministicEnter u rd _ rs1 _ => insOk u && xregOk rd && xregOk rs1
  | .deterministicExit u rd _ rs1 _ => insOk u && xregOk rd && xregOk rs1
  | .coreBpctlFlush u rd _ rs1 _ => insOk u && xregOk rd && xregOk rs1
  | .coreBpctxWrite u rd _ rs1 _ => insOk u && xregOk rd && xregOk rs1
  | .coreFpctlWrite u rd _ rs1 _ => insOk u && xregOk rd && xregOk rs1
  | .fpsync u => insOk u
  | .wgate u rs1 => insOk u && xregOk rs1
  | .wland u => insOk u
  | .rdShared node f => nodeOk node && flitOk f
  | .rdUnique node f => nodeOk node && flitOk f
  | .upgrade node f => nodeOk node && flitOk f
  | .rdOnce node f => nodeOk node && flitOk f
  | .wrFull node f => nodeOk node && flitOk f
  | .wrPart node f => nodeOk node && flitOk f
  | .claimZero node f => nodeOk node && flitOk f
  | .evictDirty node f => nodeOk node && flitOk f
  | .evictClean node f => nodeOk node && flitOk f
  | .clean node f => nodeOk node && flitOk f
  | .flush node f => nodeOk node && flitOk f
  | .rel node f => nodeOk node && flitOk f
  | .snpShared node f => nodeOk node && flitOk f
  | .snpUnique node f => nodeOk node && flitOk f
  | .inv node f => nodeOk node && flitOk f
  | .snpOnce node f => nodeOk node && flitOk f
  | .snpClean node f => nodeOk node && flitOk f
  | .snpFlush node f => nodeOk node && flitOk f
  | .snpAck node f => nodeOk node && flitOk f
  | .snpMiss node f => nodeOk node && flitOk f
  | .snpData node f => nodeOk node && flitOk f
  | .nackQ node f => nodeOk node && flitOk f
  | .nack node f => nodeOk node && flitOk f
  | .grant node f => nodeOk node && flitOk f
  | .grantIssue node => nodeOk node
  | .comp node f => nodeOk node && flitOk f
  | .compAck node f => nodeOk node && flitOk f
  | .fenced node f => nodeOk node && flitOk f
  | .wbGo node f => nodeOk node && flitOk f
  | .wbData node f => nodeOk node && flitOk f
  | .relDone node f => nodeOk node && flitOk f
  | .faultMsg node f => nodeOk node && flitOk f
  | .dataS node f => nodeOk node && flitOk f
  | .dataE node f => nodeOk node && flitOk f
  | .dataM node f => nodeOk node && flitOk f
  | .dataOnce node f => nodeOk node && flitOk f
  | .memRd node f _ _ => nodeOk node && flitOk f
  | .memWr node f => nodeOk node && flitOk f
  | .memData node f => nodeOk node && flitOk f
  | .grantRetryTimeout node _ => nodeOk node
  | .grantWaitTimeout _ _ => true
  | .homeTimeout node _ => nodeOk node
  | .requesterTimeout _ _ => true
  | .btnMac u rd rs1 rs2 rs3 => insOk u && xregOk rd && xregOk rs1 && xregOk rs2 && xregOk rs3
  | .btnXor u rd rs1 rs2 => insOk u && xregOk rd && xregOk rs1 && xregOk rs2
  | .btnWopen u rd rs1 rs2 => insOk u && xregOk rd && xregOk rs1 && xregOk rs2
  | .btnWclose u rd rs1 => insOk u && xregOk rd && xregOk rs1
  | .btnWabort u rd rs1 => insOk u && xregOk rd && xregOk rs1
  | .btnFence u rd => insOk u && xregOk rd
  | .acc node f => nodeOk node && flitOk f
  | .zero node f => nodeOk node && flitOk f
  | .ack node f => nodeOk node && flitOk f
  | .release node f => nodeOk node && flitOk f
  | .windowCloseDrained _ => true
  | .windowCloseReleased _ => true
  | .windowNoticeDone _ => true
  | .funcCreate c _ _ _ _ _ _ _ _ => ctxOk c
  | .funcQuiesce c _ _ _ => ctxOk c
  | .funcQuiesceDone func => funcOk func
  | .funcQuiesceTimeout func => funcOk func
  | .funcFreeze c _ => ctxOk c
  | .funcSave c _ _ => ctxOk c
  | .funcRestore c _ _ _ _ _ _ _ => ctxOk c
  | .funcResume c _ => ctxOk c
  | .funcDestroy c _ => ctxOk c
  | .funcReset c _ => ctxOk c
  | .loomSqTailWrite func _ _ => funcOk func
  | .loomCqHeadWrite func _ _ => funcOk func
  | .loomQueueEnable func _ _ => funcOk func
  | .loomQueueDisable func _ _ => funcOk func
  | .contextSwap => true
  | .residencyQuantumExpiry func => funcOk func
  | .loomFetch => true
  | .loomCompletion _ => true
  | .coalesceTimerExpiry func _ => funcOk func
  | .perstRelease port => portOk port
  | .pcieLinkUp port _ _ _ => portOk port
  | .pcieLinkFailTimeout port => portOk port
  | .pcieSurpriseDown port _ => portOk port
  | .pcieLaneLoss port _ _ => portOk port
  | .dpcRelease port => portOk port
  | .dqCtrlEnable _ drive _ => driveOk drive
  | .dqCtrlDisable _ drive _ => driveOk drive
  | .dqQpEnable _ qp _ => qpOk qp
  | .dqQpDisable _ qp _ => qpOk qp
  | .driveCqDoorbell qp => qpOk qp
  | .driveCommandTimeout _ => true
  | .ptmRequest port => portOk port
  | .angleMessage _ => true
  | .clockAcquireTimeout drive => driveOk drive
  | .clockCoastStart drive => driveOk drive
  | .clockCoastExpiry drive => driveOk drive
  | .groupGatherExpiry func _ => funcOk func
  | .pickPairClaim _ => true
  | .pickRelease => true
  | .pickAlarmArm _ alarm _ => alarmOk alarm
  | .pickAlarmDisarm _ alarm _ => alarmOk alarm
  | .pickAlarmFire alarm => alarmOk alarm
  | .pickClockCfg c _ _ _ _ => ctxOk c
  | .pickMapLoad c _ _ _ => ctxOk c
  | .pickMode c _ _ => ctxOk c
  | .shuttlePortCfg c _ _ _ _ _ _ _ => ctxOk c
  | .portFlushRx c _ => ctxOk c
  | .portFlushTx c _ => ctxOk c
  | .shuttleParseCfg c _ => ctxOk c
  | .frameReceive port _ _ _ _ => portOk port
  | .pfcResendTimer port _ => portOk port
  | .pfcXonSend port => portOk port
  | .pauseFrameReceive port _ _ _ => portOk port
  | .pfcFrameReceive port _ _ _ _ => portOk port
  | .pauseTimerExpiry port _ => portOk port
  | .pauseWatchdogExpiry port _ => portOk port
  | .frameParse port => portOk port
  | .txFrameStart port _ _ => portOk port
  | .shuRingEnable _ port _ _ => portOk port
  | .shuRawqTailWrite _ port _ => portOk port
  | .rawSlotSend port => portOk port
  | .ethLinkChange port _ _ _ _ => portOk port
  | .ethLinkFailTimeout port => portOk port
  | .qpCreate _ _ => true
  | .qpError _ _ => true
  | .qpDestroy _ _ => true
  | .mrReg _ _ => true
  | .mrDereg _ _ => true
  | .shuSqTailWrite func _ _ => funcOk func
  | .shuRqTailWrite func _ _ => funcOk func
  | .shuCqHeadWrite func _ _ => funcOk func
  | .qpWorkFetch _ => true
  | .roceSend => true
  | .udSend => true
  | .roceRdmaWrite => true
  | .roceRdmaReadRequest => true
  | .readResponseSend _ => true
  | .roceReadResponse => true
  | .roceAcknowledge => true
  | .roceCnp => true
  | .ackTimeout _ => true
  | .rnrTimerExpiry _ => true
  | .responderAckTimer _ => true
  | .cnpRateIncrease _ => true
  | .xformLaneStart _ => true
  | .xformComplete _ => true
  | .keyLoad c _ _ _ _ => ctxOk c
  | .iotlbInvalidateFunction _ _ _ => true
  | .iotlbInvalidatePage _ _ _ => true
  | .iotlbInvalidateDone _ => true
  | .pairBufferExpiry chan _ => chanOk chan
  | .rankPowerDown chan _ => chanOk chan
  | .ddrAlert chan _ => chanOk chan
  | .patrolScrub chan _ _ _ => chanOk chan
  | .ecsCommand chan => chanOk chan
  | .ecsCountRead chan _ _ _ _ => chanOk chan
  | .bucketLeak chan _ => chanOk chan
  | .memScrubCfg c _ _ _ _ _ => ctxOk c
  | .memMirrorSet c _ _ => ctxOk c
  | .memMirrorResync c _ => ctxOk c
  | .mirrorResyncDone _ => true
  | .memSpareRank c _ _ => ctxOk c
  | .spareCopyDone chan => chanOk chan
  | .memPprSoft c _ _ _ _ _ _ => ctxOk c
  | .memPprHard c _ _ _ _ _ _ => ctxOk c
  | .memRetire c _ _ => ctxOk c
  | .zeroFillDone chan => chanOk chan
  | .wiredLineChange src _ => srcOk src
  | .vectorRaise _ => true
  | .hrnSrcEnable _ src _ => srcOk src
  | .hrnSrcDisable _ src _ => srcOk src
  | .hrnThreshWrite _ hart _ _ => hartOk hart
  | .hrnClaimRead _ hart _ => hartOk hart
  | .hrnCompleteWrite _ hart _ _ => hartOk hart
  | .hrnChainRead _ hart _ => hartOk hart
  | .hrnMsipWrite _ hart _ _ => hartOk hart
  | .hrnTimecmpWrite _ hart _ _ => hartOk hart
  | .timerCompareMatch hart _ => hartOk hart
  | .eipSet node f => nodeOk node && flitOk f
  | .eipClr node f => nodeOk node && flitOk f
  | .msipSet node f => nodeOk node && flitOk f
  | .msipClr node f => nodeOk node && flitOk f
  | .tipSet node f => nodeOk node && flitOk f
  | .tipClr node f => nodeOk node && flitOk f
  | .undelivered node f => nodeOk node && flitOk f
  | .edgeLatchCapture src _ => srcOk src
  | .edgeLatchTransfer => true
  | .dbyRingProdWrite _ _ _ => true
  | .dbyRingRconsWrite _ _ _ => true
  | .cardConsume _ => true
  | .mctpMessage _ _ => true
  | .mailboxCard _ => true
  | .cardServe _ _ => true
  | .cardClassAged cls => classOk cls
  | .dbyRingEnable _ _ _ => true
  | .dbyRingDisable _ _ _ => true
  | .dbyRingDisableDone _ => true
  | .dobbyWatchdogExpiry => true
  | .cardPairMismatch _ => true
  | .safetyPairMismatch => true
  | .infoIdentify c => ctxOk c
  | .infoCaps c => ctxOk c
  | .infoTelemetry c _ => ctxOk c
  | .setStateWoven c => ctxOk c
  | .setStateSlack c => ctxOk c
  | .setStateDoffed c => ctxOk c
  | .setStateDark c => ctxOk c
  | .powerGetState c => ctxOk c
  | .powerSetProfile c _ => ctxOk c
  | .powerRefusals c _ => ctxOk c
  | .parkComplete => true
  | .slackWakeEvent _ => true
  | .doffedWritebackDone => true
  | .doffedEntryAbort => true
  | .doffedWakeEvent _ => true
  | .wakeStepReady => true
  | .wakeStepTimeout _ _ => true
  | .darkWake _ => true
  | .darkWakeStepTimeout _ => true
  | .wakeRetry => true
  | .treadlePatternWake _ => true
  | .treadleEdgeWake _ => true
  | .treadlePairCheck _ => true
  | .latchWake src _ => srcOk src
  | .rtcAlarm => true
  | .timeOfsCapture => true
  | .powerLimitSample _ => true
  | .powerLimitStep => true
  | .tileThermalStep node _ _ => nodeOk node
  | .pmbusNoAnswer _ => true
  | .vrPgLoss _ => true
  | .crdLinkFrame _ feed _ _ _ _ _ => feedOk feed
  | .crdLinkLoss _ => true
  | .linkKeyWithdraw _ => true
  | .hostSideReset => true
  | .interlockChange feed _ _ => feedOk feed
  | .safetyKeyDecision feed => feedOk feed
  | .feedOn c _ _ _ => ctxOk c
  | .feedKeyWaitTimeout feed => feedOk feed
  | .feedStart feed _ => feedOk feed
  | .feedRegulation feed => feedOk feed
  | .feedRampTimeout feed => feedOk feed
  | .feedDetectorTrip feed _ _ => feedOk feed
  | .fetShortCheck feed _ => feedOk feed
  | .spinReservationEnd feed => feedOk feed
  | .feedRetry feed _ => feedOk feed
  | .feedOff c _ _ => ctxOk c
  | .feedRampdownDone feed => feedOk feed
  | .feedStatus c _ => ctxOk c
  | .feedBudget c _ _ => ctxOk c
  | .feedReclaim c _ _ => ctxOk c
  | .holdEnd => true
  | .holdRampdownNext => true
  | .feedSelfTest feed _ => feedOk feed
  | .diodeReading die _ _ _ => dieOk die
  | .thermalTrip _ => true
  | .lifeAdvance c _ _ _ _ => ctxOk c
  | .worldLock c _ => ctxOk c
  | .selDebugWrite _ _ _ => true
  | .rasReadBanks c _ _ _ => ctxOk c
  | .rasInject c _ _ _ _ => ctxOk c
  | .rasRecordClear _ _ _ => true
  | .errorSummaryAction => true
  | .w1cStatusClear _ _ _ => true
  | .probeArmComparator c _ _ _ => ctxOk c
  | .probeArmCounter c _ _ _ => ctxOk c
  | .probeArmTrace c _ _ => ctxOk c
  | .probeRead c _ _ _ => ctxOk c
  | .traceSync die => dieOk die
  | .tracePostEnd die => dieOk die
  | .fwStage c _ _ _ _ => ctxOk c
  | .fwActivateNextReset c _ _ => ctxOk c
  | .fwActivateNow c _ => ctxOk c
  | .powerOnReset => true
  | .coldResetPin _ => true
  | .warmResetPin _ => true
  | .pwrResetWarm _ _ => true
  | .pwrResetCold _ _ => true
  | .bootFlow _ => true
  | .pwrHartGo _ _ => true
  | .keeperShelfPatrol _ => true
  | .keeperVerifyRequest drive _ _ _ => driveOk drive
  | .jtagTapReset => true
  | .jtagExtest => true
  | .jtagSamplePreload _ => true
  | .jtagIdcode => true
  | .jtagClamp => true
  | .jtagHighz => true
  | .jtagDmi _ => true
  | .jtagDtmcs => true
  | .jtagMailbox => true
  | .jtagBypass => true
  | .dmHaltRequest hart => hartOk hart
  | .dmResume hart => hartOk hart
  | .dmAbstractCommand hart _ => hartOk hart
  | .dmSystemBusAccess _ _ _ _ _ => true
  | .pcieErrorMessage port _ _ _ => portOk port
  | .channelTrainingTimeout chan => chanOk chan
  | .crdSupplyLoss => true
  | .tileTestDone node _ => nodeOk node

end Sys2Proof
end

