-- ==== Sys2Proof/Config.lean ====
section
/-! DEFINITION. The free values: what the spec leaves open and the machine needs to go on. Each is a constant without a
body, so nothing can evaluate it; each has an entry in the assumption log. -/

namespace Sys2Proof.Machine

/-- R21: whether a node of local row 3, equally near to both port nodes of its die, uses the one of the higher row. -/
opaque Config.portTieHigh : Nat → Bool

/-- R398: the rank of its channel in which a line lies; the manual gives no mapping of local addresses to ranks. -/
opaque Config.lineRank : Nat → Nat
/-- R404: the device of a rank that a correction of a line concerns. -/
opaque Config.lineDevice : Nat → Nat

/-- R351: what a read of mcycle or cycle returns. The model keeps no count of core cycles (timing is out of its scope). -/
opaque Config.coreCycles : Nat → W64
/-- R349: the vector register that a vector operation makes: code, vtype, vl and vstart, register of the group, vector
operands (mask, old destination, sources), integer and FP scalar operands. -/
opaque Config.vecResult : Nat → Nat → Nat × Nat → Nat → List (BitVec 256) → W64 → W64 → BitVec 256
/-- R358: the flags that element `k` of a vector FP operation raises. -/
opaque Config.vecFlags : Nat → Nat → Nat → List (BitVec 256) → W64 → W64 → BitVec 5
/-- R349: the scalar result of a vector operation that has one. -/
opaque Config.vecScalar : Nat → Nat → Nat → List (BitVec 256) → W64 → W64 → W64
/-- R378: the random L1 TLB victim: the model keeps no LFSR, which advances every core cycle. -/
opaque Config.tlbVictim : Nat → Nat

/-- R454: the retry-after time in µs of a BUSY whose time the manual does not state (1 to 65,535). -/
opaque Config.retryAfter : Nat → Nat
/-- R80, Table 3.3: which of a slice's map entries moves first. -/
opaque Config.movePick : Nat → Nat
/-- R224, R227: whether a value of an angle clock that falls between two steps of its register is rounded up. -/
opaque Config.roundUp : Nat → Bool
/-- R166, R206: from which entry on the engine looks for a free command slot or a free vector (any free one serves). -/
opaque Config.freeEntry : Nat → Nat
/-- R168, R186: bytes whose contents the manual leaves undefined (the destination of an aborted request) or to the engine
(a saved context). -/
opaque Config.openByte : Nat → Nat → Byte
/-- R199: the error of the PTM responder's two timestamps, within 4 ns. -/
opaque Config.ptmSkew : Nat → Nat
/-- R317: the 80 bytes (key and tag) of a key wrapped under the wrap key that Selvedge draws at a reset: the count of wrap
keys drawn, the record's first 8 bytes, the key. -/
opaque Config.wrapKey : Nat → Nat → Nat → Nat
/-- R310, R311: the stream that a compress lane writes: true for Zstandard, LEVEL, the data. -/
opaque Config.compress : Bool → Nat → List Nat → List Nat
/-- R310: what decoding a Zstandard stream gives: `none` and a reason (5 FORMAT, 6 CHECKSUM, 7 UNSUPPORTED otherwise), or
the data. -/
opaque Config.zstdData : List Nat → Option (List Nat)
opaque Config.zstdReason : List Nat → Nat
/-- R456: the bandwidth of a memory channel in MB/s, a measurement, at a snapshot. -/
opaque Config.bandwidth : Nat → Nat → Nat
/-- R611: whether a low level of 8 to 10 µs on a reset pin starts a reset. -/
opaque Config.pulseTaken : Nat → Bool
/-- R198: what a read of a root port's own configuration registers, or of a memory window from which no device answers,
returns. -/
opaque Config.pciWord : Nat → W64

end Sys2Proof.Machine
end

