-- ==== Sys2Proof/Machine/RegMap.lean ====
section
/-! DEFINITION. The register map (R7, R29, Tables 1.11 and 1.12): the address of every memory-mapped register of the
spec, the place of every field, its type (Table 0.5) and its reset value, and the lookup of a register by its physical
address. One line per register, written from the register tables of the chapters. A register's address is a `Nat`
(it names a place); its contents are a `BitVec 64`. -/

namespace Sys2Proof.Machine

/-- Field types of Table 0.5 (R8). -/
inductive FTy where
  | ro | rw | wo | w1c | w1s | rc | rwl | rws
  deriving DecidableEq, Repr

/-- The place of a field in a 64-bit register. -/
structure Fld where
  lo : Nat
  wid : Nat
  deriving DecidableEq, Repr

/-- A field of a register with its type and reset value. -/
structure FieldDef where
  fld : Fld
  ty : FTy
  reset : Nat
  deriving DecidableEq, Repr

/-- One register of a block, or an array of it: `n1` instances `s1` bytes apart, each with `n2` instances `s2` bytes
apart. -/
structure RegDef where
  off : Nat
  n1 : Nat
  s1 : Nat
  n2 : Nat
  s2 : Nat
  fields : List FieldDef
  deriving DecidableEq, Repr

/-- Base of subsystem block `b` (Table 1.11). -/
def blockBase (b : Nat) : Nat := 0xE00000000000 + b * 0x1000000
/-- Base of the per-node registers of node `n` (Table 1.11). -/
def nodeBase (n : Nat) : Nat := 0xE10000000000 + n * 0x100000
/-- Base of the doorbell page of function `f` (Table 1.11). -/
def pageBase (f : Nat) : Nat := 0xE20000000000 + f * 0x10000
/-- Base of memory-controller block 0x10 + n (Table 1.12). -/
def mcBase (n : Nat) : Nat := blockBase (0x10 + n)

/-- Table 1.5. -/
def MESH_NODE_INFO (n : Nat) : Nat := nodeBase n + 0x0
def MESH_NODE_INFO_X : Fld := ⟨0, 4⟩
def MESH_NODE_INFO_Y : Fld := ⟨4, 4⟩
def MESH_NODE_INFO_DIE : Fld := ⟨8, 2⟩
def MESH_NODE_INFO_KIND : Fld := ⟨12, 3⟩
def MESH_NODE_INFO_UNIT : Fld := ⟨16, 8⟩
def MESH_NODE_INFO_SPARE : Fld := ⟨24, 1⟩
def MESH_NODE_INFO_HART_VALID : Fld := ⟨25, 1⟩
def MESH_NODE_INFO_HART : Fld := ⟨32, 8⟩
def MESH_NODE_INFO_TSTATE : Fld := ⟨40, 3⟩
/-- Table 2.7. -/
def MESH_FENCE_CTL (n : Nat) : Nat := nodeBase n + 0x8
def MESH_FENCE_CTL_REQ : Fld := ⟨0, 3⟩
/-- Table 2.8. -/
def MESH_FENCE_STAT (n : Nat) : Nat := nodeBase n + 0x10
def MESH_FENCE_STAT_DRAINED : Fld := ⟨0, 1⟩
def MESH_FENCE_STAT_FENCED : Fld := ⟨1, 1⟩
def MESH_FENCE_STAT_RESPONDER : Fld := ⟨2, 1⟩
def MESH_FENCE_STAT_FORCED : Fld := ⟨3, 1⟩
def MESH_FENCE_STAT_OUTSTANDING : Fld := ⟨8, 16⟩
/-- Table 2.9. -/
def MESH_RTR_DEFL (n : Nat) : Nat := nodeBase n + 0x100
def MESH_RTR_DEFL_COUNT : Fld := ⟨0, 64⟩
/-- Table 2.9. -/
def MESH_RTR_INJWAIT (n : Nat) : Nat := nodeBase n + 0x108
def MESH_RTR_INJWAIT_COUNT : Fld := ⟨0, 64⟩
/-- Table 2.9. -/
def MESH_RTR_STARVE (n : Nat) : Nat := nodeBase n + 0x110
def MESH_RTR_STARVE_COUNT : Fld := ⟨0, 64⟩
/-- Table 2.9. -/
def MESH_RTR_EJFULL (n : Nat) : Nat := nodeBase n + 0x118
def MESH_RTR_EJFULL_COUNT : Fld := ⟨0, 64⟩
/-- Table 2.9. -/
def MESH_RTR_FENCED (n : Nat) : Nat := nodeBase n + 0x120
def MESH_RTR_FENCED_COUNT : Fld := ⟨0, 64⟩
/-- Table 2.9. -/
def MESH_RTR_CE (n : Nat) : Nat := nodeBase n + 0x128
def MESH_RTR_CE_COUNT : Fld := ⟨0, 64⟩
/-- Table 2.9. -/
def MESH_RTR_LATE (n : Nat) : Nat := nodeBase n + 0x130
def MESH_RTR_LATE_COUNT : Fld := ⟨0, 64⟩
/-- Table 3.7. -/
def LLC_CFG (n : Nat) : Nat := nodeBase n + 0x200
def LLC_CFG_RSV_WAYS : Fld := ⟨0, 3⟩
def LLC_CFG_NL_PF : Fld := ⟨3, 1⟩
def LLC_CFG_SCRUB : Fld := ⟨8, 8⟩
/-- Table 3.8. -/
def LLC_STAT (n : Nat) : Nat := nodeBase n + 0x208
def LLC_STAT_MAP_ENTRIES : Fld := ⟨0, 13⟩
def LLC_STAT_MOVING : Fld := ⟨16, 13⟩
def LLC_STAT_WIN_LINES : Fld := ⟨32, 14⟩
def LLC_STAT_MEM_TAGS : Fld := ⟨48, 7⟩
/-- Table 3.9. -/
def CORE_PF_CFG (n : Nat) : Nat := nodeBase n + 0x300
def CORE_PF_CFG_TRAIN : Fld := ⟨0, 4⟩
def CORE_PF_CFG_DIST : Fld := ⟨8, 5⟩
/-- Table 3.10. -/
def LLC_HIT (n : Nat) : Nat := nodeBase n + 0x280
def LLC_HIT_COUNT : Fld := ⟨0, 64⟩
/-- Table 3.10. -/
def LLC_MISS (n : Nat) : Nat := nodeBase n + 0x288
def LLC_MISS_COUNT : Fld := ⟨0, 64⟩
/-- Table 3.10. -/
def LLC_CE (n : Nat) : Nat := nodeBase n + 0x290
def LLC_CE_COUNT : Fld := ⟨0, 64⟩
/-- Table 3.10. -/
def LLC_TAG_REBUILD (n : Nat) : Nat := nodeBase n + 0x298
def LLC_TAG_REBUILD_COUNT : Fld := ⟨0, 64⟩
/-- Table 3.10. -/
def LLC_NL_PF_CNT (n : Nat) : Nat := nodeBase n + 0x2A0
def LLC_NL_PF_CNT_COUNT : Fld := ⟨0, 64⟩
/-- Table 3.10. -/
def LLC_TAG_WAIT (n : Nat) : Nat := nodeBase n + 0x2A8
def LLC_TAG_WAIT_COUNT : Fld := ⟨0, 64⟩
/-- Table 3.10. -/
def CORE_L1D_MISS (n : Nat) : Nat := nodeBase n + 0x380
def CORE_L1D_MISS_COUNT : Fld := ⟨0, 64⟩
/-- Table 3.10. -/
def CORE_L2_MISS (n : Nat) : Nat := nodeBase n + 0x388
def CORE_L2_MISS_COUNT : Fld := ⟨0, 64⟩
/-- Table 3.10. -/
def CORE_PF_ISSUED (n : Nat) : Nat := nodeBase n + 0x390
def CORE_PF_ISSUED_COUNT : Fld := ⟨0, 64⟩
/-- Table 3.10. -/
def CORE_PF_HIT (n : Nat) : Nat := nodeBase n + 0x398
def CORE_PF_HIT_COUNT : Fld := ⟨0, 64⟩
/-- Table 3.10. -/
def CORE_STREAM_LINES (n : Nat) : Nat := nodeBase n + 0x3A0
def CORE_STREAM_LINES_COUNT : Fld := ⟨0, 64⟩
/-- Table 3.10. -/
def CORE_CE (n : Nat) : Nat := nodeBase n + 0x3A8
def CORE_CE_COUNT : Fld := ⟨0, 64⟩
/-- Table 4.8. -/
def DIR_STAT (n : Nat) : Nat := nodeBase n + 0x400
def DIR_STAT_ENTRIES : Fld := ⟨0, 16⟩
def DIR_STAT_QUEUED : Fld := ⟨16, 8⟩
def DIR_STAT_GEN_BUSY : Fld := ⟨24, 7⟩
/-- Table 4.9. -/
def DIR_DEAD (n i : Nat) : Nat := nodeBase n + 0x410 + 0x8 * i
def DIR_DEAD_DEAD : Fld := ⟨0, 64⟩
/-- Table 4.10. -/
def DIR_NACK (n : Nat) : Nat := nodeBase n + 0x480
def DIR_NACK_COUNT : Fld := ⟨0, 64⟩
/-- Table 4.10. -/
def DIR_GRANT (n : Nat) : Nat := nodeBase n + 0x488
def DIR_GRANT_COUNT : Fld := ⟨0, 64⟩
/-- Table 4.10. -/
def DIR_GRANT_DROP (n : Nat) : Nat := nodeBase n + 0x490
def DIR_GRANT_DROP_COUNT : Fld := ⟨0, 64⟩
/-- Table 4.10. -/
def DIR_GRANT_LOST (n : Nat) : Nat := nodeBase n + 0x498
def DIR_GRANT_LOST_COUNT : Fld := ⟨0, 64⟩
/-- Table 4.10. -/
def DIR_EVICT_FORCED (n : Nat) : Nat := nodeBase n + 0x4A0
def DIR_EVICT_FORCED_COUNT : Fld := ⟨0, 64⟩
/-- Table 4.10. -/
def DIR_BCAST (n : Nat) : Nat := nodeBase n + 0x4A8
def DIR_BCAST_COUNT : Fld := ⟨0, 64⟩
/-- Table 4.10. -/
def DIR_TMO (n : Nat) : Nat := nodeBase n + 0x4B0
def DIR_TMO_COUNT : Fld := ⟨0, 64⟩
/-- Table 4.10. -/
def DIR_LATE_RSP (n : Nat) : Nat := nodeBase n + 0x4B8
def DIR_LATE_RSP_COUNT : Fld := ⟨0, 64⟩
/-- Table 4.10. -/
def DIR_REBUILD (n : Nat) : Nat := nodeBase n + 0x4C0
def DIR_REBUILD_COUNT : Fld := ⟨0, 64⟩
/-- Table 5.17. -/
def BTN_ACC_CNT (n : Nat) : Nat := nodeBase n + 0x500
def BTN_ACC_CNT_COUNT : Fld := ⟨0, 64⟩
/-- Table 5.17. -/
def BTN_CHAIN (n : Nat) : Nat := nodeBase n + 0x508
def BTN_CHAIN_COUNT : Fld := ⟨0, 64⟩
/-- Table 5.17. -/
def BTN_POISON (n : Nat) : Nat := nodeBase n + 0x510
def BTN_POISON_COUNT : Fld := ⟨0, 64⟩
/-- Table 5.17. -/
def BTN_SPILL (n : Nat) : Nat := nodeBase n + 0x518
def BTN_SPILL_COUNT : Fld := ⟨0, 64⟩
/-- Table 5.17. -/
def BTN_ZERO_CNT (n : Nat) : Nat := nodeBase n + 0x520
def BTN_ZERO_CNT_COUNT : Fld := ⟨0, 64⟩
/-- Table 5.17. -/
def BTN_FAIL (n : Nat) : Nat := nodeBase n + 0x528
def BTN_FAIL_COUNT : Fld := ⟨0, 64⟩
/-- Table 12.9. -/
def CORE_FWD_PARTIAL (n : Nat) : Nat := nodeBase n + 0x600
def CORE_FWD_PARTIAL_COUNT : Fld := ⟨0, 64⟩
/-- Table 12.9. -/
def CORE_MEMORDER_FLUSH (n : Nat) : Nat := nodeBase n + 0x608
def CORE_MEMORDER_FLUSH_COUNT : Fld := ⟨0, 64⟩
/-- Table 12.9. -/
def CORE_BR_MISP (n : Nat) : Nat := nodeBase n + 0x610
def CORE_BR_MISP_COUNT : Fld := ⟨0, 64⟩
/-- Table 12.9. -/
def CORE_BP_FLUSH (n : Nat) : Nat := nodeBase n + 0x618
def CORE_BP_FLUSH_COUNT : Fld := ⟨0, 64⟩
/-- Table 12.9. -/
def CORE_ROB_FULL (n : Nat) : Nat := nodeBase n + 0x620
def CORE_ROB_FULL_COUNT : Fld := ⟨0, 64⟩
/-- Table 12.9. -/
def CORE_LQ_FULL (n : Nat) : Nat := nodeBase n + 0x628
def CORE_LQ_FULL_COUNT : Fld := ⟨0, 64⟩
/-- Table 12.9. -/
def CORE_SQ_FULL (n : Nat) : Nat := nodeBase n + 0x630
def CORE_SQ_FULL_COUNT : Fld := ⟨0, 64⟩
/-- Table 12.9. -/
def CORE_CKPT_FULL (n : Nat) : Nat := nodeBase n + 0x638
def CORE_CKPT_FULL_COUNT : Fld := ⟨0, 64⟩
/-- Table 12.9. -/
def CORE_IO_ACCESS (n : Nat) : Nat := nodeBase n + 0x640
def CORE_IO_ACCESS_COUNT : Fld := ⟨0, 64⟩
/-- Table 12.9. -/
def CORE_DET_SWITCH (n : Nat) : Nat := nodeBase n + 0x648
def CORE_DET_SWITCH_COUNT : Fld := ⟨0, 64⟩
/-- Table 14.12. -/
def CORE_ITLB_MISS (n : Nat) : Nat := nodeBase n + 0x700
def CORE_ITLB_MISS_COUNT : Fld := ⟨0, 64⟩
/-- Table 14.12. -/
def CORE_DTLB_MISS (n : Nat) : Nat := nodeBase n + 0x708
def CORE_DTLB_MISS_COUNT : Fld := ⟨0, 64⟩
/-- Table 14.12. -/
def CORE_L2TLB_MISS (n : Nat) : Nat := nodeBase n + 0x710
def CORE_L2TLB_MISS_COUNT : Fld := ⟨0, 64⟩
/-- Table 14.12. -/
def CORE_WALK_PTE (n : Nat) : Nat := nodeBase n + 0x718
def CORE_WALK_PTE_COUNT : Fld := ⟨0, 64⟩
/-- Table 14.12. -/
def CORE_AD_UPDATE (n : Nat) : Nat := nodeBase n + 0x720
def CORE_AD_UPDATE_COUNT : Fld := ⟨0, 64⟩
/-- Table 14.12. -/
def CORE_WALK_STALE (n : Nat) : Nat := nodeBase n + 0x728
def CORE_WALK_STALE_COUNT : Fld := ⟨0, 64⟩
/-- R489. -/
def SEL_DENY (n : Nat) : Nat := nodeBase n + 0x800
def SEL_DENY_COUNT : Fld := ⟨0, 64⟩
/-- R600. -/
def DBG_CMP (n i : Nat) : Nat := nodeBase n + 0x900 + 0x8 * i
def DBG_CMP_COUNT : Fld := ⟨0, 64⟩
/-- Table 19.11. -/
def PWR_STATE : Nat := blockBase 0x0 + 0x0
def PWR_STATE_STATE : Fld := ⟨0, 2⟩
def PWR_STATE_PREV : Fld := ⟨2, 2⟩
def PWR_STATE_LAST_CAUSE : Fld := ⟨4, 4⟩
/-- Table 19.12. -/
def PWR_WAKE_CFG : Nat := blockBase 0x0 + 0x8
def PWR_WAKE_CFG_IRQ : Fld := ⟨0, 1⟩
def PWR_WAKE_CFG_RTC : Fld := ⟨1, 1⟩
def PWR_WAKE_CFG_TREADLE : Fld := ⟨2, 1⟩
def PWR_WAKE_CFG_LATCH : Fld := ⟨3, 1⟩
/-- Table 19.13. -/
def PWR_RESUME : Nat := blockBase 0x0 + 0x10
def PWR_RESUME_VALID : Fld := ⟨0, 1⟩
def PWR_RESUME_ADDR : Fld := ⟨2, 46⟩
/-- Table 22.10. -/
def PWR_RESET : Nat := blockBase 0x0 + 0x18
def PWR_RESET_KIND : Fld := ⟨0, 2⟩
def PWR_RESET_KEY : Fld := ⟨16, 16⟩
/-- Table 22.11. -/
def PWR_HART_GO : Nat := blockBase 0x0 + 0x20
def PWR_HART_GO_HART : Fld := ⟨0, 8⟩
def PWR_HART_GO_GO : Fld := ⟨8, 1⟩
def PWR_HART_GO_ERR : Fld := ⟨9, 1⟩
def PWR_HART_GO_ADDR : Fld := ⟨18, 46⟩
/-- Table 22.12. -/
def PWR_RSTINFO : Nat := blockBase 0x0 + 0x28
def PWR_RSTINFO_KIND : Fld := ⟨0, 2⟩
def PWR_RSTINFO_SOURCE : Fld := ⟨2, 4⟩
def PWR_RSTINFO_BOOTSEL : Fld := ⟨6, 2⟩
def PWR_RSTINFO_PROF : Fld := ⟨8, 2⟩
def PWR_RSTINFO_IMAGE : Fld := ⟨10, 2⟩
def PWR_RSTINFO_FALLBACK : Fld := ⟨12, 1⟩
def PWR_RSTINFO_TRIAL : Fld := ⟨13, 1⟩
/-- Table 19.14. -/
def TRD_CFG : Nat := blockBase 0x0 + 0x100
def TRD_CFG_MODE : Fld := ⟨0, 2⟩
def TRD_CFG_CODE : Fld := ⟨8, 24⟩
/-- Table 19.15. -/
def TRD_STAT : Nat := blockBase 0x0 + 0x108
def TRD_STAT_CAUSE : Fld := ⟨0, 3⟩
def TRD_STAT_REVERSED : Fld := ⟨3, 1⟩
def TRD_STAT_PAIR_FAULT : Fld := ⟨4, 1⟩
def TRD_STAT_WAKE_FAIL : Fld := ⟨5, 1⟩
def TRD_STAT_SOURCE : Fld := ⟨8, 7⟩
/-- Table 19.16. -/
def TRD_RTC : Nat := blockBase 0x0 + 0x110
def TRD_RTC_COUNT : Fld := ⟨0, 48⟩
/-- Table 19.16. -/
def TRD_ALARM : Nat := blockBase 0x0 + 0x118
def TRD_ALARM_CMP : Fld := ⟨0, 48⟩
def TRD_ALARM_EN : Fld := ⟨48, 1⟩
/-- Table 19.16. -/
def TRD_WAKE_MASK : Nat := blockBase 0x0 + 0x120
def TRD_WAKE_MASK_MASK : Fld := ⟨0, 64⟩
/-- Table 19.17. -/
def TRD_ABORT : Nat := blockBase 0x0 + 0x128
def TRD_ABORT_STEP : Fld := ⟨0, 4⟩
def TRD_ABORT_VALID : Fld := ⟨4, 1⟩
def TRD_ABORT_BLOCK : Fld := ⟨16, 16⟩
def TRD_ABORT_TRANSITION : Fld := ⟨32, 16⟩
/-- Table 19.16. -/
def TRD_TIME_OFS : Nat := blockBase 0x0 + 0x130
def TRD_TIME_OFS_OFS : Fld := ⟨0, 64⟩
/-- Table 19.17. -/
def PWR_RCNT (i : Nat) : Nat := blockBase 0x0 + 0x200 + 0x8 * i
def PWR_RCNT_TRANSITION : Fld := ⟨0, 16⟩
def PWR_RCNT_REFUSER : Fld := ⟨16, 16⟩
def PWR_RCNT_COUNT : Fld := ⟨32, 32⟩
/-- Table 19.17. -/
def PWR_RCNT_OVF : Nat := blockBase 0x0 + 0x300
def PWR_RCNT_OVF_COUNT : Fld := ⟨0, 64⟩
/-- Table 1.13. -/
def DBY_CHIP_ID : Nat := blockBase 0x1 + 0x0
def DBY_CHIP_ID_ID : Fld := ⟨0, 32⟩
def DBY_CHIP_ID_GRADE : Fld := ⟨32, 8⟩
def DBY_CHIP_ID_STEP : Fld := ⟨40, 8⟩
/-- Table 17.16. -/
def DBY_STAT : Nat := blockBase 0x1 + 0x8
def DBY_STAT_QUEUED : Fld := ⟨0, 11⟩
def DBY_STAT_OPS : Fld := ⟨16, 9⟩
def DBY_STAT_CARD_OK : Fld := ⟨32, 1⟩
def DBY_STAT_SAFE_OK : Fld := ⟨33, 1⟩
def DBY_STAT_KEEPER : Fld := ⟨34, 1⟩
def DBY_STAT_IMAGE : Fld := ⟨35, 1⟩
/-- Table 17.17. -/
def DBY_RING_CFG (i : Nat) : Nat := blockBase 0x1 + 0x100 + 0x40 * i
def DBY_RING_CFG_EN : Fld := ⟨0, 1⟩
def DBY_RING_CFG_ERR : Fld := ⟨1, 1⟩
def DBY_RING_CFG_LOST : Fld := ⟨2, 1⟩
def DBY_RING_CFG_LOG : Fld := ⟨4, 4⟩
def DBY_RING_CFG_RLOG : Fld := ⟨8, 4⟩
def DBY_RING_CFG_BASE : Fld := ⟨12, 36⟩
/-- Table 17.18. -/
def DBY_RING_RBASE (i : Nat) : Nat := blockBase 0x1 + 0x108 + 0x40 * i
def DBY_RING_RBASE_ADDR : Fld := ⟨6, 42⟩
/-- Table 17.18. -/
def DBY_RING_CTLA (i : Nat) : Nat := blockBase 0x1 + 0x110 + 0x40 * i
def DBY_RING_CTLA_ADDR : Fld := ⟨6, 42⟩
/-- Table 17.19. -/
def DBY_RING_PROD (i : Nat) : Nat := blockBase 0x1 + 0x118 + 0x40 * i
def DBY_RING_PROD_INDEX : Fld := ⟨0, 32⟩
/-- Table 17.19. -/
def DBY_RING_RCONS (i : Nat) : Nat := blockBase 0x1 + 0x120 + 0x40 * i
def DBY_RING_RCONS_INDEX : Fld := ⟨0, 32⟩
/-- R463. -/
def DBY_CARDS : Nat := blockBase 0x1 + 0x200
def DBY_CARDS_COUNT : Fld := ⟨0, 64⟩
/-- R463. -/
def DBY_BUSY : Nat := blockBase 0x1 + 0x208
def DBY_BUSY_COUNT : Fld := ⟨0, 64⟩
/-- R463. -/
def DBY_REFUSED : Nat := blockBase 0x1 + 0x210
def DBY_REFUSED_COUNT : Fld := ⟨0, 64⟩
/-- R463. -/
def DBY_RESTARTS : Nat := blockBase 0x1 + 0x218
def DBY_RESTARTS_COUNT : Fld := ⟨0, 64⟩
/-- R463. -/
def DBY_RING_STALL : Nat := blockBase 0x1 + 0x220
def DBY_RING_STALL_COUNT : Fld := ⟨0, 64⟩
/-- Table 22.13. -/
def DBY_FLASH_SEL : Nat := blockBase 0x1 + 0x300
def DBY_FLASH_SEL_DEV : Fld := ⟨0, 1⟩
def DBY_FLASH_SEL_BASE : Fld := ⟨22, 10⟩
/-- Table 20.11. -/
def CREEL_CFG : Nat := blockBase 0x2 + 0x0
def CREEL_CFG_BUDGET : Fld := ⟨0, 11⟩
def CREEL_CFG_MAX_RAMPS : Fld := ⟨12, 5⟩
def CREEL_CFG_HOLD_S : Fld := ⟨24, 10⟩
def CREEL_CFG_GAP : Fld := ⟨40, 8⟩
/-- Table 20.12. -/
def CREEL_STAT : Nat := blockBase 0x2 + 0x8
def CREEL_STAT_RESERVED : Fld := ⟨0, 11⟩
def CREEL_STAT_RAMPS : Fld := ⟨16, 5⟩
def CREEL_STAT_SEQ_LINK : Fld := ⟨24, 1⟩
def CREEL_STAT_SAFE_LINK : Fld := ⟨25, 1⟩
def CREEL_STAT_HOLDING : Fld := ⟨26, 1⟩
def CREEL_STAT_CRD_TEMP : Fld := ⟨32, 16⟩
/-- Table 20.13. -/
def CREEL_CH_CFG (i : Nat) : Nat := blockBase 0x2 + 0x1000 + 0x20 * i
def CREEL_CH_CFG_ILIMIT : Fld := ⟨0, 7⟩
def CREEL_CH_CFG_RETRY : Fld := ⟨7, 1⟩
def CREEL_CH_CFG_SLEW : Fld := ⟨8, 8⟩
def CREEL_CH_CFG_RSHUNT : Fld := ⟨16, 8⟩
def CREEL_CH_CFG_SPIN_A : Fld := ⟨24, 7⟩
def CREEL_CH_CFG_SPIN_S : Fld := ⟨32, 8⟩
def CREEL_CH_CFG_RANK : Fld := ⟨40, 4⟩
def CREEL_CH_CFG_OPEN_MA : Fld := ⟨48, 8⟩
/-- Table 20.14. -/
def CREEL_CH_PROT (i : Nat) : Nat := blockBase 0x2 + 0x1008 + 0x20 * i
def CREEL_CH_PROT_SOA_MJ : Fld := ⟨0, 16⟩
def CREEL_CH_PROT_TAU : Fld := ⟨16, 8⟩
def CREEL_CH_PROT_DESAT : Fld := ⟨24, 8⟩
def CREEL_CH_PROT_FAULT_TMR : Fld := ⟨32, 8⟩
/-- Table 20.15. -/
def CREEL_CH_STAT (i : Nat) : Nat := blockBase 0x2 + 0x1010 + 0x20 * i
def CREEL_CH_STAT_STATE : Fld := ⟨0, 3⟩
def CREEL_CH_STAT_FAULT : Fld := ⟨8, 8⟩
def CREEL_CH_STAT_KEYS : Fld := ⟨16, 3⟩
def CREEL_CH_STAT_OPEN_LOAD : Fld := ⟨19, 1⟩
def CREEL_CH_STAT_RETRIES : Fld := ⟨20, 2⟩
def CREEL_CH_STAT_ENERGY : Fld := ⟨24, 7⟩
def CREEL_CH_STAT_VOUT : Fld := ⟨32, 16⟩
def CREEL_CH_STAT_VIN : Fld := ⟨48, 16⟩
/-- section 20.8. -/
def CREEL_CH_CUR (i : Nat) : Nat := blockBase 0x2 + 0x1018 + 0x20 * i
def CREEL_CH_CUR_CURRENT : Fld := ⟨0, 32⟩
/-- Table 20.16. -/
def CREEL_ON : Nat := blockBase 0x2 + 0x100
def CREEL_ON_COUNT : Fld := ⟨0, 64⟩
/-- Table 20.16. -/
def CREEL_FAULTS : Nat := blockBase 0x2 + 0x108
def CREEL_FAULTS_COUNT : Fld := ⟨0, 64⟩
/-- Table 20.16. -/
def CREEL_BUDGET_REFUSE : Nat := blockBase 0x2 + 0x110
def CREEL_BUDGET_REFUSE_COUNT : Fld := ⟨0, 64⟩
/-- Table 20.16. -/
def CREEL_HOLDS : Nat := blockBase 0x2 + 0x118
def CREEL_HOLDS_COUNT : Fld := ⟨0, 64⟩
/-- Table 20.16. -/
def CREEL_RECLAIMED : Nat := blockBase 0x2 + 0x120
def CREEL_RECLAIMED_COUNT : Fld := ⟨0, 64⟩
/-- Table 20.16. -/
def CREEL_HOLD_END : Nat := blockBase 0x2 + 0x128
def CREEL_HOLD_END_COUNT : Fld := ⟨0, 64⟩
/-- Table 20.16. -/
def CREEL_KEY_LOSS : Nat := blockBase 0x2 + 0x130
def CREEL_KEY_LOSS_COUNT : Fld := ⟨0, 64⟩
/-- Table 18.13. -/
def SEL_LOCK : Nat := blockBase 0x3 + 0x0
def SEL_LOCK_ASSIGN : Fld := ⟨0, 1⟩
/-- Table 18.14. -/
def SEL_DRAM_WM : Nat := blockBase 0x3 + 0x8
def SEL_DRAM_WM_WM : Fld := ⟨0, 16⟩
/-- Table 18.14. -/
def SEL_FLASH_WM : Nat := blockBase 0x3 + 0x10
def SEL_FLASH_WM_WM : Fld := ⟨0, 16⟩
/-- Table 18.15. -/
def SEL_LIFE : Nat := blockBase 0x3 + 0x18
def SEL_LIFE_STATE : Fld := ⟨0, 3⟩
def SEL_LIFE_OWNER_SET : Fld := ⟨3, 1⟩
def SEL_LIFE_CAP : Fld := ⟨4, 4⟩
/-- Table 18.16. -/
def SEL_DEBUG : Nat := blockBase 0x3 + 0x20
def SEL_DEBUG_NI_N : Fld := ⟨0, 1⟩
def SEL_DEBUG_INV_N : Fld := ⟨1, 1⟩
def SEL_DEBUG_NI_S : Fld := ⟨2, 1⟩
def SEL_DEBUG_INV_S : Fld := ⟨3, 1⟩
def SEL_DEBUG_EFFECTIVE : Fld := ⟨8, 4⟩
def SEL_DEBUG_LOCK : Fld := ⟨63, 1⟩
/-- Table 18.17. -/
def SEL_BLKWORLD : Nat := blockBase 0x3 + 0x28
def SEL_BLKWORLD_BITS : Fld := ⟨0, 64⟩
/-- Table 18.17. -/
def SEL_PORTWORLD : Nat := blockBase 0x3 + 0x30
def SEL_PORTWORLD_BITS : Fld := ⟨0, 16⟩
/-- Table 18.17. -/
def SEL_FUNCWORLD (i : Nat) : Nat := blockBase 0x3 + 0x1000 + 0x8 * i
def SEL_FUNCWORLD_BITS : Fld := ⟨0, 64⟩
/-- Table 18.17. -/
def SEL_SRCWORLD (i : Nat) : Nat := blockBase 0x3 + 0x1800 + 0x8 * i
def SEL_SRCWORLD_BITS : Fld := ⟨0, 64⟩
/-- Table 18.17. -/
def SEL_SLOTWORLD (i : Nat) : Nat := blockBase 0x3 + 0x1900 + 0x8 * i
def SEL_SLOTWORLD_BITS : Fld := ⟨0, 64⟩
/-- Table 18.18. -/
def SEL_GATE_FAULT (i : Nat) : Nat := blockBase 0x3 + 0x2000 + 0x8 * i
def SEL_GATE_FAULT_REASON : Fld := ⟨0, 4⟩
def SEL_GATE_FAULT_SLOT : Fld := ⟨4, 10⟩
def SEL_GATE_FAULT_TARGET_WORLD : Fld := ⟨14, 1⟩
/-- R489. -/
def SEL_DENY_HOME : Nat := blockBase 0x3 + 0x100
def SEL_DENY_HOME_COUNT : Fld := ⟨0, 64⟩
/-- R489. -/
def SEL_GATE_OK : Nat := blockBase 0x3 + 0x108
def SEL_GATE_OK_COUNT : Fld := ⟨0, 64⟩
/-- R489. -/
def SEL_GATE_REFUSED : Nat := blockBase 0x3 + 0x110
def SEL_GATE_REFUSED_COUNT : Fld := ⟨0, 64⟩
/-- Table 16.3. -/
def HRN_SRC (i : Nat) : Nat := blockBase 0x4 + 0x1000 + 0x8 * i
def HRN_SRC_EN : Fld := ⟨0, 1⟩
def HRN_SRC_TRIG : Fld := ⟨1, 2⟩
def HRN_SRC_IP : Fld := ⟨3, 1⟩
def HRN_SRC_LATCHED : Fld := ⟨4, 1⟩
def HRN_SRC_BADCFG : Fld := ⟨5, 1⟩
def HRN_SRC_WORLD : Fld := ⟨6, 1⟩
def HRN_SRC_HART : Fld := ⟨8, 8⟩
def HRN_SRC_LEVEL : Fld := ⟨16, 2⟩
def HRN_SRC_GUEST : Fld := ⟨18, 3⟩
def HRN_SRC_PRIO : Fld := ⟨24, 5⟩
/-- Table 16.4. -/
def HRN_VEC (i : Nat) : Nat := blockBase 0x4 + 0x10000 + 0x8 * (i - 1024)
def HRN_VEC_VALID : Fld := ⟨0, 1⟩
def HRN_VEC_IP : Fld := ⟨1, 1⟩
def HRN_VEC_WORLD : Fld := ⟨2, 1⟩
def HRN_VEC_HART : Fld := ⟨8, 8⟩
def HRN_VEC_LEVEL : Fld := ⟨16, 2⟩
def HRN_VEC_GUEST : Fld := ⟨18, 3⟩
def HRN_VEC_PRIO : Fld := ⟨24, 5⟩
def HRN_VEC_FUNC : Fld := ⟨32, 14⟩
/-- Table 16.12. -/
def HRN_CLAIMS : Nat := blockBase 0x4 + 0x100
def HRN_CLAIMS_COUNT : Fld := ⟨0, 64⟩
/-- Table 16.12. -/
def HRN_SPURIOUS : Nat := blockBase 0x4 + 0x108
def HRN_SPURIOUS_COUNT : Fld := ⟨0, 64⟩
/-- Table 16.12. -/
def HRN_BAD_COMPLETE : Nat := blockBase 0x4 + 0x110
def HRN_BAD_COMPLETE_COUNT : Fld := ⟨0, 64⟩
/-- Table 16.12. -/
def HRN_VEC_DROP : Nat := blockBase 0x4 + 0x118
def HRN_VEC_DROP_COUNT : Fld := ⟨0, 64⟩
/-- Table 16.12. -/
def HRN_UNDELIVERED : Nat := blockBase 0x4 + 0x120
def HRN_UNDELIVERED_COUNT : Fld := ⟨0, 64⟩
/-- Table 16.12. -/
def HRN_CHAINS : Nat := blockBase 0x4 + 0x128
def HRN_CHAINS_COUNT : Fld := ⟨0, 64⟩
/-- Table 16.7. -/
def HRN_THRESH (i j : Nat) : Nat := blockBase 0x4 + 0x100000 + 0x10000 * i + 0x1000 * j
def HRN_THRESH_THRESH : Fld := ⟨0, 5⟩
/-- Table 16.7. -/
def HRN_CLAIM (i j : Nat) : Nat := blockBase 0x4 + 0x100008 + 0x10000 * i + 0x1000 * j
def HRN_CLAIM_ANSWER : Fld := ⟨0, 22⟩
/-- Table 16.7. -/
def HRN_COMPLETE (i j : Nat) : Nat := blockBase 0x4 + 0x100010 + 0x10000 * i + 0x1000 * j
def HRN_COMPLETE_ID : Fld := ⟨0, 16⟩
/-- Table 16.7. -/
def HRN_CHAIN (i j : Nat) : Nat := blockBase 0x4 + 0x100018 + 0x10000 * i + 0x1000 * j
def HRN_CHAIN_ANSWER : Fld := ⟨0, 22⟩
/-- Table 16.7. -/
def HRN_ISRV (i j : Nat) : Nat := blockBase 0x4 + 0x100020 + 0x10000 * i + 0x1000 * j
def HRN_ISRV_INSERVICE : Fld := ⟨1, 31⟩
/-- Table 16.7. -/
def HRN_MSIP (i j : Nat) : Nat := blockBase 0x4 + 0x100040 + 0x10000 * i + 0x1000 * j
def HRN_MSIP_MSIP : Fld := ⟨0, 1⟩
/-- Table 16.7. -/
def HRN_TIMECMP (i j : Nat) : Nat := blockBase 0x4 + 0x100048 + 0x10000 * i + 0x1000 * j
def HRN_TIMECMP_CMP : Fld := ⟨0, 64⟩
/-- Table 6.20. -/
def LOOM_CAP : Nat := blockBase 0x5 + 0x0
def LOOM_CAP_FUNCS : Fld := ⟨0, 14⟩
def LOOM_CAP_QP_POOL : Fld := ⟨16, 17⟩
def LOOM_CAP_VEC_POOL : Fld := ⟨33, 16⟩
def LOOM_CAP_RESIDENT : Fld := ⟨49, 11⟩
/-- Table 6.21. -/
def LOOM_STAT : Nat := blockBase 0x5 + 0x8
def LOOM_STAT_QP_FREE : Fld := ⟨0, 17⟩
def LOOM_STAT_VEC_FREE : Fld := ⟨17, 16⟩
def LOOM_STAT_RESIDENT : Fld := ⟨33, 11⟩
def LOOM_STAT_PARKED : Fld := ⟨44, 14⟩
/-- Table 6.22. -/
def LOOM_INFLIGHT : Nat := blockBase 0x5 + 0x10
def LOOM_INFLIGHT_DRIVE_CMDS : Fld := ⟨0, 17⟩
/-- Table 6.23. -/
def LOOM_CFG : Nat := blockBase 0x5 + 0x18
def LOOM_CFG_QUANTUM : Fld := ⟨0, 8⟩
def LOOM_CFG_BURST : Fld := ⟨8, 4⟩
/-- Table 6.24. -/
def LOOM_DB : Nat := blockBase 0x5 + 0x100
def LOOM_DB_COUNT : Fld := ⟨0, 64⟩
/-- Table 6.24. -/
def LOOM_DB_DROP : Nat := blockBase 0x5 + 0x108
def LOOM_DB_DROP_COUNT : Fld := ⟨0, 64⟩
/-- Table 6.24. -/
def LOOM_FROZEN_DB : Nat := blockBase 0x5 + 0x110
def LOOM_FROZEN_DB_COUNT : Fld := ⟨0, 64⟩
/-- Table 6.24. -/
def LOOM_FETCH_CNT : Nat := blockBase 0x5 + 0x118
def LOOM_FETCH_CNT_COUNT : Fld := ⟨0, 64⟩
/-- Table 6.24. -/
def LOOM_CQE : Nat := blockBase 0x5 + 0x120
def LOOM_CQE_COUNT : Fld := ⟨0, 64⟩
/-- Table 6.24. -/
def LOOM_CTX_LOAD : Nat := blockBase 0x5 + 0x128
def LOOM_CTX_LOAD_COUNT : Fld := ⟨0, 64⟩
/-- Table 6.24. -/
def LOOM_CTX_EVICT : Nat := blockBase 0x5 + 0x130
def LOOM_CTX_EVICT_COUNT : Fld := ⟨0, 64⟩
/-- Table 6.24. -/
def LOOM_PARK : Nat := blockBase 0x5 + 0x138
def LOOM_PARK_COUNT : Fld := ⟨0, 64⟩
/-- Table 6.24. -/
def LOOM_QERR : Nat := blockBase 0x5 + 0x140
def LOOM_QERR_COUNT : Fld := ⟨0, 64⟩
/-- Table 6.24. -/
def LOOM_REVOKED_DMA : Nat := blockBase 0x5 + 0x148
def LOOM_REVOKED_DMA_COUNT : Fld := ⟨0, 64⟩
/-- Table 7.13. -/
def DQ_CFG : Nat := blockBase 0x5 + 0x400000
def DQ_CFG_EN : Fld := ⟨0, 1⟩
def DQ_CFG_RING_BASE : Fld := ⟨30, 18⟩
/-- Table 7.14. -/
def DQ_CTRL_A (i : Nat) : Nat := blockBase 0x5 + 0x401000 + 0x10 * i
def DQ_CTRL_A_EN : Fld := ⟨0, 1⟩
def DQ_CTRL_A_STATE : Fld := ⟨1, 2⟩
def DQ_CTRL_A_PORT : Fld := ⟨3, 4⟩
def DQ_CTRL_A_SUBFN : Fld := ⟨7, 3⟩
def DQ_CTRL_A_RID : Fld := ⟨16, 16⟩
def DQ_CTRL_A_LBA_SHIFT : Fld := ⟨32, 4⟩
def DQ_CTRL_A_DSTRD : Fld := ⟨36, 4⟩
def DQ_CTRL_A_TMO : Fld := ⟨40, 8⟩
/-- Table 7.15. -/
def DQ_CTRL_B (i : Nat) : Nat := blockBase 0x5 + 0x401008 + 0x10 * i
def DQ_CTRL_B_DB_BASE : Fld := ⟨12, 52⟩
/-- Table 7.16. -/
def DQ_QP (i : Nat) : Nat := blockBase 0x5 + 0x410000 + 0x8 * i
def DQ_QP_CTRL : Fld := ⟨0, 10⟩
def DQ_QP_EN : Fld := ⟨10, 1⟩
def DQ_QP_ERR : Fld := ⟨11, 1⟩
def DQ_QP_QID : Fld := ⟨16, 16⟩
def DQ_QP_LOG_DEPTH : Fld := ⟨32, 4⟩
def DQ_QP_OCC : Fld := ⟨40, 10⟩
/-- Table 7.17. -/
def DQ_CMDS : Nat := blockBase 0x5 + 0x400100
def DQ_CMDS_COUNT : Fld := ⟨0, 64⟩
/-- Table 7.17. -/
def DQ_TMO : Nat := blockBase 0x5 + 0x400108
def DQ_TMO_COUNT : Fld := ⟨0, 64⟩
/-- Table 7.17. -/
def DQ_LATE_CPL : Nat := blockBase 0x5 + 0x400110
def DQ_LATE_CPL_COUNT : Fld := ⟨0, 64⟩
/-- Table 5.14. -/
def BTN_CAP : Nat := blockBase 0x5 + 0x800000
def BTN_CAP_WINDOWS : Fld := ⟨0, 13⟩
def BTN_CAP_SLOTS : Fld := ⟨16, 10⟩
def BTN_CAP_MAX_POS : Fld := ⟨32, 6⟩
def BTN_CAP_MAX_ENTRIES : Fld := ⟨40, 4⟩
def BTN_CAP_MAX_LINES : Fld := ⟨48, 10⟩
/-- Table 5.15. -/
def BTN_STAT : Nat := blockBase 0x5 + 0x800008
def BTN_STAT_SLOTS_USED : Fld := ⟨0, 10⟩
def BTN_STAT_FANOUT_USED : Fld := ⟨16, 13⟩
/-- Table 5.16. -/
def BTN_WIN_STATE (i : Nat) : Nat := blockBase 0x5 + 0x810000 + 0x8 * i
def BTN_WIN_STATE_STATE : Fld := ⟨0, 2⟩
def BTN_WIN_STATE_WORLD : Fld := ⟨2, 1⟩
def BTN_WIN_STATE_FUNC : Fld := ⟨4, 14⟩
def BTN_WIN_STATE_SEQ : Fld := ⟨18, 16⟩
def BTN_WIN_STATE_LAST_FLAGS : Fld := ⟨34, 16⟩
/-- Table 5.17. -/
def BTN_LINES_IN : Nat := blockBase 0x5 + 0x800100
def BTN_LINES_IN_COUNT : Fld := ⟨0, 64⟩
/-- Table 5.17. -/
def BTN_REJECT : Nat := blockBase 0x5 + 0x800108
def BTN_REJECT_COUNT : Fld := ⟨0, 64⟩
/-- Table 5.17. -/
def BTN_DUP : Nat := blockBase 0x5 + 0x800110
def BTN_DUP_COUNT : Fld := ⟨0, 64⟩
/-- Table 5.17. -/
def BTN_OPENS : Nat := blockBase 0x5 + 0x800118
def BTN_OPENS_COUNT : Fld := ⟨0, 64⟩
/-- Table 5.17. -/
def BTN_BACKPRESSURE : Nat := blockBase 0x5 + 0x800120
def BTN_BACKPRESSURE_COUNT : Fld := ⟨0, 64⟩
/-- Table 8.10. -/
def PICK_CAP : Nat := blockBase 0x6 + 0x0
def PICK_CAP_CLOCKS : Fld := ⟨0, 11⟩
def PICK_CAP_HEAP : Fld := ⟨16, 14⟩
def PICK_CAP_GROUPS : Fld := ⟨32, 10⟩
def PICK_CAP_MEMBERS : Fld := ⟨48, 6⟩
/-- Table 8.11. -/
def PICK_CFG : Nat := blockBase 0x6 + 0x8
def PICK_CFG_SETUP : Fld := ⟨0, 8⟩
def PICK_CFG_GATHER : Fld := ⟨8, 8⟩
/-- Table 8.12. -/
def PICK_STAT : Nat := blockBase 0x6 + 0x10
def PICK_STAT_HEAP_USED : Fld := ⟨0, 14⟩
def PICK_STAT_GROUPS_OPEN : Fld := ⟨16, 10⟩
def PICK_STAT_LOCKED : Fld := ⟨32, 11⟩
def PICK_STAT_DEGRADED : Fld := ⟨48, 11⟩
/-- Table 8.13. -/
def PICK_CLK_CFG (i : Nat) : Nat := blockBase 0x6 + 0x10000 + 0x20 * i
def PICK_CLK_CFG_MODE : Fld := ⟨0, 2⟩
def PICK_CLK_CFG_FILT : Fld := ⟨4, 4⟩
def PICK_CLK_CFG_COAST_REVS : Fld := ⟨8, 8⟩
def PICK_CLK_CFG_TOL : Fld := ⟨16, 16⟩
def PICK_CLK_CFG_LEAD : Fld := ⟨32, 16⟩
def PICK_CLK_CFG_FIXED : Fld := ⟨48, 16⟩
/-- Table 8.14. -/
def PICK_CLK_NOM (i : Nat) : Nat := blockBase 0x6 + 0x10008 + 0x20 * i
def PICK_CLK_NOM_NOM_PERIOD : Fld := ⟨0, 32⟩
def PICK_CLK_NOM_ZONES : Fld := ⟨32, 7⟩
/-- Table 8.15. -/
def PICK_CLK_STAT (i : Nat) : Nat := blockBase 0x6 + 0x10010 + 0x20 * i
def PICK_CLK_STAT_PERIOD : Fld := ⟨0, 40⟩
def PICK_CLK_STAT_STATE : Fld := ⟨40, 3⟩
def PICK_CLK_STAT_RESID : Fld := ⟨48, 16⟩
/-- section 8.9. -/
def PICK_CLK_IDX (i : Nat) : Nat := blockBase 0x6 + 0x10018 + 0x20 * i
def PICK_CLK_IDX_IDX : Fld := ⟨0, 64⟩
/-- Table 8.16. -/
def PICK_ALARM (i : Nat) : Nat := blockBase 0x6 + 0x20000 + 0x8 * i
def PICK_ALARM_DRIVE : Fld := ⟨0, 10⟩
def PICK_ALARM_ARM : Fld := ⟨10, 1⟩
def PICK_ALARM_FIRED : Fld := ⟨11, 1⟩
def PICK_ALARM_NOCLK : Fld := ⟨12, 1⟩
def PICK_ALARM_BADVEC : Fld := ⟨13, 1⟩
def PICK_ALARM_ANGLE : Fld := ⟨16, 16⟩
def PICK_ALARM_VEC : Fld := ⟨32, 16⟩
def PICK_ALARM_ADV : Fld := ⟨48, 16⟩
/-- Table 8.17. -/
def PICK_MSG : Nat := blockBase 0x6 + 0x100
def PICK_MSG_COUNT : Fld := ⟨0, 64⟩
/-- Table 8.17. -/
def PICK_MSG_DROP : Nat := blockBase 0x6 + 0x108
def PICK_MSG_DROP_COUNT : Fld := ⟨0, 64⟩
/-- Table 8.17. -/
def PICK_RELEASED : Nat := blockBase 0x6 + 0x110
def PICK_RELEASED_COUNT : Fld := ⟨0, 64⟩
/-- Table 8.17. -/
def PICK_UNTIMED : Nat := blockBase 0x6 + 0x118
def PICK_UNTIMED_COUNT : Fld := ⟨0, 64⟩
/-- Table 8.17. -/
def PICK_LATEST : Nat := blockBase 0x6 + 0x120
def PICK_LATEST_COUNT : Fld := ⟨0, 64⟩
/-- Table 8.17. -/
def PICK_CROWD : Nat := blockBase 0x6 + 0x128
def PICK_CROWD_COUNT : Fld := ⟨0, 64⟩
/-- Table 8.17. -/
def PICK_PAIR_WAIT : Nat := blockBase 0x6 + 0x130
def PICK_PAIR_WAIT_COUNT : Fld := ⟨0, 64⟩
/-- Table 8.17. -/
def PICK_HEAP_FULL : Nat := blockBase 0x6 + 0x138
def PICK_HEAP_FULL_COUNT : Fld := ⟨0, 64⟩
/-- Table 8.17. -/
def PICK_GRP_FULL : Nat := blockBase 0x6 + 0x140
def PICK_GRP_FULL_COUNT : Fld := ⟨0, 64⟩
/-- Table 8.17. -/
def PICK_GRP_SHORT : Nat := blockBase 0x6 + 0x148
def PICK_GRP_SHORT_COUNT : Fld := ⟨0, 64⟩
/-- Table 8.17. -/
def PICK_GRP_LATE : Nat := blockBase 0x6 + 0x150
def PICK_GRP_LATE_COUNT : Fld := ⟨0, 64⟩
/-- Table 8.17. -/
def PICK_GRP_MISMATCH : Nat := blockBase 0x6 + 0x158
def PICK_GRP_MISMATCH_COUNT : Fld := ⟨0, 64⟩
/-- Table 9.10. -/
def SHU_MODE : Nat := blockBase 0x7 + 0x0
def SHU_MODE_MODE : Fld := ⟨0, 2⟩
/-- Table 9.11. -/
def SHU_PARSE_CFG : Nat := blockBase 0x7 + 0x8
def SHU_PARSE_CFG_VXLAN_EN : Fld := ⟨0, 1⟩
def SHU_PARSE_CFG_EXQ_DROP : Fld := ⟨1, 7⟩
def SHU_PARSE_CFG_VXLAN_PORT : Fld := ⟨16, 16⟩
/-- Table 9.12. -/
def SHU_LANE (i : Nat) : Nat := blockBase 0x7 + 0x800 + 0x8 * i
def SHU_LANE_TX_INV : Fld := ⟨0, 1⟩
def SHU_LANE_RX_INV : Fld := ⟨1, 1⟩
def SHU_LANE_LANE_POS : Fld := ⟨4, 2⟩
def SHU_LANE_SIG : Fld := ⟨6, 1⟩
def SHU_LANE_ALIGNED : Fld := ⟨7, 1⟩
/-- Table 9.13. -/
def SHU_PORT_CFG (i : Nat) : Nat := blockBase 0x7 + 0x1000 + 0x100 * i
def SHU_PORT_CFG_EN : Fld := ⟨0, 1⟩
def SHU_PORT_CFG_FC : Fld := ⟨1, 2⟩
def SHU_PORT_CFG_PROMISC : Fld := ⟨3, 1⟩
def SHU_PORT_CFG_MCAST : Fld := ⟨4, 1⟩
def SHU_PORT_CFG_DEF_PRIO : Fld := ⟨5, 3⟩
def SHU_PORT_CFG_CT : Fld := ⟨8, 8⟩
def SHU_PORT_CFG_MAX_FRAME : Fld := ⟨16, 14⟩
def SHU_PORT_CFG_LOSSLESS : Fld := ⟨32, 8⟩
def SHU_PORT_CFG_PAUSE_WD : Fld := ⟨40, 8⟩
/-- Table 9.14. -/
def SHU_PORT_STAT (i : Nat) : Nat := blockBase 0x7 + 0x1008 + 0x100 * i
def SHU_PORT_STAT_LINK : Fld := ⟨0, 1⟩
def SHU_PORT_STAT_LFAULT : Fld := ⟨1, 1⟩
def SHU_PORT_STAT_RFAULT : Fld := ⟨2, 1⟩
def SHU_PORT_STAT_PAUSED : Fld := ⟨8, 8⟩
def SHU_PORT_STAT_XOFF_SENT : Fld := ⟨16, 8⟩
def SHU_PORT_STAT_RX_OCC : Fld := ⟨24, 16⟩
/-- Table 9.15. -/
def SHU_PORT_MAC (i : Nat) : Nat := blockBase 0x7 + 0x1010 + 0x100 * i
def SHU_PORT_MAC_ADDR : Fld := ⟨0, 48⟩
/-- Table 9.16. -/
def SHU_PFC_THR (i j : Nat) : Nat := blockBase 0x7 + 0x1040 + 0x100 * i + 0x8 * j
def SHU_PFC_THR_XOFF : Fld := ⟨0, 16⟩
def SHU_PFC_THR_XON : Fld := ⟨16, 16⟩
/-- Table 9.17. -/
def SHU_EXQ_BASE (i : Nat) : Nat := blockBase 0x7 + 0x1080 + 0x100 * i
def SHU_EXQ_BASE_LOG : Fld := ⟨0, 4⟩
def SHU_EXQ_BASE_EN : Fld := ⟨4, 1⟩
def SHU_EXQ_BASE_BASE : Fld := ⟨12, 52⟩
/-- Table 9.18. -/
def SHU_EXQ_IDX (i : Nat) : Nat := blockBase 0x7 + 0x1088 + 0x100 * i
def SHU_EXQ_IDX_HEAD : Fld := ⟨0, 13⟩
def SHU_EXQ_IDX_TAIL : Fld := ⟨16, 13⟩
/-- Table 9.17. -/
def SHU_RAWQ_BASE (i : Nat) : Nat := blockBase 0x7 + 0x1090 + 0x100 * i
def SHU_RAWQ_BASE_LOG : Fld := ⟨0, 4⟩
def SHU_RAWQ_BASE_EN : Fld := ⟨4, 1⟩
def SHU_RAWQ_BASE_BASE : Fld := ⟨12, 52⟩
/-- Table 9.18. -/
def SHU_RAWQ_IDX (i : Nat) : Nat := blockBase 0x7 + 0x1098 + 0x100 * i
def SHU_RAWQ_IDX_HEAD : Fld := ⟨0, 13⟩
def SHU_RAWQ_IDX_TAIL : Fld := ⟨16, 13⟩
/-- Table 9.19. -/
def SHU_RX_FRAMES (i : Nat) : Nat := blockBase 0x7 + 0x2000 + 0x100 * i
def SHU_RX_FRAMES_COUNT : Fld := ⟨0, 64⟩
/-- Table 9.19. -/
def SHU_TX_FRAMES (i : Nat) : Nat := blockBase 0x7 + 0x2008 + 0x100 * i
def SHU_TX_FRAMES_COUNT : Fld := ⟨0, 64⟩
/-- Table 9.19. -/
def SHU_PAUSE_RX (i : Nat) : Nat := blockBase 0x7 + 0x2010 + 0x100 * i
def SHU_PAUSE_RX_COUNT : Fld := ⟨0, 64⟩
/-- Table 9.19. -/
def SHU_PAUSE_TX (i : Nat) : Nat := blockBase 0x7 + 0x2018 + 0x100 * i
def SHU_PAUSE_TX_COUNT : Fld := ⟨0, 64⟩
/-- Table 9.19. -/
def SHU_TX_UNDERRUN (i : Nat) : Nat := blockBase 0x7 + 0x2020 + 0x100 * i
def SHU_TX_UNDERRUN_COUNT : Fld := ⟨0, 64⟩
/-- Table 9.19. -/
def SHU_TX_POISON (i : Nat) : Nat := blockBase 0x7 + 0x2028 + 0x100 * i
def SHU_TX_POISON_COUNT : Fld := ⟨0, 64⟩
/-- Table 9.19. -/
def SHU_FEC_CE (i : Nat) : Nat := blockBase 0x7 + 0x2030 + 0x100 * i
def SHU_FEC_CE_COUNT : Fld := ⟨0, 64⟩
/-- Table 9.19. -/
def SHU_FEC_UCE (i : Nat) : Nat := blockBase 0x7 + 0x2038 + 0x100 * i
def SHU_FEC_UCE_COUNT : Fld := ⟨0, 64⟩
/-- Table 9.19. -/
def SHU_PAUSE_WD (i : Nat) : Nat := blockBase 0x7 + 0x2040 + 0x100 * i
def SHU_PAUSE_WD_COUNT : Fld := ⟨0, 64⟩
/-- Table 9.19. -/
def SHU_LINK_FAIL (i : Nat) : Nat := blockBase 0x7 + 0x2048 + 0x100 * i
def SHU_LINK_FAIL_COUNT : Fld := ⟨0, 64⟩
/-- Table 9.19. -/
def SHU_RAW_BAD (i : Nat) : Nat := blockBase 0x7 + 0x2050 + 0x100 * i
def SHU_RAW_BAD_COUNT : Fld := ⟨0, 64⟩
/-- R284. -/
def SHU_RSN (i j : Nat) : Nat := blockBase 0x7 + 0x3000 + 0x100 * i + 0x8 * j
def SHU_RSN_COUNT : Fld := ⟨0, 64⟩
/-- Table 10.16. -/
def SHU_QP_CMD : Nat := blockBase 0x7 + 0x4000
def SHU_QP_CMD_OP : Fld := ⟨0, 4⟩
def SHU_QP_CMD_BUSY : Fld := ⟨4, 1⟩
def SHU_QP_CMD_STATUS : Fld := ⟨8, 8⟩
def SHU_QP_CMD_ID : Fld := ⟨16, 24⟩
/-- section 10.8. -/
def SHU_QP_ARG : Nat := blockBase 0x7 + 0x4008
def SHU_QP_ARG_ADDR : Fld := ⟨0, 64⟩
/-- Table 10.17. -/
def SHU_QPC_BASE : Nat := blockBase 0x7 + 0x4010
def SHU_QPC_BASE_BASE : Fld := ⟨21, 27⟩
/-- Table 10.17. -/
def SHU_MR_BASE : Nat := blockBase 0x7 + 0x4018
def SHU_MR_BASE_BASE : Fld := ⟨21, 27⟩
/-- Table 10.18. -/
def SHU_XP_STAT : Nat := blockBase 0x7 + 0x4020
def SHU_XP_STAT_SLOTS_FREE : Fld := ⟨0, 15⟩
def SHU_XP_STAT_CACHED : Fld := ⟨16, 13⟩
/-- R304. -/
def SHU_TRN (i : Nat) : Nat := blockBase 0x7 + 0x4100 + 0x8 * i
def SHU_TRN_COUNT : Fld := ⟨0, 64⟩
/-- R304. -/
def SHU_CTX_MISS : Nat := blockBase 0x7 + 0x4200
def SHU_CTX_MISS_COUNT : Fld := ⟨0, 64⟩
/-- R304. -/
def SHU_RETX : Nat := blockBase 0x7 + 0x4208
def SHU_RETX_COUNT : Fld := ⟨0, 64⟩
/-- R304. -/
def SHU_CNP_TX : Nat := blockBase 0x7 + 0x4210
def SHU_CNP_TX_COUNT : Fld := ⟨0, 64⟩
/-- Table 11.9. -/
def XF_CAP : Nat := blockBase 0x8 + 0x0
def XF_CAP_SLOTS : Fld := ⟨0, 14⟩
def XF_CAP_CACHE : Fld := ⟨16, 10⟩
def XF_CAP_CIPHER : Fld := ⟨32, 4⟩
def XF_CAP_HASH : Fld := ⟨36, 4⟩
def XF_CAP_CRC : Fld := ⟨40, 4⟩
def XF_CAP_COMP : Fld := ⟨44, 4⟩
def XF_CAP_DECOMP : Fld := ⟨48, 4⟩
/-- Table 11.10. -/
def XF_CFG : Nat := blockBase 0x8 + 0x8
def XF_CFG_KEY_BASE : Fld := ⟨20, 28⟩
/-- Table 11.11. -/
def XF_STAT : Nat := blockBase 0x8 + 0x10
def XF_STAT_CACHED : Fld := ⟨0, 10⟩
def XF_STAT_QUEUED : Fld := ⟨16, 16⟩
/-- Table 11.12. -/
def XF_SLOT (i : Nat) : Nat := blockBase 0x8 + 0x10000 + 0x8 * i
def XF_SLOT_TYPE : Fld := ⟨0, 2⟩
def XF_SLOT_WORLD : Fld := ⟨2, 1⟩
def XF_SLOT_FUNC : Fld := ⟨4, 14⟩
def XF_SLOT_GEN : Fld := ⟨32, 16⟩
/-- Table 11.13. -/
def XF_REQ : Nat := blockBase 0x8 + 0x100
def XF_REQ_COUNT : Fld := ⟨0, 64⟩
/-- Table 11.13. -/
def XF_BYTES_IN : Nat := blockBase 0x8 + 0x108
def XF_BYTES_IN_COUNT : Fld := ⟨0, 64⟩
/-- Table 11.13. -/
def XF_BYTES_OUT : Nat := blockBase 0x8 + 0x110
def XF_BYTES_OUT_COUNT : Fld := ⟨0, 64⟩
/-- Table 11.13. -/
def XF_KEY_MISS : Nat := blockBase 0x8 + 0x118
def XF_KEY_MISS_COUNT : Fld := ⟨0, 64⟩
/-- Table 11.13. -/
def XF_TAG_FAIL : Nat := blockBase 0x8 + 0x120
def XF_TAG_FAIL_COUNT : Fld := ⟨0, 64⟩
/-- Table 11.13. -/
def XF_FORMAT_FAIL : Nat := blockBase 0x8 + 0x128
def XF_FORMAT_FAIL_COUNT : Fld := ⟨0, 64⟩
/-- Table 11.13. -/
def XF_OUT_FULL : Nat := blockBase 0x8 + 0x130
def XF_OUT_FULL_COUNT : Fld := ⟨0, 64⟩
/-- Table 7.10. -/
def PE_PORT_CFG (i : Nat) : Nat := blockBase 0x9 + 0x1000 + 0x40 * i
def PE_PORT_CFG_BIF : Fld := ⟨0, 2⟩
def PE_PORT_CFG_PTM : Fld := ⟨2, 1⟩
def PE_PORT_CFG_ECRC : Fld := ⟨3, 1⟩
def PE_PORT_CFG_PHYS : Fld := ⟨4, 1⟩
def PE_PORT_CFG_FEED : Fld := ⟨8, 5⟩
/-- Table 7.11. -/
def PE_PORT_PHYS (i : Nat) : Nat := blockBase 0x9 + 0x1008 + 0x40 * i
def PE_PORT_PHYS_BASE : Fld := ⟨0, 28⟩
def PE_PORT_PHYS_LIMIT : Fld := ⟨32, 28⟩
/-- Table 7.12. -/
def PE_PORT_STAT (i : Nat) : Nat := blockBase 0x9 + 0x1010 + 0x40 * i
def PE_PORT_STAT_LINK_UP : Fld := ⟨0, 1⟩
def PE_PORT_STAT_EXPECT_DOWN : Fld := ⟨1, 1⟩
def PE_PORT_STAT_CONTAINED : Fld := ⟨2, 1⟩
def PE_PORT_STAT_SPEED : Fld := ⟨8, 3⟩
def PE_PORT_STAT_CMDS : Fld := ⟨12, 17⟩
/-- Table 7.17. -/
def PE_HANDLE_REJECT : Nat := blockBase 0x9 + 0x100
def PE_HANDLE_REJECT_COUNT : Fld := ⟨0, 64⟩
/-- Table 7.17. -/
def PE_DMA_FAULT : Nat := blockBase 0x9 + 0x108
def PE_DMA_FAULT_COUNT : Fld := ⟨0, 64⟩
/-- Table 7.17. -/
def PE_VDM_DROP : Nat := blockBase 0x9 + 0x110
def PE_VDM_DROP_COUNT : Fld := ⟨0, 64⟩
/-- Table 7.17. -/
def PE_LINK_FAIL : Nat := blockBase 0x9 + 0x118
def PE_LINK_FAIL_COUNT : Fld := ⟨0, 64⟩
/-- Table 14.10. -/
def PE_IOTLB_INV (i : Nat) : Nat := blockBase 0x9 + 0x2000 + 0x10 * i
def PE_IOTLB_INV_GO : Fld := ⟨0, 1⟩
def PE_IOTLB_INV_SCOPE : Fld := ⟨1, 2⟩
def PE_IOTLB_INV_ERR : Fld := ⟨3, 1⟩
def PE_IOTLB_INV_FUNC : Fld := ⟨4, 14⟩
/-- Table 14.11. -/
def PE_IOTLB_INV_ADDR (i : Nat) : Nat := blockBase 0x9 + 0x2008 + 0x10 * i
def PE_IOTLB_INV_ADDR_PAGE : Fld := ⟨12, 52⟩
/-- Table 14.12. -/
def PE_IOTLB_MISS : Nat := blockBase 0x9 + 0x2100
def PE_IOTLB_MISS_COUNT : Fld := ⟨0, 64⟩
/-- Table 14.12. -/
def PE_IOTLB_PTE : Nat := blockBase 0x9 + 0x2108
def PE_IOTLB_PTE_COUNT : Fld := ⟨0, 64⟩
/-- Table 14.12. -/
def PE_IOTLB_FAULT : Nat := blockBase 0x9 + 0x2110
def PE_IOTLB_FAULT_COUNT : Fld := ⟨0, 64⟩
/-- Table 14.12. -/
def PE_IOTLB_INVCNT : Nat := blockBase 0x9 + 0x2118
def PE_IOTLB_INVCNT_COUNT : Fld := ⟨0, 64⟩
/-- Table 15.7. -/
def MC_CFG (c : Nat) : Nat := mcBase c + 0x0
def MC_CFG_POP : Fld := ⟨0, 1⟩
def MC_CFG_MIRROR : Fld := ⟨1, 1⟩
def MC_CFG_RETIRED : Fld := ⟨2, 1⟩
def MC_CFG_FORCED : Fld := ⟨3, 1⟩
def MC_CFG_RANKS : Fld := ⟨8, 4⟩
def MC_CFG_SPARE : Fld := ⟨12, 4⟩
def MC_CFG_PD_IDLE : Fld := ⟨16, 13⟩
def MC_CFG_SPEED : Fld := ⟨32, 8⟩
def MC_CFG_CAP : Fld := ⟨40, 10⟩
/-- Table 15.8. -/
def MC_STAT (c : Nat) : Nat := mcBase c + 0x8
def MC_STAT_ZF_DONE : Fld := ⟨0, 1⟩
def MC_STAT_COPYING : Fld := ⟨1, 1⟩
def MC_STAT_COPY_PCT : Fld := ⟨8, 8⟩
def MC_STAT_FAILED_RANK : Fld := ⟨16, 4⟩
/-- Table 15.9. -/
def MC_SCRUB (c : Nat) : Nat := mcBase c + 0x10
def MC_SCRUB_PERIOD : Fld := ⟨0, 8⟩
def MC_SCRUB_ECS_H : Fld := ⟨8, 8⟩
def MC_SCRUB_BKT_THR : Fld := ⟨16, 8⟩
def MC_SCRUB_BKT_LEAK : Fld := ⟨24, 8⟩
/-- Table 15.11. -/
def MC_CE (c : Nat) : Nat := mcBase c + 0x100
def MC_CE_COUNT : Fld := ⟨0, 64⟩
/-- Table 15.11. -/
def MC_UCE (c : Nat) : Nat := mcBase c + 0x108
def MC_UCE_COUNT : Fld := ⟨0, 64⟩
/-- Table 15.11. -/
def MC_DEMAND_FIX (c : Nat) : Nat := mcBase c + 0x110
def MC_DEMAND_FIX_COUNT : Fld := ⟨0, 64⟩
/-- Table 15.11. -/
def MC_PATROL_FIX (c : Nat) : Nat := mcBase c + 0x118
def MC_PATROL_FIX_COUNT : Fld := ⟨0, 64⟩
/-- Table 15.11. -/
def MC_CA_RETRY (c : Nat) : Nat := mcBase c + 0x120
def MC_CA_RETRY_COUNT : Fld := ⟨0, 64⟩
/-- Table 15.11. -/
def MC_WCRC_RETRY (c : Nat) : Nat := mcBase c + 0x128
def MC_WCRC_RETRY_COUNT : Fld := ⟨0, 64⟩
/-- Table 15.11. -/
def MC_MIRROR_RECOVER (c : Nat) : Nat := mcBase c + 0x130
def MC_MIRROR_RECOVER_COUNT : Fld := ⟨0, 64⟩
/-- Table 15.11. -/
def MC_PAIR_MERGE (c : Nat) : Nat := mcBase c + 0x138
def MC_PAIR_MERGE_COUNT : Fld := ⟨0, 64⟩
/-- Table 15.11. -/
def MC_BKT_TRIP (c : Nat) : Nat := mcBase c + 0x140
def MC_BKT_TRIP_COUNT : Fld := ⟨0, 64⟩
/-- Table 15.10. -/
def MC_ILV (i : Nat) : Nat := blockBase 0x10 + 0x1000 + 0x8 * i
def MC_ILV_BASE : Fld := ⟨0, 18⟩
def MC_ILV_SIZE : Fld := ⟨18, 18⟩
def MC_ILV_CHANNELS : Fld := ⟨36, 12⟩
def MC_ILV_VALID : Fld := ⟨48, 1⟩
/-- Table 2.6. -/
def MESH_CFG : Nat := blockBase 0x20 + 0x0
def MESH_CFG_PRIO_RDMA : Fld := ⟨0, 1⟩
def MESH_CFG_PRIO_HRN : Fld := ⟨1, 1⟩
def MESH_CFG_STARVE_LIMIT : Fld := ⟨8, 11⟩
def MESH_CFG_DRAIN_TMO : Fld := ⟨24, 8⟩
def MESH_CFG_MESH_FREQ : Fld := ⟨32, 8⟩
/-- Table 4.7. -/
def DIR_CFG : Nat := blockBase 0x20 + 0x100
def DIR_CFG_HOME_TMO : Fld := ⟨0, 10⟩
def DIR_CFG_GRANT_TMO : Fld := ⟨16, 8⟩
/-- Table 1.6. -/
def MESH_HART_MAP (i : Nat) : Nat := blockBase 0x20 + 0x1000 + 0x8 * i
def MESH_HART_MAP_NODE : Fld := ⟨0, 8⟩
def MESH_HART_MAP_VALID : Fld := ⟨8, 1⟩
/-- Table 3.6. -/
def LLC_MAP (i : Nat) : Nat := blockBase 0x20 + 0x8000 + 0x8 * i
def LLC_MAP_NODE : Fld := ⟨0, 8⟩
def LLC_MAP_STATE : Fld := ⟨8, 2⟩
def LLC_MAP_OLD : Fld := ⟨16, 8⟩
/-- Table 23.6. -/
def DBG_TRC_STAT (i : Nat) : Nat := blockBase 0x21 + 0x100 + 0x10 * i
def DBG_TRC_STAT_MODE : Fld := ⟨0, 2⟩
def DBG_TRC_STAT_RUNNING : Fld := ⟨2, 1⟩
def DBG_TRC_STAT_TRIGGERED : Fld := ⟨3, 1⟩
def DBG_TRC_STAT_WRAPPED : Fld := ⟨4, 1⟩
def DBG_TRC_STAT_WPTR : Fld := ⟨8, 16⟩
/-- R600. -/
def DBG_TRC_DROP (i : Nat) : Nat := blockBase 0x21 + 0x108 + 0x10 * i
def DBG_TRC_DROP_COUNT : Fld := ⟨0, 64⟩
/-- R600. -/
def DBG_CNT (i j : Nat) : Nat := blockBase 0x21 + 0x1000 + 0x200 * i + 0x8 * j
def DBG_CNT_COUNT : Fld := ⟨0, 64⟩
/-- Table 6.6. -/
def LOOM_SQ_TAIL (f i : Nat) : Nat := pageBase f + 0x0 + 0x10 * i
def LOOM_SQ_TAIL_INDEX : Fld := ⟨0, 16⟩
/-- Table 6.6. -/
def LOOM_CQ_HEAD (f i : Nat) : Nat := pageBase f + 0x8 + 0x10 * i
def LOOM_CQ_HEAD_INDEX : Fld := ⟨0, 16⟩
/-- Table 6.7. -/
def LOOM_FSTAT (f : Nat) : Nat := pageBase f + 0x1000
def LOOM_FSTAT_STATE : Fld := ⟨0, 3⟩
def LOOM_FSTAT_RESIDENT : Fld := ⟨3, 1⟩
def LOOM_FSTAT_PARKED : Fld := ⟨4, 1⟩
def LOOM_FSTAT_NQ : Fld := ⟨8, 9⟩
def LOOM_FSTAT_NV : Fld := ⟨17, 9⟩
def LOOM_FSTAT_INFLIGHT : Fld := ⟨32, 13⟩
/-- Table 6.8. -/
def LOOM_QSQB (f i : Nat) : Nat := pageBase f + 0x2000 + 0x20 * i
def LOOM_QSQB_BASE : Fld := ⟨12, 52⟩
/-- Table 6.8. -/
def LOOM_QCQB (f i : Nat) : Nat := pageBase f + 0x2008 + 0x20 * i
def LOOM_QCQB_BASE : Fld := ⟨12, 52⟩
/-- Table 6.9. -/
def LOOM_QCTL (f i : Nat) : Nat := pageBase f + 0x2010 + 0x20 * i
def LOOM_QCTL_EN : Fld := ⟨0, 1⟩
def LOOM_QCTL_QSTATE : Fld := ⟨2, 2⟩
def LOOM_QCTL_SQ_LOG : Fld := ⟨4, 4⟩
def LOOM_QCTL_CQ_LOG : Fld := ⟨8, 4⟩
def LOOM_QCTL_VEC : Fld := ⟨12, 8⟩
def LOOM_QCTL_COAL_CNT : Fld := ⟨20, 8⟩
def LOOM_QCTL_COAL_US : Fld := ⟨28, 8⟩
def LOOM_QCTL_ERR : Fld := ⟨36, 4⟩
def LOOM_QCTL_SQ_HEAD : Fld := ⟨48, 12⟩
/-- Table 10.6. -/
def SHU_SQ_TAIL (f i : Nat) : Nat := pageBase f + 0x8000 + 0x20 * i
def SHU_SQ_TAIL_INDEX : Fld := ⟨0, 16⟩
def SHU_SQ_TAIL_ARM : Fld := ⟨16, 1⟩
/-- Table 10.6. -/
def SHU_RQ_TAIL (f i : Nat) : Nat := pageBase f + 0x8008 + 0x20 * i
def SHU_RQ_TAIL_INDEX : Fld := ⟨0, 16⟩
def SHU_RQ_TAIL_ARM : Fld := ⟨16, 1⟩
/-- Table 10.6. -/
def SHU_CQ_HEAD (f i : Nat) : Nat := pageBase f + 0x8010 + 0x20 * i
def SHU_CQ_HEAD_INDEX : Fld := ⟨0, 16⟩
def SHU_CQ_HEAD_ARM : Fld := ⟨16, 1⟩
/-- Table 10.7. -/
def SHU_QSTAT (f i : Nat) : Nat := pageBase f + 0x8018 + 0x20 * i
def SHU_QSTAT_QPN : Fld := ⟨0, 24⟩
def SHU_QSTAT_STATE : Fld := ⟨24, 2⟩
def SHU_QSTAT_CAUSE : Fld := ⟨28, 4⟩
/-- Base of the error record bank of subsystem block `b` (R546). -/
def blockBank (b : Nat) : Nat := blockBase b + 0xF00000
/-- Base of the error record bank of mesh node `n` (R546). -/
def nodeBank (n : Nat) : Nat := nodeBase n + 0xE00
/-- Table 21.2. -/
def RAS_BANK_CTL (bank : Nat) : Nat := bank + 0x0
def RAS_BANK_CTL_SIGNAL : Fld := ⟨0, 4⟩
/-- R546. -/
def RAS_CEC (bank : Nat) : Nat := bank + 0x8
def RAS_CEC_COUNT : Fld := ⟨0, 64⟩
/-- R546. -/
def RAS_LOST (bank : Nat) : Nat := bank + 0x10
def RAS_LOST_COUNT : Fld := ⟨0, 64⟩
/-- Table 21.3. -/
def RAS_STATUS (bank r : Nat) : Nat := bank + 0x40 + 0x20 * r
def RAS_STATUS_VALID : Fld := ⟨0, 1⟩
def RAS_STATUS_OVERFLOW : Fld := ⟨1, 1⟩
def RAS_STATUS_SEVERITY : Fld := ⟨2, 2⟩
def RAS_STATUS_ADDRV : Fld := ⟨4, 1⟩
def RAS_STATUS_CLASS : Fld := ⟨8, 8⟩
def RAS_STATUS_CE_COUNT : Fld := ⟨16, 16⟩
/-- R546. -/
def RAS_ADDR (bank r : Nat) : Nat := bank + 0x48 + 0x20 * r
def RAS_ADDR_ADDR : Fld := ⟨0, 48⟩
/-- Table 21.4. -/
def RAS_MISC (bank r : Nat) : Nat := bank + 0x50 + 0x20 * r
def RAS_MISC_BLOCK : Fld := ⟨0, 16⟩
def RAS_MISC_TENANT : Fld := ⟨16, 14⟩
def RAS_MISC_WORLD : Fld := ⟨30, 1⟩
def RAS_MISC_LOCAL : Fld := ⟨31, 1⟩
def RAS_MISC_SYNDROME : Fld := ⟨32, 32⟩
/-- R546. -/
def RAS_TIME (bank r : Nat) : Nat := bank + 0x58 + 0x20 * r
def RAS_TIME_TIME : Fld := ⟨0, 64⟩
/-- The registers of an error record bank (R546), by offset in the bank. -/
def bankDefs : List RegDef :=
  [⟨0x0, 0, 0x0, 0, 0x0, [⟨⟨0, 4⟩, .rw, 0xE⟩]⟩,  -- RAS_BANK_CTL
   ⟨0x8, 0, 0x0, 0, 0x0, [⟨⟨0, 64⟩, .ro, 0x0⟩]⟩,  -- RAS_CEC
   ⟨0x10, 0, 0x0, 0, 0x0, [⟨⟨0, 64⟩, .ro, 0x0⟩]⟩,  -- RAS_LOST
   ⟨0x40, 8, 0x20, 0, 0x0, [⟨⟨0, 1⟩, .w1c, 0x0⟩, ⟨⟨1, 1⟩, .ro, 0x0⟩, ⟨⟨2, 2⟩, .ro, 0x0⟩, ⟨⟨4, 1⟩, .ro, 0x0⟩, ⟨⟨8, 8⟩, .ro, 0x0⟩, ⟨⟨16, 16⟩, .ro, 0x0⟩]⟩,  -- RAS_STATUS
   ⟨0x48, 8, 0x20, 0, 0x0, [⟨⟨0, 48⟩, .ro, 0x0⟩]⟩,  -- RAS_ADDR
   ⟨0x50, 8, 0x20, 0, 0x0, [⟨⟨0, 16⟩, .ro, 0x0⟩, ⟨⟨16, 14⟩, .ro, 0x0⟩, ⟨⟨30, 1⟩, .ro, 0x0⟩, ⟨⟨31, 1⟩, .ro, 0x0⟩, ⟨⟨32, 32⟩, .ro, 0x0⟩]⟩,  -- RAS_MISC
   ⟨0x58, 8, 0x20, 0, 0x0, [⟨⟨0, 64⟩, .ro, 0x0⟩]⟩]  -- RAS_TIME
/-- Per-node registers. -/
def nodeDefs : List RegDef :=
  [⟨0x0, 0, 0x0, 0, 0x0, [⟨⟨0, 4⟩, .ro, 0x0⟩, ⟨⟨4, 4⟩, .ro, 0x0⟩, ⟨⟨8, 2⟩, .ro, 0x0⟩, ⟨⟨12, 3⟩, .ro, 0x0⟩, ⟨⟨16, 8⟩, .ro, 0x0⟩, ⟨⟨24, 1⟩, .ro, 0x0⟩, ⟨⟨25, 1⟩, .ro, 0x0⟩, ⟨⟨32, 8⟩, .ro, 0x0⟩, ⟨⟨40, 3⟩, .ro, 0x4⟩]⟩,  -- MESH_NODE_INFO
   ⟨0x8, 0, 0x0, 0, 0x0, [⟨⟨0, 3⟩, .ro, 0x0⟩]⟩,  -- MESH_FENCE_CTL
   ⟨0x10, 0, 0x0, 0, 0x0, [⟨⟨0, 1⟩, .ro, 0x0⟩, ⟨⟨1, 1⟩, .ro, 0x0⟩, ⟨⟨2, 1⟩, .ro, 0x0⟩, ⟨⟨3, 1⟩, .ro, 0x0⟩, ⟨⟨8, 16⟩, .ro, 0x0⟩]⟩,  -- MESH_FENCE_STAT
   ⟨0x100, 0, 0x0, 0, 0x0, [⟨⟨0, 64⟩, .ro, 0x0⟩]⟩,  -- MESH_RTR_DEFL
   ⟨0x108, 0, 0x0, 0, 0x0, [⟨⟨0, 64⟩, .ro, 0x0⟩]⟩,  -- MESH_RTR_INJWAIT
   ⟨0x110, 0, 0x0, 0, 0x0, [⟨⟨0, 64⟩, .ro, 0x0⟩]⟩,  -- MESH_RTR_STARVE
   ⟨0x118, 0, 0x0, 0, 0x0, [⟨⟨0, 64⟩, .ro, 0x0⟩]⟩,  -- MESH_RTR_EJFULL
   ⟨0x120, 0, 0x0, 0, 0x0, [⟨⟨0, 64⟩, .ro, 0x0⟩]⟩,  -- MESH_RTR_FENCED
   ⟨0x128, 0, 0x0, 0, 0x0, [⟨⟨0, 64⟩, .ro, 0x0⟩]⟩,  -- MESH_RTR_CE
   ⟨0x130, 0, 0x0, 0, 0x0, [⟨⟨0, 64⟩, .ro, 0x0⟩]⟩,  -- MESH_RTR_LATE
   ⟨0x200, 0, 0x0, 0, 0x0, [⟨⟨0, 3⟩, .ro, 0x3⟩, ⟨⟨3, 1⟩, .ro, 0x1⟩, ⟨⟨8, 8⟩, .ro, 0xA⟩]⟩,  -- LLC_CFG
   ⟨0x208, 0, 0x0, 0, 0x0, [⟨⟨0, 13⟩, .ro, 0x0⟩, ⟨⟨16, 13⟩, .ro, 0x0⟩, ⟨⟨32, 14⟩, .ro, 0x0⟩, ⟨⟨48, 7⟩, .ro, 0x0⟩]⟩,  -- LLC_STAT
   ⟨0x300, 0, 0x0, 0, 0x0, [⟨⟨0, 4⟩, .ro, 0x4⟩, ⟨⟨8, 5⟩, .ro, 0x2⟩]⟩,  -- CORE_PF_CFG
   ⟨0x280, 0, 0x0, 0, 0x0, [⟨⟨0, 64⟩, .ro, 0x0⟩]⟩,  -- LLC_HIT
   ⟨0x288, 0, 0x0, 0, 0x0, [⟨⟨0, 64⟩, .ro, 0x0⟩]⟩,  -- LLC_MISS
   ⟨0x290, 0, 0x0, 0, 0x0, [⟨⟨0, 64⟩, .ro, 0x0⟩]⟩,  -- LLC_CE
   ⟨0x298, 0, 0x0, 0, 0x0, [⟨⟨0, 64⟩, .ro, 0x0⟩]⟩,  -- LLC_TAG_REBUILD
   ⟨0x2A0, 0, 0x0, 0, 0x0, [⟨⟨0, 64⟩, .ro, 0x0⟩]⟩,  -- LLC_NL_PF_CNT
   ⟨0x2A8, 0, 0x0, 0, 0x0, [⟨⟨0, 64⟩, .ro, 0x0⟩]⟩,  -- LLC_TAG_WAIT
   ⟨0x380, 0, 0x0, 0, 0x0, [⟨⟨0, 64⟩, .ro, 0x0⟩]⟩,  -- CORE_L1D_MISS
   ⟨0x388, 0, 0x0, 0, 0x0, [⟨⟨0, 64⟩, .ro, 0x0⟩]⟩,  -- CORE_L2_MISS
   ⟨0x390, 0, 0x0, 0, 0x0, [⟨⟨0, 64⟩, .ro, 0x0⟩]⟩,  -- CORE_PF_ISSUED
   ⟨0x398, 0, 0x0, 0, 0x0, [⟨⟨0, 64⟩, .ro, 0x0⟩]⟩,  -- CORE_PF_HIT
   ⟨0x3A0, 0, 0x0, 0, 0x0, [⟨⟨0, 64⟩, .ro, 0x0⟩]⟩,  -- CORE_STREAM_LINES
   ⟨0x3A8, 0, 0x0, 0, 0x0, [⟨⟨0, 64⟩, .ro, 0x0⟩]⟩,  -- CORE_CE
   ⟨0x400, 0, 0x0, 0, 0x0, [⟨⟨0, 16⟩, .ro, 0x0⟩, ⟨⟨16, 8⟩, .ro, 0x0⟩, ⟨⟨24, 7⟩, .ro, 0x0⟩]⟩,  -- DIR_STAT
   ⟨0x410, 4, 0x8, 0, 0x0, [⟨⟨0, 64⟩, .ro, 0x0⟩]⟩,  -- DIR_DEAD
   ⟨0x480, 0, 0x0, 0, 0x0, [⟨⟨0, 64⟩, .ro, 0x0⟩]⟩,  -- DIR_NACK
   ⟨0x488, 0, 0x0, 0, 0x0, [⟨⟨0, 64⟩, .ro, 0x0⟩]⟩,  -- DIR_GRANT
   ⟨0x490, 0, 0x0, 0, 0x0, [⟨⟨0, 64⟩, .ro, 0x0⟩]⟩,  -- DIR_GRANT_DROP
   ⟨0x498, 0, 0x0, 0, 0x0, [⟨⟨0, 64⟩, .ro, 0x0⟩]⟩,  -- DIR_GRANT_LOST
   ⟨0x4A0, 0, 0x0, 0, 0x0, [⟨⟨0, 64⟩, .ro, 0x0⟩]⟩,  -- DIR_EVICT_FORCED
   ⟨0x4A8, 0, 0x0, 0, 0x0, [⟨⟨0, 64⟩, .ro, 0x0⟩]⟩,  -- DIR_BCAST
   ⟨0x4B0, 0, 0x0, 0, 0x0, [⟨⟨0, 64⟩, .ro, 0x0⟩]⟩,  -- DIR_TMO
   ⟨0x4B8, 0, 0x0, 0, 0x0, [⟨⟨0, 64⟩, .ro, 0x0⟩]⟩,  -- DIR_LATE_RSP
   ⟨0x4C0, 0, 0x0, 0, 0x0, [⟨⟨0, 64⟩, .ro, 0x0⟩]⟩,  -- DIR_REBUILD
   ⟨0x500, 0, 0x0, 0, 0x0, [⟨⟨0, 64⟩, .ro, 0x0⟩]⟩,  -- BTN_ACC_CNT
   ⟨0x508, 0, 0x0, 0, 0x0, [⟨⟨0, 64⟩, .ro, 0x0⟩]⟩,  -- BTN_CHAIN
   ⟨0x510, 0, 0x0, 0, 0x0, [⟨⟨0, 64⟩, .ro, 0x0⟩]⟩,  -- BTN_POISON
   ⟨0x518, 0, 0x0, 0, 0x0, [⟨⟨0, 64⟩, .ro, 0x0⟩]⟩,  -- BTN_SPILL
   ⟨0x520, 0, 0x0, 0, 0x0, [⟨⟨0, 64⟩, .ro, 0x0⟩]⟩,  -- BTN_ZERO_CNT
   ⟨0x528, 0, 0x0, 0, 0x0, [⟨⟨0, 64⟩, .ro, 0x0⟩]⟩,  -- BTN_FAIL
   ⟨0x600, 0, 0x0, 0, 0x0, [⟨⟨0, 64⟩, .ro, 0x0⟩]⟩,  -- CORE_FWD_PARTIAL
   ⟨0x608, 0, 0x0, 0, 0x0, [⟨⟨0, 64⟩, .ro, 0x0⟩]⟩,  -- CORE_MEMORDER_FLUSH
   ⟨0x610, 0, 0x0, 0, 0x0, [⟨⟨0, 64⟩, .ro, 0x0⟩]⟩,  -- CORE_BR_MISP
   ⟨0x618, 0, 0x0, 0, 0x0, [⟨⟨0, 64⟩, .ro, 0x0⟩]⟩,  -- CORE_BP_FLUSH
   ⟨0x620, 0, 0x0, 0, 0x0, [⟨⟨0, 64⟩, .ro, 0x0⟩]⟩,  -- CORE_ROB_FULL
   ⟨0x628, 0, 0x0, 0, 0x0, [⟨⟨0, 64⟩, .ro, 0x0⟩]⟩,  -- CORE_LQ_FULL
   ⟨0x630, 0, 0x0, 0, 0x0, [⟨⟨0, 64⟩, .ro, 0x0⟩]⟩,  -- CORE_SQ_FULL
   ⟨0x638, 0, 0x0, 0, 0x0, [⟨⟨0, 64⟩, .ro, 0x0⟩]⟩,  -- CORE_CKPT_FULL
   ⟨0x640, 0, 0x0, 0, 0x0, [⟨⟨0, 64⟩, .ro, 0x0⟩]⟩,  -- CORE_IO_ACCESS
   ⟨0x648, 0, 0x0, 0, 0x0, [⟨⟨0, 64⟩, .ro, 0x0⟩]⟩,  -- CORE_DET_SWITCH
   ⟨0x700, 0, 0x0, 0, 0x0, [⟨⟨0, 64⟩, .ro, 0x0⟩]⟩,  -- CORE_ITLB_MISS
   ⟨0x708, 0, 0x0, 0, 0x0, [⟨⟨0, 64⟩, .ro, 0x0⟩]⟩,  -- CORE_DTLB_MISS
   ⟨0x710, 0, 0x0, 0, 0x0, [⟨⟨0, 64⟩, .ro, 0x0⟩]⟩,  -- CORE_L2TLB_MISS
   ⟨0x718, 0, 0x0, 0, 0x0, [⟨⟨0, 64⟩, .ro, 0x0⟩]⟩,  -- CORE_WALK_PTE
   ⟨0x720, 0, 0x0, 0, 0x0, [⟨⟨0, 64⟩, .ro, 0x0⟩]⟩,  -- CORE_AD_UPDATE
   ⟨0x728, 0, 0x0, 0, 0x0, [⟨⟨0, 64⟩, .ro, 0x0⟩]⟩,  -- CORE_WALK_STALE
   ⟨0x800, 0, 0x0, 0, 0x0, [⟨⟨0, 64⟩, .ro, 0x0⟩]⟩,  -- SEL_DENY
   ⟨0x900, 2, 0x8, 0, 0x0, [⟨⟨0, 64⟩, .ro, 0x0⟩]⟩]  -- DBG_CMP
/-- Doorbell-page registers (Tables 6.5 and 10.6). -/
def pageDefs : List RegDef :=
  [⟨0x0, 256, 0x10, 0, 0x0, [⟨⟨0, 16⟩, .rw, 0x0⟩]⟩,  -- LOOM_SQ_TAIL
   ⟨0x8, 256, 0x10, 0, 0x0, [⟨⟨0, 16⟩, .rw, 0x0⟩]⟩,  -- LOOM_CQ_HEAD
   ⟨0x1000, 0, 0x0, 0, 0x0, [⟨⟨0, 3⟩, .ro, 0x0⟩, ⟨⟨3, 1⟩, .ro, 0x0⟩, ⟨⟨4, 1⟩, .ro, 0x0⟩, ⟨⟨8, 9⟩, .ro, 0x0⟩, ⟨⟨17, 9⟩, .ro, 0x0⟩, ⟨⟨32, 13⟩, .ro, 0x0⟩]⟩,  -- LOOM_FSTAT
   ⟨0x2000, 256, 0x20, 0, 0x0, [⟨⟨12, 52⟩, .rw, 0x0⟩]⟩,  -- LOOM_QSQB
   ⟨0x2008, 256, 0x20, 0, 0x0, [⟨⟨12, 52⟩, .rw, 0x0⟩]⟩,  -- LOOM_QCQB
   ⟨0x2010, 256, 0x20, 0, 0x0, [⟨⟨0, 1⟩, .rw, 0x0⟩, ⟨⟨2, 2⟩, .ro, 0x0⟩, ⟨⟨4, 4⟩, .rw, 0x4⟩, ⟨⟨8, 4⟩, .rw, 0x4⟩, ⟨⟨12, 8⟩, .rw, 0x0⟩, ⟨⟨20, 8⟩, .rw, 0x0⟩, ⟨⟨28, 8⟩, .rw, 0x0⟩, ⟨⟨36, 4⟩, .ro, 0x0⟩, ⟨⟨48, 12⟩, .ro, 0x0⟩]⟩,  -- LOOM_QCTL
   ⟨0x8000, 1024, 0x20, 0, 0x0, [⟨⟨0, 16⟩, .rw, 0x0⟩, ⟨⟨16, 1⟩, .rw, 0x0⟩]⟩,  -- SHU_SQ_TAIL
   ⟨0x8008, 1024, 0x20, 0, 0x0, [⟨⟨0, 16⟩, .rw, 0x0⟩, ⟨⟨16, 1⟩, .rw, 0x0⟩]⟩,  -- SHU_RQ_TAIL
   ⟨0x8010, 1024, 0x20, 0, 0x0, [⟨⟨0, 16⟩, .rw, 0x0⟩, ⟨⟨16, 1⟩, .rw, 0x0⟩]⟩,  -- SHU_CQ_HEAD
   ⟨0x8018, 1024, 0x20, 0, 0x0, [⟨⟨0, 24⟩, .ro, 0x0⟩, ⟨⟨24, 2⟩, .ro, 0x0⟩, ⟨⟨28, 4⟩, .ro, 0x0⟩]⟩]  -- SHU_QSTAT
/-- Memory-controller registers. -/
def mcDefs : List RegDef :=
  [⟨0x0, 0, 0x0, 0, 0x0, [⟨⟨0, 1⟩, .ro, 0x0⟩, ⟨⟨1, 1⟩, .ro, 0x0⟩, ⟨⟨2, 1⟩, .ro, 0x0⟩, ⟨⟨3, 1⟩, .ro, 0x0⟩, ⟨⟨8, 4⟩, .ro, 0x0⟩, ⟨⟨12, 4⟩, .ro, 0xF⟩, ⟨⟨16, 13⟩, .ro, 0x40⟩, ⟨⟨32, 8⟩, .ro, 0x0⟩, ⟨⟨40, 10⟩, .ro, 0x0⟩]⟩,  -- MC_CFG
   ⟨0x8, 0, 0x0, 0, 0x0, [⟨⟨0, 1⟩, .ro, 0x0⟩, ⟨⟨1, 1⟩, .ro, 0x0⟩, ⟨⟨8, 8⟩, .ro, 0x0⟩, ⟨⟨16, 4⟩, .ro, 0xF⟩]⟩,  -- MC_STAT
   ⟨0x10, 0, 0x0, 0, 0x0, [⟨⟨0, 8⟩, .ro, 0x18⟩, ⟨⟨8, 8⟩, .ro, 0x18⟩, ⟨⟨16, 8⟩, .ro, 0x10⟩, ⟨⟨24, 8⟩, .ro, 0x1⟩]⟩,  -- MC_SCRUB
   ⟨0x100, 0, 0x0, 0, 0x0, [⟨⟨0, 64⟩, .ro, 0x0⟩]⟩,  -- MC_CE
   ⟨0x108, 0, 0x0, 0, 0x0, [⟨⟨0, 64⟩, .ro, 0x0⟩]⟩,  -- MC_UCE
   ⟨0x110, 0, 0x0, 0, 0x0, [⟨⟨0, 64⟩, .ro, 0x0⟩]⟩,  -- MC_DEMAND_FIX
   ⟨0x118, 0, 0x0, 0, 0x0, [⟨⟨0, 64⟩, .ro, 0x0⟩]⟩,  -- MC_PATROL_FIX
   ⟨0x120, 0, 0x0, 0, 0x0, [⟨⟨0, 64⟩, .ro, 0x0⟩]⟩,  -- MC_CA_RETRY
   ⟨0x128, 0, 0x0, 0, 0x0, [⟨⟨0, 64⟩, .ro, 0x0⟩]⟩,  -- MC_WCRC_RETRY
   ⟨0x130, 0, 0x0, 0, 0x0, [⟨⟨0, 64⟩, .ro, 0x0⟩]⟩,  -- MC_MIRROR_RECOVER
   ⟨0x138, 0, 0x0, 0, 0x0, [⟨⟨0, 64⟩, .ro, 0x0⟩]⟩,  -- MC_PAIR_MERGE
   ⟨0x140, 0, 0x0, 0, 0x0, [⟨⟨0, 64⟩, .ro, 0x0⟩]⟩]  -- MC_BKT_TRIP
/-- Registers of block 0x00. -/
def defs00 : List RegDef :=
  [⟨0x0, 0, 0x0, 0, 0x0, [⟨⟨0, 2⟩, .ro, 0x0⟩, ⟨⟨2, 2⟩, .ro, 0x0⟩, ⟨⟨4, 4⟩, .ro, 0x0⟩]⟩,  -- PWR_STATE
   ⟨0x8, 0, 0x0, 0, 0x0, [⟨⟨0, 1⟩, .rw, 0x0⟩, ⟨⟨1, 1⟩, .rw, 0x0⟩, ⟨⟨2, 1⟩, .rw, 0x0⟩, ⟨⟨3, 1⟩, .rw, 0x0⟩]⟩,  -- PWR_WAKE_CFG
   ⟨0x10, 0, 0x0, 0, 0x0, [⟨⟨0, 1⟩, .rw, 0x0⟩, ⟨⟨2, 46⟩, .rw, 0x0⟩]⟩,  -- PWR_RESUME
   ⟨0x18, 0, 0x0, 0, 0x0, [⟨⟨0, 2⟩, .wo, 0x0⟩, ⟨⟨16, 16⟩, .wo, 0x0⟩]⟩,  -- PWR_RESET
   ⟨0x20, 0, 0x0, 0, 0x0, [⟨⟨0, 8⟩, .rw, 0x0⟩, ⟨⟨8, 1⟩, .w1s, 0x0⟩, ⟨⟨9, 1⟩, .ro, 0x0⟩, ⟨⟨18, 46⟩, .rw, 0x0⟩]⟩,  -- PWR_HART_GO
   ⟨0x28, 0, 0x0, 0, 0x0, [⟨⟨0, 2⟩, .ro, 0x0⟩, ⟨⟨2, 4⟩, .ro, 0x0⟩, ⟨⟨6, 2⟩, .ro, 0x0⟩, ⟨⟨8, 2⟩, .ro, 0x0⟩, ⟨⟨10, 2⟩, .ro, 0x3⟩, ⟨⟨12, 1⟩, .ro, 0x0⟩, ⟨⟨13, 1⟩, .ro, 0x0⟩]⟩,  -- PWR_RSTINFO
   ⟨0x100, 0, 0x0, 0, 0x0, [⟨⟨0, 2⟩, .rw, 0x2⟩, ⟨⟨8, 24⟩, .rw, 0x5CA10E⟩]⟩,  -- TRD_CFG
   ⟨0x108, 0, 0x0, 0, 0x0, [⟨⟨0, 3⟩, .ro, 0x5⟩, ⟨⟨3, 1⟩, .ro, 0x0⟩, ⟨⟨4, 1⟩, .ro, 0x0⟩, ⟨⟨5, 1⟩, .w1c, 0x0⟩, ⟨⟨8, 7⟩, .ro, 0x0⟩]⟩,  -- TRD_STAT
   ⟨0x110, 0, 0x0, 0, 0x0, [⟨⟨0, 48⟩, .ro, 0x0⟩]⟩,  -- TRD_RTC
   ⟨0x118, 0, 0x0, 0, 0x0, [⟨⟨0, 48⟩, .rw, 0x0⟩, ⟨⟨48, 1⟩, .rw, 0x0⟩]⟩,  -- TRD_ALARM
   ⟨0x120, 0, 0x0, 0, 0x0, [⟨⟨0, 64⟩, .rw, 0x0⟩]⟩,  -- TRD_WAKE_MASK
   ⟨0x128, 0, 0x0, 0, 0x0, [⟨⟨0, 4⟩, .ro, 0x0⟩, ⟨⟨4, 1⟩, .w1c, 0x0⟩, ⟨⟨16, 16⟩, .ro, 0x0⟩, ⟨⟨32, 16⟩, .ro, 0x0⟩]⟩,  -- TRD_ABORT
   ⟨0x130, 0, 0x0, 0, 0x0, [⟨⟨0, 64⟩, .ro, 0x0⟩]⟩,  -- TRD_TIME_OFS
   ⟨0x200, 32, 0x8, 0, 0x0, [⟨⟨0, 16⟩, .ro, 0x0⟩, ⟨⟨16, 16⟩, .ro, 0x0⟩, ⟨⟨32, 32⟩, .ro, 0x0⟩]⟩,  -- PWR_RCNT
   ⟨0x300, 0, 0x0, 0, 0x0, [⟨⟨0, 64⟩, .ro, 0x0⟩]⟩]  -- PWR_RCNT_OVF
/-- Registers of block 0x01. -/
def defs01 : List RegDef :=
  [⟨0x0, 0, 0x0, 0, 0x0, [⟨⟨0, 32⟩, .ro, 0x4E540192⟩, ⟨⟨32, 8⟩, .ro, 0x1E⟩, ⟨⟨40, 8⟩, .ro, 0x1⟩]⟩,  -- DBY_CHIP_ID
   ⟨0x8, 0, 0x0, 0, 0x0, [⟨⟨0, 11⟩, .ro, 0x0⟩, ⟨⟨16, 9⟩, .ro, 0x0⟩, ⟨⟨32, 1⟩, .ro, 0x1⟩, ⟨⟨33, 1⟩, .ro, 0x1⟩, ⟨⟨34, 1⟩, .ro, 0x0⟩, ⟨⟨35, 1⟩, .ro, 0x0⟩]⟩,  -- DBY_STAT
   ⟨0x100, 2, 0x40, 0, 0x0, [⟨⟨0, 1⟩, .rw, 0x0⟩, ⟨⟨1, 1⟩, .ro, 0x0⟩, ⟨⟨2, 1⟩, .w1c, 0x0⟩, ⟨⟨4, 4⟩, .rwl, 0x6⟩, ⟨⟨8, 4⟩, .rwl, 0x6⟩, ⟨⟨12, 36⟩, .rwl, 0x0⟩]⟩,  -- DBY_RING_CFG
   ⟨0x108, 2, 0x40, 0, 0x0, [⟨⟨6, 42⟩, .rwl, 0x0⟩]⟩,  -- DBY_RING_RBASE
   ⟨0x110, 2, 0x40, 0, 0x0, [⟨⟨6, 42⟩, .rwl, 0x0⟩]⟩,  -- DBY_RING_CTLA
   ⟨0x118, 2, 0x40, 0, 0x0, [⟨⟨0, 32⟩, .rw, 0x0⟩]⟩,  -- DBY_RING_PROD
   ⟨0x120, 2, 0x40, 0, 0x0, [⟨⟨0, 32⟩, .rw, 0x0⟩]⟩,  -- DBY_RING_RCONS
   ⟨0x200, 0, 0x0, 0, 0x0, [⟨⟨0, 64⟩, .ro, 0x0⟩]⟩,  -- DBY_CARDS
   ⟨0x208, 0, 0x0, 0, 0x0, [⟨⟨0, 64⟩, .ro, 0x0⟩]⟩,  -- DBY_BUSY
   ⟨0x210, 0, 0x0, 0, 0x0, [⟨⟨0, 64⟩, .ro, 0x0⟩]⟩,  -- DBY_REFUSED
   ⟨0x218, 0, 0x0, 0, 0x0, [⟨⟨0, 64⟩, .ro, 0x0⟩]⟩,  -- DBY_RESTARTS
   ⟨0x220, 0, 0x0, 0, 0x0, [⟨⟨0, 64⟩, .ro, 0x0⟩]⟩,  -- DBY_RING_STALL
   ⟨0x300, 0, 0x0, 0, 0x0, [⟨⟨0, 1⟩, .rw, 0x0⟩, ⟨⟨22, 10⟩, .rw, 0x0⟩]⟩]  -- DBY_FLASH_SEL
/-- Registers of block 0x02. -/
def defs02 : List RegDef :=
  [⟨0x0, 0, 0x0, 0, 0x0, [⟨⟨0, 11⟩, .ro, 0x78⟩, ⟨⟨12, 5⟩, .ro, 0x2⟩, ⟨⟨24, 10⟩, .ro, 0x3C⟩, ⟨⟨40, 8⟩, .ro, 0x5⟩]⟩,  -- CREEL_CFG
   ⟨0x8, 0, 0x0, 0, 0x0, [⟨⟨0, 11⟩, .ro, 0x0⟩, ⟨⟨16, 5⟩, .ro, 0x0⟩, ⟨⟨24, 1⟩, .ro, 0x0⟩, ⟨⟨25, 1⟩, .ro, 0x0⟩, ⟨⟨26, 1⟩, .ro, 0x0⟩, ⟨⟨32, 16⟩, .ro, 0x0⟩]⟩,  -- CREEL_STAT
   ⟨0x1000, 16, 0x20, 0, 0x0, [⟨⟨0, 7⟩, .ro, 0x28⟩, ⟨⟨7, 1⟩, .ro, 0x0⟩, ⟨⟨8, 8⟩, .ro, 0xA⟩, ⟨⟨16, 8⟩, .ro, 0x32⟩, ⟨⟨24, 7⟩, .ro, 0x3C⟩, ⟨⟨32, 8⟩, .ro, 0x14⟩, ⟨⟨40, 4⟩, .ro, 0x0⟩, ⟨⟨48, 8⟩, .ro, 0xA⟩]⟩,  -- CREEL_CH_CFG
   ⟨0x1008, 16, 0x20, 0, 0x0, [⟨⟨0, 16⟩, .ro, 0x190⟩, ⟨⟨16, 8⟩, .ro, 0xA⟩, ⟨⟨24, 8⟩, .ro, 0x64⟩, ⟨⟨32, 8⟩, .ro, 0xA⟩]⟩,  -- CREEL_CH_PROT
   ⟨0x1010, 16, 0x20, 0, 0x0, [⟨⟨0, 3⟩, .ro, 0x0⟩, ⟨⟨8, 8⟩, .ro, 0x0⟩, ⟨⟨16, 3⟩, .ro, 0x0⟩, ⟨⟨19, 1⟩, .ro, 0x0⟩, ⟨⟨20, 2⟩, .ro, 0x0⟩, ⟨⟨24, 7⟩, .ro, 0x0⟩, ⟨⟨32, 16⟩, .ro, 0x0⟩, ⟨⟨48, 16⟩, .ro, 0x0⟩]⟩,  -- CREEL_CH_STAT
   ⟨0x1018, 16, 0x20, 0, 0x0, [⟨⟨0, 32⟩, .ro, 0x0⟩]⟩,  -- CREEL_CH_CUR
   ⟨0x100, 0, 0x0, 0, 0x0, [⟨⟨0, 64⟩, .ro, 0x0⟩]⟩,  -- CREEL_ON
   ⟨0x108, 0, 0x0, 0, 0x0, [⟨⟨0, 64⟩, .ro, 0x0⟩]⟩,  -- CREEL_FAULTS
   ⟨0x110, 0, 0x0, 0, 0x0, [⟨⟨0, 64⟩, .ro, 0x0⟩]⟩,  -- CREEL_BUDGET_REFUSE
   ⟨0x118, 0, 0x0, 0, 0x0, [⟨⟨0, 64⟩, .ro, 0x0⟩]⟩,  -- CREEL_HOLDS
   ⟨0x120, 0, 0x0, 0, 0x0, [⟨⟨0, 64⟩, .ro, 0x0⟩]⟩,  -- CREEL_RECLAIMED
   ⟨0x128, 0, 0x0, 0, 0x0, [⟨⟨0, 64⟩, .ro, 0x0⟩]⟩,  -- CREEL_HOLD_END
   ⟨0x130, 0, 0x0, 0, 0x0, [⟨⟨0, 64⟩, .ro, 0x0⟩]⟩]  -- CREEL_KEY_LOSS
/-- Registers of block 0x03. -/
def defs03 : List RegDef :=
  [⟨0x0, 0, 0x0, 0, 0x0, [⟨⟨0, 1⟩, .ro, 0x0⟩]⟩,  -- SEL_LOCK
   ⟨0x8, 0, 0x0, 0, 0x0, [⟨⟨0, 16⟩, .ro, 0x1FFF⟩]⟩,  -- SEL_DRAM_WM
   ⟨0x10, 0, 0x0, 0, 0x0, [⟨⟨0, 16⟩, .ro, 0xFFFF⟩]⟩,  -- SEL_FLASH_WM
   ⟨0x18, 0, 0x0, 0, 0x0, [⟨⟨0, 3⟩, .ro, 0x0⟩, ⟨⟨3, 1⟩, .ro, 0x0⟩, ⟨⟨4, 4⟩, .ro, 0x0⟩]⟩,  -- SEL_LIFE
   ⟨0x20, 0, 0x0, 0, 0x0, [⟨⟨0, 1⟩, .rwl, 0x0⟩, ⟨⟨1, 1⟩, .rwl, 0x0⟩, ⟨⟨2, 1⟩, .rwl, 0x0⟩, ⟨⟨3, 1⟩, .rwl, 0x0⟩, ⟨⟨8, 4⟩, .ro, 0x0⟩, ⟨⟨63, 1⟩, .w1s, 0x0⟩]⟩,  -- SEL_DEBUG
   ⟨0x28, 0, 0x0, 0, 0x0, [⟨⟨0, 64⟩, .ro, 0x20000000D⟩]⟩,  -- SEL_BLKWORLD
   ⟨0x30, 0, 0x0, 0, 0x0, [⟨⟨0, 16⟩, .ro, 0x0⟩]⟩,  -- SEL_PORTWORLD
   ⟨0x1000, 129, 0x8, 0, 0x0, [⟨⟨0, 64⟩, .ro, 0x0⟩]⟩,  -- SEL_FUNCWORLD
   ⟨0x1800, 16, 0x8, 0, 0x0, [⟨⟨0, 64⟩, .ro, 0x0⟩]⟩,  -- SEL_SRCWORLD
   ⟨0x1900, 128, 0x8, 0, 0x0, [⟨⟨0, 64⟩, .ro, 0x0⟩]⟩,  -- SEL_SLOTWORLD
   ⟨0x2000, 192, 0x8, 0, 0x0, [⟨⟨0, 4⟩, .ro, 0x0⟩, ⟨⟨4, 10⟩, .ro, 0x0⟩, ⟨⟨14, 1⟩, .ro, 0x0⟩]⟩,  -- SEL_GATE_FAULT
   ⟨0x100, 0, 0x0, 0, 0x0, [⟨⟨0, 64⟩, .ro, 0x0⟩]⟩,  -- SEL_DENY_HOME
   ⟨0x108, 0, 0x0, 0, 0x0, [⟨⟨0, 64⟩, .ro, 0x0⟩]⟩,  -- SEL_GATE_OK
   ⟨0x110, 0, 0x0, 0, 0x0, [⟨⟨0, 64⟩, .ro, 0x0⟩]⟩]  -- SEL_GATE_REFUSED
/-- Registers of block 0x04. -/
def defs04 : List RegDef :=
  [⟨0x1000, 1024, 0x8, 0, 0x0, [⟨⟨0, 1⟩, .rw, 0x0⟩, ⟨⟨1, 2⟩, .rw, 0x0⟩, ⟨⟨3, 1⟩, .ro, 0x0⟩, ⟨⟨4, 1⟩, .w1c, 0x0⟩, ⟨⟨5, 1⟩, .ro, 0x0⟩, ⟨⟨6, 1⟩, .ro, 0x0⟩, ⟨⟨8, 8⟩, .rw, 0x0⟩, ⟨⟨16, 2⟩, .rw, 0x0⟩, ⟨⟨18, 3⟩, .rw, 0x0⟩, ⟨⟨24, 5⟩, .rw, 0x0⟩]⟩,  -- HRN_SRC
   ⟨0x10000, 32768, 0x8, 0, 0x0, [⟨⟨0, 1⟩, .ro, 0x0⟩, ⟨⟨1, 1⟩, .ro, 0x0⟩, ⟨⟨2, 1⟩, .ro, 0x0⟩, ⟨⟨8, 8⟩, .ro, 0x0⟩, ⟨⟨16, 2⟩, .ro, 0x0⟩, ⟨⟨18, 3⟩, .ro, 0x0⟩, ⟨⟨24, 5⟩, .ro, 0x0⟩, ⟨⟨32, 14⟩, .ro, 0x0⟩]⟩,  -- HRN_VEC
   ⟨0x100, 0, 0x0, 0, 0x0, [⟨⟨0, 64⟩, .ro, 0x0⟩]⟩,  -- HRN_CLAIMS
   ⟨0x108, 0, 0x0, 0, 0x0, [⟨⟨0, 64⟩, .ro, 0x0⟩]⟩,  -- HRN_SPURIOUS
   ⟨0x110, 0, 0x0, 0, 0x0, [⟨⟨0, 64⟩, .ro, 0x0⟩]⟩,  -- HRN_BAD_COMPLETE
   ⟨0x118, 0, 0x0, 0, 0x0, [⟨⟨0, 64⟩, .ro, 0x0⟩]⟩,  -- HRN_VEC_DROP
   ⟨0x120, 0, 0x0, 0, 0x0, [⟨⟨0, 64⟩, .ro, 0x0⟩]⟩,  -- HRN_UNDELIVERED
   ⟨0x128, 0, 0x0, 0, 0x0, [⟨⟨0, 64⟩, .ro, 0x0⟩]⟩,  -- HRN_CHAINS
   ⟨0x100000, 192, 0x10000, 10, 0x1000, [⟨⟨0, 5⟩, .rw, 0x0⟩]⟩,  -- HRN_THRESH
   ⟨0x100008, 192, 0x10000, 10, 0x1000, [⟨⟨0, 22⟩, .ro, 0x0⟩]⟩,  -- HRN_CLAIM
   ⟨0x100010, 192, 0x10000, 10, 0x1000, [⟨⟨0, 16⟩, .wo, 0x0⟩]⟩,  -- HRN_COMPLETE
   ⟨0x100018, 192, 0x10000, 10, 0x1000, [⟨⟨0, 22⟩, .ro, 0x0⟩]⟩,  -- HRN_CHAIN
   ⟨0x100020, 192, 0x10000, 10, 0x1000, [⟨⟨1, 31⟩, .ro, 0x0⟩]⟩,  -- HRN_ISRV
   ⟨0x100040, 192, 0x10000, 10, 0x1000, [⟨⟨0, 1⟩, .rw, 0x0⟩]⟩,  -- HRN_MSIP
   ⟨0x100048, 192, 0x10000, 10, 0x1000, [⟨⟨0, 64⟩, .rw, 0xFFFFFFFFFFFFFFFF⟩]⟩]  -- HRN_TIMECMP
/-- Registers of block 0x05. -/
def defs05 : List RegDef :=
  [⟨0x0, 0, 0x0, 0, 0x0, [⟨⟨0, 14⟩, .ro, 0x2000⟩, ⟨⟨16, 17⟩, .ro, 0x10000⟩, ⟨⟨33, 16⟩, .ro, 0x8000⟩, ⟨⟨49, 11⟩, .ro, 0x400⟩]⟩,  -- LOOM_CAP
   ⟨0x8, 0, 0x0, 0, 0x0, [⟨⟨0, 17⟩, .ro, 0x10000⟩, ⟨⟨17, 16⟩, .ro, 0x8000⟩, ⟨⟨33, 11⟩, .ro, 0x0⟩, ⟨⟨44, 14⟩, .ro, 0x0⟩]⟩,  -- LOOM_STAT
   ⟨0x10, 0, 0x0, 0, 0x0, [⟨⟨0, 17⟩, .ro, 0x0⟩]⟩,  -- LOOM_INFLIGHT
   ⟨0x18, 0, 0x0, 0, 0x0, [⟨⟨0, 8⟩, .ro, 0xA⟩, ⟨⟨8, 4⟩, .ro, 0x4⟩]⟩,  -- LOOM_CFG
   ⟨0x100, 0, 0x0, 0, 0x0, [⟨⟨0, 64⟩, .ro, 0x0⟩]⟩,  -- LOOM_DB
   ⟨0x108, 0, 0x0, 0, 0x0, [⟨⟨0, 64⟩, .ro, 0x0⟩]⟩,  -- LOOM_DB_DROP
   ⟨0x110, 0, 0x0, 0, 0x0, [⟨⟨0, 64⟩, .ro, 0x0⟩]⟩,  -- LOOM_FROZEN_DB
   ⟨0x118, 0, 0x0, 0, 0x0, [⟨⟨0, 64⟩, .ro, 0x0⟩]⟩,  -- LOOM_FETCH_CNT
   ⟨0x120, 0, 0x0, 0, 0x0, [⟨⟨0, 64⟩, .ro, 0x0⟩]⟩,  -- LOOM_CQE
   ⟨0x128, 0, 0x0, 0, 0x0, [⟨⟨0, 64⟩, .ro, 0x0⟩]⟩,  -- LOOM_CTX_LOAD
   ⟨0x130, 0, 0x0, 0, 0x0, [⟨⟨0, 64⟩, .ro, 0x0⟩]⟩,  -- LOOM_CTX_EVICT
   ⟨0x138, 0, 0x0, 0, 0x0, [⟨⟨0, 64⟩, .ro, 0x0⟩]⟩,  -- LOOM_PARK
   ⟨0x140, 0, 0x0, 0, 0x0, [⟨⟨0, 64⟩, .ro, 0x0⟩]⟩,  -- LOOM_QERR
   ⟨0x148, 0, 0x0, 0, 0x0, [⟨⟨0, 64⟩, .ro, 0x0⟩]⟩,  -- LOOM_REVOKED_DMA
   ⟨0x400000, 0, 0x0, 0, 0x0, [⟨⟨0, 1⟩, .rw, 0x0⟩, ⟨⟨30, 18⟩, .rw, 0x0⟩]⟩,  -- DQ_CFG
   ⟨0x401000, 1024, 0x10, 0, 0x0, [⟨⟨0, 1⟩, .rw, 0x0⟩, ⟨⟨1, 2⟩, .ro, 0x0⟩, ⟨⟨3, 4⟩, .rw, 0x0⟩, ⟨⟨7, 3⟩, .rw, 0x0⟩, ⟨⟨16, 16⟩, .rw, 0x0⟩, ⟨⟨32, 4⟩, .rw, 0x9⟩, ⟨⟨36, 4⟩, .rw, 0x0⟩, ⟨⟨40, 8⟩, .rw, 0x50⟩]⟩,  -- DQ_CTRL_A
   ⟨0x401008, 1024, 0x10, 0, 0x0, [⟨⟨12, 52⟩, .rw, 0x0⟩]⟩,  -- DQ_CTRL_B
   ⟨0x410000, 4096, 0x8, 0, 0x0, [⟨⟨0, 10⟩, .rw, 0x0⟩, ⟨⟨10, 1⟩, .rw, 0x0⟩, ⟨⟨11, 1⟩, .ro, 0x0⟩, ⟨⟨16, 16⟩, .rw, 0x0⟩, ⟨⟨32, 4⟩, .rw, 0x4⟩, ⟨⟨40, 10⟩, .ro, 0x0⟩]⟩,  -- DQ_QP
   ⟨0x400100, 0, 0x0, 0, 0x0, [⟨⟨0, 64⟩, .ro, 0x0⟩]⟩,  -- DQ_CMDS
   ⟨0x400108, 0, 0x0, 0, 0x0, [⟨⟨0, 64⟩, .ro, 0x0⟩]⟩,  -- DQ_TMO
   ⟨0x400110, 0, 0x0, 0, 0x0, [⟨⟨0, 64⟩, .ro, 0x0⟩]⟩,  -- DQ_LATE_CPL
   ⟨0x800000, 0, 0x0, 0, 0x0, [⟨⟨0, 13⟩, .ro, 0x1000⟩, ⟨⟨16, 10⟩, .ro, 0x200⟩, ⟨⟨32, 6⟩, .ro, 0x20⟩, ⟨⟨40, 4⟩, .ro, 0x8⟩, ⟨⟨48, 10⟩, .ro, 0x200⟩]⟩,  -- BTN_CAP
   ⟨0x800008, 0, 0x0, 0, 0x0, [⟨⟨0, 10⟩, .ro, 0x0⟩, ⟨⟨16, 13⟩, .ro, 0x0⟩]⟩,  -- BTN_STAT
   ⟨0x810000, 4096, 0x8, 0, 0x0, [⟨⟨0, 2⟩, .ro, 0x0⟩, ⟨⟨2, 1⟩, .ro, 0x0⟩, ⟨⟨4, 14⟩, .ro, 0x0⟩, ⟨⟨18, 16⟩, .ro, 0x0⟩, ⟨⟨34, 16⟩, .ro, 0x0⟩]⟩,  -- BTN_WIN_STATE
   ⟨0x800100, 0, 0x0, 0, 0x0, [⟨⟨0, 64⟩, .ro, 0x0⟩]⟩,  -- BTN_LINES_IN
   ⟨0x800108, 0, 0x0, 0, 0x0, [⟨⟨0, 64⟩, .ro, 0x0⟩]⟩,  -- BTN_REJECT
   ⟨0x800110, 0, 0x0, 0, 0x0, [⟨⟨0, 64⟩, .ro, 0x0⟩]⟩,  -- BTN_DUP
   ⟨0x800118, 0, 0x0, 0, 0x0, [⟨⟨0, 64⟩, .ro, 0x0⟩]⟩,  -- BTN_OPENS
   ⟨0x800120, 0, 0x0, 0, 0x0, [⟨⟨0, 64⟩, .ro, 0x0⟩]⟩]  -- BTN_BACKPRESSURE
/-- Registers of block 0x06. -/
def defs06 : List RegDef :=
  [⟨0x0, 0, 0x0, 0, 0x0, [⟨⟨0, 11⟩, .ro, 0x400⟩, ⟨⟨16, 14⟩, .ro, 0x2000⟩, ⟨⟨32, 10⟩, .ro, 0x200⟩, ⟨⟨48, 6⟩, .ro, 0x20⟩]⟩,  -- PICK_CAP
   ⟨0x8, 0, 0x0, 0, 0x0, [⟨⟨0, 8⟩, .ro, 0x2⟩, ⟨⟨8, 8⟩, .ro, 0x14⟩]⟩,  -- PICK_CFG
   ⟨0x10, 0, 0x0, 0, 0x0, [⟨⟨0, 14⟩, .ro, 0x0⟩, ⟨⟨16, 10⟩, .ro, 0x0⟩, ⟨⟨32, 11⟩, .ro, 0x0⟩, ⟨⟨48, 11⟩, .ro, 0x0⟩]⟩,  -- PICK_STAT
   ⟨0x10000, 1024, 0x20, 0, 0x0, [⟨⟨0, 2⟩, .ro, 0x0⟩, ⟨⟨4, 4⟩, .ro, 0x3⟩, ⟨⟨8, 8⟩, .ro, 0x40⟩, ⟨⟨16, 16⟩, .ro, 0x7D0⟩, ⟨⟨32, 16⟩, .ro, 0x1388⟩, ⟨⟨48, 16⟩, .ro, 0x3E8⟩]⟩,  -- PICK_CLK_CFG
   ⟨0x10008, 1024, 0x20, 0, 0x0, [⟨⟨0, 32⟩, .ro, 0x0⟩, ⟨⟨32, 7⟩, .ro, 0x0⟩]⟩,  -- PICK_CLK_NOM
   ⟨0x10010, 1024, 0x20, 0, 0x0, [⟨⟨0, 40⟩, .ro, 0x0⟩, ⟨⟨40, 3⟩, .ro, 0x0⟩, ⟨⟨48, 16⟩, .ro, 0x0⟩]⟩,  -- PICK_CLK_STAT
   ⟨0x10018, 1024, 0x20, 0, 0x0, [⟨⟨0, 64⟩, .ro, 0x0⟩]⟩,  -- PICK_CLK_IDX
   ⟨0x20000, 64, 0x8, 0, 0x0, [⟨⟨0, 10⟩, .rw, 0x0⟩, ⟨⟨10, 1⟩, .rw, 0x0⟩, ⟨⟨11, 1⟩, .ro, 0x0⟩, ⟨⟨12, 1⟩, .ro, 0x0⟩, ⟨⟨13, 1⟩, .ro, 0x0⟩, ⟨⟨16, 16⟩, .rw, 0x0⟩, ⟨⟨32, 16⟩, .rw, 0x0⟩, ⟨⟨48, 16⟩, .rw, 0x0⟩]⟩,  -- PICK_ALARM
   ⟨0x100, 0, 0x0, 0, 0x0, [⟨⟨0, 64⟩, .ro, 0x0⟩]⟩,  -- PICK_MSG
   ⟨0x108, 0, 0x0, 0, 0x0, [⟨⟨0, 64⟩, .ro, 0x0⟩]⟩,  -- PICK_MSG_DROP
   ⟨0x110, 0, 0x0, 0, 0x0, [⟨⟨0, 64⟩, .ro, 0x0⟩]⟩,  -- PICK_RELEASED
   ⟨0x118, 0, 0x0, 0, 0x0, [⟨⟨0, 64⟩, .ro, 0x0⟩]⟩,  -- PICK_UNTIMED
   ⟨0x120, 0, 0x0, 0, 0x0, [⟨⟨0, 64⟩, .ro, 0x0⟩]⟩,  -- PICK_LATEST
   ⟨0x128, 0, 0x0, 0, 0x0, [⟨⟨0, 64⟩, .ro, 0x0⟩]⟩,  -- PICK_CROWD
   ⟨0x130, 0, 0x0, 0, 0x0, [⟨⟨0, 64⟩, .ro, 0x0⟩]⟩,  -- PICK_PAIR_WAIT
   ⟨0x138, 0, 0x0, 0, 0x0, [⟨⟨0, 64⟩, .ro, 0x0⟩]⟩,  -- PICK_HEAP_FULL
   ⟨0x140, 0, 0x0, 0, 0x0, [⟨⟨0, 64⟩, .ro, 0x0⟩]⟩,  -- PICK_GRP_FULL
   ⟨0x148, 0, 0x0, 0, 0x0, [⟨⟨0, 64⟩, .ro, 0x0⟩]⟩,  -- PICK_GRP_SHORT
   ⟨0x150, 0, 0x0, 0, 0x0, [⟨⟨0, 64⟩, .ro, 0x0⟩]⟩,  -- PICK_GRP_LATE
   ⟨0x158, 0, 0x0, 0, 0x0, [⟨⟨0, 64⟩, .ro, 0x0⟩]⟩]  -- PICK_GRP_MISMATCH
/-- Registers of block 0x07. -/
def defs07 : List RegDef :=
  [⟨0x0, 0, 0x0, 0, 0x0, [⟨⟨0, 2⟩, .ro, 0x0⟩]⟩,  -- SHU_MODE
   ⟨0x8, 0, 0x0, 0, 0x0, [⟨⟨0, 1⟩, .ro, 0x1⟩, ⟨⟨1, 7⟩, .ro, 0x0⟩, ⟨⟨16, 16⟩, .ro, 0x12B5⟩]⟩,  -- SHU_PARSE_CFG
   ⟨0x800, 8, 0x8, 0, 0x0, [⟨⟨0, 1⟩, .ro, 0x0⟩, ⟨⟨1, 1⟩, .ro, 0x0⟩, ⟨⟨4, 2⟩, .ro, 0x0⟩, ⟨⟨6, 1⟩, .ro, 0x0⟩, ⟨⟨7, 1⟩, .ro, 0x0⟩]⟩,  -- SHU_LANE
   ⟨0x1000, 8, 0x100, 0, 0x0, [⟨⟨0, 1⟩, .ro, 0x0⟩, ⟨⟨1, 2⟩, .ro, 0x0⟩, ⟨⟨3, 1⟩, .ro, 0x0⟩, ⟨⟨4, 1⟩, .ro, 0x1⟩, ⟨⟨5, 3⟩, .ro, 0x0⟩, ⟨⟨8, 8⟩, .ro, 0x4⟩, ⟨⟨16, 14⟩, .ro, 0x2400⟩, ⟨⟨32, 8⟩, .ro, 0x0⟩, ⟨⟨40, 8⟩, .ro, 0xA⟩]⟩,  -- SHU_PORT_CFG
   ⟨0x1008, 8, 0x100, 0, 0x0, [⟨⟨0, 1⟩, .ro, 0x0⟩, ⟨⟨1, 1⟩, .ro, 0x0⟩, ⟨⟨2, 1⟩, .ro, 0x0⟩, ⟨⟨8, 8⟩, .ro, 0x0⟩, ⟨⟨16, 8⟩, .ro, 0x0⟩, ⟨⟨24, 16⟩, .ro, 0x0⟩]⟩,  -- SHU_PORT_STAT
   ⟨0x1010, 8, 0x100, 0, 0x0, [⟨⟨0, 48⟩, .ro, 0x0⟩]⟩,  -- SHU_PORT_MAC
   ⟨0x1040, 8, 0x100, 8, 0x8, [⟨⟨0, 16⟩, .ro, 0x0⟩, ⟨⟨16, 16⟩, .ro, 0x0⟩]⟩,  -- SHU_PFC_THR
   ⟨0x1080, 8, 0x100, 0, 0x0, [⟨⟨0, 4⟩, .rw, 0x6⟩, ⟨⟨4, 1⟩, .rw, 0x0⟩, ⟨⟨12, 52⟩, .rw, 0x0⟩]⟩,  -- SHU_EXQ_BASE
   ⟨0x1088, 8, 0x100, 0, 0x0, [⟨⟨0, 13⟩, .rw, 0x0⟩, ⟨⟨16, 13⟩, .ro, 0x0⟩]⟩,  -- SHU_EXQ_IDX
   ⟨0x1090, 8, 0x100, 0, 0x0, [⟨⟨0, 4⟩, .rw, 0x6⟩, ⟨⟨4, 1⟩, .rw, 0x0⟩, ⟨⟨12, 52⟩, .rw, 0x0⟩]⟩,  -- SHU_RAWQ_BASE
   ⟨0x1098, 8, 0x100, 0, 0x0, [⟨⟨0, 13⟩, .ro, 0x0⟩, ⟨⟨16, 13⟩, .rw, 0x0⟩]⟩,  -- SHU_RAWQ_IDX
   ⟨0x2000, 8, 0x100, 0, 0x0, [⟨⟨0, 64⟩, .ro, 0x0⟩]⟩,  -- SHU_RX_FRAMES
   ⟨0x2008, 8, 0x100, 0, 0x0, [⟨⟨0, 64⟩, .ro, 0x0⟩]⟩,  -- SHU_TX_FRAMES
   ⟨0x2010, 8, 0x100, 0, 0x0, [⟨⟨0, 64⟩, .ro, 0x0⟩]⟩,  -- SHU_PAUSE_RX
   ⟨0x2018, 8, 0x100, 0, 0x0, [⟨⟨0, 64⟩, .ro, 0x0⟩]⟩,  -- SHU_PAUSE_TX
   ⟨0x2020, 8, 0x100, 0, 0x0, [⟨⟨0, 64⟩, .ro, 0x0⟩]⟩,  -- SHU_TX_UNDERRUN
   ⟨0x2028, 8, 0x100, 0, 0x0, [⟨⟨0, 64⟩, .ro, 0x0⟩]⟩,  -- SHU_TX_POISON
   ⟨0x2030, 8, 0x100, 0, 0x0, [⟨⟨0, 64⟩, .ro, 0x0⟩]⟩,  -- SHU_FEC_CE
   ⟨0x2038, 8, 0x100, 0, 0x0, [⟨⟨0, 64⟩, .ro, 0x0⟩]⟩,  -- SHU_FEC_UCE
   ⟨0x2040, 8, 0x100, 0, 0x0, [⟨⟨0, 64⟩, .ro, 0x0⟩]⟩,  -- SHU_PAUSE_WD
   ⟨0x2048, 8, 0x100, 0, 0x0, [⟨⟨0, 64⟩, .ro, 0x0⟩]⟩,  -- SHU_LINK_FAIL
   ⟨0x2050, 8, 0x100, 0, 0x0, [⟨⟨0, 64⟩, .ro, 0x0⟩]⟩,  -- SHU_RAW_BAD
   ⟨0x3000, 8, 0x100, 32, 0x8, [⟨⟨0, 64⟩, .ro, 0x0⟩]⟩,  -- SHU_RSN
   ⟨0x4000, 0, 0x0, 0, 0x0, [⟨⟨0, 4⟩, .rw, 0x0⟩, ⟨⟨4, 1⟩, .ro, 0x0⟩, ⟨⟨8, 8⟩, .ro, 0x0⟩, ⟨⟨16, 24⟩, .rw, 0x0⟩]⟩,  -- SHU_QP_CMD
   ⟨0x4008, 0, 0x0, 0, 0x0, [⟨⟨0, 64⟩, .rw, 0x0⟩]⟩,  -- SHU_QP_ARG
   ⟨0x4010, 0, 0x0, 0, 0x0, [⟨⟨21, 27⟩, .rw, 0x0⟩]⟩,  -- SHU_QPC_BASE
   ⟨0x4018, 0, 0x0, 0, 0x0, [⟨⟨21, 27⟩, .rw, 0x0⟩]⟩,  -- SHU_MR_BASE
   ⟨0x4020, 0, 0x0, 0, 0x0, [⟨⟨0, 15⟩, .ro, 0x4000⟩, ⟨⟨16, 13⟩, .ro, 0x0⟩]⟩,  -- SHU_XP_STAT
   ⟨0x4100, 14, 0x8, 0, 0x0, [⟨⟨0, 64⟩, .ro, 0x0⟩]⟩,  -- SHU_TRN
   ⟨0x4200, 0, 0x0, 0, 0x0, [⟨⟨0, 64⟩, .ro, 0x0⟩]⟩,  -- SHU_CTX_MISS
   ⟨0x4208, 0, 0x0, 0, 0x0, [⟨⟨0, 64⟩, .ro, 0x0⟩]⟩,  -- SHU_RETX
   ⟨0x4210, 0, 0x0, 0, 0x0, [⟨⟨0, 64⟩, .ro, 0x0⟩]⟩]  -- SHU_CNP_TX
/-- Registers of block 0x08. -/
def defs08 : List RegDef :=
  [⟨0x0, 0, 0x0, 0, 0x0, [⟨⟨0, 14⟩, .ro, 0x2000⟩, ⟨⟨16, 10⟩, .ro, 0x200⟩, ⟨⟨32, 4⟩, .ro, 0x8⟩, ⟨⟨36, 4⟩, .ro, 0x8⟩, ⟨⟨40, 4⟩, .ro, 0x4⟩, ⟨⟨44, 4⟩, .ro, 0x4⟩, ⟨⟨48, 4⟩, .ro, 0x4⟩]⟩,  -- XF_CAP
   ⟨0x8, 0, 0x0, 0, 0x0, [⟨⟨20, 28⟩, .ro, 0x0⟩]⟩,  -- XF_CFG
   ⟨0x10, 0, 0x0, 0, 0x0, [⟨⟨0, 10⟩, .ro, 0x0⟩, ⟨⟨16, 16⟩, .ro, 0x0⟩]⟩,  -- XF_STAT
   ⟨0x10000, 8192, 0x8, 0, 0x0, [⟨⟨0, 2⟩, .ro, 0x0⟩, ⟨⟨2, 1⟩, .ro, 0x0⟩, ⟨⟨4, 14⟩, .ro, 0x0⟩, ⟨⟨32, 16⟩, .ro, 0x0⟩]⟩,  -- XF_SLOT
   ⟨0x100, 0, 0x0, 0, 0x0, [⟨⟨0, 64⟩, .ro, 0x0⟩]⟩,  -- XF_REQ
   ⟨0x108, 0, 0x0, 0, 0x0, [⟨⟨0, 64⟩, .ro, 0x0⟩]⟩,  -- XF_BYTES_IN
   ⟨0x110, 0, 0x0, 0, 0x0, [⟨⟨0, 64⟩, .ro, 0x0⟩]⟩,  -- XF_BYTES_OUT
   ⟨0x118, 0, 0x0, 0, 0x0, [⟨⟨0, 64⟩, .ro, 0x0⟩]⟩,  -- XF_KEY_MISS
   ⟨0x120, 0, 0x0, 0, 0x0, [⟨⟨0, 64⟩, .ro, 0x0⟩]⟩,  -- XF_TAG_FAIL
   ⟨0x128, 0, 0x0, 0, 0x0, [⟨⟨0, 64⟩, .ro, 0x0⟩]⟩,  -- XF_FORMAT_FAIL
   ⟨0x130, 0, 0x0, 0, 0x0, [⟨⟨0, 64⟩, .ro, 0x0⟩]⟩]  -- XF_OUT_FULL
/-- Registers of block 0x09. -/
def defs09 : List RegDef :=
  [⟨0x1000, 16, 0x40, 0, 0x0, [⟨⟨0, 2⟩, .ro, 0x0⟩, ⟨⟨2, 1⟩, .ro, 0x1⟩, ⟨⟨3, 1⟩, .ro, 0x0⟩, ⟨⟨4, 1⟩, .ro, 0x1⟩, ⟨⟨8, 5⟩, .ro, 0x0⟩]⟩,  -- PE_PORT_CFG
   ⟨0x1008, 16, 0x40, 0, 0x0, [⟨⟨0, 28⟩, .rw, 0x0⟩, ⟨⟨32, 28⟩, .rw, 0x0⟩]⟩,  -- PE_PORT_PHYS
   ⟨0x1010, 16, 0x40, 0, 0x0, [⟨⟨0, 1⟩, .ro, 0x0⟩, ⟨⟨1, 1⟩, .ro, 0x1⟩, ⟨⟨2, 1⟩, .ro, 0x0⟩, ⟨⟨8, 3⟩, .ro, 0x0⟩, ⟨⟨12, 17⟩, .ro, 0x0⟩]⟩,  -- PE_PORT_STAT
   ⟨0x100, 0, 0x0, 0, 0x0, [⟨⟨0, 64⟩, .ro, 0x0⟩]⟩,  -- PE_HANDLE_REJECT
   ⟨0x108, 0, 0x0, 0, 0x0, [⟨⟨0, 64⟩, .ro, 0x0⟩]⟩,  -- PE_DMA_FAULT
   ⟨0x110, 0, 0x0, 0, 0x0, [⟨⟨0, 64⟩, .ro, 0x0⟩]⟩,  -- PE_VDM_DROP
   ⟨0x118, 0, 0x0, 0, 0x0, [⟨⟨0, 64⟩, .ro, 0x0⟩]⟩,  -- PE_LINK_FAIL
   ⟨0x2000, 2, 0x10, 0, 0x0, [⟨⟨0, 1⟩, .w1s, 0x0⟩, ⟨⟨1, 2⟩, .rw, 0x0⟩, ⟨⟨3, 1⟩, .ro, 0x0⟩, ⟨⟨4, 14⟩, .rw, 0x0⟩]⟩,  -- PE_IOTLB_INV
   ⟨0x2008, 2, 0x10, 0, 0x0, [⟨⟨12, 52⟩, .rw, 0x0⟩]⟩,  -- PE_IOTLB_INV_ADDR
   ⟨0x2100, 0, 0x0, 0, 0x0, [⟨⟨0, 64⟩, .ro, 0x0⟩]⟩,  -- PE_IOTLB_MISS
   ⟨0x2108, 0, 0x0, 0, 0x0, [⟨⟨0, 64⟩, .ro, 0x0⟩]⟩,  -- PE_IOTLB_PTE
   ⟨0x2110, 0, 0x0, 0, 0x0, [⟨⟨0, 64⟩, .ro, 0x0⟩]⟩,  -- PE_IOTLB_FAULT
   ⟨0x2118, 0, 0x0, 0, 0x0, [⟨⟨0, 64⟩, .ro, 0x0⟩]⟩]  -- PE_IOTLB_INVCNT
/-- Registers of block 0x10. -/
def defs10 : List RegDef :=
  [⟨0x1000, 4, 0x8, 0, 0x0, [⟨⟨0, 18⟩, .ro, 0x0⟩, ⟨⟨18, 18⟩, .ro, 0x0⟩, ⟨⟨36, 12⟩, .ro, 0x0⟩, ⟨⟨48, 1⟩, .ro, 0x0⟩]⟩]  -- MC_ILV
/-- Registers of block 0x20. -/
def defs20 : List RegDef :=
  [⟨0x0, 0, 0x0, 0, 0x0, [⟨⟨0, 1⟩, .ro, 0x0⟩, ⟨⟨1, 1⟩, .ro, 0x0⟩, ⟨⟨8, 11⟩, .ro, 0x40⟩, ⟨⟨24, 8⟩, .ro, 0xA⟩, ⟨⟨32, 8⟩, .ro, 0x10⟩]⟩,  -- MESH_CFG
   ⟨0x100, 0, 0x0, 0, 0x0, [⟨⟨0, 10⟩, .ro, 0x32⟩, ⟨⟨16, 8⟩, .ro, 0xA⟩]⟩,  -- DIR_CFG
   ⟨0x1000, 192, 0x8, 0, 0x0, [⟨⟨0, 8⟩, .ro, 0x0⟩, ⟨⟨8, 1⟩, .ro, 0x0⟩]⟩,  -- MESH_HART_MAP
   ⟨0x8000, 4096, 0x8, 0, 0x0, [⟨⟨0, 8⟩, .ro, 0x0⟩, ⟨⟨8, 2⟩, .ro, 0x0⟩, ⟨⟨16, 8⟩, .ro, 0x0⟩]⟩]  -- LLC_MAP
/-- Registers of block 0x21. -/
def defs21 : List RegDef :=
  [⟨0x100, 4, 0x10, 0, 0x0, [⟨⟨0, 2⟩, .ro, 0x0⟩, ⟨⟨2, 1⟩, .ro, 0x0⟩, ⟨⟨3, 1⟩, .ro, 0x0⟩, ⟨⟨4, 1⟩, .ro, 0x0⟩, ⟨⟨8, 16⟩, .ro, 0x0⟩]⟩,  -- DBG_TRC_STAT
   ⟨0x108, 4, 0x10, 0, 0x0, [⟨⟨0, 64⟩, .ro, 0x0⟩]⟩,  -- DBG_TRC_DROP
   ⟨0x1000, 4, 0x200, 64, 0x8, [⟨⟨0, 64⟩, .ro, 0x0⟩]⟩]  -- DBG_CNT

/-- The registers of block `b`, `none` for a block number that Table 1.12 does not assign (R30). -/
def blockDefs (b : Nat) : Option (List RegDef) :=
  match b with
  | 0x00 => some defs00 | 0x01 => some defs01 | 0x02 => some defs02 | 0x03 => some defs03 | 0x04 => some defs04
  | 0x05 => some defs05 | 0x06 => some defs06 | 0x07 => some defs07 | 0x08 => some defs08 | 0x09 => some defs09
  | 0x10 => some (mcDefs ++ defs10) | 0x20 => some defs20 | 0x21 => some defs21
  | b => if 0x11 ≤ b ∧ b ≤ 0x1B then some mcDefs else none

/-- Does definition `d` place a register at offset `o` of its block? -/
def RegDef.hits (d : RegDef) (o : Nat) : Bool :=
  let r := o - d.off
  decide (d.off ≤ o) &&
    (if d.n1 = 0 then r == 0
     else decide (r / d.s1 < d.n1) &&
      (if d.n2 = 0 then r % d.s1 == 0
       else decide (r % d.s1 / d.s2 < d.n2) && (r % d.s1 % d.s2 == 0)))

/-- The registers and the offset that a physical address of the register spaces of Table 1.11 falls to. -/
def regSpace (a : Nat) : Option (List RegDef × Nat) :=
  if 0xE00000000000 ≤ a ∧ a < 0xE00100000000 then
    let o := (a - 0xE00000000000) % 0x1000000
    match blockDefs ((a - 0xE00000000000) / 0x1000000) with
    | none => none
    | some l => if 0xF00000 ≤ o then some (bankDefs, o - 0xF00000) else some (l, o)
  else if 0xE10000000000 ≤ a ∧ a < 0xE1000E000000 then
    let o := (a - 0xE10000000000) % 0x100000
    if 0xE00 ≤ o ∧ o < 0xF40 then some (bankDefs, o - 0xE00) else some (nodeDefs, o)
  else if 0xE20000000000 ≤ a ∧ a < 0xE20020010000 then
    some (pageDefs, (a - 0xE20000000000) % 0x10000)
  else none

/-- The fields of the register at a physical address; none where no register sits (R11). -/
def regFields (a : Nat) : List FieldDef :=
  match regSpace a with
  | none => []
  | some (l, o) => match l.find? (·.hits o) with
    | none => []
    | some d => d.fields

/-- The bits a field covers. -/
def Fld.mask (f : Fld) : W64 := BitVec.ofNat 64 ((2 ^ f.wid - 1) * 2 ^ f.lo)
/-- A field's value in a register word. -/
def Fld.get (f : Fld) (w : W64) : Nat := (w.toNat / 2 ^ f.lo) % 2 ^ f.wid
/-- A register word with a field replaced. -/
def Fld.put (f : Fld) (w : W64) (v : Nat) : W64 :=
  (w &&& ~~~ f.mask) ||| (BitVec.ofNat 64 (v % 2 ^ f.wid * 2 ^ f.lo))

/-- The bits of the register at `a` that hold a field; every other bit reads 0 (R10, R11). -/
def regMask (a : Nat) : W64 := (regFields a).foldl (fun m d => m ||| d.fld.mask) 0

/-- Kind of mesh node `n` (Table 1.3): 0 core tile, 1 memory controller, 2 port, 3 service. -/
def nodeKind (n : Nat) : Nat :=
  let x := n % 16 % 8
  let y := n / 16 % 7
  if x = 0 ∧ (y = 1 ∨ y = 3 ∨ y = 5) then 1
  else if x = 7 ∧ (y = 2 ∨ y = 4) then 2
  else if x = 7 ∧ y = 6 then 3
  else 0
/-- Compute die of node `n` (section 1.2). -/
def nodeDie (n : Nat) : Nat := n / 16 / 7 * 2 + n % 16 / 8
/-- MESH_NODE_INFO.UNIT of node `n` (Table 1.5). -/
def nodeUnit (n : Nat) : Nat :=
  let y := n / 16 % 7
  match nodeKind n with
  | 1 => nodeDie n * 3 + (y - 1) / 2
  | 2 => nodeDie n * 2 + (y - 2) / 2
  | 3 => nodeDie n
  | _ => 0

/-- The parts of a reset value that depend on the register's index (Tables 1.5, 7.10, 16.3, 18.2, 20.13). -/
def regIndexReset (a : Nat) : Nat :=
  if 0xE10000000000 ≤ a ∧ a < 0xE1000E000000 ∧ (a - 0xE10000000000) % 0x100000 = 0 then
    let n := (a - 0xE10000000000) / 0x100000
    n % 16 + n / 16 * 16 + nodeDie n * 256 + nodeKind n * 4096 + nodeUnit n * 65536
  else if HRN_SRC 1 ≤ a ∧ a ≤ HRN_SRC 1023 then
    let n := (a - HRN_SRC 0) / 8
    (if n ≤ 64 then 6 else 0) + (if n ≤ 39 then 64 else 0)
  else if a = SEL_SRCWORLD 0 then 0xFFFFFFFFFE
  else if CREEL_CH_CFG 0 ≤ a ∧ a < CREEL_CH_CFG 16 ∧ (a - CREEL_CH_CFG 0) % 0x20 = 0 then
    (a - CREEL_CH_CFG 0) / 0x20 * 2 ^ CREEL_CH_CFG_RANK.lo
  else if PE_PORT_CFG 0 ≤ a ∧ a < PE_PORT_CFG 16 ∧ (a - PE_PORT_CFG 0) % 0x40 = 0 then
    (if (a - PE_PORT_CFG 0) / 0x40 ≤ 11 then (a - PE_PORT_CFG 0) / 0x40 else 0x1F) * 2 ^ PE_PORT_CFG_FEED.lo
  else 0

/-- The value of the register at `a` after a cold reset: what a register that the map does not list reads as. -/
def regReset (a : Nat) : W64 :=
  ((regFields a).foldl (fun m d => m ||| BitVec.ofNat 64 (d.reset * 2 ^ d.fld.lo)) 0)
    ||| BitVec.ofNat 64 (regIndexReset a)

end Sys2Proof.Machine
end

