-- ==== Sys2Proof/Machine/Tab.lean ====
section
/-! DEFINITION. Finite maps as lists of (key, value) pairs with strictly rising keys: the one form in which the state holds
memory, registers and everything else that the spec keeps per address, per node, per function or per channel. -/

namespace Sys2Proof.Machine

/-- A finite map: pairs in strictly rising order of their keys. -/
abbrev Tab (α : Type) := List (Nat × α)

/-- The value listed at `k`. -/
def Tab.find {α : Type} (t : Tab α) (k : Nat) : Option α :=
  match t with
  | [] => none
  | p :: r => if p.1 = k then some p.2 else Tab.find r k

/-- The value at `k`, `d` where none is listed. -/
def Tab.getD {α : Type} (t : Tab α) (k : Nat) (d : α) : α := (Tab.find t k).getD d

/-- List `v` at `k`, in key order, in place of what stood there. -/
def Tab.put {α : Type} (t : Tab α) (k : Nat) (v : α) : Tab α :=
  match t with
  | [] => [(k, v)]
  | p :: r => if k < p.1 then (k, v) :: p :: r else if k = p.1 then (k, v) :: r else p :: Tab.put r k v

/-- List nothing at `k`. -/
def Tab.drop {α : Type} (t : Tab α) (k : Nat) : Tab α :=
  match t with
  | [] => []
  | p :: r => if p.1 = k then Tab.drop r k else p :: Tab.drop r k

/-- Change the value at `k`, starting from `d` where none is listed. -/
def Tab.upd {α : Type} (t : Tab α) (k : Nat) (d : α) (f : α → α) : Tab α := Tab.put t k (f (Tab.getD t k d))

/-- The keys in strictly rising order, every one above `lo` (`none`: no bound yet). -/
def Tab.risingFrom {α : Type} (lo : Option Nat) (t : Tab α) : Bool :=
  match t with
  | [] => true
  | p :: r => (match lo with | none => true | some l => decide (l < p.1)) && Tab.risingFrom (some p.1) r

/-- Store `v` at `k` in a map whose unlisted keys read as `dflt`, keeping it canonical: the default is never listed. -/
def Tab.store {α : Type} [DecidableEq α] (dflt : Nat → α) (t : Tab α) (k : Nat) (v : α) : Tab α :=
  if v = dflt k then Tab.drop t k else Tab.put t k v

/-- The value at `k` of a map whose unlisted keys read as `dflt`. -/
def Tab.load {α : Type} (dflt : Nat → α) (t : Tab α) (k : Nat) : α := Tab.getD t k (dflt k)

/-- The canonical form: keys strictly rising, and no entry equal to what its key reads as when unlisted. -/
def Tab.canon {α : Type} [DecidableEq α] (dflt : Nat → α) (t : Tab α) : Bool :=
  Tab.risingFrom none t && t.all (fun p => decide (p.2 ≠ dflt p.1))

/-- A set of numbers as a list without repeats: add one. -/
def insertNat (l : List Nat) (n : Nat) : List Nat := if l.contains n then l else n :: l
/-- A set of numbers as a list: take one out. -/
def eraseNat (l : List Nat) (n : Nat) : List Nat := l.filter (· != n)
/-- Members of a list that satisfy a test come out, the first of them. -/
def takeFirst {α : Type} (p : α → Bool) (l : List α) : Option α × List α :=
  match l with
  | [] => (none, [])
  | a :: r => if p a then (some a, r) else ((takeFirst p r).1, a :: (takeFirst p r).2)

end Sys2Proof.Machine
end

