-- ==== Sys2Proof/Machine/State.lean ====
section
/-! DEFINITION. The state of the block as plain data: the queue of waiting commands, the clocks, every memory-mapped
register (one map by physical address), DRAM, and the state of each subsystem that no register shows. INVENTORY.md lists
every piece with the rule that names it. -/

namespace Sys2Proof.Machine

/-- Reasons for a fault. No meaning of this model raises one: every command of the table takes a next state. -/
inductive Fault where
  /-- Raised by nothing: the block has no step that the spec leaves stuck. Safe: no run ends in it. -/
  | stuck
  deriving DecidableEq, Repr

/-- Reasons for a refusal. -/
inductive Refusal where
  /-- Raised by an arm of `exec` whose command has no meaning yet, by its mnemonic. Safe: nothing is claimed of it. -/
  | notModelled (mnemonic : String)
  deriving DecidableEq, Repr

/-- What the last access of a hart, a debugger, the Lease ring or a PCIe device to a register or to memory was answered: the
data, and whether it took an access fault (R7, R8, R11); the completion of the last PCIe request: its status (0 successful, 1
Unsupported Request, 4 Completer Abort), its bytes, and its EP bit. -/
structure IoSt where
  answer : W64 := 0
  fault : Bool := false
  cpl : Nat := 0
  data : List Byte := []
  ep : Bool := false
  deriving DecidableEq, Repr


/-- The clocks: TIME in ns (R351, R510), the mesh cycle counter of R44 with its fraction, and the index of the next
free value (the model's own field; no claim rests on its value). -/
structure Clk where
  time : Nat := 0
  meshCycle : Nat := 0
  meshAcc : Nat := 0
  rtcAcc : Nat := 0
  freeIx : Nat := 0
  deriving DecidableEq, Repr

/-- Fuses (R19, Tables 1.13, 18.8, 18.15, 22.6). -/
structure Fuses where
  grade : Nat := 0x1E
  step : Nat := 1
  spares : List Nat := [214, 216, 217, 218, 219, 220, 221, 222]
  uid : Nat := 0
  life : Nat := 0
  lifeCopiesAgree : Bool := true
  ownerSet : Bool := false
  ownerHash : Nat := 0
  vendorHash : Nat := 0
  cap : Nat := 0
  floor : Nat := 0
  deriving DecidableEq, Repr

/-- One mesh probe comparator image (Table 23.3). -/
structure CmpImage where
  ports : Nat := 0
  classes : Nat := 0
  dest : Nat := 0
  destMask : Nat := 0
  src : Nat := 0
  srcMask : Nat := 0
  flags : Nat := 0
  action : Nat := 0
  tenant : Nat := 0
  tenantMask : Nat := 0
  opcode : Nat := 0
  opcodeMask : Nat := 0
  addrLo : Nat := 0
  addrHi : Nat := 0
  deriving DecidableEq, Repr, Inhabited

/-- A store queue entry (R331): where its bytes go (inside one line), the bytes as a little-endian number, its kind (0 a
store, 1 cbo.zero, 2 cbo.clean, 3 cbo.flush), and whether it has been sent to the home (a streamed line, R94, a write of
R343, a cache-block operation) and waits for the answer. -/
structure StoreEnt where
  pa : Nat
  size : Nat
  data : Nat
  vector : Bool := false
  kind : Nat := 0
  sent : Bool := false
  deriving DecidableEq, Repr, Inhabited

/-- A load that has issued and not retired (R332, R334): its destination, its `n1` bytes from `pa` and the rest of its
`size` bytes from `pa2` (the next line), what it does with them, its address, pc and length; `val` holds the value once
performed, `got` the lines that came as copies which are not kept, `replay` marks one that R334 replays. -/
structure LoadEnt where
  rd : Nat
  pa : Nat
  pa2 : Nat
  n1 : Nat
  va : Nat
  size : Nat
  kind : LoadKind
  pc : Nat
  len : Nat
  val : Option Nat := none
  got : List (Nat × Line × Bool) := []
  replay : Bool := false
  deriving DecidableEq, Repr, Inhabited

/-- An entry of a TLB (R377): the tag fields, the page offset width of its size class, and the translation with its
permissions (bit 0 R, 1 W, 2 X, 3 U, 4 A, 5 D). -/
structure TlbEnt where
  vpn : Nat
  bits : Nat
  mode : Nat
  asid : Nat
  vmid : Nat
  v : Bool
  g : Bool
  world : Bool
  ppn : Nat
  perm : Nat
  deriving DecidableEq, Repr, Inhabited

/-- A non-leaf entry of a walk cache: the stage, the level that it leads to, the address prefix, and the next table. -/
structure WalkEnt where
  gstage : Bool
  level : Nat
  tag : Nat
  v : Bool
  vmid : Nat
  root : Nat
  world : Bool
  table : Nat
  deriving DecidableEq, Repr, Inhabited

/-- The branch predictor of a core (Table 12.6): the tag of the running context, both histories, the return stack, and
the entries of the tables with their tags. The index functions are not given: tables are keyed by the pc. -/
structure Predictor where
  tag : Nat := 0
  hist : Nat := 0
  path : Nat := 0
  ras : List (Nat × Nat) := []
  base : Tab (Nat × Nat) := []
  btb : Tab (Nat × Nat) := []
  storeSets : List (Nat × Nat × Nat) := []
  deriving DecidableEq, Repr, Inhabited

/-- A hart's I/O access that waits to be the oldest instruction (R336); `mpriv` is the MPRIV bit of its flit (Table 2.1). -/
structure IoEnt where
  rd : Nat
  pa : Nat
  va : Nat
  size : Nat
  kind : LoadKind
  store : Bool
  data : Nat
  mpriv : Bool
  pc : Nat
  len : Nat
  deriving DecidableEq, Repr, Inhabited

/-- A hart with its core (chapters 12–14). `csr` is keyed by CSR number + 4,096 × bank (0 shared, 1 secure copy, 2 normal
copy, R475); the registers are keyed by number. -/
structure Hart where
  x : Tab W64 := []
  f : Tab W64 := []
  v : Tab (BitVec 256) := []
  csr : Tab W64 := []
  pc : Nat := 0
  priv : Nat := 3
  virt : Bool := false
  world : Bool := true
  released : Bool := false
  wfi : Bool := false
  lost : Bool := false
  resv : Option Nat := none
  sq : List StoreEnt := []
  lq : List LoadEnt := []
  io : Option IoEnt := none
  pred : Predictor := {}
  itlb : Tab TlbEnt := []
  dtlb : Tab TlbEnt := []
  l2tlb : List TlbEnt := []
  walk : List WalkEnt := []
  tcm : Tab Byte := []
  tcmWorld : Bool := true
  fbuf : Option Nat := none
  wopen : Bool := false
  btnOut : Nat := 0
  btnSrc : Option (Nat × Line × Bool) := none
  btnFail : Nat := 0
  pauseUntil : Nat := 0
  deriving DecidableEq, Repr, Inhabited

/-- The harts by their numbers. -/
structure CoreSt where
  hart : Tab Hart := []
  deriving DecidableEq, Repr


/-- A flit that waits in a node's injection queue (R48, R49): since which mesh cycle, and the rights that waiting has
given it (any free output after 8 cycles; its class served first after 64). -/
structure InjEntry where
  flit : Flit
  since : Nat
  anyOut : Bool := false
  aged : Bool := false
  deriving DecidableEq, Repr, Inhabited

/-- The mesh (chapter 02). `inputs` is keyed by node × 4 + input port (0 +x, 1 −x, 2 +y, 3 −y), the rest by node. -/
structure MeshSt where
  inputs : Tab (List Flit) := []
  inj : Tab (List InjEntry) := []
  inbox : Tab (List Flit) := []
  outUsed : Tab (List Nat) := []
  starve : List Nat := []
  lastInj : Tab Nat := []
  drainStart : Tab Nat := []
  noNewReq : List Nat := []
  stopped : Bool := true
  paused : Bool := false
  nbrSince : Tab Nat := []
  nbrCool : Tab Nat := []
  deriving DecidableEq, Repr

/-- MOESI states of an L2 line (R106); an absent line is I. -/
inductive Moesi where
  | m | o | e | s
  deriving DecidableEq, Repr, Inhabited

/-- A line of a tile's L2 (R71, R73): its state and data, its way and re-reference value (R75), its ways in the L1 arrays
that hold it too, and whether a stride prefetch filled it. -/
structure L2Line where
  st : Moesi
  data : Line
  poison : Bool := false
  way : Nat := 0
  rrpv : Nat := 2
  l1i : Option Nat := none
  l1d : Option Nat := none
  pf : Bool := false
  deriving DecidableEq, Repr, Inhabited

/-- A line of a slice (R71, R74, R86). Its dirty mark is SLICE_DIRTY of its directory entry (R112). -/
structure SliceLine where
  data : Line
  poison : Bool := false
  way : Nat := 0
  rrpv : Nat := 2
  win : Bool := false
  deriving DecidableEq, Repr, Inhabited

/-- A stride detector (R88). -/
structure Stride where
  pc : Nat
  last : Nat
  stride : Int := 0
  count : Nat := 0
  deriving DecidableEq, Repr, Inhabited

/-- A core's streaming counter (R92): its value, the line and the byte mask of the full-line store in progress, and the
line of the last full-line store. -/
structure Stream where
  count : Nat := 0
  line : Nat := 0
  mask : Nat := 0
  lastFull : Option Nat := none
  deriving DecidableEq, Repr, Inhabited

/-- A slice-map update in progress (R81): the value the requesters still hold until the update flit reaches them, the
requesters it has not reached, the acknowledgements outstanding, and the step. -/
structure MapMove where
  old : W64
  waiting : List Nat
  acks : Nat
  walking : Bool := false
  started : Bool := false
  ending : Bool := false
  deriving DecidableEq, Repr, Inhabited

/-- The caches (chapter 03). Lines are keyed by node × 2^42 + line number. -/
structure CacheSt where
  l2 : Tab L2Line := []
  slice : Tab SliceLine := []
  plruI : Tab Nat := []
  plruD : Tab Nat := []
  tagsUsed : Tab Nat := []
  tagWait : List (Nat × Flit) := []
  mapMove : Tab MapMove := []
  stride : Tab (List Stride) := []
  stream : Tab Stream := []
  scrubPos : Tab Nat := []
  deriving DecidableEq, Repr

/-- A directory entry (Table 4.2); its own way in the directory is `way`; the slice way of the line
is held with the slice's line. -/
structure DirEntry where
  st : Nat := 0
  sdirty : Bool := false
  ovf : Bool := false
  owner : Nat := 0
  shr : List Nat := []
  way : Nat := 0
  deriving DecidableEq, Repr, Inhabited

/-- An open transaction of a home (R108): its request, the nodes whose snoop answers are awaited and the snoop sent to
the owner, what else it waits for (MEM_DATA, the COMP of a MEM_WR, COMP_ACK, WB_DATA, REL_DONE, room in the directory),
what the owner's answer said, the data gathered, the ACCs chained to it and the requests that must follow it, and since
when it waits (R122). `ready` marks one whose wait for room has ended. -/
structure Tx where
  req : Flit
  ticketed : Bool := false
  acc : Bool := false
  waits : List Nat := []
  own : Nat := 0
  mem : Bool := false
  memWr : Bool := false
  ack : Bool := false
  wb : Bool := false
  rel : Bool := false
  released : Bool := false
  written : Bool := false
  victim : Option Nat := none
  ready : Bool := false
  ownerDirty : Bool := false
  fwd : Bool := false
  data : Option Line := none
  poison : Bool := false
  chain : List Flit := []
  later : List Flit := []
  since : Nat := 0
  deriving DecidableEq, Repr, Inhabited

/-- A ticket at a home (R117, R118). -/
structure Ticket where
  req : Nat
  line : Nat
  flit : Flit
  granted : Bool := false
  since : Nat := 0
  deriving DecidableEq, Repr, Inhabited

/-- What a requester wants an outstanding request for. -/
inductive ReqWhy where
  | load | store | amo | fetch | prefetch | stream | zero | evict | clean | flush | engine | batten | window
  deriving DecidableEq, Repr, Inhabited

/-- A request that a requester has sent and that is not complete (R119–R121, R125). -/
structure ReqOut where
  req : Nat
  home : Nat
  flit : Flit
  why : ReqWhy
  since : Nat
  obj : Nat := 0
  sub : Nat := 0
  holder : Bool := false
  nacked : Bool := false
  retried : Bool := false
  deriving DecidableEq, Repr, Inhabited

/-- A tile's eviction buffer entry (R121). -/
structure EvBuf where
  data : Line
  poison : Bool := false
  dirty : Bool := false
  stale : Bool := false
  deriving DecidableEq, Repr, Inhabited

/-- Coherence (chapter 04). Entries and transactions are keyed by home × 2^42 + line number, tickets by home, eviction
buffers by node × 2^42 + line number. -/
structure CohSt where
  dir : Tab DirEntry := []
  tx : Tab Tx := []
  tickets : Tab (List Ticket) := []
  reqs : List ReqOut := []
  earlyGrant : List (Nat × Nat × Nat × Nat) := []
  evbuf : Tab EvBuf := []
  nextTxn : Nat := 0
  deriving DecidableEq, Repr

/-- A landing window that is not IDLE (chapter 05): its copy of the descriptor (Tables 5.6 and 5.7, four-field entries as
the 64-bit words), the landed bitmap by position, the flits sent and not answered and those answered, the flags gathered,
the ZEROs awaited, the RELEASEs awaited, the step of the close (1 draining, 2 releasing, 3 notice) with
the notice's result, and who opened it: a
hart that waits for rd, or a Loom request. -/
structure Win where
  npos : Nat := 0
  lines : Nat := 0
  flags : Nat := 0
  expect : Nat := 0
  engine : Nat := 0
  notice : Nat := 0
  vec : Nat := 0
  src : List Nat := []
  ents : List (List Nat) := []
  landed : Tab Nat := []
  outstanding : Nat := 0
  applied : Nat := 0
  seen : Nat := 0
  zeros : Nat := 0
  zeroBad : Bool := false
  releases : Nat := 0
  phase : Nat := 0
  noticeRes : Option Bool := none
  hart : Option (Nat × Nat × Nat) := none
  loom : Option Nat := none
  deriving DecidableEq, Repr, Inhabited

/-- The window controller: windows by number, and the fan-out buffer's lines by identity with the flits that each still
awaits. -/
structure BtnSt where
  win : Tab Win := []
  fan : Tab Nat := []
  nextFan : Nat := 0
  deriving DecidableEq, Repr

/-- What the engine holds of a function's queue beside its registers, which hold the doorbell shadows too (Table 6.17): the
completion tail with its phase, the unsignalled completions and the time of the oldest of them. -/
structure LoomQ where
  ctail : Nat := 0
  phase : Nat := 1
  unsig : Nat := 0
  unsigAt : Nat := 0
  deriving DecidableEq, Repr, Inhabited

/-- A function (R166, R181): its limits, tables and extents, its vectors, its queues, since when it is resident and idle,
whether QUANTUM has stopped its fetch, the due time of its quiesce, and the queue whose turn is next. -/
structure LoomFn where
  maxIn : Nat := 256
  ctx : Nat := 0
  ptRoot : Nat := 0
  vecs : List Nat := []
  ext : List Nat := []
  q : Tab LoomQ := []
  since : Nat := 0
  idleAt : Nat := 0
  stopped : Bool := false
  quiesceEnd : Nat := 0
  rr : Nat := 0
  deriving DecidableEq, Repr, Inhabited

/-- A request in flight (R176–R179): its queue, its entry, whether it has started, its drive slot, and how it ended
(STATUS, RESULT, DETAIL). -/
structure LoomReq where
  f : Nat
  q : Nat
  ent : Line
  started : Bool := false
  slot : Option Nat := none
  done : Option (Nat × Nat × Nat) := none
  deriving DecidableEq, Repr, Inhabited

/-- The Loom engine (chapter 06). Requests are keyed by their order of fetch. -/
structure LoomSt where
  fn : Tab LoomFn := []
  req : Tab LoomReq := []
  nextReq : Nat := 0
  hold : List Nat := []
  turn : Nat := 0
  lastFn : Nat := 0
  deriving DecidableEq, Repr

/-- A drive command slot (R206, R210, R212): the Loom request, or `none` for a keeper request (R582); the controller, and
the pair that holds the command once it is written; the command and its transfer; the marks that its accesses have left;
whether its doorbell has been written and when; whether it is revoked; whether its request has already been ended; and the
order in which it was taken. -/
structure Slot where
  req : Option Nat
  f : Nat
  ctrl : Nat
  pair : Option Nat := none
  op : Nat
  nsid : Nat
  slba : Nat
  nlb : Nat
  len : Nat
  addr : Nat
  win : Bool
  timed : Bool := false
  poisoned : Bool := false
  xlate : Bool := false
  dma : Bool := false
  revoked : Bool := false
  rung : Option Nat := none
  ended : Bool := false
  seq : Nat := 0
  deriving DecidableEq, Repr, Inhabited

/-- A hardware queue pair (R204, R214, R237): the submission tail, the completion index and phase, the entries not yet
acknowledged with the time of the oldest, and the timed command that has claimed it. -/
structure DrvPair where
  tail : Nat := 0
  head : Nat := 0
  phase : Nat := 1
  unacked : Nat := 0
  unackedAt : Nat := 0
  claim : Option Nat := none
  deriving DecidableEq, Repr, Inhabited

/-- A root port beside its registers (R200–R202): PERST_N, the time at which PERST is due to be released or was released,
Link Disable, its DPC trigger status, the Data Link Layer State Changed status, the lanes of its sub-links, and whether the link failure of
Table 7.4 has been logged. -/
structure Port where
  perst : Bool := true
  due : Option Nat := none
  since : Option Nat := none
  disabled : Bool := false
  dpc : Bool := false
  changed : Bool := false
  lanes : Tab Nat := []
  failed : Bool := false
  deriving DecidableEq, Repr, Inhabited

/-- Drive attach (chapter 07): command slots, pairs and ports by number; the doorbell writes that have left for the drives
(address, value), the newest first; and the answers of the PTM responder (port, t2, t3); and
the keeper requests that have ended (slot, STATUS, DETAIL). -/
structure DrvSt where
  slot : Tab Slot := []
  nextSeq : Nat := 0
  pair : Tab DrvPair := []
  port : Tab Port := []
  doorbells : List (Nat × Nat) := []
  ptm : List (Nat × Nat × Nat) := []
  keeper : List (Nat × Nat × Nat) := []
  deriving DecidableEq, Repr

/-- What an angle clock holds beside its registers (R224–R227): whether it holds an IDX, the consecutive messages within
TOL, the consecutive outliers, the consecutive learned residuals above and within 8 × TOL, when it entered its state, and
when its last message was accepted. -/
structure AngleClk where
  hasIdx : Bool := false
  good : Nat := 0
  outl : Nat := 0
  high : Nat := 0
  low : Nat := 0
  entered : Nat := 0
  last : Nat := 0
  deriving DecidableEq, Repr, Inhabited

/-- A zone table entry (Table 8.4). -/
structure Zone where
  first : Nat
  spt : Nat
  angle0 : Nat
  skew : Nat
  deriving DecidableEq, Repr, Inhabited

/-- How an entry's release is counted: by angle, at once without an angle, at once because the heap was full. -/
inductive PickWhy where
  | angle | untimed | atOnce | full
  deriving DecidableEq, Repr, Inhabited

/-- A release heap entry (R232): slot, drive, target angle, its release time in 1/256 ns once computed, its group with
LATEST and NLB for the group's schedule, whether it has claimed its pair, and whether it has waited for one. -/
structure HeapEnt where
  slot : Nat
  drive : Nat
  theta : Nat
  latest : Nat
  at256 : Option Nat := none
  group : Option (Nat × Nat) := none
  why : PickWhy := .angle
  claimed : Bool := false
  waited : Bool := false
  deriving DecidableEq, Repr, Inhabited

/-- A stripe group (R241), keyed by function and GROUP: its size, the members that have entered, when the first did, and
whether it has been scheduled. -/
structure PickGroup where
  f : Nat
  group : Nat
  size : Nat
  entered : Nat
  since : Nat
  scheduled : Bool := false
  deriving DecidableEq, Repr, Inhabited

/-- The Pick unit (chapter 08): clocks and zone tables by drive, the heap in order of entry, groups, the arm times of the
alarms, the due times of the last releases and the time of the last doorbell write (R236). -/
structure PickSt where
  clk : Tab AngleClk := []
  zones : Tab (List Zone) := []
  heap : List HeapEnt := []
  groups : List PickGroup := []
  armed : Tab Nat := []
  recent : List Nat := []
  lastRing : Nat := 0
  deriving DecidableEq, Repr

/-- A frame in a receive FIFO with its notice (Table 9.5): its bytes without FCS as far as they were written, its priority,
its arrival TIME, whether the notice was raised early, and its final STATUS. -/
structure RxFrame where
  data : List Byte
  prio : Nat
  time : Nat
  cut : Bool
  status : Nat
  deriving DecidableEq, Repr, Inhabited

/-- What an acknowledge packet says (R294, R296, R298): ACK, RNR NAK with a timer code, or NAK with its code (0 PSN Sequence
Error, 1 Invalid Request, 2 Remote Access Error, 3 Remote Operational Error). -/
inductive AckKind where
  | ack
  | rnr (timer : Nat)
  | nak (code : Nat)
  deriving DecidableEq, Repr

/-- A transport packet that leaves (chapter 10): the sending queue pair, the destination, the BTH fields, the extended
headers that its opcode calls for, the payload, and the addresses that the context or the send entry gives. -/
structure RocePkt where
  qpn : Nat
  dqpn : Nat
  opcode : Nat
  psn : Nat
  pkey : Nat := 0
  solicited : Bool := false
  reth : Option (Nat × Nat × Nat) := none
  imm : Option Nat := none
  qkey : Option Nat := none
  ack : Option (AckKind × Nat) := none
  payload : List Byte := []
  sip : Nat := 0
  dip : Nat := 0
  dmac : Nat := 0
  sport : Nat := 0
  dscp : Nat := 0
  vlan : Nat := 0
  deriving DecidableEq, Repr

/-- What a transmit frame carries: bytes of a raw ring slot, or a transport packet. -/
inductive TxBody where
  | raw (bytes : List Byte)
  | roce (p : RocePkt)
  deriving DecidableEq, Repr

/-- A frame of a transmit FIFO. -/
structure TxFrame where
  body : TxBody
  prio : Nat
  deriving DecidableEq, Repr

/-- A PAUSE or PFC frame to send (R267): quanta by priority. -/
structure CtlFrame where
  pfc : Bool
  quanta : Tab Nat
  deriving DecidableEq, Repr

/-- What left a port: a frame, with or without the error control block of R261, or a MAC control frame. -/
inductive SentFrame where
  | frame (f : TxFrame) (error : Bool)
  | ctl (c : CtlFrame)
  deriving DecidableEq, Repr

/-- A Shuttle port beside its registers (R257–R270, R281): its receive FIFO, its transmit FIFOs, transport frames that wait
for room, control frames to send, the due times of the pause timers, since when priorities are paused without a break, the
priorities whose watchdog event has been logged, when XOFF was last queued by priority, the priority served last, and since
when the enabled port waits for its link. -/
structure ShuPort where
  rx : List RxFrame := []
  tx : List TxFrame := []
  wait : List TxFrame := []
  ctl : List CtlFrame := []
  timer : Tab Nat := []
  paused : Tab Nat := []
  wdDone : List Nat := []
  xoff : Tab Nat := []
  rr : Nat := 7
  waitLink : Option Nat := none
  deriving DecidableEq, Repr

/-- A packet that the parser passed (R271): port, arrival TIME, ECN, the IP headers, the UDP header and its payload, with the
IP version. -/
structure InPkt where
  port : Nat
  time : Nat
  ecn : Nat
  v6 : Bool
  ip : List Byte
  udp : List Byte
  pay : List Byte
  deriving DecidableEq, Repr, Inhabited

/-- A send work request in flight (R298): its entry, its first and last PSN, and the bytes a READ has received. -/
structure SendWr where
  ent : Line
  first : Nat
  last : Nat
  got : Nat := 0
  deriving DecidableEq, Repr, Inhabited

/-- An inbound READ that is being served or waits (R294): its next PSN, the address and the bytes left, whether a response
has been sent, and its region. -/
structure RdReq where
  psn : Nat
  va : Nat
  left : Nat
  started : Bool := false
  region : Nat
  deriving DecidableEq, Repr, Inhabited

/-- An inbound message in progress: a SEND into a receive entry (address, length, WR_ID), or a WRITE (address, length,
region); `off` bytes have arrived. -/
structure InMsg where
  write : Bool
  addr : Nat
  len : Nat
  wrId : Nat := 0
  region : Nat := 0
  off : Nat := 0
  deriving DecidableEq, Repr, Inhabited

/-- The context of a queue pair (Table 10.3, R286–R298): STATE and CAUSE of Table 10.7, the descriptor's fields, ring
indices and the completion phase, PSNs, work in flight, the inbound message, timers, the rate limit, and whether a write of the
completion ring has failed. -/
structure Qp where
  st : Nat := 1
  cause : Nat := 0
  ud : Bool := false
  port : Nat := 0
  func : Nat := 0
  slot : Nat := 0
  pkey : Nat := 0
  qkey : Nat := 0
  dqpn : Nat := 0
  sqBase : Nat := 0
  rqBase : Nat := 0
  cqBase : Nat := 0
  sqLog : Nat := 4
  rqLog : Nat := 4
  cqLog : Nat := 4
  vec : Nat := 0
  pmtu : Nat := 1
  tmo : Nat := 1
  retry : Nat := 0
  rnrRetry : Nat := 0
  rnrTmr : Nat := 0
  maxRd : Nat := 1
  rdResp : Nat := 1
  maxSq : Nat := 1
  dscp : Nat := 0
  prio : Nat := 0
  vlan : Nat := 0
  sip : Nat := 0
  dip : Nat := 0
  dmac : Nat := 0
  sport : Nat := 0
  ackFreq : Nat := 1
  sqHead : Nat := 0
  sqTail : Nat := 0
  rqHead : Nat := 0
  rqTail : Nat := 0
  cqTail : Nat := 0
  cqPhase : Nat := 1
  cqHead : Nat := 0
  arm : Bool := false
  sqPsn : Nat := 0
  una : Nat := 0
  rqPsn : Nat := 0
  msn : Nat := 0
  wrs : List SendWr := []
  reads : List RdReq := []
  msg : Option InMsg := none
  nakSent : Bool := false
  unacked : Nat := 0
  unackedAt : Nat := 0
  ackFrom : Nat := 0
  tries : Nat := 0
  rnrTries : Nat := 0
  rnrUntil : Option Nat := none
  rate : Nat := 100 * 2 ^ 40
  rateAt : Nat := 0
  cnpAt : Option Nat := none
  cqBad : Bool := false
  deriving DecidableEq, Repr

/-- The Shuttle (chapters 09 and 10): its ports, the packets that wait for the transport, what has left by port (newest
first), the queue pairs that are not FREE, the valid regions, the cached contexts, and the operation of SHU_QP_CMD that is
in progress. -/
structure ShuSt where
  port : Tab ShuPort := []
  inq : List InPkt := []
  sent : List (Nat × SentFrame) := []
  qp : Tab Qp := []
  region : List Nat := []
  cached : List Nat := []
  busy : Option (Nat × Nat) := none
  deriving DecidableEq, Repr

/-- An XFORM request that holds a lane (R305, R320): the class of its lane, its transform header, and its key (slot, key). -/
structure XfLane where
  cls : Nat
  hdr : Line
  key : Option (Nat × Nat) := none
  deriving DecidableEq, Repr, Inhabited

/-- The transform engines (chapter 11): requests that wait for a lane in the order of their dispatch, lanes by request, the
cached keys (slot, key, the newest first), and the key records that the current wrap key has sealed (record, key): a record
unwraps when it is one of them. `epoch` counts the wrap keys that Selvedge has drawn. -/
structure XfSt where
  queue : List Nat := []
  lane : Tab XfLane := []
  cache : List (Nat × Nat) := []
  sealed : List (Nat × Nat) := []
  epoch : Nat := 0
  deriving DecidableEq, Repr

/-- An IOTLB entry (R385): function, page, offset width, physical page and the low byte of the leaf. -/
structure IoTlbEnt where
  func : Nat
  vpn : Nat
  bits : Nat
  ppn : Nat
  perm : Nat
  deriving DecidableEq, Repr, Inhabited

/-- The IOTLB (section 14.5): entries and non-leaf entries (function, level, prefix, table), the newest first. -/
structure IotlbSt where
  ent : List IoTlbEnt := []
  nl : List (Nat × Nat × Nat × Nat) := []
  deriving DecidableEq, Repr

/-- Memory channels (chapter 15). Keyed by channel: pair buffers (line, time), lone writes that wait for their companion
(line, time), link alerts since the last good command, ECS commands issued, ranks in power-down, the serving side of a
broken pair (by pair), the recorded sparing and mirror settings (persistent) and a sparing copy's rank; the mirror settings
that the last cold boot took (R406) and the channels whose forced retirement a warm reset keeps (R411). `bad` marks DRAM
lines whose stored symbols are wrong (1 correctable, 2 uncorrectable), `badB` the same in the secondary of a mirrored
pair. Buckets, ECS counts and last accesses are keyed by channel × 4,096 + rank × 64 + device. -/
structure MemSt where
  pairBuf : Tab (List (Nat × Nat)) := []
  lone : Tab (List (Nat × Nat)) := []
  alerts : Tab Nat := []
  bad : Tab Nat := []
  badB : Tab Nat := []
  bucket : Tab Nat := []
  ecs : Tab Nat := []
  ecsCount : Tab Nat := []
  powerDown : Tab (List Nat) := []
  rankLast : Tab Nat := []
  alone : Tab Nat := []
  mirrorCfg : Tab Bool := []
  spared : Tab Nat := []
  copying : Tab Nat := []
  repairs : List (Nat × Nat × Nat × Nat × Nat × Bool) := []
  mirrorUse : Tab Bool := []
  forced : List Nat := []
  deriving DecidableEq, Repr


/-- The tile's bits for one interrupt file (R426): EIP with the last applied sequence, and the software and timer
sources of the file. -/
structure TileIrq where
  eip : Bool := false
  seq : Nat := 0
  msip : Bool := false
  tip : Bool := false
  deriving DecidableEq, Repr, Inhabited

/-- The Harness (chapter 16). Files are keyed by hart × 16 + f; the tile bits by node × 16 + f. -/
structure HrnSt where
  lines : List Nat := []
  isrv : Tab (List (Nat × Nat)) := []
  eip : Tab (Bool × Nat) := []
  tip : Tab Bool := []
  msip : Tab Bool := []
  held : List Nat := []
  tile : Tab TileIrq := []
  latchRise : List Nat := []
  latchFall : List Nat := []
  clkStopped : Bool := false
  stopped : Bool := false
  deriving DecidableEq, Repr

/-- A card in Dobby's queue (R443, R452): its transport and echoed fields, header fields, its bytes and its arrival. -/
structure Card where
  ctx : CardCtx
  opcode : Nat
  cls : Nat
  force : Bool
  func : Nat
  bytes : List Byte
  arrived : Nat
  deriving DecidableEq, Repr, Inhabited

/-- A card that answered ACCEPTED and waits for its final reply (R454): its operation slot. -/
structure OpenOp where
  ctx : CardCtx
  opcode : Nat
  obj : Nat
  start : Nat
  safety : Bool
  deriving DecidableEq, Repr, Inhabited

/-- A reply card (R444, Table 17.4). -/
structure Reply where
  ctx : CardCtx
  status : Nat
  opcode : Nat
  detail : Nat
  payload : List Byte
  deriving DecidableEq, Repr, Inhabited

/-- One card ring of Dobby (R448, R449): indices, stall, space reserved for replies, cards taken and not yet finally
answered, and whether a disable is waiting for them (R462). -/
structure RingSt where
  cons : Nat := 0
  replyProd : Nat := 0
  reserved : Nat := 0
  taken : Nat := 0
  stalled : Bool := false
  disabling : Bool := false
  deriving DecidableEq, Repr, Inhabited

/-- One MCTP endpoint (R450): outstanding cards, the previous card and its stored reply. -/
structure MctpSt where
  outstanding : Nat := 0
  prev : Option (Nat × Nat × Nat) := none
  stored : Option Reply := none
  deriving DecidableEq, Repr, Inhabited

/-- An entry of the refusal log (Table 17.11). -/
structure RefEntry where
  time : Nat
  opcode : Nat
  refuser : Nat
  status : Nat
  transition : Nat
  deriving DecidableEq, Repr, Inhabited

/-- The last Lease ring frame that came back to Dobby (Table 1.9): its stop, operation, STAT, tag and data. -/
structure RingFrame where
  stop : Nat := 0
  op : Nat := 0
  stat : Nat := 0
  tag : Nat := 0
  data : W64 := 0
  deriving DecidableEq, Repr, Inhabited

/-- Dobby (chapter 17); `ringBypass` lists the dies whose Lease ring segments are bypassed, and `ringBroken` says that the
ring is down (R28). -/
structure DbySt where
  queue : List Card := []
  openOps : List OpenOp := []
  ring0 : RingSt := {}
  ring1 : RingSt := {}
  mctp : Tab MctpSt := []
  sent : List Reply := []
  refLog : List RefEntry := []
  refTotal : Nat := 0
  telSeq : Nat := 0
  aged : List Nat := []
  lastProgress : Nat := 0
  serving : Bool := false
  ringBypass : List Nat := []
  ringBroken : Bool := false
  spares : Tab Nat := []
  frame : RingFrame := {}
  sparedDone : List (Nat × Nat) := []
  limited : Nat := 0
  deriving DecidableEq, Repr

/-- A transition in progress (Table 19.2): its number, when it was accepted or started, its step of Table 19.6 or 19.7 with
the time at which the step began, what starts the return (PWR_STATE.LAST_CAUSE), whether it is the second half of an aborted
entry to Doffed (R498), and whether it is the retry of R506. -/
structure Trans where
  number : Nat
  start : Nat
  step : Nat := 1
  stepAt : Nat := 0
  cause : Nat := 0
  aborted : Bool := false
  retry : Bool := false
  deriving DecidableEq, Repr, Inhabited

/-- Power (chapter 19). The profile (Table 1.15) with RUN_COUNT, its core clock, the clocks that Jacquard sets per hart, the
harts that it parks and the package power limit; the core clocks in 0.1 GHz of the nodes that a limit has lowered; the tiles
in Run at the entry to Slack or Doffed; the transition in progress; an armed event that came during an entry; whether the
Treadle decoder is armed; the rails that are on (R604); whether a lost power-good (1) or a trip (2) holds the sequencer
(R605, R618); when the retry of R506 was due to be counted; the regulators' last power readings in mW, those that do not
answer, the sums of the last 1 ms, when the limit loop last stepped, since when its last resort has held and whether that is
logged (R512, R606); and the tile sensors in °C with the last lowering and since when they read 95 °C or less (R513). -/
structure PwrSt where
  profile : Nat := 0
  runCount : Nat := 0
  profFreq : Nat := 20
  profClk : Tab Nat := []
  profParked : List Nat := []
  limit : Nat := 400
  coreClk : Tab Nat := []
  wasRun : List Nat := []
  trans : Option Trans := some { number := 7, start := 0 }
  event : Option WakeCause := none
  armed : Bool := true
  railIod : Bool := true
  railC : Bool := false
  railQ : Bool := false
  railDimm : Bool := false
  dead : Nat := 0
  retryAt : Option Nat := none
  vr : Tab Nat := []
  silent : List Nat := []
  sums : List Nat := []
  limitStep : Nat := 0
  overSince : Option Nat := none
  overLogged : Bool := false
  tileTemp : Tab Int := []
  thermStep : Tab Nat := []
  thermCool : Tab Nat := []
  deriving DecidableEq, Repr

/-- A feed channel beside its registers (R520–R537, R565, R566): when its FEED.ON was accepted and waits for keys; when its
start began, with this start's SLEW and ILIMIT and whether it is a retry; its reservation in A; when it entered regulation;
what the two interlock comparators read (true: closed); when a retry is due; when its gates were last pulled down, until the
check for a shorted FET; whether it counts as holding during a ramp, and whether its ramp-down ends a hold; its retirement;
and the time of its last self-test. -/
structure CrlChan where
  asked : Option Nat := none
  start : Option Nat := none
  slew : Nat := 0
  ilimit : Nat := 0
  isRetry : Bool := false
  resv : Nat := 0
  regAt : Option Nat := none
  ilk : Bool := false
  ilkSafe : Bool := false
  retryAt : Option Nat := none
  pulledAt : Option Nat := none
  holding : Bool := false
  byHold : Bool := false
  retired : Bool := false
  testedAt : Nat := 0
  deriving DecidableEq, Repr, Inhabited

/-- A thermal diode (R544): its reading in 0.1 °C, and whether it is faulted. -/
structure Diode where
  temp : Int := 250
  faulted : Bool := false
  deriving DecidableEq, Repr, Inhabited

/-- The Creel (chapter 20), and the readings that the safety pair and the trip logic take (R441, R544): the channels; the
time of the last valid frame of each link (false: sequencer, true: safety) and since when a link is lost; the start of the
hold with its length in s, the channels still to be ramped down in order and the time of the last such start; the diodes
by die × 2 + diode, the dies whose fault is logged, the readings of 110 °C in a row by die with the time of the first. Dies
0–3 are C0–C3, 4 the IOD, 5 the CRD. -/
structure CrlSt where
  chan : Tab CrlChan := []
  frameSeq : Nat := 0
  frameSafe : Nat := 0
  lostSeq : Option Nat := none
  lostSafe : Option Nat := none
  hold : Option (Nat × Nat) := none
  downQ : List Nat := []
  downAt : Nat := 0
  diode : Tab Diode := []
  dieLogged : List Nat := []
  hot : Tab (Nat × Nat) := []
  deriving DecidableEq, Repr

/-- A fault armed by RAS.INJECT (R413, R458). -/
structure Inject where
  block : Nat
  kind : Nat
  devices : Nat
  addr : Nat
  deriving DecidableEq, Repr, Inhabited

/-- A record on an error summary line (R549, R551): its bank and slot, and the node or channel that Dobby's action
concerns, where Table 21.6 gives one. -/
structure SumRec where
  bank : Nat
  slot : Nat
  fenceNode : Option Nat := none
  retire : Option Nat := none
  deriving DecidableEq, Repr, Inhabited

/-- Error reporting (chapter 21): the records sent on the error summary lines and not yet acted on, the FATAL records
that hold FATAL_N, and the faults armed by RAS.INJECT. -/
structure RasSt where
  summary : List SumRec := []
  fatal : List (Nat × Nat) := []
  injected : List Inject := []
  deriving DecidableEq, Repr

/-- A patrol of the keeper (R581): the feeds still to do, the present one first, and whether its FEED.ON has been sent. -/
structure Patrol where
  feeds : List Nat
  asked : Bool := false
  deriving DecidableEq, Repr, Inhabited

/-- Boot (chapter 22): the two SPI NOR devices by device × 2^32 + offset (an unlisted byte reads 0xFF), the size of the smaller
one in 64 KiB units (R572), ACTIVE, TRIAL and TRIED of the persistent configuration (R577), the slot whose firmware runs, its
FW_VERSION, the channels that missed their training or zero-fill (R506), whether a patrol is due (R580) and the patrol in progress, the number of
the next health log record (R583), and whether the wrap-key generator has failed (Table 18.11). -/
structure BootSt where
  flash : Tab Byte := []
  flashUnits : Nat := 273
  active : Nat := 0
  trial : Bool := false
  tried : Bool := false
  slot : Option Nat := none
  fwVersion : Nat := 0
  failed : List Nat := []
  patrolDue : Bool := false
  patrol : Option Patrol := none
  healthSeq : Nat := 0
  wrapBad : Bool := false
  deriving DecidableEq, Repr

/-- A die counter image (Table 23.4). -/
structure CntImage where
  event : Nat := 0
  comp : Nat := 0
  nodes : Nat := 0
  deriving DecidableEq, Repr, Inhabited

/-- A die's trace (R594–R596): the arm's START and POST, whether records are written, records still to write after a
STOP, the mesh cycle and number of records of the last cycle, and the records dropped since the last gap record. -/
structure TraceSt where
  waitStart : Bool := false
  post : Nat := 0
  left : Option Nat := none
  cycle : Nat := 0
  inCycle : Nat := 0
  gap : Nat := 0
  lastSync : Nat := 0
  deriving DecidableEq, Repr, Inhabited

/-- A trigger of a hart (Table 23.2), as the raw values of its tdata registers. -/
structure Trigger where
  tdata1 : Nat := 0
  tdata2 : Nat := 0
  tdata3 : Nat := 0
  deriving DecidableEq, Repr, Inhabited

/-- The debug support of one hart: halted, running its program buffer, dcsr, dpc and its six triggers (Table 23.2). -/
structure HartDbg where
  halted : Bool := false
  prog : Bool := false
  haltReq : Bool := false
  resetHalt : Bool := false
  resumeAck : Bool := false
  haveReset : Bool := true
  dcsr : Nat := 0x40000003
  dpc : Nat := 0
  trig : List Trigger := []
  deriving DecidableEq, Repr, Inhabited

/-- Debug (chapter 23): the TAP (selected instruction, boundary cells, interfaces stopped by R586), the debug module,
comparator and counter images, traces and trace SRAM (keyed by die × 65,536 + record). -/
structure DbgSt where
  ir : Nat := 0x02
  tapShift : Nat := 0
  boundary : Nat := 0
  stopped : Bool := false
  dmactive : Bool := false
  hartsel : Nat := 0
  hasel : Bool := false
  hawsel : Nat := 0
  hawindow : List Nat := []
  hart : Tab HartDbg := []
  cmderr : Nat := 0
  data : Tab Nat := []
  progbuf : Tab Nat := []
  command : Nat := 0
  sbaddr : Nat := 0
  sbdata : Nat := 0
  sbcs : Nat := 0
  sberror : Nat := 0
  cmp : Tab CmpImage := []
  cnt : Tab CntImage := []
  trace : Tab TraceSt := []
  sram : Tab (BitVec 128) := []
  deriving DecidableEq, Repr

/-- The state of the block. -/
structure State where
  /-- The commands that wait, first in first out. -/
  pending : List Instr := []
  /-- The clocks. -/
  clk : Clk := {}
  /-- The memory-mapped registers by physical address; an unlisted register reads as `regReset` says. -/
  regs : Tab W64 := []
  /-- DRAM by byte address; an unlisted byte reads 0 (R409). -/
  mem : List Host.Cell := []
  /-- The lines of DRAM (line number = address / 64) that carry the poison pattern of R399. -/
  poison : Tab Bool := []
  /-- the answer to the last access -/
  io : IoSt := {}
  /-- the fuses -/
  fuses : Fuses := {}
  /-- the mesh -/
  mesh : MeshSt := {}
  /-- the harts -/
  core : CoreSt := {}
  /-- the caches -/
  cache : CacheSt := {}
  /-- the homes and the requesters -/
  coh : CohSt := {}
  /-- the window controller -/
  btn : BtnSt := {}
  /-- the Loom engine -/
  loom : LoomSt := {}
  /-- drive attach -/
  drv : DrvSt := {}
  /-- the Pick unit -/
  pick : PickSt := {}
  /-- the transform engines -/
  xf : XfSt := {}
  /-- the Shuttle -/
  shu : ShuSt := {}
  /-- the IOTLB -/
  iotlb : IotlbSt := {}
  /-- the Creel -/
  crl : CrlSt := {}
  /-- the Harness -/
  hrn : HrnSt := {}
  /-- the memory channels -/
  mc : MemSt := {}
  /-- Dobby -/
  dby : DbySt := {}
  /-- error reporting -/
  ras : RasSt := {}
  /-- power states and profiles -/
  pwr : PwrSt := {}
  /-- boot -/
  boot : BootSt := {}
  /-- debug and probes -/
  dbg : DbgSt := {}
  deriving DecidableEq, Repr

/-- The machine right after power-on reset, before the boot flow has run: every register at its reset value, no
command waiting. -/
def State.reset : State := {}

end Sys2Proof.Machine
end

