-- ==== Sys2Proof/Machine/Act.lean ====
section
/-! DEFINITION. Effects. A meaning is an `Act`: a tree of elementary effects, each on one part of the state, with
reads of the state in between; `Act.run` carries it out. Every part of the state is changed by its own constructor only,
so what a command can change is read off its effects. -/

namespace Sys2Proof.Machine

/-- The outcome of a command. -/
abbrev Out := Host.Outcome State Fault Refusal

/-- Effects: nothing; one after another; one chosen by the state it meets; a register write (`reg`, bits outside the
fields of the register stay 0, R10); a byte of DRAM; the poison mark of a DRAM line; and a change of one subsystem. -/
inductive Act where
  | skip
  | seq (a b : Act)
  | read (k : State → Act)
  | reg (a : Nat) (v : W64)
  | byte (a : Nat) (v : Byte)
  | setPoison (line : Nat) (p : Bool)
  | clk (f : Clk → Clk)
  | io (f : IoSt → IoSt)
  | fuses (f : Fuses → Fuses)
  | mesh (f : MeshSt → MeshSt)
  | core (f : CoreSt → CoreSt)
  | cache (f : CacheSt → CacheSt)
  | coh (f : CohSt → CohSt)
  | btn (f : BtnSt → BtnSt)
  | loom (f : LoomSt → LoomSt)
  | drv (f : DrvSt → DrvSt)
  | pick (f : PickSt → PickSt)
  | xf (f : XfSt → XfSt)
  | shu (f : ShuSt → ShuSt)
  | iotlb (f : IotlbSt → IotlbSt)
  | crl (f : CrlSt → CrlSt)
  | hrn (f : HrnSt → HrnSt)
  | mc (f : MemSt → MemSt)
  | dby (f : DbySt → DbySt)
  | ras (f : RasSt → RasSt)
  | pwr (f : PwrSt → PwrSt)
  | boot (f : BootSt → BootSt)
  | dbg (f : DbgSt → DbgSt)

/-- What an effect makes of a state. -/
def Act.run (a : Act) (s : State) : State :=
  match a with
  | .skip => s
  | .seq a b => Act.run b (Act.run a s)
  | .read k => Act.run (k s) s
  | .reg a v => { s with regs := Tab.store regReset s.regs a (v &&& regMask a) }
  | .byte a v => { s with mem := Tab.store (fun _ => 0) s.mem a v }
  | .setPoison l p => { s with poison := Tab.store (fun _ => false) s.poison l p }
  | .clk f => { s with clk := f s.clk }
  | .io f => { s with io := f s.io }
  | .fuses f => { s with fuses := f s.fuses }
  | .mesh f => { s with mesh := f s.mesh }
  | .core f => { s with core := f s.core }
  | .cache f => { s with cache := f s.cache }
  | .coh f => { s with coh := f s.coh }
  | .btn f => { s with btn := f s.btn }
  | .loom f => { s with loom := f s.loom }
  | .drv f => { s with drv := f s.drv }
  | .pick f => { s with pick := f s.pick }
  | .xf f => { s with xf := f s.xf }
  | .shu f => { s with shu := f s.shu }
  | .iotlb f => { s with iotlb := f s.iotlb }
  | .crl f => { s with crl := f s.crl }
  | .hrn f => { s with hrn := f s.hrn }
  | .mc f => { s with mc := f s.mc }
  | .dby f => { s with dby := f s.dby }
  | .ras f => { s with ras := f s.ras }
  | .pwr f => { s with pwr := f s.pwr }
  | .boot f => { s with boot := f s.boot }
  | .dbg f => { s with dbg := f s.dbg }

/-- Effects one after another. -/
def Act.all (l : List Act) : Act := l.foldr Act.seq .skip
/-- An effect under a condition. -/
def Act.when (c : Bool) (a : Act) : Act := if c then a else .skip
/-- The same effect for each member of a list, in order. -/
def Act.each {α : Type} (l : List α) (f : α → Act) : Act := .all (l.map f)
/-- The outcome of a command that takes a next state by an effect. -/
def commit (a : Act) (s : State) : Out := .next (a.run s)

end Sys2Proof.Machine
end

