-- ==== Sys2Proof/Machine/Ops.lean ====
section
/-! DEFINITION. The named operations over registers, DRAM and time, and the shared services that every chapter uses:
worlds (chapter 18), error records (chapter 21), the Harness (chapter 16), flit injection (chapter 02), and Dobby's
replies and refusal log (chapters 17 and 19). -/

namespace Sys2Proof.Machine

/-! ### Registers -/

/-- The contents of the register at `a`. -/
def State.reg (s : State) (a : Nat) : W64 := Tab.load regReset s.regs a
/-- The value of field `f` of the register at `a`. -/
def State.get (s : State) (a : Nat) (f : Fld) : Nat := f.get (s.reg a)
/-- A field of the register at `a` as a truth value. -/
def State.bit (s : State) (a : Nat) (f : Fld) : Bool := s.get a f != 0

/-- Set field `f` of the register at `a`. -/
def setF (a : Nat) (f : Fld) (v : Nat) : Act := .read fun s => .reg a (f.put (s.reg a) v)
/-- Set fields of the register at `a`. -/
def setFs (a : Nat) (l : List (Fld × Nat)) : Act := .read fun s => .reg a (l.foldl (fun w p => p.1.put w p.2) (s.reg a))
/-- Set a one-bit field. -/
def setB (a : Nat) (f : Fld) (v : Bool) : Act := setF a f (if v then 1 else 0)
/-- Add `n` to a 64-bit counter, which stops at its maximum (R70, R104 and the like). -/
def addTo (a n : Nat) : Act :=
  .read fun s => .reg a (BitVec.ofNat 64 (min ((s.reg a).toNat + n) (2 ^ 64 - 1)))
/-- Count one in a 64-bit counter. -/
def bump (a : Nat) : Act := addTo a 1
/-- Put a register back to its reset value. -/
def resetReg (a : Nat) : Act := .reg a (regReset a)

/-- What a write of `v` makes of a register word, field by field (Table 0.5). `held` are the bits that reach the
register (R7: a 4-byte access reaches its half); `locked` says that the block's lock bit is 1; `may` says that the
writer may write the fields (a writer that may not finds every field RO). -/
def fieldWrite (held : W64) (locked may : Bool) (w v : W64) (d : FieldDef) : W64 :=
  let m := d.fld.mask &&& held
  if may then
    match d.ty with
    | .ro | .rc | .wo => w
    | .rw | .rws => (w &&& ~~~ m) ||| (v &&& m)
    | .rwl => if locked then w else (w &&& ~~~ m) ||| (v &&& m)
    | .w1c => w &&& ~~~ (v &&& m)
    | .w1s => w ||| (v &&& m)
  else w

/-- The bits of a register that an access of `size` bytes at byte offset `off` of it reaches (R7). -/
def heldBits (off size : Nat) : W64 :=
  if size = 8 then BitVec.allOnes 64
  else if off % 8 = 0 then 0x00000000FFFFFFFF else 0xFFFFFFFF00000000

/-- What a read of a register returns: WO fields read 0 (Table 0.5). -/
def readWord (a : Nat) (w : W64) : W64 :=
  (regFields a).foldl (fun m d => if d.ty = .wo then m &&& ~~~ d.fld.mask else m) w

/-! ### DRAM -/

/-- The DRAM byte at `a`. -/
def State.byte (s : State) (a : Nat) : Byte := Tab.load (fun _ => 0) (show Tab Byte from s.mem) a
/-- `n` bytes of DRAM from `a`. -/
def State.bytes (s : State) (a n : Nat) : List Byte := (List.range n).map fun i => s.byte (a + i)
/-- A little-endian number from a byte list (R6). -/
def leNat (l : List Byte) : Nat := l.foldr (fun b n => b.toNat + 256 * n) 0
/-- The `n` bytes of a number, least significant first (R6). -/
def natLe (n v : Nat) : List Byte :=
  match n with
  | 0 => []
  | n + 1 => BitVec.ofNat 8 v :: natLe n (v / 256)
/-- A little-endian number of `n` bytes in DRAM (R6). -/
def State.mem? (s : State) (a n : Nat) : Nat := leNat (s.bytes a n)
/-- A DRAM line by line number. -/
def State.lineAt (s : State) (l : Nat) : Line := BitVec.ofNat 512 (s.mem? (l * 64) 64)
/-- Is the DRAM line poisoned (R399)? -/
def State.isPoison (s : State) (l : Nat) : Bool := Tab.load (fun _ => false) s.poison l
/-- Does a range of DRAM bytes touch a poisoned line? -/
def State.poisonIn (s : State) (a n : Nat) : Bool :=
  (List.range ((a + n + 63) / 64 - a / 64)).any fun i => s.isPoison (a / 64 + i)

/-- Write bytes to DRAM from `a`. -/
def wrBytes (a : Nat) (l : List Byte) : Act :=
  match l with
  | [] => .skip
  | b :: r => .seq (.byte a b) (wrBytes (a + 1) r)
/-- Write a little-endian number of `n` bytes to DRAM. -/
def wr (a n v : Nat) : Act := wrBytes a (natLe n v)
/-- Write a whole DRAM line; unpoisoned data clears the poison pattern (R399). -/
def wrLine (l : Nat) (d : Line) (p : Bool) : Act := .seq (wr (l * 64) 64 d.toNat) (.setPoison l p)

/-- Populated DRAM in bytes: the interleave sets lie contiguously from address 0 (R398). -/
def State.dramBytes (s : State) : Nat :=
  ((List.range 4).map fun i => if s.bit (MC_ILV i) MC_ILV_VALID then s.get (MC_ILV i) MC_ILV_SIZE else 0).sum * 2 ^ 30
/-- Does a byte range lie wholly in populated DRAM? -/
def State.populated (s : State) (a n : Nat) : Bool := decide (a + n ≤ s.dramBytes)

/-! ### Worlds (R464, R468, R470) -/

/-- Is the DRAM byte at `a` secure (Table 18.1)? -/
def State.dramSecure (s : State) (a : Nat) : Bool := decide (a < s.get SEL_DRAM_WM SEL_DRAM_WM_WM * 2 ^ 30)
/-- May a requester of world `w` (true: secure) access these bytes of DRAM (R465)? -/
def State.worldOk (s : State) (w : Bool) (a : Nat) : Bool := w || !s.dramSecure a
/-- Are these bytes populated DRAM that world `w` may access? -/
def State.dramOk (s : State) (w : Bool) (a n : Nat) : Bool := s.populated a n && s.worldOk w a
/-- Are these bytes populated DRAM OF world `w`? -/
def State.dramOf (s : State) (w : Bool) (a n : Nat) : Bool :=
  s.populated a n && (if w then decide (a + n ≤ s.get SEL_DRAM_WM SEL_DRAM_WM_WM * 2 ^ 30) else !s.dramSecure a)
/-- World of block `b` (Table 18.17). -/
def State.blockWorld (s : State) (b : Nat) : Bool := (s.get SEL_BLKWORLD SEL_BLKWORLD_BITS).testBit b
/-- World of root port `p`. -/
def State.portWorld (s : State) (p : Nat) : Bool := (s.get SEL_PORTWORLD SEL_PORTWORLD_BITS).testBit p
/-- World of function `f`. -/
def State.funcWorld (s : State) (f : Nat) : Bool :=
  (s.get (SEL_FUNCWORLD (f / 64)) SEL_FUNCWORLD_BITS).testBit (f % 64)
/-- World of key slot `k`. -/
def State.slotWorld (s : State) (k : Nat) : Bool :=
  (s.get (SEL_SLOTWORLD (k / 64)) SEL_SLOTWORLD_BITS).testBit (k % 64)

/-! ### Time -/

/-- RTC ticks and remainder that `ns` nanoseconds add (R509). -/
def rtcTicks (acc ns : Nat) : Nat × Nat := ((acc + ns * 32768) / 1000000000, (acc + ns * 32768) % 1000000000)

/-- Take the next free value: `k` gets the index to which an opaque constant of `Config` is applied. -/
def withFree (k : Nat → Act) : Act := .read fun s =>
  .seq (.clk fun c => { c with freeIx := c.freeIx + 1 }) (k s.clk.freeIx)

/-- An effect of the PCIe, Ethernet or DDR-5 controllers: none once JTAG has stopped them (R586). -/
def whileLive (a : Act) : Act := .read fun s => .when (!s.dbg.stopped) a

/-- The data of an access's answer. -/
def ioAnswer (v : W64) : Act := .io fun x => { x with answer := v, fault := false }
/-- An access fault as an access's answer. -/
def ioFault : Act := .io fun x => { x with answer := 0, fault := true }

/-! ### Nodes and harts -/

/-- Node of memory controller `n` (Table 1.3). -/
def mcNode (n : Nat) : Nat := (n / 3 / 2 * 7 + 1 + n % 3 * 2) * 16 + n / 3 % 2 * 8
/-- Node of port node Pk (Table 1.3). -/
def portNode (k : Nat) : Nat := (k / 4 * 7 + 2 + k % 2 * 2) * 16 + k / 2 % 2 * 8 + 7
/-- Channel of a memory-controller node. -/
def nodeChannel (n : Nat) : Nat := nodeUnit n
/-- The tile state of node `n` (Table 1.5). -/
def State.tstate (s : State) (n : Nat) : Nat := s.get (nodeBase n) MESH_NODE_INFO_TSTATE
/-- Set the tile state of node `n`. -/
def setTState (n v : Nat) : Act := setF (nodeBase n) MESH_NODE_INFO_TSTATE v
/-- The node that holds hart `h`, while MESH_HART_MAPn is valid (R22). -/
def State.hartNode (s : State) (h : Nat) : Option Nat :=
  if s.bit (MESH_HART_MAP h) MESH_HART_MAP_VALID then some (s.get (MESH_HART_MAP h) MESH_HART_MAP_NODE) else none
/-- The hart of node `n`, where it has one. -/
def State.nodeHart (s : State) (n : Nat) : Option Nat :=
  if s.bit (nodeBase n) MESH_NODE_INFO_HART_VALID then some (s.get (nodeBase n) MESH_NODE_INFO_HART) else none
/-- Does the fence responder answer for node `n` (section 2.6)? -/
def State.responder (s : State) (n : Nat) : Bool := s.bit (MESH_FENCE_STAT n) MESH_FENCE_STAT_RESPONDER

/-- Hops between two coordinates on a ring of `m`. -/
def ringDist (m a b : Nat) : Nat := min ((b + m - a) % m) ((a + m - b) % m)
/-- Hops between two nodes on the torus (section 1.2). -/
def hops (a b : Nat) : Nat := ringDist 16 (a % 16) (b % 16) + ringDist 14 (a / 16) (b / 16)
/-- Is port node Pk open (R21)? -/
def State.portOpen (s : State) (k : Nat) : Bool := !s.responder (portNode k)

/-- The port node through which IOD traffic of node `n` goes (R21): the one of its die nearer in rows, else the other
one, else the nearest open one of another die. -/
def State.portFor (s : State) (n : Nat) : Nat :=
  let d := nodeDie n
  let y := n / 16 % 7
  let high := if y = 3 then Config.portTieHigh n else decide (3 < y)
  let near := 2 * d + (if high then 1 else 0)
  let far := 2 * d + (if high then 0 else 1)
  if s.portOpen near then portNode near
  else if s.portOpen far then portNode far
  else
    match ((List.range 8).filter s.portOpen).foldl
      (fun b k => match b with
        | none => some k
        | some j => if hops n (portNode k) < hops n (portNode j) then some k else some j) none with
    | some k => portNode k
    | none => portNode near

/-- Queue a flit for injection at node `n` (R49): classes apart, order kept within a class. -/
def send (n : Nat) (f : Flit) : Act := .read fun s =>
  .mesh fun m => { m with inj := Tab.upd m.inj n [] (· ++ [{ flit := { f with src := n }, since := s.clk.meshCycle }]) }

/-! ### Error records (R546–R549) -/

/-- A record to be written: severity 0 CE, 1 DE, 2 UCR, 3 FATAL (Table 21.3). `bank` is the ID of the block that logs it
where that is not the block it names; `fenceNode` and `retire` carry what Dobby does about it (Table 21.6). -/
structure RasRec where
  sev : Nat
  cls : Nat
  block : Nat
  addr : Option Nat := none
  chanLocal : Bool := false
  tenant : Nat := 0x3FFF
  world : Bool := false
  synd : Nat := 0
  fenceNode : Option Nat := none
  retire : Option Nat := none
  bank : Option Nat := none
  deriving DecidableEq, Repr

/-- The record classes of Table 21.5. -/
def cArray : Nat := 0x01
def cTag : Nat := 0x02
def cLink : Nat := 0x03
def cDram : Nat := 0x04
def cPoison : Nat := 0x05
def cTimeout : Nat := 0x06
def cProtocol : Nat := 0x07
def cCheck : Nat := 0x08
def cThreshold : Nat := 0x09
def cState : Nat := 0x0A
def cLockstep : Nat := 0x0B
def cFeed : Nat := 0x0C
def cThermal : Nat := 0x0D
def cTest : Nat := 0x0E

/-- The bank in which records that name a block ID sit (section 21.2). -/
def bankOf (id : Nat) : Nat :=
  if id < 0x100 then blockBank id
  else if id < 0x200 then nodeBank (id - 0x100)
  else if id < 0x300 then blockBank (0x10 + (id - 0x200))
  else if id < 0x400 then blockBank 0x02
  else blockBank 0x09

/-- The Harness source of a bank (Table 16.2, R549), by its block ID. -/
def bankSource (id : Nat) : Option Nat :=
  if id < 0x0A then some (104 + id)
  else if id = 0x20 then some 114
  else if id = 0x21 then some 115
  else if 0x10 ≤ id ∧ id ≤ 0x1B then some (92 + (id - 0x10))
  else if 0x100 ≤ id ∧ id < 0x1E0 then some (128 + (id - 0x100))
  else if 0x200 ≤ id ∧ id < 0x20C then some (92 + (id - 0x200))
  else if 0x300 ≤ id ∧ id < 0x310 then some 106
  else if 0x400 ≤ id ∧ id < 0x410 then some 113
  else none

/-- The status word of record slot `r`. -/
def State.recStat (s : State) (bank r : Nat) (f : Fld) : Nat := s.get (RAS_STATUS bank r) f
/-- Is record slot `r` of a bank valid? -/
def State.recValid (s : State) (bank r : Nat) : Bool := s.bit (RAS_STATUS bank r) RAS_STATUS_VALID
/-- The valid slot of a bank with the smallest (`old`) or greatest TIME among those that pass a test. -/
def State.pickRec (s : State) (bank : Nat) (old : Bool) (p : Nat → Bool) : Option Nat :=
  ((List.range 8).filter fun r => s.recValid bank r && p r).foldl
    (fun b r => match b with
      | none => some r
      | some q =>
        let tr := (s.reg (RAS_TIME bank r)).toNat
        let tq := (s.reg (RAS_TIME bank q)).toNat
        if (if old then tr < tq else tq ≤ tr) then some r else some q) none

/-- Does a valid record with its SIGNAL bit set stand in the bank (R549)? -/
def State.bankSignals (s : State) (bank : Nat) : Bool :=
  (List.range 8).any fun r => s.recValid bank r &&
    (s.get (RAS_BANK_CTL bank) RAS_BANK_CTL_SIGNAL).testBit (s.recStat bank r RAS_STATUS_SEVERITY)

/-! ### Harness (chapter 16) -/

/-- The file that a source or vector word targets (Table 16.5). -/
def fileOf (world : Bool) (level guest : Nat) : Nat :=
  match level with
  | 0 => if world then 9 else 0
  | 1 => 1
  | _ => guest + 1

/-- What a listed source or vector register offers to file `f` of hart `h`: its priority and ID when IP = 1 and EN = 1
(or VALID = 1) and it targets the file (R425). -/
def offer (h f : Nat) (p : Nat × W64) : Option (Nat × Nat) :=
  let w := p.2
  if HRN_SRC 1 ≤ p.1 ∧ p.1 ≤ HRN_SRC 1023 then
    if HRN_SRC_EN.get w = 1 ∧ HRN_SRC_IP.get w = 1 ∧ HRN_SRC_HART.get w = h ∧
        fileOf (HRN_SRC_WORLD.get w != 0) (HRN_SRC_LEVEL.get w) (HRN_SRC_GUEST.get w) = f then
      some (HRN_SRC_PRIO.get w, (p.1 - HRN_SRC 0) / 8)
    else none
  else if HRN_VEC 1024 ≤ p.1 ∧ p.1 ≤ HRN_VEC 33791 then
    if HRN_VEC_VALID.get w = 1 ∧ HRN_VEC_IP.get w = 1 ∧ HRN_VEC_HART.get w = h ∧
        fileOf (HRN_VEC_WORLD.get w != 0) (HRN_VEC_LEVEL.get w) (HRN_VEC_GUEST.get w) = f then
      some (HRN_VEC_PRIO.get w, (p.1 - HRN_VEC 1024) / 8 + 1024)
    else none
  else none

/-- The better of two offers: the higher priority, the lower ID among equals (R425). -/
def betterOffer (a b : Nat × Nat) : Nat × Nat :=
  if b.1 < a.1 then a else if a.1 < b.1 then b else if a.2 ≤ b.2 then a else b

/-- The IDs in service in a file with their priorities. -/
def State.inService (s : State) (h f : Nat) : List (Nat × Nat) := Tab.getD s.hrn.isrv (h * 16 + f) []
/-- The highest priority in service in a file, 0 for none. -/
def State.topService (s : State) (h f : Nat) : Nat := (s.inService h f).foldl (fun m p => max m p.1) 0
/-- The address of a file page. -/
def filePage (h f : Nat) : Nat := HRN_THRESH h f

/-- The interrupt that a file would claim (R425): its priority and ID. -/
def State.claimable (s : State) (h f : Nat) : Option (Nat × Nat) :=
  let floor := max (s.get (HRN_THRESH h f) HRN_THRESH_THRESH) (s.topService h f)
  s.regs.foldl (fun b p =>
    match offer h f p with
    | none => b
    | some o => if o.1 ≤ floor then b else match b with | none => some o | some c => some (betterOffer c o)) none

/-- Can the Harness send to hart `h` now (R426, R427, R436, R500)? Sends are held while MESH_HART_MAPn is invalid, after
an UNDELIVERED answer, in Doffed, and when delivery has stopped. -/
def State.hrnCan (s : State) (h : Nat) : Bool :=
  (s.hartNode h).isSome && !s.hrn.held.contains h && !s.hrn.stopped && s.get PWR_STATE PWR_STATE_STATE != 2

/-- The EIP state last sent for a file and its message sequence. -/
def State.eipOf (s : State) (h f : Nat) : Bool × Nat := Tab.getD s.hrn.eip (h * 16 + f) (false, 0)

/-- Send an HRN flit for file `f` to the node of hart `h` with the file's next sequence (R426). -/
def hrnSend (h f opcode : Nat) : Act := .read fun s =>
  let seq := ((s.eipOf h f).2 + 1) % 4096
  if !s.hrnCan h then .skip
  else match s.hartNode h with
  | none => .skip
  | some n => .all [
      .hrn fun x => { x with eip := Tab.put x.eip (h * 16 + f) ((s.eipOf h f).1, seq) },
      send (s.portFor n) { dest := n, src := 0, req := 0, cls := 6, opcode := opcode, txn := seq, line := f,
                           prio := s.bit MESH_CFG MESH_CFG_PRIO_HRN } ]

/-- Send the EIP state `c` of a file; it is the state last sent once the flit is queued. -/
def hrnSendEip (h f : Nat) (c : Bool) : Act := .read fun s =>
  if !s.hrnCan h then .skip
  else .all [
    .hrn fun x => { x with eip := Tab.put x.eip (h * 16 + f) (c, (s.eipOf h f).2) },
    hrnSend h f (if c then 1 else 2) ]

/-- Re-evaluate a file and send EIP_SET or EIP_CLR when its claimability has changed (R426). -/
def hrnEval (h f : Nat) : Act := .read fun s =>
  let c := (s.claimable h f).isSome
  if c = (s.eipOf h f).1 then .skip else hrnSendEip h f c

/-- Is source `n` in service in any file? -/
def State.srcInService (s : State) (n : Nat) : Bool := s.hrn.isrv.any fun p => p.2.any fun q => q.2 == n
/-- Re-evaluate the file that source `n` targets. -/
def srcEval (n : Nat) : Act := .read fun s =>
  let w := s.reg (HRN_SRC n)
  hrnEval (HRN_SRC_HART.get w) (fileOf (HRN_SRC_WORLD.get w != 0) (HRN_SRC_LEVEL.get w) (HRN_SRC_GUEST.get w))

/-- IP of a level source follows its line while the source is not in service (R419, R430). -/
def levelIp (n : Nat) : Act := .read fun s =>
  if s.get (HRN_SRC n) HRN_SRC_TRIG = 0 then
    setB (HRN_SRC n) HRN_SRC_IP (s.hrn.lines.contains n && !s.srcInService n)
  else .skip

/-- A wired source's line takes a level (R419): a level source follows it unless it is in service; a selected edge sets
IP. While the Harness clock is stopped an edge of sources 1–64 goes to the latches of R435 and no other effect is
seen. -/
def lineSet (n : Nat) (lvl : Bool) : Act := .read fun s =>
  let was := s.hrn.lines.contains n
  let trig := s.get (HRN_SRC n) HRN_SRC_TRIG
  let move : Act := .hrn fun x => { x with lines := if lvl then insertNat x.lines n else eraseNat x.lines n }
  if s.hrn.clkStopped then
    .seq move (if n ≤ 64 then (.hrn fun x =>
      if lvl && !was then { x with latchRise := insertNat x.latchRise n }
      else if !lvl && was then { x with latchFall := insertNat x.latchFall n } else x) else .skip)
  else
    .all [move,
      (if trig = 0 then levelIp n
       else if lvl && !was && trig.testBit 0 then setF (HRN_SRC n) HRN_SRC_IP 1
       else if !lvl && was && trig.testBit 1 then setF (HRN_SRC n) HRN_SRC_IP 1
       else .skip),
      srcEval n]

/-- An event on a wired source whose cause software need not clear: a rising and a falling edge of its line. -/
def linePulse (n : Nat) : Act := .all [lineSet n true, lineSet n false]
/-- An event on a source whose block holds no status that software clears: an edge source sees a pulse, and a level source's
line stays asserted until a hart claims it (log entry 40). -/
def sourceRaise (n : Nat) : Act := .read fun s =>
  if s.get (HRN_SRC n) HRN_SRC_TRIG = 0 then lineSet n true else linePulse n

/-- Raise message vector `v` (R423): an invalid one is discarded and counted. -/
def vectorRaise (v : Nat) : Act := .read fun s =>
  let w := s.reg (HRN_VEC v)
  if HRN_VEC_VALID.get w = 0 then bump HRN_VEC_DROP
  else .all [setF (HRN_VEC v) HRN_VEC_IP 1,
    hrnEval (HRN_VEC_HART.get w) (fileOf (HRN_VEC_WORLD.get w != 0) (HRN_VEC_LEVEL.get w) (HRN_VEC_GUEST.get w))]

/-- A bank asserts its Harness source while a valid record has its SIGNAL bit set (R549). -/
def bankEval (id : Nat) : Act := .read fun s =>
  match bankSource id with
  | none => .skip
  | some n =>
    let lvl := s.bankSignals (bankOf id)
    if lvl = s.hrn.lines.contains n then .skip else lineSet n lvl

/-- Write a record into slot `r` of a bank; UCR and FATAL records go to Dobby on the error summary line, FATAL records
assert FATAL_N (R549). -/
def recWrite (bank r : Nat) (x : RasRec) : Act := .read fun s => .all [
  setFs (RAS_STATUS bank r) [(RAS_STATUS_VALID, 1), (RAS_STATUS_OVERFLOW, 0), (RAS_STATUS_SEVERITY, x.sev),
    (RAS_STATUS_ADDRV, if x.addr.isSome then 1 else 0), (RAS_STATUS_CLASS, x.cls),
    (RAS_STATUS_CE_COUNT, if x.sev = 0 then 1 else 0)],
  .reg (RAS_ADDR bank r) (BitVec.ofNat 64 (x.addr.getD 0)),
  setFs (RAS_MISC bank r) [(RAS_MISC_BLOCK, x.block), (RAS_MISC_TENANT, x.tenant),
    (RAS_MISC_WORLD, if x.world then 1 else 0), (RAS_MISC_LOCAL, if x.chanLocal then 1 else 0),
    (RAS_MISC_SYNDROME, x.synd)],
  .reg (RAS_TIME bank r) (BitVec.ofNat 64 s.clk.time),
  .ras fun y => { y with
    summary := if 2 ≤ x.sev then y.summary ++ [⟨bank, r, x.fenceNode, x.retire⟩] else y.summary,
    fatal := if x.sev = 3 then (bank, r) :: y.fatal else y.fatal } ]

/-- Log a record in its bank under R548: merge, lowest free slot, the oldest record of a lower severity, or drop. -/
def rasLog (x : RasRec) : Act := .read fun s =>
  let bank := bankOf (x.bank.getD x.block)
  let same := fun r => s.recValid bank r && s.recStat bank r RAS_STATUS_SEVERITY == 0 &&
    s.recStat bank r RAS_STATUS_CLASS == x.cls && s.bit (RAS_STATUS bank r) RAS_STATUS_ADDRV == x.addr.isSome &&
    (s.reg (RAS_ADDR bank r)).toNat == x.addr.getD 0
  .seq
    (match (if x.sev = 0 then (List.range 8).find? same else none) with
    | some r => setF (RAS_STATUS bank r) RAS_STATUS_CE_COUNT (min (s.recStat bank r RAS_STATUS_CE_COUNT + 1) 0xFFFF)
    | none =>
      match (List.range 8).find? (fun r => !s.recValid bank r) with
      | some r => recWrite bank r x
      | none =>
        match s.pickRec bank true (fun r => decide (s.recStat bank r RAS_STATUS_SEVERITY < x.sev)) with
        | some r => recWrite bank r x
        | none => .all [bump (RAS_LOST bank),
          match s.pickRec bank false (fun _ => true) with
          | some r => setF (RAS_STATUS bank r) RAS_STATUS_OVERFLOW 1
          | none => .skip])
    (bankEval (x.bank.getD x.block))

/-- Count a corrected error that makes no record (R547). -/
def ceCount (id : Nat) : Act := bump (RAS_CEC (bankOf id))

/-- FATAL_N is held low while a FATAL record is valid (R549). -/
def State.fatalRecords (s : State) : Bool := !s.ras.fatal.isEmpty

/-! ### Dobby: refusal log and replies -/

/-- Statuses of Table 17.5. -/
def stOK : Nat := 0x0000
def stACCEPTED : Nat := 0x0001
def stBUSY : Nat := 0x0010
def stREFUSED : Nat := 0x0011
def stBADSTATE : Nat := 0x0012
def stBADPARAM : Nat := 0x0013
def stNOTPERM : Nat := 0x0014
def stTIMEOUT : Nat := 0x0015
def stNORES : Nat := 0x0016
def stFAULT : Nat := 0x0017
/-- A detail word that names a block ID. -/
def dBlk (id : Nat) : Nat := id % 65536
/-- The detail word of BAD_PARAM: the byte offset of the field that failed (Table 17.4). -/
def dOff (o : Nat) : Nat := o * 65536 + 0xFFFF
/-- The detail word of BUSY: the retry-after time in µs, and the block ID. -/
def dBusy (us id : Nat) : Nat := us * 65536 + id

/-- The counter k of R514 for a pair of TRANSITION and refuser: the one that holds it, else the lowest free one. -/
def State.rcntSlot (s : State) (tr ref : Nat) : Option Nat :=
  match (List.range 32).find? (fun k => s.get (PWR_RCNT k) PWR_RCNT_COUNT != 0 &&
      s.get (PWR_RCNT k) PWR_RCNT_TRANSITION == tr && s.get (PWR_RCNT k) PWR_RCNT_REFUSER == ref) with
  | some k => some k
  | none => (List.range 32).find? fun k => s.get (PWR_RCNT k) PWR_RCNT_COUNT == 0

/-- Enter a refusal or abort in the refusal log (R457) and count it in PWR_RCNTk (R514). -/
def refusal (opcode refuser status transition : Nat) : Act := .read fun s => .all [
  .dby fun d => { d with
    refLog := ({ time := s.clk.time, opcode := opcode, refuser := refuser, status := status,
                 transition := transition } :: d.refLog).take 64,
    refTotal := d.refTotal + 1 },
  match s.rcntSlot transition refuser with
  | some k => setFs (PWR_RCNT k) [(PWR_RCNT_TRANSITION, transition), (PWR_RCNT_REFUSER, refuser),
      (PWR_RCNT_COUNT, min (s.get (PWR_RCNT k) PWR_RCNT_COUNT + 1) (2 ^ 32 - 1))]
  | none => bump PWR_RCNT_OVF ]

/-- The TRANSITION value of a card's refusal (Tables 19.2 and 19.9); POWER.SET_STATE gives its own. -/
def cardTransition (op : Nat) (on : Bool) : Nat :=
  match op with
  | 0x0201 => 0x0101 | 0x0202 => 0x0102 | 0x0203 => if on then 0x0104 else 0x0103 | 0x0204 => 0x0105
  | 0x0206 => 0x0106 | 0x0205 => 0x0107 | 0x0701 => 0x0201 | 0x0702 => 0x0202
  | _ => 0xFFFF

/-- The state of ring `w`. -/
def DbySt.ringOf (d : DbySt) (w : Bool) : RingSt := if w then d.ring1 else d.ring0
/-- Change the state of ring `w`. -/
def modRing (w : Bool) (f : RingSt → RingSt) : Act :=
  .dby fun d => if w then { d with ring1 := f d.ring1 } else { d with ring0 := f d.ring0 }
/-- The register index of ring `w`. -/
def ringIx (w : Bool) : Nat := if w then 1 else 0

/-- The bytes of a reply card (Table 17.4). -/
def Reply.toBytes (r : Reply) : List Byte :=
  natLe 2 r.status ++ natLe 2 r.opcode ++ natLe 2 r.ctx.tag ++ natLe 2 ((16 + r.payload.length + 3) / 4) ++
    natLe 4 r.detail ++ natLe 4 r.ctx.seq ++ r.payload

/-- Slots of 64 bytes that a reply takes (R448). -/
def Reply.slots (r : Reply) : Nat := ((16 + r.payload.length + 3) / 4 * 4 + 63) / 64

end Sys2Proof.Machine
end

