-- ==== Sys2Proof/Machine/View.lean ====
section
/-! DEFINITION. The coherent view of memory: what an access of an engine or of Dobby reads, whichever cache holds the line
(R107), and what such a write does to the copies of a line. -/

namespace Sys2Proof.Machine

/-- The key of a line at a node. -/
def lineKey (n l : Nat) : Nat := n * 2 ^ 42 + l
/-- The node of a key. -/
def keyNode (k : Nat) : Nat := k / 2 ^ 42
/-- The line of a key. -/
def keyLine (k : Nat) : Nat := k % 2 ^ 42

/-- The map index of a line (R77): the XOR fold of PA[47:6]. -/
def mapIndex (l : Nat) : Nat := (l % 4096) ^^^ (l / 2 ^ 12 % 4096) ^^^ (l / 2 ^ 24 % 4096) ^^^ (l / 2 ^ 36 % 64)
/-- The home of a line in the master map. -/
def State.homeOf (s : State) (l : Nat) : Nat := s.get (LLC_MAP (mapIndex l)) LLC_MAP_NODE

/-- A tile loses its copy of a line: L1 and L2 drop it, and a reservation on it ends. -/
def dropL2 (n l : Nat) : Act := .all [
  .cache fun c => { c with l2 := Tab.drop c.l2 (lineKey n l) },
  .read fun s => match s.nodeHart n with
    | none => .skip
    | some h => .core fun c => match Tab.find c.hart h with
      | none => c
      | some t => { c with hart := Tab.put c.hart h { t with
          resv := if t.resv == some l then none else t.resv
          lq := t.lq.map fun e => if e.val.isSome && (e.pa / 64 == l || e.pa2 / 64 == l) then { e with replay := true }
            else e } } ]
/-- A line of a slice. -/
def State.slice (s : State) (h l : Nat) : Option SliceLine := Tab.find s.cache.slice (lineKey h l)

/-! ### The coherent view of memory that an engine's access gets -/

/-- The copy of a line that is current, where a cache holds it: an owner's copy, an eviction under way, the slice's copy. -/
def State.cohHeld (s : State) (l : Nat) : Option (Line × Bool) :=
  match s.cache.l2.find? (fun p => keyLine p.1 == l && (p.2.st == .m || p.2.st == .o)) with
  | some p => some (p.2.data, p.2.poison)
  | none =>
    match s.coh.evbuf.find? (fun p => keyLine p.1 == l && p.2.dirty && !p.2.stale) with
    | some p => some (p.2.data, p.2.poison)
    | none => (s.cache.slice.find? (fun p => keyLine p.1 == l)).map fun p => (p.2.data, p.2.poison)
/-- The current data of a line and its poison: that copy, else DRAM. -/
def State.cohLine (s : State) (l : Nat) : Line × Bool := (s.cohHeld l).getD (s.lineAt l, s.isPoison l)
/-- One byte of the coherent view. -/
def State.cohByte (s : State) (a : Nat) : Byte :=
  match s.cohHeld (a / 64) with
  | some d => d.1.extractLsb' (a % 64 * 8) 8
  | none => s.byte a
/-- `n` bytes of the coherent view. -/
def State.rd (s : State) (a n : Nat) : List Byte := (List.range n).map fun i => s.cohByte (a + i)
/-- A little-endian number of the coherent view. -/
def State.rdNat (s : State) (a n : Nat) : Nat := leNat (s.rd a n)
/-- The lines that a byte range touches. -/
def linesOf (a n : Nat) : List Nat := if n = 0 then [] else (List.range ((a + n - 1) / 64 - a / 64 + 1)).map (a / 64 + ·)
/-- Is a line of a byte range poisoned in the coherent view? -/
def State.rdPoison (s : State) (a n : Nat) : Bool := (linesOf a n).any fun l => (s.cohLine l).2

/-- Bring the current data of a line to DRAM and end every cached copy of it. -/
def pullLine (l : Nat) : Act := .read fun s =>
  let d := s.cohLine l
  let held := s.cache.l2.filter fun p => keyLine p.1 == l
  if held.isEmpty && !(s.cache.slice.any fun p => keyLine p.1 == l) && !(s.coh.evbuf.any fun p => keyLine p.1 == l) then .skip
  else .all [
    wrLine l d.1 d.2,
    .each held fun p => dropL2 (keyNode p.1) l,
    .cache fun c => { c with slice := c.slice.filter fun p => keyLine p.1 != l },
    .coh fun c => { c with
      evbuf := c.evbuf.map fun p => if keyLine p.1 == l then (p.1, { p.2 with stale := true }) else p
      dir := c.dir.filter fun p => keyLine p.1 != l } ]

/-- An engine writes bytes: every copy of the lines ends, and the bytes are in DRAM; a line written whole sheds its
poison, a part of one leaves it (R553). -/
def wrCoh (a : Nat) (b : List Byte) (p : Bool) : Act := .all [
  .each (linesOf a b.length) pullLine,
  wrBytes a b,
  .each ((linesOf a b.length).filter fun l => decide (a ≤ l * 64) && decide (l * 64 + 64 ≤ a + b.length)) fun l =>
    .setPoison l p,
  .when p (.each (linesOf a b.length) fun l => .setPoison l true) ]
/-- An engine writes a little-endian number of `n` bytes. -/
def wrCohNat (a n v : Nat) : Act := wrCoh a (natLe n v) false

end Sys2Proof.Machine
end

