-- ==== Sys2Proof/Machine/Operands.lean ====
section
/-! DEFINITION. The operands of command cards: the rows of Table 17.8 (class, owner, FORCE, reply space), the reading of
a card's parameters from its bytes, the acceptance checks of transport and owner (R446, R447, R621), and the reply
protocol of R444 and R454 (one reply, or ACCEPTED and a final reply). -/

namespace Sys2Proof.Machine

/-! ### Replies -/

/-- Sources 90 and 91 are asserted while REPLY_PROD ≠ RCONS (R449). -/
def ringLine (w : Bool) : Act := .read fun s =>
  lineSet (90 + ringIx w)
    ((s.dby.ringOf w).replyProd != s.get (DBY_RING_RCONS (ringIx w)) DBY_RING_RCONS_INDEX)

/-- Write reply bytes slot by slot from index `k` of a reply ring of 2^`log` slots at `base`. -/
def wrSlots (base log : Nat) (l : List Byte) (k n : Nat) : Act :=
  match n with
  | 0 => .skip
  | n + 1 => .seq (wrCoh (base + k % 2 ^ log * 64) (l.take 64) false) (wrSlots base log (l.drop 64) (k + 1) n)

/-- Deliver a reply over its card's transport (R446, R448, R450). -/
def deliver (r : Reply) : Act := .read fun s =>
  match r.ctx.via with
  | .ring w =>
    let x := s.dby.ringOf w
    let i := ringIx w
    .all [
      wrSlots (s.get (DBY_RING_RBASE i) DBY_RING_RBASE_ADDR * 64) (s.get (DBY_RING_CFG i) DBY_RING_CFG_RLOG)
        r.toBytes x.replyProd r.slots,
      wrCohNat (s.get (DBY_RING_CTLA i) DBY_RING_CTLA_ADDR * 64 + 8) 4 ((x.replyProd + r.slots) % 2 ^ 32),
      modRing w fun y => { y with replyProd := (y.replyProd + r.slots) % 2 ^ 32 },
      ringLine w ]
  | .mctp e => .dby fun d => { d with
      sent := d.sent ++ [r], mctp := Tab.upd d.mctp e {} fun m => { m with stored := some r } }
  | _ => .dby fun d => { d with sent := d.sent ++ [r] }

/-- The reply ACCEPTED of a ring card takes its slot out of the space reserved for the card (R449). -/
def acceptedSlot (c : CardCtx) : Act :=
  match c.via with
  | .ring w => modRing w fun y => { y with reserved := y.reserved - 1 }
  | _ => .skip
/-- Send one reply: REFUSED and BUSY are counted (R463). -/
def replyWith (c : CardCtx) (op status detail : Nat) (payload : List Byte) : Act := .all [
  deliver { ctx := c, status := status, opcode := op, detail := detail, payload := payload },
  if status = stBUSY then bump DBY_BUSY else if status = stREFUSED then bump DBY_REFUSED
  else if status = stACCEPTED then acceptedSlot c else .skip ]

/-- A ring card (or an MCTP card) has had its last reply: its reserved reply space and its place are given back. -/
def cardDone (c : CardCtx) (slots : Nat) : Act :=
  match c.via with
  | .ring w => modRing w fun y => { y with taken := y.taken - 1, reserved := y.reserved - slots }
  | .mctp e => .dby fun d => { d with mctp := Tab.upd d.mctp e {} fun m => { m with outstanding := m.outstanding - 1 } }
  | _ => .skip

/-! ### Cards -/

/-- A little-endian field of `n` bytes at byte offset `off` of a card (R443, R455). -/
def cardField (l : List Byte) (off n : Nat) : Nat := leNat ((l.drop off).take n)
/-- Are `n` bytes from `off` all 0? Reserved bytes must be (R455). -/
def cardZero (l : List Byte) (off n : Nat) : Bool := ((l.drop off).take n).all (· == 0)

/-- A row of Table 17.8: the class, whether the card names FORCE, whether its first reply can be ACCEPTED, and the bytes
of its largest reply. -/
structure CardRow where
  cls : Nat
  force : Bool
  slow : Bool
  replyBytes : Nat
  deriving DecidableEq, Repr

/-- The opcodes of Table 17.8. -/
def cardRow (op : Nat) : Option CardRow :=
  match op with
  | 0x0001 => some ⟨3, false, false, 0x30⟩
  | 0x0002 => some ⟨3, false, false, 0x22⟩
  | 0x0003 => some ⟨3, false, false, 0x810⟩
  | 0x0101 => some ⟨1, false, true, 0x10⟩
  | 0x0102 => some ⟨3, false, false, 0xF4⟩
  | 0x0103 => some ⟨1, false, true, 0x10⟩
  | 0x0104 => some ⟨3, false, false, 0x420⟩
  | 0x0201 => some ⟨1, false, true, 0x10⟩
  | 0x0202 => some ⟨1, true, true, 0x10⟩
  | 0x0203 => some ⟨1, false, true, 0x10⟩
  | 0x0204 => some ⟨4, false, true, 0x14⟩
  | 0x0205 => some ⟨2, false, true, 0x12⟩
  | 0x0206 => some ⟨2, false, true, 0x10⟩
  | 0x0301 => some ⟨2, false, false, 0x10⟩
  | 0x0302 => some ⟨2, false, true, 0x10⟩
  | 0x0303 => some ⟨2, false, true, 0x10⟩
  | 0x0304 => some ⟨2, false, true, 0x10⟩
  | 0x0305 => some ⟨2, true, true, 0x10⟩
  | 0x0401 => some ⟨2, false, false, 0x10⟩
  | 0x0402 => some ⟨2, true, true, 0x10⟩
  | 0x0403 => some ⟨2, false, false, 0x10⟩
  | 0x0404 => some ⟨2, false, true, 0x10⟩
  | 0x0405 => some ⟨2, false, true, 0x10⟩
  | 0x0406 => some ⟨2, false, false, 0x10⟩
  | 0x0407 => some ⟨2, false, false, 0x10⟩
  | 0x0408 => some ⟨2, false, false, 0x10⟩
  | 0x0501 => some ⟨2, false, false, 0x10⟩
  | 0x0502 => some ⟨2, false, false, 0x10⟩
  | 0x0503 => some ⟨2, false, false, 0x10⟩
  | 0x0601 => some ⟨2, false, false, 0x10⟩
  | 0x0602 => some ⟨2, false, false, 0x10⟩
  | 0x0701 => some ⟨1, false, true, 0x10⟩
  | 0x0702 => some ⟨0, true, true, 0x10⟩
  | 0x0703 => some ⟨3, false, false, 0x110⟩
  | 0x0704 => some ⟨1, false, false, 0x10⟩
  | 0x0705 => some ⟨0, false, false, 0x10⟩
  | 0x0801 => some ⟨4, false, true, 0x10⟩
  | 0x0802 => some ⟨2, false, false, 0x10⟩
  | 0x0803 => some ⟨2, false, false, 0x10⟩
  | 0x0901 => some ⟨3, false, false, 0xF20⟩
  | 0x0902 => some ⟨2, false, false, 0x10⟩
  | 0x0A01 => some ⟨2, false, false, 0x10⟩
  | 0x0A02 => some ⟨3, false, false, 0x3D0⟩
  | 0x0B01 => some ⟨4, false, true, 0x10⟩
  | 0x0B02 => some ⟨4, false, true, 0x10⟩
  | _ => none

/-- Reply slots that Dobby reserves before it consumes a card (R449): its largest reply, twice that when it may answer
ACCEPTED. An opcode that the table does not list is answered with a header only. -/
def replySpace (op : Nat) : Nat :=
  match cardRow op with
  | some r => (r.replyBytes + 63) / 64 * (if r.slow then 2 else 1)
  | none => 1

/-- The owner of a card (R447): any world, one world, or no world that may send it. -/
inductive Owner where
  | any
  | is (secure : Bool)
  deriving DecidableEq, Repr

/-- Are the bytes at the card's BLOCK field the ID of a bank (R552)? -/
def isBankId (id : Nat) : Bool :=
  (decide (id < 0x100) && (blockDefs id).isSome) || (decide (0x100 ≤ id) && decide (id < 0x1E0))

/-- The owner of the bank that RAS.READ_BANKS names: the split blocks belong to both worlds, node banks to block 0x20's
world (R550, R552). -/
def State.bankOwner (s : State) (id : Nat) : Owner :=
  if id = 0xFFFF || id = 0x01 || id = 0x04 || id = 0x08 then .any
  else if 0x100 ≤ id ∧ id < 0x1E0 then .is (s.blockWorld 0x20)
  else if id < 0x100 then .is (s.blockWorld id)
  else .any

/-- The owner of a card by its opcode, its FUNC field and its payload (Table 17.8, R447). A channel number that names no
channel has no owner to check: its own parameter check refuses it. -/
def State.cardOwner (s : State) (world : Bool) (op func : Nat) (l : List Byte) : Owner :=
  let ch := cardField l 0x10 1
  let chan := fun c => if c < 12 then Owner.is (s.blockWorld (0x10 + c)) else Owner.any
  match op with
  | 0x0101 | 0x0103 => .is (s.blockWorld 0x00)
  | 0x0201 | 0x0202 | 0x0203 | 0x0204 | 0x0205 | 0x0206 => .is (s.blockWorld 0x20)
  | 0x0301 =>
    if ch = 0xFF then
      (if (List.range 12).any (fun c => s.blockWorld (0x10 + c) == world) then .any else .is (!world))
    else chan ch
  | 0x0302 => chan (2 * ch)
  | 0x0303 | 0x0304 | 0x0305 => chan ch
  | 0x0401 | 0x0402 | 0x0403 | 0x0404 | 0x0405 | 0x0406 | 0x0407 | 0x0408 => .is (s.funcWorld func)
  | 0x0501 | 0x0502 | 0x0503 => .is (s.blockWorld 0x06)
  | 0x0601 | 0x0602 => .is (s.blockWorld 0x07)
  | 0x0701 | 0x0702 | 0x0704 | 0x0705 => .is (s.blockWorld 0x02)
  | 0x0801 | 0x0803 | 0x0902 | 0x0B01 | 0x0B02 => .is true
  | 0x0802 => .is (s.slotWorld (cardField l 0x10 2))
  | 0x0901 => s.bankOwner (cardField l 0x10 2)
  | 0x0A01 | 0x0A02 => .is (s.blockWorld 0x21)
  | _ => .any

/-- The detail word of a failed owner check (R447): R163 gives 0x0005 for function cards, R245 0x0006 for Pick cards. -/
def ownerDetail (op : Nat) : Nat :=
  if 0x0401 ≤ op ∧ op ≤ 0x0408 then 0x0005 else if 0x0501 ≤ op ∧ op ≤ 0x0503 then 0x0006 else 0x0001

/-- The life-cycle state that governs (R482): DEPLOYED rules hold while the fuse copies disagree (Table 18.11). -/
def State.life (s : State) : Nat := if s.fuses.lifeCopiesAgree then s.fuses.life else 2
/-- Does the life cycle permit the JTAG mailbox (R446)? -/
def State.jtagLife (s : State) : Bool := s.life == 0 || s.life == 1 || s.life == 3

/-- Is the card an INFO card, the only kind served in the limited modes of R621? -/
def isInfo (op : Nat) : Bool := op == 0x0001 || op == 0x0002 || op == 0x0003

/-- The transport and owner checks (R446, R447, R451 step 5, R621): the status and detail of the refusal. `mctpOk` marks
FEED.OFF and POWER.SET_STATE to Woven, which MCTP carries beside the QUERY cards. Function and Pick cards that arrive over
MCTP carry the detail of R163 and R245 (log entry 109). -/
def State.gateFail (s : State) (c : CardCtx) (op : Nat) (mctpOk : Bool) (o : Owner) : Option (Nat × Nat) :=
  let cls := match cardRow op with | some r => r.cls | none => 3
  if s.dby.limited = 1 ∧ !isInfo op then some (stNOTPERM, dBlk 0x0003)
  else if s.dby.limited = 2 ∧ !isInfo op then some (stFAULT, dBlk 0x0003)
  else if s.dby.limited = 3 ∧ !isInfo op then some (stFAULT, dBlk 0x0001)
  else if (match c.via with
    | .ring w => c.world != w
    | .mctp _ => c.world
    | .jtag => !s.jtagLife
    | .keeper => false) then some (stNOTPERM, dBlk 0x0001)
  else if (match c.via with | .mctp _ => !(cls == 3 || mctpOk) | _ => false) then some (stNOTPERM, dBlk (ownerDetail op))
  else match o, c.via with
    | .any, _ => none
    | _, .keeper => none
    | .is w, _ => if c.world = w then none else some (stNOTPERM, dBlk (ownerDetail op))

/-- QUEUED and OPS of DBY_STAT (Table 17.16). -/
def dbyStat : Act := .read fun s => setFs DBY_STAT
  [(DBY_STAT_QUEUED, s.dby.queue.length), (DBY_STAT_OPS, s.dby.openOps.length)]

/-- The one reply of a card that ends at once. -/
def answer (c : CardCtx) (op status detail : Nat) (payload : List Byte) : Act :=
  .all [replyWith c op status detail payload, cardDone c (replySpace op)]
/-- A reply without payload. -/
def answer0 (c : CardCtx) (op status detail : Nat) : Act := answer c op status detail []
/-- The reply OK. -/
def answerOk (c : CardCtx) (op : Nat) : Act := answer c op stOK 0xFFFF []
/-- REFUSED, logged with its TRANSITION (R457, R514). -/
def answerRefused (c : CardCtx) (op blk transition : Nat) : Act :=
  .all [refusal op blk stREFUSED transition, answer0 c op stREFUSED (dBlk blk)]

/-- Is an operation slot free for a card (R454): 256 slots, 16 of them for SAFETY? -/
def State.slotFree (s : State) (safety : Bool) : Bool :=
  if safety then decide (s.dby.openOps.length < 256)
  else decide (s.dby.openOps.length < 256) && decide ((s.dby.openOps.filter fun o => !o.safety).length < 240)

/-- Is a card of class SAFETY, for which slots are kept (R454)? -/
def cardSafety (op : Nat) : Bool := match cardRow op with | some r => r.cls == 0 | none => false
/-- Start an operation: ACCEPTED and a slot, or BUSY with a retry-after time of 1 ms when none is free (R454). -/
def accept (c : CardCtx) (op obj : Nat) (body : Act) : Act := .read fun s =>
  if s.slotFree (cardSafety op) then .all [
    replyWith c op stACCEPTED 0xFFFF [],
    .dby fun d => { d with openOps := d.openOps ++ [{ ctx := c, opcode := op, obj := obj, start := s.clk.time,
                                                      safety := cardSafety op }] },
    dbyStat, body ]
  else answer0 c op stBUSY (dBusy 1000 0xFFFF)

/-- The open operation of an opcode on an object. -/
def State.findOp (s : State) (op obj : Nat) : Option OpenOp :=
  s.dby.openOps.find? fun o => o.opcode == op && o.obj == obj
/-- Is an operation of one of these opcodes open on an object? -/
def State.opOpen (s : State) (ops : List Nat) (obj : Nat) : Bool :=
  s.dby.openOps.any fun o => ops.contains o.opcode && o.obj == obj
/-- Is an operation of one of these opcodes open on any object? -/
def State.anyOpen (s : State) (ops : List Nat) : Bool := s.dby.openOps.any fun o => ops.contains o.opcode

/-- The final reply of an open operation, which frees its slot (R444, R454); nothing when none is open. -/
def finish (op obj status detail : Nat) (payload : List Byte) : Act := .read fun s =>
  match s.findOp op obj with
  | none => .skip
  | some o => .all [
      .dby fun d => { d with openOps := d.openOps.eraseP fun x => x.opcode == op && x.obj == obj },
      dbyStat,
      replyWith o.ctx op status detail payload,
      cardDone o.ctx (replySpace op - 1) ]

/-- A card whose object is occupied by an open operation (R454): BUSY. -/
def answerBusy (c : CardCtx) (op us : Nat) : Act := answer0 c op stBUSY (dBusy us 0xFFFF)
/-- The same where the manual states no retry-after time: a free value of 1 to 65,535 µs. -/
def answerBusyFree (c : CardCtx) (op : Nat) : Act :=
  withFree fun k => answerBusy c op (Config.retryAfter k % 65535 + 1)

/-- Free slots of the reply ring of world `w` that no card taken from its ring has reserved (R449). -/
def State.replyRoom (s : State) (w : Bool) : Nat :=
  let x := s.dby.ringOf w
  let used := (x.replyProd + 2 ^ 32 - s.get (DBY_RING_RCONS (ringIx w)) DBY_RING_RCONS_INDEX) % 2 ^ 32
  2 ^ s.get (DBY_RING_CFG (ringIx w)) DBY_RING_CFG_RLOG - used - x.reserved
/-- Does Dobby run (Table 22.7)? From step 5 of a boot flow on, or where the boot flow has stopped in a limited mode. -/
def State.romReady (s : State) : Bool := s.pwr.railIod && (match s.pwr.trans with
  | some t => decide (t.number < 6) || decide (5 ≤ t.step)
  | none => true)
/-- Does Dobby take a card of this transport now (Table 17.6, R446, R449, R462)? No card in Dark; in Doffed no ring card; and
a ring card only from an enabled ring that has not stopped, with room for its replies. -/
def State.reaches (s : State) (c : CardCtx) (op : Nat) : Bool :=
  let st := s.get PWR_STATE PWR_STATE_STATE
  s.romReady && (match c.via with
  | .ring w => decide (st < 2) && s.bit (DBY_RING_CFG (ringIx w)) DBY_RING_CFG_EN && !(s.dby.ringOf w).disabling &&
      !s.bit (DBY_RING_CFG (ringIx w)) DBY_RING_CFG_ERR && decide (replySpace op ≤ s.replyRoom w)
  | _ => decide (st < 3))
/-- What MCTP does with a card before anything else (R450): a ninth outstanding card of an endpoint is answered BUSY, and a
card with the SEQ, OPCODE and TAG of the previous one gets the stored reply again. -/
def mctpFirst (c : CardCtx) (op : Nat) (s : State) : Option Act :=
  match c.via with
  | .mctp e =>
    let m := Tab.getD s.dby.mctp e {}
    if m.prev = some (c.seq, op, c.tag) then
      some (match m.stored with
        | some r => .dby fun d => { d with sent := d.sent ++ [r] }
        | none => .skip)
    else if 8 ≤ m.outstanding then
      some (.all [.dby fun d => { d with
          sent := d.sent ++ [{ ctx := c, status := stBUSY, opcode := op, detail := dBusy 100 0xFFFF, payload := [] }] },
        bump DBY_BUSY])
    else none
  | _ => none
/-- A card is taken: its reply space and its place are its own until its last reply (R449, R450), and it is counted. -/
def cardTaken (c : CardCtx) (op : Nat) : Act := .all [
  (match c.via with
   | .ring w => modRing w fun y => { y with taken := y.taken + 1, reserved := y.reserved + replySpace op }
   | .mctp e => .dby fun d => { d with mctp := Tab.upd d.mctp e {} fun m =>
       { m with outstanding := m.outstanding + 1, prev := some (c.seq, op, c.tag), stored := none } }
   | _ => .skip),
  bump DBY_CARDS ]

/-- Is a stop of the Lease ring out of Dobby's reach (R28): the ring is down, its die is bypassed or its die is unpowered? -/
def State.stopLost (s : State) (id : Nat) : Bool :=
  let n : Option Nat := if 0x100 ≤ id ∧ id < 0x1E0 then some (id - 0x100)
    else if 0x10 ≤ id ∧ id < 0x1C then some (mcNode (id - 0x10))
    else if id = 0x20 then some 0 else none
  s.dby.ringBroken || (match n with
    | some n => !s.pwr.railC || s.dby.ringBypass.contains (nodeDie n)
    | none => false)
/-- A card whose stop is out of reach carries FAULT with the stop's block ID (Table 1.10). -/
def viaStop (c : CardCtx) (op id : Nat) (body : Act) : Act := .read fun s =>
  if s.stopLost id then answer0 c op stFAULT (dBlk id) else body
/-- The stop that a card of a whole block needs; the cards of nodes and channels name theirs themselves. -/
def cardStop (op : Nat) : Option Nat :=
  match op / 256 with
  | 1 => some 0x00 | 4 => some 0x05 | 5 => some 0x06 | 6 => some 0x07 | 7 => some 0x02
  | 8 => some (if op = 0x0802 then 0x08 else 0x03)
  | _ => none

/-- Carry a card out behind the transport and owner checks. A card that CARD_SERVE takes from the queue was taken before
(`serving`); any other is taken now. -/
def gated (c : CardCtx) (op : Nat) (mctpOk : Bool) (owner : State → Owner) (body : State → Act) : Act := .read fun s =>
  let go : Act := .read fun s => match s.gateFail c op mctpOk (owner s) with
    | some (st, d) => answer0 c op st d
    | none => match cardStop op with
      | some id => viaStop c op id (body s)
      | none => body s
  if s.dby.serving then .seq (.dby fun d => { d with serving := false }) go
  else if !s.reaches c op then .skip
  else match mctpFirst c op s with
    | some a => a
    | none => .seq (cardTaken c op) go

end Sys2Proof.Machine
end

