-- ==== Sys2Proof/Machine/Flags.lean ====
section
/-! DEFINITION. Flags that the spec computes from state: the effective debug enables (R480), the FATAL_N pin (R549, R605,
R618), and the events that the mesh probes and die counters take from the flits that pass (R591–R596). -/

namespace Sys2Proof.Machine

/-- The allowance of debug enable `i` (0 NI_N, 1 INV_N, 2 NI_S, 3 INV_S) in the life-cycle state (R480, Table 18.8). -/
def State.allowance (s : State) (i : Nat) : Bool :=
  if !s.fuses.lifeCopiesAgree then false
  else match s.fuses.life with
    | 2 => s.fuses.cap.testBit i
    | 4 => false
    | _ => true

/-- The effective value of debug enable `i` (R480). -/
def State.effective (s : State) (i : Nat) : Bool := ((s.reg SEL_DEBUG).toNat.testBit i) && s.allowance i
/-- EFFECTIVE of SEL_DEBUG in the order of bits 3:0 (Table 18.16). -/
def State.effectiveBits (s : State) : Nat :=
  ((List.range 4).map fun i => if s.effective i then 2 ^ i else 0).sum
/-- The effective non-invasive enable of a world (R480). -/
def State.niWorld (s : State) (w : Bool) : Bool := s.effective (if w then 2 else 0)
/-- The effective invasive enable of a world (R480). -/
def State.invWorld (s : State) (w : Bool) : Bool := s.effective (if w then 3 else 1)

/-- Write the EFFECTIVE field after a change of what it is computed from. -/
def effectiveEval : Act := .read fun s => setF SEL_DEBUG SEL_DEBUG_EFFECTIVE s.effectiveBits

/-! ### Probes and die counters -/

/-- The local position x + 8 × y of a node in its die (Table 23.4). -/
def localPos (n : Nat) : Nat := n % 16 % 8 + 8 * (n / 16 % 7)
/-- Die of a node as the probes number it. -/
def dieOf (n : Nat) : Nat := nodeDie n
/-- DBG_CNTd_c. -/
def dieCounter (k : Nat) : Nat := DBG_CNT (k / 64) (k % 64)

/-- Add `k` events of kind `ev` at node `n` to every counter of its die that selects them (R593); `comp` is the
comparator unit of a match. -/
def dieEvent (n ev comp k : Nat) : Act := .read fun s =>
  .each (s.dbg.cnt.filter fun p => decide (p.1 < 256) && p.1 / 64 == dieOf n && p.2.event == ev && p.2.nodes.testBit (localPos n) &&
      (ev != 1 || p.2.comp == 2 || p.2.comp == comp)) fun p => addTo (dieCounter p.1) k

/-- The same for an event of a flit, which counts only under the world condition of R591. -/
def flitEvent (n : Nat) (f : Flit) (ev comp k : Nat) : Act := .read fun s =>
  if s.niWorld f.world then dieEvent n ev comp k else .skip

/-- The header bits 31:0 of a flit (Table 2.1), as records hold them. -/
def header31 (f : Flit) : Nat :=
  f.dest % 256 + f.src % 256 * 2 ^ 8 + f.req % 256 * 2 ^ 16 + f.cls % 8 * 2 ^ 24 +
    (if f.prio then 2 ^ 27 else 0) + (if f.world then 2 ^ 28 else 0) + (if f.poison then 2 ^ 29 else 0) +
    (if f.hasData then 2 ^ 30 else 0) + (if f.mpriv then 2 ^ 31 else 0)

/-- Does a comparator image match a flit at a router port (R591, Table 23.3)? -/
def CmpImage.hits (c : CmpImage) (port : Nat) (f : Flit) (defl : Bool) : Bool :=
  c.ports.testBit port && c.classes.testBit f.cls &&
  (f.dest ^^^ c.dest) &&& c.destMask == 0 && (f.src ^^^ c.src) &&& c.srcMask == 0 &&
  (!c.flags.testBit 1 || f.world == c.flags.testBit 0) &&
  (!c.flags.testBit 3 || f.prio == c.flags.testBit 2) &&
  (!c.flags.testBit 4 || f.poison) && (!c.flags.testBit 5 || defl) &&
  (f.tenant ^^^ c.tenant) &&& c.tenantMask == 0 && (f.opcode ^^^ c.opcode) &&& c.opcodeMask == 0 &&
  (decide (c.addrHi < c.addrLo) || (decide (c.addrLo ≤ f.line) && decide (f.line ≤ c.addrHi)))

/-- A flit record (Table 23.5, KIND 0). -/
def flitRecord (comp port n cycle : Nat) (f : Flit) (defl : Bool) : BitVec 128 :=
  BitVec.ofNat 128 (comp % 2 * 2 ^ 2 + port % 8 * 2 ^ 3 + n % 256 * 2 ^ 6 + cycle % 2 ^ 24 * 2 ^ 14 +
    f.dest % 256 * 2 ^ 38 + f.cls % 8 * 2 ^ 46 + (if f.world then 2 ^ 49 else 0) + (if f.prio then 2 ^ 50 else 0) +
    (if f.poison then 2 ^ 51 else 0) + (if defl then 2 ^ 52 else 0) + f.src % 256 * 2 ^ 53 +
    f.opcode % 256 * 2 ^ 64 + f.tenant % 2 ^ 14 * 2 ^ 72 + f.line % 2 ^ 42 * 2 ^ 86)
/-- A sync record (KIND 1): the mesh cycle counter bits 63:24, and TIME. -/
def syncRecord (cycle time : Nat) : BitVec 128 :=
  BitVec.ofNat 128 (1 + cycle / 2 ^ 24 % 2 ^ 40 * 2 ^ 24 + time % 2 ^ 64 * 2 ^ 64)
/-- A gap record (KIND 2): the records dropped since the previous one, and TIME. -/
def gapRecord (dropped time : Nat) : BitVec 128 :=
  BitVec.ofNat 128 (2 + dropped % 2 ^ 32 * 2 ^ 32 + time % 2 ^ 64 * 2 ^ 64)

/-- Is die `d`'s trace running (Table 23.6)? -/
def State.tracing (s : State) (d : Nat) : Bool := s.bit (DBG_TRC_STAT d) DBG_TRC_STAT_RUNNING
/-- The trace of die `d`. -/
def State.traceOf (s : State) (d : Nat) : TraceSt := Tab.getD s.dbg.trace d {}
/-- Change the trace of die `d`. -/
def modTrace (d : Nat) (f : TraceSt → TraceSt) : Act := .dbg fun x => { x with trace := Tab.upd x.trace d {} f }
/-- Stop die `d`'s trace. -/
def traceStop (d : Nat) : Act := setB (DBG_TRC_STAT d) DBG_TRC_STAT_RUNNING false

/-- Put one record at the write pointer of die `d`'s trace SRAM: ring mode wraps and sets WRAPPED once it overwrites,
fill mode stops when full (R596); a record after a STOP counts toward POST, and none is written once POST is reached. -/
def tracePut (d : Nat) (r : BitVec 128) : Act := .read fun s =>
  if !s.tracing d || (s.traceOf d).left == some 0 then .skip
  else
    let w := s.get (DBG_TRC_STAT d) DBG_TRC_STAT_WPTR
    let mode := s.get (DBG_TRC_STAT d) DBG_TRC_STAT_MODE
    .all [
      if mode = 1 && (Tab.find s.dbg.sram (d * 65536 + w)).isSome then setF (DBG_TRC_STAT d) DBG_TRC_STAT_WRAPPED 1
      else .skip,
      .dbg fun x => { x with sram := Tab.put x.sram (d * 65536 + w) r },
      setF (DBG_TRC_STAT d) DBG_TRC_STAT_WPTR ((w + 1) % 65536),
      match (s.traceOf d).left with
      | some k => modTrace d fun t => { t with left := some (k - 1) }
      | none => if mode = 2 ∧ w = 65535 then traceStop d else .skip ]

/-- A record falls due in this mesh cycle: up to 4 are written, the rest dropped and counted; a gap record takes the
next free slot (R594). -/
def traceDue (d : Nat) (r : BitVec 128) : Act := .read fun s =>
  let t := s.traceOf d
  let c := if t.cycle = s.clk.meshCycle then t.inCycle else 0
  if !s.tracing d then .skip
  else if 4 ≤ c then
    .all [bump (DBG_TRC_DROP d), modTrace d fun x => { x with gap := x.gap + 1 }]
  else .all [
    if t.gap = 0 then .skip
    else .all [tracePut d (gapRecord t.gap s.clk.time), modTrace d fun x => { x with gap := 0 }],
    tracePut d r,
    modTrace d fun x => { x with cycle := s.clk.meshCycle, inCycle := c + (if t.gap = 0 then 1 else 2) } ]

/-- Start writing records on die `d`: the sync record comes first (R595). -/
def traceStart (d : Nat) : Act := .read fun s => .all [
  setF (DBG_TRC_STAT d) DBG_TRC_STAT_RUNNING 1,
  modTrace d fun t => { t with waitStart := false, lastSync := s.clk.meshCycle },
  tracePut d (syncRecord s.clk.meshCycle s.clk.time) ]

/-- A STOP match: TRIGGERED, and POST more records before the trace stops (R596). -/
def traceStopMatch (d : Nat) : Act := .read fun s =>
  if !s.tracing d then .skip
  else .all [setF (DBG_TRC_STAT d) DBG_TRC_STAT_TRIGGERED 1,
    if (s.traceOf d).left.isSome then .skip else modTrace d fun t => { t with left := some t.post }]

/-- The comparators of node `n` see a flit at a router port (R591, R592). -/
def probe (n port : Nat) (f : Flit) (defl : Bool) : Act := .read fun s =>
  if !s.niWorld f.world then .skip
  else .each [0, 1] fun u =>
    let c := Tab.getD s.dbg.cmp (n * 2 + u) {}
    if !c.hits port f defl then .skip
    else .all [
      dieEvent n 1 u 1,
      if c.action.testBit 0 then bump (DBG_CMP n u) else .skip,
      if c.action.testBit 2 then .read fun s => (if (s.traceOf (dieOf n)).waitStart then traceStart (dieOf n) else .skip)
      else .skip,
      if c.action.testBit 3 then traceStopMatch (dieOf n) else .skip,
      if c.action.testBit 1 then traceDue (dieOf n) (flitRecord u port n s.clk.meshCycle f defl) else .skip ]

/-! ### Time -/

/-- The order of classes at injection (R49). -/
def injOrder : List Nat := [7, 2, 3, 1, 6, 4, 5, 0]
/-- The head flit of each class in the injection order of R49, the first of which the node tries to inject. -/
def injHead (q : List InjEntry) : Option InjEntry :=
  (injOrder.filterMap fun c => q.find? fun e => e.flit.cls == c).head?

/-- Mesh cycles pass: injection waits are counted (MESH_RTR_INJWAIT, EVENT 4), waiting slice misses (LLC_TAG_WAIT), a full
fan-out buffer (BTN_BACKPRESSURE), and the
mesh-cycle counters of the dies (EVENT 6, R593). -/
def meshPasses (k : Nat) : Act := .read fun s => if k = 0 then .skip else .all [
  .clk fun c => { c with meshCycle := c.meshCycle + k },
  .each (s.mesh.inj.filter fun p => decide (p.1 < 224)) fun p => match injHead p.2 with
    | some e => .all [addTo (MESH_RTR_INJWAIT p.1) k, flitEvent p.1 e.flit 4 0 k]
    | none => .skip,
  .each ((s.cache.tagWait.map (·.1)).eraseDups.filter fun n => decide (n < 224)) fun n => addTo (LLC_TAG_WAIT n) k,
  .when (decide (4096 ≤ s.btn.fan.length)) (addTo BTN_BACKPRESSURE k),
  .each (s.dbg.cnt.filter fun p => decide (p.1 < 256) && p.2.event == 6) fun p => addTo (dieCounter p.1) k ]

/-- Let `ns` nanoseconds pass: TIME, the RTC (R509), and the mesh cycle counter unless its clock is paused or stopped
(R44). -/
def advance (ns : Nat) : Act := .read fun s =>
  let q := s.clk.meshAcc + ns * s.get MESH_CFG MESH_CFG_MESH_FREQ
  let r := rtcTicks s.clk.rtcAcc ns
  .all [
    .clk fun c => { c with time := c.time + ns, rtcAcc := r.2 },
    if r.1 = 0 then .skip else setF TRD_RTC TRD_RTC_COUNT (s.get TRD_RTC TRD_RTC_COUNT + r.1),
    if s.mesh.stopped || s.mesh.paused then .skip
    else .seq (.clk fun c => { c with meshAcc := q % 10 }) (meshPasses (q / 10)) ]

/-- A timed event comes about no earlier than its due time: TIME is at least `t` when it does. -/
def advanceTo (t : Nat) : Act := .read fun s => if s.clk.time < t then advance (t - s.clk.time) else .skip

/-- The same for an event that falls due at a mesh cycle. -/
def advanceMesh (c : Nat) : Act := .read fun s =>
  if s.clk.meshCycle < c then
    advance (((c - s.clk.meshCycle) * 10 - s.clk.meshAcc + (max 1 (s.get MESH_CFG MESH_CFG_MESH_FREQ) - 1))
      / max 1 (s.get MESH_CFG MESH_CFG_MESH_FREQ))
  else .skip
/-- A timed event of the mesh clock comes about once mesh cycle `c` is reached; while that clock stands still, it does not. -/
def atMesh (c : Nat) (event : Act) : Act :=
  .seq (advanceMesh c) (.read fun s => .when (decide (c ≤ s.clk.meshCycle)) event)

end Sys2Proof.Machine
end

