-- ==== Sys2Proof/Machine/Mesh.lean ====
section
/-! DEFINITION. Chapter 02: routing, arbitration, injection and ejection on the folded torus, and the fence responder. -/

namespace Sys2Proof.Machine

/-! ### Opcodes of the message classes (Tables 2.2, 4.1, 16.6) -/

def clsREQ : Nat := 0
def clsSNP : Nat := 1
def clsRSP : Nat := 2
def clsDAT : Nat := 3
def clsBTN : Nat := 4
def clsIO : Nat := 5
def clsHRN : Nat := 6
def clsFENCE : Nat := 7

def opRdShared : Nat := 0x01
def opRdUnique : Nat := 0x02
def opUpgrade : Nat := 0x03
def opRdOnce : Nat := 0x04
def opWrFull : Nat := 0x05
def opWrPart : Nat := 0x06
def opClaimZero : Nat := 0x07
def opEvictDirty : Nat := 0x08
def opEvictClean : Nat := 0x09
def opClean : Nat := 0x0A
def opFlush : Nat := 0x0B
def opRel : Nat := 0x0C
def opMemRd : Nat := 0x10
def opMemWr : Nat := 0x11
def opSnpShared : Nat := 0x01
def opSnpUnique : Nat := 0x02
def opInv : Nat := 0x03
def opSnpOnce : Nat := 0x04
def opSnpClean : Nat := 0x05
def opSnpFlush : Nat := 0x06
def opSnpAck : Nat := 0x01
def opNackQ : Nat := 0x02
def opNack : Nat := 0x03
def opGrant : Nat := 0x04
def opComp : Nat := 0x05
def opCompAck : Nat := 0x06
def opSnpMiss : Nat := 0x07
def opFenced : Nat := 0x08
def opWbGo : Nat := 0x09
def opRelDone : Nat := 0x0A
def opFault : Nat := 0x0B
def opDataS : Nat := 0x01
def opDataE : Nat := 0x02
def opDataM : Nat := 0x03
def opDataOnce : Nat := 0x04
def opWbData : Nat := 0x05
def opSnpData : Nat := 0x06
def opMemData : Nat := 0x07
def opUndelivered : Nat := 0x10
/-- IO class: the manual gives no opcode values; these are the model's (log entry 6). -/
def opIoLoad : Nat := 0x01
def opIoStore : Nat := 0x02
def opIoAnswer : Nat := 0x03

/-- The node of a requester ID (Table 2.1). -/
def reqNode (r : Nat) : Nat :=
  if r < 224 then r
  else if r < 248 then portNode ((r - 224) / 3)
  else match r with
    | 248 => 103
    | 249 => 111
    | 250 => 215
    | _ => 223

/-- An answer to a flit (R111): TXN, REQ, WORLD and TENANT of the request, to the requester's node; PRIO follows an RDMA
READ request (R51). -/
def answerTo (f : Flit) (cls opcode : Nat) : Flit :=
  { dest := reqNode f.req, src := 0, req := f.req, cls := cls, opcode := opcode, prio := f.prio, world := f.world,
    tenant := f.tenant, txn := f.txn, line := f.line }

/-- Hops that remain in x and the productive x port (R45): both directions equally short takes +. -/
def goX (n d : Nat) : Nat × Option Nat :=
  let k := (d % 16 + 16 - n % 16) % 16
  if k = 0 then (0, none) else if k ≤ 8 then (k, some 0) else (16 - k, some 1)
/-- The same in y. -/
def goY (n d : Nat) : Nat × Option Nat :=
  let k := (d / 16 + 14 - n / 16) % 14
  if k = 0 then (0, none) else if k ≤ 7 then (k, some 2) else (14 - k, some 3)

/-- The productive link ports of a flit in order of preference (R45, R47): the dimension with more hops remaining
first, x when equal. -/
def productive (n d : Nat) : List Nat :=
  let x := goX n d
  let y := goY n d
  if x.1 < y.1 then y.2.toList ++ x.2.toList else x.2.toList ++ y.2.toList

/-- The neighbour of node `n` beyond link port `p`. -/
def neighbour (n p : Nat) : Nat :=
  let x := n % 16
  let y := n / 16
  match p with
  | 0 => y * 16 + (x + 1) % 16
  | 1 => y * 16 + (x + 15) % 16
  | 2 => (y + 1) % 14 * 16 + x
  | _ => (y + 13) % 14 * 16 + x
/-- The input port at which a flit sent out of port `p` arrives. -/
def opposite (p : Nat) : Nat := if p % 2 = 0 then p + 1 else p - 1

/-- Age of a flit (R44). -/
def State.age (s : State) (f : Flit) : Nat := (s.clk.meshCycle + 2048 - f.stamp % 2048) % 2048

/-- Does flit `a` rank before `b` (R46)? -/
def State.ranks (s : State) (a b : Flit) : Bool :=
  let g := fun f => if 1024 ≤ s.age f then 0 else if f.prio then 1 else 2
  if g a = g b then
    if s.age a = s.age b then decide (a.src ≤ b.src) else decide (s.age b < s.age a)
  else decide (g a < g b)

/-- Insert a flit in rank order. -/
def State.rankIn (s : State) (f : Flit) (l : List Flit) : List Flit :=
  match l with
  | [] => [f]
  | g :: r => if s.ranks f g then f :: g :: r else g :: s.rankIn f r

/-- The first pass of R47 over flits in rank order: an ejection slot at the destination, else a free productive output.
Gives the assignments, the flits left over, and the outputs used (port 5 once per ejection). -/
def pass1 (n : Nat) (l : List Flit) (used : List Nat) : List (Flit × Nat) × List Flit × List Nat :=
  match l with
  | [] => ([], [], used)
  | f :: r =>
    if f.dest = n then
      if (used.filter (· == 5)).length < 2 then
        let x := pass1 n r (5 :: used)
        ((f, 5) :: x.1, x.2)
      else
        let x := pass1 n r used
        (x.1, f :: x.2.1, x.2.2)
    else match (productive n f.dest).find? (fun p => !used.contains p) with
      | some p =>
        let x := pass1 n r (p :: used)
        ((f, p) :: x.1, x.2)
      | none =>
        let x := pass1 n r used
        (x.1, f :: x.2.1, x.2.2)

/-- The second pass of R47: the first free link output in the order +x, +y, −x, −y. -/
def pass2 (l : List Flit) (used : List Nat) : List (Flit × Nat) × List Nat :=
  match l with
  | [] => ([], used)
  | f :: r => match [0, 2, 1, 3].find? (fun p => !used.contains p) with
    | some p =>
      let x := pass2 r (p :: used)
      ((f, p) :: x.1, x.2)
    | none => pass2 r used

/-- A record about a flit at node `n`: its address, tenant and world, and header bits 31:0 (R54, R66, R67). -/
def flitRec (sev cls n : Nat) (f : Flit) : RasRec :=
  { sev := sev, cls := cls, block := 0x100 + n, addr := some (f.line * 64), world := f.world, tenant := f.tenant,
    synd := header31 f }

/-- Put a flit on the link out of port `p` of node `n`. -/
def toLink (n p : Nat) (f : Flit) : Act :=
  .mesh fun m => { m with inputs := Tab.upd m.inputs (neighbour n p * 4 + opposite p) [] (· ++ [f]) }

/-- Hand a flit to the endpoint of a node. -/
def toInbox (n : Nat) (f : Flit) : Act := .mesh fun m => { m with inbox := Tab.upd m.inbox n [] (· ++ [f]) }

/-- The fence responder's answer (R64, Table 2.4). It is injected as a FENCE-class flit, except data, which is DAT. -/
def fenceAnswer (n : Nat) (f : Flit) : Act :=
  let rsp := fun op => send n (answerTo f clsFENCE op)
  let home := fun op => send n { answerTo f clsFENCE op with dest := f.src }
  let dat := fun d op => send n { answerTo f clsDAT op with dest := d, poison := true, hasData := true }
  let de : Act := rasLog { sev := 1, cls := cLink, block := 0x100 + n, addr := some (f.line * 64), world := f.world,
                           tenant := f.tenant, synd := f.req }
  .seq (.all [bump (MESH_RTR_FENCED n), flitEvent n f 5 0 1])
    (if f.cls = clsIO then
      (if f.opcode = opIoLoad then
        send n { answerTo f clsFENCE opFault with hasData := true, data := BitVec.allOnes 512 }
       else rsp opFault)
    else if f.cls = clsREQ then
      (if nodeKind n = 1 then
        (if f.opcode = opMemRd then dat f.src opMemData else send n { answerTo f clsRSP opFault with dest := f.src })
       else rsp opFenced)
    else if f.cls = clsSNP then
      (if f.opcode = opInv then home opSnpMiss
       else if f.opcode = opSnpShared then .all [de, dat (reqNode f.req) opDataS, home opSnpAck]
       else if f.opcode = opSnpUnique then .all [de, dat (reqNode f.req) opDataM, home opSnpAck]
       else .all [de, dat f.src opSnpData])
    else if f.cls = clsBTN then rsp opFault
    else if f.cls = clsHRN then home opUndelivered
    else if f.cls = clsFENCE then toInbox n f
    else .skip)

/-- A flit takes an ejection slot at node `n` (R50): the data check (R67), then the fence responder or the endpoint. -/
def ejectFlit (n : Nat) (f : Flit) : Act := .read fun s =>
  .seq (probe n 5 f false)
    (if s.responder n then fenceAnswer n f
     else .all [
      if f.datErr = 1 then ceCount (0x100 + n)
      else if 2 ≤ f.datErr then rasLog (flitRec 1 cLink n f)
      else .skip,
      toInbox n { f with poison := f.poison || decide (2 ≤ f.datErr), datErr := 0 } ])

/-- A router forwards a flit out of a link port, with the age check of R54. -/
def forward (n : Nat) (f : Flit) (p : Nat) (defl : Bool) : Act := .read fun s => .all [
  if 1536 ≤ s.age f then .all [bump (MESH_RTR_LATE n),
    rasLog (flitRec 2 cTimeout n f)]
  else .skip,
  if defl then .all [bump (MESH_RTR_DEFL n), flitEvent n f 2 0 1,
    if f.dest = n then .all [bump (MESH_RTR_EJFULL n), flitEvent n f 3 0 1] else .skip]
  else .skip,
  probe n p f defl,
  toLink n p f ]

/-- The header check of R66: the flits that stay, and what the wrong ones leave. -/
def headerCheck (n : Nat) (l : List Flit) : Act := .each l fun f =>
  if f.hdrErr = 1 then bump (MESH_RTR_CE n)
  else if 2 ≤ f.hdrErr then rasLog (flitRec 2 cLink n f)
  else .skip

/-- Outputs used at a node in the cycle of its last arrival (port 5 once per ejection), if that cycle still runs. -/
def State.usedNow (s : State) (n : Nat) : List Nat :=
  match Tab.getD s.mesh.outUsed n [] with
  | c :: l => if c = s.clk.meshCycle then l else []
  | [] => []

/-- FLIT_ARRIVAL (R44–R47, R50, R54, R66, R67): one mesh cycle of arbitration over the first flit of each link input of
node `n`. -/
def execFlitArrival (n : Nat) (s : State) : Out :=
  let ins := (List.range 4).filterMap fun p => (Tab.getD s.mesh.inputs (n * 4 + p) []).head?
  let good := (ins.filter fun f => decide (f.hdrErr < 2)).map fun f => { f with hdrErr := 0 }
  let ranked := good.foldr s.rankIn []
  let a := pass1 n ranked []
  let b := pass2 a.2.1 a.2.2
  if s.mesh.stopped || s.mesh.paused then commit .skip s
  else commit (.all [
    .mesh fun m => { m with
      inputs := (List.range 4).foldl (fun t p => Tab.put t (n * 4 + p) ((Tab.getD t (n * 4 + p) []).drop 1)) m.inputs,
      outUsed := Tab.put m.outUsed n (s.clk.meshCycle :: b.2) },
    headerCheck n ins,
    .each a.1 fun x => if x.2 = 5 then ejectFlit n x.1 else forward n x.1 x.2 false,
    .each b.1 fun x => forward n x.1 x.2 true ]) s

/-- Take the first entry of a queue that equals `e` out. -/
def injDrop (q : List InjEntry) (e : InjEntry) : List InjEntry := q.erase e
/-- The injection queue of a node. -/
def State.injQueue (s : State) (n : Nat) : List InjEntry := Tab.getD s.mesh.inj n []

/-- The output that the head flit takes (R48): a free productive output; after 8 cycles any free link output; ejection
for the node itself. -/
def State.injOut (s : State) (n : Nat) (e : InjEntry) : Option Nat :=
  let used := s.usedNow n
  if e.flit.dest = n then (if (used.filter (· == 5)).length < 2 then some 5 else none)
  else match (productive n e.flit.dest).find? (fun p => !used.contains p) with
    | some p => some p
    | none => if e.anyOut || decide (8 ≤ s.clk.meshCycle - e.since) then [0, 2, 1, 3].find? (fun p => !used.contains p)
              else none

/-- FLIT_INJECT (R48, R49, R52): the node injects the head flit of its injection queue. While the starve line is
asserted only starving nodes inject, and a node releases it when it injects. -/
def execFlitInject (n : Nat) (s : State) : Out :=
  match injHead (s.injQueue n) with
  | none => commit .skip s
  | some e =>
    if s.mesh.stopped || s.mesh.paused || (!s.mesh.starve.isEmpty && !s.mesh.starve.contains n) then commit .skip s
    else match s.injOut n e with
      | none => commit .skip s
      | some p =>
        let f := { e.flit with stamp := s.clk.meshCycle % 2048, src := n }
        commit (.all [
          .mesh fun m => { m with
            inj := Tab.upd m.inj n [] (injDrop · e),
            starve := eraseNat m.starve n,
            lastInj := if f.cls = clsFENCE then m.lastInj else Tab.put m.lastInj n s.clk.meshCycle,
            outUsed := Tab.put m.outUsed n (s.clk.meshCycle :: p :: s.usedNow n) },
          probe n 4 f false,
          if p = 5 then ejectFlit n f else toLink n p f ]) s

/-- The mark that waiting gives to the first queue entry that passes a test. -/
def markFirst (p : InjEntry → Bool) (f : InjEntry → InjEntry) (q : List InjEntry) : List InjEntry :=
  match q with
  | [] => []
  | e :: r => if p e then f e :: r else e :: markFirst p f r

/-- INJECTION_WAIT_EXPIRY (R48): the head flit has waited 8 mesh cycles and may take any free link output. -/
def execInjectionWaitExpiry (n : Nat) (s : State) : Out :=
  match injHead (s.injQueue n) with
  | none => commit .skip s
  | some e => commit (atMesh (e.since + 8)
      (.mesh fun m => { m with inj := Tab.upd m.inj n [] (markFirst (· == e) fun x => { x with anyOut := true }) })) s

/-- CLASS_AGE_EXPIRY (R49): the head flit of a class has waited 64 mesh cycles; the class goes before those that follow
it in the order of R49. -/
def execClassAgeExpiry (n cls : Nat) (s : State) : Out :=
  match (s.injQueue n).find? (fun e => e.flit.cls == cls) with
  | none => commit .skip s
  | some e => commit (atMesh (e.since + 64)
      (.mesh fun m => { m with inj := Tab.upd m.inj n [] (markFirst (· == e) fun x => { x with aged := true }) })) s

/-- STARVE_ASSERT (R52): the head flit has waited STARVE_LIMIT cycles, and the node asserts the starve line. -/
def execStarveAssert (n : Nat) (s : State) : Out :=
  match injHead (s.injQueue n) with
  | none => commit .skip s
  | some e =>
    if s.mesh.starve.contains n then commit .skip s
    else commit (atMesh (e.since + s.get MESH_CFG MESH_CFG_STARVE_LIMIT)
      (.seq (bump (MESH_RTR_STARVE n)) (.mesh fun m => { m with starve := insertNat m.starve n }))) s

/-! ### Tile states and the fence handshake (Table 1.5, R60, R61) -/

def tsRun : Nat := 0
def tsPark : Nat := 1
def tsDrain : Nat := 2
def tsFenced : Nat := 3
def tsOff : Nat := 4
def tsTest : Nat := 5

/-- Step 1 of R60: a drain starts at a node. -/
def startDrain (n : Nat) : Act := .read fun s => .all [
  setF (MESH_FENCE_CTL n) MESH_FENCE_CTL_REQ 1,
  setF (MESH_FENCE_STAT n) MESH_FENCE_STAT_DRAINED 0,
  setTState n tsDrain,
  .mesh fun m => { m with noNewReq := insertNat m.noNewReq n, drainStart := Tab.put m.drainStart n s.clk.time } ]

/-- Step 5 of R60 and R61: the router stops ejection to the domain and starts its fence responder; FENCED follows
1,536 mesh cycles after the domain's last injection (steps 6 and 7). A domain that is being fenced injects no more. -/
def startFence (n : Nat) (forced : Bool) : Act := .all [
  setF (MESH_FENCE_CTL n) MESH_FENCE_CTL_REQ (if forced then 4 else 2),
  setFs (MESH_FENCE_STAT n) [(MESH_FENCE_STAT_RESPONDER, 1), (MESH_FENCE_STAT_FORCED, if forced then 1 else 0)],
  .mesh fun m => { m with noNewReq := insertNat m.noNewReq n } ]

/-- DIE_FIFO_DRIFT (R55): a FATAL record with block ID 0x0020, and the mesh clock stops. -/
def execDieFifoDrift (s : State) : Out :=
  commit (.all [rasLog { sev := 3, cls := cLink, block := 0x0020 }, .mesh fun m => { m with stopped := true }]) s

end Sys2Proof.Machine
end

