-- ==== Sys2Proof/Machine/Harness.lean ====
section
/-! DEFINITION. Chapter 16: the Harness interrupt controller, and the tile's interrupt bits that its flits set. -/

namespace Sys2Proof.Machine

/-- WIRED_LINE_CHANGE (R418, R419). -/
def execWiredLineChange (src : Nat) (level : Bool) (s : State) : Out := commit (lineSet src level) s

/-- VECTOR_RAISE (R423). -/
def execVectorRaise (vec : Nat) (s : State) : Out := commit (vectorRaise vec) s

/-- The checks of R421 on a target. -/
def targetOk (hart level guest prio : Nat) (world : Bool) : Bool :=
  decide (hart ≤ 191) && decide (level ≤ 2) && (if level = 2 then decide (1 ≤ guest) && decide (guest ≤ 7) else guest == 0) &&
  decide (1 ≤ prio) && decide (prio ≤ 31) && (!world || level == 0)

/-- The checks of R421 on a source register word. -/
def srcOk (w : W64) : Bool :=
  targetOk (HRN_SRC_HART.get w) (HRN_SRC_LEVEL.get w) (HRN_SRC_GUEST.get w) (HRN_SRC_PRIO.get w)
    (HRN_SRC_WORLD.get w != 0)

/-- The fields of HRN_SRCn that a write sets while EN = 0, with the LATCHED bit cleared where it writes 1 (R420,
Table 16.3: a TRIG of 0 for n ≤ 64 stores 0b11). -/
def srcFields (n : Nat) (old v : W64) : W64 :=
  let trig := HRN_SRC_TRIG.get v
  let w := if HRN_SRC_EN.get old = 1 then old else
    HRN_SRC_PRIO.put (HRN_SRC_GUEST.put (HRN_SRC_LEVEL.put (HRN_SRC_HART.put (HRN_SRC_TRIG.put old
      (if trig = 0 ∧ n ≤ 64 then 3 else trig)) (HRN_SRC_HART.get v)) (HRN_SRC_LEVEL.get v)) (HRN_SRC_GUEST.get v))
      (HRN_SRC_PRIO.get v)
  if HRN_SRC_LATCHED.get v = 1 then HRN_SRC_LATCHED.put w 0 else w

/-- A write to HRN_SRCn by a hart of world `world` (R420, R421, R430). -/
def srcWrite (world : Bool) (n : Nat) (en : Bool) (v : W64) : Act := .read fun s =>
  let old := s.reg (HRN_SRC n)
  let w := srcFields n old v
  let w' := if en then
      (if srcOk w then HRN_SRC_BADCFG.put (HRN_SRC_EN.put w 1) 0
       else HRN_SRC_BADCFG.put (HRN_SRC_EN.put w 0) 1)
    else HRN_SRC_EN.put w 0
  if n = 0 ∨ 1023 < n ∨ (HRN_SRC_WORLD.get old != 0) ≠ world then .skip
  else .all [
    .reg (HRN_SRC n) w',
    levelIp n,
    hrnEval (HRN_SRC_HART.get old) (fileOf world (HRN_SRC_LEVEL.get old) (HRN_SRC_GUEST.get old)),
    srcEval n ]

/-- HRN_SRC_ENABLE (R421): a write of EN = 1. -/
def execHrnSrcEnable (world : Bool) (src : Nat) (value : W64) (s : State) : Out := commit (srcWrite world src true value) s
/-- HRN_SRC_DISABLE (R430): a write of EN = 0. -/
def execHrnSrcDisable (world : Bool) (src : Nat) (value : W64) (s : State) : Out := commit (srcWrite world src false value) s

/-! ### Interrupt files -/

/-- World of file `f` (Table 16.5). -/
def fileWorld (f : Nat) : Bool := f == 9
/-- An access to a file page: the other world takes an access fault and changes nothing (R424). -/
def fileAccess (world : Bool) (h f : Nat) (a : Act) : Act :=
  if 191 < h ∨ 9 < f then ioAnswer 0 else if world ≠ fileWorld f then ioFault else a

/-- A write of a threshold (R430): it holds before the answer. -/
def threshWrite (world : Bool) (hart file : Nat) (value : W64) : Act :=
  fileAccess world hart file (.all [
    setF (HRN_THRESH hart file) HRN_THRESH_THRESH (HRN_THRESH_THRESH.get value), hrnEval hart file, ioAnswer 0 ])
/-- HRN_THRESH_WRITE (R430). -/
def execHrnThreshWrite (world : Bool) (hart file : Nat) (value : W64) (s : State) : Out :=
  commit (threshWrite world hart file value) s

/-- Set the list of IDs in service of a file; HRN_ISRV shows their priorities. -/
def setService (h f : Nat) (l : List (Nat × Nat)) : Act := .all [
  .hrn fun x => { x with isrv := Tab.put x.isrv (h * 16 + f) l },
  setF (HRN_ISRV h f) HRN_ISRV_INSERVICE
    (((List.range 31).map fun i => if l.any (fun p => p.1 == i + 1) then 2 ^ i else 0).sum) ]

/-- The hart and file that source `n` targets. -/
def State.srcTarget (s : State) (n : Nat) : Nat × Nat :=
  let w := s.reg (HRN_SRC n)
  (HRN_SRC_HART.get w, fileOf (HRN_SRC_WORLD.get w != 0) (HRN_SRC_LEVEL.get w) (HRN_SRC_GUEST.get w))
/-- End the service of the ID at priority `p` in a file: the priority is free, a level source is re-evaluated (R430). What
a chain changes in its own file travels in its answer alone (R426). -/
def endService (h f p : Nat) (chain : Bool) : Act := .read fun s =>
  match (s.inService h f).find? (fun q => q.1 == p) with
  | none => .skip
  | some q => .all [
      setService h f ((s.inService h f).filter fun r => r.1 != p),
      if q.2 < 1024 then .seq (levelIp q.2) (.when (!chain || s.srcTarget q.2 != (h, f)) (srcEval q.2)) else .skip ]

/-- Clear the IP bit of an ID. -/
def clearIp (id : Nat) : Act :=
  if id < 1024 then setF (HRN_SRC id) HRN_SRC_IP 0 else setF (HRN_VEC id) HRN_VEC_IP 0

/-- The tile state of file `f` at node `n`. -/
def State.tileIrq (s : State) (n f : Nat) : TileIrq := Tab.getD s.hrn.tile (n * 16 + f) {}
/-- The sequence rule of R426: does the tile apply a message of sequence `seq`? -/
def seqNewer (last seq : Nat) : Bool :=
  let d := (seq + 4096 - last) % 4096
  decide (1 ≤ d) && decide (d ≤ 2047)
/-- The tile applies a change of a file's bits under the sequence rule. -/
def tileApply (n f seq : Nat) (g : TileIrq → TileIrq) : Act := .read fun s =>
  if seqNewer (s.tileIrq n f).seq seq then
    .hrn fun x => { x with tile := Tab.put x.tile (n * 16 + f) { g (s.tileIrq n f) with seq := seq } }
  else .skip

/-- The answer of a claim or chain: ID, PRIO and MORE; it carries the file's EIP state with its next sequence, which the
hart's tile applies as it returns the data (R426, R428). -/
def fileAnswer (h f id prio : Nat) : Act := .read fun s =>
  let more := (s.claimable h f).isSome
  let seq := ((s.eipOf h f).2 + 1) % 4096
  .all [
    .hrn fun x => { x with eip := Tab.put x.eip (h * 16 + f) (more, seq) },
    ioAnswer (BitVec.ofNat 64 (id + prio * 2 ^ 16 + (if more then 2 ^ 21 else 0))),
    match s.hartNode h with
    | some n => tileApply n f seq fun t => { t with eip := more }
    | none => .skip ]

/-- A claim in file `f` of hart `h` (R429); `completed` says that a chain has ended a service before it (R431). -/
def claim (h f : Nat) (completed : Bool) : Act := .read fun s =>
  match s.claimable h f with
  | some (prio, id) => .all [
      clearIp id,
      .when (decide (81 ≤ id) && decide (id ≤ 88)) (.hrn fun x => { x with lines := eraseNat x.lines id }),
      setService h f ((prio, id) :: s.inService h f),
      bump HRN_CLAIMS,
      .when completed (bump HRN_CHAINS),
      fileAnswer h f id prio ]
  | none =>
    if (f = 0 ∨ f = 9) ∧ (s.claimable h (9 - f)).isSome then fileAnswer h f 0xFFFE 0
    else if (s.eipOf h f).1 then .all [bump HRN_SPURIOUS, fileAnswer h f 0xFFFF 0]
    else fileAnswer h f 0 0

/-- HRN_CLAIM_READ (R429). -/
def execHrnClaimRead (world : Bool) (hart file : Nat) (s : State) : Out :=
  commit (fileAccess world hart file (claim hart file false)) s

/-- A write of an ID to a file's COMPLETE register (R430). -/
def completeWrite (world : Bool) (hart file id : Nat) : Act := .read fun s =>
  fileAccess world hart file (.all [
    match (s.inService hart file).find? (fun q => q.2 == id) with
    | some q => .all [endService hart file q.1 false, hrnEval hart file]
    | none => bump HRN_BAD_COMPLETE,
    ioAnswer 0 ])
/-- HRN_COMPLETE_WRITE (R430). -/
def execHrnCompleteWrite (world : Bool) (hart file id : Nat) (s : State) : Out :=
  commit (completeWrite world hart file id) s

/-- A read of a file's CHAIN register (R431): complete the in-service ID of highest priority, then claim. -/
def chainRead (world : Bool) (hart file : Nat) : Act := .read fun s =>
  fileAccess world hart file
    (if (s.inService hart file).isEmpty then claim hart file false
     else .seq (endService hart file (s.topService hart file) true) (claim hart file true))
/-- HRN_CHAIN_READ (R431). -/
def execHrnChainRead (world : Bool) (hart file : Nat) (s : State) : Out := commit (chainRead world hart file) s

/-! ### Timers and software interrupts -/

/-- A write of MSIP (R434): files 0 and 9 only; the change travels as MSIP_SET or MSIP_CLR. -/
def msipWrite (world : Bool) (hart file : Nat) (value : Bool) : Act := .read fun s =>
  fileAccess world hart file
    (if file = 0 ∨ file = 9 then .all [
       setB (HRN_MSIP hart file) HRN_MSIP_MSIP value,
       if Tab.getD s.hrn.msip (hart * 16 + file) false = value then .skip
       else .all [.hrn fun x => { x with msip := Tab.put x.msip (hart * 16 + file) value },
         hrnSend hart file (if value then 3 else 4)],
       ioAnswer 0 ]
     else ioAnswer 0)
/-- HRN_MSIP_WRITE (R434). -/
def execHrnMsipWrite (world : Bool) (hart file : Nat) (value : Bool) (s : State) : Out :=
  commit (msipWrite world hart file value) s

/-- Does file `f` have a timer compare (Table 16.7)? -/
def hasTimer (f : Nat) : Bool := f == 0 || f == 1 || f == 9
/-- The timer source of a file is 1 while TIME ≥ HRN_TIMECMP; a change travels as TIP_SET or TIP_CLR (R434). -/
def timerEval (h f : Nat) : Act := .read fun s =>
  let v := decide ((s.reg (HRN_TIMECMP h f)).toNat ≤ s.clk.time)
  if Tab.getD s.hrn.tip (h * 16 + f) false = v then .skip
  else .all [.hrn fun x => { x with tip := Tab.put x.tip (h * 16 + f) v }, hrnSend h f (if v then 5 else 6)]

/-- A write of a file's timer compare (R434). -/
def timecmpWrite (world : Bool) (hart file : Nat) (value : W64) : Act :=
  fileAccess world hart file
    (if hasTimer file then .all [.reg (HRN_TIMECMP hart file) value, timerEval hart file, ioAnswer 0]
     else ioAnswer 0)
/-- HRN_TIMECMP_WRITE (R434). -/
def execHrnTimecmpWrite (world : Bool) (hart file : Nat) (value : W64) (s : State) : Out :=
  commit (timecmpWrite world hart file value) s

/-- TIMER_COMPARE_MATCH (R434): TIME reaches the compare of a file. -/
def execTimerCompareMatch (hart file : Nat) (s : State) : Out :=
  commit (if hasTimer file ∧ hart ≤ 191 then
    .all [advanceTo (s.reg (HRN_TIMECMP hart file)).toNat, timerEval hart file] else .skip) s

/-! ### At the tile -/

/-- A flit that waited at a node leaves it as its command is carried out. -/
def takeInbox (n : Nat) (f : Flit) : Act := .mesh fun m =>
  match Tab.find m.inbox n with
  | some l => { m with inbox := Tab.put m.inbox n (l.erase f) }
  | none => m

/-- An HRN flit at a tile: ADDR[3:0] names the file, TXN carries the sequence (R426). -/
def hrnFlit (n : Nat) (f : Flit) (files : List Nat) (g : TileIrq → TileIrq) : Act :=
  .seq (takeInbox n f) (if files.contains (f.line % 16) then tileApply n (f.line % 16) f.txn g else .skip)

/-- EIP_SET (Table 16.6). -/
def execEipSet (n : Nat) (f : Flit) (s : State) : Out := commit (hrnFlit n f (List.range 10) fun t => { t with eip := true }) s
/-- EIP_CLR. -/
def execEipClr (n : Nat) (f : Flit) (s : State) : Out := commit (hrnFlit n f (List.range 10) fun t => { t with eip := false }) s
/-- MSIP_SET: files 0 and 9. -/
def execMsipSet (n : Nat) (f : Flit) (s : State) : Out := commit (hrnFlit n f [0, 9] fun t => { t with msip := true }) s
/-- MSIP_CLR. -/
def execMsipClr (n : Nat) (f : Flit) (s : State) : Out := commit (hrnFlit n f [0, 9] fun t => { t with msip := false }) s
/-- TIP_SET: files 0, 1 and 9. -/
def execTipSet (n : Nat) (f : Flit) (s : State) : Out := commit (hrnFlit n f [0, 1, 9] fun t => { t with tip := true }) s
/-- TIP_CLR. -/
def execTipClr (n : Nat) (f : Flit) (s : State) : Out := commit (hrnFlit n f [0, 1, 9] fun t => { t with tip := false }) s

/-- The hart that MESH_HART_MAPn places at node `n`. -/
def State.hartAt (s : State) (n : Nat) : Option Nat := (List.range 192).find? fun h => s.hartNode h == some n

/-- UNDELIVERED (R427): counted; every later send for the hart is held until its tile is reported in Run. -/
def execUndelivered (n : Nat) (f : Flit) (s : State) : Out :=
  commit (.all [takeInbox n f, bump HRN_UNDELIVERED,
    match s.hartAt f.src with
    | some h => .hrn fun x => { x with held := insertNat x.held h }
    | none => .skip ]) s

/-- Dobby reports a hart's tile in Run: the state of every file goes out again, each with a new sequence (R427). -/
def hrnResend (h : Nat) : Act := .all [
  .hrn fun x => { x with held := eraseNat x.held h },
  .each (List.range 10) fun f => .read fun s => .all [
    hrnSendEip h f (s.claimable h f).isSome,
    .when (f == 0 || f == 9) (hrnSend h f (if Tab.getD s.hrn.msip (h * 16 + f) false then 3 else 4)),
    .when (hasTimer f) (hrnSend h f (if Tab.getD s.hrn.tip (h * 16 + f) false then 5 else 6)) ] ]

/-! ### Edge latches -/

/-- EDGE_LATCH_CAPTURE (R435): an edge of sources 1–64 while the Harness clock is stopped. -/
def execEdgeLatchCapture (src : Nat) (rising : Bool) (s : State) : Out :=
  commit (if s.hrn.clkStopped ∧ 1 ≤ src ∧ src ≤ 64 then
    .hrn fun x => if rising then { x with latchRise := insertNat x.latchRise src, lines := insertNat x.lines src }
      else { x with latchFall := insertNat x.latchFall src, lines := eraseNat x.lines src }
    else .skip) s

/-- A recorded edge sets LATCHED, and IP when TRIG selects it (R435). -/
def latchOut (n bit : Nat) : Act := .read fun s => .all [
  setF (HRN_SRC n) HRN_SRC_LATCHED 1,
  .when ((s.get (HRN_SRC n) HRN_SRC_TRIG).testBit bit) (setF (HRN_SRC n) HRN_SRC_IP 1),
  srcEval n ]

/-- EDGE_LATCH_TRANSFER (R435): after the Harness clock has started, the recorded edges take effect and the latches
clear. -/
def execEdgeLatchTransfer (s : State) : Out :=
  commit (if s.hrn.clkStopped then .skip else .all [
    .each s.hrn.latchRise fun n => latchOut n 0,
    .each s.hrn.latchFall fun n => latchOut n 1,
    .hrn fun x => { x with latchRise := [], latchFall := [] } ]) s

end Sys2Proof.Machine
end

