-- ==== Sys2Proof/Machine/Memory.lean ====
section
/-! DEFINITION. Chapter 15: the memory channels. DRAM is held by physical address; what a mirror or a spare rank holds a
second time is not held twice, only its wrong symbols are (`badB`). -/

namespace Sys2Proof.Machine

/-! ### The interleave (R398) -/

/-- The set bits of a channel mask, lowest first. -/
def maskChannels (m : Nat) : List Nat := (List.range 12).filter m.testBit
/-- The interleave set that holds a physical address. -/
def State.ilvSet (s : State) (pa : Nat) : Option Nat := (List.range 4).find? fun i =>
  s.bit (MC_ILV i) MC_ILV_VALID && decide (s.get (MC_ILV i) MC_ILV_BASE ≤ pa / 2 ^ 30) &&
  decide (pa / 2 ^ 30 < s.get (MC_ILV i) MC_ILV_BASE + s.get (MC_ILV i) MC_ILV_SIZE)
/-- The logical channel and the channel-local address of a physical address (R398). -/
def State.channelOf (s : State) (pa : Nat) : Option (Nat × Nat) :=
  match s.ilvSet pa with
  | none => none
  | some i =>
    let l := maskChannels (s.get (MC_ILV i) MC_ILV_CHANNELS)
    let c := (pa - s.get (MC_ILV i) MC_ILV_BASE * 2 ^ 30) / 2 ^ 11
    if l.length = 0 then none
    else some (l.getD (c % l.length) 0, c / l.length * 2 ^ 11 + pa % 2 ^ 11)

/-! ### Errors found in a line -/

/-- The bank of a channel's DIMMs sits in the controller's block. -/
def dimmId (c : Nat) : Nat := 0x0200 + c
/-- Is channel `c` a side of a mirrored pair whose both sides are in service? -/
def State.mirrored (s : State) (c : Nat) : Bool :=
  s.bit (MC_CFG c) MC_CFG_MIRROR && (Tab.find s.mc.alone (c / 2)).isNone
/-- A rank's key. -/
def rankKey (c r : Nat) : Nat := c * 4096 + r % 16 * 64

/-- A corrected error counts, and fills its rank's bucket (R404): at BKT_THR one CE record with the threshold class, the
rank and the device in MISC, the controller's source and MC_BKT_TRIP, and the bucket starts again from 0. -/
def corrected (c rank device : Nat) : Act := .read fun s =>
  let b := Tab.getD s.mc.bucket (rankKey c rank) 0 + 1
  .all [
    bump (MC_CE c), ceCount (dimmId c),
    if s.get (MC_SCRUB c) MC_SCRUB_BKT_THR ≤ b then .all [
      .mc fun m => { m with bucket := Tab.put m.bucket (rankKey c rank) 0 },
      bump (MC_BKT_TRIP c),
      rasLog { sev := 0, cls := cThreshold, block := dimmId c, synd := rank % 16 * 64 + device % 64 },
      lineSet (92 + c) true ]
    else .mc fun m => { m with bucket := Tab.put m.bucket (rankKey c rank) b } ]

/-- What the decoder finds of a line: its stored mark or worse. -/
def State.badMark (s : State) (l wrong : Nat) : Nat := max (Tab.getD s.mc.bad l 0) wrong
/-- Set the mark of a line (0: none). -/
def markBad (l v : Nat) : Act := .mc fun m => { m with bad := if v = 0 then Tab.drop m.bad l else Tab.put m.bad l v }

/-- Is a fault of a kind armed for a channel (R413)? Its block is the controller's or the DIMMs' ID. -/
def Inject.of (i : Inject) (c kind : Nat) : Bool := (i.block == 0x10 + c || i.block == dimmId c) && i.kind == kind

/-- The other side of a channel's pair. -/
def partner (ch : Nat) : Nat := if ch % 2 = 0 then ch + 1 else ch - 1

/-- Is a line on logical channel `ch`? -/
def State.lineOn (s : State) (ch l : Nat) : Bool := match s.channelOf (l * 64) with | some x => x.1 == ch | none => false
/-- The homes switch to a channel's partner (R405): the interleave sets name the side in service, whose wrong symbols are
then those of the lines. -/
def switchPartner (ch : Nat) : Act := .all [
  .read fun s => .mc fun m =>
    let mine := fun (p : Nat × Nat) => s.lineOn (ch / 2 * 2) p.1
    { m with
      bad := if ch % 2 = 1 then m.bad
        else (m.badB.filter mine).foldl (fun t p => Tab.put t p.1 p.2) (m.bad.filter fun p => !mine p)
      badB := m.badB.filter fun p => !mine p },
  .each (List.range 4) fun i => .read fun s =>
    let m := s.get (MC_ILV i) MC_ILV_CHANNELS
    if m.testBit ch then setF (MC_ILV i) MC_ILV_CHANNELS ((m ^^^ 2 ^ ch) ||| 2 ^ partner ch) else .skip,
  .mc fun m => { m with alone := Tab.put m.alone (ch / 2) (partner ch) } ]

/-- Retire a channel by force where no partner serves its lines (Table 15.5): a forced fence of its node, FORCED and
RETIRED. -/
def retireForced (c : Nat) : Act := .all [
  setFs (MC_CFG c) [(MC_CFG_RETIRED, 1), (MC_CFG_FORCED, 1)],
  startFence (mcNode c) true ]
/-- Retire the side of a mirrored pair whose partner is in service (Table 15.5): the homes switch and the node drains. -/
def retireMirrored (c : Nat) : Act := .all [
  switchPartner c, setF (MC_CFG c) MC_CFG_RETIRED 1, startDrain (mcNode c),
  rasLog { sev := 0, cls := cState, block := dimmId c } ]
/-- Retire a channel as a forced MEM.RETIRE does (R401, R412, R551). -/
def retireAsForced (c : Nat) : Act := .read fun s =>
  if s.bit (MC_CFG c) MC_CFG_RETIRED then .skip else if s.mirrored c then retireMirrored c else retireForced c

/-- A link alert (R401, Table 15.2). -/
def alert (c : Nat) (write : Bool) : Act := .read fun s =>
  let k := Tab.getD s.mc.alerts c 0 + 1
  .all [
    .mc fun m => { m with alerts := Tab.put m.alerts c k },
    if k = 1 then bump (if write then MC_WCRC_RETRY c else MC_CA_RETRY c)
    else if k = 2 then rasLog { sev := 0, cls := cLink, block := dimmId c }
    else if k = 4 then .all [rasLog { sev := 2, cls := cLink, block := dimmId c, retire := some c }, retireAsForced c]
    else .skip ]

/-- An injected alert comes with the next command of its kind (R413); a command that completes ends a run of alerts. -/
def commandDone (c : Nat) (write : Bool) : Act := .read fun s =>
  let kind := if write && s.ras.injected.any (·.of c 2) then 2 else 1
  .all [
    if s.ras.injected.any (·.of c kind) then .all [
      alert c (kind == 2),
      .ras fun r => { r with injected := r.injected.eraseP (·.of c kind) } ]
    else .skip,
    .mc fun m => { m with alerts := Tab.put m.alerts c 0 } ]

/-- Read a line from the devices (R395, R403, R405): a correctable error is corrected and written back; an uncorrectable
one is taken from the mirror where a good copy stands, else the line answers poisoned. `k` gets whether it is poisoned. -/
def deviceRead (c l wrong wrong2 : Nat) (rank device : Nat) (k : Bool → Act) : Act := .read fun s =>
  let m := s.badMark l wrong
  if m = 0 then k (s.isPoison l)
  else if m = 1 then .all [corrected c rank device, bump (MC_DEMAND_FIX c), markBad l 0, k (s.isPoison l)]
  else if s.mirrored c ∧ max (Tab.getD s.mc.badB l 0) wrong2 < 2 then
    .all [bump (MC_UCE c), bump (MC_MIRROR_RECOVER c),
      rasLog { sev := 0, cls := cDram, block := dimmId c, addr := some (l * 64) }, markBad l 0, k (s.isPoison l)]
  else .all [bump (MC_UCE c),
    rasLog { sev := 2, cls := cDram, block := dimmId c, addr := some (l * 64) }, markBad l 2, k true]

/-- A rank is accessed: it leaves power-down (R397). -/
def rankTouch (c rank : Nat) : Act := .read fun s => .mc fun m => { m with
  powerDown := Tab.upd m.powerDown c [] (eraseNat · rank)
  rankLast := Tab.put m.rankLast (rankKey c rank) s.clk.time }

/-- Keep a companion line in the 64-entry pair buffer for 200 ns (R395). -/
def pairKeep (c l : Nat) : Act := .read fun s => .mc fun m => { m with
  pairBuf := Tab.upd m.pairBuf c [] fun b => ((l, s.clk.time) :: b.filter (·.1 != l)).take 64 }
/-- Take a line out of the pair buffer. -/
def pairDrop (c l : Nat) : Act := .mc fun m => { m with pairBuf := Tab.upd m.pairBuf c [] (·.filter (·.1 != l)) }
/-- Is a line in the pair buffer, not older than 200 ns? -/
def State.paired (s : State) (c l : Nat) : Bool :=
  (Tab.getD s.mc.pairBuf c []).any fun p => p.1 == l && decide (s.clk.time ≤ p.2 + 200)
/-- The other line of a pair. -/
def companion (l : Nat) : Nat := if l % 2 = 0 then l + 1 else l - 1

/-- A lone write that waited 200 ns for its companion line is merged with it (R395): a companion that decodes as
uncorrectable is written back with the poison pattern. -/
def mergeLone (c l : Nat) : Act := .read fun s =>
  let o := companion l
  let m := Tab.getD s.mc.bad o 0
  .all [
    bump (MC_PAIR_MERGE c),
    .mc fun x => { x with lone := Tab.upd x.lone c [] (·.filter (·.1 != l)) },
    if m = 0 then .skip
    else if m = 1 then .all [corrected c (Config.lineRank o) 0, bump (MC_DEMAND_FIX c), markBad o 0]
    else .all [bump (MC_UCE c), markBad o 0, .setPoison o true] ]

/-- Lone writes older than 200 ns are merged. -/
def settleLone (c : Nat) : Act := .read fun s =>
  .each ((Tab.getD s.mc.lone c []).filter fun p => decide (p.2 + 200 < s.clk.time)) fun p => mergeLone c p.1

/-- MEM_RD (R395, R396, R399, R403, R405): the pair is read and the line answered; `wrong` and `wrong2` say what the
decoder finds beyond the stored marks in the channel and in its mirror (0 nothing, 1 correctable, 2 uncorrectable). A
fenced channel's responder answers instead. -/
def execMemRd (node : Nat) (f : Flit) (wrong wrong2 : Nat) (s : State) : Out :=
  let c := nodeChannel node
  let rank := Config.lineRank f.line
  let data := fun (p : Bool) => (.read fun s => send node { answerTo f clsDAT opMemData with
    dest := f.src, data := s.lineAt f.line, poison := p, hasData := true } : Act)
  commit (whileLive (.seq (takeInbox node f)
    (if s.responder node then fenceAnswer node f
     else .seq (settleLone c)
      (if s.paired c f.line then data (s.isPoison f.line)
       else .all [
        commandDone c false, rankTouch c rank,
        deviceRead c f.line wrong wrong2 rank (Config.lineDevice f.line) data,
        .when (Tab.getD s.mc.bad (companion f.line) 0 < 2) (pairKeep c (companion f.line)) ])))) s

/-- MEM_WR (R395, R399, R405): the line is written, paired with a companion's write of the last 200 ns; COMP answers. A
write of unpoisoned data clears the poison pattern; an armed fault corrupts the check symbols stored (R413). -/
def execMemWr (node : Nat) (f : Flit) (s : State) : Out :=
  let c := nodeChannel node
  let inj := s.ras.injected.find? fun i => i.of c 0 && i.addr / 64 == f.line
  commit (whileLive (.seq (takeInbox node f)
    (if s.responder node then fenceAnswer node f
     else .all [
      settleLone c, commandDone c true, rankTouch c (Config.lineRank f.line),
      wrLine f.line f.data f.poison,
      .mc fun m => { m with badB := Tab.drop m.badB f.line },
      (match inj with
       | some i => .all [markBad f.line i.devices, .ras fun r => { r with injected := r.injected.erase i }]
       | none => markBad f.line 0),
      pairDrop c f.line,
      .read fun s =>
        if (Tab.getD s.mc.lone c []).any (·.1 == companion f.line) then
          .mc fun m => { m with lone := Tab.upd m.lone c [] (·.filter (·.1 != companion f.line)) }
        else .mc fun m => { m with lone := Tab.upd m.lone c [] fun l => (f.line, s.clk.time) :: l.filter (·.1 != f.line) },
      send node { answerTo f clsRSP opComp with dest := f.src } ]))) s

/-- PAIR_BUFFER_EXPIRY (R395): a companion line kept for 200 ns leaves the pair buffer; a lone write that waited as long
is merged. -/
def execPairBufferExpiry (chan line : Nat) (s : State) : Out :=
  commit (.all [
    (match (Tab.getD s.mc.pairBuf chan []).find? (·.1 == line) with
     | some p => .all [advanceTo (p.2 + 200), pairDrop chan line]
     | none => .skip),
    (match (Tab.getD s.mc.lone chan []).find? (·.1 == line) with
     | some p => .all [advanceTo (p.2 + 200), mergeLone chan line]
     | none => .skip) ]) s

/-- RANK_POWER_DOWN (R397): a rank idle for PD_IDLE memory clocks enters power-down; PD_IDLE 0 disables it. -/
def execRankPowerDown (chan rank : Nat) (s : State) : Out :=
  let idle := s.get (MC_CFG chan) MC_CFG_PD_IDLE
  let mhz := max 1 (s.get (MC_CFG chan) MC_CFG_SPEED * 50)
  commit (if idle = 0 then .skip else .all [
    advanceTo (Tab.getD s.mc.rankLast (rankKey chan rank) 0 + (idle * 1000 + mhz - 1) / mhz),
    .mc fun m => { m with powerDown := Tab.upd m.powerDown chan [] (insertNat · rank) } ]) s

/-- DDR_ALERT (R401): a DIMM raises ALERT_n for a CA parity error or a write CRC error. -/
def execDdrAlert (chan : Nat) (write : Bool) (s : State) : Out := commit (alert chan write) s

/-- PATROL_SCRUB (R402): the patrol reads a line. A correctable error is written back; an uncorrectable line gets the
poison pattern and a UCR record with its address, or its channel-local address where it has no physical one. -/
def execPatrolScrub (chan line wrong : Nat) (chanLocal : Bool) (s : State) : Out :=
  let second := s.mirrored chan && chan % 2 == 1
  let m := if chanLocal then wrong else if second then max (Tab.getD s.mc.badB line 0) wrong else s.badMark line wrong
  commit (if s.get (MC_SCRUB chan) MC_SCRUB_PERIOD = 0 then .skip
    else if m = 0 then .skip
    else if m = 1 then .all [corrected chan (Config.lineRank line) (Config.lineDevice line), bump (MC_PATROL_FIX chan),
      if chanLocal then .skip else if second then .mc fun x => { x with badB := Tab.drop x.badB line } else markBad line 0]
    else .all [bump (MC_UCE chan),
      rasLog { sev := 2, cls := cDram, block := dimmId chan, addr := some (line * 64), chanLocal := chanLocal },
      if chanLocal then .skip else if second then .mc fun x => { x with badB := Tab.put x.badB line 2 }
      else .all [markBad line 0, .setPoison line true]]) s

/-- ECS_COMMAND (R400): one manual ECS command. -/
def execEcsCommand (chan : Nat) (s : State) : Out :=
  commit (.mc fun m => { m with ecs := Tab.upd m.ecs chan 0 (· + 1) }) s

/-- ECS_COUNT_READ (R400): a device's ECS error count is taken over; above its threshold one CE record names the rank and
the device. -/
def execEcsCountRead (chan rank device count threshold : Nat) (s : State) : Out :=
  commit (.all [
    .mc fun m => { m with ecsCount := Tab.put m.ecsCount (rankKey chan rank + device % 64) count },
    if threshold < count then
      rasLog { sev := 0, cls := cThreshold, block := dimmId chan, synd := rank % 16 * 64 + device % 64 }
    else .skip ]) s

/-- BUCKET_LEAK (R404): the bucket of a rank loses 1, down to 0. -/
def execBucketLeak (chan rank : Nat) (s : State) : Out :=
  commit (.mc fun m => { m with bucket := Tab.upd m.bucket (rankKey chan rank) 0 (· - 1) }) s

/-! ### Cards -/

/-- The owner of a channel card; a number that names no channel is left to the parameter check. -/
def chanOwner (ch : Nat) (s : State) : Owner := if ch < 12 then .is (s.blockWorld (0x10 + ch)) else .any

/-- MEM_SCRUB_CFG (R415, R447): the settings of one channel, or of every channel of the card's world. -/
def execMemScrubCfg (c : CardCtx) (channel period ecsH bktThr bktLeak : Nat) (s : State) : Out :=
  let own := fun (s : State) => if channel = 0xFF then
      (if (List.range 12).any (fun k => s.blockWorld (0x10 + k) == c.world) then Owner.any else .is (!c.world))
    else chanOwner channel s
  commit (gated c 0x0301 false own fun s =>
    if 12 ≤ channel ∧ channel ≠ 0xFF then answer0 c 0x0301 stBADPARAM (dOff 0x10)
    else if 255 < period then answer0 c 0x0301 stBADPARAM (dOff 0x11)
    else if ecsH = 0 ∨ 255 < ecsH then answer0 c 0x0301 stBADPARAM (dOff 0x12)
    else if bktThr = 0 ∨ 255 < bktThr then answer0 c 0x0301 stBADPARAM (dOff 0x13)
    else if bktLeak = 0 ∨ 255 < bktLeak then answer0 c 0x0301 stBADPARAM (dOff 0x14)
    else if s.stopLost (if channel < 12 then 0x10 + channel else 0x10) then answer0 c 0x0301 stFAULT (dBlk (if channel < 12 then 0x10 + channel else 0x10))
    else .all [
      .each (if channel = 0xFF then (List.range 12).filter fun k => s.blockWorld (0x10 + k) == c.world ||
          c.via == .keeper else [channel]) fun k =>
        setFs (MC_SCRUB k) [(MC_SCRUB_PERIOD, period), (MC_SCRUB_ECS_H, ecsH), (MC_SCRUB_BKT_THR, bktThr),
          (MC_SCRUB_BKT_LEAK, bktLeak)],
      answerOk c 0x0301 ]) s

/-- MEM_MIRROR_SET (Table 15.3): stored in the persistent configuration when both channels are populated alike. -/
def execMemMirrorSet (c : CardCtx) (pair : Nat) (on : Bool) (s : State) : Out :=
  commit (gated c 0x0302 false (chanOwner (2 * pair)) fun s =>
    let a := MC_CFG (2 * pair)
    let b := MC_CFG (2 * pair + 1)
    if 6 ≤ pair then answer0 c 0x0302 stBADPARAM (dOff 0x10)
    else if s.stopLost (0x10 + 2 * pair) then answer0 c 0x0302 stFAULT (dBlk (0x10 + 2 * pair))
    else if s.opOpen [0x0302] pair then answerBusyFree c 0x0302
    else if s.bit a MC_CFG_POP ∧ s.bit b MC_CFG_POP ∧ s.get a MC_CFG_RANKS = s.get b MC_CFG_RANKS ∧
        s.get a MC_CFG_CAP = s.get b MC_CFG_CAP then
      .all [.mc fun m => { m with mirrorCfg := Tab.put m.mirrorCfg pair on }, answerOk c 0x0302]
    else answer0 c 0x0302 stBADSTATE (dBlk (dimmId (2 * pair)))) s

/-- MEM_MIRROR_RESYNC (Table 15.3): one side serves alone and the other has been returned by TILE.RESTORE. -/
def execMemMirrorResync (c : CardCtx) (pair : Nat) (s : State) : Out :=
  commit (gated c 0x0302 false (chanOwner (2 * pair)) fun s =>
    if 6 ≤ pair then answer0 c 0x0302 stBADPARAM (dOff 0x10)
    else if s.stopLost (0x10 + 2 * pair) then answer0 c 0x0302 stFAULT (dBlk (0x10 + 2 * pair))
    else if s.opOpen [0x0302] pair then answerBusyFree c 0x0302
    else match Tab.find s.mc.alone pair with
    | none => answer0 c 0x0302 stBADSTATE (dBlk (dimmId (2 * pair)))
    | some k =>
      let o := partner k
      if !s.bit (MC_CFG o) MC_CFG_RETIRED ∧ s.tstate (mcNode o) = tsRun then
        accept c 0x0302 pair (setFs (MC_STAT o) [(MC_STAT_COPYING, 1), (MC_STAT_COPY_PCT, 0)])
      else answer0 c 0x0302 stBADSTATE (dBlk (dimmId (2 * pair)))) s

/-- MIRROR_RESYNC_DONE (R406): the copy ends, mirroring resumes, the interleave names the even channel again. -/
def execMirrorResyncDone (pair : Nat) (s : State) : Out :=
  commit (match s.findOp 0x0302 pair, Tab.find s.mc.alone pair with
    | some _, some k => .all [
        setFs (MC_STAT (partner k)) [(MC_STAT_COPYING, 0), (MC_STAT_COPY_PCT, 100)],
        .each (s.mc.bad.filter fun p => p.2 == 2 && s.lineOn k p.1) fun p => .all [markBad p.1 0, .setPoison p.1 true],
        .each (List.range 4) fun i => .read fun s =>
          if (s.get (MC_ILV i) MC_ILV_CHANNELS).testBit (2 * pair + 1) then
            setF (MC_ILV i) MC_ILV_CHANNELS ((s.get (MC_ILV i) MC_ILV_CHANNELS ^^^ 2 ^ (2 * pair + 1)) ||| 2 ^ (2 * pair))
          else .skip,
        .mc fun m => { m with alone := Tab.drop m.alone pair },
        finish 0x0302 pair stOK 0xFFFF [] ]
    | _, _ => .skip) s

/-- MEM_SPARE_RANK (R407): BAD_STATE without a configured spare, NO_RESOURCE when it is in use. -/
def execMemSpareRank (c : CardCtx) (channel rank : Nat) (s : State) : Out :=
  commit (gated c 0x0303 false (chanOwner channel) fun s =>
    if 12 ≤ channel then answer0 c 0x0303 stBADPARAM (dOff 0x10)
    else if s.stopLost (0x10 + channel) then answer0 c 0x0303 stFAULT (dBlk (0x10 + channel))
    else if s.opOpen [0x0303] channel then answerBusyFree c 0x0303
    else if s.get (MC_CFG channel) MC_CFG_RANKS ≤ rank ∨ rank = s.get (MC_CFG channel) MC_CFG_SPARE then
      answer0 c 0x0303 stBADPARAM (dOff 0x11)
    else if s.get (MC_CFG channel) MC_CFG_SPARE = 0xF then answer0 c 0x0303 stBADSTATE (dBlk (dimmId channel))
    else if (Tab.find s.mc.spared channel).isSome ∨ s.get (MC_STAT channel) MC_STAT_FAILED_RANK ≠ 0xF then
      answer0 c 0x0303 stNORES (dBlk (dimmId channel))
    else accept c 0x0303 channel (.all [
      .mc fun m => { m with copying := Tab.put m.copying channel rank },
      setFs (MC_STAT channel) [(MC_STAT_COPYING, 1), (MC_STAT_COPY_PCT, 0)] ])) s

/-- SPARE_COPY_DONE (R407): the spare takes the rank's place, lines uncorrectable in the rank get the poison pattern, and
the sparing is recorded in flash. -/
def execSpareCopyDone (chan : Nat) (s : State) : Out :=
  commit (match Tab.find s.mc.copying chan with
    | none => .skip
    | some r => .all [
        setFs (MC_STAT chan) [(MC_STAT_COPYING, 0), (MC_STAT_COPY_PCT, 100), (MC_STAT_FAILED_RANK, r)],
        .each (s.mc.bad.filter fun p => p.2 == 2 && Config.lineRank p.1 == r && s.lineOn chan p.1) fun p =>
          .all [markBad p.1 0, .setPoison p.1 true],
        .mc fun m => { m with copying := Tab.drop m.copying chan, spared := Tab.put m.spared chan r },
        finish 0x0303 chan stOK 0xFFFF [] ]) s

/-- A row repair (R408); `resource` says whether the DIMM's mode registers report one left for the bank. -/
def ppr (c : CardCtx) (channel rank bg bank row : Nat) (resource hard : Bool) : Act :=
  gated c 0x0304 false (chanOwner channel) fun s =>
    if 12 ≤ channel then answer0 c 0x0304 stBADPARAM (dOff 0x10)
    else if s.stopLost (0x10 + channel) then answer0 c 0x0304 stFAULT (dBlk (0x10 + channel))
    else if s.get (MC_CFG channel) MC_CFG_RANKS ≤ rank then answer0 c 0x0304 stBADPARAM (dOff 0x11)
    else if s.opOpen [0x0304] channel then answerBusyFree c 0x0304
    else if hard ∧ !(s.bit (MC_CFG channel) MC_CFG_RETIRED && s.tstate (mcNode channel) == tsFenced) then
      answer0 c 0x0304 stBADSTATE (dBlk (dimmId channel))
    else if !resource then answer0 c 0x0304 stNORES (dBlk (dimmId channel))
    else accept c 0x0304 channel (.all [
      .mc fun m => { m with repairs := (channel, rank, bg, bank, row, hard) :: m.repairs },
      finish 0x0304 channel stOK 0xFFFF [] ])

/-- MEM_PPR_SOFT (R408). -/
def execMemPprSoft (c : CardCtx) (channel rank bg bank row : Nat) (resource : Bool) (s : State) : Out :=
  commit (ppr c channel rank bg bank row resource false) s
/-- MEM_PPR_HARD (R408): only while the channel is retired and Fenced. -/
def execMemPprHard (c : CardCtx) (channel rank bg bank row : Nat) (resource : Bool) (s : State) : Out :=
  commit (ppr c channel rank bg bank row resource true) s

/-- MEM_RETIRE (R410, Table 15.5). The final reply follows when the node is fenced. -/
def execMemRetire (c : CardCtx) (channel : Nat) (force : Bool) (s : State) : Out :=
  commit (gated c 0x0305 false (chanOwner channel) fun s =>
    if 12 ≤ channel then answer0 c 0x0305 stBADPARAM (dOff 0x10)
    else if s.stopLost (0x10 + channel) then answer0 c 0x0305 stFAULT (dBlk (0x10 + channel))
    else if s.opOpen [0x0305] channel then answerBusyFree c 0x0305
    else if s.bit (MC_CFG channel) MC_CFG_RETIRED then answerOk c 0x0305
    else if s.mirrored channel then accept c 0x0305 channel (retireMirrored channel)
    else if !force then answerRefused c 0x0305 (dimmId channel) 0xFFFF
    else accept c 0x0305 channel (.all [
      retireForced channel, rasLog { sev := 2, cls := cState, block := dimmId channel } ])) s

/-- Every location of a channel becomes zero with valid check symbols, and ZF_DONE is set (R409). Lines whose serving side
is another channel keep their data there. -/
def zeroFill (chan : Nat) : Act := .read fun s =>
  let mine := fun pa => s.lineOn chan (pa / 64)
  .all [
    .each (s.mem.filter fun p => mine p.1) fun p => .byte p.1 0,
    .each (s.poison.filter fun p => mine (p.1 * 64)) fun p => .setPoison p.1 false,
    .mc fun m => { m with bad := m.bad.filter fun p => !mine (p.1 * 64) },
    setF (MC_STAT chan) MC_STAT_ZF_DONE 1 ]

/-- ZERO_FILL_DONE (R409). -/
def execZeroFillDone (chan : Nat) (s : State) : Out := commit (zeroFill chan) s

end Sys2Proof.Machine
end

