-- ==== Sys2Proof/Machine/Ras.lean ====
section
/-! DEFINITION. Chapter 21: the record banks, fault injection and Dobby's actions on records. -/

namespace Sys2Proof.Machine

/-! ### Reading and clearing banks (R550, R552) -/

/-- The subsystem blocks that have a bank. -/
def blockIds : List Nat := (List.range 0x22).filter fun b => (blockDefs b).isSome
/-- The split blocks, which belong to both worlds. -/
def splitId (id : Nat) : Bool := id == 0x01 || id == 0x04 || id == 0x08
/-- World of the block of bank `id` (R550); node banks follow block 0x20. -/
def State.bankWorld (s : State) (id : Nat) : Bool := s.blockWorld (if 0x100 ≤ id then 0x20 else id)
/-- May world `w` clear record `r` of bank `id` (R550)? -/
def State.mayClear (s : State) (w : Bool) (id r : Nat) : Bool :=
  if splitId id then s.bit (RAS_MISC (bankOf id) r) RAS_MISC_WORLD == w else s.bankWorld id == w
/-- The banks that a BLOCK parameter names for world `w` (R552). -/
def State.banksNamed (s : State) (w : Bool) (block : Nat) : List Nat :=
  if block = 0xFFFF then
    (blockIds ++ (List.range 224).map (0x100 + ·)).filter fun id => splitId id || s.bankWorld id == w
  else [block]

/-- Clear a whole record; FATAL_N and the bank's source follow (R546, R549). -/
def recClear (id r : Nat) : Act := .all [
  .reg (RAS_STATUS (bankOf id) r) 0, .reg (RAS_ADDR (bankOf id) r) 0, .reg (RAS_MISC (bankOf id) r) 0,
  .reg (RAS_TIME (bankOf id) r) 0,
  .ras fun y => { y with fatal := y.fatal.filter (· != (bankOf id, r)) },
  bankEval id ]

/-- A record's 32 bytes under the world view of R550. -/
def State.recBytes (s : State) (w : Bool) (id r : Nat) : List Byte :=
  let b := bankOf id
  let misc := s.reg (RAS_MISC b r)
  let same := RAS_MISC_WORLD.get misc == (if w then 1 else 0)
  natLe 8 (s.reg (RAS_STATUS b r)).toNat ++
  natLe 8 (if same then (s.reg (RAS_ADDR b r)).toNat else 0) ++
  natLe 8 (if same then misc else RAS_MISC_TENANT.put (RAS_MISC_SYNDROME.put misc 0) 0).toNat ++
  natLe 8 (s.reg (RAS_TIME b r)).toNat

/-- RAS_READ_BANKS (R552). -/
def execRasReadBanks (c : CardCtx) (block first clear : Nat) (s : State) : Out :=
  commit (gated c 0x0901 false (fun s => s.bankOwner block) fun s =>
    if block ≠ 0xFFFF ∧ !isBankId block then answer0 c 0x0901 stBADPARAM (dOff 0x10)
    else if block ≠ 0xFFFF ∧ s.stopLost block then answer0 c 0x0901 stFAULT (dBlk block)
    else
      let all := (s.banksNamed c.world block).flatMap fun id =>
        ((List.range 8).filter fun r => s.recValid (bankOf id) r).map fun r => (id, r)
      let l := (all.drop first).take 120
      .all [
        answer c 0x0901 stOK 0xFFFF (natLe 16 l.length ++ l.flatMap fun p => s.recBytes c.world p.1 p.2),
        if clear = 1 then .each (l.filter fun p => s.mayClear c.world p.1 p.2) fun p => recClear p.1 p.2 else .skip ]) s

/-- RAS_RECORD_CLEAR (R550): a hart of world `world` writes 1 to VALID of a record. -/
def execRasRecordClear (world : Bool) (block slot : Nat) (s : State) : Out :=
  commit (if s.recValid (bankOf block) slot ∧ s.mayClear world block slot then recClear block slot else .skip) s

/-- The channel that an injection names: the controller's block or its DIMMs' ID. -/
def injectChannel (block : Nat) : Option Nat :=
  if 0x10 ≤ block ∧ block < 0x1C then some (block - 0x10)
  else if 0x200 ≤ block ∧ block < 0x20C then some (block - 0x200)
  else none

/-- RAS_INJECT (R413, R458): in DEPLOYED only with the secure world's invasive enable. KIND 0 corrupts check symbols of
the next write to the line of ADDR in DEVICES devices, 1 inverts the CA parity of the next command, 2 the write CRC of
the next write (log entry 7: the manual gives the codes no value). -/
def execRasInject (c : CardCtx) (block kind devices addr : Nat) (s : State) : Out :=
  commit (gated c 0x0902 false (fun _ => .is true) fun s =>
    if s.life = 2 ∧ !s.effective 3 then answer0 c 0x0902 stNOTPERM (dBlk 0x0003)
    else if (injectChannel block).isNone then answer0 c 0x0902 stBADPARAM (dOff 0x10)
    else if s.stopLost (0x10 + block % 16) then answer0 c 0x0902 stFAULT (dBlk (0x10 + block % 16))
    else if 3 ≤ kind then answer0 c 0x0902 stBADPARAM (dOff 0x12)
    else if kind = 0 ∧ (devices = 0 ∨ 3 ≤ devices) then answer0 c 0x0902 stBADPARAM (dOff 0x13)
    else .all [
      .ras fun r => { r with injected := r.injected ++ [{ block := block, kind := kind, devices := devices, addr := addr }] },
      answerOk c 0x0902 ]) s

/-- ERROR_SUMMARY_ACTION (R551, Table 21.6): the card pair takes the oldest record of the error summary lines and forces
the fence of the node, or retires the channel, that the record's rule names. -/
def execErrorSummaryAction (s : State) : Out :=
  commit (match s.ras.summary with
    | [] => .skip
    | x :: r => .all [
        .ras fun y => { y with summary := r },
        (match x.fenceNode with
         | some n => if s.tstate n ≤ tsDrain then startFence n true else .skip
         | none => .skip),
        (match x.retire with
         | some ch => retireAsForced ch
         | none => .skip) ]) s

end Sys2Proof.Machine
end

