-- ==== Sys2Proof/Machine/Probe.lean ====
section
/-! DEFINITION. Chapter 23: the JTAG port, the mesh probes, the die counters and the traces. -/

namespace Sys2Proof.Machine

/-! ### Probe cards (R591–R598) -/

/-- A little-endian field of an image. -/
def imgField (l : List Byte) (off n : Nat) : Nat := cardField l off n
/-- The first of some byte offsets of an image at which a test fails. -/
def firstBad (l : List (Nat × Bool)) : Option Nat := (l.find? fun p => !p.2).map (·.1)
/-- Bytes of an image that must be 0, each with its offset. -/
def zeros (l : List Byte) (off n : Nat) : List (Nat × Bool) :=
  (List.range n).map fun i => (off + i, cardZero l (off + i) 1)

/-- The reserved bits of a comparator image (Table 23.3): the offset of the first that is not 0. -/
def cmpBad (l : List Byte) : Option Nat := firstBad (
  [(0x00, decide (imgField l 0 1 < 64)), (0x06, decide (imgField l 6 1 < 64)), (0x07, decide (imgField l 7 1 < 16)),
   (0x08, decide (imgField l 8 2 < 16384)), (0x0A, decide (imgField l 0xA 2 < 16384))] ++ zeros l 0xE 2 ++
  [(0x10, decide (imgField l 0x10 8 < 2 ^ 42)), (0x18, decide (imgField l 0x18 8 < 2 ^ 42))])

/-- A comparator image from its bytes (Table 23.3). -/
def cmpImage (l : List Byte) : CmpImage where
  ports := imgField l 0 1
  classes := imgField l 1 1
  dest := imgField l 2 1
  destMask := imgField l 3 1
  src := imgField l 4 1
  srcMask := imgField l 5 1
  flags := imgField l 6 1
  action := imgField l 7 1
  tenant := imgField l 8 2
  tenantMask := imgField l 0xA 2
  opcode := imgField l 0xC 1
  opcodeMask := imgField l 0xD 1
  addrLo := imgField l 0x10 8
  addrHi := imgField l 0x18 8

/-- The owner of the probe cards: block 0x21. -/
def probeOwner (s : State) : Owner := .is (s.blockWorld 0x21)

/-- PROBE_ARM_COMPARATOR (R591): UNIT 0 or 1. -/
def execProbeArmComparator (c : CardCtx) (node unit : Nat) (image : List Byte) (s : State) : Out :=
  commit (gated c 0x0A01 false probeOwner fun s =>
    if 224 ≤ node then answer0 c 0x0A01 stBADPARAM (dOff 0x10)
    else if s.stopLost (0x100 + node) then answer0 c 0x0A01 stFAULT (dBlk (0x100 + node))
    else if 2 ≤ unit then answer0 c 0x0A01 stBADPARAM (dOff 0x12)
    else match cmpBad image with
    | some o => answer0 c 0x0A01 stBADPARAM (dOff (0x18 + o))
    | none => .all [
        .dbg fun x => { x with cmp := Tab.put x.cmp (node * 2 + unit) (cmpImage image) },
        answerOk c 0x0A01 ]) s

/-- The fields of a counter image out of range (Table 23.4). -/
def cntBad (l : List Byte) : Option Nat := firstBad (
  [(0, decide (imgField l 0 1 < 7)), (1, decide (imgField l 1 1 < 3)), (2, decide (imgField l 2 1 < 2))] ++
  zeros l 3 5 ++ [(8, decide (imgField l 8 8 < 2 ^ 56))] ++ zeros l 0x10 16)

/-- PROBE_ARM_COUNTER (R593): UNIT 0x40–0x7F at any node of the die. -/
def execProbeArmCounter (c : CardCtx) (node unit : Nat) (image : List Byte) (s : State) : Out :=
  commit (gated c 0x0A01 false probeOwner fun s =>
    if 224 ≤ node then answer0 c 0x0A01 stBADPARAM (dOff 0x10)
    else if s.stopLost (0x100 + node) then answer0 c 0x0A01 stFAULT (dBlk (0x100 + node))
    else if unit < 0x40 ∨ 0x80 ≤ unit then answer0 c 0x0A01 stBADPARAM (dOff 0x12)
    else match cntBad image with
    | some o => answer0 c 0x0A01 stBADPARAM (dOff (0x18 + o))
    | none =>
      let k := dieOf node * 64 + (unit - 0x40)
      .all [
        .dbg fun x => { x with cnt := Tab.put x.cnt k ⟨imgField image 0 1, imgField image 1 1, imgField image 8 8⟩ },
        .when (imgField image 2 1 == 1) (.reg (dieCounter k) 0),
        answerOk c 0x0A01 ]) s

/-- The fields of a trace image out of range (R596). -/
def traceBad (l : List Byte) : Option Nat := firstBad (
  [(0, decide (imgField l 0 1 < 3)), (1, decide (imgField l 1 1 < 2))] ++ zeros l 2 2 ++
  [(4, decide (imgField l 4 4 ≤ 65536))] ++ zeros l 8 24)

/-- PROBE_ARM_TRACE (R596): MODE 0 stops the trace at once; another MODE clears the write pointer, WRAPPED and TRIGGERED
and starts it at the arm or at the first START match. -/
def execProbeArmTrace (c : CardCtx) (node : Nat) (image : List Byte) (s : State) : Out :=
  commit (gated c 0x0A01 false probeOwner fun s =>
    let d := dieOf node
    let mode := imgField image 0 1
    if 224 ≤ node then answer0 c 0x0A01 stBADPARAM (dOff 0x10)
    else if s.stopLost (0x100 + node) then answer0 c 0x0A01 stFAULT (dBlk (0x100 + node))
    else match traceBad image with
    | some o => answer0 c 0x0A01 stBADPARAM (dOff (0x18 + o))
    | none =>
      if mode = 0 then .all [
        setFs (DBG_TRC_STAT d) [(DBG_TRC_STAT_MODE, 0), (DBG_TRC_STAT_RUNNING, 0)],
        modTrace d fun t => { t with waitStart := false, left := none }, answerOk c 0x0A01 ]
      else if s.tracing d then answer0 c 0x0A01 stBADSTATE (dBlk 0x0021)
      else .all [
        .reg (DBG_TRC_STAT d) (DBG_TRC_STAT_MODE.put 0 mode),
        .dbg fun x => { x with sram := x.sram.filter fun p => p.1 / 65536 != d },
        modTrace d fun _ => { waitStart := imgField image 1 1 == 1, post := imgField image 4 4 },
        if imgField image 1 1 = 0 then traceStart d else .skip,
        answerOk c 0x0A01 ]) s

/-- PROBE_READ (R598). -/
def execProbeRead (c : CardCtx) (node unit count : Nat) (s : State) : Out :=
  commit (gated c 0x0A02 false probeOwner fun s =>
    let d := dieOf node
    let vals := fun (l : List Nat) => l.flatMap fun a => natLe 8 (s.reg a).toNat
    if 224 ≤ node then answer0 c 0x0A02 stBADPARAM (dOff 0x10)
    else if s.stopLost (0x100 + node) then answer0 c 0x0A02 stFAULT (dBlk (0x100 + node))
    else if !(unit < 2 ∨ unit = 0x10 ∨ (0x40 ≤ unit ∧ unit < 0x80)) then answer0 c 0x0A02 stBADPARAM (dOff 0x12)
    else if count = 0 ∨ 120 < count then answer0 c 0x0A02 stBADPARAM (dOff 0x13)
    else answer c 0x0A02 stOK 0xFFFF (
      if unit < 2 then vals [DBG_CMP node unit]
      else if unit = 0x10 then vals [DBG_TRC_STAT d]
      else vals ((List.range (min count (0x80 - unit))).map fun i => DBG_CNT d (unit - 0x40 + i)))) s

/-- TRACE_SYNC (R595): 2^22 mesh cycles after the last one, a running trace takes a sync record. -/
def execTraceSync (die : Nat) (s : State) : Out :=
  commit (if s.tracing die then atMesh ((s.traceOf die).lastSync + 2 ^ 22) (.read fun s => .all [
      tracePut die (syncRecord s.clk.meshCycle s.clk.time),
      modTrace die fun t => { t with lastSync := s.clk.meshCycle } ])
    else .skip) s

/-- TRACE_POST_END (R596): POST records after a STOP match have been written, and the trace stops. -/
def execTracePostEnd (die : Nat) (s : State) : Out :=
  commit (if (s.traceOf die).left = some 0 then
    .all [traceStop die, modTrace die fun t => { t with left := none }] else .skip) s

/-- An 8-byte half of a trace record as harts of world `w` read it (R597): 0 while the trace runs, and 0 to the normal
world for a record of a secure flit. -/
def State.traceWord (s : State) (w : Bool) (off : Nat) : W64 :=
  let d := off / 0x100000
  let r := Tab.getD s.dbg.sram (d * 65536 + off % 0x100000 / 16) 0
  let secret := r.toNat % 4 == 0 && r.getLsbD 49
  if s.tracing d || (!w && secret) then 0
  else BitVec.ofNat 64 (r.toNat / 2 ^ (off / 8 % 2 * 64))

/-! ### JTAG (R585–R587) -/

/-- The TAP works while the IOD is powered: Woven, Slack and Doffed. -/
def State.tapOn (s : State) : Bool := s.get PWR_STATE PWR_STATE_STATE != 3
/-- Load an instruction into the TAP; a bypass register reads 0. -/
def tapLoad (code shift : Nat) : Act := .read fun s =>
  if s.tapOn then .dbg fun x => { x with ir := code, tapShift := shift } else .skip
/-- May EXTEST, CLAMP and HIGHZ load (R586)? -/
def State.scanOk (s : State) : Bool :=
  s.jtagLife && (List.range 16).all fun c => s.get (CREEL_CH_STAT c) CREEL_CH_STAT_STATE == 0
/-- Load EXTEST, CLAMP or HIGHZ: the PCIe, Ethernet and DDR-5 controllers stop; BYPASS where it may not load. -/
def tapScan (code : Nat) : Act := .read fun s =>
  if s.scanOk ∧ s.tapOn then .all [tapLoad code 0, .dbg fun x => { x with stopped := true }] else tapLoad 0xFF 0

/-- The 32-bit IDCODE (R587). -/
def State.idcode (s : State) : Nat :=
  s.get DBY_CHIP_ID DBY_CHIP_ID_STEP % 16 * 2 ^ 28 + 0x0192 * 2 ^ 12 + 0x2B5 * 2 + 1

/-- JTAG_TAP_RESET (R585): Test-Logic-Reset with IDCODE selected. -/
def execJtagTapReset (s : State) : Out := commit (tapLoad 0x02 s.idcode) s
/-- JTAG_EXTEST (R586): the boundary cells drive the outputs. -/
def execJtagExtest (s : State) : Out := commit (tapScan 0x00) s
/-- JTAG_SAMPLE_PRELOAD (R585): the 3,904 cells take the pins, or what is shifted in. -/
def execJtagSamplePreload (cells : Nat) (s : State) : Out :=
  commit (if s.tapOn then .all [tapLoad 0x01 0, .dbg fun x => { x with boundary := cells % 2 ^ 3904 }] else .skip) s
/-- JTAG_IDCODE (R587). -/
def execJtagIdcode (s : State) : Out := commit (tapLoad 0x02 s.idcode) s
/-- JTAG_CLAMP (R586). -/
def execJtagClamp (s : State) : Out := commit (tapScan 0x03) s
/-- JTAG_HIGHZ (R586). -/
def execJtagHighz (s : State) : Out := commit (tapScan 0x04) s
/-- JTAG_DTMCS: the debug transport control register of debug 1.0 with 7 address bits. -/
def execJtagDtmcs (s : State) : Out := commit (tapLoad 0x11 0x71) s
/-- JTAG_MAILBOX: BYPASS outside BLANK, PROVISIONED and RETURNED. -/
def execJtagMailbox (s : State) : Out := commit (if s.jtagLife then tapLoad 0x20 0 else tapLoad 0xFF 0) s
/-- JTAG_BYPASS: this and every unlisted code. -/
def execJtagBypass (s : State) : Out := commit (tapLoad 0xFF 0) s

end Sys2Proof.Machine
end

