-- ==== Sys2Proof/Machine/Crypto.lean ====
section
/-! DEFINITION. The standards that chapters 11, 13, 18 and 22 name for their computations: AES (FIPS 197) with XTS and GCM,
SHA-2 (FIPS 180-4), CRC-64 (ECMA-182) and DEFLATE decoding (RFC 1951). Bytes are numbers below 256, in order. -/

namespace Sys2Proof.Machine

/-! ### AES -/

/-- Multiplication by x in GF(2^8) modulo 0x11B. -/
def aesX (a : Nat) : Nat := if a < 128 then 2 * a else (2 * a) ^^^ 0x11B
/-- Multiplication in GF(2^8) modulo 0x11B. -/
def aesMul (a b : Nat) : Nat :=
  ((List.range 8).foldl (fun p i => (if b.testBit i then p.1 ^^^ p.2 else p.1, aesX p.2)) (0, a)).1
/-- The multiplicative inverse, as the 254th power; 0 for 0. -/
def aesInv (a : Nat) : Nat :=
  ((List.range 7).foldl (fun (p : Nat × Nat) _ => let q := aesMul p.2 p.2; (aesMul p.1 q, q)) (1, a)).1
/-- A byte turned left. -/
def rol8 (a k : Nat) : Nat := a * 2 ^ k % 256 + a / 2 ^ (8 - k)
/-- The S-box. -/
def aesSub (a : Nat) : Nat :=
  let i := aesInv a
  i ^^^ rol8 i 1 ^^^ rol8 i 2 ^^^ rol8 i 3 ^^^ rol8 i 4 ^^^ 0x63
/-- The inverse S-box. -/
def aesSubInv (a : Nat) : Nat := aesInv (rol8 a 1 ^^^ rol8 a 3 ^^^ rol8 a 6 ^^^ 0x05)
/-- Byte `i` of a list, 0 beyond its end. -/
def byteAt (l : List Nat) (i : Nat) : Nat := (l[i]?).getD 0
/-- Bytes combined by exclusive or. -/
def xorBytes (a b : List Nat) : List Nat := a.zipWith (· ^^^ ·) b

/-- The columns of a 16-byte state turned by a matrix whose first row is `m`. -/
def aesMix (m s : List Nat) : List Nat :=
  (List.range 16).map fun i => (List.range 4).foldl
    (fun x j => x ^^^ aesMul (byteAt m ((j + 4 - i % 4) % 4)) (byteAt s (i / 4 * 4 + j))) 0
/-- The rows of a state shifted left by their numbers, or right. -/
def aesRows (right : Bool) (s : List Nat) : List Nat :=
  (List.range 16).map fun i => byteAt s (i % 4 + (i / 4 + (if right then 4 - i % 4 else i % 4)) % 4 * 4)
/-- The matrices of MixColumns and of its inverse. -/
def aesFwd : List Nat := [2, 3, 1, 1]
def aesBack : List Nat := [14, 11, 13, 9]

/-- Words of four bytes of the AES-256 key schedule, the last first. -/
def aesExpand (key : List Nat) : Nat → List (List Nat)
  | 0 => ((List.range 8).map fun i => (key.drop (4 * i)).take 4).reverse
  | n + 1 =>
    let w := aesExpand key n
    let i := n + 8
    let t := (w[0]?).getD []
    let rc := (List.range (i / 8 - 1)).foldl (fun x _ => aesX x) 1
    let u := if i % 8 = 0 then xorBytes ((t.drop 1 ++ t.take 1).map aesSub) [rc, 0, 0, 0]
      else if i % 8 = 4 then t.map aesSub else t
    xorBytes u ((w[7]?).getD []) :: w
/-- The 15 round keys of AES-256. -/
def aesKeys (key : List Nat) : List (List Nat) :=
  let w := (aesExpand key 52).reverse.flatten
  (List.range 15).map fun r => (w.drop (16 * r)).take 16
/-- AES-256 encryption of one block with its round keys. -/
def aesEnc (k : List (List Nat)) (b : List Nat) : List Nat :=
  let rk := fun i => (k[i]?).getD []
  let s := (List.range 13).foldl (fun s r => xorBytes (aesMix aesFwd (aesRows false (s.map aesSub))) (rk (r + 1)))
    (xorBytes b (rk 0))
  xorBytes (aesRows false (s.map aesSub)) (rk 14)
/-- AES-256 decryption of one block. -/
def aesDec (k : List (List Nat)) (b : List Nat) : List Nat :=
  let rk := fun i => (k[i]?).getD []
  let s := (List.range 13).foldl (fun s r => aesMix aesBack (xorBytes ((aesRows true s).map aesSubInv) (rk (13 - r))))
    (xorBytes b (rk 14))
  xorBytes ((aesRows true s).map aesSubInv) (rk 0)

/-- Little-endian and big-endian numbers from bytes. -/
def leOf (l : List Nat) : Nat := l.foldr (fun b n => b + 256 * n) 0
def beOf (l : List Nat) : Nat := l.foldl (fun n b => 256 * n + b) 0
/-- The `n` bytes of a number, least significant first. -/
def leBytes (n v : Nat) : List Nat := (List.range n).map fun i => v / 256 ^ i % 256
/-- The `n` bytes of a number, most significant first. -/
def beBytes (n v : Nat) : List Nat := (leBytes n v).reverse
/-- A list in pieces of `n`, `fuel` of them at most. -/
def pieces {α : Type} (n : Nat) : Nat → List α → List (List α)
  | 0, _ => []
  | fuel + 1, l => if l.isEmpty then [] else l.take n :: pieces n fuel (l.drop n)
/-- All pieces of `n`. -/
def blocksOf {α : Type} (n : Nat) (l : List α) : List (List α) := pieces n l.length l

/-- The scalar AES instructions (RISC-V Scalar Cryptography, which R349 names). -/
def aesScalar (op : AesOp) (a b : W64) : W64 :=
  let st := leBytes 8 a.toNat ++ leBytes 8 b.toNat
  let out := fun (l : List Nat) => BitVec.ofNat 64 (leOf (l.take 8))
  match op with
  | .es => out ((aesRows false st).map aesSub)
  | .esm => out (aesMix aesFwd ((aesRows false st).map aesSub))
  | .ds => out ((aesRows true st).map aesSubInv)
  | .dsm => out (aesMix aesBack ((aesRows true st).map aesSubInv))
  | .im => out (aesMix aesBack st)
  | .ks1i r =>
    let t := leBytes 4 (a.toNat / 2 ^ 32)
    let u := (if r = 10 then t else t.drop 1 ++ t.take 1).map aesSub
    let v := leOf (xorBytes u [if r = 10 then 0 else (List.range r).foldl (fun x _ => aesX x) 1, 0, 0, 0])
    BitVec.ofNat 64 (v + v * 2 ^ 32)
  | .ks2 =>
    let w0 := a.toNat / 2 ^ 32 ^^^ b.toNat % 2 ^ 32
    BitVec.ofNat 64 (w0 + (w0 ^^^ b.toNat / 2 ^ 32) * 2 ^ 32)

/-- Multiplication by α of an XTS tweak. -/
def xtsNext (t : Nat) : Nat := (2 * t % 2 ^ 128) ^^^ (if t.testBit 127 then 0x87 else 0)
/-- One data unit in XTS-AES-256: `key` is both keys, the data key first (R310). -/
def xtsUnit (dec : Bool) (key : List Nat) (unit : Nat) (d : List Nat) : List Nat :=
  let k1 := aesKeys (key.take 32)
  let k2 := aesKeys (key.drop 32)
  ((blocksOf 16 d).foldl (fun (p : List Nat × Nat) b =>
      let t := leBytes 16 p.2
      let c := xorBytes (if dec then aesDec k1 (xorBytes b t) else aesEnc k1 (xorBytes b t)) t
      (p.1 ++ c, xtsNext p.2)) ([], leOf (aesEnc k2 (leBytes 16 unit)))).1
/-- XTS over data units of `du` bytes from number `dun` on. -/
def xts (dec : Bool) (key : List Nat) (dun du : Nat) (d : List Nat) : List Nat :=
  ((blocksOf du d).foldl (fun (p : List Nat × Nat) u => (p.1 ++ xtsUnit dec key p.2 u, p.2 + 1)) ([], dun)).1

/-- Multiplication in the field of GCM, blocks as big-endian numbers. -/
def ghashMul (x y : Nat) : Nat :=
  ((List.range 128).foldl (fun (p : Nat × Nat) i =>
    (if x.testBit (127 - i) then p.1 ^^^ p.2 else p.1,
     p.2 / 2 ^^^ (if p.2.testBit 0 then 0xE1 * 2 ^ 120 else 0))) (0, y)).1
/-- Bytes padded with zeros to whole blocks. -/
def pad16 (l : List Nat) : List Nat := l ++ List.replicate ((16 - l.length % 16) % 16) 0
/-- GHASH of AAD and ciphertext under the hash key. -/
def ghash (h : Nat) (aad c : List Nat) : Nat :=
  (blocksOf 16 (pad16 aad ++ pad16 c ++ beBytes 8 (8 * aad.length) ++ beBytes 8 (8 * c.length))).foldl
    (fun y b => ghashMul (y ^^^ beOf b) h) 0
/-- The counter mode of GCM from counter 2 on, and the tag of a ciphertext. -/
def gcmCtr (k : List (List Nat)) (iv d : List Nat) : List Nat :=
  ((blocksOf 16 d).foldl (fun (p : List Nat × Nat) b =>
    (p.1 ++ xorBytes b (aesEnc k (iv ++ beBytes 4 p.2)), (p.2 + 1) % 2 ^ 32)) ([], 2)).1
def gcmTag (k : List (List Nat)) (iv aad c : List Nat) : List Nat :=
  xorBytes (beBytes 16 (ghash (beOf (aesEnc k (List.replicate 16 0))) aad c)) (aesEnc k (iv ++ [0, 0, 0, 1]))

/-! ### SHA-2 -/

/-- The greatest `r` below 2^`n` whose `e`-th power is at most `v`. -/
def rootOf (e v n : Nat) : Nat := (List.range n).foldl (fun r i => if (r + 2 ^ (n - 1 - i)) ^ e ≤ v then r + 2 ^ (n - 1 - i) else r) 0
/-- The first 80 primes. -/
def primes80 : List Nat := (List.range 410).filter fun n => decide (2 ≤ n) && (List.range 21).all fun d => decide (d < 2 ∨ n ≤ d) || n % d != 0
/-- The first `w` fraction bits of the `e`-th root of a number. -/
def rootFrac (e w p : Nat) : Nat := rootOf e (p * 2 ^ (e * w)) (w + 8) % 2 ^ w
/-- A word of `w` bits turned right. -/
def rorW (w a k : Nat) : Nat := a / 2 ^ k + a * 2 ^ (w - k) % 2 ^ w
/-- The widths and rotations of SHA-256 (`w` = 32) and SHA-512. -/
def sigA (w : Nat) (x : Nat) : Nat :=
  if w = 32 then rorW w x 2 ^^^ rorW w x 13 ^^^ rorW w x 22 else rorW w x 28 ^^^ rorW w x 34 ^^^ rorW w x 39
def sigE (w : Nat) (x : Nat) : Nat :=
  if w = 32 then rorW w x 6 ^^^ rorW w x 11 ^^^ rorW w x 25 else rorW w x 14 ^^^ rorW w x 18 ^^^ rorW w x 41
def sig0 (w : Nat) (x : Nat) : Nat :=
  if w = 32 then rorW w x 7 ^^^ rorW w x 18 ^^^ x / 2 ^ 3 else rorW w x 1 ^^^ rorW w x 8 ^^^ x / 2 ^ 7
def sig1 (w : Nat) (x : Nat) : Nat :=
  if w = 32 then rorW w x 17 ^^^ rorW w x 19 ^^^ x / 2 ^ 10 else rorW w x 19 ^^^ rorW w x 61 ^^^ x / 2 ^ 6
/-- The message schedule of a block, the last word first. -/
def shaSched (w : Nat) (blk : List Nat) : Nat → List Nat
  | 0 => ((blocksOf (w / 8) blk).map beOf).reverse
  | n + 1 =>
    let l := shaSched w blk n
    let at' := fun i => byteAt l i
    ((sig1 w (at' 1) + at' 6 + sig0 w (at' 14) + at' 15) % 2 ^ w) :: l
/-- One round. -/
def shaRound (w : Nat) (s : List Nat) (kw : Nat) : List Nat :=
  let v := fun i => byteAt s i
  let m := 2 ^ w
  let ch := (v 4 &&& v 5) ^^^ ((m - 1 - v 4) &&& v 6)
  let maj := (v 0 &&& v 1) ^^^ (v 0 &&& v 2) ^^^ (v 1 &&& v 2)
  let t1 := v 7 + sigE w (v 4) + ch + kw
  [(t1 + sigA w (v 0) + maj) % m, v 0, v 1, v 2, (v 3 + t1) % m, v 4, v 5, v 6]
/-- The compression of one block. -/
def shaBlock (w : Nat) (k : List Nat) (h blk : List Nat) : List Nat :=
  let ws := (shaSched w blk (k.length - 16)).reverse
  let s := ((k.zip ws).foldl (fun s p => shaRound w s (p.1 + p.2)) h)
  (h.zip s).map fun p => (p.1 + p.2) % 2 ^ w
/-- The hash of a message of bytes, from an initial value. -/
def sha2 (w : Nat) (iv msg : List Nat) : List Nat :=
  let bs := w * 2
  let k := (primes80.take (if w = 32 then 64 else 80)).map (rootFrac 3 w)
  let n := msg.length
  let zeros := (2 * bs - (n + 1 + w / 4) % bs) % bs
  let m := msg ++ 0x80 :: List.replicate zeros 0 ++ beBytes (w / 4) (8 * n)
  ((blocksOf bs m).foldl (shaBlock w k) iv).flatMap (beBytes (w / 8))
def sha256 (msg : List Nat) : List Nat := sha2 32 ((primes80.take 8).map (rootFrac 2 32)) msg
def sha512 (msg : List Nat) : List Nat := sha2 64 ((primes80.take 8).map (rootFrac 2 64)) msg
def sha384 (msg : List Nat) : List Nat := (sha2 64 (((primes80.drop 8).take 8).map (rootFrac 2 64)) msg).take 48

/-! ### CRC-64 (R310) -/

/-- CRC-64 over bytes from an initial value: polynomial 0x42F0E1EBA9EA3693, bits not reflected, no final exclusive or. -/
def crc64 (init : Nat) (l : List Nat) : Nat :=
  l.foldl (fun c b => (List.range 8).foldl (fun c _ =>
    (2 * c % 2 ^ 64) ^^^ (if c.testBit 63 then 0x42F0E1EBA9EA3693 else 0)) (c ^^^ b * 2 ^ 56)) init

/-! ### DEFLATE decoding -/

/-- Bits `n` from position `p` of a stream given as a little-endian number. -/
def bitsAt (d p n : Nat) : Nat := d / 2 ^ p % 2 ^ n
/-- Decode one canonical Huffman symbol at position `p`: code lengths by symbol, code, first code and length so far. -/
def huffSym (lens : List Nat) (d : Nat) : Nat → Nat → Nat → Nat → Nat → Option (Nat × Nat)
  | 0, _, _, _, _ => none
  | fuel + 1, p, len, code, first =>
    let c := 2 * code + bitsAt d p 1
    let syms := (List.range lens.length).filter fun i => byteAt lens i == len
    if c < first + syms.length then some ((syms[c - first]?).getD 0, p + 1)
    else huffSym lens d fuel (p + 1) (len + 1) c (2 * (first + syms.length))
/-- A code whose lengths claim more than the whole code space. -/
def overFull (lens : List Nat) : Bool :=
  decide (2 ^ 15 < (lens.map fun l => if l = 0 then 0 else 2 ^ (15 - l)).sum)
/-- Bases and extra bits of the length and distance codes (RFC 1951, section 3.2.5). -/
def lenCode (s : Nat) : Nat × Nat :=
  let i := s - 257
  if i < 8 then (i + 3, 0) else if i = 28 then (258, 0)
  else (((4 + i % 4) * 2 ^ (i / 4 - 1)) + 3, i / 4 - 1)
def distCode (s : Nat) : Nat × Nat :=
  if s < 4 then (s + 1, 0) else ((2 + s % 2) * 2 ^ (s / 2 - 1) + 1, s / 2 - 1)
/-- Copy `n` bytes from `dist` back; the output is held the last byte first. -/
def lzCopy (dist : Nat) : Nat → List Nat → List Nat
  | 0, out => out
  | n + 1, out => lzCopy dist n (byteAt out (dist - 1) :: out)
/-- How a decoder ends: OUT_FULL, a malformed stream, or the position and the output, the last byte first. -/
inductive Inflated where
  | full
  | bad
  | ok (pos : Nat) (out : List Nat)
  deriving DecidableEq, Repr
/-- The symbols of one block. -/
def inflateSyms (ll dl : List Nat) (d total limit : Nat) : Nat → Nat → List Nat → Nat → Inflated
  | 0, _, _, _ => .bad
  | fuel + 1, p, out, n =>
    match huffSym ll d 15 p 1 0 0 with
    | none => .bad
    | some (s, p) =>
      if total < p then .bad
      else if s < 256 then (if limit ≤ n then .full else inflateSyms ll dl d total limit fuel p (s :: out) (n + 1))
      else if s = 256 then .ok p out
      else if 286 ≤ s then .bad
      else
        let lc := lenCode s
        let len := lc.1 + bitsAt d p lc.2
        match huffSym dl d 15 (p + lc.2) 1 0 0 with
        | none => .bad
        | some (t, p) =>
          let dc := distCode t
          let dist := dc.1 + bitsAt d p dc.2
          if total < p + dc.2 ∨ 30 ≤ t ∨ n < dist then .bad
          else if limit < n + len then .full
          else inflateSyms ll dl d total limit fuel (p + dc.2) (lzCopy dist len out) (n + len)
/-- The code lengths of a dynamic block: `n` of them in all. -/
def inflateLens (cl : List Nat) (d n : Nat) : Nat → Nat → List Nat → Option (List Nat × Nat)
  | 0, _, _ => none
  | fuel + 1, p, l =>
    if n < l.length then none
    else if l.length = n then some (l, p)
    else match huffSym cl d 7 p 1 0 0 with
    | none => none
    | some (s, p) =>
      if s < 16 then inflateLens cl d n fuel p (l ++ [s])
      else if s = 16 then
        (match l.getLast? with
         | none => none
         | some x => inflateLens cl d n fuel (p + 2) (l ++ List.replicate (3 + bitsAt d p 2) x))
      else if s = 17 then inflateLens cl d n fuel (p + 3) (l ++ List.replicate (3 + bitsAt d p 3) 0)
      else inflateLens cl d n fuel (p + 7) (l ++ List.replicate (11 + bitsAt d p 7) 0)
/-- The order of code-length codes. -/
def clOrder : List Nat := [16, 17, 18, 0, 8, 7, 9, 6, 10, 5, 11, 4, 12, 3, 13, 2, 14, 1, 15]
/-- The blocks of a raw DEFLATE stream of `total` bits. -/
def inflateBlocks (d total limit : Nat) : Nat → Nat → List Nat → Nat → Inflated
  | 0, _, _, _ => .bad
  | fuel + 1, p, out, n =>
    let last := bitsAt d p 1 == 1
    let go := fun (r : Inflated) => match r with
      | .ok p o => if total < p then .bad else if last then .ok p o else inflateBlocks d total limit fuel p o o.length
      | x => x
    if total < p + 3 then .bad
    else match bitsAt d (p + 1) 2 with
    | 0 =>
      let q := (p + 10) / 8 * 8
      let len := bitsAt d q 16
      if total < q + 32 + 8 * len ∨ len + bitsAt d (q + 16) 16 ≠ 65535 then .bad
      else if limit < n + len then .full
      else go (.ok (q + 32 + 8 * len) (((List.range len).map fun i => bitsAt d (q + 32 + 8 * i) 8).reverse ++ out))
    | 1 => go (inflateSyms
        (List.replicate 144 8 ++ List.replicate 112 9 ++ List.replicate 24 7 ++ List.replicate 8 8)
        (List.replicate 30 5) d total limit total (p + 3) out n)
    | 2 =>
      let hl := bitsAt d (p + 3) 5 + 257
      let hd := bitsAt d (p + 8) 5 + 1
      let hc := bitsAt d (p + 13) 4 + 4
      let cl := (List.range 19).map fun s =>
        match (List.range hc).find? fun i => byteAt clOrder i == s with
        | some i => bitsAt d (p + 17 + 3 * i) 3
        | none => 0
      (match inflateLens cl d (hl + hd) total (p + 17 + 3 * hc) [] with
       | none => .bad
       | some (l, p) =>
         let ll := l.take hl
         let dl := l.drop hl
         if 286 < hl ∨ 30 < hd ∨ overFull cl ∨ overFull ll ∨ overFull dl ∨ byteAt ll 256 = 0 then .bad
         else go (inflateSyms ll dl d total limit total p out n))
    | _ => .bad
/-- Decode a raw DEFLATE stream with room for `limit` bytes. -/
def inflate (src : List Nat) (limit : Nat) : Inflated :=
  inflateBlocks (leOf src) (8 * src.length) limit (8 * src.length + 1) 0 [] 0

/-! ### ECDSA over P-384 (R483, R573) -/

/-- The prime of P-384, the order of its base point, and the coefficient b. -/
def p384P : Nat := 2 ^ 384 - 2 ^ 128 - 2 ^ 96 + 2 ^ 32 - 1
def p384N : Nat := 0xffffffffffffffffffffffffffffffffffffffffffffffffc7634d81f4372ddf581a0db248b0a77aecec196accc52973
def p384B : Nat := 0xb3312fa7e23ee7e4988e056be3f82d19181d9c6efe8141120314088f5013875ac656398d8a2ed19d2a85c8edd3ec2aef
/-- The base point. -/
def p384G : Nat × Nat :=
  (0xaa87ca22be8b05378eb1c71ef320ad746e1d3b628ba79b9859f741e082542a385502f25dbf55296c3a545e3872760ab7,
   0x3617de4a96262c6f5d9e98bf9292dc29f8f41dbd289a147ce9da3113b5f0b8c00a60b1ce1d7e819d7a431d7c90ea0e5f)
/-- The power `b` ^ `e` modulo `m`, of an exponent below 2 ^ 384. -/
def powMod (m b e : Nat) : Nat :=
  ((List.range 384).foldl (fun (x : Nat × Nat) i => (if e.testBit i then x.1 * x.2 % m else x.1, x.2 * x.2 % m)) (1, b % m)).1
/-- A point in Jacobian coordinates: (X, Y, Z) stands for (X / Z², Y / Z³), and Z = 0 for the neutral element. -/
structure P384 where
  x : Nat
  y : Nat
  z : Nat
  deriving DecidableEq, Repr
/-- The difference modulo the prime. -/
def p384Sub (a b : Nat) : Nat := (a + (p384P - b % p384P)) % p384P
/-- A point doubled. -/
def p384Dbl (q : P384) : P384 :=
  let d := q.z * q.z % p384P
  let g := q.y * q.y % p384P
  let b := q.x * g % p384P
  let m := 3 * p384Sub q.x d * (q.x + d) % p384P
  let x := p384Sub (m * m) (8 * b)
  ⟨x, p384Sub (m * p384Sub (4 * b) x) (8 * g * g), 2 * q.y * q.z % p384P⟩
/-- The sum of two points. -/
def p384Add (q r : P384) : P384 :=
  if q.z = 0 then r
  else if r.z = 0 then q
  else
    let zq := q.z * q.z % p384P
    let zr := r.z * r.z % p384P
    let u := q.x * zr % p384P
    let s := q.y * zr * r.z % p384P
    let h := p384Sub (r.x * zq) u
    let w := p384Sub (r.y * zq * q.z) s
    if h = 0 then (if w = 0 then p384Dbl q else ⟨1, 1, 0⟩)
    else
      let hh := h * h % p384P
      let v := u * hh % p384P
      let x := p384Sub (w * w) (hh * h + 2 * v)
      ⟨x, p384Sub (w * p384Sub v x) (s * hh * h), h * q.z * r.z % p384P⟩
/-- A multiple of a point by a number below 2 ^ 384. -/
def p384Mul (k : Nat) (q : P384) : P384 :=
  (List.range 384).foldl (fun x i => let d := p384Dbl x; if k.testBit (383 - i) then p384Add d q else d) ⟨1, 1, 0⟩
/-- Does the signature (r then s) of a SHA-384 digest verify under a public key (x then y)? All are big-endian. -/
def ecdsaOk (pub digest sig : List Nat) : Bool :=
  let n := p384N
  let p := p384P
  let x := beOf (pub.take 48)
  let y := beOf (pub.drop 48)
  let r := beOf (sig.take 48)
  let s := beOf (sig.drop 48)
  let w := powMod n s (n - 2)
  decide (0 < r) && decide (r < n) && decide (0 < s) && decide (s < n) && decide (x < p) && decide (y < p) &&
    (y * y % p == (x * x * x + (p - 3) * x + p384B) % p) &&
    (let q := p384Add (p384Mul (beOf digest * w % n) ⟨p384G.1, p384G.2, 1⟩) (p384Mul (r * w % n) ⟨x, y, 1⟩)
     q.z != 0 && q.x * powMod p (q.z * q.z) (p - 2) % p % n == r)

end Sys2Proof.Machine
end

