-- ==== Sys2Proof/Machine/Fp.lean ====
section
/-! DEFINITION. Scalar floating-point arithmetic (R349, R356, R357): a result is computed exactly and rounded once. Bits of
the flags, as in fflags: 1 NX, 2 UF, 4 OF, 8 DZ, 16 NV. What the F and D extensions and IEEE 754 lay down beside the rules
of chapter 13 is taken from them (log entry 12). -/

namespace Sys2Proof.Machine

/-- A binary format: `p` bits of precision and `e` bits of exponent. -/
structure Fmt where
  p : Nat
  e : Nat
  deriving DecidableEq, Repr
/-- Double precision, or single precision. -/
def fmtOf (double : Bool) : Fmt := if double then ⟨53, 11⟩ else ⟨24, 8⟩
/-- The bias, and the exponent of the least bit of a subnormal number. -/
def Fmt.bias (f : Fmt) : Nat := 2 ^ (f.e - 1) - 1
def Fmt.low (f : Fmt) : Int := 2 - (f.bias : Int) - f.p
/-- The sign bit's weight. -/
def Fmt.top (f : Fmt) : Nat := 2 ^ (f.p + f.e - 1)
/-- Infinity, and the canonical NaN (R356), without sign. -/
def Fmt.inf (f : Fmt) : Nat := (2 ^ f.e - 1) * 2 ^ (f.p - 1)
def Fmt.nan (f : Fmt) : Nat := f.inf + 2 ^ (f.p - 2)
/-- Bits with a sign. -/
def Fmt.sgn (f : Fmt) (s : Bool) (v : Nat) : Nat := if s then f.top + v else v

/-- A value: a NaN, an infinity, or sign, significand and exponent of its least bit. -/
inductive FpNum where
  | nan (quiet : Bool)
  | inf (s : Bool)
  | fin (s : Bool) (m : Nat) (e : Int)
  deriving DecidableEq, Repr
/-- Read a value from its bits. -/
def Fmt.dec (f : Fmt) (v : Nat) : FpNum :=
  let s := decide (f.top ≤ v)
  let x := v / 2 ^ (f.p - 1) % 2 ^ f.e
  let m := v % 2 ^ (f.p - 1)
  if x = 2 ^ f.e - 1 then (if m = 0 then .inf s else .nan (m.testBit (f.p - 2)))
  else if x = 0 then .fin s m f.low
  else .fin s (m + 2 ^ (f.p - 1)) (f.low + x - 1)
/-- Is it a NaN, a signalling NaN? -/
def FpNum.isNan : FpNum → Bool
  | .nan _ => true
  | _ => false
def FpNum.isSnan : FpNum → Bool
  | .nan q => !q
  | _ => false

/-- Drop the `k` low bits of a significand, `0 < k`, in a rounding mode (0 RNE, 1 RTZ, 2 RDN, 3 RUP, 4 RMM): the rest, and
whether bits were lost. -/
def roundBits (rm : Nat) (s : Bool) (m k : Nat) : Nat × Bool :=
  let n := m / 2 ^ k
  let r := m % 2 ^ k
  let h := 2 ^ (k - 1)
  let up := match rm with
    | 0 => decide (h < r) || (r == h && n % 2 == 1)
    | 1 => false
    | 2 => s && r != 0
    | 3 => !s && r != 0
    | _ => decide (h ≤ r)
  (if up then n + 1 else n, r != 0)
/-- The value m × 2^e rounded to a format: its bits, and its flags. Tininess is detected after rounding. -/
def Fmt.round (f : Fmt) (rm : Nat) (s : Bool) (m : Nat) (e : Int) : Nat × Nat :=
  if m = 0 then (f.sgn s 0, 0)
  else
    let x := e + Nat.log2 m
    let q := max (x - (f.p - 1)) f.low
    let big := f.p + 4
    let lo := e - big
    let r := roundBits rm s (m * 2 ^ big) (q - lo).toNat
    let free := (roundBits rm s (m * 2 ^ big) (x - (f.p - 1) - lo).toNat).1
    let tiny := decide (x < f.low + (f.p - 1)) && !(free == 2 ^ f.p && x + 1 == f.low + (f.p - 1))
    let n := if r.1 = 2 ^ f.p then 2 ^ (f.p - 1) else r.1
    let q' := if r.1 = 2 ^ f.p then q + 1 else q
    let ex := if n < 2 ^ (f.p - 1) then 0 else (q' - f.low + 1).toNat
    if 2 ^ f.e - 1 ≤ ex then
      (f.sgn s (if rm = 0 ∨ rm = 4 ∨ (rm = 2 ∧ s) ∨ (rm = 3 ∧ !s) then f.inf else f.inf - 1), 5)
    else (f.sgn s (ex * 2 ^ (f.p - 1) + n % 2 ^ (f.p - 1)), if r.2 then (if tiny then 3 else 1) else 0)

/-- The canonical NaN, with NV where the operation is invalid or an operand signals. -/
def Fmt.nanOf (f : Fmt) (l : List FpNum) (invalid : Bool) : Nat × Nat :=
  (f.nan, if invalid || l.any FpNum.isSnan then 16 else 0)
/-- A finite value as an integer at exponent `e`, which is at most its own. -/
def scaled (s : Bool) (m : Nat) (x e : Int) : Int := (if s then -1 else 1) * ((m * 2 ^ (x - e).toNat : Nat) : Int)
/-- The sum of two finite values. -/
def Fmt.sum (f : Fmt) (rm : Nat) (s1 : Bool) (m1 : Nat) (e1 : Int) (s2 : Bool) (m2 : Nat) (e2 : Int) : Nat × Nat :=
  let e := min e1 e2
  let v := scaled s1 m1 e1 e + scaled s2 m2 e2 e
  if v = 0 then (f.sgn (if s1 = s2 then s1 else rm == 2) 0, 0) else f.round rm (decide (v < 0)) v.natAbs e
/-- a × b + c, rounded once. -/
def Fmt.fma (f : Fmt) (rm : Nat) (a b c : FpNum) : Nat × Nat :=
  let bad := match a, b with
    | .inf _, .fin _ 0 _ | .fin _ 0 _, .inf _ => true
    | _, _ => false
  let prodInf := match a, b with
    | .inf s, .inf t | .inf s, .fin t _ _ | .fin s _ _, .inf t => some (s != t)
    | _, _ => none
  if bad || a.isNan || b.isNan || c.isNan then f.nanOf [a, b, c] bad
  else match prodInf, c with
  | some s, .inf t => if s = t then (f.sgn s f.inf, 0) else f.nanOf [] true
  | some s, _ => (f.sgn s f.inf, 0)
  | none, .inf t => (f.sgn t f.inf, 0)
  | none, .fin t m e => match a, b with
    | .fin s1 m1 e1, .fin s2 m2 e2 => f.sum rm (s1 != s2) (m1 * m2) (e1 + e2) t m e
    | _, _ => (f.nan, 0)
  | none, .nan _ => (f.nan, 0)
/-- The value negated; the sign of a NaN does not matter. -/
def FpNum.neg : FpNum → FpNum
  | .nan q => .nan q
  | .inf s => .inf !s
  | .fin s m e => .fin (!s) m e
/-- a + b. -/
def Fmt.add (f : Fmt) (rm : Nat) (a b : FpNum) : Nat × Nat :=
  if a.isNan || b.isNan then f.nanOf [a, b] false
  else match a, b with
  | .inf s, .inf t => if s = t then (f.sgn s f.inf, 0) else f.nanOf [] true
  | .inf s, _ | _, .inf s => (f.sgn s f.inf, 0)
  | .fin s m e, .fin t n g => f.sum rm s m e t n g
  | _, _ => (f.nan, 0)
/-- a × b. -/
def Fmt.mul (f : Fmt) (rm : Nat) (a b : FpNum) : Nat × Nat :=
  match a, b with
  | .fin s m e, .fin t n g => f.round rm (s != t) (m * n) (e + g)
  | .inf _, .fin _ 0 _ | .fin _ 0 _, .inf _ => f.nanOf [] true
  | .inf s, .inf t | .inf s, .fin t _ _ | .fin s _ _, .inf t => (f.sgn (s != t) f.inf, 0)
  | _, _ => f.nanOf [a, b] false
/-- a ÷ b: 130 further bits of the quotient, and a last bit for what remains. -/
def Fmt.div (f : Fmt) (rm : Nat) (a b : FpNum) : Nat × Nat :=
  match a, b with
  | .fin s m e, .fin t n g =>
    if n = 0 then (if m = 0 then f.nanOf [] true else (f.sgn (s != t) f.inf, 8))
    else f.round rm (s != t) (m * 2 ^ 130 / n * 2 + if m * 2 ^ 130 % n = 0 then 0 else 1) (e - g - 131)
  | .inf _, .inf _ => f.nanOf [] true
  | .inf s, .fin t _ _ => (f.sgn (s != t) f.inf, 0)
  | .fin s _ _, .inf t => (f.sgn (s != t) 0, 0)
  | _, _ => f.nanOf [a, b] false
/-- The integer square root of a number below 2^200. -/
def isqrt (n : Nat) : Nat := (List.range 100).foldl (fun r i => if (r + 2 ^ (99 - i)) * (r + 2 ^ (99 - i)) ≤ n then r + 2 ^ (99 - i) else r) 0
/-- √a, with a last bit for what remains. -/
def Fmt.sqrt (f : Fmt) (rm : Nat) (a : FpNum) : Nat × Nat :=
  match a with
  | .nan _ => f.nanOf [a] false
  | .inf s => if s then f.nanOf [] true else (f.inf, 0)
  | .fin s m e =>
    if m = 0 then (f.sgn s 0, 0)
    else if s then f.nanOf [] true
    else
      let k : Nat := if (e - 130) % 2 = 0 then 130 else 131
      let n := m * 2 ^ k
      let r := isqrt n
      f.round rm false (r * 2 + if r * r = n then 0 else 1) ((e - k) / 2 - 1)

/-- The order of values that are not NaN: bits with their sign as a number. -/
def Fmt.key (f : Fmt) (v : Nat) : Int := if f.top ≤ v then -((v - f.top : Nat) : Int) else v
/-- fmin, and fmax (R356). -/
def Fmt.minMax (f : Fmt) (max : Bool) (a b : Nat) : Nat × Nat :=
  let x := f.dec a
  let y := f.dec b
  let nv := if x.isSnan || y.isSnan then 16 else 0
  if x.isNan then (if y.isNan then f.nan else b, nv)
  else if y.isNan then (a, nv)
  else
    let less := f.key a < f.key b ∨ (f.key a = f.key b ∧ f.top ≤ a)
    (if max then (if less then b else a) else if less then a else b, 0)
/-- feq (quiet), flt and fle. -/
def Fmt.compare (f : Fmt) (op : FpOp) (a b : Nat) : Nat × Nat :=
  let x := f.dec a
  let y := f.dec b
  let nan := x.isNan || y.isNan
  match op with
  | .eq => (if !nan && f.key a == f.key b then 1 else 0, if x.isSnan || y.isSnan then 16 else 0)
  | .lt => (if !nan && decide (f.key a < f.key b) then 1 else 0, if nan then 16 else 0)
  | _ => (if !nan && decide (f.key a ≤ f.key b) then 1 else 0, if nan then 16 else 0)
/-- fclass. -/
def Fmt.classOf (f : Fmt) (v : Nat) : Nat :=
  match f.dec v with
  | .nan q => if q then 2 ^ 9 else 2 ^ 8
  | .inf s => if s then 1 else 2 ^ 7
  | .fin s m _ =>
    let k := if m = 0 then 0 else if m < 2 ^ (f.p - 1) then 1 else 2
    if s then 2 ^ (3 - k) else 2 ^ (4 + k)
/-- The range of an integer type of a conversion. -/
def intRange (long signed : Bool) : Int × Int :=
  let w := if long then 64 else 32
  if signed then (-(2 ^ (w - 1)), 2 ^ (w - 1) - 1) else (0, 2 ^ w - 1)
/-- A conversion to an integer (R356): the integer and the flags. -/
def Fmt.toInt (_f : Fmt) (rm : Nat) (long signed : Bool) (a : FpNum) : Int × Nat :=
  let r := intRange long signed
  match a with
  | .nan _ => (r.2, 16)
  | .inf s => (if s then r.1 else r.2, 16)
  | .fin s m e =>
    let n := if 0 ≤ e then (m * 2 ^ e.toNat, false) else roundBits rm s m (-e).toNat
    let v : Int := if s then -(n.1 : Int) else n.1
    if v < r.1 then (r.1, 16) else if r.2 < v then (r.2, 16) else (v, if n.2 then 1 else 0)

/-- Does the operation put its result into an integer register, take an integer operand, use a rounding mode? -/
def fpToX : FpOp → Bool
  | .eq | .lt | .le | .classify | .toInt _ _ => true
  | _ => false
def fpFromX : FpOp → Bool
  | .fromInt _ _ => true
  | _ => false
def fpRounds : FpOp → Bool
  | .eq | .lt | .le | .classify | .min | .max => false
  | _ => true
/-- The operands' format: that of the instruction, but for a conversion between the formats the other one. -/
def fpSrcDouble (op : FpOp) (double : Bool) : Bool := if op = .cvt then !double else double

/-- The result of a scalar operation and its flags. FP results are the bits of the format; results for an integer register
are whole. -/
def fpCompute (op : FpOp) (rm : Nat) (double : Bool) (a b c : W64) : W64 × Nat :=
  let f := fmtOf double
  let g := fmtOf (fpSrcDouble op double)
  let x := g.dec a.toNat
  let y := f.dec b.toNat
  let z := f.dec c.toNat
  let out := fun (r : Nat × Nat) => (BitVec.ofNat 64 r.1, r.2)
  match op with
  | .add => out (f.add rm x y)
  | .sub => out (f.add rm x y.neg)
  | .mul => out (f.mul rm x y)
  | .div => out (f.div rm x y)
  | .sqrt => out (f.sqrt rm x)
  | .madd => out (f.fma rm x y z)
  | .msub => out (f.fma rm x y z.neg)
  | .nmsub => out (f.fma rm x.neg y z)
  | .nmadd => out (f.fma rm x.neg y z.neg)
  | .min => out (f.minMax false a.toNat b.toNat)
  | .max => out (f.minMax true a.toNat b.toNat)
  | .eq | .lt | .le => out (f.compare op a.toNat b.toNat)
  | .classify => out (f.classOf a.toNat, 0)
  | .toInt long signed =>
    let r := f.toInt rm long signed x
    (if long then BitVec.ofInt 64 r.1 else (BitVec.ofInt 32 r.1).signExtend 64, r.2)
  | .fromInt long signed =>
    let v : Int := if long then (if signed then a.toInt else a.toNat)
      else if signed then (a.setWidth 32).toInt else (a.setWidth 32).toNat
    out (f.round rm (decide (v < 0)) v.natAbs 0)
  | .cvt => match x with
    | .nan _ => out (f.nanOf [x] false)
    | .inf s => out (f.sgn s f.inf, 0)
    | .fin s m e => out (f.round rm s m e)

end Sys2Proof.Machine
end

