-- ==== Sys2Proof/Machine/Cache.lean ====
section
/-! DEFINITION. Chapter 03: the private caches, the last-level slices, the slice map and the requests that a tile or an
engine port sends to the home of a line. -/

namespace Sys2Proof.Machine

/-! ### Keys and the slice map (R77, R78) -/

/-- The set of a line in its home slice and directory (R78). -/
def sliceSet (l : Nat) : Nat := (l % 2048) ^^^ (l / 2048 % 2048)
/-- The home of a line as requester `r` sees it: a copy that the update flit has not reached still holds the old value
(R81, R84). -/
def State.homeSeen (s : State) (r l : Nat) : Nat :=
  match Tab.find s.cache.mapMove (mapIndex l) with
  | some m => if m.waiting.contains r then LLC_MAP_NODE.get m.old else s.homeOf l
  | none => s.homeOf l

/-! ### Replacement (R75) -/

/-- The way that a fill takes under 2-bit re-reference prediction, given the (way, value) pairs of the set's lines and the
ways that the fill may use: a free way, else the lowest way with the greatest value; and by how much every value of the
set rises so that the victim's reaches 3. -/
def rripPick (used : List (Nat × Nat)) (allowed : List Nat) : Option Nat × Nat :=
  match allowed.find? (fun w => !used.any (·.1 == w)) with
  | some w => (some w, 0)
  | none =>
    let v := fun w => match used.find? (·.1 == w) with | some p => p.2 | none => 0
    let m := allowed.foldl (fun m w => max m (v w)) 0
    (allowed.find? (fun w => v w == m), 3 - m)

/-- A step through the 15-bit tree of a 16-way pseudo-LRU set: `f` chooses the direction at each of `k` levels. -/
def plruWalk (f : Nat → Nat → Bool) (k idx way : Nat) : List (Nat × Bool) × Nat :=
  match k with
  | 0 => ([], way)
  | k + 1 =>
    let b := f idx k
    let r := plruWalk f k (idx * 2 + (if b then 1 else 0)) (way * 2 + (if b then 1 else 0))
    ((idx, b) :: r.1, r.2)
/-- The tree after way `w` has been used: every node on its path points away from it. -/
def plruTouch (tree w : Nat) : Nat :=
  (plruWalk (fun _ k => w.testBit k) 4 1 0).1.foldl
    (fun t p => if p.2 then (if t.testBit p.1 then t - 2 ^ p.1 else t) else (if t.testBit p.1 then t else t + 2 ^ p.1)) tree
/-- The way that the tree points to. -/
def plruVictim (tree : Nat) : Nat := (plruWalk (fun i _ => tree.testBit i) 4 1 0).2

/-! ### Requests -/

/-- Outstanding requests of a requester. -/
def State.reqsOf (s : State) (r : Nat) : List ReqOut := s.coh.reqs.filter (·.req == r)
/-- Free L2 miss slots of a tile: 64, one per outstanding request other than an eviction. -/
def State.missFree (s : State) (n : Nat) : Nat := 64 - ((s.reqsOf n).filter fun q => q.why != .evict).length

/-- Send a request to the home of a line and remember it. TXN[9:0] is chosen by the requester; TXN[10] marks a batten
operation on a landing-window line (Table 5.4). -/
def sendMsg (r cls opcode l : Nat) (why : ReqWhy) (world : Bool) (tenant : Nat) (data : Option (Line × Bool)) (mask : Nat)
    (win : Bool) : Act := .read fun s =>
  let home := s.homeSeen r l
  let f : Flit := { dest := home, src := reqNode r, req := r, cls := cls, opcode := opcode,
                    txn := s.coh.nextTxn % 1024 + (if win then 1024 else 0),
                    world := world, tenant := tenant, line := l, hasData := data.isSome, mask := mask,
                    data := match data with | some d => d.1 | none => 0,
                    poison := match data with | some d => d.2 | none => false }
  .all [
    .coh fun c => { c with
      nextTxn := (c.nextTxn + 1) % 1024
      reqs := c.reqs ++ [{ req := r, home := home, flit := f, why := why, since := s.clk.time }] },
    send (reqNode r) f ]

/-- Send a coherence request. -/
def sendReq (r opcode l : Nat) (why : ReqWhy) (world : Bool) (tenant : Nat) (data : Option (Line × Bool)) (mask : Nat) :
    Act := sendMsg r clsREQ opcode l why world tenant data mask false

/-- A tile's request for a line without data. -/
def tileReq (n opcode l : Nat) (why : ReqWhy) (world : Bool) : Act :=
  sendReq n opcode l why world 0x3FFF none (2 ^ 64 - 1)

/-! ### L2 and L1 -/

/-- A line of a tile's L2. -/
def State.l2 (s : State) (n l : Nat) : Option L2Line := Tab.find s.cache.l2 (lineKey n l)
/-- Change a line of a tile's L2, if it is there. -/
def modL2 (n l : Nat) (f : L2Line → L2Line) : Act := .cache fun c =>
  match Tab.find c.l2 (lineKey n l) with
  | some x => { c with l2 := Tab.put c.l2 (lineKey n l) (f x) }
  | none => c
/-- The lines of one set of a tile's L2, with their keys. -/
def State.l2Set (s : State) (n l : Nat) : List (Nat × L2Line) :=
  s.cache.l2.filter fun p => keyNode p.1 == n && keyLine p.1 % 1024 == l % 1024

/-- Announce the eviction of a line and move it into the eviction buffer (R73, R106, R107). -/
def evictL2 (n l : Nat) : Act := .read fun s =>
  match s.l2 n l with
  | none => .skip
  | some x =>
    let dirty := x.st == .m || x.st == .o
    .all [
      .cache fun c => { c with l2 := Tab.drop c.l2 (lineKey n l) },
      .coh fun c => { c with evbuf := Tab.put c.evbuf (lineKey n l) { data := x.data, poison := x.poison, dirty := dirty } },
      tileReq n (if dirty then opEvictDirty else opEvictClean) l .evict (s.dramSecure (l * 64)) ]

/-- In Drain a tile's L2 writes back the lines that its stop still brings, once no store waits for them (R60 step 2). -/
def evictInDrain (n l : Nat) : Act := .read fun s =>
  let waits := match s.nodeHart n with | some h => (Tab.getD s.core.hart h {}).sq.any fun q => q.pa / 64 == l | none => false
  .when (s.tstate n == tsDrain && !waits) (evictL2 n l)

/-- Fill a line into a tile's L2 in state `st` (R75: value 2, a prefetch 3), evicting a victim when the set is full. -/
def fillL2 (n l : Nat) (st : Moesi) (d : Line) (p pf : Bool) : Act := .read fun s =>
  match s.l2 n l with
  | some x => .cache fun c => { c with l2 := Tab.put c.l2 (lineKey n l) { x with st := st, data := d, poison := p } }
  | none =>
    let set := s.l2Set n l
    let k := rripPick (set.map fun q => (q.2.way, q.2.rrpv)) (List.range 16)
    let w := k.1.getD 0
    let line : L2Line := { st := st, data := d, poison := p, way := w, rrpv := if pf then 3 else 2, pf := pf }
    .all [
      .when (k.2 != 0) (.each set fun q => modL2 n (keyLine q.1) fun x => { x with rrpv := min 3 (x.rrpv + k.2) }),
      (match set.find? (·.2.way == w) with
       | some q => evictL2 n (keyLine q.1)
       | none => .skip),
      .cache fun c => { c with l2 := Tab.put c.l2 (lineKey n l) line } ]

/-- An L2 line that holds the tile's L1 way `w` of an L1 set. -/
def l1Way (isI : Bool) (x : L2Line) : Option Nat := if isI then x.l1i else x.l1d
/-- Put a line of L2 into L1I or L1D, or touch it there: a free way, else the tree's victim (R71, R73). -/
def fillL1 (n l : Nat) (isI : Bool) : Act := .read fun s =>
  match s.l2 n l with
  | none => .skip
  | some x =>
    let key := n * 64 + l % 64
    let tree := Tab.getD (if isI then s.cache.plruI else s.cache.plruD) key 0
    let set := s.cache.l2.filter fun p => keyNode p.1 == n && keyLine p.1 % 64 == l % 64
    let w := match l1Way isI x with
      | some w => w
      | none => match (List.range 16).find? (fun w => !set.any fun p => l1Way isI p.2 == some w) with
        | some w => w
        | none => plruVictim tree
    .all [
      .each (set.filter fun p => l1Way isI p.2 == some w && keyLine p.1 != l) fun p =>
        modL2 n (keyLine p.1) fun y => if isI then { y with l1i := none } else { y with l1d := none },
      modL2 n l fun y => if isI then { y with l1i := some w, rrpv := 0 } else { y with l1d := some w, rrpv := 0 },
      .cache fun c => if isI then { c with plruI := Tab.put c.plruI key (plruTouch tree w) }
        else { c with plruD := Tab.put c.plruD key (plruTouch tree w) } ]


/-! ### Slices -/

/-- LLC_STAT.WIN_LINES of a slice (Table 3.8). -/
def winLines (h : Nat) : Act := .read fun s => setF (LLC_STAT h) LLC_STAT_WIN_LINES
  (s.cache.slice.filter fun p => keyNode p.1 == h && p.2.win).length
/-- Change a line of a slice, if it is there. -/
def modSlice (h l : Nat) (f : SliceLine → SliceLine) : Act := .cache fun c =>
  match Tab.find c.slice (lineKey h l) with
  | some x => { c with slice := Tab.put c.slice (lineKey h l) (f x) }
  | none => c
/-- Invalidate a line of a slice. -/
def dropSlice (h l : Nat) : Act := .cache fun c => { c with slice := Tab.drop c.slice (lineKey h l) }

/-- An entry of a home's directory; a line without one is free (R112). -/
def State.dirEntry (s : State) (h l : Nat) : DirEntry := Tab.getD s.coh.dir (lineKey h l) {}
/-- Is a directory entry free? -/
def DirEntry.free (e : DirEntry) : Bool := e.st == 0 && !e.sdirty
/-- Write a directory entry; a free one is not held, and a new one takes the lowest free way (R112). -/
def putDir (h l : Nat) (e : DirEntry) : Act := .coh fun c => { c with
  dir := if e.free then Tab.drop c.dir (lineKey h l)
    else match Tab.find c.dir (lineKey h l) with
    | some o => Tab.put c.dir (lineKey h l) { e with way := o.way }
    | none =>
      let used := (c.dir.filter fun p => keyNode p.1 == h && sliceSet (keyLine p.1) == sliceSet l).map (·.2.way)
      Tab.put c.dir (lineKey h l) { e with way := ((List.range 16).find? fun w => !used.contains w).getD 0 } }
/-- Change a directory entry. -/
def modDir (h l : Nat) (f : DirEntry → DirEntry) : Act := .read fun s => putDir h l (f (s.dirEntry h l))

/-- What DIR_STAT of a home shows (Table 4.8): its entries that are not free, its tickets and its general slots in use. -/
def State.dirStatWord (s : State) (h : Nat) : W64 :=
  DIR_STAT_ENTRIES.put (DIR_STAT_QUEUED.put (DIR_STAT_GEN_BUSY.put 0
    (s.coh.tx.filter fun p => keyNode p.1 == h && !p.2.acc && !p.2.ticketed).length)
    (Tab.getD s.coh.tickets h []).length) (s.coh.dir.filter fun p => keyNode p.1 == h).length
/-- Bring DIR_STAT of a home up to date; a read of it counts anew. -/
def dirStat (h : Nat) : Act := .read fun s => .reg (DIR_STAT h) (s.dirStatWord h)

/-- A slice sends a MEM_RD or MEM_WR under a memory tag, or the miss waits for one (R72). -/
def memSend (h : Nat) (f : Flit) : Act := .read fun s =>
  if Tab.getD s.cache.tagsUsed h 0 < s.get (LLC_STAT h) LLC_STAT_MEM_TAGS then
    .all [.cache fun c => { c with tagsUsed := Tab.upd c.tagsUsed h 0 (· + 1) }, send h f]
  else .cache fun c => { c with tagWait := c.tagWait ++ [(h, f)] }
/-- A memory tag returns with the answer of its request (R72). -/
def tagBack (h : Nat) : Act := .cache fun c => { c with tagsUsed := Tab.upd c.tagsUsed h 0 (· - 1) }

/-- A request of a home to the memory controller of a line. -/
def memReq (h opcode l : Nat) (world : Bool) (tenant : Nat) (prio : Bool) (data : Option (Line × Bool)) : Act :=
  .read fun s => match s.channelOf (l * 64) with
  | none => .skip
  | some c => memSend h { dest := mcNode c.1, src := h, req := h, cls := clsREQ, opcode := opcode, line := l, world := world,
                          tenant := tenant, prio := prio, hasData := data.isSome,
                          data := match data with | some d => d.1 | none => 0,
                          poison := match data with | some d => d.2 | none => false }
/-- Write a line of a slice back to memory. -/
def memWrite (h l : Nat) (d : Line) (p : Bool) : Act := .read fun s =>
  memReq h opMemWr l (s.dramSecure (l * 64)) 0x3FFF false (some (d, p))

/-- Evict a line from a slice: a dirty one is first written back and marked clean (R98). -/
def evictSlice (h l : Nat) : Act := .read fun s =>
  match s.slice h l with
  | none => .skip
  | some x => .all [
      .when (s.dirEntry h l).sdirty (.all [memWrite h l x.data x.poison, modDir h l fun e => { e with sdirty := false }]),
      dropSlice h l ]

/-- The ways that a fill may use (R85, R86): the reserved ones for lines of an open window, the others for all else. -/
def State.fillWays (s : State) (h : Nat) (win : Bool) : List Nat :=
  let r := s.get (LLC_CFG h) LLC_CFG_RSV_WAYS
  (List.range 12).filter fun w => decide (12 - r ≤ w) == win

/-- Allocate a line in a slice with a re-reference value (R74, R75, R86). A line that no way can take goes to memory. -/
def fillSlice (h l : Nat) (d : Line) (p : Bool) (rrpv : Nat) (win : Bool) : Act := .read fun s =>
  match s.slice h l with
  | some x =>
    let line : SliceLine := { x with data := d, poison := p, rrpv := rrpv, win := x.win || win }
    .cache fun c => { c with slice := Tab.put c.slice (lineKey h l) line }
  | none =>
    let set := s.cache.slice.filter fun q => keyNode q.1 == h && sliceSet (keyLine q.1) == sliceSet l
    let ways := (s.fillWays h win).filter fun w => !set.any fun q => q.2.way == w && q.2.win
    let k := rripPick (set.map fun q => (q.2.way, q.2.rrpv)) ways
    match k.1 with
    | none => memWrite h l d p
    | some w =>
      let line : SliceLine := { data := d, poison := p, way := w, rrpv := rrpv, win := win }
      .all [
        .when (k.2 != 0) (.each (set.filter fun q => !q.2.win) fun q =>
          modSlice h (keyLine q.1) fun x => { x with rrpv := min 3 (x.rrpv + k.2) }),
        (match set.find? (·.2.way == w) with
         | some q => evictSlice h (keyLine q.1)
         | none => .skip),
        .cache fun c => { c with slice := Tab.put c.slice (lineKey h l) line } ]

/-! ### Prefetch (R88–R91) -/

/-- A demand load of a pc that missed L1D trains a stride detector (R88): 16 of them, the most recently used first. -/
def strideTrain (n pc l : Nat) : Act := .cache fun c =>
  let d := Tab.getD c.stride n []
  let e := match d.find? (·.pc == pc) with
    | some e =>
      let k : Int := (l : Int) - (e.last : Int)
      { pc := pc, last := l, stride := k, count := if k = e.stride then e.count + 1 else 1 }
    | none => { pc := pc, last := l }
  { c with stride := Tab.put c.stride n ((e :: d.filter (·.pc != pc)).take 16) }

/-- May a tile issue a prefetch: 16 of its 64 miss slots free (R89, R91), and no deterministic mode? -/
def State.prefetchOk (s : State) (n : Nat) : Bool :=
  decide (16 ≤ s.missFree n) && !(match s.nodeHart n with
    | some h => match Tab.find s.core.hart h with
      | some t => (Tab.getD t.csr 0x7C0 0).getLsbD 0
      | none => false
    | none => false)

/-- STRIDE_PREFETCH_ISSUE (R88, R89): an active detector of tile `node` asks for the next line of its stream that the
tile does not hold, within DIST lines and the 4 KiB page of the miss. -/
def execStridePrefetchIssue (node pc : Nat) (s : State) : Out :=
  commit (match (Tab.getD s.cache.stride node []).find? (·.pc == pc) with
    | none => .skip
    | some e =>
      let dist := s.get (CORE_PF_CFG node) CORE_PF_CFG_DIST
      let steps := dist / e.stride.natAbs
      let next := ((List.range steps).map fun (i : Nat) => (e.last : Int) + e.stride * ((i : Int) + 1)).find? fun t =>
        decide (0 ≤ t) && t.toNat / 64 == e.last / 64 && (s.l2 node t.toNat).isNone &&
        !((s.reqsOf node).any fun q => q.flit.line == t.toNat)
      if e.count < s.get (CORE_PF_CFG node) CORE_PF_CFG_TRAIN ∨ e.stride = 0 ∨ 32 < e.stride.natAbs ∨
          !s.prefetchOk node then .skip
      else match next with
      | none => .skip
      | some t => .all [bump (CORE_PF_ISSUED node), bump (CORE_L2_MISS node),
          tileReq node opRdShared t.toNat .prefetch (s.dramSecure (t.toNat * 64))]) s

/-- An engine port's next-line prefetch (R90): the home of the next line of the same page fills it with value 3. -/
def nextLine (port l : Nat) : Act := .read fun s =>
  let h := s.homeOf (l + 1)
  if s.bit (LLC_CFG port) LLC_CFG_NL_PF ∧ (l + 1) / 64 = l / 64 ∧ (s.slice h (l + 1)).isNone ∧
      (s.dirEntry h (l + 1)).free then
    .all [fillSlice h (l + 1) (s.lineAt (l + 1)) (s.isPoison (l + 1)) 3 false, bump (LLC_NL_PF_CNT h)]
  else .skip

/-! ### Background work of a slice -/

/-- MISS_TAG_ACQUIRE (R72): a miss that waited takes a freed memory tag and sends its request. -/
def execMissTagAcquire (node : Nat) (s : State) : Out :=
  commit (match s.cache.tagWait.find? (·.1 == node) with
    | none => .skip
    | some p =>
      if Tab.getD s.cache.tagsUsed node 0 < s.get (LLC_STAT node) LLC_STAT_MEM_TAGS then
        .all [.cache fun c => { c with tagWait := c.tagWait.erase p }, memSend node p.2]
      else .skip) s

/-- SLICE_SCRUB_READ (R99, R101): the background read of slice `node` checks a line; `wrong` is what it finds (0 nothing,
1 a single-bit error, 2 a double-bit error). SCRUB 0 turns it off. -/
def execSliceScrubRead (node line wrong : Nat) (s : State) : Out :=
  commit (if s.get (LLC_CFG node) LLC_CFG_SCRUB = 0 then .skip else .seq
    (.cache fun c => { c with scrubPos := Tab.put c.scrubPos node line })
    (match s.slice node line with
     | none => .skip
     | some x =>
       if wrong = 0 then .skip
       else if wrong = 1 then .all [bump (LLC_CE node), ceCount (0x100 + node)]
       else if (s.dirEntry node line).sdirty then .all [
         modSlice node line fun y => { y with poison := true },
         rasLog { sev := 1, cls := cArray, block := 0x100 + node, addr := some (line * 64), synd := x.way } ]
       else .all [
         modSlice node line fun y => { y with data := s.lineAt line, poison := s.isPoison line },
         rasLog { sev := 0, cls := cArray, block := 0x100 + node, addr := some (line * 64), synd := x.way } ])) s

end Sys2Proof.Machine
end

