-- ==== Sys2Proof/Machine/Coherence.lean ====
section
/-! DEFINITION. Chapter 04, and section 5.3: the homes with their directories and tickets, and the snooped tiles. The
parallel steps of a home are carried out as the messages arrive: each command is one message at its receiver. -/

namespace Sys2Proof.Machine

/-! ### GF(2^8) (R130, R131) -/

/-- `k` steps of the multiplication of R130. -/
def gfSteps (k a b p : Nat) : Nat :=
  match k with
  | 0 => p
  | k + 1 =>
    let a2 := a * 2
    gfSteps k (if a2.testBit 8 then a2 ^^^ 0x11D else a2) (b / 2) (if b % 2 = 1 then p ^^^ a else p)
/-- The product of two bytes (R130). -/
def gfmul (a b : Nat) : Nat := gfSteps 8 a b 0
/-- The accumulate of R131 on a whole line. -/
def gfAcc (c : Nat) (src dst : Line) : Line :=
  dst ^^^ (List.range 64).foldl (fun w k =>
    w ||| (BitVec.ofNat 512 (gfmul c (src.extractLsb' (8 * k) 8).toNat) <<< (8 * k))) 0
/-- Merge the bytes that a mask names into a line. -/
def mergeMask (old new : Line) (mask : Nat) : Line :=
  let m : Line := (List.range 64).foldl (fun w k => if mask.testBit k then w ||| ((0xFF : Line) <<< (8 * k)) else w) 0
  (old &&& ~~~ m) ||| (new &&& m)

/-! ### Transactions -/

/-- Opcodes that a home uses inside itself: the eviction of a directory victim and the walk of a map move. -/
def opVictim : Nat := 0xF0
def opWalk : Nat := 0xF1

/-- The open transaction of a line at a home. -/
def State.txOf (s : State) (h l : Nat) : Option Tx := Tab.find s.coh.tx (lineKey h l)
/-- Change the open transaction of a line. -/
def modTx (h l : Nat) (f : Tx → Tx) : Act := .coh fun c =>
  match Tab.find c.tx (lineKey h l) with
  | some t => { c with tx := Tab.put c.tx (lineKey h l) (f t) }
  | none => c
/-- The line is busy (R108). -/
def State.busy (s : State) (h l : Nat) : Bool := (s.txOf h l).isSome
/-- Is a requester dead at a home (R124)? -/
def State.dead (s : State) (h r : Nat) : Bool := (s.reg (DIR_DEAD h (r / 64))).toNat.testBit (r % 64)
/-- The node of a tile requester. -/
def tileOf (r : Nat) : Option Nat := if r < 224 then some r else none
/-- The tile nodes. -/
def tileNodes : List Nat := (List.range 224).filter fun n => nodeKind n == 0

/-- What a home sends for a request (Table 4.3, R140): the snoop for the owner (0 none), whether the sharers get INV,
whether data comes from the home, and whether the write-back is called for. -/
structure Plan where
  own : Nat := 0
  inv : Bool := false
  home : Bool := false
  wb : Bool := false
  deriving DecidableEq, Repr

/-- The row of Table 4.3 for a request and the entry that it meets. -/
def planOf (f : Flit) (e : DirEntry) : Plan :=
  let rn := tileOf f.req
  let owned := e.st == 2 || e.st == 3
  let mine := owned && rn == some e.owner
  let listed := mine || (match rn with | some n => e.shr.contains n | none => false)
  let other := owned && !mine
  let unique : Plan := if other then { own := opSnpUnique, inv := true } else { inv := true, home := true }
  if f.cls = clsBTN then
    { own := if owned then opSnpFlush else 0, inv := true, home := f.hasData && !owned }
  else match f.opcode with
    | 0x01 => if other then { own := opSnpShared } else { home := true }
    | 0x02 => unique
    | 0x03 => if (e.st = 1 ∨ e.st = 3) ∧ listed ∧ !e.ovf then { own := if other then opInv else 0, inv := true } else unique
    | 0x04 => if owned then { own := opSnpOnce } else { home := true }
    | 0x05 => { own := if owned then opInv else 0, inv := true }
    | 0x06 => if owned then { own := opSnpFlush, inv := true } else { inv := true, home := true }
    | 0x07 => { own := if owned then opInv else 0, inv := true }
    | 0x08 => { wb := mine }
    | 0x09 => {}
    | 0x0A => { own := if owned then opSnpClean else 0 }
    | _ => { own := if owned then opSnpFlush else 0, inv := true }

/-- Is an UPGRADE served as one, the requester still being listed (Table 4.3)? -/
def upgradeOk (f : Flit) (e : DirEntry) : Bool :=
  match tileOf f.req with
  | some n => (e.st == 1 || e.st == 3) && !e.ovf && (e.shr.contains n || (e.st == 3 && e.owner == n))
  | none => false

/-- Does the request leave a directory entry, so that its set needs room (R114)? -/
def needsEntry (f : Flit) : Bool := f.cls == clsBTN || [1, 2, 3, 5, 6, 7].contains f.opcode

/-- A snoop of a transaction (R111). -/
def snoop (h : Nat) (f : Flit) (op dest : Nat) : Act :=
  send h { dest := dest, src := h, req := f.req, cls := clsSNP, opcode := op, txn := f.txn % 2048, world := f.world,
           tenant := f.tenant, line := f.line, prio := f.prio }

/-- Add a sharer to an entry; the fifth sets OVF (R113). -/
def DirEntry.addSharer (e : DirEntry) (n : Nat) : DirEntry :=
  if e.shr.contains n then e else if e.shr.length < 4 then { e with shr := e.shr ++ [n] } else { e with ovf := true }
/-- Take the owner out of an entry. -/
def DirEntry.dropOwner (e : DirEntry) : DirEntry := { e with st := if e.shr.isEmpty && !e.ovf then 0 else 1, owner := 0 }
/-- Take a sharer or a clean owner out of an entry; with OVF = 1 the sharers stay as they are (R113). -/
def DirEntry.dropNode (e : DirEntry) (n : Nat) : DirEntry :=
  if (e.st = 2 ∨ e.st = 3) ∧ e.owner = n then e.dropOwner
  else if e.ovf then e
  else { e with shr := e.shr.filter (· != n), st := if e.st = 1 ∧ (e.shr.filter (· != n)).isEmpty then 0 else e.st }

/-- Write a line into the slice poisoned and dirty (R123, R124, Table 3.4). -/
def poisonHome (h l : Nat) : Act := .read fun s => .all [
  fillSlice h l (match s.slice h l with | some x => x.data | none => s.lineAt l) true 2 false,
  modDir h l fun e => { e with sdirty := true } ]

/-- R124: a line that names a dead agent as owner is poisoned with a DE record; dead sharers hold nothing. -/
def deadHolders (h l : Nat) : Act := .read fun s =>
  let e := s.dirEntry h l
  .all [
    .when (e.shr.any fun n => s.dead h n) (modDir h l fun e =>
      let r := e.shr.filter fun n => !s.dead h n
      { e with shr := r, st := if e.st = 1 ∧ r.isEmpty ∧ !e.ovf then 0 else e.st }),
    .when ((e.st == 2 || e.st == 3) && s.dead h e.owner) (.all [
      modDir h l (·.dropOwner), poisonHome h l,
      rasLog { sev := 1, cls := cPoison, block := 0x100 + h, addr := some (l * 64), synd := e.owner } ]) ]

/-- Open a transaction. -/
def openTx (h : Nat) (f : Flit) (tk ready : Bool) : Act := .read fun s => .all [
  .coh fun c => { c with
    tx := Tab.put c.tx (lineKey h f.line) { req := f, ticketed := tk, acc := f.cls == clsBTN, since := s.clk.time,
                                            ready := ready } },
  dirStat h ]

/-- A flit that asks a home for itself: the walk or a victim's eviction. -/
def innerReq (h l op : Nat) : Flit := { dest := h, src := h, req := h, cls := clsREQ, opcode := op, line := l }

/-- The directory victim that a line's entry needs (R114): none while its set has a free entry; else an entry without a
private copy, lowest way first, else the one with the fewest holders. Lines that are busy are passed over. -/
def State.dirVictim (s : State) (h l : Nat) : Option (Nat × DirEntry) :=
  let set := (s.coh.dir.filter fun p => keyNode p.1 == h && sliceSet (keyLine p.1) == sliceSet l).map
    fun p => (keyLine p.1, p.2)
  if !(s.dirEntry h l).free || set.length < 16 then none
  else
    let cost := fun (e : DirEntry) => (if e.st = 0 then 0 else 1 + (if e.ovf then 5 else e.shr.length) +
      (if e.st = 2 ∨ e.st = 3 then 1 else 0)) * 16 + e.way
    (set.filter fun p => !s.busy h p.1).foldl (fun b p => match b with
      | none => some p
      | some q => if cost p.2 < cost q.2 then some p else some q) none

/-- Close a transaction: the line is no longer busy; a transaction that waited for its entry's room goes on, a REL that
waited is handled before any other request, and a line of a moving entry is walked (R81, Table 4.5). -/
def closeTx (h l : Nat) : Act := .read fun s =>
  match s.txOf h l with
  | none => .skip
  | some t => .all [
      (.coh fun c =>
        let rest := (Tab.drop c.tx (lineKey h l)).map fun p =>
          if keyNode p.1 == h && p.2.victim == some l then (p.1, { p.2 with victim := none, ready := true }) else p
        { c with tx := rest }),
      dirStat h,
      .each (t.later.filter (·.cls == clsBTN)) fun f => .all [
        modSlice h l fun x => { x with win := false, rrpv := 3 }, winLines h, send h (answerTo f clsBTN 0x02)],
      match t.later.find? (·.cls == clsREQ) with
      | some f => openTx h f false true
      | none => .read fun s =>
        match Tab.find s.cache.mapMove (mapIndex l) with
        | some m =>
          let win : Bool := match s.slice h l with | some x => x.win | none => false
          if m.walking && LLC_MAP_NODE.get m.old == h && ((s.slice h l).isSome || !(s.dirEntry h l).free) && !win then
            openTx h (innerReq h l opWalk) false true
          else .skip
        | none => .skip ]

/-- Apply an accumulate or a ZERO to the line in the slice and answer ACK (R131, R140, R141). -/
def applyBtn (h : Nat) (f : Flit) (chained : Bool) : Act := .all [
  (if f.hasData then .all [
      modSlice h f.line fun x => { x with data := gfAcc f.opcode f.data x.data, poison := x.poison || f.poison, rrpv := 0 },
      bump (BTN_ACC_CNT h), .when chained (bump (BTN_CHAIN h)),
      .when f.poison (.all [bump (BTN_POISON h),
        rasLog { sev := 1, cls := cPoison, block := 0x100 + h, addr := some (f.line * 64), tenant := f.tenant,
                 world := f.world }]) ]
   else .all [
      modSlice h f.line fun x => { x with data := 0, poison := false }, bump (BTN_ZERO_CNT h) ]),
  modDir h f.line fun e => { e with st := 0, sdirty := true, ovf := false, shr := [], owner := 0 },
  send h (answerTo f clsBTN 0x02) ]

/-- Put a line into the slice for a batten operation (R148): a window line takes a reserved way that no open window
holds, else a normal way without the mark, counted in BTN_SPILL. -/
def fillBtn (h l : Nat) (d : Line) (p win : Bool) : Act := .read fun s =>
  let set := s.cache.slice.filter fun q => keyNode q.1 == h && sliceSet (keyLine q.1) == sliceSet l
  let room := (s.fillWays h true).any fun w => !set.any fun q => q.2.way == w && q.2.win
  if !win then fillSlice h l d p 2 false
  else if room then .all [fillSlice h l d p 2 true, winLines h]
  else .all [bump (BTN_SPILL h), fillSlice h l d p 2 false]

/-- Data for a request from the home's own copy. -/
def homeAnswer (h : Nat) (f : Flit) (op : Nat) (d : Line) (p : Bool) : Act :=
  send h { answerTo f clsDAT op with data := d, poison := p, hasData := true }
/-- A response without data. -/
def homeRsp (h : Nat) (f : Flit) (op : Nat) : Act := send h (answerTo f clsRSP op)

/-- Every wait of a transaction has ended: answer and bring the entry to its state after (Table 4.3). -/
def finishTx (h l : Nat) : Act := .read fun s =>
  match s.txOf h l with
  | none => .skip
  | some t =>
    let f := t.req
    let e := s.dirEntry h l
    let rn := (tileOf f.req).getD 0
    let d := match t.data with
      | some d => (d, t.poison)
      | none => match s.slice h l with | some x => (x.data, x.poison) | none => (s.lineAt l, s.isPoison l)
    let ackNow : Act := modTx h l fun t => { t with ack := true, since := s.clk.time }
    let own : DirEntry := { e with st := 2, owner := rn, shr := [], ovf := false }
    let unique : Act := .all [
      .when (!t.fwd) (homeAnswer h f opDataE d.1 d.2), putDir h l own, ackNow ]
    let done := fun (op : Nat) => (.all [homeRsp h f op, closeTx h l] : Act)
    -- the slice's dirty line goes to memory before the last group of requests is answered
    let flushed := fun (fin : Act) => (if e.sdirty && !t.written then .all [
        (match s.slice h l with | some x => memWrite h l x.data x.poison | none => .skip),
        modDir h l fun e => { e with sdirty := false },
        modTx h l fun t => { t with memWr := true, written := true } ]
      else fin : Act)
    let gone : Act := .all [putDir h l {}, dropSlice h l, winLines h]
    if f.cls = clsBTN then
      .all [
        (if !f.hasData then .all [dropSlice h l, fillBtn h l 0 false true]
         else .when (s.slice h l).isNone (fillBtn h l d.1 d.2 (f.txn.testBit 10))),
        applyBtn h f false, .each t.chain fun g => applyBtn h g true, closeTx h l ]
    else match f.opcode with
    | 0x01 =>
      if t.fwd then .all [
        putDir h l (if t.ownerDirty then ({ e with st := 3 }).addSharer rn
          else ({ e with st := 1, shr := [], owner := 0 } : DirEntry).addSharer e.owner |>.addSharer rn), ackNow ]
      else if e.st = 1 then .all [homeAnswer h f opDataS d.1 d.2, putDir h l (e.addSharer rn), ackNow]
      else .all [homeAnswer h f opDataE d.1 d.2, putDir h l own, ackNow]
    | 0x02 => unique
    | 0x03 => if t.own = opInv ∨ (t.own = 0 ∧ upgradeOk f e) then .all [putDir h l own, done opComp] else unique
    | 0x04 => .all [homeAnswer h f opDataOnce d.1 d.2, ackNow]
    | 0x05 => .all [
        fillSlice h l f.data f.poison 2 false,
        putDir h l { st := 0, sdirty := true }, done opComp ]
    | 0x06 => .all [
        fillSlice h l (mergeMask d.1 f.data f.mask) (d.2 || f.poison) 2 false,
        putDir h l { st := 0, sdirty := true }, done opComp ]
    | 0x07 => .all [dropSlice h l, putDir h l { own with sdirty := false }, done opComp]
    | 0x08 =>
      if (e.st = 2 ∨ e.st = 3) ∧ e.owner = rn then .all [
        fillSlice h l d.1 d.2 2 false, putDir h l { e.dropOwner with sdirty := true }, done opComp ]
      else done opComp
    | 0x09 => .all [putDir h l (e.dropNode rn), done opComp]
    | 0x0A => flushed (.all [
        modDir h l fun e => if e.st = 3 then ({ e with st := 1, owner := 0 } : DirEntry).addSharer e.owner else e,
        done opComp ])
    | 0x0B => flushed (.all [gone, done opComp])
    | 0x0C => flushed (.all [gone, send h { answerTo f clsRSP opRelDone with dest := f.src }, closeTx h l])
    | _ => flushed (.all [gone, closeTx h l])

/-- Go on with a transaction when nothing is awaited. -/
def progress (h l : Nat) : Act := .read fun s =>
  match s.txOf h l with
  | none => .skip
  | some t =>
    if t.waits.isEmpty && !t.mem && !t.memWr && !t.ack && !t.wb && !t.rel && t.victim.isNone then finishTx h l else .skip

/-- Carry out a transaction's row of Table 4.3: the snoops, the read of memory, the call for a write-back. -/
def goTx (h l : Nat) : Act := .seq (deadHolders h l) (.read fun s =>
  match s.txOf h l with
  | none => .skip
  | some t =>
    let f := t.req
    let e := s.dirEntry h l
    let p := planOf f e
    let rn := tileOf f.req
    let keep := fun (n : Nat) => some n != rn && !((e.st == 2 || e.st == 3) && n == e.owner) && !s.dead h n
    let inv := if !p.inv then [] else if e.ovf then tileNodes.filter keep
      else if e.st = 0 ∨ e.st = 2 then [] else e.shr.filter keep
    let readMem := p.home && (s.slice h l).isNone
    .all [
      modTx h l fun t => { t with
        waits := (if p.own = 0 then [] else [e.owner]) ++ inv, own := p.own, wb := p.wb, mem := readMem
        since := s.clk.time },
      .when (p.own != 0) (snoop h f p.own e.owner),
      .when (p.inv && e.ovf) (bump (DIR_BCAST h)),
      .each inv fun n => snoop h f opInv n,
      .when (p.home && !readMem) (.all [bump (LLC_HIT h), modSlice h l fun x => { x with rrpv := 0 }]),
      .when readMem (.all [bump (LLC_MISS h), memReq h opMemRd l f.world f.tenant f.prio none]),
      .when p.wb (homeRsp h f opWbGo),
      progress h l ])

/-- Start or resume a transaction: first the release of the line by its old home (R81 step 4), then room for its entry
(R114), then its row of Table 4.3. -/
def runTx (h l : Nat) : Act := .read fun s =>
  match s.txOf h l with
  | none => .skip
  | some t =>
    let i := mapIndex l
    let moving := s.get (LLC_MAP i) LLC_MAP_STATE == 1 && s.get (LLC_MAP i) LLC_MAP_NODE == h
    if moving ∧ !t.released ∧ t.req.opcode ≠ opVictim then .all [
      modTx h l fun t => { t with rel := true, ready := false },
      send h { dest := s.get (LLC_MAP i) LLC_MAP_OLD, src := h, req := h, cls := clsREQ, opcode := opRel, line := l,
               txn := t.req.txn % 2048, world := t.req.world } ]
    else match (if needsEntry t.req then s.dirVictim h l else none) with
    | some (v, e) =>
      .seq (bump (DIR_EVICT_FORCED h))
        (if e.st = 0 then .all [
          (match s.slice h v with | some x => memWrite h v x.data x.poison | none => .skip),
          modDir h v fun e => { e with sdirty := false },
          modTx h l fun t => { t with ready := false }, goTx h l ]
         else .all [
          modTx h l fun t => { t with victim := some v, ready := false },
          openTx h (innerReq h v opVictim) true false, goTx h v ])
    | none => .all [modTx h l fun t => { t with ready := false }, goTx h l]

/-- Carry on with one transaction of a home whose wait for room, or for another's close, has ended. -/
def pumpOne (h : Nat) : Act := .read fun s =>
  match s.coh.tx.find? fun p => keyNode p.1 == h && p.2.ready with
  | some p => runTx h (keyLine p.1)
  | none => .skip
/-- Carry on with the transactions that are ready. -/
def pump (h : Nat) : Act := .read fun s => .each (s.coh.tx.filter fun p => keyNode p.1 == h) fun _ => pumpOne h
/-- A message has arrived at a home: go on with its line, then with whatever its close has made ready. -/
def arrived (h l : Nat) : Act := .all [progress h l, pumpOne h, pump h]

/-! ### Admission (R117–R119, R139) -/

/-- The tickets of a home. -/
def State.ticketsOf (s : State) (h : Nat) : List Ticket := Tab.getD s.coh.tickets h []
/-- Change the tickets of a home. -/
def modTickets (h : Nat) (f : List Ticket → List Ticket) : Act :=
  .seq (.coh fun c => { c with tickets := Tab.upd c.tickets h [] f }) (dirStat h)

/-- Refuse a request: NACK_Q and a ticket, or NACK when the requester has one at this home (R117). -/
def nack (h : Nat) (f : Flit) : Act := .read fun s => .seq (bump (DIR_NACK h))
  (if (s.ticketsOf h).any (·.req == f.req) then homeRsp h f opNack
   else .all [modTickets h (· ++ [{ req := f.req, line := f.line, flit := f, since := s.clk.time }]), homeRsp h f opNackQ])

/-- Accumulator slots in use at a home (R139). -/
def State.accSlots (s : State) (h : Nat) : Nat :=
  ((s.coh.tx.filter fun p => keyNode p.1 == h && p.2.acc).map fun p => 1 + p.2.chain.length).sum
/-- General slots in use at a home. -/
def State.genSlots (s : State) (h : Nat) : Nat :=
  (s.coh.tx.filter fun p => keyNode p.1 == h && !p.2.acc && !p.2.ticketed).length

/-- The second world check (R465, R466): FAULT, a UCR record with the requester in the syndrome, and Dobby fences a
requester tile (R551). -/
def denyHome (h : Nat) (f : Flit) : Act := .all [
  homeRsp h f opFault, bump SEL_DENY_HOME,
  rasLog { sev := 2, cls := cCheck, block := 0x100 + h, addr := some (f.line * 64), world := f.world, tenant := f.tenant,
           synd := f.req, fenceNode := tileOf f.req } ]

/-- A request reaches a home: a line that is not served here is answered FENCED, a dead agent and a failed check FAULT;
else it is admitted, chained or refused. -/
def enterHome (h : Nat) (f : Flit) : Act := .read fun s =>
  let l := f.line
  let i := mapIndex l
  let started := match Tab.find s.cache.mapMove i with | some m => m.started && !m.ending | none => false
  let serves := s.get (LLC_MAP i) LLC_MAP_NODE == h ||
    (s.get (LLC_MAP i) LLC_MAP_STATE == 1 && s.get (LLC_MAP i) LLC_MAP_OLD == h && !started)
  let granted := (s.ticketsOf h).any fun t => t.req == f.req && t.line == l && t.granted
  let queued := (s.ticketsOf h).any fun t => t.line == l
  let chains : Bool := match s.txOf h l with
    | some t => t.acc && t.req.hasData && decide (t.chain.length < 7)
    | none => false
  if !serves then homeRsp h f opFenced
  else if s.dead h f.req then homeRsp h f opFault
  else if (s.channelOf (l * 64)).isNone then homeRsp h f opFault
  else if !s.worldOk f.world (l * 64) then denyHome h f
  else if f.txn ≥ 2048 ∧ granted then .all [
    modTickets h (·.filter fun t => !(t.req == f.req && t.line == l)), openTx h f true false, runTx h l ]
  else if f.cls = clsBTN ∧ f.hasData ∧ chains ∧ s.accSlots h < 16 then
    modTx h l fun t => { t with chain := t.chain ++ [f] }
  else if s.busy h l || queued || (if f.cls = clsBTN then decide (16 ≤ s.accSlots h) else decide (64 ≤ s.genSlots h)) then
    nack h f
  else .all [openTx h f false false, runTx h l]

/-- A request of class REQ is carried out at home `h`. -/
def reqAt (h : Nat) (f : Flit) (op : Nat) : Act :=
  .all [takeInbox h f, enterHome h { f with cls := clsREQ, opcode := op }, pump h]

/-- RD_SHARED (Table 4.3). -/
def execRdShared (node : Nat) (f : Flit) (s : State) : Out := commit (reqAt node f opRdShared) s
/-- RD_UNIQUE. -/
def execRdUnique (node : Nat) (f : Flit) (s : State) : Out := commit (reqAt node f opRdUnique) s
/-- UPGRADE. -/
def execUpgrade (node : Nat) (f : Flit) (s : State) : Out := commit (reqAt node f opUpgrade) s
/-- RD_ONCE; an engine port's read that comes from memory also prefetches the next line (R90). -/
def execRdOnce (node : Nat) (f : Flit) (s : State) : Out :=
  let engine := decide (224 ≤ f.req) && (f.req == 250 || (decide (f.req < 248) && (f.req - 224) % 3 != 2))
  commit (.seq (reqAt node f opRdOnce)
    (.read fun t => match t.txOf node f.line with
      | some x => .when (x.mem && x.req == { f with cls := clsREQ, opcode := opRdOnce } && engine)
          (nextLine (reqNode f.req) f.line)
      | none => .skip)) s
/-- WR_FULL. -/
def execWrFull (node : Nat) (f : Flit) (s : State) : Out := commit (reqAt node f opWrFull) s
/-- WR_PART. -/
def execWrPart (node : Nat) (f : Flit) (s : State) : Out := commit (reqAt node f opWrPart) s
/-- CLAIM_ZERO. -/
def execClaimZero (node : Nat) (f : Flit) (s : State) : Out := commit (reqAt node f opClaimZero) s
/-- EVICT_DIRTY. -/
def execEvictDirty (node : Nat) (f : Flit) (s : State) : Out := commit (reqAt node f opEvictDirty) s
/-- EVICT_CLEAN. -/
def execEvictClean (node : Nat) (f : Flit) (s : State) : Out := commit (reqAt node f opEvictClean) s
/-- CLEAN. -/
def execClean (node : Nat) (f : Flit) (s : State) : Out := commit (reqAt node f opClean) s
/-- FLUSH. -/
def execFlush (node : Nat) (f : Flit) (s : State) : Out := commit (reqAt node f opFlush) s

/-- REL (R81 step 4, Table 4.5): the old home writes the line back, ends every copy and answers REL_DONE, after an open
transaction of the line and before any other request. -/
def execRel (node : Nat) (f : Flit) (s : State) : Out :=
  let g : Flit := { f with cls := clsREQ, opcode := opRel }
  commit (.all [takeInbox node f,
    (if s.busy node f.line then modTx node f.line fun t => { t with later := t.later ++ [g] }
     else .all [openTx node g true false, runTx node f.line]),
    pump node ]) s

/-- ACC (R139–R141): admitted or chained at the destination's home. -/
def execAcc (node : Nat) (f : Flit) (s : State) : Out :=
  commit (.all [takeInbox node f, enterHome node { f with cls := clsBTN, hasData := true }, pump node]) s
/-- ZERO (R139, R140). -/
def execZero (node : Nat) (f : Flit) (s : State) : Out :=
  commit (.all [takeInbox node f, enterHome node { f with cls := clsBTN, hasData := false, opcode := 0x01 }, pump node]) s
/-- RELEASE (R86, R139): the window mark of a line goes, after its open transaction; the line keeps its way with value 3. -/
def execRelease (node : Nat) (f : Flit) (s : State) : Out :=
  let g : Flit := { f with cls := clsBTN, hasData := false, opcode := 0x03 }
  commit (.seq (takeInbox node f)
    (if s.busy node f.line then modTx node f.line fun t => { t with later := t.later ++ [g] }
     else .all [modSlice node f.line fun x => { x with win := false, rrpv := if x.win then 3 else x.rrpv }, winLines node,
       send node (answerTo g clsBTN 0x02)])) s

/-- GRANT_ISSUE (R118): the oldest queued ticket whose line is neither busy nor reserved is granted. -/
def execGrantIssue (node : Nat) (s : State) : Out :=
  let ts := s.ticketsOf node
  commit (match ts.find? (fun t => !t.granted && !s.busy node t.line &&
      !ts.any fun u => u.granted && u.line == t.line) with
    | none => .skip
    | some t => .all [
        modTickets node (·.map fun u => if u == t then { u with granted := true, since := s.clk.time } else u),
        bump (DIR_GRANT node), homeRsp node t.flit opGrant ]) s

/-- GRANT_RETRY_TIMEOUT (R118): a grant whose retry has not arrived within HOME_TMO is dropped. -/
def execGrantRetryTimeout (node req : Nat) (s : State) : Out :=
  commit (match (s.ticketsOf node).find? (fun t => t.granted && t.req == req) with
    | none => .skip
    | some t => .all [
        advanceTo (t.since + s.get DIR_CFG DIR_CFG_HOME_TMO * 1000),
        modTickets node (·.filter (· != t)), bump (DIR_GRANT_DROP node) ]) s

/-! ### Answers at the home -/

/-- An answer to a snoop is awaited from a node; any other is discarded and counted (Table 4.5). -/
def snoopAnswer (h : Nat) (f : Flit) (k : Tx → Act) : Act := .seq (takeInbox h f) (.read fun s =>
  match s.txOf h f.line with
  | some t =>
    if t.waits.contains f.src then
      .all [modTx h f.line fun t => { t with waits := t.waits.erase f.src }, k t, arrived h f.line]
    else bump (DIR_LATE_RSP h)
  | none => bump (DIR_LATE_RSP h))

/-- Did the snoop of this answer go to the owner with a demand for data? -/
def State.fromOwner (s : State) (h : Nat) (f : Flit) (t : Tx) : Bool :=
  t.own != 0 && t.own != opInv && (s.dirEntry h f.line).owner == f.src

/-- SNP_ACK (R109): a snoop is done; forwarded data went to the requester. TXN[11] tells that the owner held it dirty. -/
def execSnpAck (node : Nat) (f : Flit) (s : State) : Out :=
  commit (snoopAnswer node f fun t => .read fun s =>
    if s.fromOwner node f t then modTx node f.line fun t => { t with fwd := true, ownerDirty := decide (2048 ≤ f.txn) }
    else .skip) s
/-- SNP_MISS (R109): the agent holds no copy. An owner that does not hold its line has lost it: the home poisons the line
and logs DE (Table 3.4). -/
def execSnpMiss (node : Nat) (f : Flit) (s : State) : Out :=
  commit (snoopAnswer node f fun t => .read fun s =>
    if s.fromOwner node f t then .all [
      modDir node f.line (·.dropOwner), poisonHome node f.line,
      rasLog { sev := 1, cls := cPoison, block := 0x100 + node, addr := some (f.line * 64), synd := f.src },
      .read fun s => modTx node f.line fun t => { t with
        data := (s.slice node f.line).map (·.data), poison := true } ]
    else .skip) s
/-- SNP_DATA (R109): data answering SNP_ONCE, SNP_CLEAN or SNP_FLUSH; dirty data is written into the slice. -/
def execSnpData (node : Nat) (f : Flit) (s : State) : Out :=
  commit (snoopAnswer node f fun t => .all [
    .when (decide (2048 ≤ f.txn) && t.own != opSnpOnce) (.all [
      fillSlice node f.line f.data f.poison 2 false, modDir node f.line fun e => { e with sdirty := true } ]),
    modTx node f.line fun t => { t with data := some f.data, poison := f.poison } ]) s

/-- COMP_ACK (R108): the requester holds the data, and the read closes. -/
def execCompAck (node : Nat) (f : Flit) (s : State) : Out :=
  commit (.seq (takeInbox node f) (match s.txOf node f.line with
    | some t => if t.ack && t.req.req == f.req then .all [closeTx node f.line, pump node] else bump (DIR_LATE_RSP node)
    | none => bump (DIR_LATE_RSP node))) s

/-- WB_DATA (R115): the write-back data goes into the slice and COMP answers. -/
def execWbData (node : Nat) (f : Flit) (s : State) : Out :=
  commit (.seq (takeInbox node f) (match s.txOf node f.line with
    | some t =>
      if t.wb && t.req.req == f.req then .all [
        modTx node f.line fun t => { t with wb := false, data := some f.data, poison := f.poison }, arrived node f.line]
      else bump (DIR_LATE_RSP node)
    | none => bump (DIR_LATE_RSP node))) s

/-- REL_DONE (R81): the old home has released the line; the new home serves it from memory. -/
def execRelDone (node : Nat) (f : Flit) (s : State) : Out :=
  commit (.all [takeInbox node f,
    modTx node f.line fun t => if t.rel then { t with rel := false, released := true, ready := true } else t,
    pump node ]) s

/-- A fenced controller's answers make the home log the channel (Table 2.4). -/
def fencedChannel (h : Nat) (f : Flit) : Act := .read fun s =>
  .when (s.responder f.src) (rasLog { sev := 2, cls := cTimeout, block := 0x200 + nodeChannel f.src, bank := some (0x100 + h),
                                      addr := some (f.line * 64) })

/-- MEM_DATA (R109, R74): a line read from memory fills the slice, and its tag returns. -/
def execMemData (node : Nat) (f : Flit) (s : State) : Out :=
  commit (.all [takeInbox node f, tagBack node, fencedChannel node f,
    match s.txOf node f.line with
    | some t =>
      if t.mem then .all [
        (if t.acc then fillBtn node f.line f.data f.poison (t.req.txn.testBit 10)
         else fillSlice node f.line f.data f.poison 2 false),
        modTx node f.line fun t => { t with mem := false, data := some f.data, poison := f.poison },
        arrived node f.line ]
      else .skip
    | none => .skip ]) s

/-- A controller's COMP or FAULT for a MEM_WR, or FAULT for a MEM_RD, at the home. A COMP that comes while the line is being
read answers the write of an earlier eviction. -/
def memAnswered (h : Nat) (f : Flit) : Act := .read fun s => .all [
  tagBack h, .when (f.opcode == opFault) (fencedChannel h f),
  match s.txOf h f.line with
  | some t => .all [
      modTx h f.line fun t => if t.memWr then { t with memWr := false }
        else if t.mem && f.opcode == opFault then { t with mem := false, poison := true, data := some 0 } else t,
      .when (t.mem || t.memWr) (arrived h f.line) ]
  | none => .skip ]

/-- Mark an agent dead at a home. -/
def markDead (h r : Nat) : Act := .read fun s =>
  .reg (DIR_DEAD h (r / 64)) (s.reg (DIR_DEAD h (r / 64)) ||| BitVec.ofNat 64 (2 ^ (r % 64)))

/-- An agent's answer did not come (R123): it is dead here; the only current copy it may have held is poisoned; it leaves
the entry; the record makes Dobby fence its node. -/
def agentDead (h l r : Nat) (couldHold : Bool) : Act := .all [
  markDead h r, bump (DIR_TMO h),
  modDir h l fun e => e.dropNode (reqNode r),
  .when couldHold (poisonHome h l),
  rasLog { sev := 2, cls := cTimeout, block := 0x100 + reqNode r, bank := some (0x100 + h), addr := some (l * 64), synd := r,
           fenceNode := some (reqNode r) } ]

/-- HOME_TIMEOUT (R122, R123): the waits of a transaction on other agents expire, and it completes without them. -/
def execHomeTimeout (node line : Nat) (s : State) : Out :=
  commit (match s.txOf node line with
    | none => .skip
    | some t =>
      let e := s.dirEntry node line
      if t.waits.isEmpty && !t.wb && !t.ack then .skip
      else .all [
        advanceTo (t.since + s.get DIR_CFG DIR_CFG_HOME_TMO * 1000),
        .each t.waits fun n => agentDead node line n ((e.st == 2 || e.st == 3) && e.owner == n),
        .when t.wb (agentDead node line t.req.req true),
        .when t.ack (agentDead node line t.req.req
          ((e.st == 2 || e.st == 3) && tileOf t.req.req == some e.owner)),
        .read fun s => modTx node line fun t => { t with
          waits := [], wb := false
          data := if t.waits.isEmpty && !t.wb then t.data else
            (match t.data with | some d => some d | none => (s.slice node line).map (·.data))
          poison := t.poison || (match s.slice node line with | some x => x.poison | none => false) },
        if t.ack then closeTx node line
        else if t.wb then .all [homeRsp node t.req opComp, closeTx node line] else progress node line,
        pump node ]) s

/-! ### Snooped tiles (R109, Table 4.5) -/

/-- What a snoop finds at a tile: the line's data, its poison, whether it is dirty, and whether it stands in the eviction
buffer. -/
def State.snooped (s : State) (n l : Nat) : Option (Line × Bool × Bool × Bool) :=
  match s.l2 n l with
  | some x => some (x.data, x.poison, x.st == .m || x.st == .o, false)
  | none => match Tab.find s.coh.evbuf (lineKey n l) with
    | some b => if b.stale then none else some (b.data, b.poison, b.dirty, true)
    | none => none

/-- The answer of a snooped tile to the home; TXN[11] carries the dirty bit. -/
def snoopRsp (n : Nat) (f : Flit) (op : Nat) (dirty : Bool) : Act :=
  send n { answerTo f clsRSP op with dest := f.src, txn := f.txn % 2048 + (if dirty then 2048 else 0) }
/-- Data of a snooped tile: to the requester, or to the home. -/
def snoopDat (n dest op : Nat) (f : Flit) (d : Line) (p dirty : Bool) : Act :=
  send n { answerTo f clsDAT op with dest := dest, data := d, poison := p, hasData := true,
                                      txn := f.txn % 2048 + (if dirty then 2048 else 0) }
/-- The tile gives its copy up; an eviction under way becomes stale. -/
def giveUp (n l : Nat) (buffered : Bool) : Act :=
  if buffered then .coh fun c => { c with evbuf := Tab.upd c.evbuf (lineKey n l) { data := 0 } fun b => { b with stale := true } }
  else dropL2 n l

/-- SNP_SHARED: forward data as S; M becomes O, E becomes S. -/
def execSnpShared (node : Nat) (f : Flit) (s : State) : Out :=
  commit (.seq (takeInbox node f) (match s.snooped node f.line with
    | none => snoopRsp node f opSnpMiss false
    | some (d, p, dirty, _) => .all [
        snoopDat node (reqNode f.req) opDataS f d p false,
        modL2 node f.line fun x => { x with st := if dirty then .o else .s },
        snoopRsp node f opSnpAck dirty ])) s
/-- SNP_UNIQUE: forward data and ownership; become I. -/
def execSnpUnique (node : Nat) (f : Flit) (s : State) : Out :=
  commit (.seq (takeInbox node f) (match s.snooped node f.line with
    | none => snoopRsp node f opSnpMiss false
    | some (d, p, dirty, b) => .all [
        snoopDat node (reqNode f.req) (if dirty then opDataM else opDataE) f d p false,
        giveUp node f.line b, snoopRsp node f opSnpAck dirty ])) s
/-- INV: become I; an EVICT_CLEAN in flight answers SNP_MISS. -/
def execInv (node : Nat) (f : Flit) (s : State) : Out :=
  commit (.seq (takeInbox node f) (match s.snooped node f.line with
    | some (_, _, dirty, b) =>
      if b ∧ !dirty then snoopRsp node f opSnpMiss false
      else .all [giveUp node f.line b, snoopRsp node f opSnpAck false]
    | none => snoopRsp node f opSnpMiss false)) s
/-- SNP_ONCE: a copy of the data to the home; the state is unchanged. -/
def execSnpOnce (node : Nat) (f : Flit) (s : State) : Out :=
  commit (.seq (takeInbox node f) (match s.snooped node f.line with
    | none => snoopRsp node f opSnpMiss false
    | some (d, p, dirty, _) => snoopDat node f.src opSnpData f d p dirty)) s
/-- SNP_CLEAN: dirty data to the home; M becomes E, O becomes S. -/
def execSnpClean (node : Nat) (f : Flit) (s : State) : Out :=
  commit (.seq (takeInbox node f) (match s.snooped node f.line with
    | none => snoopRsp node f opSnpMiss false
    | some (d, p, dirty, _) => .all [
        snoopDat node f.src opSnpData f d p dirty,
        modL2 node f.line fun x => { x with st := match x.st with | .m => .e | .o => .s | y => y } ])) s
/-- SNP_FLUSH: the data to the home, dirty or clean; become I. -/
def execSnpFlush (node : Nat) (f : Flit) (s : State) : Out :=
  commit (.seq (takeInbox node f) (match s.snooped node f.line with
    | none => snoopRsp node f opSnpMiss false
    | some (d, p, dirty, b) => .all [snoopDat node f.src opSnpData f d p dirty, giveUp node f.line b])) s

/-! ### Map moves (R81) -/

/-- The 228 requesters that hold a copy of the map. -/
def requesters : List Nat := tileNodes ++ (List.range 28).map (224 + ·)

/-- Distribute a new value of a map entry: every requester still holds `old` until its update flit reaches it. -/
def distribute (i : Nat) (old : W64) (ending : Bool) : Act := .cache fun c =>
  { c with mapMove := Tab.put c.mapMove i { old := old, waiting := requesters, acks := 0, started := ending, ending := ending } }

/-- Step 1 of R81: entry `i` moves to slice `b`. -/
def moveEntry (i b : Nat) : Act := .read fun s =>
  let a := s.get (LLC_MAP i) LLC_MAP_NODE
  .all [
    distribute i (s.reg (LLC_MAP i)) false,
    setFs (LLC_MAP i) [(LLC_MAP_NODE, b), (LLC_MAP_OLD, a), (LLC_MAP_STATE, 1)],
    setF (LLC_STAT a) LLC_STAT_MAP_ENTRIES (s.get (LLC_STAT a) LLC_STAT_MAP_ENTRIES - 1),
    .read fun s => setF (LLC_STAT b) LLC_STAT_MAP_ENTRIES (s.get (LLC_STAT b) LLC_STAT_MAP_ENTRIES + 1) ]

/-- The slices that may take map entries (R80): their tiles are in Run or Park. -/
def State.slices (s : State) : List Nat := tileNodes.filter fun n => s.tstate n ≤ tsPark
/-- Map entries that a slice holds. -/
def State.mapCount (s : State) (n : Nat) : Nat := s.get (LLC_STAT n) LLC_STAT_MAP_ENTRIES
/-- The map entries that name slice `n` and are not being moved. -/
def State.entriesOf (s : State) (n : Nat) : List Nat :=
  (List.range 4096).filter fun i => s.get (LLC_MAP i) LLC_MAP_NODE == n && (Tab.find s.cache.mapMove i).isNone
/-- The slice with the fewest entries, the lowest node ID among equals, other than `n` (Table 3.3). -/
def State.fewest (s : State) (n : Nat) : Option Nat :=
  (s.slices.filter (· != n)).foldl (fun b k => match b with
    | none => some k
    | some j => if s.mapCount k < s.mapCount j then some k else some j) none
/-- Move an entry away from the drained slice `n`. -/
def moveAway (n i : Nat) : Act := .read fun s => match s.fewest n with
  | some b => moveEntry i b
  | none => .skip
/-- Move every entry of a drained slice: to the given slice, else one at a time to the slice with the fewest. -/
def moveAll (n : Nat) (target : Option Nat) : Act := .read fun s => .each (s.entriesOf n) fun i =>
  match target with
  | some b => moveEntry i b
  | none => moveAway n i
/-- Move entries to the restored slice `n`, one at a time from the slice with the most, until no other slice holds more
than one entry more (Table 3.3). -/
def fillSlices (n : Nat) : Nat → Act
  | 0 => .skip
  | k + 1 => .read fun s =>
    let most := (s.slices.filter (· != n)).foldl (fun b j => match b with
      | none => some j
      | some m => if s.mapCount m < s.mapCount j then some j else some m) none
    match most with
    | none => .skip
    | some a =>
      let l := s.entriesOf a
      if s.mapCount a ≤ s.mapCount n + 1 ∨ l.isEmpty then .skip
      else withFree fun x => .seq (moveEntry (l.getD (Config.movePick x % l.length) 0) n) (fillSlices n k)

/-- MAP_UPDATE_FLIT: the update of entry `entry` reaches requester `req`, which takes it over and acknowledges. -/
def execMapUpdateFlit (req entry : Nat) (s : State) : Out :=
  commit (.cache fun c => match Tab.find c.mapMove entry with
    | some m => if m.waiting.contains req then
        { c with mapMove := Tab.put c.mapMove entry { m with waiting := m.waiting.erase req, acks := m.acks + 1 } } else c
    | none => c) s

/-- The lines of a map entry that a slice still holds, window lines of R83 apart. -/
def State.entryLines (s : State) (a i : Nat) : List Nat :=
  let mine := fun (k : Nat) => keyNode k == a && mapIndex (keyLine k) == i
  (((s.cache.slice.filter fun p => mine p.1 && !p.2.win).map fun p => keyLine p.1) ++
    ((s.coh.dir.filter fun p => mine p.1 && !(match s.slice a (keyLine p.1) with | some x => x.win | none => false)).map
      fun p => keyLine p.1)).eraseDups

/-- MAP_UPDATE_ACKED: every requester has acknowledged. The old slice starts to answer FENCED and walks its sets; after
the last distribution the move is over. -/
def execMapUpdateAcked (entry : Nat) (s : State) : Out :=
  commit (match Tab.find s.cache.mapMove entry with
    | none => .skip
    | some m =>
      let a := LLC_MAP_NODE.get m.old
      if !m.waiting.isEmpty then .skip
      else if m.ending then .seq (.cache fun c => { c with mapMove := Tab.drop c.mapMove entry })
        (.when (s.tstate (s.get (LLC_MAP entry) LLC_MAP_NODE) == tsDrain) (moveAway (s.get (LLC_MAP entry) LLC_MAP_NODE) entry))
      else if m.started then .skip
      else .all [
        .cache fun c => { c with mapMove := Tab.put c.mapMove entry { m with started := true, walking := true } },
        setF (LLC_STAT a) LLC_STAT_MOVING (s.get (LLC_STAT a) LLC_STAT_MOVING + 1),
        .each ((s.entryLines a entry).filter fun l => !s.busy a l) fun l => openTx a (innerReq a l opWalk) true true,
        pump a ]) s

/-- MAP_WALK_END: the walk has ended, no line of the entry and no release being open; Dobby writes the entry stable and
distributes it. -/
def execMapWalkEnd (entry : Nat) (s : State) : Out :=
  commit (match Tab.find s.cache.mapMove entry with
    | none => .skip
    | some m =>
      let a := LLC_MAP_NODE.get m.old
      let held := s.cache.slice.any fun p => keyNode p.1 == a && mapIndex (keyLine p.1) == entry
      let openRel := s.coh.tx.any fun p => mapIndex (keyLine p.1) == entry && (keyNode p.1 == a || p.2.rel)
      if !m.walking ∨ held ∨ openRel ∨ !(s.entryLines a entry).isEmpty then .skip
      else .all [
        setF (LLC_STAT a) LLC_STAT_MOVING (s.get (LLC_STAT a) LLC_STAT_MOVING - 1),
        distribute entry (s.reg (LLC_MAP entry)) true,
        setFs (LLC_MAP entry) [(LLC_MAP_STATE, 0), (LLC_MAP_OLD, 0)] ]) s

end Sys2Proof.Machine
end

