-- ==== Sys2Proof/Machine/Hart.lean ====
section
/-! DEFINITION. The harts (chapters 12 and 13): registers, CSRs with their two world copies (R475), interrupts, traps and
returns. What the RISC-V specifications named by R349 lay down for a CSR or a trap is taken from them (log entry 13). -/

namespace Sys2Proof.Machine

/-- Hart `h`. -/
def State.hart (s : State) (h : Nat) : Hart := Tab.getD s.core.hart h {}
/-- Change hart `h`. -/
def modHart (h : Nat) (f : Hart → Hart) : Act := .core fun c => { c with hart := Tab.upd c.hart h {} f }
/-- The node of hart `h`. -/
def State.nodeOf (s : State) (h : Nat) : Nat := (s.hartNode h).getD 0
/-- The profile's core clock of node `n` in 0.1 GHz (Tables 1.15 and 17.9). -/
def State.profClock (s : State) (n : Nat) : Nat := match s.nodeHart n with
  | some h => Tab.getD s.pwr.profClk h s.pwr.profFreq
  | none => s.pwr.profFreq
/-- The core clock of node `n` in 0.1 GHz: the profile's, unless a limit has lowered it. -/
def State.coreFreq (s : State) (n : Nat) : Nat := Tab.getD s.pwr.coreClk n (s.profClock n)
/-- The debug state of hart `h`. -/
def State.hdbg (s : State) (h : Nat) : HartDbg := Tab.getD s.dbg.hart h {}
/-- Change the debug state of hart `h`. -/
def modHdbg (h : Nat) (f : HartDbg → HartDbg) : Act := .dbg fun d => { d with hart := Tab.upd d.hart h {} f }

/-- An integer register; x0 reads 0. -/
def Hart.rx (t : Hart) (r : Nat) : W64 := if r % 32 = 0 then 0 else Tab.getD t.x (r % 32) 0
/-- Write an integer register; x0 discards the write. -/
def Hart.wx (t : Hart) (r : Nat) (v : W64) : Hart := if r % 32 = 0 then t else { t with x := Tab.put t.x (r % 32) v }
/-- An FP register. -/
def Hart.rf (t : Hart) (r : Nat) : W64 := Tab.getD t.f (r % 32) 0
/-- Write an FP register. -/
def Hart.wf (t : Hart) (r : Nat) (v : W64) : Hart := { t with f := Tab.put t.f (r % 32) v }
/-- A vector register. -/
def Hart.rv (t : Hart) (r : Nat) : BitVec 256 := Tab.getD t.v (r % 32) 0
/-- Write a vector register. -/
def Hart.wv (t : Hart) (r : Nat) (v : BitVec 256) : Hart := { t with v := Tab.put t.v (r % 32) v }

/-! ### CSRs -/

/-- The CSRs that both worlds share (R475). -/
def csrShared (n : Nat) : Bool :=
  [0x001, 0x002, 0x003, 0x008, 0x009, 0x00A, 0x00F, 0xC20, 0xC21, 0xC22, 0xB00, 0xB02, 0xC00, 0xC01, 0xC02, 0x320,
   0x7C0, 0x7C1, 0x7C2, 0x7C3, 0x5C1].contains n || decide (0x7A0 ≤ n ∧ n ≤ 0x7B3)
/-- The key of a CSR in a world's copy. -/
def csrKey (w : Bool) (n : Nat) : Nat := if csrShared n then n else if w then n + 4096 else n + 8192
/-- Values at reset: mstatus with SXL = UXL = 2, vsstatus and hstatus with their XL fields 2, vtype with vill = 1. -/
def csrInit (n : Nat) : W64 :=
  if n = 0x300 then 0xA00000000 else if n = 0x200 ∨ n = 0x600 then 0x200000000
  else if n = 0xC21 then 0x8000000000000000 else 0
/-- A CSR as it is stored in the copy of world `w`. -/
def Hart.cIn (t : Hart) (w : Bool) (n : Nat) : W64 := Tab.getD t.csr (csrKey w n) (csrInit n)
/-- A CSR as it is stored in the running world's copy. -/
def Hart.c (t : Hart) (n : Nat) : W64 := t.cIn t.world n
/-- Store a CSR in the copy of world `w`. -/
def Hart.setIn (t : Hart) (w : Bool) (n : Nat) (v : W64) : Hart := { t with csr := Tab.put t.csr (csrKey w n) v }
/-- Store a CSR in the running world's copy. -/
def Hart.set (t : Hart) (n : Nat) (v : W64) : Hart := t.setIn t.world n v
/-- Bits `hi` downto `lo` of a CSR. -/
def Hart.cf (t : Hart) (n hi lo : Nat) : Nat := (t.c n).toNat / 2 ^ lo % 2 ^ (hi + 1 - lo)
/-- A field of `width` bits at `lo` of a word takes a value. -/
def putBits (w : W64) (lo width v : Nat) : W64 :=
  let m : W64 := BitVec.ofNat 64 ((2 ^ width - 1) * 2 ^ lo)
  (w &&& ~~~ m) ||| (BitVec.ofNat 64 (v * 2 ^ lo) &&& m)
/-- Fields (position, width, value) of a CSR take values. -/
def Hart.setC (t : Hart) (n : Nat) (l : List (Nat × Nat × Nat)) : Hart :=
  t.set n (l.foldl (fun w p => putBits w p.1 p.2.1 p.2.2) (t.c n))

/-- Is the FP unit off (mstatus.FS, and vsstatus.FS when V = 1)? -/
def Hart.fsOff (t : Hart) : Bool := t.cf 0x300 14 13 == 0 || (t.virt && t.cf 0x200 14 13 == 0)
/-- Is the vector unit off? -/
def Hart.vsOff (t : Hart) : Bool := t.cf 0x300 10 9 == 0 || (t.virt && t.cf 0x200 10 9 == 0)
/-- FS becomes Dirty. -/
def Hart.fsDirty (t : Hart) : Hart :=
  let a := t.setC 0x300 [(13, 2, 3)]
  if t.virt then a.setC 0x200 [(13, 2, 3)] else a
/-- VS becomes Dirty. -/
def Hart.vsDirty (t : Hart) : Hart :=
  let a := t.setC 0x300 [(9, 2, 3)]
  if t.virt then a.setC 0x200 [(9, 2, 3)] else a
/-- Is the hart in deterministic mode (R343)? -/
def Hart.det (t : Hart) : Bool := (t.c 0x7C0).getLsbD 0
/-- The base of the scratchpad. -/
def Hart.tcmBase (t : Hart) : Nat := t.cf 0x7C0 47 16 * 2 ^ 16
/-- Does a physical address lie in the scratchpad (R343 rule 4)? -/
def Hart.inTcm (t : Hart) (pa : Nat) : Bool := t.det && decide (t.tcmBase ≤ pa) && decide (pa < t.tcmBase + 65536)

/-- The interrupts that stand at hart `h` (Table 16.5, R434): mip. M-mode's software bits are in 0x344, those of the
hypervisor in hvip. Files 1 to 8 belong to the normal world. -/
def State.mip (s : State) (h : Nat) : Nat :=
  let t := s.hart h
  let n := s.nodeOf h
  let i := fun f => s.tileIrq n f
  let g := fun k => !t.world && (i (k + 1)).eip
  let sw := t.c 0x344
  let hv := t.c 0x645
  let vg := t.cf 0x600 17 12
  let b := fun (c : Bool) (k : Nat) => if c then 2 ^ k else 0
  b (sw.getLsbD 1) 1 + b (hv.getLsbD 2) 2 + b ((i 0).msip || (i 9).msip) 3 +
    b (sw.getLsbD 5 || (!t.world && (i 1).tip)) 5 + b (hv.getLsbD 6) 6 + b ((i 0).tip || (i 9).tip) 7 +
    b (sw.getLsbD 9 || (!t.world && (i 1).eip)) 9 +
    b (hv.getLsbD 10 || (decide (1 ≤ vg) && decide (vg ≤ 7) && g vg)) 10 +
    b ((i 0).eip || (i 9).eip) 11 +
    b ((List.range 8).any fun k => decide (1 ≤ k) && (t.c 0x607).getLsbD k && g k) 12
/-- hgeip. -/
def State.hgeip (s : State) (h : Nat) : Nat :=
  ((List.range 8).map fun k => if 1 ≤ k ∧ !(s.hart h).world ∧ (s.tileIrq (s.nodeOf h) (k + 1)).eip then 2 ^ k else 0).sum

/-- The writable bits of a CSR (PRESUMED: privileged 1.12 and H 1.0). -/
def csrMask (n : Nat) : W64 :=
  match n with
  | 0x001 => 0x1F | 0x002 => 0x7 | 0x003 => 0xFF | 0x008 => 0xFF | 0x009 => 1 | 0x00A => 3 | 0x00F => 7
  | 0x300 => 0xC0007E79AA | 0x200 => 0xC6722 | 0x100 => 0xC6722
  | 0x302 => 0x1F0B3FF | 0x602 => 0x100B1FF | 0x303 => 0x222 | 0x603 => 0x444 | 0x304 => 0x1EEE | 0x344 => 0x222
  | 0x305 => 0xFFFFFFFFFFFFFFFD | 0x105 => 0xFFFFFFFFFFFFFFFD | 0x205 => 0xFFFFFFFFFFFFFFFD
  | 0x341 => 0xFFFFFFFFFFFFFFFE | 0x141 => 0xFFFFFFFFFFFFFFFE | 0x241 => 0xFFFFFFFFFFFFFFFE
  | 0x306 => 0x7 | 0x106 => 0x7 | 0x606 => 0x7 | 0x320 => 0x5
  | 0x30A => 0xF1 | 0x10A => 0xF1 | 0x60A => 0xF1
  | 0x600 => 0x73F3C0 | 0x607 => 0xFE | 0x645 => 0x444
  | 0x34A => 0 | 0x64A => 0
  | 0x3A0 => 0x9F9F9F9F9F9F9F9F | 0x3A2 => 0x9F9F9F9F9F9F9F9F
  | 0x7C0 => 0xFFFFFFFF0001 | 0x8C0 => 0x1F3F
  | _ => if 0x3B0 ≤ n ∧ n ≤ 0x3BF then 0x3FFFFFFFFFFFFF else 0xFFFFFFFFFFFFFFFF

/-- CSRs that are stored whole and written under `csrMask`. -/
def csrPlain : List Nat :=
  [0x008, 0x009, 0x00A, 0x105, 0x106, 0x10A, 0x140, 0x141, 0x142, 0x143, 0x205, 0x240, 0x241, 0x242, 0x243, 0x302, 0x305,
   0x306, 0x30A, 0x320, 0x340, 0x341, 0x342, 0x343, 0x34A, 0x34B, 0x602, 0x605, 0x606, 0x607, 0x60A, 0x643, 0x645, 0x64A,
   0x3A0, 0x3A2, 0x7B2, 0x7B3, 0xB02]
/-- CSRs that exist with a reading of their own. -/
def csrOther (n : Nat) : Bool :=
  [0x001, 0x002, 0x003, 0x00F, 0x100, 0x104, 0x144, 0x180, 0x200, 0x204, 0x244, 0x280, 0x300, 0x301, 0x303, 0x304, 0x344,
   0x5C0, 0x5C1, 0x600, 0x603, 0x604, 0x644, 0x680, 0x7A0, 0x7A1, 0x7A2, 0x7A3, 0x7A4, 0x7B0, 0x7B1, 0x7C0, 0x7C1, 0x7C2,
   0x7C3, 0x8C0, 0xB00, 0xC00, 0xC01, 0xC02, 0xC20, 0xC21, 0xC22, 0xE12, 0xF11, 0xF12, 0xF13, 0xF14, 0xF15].contains n ||
  decide (0x3B0 ≤ n ∧ n ≤ 0x3EF) || [0x3A4, 0x3A6, 0x3A8, 0x3AA, 0x3AC, 0x3AE].contains n ||
  decide (0xB03 ≤ n ∧ n ≤ 0xB1F) || decide (0xC03 ≤ n ∧ n ≤ 0xC1F) || decide (0x323 ≤ n ∧ n ≤ 0x33F)

/-- The number that a supervisor CSR number means with V = 1: the VS copy (H 1.0). -/
def vsNumber (t : Hart) (n : Nat) : Nat :=
  if t.virt && [0x100, 0x104, 0x105, 0x140, 0x141, 0x142, 0x143, 0x144, 0x180].contains n then n + 0x100 else n

/-- May the hart access a CSR: `none`, or the exception (2 illegal instruction, 22 virtual instruction) that it takes
(privileged 1.12, H 1.0, Table 13.7)? -/
def Hart.csrFault (t : Hart) (n : Nat) (write debug : Bool) : Option Nat :=
  let need := n / 256 % 4
  let ill := some 2
  let cnt := fun (m : Nat) => (t.c m).getLsbD (n % 32)
  if !(csrPlain.contains n || csrOther n) then ill
  else if write && n / 1024 == 3 then ill
  else if 0x7B0 ≤ n ∧ n ≤ 0x7B3 then (if debug then none else ill)
  else if n = 0x8C0 then (if t.fsOff then ill else none)
  else if n = 0x5C0 ∨ n = 0x5C1 then
    (if t.virt then some 22 else if t.priv = 0 then ill else none)
  else if need = 3 then (if t.priv = 3 then none else ill)
  else if need = 2 then (if t.virt then some 22 else if 1 ≤ t.priv then none else ill)
  else if need = 1 then
    if t.priv = 0 then (if t.virt then some 22 else ill)
    else if n = 0x180 ∧ t.virt ∧ t.cf 0x600 20 20 = 1 then some 22
    else if n = 0x180 ∧ !t.virt ∧ t.priv = 1 ∧ t.cf 0x300 20 20 = 1 then ill
    else none
  else if n = 0x001 ∨ n = 0x002 ∨ n = 0x003 then (if t.fsOff then ill else none)
  else if [0x008, 0x009, 0x00A, 0x00F, 0xC20, 0xC21, 0xC22].contains n then (if t.vsOff then ill else none)
  else if 0xC00 ≤ n ∧ n ≤ 0xC1F ∧ t.priv < 3 then
    if !cnt 0x306 then ill
    else if t.virt && !cnt 0x606 then some 22
    else if t.priv = 0 && !cnt 0x106 then (if t.virt then some 22 else ill)
    else none
  else none

/-- SD is 1 while FS or VS is Dirty. -/
def withSd (w : W64) : W64 :=
  if w.toNat / 2 ^ 13 % 4 = 3 ∨ w.toNat / 2 ^ 9 % 4 = 3 then w ||| 0x8000000000000000 else w
/-- mideleg with its hard-wired ones (H 1.0). -/
def Hart.mideleg (t : Hart) : W64 := t.c 0x303 ||| 0x1444
/-- hideleg moved to the supervisor's bit positions: VSSI, VSTI and VSEI as SSI, STI and SEI. -/
def vsBits (w : W64) : W64 := (w &&& 0x444) >>> 1

/-- What a read of CSR `n` returns; `free` is the free value of a cycle count. -/
def State.csrRead (s : State) (h n : Nat) (free : Nat) : W64 :=
  let t := s.hart h
  let mip := BitVec.ofNat 64 (s.mip h)
  match n with
  | 0x001 => t.c 0x003 &&& 0x1F
  | 0x002 => (t.c 0x003 >>> 5) &&& 7
  | 0x003 => t.c 0x003
  | 0x00F => t.c 0x009 ||| (t.c 0x00A <<< 1)
  | 0x300 => withSd (t.c 0x300)
  | 0x100 => withSd (t.c 0x300 &&& 0x3000C6722)
  | 0x200 => withSd (t.c 0x200)
  | 0x301 => 0x8000000000B411AD
  | 0x303 => t.mideleg
  | 0x304 => t.c 0x304
  | 0x344 => mip
  | 0x104 => t.c 0x304 &&& t.mideleg &&& 0x222
  | 0x144 => mip &&& t.mideleg &&& 0x222
  | 0x604 => t.c 0x304 &&& 0x1444
  | 0x644 => mip &&& 0x1444
  | 0x603 => t.c 0x603
  | 0x204 => vsBits (t.c 0x304 &&& t.c 0x603)
  | 0x244 => vsBits (mip &&& t.c 0x603)
  | 0x180 | 0x280 | 0x680 | 0x600 | 0x8C0 | 0x7C0 => t.c n
  | 0x5C0 | 0x5C1 => 0
  | 0x7C1 => if t.world then 1 else 0
  | 0x7C2 | 0x7C3 => if t.world then t.c n else 0
  | 0x7A0 => t.c 0x7A0
  | 0x7A1 => BitVec.ofNat 64 ((((s.hdbg h).trig)[(t.c 0x7A0).toNat]?).getD {}).tdata1
  | 0x7A2 => BitVec.ofNat 64 ((((s.hdbg h).trig)[(t.c 0x7A0).toNat]?).getD {}).tdata2
  | 0x7A3 => BitVec.ofNat 64 ((((s.hdbg h).trig)[(t.c 0x7A0).toNat]?).getD {}).tdata3
  | 0x7A4 => if (t.c 0x7A0).toNat < 4 then 0x40 else if t.c 0x7A0 = 4 then 0x8 else 0x20
  | 0x7B0 => BitVec.ofNat 64 (s.hdbg h).dcsr
  | 0x7B1 => BitVec.ofNat 64 (s.hdbg h).dpc
  | 0xB00 | 0xC00 => Config.coreCycles free
  | 0xC01 => BitVec.ofNat 64 s.clk.time + (if t.virt then t.c 0x605 else 0)
  | 0xC02 => t.c 0xB02
  | 0xC20 => t.c 0xC20
  | 0xC21 => t.c 0xC21
  | 0xC22 => 32
  | 0xE12 => BitVec.ofNat 64 (s.hgeip h)
  | 0xF11 => 0
  | 0xF12 => 0x8000000000000192
  | 0xF13 => BitVec.ofNat 64 s.fuses.step
  | 0xF14 => BitVec.ofNat 64 h
  | 0xF15 => 0
  | _ => if 0x3B0 ≤ n ∧ n ≤ 0x3BF then t.c n else if csrPlain.contains n then t.c n else 0

/-- WARL: CBIE of an envcfg holds 0b00 or 0b01 only (R96). -/
def envcfg (v : W64) : W64 := if v.getLsbD 5 then (v &&& ~~~ 0x20) ||| 0x10 else v
/-- WARL: a pmpcfg byte; NA4 is stored as OFF (Table 13.3), the reserved W without R is not stored, a locked byte stays. -/
def pmpByte (old v : Nat) : Nat :=
  if old.testBit 7 then old
  else
    let a := if v / 8 % 4 = 2 then v - 16 else v
    if a.testBit 1 && !a.testBit 0 then a - 2 else a
/-- The eight bytes of a pmpcfg register. -/
def pmpCfg (old v : W64) : W64 :=
  BitVec.ofNat 64 (leNat ((List.range 8).map fun k =>
    BitVec.ofNat 8 (pmpByte (old.toNat / 2 ^ (8 * k) % 256) (v.toNat / 2 ^ (8 * k) % 256 &&& 0x9F))))
/-- Configuration byte of PMP entry `k`. -/
def Hart.pmpcfg (t : Hart) (k : Nat) : Nat := t.cf (0x3A0 + k / 8 * 2) (k % 8 * 8 + 7) (k % 8 * 8)
/-- Is pmpaddr `k` locked, by its own entry or by a locked TOR entry above it? -/
def Hart.pmpLocked (t : Hart) (k : Nat) : Bool :=
  (t.pmpcfg k).testBit 7 || (decide (k < 15) && (t.pmpcfg (k + 1)).testBit 7 && t.pmpcfg (k + 1) / 8 % 4 == 1)

/-- A write of CSR `n`, apart from the effects on other parts of the core. -/
def Hart.csrStore (t : Hart) (n : Nat) (v : W64) : Hart :=
  let m := fun (k : Nat) => (t.c k &&& ~~~ csrMask k) ||| (v &&& csrMask k)
  match n with
  | 0x001 => (t.set 0x003 ((t.c 0x003 &&& 0xE0) ||| (v &&& 0x1F))).fsDirty
  | 0x002 => (t.set 0x003 ((t.c 0x003 &&& 0x1F) ||| ((v &&& 7) <<< 5))).fsDirty
  | 0x003 => (t.set 0x003 (v &&& 0xFF)).fsDirty
  | 0x00F => ((t.set 0x009 (v &&& 1)).set 0x00A ((v >>> 1) &&& 3)).vsDirty
  | 0x008 | 0x009 | 0x00A => (t.set n (m n)).vsDirty
  | 0x300 =>
    let w := m 0x300
    t.set 0x300 (if w.toNat / 2 ^ 11 % 4 = 2 then putBits w 11 2 (t.cf 0x300 12 11) else w)
  | 0x100 => t.set 0x300 ((t.c 0x300 &&& ~~~ csrMask 0x100) ||| (v &&& csrMask 0x100))
  | 0x200 | 0x303 | 0x304 | 0x344 | 0x600 | 0x603 => t.set n (m n)
  | 0x104 =>
    let k := t.mideleg &&& 0x222
    t.set 0x304 ((t.c 0x304 &&& ~~~ k) ||| (v &&& k))
  | 0x144 =>
    let k := t.mideleg &&& 0x2
    t.set 0x344 ((t.c 0x344 &&& ~~~ k) ||| (v &&& k))
  | 0x604 => t.set 0x304 ((t.c 0x304 &&& ~~~ 0x1444) ||| (v &&& 0x1444))
  | 0x644 => t.set 0x645 ((t.c 0x645 &&& ~~~ 0x4) ||| (v &&& 0x4))
  | 0x204 =>
    let k := t.c 0x603 &&& 0x444
    t.set 0x304 ((t.c 0x304 &&& ~~~ k) ||| ((v <<< 1) &&& k))
  | 0x244 =>
    let k := t.c 0x603 &&& 0x4
    t.set 0x645 ((t.c 0x645 &&& ~~~ k) ||| ((v <<< 1) &&& k))
  | 0x180 | 0x280 => if [0, 9, 10].contains (v.toNat / 2 ^ 60) then t.set n v else t
  | 0x680 => if [0, 9, 10].contains (v.toNat / 2 ^ 60) then t.set n (v &&& 0xF3FFFFFFFFFFFFFC) else t
  | 0x30A | 0x10A | 0x60A => t.set n (envcfg (m n))
  | 0x3A0 | 0x3A2 => t.set n (pmpCfg (t.c n) v)
  | 0x5C0 => t.set n v
  | 0x7A0 => t.set n (if v.toNat < 6 then v else t.c n)
  | 0x7C2 | 0x7C3 =>
    if !t.world then t
    else
      let old := t.c n
      let w := if old.getLsbD 63 then old
        else putBits (v &&& 0xFFFFFFFFF000) 0 4 (min (v.toNat % 16) 10)
      t.set n (w ||| (v &&& 0x8000000000000000))
  | 0x8C0 => (t.set n (m n)).fsDirty
  | _ =>
    if 0x3B0 ≤ n ∧ n ≤ 0x3BF then (if t.pmpLocked (n - 0x3B0) then t else t.set n (m n))
    else if csrPlain.contains n then t.set n (m n)
    else t

/-! ### The predictor (R337–R341) -/

/-- The context tag (R339). -/
def Hart.bpTag (t : Hart) : Nat :=
  let vmid := if t.cf 0x680 63 60 = 0 then 0 else t.cf 0x680 57 44
  let asid := if t.virt then t.cf 0x280 59 44 else t.cf 0x180 59 44
  let x := (t.c 0x5C0).toNat ^^^ (vmid * 2 ^ 40 % 2 ^ 64) ^^^ (asid * 2 ^ 16) ^^^ (if t.virt then 8 else 0) ^^^ t.priv
  let k := fun i => x / 2 ^ i % 4096
  k 0 ^^^ k 12 ^^^ k 24 ^^^ k 36 ^^^ k 48 ^^^ (x / 2 ^ 60 % 16)
/-- The tag formed again. -/
def Hart.retag (t : Hart) : Hart := { t with pred := { t.pred with tag := t.bpTag } }
/-- Clear every structure of Table 12.6 (R341). -/
def bpClear (h : Nat) : Act := .read fun s => .all [
  modHart h fun t => { t with pred := { tag := t.pred.tag } }, bump (CORE_BP_FLUSH (s.nodeOf h)) ]

/-! ### Traps (R342, R353, R354) -/

/-- A trap: its cause, whether it is an interrupt, the trap value, for a guest-page fault the guest physical address shifted
right by 2, and for a fault of a walk the PTEs it has read and the PTE that it could not read. -/
structure Trap where
  cause : Nat
  intr : Bool := false
  tval : Nat := 0
  gpa : Nat := 0
  reads : Nat := 0
  pte : Option Nat := none
  deriving DecidableEq, Repr

/-- The mode that takes a trap: 3 M, 1 HS, 0 VS (privileged 1.12, H 1.0). -/
def Hart.trapMode (t : Hart) (e : Trap) : Nat :=
  let m := if e.intr then t.mideleg else t.c 0x302
  let d := if e.intr then t.c 0x603 else t.c 0x602
  if t.priv = 3 ∨ !m.getLsbD e.cause then 3
  else if t.virt && d.getLsbD e.cause then 0
  else 1

/-- Where a trap handler begins: the base of xtvec, or for an interrupt in vectored mode the base + 4 × cause. -/
def tvecTarget (v : W64) (e : Trap) (code : Nat) : Nat :=
  let base := v.toNat / 4 * 4
  if e.intr ∧ v.toNat % 4 = 1 then base + 4 * code else base

/-- The hart after it has taken a trap at `pc`. -/
def Hart.trapped (t : Hart) (e : Trap) (pc : Nat) : Hart :=
  let p := BitVec.ofNat 64 pc
  let val := BitVec.ofNat 64 e.tval
  let bit := fun (b : Bool) => if b then 1 else 0
  let isGva := t.virt && !e.intr && [0, 1, 3, 4, 5, 6, 7, 12, 13, 15, 20, 21, 23].contains e.cause
  let code := fun (k : Nat) => BitVec.ofNat 64 (k + if e.intr then 2 ^ 63 else 0)
  let u := match t.trapMode e with
    | 3 =>
      let a := ((((t.set 0x341 p).set 0x342 (code e.cause)).set 0x343 val).set 0x34B (BitVec.ofNat 64 e.gpa)).set 0x34A 0
      { a.setC 0x300 [(7, 1, t.cf 0x300 3 3), (3, 1, 0), (11, 2, t.priv), (39, 1, bit t.virt), (38, 1, bit isGva)] with
        priv := 3, virt := false, pc := tvecTarget (t.c 0x305) e e.cause }
    | 1 =>
      let a := ((((t.set 0x141 p).set 0x142 (code e.cause)).set 0x143 val).set 0x643 (BitVec.ofNat 64 e.gpa)).set 0x64A 0
      let b := a.setC 0x300 [(5, 1, t.cf 0x300 1 1), (1, 1, 0), (8, 1, min t.priv 1)]
      let c := b.setC 0x600 ([(7, 1, bit t.virt), (6, 1, bit isGva)] ++ if t.virt then [(8, 1, t.priv)] else [])
      { c with priv := 1, virt := false, pc := tvecTarget (t.c 0x105) e e.cause }
    | _ =>
      let k := if e.intr then e.cause - 1 else e.cause
      let a := ((t.set 0x241 p).set 0x242 (code k)).set 0x243 val
      { a.setC 0x200 [(5, 1, t.cf 0x200 1 1), (1, 1, 0), (8, 1, min t.priv 1)] with
        priv := 1, virt := true, pc := tvecTarget (t.c 0x205) e k }
  { u with lq := [], io := none, wfi := false }.retag

/-- Enter debug mode (debug 1.0): dpc and dcsr.cause, prv and v are written. -/
def enterDebug (h cause pc : Nat) : Act := .read fun s =>
  let t := s.hart h
  .all [
    modHdbg h fun d =>
      let w := putBits (BitVec.ofNat 64 d.dcsr) 6 3 cause
      let w := putBits (putBits w 0 2 t.priv) 5 1 (if t.virt then 1 else 0)
      { d with halted := true, haltReq := false, dpc := pc, dcsr := w.toNat },
    modHart h fun u => { u with priv := 3, virt := false, lq := [], io := none, wfi := false } ]

/-- Do a trigger's mode bits select the running mode? `m s u vs vu` are its bits. -/
def trigMode (t : Hart) (m s u vs vu : Bool) : Bool :=
  if t.virt then (if t.priv = 1 then vs else vu) else if t.priv = 3 then m else if t.priv = 1 then s else u
/-- The trigger of hart `h` that an access at an address meets (mcontrol6: 2 execute, 1 store, 0 load; equality, NAPOT,
and the two comparisons), and its action. -/
def State.trigAt (s : State) (h kind addr : Nat) : Option Nat :=
  let t := s.hart h
  ((s.hdbg h).trig.find? fun g =>
    let d := g.tdata1
    d / 2 ^ 60 % 16 == 6 && d.testBit kind &&
    trigMode t (d.testBit 6) (d.testBit 4) (d.testBit 3) (d.testBit 24) (d.testBit 23) &&
    (match d / 2 ^ 7 % 16 with
     | 0 => addr == g.tdata2
     | 1 => addr ||| (g.tdata2 ^^^ (g.tdata2 + 1)) == g.tdata2 ||| (g.tdata2 ^^^ (g.tdata2 + 1))
     | 2 => decide (g.tdata2 ≤ addr)
     | 3 => decide (addr < g.tdata2)
     | _ => false)).map fun g => g.tdata1 / 2 ^ 12 % 16
/-- The action of an etrigger that an exception cause meets. -/
def State.etrig (s : State) (h cause : Nat) : Option Nat :=
  let t := s.hart h
  ((s.hdbg h).trig.find? fun g =>
    let d := g.tdata1
    d / 2 ^ 60 % 16 == 5 && g.tdata2.testBit cause &&
    trigMode t (d.testBit 9) (d.testBit 7) (d.testBit 6) (d.testBit 12) (d.testBit 11)).map fun g => g.tdata1 % 64

/-- Is the world of a hart open to invasive debug (R481)? -/
def State.debugOk (s : State) (h : Nat) : Bool := s.invWorld (s.hart h).world

/-- Take a trap at `pc`: younger instructions are discarded, the streaming counter is 0 (R92), and the predictor is
cleared on the way into M-mode (R341). An etrigger enters debug mode at the handler. An exception in the program buffer
ends it with cmderr 3 (debug 1.0). -/
def takeTrap (h : Nat) (e : Trap) (pc : Nat) : Act := .read fun s =>
  let t := s.hart h
  if (s.hdbg h).prog then .all [modHdbg h fun d => { d with prog := false }, .dbg fun d => { d with cmderr := 3 }]
  else .all [
    modHart h fun u => u.trapped e pc,
    .cache fun c => { c with stream := Tab.upd c.stream (s.nodeOf h) {} fun x => { x with count := 0 } },
    .when (t.trapMode e == 3) (bpClear h),
    .when (!e.intr && s.etrig h e.cause == some 1 && s.debugOk h)
      (.read fun u => enterDebug h 2 (u.hart h).pc) ]

/-- The interrupt that hart `h` takes now, with the order of privileged 1.12 and H 1.0. -/
def State.intrOf (s : State) (h : Nat) : Option Nat :=
  let t := s.hart h
  let p := BitVec.ofNat 64 (s.mip h) &&& t.c 0x304
  let m := p &&& ~~~ t.mideleg
  let hs := p &&& t.mideleg &&& ~~~ (t.c 0x603)
  let vs := p &&& t.mideleg &&& t.c 0x603
  let en := (if t.priv < 3 ∨ t.cf 0x300 3 3 = 1 then m else 0) |||
    (if t.priv < 3 ∧ (t.virt ∨ t.priv = 0 ∨ t.cf 0x300 1 1 = 1) then hs else 0) |||
    (if t.virt ∧ (t.priv = 0 ∨ t.cf 0x200 1 1 = 1) then vs else 0)
  let order := [11, 3, 7, 9, 1, 5, 12, 10, 2, 6]
  (order.filter fun k => (m &&& en).getLsbD k).head?.orElse fun _ =>
    (order.filter fun k => (hs &&& en).getLsbD k).head?.orElse fun _ => (order.filter fun k => (vs &&& en).getLsbD k).head?

/-- May hart `h` run: released, not halted, not lost, its tile in Run, and not waiting in WFI (R331, R589)? -/
def State.hartUp (s : State) (h : Nat) : Bool :=
  let t := s.hart h
  t.released && !t.lost && !t.wopen && t.io.isNone && (!(s.hdbg h).halted || (s.hdbg h).prog) &&
    (match s.hartNode h with | some n => s.tstate n == tsRun && !s.mesh.noNewReq.contains n | none => false) &&
    (!t.wfi || ((BitVec.ofNat 64 (s.mip h) &&& t.c 0x304) != 0))

/-- INTERRUPT_TAKEN (R342): an interrupt that is pending and enabled at hart `hart` is taken. -/
def execInterruptTaken (hart : Nat) (s : State) : Out :=
  commit (if !s.hartUp hart then .skip else match s.intrOf hart with
    | some c => takeTrap hart { cause := c, intr := true } (match (s.hart hart).lq with
        | e :: _ => e.pc
        | [] => (s.hart hart).pc)
    | none => .skip) s

/-- A hart's core stops at an instruction boundary: its unretired loads are discarded (R342, R495). -/
def parkHart (h : Nat) : Act := modHart h fun t =>
  { t with pc := (match t.lq with | e :: _ => e.pc | [] => t.pc), lq := [] }
/-- An instruction of the given length retires: minstret counts it. -/
def retire (h len : Nat) : Act := modHart h fun t =>
  { (if (t.c 0x320).getLsbD 2 then t else t.set 0xB02 (t.c 0xB02 + 1)) with pc := (t.pc + len) % 2 ^ 64, wfi := false }
/-- An instruction retires and control goes to `pc`. -/
def retireTo (h pc : Nat) : Act := .seq (retire h 0) (modHart h fun t => { t with pc := pc % 2 ^ 64 })
/-- Replace trigger `k` of a hart's six. -/
def HartDbg.setTrig (d : HartDbg) (k : Nat) (g : Trigger) : HartDbg :=
  { d with trig := (List.range 6).map fun j => if j = k then g else (d.trig[j]?).getD {} }
/-- What ends an instruction that began in state `old`, once it has retired or trapped: icount triggers count down and act
at 0, and a single step ends in debug mode (Table 23.2). -/
def stepCheck (h : Nat) (old : State) : Act := .read fun s =>
  let d := s.hdbg h
  let t := old.hart h
  let g : Trigger := (d.trig[4]?).getD {}
  let c := g.tdata1 / 2 ^ 10 % 2 ^ 14
  let moved := (s.hart h).pc != t.pc || (s.hart h).c 0xB02 != t.c 0xB02
  let on := g.tdata1 / 2 ^ 60 % 16 == 3 && c != 0 && trigMode t (g.tdata1.testBit 9) (g.tdata1.testBit 7)
    (g.tdata1.testBit 6) (g.tdata1.testBit 26) (g.tdata1.testBit 25)
  if !moved || d.halted then .skip
  else .all [
    .when on (.all [
      modHdbg h fun x => x.setTrig 4 { g with tdata1 := g.tdata1 - 2 ^ 10 },
      .when (c == 1) (if g.tdata1 % 64 = 1 then .when (s.debugOk h) (enterDebug h 2 (s.hart h).pc)
        else takeTrap h { cause := 3, tval := (s.hart h).pc } (s.hart h).pc) ]),
    .read fun u => .when (d.dcsr.testBit 2 && !(u.hdbg h).halted && s.debugOk h) (enterDebug h 4 (u.hart h).pc) ]

/-- The length in bytes of an instruction: 2 when it is compressed (bits 1:0 other than 3). -/
def insLen (i : Ins) : Nat := if i.bits % 4 = 3 then 4 else 2

end Sys2Proof.Machine
end

