-- ==== Sys2Proof/Machine/Trans.lean ====
section
/-! DEFINITION. Chapter 14: PMP, the page-table walks of a hart, its TLBs and walk cache, and the translation fences. A walk
is carried out within the access that needs it: it reads the coherent view of each PTE's line (log entry 14). -/

namespace Sys2Proof.Machine

/-! ### PMP (Table 13.3: 16 entries, granularity 4 KiB) -/

/-- The byte range of PMP entry `k`, where it is on. -/
def Hart.pmpRange (t : Hart) (k : Nat) : Option (Nat × Nat) :=
  let p := fun (j : Nat) => (t.c (0x3B0 + j)).toNat
  match t.pmpcfg k / 8 % 4 with
  | 1 => some ((if k = 0 then 0 else p (k - 1) / 1024 * 4096), p k / 1024 * 4096)
  | 3 =>
    let a := p k ||| 0x1FF
    let m := a ^^^ (a + 1)
    let lo := (a ^^^ (a &&& m)) * 4
    some (lo, lo + (m + 1) * 4)
  | _ => none
/-- Does PMP let a hart of privilege `priv` access these bytes? `acc`: 0 read, 1 write, 2 execute. -/
def Hart.pmpOk (t : Hart) (priv pa n acc : Nat) : Bool :=
  match (List.range 16).find? (fun k => match t.pmpRange k with
    | some r => decide (r.1 < pa + n) && decide (pa < r.2)
    | none => false) with
  | none => priv == 3
  | some k => match t.pmpRange k with
    | some r => decide (r.1 ≤ pa) && decide (pa + n ≤ r.2) &&
        ((priv == 3 && !(t.pmpcfg k).testBit 7) || (t.pmpcfg k).testBit acc)
    | none => false

/-! ### Walks (R369–R376) -/

/-- The fault codes of an access (0 load, 1 store or AMO, 2 fetch): access fault, page fault, guest-page fault. -/
def afCode (acc : Nat) : Nat := match acc with | 0 => 5 | 1 => 7 | _ => 1
def pfCode (acc : Nat) : Nat := match acc with | 0 => 13 | 1 => 15 | _ => 12
def gfCode (acc : Nat) : Nat := match acc with | 0 => 21 | 1 => 23 | _ => 20

/-- A translation under way: the address so far, the offset width of the page, the low byte of the leaf, the PTEs read, the
A and D updates to make (PTE address, bits), and the non-leaf entries met. -/
structure Xl where
  pa : Nat
  bits : Nat := 64
  perm : Nat := 0xFF
  reads : Nat := 0
  upd : List (Nat × Nat) := []
  nl : List WalkEnt := []
  deriving DecidableEq, Repr

/-- An access for translation: its type, its effective privilege and V, and for HLVX that a load needs X. -/
structure Acc where
  acc : Nat
  priv : Nat
  virt : Bool
  hlvx : Bool := false
  deriving DecidableEq, Repr

/-- The bits A, and D for a store, that a leaf must have (R375). -/
def Acc.need (a : Acc) : Nat := if a.acc = 1 then 0xC0 else 0x40
/-- Do a leaf's R, W and X permit the access? -/
def Acc.rwx (a : Acc) (perm : Nat) (mxr : Bool) : Bool :=
  match a.acc with
  | 0 => if a.hlvx then perm.testBit 3 else perm.testBit 1 || (mxr && perm.testBit 3)
  | 1 => perm.testBit 2
  | _ => perm.testBit 3
/-- Do a stage-1 leaf's permissions permit the access? -/
def Hart.leafOk (t : Hart) (a : Acc) (perm : Nat) : Bool :=
  let st := if a.virt then 0x200 else 0x300
  let mxr := (t.c 0x300).getLsbD 19 || (t.c st).getLsbD 19
  a.rwx perm mxr && (if a.priv = 0 then perm.testBit 4
    else !perm.testBit 4 || (a.acc != 2 && (t.c st).getLsbD 18))

/-- Table 14.2 and R370, R371 on a PTE met with `k` levels below it: a fault (`some true` page, `some false` access), for
a leaf at level k or for a pointer to the next table. -/
def pteFault (pte k : Nat) : Option Bool :=
  let ppn := pte / 2 ^ 10 % 2 ^ 44
  let n := pte.testBit 63
  let leaf := pte.testBit 1 || pte.testBit 3
  if !pte.testBit 0 || (pte.testBit 2 && !pte.testBit 1) || pte / 2 ^ 54 % 2 ^ 9 != 0 then some true
  else if !leaf then
    if k = 0 || n then some true else if 2 ^ 36 ≤ ppn then some false else none
  else if k = 4 || (n && (k != 0 || ppn % 16 != 8)) || ppn % 2 ^ (9 * k) != 0 then some true
  else if 2 ^ 36 ≤ ppn then some false
  else none

/-- The address and page width that a leaf gives (Table 14.2). -/
def leafAddr (pte k va : Nat) : Nat × Nat :=
  let ppn := pte / 2 ^ 10 % 2 ^ 44
  let g := if pte.testBit 63 then 16 else 12 + 9 * k
  (ppn * 4096 / 2 ^ g * 2 ^ g + va % 2 ^ g, g)

/-- Read a PTE (R373): outside populated DRAM of the world, refused by PMP, or poisoned is an access fault. -/
def State.pte? (s : State) (t : Hart) (pa : Nat) : Option Nat :=
  if s.dramOk t.world pa 8 && t.pmpOk 1 pa 8 0 && !s.rdPoison pa 8 then some (s.rdNat pa 8) else none

/-- The walk of one stage, with `k` levels still to read. `top` is the number of bits of the first index; `tr` translates
the address of a PTE (for the VS-stage, through the G-stage); `mk` makes the walk-cache entries of this stage. -/
def walkStage (s : State) (t : Hart) (a : Acc) (va : Nat) (page access : Trap) (ok : Nat → Bool)
    (tr : Nat → Bool → Xl → Except Trap Xl) (mk : Nat → Nat → WalkEnt) (top : Nat) :
    Nat → Nat → Xl → Except Trap Xl
  | 0, _, _ => .error page
  | k + 1, table, r =>
    match tr (table + va / 2 ^ (12 + 9 * k) % 2 ^ top * 8) false r with
    | .error e => .error e
    | .ok q =>
      match s.pte? t q.pa with
      | none => .error { access with reads := q.reads, pte := some q.pa }
      | some pte =>
        let r1 : Xl := { q with reads := q.reads + 1 }
        match pteFault pte k with
        | some b => .error { (if b then page else access) with reads := r1.reads }
        | none =>
          let next := pte / 2 ^ 10 % 2 ^ 44 * 4096
          if !(pte.testBit 1 || pte.testBit 3) then
            walkStage s t a va page access ok tr mk 9 k next { r1 with nl := r1.nl ++ [mk k next] }
          else if !ok (pte % 256) then .error { page with reads := r1.reads }
          else
            let l := leafAddr pte k va
            if pte &&& a.need = a.need then .ok { r1 with pa := l.1, bits := l.2, perm := pte % 256 }
            else match tr (table + va / 2 ^ (12 + 9 * k) % 2 ^ top * 8) true r1 with
              | .error e => .error e
              | .ok w => if !t.pmpOk 1 w.pa 8 1 then .error { access with reads := w.reads } else .ok { w with
                  pa := l.1, bits := l.2, perm := (pte ||| a.need) % 256, upd := w.upd ++ [(w.pa, a.need)] }

/-- Where a walk starts: the deepest level that the walk cache holds, else the root. -/
def Hart.walkStart (t : Hart) (g v : Bool) (root levels va : Nat) : Nat × Nat :=
  let vmid := if v then t.cf 0x680 57 44 else 0
  match (List.range levels).findSome? (fun k => if k = 0 then none else
    (t.walk.find? fun e => e.gstage == g && e.level == k && e.tag == va / 2 ^ (12 + 9 * k) && e.v == v && e.vmid == vmid &&
      e.root == root && e.world == t.world).map fun e => (k, e.table)) with
  | some p => p
  | none => (levels, root)

/-- The G-stage (R370, R372): a guest physical address to a physical one; `va` is the address that the fault reports. -/
def State.gXl (s : State) (t : Hart) (a : Acc) (va gpa : Nat) (write implicit : Bool) (r : Xl) : Except Trap Xl :=
  let mode := t.cf 0x680 63 60
  let page : Trap := { cause := gfCode a.acc, tval := va, gpa := gpa / 4, reads := r.reads }
  let access : Trap := { cause := afCode a.acc, tval := va, reads := r.reads }
  if mode = 0 then (if 2 ^ 48 ≤ gpa then .error access else .ok { r with pa := gpa, bits := 64, perm := 0xFF })
  else
    let levels := if mode = 9 then 4 else 5
    let g : Acc := if implicit then { a with acc := if write then 1 else 0, hlvx := false } else a
    let root := t.cf 0x680 43 0 * 4096
    let vmid := t.cf 0x680 57 44
    let p := t.walkStart true true root levels gpa
    if 2 ^ (if mode = 9 then 50 else 59) ≤ gpa then .error page
    else walkStage s t g gpa page access
      (fun perm => perm.testBit 4 && g.rwx perm ((t.c 0x300).getLsbD 19 && !implicit))
      (fun pa _ x => .ok { x with pa := pa })
      (fun k next => { gstage := true, level := k, tag := gpa / 2 ^ (12 + 9 * k), v := true, vmid := vmid, root := root,
                       world := t.world, table := next })
      (if p.1 = levels then 11 else 9) p.1 p.2 r

/-- Are the bits above the address width of a mode equal to its top bit? -/
def vaOk (mode va : Nat) : Bool :=
  let w := if mode = 9 then 48 else 57
  va / 2 ^ (w - 1) == 0 || va / 2 ^ (w - 1) == 2 ^ (65 - w) - 1

/-- Stage 1, then the G-stage for V = 1: a virtual address to a physical one. -/
def State.walkXl (s : State) (t : Hart) (a : Acc) (va : Nat) : Except Trap Xl :=
  let atp := if a.virt then 0x280 else 0x180
  let mode := t.cf atp 63 60
  let page : Trap := { cause := pfCode a.acc, tval := va }
  let access : Trap := { cause := afCode a.acc, tval := va }
  let root := t.cf atp 43 0 * 4096
  let vmid := if a.virt then t.cf 0x680 57 44 else 0
  let levels := if mode = 9 then 4 else 5
  let p := t.walkStart false a.virt root levels va
  let one : Except Trap Xl :=
    if mode = 0 then .ok { pa := va }
    else if !vaOk mode va then .error page
    else walkStage s t a va page access (t.leafOk a)
      (fun pa w x => if a.virt then s.gXl t a va pa w true x else .ok { x with pa := pa })
      (fun k next => { gstage := false, level := k, tag := va / 2 ^ (12 + 9 * k), v := a.virt, vmid := vmid, root := root,
                       world := t.world, table := next })
      9 p.1 p.2 { pa := 0 }
  match one with
  | .error e => .error e
  | .ok r =>
    if a.virt then
      match s.gXl t a va r.pa false false r with
      | .error e => .error e
      | .ok g => .ok { g with bits := min r.bits g.bits, perm := r.perm &&& (g.perm ||| 0x30) }
    else .ok r

/-! ### TLBs (R377–R379) -/

/-- The running tag fields of an access: MODE, ASID, VMID. -/
def Hart.tlbTag (t : Hart) (virt : Bool) : Nat × Nat × Nat :=
  let atp := if virt then 0x280 else 0x180
  (t.cf atp 63 60, t.cf atp 59 44, if virt then t.cf 0x680 57 44 else 0)
/-- May a TLB entry be used for an address (R377)? -/
def Hart.tlbHit (t : Hart) (virt : Bool) (va : Nat) (e : TlbEnt) : Bool :=
  let g := t.tlbTag virt
  e.vpn == va / 2 ^ e.bits && e.world == t.world && e.v == virt && e.vmid == g.2.2 && e.mode == g.1 &&
  (e.asid == g.2.1 || e.g)
/-- Is an access translated at all? -/
def Hart.xlated (t : Hart) (a : Acc) : Bool :=
  a.priv < 3 && ((t.tlbTag a.virt).1 != 0 || (a.virt && t.cf 0x680 63 60 != 0))
/-- The set of an L2 TLB entry (R379). -/
def tlbSet (va g : Nat) : Nat := va / 2 ^ g % 512 ^^^ va / 2 ^ (g + 9) % 512

/-- What a translation has used: an L1 hit, an L2 TLB hit, or a walk. -/
inductive XlFrom where
  | bare | l1 | l2 (e : TlbEnt) | walked
  deriving DecidableEq, Repr

/-- Does an entry give the access its permissions and its A and D bits? -/
def Hart.entOk (t : Hart) (a : Acc) (e : TlbEnt) : Bool := t.leafOk a e.perm && e.perm &&& a.need == a.need

/-- Translate an address of a hart: through its TLBs, else by a walk. -/
def State.xlate (s : State) (h : Nat) (a : Acc) (va : Nat) : Except Trap (Xl × XlFrom) :=
  let t := s.hart h
  if !t.xlated a then
    (if 2 ^ 48 ≤ va then .error { cause := afCode a.acc, tval := va } else .ok ({ pa := va }, .bare))
  else
    let hit := fun (e : TlbEnt) => t.tlbHit a.virt va e && t.entOk a e
    let out := fun (e : TlbEnt) => ({ pa := e.ppn * 2 ^ e.bits + va % 2 ^ e.bits, bits := e.bits, perm := e.perm } : Xl)
    match (if a.acc = 2 then t.itlb else t.dtlb).find? (fun p => hit p.2) with
    | some p => .ok (out p.2, .l1)
    | none =>
      match t.l2tlb.find? hit with
      | some e => .ok (out e, .l2 e)
      | none => match s.walkXl t a va with
        | .error e => .error e
        | .ok x => .ok (x, .walked)

/-- Put an entry into an L1 TLB: the lowest-numbered invalid entry, else a random one (R378). -/
def fillL1Tlb (h : Nat) (fetch : Bool) (e : TlbEnt) : Act := .read fun s =>
  let t := s.hart h
  let l := if fetch then t.itlb else t.dtlb
  let n := if fetch then 64 else 96
  let put := fun (i : Nat) => modHart h fun u =>
    if fetch then { u with itlb := Tab.put u.itlb i e } else { u with dtlb := Tab.put u.dtlb i e }
  match (List.range n).find? (fun i => (Tab.find l i).isNone) with
  | some i => put i
  | none => withFree fun k => put (Config.tlbVictim k % n)
/-- Put an entry into the L2 TLB: 8 ways of a set of its size class; the one used longest ago goes. -/
def fillL2Tlb (h : Nat) (e : TlbEnt) : Act := modHart h fun t =>
  let same := t.l2tlb.filter fun x => x.bits == e.bits && tlbSet (x.vpn * 2 ^ x.bits) x.bits == tlbSet (e.vpn * 2 ^ e.bits) e.bits
  let l := if same.length < 8 then t.l2tlb else match same.getLast? with
    | some o => t.l2tlb.erase o
    | none => t.l2tlb
  { t with l2tlb := e :: l }

/-- What a translation leaves behind when its access goes on: counters, entries, A and D updates (R375). -/
def xlDone (h : Nat) (a : Acc) (va : Nat) (x : Xl) (w : XlFrom) : Act := .read fun s =>
  let t := s.hart h
  let n := s.nodeOf h
  let miss := bump (if a.acc = 2 then CORE_ITLB_MISS n else CORE_DTLB_MISS n)
  let g := t.tlbTag a.virt
  let ent := fun (b : Nat) => ({ vpn := va / 2 ^ b, bits := b, mode := g.1, asid := g.2.1, vmid := g.2.2, v := a.virt, g := x.perm.testBit 5,
                                 world := t.world, ppn := x.pa / 2 ^ b, perm := x.perm } : TlbEnt)
  match w with
  | .bare | .l1 => .skip
  | .l2 e => .all [miss, fillL1Tlb h (a.acc == 2) e]
  | .walked =>
    let b := min x.bits 39
    .all [
      miss, bump (CORE_L2TLB_MISS n), addTo (CORE_WALK_PTE n) x.reads,
      .each x.upd fun u => .all [bump (CORE_AD_UPDATE n), .read fun q => wrCohNat u.1 8 (q.rdNat u.1 8 ||| u.2)],
      modHart h fun u => { u with walk := (x.nl ++ u.walk.filter fun e => !x.nl.contains e).take 64 },
      fillL1Tlb h (a.acc == 2) (ent b),
      fillL2Tlb h (ent (if b = 16 then 12 else b)) ]

/-! ### The checks on a physical address (R465, R336) -/

/-- Where a physical address lies (Table 1.11, R336). -/
inductive Place where
  | dram | tcm | io | none
  deriving DecidableEq, Repr

/-- Is a block number assigned (Table 1.12)? -/
def blockAssigned (b : Nat) : Bool := decide (b < 10) || decide (0x10 ≤ b ∧ b ≤ 0x1B) || b == 0x20 || b == 0x21
/-- The place of an access of `n` bytes: unmapped addresses, the landing windows, unpopulated DRAM, DRAM that the world may
not access, and the other world's scratchpad are no place (R30, R336, R465, R467). -/
def State.place (s : State) (t : Hart) (pa n : Nat) : Place :=
  if t.inTcm pa && t.inTcm (pa + n - 1) then (if t.world = t.tcmWorld then .tcm else .none)
  else if pa < 2 ^ 47 then (if s.dramOk t.world pa n then .dram else .none)
  else if pa < 0xC00010000000 then .io
  else if 0xE00000000000 ≤ pa ∧ pa < 0xE00100000000 then
    (if blockAssigned ((pa - 0xE00000000000) / 2 ^ 24) then .io else .none)
  else if 0xE10000000000 ≤ pa ∧ pa < 0xE1000E000000 then .io
  else if 0xE20000000000 ≤ pa ∧ pa < 0xE20020010000 then .io
  else .none

/-- The physical address of one part of an access with all its checks, or the trap. `only` lists the places that the
instruction may access. -/
def State.reach (s : State) (h : Nat) (a : Acc) (va n : Nat) (only : List Place) : Except Trap (Xl × XlFrom × Place) :=
  let t := s.hart h
  match s.xlate h a va with
  | .error e => .error e
  | .ok (x, w) =>
    let p := s.place t x.pa n
    if !t.pmpOk a.priv x.pa n a.acc || !only.contains p then .error { cause := afCode a.acc, tval := va }
    else .ok (x, w, p)

/-- Was a trap raised by the Selvedge check alone: the address is populated DRAM of the other world (R466)? -/
def State.selDenied (s : State) (h : Nat) (a : Acc) (va n : Nat) : Bool :=
  match s.xlate h a va with
  | .error _ => false
  | .ok (x, _) => decide (x.pa < 2 ^ 47) && s.populated x.pa n && !s.worldOk (s.hart h).world x.pa
/-- A record for poisoned data that a hart consumed (R554). -/
def poisonUse (h pa : Nat) : Act := .read fun s =>
  rasLog { sev := 2, cls := cPoison, block := 0x100 + s.nodeOf h, addr := some (pa / 64 * 64), world := (s.hart h).world }
/-- What the translation of an access that traps counts (R391): nothing is cached and no A or D bit is set (R374, R375). -/
def xlMissed (h : Nat) (a : Acc) (e : Trap) : Act := .read fun s =>
  let n := s.nodeOf h
  let miss := bump (if a.acc = 2 then CORE_ITLB_MISS n else CORE_DTLB_MISS n)
  let walk := fun (k : Nat) => Act.all [miss, bump (CORE_L2TLB_MISS n), addTo (CORE_WALK_PTE n) k]
  match s.xlate h a e.tval with
  | .ok (_, .l2 _) => miss
  | .ok (x, .walked) => walk x.reads
  | .ok _ => .skip
  | .error w => .when ((s.hart h).xlated a) (walk w.reads)
/-- Take the trap of an access. A refusal by the world check is counted in SEL_DENY (R466), and a poisoned PTE is recorded
(Table 14.8, Table 21.7). -/
def accessTrap (h : Nat) (a : Acc) (n : Nat) (e : Trap) (pc : Nat) : Act := .read fun s =>
  let w := (s.hart h).world
  .all [
    xlMissed h a e,
    (match e.pte with
     | some p =>
       if s.populated p 8 && !s.worldOk w p then bump (SEL_DENY (s.nodeOf h))
       else .when (s.dramOk w p 8 && s.rdPoison p 8) (poisonUse h p)
     | none => .when (s.selDenied h a e.tval n) (bump (SEL_DENY (s.nodeOf h)))),
    takeTrap h e pc ]

/-- The effective privilege and V of a data access (mstatus.MPRV; HLV and HSV use hstatus.SPVP with V = 1). -/
def Hart.dataAcc (t : Hart) (acc hyp : Nat) : Acc :=
  if hyp ≠ 0 then { acc := acc, priv := t.cf 0x600 8 8, virt := true, hlvx := hyp == 2 }
  else if t.priv = 3 ∧ t.cf 0x300 17 17 = 1 then
    { acc := acc, priv := t.cf 0x300 12 11, virt := t.cf 0x300 39 39 == 1 && t.cf 0x300 12 11 != 3 }
  else { acc := acc, priv := t.priv, virt := t.virt }

/-- The parts of an access: its bytes up to the end of a line, and the rest in the next line (R335). -/
def accParts (va n : Nat) : List (Nat × Nat) :=
  let k := min n (64 - va % 64)
  if k < n then [(va, k), ((va + k) % 2 ^ 64, n - k)] else [(va, n)]

/-! ### Fences (R381, R382) -/

/-- Remove the TLB entries that `out` selects and the walk-cache entries that `wout` selects, of the running world. -/
def tlbRemove (h : Nat) (out : TlbEnt → Bool) (wout : WalkEnt → Bool) : Act := modHart h fun t =>
  let keep := fun (e : TlbEnt) => !(e.world == t.world && out e)
  { t with
    itlb := t.itlb.filter fun p => keep p.2
    dtlb := t.dtlb.filter fun p => keep p.2
    l2tlb := t.l2tlb.filter keep
    walk := t.walk.filter fun e => !(e.world == t.world && wout e) }

/-- Does an entry cover address `va` and match ASID `asid`, each where given (Table 14.6)? -/
def fenceSel (va asid : Option Nat) (e : TlbEnt) : Bool :=
  (match va with | some a => a / 2 ^ e.bits == e.vpn | none => true) &&
  (match asid with | some i => e.asid == i && !e.g | none => true)

/-- The operands rs1 and rs2 of a fence: `none` for x0. -/
def Hart.fenceArg (t : Hart) (r bits : Nat) : Option Nat := if r % 32 = 0 then none else some ((t.rx r).toNat % 2 ^ bits)
/-- HFENCE.VVMA on the running VMID. -/
def fenceVvma (h rs1 rs2 : Nat) : Act := .read fun s =>
  let t := s.hart h
  let vm := t.cf 0x680 57 44
  tlbRemove h (fun e => e.v && e.vmid == vm && fenceSel (t.fenceArg rs1 64) (t.fenceArg rs2 16) e)
    (fun e => e.v && e.vmid == vm && !e.gstage)

end Sys2Proof.Machine
end

