-- ==== Sys2Proof/Machine/Issue.lean ====
section
/-! DEFINITION. The issue of instructions (chapters 12 and 13) and the instructions that neither access memory nor
serialise: integer operations, branches, FP and vector operations, and the events of the pipeline. A command carries the
instruction that the hart has fetched; fetch's translation, checks and caches are part of its issue. -/

namespace Sys2Proof.Machine

/-! ### Issue -/

/-- What stands before an instruction: nothing (with what its fetch leaves behind), a wait (with what is asked for), or a
trap of its fetch. -/
inductive Gate where
  | ok (fetched : Act)
  | wait (asked : Act)
  | trap (e : Trap) (va n : Nat)
  | debug

/-- The fetch access of a hart. -/
def Hart.fetchAcc (t : Hart) : Acc := { acc := 2, priv := t.priv, virt := t.virt }
/-- Is a line already asked for by a requester? -/
def State.asked (s : State) (r l : Nat) : Bool := (s.reqsOf r).any fun q => q.flit.line == l
/-- Ask for a line unless it is already asked for. -/
def askLine (n opcode l : Nat) (why : ReqWhy) (world : Bool) : Act := .read fun s =>
  if s.asked n l then .skip else tileReq n opcode l why world

/-- The fetch of one part of an instruction (R343, R376, R554). -/
def State.fetchPart (s : State) (h : Nat) (p : Nat × Nat) : Gate :=
  let t := s.hart h
  let n := s.nodeOf h
  match s.reach h t.fetchAcc p.1 p.2 [.dram, .tcm] with
  | .error e => .trap e p.1 p.2
  | .ok (x, w, pl) =>
    let l := x.pa / 64
    let done := xlDone h t.fetchAcc p.1 x w
    if !x.upd.isEmpty && !t.lq.isEmpty then .wait .skip
    else if pl = .tcm then .ok done
    else if t.det then
      (if t.fbuf = some (x.pa / 16) then .ok done else .wait (.all [
        modHart h fun u => { u with fbuf := none }, askLine n opRdOnce l .fetch t.world ]))
    else match s.l2 n l with
    | some e =>
      if e.poison then .trap { cause := 1, tval := p.1 } p.1 p.2
      else .ok (.seq done (fillL1 n l true))
    | none => .wait (askLine n opRdShared l .fetch t.world)

/-- Is fetched data poisoned (R554)? -/
def State.fetchPoison (s : State) (h : Nat) (p : Nat × Nat) : Option Nat :=
  match s.reach h (s.hart h).fetchAcc p.1 p.2 [.dram] with
  | .ok (x, _, _) => match s.l2 (s.nodeOf h) (x.pa / 64) with
    | some e => if e.poison then some x.pa else none
    | none => none
  | .error _ => none

/-- What stands before the instruction at the hart's pc. -/
def State.gate (s : State) (i : Ins) : Gate :=
  let t := s.hart i.hart
  if !s.hartUp i.hart then .wait .skip
  else if (s.hdbg i.hart).prog then .ok .skip
  else if (s.hdbg i.hart).haltReq && s.debugOk i.hart then .debug
  else match s.trigAt i.hart 2 t.pc with
  | some 1 => if s.debugOk i.hart then .debug else .ok .skip
  | some _ => .trap { cause := 3, tval := t.pc } t.pc 2
  | none => match accParts t.pc (insLen i) with
    | [a, b] => match s.fetchPart i.hart a with
      | .ok x => (match s.fetchPart i.hart b with
          | .ok y => .ok (.seq x y)
          | .trap e va n => .trap { e with tval := if b.1 % 4096 = 0 then e.tval else a.1 } va n
          | g => g)
      | g => g
    | a :: _ => s.fetchPart i.hart a
    | [] => .ok .skip

/-- Issue an instruction: PAUSE's wait ends (R352), its fetch is checked, then its body is carried out; a trap of the fetch
waits until the instruction is the oldest (R376). `body` is given the state after the fetch. -/
def issue (i : Ins) (body : State → Act) : Act :=
  .seq (.read fun s => .when ((s.hart i.hart).pauseUntil != 0) (.seq
    (if (s.intrOf i.hart).isSome then .skip else advanceTo (s.hart i.hart).pauseUntil)
    (modHart i.hart fun t => { t with pauseUntil := 0 })))
  (.read fun s =>
    let oldest := (s.hart i.hart).lq.isEmpty
    match s.gate i with
    | .wait a => a
    | .debug => .when oldest (enterDebug i.hart (if (s.hdbg i.hart).haltReq then 3 else 2) (s.hart i.hart).pc)
    | .trap e va n => .when oldest (.all [
        (match s.fetchPoison i.hart (va, n) with
         | some pa => poisonUse i.hart pa
         | none => .skip),
        accessTrap i.hart (s.hart i.hart).fetchAcc n e (s.hart i.hart).pc ])
    | .ok a => .all [a, .read body, stepCheck i.hart s])

/-- The trap that an instruction takes at its own pc. -/
def selfTrap (i : Ins) (e : Trap) : Act := .read fun s => takeTrap i.hart e (s.hart i.hart).pc
/-- The instruction bits as a trap value (Table 13.4). -/
def insBits (i : Ins) : Nat := if insLen i = 2 then i.bits % 2 ^ 16 else i.bits % 2 ^ 32
/-- Illegal instruction. -/
def illegalIns (i : Ins) : Act := selfTrap i { cause := 2, tval := insBits i }
/-- Virtual instruction. -/
def virtualIns (i : Ins) : Act := selfTrap i { cause := 22, tval := insBits i }
/-- Illegal instruction or virtual instruction by its cause. -/
def insTrap (i : Ins) (cause : Nat) : Act := selfTrap i { cause := cause, tval := insBits i }
/-- An instruction that retires: registers change, then the pc advances. -/
def retires (i : Ins) (f : Hart → Hart) : Act := .seq (modHart i.hart f) (retire i.hart (insLen i))

/-- Does a waiting load name register `r` as its destination? -/
def Hart.loadPending (t : Hart) : Bool := !t.lq.isEmpty
/-- Issue an instruction that waits for every older load (log entry 15). -/
def issueInOrder (i : Ins) (body : State → Act) : Act := issue i fun s =>
  if (s.hart i.hart).loadPending then .skip else body s
/-- Issue a serialising instruction (R330): every older instruction has retired and the store queue is empty. -/
def serialise (i : Ins) (body : State → Act) : Act := issue i fun s =>
  if (s.hart i.hart).loadPending || !(s.hart i.hart).sq.isEmpty then .skip else body s

/-! ### Integer operations -/

/-- The low 32 bits sign-extended. -/
def sx32 (v : W64) : W64 := (v.setWidth 32).signExtend 64
/-- Count of leading zeros of the low `n` bits. -/
def clzN (n : Nat) (v : W64) : W64 :=
  BitVec.ofNat 64 (match (List.range n).find? (fun i => v.getLsbD (n - 1 - i)) with | some i => i | none => n)
/-- Count of trailing zeros of the low `n` bits. -/
def ctzN (n : Nat) (v : W64) : W64 :=
  BitVec.ofNat 64 (match (List.range n).find? (fun i => v.getLsbD i) with | some i => i | none => n)
/-- Count of ones of the low `n` bits. -/
def cpopN (n : Nat) (v : W64) : W64 := BitVec.ofNat 64 ((List.range n).filter fun i => v.getLsbD i).length
/-- Carry-less product, 128 bits. -/
def clmulNat (a b : W64) : Nat :=
  (List.range 64).foldl (fun p i => if b.getLsbD i then p ^^^ (a.toNat * 2 ^ i) else p) 0
/-- Map the bytes of a register. -/
def mapBytes (f : Nat → Nat) (v : W64) : W64 :=
  BitVec.ofNat 64 (((List.range 8).map fun i => f (v.toNat / 2 ^ (8 * i) % 256) * 2 ^ (8 * i)).sum)
/-- Reverse the bits of a byte. -/
def revByte (b : Nat) : Nat := ((List.range 8).map fun i => if b.testBit i then 2 ^ (7 - i) else 0).sum
/-- Crossbar permutation with elements of `w` bits: element i of the result is the element of `a` that `b` names. -/
def xperm (w : Nat) (a b : W64) : W64 :=
  BitVec.ofNat 64 (((List.range (64 / w)).map fun i =>
    let k := b.toNat / 2 ^ (w * i) % 2 ^ w
    (if k < 64 / w then a.toNat / 2 ^ (w * k) % 2 ^ w else 0) * 2 ^ (w * i)).sum)
/-- Three rotations or shifts of a 32-bit word combined, sign-extended (Zknh). -/
def sha32 (v : W64) (r1 r2 r3 : Nat) (shift : Bool) : W64 :=
  let w : BitVec 32 := v.setWidth 32
  (w.rotateRight r1 ^^^ w.rotateRight r2 ^^^ (if shift then w >>> r3 else w.rotateRight r3)).signExtend 64
/-- The same for a 64-bit word. -/
def sha64 (v : W64) (r1 r2 r3 : Nat) (shift : Bool) : W64 :=
  v.rotateRight r1 ^^^ v.rotateRight r2 ^^^ (if shift then v >>> r3 else v.rotateRight r3)

/-- Signed division and remainder with the edge results of R355. -/
def divS (a b : Int) (w : Nat) : W64 := (BitVec.ofInt w (if b = 0 then -1 else a.tdiv b)).signExtend 64
def remS (a b : Int) (w : Nat) : W64 := (BitVec.ofInt w (if b = 0 then a else a.tmod b)).signExtend 64
/-- Unsigned division and remainder. -/
def divU (a b w : Nat) : W64 := (BitVec.ofNat w (if b = 0 then 2 ^ w - 1 else a / b)).signExtend 64
def remU (a b w : Nat) : W64 := (BitVec.ofNat w (if b = 0 then a else a % b)).signExtend 64

/-- The result of an integer operation. -/
def aluOp (op : AluOp) (a b : W64) : W64 :=
  let sh := b.toNat % 64
  let sw := b.toNat % 32
  let a32 : BitVec 32 := a.setWidth 32
  let b32 : BitVec 32 := b.setWidth 32
  let flag := fun (c : Bool) => if c then (1 : W64) else 0
  let uw : W64 := a32.setWidth 64
  match op with
  | .add => a + b | .sub => a - b | .sll => a <<< sh | .slt => flag (a.slt b) | .sltu => flag (a.ult b)
  | .xor => a ^^^ b | .srl => a >>> sh | .sra => a.sshiftRight sh | .or => a ||| b | .and => a &&& b
  | .addw => sx32 (a + b) | .subw => sx32 (a - b) | .sllw => sx32 (a <<< sw)
  | .srlw => (a32 >>> sw).signExtend 64 | .sraw => (a32.sshiftRight sw).signExtend 64
  | .mul => a * b
  | .mulh => BitVec.ofInt 64 (a.toInt * b.toInt / 2 ^ 64)
  | .mulhsu => BitVec.ofInt 64 (a.toInt * b.toNat / 2 ^ 64)
  | .mulhu => BitVec.ofNat 64 (a.toNat * b.toNat / 2 ^ 64)
  | .mulw => sx32 (a * b)
  | .div => divS a.toInt b.toInt 64 | .divu => divU a.toNat b.toNat 64
  | .rem => remS a.toInt b.toInt 64 | .remu => remU a.toNat b.toNat 64
  | .divw => divS a32.toInt b32.toInt 32 | .divuw => divU a32.toNat b32.toNat 32
  | .remw => remS a32.toInt b32.toInt 32 | .remuw => remU a32.toNat b32.toNat 32
  | .sh1add => (a <<< 1) + b | .sh2add => (a <<< 2) + b | .sh3add => (a <<< 3) + b
  | .adduw => uw + b | .sh1adduw => (uw <<< 1) + b | .sh2adduw => (uw <<< 2) + b | .sh3adduw => (uw <<< 3) + b
  | .slliuw => uw <<< sh
  | .andn => a &&& ~~~ b | .orn => a ||| ~~~ b | .xnor => ~~~ (a ^^^ b)
  | .clz => clzN 64 a | .ctz => ctzN 64 a | .cpop => cpopN 64 a
  | .clzw => clzN 32 a | .ctzw => ctzN 32 a | .cpopw => cpopN 32 a
  | .max => if a.slt b then b else a | .maxu => if a.ult b then b else a
  | .min => if a.slt b then a else b | .minu => if a.ult b then a else b
  | .sextb => (a.setWidth 8).signExtend 64 | .sexth => (a.setWidth 16).signExtend 64
  | .zexth => (a.setWidth 16).setWidth 64
  | .rol => a.rotateLeft sh | .ror => a.rotateRight sh
  | .rolw => (a32.rotateLeft sw).signExtend 64 | .rorw => (a32.rotateRight sw).signExtend 64
  | .orcb => mapBytes (fun x => if x = 0 then 0 else 255) a
  | .rev8 => BitVec.ofNat 64 (leNat (natLe 8 a.toNat).reverse)
  | .bclr => a &&& ~~~ ((1 : W64) <<< sh) | .bext => (a >>> sh) &&& 1
  | .binv => a ^^^ ((1 : W64) <<< sh) | .bset => a ||| ((1 : W64) <<< sh)
  | .clmul => BitVec.ofNat 64 (clmulNat a b) | .clmulh => BitVec.ofNat 64 (clmulNat a b / 2 ^ 64)
  | .clmulr => BitVec.ofNat 64 (clmulNat a b / 2 ^ 63)
  | .pack => uw ||| (b <<< 32)
  | .packh => (a &&& 0xFF) ||| ((b &&& 0xFF) <<< 8)
  | .packw => sx32 ((a &&& 0xFFFF) ||| ((b &&& 0xFFFF) <<< 16))
  | .brev8 => mapBytes revByte a
  | .xperm4 => xperm 4 a b | .xperm8 => xperm 8 a b
  | .sha256sig0 => sha32 a 7 18 3 true | .sha256sig1 => sha32 a 17 19 10 true
  | .sha256sum0 => sha32 a 2 13 22 false | .sha256sum1 => sha32 a 6 11 25 false
  | .sha512sig0 => sha64 a 1 8 7 true | .sha512sig1 => sha64 a 19 61 6 true
  | .sha512sum0 => sha64 a 28 34 39 false | .sha512sum1 => sha64 a 14 18 41 false
  | .aes k => aesScalar k a b

/-- The condition of a branch. -/
def brCond (op : BrOp) (a b : W64) : Bool :=
  match op with
  | .eq => a == b | .ne => a != b | .lt => a.slt b | .ge => !a.slt b | .ltu => a.ult b | .geu => !a.ult b

/-- An address plus a signed offset, modulo 2^64. -/
def pcAdd (pc : Nat) (off : Int) : Nat := (((pc : Int) + off) % 2 ^ 64).toNat

/-! ### Prediction state at retirement (R337, R338) -/

/-- A two-bit counter moves toward the outcome. -/
def bump2 (c : Nat) (taken : Bool) : Nat := if taken then min 3 (c + 1) else c - 1
/-- A conditional branch trains the base table and enters global history. -/
def Hart.trainBranch (t : Hart) (pc : Nat) (taken : Bool) : Hart :=
  let p := t.pred
  let old := match Tab.find p.base pc with | some e => if e.2 = p.tag then e.1 else 1 | none => 1
  { t with pred := { p with
      base := Tab.put p.base pc (bump2 old taken, p.tag)
      hist := (p.hist * 2 + (if taken then 1 else 0)) % 2 ^ 640 } }
/-- A taken branch or jump enters path history and the branch target buffer. -/
def Hart.trainTaken (t : Hart) (pc target : Nat) : Hart :=
  { t with pred := { t.pred with
      path := (t.pred.path * 2 ^ 8 + pc / 2 % 2 ^ 8) % 2 ^ 32
      btb := Tab.put t.pred.btb pc (target, t.pred.tag) } }
/-- A call pushes its return address, a return pops one; the 33rd nested call overwrites the oldest (R338). -/
def Hart.trainLink (t : Hart) (rd rs1 back : Nat) (isJalr : Bool) : Hart :=
  let link := fun (r : Nat) => r == 1 || r == 5
  let p := t.pred
  let popped := if isJalr && link rs1 && !(link rd && rd == rs1) then p.ras.drop 1 else p.ras
  { t with pred := { p with ras := if link rd then ((back, p.tag) :: popped).take 32 else popped } }

/-! ### FP and vector operations (R356–R359) -/

/-- A single-precision operand: a value that is not boxed reads as the canonical NaN (R356). -/
def unbox (v : W64) : W64 := if v >>> 32 = 0xFFFFFFFF then v &&& 0xFFFFFFFF else 0x7FC00000
/-- A single-precision result with bits 63:32 set. -/
def nanBox (v : W64) : W64 := (v &&& 0xFFFFFFFF) ||| 0xFFFFFFFF00000000
/-- The rounding mode of an instruction: its own, or frm for 7; `none` where it is not valid (R356). -/
def Hart.round (t : Hart) (rm : Nat) : Option Nat :=
  let r := if rm = 7 then (t.c 0x003).toNat / 32 % 8 else rm
  if r < 5 then some r else none
/-- Flags accrue in fflags (R357). -/
def Hart.accrue (t : Hart) (fl : Nat) : Hart :=
  if fl = 0 then t else (t.set 0x003 (t.c 0x003 ||| BitVec.ofNat 64 (fl % 32)))
/-- Enabled flags are recorded in PEND in the imprecise mode (R359), which makes FS Dirty (R361). -/
def Hart.pend (t : Hart) (fl : Nat) : Hart :=
  let e := fl &&& t.cf 0x8C0 4 0
  if t.cf 0x8C0 5 5 = 1 ∧ e ≠ 0 then
    (t.setC 0x8C0 [(8, 5, t.cf 0x8C0 12 8 ||| e)]).fsDirty
  else t
/-- Does an operation with these flags trap precisely (R358)? -/
def Hart.fpTraps (t : Hart) (fl : Nat) : Bool := t.cf 0x8C0 5 5 == 0 && fl &&& t.cf 0x8C0 4 0 != 0

/-- A scalar FP operation (R356–R359). -/
def fpIns (i : Ins) (op : FpOp) (rm rd rs1 rs2 rs3 : Nat) (double : Bool) : Act := .read fun s =>
  let t := s.hart i.hart
  if t.fsOff then illegalIns i
  else match (if fpRounds op then t.round rm else some 0) with
  | none => illegalIns i
  | some r =>
    let get := fun (k : Nat) (d : Bool) => if d then t.rf k else unbox (t.rf k)
    let a := if fpFromX op then t.rx rs1 else get rs1 (fpSrcDouble op double)
    let v := fpCompute op r double a (get rs2 double) (get rs3 double)
    if t.fpTraps v.2 then selfTrap i { cause := 24, tval := v.2 }
    else retires i fun u =>
      let w := if fpToX op then u.wx rd v.1 else (u.wf rd (if double then v.1 else nanBox v.1)).fsDirty
      (if v.2 = 0 then w else (w.accrue v.2).fsDirty).pend v.2

/-- The number of registers of a group, and of elements, at a vtype (V 1.0): LMUL × 8, SEW. -/
def lmul8 (vt : Nat) : Nat := match vt % 8 with | 0 => 8 | 1 => 16 | 2 => 32 | 3 => 64 | 5 => 1 | 6 => 2 | 7 => 4 | _ => 0
/-- SEW of a vtype. -/
def sewOf (vt : Nat) : Nat := 8 * 2 ^ (vt / 8 % 8)
/-- VLMAX of a vtype. -/
def vlmax (vt : Nat) : Nat := 256 * lmul8 vt / 8 / sewOf vt
/-- Is a vtype value supported (VLEN 256, ELEN 64)? -/
def vtypeOk (vt : Nat) : Bool :=
  decide (vt < 256) && decide (vt / 8 % 8 ≤ 3) && vt % 8 != 4 && decide (sewOf vt * 8 ≤ 64 * max 8 (lmul8 vt)) &&
  decide (sewOf vt * 8 ≤ 64 * lmul8 vt)
/-- The bytes below element `e` come from the new value, the rest stays. -/
def vmerge (old new : BitVec 256) (bits : Nat) : BitVec 256 :=
  let m : BitVec 256 := BitVec.ofNat 256 (2 ^ bits - 1)
  (old &&& ~~~ m) ||| (new &&& m)

/-- A vector operation on the register group of vd (R357–R359). -/
def vecIns (i : Ins) (code vd vs1 vs2 rs1 : Nat) (isFp toX toF : Bool) : Act := .read fun s =>
  let t := s.hart i.hart
  let vt := (t.c 0xC21).toNat
  if t.vsOff || t.det || 2 ^ 63 ≤ vt || (isFp && (t.fsOff || (t.round 7).isNone)) then illegalIns i
  else
    let vl := (t.c 0xC20).toNat
    let v0 := (t.c 0x008).toNat
    let regs := max 1 (lmul8 vt / 8)
    let ops := fun (k : Nat) => [t.rv 0, t.rv (vd + k), t.rv (vs1 + k), t.rv (vs2 + k)]
    let all := (List.range regs).flatMap ops
    let fl := fun (e : Nat) => if isFp then (Config.vecFlags code vt e all (t.rx rs1) (t.rf rs1)).toNat else 0
    let hit := if t.cf 0x8C0 5 5 = 0 then (List.range vl).find? (fun e => decide (v0 ≤ e) && t.fpTraps (fl e)) else none
    let upto := hit.getD vl
    let flags := ((List.range upto).filter fun e => decide (v0 ≤ e)).foldl (fun a e => a ||| fl e) 0
    let write := fun (u : Hart) =>
      if toX then (if hit.isSome then u else u.wx rd0 (Config.vecScalar code vt vl all (t.rx rs1) (t.rf rs1)))
      else if toF then (if hit.isSome then u else (u.wf rd0 (Config.vecScalar code vt vl all (t.rx rs1) (t.rf rs1))).fsDirty)
      else (List.range regs).foldl (fun u k =>
        let new := Config.vecResult code vt (vl, v0) k all (t.rx rs1) (t.rf rs1)
        let bits := min 256 (upto * sewOf vt - 256 * k)
        u.wv (vd + k) (if hit.isSome then vmerge (t.rv (vd + k)) new bits else new)) u
    let marks := fun (u : Hart) =>
      let w := (write u).vsDirty
      (if flags = 0 then w else (w.accrue flags).fsDirty).pend flags
    match hit with
    | some e => .all [
        modHart i.hart fun u => (marks u).set 0x008 (BitVec.ofNat 64 e), selfTrap i { cause := 24, tval := fl e } ]
    | none => retires i fun u => (marks u).set 0x008 0
where
  /-- The scalar destination of the operation is named by the vd field. -/
  rd0 : Nat := vd

/-- vsetvli, vsetivli and vsetvl: `kind` 0, 1, 2. An unsupported vtype sets vill. -/
def vsetIns (i : Ins) (rd rs1 vt kind : Nat) : Act := .read fun s =>
  let t := s.hart i.hart
  let new := if kind = 2 then (t.rx vt).toNat else vt
  if t.vsOff || t.det then illegalIns i
  else if !vtypeOk new then retires i fun u => (((u.set 0xC21 0x8000000000000000).set 0xC20 0).wx rd 0).vsDirty
  else
    let avl := if kind = 1 then rs1 else if rs1 % 32 ≠ 0 then (t.rx rs1).toNat
      else if rd % 32 ≠ 0 then vlmax new else (t.c 0xC20).toNat
    let vl := BitVec.ofNat 64 (min avl (vlmax new))
    retires i fun u => ((((u.set 0xC21 (BitVec.ofNat 64 new)).set 0xC20 vl).set 0x008 0).wx rd vl).vsDirty

/-- FP and vector loads, moves and the like need their unit; x-register results do not change FS. -/
def fpMove (i : Ins) (f : Hart → Hart) : Act := .read fun s =>
  if (s.hart i.hart).fsOff then illegalIns i else retires i f

/-- A CSR access by an instruction: read, and a write where it has one (Zicsr). With V = 1 a supervisor CSR's number means
the VS copy. -/
def csrAccess (i : Ins) (rd num : Nat) (writes : Bool) (newVal : W64 → W64) (apply : W64 → Act) : Act := .read fun s =>
  match (s.hart i.hart).csrFault num writes (s.hdbg i.hart).prog with
  | some c => insTrap i c
  | none => withFree fun k => .read fun s =>
      let old := s.csrRead i.hart (vsNumber (s.hart i.hart) num) k
      .seq (retires i fun t => t.wx rd old) (.when writes (apply (newVal old)))

/-- WFI (privileged 1.12, H 1.0): the hart waits until an interrupt stands that xie enables. -/
def wfiIns (i : Ins) : Act := .read fun s =>
  let t := s.hart i.hart
  if t.priv < 3 ∧ t.cf 0x300 21 21 = 1 then illegalIns i
  else if t.virt ∧ (t.priv = 0 ∨ t.cf 0x600 21 21 = 1) then virtualIns i
  else if t.priv = 0 then illegalIns i
  else .seq (retire i.hart (insLen i)) (modHart i.hart fun u => { u with wfi := true })

/-- ECALL and EBREAK. -/
def ecallIns (i : Ins) : Act := .read fun s =>
  let t := s.hart i.hart
  selfTrap i { cause := if t.priv = 0 then 8 else if t.priv = 3 then 11 else if t.virt then 10 else 9 }
def ebreakIns (i : Ins) : Act := .read fun s =>
  let t := s.hart i.hart
  let d := (s.hdbg i.hart).dcsr
  let into := if t.virt then (if t.priv = 0 then d.testBit 16 else d.testBit 17)
    else if t.priv = 3 then d.testBit 15 else if t.priv = 1 then d.testBit 13 else d.testBit 12
  if (s.hdbg i.hart).prog then modHdbg i.hart fun x => { x with prog := false }
  else if into && s.debugOk i.hart then enterDebug i.hart 1 t.pc
  else selfTrap i { cause := 3, tval := t.pc }

/-- Control goes to an address; the hart supports 16-bit instructions, so bit 0 alone is dropped. -/
def jumpTo (i : Ins) (target : Nat) (f : Hart → Hart) : Act :=
  .seq (modHart i.hart f) (retireTo i.hart (target / 2 * 2))

/-- An ordinary instruction. -/
def coreIns (i : Ins) (op : CoreOp) : Act := .read fun s =>
  let t := s.hart i.hart
  let back := (t.pc + insLen i) % 2 ^ 64
  match op with
  | .alu o rd rs1 rs2 => retires i fun u => u.wx rd (aluOp o (u.rx rs1) (u.rx rs2))
  | .aluImm o rd rs1 imm => retires i fun u => u.wx rd (aluOp o (u.rx rs1) (BitVec.ofInt 64 imm))
  | .lui rd imm => retires i fun u => u.wx rd (BitVec.ofInt 64 (imm * 4096))
  | .auipc rd imm => retires i fun u => u.wx rd (BitVec.ofNat 64 (pcAdd u.pc (imm * 4096)))
  | .branch o rs1 rs2 off =>
    if brCond o (t.rx rs1) (t.rx rs2) then
      jumpTo i (pcAdd t.pc off) fun u => (u.trainBranch t.pc true).trainTaken t.pc (pcAdd t.pc off)
    else retires i fun u => u.trainBranch t.pc false
  | .jal rd off => jumpTo i (pcAdd t.pc off) fun u =>
      ((u.trainTaken t.pc (pcAdd t.pc off)).trainLink rd 0 back false).wx rd (BitVec.ofNat 64 back)
  | .jalr rd rs1 off =>
    let target := pcAdd (t.rx rs1).toNat off
    jumpTo i target fun u => ((u.trainTaken t.pc target).trainLink rd rs1 back true).wx rd (BitVec.ofNat 64 back)
  | .fp o rm rd rs1 rs2 rs3 d => fpIns i o rm rd rs1 rs2 rs3 d
  | .fsgnj kind rd rs1 rs2 d => fpMove i fun u =>
      let a := if d then u.rf rs1 else unbox (u.rf rs1)
      let b := if d then u.rf rs2 else unbox (u.rf rs2)
      let m : W64 := if d then 0x8000000000000000 else 0x80000000
      let sg := if kind = 0 then b &&& m else if kind = 1 then ~~~ b &&& m else (a ^^^ b) &&& m
      (u.wf rd (if d then (a &&& ~~~ m) ||| sg else nanBox ((a &&& ~~~ m) ||| sg))).fsDirty
  | .fmvToInt rd rs1 d => fpMove i fun u => u.wx rd (if d then u.rf rs1 else sx32 (u.rf rs1))
  | .fmvToFp rd rs1 d => fpMove i fun u => (u.wf rd (if d then u.rx rs1 else nanBox (u.rx rs1))).fsDirty
  | .vec code vd vs1 vs2 rs1 isFp toX toF => vecIns i code vd vs1 vs2 rs1 isFp toX toF
  | .vsetvl rd rs1 vt kind => vsetIns i rd rs1 vt kind
  | .csrRead rd num => csrAccess i rd num false (fun v => v) fun _ => .skip
  | .hint => retires i fun u => u
  | .wfi => wfiIns i
  | .ecall => ecallIns i
  | .ebreak => ebreakIns i
  | .illegal => illegalIns i

/-- INSTRUCTION_EXECUTE (R328): an ordinary instruction issues, in order with the loads before it. -/
def execInstructionExecute (i : Ins) (op : CoreOp) (s : State) : Out :=
  commit (issueInOrder i fun _ => coreIns i op) s

/-- BRANCH_MISPREDICT (R338): a branch at `pc` resolved against its prediction. The restored checkpoint with the real
outcome applied is what INSTRUCTION_EXECUTE of the branch leaves; the event is counted. -/
def execBranchMispredict (hart pc : Nat) (s : State) : Out :=
  commit (if s.hartUp hart ∧ !(s.hart hart).det ∧ ((s.hart hart).pred.btb.any (·.1 == pc) ∨
      (s.hart hart).pred.base.any (·.1 == pc)) then bump (CORE_BR_MISP (s.nodeOf hart)) else .skip) s

/-- MEMORY_ORDER_FLUSH (R333): the address of the store at `storePc` resolves onto the younger load at `loadPc`, which has
issued: it and everything younger is discarded and fetched again, and the store-set predictor learns the pair. -/
def execMemoryOrderFlush (hart loadPc storePc : Nat) (s : State) : Out :=
  let t := s.hart hart
  commit (if !s.hartUp hart ∨ t.det ∨ !(t.lq.any (·.pc == loadPc)) then .skip else .all [
    modHart hart fun u => { u with
      lq := u.lq.takeWhile fun e => e.pc != loadPc
      pc := loadPc
      pred := { u.pred with storeSets := ((loadPc, storePc, u.pred.tag) :: u.pred.storeSets).take 1024 } },
    bump (CORE_MEMORDER_FLUSH (s.nodeOf hart)) ]) s

/-- EXCEPTION (R342): the oldest instruction of hart `hart` takes an exception; every younger one is discarded. -/
def execException (hart cause tval gpa : Nat) (s : State) : Out :=
  commit (if !s.hartUp hart then .skip else
    takeTrap hart { cause := cause % 64, tval := tval % 2 ^ 64, gpa := gpa / 4 % 2 ^ 64 } (match (s.hart hart).lq with
      | e :: _ => e.pc
      | [] => (s.hart hart).pc)) s

/-- The state of a hart after MRET (privileged 1.12, H 1.0). -/
def Hart.mret (t : Hart) : Hart :=
  let mpp := t.cf 0x300 12 11
  let a := t.setC 0x300 ([(3, 1, t.cf 0x300 7 7), (7, 1, 1), (11, 2, 0), (39, 1, 0)] ++ if mpp = 3 then [] else [(17, 1, 0)])
  { a with priv := mpp, virt := mpp != 3 && t.cf 0x300 39 39 == 1, pc := (t.c 0x341).toNat }.retag
/-- The state of a hart after SRET from HS or M. -/
def Hart.sretHs (t : Hart) : Hart :=
  let a := (t.setC 0x300 [(1, 1, t.cf 0x300 5 5), (5, 1, 1), (8, 1, 0), (17, 1, 0)]).setC 0x600 [(7, 1, 0)]
  { a with priv := t.cf 0x300 8 8, virt := t.cf 0x600 7 7 == 1, pc := (t.c 0x141).toNat }.retag
/-- The state of a hart after SRET from VS. -/
def Hart.sretVs (t : Hart) : Hart :=
  let a := t.setC 0x200 [(1, 1, t.cf 0x200 5 5), (5, 1, 1), (8, 1, 0)]
  { a with priv := t.cf 0x200 8 8, pc := (t.c 0x241).toNat }.retag

/-- XRET (R342): `mret` or SRET, serialising. -/
def execXret (i : Ins) (mret : Bool) (s : State) : Out :=
  commit (serialise i fun s =>
    let t := s.hart i.hart
    let done := fun (f : Hart → Hart) => (.seq (retire i.hart 0) (modHart i.hart f) : Act)
    if mret then (if t.priv = 3 then done Hart.mret else illegalIns i)
    else if t.priv = 0 then (if t.virt then virtualIns i else illegalIns i)
    else if t.virt then (if t.cf 0x600 22 22 = 1 then virtualIns i else done Hart.sretVs)
    else if t.priv = 1 ∧ t.cf 0x300 22 22 = 1 then illegalIns i
    else done Hart.sretHs) s

end Sys2Proof.Machine
end

