-- ==== Sys2Proof/Machine/Lsu.lean ====
section
/-! DEFINITION. Loads, stores, atomics, fences, hints and cache-block operations of a hart (sections 12.3, 3.5 and 3.6), and
the instructions that serialise (chapters 12 to 14, 18). Loads and stores wait in the queues of R331 for lines that the
tile does not hold. -/

namespace Sys2Proof.Machine

/-! ### Loads (R331–R334) -/

/-- Do the bytes of a load and of a store queue entry overlap? -/
def StoreEnt.hits (q : StoreEnt) (pa n : Nat) : Bool :=
  decide (q.kind < 2) && decide (q.pa < pa + n) && decide (pa < q.pa + q.size)
/-- The older stores that overlap a load, the youngest last. -/
def Hart.overlap (t : Hart) (e : LoadEnt) : List StoreEnt :=
  t.sq.filter fun q => q.hits e.pa e.n1 || (decide (e.n1 < e.size) && q.hits e.pa2 (e.size - e.n1))
/-- Is a load served by forwarding from the store queue (Table 12.4)? -/
def Hart.forward (t : Hart) (e : LoadEnt) : Option Nat :=
  match (t.overlap e).getLast? with
  | some q =>
    if !q.vector && e.kind != .vector && e.n1 == e.size && decide (q.pa ≤ e.pa) &&
        decide (e.pa + e.size ≤ q.pa + q.size) then
      some (q.data / 2 ^ (8 * (e.pa - q.pa)) % 2 ^ (8 * e.size))
    else none
  | none => none

/-- A line as a waiting load finds it: among the copies it has got, or in the tile's L2. -/
def State.loadLine (s : State) (n : Nat) (e : LoadEnt) (l : Nat) : Option (Line × Bool) :=
  match e.got.find? (·.1 == l) with
  | some g => some g.2
  | none => (s.l2 n l).map fun x => (x.data, x.poison)
/-- `n` bytes of a line from byte `o` as a number. -/
def lineNat (d : Line) (o n : Nat) : Nat := d.toNat / 2 ^ (8 * o) % 2 ^ (8 * n)
/-- What a load reads now: its value and the address of poisoned data; `none` while it must wait. -/
def State.loadNow (s : State) (h : Nat) (e : LoadEnt) : Option (Nat × Option Nat) :=
  let t := s.hart h
  let n := s.nodeOf h
  match t.forward e with
  | some v => some (v, none)
  | none =>
    if !(t.overlap e).isEmpty then none
    else match s.loadLine n e (e.pa / 64), s.loadLine n e (e.pa2 / 64) with
    | some a, some b =>
      let lo := lineNat a.1 (e.pa % 64) e.n1
      let hi := if e.n1 < e.size then lineNat b.1 (e.pa2 % 64) (e.size - e.n1) else 0
      some (lo + hi * 2 ^ (8 * e.n1), if a.2 then some e.pa else if e.n1 < e.size ∧ b.2 then some e.pa2 else none)
    | _, _ => none

/-- A loaded value goes to its register. -/
def Hart.loadInto (t : Hart) (e : LoadEnt) (v : Nat) : Hart :=
  match e.kind with
  | .signed => t.wx e.rd (BitVec.ofInt 64 (BitVec.ofNat (8 * e.size) v).toInt)
  | .unsigned => t.wx e.rd (BitVec.ofNat 64 v)
  | .float => (t.wf e.rd (if e.size = 4 then nanBox (BitVec.ofNat 64 v) else BitVec.ofNat 64 v)).fsDirty
  | .vector => ((t.wv e.rd (vmerge (t.rv e.rd) (BitVec.ofNat 256 v) (8 * e.size))).set 0x008 0).vsDirty

/-- The oldest load performs if it can and retires; poisoned data is a precise load access fault (R554). -/
def loadHead (h : Nat) : Act := .read fun s =>
  match (s.hart h).lq with
  | [] => .skip
  | e :: _ =>
    let now := if e.replay then s.loadNow h { e with got := [] } else match e.val with
      | some v => some (v, none)
      | none => s.loadNow h e
    match now with
    | none => .skip
    | some (_, some pa) => .all [
        poisonUse h pa,
        takeTrap h { cause := 5, tval := if pa = e.pa ∨ (e.va + e.n1) % 4096 ≠ 0 then e.va else e.va + e.n1 } e.pc ]
    | some (v, none) => .all [
        fillL1 (s.nodeOf h) (e.pa / 64) false,
        .when (decide (e.n1 < e.size)) (fillL1 (s.nodeOf h) (e.pa2 / 64) false),
        modHart h fun t =>
          let u := (if (t.c 0x320).getLsbD 2 then t else t.set 0xB02 (t.c 0xB02 + 1)).loadInto e v
          { u with lq := t.lq.drop 1 } ]
/-- Younger loads perform early; they keep their value until they retire. -/
def loadPerform (h : Nat) : Act := .read fun s => modHart h fun t =>
  { t with lq := t.lq.map fun e => if e.val.isSome then e else match s.loadNow h e with
      | some (v, none) => { e with val := some v }
      | _ => e }
/-- Go on with the loads of a hart: those that can perform do, and retire in program order. -/
def loadPump (h : Nat) : Act := .read fun s =>
  .seq (loadPerform h) (.each (s.hart h).lq fun _ => loadHead h)

/-- Counters and the stride detectors on a load or store of a line (R88, Table 3.10). -/
def demand (n pc l : Nat) (isLoad : Bool) : Act := .read fun s =>
  match s.l2 n l with
  | some x => .all [
      .when x.l1d.isNone (.all [bump (CORE_L1D_MISS n), .when isLoad (strideTrain n pc l)]),
      .when x.pf (.all [bump (CORE_PF_HIT n), modL2 n l fun y => { y with pf := false }]) ]
  | none => .all [bump (CORE_L1D_MISS n), bump (CORE_L2_MISS n), .when isLoad (strideTrain n pc l)]

/-- All parts of a data access: their translations, or the first trap with the bytes of its part. -/
def State.reachAll (s : State) (h : Nat) (a : Acc) (only : List Place) :
    List (Nat × Nat) → Except (Trap × Nat) (List (Nat × Xl × XlFrom × Place))
  | [] => .ok []
  | p :: r => match s.reach h a p.1 p.2 only with
    | .error e => .error (e, p.2)
    | .ok x => match s.reachAll h a only r with
      | .error e => .error e
      | .ok l => .ok ((p.1, x) :: l)
/-- What the translations of an access leave behind. -/
def xlAll (h : Nat) (a : Acc) (l : List (Nat × Xl × XlFrom × Place)) : Act := .each l fun p => xlDone h a p.1 p.2.1 p.2.2.1

/-- Read `n` bytes of the scratchpad. -/
def Hart.tcmRead (t : Hart) (pa n : Nat) : Nat :=
  leNat ((List.range n).map fun k => Tab.getD t.tcm (pa + k - t.tcmBase) 0)
/-- Write `n` bytes of the scratchpad. -/
def Hart.tcmWrite (t : Hart) (pa n v : Nat) : Hart :=
  { t with tcm := (List.range n).foldl (fun m k =>
      Tab.put m (pa + k - t.tcmBase) (BitVec.ofNat 8 (v / 2 ^ (8 * k)))) t.tcm }

/-- The trigger that a data access meets, as what happens instead of the access. -/
def trigData (i : Ins) (s : State) (kind va : Nat) : Option Act :=
  match s.trigAt i.hart kind va with
  | some 1 => if s.debugOk i.hart then some (enterDebug i.hart 2 (s.hart i.hart).pc) else none
  | some _ => some (selfTrap i { cause := 3, tval := (s.hart i.hart).pc })
  | none => none
/-- An access of the hypervisor's (HLV, HLVX, HSV): who may make it. -/
def hypFault (t : Hart) (hyp : Nat) : Option Nat :=
  if hyp = 0 then none else if t.virt then some 22 else if t.priv = 0 ∧ t.cf 0x600 9 9 = 0 then some 2 else none
/-- Is the unit of an access's register off? -/
def Hart.unitOff (t : Hart) (k : LoadKind) : Bool :=
  (k == .float && t.fsOff) || (k == .vector && (t.vsOff || t.det))

/-- LOAD (R332): `size` bytes at rs1 + imm; `hyp` 1 is HLV and 2 HLVX. A load of an I/O address waits for IO_ACCESS. -/
def execLoad (i : Ins) (rd rs1 : Nat) (imm : Int) (size : Nat) (kind : LoadKind) (hyp : Nat) (s : State) : Out :=
  commit (issue i fun s =>
    let h := i.hart
    let t := s.hart h
    let n := s.nodeOf h
    let va := pcAdd (t.rx rs1).toNat imm
    let a := t.dataAcc 0 hyp
    if t.lq.any (fun e => e.rd % 32 == rs1 % 32 && rs1 % 32 != 0 && (e.kind == .signed || e.kind == .unsigned)) ||
        decide (128 ≤ t.lq.length) then .skip
    else if t.unitOff kind then (if t.lq.isEmpty then illegalIns i else .skip)
    else match hypFault t hyp with
    | some c => if t.lq.isEmpty then insTrap i c else .skip
    | none => match trigData i s 0 va with
    | some x => if t.lq.isEmpty then x else .skip
    | none => match s.reachAll h a [.dram, .tcm, .io] (accParts va size) with
    | .error e => if t.lq.isEmpty then accessTrap h a e.2 e.1 t.pc else .skip
    | .ok l => if !t.lq.isEmpty && l.any (fun x => !x.2.1.upd.isEmpty) then .skip else
      let p1 := match l with | x :: _ => x.2.1.pa | [] => 0
      let p2 := match l with | _ :: y :: _ => y.2.1.pa | _ => p1
      let n1 := match l with | _ :: _ :: _ => 64 - va % 64 | _ => size
      let e : LoadEnt := { rd := rd, pa := p1, pa2 := p2, n1 := n1, va := va, size := size, kind := kind, pc := t.pc,
                           len := insLen i }
      if l.all (fun x => x.2.2.2 == .tcm) then
        (if t.lq.isEmpty then .all [xlAll h a l, retires i fun u =>
          u.loadInto e (u.tcmRead p1 n1 + u.tcmRead p2 (size - n1) * 2 ^ (8 * n1))] else .skip)
      else if l.any (fun x => x.2.2.2 == .io) then
        (if !t.lq.isEmpty then .skip
         else if 1 < l.length then takeTrap h { cause := 5, tval := va } t.pc
         else .all [xlAll h a l, modHart h fun u => { u with io := some {
            rd := rd, pa := p1, va := va, size := size, kind := kind, store := false, data := 0,
            mpriv := a.priv == 3, pc := t.pc, len := insLen i } } ])
      else if l.any (fun x => x.2.2.2 == .tcm) then takeTrap h { cause := 5, tval := va } t.pc
      else if t.det then (if !t.lq.isEmpty || !t.sq.isEmpty then .skip else .all [
        xlAll h a l,
        modHart h fun u => { u with lq := u.lq ++ [e], pc := (u.pc + insLen i) % 2 ^ 64, wfi := false },
        .each l fun x => askLine n opRdOnce (x.2.1.pa / 64) .load t.world ])
      else .all [
        xlAll h a l,
        .each l fun x => demand n t.pc (x.2.1.pa / 64) true,
        .when (!(t.overlap e).isEmpty && (t.forward e).isNone) (bump (CORE_FWD_PARTIAL n)),
        .when (t.forward e).isNone (.each l fun x => .when (s.l2 n (x.2.1.pa / 64)).isNone
          (askLine n opRdShared (x.2.1.pa / 64) .load t.world)),
        modHart h fun u => { u with lq := u.lq ++ [e], pc := (u.pc + insLen i) % 2 ^ 64, wfi := false },
        loadPump h ]) s

/-- LOAD_REPLAY (R334): a performed, unretired load whose line was lost is performed again. -/
def execLoadReplay (hart : Nat) (s : State) : Out :=
  let t := s.hart hart
  let n := s.nodeOf hart
  commit (if !s.hartUp hart ∨ !(t.lq.any (·.replay)) then .skip else .all [
    modHart hart fun u => { u with lq := u.lq.map fun e =>
      if e.replay then { e with val := none, got := [], replay := false } else e },
    .each (t.lq.filter (·.replay)) fun e => .each [e.pa / 64, e.pa2 / 64] fun l =>
      .read fun u => .when (u.l2 n l).isNone (askLine n opRdShared l .load t.world),
    loadPump hart ]) s

/-! ### Stores (R331, R92–R94) -/

/-- The bytes of a mask of a line. -/
def byteMask (o n : Nat) : Nat := (2 ^ n - 1) * 2 ^ o
/-- Write bytes into a line. -/
def putLine (d : Line) (o n v : Nat) : Line :=
  let m : Line := BitVec.ofNat 512 ((2 ^ (8 * n) - 1) * 2 ^ (8 * o))
  (d &&& ~~~ m) ||| (BitVec.ofNat 512 (v % 2 ^ (8 * n) * 2 ^ (8 * o)))

/-- Take a store queue entry for each part of a store. -/
def sqPush (h : Nat) (parts : List (Nat × Nat × Nat)) (vector : Bool) (kind : Nat) : Act := modHart h fun t =>
  { t with sq := t.sq ++ parts.map fun p => { pa := p.1, size := p.2.1, data := p.2.2, vector := vector, kind := kind } }

/-- A store of `v` behind all checks: into the scratchpad, to I/O, or into the store queue (R335, R336, R343). -/
def storeBody (i : Ins) (va size : Nat) (kind : LoadKind) (hyp v : Nat) (then' : Act) (s : State) : Act :=
  let h := i.hart
  let t := s.hart h
  let a := t.dataAcc 1 hyp
  match s.reachAll h a [.dram, .tcm, .io] (accParts va size) with
  | .error e => accessTrap h a e.2 e.1 t.pc
  | .ok l =>
    let n1 := match l with | _ :: _ :: _ => 64 - va % 64 | _ => size
    let parts := match l with
      | x :: y :: _ => [(x.2.1.pa, n1, v % 2 ^ (8 * n1)), (y.2.1.pa, size - n1, v / 2 ^ (8 * n1))]
      | x :: _ => [(x.2.1.pa, size, v)]
      | [] => []
    if l.all (fun x => x.2.2.2 == .tcm) then .all [
      xlAll h a l, retires i fun u => parts.foldl (fun u p => u.tcmWrite p.1 p.2.1 p.2.2) u, then' ]
    else if l.any (fun x => x.2.2.2 == .io) then
      (if 1 < l.length then takeTrap h { cause := 7, tval := va } t.pc
       else .all [xlAll h a l, modHart h fun u => { u with io := (match l with
        | x :: _ => some { rd := 0, pa := x.2.1.pa, va := va, size := size, kind := kind, store := true, data := v,
                           mpriv := a.priv == 3, pc := t.pc,
                           len := insLen i }
        | [] => none) } ])
    else if l.any (fun x => x.2.2.2 == .tcm) then takeTrap h { cause := 7, tval := va } t.pc
    else if 96 < t.sq.length + parts.length || (t.det && !t.sq.isEmpty) then .skip
    else .all [xlAll h a l, sqPush h parts (kind == .vector) 0, retires i fun u => u, then']

/-- STORE (R331): `size` bytes of rs2 at rs1 + imm; `hyp` 1 is HSV. -/
def execStore (i : Ins) (rs1 rs2 : Nat) (imm : Int) (size : Nat) (kind : LoadKind) (hyp : Nat) (s : State) : Out :=
  commit (issueInOrder i fun s =>
    let t := s.hart i.hart
    let va := pcAdd (t.rx rs1).toNat imm
    let v := match kind with
      | .float => (t.rf rs2).toNat
      | .vector => (t.rv rs2).toNat
      | _ => (t.rx rs2).toNat
    if t.unitOff kind then illegalIns i
    else match hypFault t hyp with
    | some c => insTrap i c
    | none => match trigData i s 1 va with
    | some x => x
    | none => storeBody i va size kind hyp (v % 2 ^ (8 * size))
        (if kind = .vector then modHart i.hart fun u => (u.set 0x008 0).vsDirty else .skip) s) s

/-- The streaming counter on a store of bytes `mask` to line `l` (R92). -/
def Stream.store (x : Stream) (l mask : Nat) : Stream :=
  let broken := x.mask != 0 && x.line != l
  let m := (if x.line = l then x.mask else 0) ||| mask
  let base := if broken then 0 else x.count
  if m = 2 ^ 64 - 1 then
    { count := if x.lastFull = some (l - 1) ∧ l ≠ 0 ∧ !broken then base + 1 else 1, line := l, mask := 0, lastFull := some l }
  else { x with count := base, line := l, mask := m }
/-- The entries at the head of the store queue that go to one line in consecutive order (R331). -/
def Hart.sqGroup (t : Hart) : List StoreEnt :=
  match t.sq with
  | [] => []
  | e :: _ => t.sq.takeWhile fun q => q.pa / 64 == e.pa / 64 && q.kind == 0 && !q.sent
/-- The bytes that entries write, and the line that they make of `d`. -/
def sqMask (l : List StoreEnt) : Nat := l.foldl (fun m q => m ||| byteMask (q.pa % 64) q.size) 0
def sqMerge (l : List StoreEnt) (d : Line) : Line := l.foldl (fun d q => putLine d (q.pa % 64) q.size q.data) d

/-- Mark the head of the store queue as sent; `k` entries become one that holds the whole line. -/
def sqSent (h k l : Nat) (d : Line) : Act := modHart h fun t =>
  match t.sq with
  | [] => t
  | e :: _ => { t with sq := { e with pa := l * 64, size := 64, data := d.toNat, sent := true } :: t.sq.drop k }

/-- STORE_DRAIN (R331, R92–R96, R343): the oldest entry of the store queue goes to L1D, asks for its line, or is sent to
the home. -/
def execStoreDrain (hart : Nat) (s : State) : Out :=
  let t := s.hart hart
  let n := s.nodeOf hart
  commit (match t.sq with
    | [] => .skip
    | e :: _ =>
      let l := e.pa / 64
      let x := Tab.getD s.cache.stream n {}
      let setStream := fun (f : Stream → Stream) => (.cache fun c => { c with stream := Tab.upd c.stream n {} f } : Act)
      let w := s.dramSecure (l * 64)
      let g := t.sqGroup
      let send := fun (op mask : Nat) (d : Option (Line × Bool)) (why : ReqWhy) => sendReq n op l why t.world 0x3FFF d mask
      let mark := modHart hart fun u => { u with sq := match u.sq with | q :: r => { q with sent := true } :: r | [] => [] }
      if e.sent || (s.hartNode hart).isNone || t.lost || decide (tsDrain < s.tstate n) then .skip
      else if e.kind = 2 then .all [mark, send opClean 0 none .clean]
      else if e.kind = 3 then .all [mark, send opFlush 0 none .flush]
      else if t.det then
        (if e.size = 64 then .all [mark, send opWrFull (2 ^ 64 - 1) (some (BitVec.ofNat 512 e.data, false)) .stream]
         else .all [mark, send opWrPart (byteMask (e.pa % 64) e.size) (some (putLine 0 (e.pa % 64) e.size e.data, false)) .stream])
      else if e.kind = 1 then
        match s.l2 n l with
        | some y =>
          if (y.st = .m ∨ y.st = .e) ∧ y.l1d.isSome then .all [
            modL2 n l fun z => { z with st := .m, data := 0, poison := false },
            modHart hart fun u => { u with sq := u.sq.drop 1 }, setStream fun x => { x with count := 0, mask := 0 },
            evictInDrain n l ]
          else if s.asked n l then .skip else tileReq n opClaimZero l .zero w
        | none => if s.asked n l then .skip else tileReq n opClaimZero l .zero w
      else if 8 ≤ x.count ∧ sqMask g = 2 ^ 64 - 1 ∧ x.lastFull = some (l - 1) ∧ l ≠ 0 then .all [
        bump (CORE_STREAM_LINES n), dropL2 n l, sqSent hart g.length l (sqMerge g 0),
        setStream fun x => x.store l (2 ^ 64 - 1),
        send opWrFull (2 ^ 64 - 1) (some (sqMerge g 0, false)) .stream ]
      else match s.l2 n l with
      | some y =>
        if y.st = .m ∨ y.st = .e then .all [
          demand n t.pc l false,
          modL2 n l fun z => { z with st := .m, data := putLine z.data (e.pa % 64) e.size e.data,
                                      poison := z.poison && e.size != 64 },
          fillL1 n l false,
          modHart hart fun u => { u with sq := u.sq.drop 1 },
          setStream fun x => x.store l (byteMask (e.pa % 64) e.size),
          loadPump hart, evictInDrain n l ]
        else if s.asked n l then .skip
        else tileReq n opUpgrade l .store w
      | none =>
        if s.asked n l then .skip
        else .all [bump (CORE_L1D_MISS n), bump (CORE_L2_MISS n), tileReq n opRdUnique l .store w]) s

/-! ### Atomics (R334, R336) -/

/-- The result of an AMO on `n` bytes. -/
def amoOp (op : AmoOp) (n old v : Nat) : Nat :=
  let s := fun (x : Nat) => (BitVec.ofNat (8 * n) x).toInt
  match op with
  | .swap => v | .add => (old + v) % 2 ^ (8 * n) | .xor => old ^^^ v | .and => old &&& v | .or => old ||| v
  | .min => if s old < s v then old else v | .max => if s old < s v then v else old
  | .minu => min old v | .maxu => max old v
/-- A value of `n` bytes sign-extended. -/
def sxN (n v : Nat) : W64 := BitVec.ofInt 64 (BitVec.ofNat (8 * n) v).toInt

/-- An atomic access to a line that the tile holds in M or E, or to the scratchpad: `f` gives, from the old bytes, the new
bytes where there are any, and what the hart gets. A line that is not held so is asked for, and the instruction waits.
`acc` is the access type for translation. -/
def atomic (i : Ins) (rs1 size acc : Nat) (f : Nat → Nat → Option Nat × (Hart → Hart)) (s : State) : Act :=
  let h := i.hart
  let t := s.hart h
  let n := s.nodeOf h
  let va := (t.rx rs1).toNat
  let a := t.dataAcc acc 0
  if va % size ≠ 0 then selfTrap i { cause := 6, tval := va }
  else match s.reach h a va size [.dram, .tcm, .io] with
  | .error e => accessTrap h a size e t.pc
  | .ok (x, w, pl) =>
    let done := xlDone h a va x w
    if pl = .tcm then
      let r := f x.pa (t.tcmRead x.pa size)
      .all [done, retires i fun u => r.2 (match r.1 with | some v => u.tcmWrite x.pa size v | none => u)]
    else if pl = .io ∨ t.det then takeTrap h { cause := 7, tval := va } t.pc
    else
      let l := x.pa / 64
      let ask := fun (op : Nat) => (if s.asked n l then .skip else tileReq n op l .amo t.world : Act)
      match s.l2 n l with
      | none => .all [done, ask opRdUnique]
      | some y =>
        if y.st = .s ∨ y.st = .o then .all [done, ask opUpgrade]
        else if y.poison then .all [done, poisonUse h x.pa, takeTrap h { cause := if acc = 0 then 5 else 7, tval := va } t.pc]
        else
          let r := f x.pa (lineNat y.data (x.pa % 64) size)
          .all [done, demand n t.pc l false,
            (match r.1 with
             | some v => modL2 n l fun z => { z with st := .m, data := putLine z.data (x.pa % 64) size v }
             | none => .skip),
            fillL1 n l false, retires i r.2 ]

/-- AMO (R336): an atomic operation of 4 or 8 bytes at rs1. -/
def execAmo (i : Ins) (op : AmoOp) (rd rs1 rs2 size : Nat) (s : State) : Out :=
  commit (serialise i fun s => atomic i rs1 size 1 (fun _ old =>
    (some (amoOp op size old (((s.hart i.hart).rx rs2).toNat % 2 ^ (8 * size))), fun t => t.wx rd (sxN size old))) s) s
/-- LOAD_RESERVED (R334): the reservation is the line of the address. -/
def execLoadReserved (i : Ins) (rd rs1 size : Nat) (s : State) : Out :=
  commit (serialise i fun s => atomic i rs1 size 0 (fun pa old =>
    (none, fun t => { t.wx rd (sxN size old) with resv := some (pa / 64) })) s) s
/-- STORE_CONDITIONAL (R336): it stores and gives 0 while the reservation covers the address, else gives 1; the
reservation ends. -/
def execStoreConditional (i : Ins) (rd rs1 rs2 size : Nat) (s : State) : Out :=
  commit (serialise i fun s =>
    let t := s.hart i.hart
    let v := (t.rx rs2).toNat % 2 ^ (8 * size)
    let va := (t.rx rs1).toNat
    let ok := match s.reach i.hart (t.dataAcc 1 0) va size [.dram, .tcm] with
      | .ok (x, _, _) => t.resv == some (x.pa / 64)
      | .error _ => true
    if va % size = 0 ∧ !ok then retires i fun u => { u.wx rd 1 with resv := none }
    else atomic i rs1 size 1 (fun _ _ => (some v, fun u => { u.wx rd 0 with resv := none })) s) s

/-! ### Fences and hints -/

/-- FENCE (R330, R135): it waits until the older accesses that it orders have performed. `pred` has bits W, R, O, I from
bit 0. -/
def execFence (i : Ins) (pred : Nat) (s : State) : Out :=
  commit (issue i fun s =>
    let t := s.hart i.hart
    if (pred.testBit 0 && (!t.sq.isEmpty || t.btnOut != 0)) || !t.lq.isEmpty then .skip
    else retires i fun u => u) s

/-- FENCE_I (R330): fetched instructions are discarded. -/
def execFenceI (i : Ins) (s : State) : Out :=
  commit (serialise i fun _ => retires i fun u => { u with fbuf := none }) s

/-- PAUSE (R352): the next instruction issues 32 core cycles later, or once an interrupt is pending. -/
def execPause (i : Ins) (s : State) : Out :=
  commit (issueInOrder i fun s => retires i fun u =>
    { u with pauseUntil := s.clk.time + 320 / max 1 (s.coreFreq (s.nodeOf i.hart)) + 1 }) s

/-- A prefetch hint (R91, R376): dropped when its translation would fault or set A or D, or when too few miss slots are
free; `acc` 2 fills L1I, 0 L1D, 1 takes ownership. -/
def prefetchIns (i : Ins) (rs1 : Nat) (imm : Int) (acc : Nat) (s : State) : Act :=
  let t := s.hart i.hart
  let n := s.nodeOf i.hart
  let va := pcAdd (t.rx rs1).toNat imm
  let a := t.dataAcc acc 0
  let fetch : Act := match s.reach i.hart a va 1 [.dram] with
    | .error _ => .skip
    | .ok (x, w, _) =>
      let l := x.pa / 64
      if !x.upd.isEmpty || !s.prefetchOk n || t.det then .skip
      else .all [xlDone i.hart a va x w,
        match s.l2 n l with
        | some y => if acc = 1 ∧ (y.st = .s ∨ y.st = .o) then askLine n opUpgrade l .store t.world else fillL1 n l (acc == 2)
        | none => .all [bump (CORE_L2_MISS n),
            askLine n (if acc = 1 then opRdUnique else opRdShared) l
              (if acc = 2 then .fetch else if acc = 1 then .store else .load) t.world] ]
  .seq fetch (retires i fun u => u)
/-- PREFETCH_I. -/
def execPrefetchI (i : Ins) (rs1 : Nat) (imm : Int) (s : State) : Out := commit (issueInOrder i (prefetchIns i rs1 imm 2)) s
/-- PREFETCH_R. -/
def execPrefetchR (i : Ins) (rs1 : Nat) (imm : Int) (s : State) : Out := commit (issueInOrder i (prefetchIns i rs1 imm 0)) s
/-- PREFETCH_W. -/
def execPrefetchW (i : Ins) (rs1 : Nat) (imm : Int) (s : State) : Out := commit (issueInOrder i (prefetchIns i rs1 imm 1)) s

/-! ### Cache-block operations (R95–R97) -/

/-- Do the envcfg registers let the hart execute a cache-block operation, by bit `b` of each (Zicbom, Zicboz)? -/
def Hart.cboFault (t : Hart) (b : Nat) : Option Nat :=
  if t.priv = 3 then none
  else if !(t.c 0x30A).getLsbD b then some 2
  else if t.virt then
    (if !(t.c 0x60A).getLsbD b || (t.priv == 0 && !(t.c 0x10A).getLsbD b) then some 22 else none)
  else if t.priv = 0 ∧ !(t.c 0x10A).getLsbD b then some 2
  else none
/-- A cache-block operation of `kind` (1 zero, 2 clean, 3 flush): checked as a store, it takes a place in the store
queue. -/
def cboIns (i : Ins) (rs1 bit kind : Nat) (s : State) : Act :=
  let h := i.hart
  let t := s.hart h
  let va := (t.rx rs1).toNat / 64 * 64
  let a := t.dataAcc 1 0
  match t.cboFault bit with
  | some c => insTrap i c
  | none => match s.reach h a va 64 [.dram, .tcm] with
    | .error e => accessTrap h a 64 e t.pc
    | .ok (x, w, pl) =>
      if pl = .tcm then .all [xlDone h a va x w, retires i fun u => if kind = 1 then u.tcmWrite x.pa 64 0 else u]
      else if 96 ≤ t.sq.length then .skip
      else .all [xlDone h a va x w, sqPush h [(x.pa, 64, 0)] false kind, retires i fun u => u]
/-- CBO_ZERO (R95). -/
def execCboZero (i : Ins) (rs1 : Nat) (s : State) : Out := commit (issueInOrder i (cboIns i rs1 7 1)) s
/-- CBO_CLEAN (R96). -/
def execCboClean (i : Ins) (rs1 : Nat) (s : State) : Out := commit (issueInOrder i (cboIns i rs1 6 2)) s
/-- CBO_FLUSH (R96). -/
def execCboFlush (i : Ins) (rs1 : Nat) (s : State) : Out := commit (issueInOrder i (cboIns i rs1 6 3)) s
/-- CBO_INVAL (R96): executes as cbo.flush, under CBIE. -/
def execCboInval (i : Ins) (rs1 : Nat) (s : State) : Out := commit (issueInOrder i (cboIns i rs1 4 3)) s

/-! ### Translation fences (R381) -/

/-- SFENCE_VMA. -/
def execSfenceVma (i : Ins) (rs1 rs2 : Nat) (s : State) : Out :=
  commit (serialise i fun s =>
    let t := s.hart i.hart
    if t.priv = 0 then insTrap i (if t.virt then 22 else 2)
    else if t.virt ∧ t.cf 0x600 20 20 = 1 then virtualIns i
    else if !t.virt ∧ t.priv = 1 ∧ t.cf 0x300 20 20 = 1 then illegalIns i
    else .seq (if t.virt then fenceVvma i.hart rs1 rs2
      else tlbRemove i.hart (fun e => !e.v && fenceSel (t.fenceArg rs1 64) (t.fenceArg rs2 16) e)
        (fun e => !e.v && !e.gstage)) (retires i fun u => u)) s
/-- HFENCE_VVMA. -/
def execHfenceVvma (i : Ins) (rs1 rs2 : Nat) (s : State) : Out :=
  commit (serialise i fun s =>
    let t := s.hart i.hart
    if t.virt then virtualIns i else if t.priv = 0 then illegalIns i
    else .seq (fenceVvma i.hart rs1 rs2) (retires i fun u => u)) s
/-- HFENCE_GVMA. -/
def execHfenceGvma (i : Ins) (rs2 : Nat) (s : State) : Out :=
  commit (serialise i fun s =>
    let t := s.hart i.hart
    let vm := t.fenceArg rs2 14
    let sel := fun (v : Nat) => match vm with | some x => v == x | none => true
    if t.virt then virtualIns i
    else if t.priv = 0 ∨ (t.priv = 1 ∧ t.cf 0x300 20 20 = 1) then illegalIns i
    else .seq (tlbRemove i.hart (fun e => e.v && sel e.vmid) (fun e => e.v && sel e.vmid)) (retires i fun u => u)) s

/-! ### CSR writes (R330, R341, R344, R361, R367) -/

/-- A write of CORE_DETCTL (R344, R367, R467). -/
def detWrite (h : Nat) (v : W64) : Act := .read fun s =>
  let t := s.hart h
  let n := s.nodeOf h
  let base := v.toNat / 2 ^ 16 % 2 ^ 32 * 2 ^ 16
  if t.det then
    if v.getLsbD 0 then .skip
    else .all [
      modHart h fun u => { u.set 0x7C0 (u.c 0x7C0 &&& 0xFFFFFFFF0000) with tcm := [], fbuf := none },
      bump (CORE_DET_SWITCH n) ]
  else if !v.getLsbD 0 then modHart h fun u => u.set 0x7C0 (v &&& 0xFFFFFFFF0000)
  else if !s.dramOf t.world base 65536 then .skip
  else .all [
    .each (s.cache.l2.filter fun p => keyNode p.1 == n) fun p => evictL2 n (keyLine p.1),
    bpClear h,
    .cache fun c => { c with stride := Tab.drop c.stride n },
    modHart h fun u => { u.set 0x7C0 (v &&& 0xFFFFFFFF0001) with tcm := [], tcmWorld := t.world, fbuf := none, resv := none },
    bump (CORE_DET_SWITCH n) ]

/-- A write of a trigger register: a trigger of debug mode's is written there only. -/
def trigWrite (h k num : Nat) (v : W64) (debug : Bool) : Act := .read fun s =>
  let g := ((s.hdbg h).trig[k]?).getD {}
  let ty := if k < 4 then 6 else if k = 4 then 3 else 5
  let w := if debug then v.toNat else v.toNat % 2 ^ 59 + v.toNat / 2 ^ 60 * 2 ^ 60
  let w1 := if w / 2 ^ 60 = ty then w else w % 2 ^ 60 + 15 * 2 ^ 60
  if g.tdata1.testBit 59 && !debug then .skip
  else modHdbg h fun d => d.setTrig k (if num = 0x7A1 then { g with tdata1 := w1 }
    else if num = 0x7A2 then { g with tdata2 := v.toNat } else { g with tdata3 := v.toNat })

/-- What a write of CSR `num` does. -/
def csrApply (h num : Nat) (v : W64) (debug : Bool) : Act := .read fun s =>
  match vsNumber (s.hart h) num with
  | 0x7C0 => detWrite h v
  | 0x5C1 => .when (v.getLsbD 0) (bpClear h)
  | 0x7A1 | 0x7A2 | 0x7A3 => trigWrite h ((s.hart h).c 0x7A0).toNat num v debug
  | 0x7B0 => modHdbg h fun d => { d with
      dcsr := ((BitVec.ofNat 64 d.dcsr &&& ~~~ (0x3BC27 : W64)) ||| (v &&& 0x3BC27)).toNat }
  | 0x7B1 => modHdbg h fun d => { d with dpc := v.toNat / 2 * 2 }
  | n => modHart h fun t => (t.csrStore n v).retag

/-- A CSR instruction: `op` 0 CSRRW, 1 CSRRS, 2 CSRRC; `imm` takes the rs1 field as a value. A write of CORE_DETCTL waits
for the batten buffers and the outstanding misses (R344 step 1). -/
def csrIns (i : Ins) (rd num op rs1 : Nat) (imm : Bool) : Act := serialise i fun s =>
  let t := s.hart i.hart
  let v : W64 := if imm then BitVec.ofNat 64 (rs1 % 32) else t.rx rs1
  if num = 0x7C0 ∧ (t.btnOut ≠ 0 ∨ (s.reqsOf (s.nodeOf i.hart)).any fun q => q.why != .evict) then .skip
  else csrAccess i rd num (op == 0 || rs1 % 32 != 0)
    (fun old => if op = 0 then v else if op = 1 then old ||| v else old &&& ~~~ v) (fun w => csrApply i.hart num w (s.hdbg i.hart).prog)

/-- CSR_WRITE (R330). -/
def execCsrWrite (i : Ins) (rd num op rs1 : Nat) (imm : Bool) (s : State) : Out := commit (csrIns i rd num op rs1 imm) s
/-- DETERMINISTIC_ENTER (R344): a CORE_DETCTL write that sets EN. -/
def execDeterministicEnter (i : Ins) (rd op rs1 : Nat) (imm : Bool) (s : State) : Out :=
  commit (csrIns i rd 0x7C0 op rs1 imm) s
/-- DETERMINISTIC_EXIT (R344): a CORE_DETCTL write that clears EN. -/
def execDeterministicExit (i : Ins) (rd op rs1 : Nat) (imm : Bool) (s : State) : Out :=
  commit (csrIns i rd 0x7C0 op rs1 imm) s
/-- CORE_BPCTL_FLUSH (R341). -/
def execCoreBpctlFlush (i : Ins) (rd op rs1 : Nat) (imm : Bool) (s : State) : Out := commit (csrIns i rd 0x5C1 op rs1 imm) s
/-- CORE_BPCTX_WRITE (R339). -/
def execCoreBpctxWrite (i : Ins) (rd op rs1 : Nat) (imm : Bool) (s : State) : Out := commit (csrIns i rd 0x5C0 op rs1 imm) s
/-- CORE_FPCTL_WRITE (R361). -/
def execCoreFpctlWrite (i : Ins) (rd op rs1 : Nat) (imm : Bool) (s : State) : Out := commit (csrIns i rd 0x8C0 op rs1 imm) s

/-- FPSYNC (R360). -/
def execFpsync (i : Ins) (s : State) : Out :=
  commit (serialise i fun s =>
    let t := s.hart i.hart
    let p := t.cf 0x8C0 12 8
    if t.fsOff then illegalIns i
    else if p = 0 then retires i fun u => u
    else .seq (modHart i.hart fun u => (u.setC 0x8C0 [(8, 5, 0)]).fsDirty) (selfTrap i { cause := 24, tval := p })) s

/-! ### The world gate (R365, R474–R479) -/

/-- The checks of Table 18.6: the reason of the first that fails, else the target. -/
def State.gateCheck (s : State) (t : Hart) (slot : Nat) : Except Nat Nat :=
  let tw := !t.world
  let e := t.c (if tw then 0x7C2 else 0x7C3)
  let a := e.toNat / 2 ^ 12 % 2 ^ 36 * 4096 + 16 * slot
  let target := s.rdNat a 8
  let fl := s.rdNat (a + 8) 8
  if !s.bit SEL_LOCK SEL_LOCK_ASSIGN then .error 1
  else if !e.getLsbD 63 then .error 2
  else if 2 ^ (e.toNat % 16) ≤ slot then .error 3
  else if !s.dramOf tw a 16 ∨ s.rdPoison a 16 then .error 4
  else if fl % 2 = 0 ∨ 4 ≤ fl then .error 5
  else if t.priv = 1 ∧ !fl.testBit 1 then .error 6
  else if target % 4 ≠ 0 ∨ !s.dramOf tw target 4 then .error 7
  else if s.rdPoison target 4 ∨ s.rdNat target 4 ≠ 0x102B then .error 8
  else .ok target

/-- The hart after a successful WGATE (R478). -/
def Hart.gated (t : Hart) (slot target : Nat) : Hart :=
  let tw := !t.world
  let a := (t.set 0x341 (BitVec.ofNat 64 (t.pc + 4))).setC 0x300
    [(11, 2, t.priv), (39, 1, 0), (7, 1, t.cf 0x300 3 3), (3, 1, 0)]
  let m := a.cIn tw 0x300
  let ini := fun (w : W64) (lo : Nat) => if w.toNat / 2 ^ lo % 4 = 0 then w else putBits w lo 2 1
  let b := a.setIn tw 0x300 (ini (ini (putBits (putBits (putBits m 3 1 0) 1 1 0) 17 1 0) 13) 9)
  let c := (((b.set 0x003 0).set 0x008 0).set 0xC20 0).set 0xC21 0x8000000000000000
  let x : Tab W64 := t.x.filter fun p => decide (10 ≤ p.1 ∧ p.1 ≤ 17)
  { c with
    x := Tab.put x 5 (BitVec.ofNat 64 (slot + t.priv * 1024)), f := [], v := []
    world := tw, priv := 3, virt := false, pc := target, resv := none }.retag

/-- WGATE (R365, R477, R478). -/
def execWgate (i : Ins) (rs1 : Nat) (s : State) : Out :=
  commit (serialise i fun s =>
    let h := i.hart
    let t := s.hart h
    let slot := (t.rx rs1).toNat % 1024
    if t.virt then virtualIns i
    else if t.priv = 0 then illegalIns i
    else match s.intrOf h with
    | some c => takeTrap h { cause := c, intr := true } t.pc
    | none => match s.gateCheck t slot with
      | .error r => .all [
          setFs (SEL_GATE_FAULT h) [(SEL_GATE_FAULT_REASON, r), (SEL_GATE_FAULT_SLOT, slot),
            (SEL_GATE_FAULT_TARGET_WORLD, if t.world then 0 else 1)],
          bump SEL_GATE_REFUSED,
          (let e := t.c (if t.world then 0x7C3 else 0x7C2)
           let a := e.toNat / 2 ^ 12 % 2 ^ 36 * 4096 + 16 * slot
           let pa := if r = 4 then a else s.rdNat a 8
           let poisoned := (r == 4 && s.dramOf (!t.world) a 16) || (r == 8 && s.rdPoison pa 4)
           .when poisoned (rasLog { sev := 2, cls := cPoison, block := 0x0003, addr := some pa, world := !t.world })),
          illegalIns i ]
      | .ok target => .all [
          retire h 0, modHart h fun u => u.gated slot target, bpClear h, bump SEL_GATE_OK,
          .cache fun c => { c with stream := Tab.upd c.stream (s.nodeOf h) {} fun x => { x with count := 0 } } ]) s

/-- WLAND (R365). -/
def execWland (i : Ins) (s : State) : Out := commit (issueInOrder i fun _ => retires i fun u => u) s

end Sys2Proof.Machine
end

