-- ==== Sys2Proof/Machine/Iotlb.lean ====
section
/-! DEFINITION. Section 14.5: the IOTLB, through which every engine translates a tenant function's addresses. -/

namespace Sys2Proof.Machine

/-- The record of a function. -/
def State.fn (s : State) (f : Nat) : LoomFn := Tab.getD s.loom.fn f {}
/-- Change the record of a function. -/
def modFn (f : Nat) (g : LoomFn → LoomFn) : Act := .loom fun l => { l with fn := Tab.upd l.fn f {} g }
/-- The state of a function (Table 6.1). -/
def State.fstate (s : State) (f : Nat) : Nat := s.get (LOOM_FSTAT f) LOOM_FSTAT_STATE

/-- A translation of the IOTLB under way: what it found, the PTEs read, the A and D updates, the non-leaf entries met, whether a PTE read failed at an address, and the landing-window address that a write led to (R295). -/
structure IoXl where
  pa : Option Nat := none
  bits : Nat := 12
  perm : Nat := 0
  reads : Nat := 0
  upd : List (Nat × Nat) := []
  nl : List (Nat × Nat × Nat × Nat) := []
  bad : Option Nat := none
  hit : Bool := false
  win : Option Nat := none
  deriving DecidableEq, Repr

/-- The walk of Table 14.7 with `k` levels still to read. -/
def ioWalk (s : State) (f : Nat) (w : Bool) (va : Nat) (write : Bool) : Nat → Nat → IoXl → IoXl
  | 0, _, r => { r with pa := none }
  | k + 1, table, r =>
    let a := table + va / 2 ^ (12 + 9 * k) % 512 * 8
    if !s.dramOf w a 8 || s.rdPoison a 8 then { r with pa := none, bad := some a }
    else
      let pte := s.rdNat a 8
      let r1 : IoXl := { r with reads := r.reads + 1 }
      match pteFault pte k with
      | some _ => { r1 with pa := none }
      | none =>
        let next := pte / 2 ^ 10 % 2 ^ 44 * 4096
        if !(pte.testBit 1 || pte.testBit 3) then
          ioWalk s f w va write k next { r1 with nl := (f, k, va / 2 ^ (12 + 9 * k), next) :: r1.nl }
        else if !(if write then pte.testBit 2 else pte.testBit 1) then { r1 with pa := none }
        else
          let l := leafAddr pte k va
          let need := if write then 0xC0 else 0x40
          if !s.dramOf w l.1 1 then
            { r1 with pa := none, win := if write ∧ 0xD00000000000 ≤ l.1 ∧ l.1 < 0xD00100000000 then some l.1 else none }
          else { r1 with pa := some l.1, bits := l.2, perm := (pte ||| need) % 256,
                         upd := if pte &&& need = need then [] else [(a, need)] }

/-- Translate an I/O address of function `f` (R383): function 0 uses physical addresses of the normal world's DRAM. -/
def State.ioXl (s : State) (f va : Nat) (write : Bool) : IoXl :=
  let w := s.funcWorld f
  let need := if write then 0xC4 else 0x42
  if f = 0 then { pa := if s.dramOf false va 1 then some va else none, bits := 64, hit := true }
  else if !vaOk 9 va then {}
  else match s.iotlb.ent.find? (fun e => e.func == f && va / 2 ^ e.bits == e.vpn && e.perm &&& need == need) with
  | some e => { pa := some (e.ppn * 2 ^ e.bits + va % 2 ^ e.bits), bits := e.bits, perm := e.perm, hit := true }
  | none =>
    match (List.range 4).findSome? (fun k => if k = 0 then none else
      (s.iotlb.nl.find? fun e => e.1 == f && e.2.1 == k && e.2.2.1 == va / 2 ^ (12 + 9 * k)).map fun e => (k, e.2.2.2)) with
    | some p => ioWalk s f w va write p.1 p.2 {}
    | none => ioWalk s f w va write 4 (s.fn f).ptRoot {}

/-- The set of an IOTLB entry (R385). -/
def ioSet (e : IoTlbEnt) : Nat :=
  let v := e.vpn * 2 ^ e.bits % 2 ^ 48
  e.func % 1024 ^^^ v / 2 ^ e.bits % 1024 ^^^ v / 2 ^ (e.bits + 10) % 1024
/-- What a translation leaves behind: counters, A and D, entries; a fault is counted, a failed PTE read recorded
(Table 14.8). -/
def ioDone (f va : Nat) (x : IoXl) : Act := .read fun s =>
  let b := if x.bits = 16 then 12 else min x.bits 39
  .all [
    .when (!x.hit && f != 0) (.all [bump PE_IOTLB_MISS, addTo PE_IOTLB_PTE x.reads]),
    (match x.bad with
     | some a => rasLog { sev := 2, cls := cPoison, block := 0x0009, addr := some a, tenant := f, world := s.funcWorld f }
     | none => .skip),
    match x.pa with
    | none => .when (f != 0) (bump PE_IOTLB_FAULT)
    | some pa => .when (!x.hit) (.all [
        .each x.upd fun u => .read fun q => wrCohNat u.1 8 (q.rdNat u.1 8 ||| u.2),
        .iotlb fun t =>
          let e : IoTlbEnt := { func := f, vpn := va / 2 ^ b, bits := b, ppn := pa / 2 ^ b, perm := x.perm }
          let same := t.ent.filter fun o => o.bits == b && ioSet o == ioSet e
          let rest := if same.length < 16 then t.ent else match same.getLast? with
            | some o => t.ent.erase o
            | none => t.ent
          { t with ent := e :: rest, nl := (x.nl ++ t.nl.filter fun n => !x.nl.contains n).take 256 } ]) ]

/-- The pieces of a byte range by 4 KiB page: address and length. -/
def pagePieces (va n : Nat) : List (Nat × Nat) :=
  if n = 0 then [] else
    (List.range ((va + n - 1) / 4096 - va / 4096 + 1)).map fun k =>
      let lo := max va ((va / 4096 + k) * 4096)
      (lo, min (va + n) ((va / 4096 + k + 1) * 4096) - lo)

/-- Translate a byte range of function `f` piece by piece and go on with the physical pieces, or with `bad` at the first
fault. -/
def ioRange (f : Nat) (write : Bool) (bad : Act) (ok : List (Nat × Nat) → Act) :
    List (Nat × Nat) → List (Nat × Nat) → Act
  | [], got => ok got.reverse
  | p :: r, got => .read fun s =>
    let x := s.ioXl f p.1 write
    .seq (ioDone f p.1 x) (match x.pa with
      | none => bad
      | some pa => ioRange f write bad ok r ((pa, p.2) :: got))
/-- The same for a range given by its address and length. -/
def ioWith (f va n : Nat) (write : Bool) (bad : Act) (ok : List (Nat × Nat) → Act) : Act :=
  ioRange f write bad ok (pagePieces va n) []

/-- The bytes of physical pieces in the coherent view. -/
def State.rdPieces (s : State) (l : List (Nat × Nat)) : List Byte := l.flatMap fun p => s.rd p.1 p.2
/-- Is one of the pieces poisoned? -/
def State.poisonPieces (s : State) (l : List (Nat × Nat)) : Bool := l.any fun p => s.rdPoison p.1 p.2
/-- Write bytes to physical pieces. -/
def wrPieces (poison : Bool) : List (Nat × Nat) → List Byte → Act
  | [], _ => .skip
  | p :: r, b => .seq (wrCoh p.1 (b.take p.2) poison) (wrPieces poison r (b.drop p.2))

/-- Remove every entry of a function (R387). -/
def iotlbDropFunc (f : Nat) : Act := .seq (.iotlb fun t => { t with
  ent := t.ent.filter fun e => e.func != f, nl := t.nl.filter fun e => e.1 != f }) (bump PE_IOTLB_INVCNT)

/-- A write of PE_IOTLB_INVw with GO = 1 by a hart of world `world` (R387, R390). -/
def iotlbInv (w world : Bool) (scope : Option Nat) (v : W64) : Act := .read fun s =>
  let r := PE_IOTLB_INV (if w then 1 else 0)
  let f := PE_IOTLB_INV_FUNC.get v
  let sc := scope.getD (PE_IOTLB_INV_SCOPE.get v)
  let page := (s.reg (PE_IOTLB_INV_ADDR (if w then 1 else 0))).toNat
  if w ≠ world ∨ s.bit r PE_IOTLB_INV_GO then .skip
  else if f = 0 ∨ 8192 < f ∨ s.funcWorld f ≠ w ∨ s.fstate f = 0 ∨ 1 < sc then setF r PE_IOTLB_INV_ERR 1
  else .all [
    setFs r [(PE_IOTLB_INV_FUNC, f), (PE_IOTLB_INV_SCOPE, sc), (PE_IOTLB_INV_ERR, 0), (PE_IOTLB_INV_GO, 1)],
    .iotlb fun t => { t with
      ent := t.ent.filter fun e => !(e.func == f && (sc == 0 || page / 2 ^ e.bits == e.vpn))
      nl := t.nl.filter fun e => e.1 != f } ]

/-- IOTLB_INVALIDATE_FUNCTION (R387): SCOPE 0. -/
def execIotlbInvalidateFunction (w world : Bool) (value : W64) (s : State) : Out := commit (iotlbInv w world (some 0) value) s
/-- IOTLB_INVALIDATE_PAGE (R387): SCOPE 1, the page of PE_IOTLB_INV_ADDRw. -/
def execIotlbInvalidatePage (w world : Bool) (value : W64) (s : State) : Out := commit (iotlbInv w world (some 1) value) s
/-- IOTLB_INVALIDATE_DONE (R387): no removed entry remains and no access through one is open. -/
def execIotlbInvalidateDone (w : Bool) (s : State) : Out :=
  let r := PE_IOTLB_INV (if w then 1 else 0)
  commit (if s.bit r PE_IOTLB_INV_GO then .all [setF r PE_IOTLB_INV_GO 0, bump PE_IOTLB_INVCNT] else .skip) s

end Sys2Proof.Machine
end

