-- ==== Sys2Proof/Machine/Batten.lean ====
section
/-! DEFINITION. Chapter 05: the batten instructions of a hart and the landing-window controller. The home's side of ACC, ZERO
and RELEASE is in Coherence. -/

namespace Sys2Proof.Machine

/-! ### BTN.MAC, BTN.XOR, BTN.FENCE (R132–R136) -/

/-- A batten operation behind its coefficient. -/
def macIns (i : Ins) (rd rs1 rs2 coef : Nat) (s : State) : Act :=
  let h := i.hart
  let t := s.hart h
  let n := s.nodeOf h
  let d := (t.rx rs1).toNat
  let v := (t.rx rs2).toNat
  let aw := t.dataAcc 1 0
  let ar := t.dataAcc 0 0
  let count := fun (k : Nat) (u : Hart) => u.wx rd (BitVec.ofNat 64 (u.btnOut + k))
  if t.det then illegalIns i
  else if d % 64 ≠ 0 then selfTrap i { cause := 6, tval := d }
  else if v % 64 ≠ 0 then selfTrap i { cause := 4, tval := v }
  else match s.reach h aw d 64 [.dram] with
  | .error e => accessTrap h aw 64 e t.pc
  | .ok (xd, wd, _) =>
    match s.reach h ar v 64 [.dram] with
    | .error e => accessTrap h ar 64 e t.pc
    | .ok (xs, ws, _) =>
      let l := xs.pa / 64
      let done := Act.all [xlDone h aw d xd wd, xlDone h ar v xs ws]
      let go := fun (x : Line) (p : Bool) => Act.all [
        done,
        sendMsg n clsBTN coef (xd.pa / 64) .batten t.world 0x3FFF (some (x, p)) (2 ^ 64 - 1) false,
        retires i fun u => { count 1 u with btnOut := u.btnOut + 1, btnSrc := none } ]
      if coef = 0 then .all [done, retires i (count 0)]
      else if 32 ≤ t.btnOut ∨ t.sq.any (fun q => q.hits (l * 64) 64) then .skip
      else match s.l2 n l with
      | some y => go y.data y.poison
      | none => match t.btnSrc with
        | some b => if b.1 = l then go b.2.1 b.2.2 else .all [
            modHart h fun u => { u with btnSrc := none }, askLine n opRdOnce l .batten t.world ]
        | none => .all [done, askLine n opRdOnce l .batten t.world]

/-- BTN_MAC: destination line rs1 ^= rs3[7:0] · source line rs2. -/
def execBtnMac (i : Ins) (rd rs1 rs2 rs3 : Nat) (s : State) : Out :=
  commit (issueInOrder i fun s => macIns i rd rs1 rs2 (((s.hart i.hart).rx rs3).toNat % 256) s) s
/-- BTN_XOR: BTN.MAC with coefficient 1. -/
def execBtnXor (i : Ins) (rd rs1 rs2 : Nat) (s : State) : Out :=
  commit (issueInOrder i fun s => macIns i rd rs1 rs2 1 s) s

/-- BTN_FENCE (R136): waits until no batten buffer is in use; rd receives the failures, which are cleared. -/
def execBtnFence (i : Ins) (rd : Nat) (s : State) : Out :=
  commit (issueInOrder i fun s =>
    let t := s.hart i.hart
    if t.det then illegalIns i
    else if t.btnOut ≠ 0 then .skip
    else retires i fun u => { u.wx rd (BitVec.ofNat 64 u.btnFail) with btnFail := 0 }) s

/-- A batten operation of a tile's hart is answered or has failed (R134). -/
def macDone (n line home : Nat) (ok : Bool) : Act := .read fun s =>
  match s.nodeHart n with
  | none => .skip
  | some h => .all [
      modHart h fun t => { t with btnOut := t.btnOut - 1, btnFail := if ok then t.btnFail else t.btnFail + 1 },
      .when (!ok) (.all [bump (BTN_FAIL n),
        rasLog { sev := 2, cls := cTimeout, block := 0x100 + n, addr := some (line * 64), synd := home }]) ]

/-! ### Landing windows (R143–R154) -/

/-- Window `w`. -/
def State.win (s : State) (w : Nat) : Win := Tab.getD s.btn.win w {}
/-- Change window `w`. -/
def modWin (w : Nat) (f : Win → Win) : Act := .btn fun b => { b with win := Tab.upd b.win w {} f }
/-- STATE of window `w` (Table 5.9): 0 IDLE, 1 OPENING, 2 OPEN, 3 CLOSING. -/
def State.wstate (s : State) (w : Nat) : Nat := s.get (BTN_WIN_STATE w) BTN_WIN_STATE_STATE
/-- BTN_STAT (Table 5.15). -/
def btnStat : Act := .read fun s => setFs BTN_STAT
  [(BTN_STAT_SLOTS_USED, s.btn.win.length), (BTN_STAT_FANOUT_USED, s.btn.fan.length)]
/-- Set a flag of Table 5.11. -/
def winFlag (w bit : Nat) : Act := modWin w fun x => { x with seen := x.seen ||| 2 ^ bit }
/-- The slot of a window is freed and it is IDLE. -/
def winFree (w : Nat) : Act := .all [
  setF (BTN_WIN_STATE w) BTN_WIN_STATE_STATE 0, .btn fun b => { b with win := Tab.drop b.win w }, btnStat ]

/-- A flit of the window controller for line `l`: it leaves at the port node of R21 under that node's PCIe inbound DMA
port (R146). `sub` names what it is: 0 a ZERO, 1 + 4 × k a flit of fan-out line k, 2 a RELEASE, 3 the notice. -/
def winSend (w sub cls opcode l : Nat) (world : Bool) (tenant : Nat) (data : Option (Line × Bool)) (mask : Nat) : Act :=
  .read fun s =>
    let home := s.homeOf l
    let port := s.portFor home
    let k := ((List.range 8).find? fun k => portNode k == port).getD 0
    .seq (sendMsg (224 + 3 * k + 2) cls opcode l .window world tenant data mask true)
      (.coh fun c => { c with reqs := match c.reqs.reverse with
        | q :: r => (({ q with obj := w, sub := sub } : ReqOut) :: r).reverse
        | [] => [] })

/-- An entry of the fan-out table: its fields (Table 5.7). -/
def entDest (e : Nat) : Nat := e % 2 ^ 48
def entCoef (e : Nat) : Nat := e / 2 ^ 48 % 256
def entCopy (e : Nat) : Bool := e.testBit 56
def entZero (e : Nat) : Bool := e.testBit 57
def entUsed (e : Nat) : Bool := entCoef e != 0 || entCopy e

/-- A window as its descriptor at physical address `d` gives it (R144). -/
def State.readDesc (s : State) (d : Nat) : Win :=
  let n := fun (o k : Nat) => s.rdNat (d + o) k
  { npos := n 0 2, lines := n 2 2, flags := n 6 2, expect := n 8 4, engine := n 0xC 4, notice := n 0x10 8, vec := n 0x18 2,
    src := (List.range 32).map fun p => n (0x40 + 2 * p) 2,
    ents := (List.range (min 32 (n 0 2))).map fun p => (List.range 8).map fun e => n (0x80 + 64 * p + 8 * e) 8 }

/-- The field checks of Table 5.8 on a descriptor. -/
def State.descOk (s : State) (d : Nat) (x : Win) (f : Nat) (world : Bool) : Bool :=
  let ents := x.ents.flatten
  decide (1 ≤ x.npos ∧ x.npos ≤ 32 ∧ 1 ≤ x.lines ∧ x.lines ≤ 512 ∧ f ≤ 8192 ∧ x.flags < 2 ∧ x.expect < 2 ^ x.npos) &&
  x.notice % 16 == 0 && (s.rd (d + 0x1A) 38).all (· == 0) && s.dramOk world x.notice 16 &&
  (x.flags % 2 == 0 || (s.fn f).vecs.contains x.vec) &&
  decide ((ents.filter entZero).length ≤ 8) &&
  ents.all fun e => entDest e % 64 == 0 && decide (e < 2 ^ 58) && (!entCopy e || (entCoef e == 1 && !entZero e)) &&
    (!entUsed e || s.dramOk world (entDest e) (64 * x.lines))

/-- Every ZERO of an opening window is answered, or there is none (R145 step 4). A hart's rd is written and it goes on; a
Loom request ends. -/
def winOpened (w : Nat) : Act := .read fun s =>
  let x := s.win w
  let st := if x.zeroBad then stFAULT else stOK
  .all [
    (if x.zeroBad then winFree w else .all [
      setF (BTN_WIN_STATE w) BTN_WIN_STATE_STATE 2, bump BTN_OPENS, modWin w fun y => { y with hart := none, loom := none } ]),
    (match x.hart with
     | some (h, rd, len) => .all [
        modHart h fun t => { t.wx rd (BitVec.ofNat 64 st) with wopen := false }, retire h len ]
     | none => .skip),
    (match x.loom with
     | some r => .loom fun l => match Tab.find l.req r with
        | some q => { l with req := Tab.put l.req r { q with done := some (if x.zeroBad then 6 else 0, st, 0x0005) } }
        | none => l
     | none => .skip) ]

/-- An open request (R145): the status of the first check of Table 5.8 that fails, else the window opens. -/
def State.openStatus (s : State) (w d : Nat) (world : Bool) : Nat :=
  let x := s.readDesc d
  let f := s.rdNat (d + 4) 2
  if s.wstate w ≠ 0 then stBADSTATE
  else if (tileNodes.all fun n => s.get (LLC_CFG n) LLC_CFG_RSV_WAYS == 0) ∨ 512 ≤ s.btn.win.length then stNORES
  else if !s.dramOk world d 2176 ∨ s.rdPoison d 2176 then stFAULT
  else if f ≤ 8192 ∧ s.funcWorld f ≠ world then stNOTPERM
  else if !s.descOk d x f world then stBADPARAM
  else stOK
/-- Open window `w` from a descriptor whose checks pass, for a hart or for a Loom request. -/
def winOpen (w d : Nat) (world : Bool) (hart : Option (Nat × Nat × Nat)) (loom : Option Nat) : Act := .read fun s =>
  let x := s.readDesc d
  let f := s.rdNat (d + 4) 2
  let zeros := (x.ents.flatten.filter fun e => entUsed e && entZero e).flatMap fun e =>
    (List.range x.lines).map fun l => entDest e / 64 + l
  let y : Win := { x with zeros := zeros.length, hart := hart, loom := loom }
  .all [
    .btn fun b => { b with win := Tab.put b.win w y },
    setFs (BTN_WIN_STATE w) [(BTN_WIN_STATE_STATE, 1), (BTN_WIN_STATE_WORLD, if world then 1 else 0),
      (BTN_WIN_STATE_FUNC, f), (BTN_WIN_STATE_SEQ, (s.get (BTN_WIN_STATE w) BTN_WIN_STATE_SEQ + 1) % 65536)],
    btnStat,
    .each zeros fun l => winSend w 0 clsBTN 0x01 l world f none (2 ^ 64 - 1),
    .when zeros.isEmpty (winOpened w) ]

/-- The status of a close request (Table 5.8). -/
def State.closeStatus (s : State) (w : Nat) (world : Bool) : Nat :=
  if s.wstate w ≠ 2 then stBADSTATE
  else if s.bit (BTN_WIN_STATE w) BTN_WIN_STATE_WORLD ≠ world then stNOTPERM
  else stACCEPTED
/-- An OPEN window goes to CLOSING (R150). -/
def winClose (w : Nat) (abort : Bool) : Act := .all [
  setF (BTN_WIN_STATE w) BTN_WIN_STATE_STATE 3,
  modWin w fun x => { x with phase := 1, seen := if abort then x.seen ||| 2 ^ 7 else x.seen } ]

/-- Who may execute BTN.WOPEN and BTN.WCLOSE (Table 5.2). -/
def winPriv (t : Hart) : Bool := !t.det && !t.virt && decide (1 ≤ t.priv)

/-- BTN_WOPEN (R145): window rs1[11:0] from the descriptor at physical address rs2; the hart waits for rd. -/
def execBtnWopen (i : Ins) (rd rs1 rs2 : Nat) (s : State) : Out :=
  commit (issueInOrder i fun s =>
    let t := s.hart i.hart
    let w := (t.rx rs1).toNat % 4096
    let d := (t.rx rs2).toNat
    let st := s.openStatus w d t.world
    if !winPriv t then illegalIns i
    else if d % 64 ≠ 0 then selfTrap i { cause := 4, tval := d }
    else if st ≠ stOK then retires i fun u => u.wx rd (BitVec.ofNat 64 st)
    else .seq (modHart i.hart fun u => { u with wopen := true })
      (winOpen w d t.world (some (i.hart, rd, insLen i)) none)) s

/-- BTN.WCLOSE behind its checks. -/
def wcloseIns (i : Ins) (rd rs1 : Nat) (s : State) : Act :=
  let t := s.hart i.hart
  let w := (t.rx rs1).toNat % 4096
  let st := s.closeStatus w t.world
  if !winPriv t then illegalIns i
  else .seq (.when (st == stACCEPTED) (winClose w ((t.rx rs1).getLsbD 16)))
    (retires i fun u => u.wx rd (BitVec.ofNat 64 st))
/-- BTN_WCLOSE (R150): window rs1[11:0]; rs1[16] aborts. -/
def execBtnWclose (i : Ins) (rd rs1 : Nat) (s : State) : Out := commit (issueInOrder i (wcloseIns i rd rs1)) s
/-- BTN_WABORT (R150): the same instruction with rs1[16] = 1, which sets ABORTED. -/
def execBtnWabort (i : Ins) (rd rs1 : Nat) (s : State) : Out := commit (issueInOrder i fun s => wcloseIns i rd rs1 s) s

/-- Who writes to a window: an engine for a function, or a PCIe requester ID. -/
inductive WinSrc where
  | engine (f : Nat)
  | pcie (rid : Nat)
  deriving DecidableEq, Repr

/-- The base of the landing windows. -/
def winBase : Nat := 0xD00000000000
/-- Is an inbound write of `n` bytes to a window accepted: `none`, or the flag of Table 5.11 of its refusal (16 where no
flag applies)? -/
def State.winRefused (s : State) (a n : Nat) (src : WinSrc) : Option Nat :=
  let w := (a - winBase) / 2 ^ 20
  let p := a / 2 ^ 15 % 32
  let l := a / 64 % 512
  let x := s.win w
  if s.wstate w = 3 then some 6
  else if s.wstate w ≠ 2 then some 16
  else if n ≠ 64 ∨ a % 64 ≠ 0 then some 3
  else if x.npos ≤ p ∨ x.lines ≤ l then some 5
  else if (match src with
    | .engine f => !(x.engine.testBit p && f == s.get (BTN_WIN_STATE w) BTN_WIN_STATE_FUNC)
    | .pcie r => x.engine.testBit p || (x.src[p]?).getD 0 != r) then some 4
  else if (Tab.getD x.landed p 0).testBit l then some 2
  else none
/-- A refused write: its flag, and the counters (Table 5.12). -/
def winReject (a flag : Nat) : Act :=
  let w := (a - winBase) / 2 ^ 20
  .all [bump BTN_REJECT, .when (flag == 2) (bump BTN_DUP), .when (decide (flag < 16)) (winFlag w flag)]
/-- An accepted line: the landed bit, and one flit for each used entry of its position (R146, R147). -/
def winLand (a : Nat) (d : Line) (poison : Bool) : Act := .read fun s =>
  let w := (a - winBase) / 2 ^ 20
  let p := a / 2 ^ 15 % 32
  let l := a / 64 % 512
  let x := s.win w
  let ents := ((x.ents[p]?).getD []).filter entUsed
  let k := s.btn.nextFan
  let world := s.bit (BTN_WIN_STATE w) BTN_WIN_STATE_WORLD
  let f := s.get (BTN_WIN_STATE w) BTN_WIN_STATE_FUNC
  .all [
    modWin w fun y => { y with
      landed := Tab.upd y.landed p 0 (· ||| 2 ^ l), outstanding := y.outstanding + ents.length
      seen := if poison && !ents.isEmpty then y.seen ||| 1 else y.seen },
    bump BTN_LINES_IN,
    .when (!ents.isEmpty) (.btn fun b => { b with fan := Tab.put b.fan k ents.length, nextFan := k + 1 }),
    btnStat,
    .each ents fun e =>
      if entCopy e then winSend w (1 + 4 * k) clsREQ opWrFull (entDest e / 64 + l) world f (some (d, poison)) (2 ^ 64 - 1)
      else winSend w (1 + 4 * k) clsBTN (entCoef e) (entDest e / 64 + l) world f (some (d, poison)) (2 ^ 64 - 1) ]
/-- An inbound write of one line or a part of one. -/
def winWrite (a n : Nat) (d : Line) (poison : Bool) (src : WinSrc) : Act := .read fun s =>
  match s.winRefused a n src with
  | some fl => winReject a fl
  | none => winLand a d poison

/-- A flit of the window controller is answered, or has failed (R145, R146, R151). -/
def winAnswered (q : ReqOut) (ok : Bool) : Act :=
  let w := q.obj
  match q.sub % 4 with
  | 0 => .seq (modWin w fun x => { x with zeros := x.zeros - 1, zeroBad := x.zeroBad || !ok })
      (.read fun s => .when ((s.win w).zeros == 0 && s.wstate w == 1) (winOpened w))
  | 1 => .all [
      modWin w fun x => { x with outstanding := x.outstanding - 1, applied := if ok then x.applied + 1 else x.applied
                                 seen := if ok then x.seen else x.seen ||| 2 },
      .btn fun b =>
        let k := q.sub / 4
        let left := Tab.getD b.fan k 0 - 1
        { b with fan := if left = 0 then Tab.drop b.fan k else Tab.put b.fan k left },
      btnStat ]
  | 2 => modWin w fun x => { x with releases := x.releases - 1, seen := if ok then x.seen else x.seen ||| 2 }
  | _ => modWin w fun x => { x with noticeRes := some ok }

/-- The positions that landed all their lines. -/
def Win.full (x : Win) (p : Nat) : Bool := Tab.getD x.landed p 0 == 2 ^ x.lines - 1

/-- WINDOW_CLOSE_DRAINED (R151 steps 1–3). -/
def execWindowCloseDrained (w : Nat) (s : State) : Out :=
  let x := s.win w
  let dests := ((x.ents.flatten.filter fun e => entUsed e && !entCopy e).map entDest).eraseDups
  let lines := dests.flatMap fun d => (List.range x.lines).map fun l => d / 64 + l
  let world := s.bit (BTN_WIN_STATE w) BTN_WIN_STATE_WORLD
  commit (if s.wstate w ≠ 3 ∨ x.phase ≠ 1 ∨ x.outstanding ≠ 0 then .skip else .all [
    modWin w fun y => { y with
      phase := 2, releases := lines.length
      seen := if (List.range y.npos).any (fun p => y.expect.testBit p && !y.full p) then y.seen ||| 2 ^ 8 else y.seen },
    .each lines fun l => winSend w 2 clsBTN 0x03 l world (s.get (BTN_WIN_STATE w) BTN_WIN_STATE_FUNC) none (2 ^ 64 - 1) ]) s

/-- WINDOW_CLOSE_RELEASED (R151 step 4, Table 5.10): the notice is written with WR_PART. -/
def execWindowCloseReleased (w : Nat) (s : State) : Out :=
  let x := s.win w
  let fl := x.seen % 2048
  let landed := ((List.range x.npos).map fun p => if x.full p then 2 ^ p else 0).sum
  let b := natLe 2 w ++ natLe 2 (s.get (BTN_WIN_STATE w) BTN_WIN_STATE_SEQ) ++
    natLe 2 (if fl = 0 then stOK else stFAULT) ++ natLe 2 fl ++ natLe 4 landed ++ natLe 4 x.applied
  let o := x.notice % 64
  commit (if s.wstate w ≠ 3 ∨ x.phase ≠ 2 ∨ x.releases ≠ 0 then .skip else .all [
    modWin w fun y => { y with phase := 3 },
    winSend w 3 clsREQ opWrPart (x.notice / 64) (s.bit (BTN_WIN_STATE w) BTN_WIN_STATE_WORLD)
      (s.get (BTN_WIN_STATE w) BTN_WIN_STATE_FUNC) (some (putLine 0 o 16 (leNat b), false)) (byteMask o 16) ]) s

/-- WINDOW_NOTICE_DONE (R151 steps 5 and 6, R153). -/
def execWindowNoticeDone (w : Nat) (s : State) : Out :=
  let x := s.win w
  commit (match (if s.wstate w = 3 ∧ x.phase = 3 then x.noticeRes else none) with
    | none => .skip
    | some ok => .all [
        .when (!ok) (rasLog { sev := 2, cls := cTimeout, block := 0x0005, synd := w }),
        .when (x.flags % 2 == 1) (vectorRaise x.vec),
        setF (BTN_WIN_STATE w) BTN_WIN_STATE_LAST_FLAGS (x.seen % 2048 + if ok then 0 else 1024),
        winFree w ]) s

end Sys2Proof.Machine
end

