-- ==== Sys2Proof/Machine/Request.lean ====
section
/-! DEFINITION. What the Loom engine, drive attach, the Pick unit and the transform engines share: the submission entry
(Table 6.11), the ending of a request (R217: the first end decides), and destinations whose contents become undefined. -/

namespace Sys2Proof.Machine

/-- A little-endian field of a submission entry. -/
def entField (e : Line) (off n : Nat) : Nat := e.toNat / 2 ^ (8 * off) % 2 ^ (8 * n)
def entType (e : Line) : Nat := entField e 0 1
def entFlags (e : Line) : Nat := entField e 1 1
def entCid (e : Line) : Nat := entField e 2 2
def entSub (e : Line) : Nat := entField e 4 1
def entExt (e : Line) : Nat := entField e 5 1
def entKey (e : Line) : Nat := entField e 6 2
def entLba (e : Line) : Nat := entField e 8 8
def entNlb (e : Line) : Nat := entField e 0x10 4
def entLen (e : Line) : Nat := entField e 0x14 4
def entAddr (e : Line) : Nat := entField e 0x18 8
def entAddr2 (e : Line) : Nat := entField e 0x20 8
def entWin (e : Line) : Nat := entField e 0x28 4
def entGroup (e : Line) : Nat := entField e 0x30 2
def entGsize (e : Line) : Nat := entField e 0x32 1
def entLatest (e : Line) : Nat := entField e 0x38 8
/-- FLAGS.FENCE. -/
def entFence (e : Line) : Bool := (entFlags e).testBit 0
/-- FLAGS.QUIET. -/
def entQuiet (e : Line) : Bool := (entFlags e).testBit 1
/-- FLAGS.WIN. -/
def entToWin (e : Line) : Bool := (entFlags e).testBit 2
/-- FLAGS.NOTIFY. -/
def entNotify (e : Line) : Bool := (entFlags e).testBit 3

/-- An extent entry (Table 6.4) by its two 64-bit words. -/
structure Extent where
  base : Nat
  drive : Nat
  valid : Bool
  write : Bool
  count : Nat
  nsid : Nat
  deriving DecidableEq, Repr, Inhabited
/-- Extent `i` of a function. -/
def LoomFn.extent (t : LoomFn) (i : Nat) : Extent :=
  let w := (t.ext[2 * i]?).getD 0
  let v := (t.ext[2 * i + 1]?).getD 0
  { base := w % 2 ^ 48, drive := w / 2 ^ 48 % 1024, valid := w.testBit 58, write := w.testBit 59,
    count := v % 2 ^ 48, nsid := v / 2 ^ 48 % 65536 }

/-- Completion statuses (Table 6.14). -/
def lsOK : Nat := 0x0
def lsBadType : Nat := 0x1
def lsBadField : Nat := 0x2
def lsExtent : Nat := 0x3
def lsXlate : Nat := 0x4
def lsDenied : Nat := 0x5
def lsBatten : Nat := 0x6
def lsMedia : Nat := 0x7
def lsDriveDown : Nat := 0x8
def lsDriveTmo : Nat := 0x9
def lsPoisoned : Nat := 0xA
def lsIntegrity : Nat := 0xB
def lsAborted : Nat := 0xC
def lsDma : Nat := 0xD

/-- End a request with STATUS, RESULT and DETAIL; one that has ended keeps its end (R217). -/
def endReq (r status result detail : Nat) : Act := .loom fun l =>
  match Tab.find l.req r with
  | some q => if q.done.isSome then l else { l with req := Tab.put l.req r { q with done := some (status, result, detail) } }
  | none => l

/-- The contents of `n` bytes from `va` of function `f` become undefined: free bytes, where the range is mapped. -/
def undefDest (f va n : Nat) : Act := withFree fun k => .read fun s =>
  .each (pagePieces va n) fun p =>
    match (s.ioXl f p.1 true).pa with
    | none => .skip
    | some pa => wrCoh pa ((List.range p.2).map fun i => Config.openByte k (p.1 - va + i)) false

/-- The first `n` numbers below `m` that pass `p`, looked for from `start` on, cyclically. -/
def pickFree (p : Nat → Bool) (m start : Nat) : Nat → Nat → List Nat
  | 0, _ => []
  | _, 0 => []
  | fuel + 1, n + 1 =>
    let i := start % m
    if p i then i :: pickFree p m (i + 1) fuel n else pickFree p m (i + 1) fuel (n + 1)

/-- A rational number brought to whole steps: up or down, as the free choice says. -/
def roundFree (num : Int) (den : Nat) (up : Bool) : Int :=
  num / den + (if up && num % den != 0 then 1 else 0)
/-- The nearest whole number, ties upward. -/
def nearest (num : Int) (den : Nat) : Int := (2 * num + den) / (2 * den)

end Sys2Proof.Machine
end

