-- ==== Sys2Proof/Machine/Angle.lean ====
section
/-! DEFINITION. Sections 8.1 to 8.3: angle messages, angle clocks, zone tables, and learning from completions. PERIOD is in
1/256 ns, as PICK_CLK_STATn holds it. -/

namespace Sys2Proof.Machine

/-- The states of an angle clock (Table 8.15). -/
def csOff : Nat := 0
def csAcquire : Nat := 1
def csLocked : Nat := 2
def csCoast : Nat := 3
def csDegraded : Nat := 4
def csLost : Nat := 5

/-- Clock `n`. -/
def State.clock (s : State) (n : Nat) : AngleClk := Tab.getD s.pick.clk n {}
/-- Change clock `n`. -/
def modClock (n : Nat) (f : AngleClk → AngleClk) : Act := .pick fun p => { p with clk := Tab.upd p.clk n {} f }
/-- The health state of clock `n`. -/
def State.clkState (s : State) (n : Nat) : Nat := s.get (PICK_CLK_STAT n) PICK_CLK_STAT_STATE
/-- PERIOD of clock `n`, in 1/256 ns. -/
def State.period (s : State) (n : Nat) : Nat := s.get (PICK_CLK_STAT n) PICK_CLK_STAT_PERIOD
/-- IDX of clock `n`. -/
def State.idx (s : State) (n : Nat) : Nat := (s.reg (PICK_CLK_IDX n)).toNat
/-- NOM_PERIOD of clock `n`. -/
def State.nom (s : State) (n : Nat) : Nat := s.get (PICK_CLK_NOM n) PICK_CLK_NOM_NOM_PERIOD
/-- MODE of clock `n`: 0 AUTO, 1 LEARN, 2 OFF. -/
def State.clkMode (s : State) (n : Nat) : Nat := s.get (PICK_CLK_CFG n) PICK_CLK_CFG_MODE
/-- TOL of clock `n` in ns. -/
def State.clkTol (s : State) (n : Nat) : Nat := s.get (PICK_CLK_CFG n) PICK_CLK_CFG_TOL
/-- LEAD in ns. -/
def State.lead (s : State) (n : Nat) : Nat := s.get (PICK_CLK_CFG n) PICK_CLK_CFG_LEAD * 100
/-- FIXED in ns. -/
def State.fixedNs (s : State) (n : Nat) : Nat := s.get (PICK_CLK_CFG n) PICK_CLK_CFG_FIXED * 100
/-- Is drive controller `n` UP (Table 7.14)? -/
def State.ctrlUp (s : State) (n : Nat) : Bool := s.get (DQ_CTRL_A n) DQ_CTRL_A_STATE == 1

/-- PICK_STAT, and the unit's Harness source, which is asserted while a clock is in DEGRADED or LOST (R228). -/
def pickStat : Act := .read fun s =>
  let among := fun (l : List Nat) => (s.pick.clk.filter fun p => l.contains (s.clkState p.1)).length
  .all [
    setFs PICK_STAT [(PICK_STAT_HEAP_USED, s.pick.heap.length), (PICK_STAT_GROUPS_OPEN, s.pick.groups.length),
      (PICK_STAT_LOCKED, among [csLocked, csCoast]), (PICK_STAT_DEGRADED, among [csDegraded, csLost])],
    .when (s.hrn.lines.contains 89 != decide (0 < among [csDegraded, csLost]))
      (lineSet 89 (decide (0 < among [csDegraded, csLost]))) ]

/-- A clock enters a state: its counts start anew, PERIOD is held at NOM_PERIOD in DEGRADED and LOST (R227), and entering
one of these logs a CE record (R228). -/
def gotoClk (n st : Nat) : Act := .read fun s =>
  let bad := st == csDegraded || st == csLost
  .all [
    modClock n fun c => { c with good := 0, outl := 0, high := 0, low := 0, entered := s.clk.time },
    .when bad (setF (PICK_CLK_STAT n) PICK_CLK_STAT_PERIOD (s.nom n * 256)),
    setF (PICK_CLK_STAT n) PICK_CLK_STAT_STATE st,
    .when (bad && s.clkState n != st) (rasLog { sev := 0, cls := cTimeout, block := 0x0006, synd := n }),
    pickStat ]

/-- A clock starts from OFF with the settings that it now has (Table 8.3, last row; R225). -/
def startClk (n : Nat) : Act := .read fun s =>
  let st := if s.nom n = 0 ∨ s.clkMode n = 2 then csOff
    else if !s.ctrlUp n then csLost
    else if s.clkMode n = 0 then csAcquire else csDegraded
  .all [
    .reg (PICK_CLK_IDX n) 0,
    setFs (PICK_CLK_STAT n) [(PICK_CLK_STAT_STATE, csOff), (PICK_CLK_STAT_RESID, 0),
      (PICK_CLK_STAT_PERIOD, s.nom n * 256)],
    .pick fun p => { p with clk := Tab.put p.clk n {} },
    gotoClk n st ]

/-- A drive's controller leaves UP: its clock goes to LOST unless it is OFF. -/
def clkCtrlDown (n : Nat) : Act := .read fun s =>
  if s.clkState n = csOff ∨ s.clkState n = csLost then .skip else gotoClk n csLost
/-- A drive's controller returns to UP. -/
def clkCtrlUp (n : Nat) : Act := .read fun s =>
  if s.clkState n = csLost then gotoClk n (if s.clkMode n = 0 then csAcquire else csDegraded) else .skip

/-- RESID as its 16-bit register holds it, saturating. -/
def residField (r : Int) : Nat := (max (-32767) (min 32767 r) % 65536).toNat

/-- What an accepted message makes of the clock (R224, Table 8.3): `d` = INDEX_TIME − IDX and `k` revolutions. -/
def clkUpdate (n k : Nat) (d : Int) (index : Nat) : Act := withFree fun u => .read fun s =>
  let p := s.period n
  let up := Config.roundUp u
  let err : Int := 256 * d - k * p
  let out := decide ((s.clkTol n * 256 : Nat) < err.natAbs)
  let kf := s.get (PICK_CLK_CFG n) PICK_CLK_CFG_FILT
  let p' : Nat := if out then p else (p + roundFree err (k * 2 ^ kf) up).toNat
  let nom := s.nom n
  let far := decide (256 * nom * k < (256 * d - 256 * nom * k).natAbs * 100) ||
    decide (256 * nom < ((p' : Int) - 256 * nom).natAbs * 100)
  let c := s.clock n
  let st := s.clkState n
  .all [
    setFs (PICK_CLK_STAT n) [(PICK_CLK_STAT_PERIOD, p'), (PICK_CLK_STAT_RESID, residField (roundFree err 256 up))],
    .reg (PICK_CLK_IDX n) (BitVec.ofNat 64 index),
    modClock n fun c => { c with last := s.clk.time, good := if out then 0 else c.good + 1,
                                 outl := if out then c.outl + 1 else 0 },
    if far then gotoClk n csLost
    else if st = csAcquire then .when (!out && decide (3 ≤ c.good)) (gotoClk n csLocked)
    else if st = csLocked then .when (out && decide (2 ≤ c.outl)) (gotoClk n csAcquire)
    else if st = csCoast then gotoClk n (if out then csAcquire else csLocked)
    else gotoClk n csAcquire ]

/-- The first accepted message of a clock sets IDX only (R224). -/
def clkFirst (n : Nat) (m : AngleMsg) : Act := .read fun s =>
  let nom := s.nom n
  let near := decide (m.period ≠ 0) && decide (((m.period : Int) - nom).natAbs * 100 ≤ nom)
  .all [
    setF (PICK_CLK_STAT n) PICK_CLK_STAT_PERIOD ((if near then m.period else nom) * 256),
    .reg (PICK_CLK_IDX n) (BitVec.ofNat 64 m.indexTime),
    modClock n fun c => { c with hasIdx := true, last := s.clk.time },
    .when (s.clkState n == csDegraded || s.clkState n == csLost) (gotoClk n csAcquire) ]

/-- ANGLE_MESSAGE (R199, R222–R224): a vendor-defined Type 1 message; its arrival is stamped with TIME. -/
def execAngleMessage (m : AngleMsg) (s : State) : Out :=
  let t := s.clk.time
  let drop := bump PICK_MSG_DROP
  commit (
    match (if m.vendor = 0x1F9A then
      (List.range 1024).find? (fun n => s.bit (DQ_CTRL_A n) DQ_CTRL_A_EN && s.get (DQ_CTRL_A n) DQ_CTRL_A_RID == m.rid)
      else none) with
    | none => bump PE_VDM_DROP
    | some n =>
      let d : Int := (m.indexTime : Int) - s.idx n
      let k := nearest (256 * d) (s.period n)
      if m.ep || m.subtype != 1 || m.length != 4 then drop
      else if s.clkMode n ≠ 0 ∨ s.clkState n = csOff then drop
      else if !m.ptmValid then drop
      else if m.spindown then .all [drop, gotoClk n csLost]
      else if t < m.indexTime ∨ m.indexTime + 2 * s.nom n < t then drop
      else if !(s.clock n).hasIdx then .all [bump PICK_MSG, clkFirst n m]
      else if k < 1 then drop
      else .all [bump PICK_MSG, clkUpdate n k.toNat d m.indexTime]) s

/-- Nanoseconds of `k` periods, rounded up. -/
def periodsNs (p k : Nat) : Nat := (k * p + 255) / 256
/-- CLOCK_ACQUIRE_TIMEOUT (Table 8.3). -/
def execClockAcquireTimeout (drive : Nat) (s : State) : Out :=
  let c := s.clock drive
  commit (if s.clkState drive = csAcquire then
    .all [advanceTo (max c.entered c.last + 16 * s.nom drive), gotoClk drive csDegraded] else .skip) s
/-- CLOCK_COAST_START (Table 8.3). -/
def execClockCoastStart (drive : Nat) (s : State) : Out :=
  let c := s.clock drive
  commit (if s.clkState drive = csLocked then
    .all [advanceTo (max c.entered c.last + periodsNs (s.period drive) 16), gotoClk drive csCoast] else .skip) s
/-- CLOCK_COAST_EXPIRY (Table 8.3). -/
def execClockCoastExpiry (drive : Nat) (s : State) : Out :=
  commit (if s.clkState drive = csCoast then .all [
    advanceTo ((s.clock drive).entered +
      periodsNs (s.period drive) (s.get (PICK_CLK_CFG drive) PICK_CLK_CFG_COAST_REVS)),
    gotoClk drive csDegraded ] else .skip) s

/-! ### Zone tables (R229–R231) -/

/-- The zone of a drive's LBA. -/
def State.zoneOf (s : State) (n x : Nat) : Option Zone := (Tab.getD s.pick.zones n []).reverse.find? fun z => decide (z.first ≤ x)
/-- The angle of LBA `x` in its zone (R230). -/
def Zone.angle (z : Zone) (x : Nat) : Nat :=
  let o := x - z.first
  (z.angle0 + o / z.spt * z.skew + o % z.spt * 65536 / z.spt) % 65536

/-! ### Learning (R227) -/

/-- A READ or VERIFY completion of drive `n` at time `tc`. -/
def learn (n op slba nlb tc : Nat) : Act := withFree fun u => .read fun s =>
  let st := s.clkState n
  let up := Config.roundUp u
  match s.zoneOf n slba, s.zoneOf n (slba + nlb) with
  | some z, some z' =>
    if !(st = csDegraded ∨ st = csLost) ∨ !(op = 0x02 ∨ op = 0x0C) ∨ z.spt < 4 * nlb then .skip
    else
      let unit : Nat := 2 ^ 24
      let p : Int := s.nom n * unit
      let l : Int := ((tc : Int) - s.fixedNs n) * unit - z'.angle (slba + nlb) * s.nom n * 256
      if !(s.clock n).hasIdx then .all [
        .reg (PICK_CLK_IDX n) (BitVec.ofInt 64 (roundFree l unit up)), modClock n fun c => { c with hasIdx := true } ]
      else
        let r : Int := (l - s.idx n * unit + p / 2) % p - p / 2
        let high := decide ((8 * s.clkTol n * unit : Nat) < r.natAbs)
        let c := s.clock n
        .all [
          .reg (PICK_CLK_IDX n) (BitVec.ofInt 64 (s.idx n +
            roundFree r (unit * 2 ^ s.get (PICK_CLK_CFG n) PICK_CLK_CFG_FILT) up)),
          setF (PICK_CLK_STAT n) PICK_CLK_STAT_RESID (residField (roundFree r unit up)),
          modClock n fun c => { c with high := if high then c.high + 1 else 0, low := if high then 0 else c.low + 1 },
          if st = csDegraded ∧ high ∧ 15 ≤ c.high then gotoClk n csLost
          else if st = csLost ∧ !high ∧ 3 ≤ c.low then gotoClk n csDegraded else .skip ]
  | _, _ => .skip

end Sys2Proof.Machine
end

