-- ==== Sys2Proof/Machine/Drive.lean ====
section
/-! DEFINITION. Chapter 07: root ports, drive controllers, hardware queue pairs, command slots and handles. -/

namespace Sys2Proof.Machine

/-! ### Slots and pairs -/

/-- Command slot `k`. -/
def State.slot (s : State) (k : Nat) : Option Slot := Tab.find s.drv.slot k
/-- Change slot `k` if it is allocated. -/
def modSlot (k : Nat) (f : Slot → Slot) : Act := .drv fun d =>
  match Tab.find d.slot k with
  | some x => { d with slot := Tab.put d.slot k (f x) }
  | none => d
/-- Pair `q`. -/
def State.pair (s : State) (q : Nat) : DrvPair := Tab.getD s.drv.pair q {}
/-- Change pair `q` if it is enabled. -/
def modPair (q : Nat) (f : DrvPair → DrvPair) : Act := .drv fun d =>
  match Tab.find d.pair q with
  | some x => { d with pair := Tab.put d.pair q (f x) }
  | none => d
/-- Root port of controller `n`. -/
def State.ctrlPort (s : State) (n : Nat) : Nat := s.get (DQ_CTRL_A n) DQ_CTRL_A_PORT
/-- Block ID of root port `p`. -/
def portId (p : Nat) : Nat := 0x0400 + p
/-- The controller of pair `q`. -/
def State.pairCtrl (s : State) (q : Nat) : Nat := s.get (DQ_QP q) DQ_QP_CTRL
/-- The enabled pairs of controller `n`, in order. -/
def State.pairsOf (s : State) (n : Nat) : List Nat :=
  if s.bit DQ_CFG DQ_CFG_EN then (s.drv.pair.map (·.1)).filter fun q => s.pairCtrl q == n else []
/-- Commands in pair `q`. -/
def State.occ (s : State) (q : Nat) : Nat := s.get (DQ_QP q) DQ_QP_OCC
/-- The pair that a command of controller `n` goes to (R206, R237): not claimed, with room, the lowest occupancy, the
lowest number among equals. -/
def State.pickPair (s : State) (n : Nat) : Option Nat :=
  ((s.pairsOf n).filter fun q => (s.pair q).claim.isNone &&
      decide (s.occ q + 1 < 2 ^ s.get (DQ_QP q) DQ_QP_LOG_DEPTH)).foldl
    (fun b q => match b with
      | none => some q
      | some p => if s.occ q < s.occ p then some q else some p) none

/-- Drive commands in flight, over the chip and on a controller's port (R232). -/
def driveCount (n : Nat) : Act := .read fun s => .all [
  setF LOOM_INFLIGHT LOOM_INFLIGHT_DRIVE_CMDS s.drv.slot.length,
  setF (PE_PORT_STAT (s.ctrlPort n)) PE_PORT_STAT_CMDS
    (s.drv.slot.filter fun p => s.ctrlPort p.2.ctrl == s.ctrlPort n).length ]

/-- Take a free command slot (R206); `k` goes on with its number. -/
def takeSlot (x : Slot) (k : Nat → Act) : Act := withFree fun u => .read fun s =>
  match pickFree (fun i => (s.slot i).isNone) 65536 (Config.freeEntry u) 65536 1 with
  | i :: _ => .all [
      .drv fun d => { d with slot := Tab.put d.slot i { x with seq := d.nextSeq }, nextSeq := d.nextSeq + 1 },
      driveCount x.ctrl, k i ]
  | [] => .skip

/-- The handle base of a slot (Table 7.6). -/
def handleBase (k : Nat) : Nat := 2 ^ 46 + k * 2 ^ 30
/-- The address of pair `q`'s submission ring, and of its completion ring (R204). -/
def State.sqRing (s : State) (q : Nat) : Nat := s.get DQ_CFG DQ_CFG_RING_BASE * 2 ^ 30 + q * 0x10000
def State.cqRing (s : State) (q : Nat) : Nat := s.get DQ_CFG DQ_CFG_RING_BASE * 2 ^ 30 + 0x10000000 + q * 0x4000
/-- The NVMe command of a slot (Table 7.5); a Flush has no blocks. -/
def nvmeCommand (k : Nat) (x : Slot) : List Byte :=
  let h := handleBase k
  let prp2 := if x.len ≤ 4096 then 0 else if x.len ≤ 8192 then h + 0x1000 else h + 2 ^ 28
  natLe 1 x.op ++ natLe 1 0 ++ natLe 2 k ++ natLe 4 x.nsid ++ natLe 16 0 ++ natLe 8 h ++ natLe 8 prp2 ++
    natLe 8 (if x.op = 0 then 0 else x.slba) ++ natLe 4 (x.nlb - 1) ++ natLe 12 0

/-- Write a slot's command into the submission ring of pair `q` (R207). -/
def writeCmd (k q : Nat) : Act := .read fun s =>
  match s.slot k with
  | none => .skip
  | some x => .all [
      wrCoh (s.sqRing q + (s.pair q).tail * 64) (nvmeCommand k x) false,
      modPair q fun p => { p with tail := (p.tail + 1) % 2 ^ s.get (DQ_QP q) DQ_QP_LOG_DEPTH },
      modSlot k fun x => { x with pair := some q },
      setF (DQ_QP q) DQ_QP_OCC (s.occ q + 1) ]

/-- A doorbell of pair `q`: the submission tail, or the completion head (R207, R214). -/
def doorbell (q : Nat) (cq : Bool) (v : Nat) : Act := .read fun s =>
  let n := s.pairCtrl q
  let a := (s.reg (DQ_CTRL_B n)).toNat / 4096 * 4096 +
    (2 * s.get (DQ_QP q) DQ_QP_QID + if cq then 1 else 0) * (4 * 2 ^ s.get (DQ_CTRL_A n) DQ_CTRL_A_DSTRD)
  .drv fun d => { d with doorbells := (a, v) :: d.doorbells }
/-- Write the tail doorbell of a slot's pair; its command is issued (R207, R216). -/
def ringSlot (k : Nat) : Act := .read fun s =>
  match (s.slot k).bind (·.pair) with
  | none => .skip
  | some q => .all [
      doorbell q false (s.pair q).tail,
      modPair q fun p => { p with claim := none },
      modSlot k fun x => { x with rung := some s.clk.time },
      bump DQ_CMDS ]

/-- Issue a slot's command at once where a pair takes it; else it waits (R237). -/
def placeSlot (k : Nat) : Act := .read fun s =>
  match s.slot k with
  | none => .skip
  | some x => match s.pickPair x.ctrl with
    | none => .skip
    | some q => .all [writeCmd k q, ringSlot k]
/-- Is slot `k` an entry of the release heap? -/
def State.inHeap (s : State) (k : Nat) : Bool := s.pick.heap.any (·.slot == k)
/-- The slots of controller `n` that wait for a pair, in order. -/
def State.waitingSlots (s : State) (n : Nat) : List Nat :=
  (s.drv.slot.filter fun p => p.2.ctrl == n && p.2.pair.isNone && !p.2.ended && !s.inHeap p.1).foldl
    (fun l p => l.takeWhile (fun k => ((s.slot k).map (·.seq)).getD 0 < p.2.seq) ++ [p.1] ++
      l.dropWhile (fun k => ((s.slot k).map (·.seq)).getD 0 < p.2.seq)) []
/-- A pair of controller `n` has room: waiting commands go out in order while the controller is UP. -/
def pairFreed (n : Nat) : Act := .read fun s => .when (s.get (DQ_CTRL_A n) DQ_CTRL_A_STATE == 1) (.each (s.waitingSlots n) placeSlot)

/-- End the request of a slot; a keeper request's end goes to the keeper (R582). The first end decides (R217). -/
def endSlot (k st result detail : Nat) : Act := .read fun s =>
  match s.slot k with
  | none => .skip
  | some x => if x.ended then .skip else .all [
      modSlot k fun x => { x with ended := true },
      match x.req with
      | some r => endReq r st result detail
      | none => .drv fun d => { d with keeper := (k, st, detail) :: d.keeper } ]

/-- A group loses a member from the heap: its slot is freed when the last scheduled member has left (R241). -/
def groupLeft (g : Option (Nat × Nat)) : Act := .pick fun p => match g with
  | none => p
  | some k => { p with groups := p.groups.filter fun x =>
      !((x.f, x.group) == k && x.scheduled) || p.heap.any (fun e => e.group == some k) }
/-- Take a slot's entry out of the release heap. -/
def heapDrop (k : Nat) : Act := .read fun s =>
  match s.pick.heap.find? (·.slot == k) with
  | none => .skip
  | some e => .all [.pick fun p => { p with heap := p.heap.filter fun x => x.slot != k }, groupLeft e.group, pickStat]

/-- Free a slot (R212). A command that was written and not yet announced is taken back out of its pair. -/
def freeSlot (k : Nat) : Act := .read fun s =>
  match s.slot k with
  | none => .skip
  | some x => .all [
      heapDrop k,
      (match x.pair with
       | none => .skip
       | some q => .all [
          setF (DQ_QP q) DQ_QP_OCC (s.occ q - 1),
          .when x.rung.isNone (modPair q fun p =>
            let m := 2 ^ s.get (DQ_QP q) DQ_QP_LOG_DEPTH
            { p with tail := (p.tail + m - 1) % m, claim := none }) ]),
      .drv fun d => { d with slot := Tab.drop d.slot k },
      driveCount x.ctrl,
      pairFreed x.ctrl ]

/-- A command ends with DRIVE_DOWN and frees its slot; what it may still have been reading in is undefined (R202). -/
def slotDown (k : Nat) : Act := .read fun s =>
  match s.slot k with
  | none => .skip
  | some x => .all [
      endSlot k lsDriveDown 0 (portId (s.ctrlPort x.ctrl)),
      .when (x.op == 0x02 && !x.win && x.rung.isSome) (undefDest x.f x.addr x.len),
      freeSlot k ]
/-- The slots that a test names end with DRIVE_DOWN. -/
def slotsDown (p : Nat → Slot → Bool) : Act := .read fun s =>
  .each ((s.drv.slot.filter fun x => p x.1 x.2).map (·.1)) slotDown

/-- Revoke a slot: its transfers are refused from now on; it stays allocated (R186, R212). -/
def revoke (k : Nat) : Act := modSlot k fun x => { x with revoked := true }

/-! ### Controllers -/

/-- A controller takes a state (Table 7.14); its clock sees it leave or return to UP (Table 8.3). Its commands in the
release heap end when it leaves UP (Table 8.5). -/
def ctrlTo (n st : Nat) : Act := .read fun s => .all [
  setF (DQ_CTRL_A n) DQ_CTRL_A_STATE st,
  .when (s.ctrlUp n && st != 1) (.all [clkCtrlDown n,
    .each ((s.drv.slot.filter fun p => p.2.ctrl == n && s.inHeap p.1).map (·.1)) slotDown]),
  .when (!s.ctrlUp n && st == 1) (clkCtrlUp n) ]
/-- The enabled controllers of a port. -/
def State.ctrlsOf (s : State) (p : Nat) : List Nat :=
  (List.range 1024).filter fun n => s.bit (DQ_CTRL_A n) DQ_CTRL_A_EN && s.ctrlPort n == p

/-- A hart of world `world` writes DQ_CTRL_An (Table 7.14, R203, R220). While EN = 1 only EN and TMO take a write. An enable
while the link is down leaves the controller in DOWN. -/
def dqCtrlWrite (world : Bool) (n : Nat) (held v : W64) : Act := .read fun s =>
  let a := DQ_CTRL_A n
  let old := s.reg a
  let en := DQ_CTRL_A_EN.get old != 0
  let lock := [DQ_CTRL_A_PORT, DQ_CTRL_A_SUBFN, DQ_CTRL_A_RID, DQ_CTRL_A_LBA_SHIFT, DQ_CTRL_A_DSTRD]
  let new := (regFields a).foldl (fun w d =>
    if en && lock.contains d.fld then w else fieldWrite held false true w v d) old
  if world ≠ s.blockWorld 5 then .skip
  else .all [
    .reg a new,
    if !en && DQ_CTRL_A_EN.get new != 0 then .read fun s =>
      let p := s.ctrlPort n
      ctrlTo n (if s.bit (PE_PORT_STAT p) PE_PORT_STAT_LINK_UP && !s.bit (PE_PORT_STAT p) PE_PORT_STAT_CONTAINED then 1 else 2)
    else if en && DQ_CTRL_A_EN.get new == 0 then .all [
      ctrlTo n 0, slotsDown fun _ x => x.ctrl == n ]
    else .skip ]
/-- A write of the whole register. -/
def allBits : W64 := BitVec.allOnes 64
/-- DQ_CTRL_ENABLE (R203): `value` with EN = 1. -/
def execDqCtrlEnable (world : Bool) (drive : Nat) (value : W64) (s : State) : Out :=
  commit (dqCtrlWrite world drive allBits (DQ_CTRL_A_EN.put value 1)) s
/-- DQ_CTRL_DISABLE (R212): `value` with EN = 0. -/
def execDqCtrlDisable (world : Bool) (drive : Nat) (value : W64) (s : State) : Out :=
  commit (dqCtrlWrite world drive allBits (DQ_CTRL_A_EN.put value 0)) s

/-- A pair is disabled: its commands end with DRIVE_DOWN, and so do those that no pair can take any more (R205, R239). -/
def pairDown (q : Nat) : Act := .read fun s =>
  let n := s.pairCtrl q
  .all [
    .drv fun d => { d with pair := Tab.drop d.pair q },
    slotsDown fun _ x => x.pair == some q,
    setF (DQ_QP q) DQ_QP_OCC 0,
    .read fun s => .when (s.pairsOf n).isEmpty (slotsDown fun _ x => x.ctrl == n && x.pair.isNone) ]
/-- May pair `q` be enabled as its register now stands (R205)? -/
def State.pairOk (s : State) (q : Nat) : Bool :=
  let r := s.reg (DQ_QP q)
  let lg := DQ_QP_LOG_DEPTH.get r
  s.bit DQ_CFG DQ_CFG_EN && s.ctrlUp (DQ_QP_CTRL.get r) && decide (1 ≤ DQ_QP_QID.get r) && decide (4 ≤ lg ∧ lg ≤ 10) &&
    !(s.drv.pair.any fun p => p.1 != q && s.pairCtrl p.1 == DQ_QP_CTRL.get r && s.get (DQ_QP p.1) DQ_QP_QID == DQ_QP_QID.get r)
/-- A hart of world `world` writes DQ_QPq (Table 7.16, R205, R220). -/
def dqQpWrite (world : Bool) (q : Nat) (held v : W64) : Act := .read fun s =>
  let a := DQ_QP q
  let old := s.reg a
  let en := DQ_QP_EN.get old != 0
  let new := (regFields a).foldl (fun w d =>
    if en && d.fld != DQ_QP_EN then w else fieldWrite held false true w v d) old
  if world ≠ s.blockWorld 5 then .skip
  else .all [
    .reg a new,
    if !en && DQ_QP_EN.get new != 0 then .read fun s =>
      if s.pairOk q then .all [
        setFs a [(DQ_QP_ERR, 0), (DQ_QP_OCC, 0)], .drv fun d => { d with pair := Tab.put d.pair q {} } ]
      else setFs a [(DQ_QP_EN, 0), (DQ_QP_ERR, 1)]
    else .when (en && DQ_QP_EN.get new == 0) (pairDown q) ]
/-- DQ_QP_ENABLE (R205). -/
def execDqQpEnable (world : Bool) (qp : Nat) (value : W64) (s : State) : Out :=
  commit (dqQpWrite world qp allBits (DQ_QP_EN.put value 1)) s
/-- DQ_QP_DISABLE (R205). -/
def execDqQpDisable (world : Bool) (qp : Nat) (value : W64) (s : State) : Out :=
  commit (dqQpWrite world qp allBits (DQ_QP_EN.put value 0)) s

/-! ### Handles (R208–R210) -/

/-- The data that a list handle returns from `off` on (R209): PRP entries of 8 bytes with chain pointers. -/
def listBytes (k : Nat) (x : Slot) (off n : Nat) : List Byte :=
  let total := (x.len + 4095) / 4096 - 1
  let ent := fun (i : Nat) =>
    let page := i / 512
    let left := total - 511 * page
    if i % 512 = 511 ∧ 512 < left then handleBase k + 2 ^ 28 + 0x1000 * (page + 1)
    else if i % 512 < left then handleBase k + 0x1000 * (1 + 511 * page + i % 512) else 0
  ((List.range (n + 8)).map fun j => BitVec.ofNat 8 (ent ((off + j) / 8) / 2 ^ (8 * ((off + j) % 8)))).take n
/-- The bytes of a slot's list (R209). -/
def listLen (x : Slot) : Nat :=
  let total := (x.len + 4095) / 4096 - 1
  (total + (total - 2) / 511) * 8

/-- Which check of R210 an access fails first: 1 free or revoked, 2 requester, 3 direction, 4 offset. -/
def State.handleFail (s : State) (rid a n : Nat) (write : Bool) : Option Nat :=
  let off := a % 2 ^ 28
  let list := a.testBit 28
  match s.slot (a / 2 ^ 30 % 65536) with
  | none => some 1
  | some x =>
    if x.revoked then some 1
    else if s.get (DQ_CTRL_A x.ctrl) DQ_CTRL_A_RID ≠ rid then some 2
    else if x.op = 0x0C ∨ x.op = 0x00 ∨ (if list then write else write != (x.op == 0x02)) then some 3
    else if a.testBit 29 ∨ (if list then listLen x else x.len) < off + n then some 4
    else none
/-- What a refused handle access leaves (Table 7.8). -/
def handleReject (port rid a why : Nat) : Act := .read fun s =>
  let k := a / 2 ^ 30 % 65536
  match s.slot k with
  | none => bump PE_HANDLE_REJECT
  | some x => .all [
      bump PE_HANDLE_REJECT,
      if why = 1 then .when x.revoked (bump LOOM_REVOKED_DMA)
      else if why = 2 then rasLog { sev := 2, cls := cProtocol, block := portId port, synd := k * 65536 + rid }
      else modSlot k fun x => { x with dma := true } ]
/-- The completion of a PCIe request: its status and bytes. -/
def cplAnswer (st : Nat) (data : List Byte) (ep : Bool) : Act := .io fun x => { x with cpl := st, data := data, ep := ep }
/-- A translation or permission fault of a handle access (Table 7.8). -/
def handleXlate (k : Nat) (read : Bool) : Act := .all [
  bump PE_DMA_FAULT, modSlot k fun x => { x with xlate := true }, .when read (cplAnswer 4 [] false) ]

/-- A drive writes to a handle (R210). -/
def handleWrite (port rid a : Nat) (b : List Byte) (poison : Bool) : Act := .read fun s =>
  let k := a / 2 ^ 30 % 65536
  let off := a % 2 ^ 28
  match s.handleFail rid a b.length true, s.slot k with
  | some w, _ => handleReject port rid a w
  | none, none => .skip
  | none, some x =>
    .seq (.when poison (.all [modSlot k fun x => { x with poisoned := true },
        rasLog { sev := 1, cls := cPoison, block := portId port, tenant := x.f, world := s.funcWorld x.f } ]))
      (if x.win then
        let w := x.addr + off
        match s.winRefused w b.length (.pcie rid) with
        | some fl => .all [winReject w fl, modSlot k fun x => { x with dma := true },
            rasLog { sev := 2, cls := cProtocol, block := portId port, addr := some w, synd := rid }]
        | none => winLand w (BitVec.ofNat 512 (leNat b)) poison
      else ioWith x.f (x.addr + off) b.length true (handleXlate k false) fun l => wrPieces poison l b)
/-- A drive reads from a handle (R209, R210). -/
def handleRead (port rid a n : Nat) : Act := .read fun s =>
  let k := a / 2 ^ 30 % 65536
  let off := a % 2 ^ 28
  match s.handleFail rid a n false, s.slot k with
  | some w, _ => .all [handleReject port rid a w, cplAnswer 1 [] false]
  | none, none => cplAnswer 1 [] false
  | none, some x =>
    if a.testBit 28 then cplAnswer 0 (listBytes k x off n) false
    else ioWith x.f (x.addr + off) n false (handleXlate k true) fun l => .read fun s =>
      let ep := s.poisonPieces l
      .all [
        .when ep (.all [modSlot k fun x => { x with poisoned := true },
          rasLog { sev := 1, cls := cPoison, block := 0x0005, tenant := x.f, world := s.funcWorld x.f }]),
        cplAnswer 0 (s.rdPieces l) ep ]

/-! ### Completion routing (R213–R217) -/

/-- What a completion entry with NVMe status `sf` makes of a slot (R215). -/
def slotDone (k sf : Nat) : Act := .read fun s =>
  match s.slot k with
  | none => .skip
  | some x =>
    let port := portId (s.ctrlPort x.ctrl)
    .all [
      if x.ended || x.revoked then bump DQ_LATE_CPL
      else if x.poisoned then endSlot k lsPoisoned 0 port
      else if x.xlate then endSlot k lsXlate 0 port
      else if x.dma then endSlot k lsDma 0 port
      else if sf ≠ 0 then endSlot k lsMedia 0 sf
      else endSlot k lsOK x.nlb 0x0005,
      .when (!(x.ended || x.revoked)) (learn x.ctrl x.op x.slba x.nlb s.clk.time),
      freeSlot k ]

/-- A drive writes a completion entry to the ring of pair `q` (R213, Table 7.8): a wrong phase, or a CID that names no issued
command of the pair, is discarded, recorded, and contains the controller. -/
def cqEntry (q : Nat) (b : List Byte) : Act := .read fun s =>
  let w := leNat ((b.drop 12).take 4)
  let k := w % 65536
  let n := s.pairCtrl q
  let p := s.pair q
  let good := (w / 65536 % 2 == p.phase) && (match s.slot k with
    | some x => x.pair == some q && x.rung.isSome
    | none => false)
  if !good then .all [
    rasLog { sev := 2, cls := cProtocol, block := portId (s.ctrlPort n), synd := k },
    ctrlTo n 3, slotsDown fun _ x => x.ctrl == n ]
  else
    let h := (p.head + 1) % 2 ^ s.get (DQ_QP q) DQ_QP_LOG_DEPTH
    .all [
      modPair q fun p => { p with
        head := h, phase := if h = 0 then 1 - p.phase else p.phase, unacked := p.unacked + 1
        unackedAt := if p.unacked = 0 then s.clk.time else p.unackedAt },
      slotDone k (w / 2 ^ 17) ]

/-- DRIVE_CQ_DOORBELL (R214): after 8 entries, or 1 µs after the oldest that is not acknowledged. -/
def execDriveCqDoorbell (qp : Nat) (s : State) : Out :=
  let p := s.pair qp
  commit (if p.unacked = 0 then .skip else .all [
    .when (decide (p.unacked < 8)) (advanceTo (p.unackedAt + 1000)),
    doorbell qp true p.head,
    modPair qp fun p => { p with unacked := 0 } ]) s

/-- DRIVE_COMMAND_TIMEOUT (R216): TMO after its doorbell write a command is revoked and its request ends. -/
def execDriveCommandTimeout (slot : Nat) (s : State) : Out :=
  commit (match s.slot slot with
    | some x => (match x.rung with
      | some t => if x.ended then .skip else .all [
          advanceTo (t + s.get (DQ_CTRL_A x.ctrl) DQ_CTRL_A_TMO * 100000000),
          revoke slot, endSlot slot lsDriveTmo 0 (portId (s.ctrlPort x.ctrl)), bump DQ_TMO ]
      | none => .skip)
    | none => .skip) s

/-! ### Root ports (R200–R203, R563) -/

/-- Root port `p`. -/
def State.port (s : State) (p : Nat) : Port := Tab.getD s.drv.port p {}
/-- Change root port `p`. -/
def modPort (p : Nat) (f : Port → Port) : Act := .drv fun d => { d with port := Tab.upd d.port p {} f }
/-- Sources 65–80: a root port's line is asserted while its Data Link Layer State Changed or its DPC Trigger Status is set. -/
def portLine (p : Nat) : Act := .read fun s => lineSet (65 + p) ((s.port p).changed || (s.port p).dpc)
/-- The link of a port goes down. -/
def linkDown (p : Nat) : Act := .all [
  setFs (PE_PORT_STAT p) [(PE_PORT_STAT_LINK_UP, 0), (PE_PORT_STAT_SPEED, 0)],
  modPort p fun x => { x with lanes := [] } ]
/-- The ports that a feed is paired with. -/
def State.portsOfFeed (s : State) (ch : Nat) : List Nat :=
  (List.range 16).filter fun p => s.get (PE_PORT_CFG p) PE_PORT_CFG_FEED == ch
/-- Commands in flight on a port. -/
def State.portCmds (s : State) (p : Nat) : Nat := s.get (PE_PORT_STAT p) PE_PORT_STAT_CMDS

/-- The port side of a feed turning off (Table 7.3): commands still in flight end with DRIVE_DOWN. -/
def portOff (p : Nat) : Act := .read fun s => .all [
  .each (s.ctrlsOf p) fun n => ctrlTo n 2,
  slotsDown fun _ x => s.ctrlPort x.ctrl == p,
  setB (PE_PORT_STAT p) PE_PORT_STAT_EXPECT_DOWN true,
  linkDown p,
  modPort p fun x => { x with disabled := true, perst := true, due := none, since := none } ]
/-- The port side of a feed in regulation (Table 7.4): PERST is due to be released 100 ms later. -/
def portOn (p : Nat) : Act := .read fun s => modPort p fun x => { x with due := some (s.clk.time + 100000000) }

/-- PERST_RELEASE (R201). -/
def execPerstRelease (port : Nat) (s : State) : Out :=
  commit (match (s.port port).due with
    | none => .skip
    | some t => .all [
        advanceTo t,
        setB (PE_PORT_STAT port) PE_PORT_STAT_EXPECT_DOWN false,
        .read fun s => modPort port fun x => { x with
          perst := false, due := none, since := some s.clk.time, disabled := false, failed := false } ]) s

/-- PCIE_LINK_UP (R201): the link of function `sub` of a released port trains at `speed` over `lanes` lanes. -/
def execPcieLinkUp (port sub speed lanes : Nat) (s : State) : Out :=
  let x := s.port port
  commit (whileLive (if x.perst ∨ x.disabled ∨ x.dpc ∨ speed = 0 ∨ 5 < speed then .skip else .all [
    .when (sub == 0) (setFs (PE_PORT_STAT port) [(PE_PORT_STAT_LINK_UP, 1), (PE_PORT_STAT_SPEED, speed)]),
    modPort port fun x => { x with changed := true, lanes := Tab.put x.lanes sub lanes },
    portLine port ])) s

/-- PCIE_LINK_FAIL_TIMEOUT (R201): the link is still down 1 s after the release. -/
def execPcieLinkFailTimeout (port : Nat) (s : State) : Out :=
  let x := s.port port
  commit (whileLive (match x.since with
    | none => .skip
    | some t => if s.bit (PE_PORT_STAT port) PE_PORT_STAT_LINK_UP || x.failed then .skip else .all [
        advanceTo (t + 1000000000),
        rasLog { sev := 0, cls := cLink, block := portId port },
        bump PE_LINK_FAIL,
        modPort port fun x => { x with failed := true } ])) s

/-- DPC containment of a port (R202): its commands end, its controllers are contained, a UCR record is logged. -/
def contain (p sub : Nat) : Act := .read fun s => .all [
  .each (s.ctrlsOf p) fun n => ctrlTo n 3,
  slotsDown fun _ x => s.ctrlPort x.ctrl == p,
  setB (PE_PORT_STAT p) PE_PORT_STAT_CONTAINED true,
  linkDown p,
  modPort p fun x => { x with dpc := true, changed := true },
  rasLog { sev := 2, cls := cLink, block := portId p, synd := sub },
  portLine p ]
/-- PCIE_SURPRISE_DOWN (R202). -/
def execPcieSurpriseDown (port sub : Nat) (s : State) : Out :=
  commit (whileLive (if s.bit (PE_PORT_STAT port) PE_PORT_STAT_EXPECT_DOWN ∨ !s.bit (PE_PORT_STAT port) PE_PORT_STAT_LINK_UP then .skip
    else contain port sub)) s
/-- PCIE_ERROR_MESSAGE (R198, Table 7.2): ERR_FATAL, or ERR_NONFATAL where software has selected it, triggers DPC. Every
error is logged in the complex's bank. -/
def execPcieErrorMessage (port sub : Nat) (fatal selected : Bool) (s : State) : Out :=
  commit (whileLive (if !s.bit (PE_PORT_STAT port) PE_PORT_STAT_LINK_UP then .skip
    else if fatal || selected then contain port sub
    else rasLog { sev := 2, cls := cLink, block := portId port, synd := sub })) s
/-- DPC_RELEASE (R202): software clears DPC Trigger Status; the link retrains and the controllers go to DOWN. -/
def execDpcRelease (port : Nat) (s : State) : Out :=
  commit (if !(s.port port).dpc then .skip else .all [
    modPort port fun x => { x with dpc := false },
    setB (PE_PORT_STAT port) PE_PORT_STAT_CONTAINED false,
    .each ((s.ctrlsOf port).filter fun n => s.get (DQ_CTRL_A n) DQ_CTRL_A_STATE == 3) fun n => ctrlTo n 2,
    portLine port ]) s
/-- PCIE_LANE_LOSS (R563): the link runs on at the widest width that its good lanes allow, with a CE record. -/
def execPcieLaneLoss (port sub lanes : Nat) (s : State) : Out :=
  commit (whileLive (if Tab.getD (s.port port).lanes sub 0 ≤ lanes then .skip else .all [
    modPort port fun x => { x with lanes := Tab.put x.lanes sub lanes },
    rasLog { sev := 0, cls := cLink, block := portId port, synd := sub } ])) s

/-- PTM_REQUEST (R199): t2 and t3 of the response lie within 4 ns of TIME. -/
def execPtmRequest (port : Nat) (s : State) : Out :=
  commit (whileLive (if !s.bit (PE_PORT_CFG port) PE_PORT_CFG_PTM ∨ !s.bit (PE_PORT_STAT port) PE_PORT_STAT_LINK_UP then .skip
    else withFree fun k => .read fun s => .drv fun d => { d with
      ptm := (port, s.clk.time + Config.ptmSkew k % 9 - 4, s.clk.time + Config.ptmSkew (k + 1) % 9 - 4) :: d.ptm })) s

end Sys2Proof.Machine
end

