-- ==== Sys2Proof/Machine/Pick.lean ====
section
/-! DEFINITION. Sections 8.4 to 8.7: the release heap, stripe groups, angle alarms and the Pick cards. Release times are in
1/256 ns, so no rounding enters them. -/

namespace Sys2Proof.Machine

/-- SETUP in ns. -/
def State.setupNs (s : State) : Nat := s.get PICK_CFG PICK_CFG_SETUP * 1000
/-- Does clock `n` release by angle (Table 8.3)? -/
def State.byAngle (s : State) (n : Nat) : Bool :=
  (s.clkState n == csLocked || s.clkState n == csCoast || s.clkState n == csDegraded) && s.period n != 0

/-- The first release time of R233 for target angle `theta` and entry time `te`; none where the clock releases at once. -/
def State.firstRelease (s : State) (n theta te : Nat) : Option Nat :=
  let p := s.period n
  if !s.byAngle n then none
  else
    let base : Int := ((s.idx n : Int) + nearest (theta * p) (65536 * 256) - s.lead n) * 256
    let goal : Int := (te + s.setupNs) * 256
    some (base + (goal - base + p - 1) / p * p).toNat
/-- LATEST applied to a release time (R234). -/
def capLatest (latest te r : Nat) : Nat := if latest ≠ 0 ∧ latest * 256 < r then max latest te * 256 else r

/-- Is LATEST what decides? -/
def latestHits (latest r : Nat) : Bool := decide (latest ≠ 0 ∧ latest * 256 < r)

/-- Time an entry alone (R233, R234) and put it into the heap. -/
def heapAlone (k n theta latest : Nat) : Act := .read fun s =>
  let te := s.clk.time
  let r := (s.firstRelease n theta te).getD (te * 256)
  let w : PickWhy := if s.byAngle n then .angle else .atOnce
  .all [
    .when (latestHits latest r) (bump PICK_LATEST),
    .pick fun p => { p with heap := p.heap ++ [{ slot := k, drive := n, theta := theta, latest := latest, why := w,
                                                  at256 := some (capLatest latest te r) }] },
    pickStat ]

/-- What a member's completion time is when it is released at `r` (R242), in 1/256 ns. -/
def State.completionAt (s : State) (e : HeapEnt) (r : Nat) : Nat :=
  match s.slot e.slot with
  | none => r
  | some x =>
    let spt := match s.zoneOf x.ctrl x.slba with | some z => z.spt | none => 1
    r + (s.lead e.drive + (nearest (x.nlb * s.period e.drive) (spt * 256)).toNat + s.fixedNs e.drive) * 256
/-- Schedule a group (R242): the members present get their release times. -/
def scheduleGroup (f g : Nat) : Act := .read fun s =>
  let ts := s.clk.time
  let mine := fun (e : HeapEnt) => e.group == some (f, g) && e.at256.isNone
  let mem := s.pick.heap.filter mine
  let d := mem.foldl (fun m e => match s.firstRelease e.drive e.theta ts with
    | some r => max m (s.completionAt e r)
    | none => m) 0
  let rel := fun (e : HeapEnt) => match s.firstRelease e.drive e.theta ts with
    | some r => r + (d - s.completionAt e r) / s.period e.drive * s.period e.drive
    | none => ts * 256
  .all [
    addTo PICK_LATEST (mem.filter fun e => latestHits e.latest (rel e)).length,
    .pick fun p => { p with
      heap := p.heap.map fun e => if mine e then
        { e with at256 := some (capLatest e.latest ts (rel e)), why := if s.byAngle e.drive then .angle else .atOnce } else e
      groups := (p.groups.map fun x => if (x.f, x.group) == (f, g) then { x with scheduled := true } else x).filter
        fun x => (x.f, x.group) != (f, g) || p.heap.any fun e => e.group == some (f, g) },
    pickStat ]

/-- A TIMED request enters the unit (R231–R243): its slot, function, group, GSIZE and LATEST. -/
def pickEnter (k f group gsize latest : Nat) : Act := .read fun s =>
  match s.slot k with
  | none => .skip
  | some x =>
    let n := x.ctrl
    let old := s.pick.groups.find? fun y => y.f == f && y.group == group
    let room := decide (s.pick.groups.length < 512)
    let alone := group == 0xFFFF || (match old with | some y => y.scheduled | none => !room)
    let member : Act := .all [
      (match old with
       | some y => .all [.when (y.size != gsize) (bump PICK_GRP_MISMATCH),
          .pick fun p => { p with groups := p.groups.map fun y =>
            if y.f == f && y.group == group then { y with entered := y.entered + 1 } else y }]
       | none => .pick fun p => { p with groups := p.groups ++ [{ f := f, group := group, size := gsize, entered := 1,
                                                                  since := s.clk.time }] }),
      .read fun s => match s.pick.groups.find? fun y => y.f == f && y.group == group with
        | some y => .when (decide (y.size ≤ y.entered)) (scheduleGroup f group)
        | none => .skip ]
    .all [
      .when (group != 0xFFFF && old.isNone && !room) (bump PICK_GRP_FULL),
      .when (group != 0xFFFF && (match old with | some y => y.scheduled | none => false)) (bump PICK_GRP_LATE),
      (if 8192 ≤ s.pick.heap.length then .all [bump PICK_HEAP_FULL, placeSlot k]
       else match s.zoneOf n x.slba with
        | none => .all [bump PICK_UNTIMED, placeSlot k]
        | some z =>
          if alone then heapAlone k n (z.angle x.slba) latest
          else .pick fun p => { p with heap := p.heap ++ [{ slot := k, drive := n, theta := z.angle x.slba, latest := latest,
                                                             group := some (f, group) }] }),
      .when (!alone) member,
      pickStat ]

/-- GROUP_GATHER_EXPIRY (R241, R243): the group is scheduled with the members present. -/
def execGroupGatherExpiry (func group : Nat) (s : State) : Out :=
  commit (match s.pick.groups.find? fun y => y.f == func && y.group == group && !y.scheduled with
    | none => .skip
    | some y => .all [
        advanceTo (y.since + s.get PICK_CFG PICK_CFG_GATHER * 10000),
        .when (decide (y.entered < y.size)) (bump PICK_GRP_SHORT),
        scheduleGroup func group ]) s

/-- Change the heap entry of a slot. -/
def modHeap (k : Nat) (f : HeapEnt → HeapEnt) : Act :=
  .pick fun p => { p with heap := p.heap.map fun e => if e.slot == k then f e else e }

/-- PICK_PAIR_CLAIM (R237): 1 µs before its release an entry claims a pair, into which its command is written; where no pair
is free it waits, counted once. -/
def execPickPairClaim (slot : Nat) (s : State) : Out :=
  commit (match s.pick.heap.find? (·.slot == slot) with
    | none => .skip
    | some e => match e.at256 with
      | none => .skip
      | some r => if e.claimed then .skip else .seq (advanceTo (r / 256 - 1000)) (.read fun s =>
          match s.pickPair e.drive with
          | none => .all [.when (!e.waited) (bump PICK_PAIR_WAIT), modHeap slot fun e => { e with waited := true }]
          | some q => .all [
              writeCmd slot q,
              modPair q fun p => { p with claim := some slot },
              modHeap slot fun e => { e with claimed := true } ])) s

/-- The entry that is released next: the earliest release time, in order of entry among equals (R235). -/
def State.nextRelease (s : State) : Option HeapEnt :=
  (s.pick.heap.filter fun e => e.claimed && e.at256.isSome).foldl
    (fun b e => match b with
      | none => some e
      | some x => if e.at256.getD 0 < x.at256.getD 0 then some e else some x) none

/-- PICK_RELEASE (R236): the doorbell write of the next entry leaves at its release time, 4 ns after the one before it at
the earliest. One that falls due beyond 30 in 120 ns is counted in PICK_CROWD. -/
def execPickRelease (s : State) : Out :=
  commit (match s.nextRelease with
    | none => .skip
    | some e =>
      let r := (e.at256.getD 0 + 255) / 256
      let near := s.pick.recent.filter fun t => decide (r < t + 120)
      .all [
        advanceTo (max r (s.pick.lastRing + 4)),
        .read fun s => .all [
          ringSlot e.slot,
          .pick fun p => { p with recent := r :: near, lastRing := s.clk.time } ],
        .when (decide (30 ≤ near.length)) (bump PICK_CROWD),
        (match e.why with
         | .angle => bump PICK_RELEASED
         | .untimed => bump PICK_UNTIMED
         | _ => .skip),
        heapDrop e.slot,
        pairFreed e.drive ]) s

/-- Every entry of a drive is released at once (R235). -/
def releaseDrive (n : Nat) : Act := .read fun s => .all [
  .pick fun p => { p with heap := p.heap.map fun e => if e.drive == n then
    { e with at256 := some (s.clk.time * 256), why := .untimed, group := none } else e },
  .pick fun p => { p with groups := p.groups.filter fun x =>
    !x.scheduled || p.heap.any fun e => e.group == some (x.f, x.group) },
  pickStat ]

/-! ### Angle alarms (R244) -/

/-- A hart of world `world` writes PICK_ALARMa (Table 8.16, R248). -/
def alarmWrite (world : Bool) (a : Nat) (held v : W64) : Act := .read fun s =>
  let r := PICK_ALARM a
  let old := s.reg r
  let armed := PICK_ALARM_ARM.get old != 0
  let new := (regFields r).foldl (fun w d =>
    if armed && d.fld != PICK_ALARM_ARM then w else fieldWrite held false true w v d) old
  let vec := PICK_ALARM_VEC.get new
  let hv := s.reg (HRN_VEC vec)
  let ok := decide (1024 ≤ vec ∧ vec ≤ 33791) && HRN_VEC_VALID.get hv != 0 &&
    ((HRN_VEC_WORLD.get hv != 0) == s.blockWorld 6)
  if world ≠ s.blockWorld 6 then .skip
  else .all [
    .reg r new,
    if !armed && PICK_ALARM_ARM.get new != 0 then
      (if ok then .all [setFs r [(PICK_ALARM_FIRED, 0), (PICK_ALARM_NOCLK, 0), (PICK_ALARM_BADVEC, 0)],
          .pick fun p => { p with armed := Tab.put p.armed a s.clk.time }]
       else setFs r [(PICK_ALARM_ARM, 0), (PICK_ALARM_BADVEC, 1)])
    else .when (armed && PICK_ALARM_ARM.get new == 0) (.pick fun p => { p with armed := Tab.drop p.armed a }) ]
/-- PICK_ALARM_ARM (R244): `value` with ARM = 1. -/
def execPickAlarmArm (world : Bool) (alarm : Nat) (value : W64) (s : State) : Out :=
  commit (alarmWrite world alarm allBits (PICK_ALARM_ARM.put value 1)) s
/-- PICK_ALARM_DISARM (R244): `value` with ARM = 0. -/
def execPickAlarmDisarm (world : Bool) (alarm : Nat) (value : W64) (s : State) : Out :=
  commit (alarmWrite world alarm allBits (PICK_ALARM_ARM.put value 0)) s

/-- The first TIME from `t0` on at which the drive's angle `adv` ns later is `ang` (R224, R244). -/
def State.angleTime (s : State) (n t0 adv ang : Nat) : Nat :=
  let p := s.period n
  let u := ((((t0 + adv : Nat) : Int) - s.idx n) * 256 % p).toNat
  let lo := (ang * p + 65535) / 65536
  let hi := ((ang + 1) * p + 65535) / 65536
  if lo ≤ u ∧ u < hi then t0 else t0 + ((lo + p - u) % p + 255) / 256

/-- PICK_ALARM_FIRE (R244). -/
def execPickAlarmFire (alarm : Nat) (s : State) : Out :=
  let r := PICK_ALARM alarm
  let n := s.get r PICK_ALARM_DRIVE
  let by_ := s.byAngle n
  commit (if !s.bit r PICK_ALARM_ARM then .skip else .all [
    .when by_ (advanceTo (s.angleTime n (Tab.getD s.pick.armed alarm 0 + s.setupNs) (s.get r PICK_ALARM_ADV * 1000)
      (s.get r PICK_ALARM_ANGLE))),
    setFs r [(PICK_ALARM_ARM, 0), (PICK_ALARM_FIRED, 1), (PICK_ALARM_NOCLK, if by_ then 0 else 1)],
    .pick fun p => { p with armed := Tab.drop p.armed alarm },
    vectorRaise (s.get r PICK_ALARM_VEC) ]) s

/-! ### Pick cards (R245) -/

/-- World of the Pick cards' owner. -/
def pickOwner (s : State) : Owner := .is (s.blockWorld 6)

/-- PICK_CLOCK_CFG (Table 8.7). -/
def execPickClockCfg (c : CardCtx) (first count nomPeriod : Nat) (cfg : W64) (s : State) : Out :=
  let mode := PICK_CLK_CFG_MODE.get cfg
  let filt := PICK_CLK_CFG_FILT.get cfg
  commit (gated c 0x0501 false pickOwner fun _ =>
    if 1024 ≤ first then answer0 c 0x0501 stBADPARAM (dOff 0x10)
    else if count = 0 ∨ 1024 < first + count then answer0 c 0x0501 stBADPARAM (dOff 0x12)
    else if nomPeriod ≠ 0 ∧ (nomPeriod < 4000000 ∨ 20000000 < nomPeriod) then answer0 c 0x0501 stBADPARAM (dOff 0x14)
    else if mode = 3 ∨ filt = 0 ∨ 8 < filt ∨ PICK_CLK_CFG_COAST_REVS.get cfg = 0 ∨ PICK_CLK_CFG_TOL.get cfg = 0 ∨
        PICK_CLK_CFG_LEAD.get cfg = 0 ∨ cfg &&& ~~~ regMask (PICK_CLK_CFG first) ≠ 0 then
      answer0 c 0x0501 stBADPARAM (dOff 0x18)
    else .all [
      .each (List.range count) fun i => .all [
        .reg (PICK_CLK_CFG (first + i)) cfg,
        setF (PICK_CLK_NOM (first + i)) PICK_CLK_NOM_NOM_PERIOD nomPeriod,
        releaseDrive (first + i), startClk (first + i) ],
      answerOk c 0x0501 ]) s

/-- PICK_MAP_LOAD (Table 8.7, R229). -/
def execPickMapLoad (c : CardCtx) (drive z table : Nat) (s : State) : Out :=
  commit (gated c 0x0502 false pickOwner fun s =>
    let ents := (List.range z).map fun i =>
      let v := s.rdNat (table + 16 * i) 16
      ({ first := v % 2 ^ 48, spt := v / 2 ^ 48 % 65536, angle0 := v / 2 ^ 64 % 65536, skew := v / 2 ^ 80 % 65536 } : Zone)
    if 1024 ≤ drive then answer0 c 0x0502 stBADPARAM (dOff 0x10)
    else if z = 0 ∨ 64 < z then answer0 c 0x0502 stBADPARAM (dOff 0x12)
    else if !s.dramOf c.world table (16 * z) then answer0 c 0x0502 stNOTPERM (dBlk 0x0006)
    else if s.rdPoison table (16 * z) then answer0 c 0x0502 stFAULT (dBlk 0x0006)
    else if (ents.any fun e => e.spt == 0) || !((ents.zip (ents.drop 1)).all fun p => decide (p.1.first < p.2.first)) then
      answer0 c 0x0502 stBADPARAM (dOff 0x18)
    else .all [
      .pick fun p => { p with zones := Tab.put p.zones drive ents },
      setF (PICK_CLK_NOM drive) PICK_CLK_NOM_ZONES z,
      answerOk c 0x0502 ]) s

/-- PICK_MODE (Table 8.7): one drive, or every drive with 0xFFFF. -/
def execPickMode (c : CardCtx) (drive mode : Nat) (s : State) : Out :=
  commit (gated c 0x0503 false pickOwner fun _ =>
    if 1024 ≤ drive ∧ drive ≠ 0xFFFF then answer0 c 0x0503 stBADPARAM (dOff 0x10)
    else if 3 ≤ mode then answer0 c 0x0503 stBADPARAM (dOff 0x12)
    else .all [
      .each (if drive = 0xFFFF then List.range 1024 else [drive]) fun n => .all [
        setF (PICK_CLK_CFG n) PICK_CLK_CFG_MODE mode, releaseDrive n, startClk n ],
      answerOk c 0x0503 ]) s

end Sys2Proof.Machine
end

