-- ==== Sys2Proof/Machine/Xform.lean ====
section
/-! DEFINITION. Chapter 11: the transform engines and key slots. -/

namespace Sys2Proof.Machine

/-! ### Modes (Tables 11.1 to 11.3) -/

/-- The lane class of a mode: 0 cipher, 1 hash, 2 CRC, 3 compress, 4 decompress; none for an undefined SUB. -/
def xfClass (sub : Nat) : Option Nat :=
  match sub with
  | 0x00 | 0x01 | 0x02 | 0x03 => some 0
  | 0x10 | 0x11 | 0x12 => some 1
  | 0x20 => some 2
  | 0x30 | 0x32 => some 3
  | 0x31 | 0x33 => some 4
  | _ => none
/-- Lanes of a class (Table 11.1). -/
def xfLanes (cls : Nat) : Nat := match cls with | 0 => 8 | 1 => 8 | _ => 4
/-- The key type of a mode: 1 XTS, 2 GCM, 0 none. -/
def xfKeyType (sub : Nat) : Nat := match sub with | 0x00 | 0x01 => 1 | 0x02 | 0x03 => 2 | _ => 0
/-- E of a mode that has a fixed one (Table 11.3). -/
def xfFixed (sub len : Nat) : Option Nat :=
  match sub with
  | 0x00 | 0x01 | 0x03 => some len
  | 0x02 => some (len + 16)
  | 0x10 => some 32
  | 0x11 => some 48
  | 0x12 => some 64
  | 0x20 => some 8
  | _ => none

/-- Fields of the transform header (Table 11.2). -/
def hdrOutMax (h : Line) : Nat := entField h 0 4
def hdrFlags (h : Line) : Nat := entField h 4 1
def hdrLevel (h : Line) : Nat := entField h 5 1
def hdrDuLog (h : Line) : Nat := entField h 6 1
def hdrDun (h : Line) : Nat := entField h 8 8
def hdrIv (h : Line) : Nat := entField h 0x10 12
def hdrAadLen (h : Line) : Nat := entField h 0x1C 4
def hdrTag (h : Line) : Nat := entField h 0x20 16
/-- CRC_EN and CRC_OUT. -/
def hdrCrc (h : Line) : Bool := (hdrFlags h).testBit 0
def hdrCrcOut (h : Line) : Bool := (hdrFlags h).testBit 1

/-- Row 1 of Table 11.4 on a header. -/
def hdrOk (sub len : Nat) (h : Line) : Bool :=
  let gcm := xfKeyType sub == 2
  let xts := xfKeyType sub == 1
  let comp := xfClass sub == some 3
  decide (1 ≤ hdrOutMax h ∧ hdrOutMax h ≤ 2 ^ 24 + 4096) && decide (hdrFlags h < 4) &&
  (if comp then decide (1 ≤ hdrLevel h ∧ hdrLevel h ≤ 9) else hdrLevel h == 0) &&
  (if xts then decide (9 ≤ hdrDuLog h ∧ hdrDuLog h ≤ 12) else hdrDuLog h == 0) &&
  entField h 7 1 == 0 && (xts || sub == 0x20 || hdrDun h == 0) && (gcm || hdrIv h == 0) &&
  (if gcm then decide (hdrAadLen h ≤ 4096) else hdrAadLen h == 0) && (sub == 0x03 || hdrTag h == 0) &&
  entField h 0x30 16 == 0 && (!xts || len % 2 ^ hdrDuLog h == 0) && (sub != 0x20 || !hdrCrc h)

/-- DETAIL of a transform: block 0x0008 and a reason of Table 11.4. -/
def xfDetail (reason : Nat) : Nat := 0x0008 + reason * 65536

/-! ### Key slots (R316–R321) -/

/-- Does key slot `k` belong to function `f` (check 5 of R175)? An empty slot belongs to none. -/
def State.slotOwned (s : State) (k f : Nat) : Bool :=
  decide (k < 8192) && s.get (XF_SLOT k) XF_SLOT_TYPE != 0 && s.get (XF_SLOT k) XF_SLOT_FUNC == f &&
    s.slotWorld k == s.funcWorld f
/-- XF_STAT (Table 11.11). -/
def xfStat : Act := .read fun s => setFs XF_STAT
  [(XF_STAT_CACHED, s.xf.cache.length), (XF_STAT_QUEUED, s.xf.queue.length)]
/-- Remove the cached copy of a slot. -/
def keyUncache (k : Nat) : Act := .seq (.xf fun x => { x with cache := x.cache.filter fun e => e.1 != k }) xfStat
/-- A slot becomes EMPTY. -/
def keyErase (k : Nat) : Act := .all [setFs (XF_SLOT k) [(XF_SLOT_TYPE, 0), (XF_SLOT_FUNC, 0)], keyUncache k]
/-- Every slot that a function owns becomes EMPTY (R321). -/
def keyEraseFunc (f : Nat) : Act := .read fun s =>
  .each ((List.range 8192).filter fun k => s.get (XF_SLOT k) XF_SLOT_TYPE != 0 && s.get (XF_SLOT k) XF_SLOT_FUNC == f) keyErase
/-- The address of a slot's record (R317). -/
def State.keyRecord (s : State) (k : Nat) : Nat := s.get XF_CFG XF_CFG_KEY_BASE * 2 ^ 20 + 128 * k

/-- A key record (Table 11.5) as a number. -/
def wrapRecord (epoch slot type func gen key : Nat) (world : Bool) : Nat :=
  let head := slot + type * 2 ^ 16 + (if world then 2 ^ 24 else 0) + func * 2 ^ 32 + gen * 2 ^ 48
  let iv := slot + gen * 2 ^ 16 + epoch % 2 ^ 64 * 2 ^ 32
  head + iv * 2 ^ 64 + Config.wrapKey epoch head key % 2 ^ 640 * 2 ^ 256

/-- World of a key slot's card. -/
def keyOwner (slot : Nat) (s : State) : Owner := if slot < 8192 then .is (s.slotWorld slot) else .any

/-- KEY_LOAD (R319, R473). -/
def execKeyLoad (c : CardCtx) (slot type func buf : Nat) (s : State) : Out :=
  commit (gated c 0x0802 false (keyOwner slot) fun s =>
    let gen := (s.get (XF_SLOT slot) XF_SLOT_GEN + 1) % 65536
    let key := s.rdNat buf (if type = 2 then 32 else 64)
    let rec_ := wrapRecord s.xf.epoch slot type func gen key c.world
    if !s.bit SEL_LOCK SEL_LOCK_ASSIGN then answer0 c 0x0802 stBADSTATE (dBlk 0x0003)
    else if s.boot.wrapBad then answer0 c 0x0802 stFAULT (dBlk 0x0003)
    else if 8192 ≤ slot then answer0 c 0x0802 stBADPARAM (dOff 0x10)
    else if 3 ≤ type then answer0 c 0x0802 stBADPARAM (dOff 0x12)
    else if 8192 < func ∨ s.funcWorld func ≠ c.world ∨ s.fstate func = 0 ∨ (type ≠ 0 ∧ s.populated buf 64 ∧ !s.dramOf c.world buf 64) then
      answer0 c 0x0802 stNOTPERM (dBlk 0x0008)
    else if type ≠ 0 ∧ (!s.populated buf 64 || s.rdPoison buf 64) then answer0 c 0x0802 stFAULT (dBlk 0x0008)
    else if type = 0 then .all [
      wrCoh (s.keyRecord slot) (natLe 128 (slot + (if c.world then 2 ^ 24 else 0) + gen * 2 ^ 48)) false,
      keyErase slot, setF (XF_SLOT slot) XF_SLOT_GEN gen, answerOk c 0x0802 ]
    else .all [
      wrCoh buf (natLe 64 0) false,
      wrCoh (s.keyRecord slot) (natLe 128 rec_) false,
      .xf fun x => { x with sealed := (rec_, key) :: x.sealed },
      setFs (XF_SLOT slot) [(XF_SLOT_TYPE, type), (XF_SLOT_FUNC, func), (XF_SLOT_GEN, gen)],
      keyUncache slot, answerOk c 0x0802 ]) s

/-! ### Requests -/

/-- A request is dispatched to the engines: it waits for a lane of its class (R305). -/
def xfDispatch (r : Nat) : Act := .seq (.xf fun x => { x with queue := x.queue ++ [r] }) xfStat

/-- A request leaves its lane, or the queue, and ends. -/
def xfEnd (r status result reason : Nat) : Act := .all [
  .xf fun x => { x with queue := eraseNat x.queue r, lane := Tab.drop x.lane r },
  xfStat,
  bump XF_REQ,
  .when (reason == 1) (bump XF_OUT_FULL),
  .when (reason == 4) (bump XF_TAG_FAIL),
  .when (reason == 5 || reason == 6 || reason == 7) (bump XF_FORMAT_FAIL),
  endReq r status result (xfDetail reason) ]
/-- A forced quiesce stops a request; its destination is undefined (R186, R314). -/
def xfAbort (r : Nat) : Act := .read fun s =>
  match Tab.find s.xf.lane r, Tab.find s.loom.req r with
  | some ln, some q => .all [
      .xf fun x => { x with lane := Tab.drop x.lane r },
      undefDest q.f (entAddr2 q.ent) (hdrOutMax ln.hdr), xfStat ]
  | _, _ => .seq (.xf fun x => { x with queue := eraseNat x.queue r }) xfStat

/-- Put a key at the head of the cache of 512; the least recently used one that no lane holds goes (R318). -/
def XfSt.cacheKey (x : XfSt) (k key : Nat) : XfSt :=
  let l := (k, key) :: x.cache.filter fun e => e.1 != k
  let held := x.lane.filterMap fun p => p.2.key.map (·.1)
  { x with cache := if l.length ≤ 512 then l else
    match l.reverse.find? fun e => !held.contains e.1 && e.1 != k with
    | some e => l.filter fun o => o.1 != e.1
    | none => l.take 512 }

/-- Bind a key (R318, R320): the cached copy, else the record is read and unwrapped. `bad` follows a record that does not
unwrap: the slot is set EMPTY with a UCR record (Table 11.7). -/
def bindKey (k f : Nat) (bad : Act) (ok : Nat → Act) : Act := .read fun s =>
  match s.xf.cache.find? fun e => e.1 == k with
  | some e => .seq (.xf fun x => x.cacheKey k e.2) (ok e.2)
  | none =>
    let a := s.keyRecord k
    let rec_ := s.rdNat a 128
    .seq (bump XF_KEY_MISS) (match (if s.rdPoison a 128 then none else s.xf.sealed.find? fun e => e.1 == rec_) with
      | some e => .all [.xf fun x => x.cacheKey k e.2, xfStat, ok e.2]
      | none => .all [keyErase k,
          rasLog { sev := 2, cls := cCheck, block := 0x0008, tenant := f, world := s.funcWorld f, synd := k }, bad])

/-- XFORM_LANE_START (R305, R312): the oldest waiting request of lane class `lane` takes a free lane; its header is read and
checked in the order of Table 11.4. -/
def execXformLaneStart (lane : Nat) (s : State) : Out :=
  let cand := s.xf.queue.find? fun r => match Tab.find s.loom.req r with
    | some q => xfClass (entSub q.ent) == some lane
    | none => false
  commit (
    match (if (s.xf.lane.filter fun p => p.2.cls == lane).length < xfLanes lane then cand else none) with
    | none => .skip
    | some r => match Tab.find s.loom.req r with
      | none => .skip
      | some q =>
        let e := q.ent
        let sub := entSub e
        let k := entKey e
        let fail := fun (st reason : Nat) => xfEnd r st 0 reason
        if entAddr e % 64 ≠ 0 ∨ entAddr2 e % 64 ≠ 0 then fail lsBadField 3
        else ioWith q.f (entAddr e) 64 false (fail lsXlate 0) fun l => .read fun s =>
          let h : Line := BitVec.ofNat 512 (leNat (s.rdPieces l))
          let need := (xfFixed sub (entLen e)).getD 0 + (if hdrCrc h then 8 else 0)
          let go := fun (key : Option (Nat × Nat)) => Act.all [
            .xf fun x => { x with
              queue := eraseNat x.queue r, lane := Tab.put x.lane r { cls := lane, hdr := h, key := key } },
            xfStat ]
          if s.poisonPieces l then .all [
            rasLog { sev := 1, cls := cPoison, block := 0x0008, tenant := q.f, world := s.funcWorld q.f },
            fail lsPoisoned 0 ]
          else if !hdrOk sub (entLen e) h then fail lsBadField 3
          else if xfKeyType sub = 0 then
            (if k ≠ 0 then fail lsBadField 3
             else if (xfFixed sub (entLen e)).isSome ∧ hdrOutMax h < need then fail lsBadField 1
             else go none)
          else if !s.slotOwned k q.f then fail lsDenied 0
          else if s.get (XF_SLOT k) XF_SLOT_TYPE ≠ xfKeyType sub then fail lsBadField 2
          else if hdrOutMax h < need then fail lsBadField 1
          else bindKey k q.f (fail lsIntegrity 8) fun key => go (some (k, key))) s

/-- Bytes of a list as numbers, and back. -/
def toNats (l : List Byte) : List Nat := l.map (·.toNat)
def ofNats (l : List Nat) : List Byte := l.map (BitVec.ofNat 8)

/-- What a mode makes of AAD and payload: the output, or the reason of its failure. `limit` is the room for the output. -/
def xfCompute (sub : Nat) (h : Line) (key : Nat) (aad d : List Nat) (limit : Nat) : Except Nat (List Nat) :=
  let iv := leBytes 12 (hdrIv h)
  let out := fun (o : List Nat) => if limit < o.length then .error 1 else .ok o
  match sub with
  | 0x00 => .ok (xts false (leBytes 64 key) (hdrDun h) (2 ^ hdrDuLog h) d)
  | 0x01 => .ok (xts true (leBytes 64 key) (hdrDun h) (2 ^ hdrDuLog h) d)
  | 0x02 =>
    let k := aesKeys (leBytes 32 key)
    let x := gcmCtr k iv d
    .ok (x ++ gcmTag k iv aad x)
  | 0x03 =>
    let k := aesKeys (leBytes 32 key)
    if leOf (gcmTag k iv aad d) = hdrTag h then .ok (gcmCtr k iv d) else .error 4
  | 0x10 => .ok (sha256 d)
  | 0x11 => .ok (sha384 d)
  | 0x12 => .ok (sha512 d)
  | 0x20 => .ok (leBytes 8 (crc64 (hdrDun h) d))
  | 0x30 => out ((Config.compress false (hdrLevel h) d).take (d.length + d.length / 1024 + 64))
  | 0x32 => out ((Config.compress true (hdrLevel h) d).take (d.length + d.length / 1024 + 64))
  | 0x31 => match inflate d limit with
    | .full => .error 1
    | .bad => .error 5
    | .ok _ o => .ok o.reverse
  | _ => match Config.zstdData d with
    | some o => out o
    | none => .error (if Config.zstdReason d % 3 = 0 then 5 else if Config.zstdReason d % 3 = 1 then 6 else 7)

/-- The STATUS of a failure while running. -/
def xfStatus (reason : Nat) : Nat := if reason = 1 then lsBadField else lsIntegrity

/-- XFORM_COMPLETE (R308–R314): the request reads its source, writes its output and its CRC, and ends. -/
def execXformComplete (req : Nat) (s : State) : Out :=
  commit (
    match Tab.find s.xf.lane req, Tab.find s.loom.req req with
    | some ln, some q =>
      let e := q.ent
      let sub := entSub e
      let h := ln.hdr
      let aad := hdrAadLen h
      let len := entLen e
      let src := entAddr e
      let dst := entAddr2 e
      let key := (ln.key.map (·.2)).getD 0
      let limit := hdrOutMax h - (if hdrCrc h then 8 else 0)
      let fail := fun (st reason : Nat) => xfEnd req st 0 reason
      let same := xfClass sub == some 0 && dst == src + 64 + aad
      let overlap := !same && decide (dst < src + 64 + aad + len ∧ src < dst + hdrOutMax h)
      ioWith q.f (src + 64) (aad + len) false (fail lsXlate 0) fun l => .read fun s =>
        let bytes := toNats (s.rdPieces l)
        let a := bytes.take aad
        let d := bytes.drop aad
        .seq (addTo XF_BYTES_IN (64 + aad + len)) (
        if s.poisonPieces l then
          let clean := (List.range (aad + len)).takeWhile fun i => !(match (s.ioXl q.f (src + 64 + i) false).pa with
            | some pa => s.rdPoison pa 1
            | none => false)
          let n := (clean.length - aad) / 64 * 64
          let pre := match xfCompute (if sub = 0x03 then 0x02 else sub) h key [] d limit with
            | .ok o => o.take n
            | .error _ => []
          .all [
            (match xfClass sub with
             | some 0 => ioWith q.f dst n true .skip fun w => wrPieces false w (ofNats pre)
             | some 3 | some 4 => undefDest q.f dst (hdrOutMax h)
             | _ => .skip),
            rasLog { sev := 1, cls := cPoison, block := 0x0008, tenant := q.f, world := s.funcWorld q.f },
            fail lsPoisoned 0 ]
        else match xfCompute sub h key a d limit with
        | .error 4 => ioWith q.f dst len true (fail lsXlate 0) fun w =>
            .all [wrPieces false w (List.replicate len 0), addTo XF_BYTES_OUT len, fail lsIntegrity 4]
        | .error why => .all [undefDest q.f dst (hdrOutMax h), fail (xfStatus why) why]
        | .ok o =>
          let crc := if hdrCrc h then leBytes 8 (crc64 0 (if hdrCrcOut h then o else d)) else []
          ioWith q.f dst (o.length + crc.length) true (fail lsXlate 0) fun w => .all [
            wrPieces false w (ofNats (o ++ crc)),
            .when overlap (undefDest q.f dst (o.length + crc.length)),
            addTo XF_BYTES_OUT (o.length + crc.length),
            xfEnd req lsOK o.length 0 ])
    | _, _ => .skip) s

end Sys2Proof.Machine
end

