-- ==== Sys2Proof/Machine/Loom.lean ====
section
/-! DEFINITION. Chapter 06: the Loom engine — functions and their cards, doorbells and queues, fetch, execution, completion,
resident contexts. -/

namespace Sys2Proof.Machine

/-! ### Functions -/

/-- NQ of a function. -/
def State.fnNq (s : State) (f : Nat) : Nat := s.get (LOOM_FSTAT f) LOOM_FSTAT_NQ
/-- Is the function's context on chip? -/
def State.resident (s : State) (f : Nat) : Bool := s.bit (LOOM_FSTAT f) LOOM_FSTAT_RESIDENT
/-- Requests in flight of a function, oldest first. -/
def State.fnReqs (s : State) (f : Nat) : Tab LoomReq := s.loom.req.filter fun p => p.2.f == f
/-- Requests in flight of a queue. -/
def State.qReqs (s : State) (f q : Nat) : Tab LoomReq := s.loom.req.filter fun p => p.2.f == f && p.2.q == q
/-- Queue `q` of a function, beside its registers. -/
def State.lq (s : State) (f q : Nat) : LoomQ := Tab.getD (s.fn f).q q {}
/-- Change queue `q` of a function. -/
def modLq (f q : Nat) (g : LoomQ → LoomQ) : Act := modFn f fun t => { t with q := Tab.upd t.q q {} g }
/-- A field of LOOM_QCTLq. -/
def State.qctl (s : State) (f q : Nat) (x : Fld) : Nat := s.get (LOOM_QCTL f q) x
/-- The submission tail and the completion head that software last wrote. -/
def State.sqTail (s : State) (f q : Nat) : Nat := s.get (LOOM_SQ_TAIL f q) LOOM_SQ_TAIL_INDEX
def State.cqHead (s : State) (f q : Nat) : Nat := s.get (LOOM_CQ_HEAD f q) LOOM_CQ_HEAD_INDEX
/-- Is the queue running with entries that are not fetched? -/
def State.unfetched (s : State) (f q : Nat) : Bool :=
  s.qctl f q LOOM_QCTL_QSTATE == 1 && s.sqTail f q != s.qctl f q LOOM_QCTL_SQ_HEAD
/-- Has the function entries that are not fetched? -/
def State.hasWork (s : State) (f : Nat) : Bool := (List.range (s.fnNq f)).any fun q => s.unfetched f q

/-- LOOM_STAT, and PARKED and INFLIGHT of a function (Tables 6.7, 6.21). -/
def loomStat (f : Nat) : Act := .read fun s => .all [
  setFs LOOM_STAT [
    (LOOM_STAT_QP_FREE, 65536 - (s.loom.fn.map fun p => s.fnNq p.1).sum),
    (LOOM_STAT_VEC_FREE, 32768 - (s.loom.fn.map fun p => p.2.vecs.length).sum),
    (LOOM_STAT_RESIDENT, (s.loom.fn.filter fun p => p.1 != 0 && s.resident p.1).length),
    (LOOM_STAT_PARKED, s.loom.hold.length)],
  setFs (LOOM_FSTAT f) [(LOOM_FSTAT_PARKED, if s.loom.hold.contains f then 1 else 0),
    (LOOM_FSTAT_INFLIGHT, (s.fnReqs f).length)] ]
/-- A function takes a state (Table 6.1). One that leaves ACTIVE leaves the holding list (R183). -/
def setFstate (f st : Nat) : Act := .all [
  setF (LOOM_FSTAT f) LOOM_FSTAT_STATE st,
  .when (st != 1) (.loom fun l => { l with hold := eraseNat l.hold f }),
  loomStat f ]
/-- Something happened in a function that ends its idleness, or begins it anew (R181). -/
def fnTouched (f : Nat) : Act := .read fun s => modFn f fun t => { t with idleAt := s.clk.time }
/-- Put a function that is not resident into the holding list (R181 step 1). -/
def park (f : Nat) : Act := .read fun s =>
  if f = 0 ∨ s.resident f ∨ s.fstate f ≠ 1 ∨ s.loom.hold.contains f then .skip
  else .all [.loom fun l => { l with hold := l.hold ++ [f] }, bump LOOM_PARK, loomStat f]

/-- Raise the vector of a queue: nothing stays unsignalled (R180). -/
def signalQ (f q : Nat) : Act := .read fun s => .all [
  modLq f q fun x => { x with unsig := 0 },
  match (s.fn f).vecs[s.qctl f q LOOM_QCTL_VEC]? with
  | some v => vectorRaise v
  | none => .skip ]
/-- A queue goes to the error state (Table 6.10, R172). A ring fault signals the vector while the completion ring works
(Table 6.18). -/
def queueError (f q err : Nat) : Act := .read fun s =>
  if s.qctl f q LOOM_QCTL_QSTATE = 2 then .skip
  else .all [
    setFs (LOOM_QCTL f q) [(LOOM_QCTL_QSTATE, 2), (LOOM_QCTL_ERR, err)],
    bump LOOM_QERR,
    .when (err == 3 || err == 4) (signalQ f q) ]

/-! ### Completion (R178–R180) -/

/-- The bytes of a completion entry (Table 6.13). -/
def cqeBytes (cid head status phase result detail : Nat) : List Byte :=
  natLe 2 cid ++ natLe 2 head ++ natLe 2 status ++ natLe 2 phase ++ natLe 4 result ++ natLe 4 detail

/-- Write the completion entry of a request that has ended, and signal as R180 says. -/
def writeCqe (q : LoomReq) (st result detail : Nat) : Act := .read fun s =>
  let f := q.f
  let k := q.q
  let x := s.lq f k
  let a := (s.reg (LOOM_QCQB f k)).toNat + 16 * x.ctail
  let cnt := s.qctl f k LOOM_QCTL_COAL_CNT
  let now := entNotify q.ent || st != lsOK || decide (cnt ≤ 1) || decide (cnt ≤ x.unsig + 1) ||
    s.qctl f k LOOM_QCTL_COAL_US == 0
  let next := (x.ctail + 1) % 2 ^ s.qctl f k LOOM_QCTL_CQ_LOG
  if s.qctl f k LOOM_QCTL_QSTATE = 2 ∧ s.qctl f k LOOM_QCTL_ERR = 5 then .skip
  else ioWith f a 16 true (queueError f k 5) fun l => .all [
    wrPieces false l (cqeBytes (entCid q.ent) (s.qctl f k LOOM_QCTL_SQ_HEAD) st x.phase result detail),
    bump LOOM_CQE,
    modLq f k fun y => { y with
      ctail := next, phase := if next = 0 then 1 - y.phase else y.phase, unsig := y.unsig + 1
      unsigAt := if y.unsig = 0 then s.clk.time else y.unsigAt },
    .when now (signalQ f k) ]

/-! ### Checks and execution (R173–R175) -/

/-- Check 1 of R175: `none`, or the status of its failure. -/
def entryCheck (e : Line) : Option Nat :=
  let t := entType e
  let sub := entSub e
  let media := t == 1 || t == 2
  let flush := media && sub == 3
  let known := match t with
    | 1 => decide (sub ≤ 3)
    | 2 => decide (sub ≤ 2)
    | 3 => decide (sub ≤ 2)
    | 4 => (xfClass sub).isSome
    | 5 => decide (sub ≤ 1)
    | _ => false
  let win := entToWin e
  let z := fun (used : Bool) (v : Nat) => used || v == 0
  if !known then some lsBadType
  else if
    decide (entFlags e < 16) && (!win || (media && sub == 0)) &&
    z media (entExt e) && decide (entExt e < 16) && z (t == 4) (entKey e) &&
    z (media && !flush) (entLba e) && z (media && !flush) (entNlb e) &&
    (!(media && !flush) || decide (1 ≤ entNlb e ∧ entNlb e ≤ 65536)) &&
    z (t == 4 || t == 5) (entLen e) && (!(t == 4 || t == 5) || decide (1 ≤ entLen e ∧ entLen e ≤ 2 ^ 24)) &&
    z ((media && !flush && !win) || t == 4 || (t == 5 && sub == 0)) (entAddr e) &&
    z ((t == 3 && sub == 0) || t == 4 || t == 5) (entAddr2 e) &&
    z ((media && win) || t == 3) (entWin e) &&
    (!(media && win) || entWin e &&& 0xC000F000 == 0) && (t != 3 || decide (entWin e < 4096)) &&
    entField e 0x2C 4 == 0 && z (t == 2) (entGroup e) && z (t == 2) (entGsize e) &&
    (t != 2 || entGroup e == 0xFFFF || decide (1 ≤ entGsize e ∧ entGsize e ≤ 32)) &&
    entField e 0x33 5 == 0 && z (t == 2) (entLatest e)
  then none else some lsBadField

/-- Checks 2 to 5 of R175. -/
def State.objectCheck (s : State) (f : Nat) (e : Line) : Option Nat :=
  let t := entType e
  if t = 1 ∨ t = 2 then
    let x := (s.fn f).extent (entExt e)
    let w := entWin e
    if !x.valid ∨ x.count < entLba e + entNlb e ∨ (entSub e = 1 ∧ !x.write) then some lsExtent
    else if entToWin e then
      (if s.wstate (w % 4096) ≠ 2 ∨ (f ≠ 0 ∧ s.get (BTN_WIN_STATE (w % 4096)) BTN_WIN_STATE_FUNC ≠ f) then some lsDenied
       else if 0x8000 < w / 2 ^ 21 * 64 + entNlb e * 2 ^ s.get (DQ_CTRL_A x.drive) DQ_CTRL_A_LBA_SHIFT then some lsBadField
       else none)
    else none
  else if t = 4 ∧ xfKeyType (entSub e) ≠ 0 ∧ !s.slotOwned (entKey e) f then some lsDenied
  else none

/-- The NVMe opcode of a subtype (Table 7.5). -/
def nvmeOp (sub : Nat) : Nat := match sub with | 0 => 0x02 | 1 => 0x01 | 2 => 0x0C | _ => 0x00
/-- Start a MEDIA or TIMED request (R206). -/
def startMedia (r : Nat) (q : LoomReq) : Act := .read fun s =>
  let e := q.ent
  let x := (s.fn q.f).extent (entExt e)
  let w := entWin e
  let slot : Slot := {
    req := some r, f := q.f, ctrl := x.drive, op := nvmeOp (entSub e), nsid := x.nsid, slba := x.base + entLba e
    nlb := entNlb e, len := if entSub e ≤ 1 then entNlb e * 2 ^ s.get (DQ_CTRL_A x.drive) DQ_CTRL_A_LBA_SHIFT else 0
    addr := if entToWin e then winBase + w % 4096 * 0x100000 + w / 2 ^ 16 % 32 * 0x8000 + w / 2 ^ 21 * 64 else entAddr e
    win := entToWin e, timed := entType e == 2 }
  if !s.ctrlUp x.drive ∨ (s.pairsOf x.drive).isEmpty then endReq r lsDriveDown 0 (portId (s.ctrlPort x.drive))
  else takeSlot slot fun k => .all [
    .loom fun l => match Tab.find l.req r with
      | some y => { l with req := Tab.put l.req r { y with slot := some k } }
      | none => l,
    if entType e = 2 then pickEnter k q.f (entGroup e) (entGsize e) (entLatest e) else placeSlot k ]
/-- Start a BATTEN request (R175): the window is opened in the function's world, from the descriptor at ADDR2. -/
def startBatten (r : Nat) (q : LoomReq) : Act := .read fun s =>
  let w := entWin q.ent
  let world := s.funcWorld q.f
  let end_ := fun (st : Nat) => endReq r (if st = stOK ∨ st = stACCEPTED then lsOK else lsBatten) st 0x0005
  if entSub q.ent = 0 then
    ioWith q.f (entAddr2 q.ent) 64 false (endReq r lsXlate 0 0x0005) fun l => .read fun s =>
      let d := match l with | p :: _ => p.1 | [] => 0
      let st := s.openStatus w d world
      if q.f ≠ 0 ∧ !s.rdPoison d 64 ∧ s.rdNat (d + 4) 2 ≠ q.f then endReq r lsDenied 0 0x0005
      else if d % 64 ≠ 0 then end_ stBADPARAM
      else if st ≠ stOK then end_ st
      else winOpen w d world none (some r)
  else
    let st := s.closeStatus w world
    .seq (.when (st == stACCEPTED) (winClose w (entSub q.ent == 2))) (end_ st)

/-- Move data in pieces that lie in one line at both ends (R173, R175 check 6): from `src` (none: zeros) to `dst`, `n` bytes
left of `len`. A poisoned source line is copied as poison and ends the request POISONED (R555). -/
def moveData (r f : Nat) (copy : Bool) (len : Nat) : Nat → Nat → Nat → Nat → Bool → Act
  | 0, _, _, _, _ => .skip
  | fuel + 1, src, dst, n, bad =>
    if n = 0 then endReq r (if bad then lsPoisoned else lsOK) len 0x0005
    else
      let k := min n (min (64 - dst % 64) (if copy then 64 - src % 64 else 64))
      let fail := endReq r lsXlate (len - n) 0x0005
      let put := fun (b : List Byte) (p : Bool) => ioWith f dst k true fail fun w =>
        .seq (wrPieces p w b) (moveData r f copy len fuel (src + k) (dst + k) (n - k) (bad || p))
      if copy then ioWith f src k false fail fun l => .read fun s => put (s.rdPieces l) (s.poisonPieces l)
      else put (List.replicate k 0) false
/-- A MOVE request does its work. -/
def runMove (r : Nat) (q : LoomReq) : Act :=
  let e := q.ent
  moveData r q.f (entSub e == 0) (entLen e) (entLen e + 1) (entAddr e) (entAddr2 e) (entLen e) false

/-- Start a request: the checks of R175, then its type. -/
def startReq (r : Nat) : Act := .read fun s =>
  match Tab.find s.loom.req r with
  | none => .skip
  | some q => .all [
      .loom fun l => { l with req := Tab.put l.req r { q with started := true } },
      match entryCheck q.ent with
      | some st => endReq r st 0 0x0005
      | none => match s.objectCheck q.f q.ent with
        | some st => endReq r st 0 0x0005
        | none => match entType q.ent with
          | 1 | 2 => startMedia r q
          | 3 => startBatten r q
          | 4 => xfDispatch r
          | _ => .skip ]
/-- Start what may start of a queue: entries start in ring order, one with FENCE only after every earlier one has completed
(R178). -/
def startQueue (f q : Nat) : Act := .read fun s =>
  .each ((s.qReqs f q).filter fun p => !p.2.started) fun p => .read fun s =>
    let earlier := (s.qReqs f q).filter fun o => decide (o.1 < p.1)
    if (earlier.all fun o => o.2.started) && (!entFence p.2.ent || earlier.isEmpty) then startReq p.1 else .skip

/-- A request that has ended writes its completion and leaves (R179). -/
def completeReq (r : Nat) : Act := .read fun s =>
  match Tab.find s.loom.req r with
  | none => .skip
  | some q => match q.done with
    | none => .skip
    | some d => .all [
        .when (!(d.1 == lsOK && entQuiet q.ent)) (writeCqe q d.1 d.2.1 d.2.2),
        .loom fun l => { l with req := Tab.drop l.req r },
        loomStat q.f, fnTouched q.f,
        startQueue q.f q.q ]
/-- LOOM_COMPLETION (R178, R179): the data of a request is visible; its completion entry is written. -/
def execLoomCompletion (req : Nat) (s : State) : Out :=
  commit (match Tab.find s.loom.req req with
    | none => .skip
    | some q => .seq (.when (q.started && q.done.isNone && entType q.ent == 5) (runMove req q)) (completeReq req)) s

/-- COALESCE_TIMER_EXPIRY (R180). -/
def execCoalesceTimerExpiry (func queue : Nat) (s : State) : Out :=
  let x := s.lq func queue
  commit (if x.unsig = 0 then .skip else .all [
    advanceTo (x.unsigAt + s.qctl func queue LOOM_QCTL_COAL_US * 1000), signalQ func queue, fnTouched func ]) s

/-! ### Fetch (R176, R177) -/

/-- May the engine fetch from queue `q` of function `f` now? -/
def State.fetchable (s : State) (f q : Nat) : Bool :=
  let d := 2 ^ s.qctl f q LOOM_QCTL_CQ_LOG
  s.unfetched f q && decide ((s.fnReqs f).length < (s.fn f).maxIn) &&
    decide ((s.qReqs f q).length + ((s.lq f q).ctail + d - s.cqHead f q) % d < d - 1)
/-- May the engine fetch from function `f`? -/
def State.fnFetchable (s : State) (f : Nat) : Bool :=
  s.fstate f == 1 && s.resident f && !((s.fn f).stopped && !s.loom.hold.isEmpty) &&
    (List.range (s.fnNq f)).any fun q => s.fetchable f q
/-- Fetch the next entry of a queue. A MEDIA or TIMED entry waits while every command slot is taken. -/
def fetchEntry (f q : Nat) : Act := .read fun s =>
  let head := s.qctl f q LOOM_QCTL_SQ_HEAD
  let a := (s.reg (LOOM_QSQB f q)).toNat + 64 * head
  ioWith f a 64 false (queueError f q 3) fun l => .read fun s =>
    let e : Line := BitVec.ofNat 512 (leNat (s.rdPieces l))
    if s.poisonPieces l then queueError f q 4
    else if (entType e = 1 ∨ entType e = 2) ∧ 65536 ≤ s.drv.slot.length then .skip
    else .all [
      setF (LOOM_QCTL f q) LOOM_QCTL_SQ_HEAD ((head + 1) % 2 ^ s.qctl f q LOOM_QCTL_SQ_LOG),
      bump LOOM_FETCH_CNT,
      .loom fun l => { l with req := Tab.put l.req l.nextReq { f := f, q := q, ent := e }, nextReq := l.nextReq + 1 },
      loomStat f, fnTouched f,
      startQueue f q ]
/-- One entry of a function's turn: the next queue in round robin that has one. -/
def fetchOne (f : Nat) : Act := .read fun s =>
  let nq := s.fnNq f
  if !s.fnFetchable f then .skip
  else match ((List.range nq).map fun i => ((s.fn f).rr + i) % nq).find? fun q => s.fetchable f q with
  | none => .skip
  | some q => .seq (modFn f fun t => { t with rr := q + 1 }) (fetchEntry f q)
/-- The function whose turn it is (R176): function 0 on every fourth turn when it has work, else the tenants in round
robin. -/
def State.nextFn (s : State) : Option Nat :=
  let ten := (s.loom.fn.map (·.1)).filter fun f => f != 0 && s.fnFetchable f
  let next := match ten.find? fun f => decide (s.loom.lastFn < f) with
    | some f => some f
    | none => ten.head?
  if s.fnFetchable 0 ∧ (s.loom.turn % 4 = 3 ∨ next.isNone) then some 0 else next
/-- LOOM_FETCH (R176): one turn of up to BURST entries. -/
def execLoomFetch (s : State) : Out :=
  commit (match s.nextFn with
    | none => .skip
    | some f => .all [
        .loom fun l => { l with turn := l.turn + 1, lastFn := if f = 0 then l.lastFn else f },
        .each (List.range (s.get LOOM_CFG LOOM_CFG_BURST)) fun _ => fetchOne f ]) s

/-! ### Doorbells and queue registers (R169–R172) -/

/-- A doorbell write reaches the engine: whether it is recorded (R170). -/
def doorbellGate (f q : Nat) (body : Act) : Act := .read fun s =>
  if 8192 < f ∨ s.fstate f = 0 then bump LOOM_DB_DROP
  else if s.fstate f = 4 then bump LOOM_FROZEN_DB
  else if s.fnNq f ≤ q then .skip
  else .all [bump LOOM_DB, body, fnTouched f, park f]
/-- A write of LOOM_SQ_TAILq. -/
def sqTailWrite (f q : Nat) (value : W64) : Act := doorbellGate f q (.read fun s =>
  let i := LOOM_SQ_TAIL_INDEX.get value
  if s.qctl f q LOOM_QCTL_QSTATE = 1 ∧ 2 ^ s.qctl f q LOOM_QCTL_SQ_LOG ≤ i then queueError f q 1
  else setF (LOOM_SQ_TAIL f q) LOOM_SQ_TAIL_INDEX i)
/-- A write of LOOM_CQ_HEADq. -/
def cqHeadWrite (f q : Nat) (value : W64) : Act := doorbellGate f q (.read fun s =>
  let i := LOOM_CQ_HEAD_INDEX.get value
  let d := 2 ^ s.qctl f q LOOM_QCTL_CQ_LOG
  let old := s.cqHead f q
  if s.qctl f q LOOM_QCTL_QSTATE = 1 ∧ (d ≤ i ∨ ((s.lq f q).ctail + d - old) % d < (i + d - old) % d) then
    queueError f q 2
  else setF (LOOM_CQ_HEAD f q) LOOM_CQ_HEAD_INDEX i)
/-- LOOM_SQ_TAIL_WRITE (R170). -/
def execLoomSqTailWrite (func queue : Nat) (value : W64) (s : State) : Out := commit (sqTailWrite func queue value) s
/-- LOOM_CQ_HEAD_WRITE (R170). -/
def execLoomCqHeadWrite (func queue : Nat) (value : W64) (s : State) : Out := commit (cqHeadWrite func queue value) s

/-- A write of LOOM_QCTLq (Table 6.9, R171); a FROZEN function's queue state does not change (R187). -/
def qctlWrite (f q : Nat) (held v : W64) : Act := .read fun s =>
  let a := LOOM_QCTL f q
  let old := s.reg a
  let en := LOOM_QCTL_EN.get old != 0
  let new := (regFields a).foldl (fun w d =>
    if en && d.fld != LOOM_QCTL_EN then w else fieldWrite held false true w v d) old
  let sl := LOOM_QCTL_SQ_LOG.get new
  let cl := LOOM_QCTL_CQ_LOG.get new
  if 8192 < f ∨ s.fstate f = 0 ∨ s.fstate f = 4 ∨ s.fnNq f ≤ q then .skip
  else if !en ∧ LOOM_QCTL_EN.get new ≠ 0 then
    if 4 ≤ sl ∧ sl ≤ 12 ∧ 4 ≤ cl ∧ cl ≤ 12 ∧ LOOM_QCTL_VEC.get new < s.get (LOOM_FSTAT f) LOOM_FSTAT_NV then .all [
      .reg a new,
      setFs a [(LOOM_QCTL_SQ_HEAD, 0), (LOOM_QCTL_ERR, 0), (LOOM_QCTL_QSTATE, 1)],
      .reg (LOOM_SQ_TAIL f q) 0, .reg (LOOM_CQ_HEAD f q) 0,
      modLq f q fun x => { x with ctail := 0, phase := 1 } ]
    else .all [.reg a new, setFs a [(LOOM_QCTL_EN, 0), (LOOM_QCTL_QSTATE, 0), (LOOM_QCTL_ERR, 6)]]
  else .all [.reg a new, .when (en && LOOM_QCTL_EN.get new == 0) (setF a LOOM_QCTL_QSTATE 0)]
/-- A write of LOOM_QSQBq or LOOM_QCQBq: ignored while EN = 1 (Table 6.8) and in FROZEN (R187). -/
def qbaseWrite (f q : Nat) (cq : Bool) (held v : W64) : Act := .read fun s =>
  let a := if cq then LOOM_QCQB f q else LOOM_QSQB f q
  if 8192 < f ∨ s.fstate f = 0 ∨ s.fstate f = 4 ∨ s.fnNq f ≤ q ∨ s.bit (LOOM_QCTL f q) LOOM_QCTL_EN then .skip
  else .reg a ((regFields a).foldl (fieldWrite held false true · v ·) (s.reg a))
/-- LOOM_QUEUE_ENABLE (R171): `value` with EN = 1. -/
def execLoomQueueEnable (func queue : Nat) (value : W64) (s : State) : Out :=
  commit (qctlWrite func queue allBits (LOOM_QCTL_EN.put value 1)) s
/-- LOOM_QUEUE_DISABLE (R169): `value` with EN = 0. -/
def execLoomQueueDisable (func queue : Nat) (value : W64) (s : State) : Out :=
  commit (qctlWrite func queue allBits (LOOM_QCTL_EN.put value 0)) s

/-! ### Resident contexts (R181–R184) -/

/-- Is the function's resident context idle (R181, R182)? -/
def State.fnIdle (s : State) (f : Nat) : Bool :=
  (s.fnReqs f).isEmpty && ((s.fn f).q.all fun p => p.2.unsig == 0) &&
    (((s.fn f).stopped && !s.loom.hold.isEmpty) || !s.hasWork f)
/-- The idle resident tenant that has been idle longest. -/
def State.idleVictim (s : State) : Option Nat :=
  ((s.loom.fn.map (·.1)).filter fun f => f != 0 && s.resident f && s.fnIdle f).foldl
    (fun b f => match b with
      | none => some f
      | some g => if (s.fn f).idleAt < (s.fn g).idleAt then some f else some g) none
/-- A context read or write at a swap fails (Table 6.18). -/
def contextFail (f : Nat) : Act := .read fun s => .all [
  setFstate f 2,
  rasLog { sev := 2, cls := cPoison, block := 0x0005, addr := some (s.fn f).ctx, tenant := f, world := s.funcWorld f,
           synd := f } ]
/-- Load the context of a waiting function. -/
def loadContext (g : Nat) : Act := .read fun s =>
  if !s.populated (s.fn g).ctx 512 || s.rdPoison (s.fn g).ctx 512 then contextFail g
  else .all [
    setF (LOOM_FSTAT g) LOOM_FSTAT_RESIDENT 1,
    modFn g fun t => { t with since := s.clk.time, idleAt := s.clk.time, stopped := false },
    .loom fun l => { l with hold := eraseNat l.hold g },
    bump LOOM_CTX_LOAD, loomStat g ]
/-- Write a context back: 512 bytes whose layout is the engine's own (R168). -/
def evictContext (v : Nat) : Act := withFree fun k => .read fun s => .all [
  wrCoh (s.fn v).ctx ((List.range 512).map (Config.openByte k)) false,
  setF (LOOM_FSTAT v) LOOM_FSTAT_RESIDENT 0,
  modFn v fun t => { t with stopped := false },
  bump LOOM_CTX_EVICT, loomStat v ]
/-- CONTEXT_SWAP (R181–R183): the function that has waited longest is loaded, in place of the resident context that has been
idle longest when all 1,024 are taken. -/
def execContextSwap (s : State) : Out :=
  commit (match s.loom.hold.head? with
    | none => .skip
    | some g =>
      if s.get LOOM_STAT LOOM_STAT_RESIDENT < 1024 then loadContext g
      else match s.idleVictim with
        | none => .skip
        | some v =>
          if !s.populated (s.fn v).ctx 512 then contextFail v
          else .all [evictContext v, .when (s.hasWork v) (park v), loadContext g]) s

/-- RESIDENCY_QUANTUM_EXPIRY (R182). -/
def execResidencyQuantumExpiry (func : Nat) (s : State) : Out :=
  commit (if func = 0 ∨ !s.resident func ∨ s.loom.hold.isEmpty ∨ (s.fn func).stopped then .skip else .all [
    advanceTo ((s.fn func).since + s.get LOOM_CFG LOOM_CFG_QUANTUM * 100000),
    modFn func fun t => { t with stopped := true } ]) s

/-! ### Function cards (R164–R166, R185–R190) -/

/-- BAD_PARAM of a function card: the offset, and block 0x0005 (Tables 6.3, 17.4). -/
def dOffLoom (o : Nat) : Nat := o * 65536 + 0x0005
/-- World of a function card's owner. -/
def funcOwner (f : Nat) (s : State) : Owner := if f ≤ 8192 then .is (s.funcWorld f) else .any
/-- Is a landing window of the function not IDLE (R187)? -/
def State.windowOpen (s : State) (f : Nat) : Bool :=
  s.btn.win.any fun p => s.get (BTN_WIN_STATE p.1) BTN_WIN_STATE_FUNC == f
/-- A function card behind its gates: the owner, R165, and the state's row of Table 6.2 (`none`: it acts). -/
def funcCard (c : CardCtx) (op f : Nat) (row : Nat → Option Nat) (body : State → Act) : Act :=
  gated c op false (funcOwner f) fun s =>
    if 8192 < f then answer0 c op stBADPARAM (dOffLoom 0x08)
    else if s.opOpen [0x0402, 0x0404, 0x0405] f then answerBusy c op 100
    else match row (s.fstate f) with
    | none => body s
    | some st => if st = stREFUSED then answerRefused c op 0x0005 0xFFFF
        else if st = stOK then answerOk c op else answer0 c op st (dBlk 0x0005)

/-- A vector target of Table 17.10 as the word of a message vector, where R421 permits it. -/
def vectorWord (world : Bool) (f t : Nat) : Option W64 :=
  let hart := t % 256
  let level := t / 256 % 4
  let guest := t / 1024 % 8
  let prio := t / 2 ^ 16 % 256
  if hart ≤ 191 ∧ level ≤ 2 ∧ (level = 2 ↔ guest ≠ 0) ∧ 1 ≤ prio ∧ prio ≤ 31 ∧ (world = true → level = 0) ∧
      t / 2 ^ 13 % 8 = 0 ∧ t / 2 ^ 24 = 0 then
    some (HRN_VEC_VALID.put (HRN_VEC_WORLD.put (HRN_VEC_HART.put (HRN_VEC_LEVEL.put (HRN_VEC_GUEST.put (HRN_VEC_PRIO.put
      (HRN_VEC_FUNC.put 0 f) prio) guest) level) hart) (if world then 1 else 0)) 1)
  else none
/-- The first target that fails, by its index. -/
def badTarget (world : Bool) (ts : List Nat) : Option Nat :=
  (List.range ts.length).find? fun i => (vectorWord world 0 ((ts[i]?).getD 0)).isNone

/-- The address and range checks of Table 6.3: the status and detail of the first failure. `off` is where the targets
stand. -/
def State.createFail (s : State) (f nq nv maxIn ctx ptRoot ext off : Nat) (ts : List Nat) : Option (Nat × Nat) :=
  let w := s.funcWorld f
  if nq = 0 ∨ 256 < nq then some (stBADPARAM, dOffLoom 0x10)
  else if nv = 0 ∨ 256 < nv ∨ ts.length ≠ nv then some (stBADPARAM, dOffLoom 0x12)
  else if 4096 < maxIn then some (stBADPARAM, dOffLoom 0x14)
  else if ctx % 512 ≠ 0 then some (stBADPARAM, dOffLoom 0x18)
  else if f ≠ 0 ∧ ptRoot % 4096 ≠ 0 then some (stBADPARAM, dOffLoom 0x20)
  else if ext % 64 ≠ 0 then some (stBADPARAM, dOffLoom 0x28)
  else match badTarget w ts with
  | some i => some (stBADPARAM, dOffLoom (off + 4 * i))
  | none =>
    if !s.dramOf w ctx 512 ∨ (f ≠ 0 ∧ !s.dramOf w ptRoot 4096) ∨ !s.dramOf w ext 256 then some (stNOTPERM, dBlk 0x0003)
    else none
/-- The pools lack queue pairs or vectors, or the extent table cannot be read. -/
def State.poolFail (s : State) (nq nv ext : Nat) : Option (Nat × Nat) :=
  if s.get LOOM_STAT LOOM_STAT_QP_FREE < nq ∨ s.get LOOM_STAT LOOM_STAT_VEC_FREE < nv then some (stNORES, dBlk 0x0005)
  else if s.rdPoison ext 256 then some (stFAULT, dBlk 0x0005)
  else none

/-- Take vectors and set a function up (R166 steps 2 to 5). -/
def allocFn (f nq nv maxIn ctx ptRoot ext : Nat) (ts : List Nat) : Act := withFree fun u => .read fun s =>
  let used := s.loom.fn.flatMap fun p => p.2.vecs
  let vecs := (pickFree (fun i => !used.contains (1024 + i)) 32768 (Config.freeEntry u) 32768 nv).map (1024 + ·)
  let w := s.funcWorld f
  .all [
    .each (vecs.zip ts) fun p => match vectorWord w f p.2 with
      | some v => .reg (HRN_VEC p.1) v
      | none => .skip,
    wrCoh ctx (List.replicate 512 0) false,
    .each (List.range nq) fun q => .all [
      resetReg (LOOM_SQ_TAIL f q), resetReg (LOOM_CQ_HEAD f q), resetReg (LOOM_QSQB f q), resetReg (LOOM_QCQB f q),
      resetReg (LOOM_QCTL f q) ],
    .loom fun l => { l with fn := Tab.put l.fn f {
      maxIn := if maxIn = 0 then 256 else maxIn, ctx := ctx, ptRoot := ptRoot, vecs := vecs
      ext := (List.range 32).map fun i => s.rdNat (ext + 8 * i) 8, since := s.clk.time, idleAt := s.clk.time } },
    setFs (LOOM_FSTAT f) [(LOOM_FSTAT_NQ, nq), (LOOM_FSTAT_NV, nv), (LOOM_FSTAT_RESIDENT, if f = 0 then 1 else 0)],
    iotlbDropFunc f ]

/-- FUNC_CREATE (R166, Table 6.3). -/
def execFuncCreate (c : CardCtx) (func nq nv maxIn ctx ptRoot ext : Nat) (targets : List Nat) (s : State) : Out :=
  commit (funcCard c 0x0401 func (fun st => if st = 0 then none else some stBADSTATE) fun s =>
    match s.createFail func nq nv maxIn ctx ptRoot ext 0x30 targets with
    | some e => answer0 c 0x0401 e.1 e.2
    | none => match s.poolFail nq nv ext with
      | some e => answer0 c 0x0401 e.1 e.2
      | none => .all [allocFn func nq nv maxIn ctx ptRoot ext targets, setFstate func 1, answerOk c 0x0401]) s

/-- A forced quiesce ends a request at once (R186). -/
def abortReq (r : Nat) : Act := .read fun s =>
  match Tab.find s.loom.req r with
  | none => .skip
  | some q => .all [
      (if q.done.isSome then .skip else .all [
        (match q.slot with
         | some k => .read fun s => (match s.slot k with
            | none => .skip
            | some x => .seq (modSlot k fun x => { x with ended := true })
                (if x.rung.isNone then freeSlot k else .all [
                  revoke k, .when (x.op == 0x02 && !x.win) (undefDest x.f x.addr x.len) ]))
         | none => .skip),
        .when (entType q.ent == 4) (xfAbort r),
        .when (q.started && entType q.ent == 5) (undefDest q.f (entAddr2 q.ent) (entLen q.ent)),
        endReq r lsAborted 0 0x0005 ]),
      .loom fun l => match Tab.find l.req r with
        | some q => { l with req := Tab.put l.req r { q with started := true } }
        | none => l,
      completeReq r ]

/-- FUNC_QUIESCE (R185, R186). -/
def execFuncQuiesce (c : CardCtx) (func timeoutMs : Nat) (force : Bool) (s : State) : Out :=
  let row := fun (st : Nat) => match st with
    | 1 | 2 => none
    | 3 | 4 => some stOK
    | _ => some stBADSTATE
  commit (funcCard c 0x0402 func row fun s =>
    if 10000 < timeoutMs then answer0 c 0x0402 stBADPARAM (dOffLoom 0x10)
    else accept c 0x0402 func (.all [
      setFstate func 2,
      modFn func fun t => { t with quiesceEnd := s.clk.time + (if timeoutMs = 0 then 100 else timeoutMs) * 1000000 },
      .when force (.all [
        .loom fun l => { l with req := l.req.map fun p => if p.2.f == func then (p.1, { p.2 with started := true }) else p },
        .each ((s.fnReqs func).map (·.1)) abortReq,
        setFstate func 3, finish 0x0402 func stOK 0xFFFF [] ]) ])) s
/-- FUNC_QUIESCE_DONE (R185). -/
def execFuncQuiesceDone (func : Nat) (s : State) : Out :=
  commit (if s.fstate func ≠ 2 ∨ !(s.fnReqs func).isEmpty then .skip
    else .all [setFstate func 3, finish 0x0402 func stOK 0xFFFF []]) s
/-- FUNC_QUIESCE_TIMEOUT (R185). -/
def execFuncQuiesceTimeout (func : Nat) (s : State) : Out :=
  commit (if s.fstate func ≠ 2 ∨ (s.fnReqs func).isEmpty ∨ (s.findOp 0x0402 func).isNone then .skip
    else .all [advanceTo (s.fn func).quiesceEnd, finish 0x0402 func stTIMEOUT (dBlk 0x0005) []]) s

/-- FUNC_FREEZE (R187). -/
def execFuncFreeze (c : CardCtx) (func : Nat) (s : State) : Out :=
  let row := fun (st : Nat) => match st with
    | 1 | 2 => some stREFUSED
    | 3 => none
    | 4 => some stOK
    | _ => some stBADSTATE
  commit (funcCard c 0x0403 func row fun s =>
    if s.windowOpen func then answerRefused c 0x0403 0x0005 0xFFFF
    else .all [setFstate func 4, answerOk c 0x0403]) s

/-- The header of a save blob, 0x000 to 0xFF7 (Table 6.16). -/
def State.blobHead (s : State) (f : Nat) : List Byte :=
  let t := s.fn f
  natLe 4 0x4C4D4231 ++ natLe 2 1 ++ natLe 2 (s.fnNq f) ++ natLe 2 t.vecs.length ++ natLe 2 f ++
    natLe 1 (if s.funcWorld f then 1 else 0) ++ natLe 3 0 ++ natLe 8 (s.reg DBY_CHIP_ID).toNat ++ natLe 8 s.clk.time ++
    natLe 4 t.maxIn ++ natLe 28 0 ++ t.ext.flatMap (natLe 8) ++ natLe 3768 0
/-- Queue record `q` (Table 6.17). -/
def State.queueRecord (s : State) (f q : Nat) : List Byte :=
  let x := s.lq f q
  natLe 8 (s.reg (LOOM_QSQB f q)).toNat ++ natLe 8 (s.reg (LOOM_QCQB f q)).toNat ++ natLe 8 (s.reg (LOOM_QCTL f q)).toNat ++
    natLe 2 (s.sqTail f q) ++ natLe 2 x.ctail ++ natLe 2 (s.cqHead f q) ++ natLe 1 x.phase ++ natLe 1 (min 255 x.unsig) ++
    natLe 32 0
/-- CRC-64 of bytes. -/
def crcOf (l : List Byte) : Nat := crc64 0 (toNats l)

/-- FUNC_SAVE (R188). -/
def execFuncSave (c : CardCtx) (func blob : Nat) (s : State) : Out :=
  let row := fun (st : Nat) => match st with
    | 1 | 2 => some stREFUSED
    | 4 => none
    | _ => some stBADSTATE
  commit (funcCard c 0x0404 func row fun s =>
    let nq := s.fnNq func
    let head := s.blobHead func
    let recs := (List.range nq).flatMap fun q => s.queueRecord func q
    if blob % 64 ≠ 0 then answer0 c 0x0404 stBADPARAM (dOffLoom 0x10)
    else if !s.dramOf (s.funcWorld func) blob (4096 + 64 * nq) then answer0 c 0x0404 stNOTPERM (dBlk 0x0003)
    else accept c 0x0404 func (.all [
      wrCoh blob (head ++ natLe 8 (crcOf (head ++ recs)) ++ recs) false,
      finish 0x0404 func stOK 0xFFFF [] ])) s

/-- Load queue record `q` of a blob. -/
def loadRecord (f q a : Nat) : Act := .read fun s => .all [
  .reg (LOOM_QSQB f q) (BitVec.ofNat 64 (s.rdNat a 8)),
  .reg (LOOM_QCQB f q) (BitVec.ofNat 64 (s.rdNat (a + 8) 8)),
  .reg (LOOM_QCTL f q) (BitVec.ofNat 64 (s.rdNat (a + 0x10) 8)),
  setF (LOOM_SQ_TAIL f q) LOOM_SQ_TAIL_INDEX (s.rdNat (a + 0x18) 2),
  setF (LOOM_CQ_HEAD f q) LOOM_CQ_HEAD_INDEX (s.rdNat (a + 0x1C) 2),
  modLq f q fun x => { x with
    ctail := s.rdNat (a + 0x1A) 2, phase := s.rdNat (a + 0x1E) 1 % 2, unsig := s.rdNat (a + 0x1F) 1
    unsigAt := s.clk.time } ]
/-- The checks of FUNC.RESTORE: Table 6.3 without NQ, the blob's address and contents (R189), and the pools; the status and
detail of the first failure. -/
def State.restoreFail (s : State) (f nv ctx ptRoot ext blob : Nat) (ts : List Nat) : Option (Nat × Nat) :=
  let w := s.funcWorld f
  let nq := s.rdNat (blob + 6) 2
  let good := s.rdNat blob 4 == 0x4C4D4231 && s.rdNat (blob + 4) 2 == 1 && decide (1 ≤ nq ∧ nq ≤ 256) &&
    s.dramOf w (blob + 4096) (64 * nq) && s.rdNat (blob + 0xFF8) 8 == crcOf (s.rd blob 0xFF8 ++ s.rd (blob + 4096) (64 * nq))
  match s.createFail f 1 nv 0 ctx ptRoot ext 0x38 ts with
  | some e => some e
  | none =>
    if s.rdPoison ext 256 then some (stFAULT, dBlk 0x0005)
    else if blob % 64 ≠ 0 then some (stBADPARAM, dOffLoom 0x30)
    else if !s.dramOf w blob 4096 then some (stNOTPERM, dBlk 0x0003)
    else if s.rdPoison blob (4096 + 64 * min 256 nq) then some (stFAULT, dBlk 0x0005)
    else if !good then some (stBADPARAM, dOffLoom 0x30)
    else if s.rdNat (blob + 0xC) 1 ≠ (if w then 1 else 0) then some (stNOTPERM, dBlk 0x0005)
    else if s.rdNat (blob + 8) 2 ≠ nv then some (stBADPARAM, dOffLoom 0x12)
    else s.poolFail nq nv ext
/-- FUNC_RESTORE (R189). -/
def execFuncRestore (c : CardCtx) (func nv ctx ptRoot ext blob : Nat) (targets : List Nat) (s : State) : Out :=
  commit (funcCard c 0x0405 func (fun st => if st = 0 then none else some stBADSTATE) fun s =>
    let nq := s.rdNat (blob + 6) 2
    match s.restoreFail func nv ctx ptRoot ext blob targets with
    | some e => answer0 c 0x0405 e.1 e.2
    | none => accept c 0x0405 func (.all [
        allocFn func nq nv (min 4096 (s.rdNat (blob + 0x20) 4)) ctx ptRoot ext targets,
        .each (List.range nq) fun q => loadRecord func q (blob + 4096 + 64 * q),
        setFstate func 4,
        finish 0x0405 func stOK 0xFFFF [] ])) s

/-- FUNC_RESUME (R183, R190): unsignalled completions are signalled (R189). -/
def execFuncResume (c : CardCtx) (func : Nat) (s : State) : Out :=
  let row := fun (st : Nat) => match st with
    | 1 => some stOK
    | 3 | 4 => none
    | _ => some stBADSTATE
  commit (funcCard c 0x0406 func row fun s => .all [
    setFstate func 1,
    .each ((s.fn func).q.filter fun p => p.2.unsig != 0) fun p => signalQ func p.1,
    fnTouched func,
    .when (s.hasWork func) (park func),
    answerOk c 0x0406 ]) s

/-- The row of FUNC.DESTROY and FUNC.RESET in Table 6.2. -/
def resetRow (st : Nat) : Option Nat := match st with
  | 1 | 2 => some stREFUSED
  | 3 | 4 => none
  | _ => some stBADSTATE
/-- Clear a message vector at the destruction of its function (R422). -/
def vectorClear (v : Nat) : Act := .read fun s =>
  let w := s.reg (HRN_VEC v)
  .seq (.reg (HRN_VEC v) 0)
    (hrnEval (HRN_VEC_HART.get w) (fileOf (HRN_VEC_WORLD.get w != 0) (HRN_VEC_LEVEL.get w) (HRN_VEC_GUEST.get w)))
/-- FUNC_DESTROY (R190, R321, R387, R422). -/
def execFuncDestroy (c : CardCtx) (func : Nat) (s : State) : Out :=
  commit (funcCard c 0x0407 func resetRow fun s =>
    let t := s.fn func
    let tenants := s.loom.fn.any fun p => p.1 != 0 && !s.funcWorld p.1
    if s.windowOpen func ∨ (func = 0 ∧ tenants) then answerRefused c 0x0407 0x0005 0xFFFF
    else .all [
      wrCoh t.ctx (List.replicate 512 0) false,
      .each t.vecs vectorClear,
      keyEraseFunc func,
      iotlbDropFunc func,
      .each (List.range (s.fnNq func)) fun q => .all [
        resetReg (LOOM_SQ_TAIL func q), resetReg (LOOM_CQ_HEAD func q), resetReg (LOOM_QSQB func q),
        resetReg (LOOM_QCQB func q), resetReg (LOOM_QCTL func q) ],
      .reg (LOOM_FSTAT func) 0,
      .loom fun l => { l with fn := Tab.drop l.fn func, hold := eraseNat l.hold func },
      loomStat func,
      answerOk c 0x0407 ]) s

/-- FUNC_RESET (R190, R387). -/
def execFuncReset (c : CardCtx) (func : Nat) (s : State) : Out :=
  commit (funcCard c 0x0408 func resetRow fun s =>
    if s.windowOpen func then answerRefused c 0x0408 0x0005 0xFFFF
    else .all [
      .each (List.range (s.fnNq func)) fun q => .all [
        setFs (LOOM_QCTL func q) [(LOOM_QCTL_EN, 0), (LOOM_QCTL_QSTATE, 0)],
        .reg (LOOM_SQ_TAIL func q) 0, .reg (LOOM_CQ_HEAD func q) 0, modLq func q fun _ => {} ],
      iotlbDropFunc func,
      setFstate func 1,
      answerOk c 0x0408 ]) s

end Sys2Proof.Machine
end

