-- ==== Sys2Proof/Machine/Shuttle.lean ====
section
/-! DEFINITION. Chapter 09: Shuttle ports, MAC, frame FIFOs, PAUSE and PFC, the parser, the exception and raw rings. -/

namespace Sys2Proof.Machine

/-! ### Ports and FIFOs -/

/-- Shuttle port `p`. -/
def State.sport (s : State) (p : Nat) : ShuPort := Tab.getD s.shu.port p {}
/-- Change Shuttle port `p`. -/
def modSport (p : Nat) (f : ShuPort → ShuPort) : Act := .shu fun x => { x with port := Tab.upd x.port p {} f }
/-- SHU_MODE.MODE. -/
def State.shuMode (s : State) : Nat := s.get SHU_MODE SHU_MODE_MODE
/-- Ports of a mode (Table 9.1). -/
def modePorts (m : Nat) : Nat := 2 ^ (m + 1)
/-- Lanes of port `p` in a mode (Table 9.1). -/
def modeLanes (m p : Nat) : List Nat := (List.range (2 ^ (2 - m))).map (p * 2 ^ (2 - m) + ·)
/-- Words of a port's receive FIFO and of its transmit FIFO (Table 9.4). -/
def rxWords (m : Nat) : Nat := 2 ^ (15 - m)
def txWords (m : Nat) : Nat := 2 ^ (14 - m)
/-- Words that a frame of `n` bytes takes (R258). -/
def frameWords (n : Nat) : Nat := max 1 ((n + 63) / 64)
/-- A field of SHU_PORT_CFGp. -/
def State.portCfg (s : State) (p : Nat) (x : Fld) : Nat := s.get (SHU_PORT_CFG p) x
/-- FC of a port. -/
def State.fc (s : State) (p : Nat) : Nat := s.portCfg p SHU_PORT_CFG_FC
/-- Is a port of the mode enabled? -/
def State.portEn (s : State) (p : Nat) : Bool := decide (p < modePorts s.shuMode) && s.bit (SHU_PORT_CFG p) SHU_PORT_CFG_EN
/-- Is its link up? -/
def State.portLink (s : State) (p : Nat) : Bool := s.bit (SHU_PORT_STAT p) SHU_PORT_STAT_LINK
/-- Count a frame of port `p` under its final reason (Table 9.8). -/
def countReason (p c : Nat) : Act := bump (SHU_RSN p c)
/-- The Harness source of a port (Table 16.2). -/
def portRaise (p : Nat) : Act := sourceRaise (81 + p)
/-- Words in use by some frames of a receive FIFO. -/
def rxUse (l : List RxFrame) : Nat := (l.map fun f => frameWords f.data.length).sum
/-- occ_p of R267: with FC = 1 all priorities count as one. -/
def State.rxOcc (s : State) (p prio : Nat) : Nat :=
  rxUse ((s.sport p).rx.filter fun f => s.fc p == 1 || f.prio == prio)
/-- RX_OCC of SHU_PORT_STATp. -/
def rxStat (p : Nat) : Act := .read fun s => setF (SHU_PORT_STAT p) SHU_PORT_STAT_RX_OCC (rxUse (s.sport p).rx)
/-- PAUSED and XOFF_SENT of SHU_PORT_STATp. -/
def pauseStat (p : Nat) : Act := .read fun s =>
  let bits := fun (t : Tab Nat) => (t.map fun e => 2 ^ e.1).sum
  setFs (SHU_PORT_STAT p) [(SHU_PORT_STAT_PAUSED, bits (s.sport p).timer), (SHU_PORT_STAT_XOFF_SENT, bits (s.sport p).xoff)]
/-- Bytes of a packet on the wire without FCS. -/
def RocePkt.size (k : RocePkt) : Nat :=
  let v6 := k.dip / 2 ^ 32 != 0xFFFF
  14 + (if k.vlan.testBit 15 then 4 else 0) + (if v6 then 40 else 20) + 8 + 12 +
    (if k.reth.isSome then 16 else 0) + (if k.imm.isSome then 4 else 0) + (if k.qkey.isSome then 8 else 0) +
    (if k.ack.isSome then 4 else 0) + (if k.opcode = 0x81 then 16 else 0) + (k.payload.length + 3) / 4 * 4 + 4
/-- Bytes of a transmit frame without FCS; a short frame is padded to 60 (R278). -/
def TxFrame.size (f : TxFrame) : Nat := match f.body with
  | .raw b => max 60 b.length
  | .roce k => max 60 k.size
/-- Does a frame fit in the transmit FIFO of its priority beside the frames there (R257, R265)? -/
def State.txFits (s : State) (p : Nat) (l : List TxFrame) (f : TxFrame) : Bool :=
  let pfc := s.fc p == 2
  let same := l.filter fun g => !pfc || g.prio == f.prio
  let d := if pfc then txWords s.shuMode / 8 else txWords s.shuMode
  decide ((same.map fun g => frameWords g.size).sum + frameWords f.size ≤ d)
/-- Move waiting transport frames into the transmit FIFO in order, as far as they fit. -/
def txFill (p : Nat) : Act := .read fun s =>
  let x := s.sport p
  let r := x.wait.foldl (fun (acc : List TxFrame × List TxFrame) f =>
    if acc.2.isEmpty && s.txFits p acc.1 f then (acc.1 ++ [f], acc.2) else (acc.1, acc.2 ++ [f])) (x.tx, [])
  modSport p fun y => { y with tx := r.1, wait := r.2 }
/-- The transport hands over a frame. -/
def txPut (p : Nat) (f : TxFrame) : Act := .seq (modSport p fun x => { x with wait := x.wait ++ [f] }) (txFill p)

/-- Flush a receive FIFO (R263): its frames are counted under FLUSHED. -/
def flushRx (p : Nat) : Act := .read fun s => .all [
  addTo (SHU_RSN p 0x17) (s.sport p).rx.length,
  modSport p fun x => { x with rx := [] },
  rxStat p ]
/-- Flush a transmit FIFO (R263). -/
def flushTx (p : Nat) : Act := .read fun s => .all [
  addTo (SHU_RSN p 0x17) (s.sport p).tx.length,
  modSport p fun x => { x with tx := [] },
  txFill p ]

/-! ### Link (R252, R280, R281) -/

/-- The link of a port takes a state; a change raises the port's source. -/
def setLink (p : Nat) (up : Bool) : Act := .read fun s =>
  if s.portLink p = up then .skip else .all [setB (SHU_PORT_STAT p) SHU_PORT_STAT_LINK up, portRaise p]

/-- ETH_LINK_CHANGE (R280, R281): the link of an enabled port goes up or down, with the faults signalled and what the lanes
report, one number per lane of the port: bit 0 RX_INV, bits 2:1 LANE_POS, bit 3 SIG, bit 4 ALIGNED. -/
def execEthLinkChange (port : Nat) (up lfault rfault : Bool) (lanes : List Nat) (s : State) : Out :=
  commit (whileLive (if !s.portEn port then .skip else .all [
    .each ((modeLanes s.shuMode port).zip lanes) fun x => setFs (SHU_LANE x.1) [
      (SHU_LANE_RX_INV, x.2 % 2), (SHU_LANE_LANE_POS, x.2 / 2 % 4), (SHU_LANE_SIG, x.2 / 8 % 2),
      (SHU_LANE_ALIGNED, x.2 / 16 % 2)],
    setFs (SHU_PORT_STAT port) [(SHU_PORT_STAT_LFAULT, if lfault then 1 else 0), (SHU_PORT_STAT_RFAULT, if rfault then 1 else 0)],
    .when up (modSport port fun x => { x with waitLink := none }),
    setLink port up ])) s

/-- A record that names the Shuttle with a port, and a priority where there is one, in its syndrome. -/
def portRec (sev cls p prio : Nat) : RasRec := { sev := sev, cls := cls, block := 0x0007, synd := p + 256 * prio }
/-- ETH_LINK_FAIL_TIMEOUT (R281): not up 1 s after enable. -/
def execEthLinkFailTimeout (port : Nat) (s : State) : Out :=
  commit (match (s.sport port).waitLink with
    | none => .skip
    | some t => .all [
        advanceTo (t + 1000000000),
        rasLog (portRec 0 cLink port 0),
        bump (SHU_LINK_FAIL port),
        modSport port fun x => { x with waitLink := none } ]) s

/-! ### Cards (R251, R252, R263, R269, R283) -/

/-- The checks of R269 on a port's configuration in a mode. -/
def thrBad (m : Nat) (cfg : W64) (thr : List W64) : Bool :=
  let t := fun c => (thr[c]?).getD 0
  let xoff := fun c => SHU_PFC_THR_XOFF.get (t c)
  let xon := fun c => SHU_PFC_THR_XON.get (t c)
  decide (rxWords m < ((List.range 8).map xoff).sum) ||
  (List.range 8).any (fun c => xoff c != 0 && decide (xoff c ≤ xon c)) ||
  (SHU_PORT_CFG_FC.get cfg == 2 && (List.range 8).any fun c => (SHU_PORT_CFG_LOSSLESS.get cfg).testBit c && xoff c == 0)
/-- The detail word of a Shuttle card's parameter check. -/
def dOffShu (o : Nat) : Nat := o * 65536 + 0x0007
/-- The first parameter of SHUTTLE.PORT_CFG that fails: status and detail. -/
def State.portCardFail (s : State) (mode port op : Nat) (cfg mac : W64) (thr : List W64) : Option (Nat × Nat) :=
  let m := if mode = 0xFF then s.shuMode else mode
  let reserved := fun (a : Nat) (v : W64) => v &&& ~~~ regMask a != 0
  let len := SHU_PORT_CFG_MAX_FRAME.get cfg
  if mode ≠ 0xFF ∧ 2 < mode then some (stBADPARAM, dOffShu 0x10)
  else if modePorts m ≤ port then some (stBADPARAM, dOffShu 0x11)
  else if 7 < op then some (stBADPARAM, dOffShu 0x12)
  else if op.testBit 0 && (reserved (SHU_PORT_CFG 0) cfg || SHU_PORT_CFG_FC.get cfg == 3 || decide (144 < SHU_PORT_CFG_CT.get cfg) ||
      decide (len < 1518) || decide (9216 < len)) then some (stBADPARAM, dOffShu 0x18)
  else if op.testBit 0 && reserved (SHU_PORT_MAC 0) mac then some (stBADPARAM, dOffShu 0x20)
  else if op.testBit 0 && thr.any (reserved (SHU_PFC_THR 0 0)) then some (stBADPARAM, dOffShu 0x28)
  else if op.testBit 0 && thrBad m cfg thr then some (stBADPARAM, 0x0007)
  else if mode ≠ 0xFF ∧ mode ≠ s.shuMode ∧ (List.range 8).any (fun p => s.bit (SHU_PORT_CFG p) SHU_PORT_CFG_EN) then some (stBADSTATE, 0x0007)
  else none
/-- Disable a port (R252): its FIFOs are flushed and its link goes down. -/
def portDisable (p : Nat) : Act := .all [
  flushTx p, flushRx p, modSport p fun x => { x with waitLink := none }, setLink p false,
  .read fun s => .each (modeLanes s.shuMode p) fun l => setFs (SHU_LANE l) [(SHU_LANE_SIG, 0), (SHU_LANE_ALIGNED, 0)] ]
/-- Apply a configuration to a port. -/
def portApply (p : Nat) (cfg mac : W64) (thr : List W64) : Act := .read fun s =>
  let was := s.bit (SHU_PORT_CFG p) SHU_PORT_CFG_EN
  let now := SHU_PORT_CFG_EN.get cfg == 1
  .all [
    .when (was && !now) (portDisable p),
    .reg (SHU_PORT_CFG p) cfg, .reg (SHU_PORT_MAC p) mac,
    .each (List.range 8) fun c => .reg (SHU_PFC_THR p c) ((thr[c]?).getD 0),
    .when (!was && now) (modSport p fun x => { x with waitLink := some s.clk.time }) ]
/-- The card SHUTTLE.PORT_CFG. -/
def portCard (c : CardCtx) (mode port op txInv : Nat) (cfg mac : W64) (thr : List W64) : Act :=
  gated c 0x0601 false (fun s => .is (s.blockWorld 7)) fun s =>
    match s.portCardFail mode port op cfg mac thr with
    | some (st, d) => answer0 c 0x0601 st d
    | none => .all [
        .when (mode != 0xFF) (.all [
          setF SHU_MODE SHU_MODE_MODE mode,
          .each (List.range 8) fun l => setB (SHU_LANE l) SHU_LANE_TX_INV (txInv.testBit l) ]),
        .when (op.testBit 0) (portApply port cfg mac thr),
        .when (op.testBit 1) (flushRx port),
        .when (op.testBit 2) (flushTx port),
        answerOk c 0x0601 ]

/-- SHUTTLE_PORT_CFG (R251). -/
def execShuttlePortCfg (c : CardCtx) (mode port op txInv : Nat) (cfg mac : W64) (thr : List W64) (s : State) : Out :=
  commit (portCard c mode port op txInv cfg mac thr) s
/-- PORT_FLUSH_RX (R263): the card with the flush bit alone. -/
def execPortFlushRx (c : CardCtx) (port : Nat) (s : State) : Out := commit (portCard c 0xFF port 2 0 0 0 []) s
/-- PORT_FLUSH_TX (R263). -/
def execPortFlushTx (c : CardCtx) (port : Nat) (s : State) : Out := commit (portCard c 0xFF port 4 0 0 0 []) s
/-- SHUTTLE_PARSE_CFG (R283). -/
def execShuttleParseCfg (c : CardCtx) (image : W64) (s : State) : Out :=
  commit (gated c 0x0602 false (fun s => .is (s.blockWorld 7)) fun _ =>
    if image &&& ~~~ regMask SHU_PARSE_CFG ≠ 0 then answer0 c 0x0602 stBADPARAM (dOffShu 0x10)
    else .all [.reg SHU_PARSE_CFG image, answerOk c 0x0602]) s

/-! ### PAUSE and PFC (R264–R270) -/

/-- Nanoseconds of `q` pause quanta in a mode, rounded up (R266). -/
def quantaNs (m q : Nat) : Nat := (q * 32 * 2 ^ m + 24) / 25
/-- Is a priority, as R267 counts them, held lossless? -/
def State.lossless (s : State) (p prio : Nat) : Bool :=
  match s.fc p with
  | 1 => prio == 0 && s.get (SHU_PFC_THR p 0) SHU_PFC_THR_XOFF != 0
  | 2 => (s.portCfg p SHU_PORT_CFG_LOSSLESS).testBit prio
  | _ => false
/-- Queue a control frame; quanta above 0 mark XOFF in force with its time, 0 ends it. -/
def ctlQueue (p : Nat) (q : Tab Nat) : Act := .read fun s => if q.isEmpty then .skip else .all [
  modSport p fun x => { x with
    ctl := x.ctl ++ [{ pfc := s.fc p == 2, quanta := q }]
    xoff := q.foldl (fun t e => if e.2 = 0 then Tab.drop t e.1 else Tab.put t e.1 s.clk.time) x.xoff },
  pauseStat p ]
/-- After words were written: a lossless priority that reached XOFF (R267). -/
def pfcCheck (p prio : Nat) : Act := .read fun s =>
  let k := if s.fc p = 1 then 0 else prio
  .when (s.lossless p k && (Tab.find (s.sport p).xoff k).isNone && decide (s.get (SHU_PFC_THR p k) SHU_PFC_THR_XOFF ≤ s.rxOcc p k))
    (ctlQueue p [(k, 0xFFFF)])
/-- PFC_RESEND_TIMER (R267): 0x7FFF quanta after the last frame, while the occupancy is above XON. -/
def execPfcResendTimer (port prio : Nat) (s : State) : Out :=
  commit (whileLive (match Tab.find (s.sport port).xoff prio with
    | some t => if s.rxOcc port prio ≤ s.get (SHU_PFC_THR port prio) SHU_PFC_THR_XON then .skip
        else .all [advanceTo (t + quantaNs s.shuMode 0x7FFF), ctlQueue port [(prio, 0xFFFF)]]
    | none => .skip)) s
/-- PFC_XON_SEND (R267): the priorities whose occupancy has fallen to XON or below, in one frame. -/
def execPfcXonSend (port : Nat) (s : State) : Out :=
  commit (whileLive (ctlQueue port (((s.sport port).xoff.filter fun e =>
    decide (s.rxOcc port e.1 ≤ s.get (SHU_PFC_THR port e.1) SHU_PFC_THR_XON)).map fun e => (e.1, 0)))) s

/-- A received control frame loads the timers of the priorities it covers (R266). -/
def loadTimers (p : Nat) (q : List (Nat × Nat)) : Act := .read fun s => .all [
  bump (SHU_PAUSE_RX p),
  modSport p fun x => q.foldl (fun x e =>
    if e.2 % 65536 = 0 then
      { x with timer := Tab.drop x.timer e.1, paused := Tab.drop x.paused e.1, wdDone := eraseNat x.wdDone e.1 }
    else { x with timer := Tab.put x.timer e.1 (s.clk.time + quantaNs s.shuMode (e.2 % 65536))
                  paused := if (Tab.find x.paused e.1).isSome then x.paused else Tab.put x.paused e.1 s.clk.time }) x,
  pauseStat p ]
/-- The group address of MAC control frames, 01-80-C2-00-00-01, with byte 0 in bits 7:0. -/
def pauseGroup : Nat := 0x010000C28001
/-- A MAC control frame arrives (R264): one that the port does not act on is discarded under CTRL. -/
def ctlFrame (p dest opcode enable : Nat) (quanta : List Nat) (fcsOk : Bool) : Act := .read fun s =>
  let forUs := dest == pauseGroup || dest == s.get (SHU_PORT_MAC p) SHU_PORT_MAC_ADDR
  if !s.portEn p || !s.portLink p then .skip
  else .all [
    bump (SHU_RX_FRAMES p),
    if forUs && fcsOk && opcode == 1 && s.fc p == 1 then
      loadTimers p ((List.range 8).map fun i => (i, (quanta[0]?).getD 0))
    else if forUs && fcsOk && opcode == 0x0101 && s.fc p == 2 then
      loadTimers p (((List.range 8).filter enable.testBit).map fun i => (i, (quanta[i]?).getD 0))
    else countReason p 0x16 ]
/-- PAUSE_FRAME_RECEIVE (R264, R266). -/
def execPauseFrameReceive (port dest quanta : Nat) (fcsOk : Bool) (s : State) : Out :=
  commit (whileLive (ctlFrame port dest 1 0xFF [quanta] fcsOk)) s
/-- PFC_FRAME_RECEIVE (R264, R266). -/
def execPfcFrameReceive (port dest enable : Nat) (quanta : List Nat) (fcsOk : Bool) (s : State) : Out :=
  commit (whileLive (ctlFrame port dest 0x0101 enable quanta fcsOk)) s
/-- PAUSE_TIMER_EXPIRY (R266): the timer of a priority reaches 0. -/
def execPauseTimerExpiry (port prio : Nat) (s : State) : Out :=
  commit (match Tab.find (s.sport port).timer prio with
    | none => .skip
    | some t => .all [
        advanceTo t,
        modSport port fun x => { x with
          timer := Tab.drop x.timer prio, paused := Tab.drop x.paused prio, wdDone := eraseNat x.wdDone prio },
        pauseStat port ]) s
/-- PAUSE_WATCHDOG_EXPIRY (R270): once for each stretch of pause. -/
def execPauseWatchdogExpiry (port prio : Nat) (s : State) : Out :=
  let wd := s.portCfg port SHU_PORT_CFG_PAUSE_WD
  commit (match Tab.find (s.sport port).paused prio, Tab.find (s.sport port).timer prio with
    | some t, some due =>
      let at' := t + wd * 10000000
      if wd = 0 ∨ (s.sport port).wdDone.contains prio ∨ due ≤ at' then .skip else .all [
        advanceTo (at' + 1),
        rasLog (portRec 0 cThreshold port prio),
        bump (SHU_PAUSE_WD port),
        modSport port fun x => { x with wdDone := insertNat x.wdDone prio },
        portRaise port ]
    | _, _ => .skip) s

/-! ### Receive (R255–R262, R268) -/

/-- A big-endian field of a frame. -/
def be (l : List Byte) (off n : Nat) : Nat := ((l.drop off).take n).foldl (fun v b => v * 256 + b.toNat) 0
/-- The priority of a frame (R256). -/
def framePrio (l : List Byte) (dflt : Nat) : Nat :=
  if be l 12 2 = 0x8100 ∨ be l 12 2 = 0x88A8 then be l 14 2 / 2 ^ 13 else dflt
/-- Does the address filter of a port accept a destination (Table 9.3)? -/
def State.macOk (s : State) (p dest : Nat) : Bool :=
  dest == s.get (SHU_PORT_MAC p) SHU_PORT_MAC_ADDR || dest == 0xFFFFFFFFFFFF ||
  (dest.testBit 0 && s.bit (SHU_PORT_CFG p) SHU_PORT_CFG_MCAST) || s.bit (SHU_PORT_CFG p) SHU_PORT_CFG_PROMISC
/-- The MAC receives a frame of bytes without FCS (R255, R260, R262, R268). -/
def rxFrame (p : Nat) (data : List Byte) (good : Bool) : Act := .read fun s =>
  let prio := framePrio data (s.portCfg p SHU_PORT_CFG_DEF_PRIO)
  let maxLen := s.portCfg p SHU_PORT_CFG_MAX_FRAME
  let kept := data.take (maxLen - 4)
  let room := rxWords s.shuMode - rxUse (s.sport p).rx
  let ct := s.portCfg p SHU_PORT_CFG_CT
  let xoff := s.get (SHU_PFC_THR p prio) SHU_PFC_THR_XOFF
  let mac := s.macOk p (leNat (data.take 6))
  let limit := s.fc p != 1 && !s.lossless p prio && xoff != 0 && decide (xoff ≤ s.rxOcc p prio)
  let trunc := decide (room < frameWords kept.length)
  let status := if !good then 0x10 else if data.length + 4 < 64 then 0x11 else if !mac then 0x15
    else if maxLen < data.length + 4 then 0x12 else if limit then 0x14 else if trunc then 0x13 else 0x00
  let cut := ct != 0 && decide (ct * 64 < kept.length) && decide (ct ≤ room)
  if status = 0 ∨ (cut && mac && !limit) then .all [
    modSport p fun x => { x with rx := x.rx ++ [{
      data := if trunc then kept.take (room * 64) else kept, prio := prio, time := s.clk.time, cut := cut, status := status }] },
    rxStat p, pfcCheck p prio ]
  else countReason p status
/-- FRAME_RECEIVE (R255): a frame of `data` without FCS, with a good FCS or not, after codewords that FEC corrected and
could not correct. -/
def execFrameReceive (port : Nat) (data : List (BitVec 8)) (fcsOk : Bool) (fecCe fecUce : Nat) (s : State) : Out :=
  let good := fcsOk && fecUce == 0
  commit (whileLive (if !s.portEn port || !s.portLink port then .skip else .all [
    addTo (SHU_FEC_CE port) fecCe, addTo (SHU_FEC_UCE port) fecUce,
    if be data 12 2 = 0x8808 then
      ctlFrame port (leNat (data.take 6)) (be data 14 2) (be data 17 1)
        (if be data 14 2 = 1 then [be data 16 2] else (List.range 8).map fun i => be data (18 + 2 * i) 2) good
    else .seq (bump (SHU_RX_FRAMES port)) (rxFrame port data good) ])) s

/-! ### The parser (R271–R275) -/

/-- Where the parser stands: the offset of the next header and the headers passed. -/
structure Cursor where
  off : Nat
  cnt : Nat
  deriving DecidableEq, Repr
/-- Pass a header of `n` bytes in a frame of `len` bytes (R273): DEPTH, BYTES or SHORT. -/
def Cursor.pass (c : Cursor) (len n : Nat) : Except Nat Cursor :=
  if 8 < c.cnt + 1 then .error 0x02 else if 256 < c.off + n then .error 0x03
  else if len < c.off + n then .error 0x0D else .ok ⟨c.off + n, c.cnt + 1⟩
/-- VLAN tags after an Ethernet header, `k` of them seen: the EtherType and the cursor behind them (Table 9.6). -/
def tagWalk (l : List Byte) (ty : Nat) (c : Cursor) : Nat → Nat → Except Nat (Nat × Cursor)
  | 0, _ => .error 0x04
  | fuel + 1, k =>
    if ty = 0x8100 ∨ ty = 0x88A8 then
      if 2 ≤ k ∨ (k = 1 ∧ ty = 0x88A8) then .error 0x04
      else match c.pass l.length 4 with
        | .error e => .error e
        | .ok c' => tagWalk l (be l (c.off + 2) 2) c' fuel (k + 1)
    else .ok (ty, c)
/-- The Ethernet header and its tags. -/
def ethWalk (l : List Byte) (c : Cursor) : Except Nat (Nat × Cursor) :=
  match c.pass l.length 14 with
  | .error e => .error e
  | .ok c' =>
    let ty := be l (c.off + 12) 2
    if ty < 0x0600 then .error 0x01 else tagWalk l ty c' 3 0
/-- The ones' complement sum of 16-bit words. -/
def onesSum (l : List Byte) : Nat :=
  let t := ((List.range ((l.length + 1) / 2)).map fun i => be l (2 * i) 2).sum
  (t % 65536 + t / 65536) % 65536 + (t % 65536 + t / 65536) / 65536
/-- Does the IP header's packet of `need` bytes suit the `avail` bytes after its start (Table 9.7)? Only a frame of minimum
length may be longer; an inner packet need only fit. -/
def ipFits (need avail len : Nat) (inner : Bool) : Bool :=
  decide (need ≤ avail) && (inner || need == avail || len == 60)
/-- IPv6 extension headers, `k` of them seen: the protocol and the cursor behind them (Table 9.6). -/
def extWalk (l : List Byte) (ty : Nat) (c : Cursor) : Nat → Nat → Except Nat (Nat × Cursor)
  | 0, _ => .error 0x06
  | fuel + 1, k =>
    if ty = 44 then .error 0x05
    else if [50, 51, 135, 139, 140, 253, 254].contains ty then .error 0x06
    else if ty = 0 ∨ ty = 43 ∨ ty = 60 then
      if 2 ≤ k then .error 0x06
      else match c.pass l.length (if c.off + 2 ≤ l.length then (be l (c.off + 1) 1 + 1) * 8 else 8) with
        | .error e => .error e
        | .ok c' => extWalk l (be l c.off 1) c' fuel (k + 1)
    else .ok (ty, c)
/-- An IP header with its extension headers: the start of the UDP header, and the bytes of the IP payload from there. -/
def ipWalk (l : List Byte) (ty : Nat) (c : Cursor) (stop : Nat) (inner : Bool) : Except Nat (Cursor × Nat) :=
  let avail := stop - c.off
  if ty = 0x0800 then
    match c.pass l.length 20 with
    | .error e => .error e
    | .ok _ =>
      let ihl := be l c.off 1 % 16
      let total := be l (c.off + 2) 2
      if be l (c.off + 6) 2 % 2 ^ 14 ≠ 0 then .error 0x05
      else if be l c.off 1 / 16 ≠ 4 ∨ ihl < 5 then .error 0x08
      else match c.pass l.length (4 * ihl) with
        | .error e => .error e
        | .ok c' =>
          if onesSum ((l.drop c.off).take (4 * ihl)) ≠ 0xFFFF then .error 0x09
          else if total < 4 * ihl ∨ !ipFits total avail l.length inner then .error 0x0A
          else if be l (c.off + 9) 1 ≠ 17 then .error 0x01
          else .ok (c', total - 4 * ihl)
  else if ty = 0x86DD then
    match c.pass l.length 40 with
    | .error e => .error e
    | .ok c' =>
      let plen := be l (c.off + 4) 2
      if be l c.off 1 / 16 ≠ 6 then .error 0x08
      else if plen = 0 ∨ !ipFits (40 + plen) avail l.length inner then .error 0x0A
      else match extWalk l (be l (c.off + 6) 1) c' 3 0 with
        | .error e => .error e
        | .ok (p, d) =>
          if p ≠ 17 then .error 0x01 else .ok (d, plen - (d.off - c'.off))
  else .error 0x01
/-- Bytes of the BTH and the extended headers that an opcode calls for. -/
def bthBytes (op : Nat) : Nat :=
  match op with
  | 0x03 | 0x05 | 0x09 | 0x16 | 0x17 => 16
  | 0x06 | 0x0A | 0x0C => 28
  | 0x0B => 32
  | 0x0D | 0x0F | 0x10 | 0x11 => 16
  | 0x64 => 20
  | 0x65 => 24
  | 0x81 => 28
  | _ => 12
/-- The walk from an Ethernet header on; `stop` ends the bytes that belong to this layer. -/
def layerWalk (vxlan : Option Nat) (l : List Byte) (port time stop : Nat) (inner : Bool) (c : Cursor) :
    Nat → Except Nat InPkt
  | 0 => .error 0x07
  | fuel + 1 =>
    match ethWalk l c with
    | .error e => .error e
    | .ok (ty, ip) =>
      match ipWalk l ty ip stop inner with
      | .error e => .error e
      | .ok (u, n) =>
        match u.pass l.length 8 with
        | .error e => .error e
        | .ok p =>
          let len := be l (u.off + 4) 2
          let dport := be l (u.off + 2) 2
          if len < 8 ∨ len ≠ n then .error 0x0B
          else if some dport = vxlan then
            if inner then .error 0x07
            else match p.pass l.length 8 with
              | .error e => .error e
              | .ok v => if (be l p.off 1).testBit 3 then layerWalk vxlan l port time (u.off + len) true v fuel else .error 0x0C
          else if dport ≠ 4791 then .error 0x01
          else
            let hdr := bthBytes (be l p.off 1)
            if 256 < p.off + hdr then .error 0x03
            else if u.off + len < p.off + hdr ∨ l.length < p.off + hdr then .error 0x0D
            else .ok { port := port, time := time, v6 := ty == 0x86DD
                       ecn := if ty = 0x86DD then be l ip.off 2 / 2 ^ 4 % 4 else be l (ip.off + 1) 1 % 4
                       ip := (l.drop ip.off).take (u.off - ip.off), udp := (l.drop u.off).take 8
                       pay := (l.drop p.off).take (len - 8) }
/-- Parse a frame: the packet, or the reason code (Table 9.8). -/
def State.parse (s : State) (port time : Nat) (l : List Byte) : Except Nat InPkt :=
  let vx := if s.bit SHU_PARSE_CFG SHU_PARSE_CFG_VXLAN_EN then some (s.get SHU_PARSE_CFG SHU_PARSE_CFG_VXLAN_PORT) else none
  layerWalk vx l port time l.length false ⟨0, 0⟩ 2

/-! ### Rings (R276–R279) -/

/-- Registers of a port's exception ring (`raw` false) or raw transmit ring. -/
def ringBase (raw : Bool) (p : Nat) : Nat := if raw then SHU_RAWQ_BASE p else SHU_EXQ_BASE p
def ringIdx (raw : Bool) (p : Nat) : Nat := if raw then SHU_RAWQ_IDX p else SHU_EXQ_IDX p
/-- The address of slot `i` of a ring. -/
def State.ringSlotAt (s : State) (raw : Bool) (p i : Nat) : Nat :=
  s.get (ringBase raw p) SHU_EXQ_BASE_BASE * 4096 + i % 2 ^ s.get (ringBase raw p) SHU_EXQ_BASE_LOG * 16384
/-- A ring access faulted or returned poison (R279). -/
def ringFault (raw : Bool) (p a : Nat) (poison : Bool) : Act := .all [
  setF (ringBase raw p) SHU_EXQ_BASE_EN 0,
  rasLog { portRec 2 (if poison then cPoison else cProtocol) p 0 with addr := some a },
  portRaise p ]
/-- A write of a ring's base register (R276, Table 9.17): LOG and BASE stay while EN = 1; EN = 1 takes only where the ring is
good, and then both indices are 0. -/
def ringWrite (world : Bool) (p : Nat) (raw : Bool) (held v : W64) : Act := .read fun s =>
  let a := ringBase raw p
  let old := s.reg a
  let was := SHU_EXQ_BASE_EN.get old == 1
  let w := (regFields a).foldl (fun w d =>
    if was && d.fld != SHU_EXQ_BASE_EN then w else fieldWrite held false true w v d) old
  let lg := SHU_EXQ_BASE_LOG.get w
  let ok := decide (6 ≤ lg ∧ lg ≤ 12) && s.dramOf world (SHU_EXQ_BASE_BASE.get w * 4096) (2 ^ lg * 16384)
  if world ≠ s.blockWorld 7 ∨ modePorts s.shuMode ≤ p then .skip
  else if was ∨ SHU_EXQ_BASE_EN.get w = 0 then .reg a w
  else if ok then .all [.reg a w, .reg (ringIdx raw p) 0]
  else .reg a (SHU_EXQ_BASE_EN.put w 0)
/-- SHU_RING_ENABLE (R276): `value` with EN = 1. -/
def execShuRingEnable (world : Bool) (port : Nat) (raw : Bool) (value : W64) (s : State) : Out :=
  commit (ringWrite world port raw allBits (SHU_EXQ_BASE_EN.put value 1)) s
/-- A write of SHU_RAWQ_IDXp (Table 9.18): TAIL alone is writable. -/
def rawTailWrite (world : Bool) (p : Nat) (held v : W64) : Act := .read fun s =>
  if world ≠ s.blockWorld 7 ∨ modePorts s.shuMode ≤ p then .skip
  else .reg (SHU_RAWQ_IDX p) ((regFields (SHU_RAWQ_IDX p)).foldl (fun w d => fieldWrite held false true w v d) (s.reg (SHU_RAWQ_IDX p)))
/-- SHU_RAWQ_TAIL_WRITE (R278). -/
def execShuRawqTailWrite (world : Bool) (port : Nat) (value : W64) (s : State) : Out :=
  commit (rawTailWrite world port allBits value) s

/-- A frame goes to the exception ring under reason `c` (R277), or is dropped. -/
def toExq (p c : Nat) (f : RxFrame) : Act := .read fun s =>
  let lg := s.get (SHU_EXQ_BASE p) SHU_EXQ_BASE_LOG
  let tail := s.get (SHU_EXQ_IDX p) SHU_EXQ_IDX_TAIL
  let head := s.get (SHU_EXQ_IDX p) SHU_EXQ_IDX_HEAD
  let a := s.ringSlotAt false p tail
  let w := s.blockWorld 7
  if (s.get SHU_PARSE_CFG SHU_PARSE_CFG_EXQ_DROP).testBit (c - 1) then countReason p c
  else if !s.bit (SHU_EXQ_BASE p) SHU_EXQ_BASE_EN || (tail + 2 ^ (lg + 1) - head % 2 ^ (lg + 1)) % 2 ^ (lg + 1) == 2 ^ lg then
    countReason p 0x18
  else if !s.dramOf w a (32 + f.data.length) then .seq (ringFault false p a false) (countReason p 0x18)
  else .all [
    wrCoh a (natLe 2 f.data.length ++ natLe 1 c ++ natLe 1 f.prio ++ natLe 1 p ++ natLe 3 0 ++ natLe 8 f.time ++ natLe 16 0) false,
    wrCoh (a + 32) f.data false,
    setF (SHU_EXQ_IDX p) SHU_EXQ_IDX_TAIL ((tail + 1) % 2 ^ (lg + 1)),
    countReason p c,
    .read fun s => .when (!s.bit (HRN_SRC (81 + p)) HRN_SRC_IP) (portRaise p) ]

/-- FRAME_PARSE (R271): the oldest frame of a port's receive FIFO. -/
def execFrameParse (port : Nat) (s : State) : Out :=
  commit (match (s.sport port).rx with
    | [] => .skip
    | f :: rest => .all [
        modSport port fun x => { x with rx := rest },
        rxStat port,
        if f.status ≠ 0 then countReason port f.status
        else match s.parse port f.time f.data with
          | .ok k => .all [countReason port 0, .shu fun x => { x with inq := x.inq ++ [k] }]
          | .error c => if 1 ≤ c ∧ c ≤ 7 then toExq port c f else countReason port c ]) s

/-- RAW_SLOT_SEND (R278): a slot of the raw ring goes into the transmit FIFO of its PRIO. -/
def execRawSlotSend (port : Nat) (s : State) : Out :=
  let lg := s.get (SHU_RAWQ_BASE port) SHU_RAWQ_BASE_LOG
  let head := s.get (SHU_RAWQ_IDX port) SHU_RAWQ_IDX_HEAD
  let a := s.ringSlotAt true port head
  let next := setF (SHU_RAWQ_IDX port) SHU_RAWQ_IDX_HEAD ((head + 1) % 2 ^ (lg + 1))
  let len := s.rdNat a 2
  let w := s.blockWorld 7
  commit (if !s.portEn port || !s.bit (SHU_RAWQ_BASE port) SHU_RAWQ_BASE_EN || head == s.get (SHU_RAWQ_IDX port) SHU_RAWQ_IDX_TAIL then
      .skip
    else if !s.dramOf w a 16 then ringFault true port a false
    else if s.rdPoison a 16 then ringFault true port a true
    else if len < 14 ∨ s.portCfg port SHU_PORT_CFG_MAX_FRAME - 4 < len then .seq (bump (SHU_RAW_BAD port)) next
    else withFree fun k => .read fun s =>
      let b := s.rdNat (a + 2) 1
      let prio := if b < 8 then b else Config.freeEntry k % 8
      let f : TxFrame := { body := .raw (s.rd (a + 16) len), prio := prio }
      if (s.fc port != 0 && (Tab.find (s.sport port).timer prio).isSome) || !s.txFits port (s.sport port).tx f then .skip
      else if !s.dramOf w (a + 16) len then ringFault true port a false
      else if s.rdPoison (a + 16) len then ringFault true port a true
      else .all [modSport port fun x => { x with tx := x.tx ++ [f] }, next]) s

/-! ### Transmit (R261, R265) -/

/-- The frame that the MAC starts next and the FIFO without it: round robin over the priorities that are not paused with
FC = 2, the oldest frame otherwise. -/
def State.nextTx (s : State) (p : Nat) : Option (TxFrame × List TxFrame) :=
  let x := s.sport p
  let paused := fun k => s.fc p != 0 && (Tab.find x.timer k).isSome
  let take := fun (test : TxFrame → Bool) => match takeFirst test x.tx with
    | (some f, r) => some (f, r)
    | (none, _) => none
  if s.fc p = 2 then
    ((List.range 8).map fun i => (x.rr + 1 + i) % 8).findSome? fun k =>
      if paused k then none else take fun f => f.prio == k
  else match x.tx with
    | f :: r => if paused f.prio then none else some (f, r)
    | [] => none
/-- TX_FRAME_START (R261): control frames go first (R267). `underrun`: the next word was not there, which only a frame that
starts early can meet; `poison`: a word of the frame carried poison. -/
def execTxFrameStart (port : Nat) (underrun poison : Bool) (s : State) : Out :=
  let x := s.sport port
  commit (whileLive (if !s.portEn port || !s.portLink port then .skip else match x.ctl with
    | c :: r => .all [
        modSport port fun y => { y with ctl := r },
        .shu fun y => { y with sent := (port, .ctl c) :: y.sent },
        bump (SHU_TX_FRAMES port), bump (SHU_PAUSE_TX port) ]
    | [] => match s.nextTx port with
      | none => .skip
      | some (f, r) =>
        let ct := s.portCfg port SHU_PORT_CFG_CT
        let under := underrun && ct != 0 && decide (ct * 64 < f.size)
        .all [
          modSport port fun y => { y with tx := r, rr := f.prio },
          .shu fun y => { y with sent := (port, .frame f (under || poison)) :: y.sent },
          if under then bump (SHU_TX_UNDERRUN port) else if poison then bump (SHU_TX_POISON port) else bump (SHU_TX_FRAMES port),
          txFill port ])) s

end Sys2Proof.Machine
end

