-- ==== Sys2Proof/Machine/Roce.lean ====
section
/-! DEFINITION. Chapter 10: the Shuttle transport — queue pairs, regions, doorbells, work requests, completions, and the
service of inbound RoCEv2 packets. The bit layout of the RoCEv2 headers, the invariant CRC and the RNR timer codes are the
standard's (log entry 41). -/

namespace Sys2Proof.Machine

/-! ### Queue pairs -/

/-- The context of queue pair `q`, unless it is FREE. -/
def State.qp (s : State) (q : Nat) : Option Qp := Tab.find s.shu.qp q
/-- Change the context of queue pair `q`. -/
def modQp (q : Nat) (f : Qp → Qp) : Act := .shu fun t => match Tab.find t.qp q with
  | some x => { t with qp := Tab.put t.qp q (f x) }
  | none => t
/-- Do something with the context of queue pair `q`; nothing where it is FREE. -/
def withQp (q : Nat) (k : State → Qp → Act) : Act := .read fun s => match s.qp q with
  | some x => k s x
  | none => .skip
/-- Count a packet under a disposition (Table 10.11). -/
def trn (c : Nat) : Act := bump (SHU_TRN c)
/-- Bytes of the path MTU. -/
def Qp.mtu (x : Qp) : Nat := 128 * 2 ^ x.pmtu
/-- PSN distance from `b` forward to `a`. -/
def psnDiff (a b : Nat) : Nat := (a + 2 ^ 24 - b % 2 ^ 24) % 2 ^ 24
/-- Is PSN `a` at or after `b`? -/
def psnGe (a b : Nat) : Bool := decide (psnDiff a b < 2 ^ 23)
/-- SHU_XP_STAT, and SHU_QSTATs of a queue pair (Tables 10.7, 10.18). -/
def qpStat (q : Nat) : Act := .read fun s => .all [
  setFs SHU_XP_STAT [
    (SHU_XP_STAT_SLOTS_FREE, 16384 - (s.shu.qp.map fun p => p.2.maxSq + p.2.rdResp).sum),
    (SHU_XP_STAT_CACHED, s.shu.cached.length)],
  withQp q fun _ x => setFs (SHU_QSTAT x.func x.slot) [
    (SHU_QSTAT_QPN, q), (SHU_QSTAT_STATE, x.st), (SHU_QSTAT_CAUSE, x.cause)] ]

/-! ### Completions (R293) -/

/-- The bytes of a completion entry (Table 10.9). -/
def shuCqe (wrId len imm q src status kind flags time : Nat) : List Byte :=
  natLe 4 wrId ++ natLe 4 len ++ natLe 4 imm ++ natLe 4 q ++ natLe 4 src ++ natLe 1 status ++ natLe 1 kind ++
    natLe 2 flags ++ natLe 8 time
/-- The vector of a queue pair is signalled. -/
def qpSignal (x : Qp) : Act := .read fun s => match (s.fn x.func).vecs[x.vec]? with
  | some v => vectorRaise v
  | none => .skip
/-- A completion to write: WR_ID, LEN, IMM, SRC_QPN, STATUS, KIND, SOLICITED, TIME. -/
structure Cqe where
  wrId : Nat
  len : Nat := 0
  imm : Nat := 0
  src : Nat := 0
  status : Nat := 0
  kind : Nat := 0
  solicited : Bool := false
  time : Nat
/-- Write a completion entry; a failed write breaks the ring (Table 10.14). -/
def qpComplete (q : Nat) (c : Cqe) : Act := withQp q fun _ x =>
  let a := x.cqBase + 32 * x.cqTail
  let next := (x.cqTail + 1) % 2 ^ x.cqLog
  if x.cqBad then .skip
  else ioWith x.func a 32 true (.all [
      rasLog { sev := 2, cls := cProtocol, block := 0x0007, addr := some a, tenant := x.func, synd := q },
      modQp q fun y => { y with cqBad := true, st := if y.st = 3 then 3 else 2, cause := if y.cause = 0 then 3 else y.cause
                                wrs := [], reads := [], msg := none },
      qpStat q ])
    fun l => .all [
      wrPieces false l (shuCqe c.wrId c.len c.imm q c.src c.status c.kind (x.cqPhase + if c.solicited then 2 else 0) c.time),
      modQp q fun y => { y with
        cqTail := next, cqPhase := if next = 0 then 1 - y.cqPhase else y.cqPhase, arm := false },
      .when x.arm (.seq (setF (SHU_CQ_HEAD x.func x.slot) SHU_CQ_HEAD_ARM 0) (qpSignal x)) ]

/-- Complete with FLUSH the entries of a ring that were not taken: entries of `size` bytes with WR_ID at `off`. -/
def flushRing (q base lg head tail size off kind : Nat) : Act := withQp q fun _ x =>
  .each (List.range ((tail + 2 ^ lg - head) % 2 ^ lg)) fun i =>
    ioWith x.func (base + size * ((head + i) % 2 ^ lg)) size false .skip fun l => .read fun s =>
      if s.poisonPieces l then .skip
      else qpComplete q { wrId := leNat (((s.rdPieces l).drop off).take 4), status := 8, kind := kind, time := s.clk.time }
/-- Complete every remaining work request of a queue pair in ERROR with FLUSH (R289). -/
def qpFlush (q : Nat) : Act := withQp q fun s x => .all [
  modQp q fun y => { y with wrs := [], reads := [], msg := none, sqHead := x.sqTail, rqHead := x.rqTail, rnrUntil := none,
                            unacked := 0 },
  .each x.wrs fun w => qpComplete q { wrId := entField w.ent 4 4, status := 8, time := s.clk.time },
  (match x.msg with
   | some m => .when (!m.write) (qpComplete q { wrId := m.wrId, status := 8, kind := 1, time := s.clk.time })
   | none => .skip),
  flushRing q x.sqBase x.sqLog x.sqHead x.sqTail 64 4 0,
  flushRing q x.rqBase x.rqLog x.rqHead x.rqTail 16 12 1 ]
/-- A queue pair goes to ERROR (R289). A ring fault signals the vector while the completion ring works (Table 10.14). -/
def qpError (q cause : Nat) : Act := withQp q fun _ x =>
  if x.st = 2 then .skip
  else .all [
    modQp q fun y => { y with st := if y.st = 3 then 3 else 2, cause := if y.cause = 0 then cause else y.cause },
    qpFlush q,
    .when (cause == 3 && !x.cqBad) (qpSignal x),
    qpStat q ]

/-- A queue pair's context is needed on chip (R304): a load is counted, another context may have to leave, and a context
that reads poisoned puts its queue pair in ERROR (Table 10.14). What a context holds in memory is not laid down. -/
def touchCtx (q : Nat) : Act := .read fun s =>
  let at' := fun k => s.get SHU_QPC_BASE SHU_QPC_BASE_BASE * 2 ^ 21 + 256 * k
  if s.shu.cached.contains q then .skip
  else withFree fun k => .all [
    bump SHU_CTX_MISS,
    (if s.shu.cached.length < 4096 then .skip else
      let v := (s.shu.cached[Config.freeEntry k % 4096]?).getD 0
      .all [wrCoh (at' v) ((List.range 256).map (Config.openByte k)) false,
        .shu fun t => { t with cached := eraseNat t.cached v }]),
    .shu fun t => { t with cached := q :: t.cached },
    .when (s.rdPoison (at' q) 256) (.seq
      (rasLog { sev := 2, cls := cState, block := 0x0007, addr := some (at' q), synd := q }) (qpError q 6)),
    qpStat q ]

/-! ### Operations of SHU_QP_CMD (R287, R288) -/

/-- The operation ends: BUSY clears and STATUS is written. -/
def cmdDone (st : Nat) : Act := .seq (setFs SHU_QP_CMD [(SHU_QP_CMD_BUSY, 0), (SHU_QP_CMD_STATUS, st)])
  (.shu fun t => { t with busy := none })
/-- A queue pair becomes FREE: its slots go back to the pool, its doorbells and SHU_QSTATs read as with no queue pair. -/
def qpFree (q : Nat) : Act := withQp q fun _ x => .all [
  .shu fun t => { t with qp := Tab.drop t.qp q, cached := eraseNat t.cached q },
  resetReg (SHU_SQ_TAIL x.func x.slot), resetReg (SHU_RQ_TAIL x.func x.slot), resetReg (SHU_CQ_HEAD x.func x.slot),
  resetReg (SHU_QSTAT x.func x.slot), qpStat q ]
/-- Does an inbound access use a region? -/
def State.regionBusy (s : State) (r : Nat) : Bool := s.shu.qp.any fun p =>
  p.2.reads.any (·.region == r) || (match p.2.msg with | some m => m.write && m.region == r | none => false)
/-- A waiting DESTROY or DEREG ends once nothing is in flight that it waits for. -/
def cmdSettle : Act := .read fun s => match s.shu.busy with
  | some (3, q) => (match s.qp q with
      | some x => .when (x.wrs.isEmpty && x.reads.isEmpty) (.seq (qpFree q) (cmdDone stOK))
      | none => cmdDone stOK)
  | some (5, r) => .when (!s.regionBusy r) (cmdDone stOK)
  | _ => .skip
/-- A hart of world `world` writes SHU_QP_CMD with an operation: ignored while BUSY = 1 (R287). -/
def qpCmd (world : Bool) (op id : Nat) (body : State → Act) : Act := .read fun s =>
  if world ≠ s.blockWorld 7 ∨ s.bit SHU_QP_CMD SHU_QP_CMD_BUSY then .skip
  else .seq (setFs SHU_QP_CMD [(SHU_QP_CMD_OP, op), (SHU_QP_CMD_ID, id)]) (body s)

/-- A queue pair as its descriptor gives it (Table 10.3). -/
def qpOfDesc (l : List Byte) : Qp :=
  let g := cardField l
  { ud := g 0 1 == 1, port := g 1 1, func := g 2 2, slot := g 4 2, pkey := g 6 2, qkey := g 8 4, dqpn := g 0x0C 4
    sqBase := g 0x10 8, rqBase := g 0x18 8, cqBase := g 0x20 8, sqLog := g 0x28 1, rqLog := g 0x29 1, cqLog := g 0x2A 1
    vec := g 0x2B 1, pmtu := g 0x2C 1, tmo := g 0x2D 1, retry := g 0x2E 1 % 8, rnrRetry := g 0x2E 1 / 16 % 8
    rnrTmr := g 0x2F 1, sqPsn := g 0x30 4, una := g 0x30 4, rqPsn := g 0x34 4, maxRd := g 0x38 1, rdResp := g 0x39 1
    maxSq := g 0x3A 2, dscp := g 0x3C 1, prio := g 0x3D 1, vlan := g 0x3E 2, sip := g 0x40 16, dip := g 0x50 16
    dmac := g 0x60 6, sport := g 0x66 2, ackFreq := g 0x68 1 }
/-- Are the fields of a descriptor in range (Table 10.5)? -/
def State.descFieldsOk (s : State) (l : List Byte) : Bool :=
  let x := qpOfDesc l
  let lg := fun v hi => decide (4 ≤ v) && decide (v ≤ hi)
  decide (cardField l 0 1 ≤ 1) && decide (x.port < modePorts s.shuMode) && decide (1 ≤ x.func) && decide (x.func ≤ 8192) &&
  decide (x.slot < 1024) && (x.ud || decide (x.dqpn < 2 ^ 24)) && lg x.sqLog 12 && lg x.rqLog 12 && lg x.cqLog 13 &&
  decide (1 ≤ x.pmtu) && decide (x.pmtu ≤ 5) && (x.ud || (decide (1 ≤ x.tmo) && decide (x.tmo ≤ 24))) &&
  (cardField l 0x2E 1 &&& 0x88 == 0) && decide (x.rnrTmr < 32) && decide (x.sqPsn < 2 ^ 24) && decide (x.rqPsn < 2 ^ 24) &&
  decide (1 ≤ x.maxRd) && decide (x.maxRd ≤ 16) && decide (1 ≤ x.rdResp) && decide (x.rdResp ≤ 16) &&
  decide (1 ≤ x.maxSq) && decide (x.maxSq ≤ 1024) && decide (x.dscp < 64) && decide (x.prio < 8) &&
  (x.vlan &&& 0x7000 == 0) && decide (1 ≤ x.ackFreq) && decide (x.ackFreq ≤ 64) && cardZero l 0x69 23 &&
  x.sqBase % 4096 == 0 && x.rqBase % 4096 == 0 && x.cqBase % 4096 == 0 &&
  decide (x.vec < s.get (LOOM_FSTAT x.func) LOOM_FSTAT_NV) &&
  !s.shu.qp.any fun p => p.2.func == x.func && p.2.slot == x.slot
/-- The first check of Table 10.5 that fails; what an unreadable descriptor holds cannot be checked, so its failure comes
second. -/
def State.createQpFail (s : State) (world : Bool) (q a : Nat) : Option Nat :=
  let l := s.rd a 128
  let x := qpOfDesc l
  if q = 0 ∨ 131071 < q ∨ (s.qp q).isSome then some stBADSTATE
  else if a % 64 ≠ 0 then some stBADPARAM
  else if !s.dramOk world a 128 || s.rdPoison a 128 then some stFAULT
  else if !s.descFieldsOk l then some stBADPARAM
  else if s.fstate x.func = 0 ∨ s.funcWorld x.func ≠ s.blockWorld 7 then some stNOTPERM
  else if s.get SHU_XP_STAT SHU_XP_STAT_SLOTS_FREE < x.maxSq + x.rdResp then some stNORES
  else none
/-- The operation QP_CREATE (R288). -/
def qpCreate (world : Bool) (qpn : Nat) : Act :=
  qpCmd world 1 qpn fun s =>
    let a := (s.reg SHU_QP_ARG).toNat
    match s.createQpFail world qpn a with
    | some st => cmdDone st
    | none => .all [
        .shu fun t => { t with qp := Tab.put t.qp qpn { qpOfDesc (s.rd a 128) with rateAt := s.clk.time } },
        .read fun s => withQp qpn fun _ x => .all [
          resetReg (SHU_SQ_TAIL x.func x.slot), resetReg (SHU_RQ_TAIL x.func x.slot), resetReg (SHU_CQ_HEAD x.func x.slot),
          .when (decide (s.shu.cached.length < 4096)) (.shu fun t => { t with cached := qpn :: t.cached }) ],
        qpStat qpn, cmdDone stOK ]
/-- QP_CREATE. -/
def execQpCreate (world : Bool) (qpn : Nat) (s : State) : Out := commit (qpCreate world qpn) s
/-- The operation QP_ERROR (R289). -/
def qpErrorCmd (world : Bool) (qpn : Nat) : Act :=
  qpCmd world 2 qpn fun s => match s.qp qpn with
    | some _ => .seq (qpError qpn 1) (cmdDone stOK)
    | none => cmdDone stBADSTATE
/-- QP_ERROR. -/
def execQpError (world : Bool) (qpn : Nat) (s : State) : Out := commit (qpErrorCmd world qpn) s
/-- The operation QP_DESTROY (R287): the operations in flight end first. -/
def qpDestroy (world : Bool) (qpn : Nat) : Act :=
  qpCmd world 3 qpn fun s => match s.qp qpn with
    | none => cmdDone stBADSTATE
    | some _ => .all [
        modQp qpn fun y => { y with st := 3, msg := none },
        qpStat qpn,
        setF SHU_QP_CMD SHU_QP_CMD_BUSY 1,
        .shu fun t => { t with busy := some (3, qpn) },
        cmdSettle ]
/-- QP_DESTROY. -/
def execQpDestroy (world : Bool) (qpn : Nat) (s : State) : Out := commit (qpDestroy world qpn) s

/-- The address of region entry `r`. -/
def State.regionAt (s : State) (r : Nat) : Nat := s.get SHU_MR_BASE SHU_MR_BASE_BASE * 2 ^ 21 + 32 * r
/-- The check of REG on an entry (R288, Table 10.4). -/
def State.regFail (s : State) (world : Bool) (a : Nat) : Option Nat :=
  let l := s.rd a 32
  let f := cardField l 0x10 2
  let len := cardField l 8 8
  if !s.dramOk world a 32 || s.rdPoison a 32 then some stFAULT
  else if !cardZero l 0x15 11 ∨ 3 < cardField l 0x14 1 ∨ len = 0 ∨ 2 ^ 48 < len ∨ 8192 < f ∨ s.fstate f = 0 then some stBADPARAM
  else if s.funcWorld f ≠ s.blockWorld 7 then some stNOTPERM
  else none
/-- The operation MR_REG (R287). -/
def mrReg (world : Bool) (region : Nat) : Act :=
  qpCmd world 4 region fun s =>
    let a := (s.reg SHU_QP_ARG).toNat
    let r := region % 65536
    match s.regFail world a with
    | some st => cmdDone st
    | none => .all [
        wrCoh (s.regionAt r) (s.rd a 32) false,
        .shu fun t => { t with region := insertNat t.region r },
        cmdDone stOK ]
/-- MR_REG. -/
def execMrReg (world : Bool) (region : Nat) (s : State) : Out := commit (mrReg world region) s
/-- The operation MR_DEREG (R287). -/
def mrDereg (world : Bool) (region : Nat) : Act :=
  qpCmd world 5 region fun _ => .all [
    setF SHU_QP_CMD SHU_QP_CMD_BUSY 1,
    .shu fun t => { t with region := eraseNat t.region (region % 65536), busy := some (5, region % 65536) },
    cmdSettle ]
/-- MR_DEREG. -/
def execMrDereg (world : Bool) (region : Nat) (s : State) : Out := commit (mrDereg world region) s

/-! ### Doorbells (R291) -/

/-- The queue pair in a slot of a function. -/
def State.slotQp (s : State) (f slot : Nat) : Option (Nat × Qp) := s.shu.qp.find? fun p => p.2.func == f && p.2.slot == slot
/-- A doorbell write: an INDEX out of range puts the queue pair in ERROR; a FREE function records nothing. -/
def doorbellWrite (f slot a : Nat) (lg : Qp → Nat) (v : W64) (set : Qp → Qp) : Act := .read fun s =>
  match s.slotQp f slot with
  | none => .skip
  | some (q, x) =>
    if s.fstate f = 0 then .skip
    else if 2 ^ lg x ≤ SHU_SQ_TAIL_INDEX.get v then .seq (qpError q 2) cmdSettle
    else .all [.reg a v, modQp q set, .when (x.st == 2) (qpFlush q)]
/-- A write of SHU_SQ_TAIL (R291); ARM reads 0 here. -/
def shuSqTail (func slot : Nat) (value : W64) : Act :=
  doorbellWrite func slot (SHU_SQ_TAIL func slot) (·.sqLog) (SHU_SQ_TAIL_ARM.put value 0)
    fun y => { y with sqTail := SHU_SQ_TAIL_INDEX.get value }
/-- SHU_SQ_TAIL_WRITE (R291). -/
def execShuSqTailWrite (func slot : Nat) (value : W64) (s : State) : Out := commit (shuSqTail func slot value) s
/-- A write of SHU_RQ_TAIL (R291). -/
def shuRqTail (func slot : Nat) (value : W64) : Act :=
  doorbellWrite func slot (SHU_RQ_TAIL func slot) (·.rqLog) (SHU_RQ_TAIL_ARM.put value 0)
    fun y => { y with rqTail := SHU_RQ_TAIL_INDEX.get value }
/-- SHU_RQ_TAIL_WRITE (R291). -/
def execShuRqTailWrite (func slot : Nat) (value : W64) (s : State) : Out := commit (shuRqTail func slot value) s
/-- A write of SHU_CQ_HEAD (R291): ARM asks for a signal at the next completion. -/
def shuCqHead (func slot : Nat) (value : W64) : Act :=
  doorbellWrite func slot (SHU_CQ_HEAD func slot) (·.cqLog) value
    fun y => { y with cqHead := SHU_CQ_HEAD_INDEX.get value, arm := SHU_CQ_HEAD_ARM.get value == 1 }
/-- SHU_CQ_HEAD_WRITE (R291). -/
def execShuCqHeadWrite (func slot : Nat) (value : W64) (s : State) : Out := commit (shuCqHead func slot value) s

/-! ### Packets out -/

/-- A packet with the addresses of a context. -/
def Qp.pkt (x : Qp) (q op psn : Nat) : RocePkt :=
  { qpn := q, dqpn := x.dqpn, opcode := op, psn := psn % 2 ^ 24, pkey := x.pkey, sip := x.sip, dip := x.dip, dmac := x.dmac
    sport := x.sport, dscp := x.dscp, vlan := x.vlan }
/-- Hand a packet to the port of its queue pair. -/
def sendPkt (x : Qp) (k : RocePkt) : Act := txPut x.port { body := .roce k, prio := x.prio }
/-- Send an acknowledge packet. -/
def sendAck (q psn : Nat) (a : AckKind) : Act := withQp q fun _ x =>
  sendPkt x { x.pkt q 0x11 psn with ack := some (a, x.msn) }
/-- Acknowledge everything received so far (R298). -/
def ackNow (q : Nat) : Act := withQp q fun _ x => .seq (sendAck q (x.rqPsn + 2 ^ 24 - 1) .ack)
  (modQp q fun y => { y with unacked := 0 })
/-- An in-order request packet has been served: every ACK_FREQ packets are acknowledged. -/
def served (q : Nat) : Act := withQp q fun s x =>
  if x.ackFreq ≤ x.unacked + 1 then ackNow q
  else modQp q fun y => { y with unacked := y.unacked + 1, unackedAt := if y.unacked = 0 then s.clk.time else y.unackedAt }

/-- Fields of a send entry (Table 10.8). -/
def wqeOp (e : Line) : Nat := entField e 0 1
def wqeFlags (e : Line) : Nat := entField e 1 1
def wqeWrId (e : Line) : Nat := entField e 4 4
def wqeLen (e : Line) : Nat := entField e 8 4
def wqeImm (e : Line) : Nat := entField e 0x0C 4
def wqeLaddr (e : Line) : Nat := entField e 0x10 8
def wqeRaddr (e : Line) : Nat := entField e 0x18 8
def wqeRkey (e : Line) : Nat := entField e 0x20 4
/-- Packets of a message. -/
def msgPackets (len mtu : Nat) : Nat := max 1 ((len + mtu - 1) / mtu)
/-- Opcode of packet `i` of `n` of a SEND or WRITE. -/
def msgOpcode (write imm : Bool) (i n : Nat) : Nat :=
  (if write then 6 else 0) +
    (if n = 1 then 4 + (if imm then 1 else 0) else if i = 0 then 0 else if i + 1 < n then 1 else 2 + (if imm then 1 else 0))
/-- Packet `i` of an RC work request with its payload; a READ is one request for what has not come yet. -/
def Qp.wrPkt (x : Qp) (q : Nat) (w : SendWr) (i : Nat) (pl : List Byte) : RocePkt :=
  let e := w.ent
  let n := msgPackets (wqeLen e) x.mtu
  let write := wqeOp e == 2 || wqeOp e == 3
  let imm := wqeOp e == 1 || wqeOp e == 3
  let last := i + 1 == n
  if wqeOp e = 4 then
    { x.pkt q 0x0C (w.first + w.got / x.mtu) with reth := some (wqeRaddr e + w.got, wqeRkey e, wqeLen e - w.got) }
  else { x.pkt q (msgOpcode write imm i n) (w.first + i) with
    reth := if write && i == 0 then some (wqeRaddr e, wqeRkey e, wqeLen e) else none
    imm := if imm && last then some (wqeImm e) else none
    solicited := last && (wqeFlags e).testBit 2, payload := pl }
/-- A work request ends with a status other than OK (R298): it completes, and the queue pair goes to ERROR. -/
def wrFail (q : Nat) (w : SendWr) (status cause : Nat) : Act := .read fun s => .all [
  modQp q fun y => { y with wrs := y.wrs.filter fun v => v.first != w.first },
  qpComplete q { wrId := wqeWrId w.ent, status := status, time := s.clk.time },
  qpError q cause ]
/-- Send the packets of a work request from PSN `psn` on, its data read from tenant memory before any packet leaves (R297). -/
def sendWr (q : Nat) (w : SendWr) (psn : Nat) (again : Bool) : Act := withQp q fun _ x =>
  let e := w.ent
  let n := msgPackets (wqeLen e) x.mtu
  let i0 := if psnGe psn w.first then psnDiff psn w.first else 0
  if wqeOp e = 4 then .seq (sendPkt x (x.wrPkt q w 0 [])) (.when again (bump SHU_RETX))
  else ioWith x.func (wqeLaddr e) (wqeLen e) false (wrFail q w 2 5) fun l => .read fun s =>
    if s.poisonPieces l then wrFail q w 9 5
    else
      let data := s.rdPieces l
      .seq (.each ((List.range n).drop i0) fun i => sendPkt x (x.wrPkt q w i ((data.drop (i * x.mtu)).take x.mtu)))
        (.when again (addTo SHU_RETX (n - i0)))
/-- Resend from the oldest unacknowledged PSN (R298). -/
def qpResend (q : Nat) : Act := withQp q fun s x => .seq (.each x.wrs fun w => sendWr q w x.una true)
  (modQp q fun y => { y with ackFrom := s.clk.time })

/-! ### Work requests (R290, R292) -/

/-- Does a send entry hold a valid OP and no reserved field that is not 0? -/
def wqeOk (ud : Bool) (e : Line) : Bool :=
  decide (wqeOp e ≤ (if ud then 1 else 4)) && decide (wqeFlags e < 8) && entField e 2 2 == 0 &&
  (ud || entField e 0x24 4 == 0) && entField e 0x36 10 == 0
/-- A fetched entry of an RC queue pair starts. -/
def startRc (q : Nat) (e : Line) : Act := withQp q fun s x =>
  let n := msgPackets (wqeLen e) x.mtu
  let w : SendWr := { ent := e, first := x.sqPsn, last := (x.sqPsn + n - 1) % 2 ^ 24 }
  .all [
    modQp q fun y => { y with
      sqPsn := (y.sqPsn + n) % 2 ^ 24, wrs := y.wrs ++ [w], una := if y.wrs.isEmpty then w.first else y.una
      ackFrom := if y.wrs.isEmpty then s.clk.time else y.ackFrom },
    sendWr q w w.first false ]
/-- A fetched entry of a UD queue pair is sent and done. -/
def startUd (q : Nat) (e : Line) : Act := withQp q fun _ x =>
  let w : SendWr := { ent := e, first := x.sqPsn, last := x.sqPsn }
  ioWith x.func (wqeLaddr e) (wqeLen e) false (wrFail q w 2 5) fun l => .read fun s =>
    if s.poisonPieces l then wrFail q w 9 5
    else .all [
      sendPkt x { x.pkt q (0x64 + wqeOp e) x.sqPsn with
        dqpn := entField e 0x2C 3, qkey := some (entField e 0x28 4), dip := entField e 0x18 16, dmac := entField e 0x30 6
        imm := if wqeOp e = 1 then some (wqeImm e) else none, solicited := (wqeFlags e).testBit 2, payload := s.rdPieces l },
      modQp q fun y => { y with sqPsn := (y.sqPsn + 1) % 2 ^ 24 },
      .when ((wqeFlags e).testBit 0) (qpComplete q { wrId := wqeWrId e, len := wqeLen e, time := s.clk.time }) ]
/-- QP_WORK_FETCH (R290, R292): the next send entry, unless the queue pair, its function or a FENCE holds it. -/
def execQpWorkFetch (qpn : Nat) (s : State) : Out :=
  let reads := fun (x : Qp) => (x.wrs.filter fun w => wqeOp w.ent == 4).length
  commit (match s.qp qpn with
    | none => .skip
    | some x =>
      if x.st ≠ 1 then .skip
      else if s.fstate x.func = 0 then qpError qpn 7
      else if s.fstate x.func ≠ 1 ∨ x.sqHead = x.sqTail ∨ x.maxSq ≤ x.wrs.length ∨ x.rnrUntil.isSome then .skip
      else .seq (touchCtx qpn) (withQp qpn fun _ x => if x.st ≠ 1 then .skip else
        ioWith x.func (x.sqBase + 64 * x.sqHead) 64 false (qpError qpn 3) fun l => .read fun s =>
          let e : Line := BitVec.ofNat 512 (leNat (s.rdPieces l))
          let w : SendWr := { ent := e, first := x.sqPsn, last := x.sqPsn }
          let take := modQp qpn fun y => { y with sqHead := (y.sqHead + 1) % 2 ^ y.sqLog }
          if s.poisonPieces l then qpError qpn 3
          else if wqeOk x.ud e && ((wqeFlags e).testBit 1 && reads x != 0 || wqeOp e == 4 && decide (x.maxRd ≤ reads x)) then .skip
          else .seq take
            (if !wqeOk x.ud e then wrFail qpn w 0x0A 5
             else if (if x.ud then x.mtu else 2 ^ 31) < wqeLen e then wrFail qpn w 1 5
             else if x.ud then startUd qpn e else startRc qpn e))) s

/-! ### Inbound packets (R294–R299) -/

/-- CRC-32 of IEEE 802.3. -/
def crc32 (l : List Nat) : Nat :=
  l.foldl (fun c b => (List.range 8).foldl (fun c _ => c / 2 ^^^ (if c.testBit 0 then 0xEDB88320 else 0)) (c ^^^ b)) 0xFFFFFFFF
    ^^^ 0xFFFFFFFF
/-- Replace bytes of a list by 0xFF at the offsets that a test names. -/
def maskBytes (p : Nat → Bool) (l : List Byte) : List Byte := l.zipIdx.map fun e => if p e.2 then 0xFF else e.1
/-- The invariant CRC of a packet: over 8 bytes of ones and the packet with its variant fields as ones. -/
def InPkt.icrcOk (k : InPkt) : Bool :=
  let ip := if k.v6 then
      (maskBytes (fun i => i == 1 || i == 2 || i == 3 || i == 7) k.ip).mapIdx fun i b => if i = 0 then b ||| 0x0F else b
    else maskBytes (fun i => i == 1 || i == 8 || i == 10 || i == 11) k.ip
  let n := k.pay.length - 4
  let body := maskBytes (fun i => i == 4) (k.pay.take n)
  decide (16 ≤ k.pay.length) &&
    crc32 ((List.replicate 8 255) ++ (ip ++ maskBytes (fun i => i == 6 || i == 7) k.udp ++ body).map BitVec.toNat) ==
      leNat (k.pay.drop n)
/-- BTH fields. -/
def InPkt.op (k : InPkt) : Nat := be k.pay 0 1
def InPkt.psn (k : InPkt) : Nat := be k.pay 9 3
def InPkt.dqpn (k : InPkt) : Nat := be k.pay 5 3
def InPkt.se (k : InPkt) : Bool := (be k.pay 1 1).testBit 7
/-- The payload: what follows the headers, without pad and ICRC. -/
def InPkt.data (k : InPkt) : List Byte :=
  let h := bthBytes k.op
  (k.pay.drop h).take (k.pay.length - h - 4 - be k.pay 1 1 / 16 % 4)
/-- The immediate data, the last 4 bytes of the headers. -/
def InPkt.imm (k : InPkt) : Nat := be k.pay (bthBytes k.op - 4) 4

/-- Send a CNP for a packet that came marked, at most one per 50 µs (R286). -/
def cnpFor (q : Nat) (k : InPkt) : Act := withQp q fun s x =>
  let soon : Bool := match x.cnpAt with
    | some t => decide (s.clk.time < t + 50000)
    | none => false
  if k.ecn ≠ 3 ∨ x.ud ∨ soon then .skip
  else .all [sendPkt x (x.pkt q 0x81 0), bump SHU_CNP_TX, modQp q fun y => { y with cnpAt := some s.clk.time }]
/-- The transport type of an opcode that it supports: RC, UD or a CNP. -/
def opTransport (op : Nat) : Option Bool := if op < 0x20 ∨ op = 0x81 then some false else if op / 32 = 3 then some true else none
/-- Take the oldest packet from the parser if it is of the kind, with the checks 1 to 4 of Table 10.11. -/
def inbound (kind : Nat → Bool) (body : InPkt → Nat → Act) : Act := .read fun s => match s.shu.inq with
  | [] => .skip
  | k :: r =>
    let q := k.dqpn
    if !kind k.op then .skip
    else .all [
      .shu fun t => { t with inq := r },
      if !k.icrcOk then trn 1
      else match s.qp q with
      | none => trn 2
      | some x =>
        if opTransport k.op ≠ some x.ud ∧ k.op ≠ 0x81 then trn 2
        else .seq (touchCtx q) (withQp q fun s x =>
          if x.st ≠ 1 then trn 3
          else if s.fstate x.func = 0 then .seq (qpError q 7) (trn 3)
          else if be k.pay 2 2 % 2 ^ 15 ≠ x.pkey % 2 ^ 15 then trn 4
          else .seq (cnpFor q k) (body k q)),
      cmdSettle ]
/-- Answer a request with a NAK and count it. -/
def nak (q psn code c : Nat) : Act := .seq (sendAck q psn (.nak code)) (trn c)
/-- An RC request past check 4: the function's state, the opcode, and the PSN (R290, R294). -/
def rcRequest (k : InPkt) (q : Nat) (inOrder : Act) (dup : Act) : Act := withQp q fun s x =>
  if s.fstate x.func ≠ 1 then .seq (sendAck q k.psn (.rnr x.rnrTmr)) (trn 6)
  else if 0x0C < k.op then nak q k.psn 1 7
  else if k.psn = x.rqPsn then .seq (modQp q fun y => { y with nakSent := false }) inOrder
  else if psnGe k.psn x.rqPsn then .seq (trn 9) (if x.nakSent then .skip else .seq (sendAck q x.rqPsn (.nak 0))
    (modQp q fun y => { y with nakSent := true }))
  else .seq (trn 8) dup

/-- Take the next receive entry; `k` goes on with its address, length and WR_ID. -/
def recvEntry (q : Nat) (none' bad : Act) (k : Nat → Nat → Nat → Act) : Act := withQp q fun _ x =>
  if x.rqHead = x.rqTail then none'
  else ioWith x.func (x.rqBase + 16 * x.rqHead) 16 false bad fun l => .read fun s =>
    let b := s.rdPieces l
    if s.poisonPieces l then bad
    else .seq (modQp q fun y => { y with rqHead := (y.rqHead + 1) % 2 ^ y.rqLog })
      (k (leNat (b.take 8)) (leNat ((b.drop 8).take 4)) (leNat ((b.drop 12).take 4)))
/-- An in-order packet is consumed; `msg` says that it ends its message. -/
def psnStep (q n : Nat) (msg : Bool) : Act := modQp q fun y => { y with
  rqPsn := (y.rqPsn + n) % 2 ^ 24, msn := if msg then (y.msn + 1) % 2 ^ 24 else y.msn }
/-- A receive fault (Table 10.14): the receive completes, the peer gets NAK Invalid Request, the queue pair goes to ERROR. -/
def recvFail (k : InPkt) (q wrId status : Nat) : Act := .all [
  modQp q fun y => { y with msg := none },
  qpComplete q { wrId := wrId, status := status, kind := 1, time := k.time },
  nak q k.psn 1 0, qpError q 5 ]
/-- The data of a SEND packet goes into the receive buffer. -/
def sendData (k : InPkt) (q : Nat) : Act := withQp q fun _ x => match x.msg with
  | none => .skip
  | some m =>
    let d := k.data
    let last := decide (2 ≤ k.op)
    if m.len < m.off + d.length then recvFail k q m.wrId 1
    else ioWith x.func (m.addr + m.off) d.length true (recvFail k q m.wrId 2) fun l => .all [
      wrPieces false l d,
      modQp q fun y => { y with msg := if last then none else some { m with off := m.off + d.length } },
      psnStep q 1 last,
      .when last (qpComplete q { wrId := m.wrId, len := m.off + d.length, kind := if k.op % 2 = 1 then 2 else 1
                                 imm := if k.op % 2 = 1 then k.imm else 0, solicited := k.se, time := k.time }),
      trn 0, served q ]
/-- ROCE_SEND (R294, R296): an RC SEND packet; a packet of an unsupported transport or opcode, which belongs to no other row,
is disposed of here too. -/
def execRoceSend (s : State) : Out :=
  commit (inbound (fun op => op ≤ 5 || (0x12 ≤ op && op < 0x60) || (0x80 ≤ op && op != 0x81)) fun k q =>
    rcRequest k q (withQp q fun _ x =>
      let first := k.op == 0 || k.op == 4 || k.op == 5
      let mid := match x.msg with | some m => !m.write | none => false
      if (if first then x.msg.isSome else !mid) then nak q k.psn 1 7
      else if x.mtu < k.data.length then nak q k.psn 1 10
      else if first then
        recvEntry q (.seq (sendAck q k.psn (.rnr x.rnrTmr)) (trn 12)) (.seq (qpError q 3) (trn 0)) fun a n w =>
          .seq (modQp q fun y => { y with msg := some { write := false, addr := a, len := n, wrId := w } }) (sendData k q)
      else sendData k q) (ackNow q)) s
/-- UD_SEND (R293, R296). -/
def execUdSend (s : State) : Out :=
  commit (inbound (fun op => op / 32 == 3) fun k q => withQp q fun s x =>
    let d := k.data
    let hdr := if k.v6 then (0, k.ip.take 40) else (20, k.ip.take 20)
    let fail := fun w st => .all [qpComplete q { wrId := w, status := st, kind := 1, time := k.time }, trn 0, qpError q 5]
    if be k.pay 12 4 ≠ x.qkey then trn 5
    else if s.fstate x.func ≠ 1 then trn 6
    else if k.op ≠ 0x64 ∧ k.op ≠ 0x65 then trn 7
    else if x.mtu < d.length then trn 10
    else recvEntry q (trn 12) (.seq (qpError q 3) (trn 0)) fun a n w =>
      if n < 40 + d.length then fail w 1
      else ioWith x.func a (40 + d.length) true (fail w 2) fun _ =>
        ioWith x.func (a + hdr.1) hdr.2.length true .skip fun l => .seq (wrPieces false l hdr.2)
          (ioWith x.func (a + 40) d.length true .skip fun l => .all [
            wrPieces false l d,
            qpComplete q { wrId := w, len := d.length, src := be k.pay 17 3, kind := if k.op = 0x65 then 2 else 1
                           imm := if k.op = 0x65 then k.imm else 0, solicited := k.se, time := k.time },
            trn 0 ])) s

/-- The region checks of R295; an entry that reads poisoned is invalidated (Table 10.14). -/
def regionWith (q rkey va len : Nat) (write : Bool) (bad : Act) (ok : Act) : Act := withQp q fun s x =>
  let r := rkey / 65536 % 65536
  let a := s.regionAt r
  let l := s.rd a 32
  let base := cardField l 0 8
  if !s.shu.region.contains r then bad
  else if s.rdPoison a 32 then .all [
    .shu fun t => { t with region := eraseNat t.region r },
    rasLog { sev := 2, cls := cState, block := 0x0007, synd := r }, bad ]
  else if cardField l 0x12 2 = rkey % 65536 ∧ cardField l 0x10 2 = x.func ∧ (cardField l 0x14 1).testBit (if write then 1 else 0) ∧
      base ≤ va ∧ va + len ≤ base + cardField l 8 8 then ok
  else bad
/-- Write the lines of an inbound write that lead into a landing window (R146). -/
def winWriteLines (f : Nat) (a : Nat) (b : List Byte) : Act :=
  .each (linesOf a b.length) fun l =>
    let lo := max a (l * 64)
    let d := (b.drop (lo - a)).take (min (a + b.length) (l * 64 + 64) - lo)
    winWrite lo d.length (BitVec.ofNat 512 (leNat d)) false (.engine f)
/-- Write `b` at an I/O address: every page is translated before a byte is written (R295). -/
def remoteWrite (f : Nat) (bad ok : Act) : List (Nat × Nat) → List (Nat × Nat × Bool) → List Byte → Act
  | [], got, b => .seq ((got.reverse.foldl (fun (acc : Act × List Byte) p =>
      (.seq acc.1 (if p.2.2 then winWriteLines f p.1 (acc.2.take p.2.1) else wrCoh p.1 (acc.2.take p.2.1) false), acc.2.drop p.2.1))
      (.skip, b)).1) ok
  | p :: r, got, b => .read fun s =>
    let x := s.ioXl f p.1 true
    match x.win with
    | some w => remoteWrite f bad ok r ((w, p.2, true) :: got) b
    | none => .seq (ioDone f p.1 x) (match x.pa with
      | none => bad
      | some pa => remoteWrite f bad ok r ((pa, p.2, false) :: got) b)
/-- The data of a WRITE packet goes to tenant memory; the last packet ends the message. -/
def writeData (k : InPkt) (q : Nat) (wrId : Option Nat) : Act := withQp q fun _ x => match x.msg with
  | none => .skip
  | some m =>
    let d := k.data
    let last := k.op == 8 || k.op == 9 || k.op == 10 || k.op == 11
    remoteWrite x.func (.seq (modQp q fun y => { y with msg := none }) (nak q k.psn 2 11)) (.all [
      modQp q fun y => { y with msg := if last then none else some { m with off := m.off + d.length } },
      psnStep q 1 last,
      (match wrId with
       | some w => qpComplete q { wrId := w, len := m.off + d.length, kind := 3, imm := k.imm, solicited := k.se, time := k.time }
       | none => .skip),
      trn 0, served q ]) (pagePieces (m.addr + m.off) d.length) [] d
/-- ROCE_RDMA_WRITE (R294, R295). -/
def execRoceRdmaWrite (s : State) : Out :=
  commit (inbound (fun op => 6 ≤ op && op ≤ 11) fun k q => rcRequest k q (withQp q fun _ x =>
    let first := k.op == 6 || k.op == 10 || k.op == 11
    let last := decide (8 ≤ k.op)
    let imm := k.op == 9 || k.op == 11
    let n := k.data.length
    let va := be k.pay 12 8
    let rkey := be k.pay 20 4
    let len := if first then be k.pay 24 4 else match x.msg with | some m => m.len | none => 0
    let off := if first then 0 else match x.msg with | some m => m.off | none => 0
    let mid := match x.msg with | some m => m.write | none => false
    let go := if imm then
        recvEntry q (.seq (sendAck q k.psn (.rnr x.rnrTmr)) (trn 12)) (.seq (qpError q 3) (trn 0)) fun _ _ w => writeData k q (some w)
      else writeData k q none
    if (if first then x.msg.isSome else !mid) then nak q k.psn 1 7
    else if x.mtu < n ∨ len < off + n ∨ (last && off + n != len) ∨ 2 ^ 31 < len then nak q k.psn 1 10
    else if first then regionWith q rkey va len true (nak q k.psn 2 11)
      (if imm && x.rqHead == x.rqTail then .seq (sendAck q k.psn (.rnr x.rnrTmr)) (trn 12)
       else .seq (modQp q fun y => { y with msg := some { write := true, addr := va, len := len, region := rkey / 65536 } })
        go)
    else go) (ackNow q)) s
/-- ROCE_RDMA_READ_REQUEST (R294, R295, R300): the READ joins those that wait for service; a duplicate is served again. -/
def execRoceRdmaReadRequest (s : State) : Out :=
  let serve := fun (k : InPkt) (q : Nat) (fresh : Bool) => withQp q fun _ x =>
    let va := be k.pay 12 8
    let rkey := be k.pay 20 4
    let len := be k.pay 24 4
    if fresh && x.msg.isSome then nak q k.psn 1 7
    else if 2 ^ 31 < len then (if fresh then nak q k.psn 1 10 else sendAck q k.psn (.nak 1))
    else
      let bad := if fresh then nak q k.psn 2 11 else sendAck q k.psn (.nak 2)
      regionWith q rkey va len false bad (ioWith x.func va len false bad fun _ => .all [
        modQp q fun y => { y with reads := y.reads ++ [{ psn := k.psn, va := va, left := len, region := rkey / 65536 }] },
        .when fresh (.seq (psnStep q (msgPackets len x.mtu) true) (trn 0)) ])
  commit (inbound (fun op => op == 0x0C) fun k q => rcRequest k q (serve k q true) (serve k q false)) s
/-- READ_RESPONSE_SEND (R297): the next response packet of the oldest READ of a queue pair, once every line of its payload has
been read; poison is answered with a NAK. -/
def execReadResponseSend (qpn : Nat) (s : State) : Out :=
  let popRead := modQp qpn fun y => { y with reads := y.reads.drop 1 }
  commit (.seq (withQp qpn fun s x => match x.reads with
    | [] => .skip
    | r :: _ =>
      let n := min x.mtu r.left
      let last := decide (r.left ≤ x.mtu)
      let op := if r.started then (if last then 0x0F else 0x0E) else if last then 0x10 else 0x0D
      if x.st = 2 then .skip
      else if s.fstate x.func = 0 then qpError qpn 7
      else ioWith x.func r.va n false (.seq popRead (sendAck qpn r.psn (.nak 2))) fun l => .read fun s =>
        if s.poisonPieces l then .all [
          popRead, sendAck qpn r.psn (.nak 3),
          rasLog { sev := 1, cls := cPoison, block := 0x0007, tenant := x.func, world := s.funcWorld x.func, synd := qpn } ]
        else .all [
          sendPkt x { x.pkt qpn op r.psn with payload := s.rdPieces l, ack := if op = 0x0E then none else some (.ack, x.msn) },
          if last then popRead else modQp qpn fun y => { y with
            reads := { r with psn := (r.psn + 1) % 2 ^ 24, va := r.va + n, left := r.left - n, started := true } :: y.reads.drop 1 } ])
    cmdSettle) s

/-! ### The initiator (R298) -/

/-- Is a work request a READ whose data has not all come? -/
def SendWr.pendingRead (w : SendWr) : Bool := wqeOp w.ent == 4 && decide (w.got < wqeLen w.ent)
/-- Complete with OK the oldest work requests that an acknowledgement up to `psn` covers. -/
def ackUpTo (q psn : Nat) : List SendWr → Act
  | [] => modQp q fun y => { y with wrs := [] }
  | w :: r => .read fun s =>
    if psnGe psn w.last && !w.pendingRead then .all [
      modQp q fun y => { y with una := (w.last + 1) % 2 ^ 24, wrs := if y.cqBad then [] else r },
      .when ((wqeFlags w.ent).testBit 0) (qpComplete q { wrId := wqeWrId w.ent, len := wqeLen w.ent, time := s.clk.time }),
      ackUpTo q psn r ]
    else modQp q fun y => { y with
      wrs := if y.cqBad then [] else w :: r
      una := if psnGe psn w.first && !w.pendingRead then (psn + 1) % 2 ^ 24 else y.una }
/-- Something was acknowledged: the timers start anew. -/
def shuProgress (q : Nat) : Act := .read fun s => modQp q fun y => { y with tries := 0, rnrTries := 0, ackFrom := s.clk.time }
/-- The oldest work request of a queue pair ends with a status. -/
def oldestFail (q status cause : Nat) : Act := withQp q fun _ x => match x.wrs with
  | w :: _ => wrFail q w status cause
  | [] => .skip
/-- ROCE_READ_RESPONSE (R294): the data of the oldest READ; earlier work requests are acknowledged by it. -/
def execRoceReadResponse (s : State) : Out :=
  commit (inbound (fun op => 0x0D ≤ op && op ≤ 0x10) fun k q => withQp q fun _ x =>
    match (x.wrs.find? fun w => w.pendingRead || (wqeOp w.ent == 4 && wqeLen w.ent == 0)) with
    | none => trn 8
    | some w =>
      let want := (w.first + w.got / x.mtu) % 2 ^ 24
      let d := k.data
      if k.psn ≠ want then trn (if psnGe k.psn want then 9 else 8)
      else if x.mtu < d.length ∨ wqeLen w.ent < w.got + d.length then trn 10
      else .all [
        ackUpTo q (w.first + 2 ^ 24 - 1) x.wrs,
        ioWith x.func (wqeLaddr w.ent + w.got) d.length true (.seq (wrFail q w 2 5) (trn 0)) fun l => .all [
          wrPieces false l d,
          shuProgress q,
          trn 0,
          let w' := { w with got := w.got + d.length }
          if w'.got < wqeLen w.ent then modQp q fun y => { y with
            una := (k.psn + 1) % 2 ^ 24, wrs := y.wrs.map fun v => if v.first = w.first then w' else v }
          else .all [
            modQp q fun y => { y with
              una := (w.last + 1) % 2 ^ 24, wrs := y.wrs.filter fun v => v.first != w.first },
            .when ((wqeFlags w.ent).testBit 0) (qpComplete q { wrId := wqeWrId w.ent, len := wqeLen w.ent, time := k.time }) ] ] ]) s
/-- Nanoseconds of an RNR timer code. -/
def rnrNs (code : Nat) : Nat :=
  10000 * (([65536, 1, 2, 3, 4, 6, 8, 12, 16, 24, 32, 48, 64, 96, 128, 192, 256, 384, 512, 768, 1024, 1536, 2048, 3072,
    4096, 6144, 8192, 12288, 16384, 24576, 32768, 49152] : List Nat)[code % 32]?).getD 1
/-- ROCE_ACKNOWLEDGE (R298): ACK, RNR NAK or NAK. -/
def execRoceAcknowledge (s : State) : Out :=
  commit (inbound (fun op => op == 0x11) fun k q => withQp q fun s x =>
    let syn := be k.pay 12 1
    let before := (k.psn + 2 ^ 24 - 1) % 2 ^ 24
    if x.wrs.isEmpty || !psnGe k.psn x.una then trn 8
    else if psnGe k.psn x.sqPsn then trn 9
    else match syn / 32 % 4 with
    | 0 => .all [ackUpTo q k.psn x.wrs, shuProgress q, trn 0]
    | 1 => .all [
        ackUpTo q before x.wrs, trn 0,
        if x.rnrRetry ≠ 7 ∧ x.rnrRetry ≤ x.rnrTries then oldestFail q 7 4
        else modQp q fun y => { y with rnrTries := y.rnrTries + 1, rnrUntil := some (s.clk.time + rnrNs syn) } ]
    | 3 => .all [
        ackUpTo q before x.wrs, trn 0,
        (match syn % 32 with
         | 0 => qpResend q
         | 1 => oldestFail q 4 5
         | 2 => oldestFail q 3 5
         | 3 => oldestFail q 5 5
         | _ => .skip) ]
    | _ => trn 7) s
/-- ROCE_CNP (R286): halve the limit, to no less than 1 % of the port rate. -/
def execRoceCnp (s : State) : Out :=
  commit (inbound (fun op => op == 0x81) fun _ q => withQp q fun s x => .seq (trn 13)
    (if x.ud then .skip else modQp q fun y => { y with rate := max (y.rate / 2) (2 ^ 40), rateAt := s.clk.time })) s
/-- CNP_RATE_INCREASE (R286). -/
def execCnpRateIncrease (qpn : Nat) (s : State) : Out :=
  commit (withQp qpn fun _ x => if x.ud ∨ 100 * 2 ^ 40 ≤ x.rate then .skip else .seq (advanceTo (x.rateAt + 50000))
    (.read fun s => modQp qpn fun y => { y with rate := min (100 * 2 ^ 40) (y.rate + 100 * 2 ^ 40 / 16), rateAt := s.clk.time })) s
/-- ACK_TIMEOUT (R298). -/
def execAckTimeout (qpn : Nat) (s : State) : Out :=
  commit (.seq (withQp qpn fun _ x => if x.st = 2 ∨ x.wrs.isEmpty ∨ x.rnrUntil.isSome then .skip else .all [
    advanceTo (x.ackFrom + 4096 * 2 ^ x.tmo),
    if x.retry ≤ x.tries then oldestFail qpn 6 4
    else .seq (modQp qpn fun y => { y with tries := y.tries + 1 }) (qpResend qpn) ]) cmdSettle) s
/-- RNR_TIMER_EXPIRY (R298). -/
def execRnrTimerExpiry (qpn : Nat) (s : State) : Out :=
  commit (withQp qpn fun _ x => match x.rnrUntil with
    | none => .skip
    | some t => .all [advanceTo t, modQp qpn fun y => { y with rnrUntil := none }, qpResend qpn]) s
/-- RESPONDER_ACK_TIMER (R298): no later than 1 µs after the oldest packet that is not acknowledged. -/
def execResponderAckTimer (qpn : Nat) (s : State) : Out :=
  commit (withQp qpn fun _ x => if x.unacked = 0 then .skip else ackNow qpn) s

end Sys2Proof.Machine
end

