-- ==== Sys2Proof/Machine/Debug.lean ====
section
/-! DEFINITION. The debug module (R588, R589): halt and resume requests. Abstract commands and system bus accesses reach
memory and registers, so they stand with the other accesses in Access.lean. A program buffer runs as the commands that
follow an abstract command with postexec, until EBREAK or an exception ends it. -/

namespace Sys2Proof.Machine

/-- Can a halt request for hart `h` take effect at once (R481, R589): its tile is in Run, it has been released and stands
at an instruction boundary, and it runs in a permitted world? -/
def State.canHalt (s : State) (h : Nat) : Bool :=
  let t := s.hart h
  t.released && !t.lost && !t.wopen && t.io.isNone && !(s.hdbg h).halted && s.debugOk h &&
    (match s.hartNode h with | some n => s.tstate n == tsRun | none => false)

/-- A halt request for a hart (R588, R589, R481): it halts with cause 3, or the request is held. -/
def haltHart (hart : Nat) : Act := .read fun s =>
  let t := s.hart hart
  let pc := match t.lq with | e :: _ => e.pc | [] => t.pc
  if (s.hdbg hart).halted then .skip
  else if s.canHalt hart then enterDebug hart 3 pc
  else modHdbg hart fun d => { d with haltReq := true }
/-- DM_HALT_REQUEST (R588). -/
def execDmHaltRequest (hart : Nat) (s : State) : Out := commit (haltHart hart) s

/-- A halted hart goes on at dpc in the mode that dcsr holds (R588); MPRV is cleared below M-mode (debug 1.0). -/
def resumeHart (hart : Nat) : Act := .read fun s =>
  let d := s.hdbg hart
  let p := d.dcsr % 4
  if !d.halted || d.prog then .skip else .all [
    modHdbg hart fun x => { x with halted := false, haltReq := false, resumeAck := true },
    modHart hart fun t =>
      let u := if p < 3 then t.setC 0x300 [(17, 1, 0)] else t
      { u with priv := p, virt := d.dcsr.testBit 5 && p != 3, pc := d.dpc, wfi := false }.retag ]
/-- DM_RESUME (R588). -/
def execDmResume (hart : Nat) (s : State) : Out := commit (resumeHart hart) s

end Sys2Proof.Machine
end

