-- ==== Sys2Proof/Machine/Fill.lean ====
section
/-! DEFINITION. Sections 4.5 to 4.7 at the requester: how a tile's port and the window controller take the answers to their
requests (R106–R111, R119–R121, R125). -/

namespace Sys2Proof.Machine

/-- The outstanding request that a message answers. -/
def State.reqFor (s : State) (f : Flit) : Option ReqOut :=
  s.coh.reqs.find? fun q => q.req == f.req && q.flit.line == f.line && q.flit.txn % 2048 == f.txn % 2048
/-- Is it the same request? -/
def ReqOut.same (a b : ReqOut) : Bool :=
  a.req == b.req && a.flit.line == b.flit.line && a.flit.txn % 2048 == b.flit.txn % 2048
/-- Change an outstanding request. -/
def modReq (q : ReqOut) (g : ReqOut → ReqOut) : Act := .coh fun c =>
  { c with reqs := c.reqs.map fun x => if x.same q then g x else x }

/-- Send a request again, with TXN[11] = 1 under a ticket (R118, R119). -/
def resend (q : ReqOut) (ticket : Bool) : Act := .read fun s => .all [
  modReq q fun x => { x with nacked := false, holder := false, since := s.clk.time },
  send (reqNode q.req) { q.flit with dest := q.home, txn := q.flit.txn % 2048 + if ticket then 2048 else 0 } ]

/-- A requester's NACKed requests to a home go again, in the order of their issue, once it holds no ticket there (R119). -/
def retryNacked (r home : Nat) : Act := .read fun s =>
  let mine := s.coh.reqs.filter fun q => q.req == r && q.home == home && q.nacked
  if mine.any (·.holder) then .skip else .each mine fun q => resend q false

/-- A request is complete. -/
def closeReq (q : ReqOut) : Act := .seq
  (.coh fun c => { c with reqs := c.reqs.filter fun x => !x.same q }) (retryNacked q.req q.home)

/-- The hart of a tile goes on with its loads. -/
def hartPump (n : Nat) : Act := .read fun s => match s.nodeHart n with | some h => loadPump h | none => .skip
/-- The head of the hart's store queue, sent to the home, is done. -/
def sqDone (n line : Nat) : Act := .read fun s => match s.nodeHart n with
  | none => .skip
  | some h => modHart h fun t => match t.sq with
    | e :: r => if e.sent && e.pa / 64 == line then { t with sq := r } else t
    | [] => t

/-- A line arrives at a tile that keeps it: L2 takes it, and the L1 array of the demand. -/
def takeLine (n : Nat) (q : ReqOut) (st : Moesi) (d : Line) (p : Bool) : Act := .all [
  fillL2 n q.flit.line st d p (q.why == .prefetch),
  (match q.why with
   | .fetch => fillL1 n q.flit.line true
   | .load | .store | .amo | .zero => fillL1 n q.flit.line false
   | _ => .skip),
  evictInDrain n q.flit.line ]

/-- A copy that is not kept goes to what waits for it. -/
def takeCopy (n : Nat) (q : ReqOut) (d : Line) (p : Bool) : Act := .read fun s =>
  match s.nodeHart n with
  | none => .skip
  | some h =>
    let t := s.hart h
    match q.why with
    | .batten => modHart h fun u => { u with btnSrc := some (q.flit.line, d, p) }
    | .fetch =>
      if p then .all [poisonUse h (q.flit.line * 64), takeTrap h { cause := 1, tval := t.pc } t.pc]
      else match s.xlate h t.fetchAcc t.pc with
        | .ok (x, _) => modHart h fun u => { u with fbuf := some (x.pa / 16) }
        | .error _ => .skip
    | _ => .seq (modHart h fun u => { u with lq := u.lq.map fun e =>
        if (e.pa / 64 == q.flit.line || e.pa2 / 64 == q.flit.line) && e.val.isNone then
          { e with got := e.got ++ [(q.flit.line, d, p)] } else e }) (loadPump h)

/-- COMP closes a request (R108, Table 4.3). -/
def reqDone (n : Nat) (q : ReqOut) : Act := .read fun s =>
  let l := q.flit.line
  .all [
    (match q.why with
     | .evict => .coh fun c => { c with evbuf := Tab.drop c.evbuf (lineKey n l) }
     | .zero => takeLine n q .m 0 false
     | .stream | .clean | .flush => sqDone n l
     | .window => winAnswered q true
     | .batten => macDone n l q.home true
     | _ => match s.l2 n l with
       | some _ => modL2 n l fun x => { x with st := .m }
       | none => .skip),
    closeReq q, hartPump n ]

/-- The record of a request that failed (R125). -/
def failRecord (q : ReqOut) : Act :=
  rasLog { sev := 2, cls := cTimeout, block := 0x100 + q.home, bank := some (0x100 + reqNode q.req),
           addr := some (q.flit.line * 64), world := q.flit.world, tenant := q.flit.tenant }

/-- A request completes as failed (R125): a tile fills the line poisoned in the state it asked for. -/
def reqFailed (q : ReqOut) : Act :=
  let n := reqNode q.req
  let l := q.flit.line
  .all [
    (match q.why with
     | .batten => if q.flit.cls = clsBTN then macDone n l q.home false else .seq (failRecord q) (takeCopy n q 0 true)
     | .window => .seq (failRecord q) (winAnswered q false)
     | .prefetch => .skip
     | .evict => .seq (failRecord q) (.coh fun c => { c with evbuf := Tab.drop c.evbuf (lineKey n l) })
     | .stream | .clean | .flush => .seq (failRecord q) (sqDone n l)
     | _ => .seq (failRecord q) (
        if q.flit.opcode = opRdOnce then takeCopy n q 0 true
        else takeLine n q (if q.flit.opcode = opRdShared then .s else .m) 0 true)),
    closeReq q, hartPump n ]

/-- A message of a requester's answer: taken from the node's inbox, then matched to its request. -/
def answerAt (n : Nat) (f : Flit) (k : ReqOut → Act) : Act := .seq (takeInbox n f) (.read fun s =>
  match s.reqFor f with
  | some q => if reqNode q.req = n then k q else .skip
  | none => .skip)

/-- NACK_Q (R119): the request is its requester's ticket holder at that home and waits for GRANT; one that came early is
matched now (Table 4.5). -/
def execNackQ (node : Nat) (f : Flit) (s : State) : Out :=
  commit (answerAt node f fun q => .read fun s =>
    let early := s.coh.earlyGrant.find? fun g => g.1 == q.req && g.2.1 == q.home && g.2.2.1 == q.flit.line &&
      decide (s.clk.time ≤ g.2.2.2 + s.get DIR_CFG DIR_CFG_GRANT_TMO * 100000)
    match early with
    | some g => .seq (.coh fun c => { c with earlyGrant := c.earlyGrant.erase g }) (resend q true)
    | none => modReq q fun x => { x with nacked := true, holder := true, since := s.clk.time }) s
/-- NACK (R119): the request waits until its requester's ticket holder at that home has been admitted. -/
def execNack (node : Nat) (f : Flit) (s : State) : Out :=
  commit (answerAt node f fun q => .all [
    modReq q fun x => { x with nacked := true, holder := false }, retryNacked q.req q.home ]) s
/-- GRANT (R119): the ticket holder retries with TXN[11] set. -/
def execGrant (node : Nat) (f : Flit) (s : State) : Out :=
  commit (answerAt node f fun q => .read fun s =>
    if q.nacked ∧ q.holder then resend q true
    else if q.nacked then .skip
    else .coh fun c => { c with earlyGrant := c.earlyGrant ++ [(q.req, q.home, q.flit.line, s.clk.time)] }) s

/-- Is the message a memory controller's answer to a home? -/
def fromMc (f : Flit) : Bool := nodeKind f.src == 1

/-- COMP (R108): at a home, a controller's answer to a MEM_WR; else the request of the requester is done. -/
def execComp (node : Nat) (f : Flit) (s : State) : Out :=
  commit (if fromMc f then .seq (takeInbox node f) (memAnswered node { f with opcode := opComp })
    else answerAt node f (reqDone node)) s
/-- FENCED (R64, R110): the map is read again and the request sent once more; a second FENCED fails it (R125). -/
def execFenced (node : Nat) (f : Flit) (s : State) : Out :=
  commit (answerAt node f fun q => .read fun s =>
    if q.retried then reqFailed q
    else
      let home := s.homeOf q.flit.line
      .all [modReq q fun x => { x with retried := true, home := home },
        resend { q with home := home } false ]) s
/-- WB_GO (R115): the tile sends the data of its eviction. -/
def execWbGo (node : Nat) (f : Flit) (s : State) : Out :=
  commit (answerAt node f fun q => .read fun s =>
    match Tab.find s.coh.evbuf (lineKey node q.flit.line) with
    | some b => send node { answerTo f clsDAT opWbData with
        dest := f.src, req := q.req, line := q.flit.line, data := b.data, poison := b.poison, hasData := true }
    | none => .skip) s
/-- FAULT (R110, R125): the request completes as failed; at a home, a controller's refusal. -/
def execFaultMsg (node : Nat) (f : Flit) (s : State) : Out :=
  commit (if fromMc f ∧ (s.reqFor f).isNone then .seq (takeInbox node f) (memAnswered node { f with opcode := opFault })
    else answerAt node f reqFailed) s

/-- The COMP_ACK of a read (R108). -/
def compAck (n : Nat) (q : ReqOut) : Act :=
  send n { answerTo q.flit clsRSP opCompAck with dest := q.home, txn := q.flit.txn % 2048 }
/-- Data that a requester keeps in state `st`. -/
def dataAt (n : Nat) (f : Flit) (st : Moesi) : Act := answerAt n f fun q => .all [
  takeLine n q st f.data f.poison, compAck n q, closeReq q, hartPump n ]
/-- DATA_S. -/
def execDataS (node : Nat) (f : Flit) (s : State) : Out := commit (dataAt node f .s) s
/-- DATA_E. -/
def execDataE (node : Nat) (f : Flit) (s : State) : Out := commit (dataAt node f .e) s
/-- DATA_M. -/
def execDataM (node : Nat) (f : Flit) (s : State) : Out := commit (dataAt node f .m) s
/-- DATA_ONCE: data that is not kept. -/
def execDataOnce (node : Nat) (f : Flit) (s : State) : Out :=
  commit (answerAt node f fun q => .all [compAck node q, closeReq q, takeCopy node q f.data f.poison]) s

/-- ACK (R134, R146): a batten buffer is freed, or the window controller counts the flit. -/
def execAck (node : Nat) (f : Flit) (s : State) : Out :=
  commit (answerAt node f fun q => .seq (match q.why with
    | .window => winAnswered q true
    | .batten => macDone node q.flit.line q.home true
    | _ => .skip) (closeReq q)) s

/-- GRANT_WAIT_TIMEOUT (R120): no GRANT within GRANT_TMO; the request goes again without a ticket. -/
def execGrantWaitTimeout (req line : Nat) (s : State) : Out :=
  commit (match s.coh.reqs.find? (fun q => q.req == req && q.flit.line == line && q.nacked && q.holder) with
    | none => .skip
    | some q => .all [
        advanceTo (q.since + s.get DIR_CFG DIR_CFG_GRANT_TMO * 100000),
        bump (DIR_GRANT_LOST (reqNode req)), resend q false ]) s
/-- REQUESTER_TIMEOUT (R125): no answer within 2 × HOME_TMO; the request completes as failed. -/
def execRequesterTimeout (req line : Nat) (s : State) : Out :=
  commit (match s.coh.reqs.find? (fun q => q.req == req && q.flit.line == line && !q.nacked) with
    | none => .skip
    | some q => .all [
        advanceTo (q.since + 2 * s.get DIR_CFG DIR_CFG_HOME_TMO * 1000), reqFailed q ]) s

end Sys2Proof.Machine
end

