-- ==== Sys2Proof/Machine/Tile.lean ====
section
/-! DEFINITION. The tile cards (R60–R62, R494, R557–R561): drain, fence, power, test, restore and sparing of a node. -/

namespace Sys2Proof.Machine

/-- World of the tile cards' owner: the mesh block (Table 17.8). -/
def tileOwner (s : State) : Owner := .is (s.blockWorld 0x20)
/-- The opcodes that hold a node while they are open. -/
def tileOps : List Nat := [0x0201, 0x0202, 0x0203, 0x0204, 0x0206]
/-- Is an operation open on node `n`: a tile card's, or a sparing of it or to it (R454, R559)? -/
def State.tileBusy (s : State) (n : Nat) : Bool :=
  s.opOpen (0x0205 :: tileOps) n ||
    (s.dby.openOps.any fun o => o.opcode == 0x0205 && Tab.find s.dby.spares o.obj == some n)

/-- Transactions of node `n`'s domain that are not complete (Table 2.8): the requests of its requesters, the transactions
of its home, and the map entries that are leaving it. -/
def State.outstanding (s : State) (n : Nat) : Nat :=
  (s.coh.reqs.filter fun q => reqNode q.req == n).length + (s.coh.tx.filter fun p => keyNode p.1 == n).length +
    (s.cache.mapMove.filter fun p => LLC_MAP_NODE.get p.2.old == n).length +
    (if nodeKind n = 1 then (Tab.getD s.mesh.inbox n []).length else 0)

/-- A tile card behind its gates: the node must exist, and no operation may be open on it. -/
def tileCard (c : CardCtx) (op node : Nat) (body : State → Act) : Act :=
  gated c op false tileOwner fun s =>
    if 224 ≤ node then answer0 c op stBADPARAM (dOff 0x10)
    else viaStop c op (0x100 + node) (if s.tileBusy node then answerBusyFree c op else body s)

/-- REFUSED by a node, with its ID as detail and the card's TRANSITION (R62, R514). -/
def tileRefused (c : CardCtx) (op tr node : Nat) : Act := answerRefused c op (0x100 + node) tr

/-- Dobby divides a die's 2,048 memory tags among its slices in Run or Park, at most 64 each (R72). -/
def divideTags (d : Nat) : Act := .read fun s =>
  let mine := tileNodes.filter fun n => nodeDie n == d
  let live := mine.filter fun n => s.tstate n ≤ tsPark
  .all [
    .each mine fun n => setF (LLC_STAT n) LLC_STAT_MEM_TAGS 0,
    .each live.zipIdx fun p => setF (LLC_STAT p.1) LLC_STAT_MEM_TAGS
      (min 64 (2048 / live.length + if p.2 < 2048 % live.length then 1 else 0)) ]

/-! ### Drain and fence -/

/-- Steps 1 to 3 of R60: no new requests, the hart stops, L2 writes its lines back, and the map entries leave. -/
def drainNode (n : Nat) (target : Option Nat) : Act := .all [
  startDrain n,
  .read fun s => (match s.nodeHart n with | some h => parkHart h | none => .skip),
  .when (nodeKind n == 0) (divideTags (nodeDie n)),
  .read fun s => .each (s.cache.l2.filter fun p => keyNode p.1 == n) fun p => evictL2 n (keyLine p.1),
  .when (nodeKind n == 0) (moveAll n target) ]

/-- TILE_DRAIN (R60, Table 2.3): in Run or Park steps 1 to 4; in Drain step 4 again with a new timeout. -/
def execTileDrain (c : CardCtx) (node : Nat) (s : State) : Out :=
  commit (tileCard c 0x0201 node fun s =>
    if s.tstate node ≤ tsPark then accept c 0x0201 node (drainNode node none)
    else if s.tstate node = tsDrain then accept c 0x0201 node (.read fun s =>
      .mesh fun m => { m with drainStart := Tab.put m.drainStart node s.clk.time })
    else tileRefused c 0x0201 0x0101 node) s

/-- Step 5 of R60 in a sparing, after the hart's state is copied. -/
def spareFence (failed : Nat) : Act := startFence failed false

/-- Has the hart of a node stopped: no I/O access, batten operation or window open of its own? -/
def State.hartQuiet (s : State) (n : Nat) : Bool :=
  match s.nodeHart n with
  | some h => (s.hart h).io.isNone && !(s.hart h).wopen && (s.hart h).btnOut == 0
  | none => true

/-- DRAIN_COMPLETE (R60 step 4): nothing is outstanding and the injection queue is empty. A retirement or a sparing goes on
to the fence. -/
def execDrainComplete (node : Nat) (s : State) : Out :=
  let held := decide (nodeKind node = 0) && (s.cache.l2.any fun p => keyNode p.1 == node)
  let entries := decide (nodeKind node = 0) && decide (0 < s.mapCount node)
  let stores := match s.nodeHart node with | some h => !(s.hart h).sq.isEmpty | none => false
  let done := s.tstate node == tsDrain && (!s.bit (MESH_FENCE_STAT node) MESH_FENCE_STAT_DRAINED || s.opOpen [0x0201] node) &&
    decide (s.outstanding node = 0) && (s.injQueue node).isEmpty && !held && !entries &&
    !stores && s.hartQuiet node
  commit (if !done then .skip else .all [
    setFs (MESH_FENCE_STAT node) [(MESH_FENCE_STAT_DRAINED, 1), (MESH_FENCE_STAT_OUTSTANDING, 0)],
    .mesh fun m => { m with drainStart := Tab.drop m.drainStart node },
    finish 0x0201 node stOK 0xFFFF [],
    .when (nodeKind node == 1 && s.opOpen [0x0305] (nodeChannel node)) (startFence node false),
    .when (s.opOpen [0x0205] node) (spareFence node) ]) s

/-- DRAIN_TIMEOUT (R61): step 4 was not reached within DRAIN_TMO. The node stays in Drain; a retirement forces the fence
(Table 15.5); a sparing ends, and its spare stays held (R559). -/
def execDrainTimeout (node : Nat) (s : State) : Out :=
  commit (match Tab.find s.mesh.drainStart node with
    | none => .skip
    | some t0 =>
      if s.tstate node ≠ tsDrain ∨ s.bit (MESH_FENCE_STAT node) MESH_FENCE_STAT_DRAINED then .skip
      else .all [
        advanceTo (t0 + s.get MESH_CFG MESH_CFG_DRAIN_TMO * 1000000),
        setF (MESH_FENCE_STAT node) MESH_FENCE_STAT_OUTSTANDING (s.outstanding node),
        .mesh fun m => { m with drainStart := Tab.drop m.drainStart node },
        finish 0x0201 node stTIMEOUT (dBlk (0x100 + node)) [],
        .when (nodeKind node == 1 && s.opOpen [0x0305] (nodeChannel node)) (startFence node true),
        finish 0x0205 node stTIMEOUT (dBlk (0x100 + node)) [] ]) s

/-- TILE_FENCE (R60, R61, Table 2.3): without FORCE from Drain with DRAINED = 1; with FORCE from Run, Park or Drain. -/
def execTileFence (c : CardCtx) (node : Nat) (force : Bool) (s : State) : Out :=
  commit (tileCard c 0x0202 node fun s =>
    if force then
      (if s.tstate node ≤ tsDrain then accept c 0x0202 node (startFence node true) else tileRefused c 0x0202 0x0102 node)
    else if s.tstate node = tsDrain ∧ s.bit (MESH_FENCE_STAT node) MESH_FENCE_STAT_DRAINED then
      accept c 0x0202 node (startFence node false)
    else tileRefused c 0x0202 0x0102 node) s

/-- What a domain held is gone: its caches, its home's lines and entries, its buffers, and a hart's translations and
predictor. -/
def dropDomain (n : Nat) : Act := .all [
  .cache fun x => { x with
    l2 := x.l2.filter fun p => keyNode p.1 != n
    slice := x.slice.filter fun p => keyNode p.1 != n
    plruI := x.plruI.filter fun p => p.1 / 64 != n
    plruD := x.plruD.filter fun p => p.1 / 64 != n
    tagsUsed := Tab.drop x.tagsUsed n, tagWait := x.tagWait.filter (·.1 != n)
    stride := Tab.drop x.stride n, stream := Tab.drop x.stream n },
  .coh fun x => { x with
    dir := x.dir.filter fun p => keyNode p.1 != n
    tx := x.tx.filter fun p => keyNode p.1 != n
    tickets := Tab.drop x.tickets n
    reqs := x.reqs.filter fun q => reqNode q.req != n
    evbuf := x.evbuf.filter fun p => keyNode p.1 != n } ]

/-- What a tile's core keeps outside its architectural state. -/
def Hart.cleared (t : Hart) : Hart :=
  { t with sq := [], lq := [], io := none, resv := none, pred := {}, itlb := [], dtlb := [], l2tlb := [], walk := [],
           tcm := [], fbuf := none, wopen := false, btnOut := 0, btnSrc := none, btnFail := 0, pauseUntil := 0 }
/-- Forget interrupt bits of a tile. -/
def dropIrq (n : Nat) : Act := .hrn fun x => { x with tile := x.tile.filter fun p => p.1 / 16 != n }

/-- Step 6 and 7 of R559 and R560: the hart ID moves (R22), the Harness is told, and the hart runs on the spare. `lost`
says that its state went with a forced fence; the SEL_WENTRY CSRs are copied in both cases (R368). -/
def spareMove (failed spare h : Nat) (lost : Bool) : Act := .read fun s =>
  let t := s.hart h
  let kept := t.cleared
  let fresh : Hart :=
    ((((({} : Hart).wx 10 1).wx 11 (BitVec.ofNat 64 failed)).set 0x7C2 (t.c 0x7C2)).set 0x7C3 (t.c 0x7C3))
  .all [
    setF (MESH_HART_MAP h) MESH_HART_MAP_VALID 0,
    setF (nodeBase failed) MESH_NODE_INFO_HART_VALID 0,
    setFs (nodeBase spare) [(MESH_NODE_INFO_HART, h), (MESH_NODE_INFO_HART_VALID, 1), (MESH_NODE_INFO_SPARE, 0)],
    setFs (MESH_HART_MAP h) [(MESH_HART_MAP_NODE, spare), (MESH_HART_MAP_VALID, 1)],
    dropIrq failed,
    modHart h fun _ => if lost then
        { fresh with pc := s.get PWR_RESUME PWR_RESUME_ADDR * 4, released := true }
      else kept,
    setTState spare tsRun,
    hrnResend h,
    .dby fun d => { d with spares := Tab.drop d.spares failed, sparedDone := (failed, spare) :: d.sparedDone },
    finish 0x0205 failed stOK 0xFFFF (natLe 2 spare) ]

/-- A sparing with FAILED in Fenced goes on. -/
def spareGoOn (failed : Nat) : Act := .read fun s =>
  match s.opOpen [0x0205] failed, Tab.find s.dby.spares failed, s.nodeHart failed with
  | true, some k, some h => spareMove failed k h (s.bit (MESH_FENCE_STAT failed) MESH_FENCE_STAT_FORCED)
  | _, _, _ => .skip

/-- FENCE_WAIT_EXPIRY (R60 steps 6 and 7): 1,536 mesh cycles after the domain's last injection the fence is acknowledged. A
forced fence loses the hart's state (R560). The cards that waited for it reply. -/
def execFenceWaitExpiry (node : Nat) (s : State) : Out :=
  let st := MESH_FENCE_STAT node
  let waiting := s.responder node && !s.bit st MESH_FENCE_STAT_FENCED &&
    !(s.injQueue node).any fun e => e.flit.cls != clsFENCE && e.flit.cls != clsDAT
  let forced := s.bit st MESH_FENCE_STAT_FORCED
  commit (if !waiting then .skip else atMesh (Tab.getD s.mesh.lastInj node 0 + 1536) (.all [
    setF st MESH_FENCE_STAT_FENCED 1, setTState node tsFenced,
    .mesh fun m => { m with drainStart := Tab.drop m.drainStart node },
    dropDomain node,
    (match s.nodeHart node with
     | some h => modHart h fun t => { t with lost := t.lost || forced }
     | none => .skip),
    finish 0x0202 node stOK 0xFFFF [],
    .when (nodeKind node == 1) (finish 0x0305 (nodeChannel node) stOK 0xFFFF []),
    spareGoOn node ])) s

/-! ### Power, test and restore -/

/-- The hart of a node loses its state: its tile has been without power, or its arrays were zero-initialised. -/
def wipeHart (n : Nat) : Act := .read fun s => match s.nodeHart n with
  | some h => .all [modHart h fun _ => {}, modHdbg h fun _ => {}, dropIrq n]
  | none => .skip
/-- Zero-initialise every array of a domain (R494, R557). -/
def zeroInit (n : Nat) : Act := .all [
  dropDomain n, wipeHart n,
  .when (nodeKind n == 0) (.all [resetReg (DIR_STAT n), .each (List.range 4) fun k => .reg (DIR_DEAD n k) 0]) ]

/-- TILE_POWER_OFF (R62): a Fenced domain is switched off. A spare held for a failed tile is released (R559). -/
def execTilePowerOff (c : CardCtx) (node : Nat) (s : State) : Out :=
  commit (tileCard c 0x0203 node fun s =>
    if s.tstate node ≠ tsFenced then tileRefused c 0x0203 0x0103 node
    else accept c 0x0203 node (.all [
      setTState node tsOff, dropDomain node, wipeHart node,
      .dby fun d => { d with spares := d.spares.filter fun p => p.2 != node },
      finish 0x0203 node stOK 0xFFFF [] ])) s

/-- TILE_POWER_ON (R494): an Off domain is switched on, zero-initialised, and left Fenced. -/
def execTilePowerOn (c : CardCtx) (node : Nat) (s : State) : Out :=
  commit (tileCard c 0x0203 node fun s =>
    if s.tstate node ≠ tsOff then tileRefused c 0x0203 0x0104 node
    else accept c 0x0203 node (.all [
      zeroInit node, setTState node tsFenced,
      setFs (MESH_FENCE_STAT node) [(MESH_FENCE_STAT_FENCED, 1), (MESH_FENCE_STAT_RESPONDER, 1)],
      finish 0x0203 node stOK 0xFFFF [] ])) s

/-- TILE_TEST (R557, Table 2.3): a Fenced domain goes to Test. -/
def execTileTest (c : CardCtx) (node : Nat) (s : State) : Out :=
  commit (tileCard c 0x0204 node fun s =>
    if s.tstate node ≠ tsFenced then tileRefused c 0x0204 0x0105 node
    else accept c 0x0204 node (setTState node tsTest)) s

/-- The bits of RESULT that Table 21.9 gives a node of this kind. -/
def testBits (kind : Nat) : Nat := match kind with | 0 => 0x7FF | 1 => 0x70000 | _ => 0x1000000
/-- What the end of a test leaves: zeroed arrays, DIMMs zero-filled, and a record when a part failed (R557). -/
def testEnd (n result : Nat) : Act := .all [
  zeroInit n,
  .when (nodeKind n == 1) (zeroFill (nodeChannel n)),
  .when (result != 0) (rasLog { sev := 2, cls := cTest, block := 0x100 + n, synd := result }) ]

/-- TILE_TEST_DONE (R557): the tests end with `result` and the node returns to Fenced. -/
def execTileTestDone (node result : Nat) (s : State) : Out :=
  let r := result &&& testBits (nodeKind node)
  commit (if s.tstate node ≠ tsTest then .skip else .all [
    testEnd node r, setTState node tsFenced, finish 0x0204 node stOK 0xFFFF (natLe 4 r) ]) s

/-- The responder stops, ejection resumes, REQ = 0 (Table 2.3). -/
def openNode (n state : Nat) : Act := .all [
  setF (MESH_FENCE_CTL n) MESH_FENCE_CTL_REQ 0,
  .reg (MESH_FENCE_STAT n) 0,
  .mesh fun m => { m with noNewReq := eraseNat m.noNewReq n },
  setTState n state,
  .when (nodeKind n == 0) (divideTags (nodeDie n)) ]

/-- TILE_RESTORE (R62, R411, Table 3.3): a Fenced node returns to Run; map entries move back; a retired channel returns
unless its retirement was forced. -/
def execTileRestore (c : CardCtx) (node : Nat) (s : State) : Out :=
  commit (tileCard c 0x0206 node fun s =>
    if s.tstate node ≠ tsFenced then tileRefused c 0x0206 0x0106 node
    else if nodeKind node = 1 ∧ s.bit (MC_CFG (nodeChannel node)) MC_CFG_FORCED then
      answerRefused c 0x0206 (0x200 + nodeChannel node) 0x0106
    else accept c 0x0206 node (.all [
      openNode node tsRun,
      .when (nodeKind node == 1) (setF (MC_CFG (nodeChannel node)) MC_CFG_RETIRED 0),
      .when (nodeKind node == 0) (fillSlices node 64),
      (match s.nodeHart node with | some h => hrnResend h | none => .skip),
      finish 0x0206 node stOK 0xFFFF [] ])) s

/-! ### Sparing (R558–R561) -/

/-- The spare that TILE.SPARE takes: the named one, the one held for FAILED, or the lowest in Off. -/
def State.spareFor (s : State) (failed spare : Nat) : Option Nat :=
  if spare ≠ 0xFFFF then some spare
  else match Tab.find s.dby.spares failed with
    | some k => some k
    | none => (List.range 224).find? fun n =>
        nodeKind n == 0 && s.bit (nodeBase n) MESH_NODE_INFO_SPARE && s.tstate n == tsOff

/-- TILE_SPARE (R558, R559): the checks of Table 21.10; then the spare comes into service with `result` of its test, and
FAILED is drained, unless it is Fenced already. -/
def execTileSpare (c : CardCtx) (failed spare result : Nat) (s : State) : Out :=
  commit (gated c 0x0205 false tileOwner fun s =>
    let held := Tab.find s.dby.spares failed
    let isSpare := decide (spare < 224) && nodeKind spare == 0 && s.bit (nodeBase spare) MESH_NODE_INFO_SPARE
    if 224 ≤ failed ∨ nodeKind failed ≠ 0 ∨ (s.nodeHart failed).isNone then answer0 c 0x0205 stBADPARAM (dOff 0x10)
    else if spare ≠ 0xFFFF ∧ !isSpare then answer0 c 0x0205 stBADPARAM (dOff 0x12)
    else if s.stopLost (0x100 + failed) then answer0 c 0x0205 stFAULT (dBlk (0x100 + failed))
    else if s.tileBusy failed ∨ (spare ≠ 0xFFFF ∧ s.tileBusy spare) then answerBusyFree c 0x0205
    else match s.spareFor failed spare with
    | none => answer0 c 0x0205 stNORES (dBlk 0x0020)
    | some k =>
      let drained := s.tstate failed == tsDrain
      if held ≠ some k ∧ s.tstate k ≠ tsOff then answer0 c 0x0205 stBADSTATE (dBlk (0x100 + k))
      else if s.tstate failed = tsOff ∨ s.tstate failed = tsTest ∨ (drained ∧ held.isNone) then
        answer0 c 0x0205 stBADSTATE (dBlk (0x100 + failed))
      else if s.tstate failed = tsFenced ∧ s.bit (MESH_FENCE_STAT failed) MESH_FENCE_STAT_FORCED ∧
          !s.bit PWR_RESUME PWR_RESUME_VALID then answerRefused c 0x0205 0x0000 0x0107
      else accept c 0x0205 failed (.read fun _ =>
        let r := result &&& testBits 0
        let goOn : Act := .read fun s =>
          if s.tstate failed = tsFenced then spareGoOn failed
          else if s.tstate failed = tsDrain then
            (if s.bit (MESH_FENCE_STAT failed) MESH_FENCE_STAT_DRAINED then spareFence failed
             else .mesh fun m => { m with drainStart := Tab.put m.drainStart failed s.clk.time })
          else drainNode failed (some k)
        if held = some k then goOn
        else .all [
          zeroInit k, setTState k tsFenced, testEnd k r,
          if r ≠ 0 then finish 0x0205 failed stFAULT (dBlk (0x100 + k)) []
          else .all [openNode k tsPark,
            .dby fun d => { d with spares := Tab.put d.spares failed k }, goOn] ])) s

end Sys2Proof.Machine
end

