-- ==== Sys2Proof/Machine/Creel.lean ====
section
/-! DEFINITION. Chapter 20: the Creel — the links to the CRD, keys and interlocks, starting and stopping feeds, the inrush
budget, detectors, retries, hold and reclaim — and the die diodes of R544. Voltages and currents are what the environment
measures; the commands carry them, or say which condition of a table is met. -/

namespace Sys2Proof.Machine

/-! ### Channels -/

/-- Feed channel `n`. -/
def State.feed (s : State) (n : Nat) : CrlChan := Tab.getD s.crl.chan n {}
/-- Change feed channel `n`. -/
def modFeed (n : Nat) (f : CrlChan → CrlChan) : Act := .crl fun x => { x with chan := Tab.upd x.chan n {} f }
/-- Block ID of a channel. -/
def feedId (n : Nat) : Nat := 0x0300 + n
/-- STATE of a channel. -/
def State.feedState (s : State) (n : Nat) : Nat := s.get (CREEL_CH_STAT n) CREEL_CH_STAT_STATE
/-- KEYS of a channel by bit: 0 sequencer key, 1 safety key, 2 interlock closed. -/
def State.feedKey (s : State) (n i : Nat) : Bool := (s.get (CREEL_CH_STAT n) CREEL_CH_STAT_KEYS).testBit i
/-- Set a bit of KEYS. -/
def setKey (n i : Nat) (v : Bool) : Act := .read fun s =>
  let k := s.get (CREEL_CH_STAT n) CREEL_CH_STAT_KEYS
  setF (CREEL_CH_STAT n) CREEL_CH_STAT_KEYS (if v then k ||| 2 ^ i else k &&& (7 - 2 ^ i))
/-- Does a channel count as ramping for MAX_RAMPS (R527)? -/
def State.feedRamping (s : State) (n : Nat) : Bool := (s.feed n).asked.isSome || s.feedState n == 1
/-- Amperes reserved. -/
def State.feedReserved (s : State) : Nat := ((List.range 16).map fun n => (s.feed n).resv).sum
/-- Channels that count as ramping. -/
def State.feedRamps (s : State) : Nat := ((List.range 16).filter s.feedRamping).length
/-- RESERVED, RAMPS, links and HOLDING of CREEL_STAT. -/
def creelStat : Act := .read fun s => setFs CREEL_STAT [
  (CREEL_STAT_RESERVED, s.feedReserved), (CREEL_STAT_RAMPS, s.feedRamps), (CREEL_STAT_HOLDING, if s.crl.hold.isSome then 1 else 0)]
/-- A channel takes a state; its reservation ends when it leaves STATE 1 or 2 (R527), and E is 0 in STATE 0 (R530). A channel
that is off holds no keys (log entry 43). -/
def feedTo (n st : Nat) : Act := .all [
  setF (CREEL_CH_STAT n) CREEL_CH_STAT_STATE st,
  .when (st != 1 && st != 2) (modFeed n fun x => { x with resv := 0, regAt := none }),
  .when (st != 1) (modFeed n fun x => { x with start := none, isRetry := false }),
  .when (st != 1 && st != 3) (modFeed n fun x => { x with holding := false }),
  .when (st == 0) (.all [setF (CREEL_CH_STAT n) CREEL_CH_STAT_ENERGY 0, setKey n 0 false, setKey n 1 false,
    modFeed n fun x => { x with byHold := false }]),
  .when (st != 2 && st != 3) (setF (CREEL_CH_STAT n) CREEL_CH_STAT_OPEN_LOAD 0),
  creelStat ]
/-- The feed source of a channel (Table 16.2). -/
def feedRaise (n : Nat) : Act := linePulse (n + 1)
/-- The open FEED.ON of a channel ends FAULT. -/
def feedOnFault (n : Nat) : Act := finish 0x0701 n stFAULT (dBlk (feedId n)) []
/-- A feed record. -/
def feedRec (sev n : Nat) : RasRec := { sev := sev, cls := cFeed, block := feedId n }

/-- Is a cause retried (Table 20.6)? -/
def causeRetries (c : Nat) : Bool := decide (1 ≤ c) && decide (c ≤ 5)
/-- The wait before the next retry with `left` retries to come (R533). -/
def retryWait (left : Nat) : Nat := match left with | 3 => 1000000000 | 2 => 4000000000 | _ => 16000000000
/-- An open FEED.OFF ends once its channels are off. -/
def feedOffEnds : Act := .read fun s => .all [
  .each (List.range 16) fun n => .when (s.feedState n != 5) (.each (s.dby.openOps.filter fun o => o.opcode == 0x0702 && o.obj == n)
    fun _ => finish 0x0702 n stOK 0xFFFF []),
  .when ((List.range 16).all fun n => s.feedState n != 5) (.each (s.dby.openOps.filter fun o => o.opcode == 0x0702 && o.obj == 0xFF)
    fun _ => finish 0x0702 0xFF stOK 0xFFFF []) ]
/-- Is an accepted FEED.OFF for a channel open? -/
def State.feedOffOpen (s : State) (n : Nat) : Bool := s.opOpen [0x0702] n || s.opOpen [0x0702] 0xFF
/-- A latched channel clears: STATE 0, no retry, its cause kept (R534). -/
def feedClear (n : Nat) : Act := .all [
  modFeed n fun x => { x with retryAt := none }, setF (CREEL_CH_STAT n) CREEL_CH_STAT_RETRIES 0, feedTo n 0 ]
/-- Pull both gates of a channel down with a cause (R529). In STATE 0 or 4 the condition is counted only. FET_SHORT logs a
FATAL record in place of the UCR record and retires the channel (Table 20.6, R566). An accepted FEED.OFF that was ramping the
channel down then clears it (R534, R538). -/
def pullDown (n cause : Nat) : Act := .read fun s =>
  let st := s.feedState n
  let x := s.feed n
  let r := CREEL_CH_STAT n
  let left := if x.isRetry then s.get r CREEL_CH_STAT_RETRIES else 3
  let again := s.bit (CREEL_CH_CFG n) CREEL_CH_CFG_RETRY && causeRetries cause && !x.retired && decide (0 < left)
  .seq (bump CREEL_FAULTS) (if st = 0 ∨ st = 4 then .skip else .all [
    setFs r [(CREEL_CH_STAT_FAULT, cause), (CREEL_CH_STAT_RETRIES, if again then left else 0)],
    feedTo n 4,
    modFeed n fun y => { y with
      asked := none, pulledAt := if cause = 0x10 then none else some s.clk.time, byHold := false
      retired := y.retired || cause == 0x10
      retryAt := if again then some (s.clk.time + retryWait left) else none },
    rasLog (feedRec (if cause = 0x10 then 3 else 2) n),
    feedRaise n,
    feedOnFault n,
    .when (st == 5 && s.feedOffOpen n) (.seq (feedClear n) feedOffEnds) ])
/-- Withdraw a key of a channel; a channel that is driven is pulled down. -/
def keyGone (n i cause : Nat) : Act := .read fun s =>
  .seq (setKey n i false) (.when (s.feedState n != 0 && s.feedState n != 4) (pullDown n cause))
/-- FET_SHORT found on a channel whose gates are down (R529, R565, R566): the FATAL record, the channel is retired, and one in
STATE 0 goes to STATE 4 and raises its source. -/
def fetShort (n : Nat) : Act := .read fun s => .all [
  bump CREEL_FAULTS,
  setFs (CREEL_CH_STAT n) [(CREEL_CH_STAT_FAULT, 0x10), (CREEL_CH_STAT_RETRIES, 0)],
  modFeed n fun x => { x with retired := true, retryAt := none },
  rasLog (feedRec 3 n),
  .when (s.feedState n == 0) (.seq (feedTo n 4) (feedRaise n)) ]

/-! ### Links and the hold (R524, R536) -/

/-- Is a link up? -/
def State.linkUp (s : State) (safe : Bool) : Bool :=
  s.bit CREEL_STAT (if safe then CREEL_STAT_SAFE_LINK else CREEL_STAT_SEQ_LINK)
/-- When a link was lost. -/
def State.lostAt (s : State) (safe : Bool) : Option Nat := if safe then s.crl.lostSafe else s.crl.lostSeq
/-- CRD_LINK_FRAME (R524, R540): a valid frame of a link. A sequencer frame brings what the CRD measures: a channel's VIN and
VOUT in mV, its energy in % and its current in mA, and the CRD junction in 0.1 °C. -/
def execCrdLinkFrame (safe : Bool) (feed vin vout energy : Nat) (current temp : Int) (s : State) : Out :=
  commit (.all [
    setB CREEL_STAT (if safe then CREEL_STAT_SAFE_LINK else CREEL_STAT_SEQ_LINK) true,
    .crl fun x => if safe then { x with frameSafe := s.clk.time, lostSafe := none }
      else { x with frameSeq := s.clk.time, lostSeq := none },
    .when (!safe && decide (feed < 16)) (.all [
      setFs (CREEL_CH_STAT feed) [(CREEL_CH_STAT_VIN, vin), (CREEL_CH_STAT_VOUT, vout), (CREEL_CH_STAT_ENERGY, min energy 100)],
      setF (CREEL_CH_CUR feed) CREEL_CH_CUR_CURRENT (current % 2 ^ 32).toNat,
      setF CREEL_STAT CREEL_STAT_CRD_TEMP (temp % 2 ^ 16).toNat ]) ]) s
/-- CRD_LINK_LOSS (R524): no valid frame for 50 µs. -/
def execCrdLinkLoss (safe : Bool) (s : State) : Out :=
  commit (if !s.linkUp safe then .skip else .all [
    advanceTo ((if safe then s.crl.frameSafe else s.crl.frameSeq) + 50000),
    setB CREEL_STAT (if safe then CREEL_STAT_SAFE_LINK else CREEL_STAT_SEQ_LINK) false,
    .read fun s => .crl fun x =>
      if safe then { x with lostSafe := some s.clk.time } else { x with lostSeq := some s.clk.time } ]) s
/-- LINK_KEY_WITHDRAW (R524): 100 µs after the loss the other link still works; no key goes while channels hold (R536). -/
def execLinkKeyWithdraw (safe : Bool) (s : State) : Out :=
  commit (match s.lostAt safe with
    | none => .skip
    | some t => if !s.linkUp (!safe) || s.crl.hold.isSome then .skip else .all [
        advanceTo (t + 100000),
        .each (List.range 16) fun n => .read fun s =>
          let i := if safe then 1 else 0
          .when (s.feedKey n i) (.seq (bump CREEL_KEY_LOSS) (keyGone n i (0x0D + i))) ]) s
/-- Every channel that is on or ramping holds, and the hold timer runs (R536). A hold that runs already goes on. -/
def hostSideReset : Act := .read fun s =>
  let live := (List.range 16).filter fun n => s.feedState n == 1 || s.feedState n == 2
  if live.isEmpty then .skip else .all [
    .each live fun n => if s.feedState n = 2 then .seq (modFeed n fun x => { x with holding := true }) (feedTo n 3)
      else modFeed n fun x => { x with holding := true },
    .when s.crl.hold.isNone (.all [
      .crl fun x => { x with hold := some (s.clk.time, s.get CREEL_CFG CREEL_CFG_HOLD_S) },
      bump CREEL_HOLDS ]),
    creelStat ]
/-- HOST_SIDE_RESET (R524): both links lost within 100 µs of each other. -/
def execHostSideReset (s : State) : Out :=
  commit (match s.crl.lostSeq, s.crl.lostSafe with
    | some a, some b => .when (decide (a ≤ b + 100000) && decide (b ≤ a + 100000)) hostSideReset
    | _, _ => .skip) s
/-- A channel begins to ramp down (R535 step 1), at the end of a hold or not. -/
def rampDown (n : Nat) (hold : Bool) : Act := .all [
  feedTo n 5,
  modFeed n fun x => { x with byHold := hold, retryAt := none } ]
/-- Channels that hold, a ramp that counts as holding among them. -/
def State.holdingChans (s : State) : List Nat :=
  (List.range 16).filter fun n => (s.feed n).holding && (s.feedState n == 3 || s.feedState n == 1)
/-- The order of the ramp-down (R536): by RANK, the lower channel first among equals. -/
def State.rankOrder (s : State) (l : List Nat) : List Nat :=
  (List.range 16).flatMap fun r => l.filter fun n => s.get (CREEL_CH_CFG n) CREEL_CH_CFG_RANK == r
/-- Start the next ramp-down of the ordered list. -/
def nextDown : Act := .read fun s => match s.crl.downQ with
  | [] => .skip
  | n :: r => .all [
      .crl fun x => { x with downQ := r, downAt := s.clk.time },
      .when (s.feedState n == 3 || s.feedState n == 1) (.seq (feedOnFault n) (rampDown n true)) ]
/-- The hold ends: these channels ramp down in order. -/
def endHold (rest : List Nat) : Act := .read fun s => .all [
  .crl fun x => { x with hold := none, downQ := s.rankOrder rest },
  nextDown, creelStat ]
/-- HOLD_END (R536): HOLD_S (±1 %) after the host-side reset. -/
def execHoldEnd (s : State) : Out :=
  commit (match s.crl.hold with
    | none => .skip
    | some (t, len) => .seq (advanceTo (t + len * 990000000)) (endHold s.holdingChans)) s
/-- HOLD_RAMPDOWN_NEXT (R536): GAP × 100 ms after the one before. -/
def execHoldRampdownNext (s : State) : Out :=
  commit (if s.crl.downQ.isEmpty then .skip
    else .seq (advanceTo (s.crl.downAt + s.get CREEL_CFG CREEL_CFG_GAP * 100000000)) nextDown) s

/-! ### Interlocks and the safety key (R521–R523, R545) -/

/-- INTERLOCK_CHANGE (R522): the reading of a comparator changes, the CRD's or the safety pair's. -/
def execInterlockChange (feed : Nat) (safety closed : Bool) (s : State) : Out :=
  commit (if 15 < feed then .skip
    else if safety then .all [
      modFeed feed fun x => { x with ilkSafe := closed },
      .when (!closed && s.feedKey feed 1) (keyGone feed 1 0x0E) ]
    else .all [
      modFeed feed fun x => { x with ilk := closed },
      setKey feed 2 closed,
      lineSet (17 + feed) (!closed),
      .when (!closed) (pullDown feed 0x0C) ]) s
/-- Does a die read its diodes now (R617)? While it is powered; the CRD always. -/
def State.diePowered (s : State) (d : Nat) : Bool :=
  if d < 4 then s.pwr.railC else if d = 4 then s.pwr.railIod else true
/-- The temperature of a die in 0.1 °C (R544). -/
def State.dieTemp (s : State) (d : Nat) : Int :=
  let a := Tab.getD s.crl.diode (2 * d) {}
  let b := Tab.getD s.crl.diode (2 * d + 1) {}
  if a.faulted && b.faulted then 1100 else if a.faulted then b.temp else if b.faulted then a.temp else max a.temp b.temp
/-- Does a powered die read a temperature or more? -/
def State.dieAtLeast (s : State) (t : Int) : Bool := (List.range 6).any fun d => s.diePowered d && decide (t ≤ s.dieTemp d)
/-- SAFETY_KEY_DECISION (R523): the safety pair sets the key of a channel when every condition holds, and withdraws it while
its comparator reads open or a die reads 110 °C or more. -/
def execSafetyKeyDecision (feed : Nat) (s : State) : Out :=
  let open' := !(s.feed feed).ilkSafe
  commit (if 15 < feed ∨ !s.linkUp true ∨ !s.bit DBY_STAT DBY_STAT_SAFE_OK then .skip
    else if open' || s.dieAtLeast 1100 then .when (s.feedKey feed 1) (keyGone feed 1 0x0E)
    else .when (!s.dieAtLeast 1050 && s.life != 4 && s.feedState feed != 4) (setKey feed 1 true)) s
/-- The warning source of a die (35–39) is asserted while any of its sensors, of the die or of a tile, reads 100 °C or more
(R513). -/
def dieWarn (d : Nat) : Act := .read fun s =>
  let hot := s.diePowered d && (decide (1000 ≤ s.dieTemp d) ||
    (s.pwr.tileTemp.any fun p => decide (d < 4) && nodeDie p.1 == d && decide (100 ≤ p.2)))
  .when (hot != s.hrn.lines.contains (35 + d)) (lineSet (35 + d) hot)
/-- The block ID of a die (R544). -/
def dieId (d : Nat) : Nat := if d < 4 then 0x0100 + (d / 2 * 112 + d % 2 * 8) else if d = 4 then 0x0000 else 0x0002
/-- DIODE_READING (R544, R545): a reading of one diode of a die, in 0.1 °C, or its fault. Two readings of 110 °C or more in a
row withdraw every safety key; the warning source of a die is asserted from 100 °C on (R513). -/
def execDiodeReading (die diode : Nat) (temp : Int) (faulted : Bool) (s : State) : Out :=
  let bad := faulted || decide (temp < -400) || decide (1500 < temp)
  commit (if 5 < die ∨ 1 < diode ∨ !s.diePowered die then .skip else .all [
    .crl fun x => { x with diode := Tab.put x.diode (2 * die + diode) { temp := temp, faulted := bad } },
    .when (bad && !s.crl.dieLogged.contains die) (.seq
      (rasLog { sev := 2, cls := cThermal, block := dieId die })
      (.crl fun x => { x with dieLogged := insertNat x.dieLogged die })),
    .read fun s =>
      let t := s.dieTemp die
      let h := Tab.getD s.crl.hot die (0, 0)
      .all [
        .when (die == 5) (setF CREEL_STAT CREEL_STAT_CRD_TEMP (t % 2 ^ 16).toNat),
        .when (decide (die < 5)) (dieWarn die),
        if t < 1100 then .crl fun x => { x with hot := Tab.drop x.hot die }
        else .all [
          .crl fun x => { x with hot := Tab.put x.hot die (h.1 + 1, if h.1 = 0 then s.clk.time else h.2) },
          .when (h.1 == 1) (.each (List.range 16) fun n => .when (s.feedKey n 1) (keyGone n 1 0x0E)) ] ] ]) s

/-! ### Feed cards (R525–R528, R535, R537) -/

/-- Cards of the feeds: sent by the owner of block 0x02. -/
def feedOwner (s : State) : Owner := .is (s.blockWorld 2)
/-- Amperes that a start reserves (R527). -/
def State.feedAsk (s : State) (n ilimit : Nat) : Nat :=
  max (if ilimit = 0 then s.get (CREEL_CH_CFG n) CREEL_CH_CFG_ILIMIT else ilimit) (s.get (CREEL_CH_CFG n) CREEL_CH_CFG_SPIN_A)
/-- Is there budget for a start (Table 20.4)? -/
def State.budgetOk (s : State) (n ilimit : Nat) : Bool :=
  decide (s.feedRamps < s.get CREEL_CFG CREEL_CFG_MAX_RAMPS) &&
  decide (s.feedReserved + s.feedAsk n ilimit ≤ s.get CREEL_CFG CREEL_CFG_BUDGET)
/-- FEED_ON (R525): the checks of Table 20.4 in order. -/
def execFeedOn (c : CardCtx) (feed slew ilimit : Nat) (s : State) : Out :=
  commit (gated c 0x0701 false feedOwner fun s =>
    let st := s.feedState feed
    let x := s.feed feed
    let vin := s.get (CREEL_CH_STAT feed) CREEL_CH_STAT_VIN
    if 15 < feed then answer0 c 0x0701 stBADPARAM (dOff 0x10)
    else if 200 < slew then answer0 c 0x0701 stBADPARAM (dOff 0x12)
    else if 100 < ilimit then answer0 c 0x0701 stBADPARAM (dOff 0x14)
    else if s.life = 4 then answer0 c 0x0701 stNOTPERM (dBlk 0x0003)
    else if st = 2 then answer0 c 0x0701 stOK (dBlk (feedId feed))
    else if st ≠ 0 ∨ x.asked.isSome then answer0 c 0x0701 stBADSTATE (dBlk (feedId feed))
    else if x.retired || !x.ilk || decide (vin < 10800) || decide (13200 < vin) then answerRefused c 0x0701 (feedId feed) 0x0201
    else if !s.linkUp false || !s.linkUp true then answerRefused c 0x0701 0x0002 0x0201
    else if !s.budgetOk feed ilimit then .seq (bump CREEL_BUDGET_REFUSE) (answerRefused c 0x0701 0x0002 0x0201)
    else accept c 0x0701 feed (.all [
      modFeed feed fun y => { y with asked := some s.clk.time, slew := slew, ilimit := ilimit, resv := s.feedAsk feed ilimit },
      setF (CREEL_CH_STAT feed) CREEL_CH_STAT_FAULT 0,
      setKey feed 0 true,
      creelStat ])) s
/-- The start of Table 20.5; `check` is the cause of the pre-start check that fails, 0 for none. -/
def feedStart (n check : Nat) (again : Bool) : Act := .read fun s => .all [
  modFeed n fun x => { x with asked := none, start := some s.clk.time, isRetry := again, pulledAt := none },
  setF (CREEL_CH_STAT n) CREEL_CH_STAT_STATE 1,
  creelStat,
  .when (check == 0x07 || check == 0x09 || check == 0x10) (.all [
    advance 500000, pullDown n check ]) ]
/-- FEED_START (R526): both keys present and the interlock closed. -/
def execFeedStart (feed check : Nat) (s : State) : Out :=
  commit (.when ((s.feed feed).asked.isSome && s.get (CREEL_CH_STAT feed) CREEL_CH_STAT_KEYS == 7) (feedStart feed check false)) s
/-- FEED_KEY_WAIT_TIMEOUT (R622): 10 ms (±1 ms) after acceptance a key or the interlock is missing. -/
def execFeedKeyWaitTimeout (feed : Nat) (s : State) : Out :=
  commit (match (s.feed feed).asked with
    | none => .skip
    | some t => if s.get (CREEL_CH_STAT feed) CREEL_CH_STAT_KEYS = 7 then .skip else .all [
        advanceTo (t + 9000000),
        setF (CREEL_CH_STAT feed) CREEL_CH_STAT_FAULT
          (if !s.feedKey feed 2 then 0x0C else if !s.feedKey feed 0 then 0x0D else 0x0E),
        modFeed feed fun x => { x with asked := none },
        feedTo feed 0,
        feedOnFault feed ]) s
/-- FEED_REGULATION (R526): a ramp that counts as holding goes on to hold (R536). -/
def execFeedRegulation (feed : Nat) (s : State) : Out :=
  commit (match (s.feed feed).start with
    | none => .skip
    | some t => if s.feedState feed ≠ 1 then .skip else .all [
        advanceTo (t + 1000000),
        bump CREEL_ON,
        setF (CREEL_CH_STAT feed) CREEL_CH_STAT_RETRIES 0,
        feedRaise feed,
        if (s.feed feed).holding then feedTo feed 3
        else .all [
          feedTo feed 2,
          .read fun s => modFeed feed fun x => { x with regAt := some s.clk.time },
          finish 0x0701 feed stOK 0xFFFF [],
          .each (s.portsOfFeed feed) portOn ] ]) s
/-- FEED_RAMP_TIMEOUT (R526): 4 × 12 V / SLEW + 10 ms. -/
def execFeedRampTimeout (feed : Nat) (s : State) : Out :=
  let x := s.feed feed
  let slew := if x.slew = 0 then s.get (CREEL_CH_CFG feed) CREEL_CH_CFG_SLEW else x.slew
  commit (match x.start with
    | none => .skip
    | some t => if s.feedState feed ≠ 1 then .skip else .all [
        advanceTo (t + 480000000 / max slew 1 + 10000000), pullDown feed 0x05 ]) s
/-- Can a detector act in a state of the channel (Table 20.6)? Causes that R522, R524, R526 and R566 give have events of
their own. -/
def detectorArmed (st cause : Nat) : Bool :=
  match cause with
  | 0x01 | 0x07 | 0x08 | 0x0B | 0x11 => true
  | 0x02 | 0x04 | 0x06 => st == 2 || st == 3
  | 0x03 => st == 1 || st == 2 || st == 3 || st == 5
  | 0x0A => st == 1 || st == 2 || st == 3
  | 0x0F => st == 1
  | _ => false
/-- FEED_DETECTOR_TRIP (R529, R532): a detector condition is met; `others` more are met in the same step and counted.
OPEN_LOAD warns only; THERMAL meets every channel. -/
def execFeedDetectorTrip (feed cause others : Nat) (s : State) : Out :=
  commit (if 15 < feed ∨ !detectorArmed (s.feedState feed) cause then .skip else .all [
    addTo CREEL_FAULTS others,
    if cause = 0x06 then .seq (bump CREEL_FAULTS) (setF (CREEL_CH_STAT feed) CREEL_CH_STAT_OPEN_LOAD 1)
    else if cause = 0x11 then .each (List.range 16) fun n => pullDown n 0x11
    else pullDown feed cause ]) s
/-- FET_SHORT_CHECK (R566): 10 µs after a pull-down. -/
def execFetShortCheck (feed : Nat) (found : Bool) (s : State) : Out :=
  commit (match (s.feed feed).pulledAt with
    | none => .skip
    | some t => .all [
        advanceTo (t + 10000),
        modFeed feed fun x => { x with pulledAt := none },
        .when found (fetShort feed) ]) s
/-- SPIN_RESERVATION_END (R527). -/
def execSpinReservationEnd (feed : Nat) (s : State) : Out :=
  commit (match (s.feed feed).regAt with
    | none => .skip
    | some t => .all [
        advanceTo (t + s.get (CREEL_CH_CFG feed) CREEL_CH_CFG_SPIN_S * 1000000000),
        modFeed feed fun x => { x with resv := 0, regAt := none },
        creelStat ]) s
/-- FEED_RETRY (R533): the retry is due (±10 %), with the SLEW and ILIMIT of CREEL_CHn_CFG; `check` as for a start. -/
def execFeedRetry (feed check : Nat) (s : State) : Out :=
  let r := CREEL_CH_STAT feed
  let left := s.get r CREEL_CH_STAT_RETRIES
  let stop := fun ref => Act.all [
    modFeed feed fun x => { x with retryAt := none }, setF r CREEL_CH_STAT_RETRIES 0, refusal 0xFFFF ref stREFUSED 0x0203 ]
  commit (match (s.feed feed).retryAt with
    | none => .skip
    | some t => .seq (advanceTo (t - retryWait left / 10)) (.read fun s =>
        if s.get r CREEL_CH_STAT_KEYS ≠ 7 then stop (feedId feed)
        else if !s.budgetOk feed 0 then .seq (bump CREEL_BUDGET_REFUSE) (stop 0x0002)
        else .all [
          setF r CREEL_CH_STAT_RETRIES (left - 1),
          modFeed feed fun x => { x with retryAt := none, slew := 0, ilimit := 0, resv := s.feedAsk feed 0 },
          feedStart feed check true ])) s

/-- Turn one channel off under an accepted FEED.OFF: STATE 4 clears at once, the others ramp down. -/
def feedOffOne (n : Nat) : Act := .read fun s => .all [
  .when ((s.feed n).asked.isSome || s.feedState n == 1) (feedOnFault n),
  match s.feedState n with
  | 0 => .seq (modFeed n fun x => { x with asked := none }) (feedTo n 0)
  | 4 => feedClear n
  | 5 => .skip
  | _ => rampDown n false ]
/-- FEED_OFF (R534, R535, R200). -/
def execFeedOff (c : CardCtx) (feed : Nat) (force : Bool) (s : State) : Out :=
  commit (gated c 0x0702 true feedOwner fun s =>
    let live := (if feed = 0xFF then List.range 16 else [feed]).filter fun n => s.feedState n != 0 || (s.feed n).asked.isSome
    let ports := live.flatMap s.portsOfFeed
    if 15 < feed ∧ feed ≠ 0xFF then answer0 c 0x0702 stBADPARAM (dOff 0x10)
    else if live.isEmpty then answerOk c 0x0702
    else match (if force then none else (List.range 16).find? fun p => ports.contains p && s.portCmds p != 0) with
    | some p => answerRefused c 0x0702 (0x0400 + p) 0x0202
    | none => accept c 0x0702 feed (.all [.each ports portOff, .each live feedOffOne, feedOffEnds ])) s
/-- FEED_RAMPDOWN_DONE (R535 steps 2 and 3, R536): the gates are pulled fully down; a ramp-down at the end of a hold ends with
cause HOLD_END. -/
def execFeedRampdownDone (feed : Nat) (s : State) : Out :=
  commit (if s.feedState feed ≠ 5 then .skip else .all [
    modFeed feed fun x => { x with pulledAt := some s.clk.time },
    .when (s.feed feed).byHold (.seq (bump CREEL_HOLD_END) (setF (CREEL_CH_STAT feed) CREEL_CH_STAT_FAULT 0x12)),
    feedTo feed 0,
    feedOffEnds ]) s

/-- A feed status record (Table 17.12); a retired channel is reported with STATE 4 (R566). -/
def State.feedRecord (s : State) (n : Nat) : List Byte :=
  let r := CREEL_CH_STAT n
  natLe 1 n ++ natLe 1 (if (s.feed n).retired then 4 else s.feedState n) ++ natLe 1 (s.get r CREEL_CH_STAT_FAULT) ++
    natLe 1 (s.get r CREEL_CH_STAT_KEYS) ++ natLe 4 (s.get (CREEL_CH_CUR n) CREEL_CH_CUR_CURRENT) ++
    natLe 2 (s.get r CREEL_CH_STAT_VOUT) ++ natLe 2 (s.get r CREEL_CH_STAT_VIN) ++ natLe 2 (s.get r CREEL_CH_STAT_ENERGY) ++ natLe 2 0
/-- FEED_STATUS (R455). -/
def execFeedStatus (c : CardCtx) (feed : Nat) (s : State) : Out :=
  commit (gated c 0x0703 false (fun _ => .any) fun s =>
    if 15 < feed ∧ feed ≠ 0xFF then answer0 c 0x0703 stBADPARAM (dOff 0x10)
    else answer c 0x0703 stOK 0xFFFF ((if feed = 0xFF then List.range 16 else [feed]).flatMap s.feedRecord)) s
/-- FEED_BUDGET (R528). -/
def execFeedBudget (c : CardCtx) (budget maxRamps : Nat) (s : State) : Out :=
  commit (gated c 0x0704 false feedOwner fun _ =>
    if budget = 0 ∨ 1600 < budget then answer0 c 0x0704 stBADPARAM (dOff 0x10)
    else if maxRamps = 0 ∨ 16 < maxRamps then answer0 c 0x0704 stBADPARAM (dOff 0x12)
    else .seq (setFs CREEL_CFG [(CREEL_CFG_BUDGET, budget), (CREEL_CFG_MAX_RAMPS, maxRamps)]) (answerOk c 0x0704)) s
/-- FEED_RECLAIM (R537): channels named go back to STATE 2, a ramp that is named goes on into it; the others begin the
ordered ramp-down. -/
def execFeedReclaim (c : CardCtx) (mask holdS : Nat) (s : State) : Out :=
  commit (gated c 0x0705 false feedOwner fun s =>
    let held := s.holdingChans
    if 600 < holdS then answer0 c 0x0705 stBADPARAM (dOff 0x12)
    else if !s.linkUp false || !s.linkUp true then answer0 c 0x0705 stFAULT (dBlk 0x0002)
    else .all [
      .when (holdS != 0) (setF CREEL_CFG CREEL_CFG_HOLD_S holdS),
      .each (held.filter mask.testBit) fun n => .all [
        setKey n 0 true, setKey n 1 true,
        .when (s.feedState n == 3) (.seq (feedTo n 2) (bump CREEL_RECLAIMED)),
        modFeed n fun x => { x with holding := false } ],
      .when s.crl.hold.isSome (endHold (held.filter fun n => !mask.testBit n)),
      answerOk c 0x0705 ]) s

/-- FEED_SELF_TEST (R565): every 60 s (±6 s) for a channel in STATE 0; `result` 0 passes, 1 fails, 2 finds current. -/
def execFeedSelfTest (feed result : Nat) (s : State) : Out :=
  commit (if 15 < feed ∨ s.feedState feed ≠ 0 ∨ (s.feed feed).asked.isSome then .skip else .all [
    advanceTo ((s.feed feed).testedAt + 54000000000),
    .read fun s => modFeed feed fun x => { x with testedAt := s.clk.time },
    if result = 1 then .seq (rasLog (feedRec 2 feed)) (modFeed feed fun x => { x with retired := true })
    else if result = 2 then fetShort feed
    else .skip ]) s
/-- CRD_SUPPLY_LOSS (R518, R566): channel state and retirements are lost; an open feed card ends FAULT. -/
def execCrdSupplyLoss (s : State) : Out :=
  commit (.all [
    .each (List.range 16) fun n => .all [
      feedOnFault n, finish 0x0702 n stFAULT (dBlk 0x0002) [],
      resetReg (CREEL_CH_STAT n), resetReg (CREEL_CH_CUR n) ],
    finish 0x0702 0xFF stFAULT (dBlk 0x0002) [],
    resetReg CREEL_STAT,
    .crl fun x => { x with
      chan := x.chan.map fun p => (p.1, ({ ilkSafe := p.2.ilkSafe } : CrlChan)), hold := none, downQ := []
      lostSeq := some s.clk.time, lostSafe := some s.clk.time } ]) s

end Sys2Proof.Machine
end

