-- ==== Sys2Proof/Machine/Reset.lean ====
section
/-! DEFINITION. What a reset keeps and clears (chapter 22, Table 22.2, R485, R503), the loading of TIME (R510), and the
profiles (R33–R38, Tables 1.15 and 17.9). -/

namespace Sys2Proof.Machine

/-! ### Profiles -/

/-- A node's tile parks or unparks (Table 19.4). -/
def parkNode (n : Nat) : Act := .read fun s => .all [
  setTState n tsPark, (match s.nodeHart n with | some h => parkHart h | none => .skip) ]
/-- Set the core clock of a node; the profile's own clock needs no entry. -/
def setClock (n f : Nat) : Act := .read fun s => .pwr fun p =>
  { p with coreClk := if s.profClock n ≤ f then Tab.drop p.coreClk n else Tab.put p.coreClk n f }

/-- The settings of a profile (Tables 1.15 and 17.9): clocks in 0.1 GHz. `clocks` holds Jacquard's clock of each hart, 0 to
park it. -/
structure Profile where
  id : Nat
  runCount : Nat := 0
  core : Nat
  clocks : List Nat := []
  mesh : Nat
  train : Nat
  dist : Nat
  nl : Bool := true
  prioRdma : Bool := false
  prioHrn : Bool := false
  rsv : Nat
  pdIdle : Nat
  limit : Nat
  grant : Nat := DIR_CFG_GRANT_TMO.get (regReset DIR_CFG)
  home : Nat := DIR_CFG_HOME_TMO.get (regReset DIR_CFG)
  quantum : Nat := LOOM_CFG_QUANTUM.get (regReset LOOM_CFG)
  burst : Nat := LOOM_CFG_BURST.get (regReset LOOM_CFG)
  setup : Nat := PICK_CFG_SETUP.get (regReset PICK_CFG)
  gather : Nat := PICK_CFG_GATHER.get (regReset PICK_CFG)
  starve : Nat := MESH_CFG_STARVE_LIMIT.get (regReset MESH_CFG)
  drain : Nat := MESH_CFG_DRAIN_TMO.get (regReset MESH_CFG)
  deriving DecidableEq, Repr

/-- The profiles of Table 1.15; Jacquard without values of its own has those of Twill (Table 22.3). -/
def profileOf (id runCount : Nat) : Profile :=
  match id with
  | 0 => { id := 0, core := 20, mesh := 16, train := 4, dist := 2, rsv := 3, pdIdle := 64, limit := 400 }
  | 2 => { id := 2, runCount := if runCount = 0 then 64 else runCount, core := 30, mesh := 24, train := 2, dist := 8,
           prioRdma := true, prioHrn := true, rsv := 1, pdIdle := 0, limit := 560 }
  | n => { id := n, core := 26, mesh := 24, train := 2, dist := 8, rsv := 1, pdIdle := 256, limit := 560 }

/-- The values of a Jacquard card (Table 17.9), from the card's bytes. -/
def jacquard (l : List Byte) : Profile :=
  let f := cardField l
  { id := 3, core := 26, clocks := (List.range 192).map fun h => f (0x28 + h) 1, mesh := f 0x14 1, train := f 0x15 1,
    dist := f 0x16 1, nl := (f 0x17 1).testBit 0, prioRdma := (f 0x17 1).testBit 1, prioHrn := (f 0x17 1).testBit 2,
    rsv := f 0x18 1, grant := f 0x19 1, pdIdle := f 0x1A 2, limit := f 0x1C 2, home := f 0x1E 2, quantum := f 0x20 1,
    burst := f 0x21 1, setup := f 0x22 1, gather := f 0x23 1, starve := f 0x24 2, drain := f 0x26 1 }

/-- The first field of a POWER.SET_PROFILE card that is out of range (Table 17.9), by its offset. -/
def profileBad (l : List Byte) : Option Nat :=
  let f := cardField l
  let ok := fun (o n lo hi : Nat) => decide (lo ≤ f o n) && decide (f o n ≤ hi)
  let first := fun (cs : List (Nat × Bool)) => (cs.find? fun p => !p.2).map (·.1)
  let jac := f 0x10 1 = 3
  if 3 < f 0x10 1 then some 0x10
  else if l.length ≠ (if jac then 232 else 20) then some 0x06
  else if (if f 0x10 1 = 2 then 64 else 0) < f 0x11 1 then some 0x11
  else if f 0x12 2 ≠ 0 then some 0x12
  else if !jac then none
  else first ([(0x14, ok 0x14 1 12 24), (0x15, ok 0x15 1 2 8), (0x16, ok 0x16 1 0 16), (0x17, ok 0x17 1 0 7),
    (0x18, ok 0x18 1 0 4), (0x19, ok 0x19 1 1 255), (0x1A, f 0x1A 2 == 0 || ok 0x1A 2 16 4096), (0x1C, ok 0x1C 2 320 600),
    (0x1E, ok 0x1E 2 1 1000), (0x20, ok 0x20 1 1 255), (0x21, ok 0x21 1 1 8), (0x22, ok 0x22 1 1 255),
    (0x23, ok 0x23 1 1 255), (0x24, ok 0x24 2 16 1024), (0x26, ok 0x26 1 1 255), (0x27, f 0x27 1 == 0)] ++
    (List.range 192).map fun h => (0x28 + h, f (0x28 + h) 1 == 0 || ok (0x28 + h) 1 8 30))

/-- The reserved ways that window lines occupy in the fullest set of a slice (Table 1.16). -/
def State.winWays (s : State) (n : Nat) : Nat :=
  let mine := s.cache.slice.filter fun p => keyNode p.1 == n && p.2.win
  (mine.map fun p => (mine.filter fun q => sliceSet (keyLine q.1) == sliceSet (keyLine p.1)).length).foldl max 0

/-- Change the reserved ways of a slice to `r` (R37, R85, R87): newly reserved ways and freed ways hold no lines; a window
line of a freed way moves to a reserved one. -/
def setRsv (n r : Nat) : Act := .read fun s =>
  let old := s.get (LLC_CFG n) LLC_CFG_RSV_WAYS
  let lines := s.cache.slice.filter fun p => keyNode p.1 == n
  if old ≤ r then .all [
    .each (lines.filter fun p => decide (12 - r ≤ p.2.way) && decide (p.2.way < 12 - old)) fun p => evictSlice n (keyLine p.1),
    setF (LLC_CFG n) LLC_CFG_RSV_WAYS r ]
  else .all [
    .each (lines.filter fun p => decide (12 - old ≤ p.2.way) && decide (p.2.way < 12 - r) && !p.2.win) fun p =>
      evictSlice n (keyLine p.1),
    .each (lines.filter fun p => decide (12 - old ≤ p.2.way) && decide (p.2.way < 12 - r) && p.2.win) fun p => .read fun s =>
      let set := s.cache.slice.filter fun q => keyNode q.1 == n && sliceSet (keyLine q.1) == sliceSet (keyLine p.1)
      match ((List.range 12).drop (12 - r)).find? (fun w => !set.any fun q => q.2.way == w && q.2.win) with
      | none => .skip
      | some w => .all [
          (match set.find? (·.2.way == w) with | some q => evictSlice n (keyLine q.1) | none => .skip),
          modSlice n (keyLine p.1) fun x => { x with way := w } ],
    setF (LLC_CFG n) LLC_CFG_RSV_WAYS r ]

/-- A profile takes force (R37): reserved ways, mesh clock, core clocks and parking, the remaining settings. Clocks above the
grade are carried out at the grade (R2). -/
def applyProfile (p : Profile) : Act := .read fun s =>
  let grade := s.get DBY_CHIP_ID DBY_CHIP_ID_GRADE
  let cap := fun f => min f grade
  let parked := (List.range 192).filter fun h =>
    (p.id == 2 && decide (p.runCount ≤ h)) || (p.clocks[h]?) == some 0
  .all [
    .each tileNodes fun n => setRsv n p.rsv,
    setFs MESH_CFG [(MESH_CFG_MESH_FREQ, p.mesh), (MESH_CFG_PRIO_RDMA, if p.prioRdma then 1 else 0),
      (MESH_CFG_PRIO_HRN, if p.prioHrn then 1 else 0), (MESH_CFG_STARVE_LIMIT, p.starve), (MESH_CFG_DRAIN_TMO, p.drain)],
    .pwr fun x => { x with
      profile := p.id, runCount := p.runCount, profFreq := cap p.core, coreClk := [], limit := p.limit,
      profClk := ((List.range 192).zip p.clocks).filterMap fun c => if c.2 = 0 then none else some (c.1, cap c.2) },
    .each (s.pwr.profParked.filter fun h => !parked.contains h) fun h => .read fun s => match s.hartNode h with
      | some n => .when (s.tstate n == tsPark) (setTState n tsRun)
      | none => .skip,
    .each parked fun h => .read fun s => match s.hartNode h with
      | some n => .when (s.tstate n == tsRun) (parkNode n)
      | none => .skip,
    .pwr fun x => { x with profParked := parked },
    .each tileNodes fun n => .all [
      setB (LLC_CFG n) LLC_CFG_NL_PF p.nl,
      setFs (CORE_PF_CFG n) [(CORE_PF_CFG_TRAIN, p.train), (CORE_PF_CFG_DIST, p.dist)] ],
    .each (List.range 12) fun c => setF (MC_CFG c) MC_CFG_PD_IDLE p.pdIdle,
    setFs DIR_CFG [(DIR_CFG_HOME_TMO, p.home), (DIR_CFG_GRANT_TMO, p.grant)],
    setFs LOOM_CFG [(LOOM_CFG_QUANTUM, p.quantum), (LOOM_CFG_BURST, p.burst)],
    setFs PICK_CFG [(PICK_CFG_SETUP, p.setup), (PICK_CFG_GATHER, p.gather)] ]

/-! ### What a reset clears -/

/-- A register of the Treadle island (R503): block 0x00 but for its error record bank. -/
def islandReg (a : Nat) : Bool := decide (blockBase 0 ≤ a ∧ a < blockBase 0 + 0x400)
/-- A register of the Creel that holds channel state (Table 22.2, R485). -/
def crdReg (a : Nat) : Bool :=
  a == CREEL_CFG || a == CREEL_STAT || decide (CREEL_CH_CFG 0 ≤ a ∧ a < CREEL_CH_CFG 16)
/-- A register of an error record bank (R546). -/
def bankReg (a : Nat) : Bool :=
  decide (0xE00000000000 ≤ a ∧ a < 0xE00100000000 ∧ 0xF00000 ≤ (a - 0xE00000000000) % 0x1000000) ||
  decide (0xE10000000000 ≤ a ∧ a < 0xE1000E000000 ∧ 0xE00 ≤ (a - 0xE10000000000) % 0x100000 ∧
    (a - 0xE10000000000) % 0x100000 < 0xF40)
/-- A counter that clears only at cold reset: one 64-bit RO field COUNT. The bitmaps of Selvedge, DIR_DEAD and PICK_CLK_IDX
have the same form and are no counters. -/
def counterReg (a : Nat) : Bool :=
  (match regFields a with
   | [d] => d.ty == .ro && d.fld.wid == 64
   | _ => false) &&
  a != SEL_BLKWORLD && !decide (SEL_FUNCWORLD 0 ≤ a ∧ a < SEL_FUNCWORLD 0 + 0x1000) &&
  !decide (PICK_CLK_IDX 0 ≤ a ∧ a < PICK_CLK_IDX 1024) &&
  !decide (nodeBase 0 ≤ a ∧ DIR_DEAD 0 0 ≤ nodeBase 0 + (a - nodeBase 0) % 0x100000 ∧
    nodeBase 0 + (a - nodeBase 0) % 0x100000 < DIR_DEAD 0 4)
/-- Does a register keep its value (Table 22.2)? -/
def resetKeeps (warm : Bool) (a : Nat) : Bool :=
  islandReg a || crdReg a || (warm && (bankReg a || counterReg a))

/-- Registers that a test picks take their reset values. -/
def resetRegs (p : Nat → Bool) : Act := .read fun s => .each (s.regs.filter fun x => p x.1) fun x => resetReg x.1
/-- DRAM reads zero everywhere and no line is poisoned (R409). -/
def wipeDram : Act := .read fun s => .all [
  .each s.mem fun p => .byte p.1 0, .each s.poison fun p => .setPoison p.1 false,
  .mc fun m => { m with bad := [], badB := [] } ]

/-- Every register and all SRAM of the compute dies and the IOD is cleared, and DRAM with them (R485, R568): what stays are
fuses, flash and what it records (mirrors, sparings), the Treadle island, the Creel channels, the edge latches, the lines
of sources outside these dies, and, through a warm reset, error banks and counters. Selvedge draws a new wrap key (R317). -/
def clearDevice (warm : Bool) : Act := .read fun s =>
  let forced := if warm then (List.range 12).filter fun c => s.bit (MC_CFG c) MC_CFG_FORCED || s.mc.forced.contains c else []
  .all [
  resetRegs fun a => !resetKeeps warm a,
  wipeDram,
  .clk fun c => { c with meshCycle := 0, meshAcc := 0 },
  .io fun _ => {}, .mesh fun _ => {}, .core fun _ => {}, .cache fun _ => {}, .coh fun _ => {}, .btn fun _ => {},
  .loom fun _ => {}, .drv fun _ => {}, .pick fun _ => {}, .shu fun _ => {}, .iotlb fun _ => {},
  .xf fun x => { epoch := x.epoch + 1 },
  .hrn fun x => { latchRise := x.latchRise, latchFall := x.latchFall, lines := x.lines.filter fun n => decide (n ≤ 39),
                  clkStopped := x.clkStopped },
  .mc fun m => { mirrorCfg := m.mirrorCfg, spared := m.spared, repairs := m.repairs, mirrorUse := m.mirrorUse, forced := forced },
  .dby fun d => { sparedDone := d.sparedDone, sent := d.sent },
  .ras fun r => if warm then { r with injected := [] } else {},
  .boot fun b => { b with slot := none, fwVersion := 0, failed := [], patrolDue := false, patrol := none, wrapBad := false },
  .dbg fun d => { d with hart := (d.hart.filter fun p => p.2.resetHalt).map fun p => (p.1, ({ resetHalt := true } : HartDbg)),
                         cmp := [], cnt := [], trace := [], sram := [] } ]

/-- The CRD sees both links lost at once and treats it as a host-side reset (R524, R536). -/
def linksLost : Act := .all [
  setFs CREEL_STAT [(CREEL_STAT_SEQ_LINK, 0), (CREEL_STAT_SAFE_LINK, 0)],
  .read fun s => .crl fun x => { x with
    lostSeq := some (x.lostSeq.getD s.clk.time), lostSafe := some (x.lostSafe.getD s.clk.time),
    chan := x.chan.map fun p => (p.1, { p.2 with asked := none }) },
  hostSideReset ]

/-! ### TIME (R510) -/

/-- R(COUNT): the RTC time in ns, rounded. -/
def rtcNs (count : Nat) : Nat := (2 * count * 1000000000 + 32768) / 65536
/-- The value with which TIME is loaded (R510). -/
def State.timeLoad (s : State) : Nat :=
  ((rtcNs (s.get TRD_RTC TRD_RTC_COUNT) : Int) + (s.reg TRD_TIME_OFS).toInt + 32000).toNat
/-- A moment of the old TIME, told in the new one. -/
def shiftTime (old new t : Nat) : Nat := t + new - old
/-- TIME is loaded (R505, R510). The moments that the CRD and the sequencer count from are told in the new TIME. -/
def loadTime : Act := .read fun s =>
  let m := shiftTime s.clk.time s.timeLoad
  .all [
    .crl fun x => { x with
      chan := x.chan.map fun p => (p.1, { p.2 with
        asked := p.2.asked.map m, start := p.2.start.map m, regAt := p.2.regAt.map m, retryAt := p.2.retryAt.map m,
        pulledAt := p.2.pulledAt.map m, testedAt := m p.2.testedAt }),
      frameSeq := m x.frameSeq, frameSafe := m x.frameSafe, lostSeq := x.lostSeq.map m, lostSafe := x.lostSafe.map m,
      hold := x.hold.map fun h => (m h.1, h.2), downAt := m x.downAt, hot := x.hot.map fun p => (p.1, (p.2.1, m p.2.2)) },
    .pwr fun p => { p with trans := p.trans.map fun t => { t with start := m t.start, stepAt := m t.stepAt } },
    .clk fun c => { c with time := s.timeLoad } ]

/-! ### Resets (R567–R570) -/

/-- PWR_RCNTk and PWR_RCNT_OVF. -/
def rcntReg (a : Nat) : Bool := decide (PWR_RCNT 0 ≤ a ∧ a ≤ PWR_RCNT_OVF)

/-- A reset that runs the boot flow begins (R567, R568): `kind` 0 power-on, 1 cold, 2 warm; `source` as PWR_RSTINFO numbers
it. The boot flow then stands at its first step, or at step 2 of Table 19.7 where the regulators have stayed on (R575). A
boot flow that ran begins again (R569). -/
def startReset (kind source : Nat) (retry : Bool) : Act := .read fun s =>
  let on := s.pwr.railIod && kind != 0 && source != 4
  .all [
    clearDevice (kind == 2),
    .when (source == 1) (.dbg fun d => { d with stopped := false }),
    .when (kind == 0) (.all [resetRegs islandReg, .dbg fun _ => {}, .hrn fun x => { x with latchRise := [], latchFall := [] }]),
    .when (kind != 2) (resetRegs rcntReg),
    .each [PWR_STATE, PWR_WAKE_CFG, PWR_RESUME, PWR_HART_GO, PWR_RESET] resetReg,
    .reg PWR_RSTINFO 0,
    setFs PWR_RSTINFO [(PWR_RSTINFO_KIND, kind), (PWR_RSTINFO_SOURCE, source), (PWR_RSTINFO_IMAGE, 3)],
    .pwr fun p => {
      armed := kind == 0 || p.armed, railIod := true, railC := on && p.railC, railQ := on && p.railQ,
      railDimm := on && p.railDimm,
      trans := some { number := if source = 4 then 6 else 7, start := s.clk.time, step := if on then 2 else 1,
                      stepAt := s.clk.time, retry := retry } },
    linksLost ]

/-- The rails but VDD_AON are removed (R604, Table 24.3): what they powered is lost; the CRD sees both links lost. -/
def powerOff : Act := .all [
  clearDevice false,
  .mc fun m => { m with repairs := m.repairs.filter fun r => r.2.2.2.2.2 },
  .hrn fun x => { x with clkStopped := true },
  .dbg fun d => { stopped := d.stopped },
  .pwr fun p => { armed := p.armed, railIod := false, trans := none, dead := p.dead },
  linksLost ]

end Sys2Proof.Machine
end

