-- ==== Sys2Proof/Machine/Power.lean ====
section
/-! DEFINITION. Device power states, the Treadle island, the wake orders, and the limits on power and temperature (chapter 19,
R58, R604–R606, R617, R618). Transitions whose end no command of the table marks (the returns from Slack, the entry to Dark,
a profile change) take place in one step (log entry 45). -/

namespace Sys2Proof.Machine

/-! ### State -/

/-- The owner of the power cards (Table 17.8). -/
def powerOwner (s : State) : Owner := .is (s.blockWorld 0)
/-- The device state (Table 19.1). -/
def State.dstate (s : State) : Nat := s.get PWR_STATE PWR_STATE_STATE
/-- The device enters a state: PREV and LAST_CAUSE are recorded (Table 19.11). -/
def enterState (st cause : Nat) : Act := .read fun s => setFs PWR_STATE
  [(PWR_STATE_PREV, s.dstate), (PWR_STATE_STATE, st), (PWR_STATE_LAST_CAUSE, cause)]
/-- Change the record of power. -/
def endTrans : Act := .pwr fun p => { p with trans := none }
/-- A transition begins. -/
def startTrans (number cause : Nat) : Act := .read fun s => .pwr fun p =>
  { p with trans := some { number := number, start := s.clk.time, stepAt := s.clk.time, cause := cause } }
/-- The tile nodes in Run. -/
def State.running (s : State) : List Nat := tileNodes.filter fun n => s.tstate n == tsRun

/-- Steps by which the voltage rises from 0.60 V to that of a clock, in µs at 50 mV/µs (R495, Table 19.8). -/
def rampUs (f : Nat) : Nat :=
  if f ≤ 8 then 0 else if f ≤ 12 then 1 else if f ≤ 16 then 2 else if f ≤ 20 then 3 else if f ≤ 26 then 5
  else if f ≤ 28 then 6 else 7
/-- The completion limit of a transition in µs (Table 19.2, R37, R505). -/
def State.transLimit (s : State) (t : Trans) : Nat :=
  match t.number with
  | 1 => 20
  | 2 => max 8 (3 + rampUs ((s.pwr.wasRun.map s.coreFreq).foldl max 0)) + 1
  | 3 => 60000
  | 4 => 12000
  | 5 => 60000
  | _ => 1380000
/-- The retry-after time of Table 1.16 in µs: what is left of the limit, rounded up to 10 µs, 10 to 65,535 µs. -/
def State.transLeft (s : State) : Nat :=
  match s.pwr.trans with
  | none => 10
  | some t => min 65535 (max 10 ((s.transLimit t * 1000 - (s.clk.time - t.start) + 9999) / 10000 * 10))
/-- Does a power card find another one open, or a transition in progress (R454)? -/
def State.powerBusy (s : State) : Bool := s.anyOpen [0x0101, 0x0103] || s.pwr.trans.isSome

/-! ### Slack (R495–R497) -/

/-- TRD_STAT of a return or wake that a Treadle-held event starts (Table 19.15). -/
def trdCause (w : WakeCause) : Act := match w with
  | .irq => .skip
  | .rtc => setF TRD_STAT TRD_STAT_CAUSE 3
  | .pattern r => setFs TRD_STAT [(TRD_STAT_CAUSE, 1), (TRD_STAT_REVERSED, if r then 1 else 0)]
  | .edge => setF TRD_STAT TRD_STAT_CAUSE 2
  | .latch n => setFs TRD_STAT [(TRD_STAT_CAUSE, 4), (TRD_STAT_SOURCE, n)]
/-- LAST_CAUSE of an event (Table 19.11). -/
def causeOf (w : WakeCause) : Nat := match w with
  | .irq => 1 | .rtc => 2 | .pattern _ => 3 | .edge => 3 | .latch _ => 4
/-- Is an event armed in PWR_WAKE_CFG? -/
def State.wakeArmed (s : State) (w : WakeCause) : Bool := match w with
  | .irq => s.bit PWR_WAKE_CFG PWR_WAKE_CFG_IRQ
  | .rtc => s.bit PWR_WAKE_CFG PWR_WAKE_CFG_RTC
  | .pattern _ => s.bit PWR_WAKE_CFG PWR_WAKE_CFG_TREADLE
  | .edge => s.bit PWR_WAKE_CFG PWR_WAKE_CFG_TREADLE
  | .latch _ => s.bit PWR_WAKE_CFG PWR_WAKE_CFG_LATCH

/-- The tiles that were in Run at entry unpark together, and the device is in Woven (R496, R497). -/
def slackReturn (cause : Nat) : Act := .read fun s => .all [
  .each (s.pwr.wasRun.filter fun n => s.tstate n == tsPark) fun n => setTState n tsRun,
  .pwr fun p => { p with wasRun := [], event := none },
  endTrans, enterState 0 cause ]

/-! ### Doffed (R498–R501) -/

/-- The stores that a hart has retired reach memory (R331): its state goes, they do not. -/
def drainStores (h : Nat) : Act := .read fun s => .each (s.hart h).sq fun e => match e.kind with
  | 0 => wrCohNat e.pa e.size e.data
  | 1 => wrCoh (e.pa / 64 * 64) (List.replicate 64 0) false
  | _ => .skip
/-- The lines that L2, an eviction buffer or a slice holds. -/
def State.heldLines (s : State) : List Nat :=
  (s.cache.l2.map (keyLine ·.1) ++ s.coh.evbuf.map (keyLine ·.1) ++ s.cache.slice.map (keyLine ·.1)).eraseDups
/-- The nodes that hold a dirty line. -/
def State.dirtyNodes (s : State) : List Nat :=
  (s.cache.l2.filter fun p => p.2.st == .m || p.2.st == .o).map (keyNode ·.1) ++
  (s.coh.evbuf.filter fun p => p.2.dirty && !p.2.stale).map (keyNode ·.1) ++
  (s.cache.slice.filter fun p => (s.dirEntry (keyNode p.1) (keyLine p.1)).sdirty).map (keyNode ·.1)
/-- The compute dies lose their power: harts, caches, homes, routers, tile interrupt bits and the dies' trace units. -/
def diesOff : Act := .all [
  .core fun _ => {}, .cache fun _ => {}, .coh fun _ => {}, .btn fun _ => {},
  .mesh fun m => { noNewReq := m.noNewReq, stopped := true },
  .hrn fun x => { x with tile := [] },
  .dbg fun d => { d with cmp := [], cnt := [], trace := [], sram := [] },
  .each (List.range 4) fun d => resetReg (DBG_TRC_STAT d),
  .pwr fun p => { p with railC := false, coreClk := [], tileTemp := [], thermStep := [], thermCool := [] },
  .each (List.range 4) dieWarn ]
/-- The wake order of Table 19.6 begins at a step: step 1 switches the compute-die regulators on. -/
def startWake (cause step : Nat) (aborted : Bool) : Act := .read fun s => .pwr fun p => { p with
  railC := true, event := none,
  trans := some { number := 4, start := s.clk.time, stepAt := s.clk.time, step := step, cause := cause, aborted := aborted } }
/-- The timeouts of Table 19.6 in ns. -/
def wakeTimeout (step : Nat) : Nat := match step with
  | 1 => 10000000 | 2 => 2000000 | 3 => 5000000 | 4 => 5000000 | _ => 2000000
/-- The end of the wake (R500, R501): Fenced tiles are Off, the harts of the tiles in Run at entry and of those that the
profile parks start at PWR_RESUME.ADDR in the secure world, and every file's state is sent again. -/
def wakeDone (t : Trans) : Act := .read fun s =>
  let start : Hart := { pc := s.get PWR_RESUME PWR_RESUME_ADDR * 4, released := true }
  let parked := s.pwr.profParked.filterMap s.hartNode
  .all [
    .each (tileNodes.filter fun n => s.tstate n == tsFenced) fun n => setTState n tsOff,
    .mesh fun m => { m with stopped := false },
    .each (s.pwr.wasRun ++ parked).eraseDups fun n => match s.nodeHart n with
      | some h => modHart h fun _ => start
      | none => .skip,
    .hrn fun x => { x with stopped := false },
    .pwr fun p => { p with wasRun := [], trans := none },
    (if t.aborted then setF PWR_STATE PWR_STATE_LAST_CAUSE 5 else enterState 0 t.cause),
    .each (List.range 192) hrnResend,
    .when (!t.aborted) (finish 0x0101 0 stOK 0xFFFF []) ]
/-- A step of the wake from Doffed fails (R501): the dies are switched off again and the device stays in Doffed. `status` is
that of an entry of the refusal log without a card. -/
def wakeAbort (t : Trans) (die status : Nat) : Act := .read fun s =>
  let card := (s.findOp 0x0101 0).isSome
  .all [
    diesOff, endTrans,
    .when t.aborted (setFs PWR_STATE [(PWR_STATE_PREV, s.dstate), (PWR_STATE_STATE, 2)]),
    finish 0x0101 0 stFAULT (dBlk (dieId die)) [],
    refusal (if card then 0x0101 else 0xFFFF) (dieId die) (if card then stFAULT else status) 0x0004 ]

/-! ### Events (R497, R500, R502, R507–R509) -/

/-- May the wake pair wake the device in a MODE of TRD_CFG (R507, R508)? -/
def State.pairReady (s : State) (mode : Nat) : Bool :=
  s.get TRD_CFG TRD_CFG_MODE == mode && s.pwr.armed && !s.bit TRD_STAT TRD_STAT_PAIR_FAULT
/-- Does an interrupt of a hart whose tile was in Run at entry call for a return: an EIP_SET sent in Slack (R497), a
claimable file or a timer or software source in Doffed (R500)? -/
def State.irqDue (s : State) : Bool :=
  (s.pwr.wasRun.filterMap s.nodeHart).any fun h => (List.range 10).any fun f =>
    if (match s.pwr.trans with | some t => t.number == 1 | none => s.dstate == 1) then (s.eipOf h f).1
    else (s.claimable h f).isSome || Tab.getD s.hrn.tip (h * 16 + f) false || Tab.getD s.hrn.msip (h * 16 + f) false
/-- An accepted event acts (R497, R500, R502, R504): it is held during an entry, starts the return from Slack, the wake from
Doffed or the wake from Dark, and does nothing else. While a lost rail or a trip holds the sequencer, it is ignored. -/
def wakeEvent (w : WakeCause) : Act := .read fun s =>
  if s.pwr.dead ≠ 0 ∨ s.pwr.retryAt.isSome then .skip
  else match s.pwr.trans with
  | some t =>
    .when ((t.number == 1 || t.number == 3) && s.wakeArmed w && s.pwr.event.isNone) (.pwr fun p => { p with event := some w })
  | none => match s.dstate with
    | 1 => .when (s.wakeArmed w) (.seq (trdCause w) (slackReturn (causeOf w)))
    | 2 => .when (s.wakeArmed w) (.seq (trdCause w) (startWake (causeOf w) 1 false))
    | 3 => .when (w != .irq) (.seq (startReset 1 4 false) (trdCause w))
    | _ => .skip
/-- The event held during an entry starts its return when the entry has ended (R497, R500). -/
def heldEvent : Act := .read fun s => match s.pwr.event with
  | some w => .seq (.pwr fun p => { p with event := none }) (wakeEvent w)
  | none => .skip
/-- A wake accepted on the Treadle pair: the decoder is disarmed, and source 33 sees an edge but in Dark (R507, R508). Under
the keeper in Woven a pattern makes a patrol due (R580). -/
def pairWake (w : WakeCause) : Act := .read fun s => .all [
  .pwr fun p => { p with armed := false },
  .when (s.dstate != 3) (sourceRaise 33),
  .when (s.dstate == 0 && s.bit DBY_STAT DBY_STAT_KEEPER && (w == .pattern true || w == .pattern false))
    (.boot fun b => { b with patrolDue := true }),
  wakeEvent w ]
/-- The ns until the RTC has counted to `cmp`, and at least one tick (R509). -/
def State.rtcWait (s : State) (cmp : Nat) : Nat :=
  (max 1 (cmp - s.get TRD_RTC TRD_RTC_COUNT) * 1000000000 - s.clk.rtcAcc + 32767) / 32768
/-- An event of R497 happens, with what it does beside waking. -/
def occur (w : WakeCause) : Act := .read fun s => match w with
  | .irq => .when s.irqDue (wakeEvent w)
  | .rtc => .when (s.bit TRD_ALARM TRD_ALARM_EN) (.all [
      advance (s.rtcWait (s.get TRD_ALARM TRD_ALARM_CMP)), setF TRD_ALARM TRD_ALARM_EN 0, sourceRaise 34, wakeEvent w ])
  | .pattern _ => .when (s.pairReady 2) (pairWake w)
  | .edge => .when (s.pairReady 1) (pairWake w)
  | .latch n => .when (decide (1 ≤ n ∧ n ≤ 64) && (s.reg TRD_WAKE_MASK).toNat.testBit (n - 1)) (wakeEvent w)

/-- SLACK_WAKE_EVENT (R497): an armed event, in Slack or during the entry to it. -/
def execSlackWakeEvent (w : WakeCause) (s : State) : Out :=
  let here := s.dstate == 1 || (match s.pwr.trans with | some t => t.number == 1 | none => false)
  commit (.when (here && s.wakeArmed w) (occur w)) s
/-- DOFFED_WAKE_EVENT (R500): an armed event, in Doffed or during the entry to it. -/
def execDoffedWakeEvent (w : WakeCause) (s : State) : Out :=
  let here := s.dstate == 2 || (match s.pwr.trans with | some t => t.number == 3 | none => false)
  commit (.when (here && s.wakeArmed w) (occur w)) s
/-- DARK_WAKE (R502, R504, R508): a wake event in Dark. -/
def execDarkWake (w : WakeCause) (s : State) : Out := commit (.when (s.dstate == 3) (occur w)) s
/-- TREADLE_PATTERN_WAKE (R507): a frame of 32 bits on the pair; it matches {0xAA, CODE} or its complement, or is ignored. -/
def execTreadlePatternWake (frame : BitVec 32) (s : State) : Out :=
  let want := BitVec.ofNat 32 (0xAA * 2 ^ 24 + s.get TRD_CFG TRD_CFG_CODE)
  commit (if frame = want then occur (.pattern false) else if frame = ~~~ want then occur (.pattern true) else .skip) s
/-- TREADLE_EDGE_WAKE (R507): a level of the pair that lasts `width` ns after its edge. -/
def execTreadleEdgeWake (width : Nat) (s : State) : Out := commit (.when (decide (1000 ≤ width)) (occur .edge)) s
/-- LATCH_WAKE (R497, R508): an edge of either polarity on a source enabled in TRD_WAKE_MASK, whatever its TRIG. -/
def execLatchWake (src : Nat) (rising : Bool) (s : State) : Out :=
  commit (.when (decide (1 ≤ src ∧ src ≤ 64) && (s.reg TRD_WAKE_MASK).toNat.testBit (src - 1))
    (.seq (lineSet src rising) (occur (.latch src)))) s
/-- RTC_ALARM (R509). -/
def execRtcAlarm (s : State) : Out := commit (occur .rtc) s
/-- TREADLE_PAIR_CHECK (R508): `low` says that the differential was below 100 mV
throughout. A change of PAIR_FAULT is an edge of source 33. -/
def execTreadlePairCheck (low : Bool) (s : State) : Out :=
  commit (if s.bit TRD_STAT TRD_STAT_PAIR_FAULT = low then .skip else .all [
    setB TRD_STAT TRD_STAT_PAIR_FAULT low,
    .when (s.dstate != 3) (sourceRaise 33) ]) s
/-- TIME_OFS_CAPTURE (R510): at the next RTC tick that is a multiple of 32 the logic captures TIME less the RTC time, while
the IOD is powered. -/
def execTimeOfsCapture (s : State) : Out :=
  commit (.when s.pwr.railIod (.all [
    advance (s.rtcWait ((s.get TRD_RTC TRD_RTC_COUNT / 32 + 1) * 32)),
    .read fun s => .reg TRD_TIME_OFS (BitVec.ofInt 64 ((s.clk.time : Int) - rtcNs (s.get TRD_RTC TRD_RTC_COUNT))) ])) s

/-! ### POWER.SET_STATE (R491, R492, Table 19.3) -/

/-- The refuser of a lowering card (Table 19.3), by its detail. -/
def State.setStateRefuser (s : State) (st : Nat) : Option Nat :=
  let deep := decide (2 ≤ st)
  let tenant := s.regs.any fun p => decide (LOOM_FSTAT 1 ≤ p.1 ∧ p.1 ≤ LOOM_FSTAT 8192) &&
    (p.1 - LOOM_FSTAT 0) % 0x10000 == 0 && (LOOM_FSTAT_STATE.get p.2 == 1 || LOOM_FSTAT_STATE.get p.2 == 2)
  let addr := s.get PWR_RESUME PWR_RESUME_ADDR * 4
  if st ≠ 0 ∧ !s.btn.win.isEmpty then some 0x0005
  else if deep ∧ (tenant ∨ s.get LOOM_INFLIGHT LOOM_INFLIGHT_DRIVE_CMDS ≠ 0) then some 0x0005
  else if deep ∧ (List.range 8).any fun p => s.bit (SHU_PORT_CFG p) SHU_PORT_CFG_EN then some 0x0007
  else match (if deep then (List.range 224).find? fun n => s.tstate n == tsDrain || s.tstate n == tsTest else none) with
  | some n => some (0x100 + n)
  | none => match (if deep then (List.range 12).find? fun c => s.bit (MC_STAT c) MC_STAT_COPYING else none) with
  | some c => some (0x200 + c)
  | none =>
    if st = 2 ∧ (!s.bit PWR_RESUME PWR_RESUME_VALID || !s.dramOf true addr 4) then some 0x0000
    else match (if st = 3 then (List.range 16).find? fun n => s.feedState n != 0 else none) with
    | some n => some (0x300 + n)
    | none =>
      if st = 3 ∧ s.get TRD_CFG TRD_CFG_MODE = 0 ∧ s.reg TRD_WAKE_MASK = 0 ∧ !s.bit TRD_ALARM TRD_ALARM_EN then some 0x0000
      else if st = 3 ∧ !s.dby.openOps.isEmpty then some 0x0001
      else none

/-- The transition that a card starts (Table 19.2). -/
def transitionOf (from' to' : Nat) : Option Nat := match from', to' with
  | 0, 1 => some 1 | 1, 0 => some 2 | 0, 2 => some 3 | 2, 0 => some 4 | 0, 3 => some 5 | _, _ => none

/-- Woven → Slack begins (R496): every tile in Run parks, and the Treadle is armed (R507). -/
def slackEntry : Act := .read fun s => .all [
  startTrans 1 0,
  .pwr fun p => { p with armed := true, wasRun := s.running },
  .each s.running parkNode ]
/-- Woven → Doffed begins (Table 19.5): the Harness stops sending, harts stop and lose their state. -/
def doffedEntry : Act := .read fun s => .all [
  startTrans 3 0,
  .pwr fun p => { p with armed := true, wasRun := s.running },
  .hrn fun x => { x with stopped := true },
  .each (s.core.hart.map (·.1)) drainStores,
  .core fun _ => {},
  .each (s.dbg.hart.map (·.1)) fun h => modHdbg h fun d => { resetHalt := d.resetHalt } ]
/-- Woven → Dark (R502): the final reply, the Treadle armed, every rail but VDD_AON off. -/
def darkEntry : Act := .all [
  finish 0x0101 0 stOK 0xFFFF [],
  powerOff,
  .pwr fun p => { p with armed := true },
  enterState 3 0 ]

/-- POWER.SET_STATE with a STATE. -/
def setState (c : CardCtx) (st : Nat) : Act := gated c 0x0101 (st == 0) powerOwner fun s =>
  if 3 < st then answer0 c 0x0101 stBADPARAM (dOff 0x10)
  else if s.powerBusy then answerBusy c 0x0101 s.transLeft
  else if st = s.dstate then answerOk c 0x0101
  else match transitionOf s.dstate st with
  | none => answer0 c 0x0101 stBADSTATE 0xFFFF
  | some tr => match s.setStateRefuser st with
    | some b => answerRefused c 0x0101 b tr
    | none => accept c 0x0101 0 (match tr with
        | 1 => slackEntry
        | 2 => .seq (slackReturn 0) (finish 0x0101 0 stOK 0xFFFF [])
        | 3 => doffedEntry
        | 4 => startWake 0 1 false
        | _ => darkEntry)
/-- SET_STATE_WOVEN (R491): from Slack at once; from Doffed the wake of R501 begins. -/
def execSetStateWoven (c : CardCtx) (s : State) : Out := commit (setState c 0) s
/-- SET_STATE_SLACK (R496). -/
def execSetStateSlack (c : CardCtx) (s : State) : Out := commit (setState c 1) s
/-- SET_STATE_DOFFED (R498). -/
def execSetStateDoffed (c : CardCtx) (s : State) : Out := commit (setState c 2) s
/-- SET_STATE_DARK (R502). -/
def execSetStateDark (c : CardCtx) (s : State) : Out := commit (setState c 3) s

/-- PARK_COMPLETE (R496): no parked tile has a miss, an I/O access or a batten operation outstanding; the entry ends with OK,
and a held event starts the return at once. -/
def execParkComplete (s : State) : Out :=
  let quiet := fun n => (s.coh.reqs.all fun q => reqNode q.req != n) && s.hartQuiet n
  commit (match s.pwr.trans with
    | some t => .when (t.number == 1 && s.pwr.wasRun.all quiet) (.all [
        endTrans, enterState 1 0, finish 0x0101 0 stOK 0xFFFF [], heldEvent ])
    | none => .skip) s
/-- DOFFED_WRITEBACK_DONE (R498, Table 19.5): every dirty line is in DRAM, DRAM is in self-refresh, the compute dies are off,
and the entry ends with OK. The write-backs are one step (log entry 45). -/
def execDoffedWritebackDone (s : State) : Out :=
  commit (match s.pwr.trans with
    | some t => .when (t.number == 3) (.all [
        .each s.heldLines pullLine,
        diesOff, endTrans, enterState 2 0,
        finish 0x0101 0 stOK 0xFFFF [], heldEvent ])
    | none => .skip) s
/-- DOFFED_ENTRY_ABORT (R498): the write-back has not ended 50 ms after the acceptance: TIMEOUT with the lowest node that
still writes back; the sequence of R501 starts from its step 4. -/
def execDoffedEntryAbort (s : State) : Out :=
  commit (match s.pwr.trans, s.dirtyNodes with
    | some t, n :: r => .when (t.number == 3) (.all [
        advanceTo (t.start + 50000000),
        finish 0x0101 0 stTIMEOUT (dBlk (0x100 + r.foldl min n)) [],
        refusal 0x0101 (0x100 + r.foldl min n) stTIMEOUT 0x0003,
        setF PWR_STATE PWR_STATE_LAST_CAUSE 5,
        startWake 5 4 true ])
    | _, _ => .skip) s

/-! ### Wake orders (R501, R504–R506) -/

/-- The timeouts of Table 19.7 in ns, steps 1 to 7. -/
def darkTimeout (step : Nat) : Nat := match step with
  | 1 => 20000000 | 2 => 5000000 | 3 => 20000000 | 4 => 30000000 | 5 => 20000000 | 6 => 5000000 | _ => 20000000
/-- Step `k` of Table 19.7 is ready: the IOD's clocks run from step 2 on, the compute dies' and DIMM rails rise with step 5,
and TIME is loaded at the end of step 7 (R505). -/
def bootStep (k : Nat) : Act := .all [
  .when (k == 2) (.hrn fun x => { x with clkStopped := false }),
  .when (k == 4) (.pwr fun p => { p with railC := true, railQ := true, railDimm := true }),
  .when (k == 7) loadTime,
  .read fun s => .pwr fun p => { p with trans := p.trans.map fun t => { t with step := k + 1, stepAt := s.clk.time } } ]
/-- WAKE_STEP_READY (R501, R504, R575): the ready signal of the step in progress, of a wake from Doffed or of steps 1 to 7 of
a boot flow. -/
def execWakeStepReady (s : State) : Out :=
  commit (match s.pwr.trans with
    | none => .skip
    | some t =>
      if t.number = 4 then
        (if 5 ≤ t.step then wakeDone t
         else .pwr fun p => { p with trans := some { t with step := t.step + 1, stepAt := s.clk.time } })
      else .when (decide (6 ≤ t.number) && decide (t.step ≤ 7) && s.dby.limited == 0) (bootStep t.step)) s
/-- WAKE_STEP_TIMEOUT (R501): in steps 1, 2, 3 and 5 `unit` is a die that is not ready, or whose router has failed its test;
in step 4 it is a channel, which is retired as a forced MEM.RETIRE retires it, and the wake goes on. -/
def execWakeStepTimeout (unit : Nat) (router : Bool) (s : State) : Out :=
  commit (match s.pwr.trans with
    | none => .skip
    | some t =>
      let due := advanceTo (t.stepAt + wakeTimeout t.step)
      if t.number ≠ 4 then .skip
      else if t.step = 4 then .when (decide (unit < 12) && !s.bit (MC_CFG unit) MC_CFG_RETIRED && !router) (.all [
        due, retireAsForced unit, rasLog { sev := 2, cls := cState, block := 0x200 + unit } ])
      else if router then .when (t.step == 5 && decide (unit < 4)) (wakeAbort t unit stFAULT)
      else .when (decide (unit < 4)) (.seq due (wakeAbort t unit stTIMEOUT))) s
/-- The block ID of what a boot or Dark-wake step waits for (R506). -/
def abortBlock (b : Nat) : Bool :=
  b == 0x0000 || b == 0x0002 || b == 0xFFFF || [0, 1, 2, 3].any fun d => dieId d == b
/-- DARK_WAKE_STEP_TIMEOUT (R506): a step of 1 to 7 times out: the rails go off, TRD_ABORT tells what failed, and the device
is in Dark; the retry is due, or a second abort in a row sets WAKE_FAIL. -/
def execDarkWakeStepTimeout (block : Nat) (s : State) : Out :=
  commit (match s.pwr.trans with
    | none => .skip
    | some t => .when (decide (6 ≤ t.number) && decide (t.step ≤ 7) && abortBlock block && s.dby.limited == 0) (.all [
        advanceTo (t.stepAt + darkTimeout t.step),
        powerOff,
        setFs TRD_ABORT [(TRD_ABORT_STEP, t.step), (TRD_ABORT_VALID, 1), (TRD_ABORT_BLOCK, block), (TRD_ABORT_TRANSITION, t.number)],
        enterState 3 0,
        if t.retry then .all [setF TRD_STAT TRD_STAT_WAKE_FAIL 1, .pwr fun p => { p with armed := true }]
        else .read fun s => .pwr fun p => { p with retryAt := some (s.clk.time + 1000000000) } ])) s
/-- WAKE_RETRY (R506): 1 s (±0.1 s) after the abort, as a Dark wake. -/
def execWakeRetry (s : State) : Out :=
  commit (match s.pwr.retryAt with
    | none => .skip
    | some t => .seq (advanceTo (t - 100000000)) (startReset 1 4 true)) s
/-- CHANNEL_TRAINING_TIMEOUT (R506, R393): a channel misses its training or its zero-fill in step 8 or 9; it is left
unpopulated and the boot goes on. -/
def execChannelTrainingTimeout (chan : Nat) (s : State) : Out :=
  commit (match s.pwr.trans with
    | none => .skip
    | some t => .when (decide (6 ≤ t.number) && decide (8 ≤ t.step) && decide (chan < 12) && !s.boot.failed.contains chan) (.all [
        advanceTo (t.stepAt + 2000000000),
        .boot fun b => { b with failed := chan :: b.failed },
        setF (MC_CFG chan) MC_CFG_POP 0,
        rasLog { sev := 2, cls := cDram, block := 0x200 + chan } ])) s

/-! ### POWER.GET_STATE, POWER.SET_PROFILE, POWER.REFUSALS -/

/-- POWER_GET_STATE (Table 17.8). -/
def execPowerGetState (c : CardCtx) (s : State) : Out :=
  commit (gated c 0x0102 false (fun _ => .any) fun s =>
    answer c 0x0102 stOK 0xFFFF (natLe 1 s.dstate ++ natLe 1 s.pwr.profile ++ natLe 1 s.pwr.runCount ++ natLe 1 0 ++
      (List.range 224).map fun n => BitVec.ofNat 8 (s.tstate n))) s
/-- POWER_SET_PROFILE (R37, R38, Table 1.16): `l` holds the bytes of the card. -/
def execPowerSetProfile (c : CardCtx) (l : List Byte) (s : State) : Out :=
  commit (gated c 0x0103 false powerOwner fun s =>
    let id := cardField l 0x10 1
    let p := if id = 3 then jacquard l else profileOf id (cardField l 0x11 1)
    if s.powerBusy then answerBusy c 0x0103 s.transLeft
    else if s.dstate ≠ 0 then answer0 c 0x0103 stBADSTATE 0xFFFF
    else match profileBad l with
    | some o => answer0 c 0x0103 stBADPARAM (dOff o)
    | none => match tileNodes.find? fun n => decide (p.rsv < s.winWays n) with
      | some n => answerRefused c 0x0103 (0x100 + n) 0x0108
      | none => accept c 0x0103 0 (.seq (applyProfile p) (finish 0x0103 0 stOK 0xFFFF []))) s
/-- The bytes of a refusal log entry (Table 17.11). -/
def RefEntry.bytes (e : RefEntry) : List Byte :=
  natLe 8 e.time ++ natLe 2 e.opcode ++ natLe 2 e.refuser ++ natLe 2 e.status ++ natLe 2 e.transition
/-- POWER_REFUSALS (R457). -/
def execPowerRefusals (c : CardCtx) (clear : Nat) (s : State) : Out :=
  commit (gated c 0x0104 false (fun _ => .any) fun s =>
    if 1 < clear then answer0 c 0x0104 stBADPARAM (dOff 0x10)
    else .all [
      answer c 0x0104 stOK 0xFFFF (natLe 8 s.dby.refTotal ++ natLe 1 s.dby.refLog.length ++ natLe 7 0 ++
        s.dby.refLog.flatMap RefEntry.bytes),
      .when (clear == 1) (.dby fun d => { d with refLog := [] }) ]) s

/-! ### Limits (R58, R512, R513, R606) -/

/-- The regulators that the device reads over PMBus (Table 24.2, R606): 0–3 VIN_Cd, 4–7 VDD_MESHd, 8 VDD_IO, 9 VDD_IOD,
10 VDD_PEX, 11 VDD_ETH, 12 VDDH_SER, 13–16 VDDQ_Cd: maximum current in A times nominal voltage, in mW. The mesh rail's
nominal voltage follows the mesh clock (Table 19.8). -/
def State.vrMax (s : State) (r : Nat) : Nat :=
  let mesh := s.get MESH_CFG MESH_CFG_MESH_FREQ
  let mv := if mesh ≤ 12 then 700 else if mesh ≤ 16 then 750 else if mesh ≤ 20 then 800 else 850
  if r < 4 then 110 * 1100 else if r < 8 then 25 * mv
  else match r with
  | 8 => 2 * 1800 | 9 => 60 * 800 | 10 => 50 * 850 | 11 => 14 * 850 | 12 => 12 * 1200 | _ => 10 * 1100
/-- Package power in mW: the last values read (R606). -/
def State.pkgPower (s : State) : Nat := (s.pwr.vr.map (·.2)).sum
/-- The average of the last 1 ms in mW (R512). -/
def State.pwrAvg (s : State) : Nat := if s.pwr.sums.isEmpty then 0 else s.pwr.sums.sum / s.pwr.sums.length
/-- Is the average 10 % above the limit with every running tile at 0.8 GHz (R512)? -/
def State.pwrLastResort (s : State) : Bool :=
  decide (s.pwr.limit * 11000 < s.pwrAvg * 10) && s.running.all fun n => decide (s.coreFreq n ≤ 8)
/-- POWER_LIMIT_SAMPLE (R512, R606): the regulators named by number read these powers in mW, and the sum of the last values
joins the 1 ms average; the record of R512 is logged once the last resort has held for 10 ms. -/
def execPowerLimitSample (reads : List (Nat × Nat)) (s : State) : Out :=
  let good := reads.filter fun p => decide (p.1 < 17)
  commit (if s.dstate = 3 then .skip else .all [
    .pwr fun p => { p with vr := good.foldl (fun t x => Tab.put t x.1 x.2) p.vr,
                           silent := p.silent.filter fun r => !(good.any fun x => x.1 == r) },
    .read fun s => .pwr fun p => { p with sums := (s.pkgPower :: p.sums).take 10 },
    .read fun s => if !s.pwrLastResort then .pwr fun p => { p with overSince := none, overLogged := false }
      else match s.pwr.overSince with
      | none => .pwr fun p => { p with overSince := some s.clk.time }
      | some t => .when (decide (t + 10000000 ≤ s.clk.time) && !s.pwr.overLogged) (.all [
          rasLog { sev := 2, cls := cThreshold, block := 0x0000 },
          .pwr fun p => { p with overLogged := true } ]) ]) s
/-- PMBUS_NO_ANSWER (R606): a regulator has missed three reads in a row: it counts at its maximum, and one record is
logged. -/
def execPmbusNoAnswer (regulator : Nat) (s : State) : Out :=
  commit (if 17 ≤ regulator ∨ s.dstate = 3 ∨ s.pwr.silent.contains regulator then .skip else .all [
    .pwr fun p => { p with vr := Tab.put p.vr regulator (s.vrMax regulator), silent := regulator :: p.silent },
    rasLog { sev := 2, cls := cTimeout, block := 0x0000, synd := regulator } ]) s
/-- POWER_LIMIT_STEP (R512): above the limit every running tile above 0.8 GHz goes down by 0.1 GHz, 1 ms (±0.1 ms) after the
last step; below 95 % of it they go up again, 10 ms (±1 ms) after it. -/
def execPowerLimitStep (s : State) : Out :=
  let move := fun (wait : Nat) (g : State → Nat → Act) => Act.all [
    advanceTo (s.pwr.limitStep + wait),
    .each s.running fun n => .read fun s => g s n,
    .read fun s => .pwr fun p => { p with limitStep := s.clk.time } ]
  commit (if s.pwr.sums.isEmpty then .skip
    else if s.pwr.limit * 1000 < s.pwrAvg then
      move 900000 fun s n => .when (decide (8 < s.coreFreq n)) (setClock n (s.coreFreq n - 1))
    else if s.pwrAvg * 100 < s.pwr.limit * 95000 then
      move 9000000 fun s n => .when (decide (s.coreFreq n < s.profClock n)) (setClock n (s.coreFreq n + 1))
    else .skip) s
/-- A tile's clock goes down by 0.1 GHz, not below 0.8 GHz, where 1 ms (±0.1 ms) has passed since the last time. -/
def coolStep (n : Nat) : Act := .read fun s =>
  let due := match Tab.find s.pwr.thermStep n with | some t => decide (t + 900000 ≤ s.clk.time) | none => true
  .when (due && decide (8 < s.coreFreq n)) (.all [
    setClock n (s.coreFreq n - 1),
    .pwr fun p => { p with thermStep := Tab.put p.thermStep n s.clk.time } ])
/-- Once a condition has held for 100 ms since `since`, a lowered clock returns to its profile value. -/
def coolDone (n : Nat) (since : Option Nat) : Act := .read fun s => match since with
  | some t => .when (decide (t + 100000000 ≤ s.clk.time)) (.all [
      setClock n (s.profClock n), .pwr fun p => { p with thermStep := Tab.drop p.thermStep n } ])
  | none => .skip
/-- TILE_THERMAL_STEP (R513): the sensor of a tile reads `temp` °C, `after` ns from now. -/
def execTileThermalStep (node : Nat) (temp : Int) (after : Nat) (s : State) : Out :=
  commit (if 224 ≤ node ∨ nodeKind node ≠ 0 ∨ !s.pwr.railC then .skip else .all [
    advance after,
    .pwr fun p => { p with tileTemp := Tab.put p.tileTemp node temp },
    dieWarn (nodeDie node),
    .read fun s =>
      if 100 ≤ temp then .seq (coolStep node) (.pwr fun p => { p with thermCool := Tab.drop p.thermCool node })
      else if temp ≤ 95 then (match Tab.find s.pwr.thermCool node with
        | some t => .when (Tab.find s.pwr.thermStep node).isSome (coolDone node (some t))
        | none => .pwr fun p => { p with thermCool := Tab.put p.thermCool node s.clk.time })
      else .pwr fun p => { p with thermCool := Tab.drop p.thermCool node } ]) s
/-- NEIGHBOUR_THERMAL_STEP (R58): the sensors of two neighbouring tiles read these temperatures in °C, `after` ns from now. One
CE record tells of an episode. -/
def execNeighbourThermalStep (hot cool : Nat) (hotTemp coolTemp : Int) (after : Nat) (s : State) : Out :=
  let k := hot * 256 + cool
  commit (if 224 ≤ hot ∨ 224 ≤ cool ∨ nodeKind hot ≠ 0 ∨ nodeKind cool ≠ 0 ∨ hops hot cool ≠ 1 ∨ !s.pwr.railC then .skip
    else .all [
      advance after,
      .pwr fun p => { p with tileTemp := Tab.put (Tab.put p.tileTemp hot hotTemp) cool coolTemp },
      dieWarn (nodeDie hot), dieWarn (nodeDie cool),
      .read fun s =>
        if 45 < hotTemp - coolTemp then .all [
          .when (Tab.find s.mesh.nbrSince k).isNone (.all [
            rasLog { sev := 0, cls := cThermal, block := 0x100 + hot },
            .mesh fun m => { m with nbrSince := Tab.put m.nbrSince k s.clk.time } ]),
          .mesh fun m => { m with nbrCool := Tab.drop m.nbrCool k },
          coolStep hot ]
        else if hotTemp - coolTemp ≤ 40 then (match Tab.find s.mesh.nbrSince k, Tab.find s.mesh.nbrCool k with
          | some _, none => .mesh fun m => { m with nbrCool := Tab.put m.nbrCool k s.clk.time }
          | some _, some t => .seq (coolDone hot (some t)) (.when (decide (t + 100000000 ≤ s.clk.time))
              (.mesh fun m => { m with nbrSince := Tab.drop m.nbrSince k, nbrCool := Tab.drop m.nbrCool k }))
          | none, _ => .skip)
        else .mesh fun m => { m with nbrCool := Tab.drop m.nbrCool k } ]) s

/-! ### Rails and the trip (R604, R605, R617, R618) -/

/-- Is the rail on that a power-good input watches: 0 VR_PG_IOD, 1–4 VR_PG_Cd, 5–8 VR_PG_Qd, 9 VR_PG_DIMM (R604)? -/
def State.railOn (s : State) (input : Nat) : Bool :=
  if input = 0 then s.pwr.railIod else if input ≤ 4 then s.pwr.railC else if input ≤ 8 then s.pwr.railQ
  else input == 9 && s.pwr.railDimm
/-- Are FATAL_N and THERMTRIP_N held low (R549, R605, R618)? -/
def State.fatalLow (s : State) : Bool := s.fatalRecords || s.pwr.dead != 0
def State.thermtripLow (s : State) : Bool := s.pwr.dead == 2
/-- Every rail but VDD_AON goes; the sequencer ignores wakes until a reset (R605, R618). -/
def railsLost (why : Nat) : Act := .all [powerOff, enterState 3 0, .pwr fun p => { p with dead := why }]
/-- VR_PG_LOSS (R605): a power-good input is low for 100 µs while its enable is high. -/
def execVrPgLoss (input : Nat) (s : State) : Out := commit (.when (s.railOn input) (railsLost 1)) s
/-- THERMAL_TRIP (R617, Table 24.9): readings of 110 °C or more of a powered compute die (0–3) or the IOD (4) have held for
1 ms (±0.1 ms). -/
def execThermalTrip (tripDie : Nat) (s : State) : Out :=
  commit (match Tab.find s.crl.hot tripDie with
    | some (_, t) => .when (decide (tripDie < 5) && s.diePowered tripDie) (.seq (advanceTo (t + 900000)) (railsLost 2))
    | none => .skip) s

end Sys2Proof.Machine
end

