-- ==== Sys2Proof/Machine/Dobby.lean ====
section
/-! DEFINITION. Dobby itself (chapter 17): its rings, the acceptance of cards (R451, R452), ageing (R453), its own faults
(R459), and the INFO cards (R455, R456). -/

namespace Sys2Proof.Machine

/-! ### Rings (R448, R449, R462) -/

/-- The byte address of a ring's control block. -/
def State.ctlAddr (s : State) (w : Bool) : Nat := s.get (DBY_RING_CTLA (ringIx w)) DBY_RING_CTLA_ADDR * 64
/-- Is a ring enabled and consuming? -/
def State.ringLive (s : State) (w : Bool) : Bool :=
  s.bit (DBY_RING_CFG (ringIx w)) DBY_RING_CFG_EN && !(s.dby.ringOf w).disabling && !s.bit (DBY_RING_CFG (ringIx w)) DBY_RING_CFG_ERR

/-- A write of an index register; an access from the other world faults (R461). -/
def ringIndexWrite (a : Nat) (world w : Bool) (held v : W64) (after : Act) : Act := .read fun s =>
  if world ≠ w then ioFault
  else .all [.reg a ((s.reg a &&& ~~~ held) ||| (v &&& held)), after]
/-- DBY_RING_PROD_WRITE (R449): new cards are there to consume. -/
def execDbyRingProdWrite (world w : Bool) (value : W64) (s : State) : Out :=
  commit (ringIndexWrite (DBY_RING_PROD (ringIx w)) world w allBits value .skip) s
/-- DBY_RING_RCONS_WRITE (R449): reply space is freed, and source 90 or 91 follows. -/
def execDbyRingRconsWrite (world w : Bool) (value : W64) (s : State) : Out :=
  commit (ringIndexWrite (DBY_RING_RCONS (ringIx w)) world w allBits value (ringLine w)) s

/-- The enable checks (R462). -/
def State.ringOk (s : State) (w : Bool) : Bool :=
  let i := ringIx w
  let log := s.get (DBY_RING_CFG i) DBY_RING_CFG_LOG
  let rlog := s.get (DBY_RING_CFG i) DBY_RING_CFG_RLOG
  decide (6 ≤ log ∧ log ≤ 14) && decide (6 ≤ rlog ∧ rlog ≤ 14) &&
    s.dramOf w (s.get (DBY_RING_CFG i) DBY_RING_CFG_BASE * 4096) (64 * 2 ^ log) &&
    s.dramOf w (s.get (DBY_RING_RBASE i) DBY_RING_RBASE_ADDR * 64) (64 * 2 ^ rlog) &&
    s.dramOf w (s.ctlAddr w) 64
/-- A write of DBY_RINGw_CFG (Table 17.17, R462). LOG, RLOG and BASE take a write only while EN = 0. -/
def ringCfgWrite (world w : Bool) (held v : W64) : Act := .read fun s =>
  let a := DBY_RING_CFG (ringIx w)
  let en := s.bit a DBY_RING_CFG_EN
  let toEn := held.getLsbD 0 && v.getLsbD 0
  if world ≠ w then ioFault
  else .all [
    .when (held.getLsbD 2 && v.getLsbD 2) (setF a DBY_RING_CFG_LOST 0),
    .when (!en) (.read fun s => .reg a
      (let m := held &&& (DBY_RING_CFG_LOG.mask ||| DBY_RING_CFG_RLOG.mask ||| DBY_RING_CFG_BASE.mask)
       (s.reg a &&& ~~~ m) ||| (v &&& m))),
    .when (en && held.getLsbD 0 && !v.getLsbD 0) (modRing w fun y => { y with disabling := true }),
    .when (!en && toEn) (.read fun s =>
      if !s.ringOk w then setFs a [(DBY_RING_CFG_EN, 0), (DBY_RING_CFG_ERR, 1)]
      else .all [
        setFs a [(DBY_RING_CFG_EN, 1), (DBY_RING_CFG_ERR, 0)],
        .reg (DBY_RING_PROD (ringIx w)) 0, .reg (DBY_RING_RCONS (ringIx w)) 0,
        modRing w fun _ => {},
        wrCohNat (s.ctlAddr w) 4 0, wrCohNat (s.ctlAddr w + 8) 4 0,
        ringLine w ]) ]
/-- DBY_RING_ENABLE (R462): `value` with EN = 1. -/
def execDbyRingEnable (world w : Bool) (value : W64) (s : State) : Out :=
  commit (ringCfgWrite world w allBits (DBY_RING_CFG_EN.put value 1)) s
/-- DBY_RING_DISABLE (R462): `value` with EN = 0: consumption stops at once. -/
def execDbyRingDisable (world w : Bool) (value : W64) (s : State) : Out :=
  commit (ringCfgWrite world w allBits (DBY_RING_CFG_EN.put value 0)) s
/-- DBY_RING_DISABLE_DONE (R462): every card taken from the ring has its final reply. -/
def execDbyRingDisableDone (w : Bool) (s : State) : Out :=
  commit (.when ((s.dby.ringOf w).disabling && (s.dby.ringOf w).taken == 0) (.all [
    setF (DBY_RING_CFG (ringIx w)) DBY_RING_CFG_EN 0,
    modRing w fun y => { y with disabling := false } ])) s

/-! ### Acceptance (R443, R451, R452) -/

/-- Does an opcode carry a function number in FUNC (Table 17.3)? -/
def funcOpcode (op : Nat) : Bool := decide (0x0401 ≤ op ∧ op ≤ 0x0408) || op == 0x0802
/-- The context of a card by its header. -/
def cardCtx (via : Transport) (l : List Byte) : CardCtx :=
  { via := via, world := (cardField l 0x0A 2).testBit 0, tag := cardField l 0x04 2, seq := cardField l 0x0C 4 }
/-- Does MCTP carry this card although it is no QUERY card (Table 17.6)? -/
def mctpAllows (op : Nat) (l : List Byte) : Bool := op == 0x0702 || (op == 0x0101 && cardField l 0x10 1 == 0)
/-- A card's opcode, class, FLAGS, FUNC and WORLD (R451, steps 2 to 4): the offset of the first field that fails. -/
def headerBad (l : List Byte) : Option Nat :=
  let op := cardField l 0 2
  let flags := cardField l 2 1
  let func := cardField l 8 2
  match cardRow op with
  | none => some 0x00
  | some r =>
    if cardField l 3 1 ≠ r.cls then some 0x03
    else if 2 ≤ flags ∨ (flags = 1 ∧ !r.force) then some 0x02
    else if (if funcOpcode op then decide (8192 < func) else func != 0xFFFF) then some 0x08
    else if 2 ≤ cardField l 0x0A 2 then some 0x0A
    else none
/-- Is there queue space for a class (R452)? -/
def State.queueFree (s : State) (cls : Nat) : Bool :=
  if cls = 0 then decide (s.dby.queue.length < 1024)
  else decide ((s.dby.queue.filter fun q => q.cls != 0).length < 1008) && decide (s.dby.queue.length < 1024)
/-- The classes whose oldest card has waited 10 ms (R453). -/
def State.agedClasses (s : State) : List Nat := [1, 2, 3, 4].filter fun k =>
  match s.dby.queue.find? (·.cls == k) with
  | some q => decide (q.arrived + 10000000 ≤ s.clk.time)
  | none => false
/-- The classes in the order in which they are served (R453): SAFETY, then the aged classes, then the others. -/
def State.classOrder (s : State) : List Nat :=
  0 :: s.agedClasses ++ ([1, 2, 3, 4].filter fun k => !s.agedClasses.contains k)
/-- The retry-after time of a full queue in µs (R452): 4 µs for each card of the class and of those served before it. -/
def State.queueWait (s : State) (cls : Nat) : Nat :=
  let upTo := s.classOrder.takeWhile (· != cls) ++ [cls]
  let n := (s.dby.queue.filter fun q => upTo.contains q.cls).length
  min 65535 (max 10 ((4 * n + 9) / 10 * 10))
/-- Mark the classes that are aged. -/
def ageEval : Act := .read fun s => .dby fun d => { d with aged := s.agedClasses }
/-- Steps 2 to 6 of R451 on a card that has been taken: it is answered or queued. -/
def cardAccept (via : Transport) (l : List Byte) : Act := .read fun s =>
  let c := cardCtx via l
  let op := cardField l 0 2
  let func := cardField l 8 2
  let cls := cardField l 3 1
  match headerBad l with
  | some o => answer0 c op stBADPARAM (dOff o)
  | none => match s.gateFail c op (mctpAllows op l) (s.cardOwner c.world op func l) with
    | some (st, d) => answer0 c op st d
    | none =>
      if !s.queueFree cls then answer0 c op stBUSY (dBusy (s.queueWait cls) 0xFFFF)
      else .all [
        .dby fun d => { d with queue := d.queue ++ [{ ctx := c, opcode := op, cls := cls, force := (cardField l 2 1).testBit 0,
                                                      func := func, bytes := l, arrived := s.clk.time }] },
        dbyStat, ageEval ]

/-- Bytes of a card ring from slot `k`, which wraps (R448). -/
def State.ringBytes (s : State) (w : Bool) (k n : Nat) : List Byte :=
  let i := ringIx w
  let log := s.get (DBY_RING_CFG i) DBY_RING_CFG_LOG
  let base := s.get (DBY_RING_CFG i) DBY_RING_CFG_BASE * 4096
  ((List.range ((n + 63) / 64)).flatMap fun j => s.rd (base + (k + j) % 2 ^ log * 64) 64).take n
/-- Does a card of the ring read poison? -/
def State.ringPoison (s : State) (w : Bool) (k n : Nat) : Bool :=
  let i := ringIx w
  let log := s.get (DBY_RING_CFG i) DBY_RING_CFG_LOG
  let base := s.get (DBY_RING_CFG i) DBY_RING_CFG_BASE * 4096
  (List.range ((n + 63) / 64)).any fun j => s.rdPoison (base + (k + j) % 2 ^ log * 64) 64
/-- CARD_CONSUME (R449, R451): Dobby takes the next card of a ring, if one is there, its reply space is free and the device
state serves rings. A card whose LENGTH is wrong, and a slot that reads poison (R555, with OPCODE, TAG and SEQ 0), is
answered and stops the ring; neither is consumed. -/
def execCardConsume (w : Bool) (s : State) : Out :=
  let i := ringIx w
  let x := s.dby.ringOf w
  let prod := s.get (DBY_RING_PROD i) DBY_RING_PROD_INDEX
  let avail := (prod + 2 ^ 32 - x.cons) % 2 ^ 32
  let head := s.ringBytes w x.cons 16
  let words := cardField head 6 2
  let slots := (words * 4 + 63) / 64
  let op := cardField head 0 2
  let short := decide (words < 4) || decide (1024 < words) || decide (avail < slots)
  let l := s.ringBytes w x.cons (words * 4)
  let c := cardCtx (.ring w) head
  let consumed := fun (n : Nat) => Act.all [
    modRing w fun y => { y with cons := (y.cons + n) % 2 ^ 32, stalled := false },
    wrCohNat (s.ctlAddr w) 4 ((x.cons + n) % 2 ^ 32),
    cardTaken c op,
    .dby fun d => { d with lastProgress := s.clk.time } ]
  let poison := s.ringPoison w x.cons 16 || (!short && s.ringPoison w x.cons (words * 4))
  let space := if poison || short then 1 else replySpace op
  let stop := setF (DBY_RING_CFG i) DBY_RING_CFG_ERR 1
  commit (if !s.ringLive w ∨ 2 ≤ s.dstate ∨ !s.romReady ∨ avail = 0 then .skip
    else if s.replyRoom w < space then
      .when (!x.stalled) (.seq (modRing w fun y => { y with stalled := true }) (bump DBY_RING_STALL))
    else if poison then .seq (replyWith { c with tag := 0, seq := 0 } 0 stFAULT (dBlk 0x0001) []) stop
    else if short then .seq (replyWith c op stBADPARAM (dOff 0x06) []) stop
    else .seq (consumed slots) (cardAccept (.ring w) l)) s

/-- A card of MCTP or of the mailbox: its LENGTH is checked, and bytes beyond it are ignored (R449). -/
def messageCard (via : Transport) (l : List Byte) : Act := .read fun s =>
  let words := cardField l 6 2
  let c := cardCtx via l
  let op := cardField l 0 2
  let go : Act := .seq (cardTaken c op)
    (if words < 4 ∨ 1024 < words ∨ l.length < words * 4 then answer0 c op stBADPARAM (dOff 0x06)
     else cardAccept via (l.take (words * 4)))
  if !s.reaches c op then .skip else (mctpFirst c op s).getD go
/-- MCTP_MESSAGE (R450): an assembled message of type 0x7E and vendor 0x1F9A carries a card. -/
def execMctpMessage (endpoint : Nat) (msg : List Byte) (s : State) : Out :=
  commit (.when (decide (msg.length ≤ 4099) && msg.take 3 == [0x7E, 0x1F, 0x9A])
    (messageCard (.mctp endpoint) (msg.drop 3))) s
/-- MAILBOX_CARD (R446): a card shifted in while the TAP's MAILBOX instruction is selected. -/
def execMailboxCard (l : List Byte) (s : State) : Out :=
  commit (.when (s.dbg.ir == 0x20) (messageCard .jtag l)) s
/-- CARD_CLASS_AGED (R453): the oldest card of a class has waited 10 ms. -/
def execCardClassAged (cls : Nat) (s : State) : Out :=
  commit (match s.dby.queue.find? (·.cls == cls) with
    | some q => .when (decide (1 ≤ cls)) (.seq (advanceTo (q.arrived + 10000000)) ageEval)
    | none => .skip) s

/-! ### Faults of Dobby itself (R459, Table 17.14) -/

/-- The card pair restarts: every queued or open card that `keep` does not name is answered FAULT. -/
def cardRestart (keep : OpenOp → Bool) : Act := .read fun s => .all [
  .each s.dby.queue fun q => .seq (replyWith q.ctx q.opcode stFAULT (dBlk 0x0001) []) (cardDone q.ctx (replySpace q.opcode)),
  .each (s.dby.openOps.filter fun o => !keep o) fun o =>
    .seq (replyWith o.ctx o.opcode stFAULT (dBlk 0x0001) []) (cardDone o.ctx (replySpace o.opcode - 1)),
  .dby fun d => { d with queue := [], openOps := d.openOps.filter keep, aged := [], serving := false,
                         lastProgress := s.clk.time },
  dbyStat,
  bump DBY_RESTARTS ]
/-- The restart after an uncorrectable error in the scratch: the queue records are lost, so nothing is answered, LOST is set
on both rings and their sources are raised. -/
def cardLost : Act := .read fun s => .all [
  .dby fun d => { d with queue := [], openOps := [], aged := [], serving := false, lastProgress := s.clk.time,
                         mctp := d.mctp.map fun p => (p.1, { p.2 with outstanding := 0 }) },
  .each [false, true] fun w => .all [
    modRing w fun y => { y with taken := 0, reserved := 0 },
    setF (DBY_RING_CFG (ringIx w)) DBY_RING_CFG_LOST 1,
    sourceRaise (90 + ringIx w) ],
  dbyStat,
  bump DBY_RESTARTS ]
/-- A record of Dobby's bank. -/
def dbyRec (sev cls : Nat) : RasRec := { sev := sev, cls := cls, block := 0x0001 }
/-- DOBBY_WATCHDOG_EXPIRY (R459): no progress for 100 ms (±10 ms). -/
def execDobbyWatchdogExpiry (s : State) : Out :=
  commit (.when s.romReady (.all [
    advanceTo (s.dby.lastProgress + 90000000), rasLog (dbyRec 2 cLockstep), cardRestart fun _ => false ])) s
/-- CARD_PAIR_MISMATCH (R459): a lockstep mismatch of the card pair, or with `scratch` an uncorrectable error in its
scratch. -/
def execCardPairMismatch (scratch : Bool) (s : State) : Out :=
  commit (.when s.romReady (if scratch then .seq (rasLog (dbyRec 2 cArray)) cardLost
    else .seq (rasLog (dbyRec 2 cLockstep)) (cardRestart fun _ => false))) s
/-- SAFETY_PAIR_MISMATCH (R459): the safety key goes from every channel. -/
def execSafetyPairMismatch (s : State) : Out :=
  commit (.when s.romReady (.all [
    setF DBY_STAT DBY_STAT_SAFE_OK 0,
    rasLog (dbyRec 3 cLockstep),
    .each (List.range 16) fun n => .read fun s => .when (s.feedKey n 1) (.seq (bump CREEL_KEY_LOSS) (keyGone n 1 0x0E)) ])) s

/-! ### INFO cards (R455, R456) -/

/-- The life-cycle state as INFO.IDENTIFY reports it (Table 18.11). -/
def State.lifeCode (s : State) : Nat := if s.fuses.lifeCopiesAgree then s.fuses.life else 7
/-- INFO_IDENTIFY. -/
def execInfoIdentify (c : CardCtx) (s : State) : Out :=
  commit (gated c 0x0001 false (fun _ => .any) fun s =>
    answer c 0x0001 stOK 0xFFFF (natLe 8 (s.reg DBY_CHIP_ID).toNat ++ natLe 16 s.fuses.uid ++ natLe 1 s.lifeCode ++
      natLe 1 (s.boot.slot.getD 0xFF) ++ natLe 2 0 ++ natLe 4 s.boot.fwVersion)) s
/-- INFO_CAPS. -/
def execInfoCaps (c : CardCtx) (s : State) : Out :=
  commit (gated c 0x0002 false (fun _ => .any) fun s =>
    let chans := ((List.range 12).map fun k => if s.bit (MC_CFG k) MC_CFG_POP then 2 ^ k else 0).sum
    answer c 0x0002 stOK 0xFFFF (natLe 1 (s.get DBY_CHIP_ID DBY_CHIP_ID_GRADE) ++ natLe 1 192 ++
      natLe 1 (8 - s.dby.sparedDone.length) ++ natLe 1 0 ++ natLe 2 chans ++ natLe 1 (s.get SHU_MODE SHU_MODE_MODE) ++
      natLe 1 16 ++ natLe 8 s.dramBytes ++ natLe 1 s.pwr.profile ++ natLe 1 s.dstate)) s

/-- A two's complement number of `n` bytes. -/
def intLe (n : Nat) (v : Int) : List Byte := natLe n (v % (256 ^ n : Nat)).toNat
/-- The telemetry snapshot (Table 17.13). Channel bandwidth is a measurement: a free value. -/
def State.snapshot (s : State) (seq free : Nat) : List Byte :=
  let harts := List.range 192
  let feeds := List.range 16
  let nodeOf := fun (h : Nat) => s.hartNode h
  natLe 8 seq ++ natLe 8 s.clk.time ++ natLe 1 s.pwr.profile ++ natLe 1 s.dstate ++ natLe 2 0 ++ natLe 4 s.pkgPower ++
    ((List.range 6).flatMap fun d => intLe 2 (s.dieTemp d)) ++ natLe 12 0 ++
    (harts.map fun h => BitVec.ofNat 8 (match nodeOf h with | some n => s.coreFreq n | none => 0)) ++
    (harts.flatMap fun h => intLe 1 (match nodeOf h with | some n => Tab.getD s.pwr.tileTemp n 25 | none => 25)) ++
    (feeds.flatMap fun n => natLe 4 (s.get (CREEL_CH_CUR n) CREEL_CH_CUR_CURRENT)) ++
    (feeds.flatMap fun n => natLe 2 (s.get (CREEL_CH_STAT n) CREEL_CH_STAT_VOUT)) ++
    (feeds.map fun n => BitVec.ofNat 8 (s.feedState n)) ++
    ((List.range 12).flatMap fun ch => natLe 4 (Config.bandwidth free ch)) ++
    natLe 1440 0 ++ natLe 8 s.clk.time ++ natLe 8 seq
/-- INFO_TELEMETRY (R456): the snapshot goes to `snap`, or into the reply where that is 0. -/
def execInfoTelemetry (c : CardCtx) (snap : Nat) (s : State) : Out :=
  commit (gated c 0x0003 false (fun _ => .any) fun s =>
    if snap ≠ 0 ∧ (snap % 64 ≠ 0 ∨ !s.dramOf c.world snap 2048) then answer0 c 0x0003 stBADPARAM (dOff 0x10)
    else withFree fun k => .all [
      .dby fun d => { d with telSeq := d.telSeq + 1 },
      .read fun s =>
        let l := s.snapshot s.dby.telSeq k
        if snap = 0 then answer c 0x0003 stOK 0xFFFF l else .seq (wrCoh snap l false) (answerOk c 0x0003) ]) s

end Sys2Proof.Machine
end

