-- ==== Sys2Proof/Machine/Boot.lean ====
section
/-! DEFINITION. Resets, images, the boot flow, the release of harts, and the keeper (chapter 22). -/

namespace Sys2Proof.Machine

/-- Carry on in the next state. -/
def andThen (o : Out) (k : State → Out) : Out := match o with
  | .next s => k s
  | x => x

/-! ### Reset requests (R567–R570, R611) -/

/-- POWER_ON_RESET (R567): VDD_AON is applied. -/
def execPowerOnReset (s : State) : Out := commit (startReset 0 0 false) s
/-- A reset pin was low for `low` ns (R611): from 10 µs on it starts its reset, below 8 µs it does not, and between the two
it may. -/
def pinReset (low : Nat) (a : Act) : Act :=
  if low < 8000 then .skip
  else if 10000 ≤ low then a
  else withFree fun k => .when (Config.pulseTaken k) a
/-- COLD_RESET_PIN (R611): after a trip the start has SOURCE 6 (R618). -/
def execColdResetPin (low : Nat) (s : State) : Out :=
  commit (pinReset low (startReset 1 (if s.pwr.dead = 2 then 6 else 1) false)) s
/-- WARM_RESET_PIN (R611): while a lost rail or a trip holds the sequencer, it waits for RST_N (R605, R618). -/
def execWarmResetPin (low : Nat) (s : State) : Out :=
  commit (.when (s.pwr.dead == 0) (pinReset low (startReset 2 2 false))) s
/-- A write of PWR_RESET (R570). -/
def pwrResetWrite (world : Bool) (held v : W64) : Act := .read fun s =>
  let w := v &&& held
  if world ≠ s.blockWorld 0 ∨ PWR_RESET_KEY.get w ≠ 0xA5C3 then .skip
  else match PWR_RESET_KIND.get w with
  | 1 => startReset 2 3 false
  | 2 => startReset 1 3 false
  | _ => .skip
/-- PWR_RESET_WARM (R570): a write of `value` with KIND 1. -/
def execPwrResetWarm (world : Bool) (value : W64) (s : State) : Out :=
  commit (pwrResetWrite world allBits (PWR_RESET_KIND.put value 1)) s
/-- PWR_RESET_COLD (R570): a write of `value` with KIND 2. -/
def execPwrResetCold (world : Bool) (value : W64) (s : State) : Out :=
  commit (pwrResetWrite world allBits (PWR_RESET_KIND.put value 2)) s

/-! ### Releasing harts (R579) -/

/-- A hart starts; a halt-on-reset request that is set halts it first (Table 23.2). -/
def startHart (h : Nat) (t : Hart) : Act := .all [
  modHart h fun _ => { t with released := true },
  .read fun s => .when (s.hdbg h).resetHalt
    (if s.canHalt h then enterDebug h 5 t.pc else modHdbg h fun d => { d with haltReq := true }) ]
/-- A write of PWR_HART_GO (Table 22.11): with GO it releases a hart, or sets ERR. -/
def hartGoWrite (world : Bool) (held v : W64) : Act := .read fun s =>
  let m := held &&& (PWR_HART_GO_HART.mask ||| PWR_HART_GO_ADDR.mask)
  if world ≠ s.blockWorld 0 then .skip
  else .all [
    .reg PWR_HART_GO ((s.reg PWR_HART_GO &&& ~~~ m) ||| (v &&& m)),
    .when (held.getLsbD 8 && v.getLsbD 8) (.read fun s =>
      let h := s.get PWR_HART_GO PWR_HART_GO_HART
      let a := s.get PWR_HART_GO PWR_HART_GO_ADDR * 4
      let runs : Bool := match s.hartNode h with | some n => s.tstate n == tsRun | none => false
      if 191 < h ∨ (s.hart h).released ∨ !runs ∨ !s.dramOf true a 4 then setF PWR_HART_GO PWR_HART_GO_ERR 1
      else .all [
        setF PWR_HART_GO PWR_HART_GO_ERR 0,
        startHart h (({ pc := a } : Hart).wx 10 (BitVec.ofNat 64 h)) ]) ]
/-- PWR_HART_GO (R579): a write of `value`. -/
def execPwrHartGo (world : Bool) (value : W64) (s : State) : Out := commit (hartGoWrite world allBits value) s

/-! ### Flash and images (R572–R574) -/

/-- `n` bytes of SPI NOR device `dev` from offset `off`. -/
def State.flash (s : State) (dev off n : Nat) : List Byte :=
  (List.range n).map fun i => Tab.load (fun _ => (0xFF : Byte)) s.boot.flash (dev * 2 ^ 32 + off + i)
/-- Program bytes of a device. -/
def flashWrite (dev off : Nat) (l : List Byte) : Act := .boot fun b =>
  { b with flash := l.zipIdx.foldl (fun t p => Tab.store (fun _ => (0xFF : Byte)) t (dev * 2 ^ 32 + off + p.2) p.1) b.flash }

/-- The bytes of an image: where they are read from. -/
abbrev ImageBytes := Nat → Nat → List Byte
/-- A header field (Table 22.5). -/
def imgNum (b : ImageBytes) (off n : Nat) : Nat := leNat (b off n)
/-- The payload length, and the offset, length, load address and entry of the host payload. -/
def imgLen (b : ImageBytes) : Nat := imgNum b 0x10 4
def imgHostOff (b : ImageBytes) : Nat := imgNum b 0x28 4
def imgHostLen (b : ImageBytes) : Nat := imgNum b 0x2C 4
def imgHostLoad (b : ImageBytes) : Nat := imgNum b 0x30 8
def imgHostEntry (b : ImageBytes) : Nat := imgNum b 0x38 8
/-- The format check of Table 22.6, with the ranges that Table 22.5 gives. -/
def imgFormat (b : ImageBytes) : Bool :=
  let len := imgLen b
  let inside := fun (o n : Nat) => decide (0x1000 ≤ o) && decide (o + n ≤ 0x1000 + len)
  let dbyLen := imgNum b 0x1C 4
  imgNum b 0 4 == 0x4E54494D && imgNum b 4 2 == 1 && decide (imgNum b 6 1 ≤ 1) && decide (imgNum b 7 1 ≤ 1) &&
    decide (imgNum b 8 4 ≤ 64) && decide (1 ≤ len) && decide (len ≤ 0xFFF000) &&
    imgNum b 0x14 4 == 0 && imgNum b 0x70 16 == 0 &&
    decide (1 ≤ dbyLen ∧ dbyLen ≤ 448 * 1024) && inside (imgNum b 0x18 4) dbyLen &&
    inside (imgNum b 0x20 4) (imgNum b 0x24 4) &&
    decide (imgHostLen b ≤ 2 * 1024 * 1024) && (imgHostLen b == 0 || inside (imgHostOff b) (imgHostLen b)) &&
    imgHostLoad b % 4096 == 0
/-- The key check of Table 22.6. -/
def State.imgKeyOk (s : State) (b : ImageBytes) : Bool :=
  let hash := beOf (sha384 (toNats (b 0x80 96)))
  if imgNum b 6 1 = 1 then s.fuses.ownerSet && hash == s.fuses.ownerHash
  else hash == s.fuses.vendorHash && !(s.life == 2 && s.fuses.ownerSet)
/-- Is an image valid (R574)? -/
def State.imgValid (s : State) (b : ImageBytes) : Bool :=
  imgFormat b && s.imgKeyOk b &&
    ecdsaOk (toNats (b 0x80 96)) (sha384 (toNats (b 0 0xE0 ++ b 0x1000 (imgLen b)))) (toNats (b 0xE0 96)) &&
    decide (s.fuses.floor ≤ imgNum b 8 4)
/-- The image of a slot: A in device 0, B in device 1. -/
def State.slotImage (s : State) (k : Nat) : ImageBytes := s.flash k
/-- Is the image of a slot valid? -/
def State.slotValid (s : State) (k : Nat) : Bool := s.imgValid (s.slotImage k)
/-- Step 8 of Table 22.7: the host payload lies in populated DRAM with its entry inside, and has its digest. -/
def State.hostOk (s : State) (k : Nat) : Bool :=
  let b := s.slotImage k
  imgHostLen b == 0 || (s.populated (imgHostLoad b) (imgHostLen b) &&
    decide (imgHostLoad b ≤ imgHostEntry b) && decide (imgHostEntry b < imgHostLoad b + imgHostLen b) &&
    sha384 (toNats (b (imgHostOff b) (imgHostLen b))) == toNats (b 0x40 48))

/-! ### Selection (R577) -/

/-- What a selection gives: the slot, ACTIVE, TRIAL and TRIED as they are then, and the rejected slots. -/
structure Choice where
  slot : Option Nat
  active : Nat
  trial : Bool
  tried : Bool
  rejected : List Nat := []
  deriving DecidableEq, Repr

/-- The selection of R577 for a BOOTSEL; `ok` says which slots can run. -/
def choose (bootsel active : Nat) (trial tried : Bool) (ok : Nat → Bool) : Choice :=
  match bootsel with
  | 0 =>
    let first := trial && tried
    let cand := if first then 1 - active else active
    let base : Choice := { slot := none, active := cand, trial := trial && !first, tried := tried || trial,
                           rejected := if first then [active] else [] }
    if ok cand then { base with slot := some cand }
    else { base with slot := if ok (1 - cand) then some (1 - cand) else none, rejected := base.rejected ++ [cand] }
  | 3 => { slot := none, active := active, trial := trial, tried := tried }
  | k => { slot := if ok (k - 1) then some (k - 1) else none, active := active, trial := trial, tried := tried }

/-! ### Memory at boot (R393, R398, R405–R407, R619) -/

/-- A logical channel: its number, its members, and their layout. -/
structure LogChan where
  ch : Nat
  mem : List Nat
  cap : Nat
  ranks : Nat
  deriving DecidableEq, Repr

/-- The DIMMs of a channel that trained. -/
def State.trainedDimms (s : State) (env : BootEnv) (c : Nat) : Option Dimms :=
  match (env.dimms[c]?).getD none with
  | some d => if d.trained && !s.boot.failed.contains c then some d else none
  | none => none
/-- The spare rank that the configuration block names for a channel. -/
def spareOf (cfg : ImageCfg) (c : Nat) (d : Dimms) : Nat :=
  let r := (cfg.spare[c]?).getD 0xF
  if r < d.ranks ∧ 1 < d.ranks then r else 0xF
/-- The capacity of a channel in GiB, without its spare rank (R407). -/
def capOf (cfg : ImageCfg) (c : Nat) (d : Dimms) : Nat :=
  if spareOf cfg c d = 0xF then d.capacity else d.capacity / d.ranks * (d.ranks - 1)
/-- Is a pair to be mirrored: as MEM.MIRROR has set it, else as the configuration block says? -/
def State.mirrorWanted (s : State) (cfg : ImageCfg) (k : Nat) : Bool := Tab.getD s.mc.mirrorUse k (cfg.mirror.testBit k)
/-- The logical channels: the mirrored pairs whose sides are alike, and the other channels that trained. -/
def State.logChans (s : State) (env : BootEnv) (cfg : ImageCfg) : List LogChan :=
  (List.range 6).flatMap fun k =>
    let one := fun (c : Nat) => match s.trainedDimms env c with
      | some d => [({ ch := c, mem := [c], cap := capOf cfg c d, ranks := d.ranks } : LogChan)]
      | none => []
    match one (2 * k), one (2 * k + 1) with
    | [a], [b] => if s.mirrorWanted cfg k && a.cap == b.cap && a.ranks == b.ranks
        then [{ a with mem := [2 * k, 2 * k + 1] }] else [a, b]
    | x, y => x ++ y
/-- The groups of equal layout, by their lowest channel. -/
def groupChans (fuel : Nat) (l : List LogChan) : List (List LogChan) :=
  match fuel, l with
  | fuel + 1, a :: r =>
    let same := fun (x : LogChan) => x.cap == a.cap && x.ranks == a.ranks
    (a :: r.filter same) :: groupChans fuel (r.filter fun x => !same x)
  | _, _ => []
/-- The total capacity of a group. -/
def groupCap (g : List LogChan) : Nat := (g.map (·.cap)).sum
/-- Put a group before the first smaller one. -/
def placeGroup (g : List LogChan) (l : List (List LogChan)) : List (List LogChan) :=
  match l with
  | [] => [g]
  | x :: r => if groupCap x < groupCap g then g :: x :: r else x :: placeGroup g r
/-- The interleave sets in their order (R619). -/
def formSets (l : List LogChan) : List (List LogChan) :=
  (((groupChans 12 l).filter fun g => decide (2 ≤ g.length)).foldl (fun t g => placeGroup g t) []).take 4

/-- Training, sets and zero-fill (Table 22.7 step 6): the registers of the channels and of the sets; a channel that holds
DIMMs and finds no place is left unpopulated with a UCR record. -/
def bootMemory (env : BootEnv) (cfg : ImageCfg) : Act := .read fun s =>
  let log := s.logChans env cfg
  let sets := formSets log
  let placed := sets.flatten.flatMap (·.mem)
  .all [
    .each (List.range 12) fun c =>
      match (env.dimms[c]?).getD none with
      | none => .skip
      | some d =>
        if placed.contains c then .all [
          setFs (MC_CFG c) [(MC_CFG_POP, 1), (MC_CFG_RANKS, d.ranks), (MC_CFG_SPARE, spareOf cfg c d), (MC_CFG_SPEED, d.speed),
            (MC_CFG_CAP, capOf cfg c d), (MC_CFG_MIRROR, if log.any (fun x => decide (2 ≤ x.mem.length) && x.mem.contains c) then 1 else 0)],
          setFs (MC_STAT c) [(MC_STAT_ZF_DONE, 1), (MC_STAT_FAILED_RANK, Tab.getD s.mc.spared c 0xF)] ]
        else .when (!s.boot.failed.contains c) (rasLog { sev := 2, cls := cDram, block := 0x200 + c }),
    .each ((List.range sets.length).zip sets) fun p => setFs (MC_ILV p.1) [
      (MC_ILV_BASE, ((sets.take p.1).map groupCap).sum), (MC_ILV_SIZE, groupCap p.2),
      (MC_ILV_CHANNELS, (p.2.map fun x => 2 ^ x.ch).sum), (MC_ILV_VALID, 1)],
    .each s.mc.forced fun c => .all [
      setFs (MC_CFG c) [(MC_CFG_RETIRED, 1), (MC_CFG_FORCED, 1)],
      setTState (mcNode c) tsFenced,
      setFs (MESH_FENCE_STAT (mcNode c)) [(MESH_FENCE_STAT_FENCED, 1), (MESH_FENCE_STAT_RESPONDER, 1), (MESH_FENCE_STAT_FORCED, 1)] ] ]

/-! ### Nodes and harts at boot (R19, R22, R72, R79) -/

/-- Is a tile enabled: no field spare, or one that has taken a failed tile's place (R561)? -/
def State.tileEnabled (s : State) (n : Nat) : Bool :=
  !(s.dby.sparedDone.any (·.1 == n)) && (!s.fuses.spares.contains n || s.dby.sparedDone.any (·.2 == n))
/-- Hart IDs in ascending node order, tile states, the slice map, and the memory tags. -/
def bootNodes : Act := .read fun s =>
  let tiles := (tileNodes.filter s.tileEnabled).take 192
  .all [
    .each ((List.range 192).zip tiles) fun p => .all [
      setFs (nodeBase p.2) [(MESH_NODE_INFO_HART, p.1), (MESH_NODE_INFO_HART_VALID, 1), (MESH_NODE_INFO_TSTATE, tsRun)],
      setFs (MESH_HART_MAP p.1) [(MESH_HART_MAP_NODE, p.2), (MESH_HART_MAP_VALID, 1)] ],
    .each tileNodes fun n => setB (nodeBase n) MESH_NODE_INFO_SPARE (s.fuses.spares.contains n && !s.tileEnabled n),
    .each ((List.range 224).filter fun n => nodeKind n != 0) fun n => setTState n tsRun,
    .each (List.range 4096) fun i => setF (LLC_MAP i) LLC_MAP_NODE ((tiles[i % 192]?).getD 0),
    .each ((List.range 192).zip tiles) fun p =>
      setF (LLC_STAT p.2) LLC_STAT_MAP_ENTRIES (if p.1 < 64 then 22 else 21),
    .each (List.range 4) divideTags,
    .mesh fun m => { m with stopped := false } ]

/-! ### The boot flow (R575, Table 22.7) -/

/-- Fuses and straps (step 2). -/
def bootSense (env : BootEnv) : Act := .read fun s => .all [
  setFs PWR_RSTINFO [(PWR_RSTINFO_BOOTSEL, env.bootsel % 4), (PWR_RSTINFO_PROF, env.prof % 4)],
  setFs DBY_CHIP_ID [(DBY_CHIP_ID_GRADE, s.fuses.grade), (DBY_CHIP_ID_STEP, s.fuses.step)],
  setFs SEL_LIFE [(SEL_LIFE_STATE, s.lifeCode), (SEL_LIFE_OWNER_SET, if s.fuses.ownerSet then 1 else 0), (SEL_LIFE_CAP, s.fuses.cap)],
  .reg SEL_DEBUG (if s.life = 2 then 0 else 0xF),
  effectiveEval,
  .hrn fun x => { x with clkStopped := false },
  .when (!s.fuses.lifeCopiesAgree) (rasLog { sev := 3, cls := cState, block := 0x0003 }) ]
/-- The boot flow stops: only INFO cards are served (R621). -/
def bootStop (mode : Nat) : Act := .seq (.dby fun d => { d with limited := mode }) endTrans
/-- A valid TRD_ABORT goes to the refusal log, and VALID clears (R506). -/
def copyAbort : Act := .read fun s => .when (s.bit TRD_ABORT TRD_ABORT_VALID) (.all [
  refusal 0xFFFF (s.get TRD_ABORT TRD_ABORT_BLOCK) stTIMEOUT (s.get TRD_ABORT TRD_ABORT_TRANSITION),
  setF TRD_ABORT TRD_ABORT_VALID 0 ])
/-- Steps 8 and 9, and the keeper (R577, R579, R580). -/
def bootEnd (x : Choice) : Act := .read fun s =>
  let b := s.slotImage (x.slot.getD 0)
  let keeper := x.slot.isNone || imgHostLen b == 0
  .all [
    .boot fun t => { t with active := x.active, trial := x.trial, tried := x.tried, slot := x.slot
                            fwVersion := if x.slot.isSome then imgNum b 0x0C 4 else 0 },
    .each x.rejected fun k => rasLog { sev := 2, cls := cState, block := 0x0001, synd := k },
    setFs PWR_RSTINFO [(PWR_RSTINFO_IMAGE, x.slot.getD 3), (PWR_RSTINFO_FALLBACK, if x.rejected.isEmpty then 0 else 1),
      (PWR_RSTINFO_TRIAL, if x.slot == some x.active && x.trial then 1 else 0)],
    setFs DBY_STAT [(DBY_STAT_KEEPER, if keeper then 1 else 0), (DBY_STAT_IMAGE, x.slot.getD 0)],
    endTrans, copyAbort,
    .read fun s =>
      if keeper then .when (s.get TRD_STAT TRD_STAT_CAUSE == 1 && s.get PWR_RSTINFO PWR_RSTINFO_SOURCE == 4)
        (.boot fun t => { t with patrolDue := true })
      else .all [
        wrBytes (imgHostLoad b) (b (imgHostOff b) (imgHostLen b)),
        startHart 0 ((({ pc := imgHostEntry b } : Hart).wx 10 0).wx 11 (s.reg PWR_RSTINFO)) ] ]
/-- Steps 6 to 9 with the configuration block of the image that the first selection gives (log entry 47). -/
def bootRest (env : BootEnv) : Act := .read fun s =>
  let pick := fun (s : State) (ok : Nat → Bool) => choose (env.bootsel % 4) s.boot.active s.boot.trial s.boot.tried ok
  let cfg : ImageCfg := match (pick s s.slotValid).slot with
    | some 0 => env.cfgA
    | some _ => env.cfgB
    | none => {}
  .all [
    .when (s.get PWR_RSTINFO PWR_RSTINFO_KIND != 2) (.mc fun m => { m with mirrorUse := m.mirrorCfg }),
    bootNodes,
    bootMemory env cfg,
    applyProfile (profileOf (env.prof % 4) 0),
    .read fun s =>
      if s.dramBytes = 0 then .seq (rasLog { sev := 3, cls := cState, block := 0x0001 }) (bootStop 3)
      else .all [
        .each (List.range 16) fun p => setF (PE_PORT_CFG p) PE_PORT_CFG_BIF ((cfg.bifs[p]?).getD 0),
        setF SHU_MODE SHU_MODE_MODE cfg.shuMode,
        .each (List.range 8) fun l => setB (SHU_LANE l) SHU_LANE_TX_INV (cfg.txInv.testBit l),
        .each ((List.range 16).zip cfg.feeds) fun p => .reg (CREEL_CH_CFG p.1) p.2,
        .each ((List.range 16).filter fun n => s.feedState n == 2 || s.feedState n == 3) fun n => .each (s.portsOfFeed n) portOn,
        .read fun s =>
          let named := env.bootsel % 4 == 1 || env.bootsel % 4 == 2
          let x := pick s fun k => s.slotValid k && s.hostOk k
          let late := if named && s.slotValid (env.bootsel % 4 - 1) && !s.hostOk (env.bootsel % 4 - 1)
            then [env.bootsel % 4 - 1] else []
          bootEnd { x with rejected := x.rejected ++ late } ] ]
/-- The boot flow from where it stands. -/
def bootFlow (env : BootEnv) (step : Nat) : Act := .all [
  bootSense env,
  .pwr fun p => { p with trans := p.trans.map fun t => { t with step := max t.step 5 } },
  .read fun s =>
    if s.fuses.lifeCopiesAgree && s.fuses.life == 4 then
      .seq (.pwr fun p => { p with railC := false, railQ := false, railDimm := false }) (bootStop 1)
    else if env.wipeFails then .seq (rasLog { sev := 3, cls := cState, block := 0x0003 }) (bootStop 2)
    else .all [
      .when env.wrapFails (.seq (rasLog { sev := 2, cls := cCheck, block := 0x0003 }) (.boot fun b => { b with wrapBad := true })),
      .when env.configBad (.all [
        .boot fun b => { b with active := 0, trial := false, tried := false },
        .mc fun m => { m with mirrorCfg := [], mirrorUse := [], spared := [] },
        .dby fun d => { d with sparedDone := [] },
        rasLog { sev := 2, cls := cState, block := 0x0001 } ]),
      .pwr fun p => { p with railC := true, railQ := true, railDimm := true },
      .when (decide (step ≤ 7)) loadTime,
      match env.routerBad.filter (· < 4) with
      | [] => bootRest env
      | bad => .all [
          .dby fun d => { d with ringBypass := bad },
          .each bad fun d => rasLog { sev := 2, cls := cTest, block := dieId d, bank := some 0x0001 },
          .pwr fun p => { p with trans := p.trans.map fun t => { t with step := 20 } } ] ] ]
/-- BOOT_FLOW (R575): the boot flow that a reset has started runs to its end, or to where it stops. A router that fails its
test keeps the device in reset (R63). -/
def execBootFlow (env : BootEnv) (s : State) : Out :=
  commit (match s.pwr.trans with
    | some t => .when (decide (6 ≤ t.number) && s.pwr.dead == 0 && decide (t.step ≤ 9)) (bootFlow env t.step)
    | none => .skip) s

/-! ### FW cards (R578) -/

/-- The owner of the FW cards: the secure world. -/
def fwOwner (_ : State) : Owner := .is true
/-- The slot that SLOT names: 0xFF is the one that is not running; where none runs, the one that is not ACTIVE. -/
def State.fwSlot (s : State) (slot : Nat) : Nat :=
  if slot = 0xFF then (match s.boot.slot with | some k => 1 - k | none => 1 - s.boot.active) else slot
/-- A refusal of an FW card. -/
def fwEnd (c : CardCtx) (op status : Nat) : Act := answer0 c op status (dBlk 0x0001)
/-- FW_STAGE (R578): the image of `len` bytes at `addr`; `ok` says that the write and its read-back succeed. -/
def execFwStage (c : CardCtx) (slot len addr : Nat) (ok : Bool) (s : State) : Out :=
  commit (gated c 0x0B01 false fwOwner fun s =>
    let k := s.fwSlot slot
    let img : ImageBytes := fun off n => (s.rd (addr + off) n)
    if 1 < slot ∧ slot ≠ 0xFF then fwEnd c 0x0B01 stBADPARAM
    else if len < 0x1001 ∨ 0x1000000 < len ∨ !s.dramOf true addr len then fwEnd c 0x0B01 stBADPARAM
    else if s.opOpen [0x0B01, 0x0B02] k then answerBusyFree c 0x0B01
    else if s.boot.slot = some k then fwEnd c 0x0B01 stBADSTATE
    else accept c 0x0B01 k (
      if s.rdPoison addr len then finish 0x0B01 k stFAULT (dBlk 0x0001) []
      else if !s.imgValid img || decide (len < 0x1000 + imgLen img) then finish 0x0B01 k stNOTPERM (dBlk 0x0001) []
      else if !ok then .all [flashWrite k 0 (List.replicate 0x1000 0xFF), finish 0x0B01 k stFAULT (dBlk 0x0001) []]
      else .all [flashWrite k 0 (s.rd addr len), finish 0x0B01 k stOK 0xFFFF []])) s
/-- FW.ACTIVATE with WHEN 0. -/
def fwNext (c : CardCtx) (slot : Nat) (fuseOk : Bool) : Act := gated c 0x0B02 false fwOwner fun s =>
  let k := s.fwSlot slot
  let b := s.slotImage k
  if 1 < slot ∧ slot ≠ 0xFF then fwEnd c 0x0B02 stBADPARAM
  else if s.opOpen [0x0B01, 0x0B02] k then answerBusyFree c 0x0B02
  else if s.boot.slot = some k then
    (if !s.boot.trial then fwEnd c 0x0B02 stBADSTATE
     else accept c 0x0B02 k (
       if (imgNum b 7 1).testBit 0 && !fuseOk then finish 0x0B02 k stFAULT (dBlk 0x0001) []
       else .all [
         .boot fun t => { t with trial := false },
         setF PWR_RSTINFO PWR_RSTINFO_TRIAL 0,
         .when ((imgNum b 7 1).testBit 0) (.fuses fun f => { f with floor := max f.floor (imgNum b 8 4) }),
         finish 0x0B02 k stOK 0xFFFF [] ]))
  else accept c 0x0B02 k (
    if !s.slotValid k then finish 0x0B02 k stNOTPERM (dBlk 0x0001) []
    else .all [.boot fun t => { t with active := k, trial := true, tried := false }, finish 0x0B02 k stOK 0xFFFF []])
/-- FW_ACTIVATE_NEXT_RESET (R578, Table 22.8). -/
def execFwActivateNextReset (c : CardCtx) (slot : Nat) (fuseOk : Bool) (s : State) : Out := commit (fwNext c slot fuseOk) s
/-- FW_ACTIVATE_NOW (R578): the card pair restarts from the slot's card firmware, which sends the final reply. -/
def execFwActivateNow (c : CardCtx) (slot : Nat) (s : State) : Out :=
  commit (gated c 0x0B02 false fwOwner fun s =>
    let k := s.fwSlot slot
    if 1 < slot ∧ slot ≠ 0xFF then fwEnd c 0x0B02 stBADPARAM
    else if s.opOpen [0x0B01, 0x0B02] k then answerBusyFree c 0x0B02
    else accept c 0x0B02 k (
      if !s.slotValid k then finish 0x0B02 k stNOTPERM (dBlk 0x0001) []
      else .all [
        cardRestart fun o => o.opcode == 0x0B02 && o.obj == k,
        .boot fun t => { t with slot := some k, fwVersion := imgNum (s.slotImage k) 0x0C 4 },
        setF DBY_STAT DBY_STAT_IMAGE k, setF PWR_RSTINFO PWR_RSTINFO_IMAGE k,
        finish 0x0B02 k stOK 0xFFFF [] ])) s

/-! ### The keeper (R580–R583) -/

/-- Does the keeper run? -/
def State.keeper (s : State) : Bool := s.bit DBY_STAT DBY_STAT_KEEPER
/-- The context of the keeper's own cards (R446). -/
def keeperCtx : CardCtx := { via := .keeper, world := true, tag := 0, seq := 0 }
/-- Write a health log record to both devices (Table 22.9): record SEQ mod 32,768; a record that opens a sector erases it
first. -/
def healthLog (kind feed ctrl nsid slba nlb status : Nat) : Act := .read fun s =>
  let k := s.boot.healthSeq
  let at_ := 0x1010000 + 32 * (k % 32768)
  let l := natLe 8 s.clk.time ++ natLe 1 kind ++ natLe 1 feed ++ natLe 2 ctrl ++ natLe 4 nsid ++ natLe 8 slba ++ natLe 4 nlb ++
    natLe 2 status ++ natLe 2 k
  .all [
    .each [0, 1] fun d => .seq (.when (k % 128 == 0) (flashWrite d at_ (List.replicate 4096 0xFF))) (flashWrite d at_ l),
    .boot fun b => { b with healthSeq := (k + 1) % 65536 } ]
/-- The feeds with a port, in ascending order. -/
def State.pairedFeeds (s : State) : List Nat := (List.range 16).filter fun n => !(s.portsOfFeed n).isEmpty
/-- The drive controllers of a feed's ports. -/
def State.feedCtrls (s : State) (f : Nat) : List Nat := (s.portsOfFeed f).flatMap s.ctrlsOf
/-- The queues of a feed's drives are disabled (R581 step 6). -/
def shelfQueuesOff (f : Nat) : Act := .read fun s => .all [
  .each ((s.drv.pair.map (·.1)).filter fun q => (s.feedCtrls f).contains (s.pairCtrl q)) fun q =>
    dqQpWrite (s.blockWorld 5) q allBits (DQ_QP_EN.put (s.reg (DQ_QP q)) 0),
  .each (s.feedCtrls f) fun n => dqCtrlWrite (s.blockWorld 5) n allBits (DQ_CTRL_A_EN.put (s.reg (DQ_CTRL_A n)) 0) ]
/-- The patrol goes on to the next feed. -/
def nextShelf : Act := .boot fun b => { b with patrol := b.patrol.map fun p => { feeds := p.feeds.drop 1 } }
/-- A queue pair of depth 64 for a drive of feed `f` (R581 step 2): its controller's registers and the pair's. -/
def patrolPair (f qp drive qid subfn rid shift dstrd dbBase : Nat) : Act := .read fun s =>
  let w := s.blockWorld 5
  let port := match s.portsOfFeed f with | p :: _ => p | [] => 0
  let a := [(DQ_CTRL_A_PORT, port), (DQ_CTRL_A_SUBFN, subfn), (DQ_CTRL_A_RID, rid), (DQ_CTRL_A_LBA_SHIFT, shift),
    (DQ_CTRL_A_DSTRD, dstrd), (DQ_CTRL_A_EN, 1)].foldl (fun v p => p.1.put v p.2) (s.reg (DQ_CTRL_A drive))
  let q := [(DQ_QP_CTRL, drive), (DQ_QP_QID, qid), (DQ_QP_LOG_DEPTH, 6), (DQ_QP_EN, 1)].foldl (fun v p => p.1.put v p.2) (regReset (DQ_QP qp))
  .all [
    setF DQ_CFG DQ_CFG_EN 1,
    .when (!s.bit (DQ_CTRL_A drive) DQ_CTRL_A_EN) (setF (DQ_CTRL_B drive) DQ_CTRL_B_DB_BASE (dbBase / 4096)),
    dqCtrlWrite w drive allBits a, dqQpWrite w qp allBits q ]
/-- KEEPER_SHELF_PATROL (R580, R581): one step of a patrol, on the feed in hand. -/
def execKeeperShelfPatrol (e : PatrolEvent) (s : State) : Out :=
  if !s.keeper then commit .skip s
  else match e, s.boot.patrol with
  | .start, none => commit (.when (s.boot.patrolDue && s.dstate == 0) (.all [
      .boot fun b => { b with patrolDue := false, patrol := some { feeds := s.pairedFeeds } },
      (match s.pairedFeeds with | f :: _ => healthLog 1 f 0 0 0 0 0 | [] => .skip) ])) s
  | .finish, some p => if p.feeds.isEmpty then commit (setState keeperCtx 3) s else commit .skip s
  | e, some p => match p.feeds with
    | [] => commit .skip s
    | f :: _ => match e with
      | .feedOn => andThen (commit (.boot fun b => { b with patrol := some { p with asked := true } }) s)
          (execFeedOn keeperCtx f 0 0)
      | .clock drive => execPickClockCfg keeperCtx drive 1 8333333 (regReset (PICK_CLK_CFG drive)) s
      | .zones drive z table => execPickMapLoad keeperCtx drive z table s
      | .pair qp drive qid subfn rid shift dstrd dbBase => commit (.when (decide (drive < 1024) && decide (qp < 4096))
          (patrolPair f qp drive qid subfn rid shift dstrd dbBase)) s
      | .badRange drive nsid slba nlb status => commit (healthLog 2 f drive nsid slba nlb status) s
      | .absent drive => commit (healthLog 5 f drive 0 0 0 0) s
      | .done => andThen (commit (.all [shelfQueuesOff f, healthLog 3 f 0 0 0 0 0, nextShelf]) s)
          (execFeedOff keeperCtx f false)
      | .abort => andThen (commit (.all [shelfQueuesOff f, healthLog 4 f 0 0 0 0 0, nextShelf]) s) fun s =>
          if s.feedState f = 2 then execFeedOff keeperCtx f false s else commit .skip s
      | _ => commit .skip s
  | _, none => commit .skip s

/-- KEEPER_VERIFY_REQUEST (R582): a TIMED VERIFY through the keeper port, while the keeper runs. -/
def execKeeperVerifyRequest (drive nsid slba nlb : Nat) (s : State) : Out :=
  let down := fun (detail : Nat) => Act.drv fun d => { d with keeper := (65536, lsDriveDown, detail) :: d.keeper }
  let slot : Slot := { req := none, f := 0, ctrl := drive, op := nvmeOp 2, nsid := nsid, slba := slba, nlb := nlb, len := 0,
                       addr := 0, win := false, timed := true }
  commit (if !s.keeper then down 0x0005
    else if 1024 ≤ drive ∨ nlb = 0 ∨ 65536 < nlb then .skip
    else if !s.ctrlUp drive ∨ (s.pairsOf drive).isEmpty then down (portId (s.ctrlPort drive))
    else takeSlot slot fun k => pickEnter k 0 0xFFFF 0 0) s

end Sys2Proof.Machine
end

