-- ==== Sys2Proof/Machine/Selvedge.lean ====
section
/-! DEFINITION. Chapter 18: the world lock (R471, R472), the debug enables (R481) and the life cycle (R483, R484). -/

namespace Sys2Proof.Machine

/-! ### WORLD.LOCK (R468–R472) -/

/-- The assignment table (Table 18.3): watermarks, and a bit for every block, port, source, key slot and function. -/
structure Assign where
  dramWm : Nat
  flashWm : Nat
  blocks : Nat
  ports : Nat
  sources : Nat
  slots : Nat
  funcs : Nat
  deriving DecidableEq, Repr

/-- The table's fields, from its bytes. -/
def assignOf (l : List Byte) : Assign :=
  { dramWm := cardField l 0x008 4, flashWm := cardField l 0x00C 4, blocks := cardField l 0x010 8,
    ports := cardField l 0x018 2, sources := cardField l 0x040 128, slots := cardField l 0x0C0 1024,
    funcs := cardField l 0x4C0 1032 }
/-- The bits of BLOCKS that a table may set: the assigned blocks but the split ones (Tables 1.12 and 18.3). -/
def assignableBlocks : Nat :=
  ([0x00, 0x02, 0x03, 0x05, 0x06, 0x07, 0x09, 0x20, 0x21] ++ (List.range 12).map (0x10 + ·)).foldl (fun m b => m + 2 ^ b) 0
/-- Are the fields of a table in range and its reserved bits 0 (R471)? -/
def assignOk (l : List Byte) (popGiB flashUnits : Nat) : Bool :=
  let t := assignOf l
  cardField l 0 4 == 0x53454C31 && cardField l 4 2 == 1 && cardZero l 6 2 && cardZero l 0x1A 38 && cardZero l 0x8C8 56 &&
    decide (1 ≤ t.dramWm ∧ t.dramWm ≤ popGiB) && decide (273 ≤ t.flashWm ∧ t.flashWm ≤ min flashUnits 0xFFFF) &&
    (t.blocks ||| assignableBlocks == assignableBlocks) && t.blocks.testBit 3 &&
    !t.sources.testBit 0 && !t.funcs.testBit 0 && decide (t.funcs < 2 ^ 8193)

/-- The structures of R468 that exist before the lock, by address and length: the enabled secure card ring, its reply ring
and control block, and the entry tables that SEL_WENTRY_S names. Secure functions and key records come after it. -/
def State.secureAreas (s : State) : List (Nat × Nat) :=
  (if s.bit (DBY_RING_CFG 1) DBY_RING_CFG_EN then
    [(s.get (DBY_RING_CFG 1) DBY_RING_CFG_BASE * 4096, 64 * 2 ^ s.get (DBY_RING_CFG 1) DBY_RING_CFG_LOG),
     (s.get (DBY_RING_RBASE 1) DBY_RING_RBASE_ADDR * 64, 64 * 2 ^ s.get (DBY_RING_CFG 1) DBY_RING_CFG_RLOG),
     (s.ctlAddr true, 64)] else []) ++
  s.core.hart.filterMap fun p =>
    let e := (p.2.c 0x7C2).toNat
    let base := e / 2 ^ 12 % 2 ^ 36 * 4096
    if base = 0 then none else some (base, 16 * 2 ^ (e % 16))
/-- 64 bits of a bitmap as a register word. -/
def bitsWord (m i : Nat) : W64 := BitVec.ofNat 64 (m / 2 ^ (64 * i) % 2 ^ 64)
/-- The objects whose bit in a table's bitmap differs from the `n` registers of a bitmap (Table 18.17). -/
def State.worldChanges (s : State) (r : Nat → Nat) (n m : Nat) : List Nat := (List.range n).flatMap fun i =>
  let w := s.reg (r i)
  let v := bitsWord m i
  if v = w then [] else ((List.range 64).filter fun j => v.getLsbD j != w.getLsbD j).map (64 * i + ·)
/-- The block ID of the first object in use whose world a table changes (Table 18.4). -/
def State.assignBusy (s : State) (t : Assign) : Option Nat :=
  if (s.worldChanges SEL_FUNCWORLD 129 t.funcs).any (fun f => s.fstate f != 0) || s.btn.win.any (fun p =>
      let f := s.get (BTN_WIN_STATE p.1) BTN_WIN_STATE_FUNC
      t.funcs.testBit f != s.funcWorld f) then some 0x0005
  else if (s.worldChanges SEL_SLOTWORLD 128 t.slots).any (fun k => s.bit (XF_SLOT k) XF_SLOT_TYPE) then some 0x0008
  else if (List.range 1024).any (fun n => (t.sources.testBit n != s.bit (HRN_SRC n) HRN_SRC_WORLD) &&
      s.bit (HRN_SRC n) HRN_SRC_EN) then some 0x0004
  else ((List.range 16).find? fun p => (t.ports.testBit p != s.portWorld p) &&
    decide (s.get (PE_PORT_PHYS p) PE_PORT_PHYS_BASE ≤ s.get (PE_PORT_PHYS p) PE_PORT_PHYS_LIMIT)).map portId
/-- The assignment takes force (R472): watermarks, bitmaps, the WORLD fields of sources and key slots, KEY_BASE, the lock. -/
def assign (t : Assign) : Act := .read fun s => .all [
  setF SEL_DRAM_WM SEL_DRAM_WM_WM t.dramWm,
  setF SEL_FLASH_WM SEL_FLASH_WM_WM t.flashWm,
  .reg SEL_BLKWORLD (bitsWord t.blocks 0),
  .reg SEL_PORTWORLD (bitsWord t.ports 0),
  .each (List.range 129) fun n => .reg (SEL_FUNCWORLD n) (bitsWord t.funcs n),
  .each (List.range 16) fun n => .reg (SEL_SRCWORLD n) (bitsWord t.sources n),
  .each (List.range 128) fun n => .reg (SEL_SLOTWORLD n) (bitsWord t.slots n),
  .each ((List.range 1024).filter fun n => decide (1 ≤ n) && (t.sources.testBit n != s.bit (HRN_SRC n) HRN_SRC_WORLD)) fun n =>
    setB (HRN_SRC n) HRN_SRC_WORLD (t.sources.testBit n),
  .each (s.worldChanges SEL_SLOTWORLD 128 t.slots) fun k =>
    setB (XF_SLOT k) XF_SLOT_WORLD (t.slots.testBit k),
  setF XF_CFG XF_CFG_KEY_BASE (t.dramWm * 1024 - 1),
  setF SEL_LOCK SEL_LOCK_ASSIGN 1 ]
/-- WORLD_LOCK (R472): the checks of Table 18.4 in order. -/
def execWorldLock (c : CardCtx) (table : Nat) (s : State) : Out :=
  commit (gated c 0x0803 false (fun _ => .is true) fun s =>
    let l := s.rd table 2304
    let t := assignOf l
    if s.bit SEL_LOCK SEL_LOCK_ASSIGN then answer0 c 0x0803 stBADSTATE (dBlk 0x0003)
    else if table % 64 ≠ 0 ∨ !s.populated table 2304 then answer0 c 0x0803 stBADPARAM (dOff 0x10)
    else if s.rdPoison table 2304 then answer0 c 0x0803 stFAULT (dBlk 0x0003)
    else if !assignOk l (s.dramBytes / 2 ^ 30) s.boot.flashUnits then answer0 c 0x0803 stBADPARAM (dOff 0x10)
    else if s.secureAreas.any fun a => decide (t.dramWm * 2 ^ 30 < a.1 + a.2) then answer0 c 0x0803 stBADSTATE (dBlk 0x0003)
    else match s.assignBusy t with
    | some id => answer0 c 0x0803 stBADSTATE (dBlk id)
    | none => .seq (assign t) (answerOk c 0x0803)) s

/-! ### Debug enables (R480, R481) -/

/-- A write of SEL_DEBUG by a hart of world `world`; `mpriv` is the flit's MPRIV bit. Any other writer changes nothing. -/
def selDebugWrite (world mpriv : Bool) (held v : W64) : Act := .read fun s =>
  let old := s.reg SEL_DEBUG
  let locked := SEL_DEBUG_LOCK.get old != 0
  let new := (regFields SEL_DEBUG).foldl (fun w d =>
    fieldWrite held locked (world || d.fld == SEL_DEBUG_NI_N || d.fld == SEL_DEBUG_INV_N) w v d) old
  .when mpriv (.seq (.reg SEL_DEBUG new) effectiveEval)
/-- SEL_DEBUG_WRITE (R481). -/
def execSelDebugWrite (world mpriv : Bool) (value : W64) (s : State) : Out :=
  commit (selDebugWrite world mpriv allBits value) s

/-! ### Life cycle (R482–R484) -/

/-- May the key of KEY_ID (0 vendor, 1 owner) sign the step that leaves state `from_` (Table 18.8)? -/
def lifeKey (from_ id : Nat) : Bool := match from_ with
  | 0 => id == 0
  | 1 | 2 => id == 1
  | 3 => decide (id ≤ 1)
  | _ => false
/-- The format check of Table 18.10 on a token (Table 18.9). -/
def tokenForm (l : List Byte) : Bool :=
  let first := cardField l 6 1 == 0
  cardField l 0 4 == 0x4C435431 && cardField l 4 2 == 1 && cardZero l 0x0A 6 && lifeKey (cardField l 6 1) (cardField l 8 1) &&
    (if first then decide (cardField l 9 1 < 16) else cardField l 9 1 == 0 && cardZero l 0x20 48)
/-- UID, key hash and signature of a token (R483). -/
def State.tokenSigned (s : State) (l : List Byte) : Bool :=
  let pub := toNats ((l.drop 0x50).take 96)
  cardField l 0x10 16 == s.fuses.uid &&
    beOf (sha384 pub) == (if cardField l 8 1 = 0 then s.fuses.vendorHash else s.fuses.ownerHash) &&
    ecdsaOk pub (sha384 (toNats (l.take 0xB0))) (toNats ((l.drop 0xB0).take 96))
/-- The status that ends the card, if a check of Table 18.10 fails; with fuse copies that disagree it ends FAULT (Table 18.11). -/
def State.lifeFail (s : State) (target len addr : Nat) (l : List Byte) (fuseOk : Bool) : Option Nat :=
  let from_ := cardField l 6 1
  let next := cardField l 7 1
  if !s.fuses.lifeCopiesAgree then some stFAULT
  else if len ≠ 272 ∨ !s.dramOf true addr 272 then some stBADPARAM
  else if s.rdPoison addr 272 then some stFAULT
  else if !tokenForm l then some stBADPARAM
  else if from_ ≠ s.fuses.life ∨ target ≠ next ∨ next ≠ from_ + 1 then some stBADSTATE
  else if !s.tokenSigned l then some stNOTPERM
  else if !fuseOk then some stFAULT
  else none
/-- The fuses are programmed (R484, step 1). -/
def lifeFuse (l : List Byte) : Act := .fuses fun x =>
  let first := x.life == 0
  { x with
    life := x.life + 1
    ownerSet := x.ownerSet || first
    ownerHash := if first then beOf (toNats ((l.drop 0x20).take 48)) else x.ownerHash
    cap := if first then cardField l 9 1 else x.cap }
/-- Every queued card is answered BUSY (R484, step 2). -/
def queueBusy : Act := .read fun s => .all [
  .each s.dby.queue fun q => answerBusyFree q.ctx q.opcode,
  .dby fun d => { d with queue := [], aged := [] },
  dbyStat ]
/-- LIFE_ADVANCE (R484): `fuseOk` says that the fuses verify. -/
def execLifeAdvance (c : CardCtx) (target len addr : Nat) (fuseOk : Bool) (s : State) : Out :=
  commit (gated c 0x0801 false (fun _ => .is true) fun s =>
    accept c 0x0801 0 (
      let l := s.rd addr 272
      match s.lifeFail target len addr l fuseOk with
      | some st => finish 0x0801 0 st (dBlk 0x0003) []
      | none => .all [lifeFuse l, finish 0x0801 0 stOK 0xFFFF [], queueBusy, startReset 1 5 false])) s

end Sys2Proof.Machine
end

