-- ==== Sys2Proof/Machine/Serve.lean ====
section
/-! DEFINITION. The card pair serves the queue (R453–R455): the choice of the next card, the check of its reserved bytes,
and the reading of each card's parameters (Table 17.8). -/

namespace Sys2Proof.Machine

/-- The parameters of a card, by offset and size, apart from those of POWER.SET_PROFILE (Table 17.9). -/
def cardParams (op : Nat) (l : List Byte) : List (Nat × Nat) :=
  match op with
  | 0x0003 => [(0x10, 8)]
  | 0x0101 | 0x0104 => [(0x10, 1)]
  | 0x0201 | 0x0202 | 0x0204 | 0x0206 => [(0x10, 2)]
  | 0x0203 => [(0x10, 2), (0x12, 1)]
  | 0x0205 => [(0x10, 2), (0x12, 2)]
  | 0x0301 => [(0x10, 5)]
  | 0x0302 | 0x0303 => [(0x10, 2)]
  | 0x0304 => [(0x10, 4), (0x14, 4), (0x18, 1)]
  | 0x0305 => [(0x10, 1)]
  | 0x0401 => [(0x10, 6), (0x18, 24), (0x30, 4 * cardField l 0x12 2)]
  | 0x0402 => [(0x10, 2)]
  | 0x0404 => [(0x10, 8)]
  | 0x0405 => [(0x10, 6), (0x18, 24), (0x30, 8), (0x38, 4 * cardField l 0x12 2)]
  | 0x0501 => [(0x10, 8), (0x18, 8)]
  | 0x0502 => [(0x10, 3), (0x18, 8)]
  | 0x0503 => [(0x10, 3)]
  | 0x0601 => [(0x10, 4), (0x18, 80)]
  | 0x0602 => [(0x10, 8)]
  | 0x0701 => [(0x10, 1), (0x12, 4)]
  | 0x0702 | 0x0703 => [(0x10, 1)]
  | 0x0704 => [(0x10, 3)]
  | 0x0705 => [(0x10, 4)]
  | 0x0801 => [(0x10, 1), (0x12, 2), (0x18, 8)]
  | 0x0802 => [(0x10, 3), (0x18, 8)]
  | 0x0803 => [(0x10, 8)]
  | 0x0901 => [(0x10, 4)]
  | 0x0902 => [(0x10, 4), (0x18, 8)]
  | 0x0A01 => [(0x10, 3), (0x18, 32)]
  | 0x0A02 => [(0x10, 4)]
  | 0x0B01 => [(0x10, 1), (0x14, 12)]
  | 0x0B02 => [(0x10, 2)]
  | _ => []
/-- The offset of LENGTH where a card ends before its parameters do, else that of its first reserved byte that is not 0
(R455). -/
def cardBad (op : Nat) (l : List Byte) : Option Nat :=
  let ps := cardParams op l
  if op = 0x0103 then none
  else if ps.any fun p => decide (0 < p.2 ∧ l.length < p.1 + p.2) then some 0x06
  else (List.range l.length).find? fun o =>
    decide (16 ≤ o) && !(ps.any fun p => decide (p.1 ≤ o ∧ o < p.1 + p.2)) && !cardZero l o 1

/-- The targets of a FUNC card, as 32-bit words (Table 17.10). -/
def cardTargets (l : List Byte) (off : Nat) : List Nat :=
  (List.range (cardField l 0x12 2)).map fun i => cardField l (off + 4 * i) 4
/-- A served card fails a check of its own fields. -/
def serveBad (q : Card) (off : Nat) (s : State) : Out :=
  commit (.seq (.dby fun d => { d with serving := false }) (answer0 q.ctx q.opcode stBADPARAM (dOff off))) s

/-- The meaning of a card that is served, its parameters read from its bytes (Table 17.8). `ok` and `result` are what the
card meets outside the state of the block: a repair resource, fuses or flash that verify, the result of a test. -/
def serveCard (q : Card) (ok : Bool) (result : Nat) (s : State) : Out :=
  let c := q.ctx
  let l := q.bytes
  let f := cardField l
  let unit := f 0x12 1
  match q.opcode with
  | 0x0001 => execInfoIdentify c s
  | 0x0002 => execInfoCaps c s
  | 0x0003 => execInfoTelemetry c (f 0x10 8) s
  | 0x0101 => match f 0x10 1 with
    | 0 => execSetStateWoven c s
    | 1 => execSetStateSlack c s
    | 2 => execSetStateDoffed c s
    | 3 => execSetStateDark c s
    | _ => serveBad q 0x10 s
  | 0x0102 => execPowerGetState c s
  | 0x0103 => execPowerSetProfile c l s
  | 0x0104 => execPowerRefusals c (f 0x10 1) s
  | 0x0201 => execTileDrain c (f 0x10 2) s
  | 0x0202 => execTileFence c (f 0x10 2) q.force s
  | 0x0203 => match f 0x12 1 with
    | 0 => execTilePowerOff c (f 0x10 2) s
    | 1 => execTilePowerOn c (f 0x10 2) s
    | _ => serveBad q 0x12 s
  | 0x0204 => execTileTest c (f 0x10 2) s
  | 0x0205 => execTileSpare c (f 0x10 2) (f 0x12 2) result s
  | 0x0206 => execTileRestore c (f 0x10 2) s
  | 0x0301 => execMemScrubCfg c (f 0x10 1) (f 0x11 1) (f 0x12 1) (f 0x13 1) (f 0x14 1) s
  | 0x0302 => match f 0x11 1 with
    | 0 => execMemMirrorSet c (f 0x10 1) false s
    | 1 => execMemMirrorSet c (f 0x10 1) true s
    | 2 => execMemMirrorResync c (f 0x10 1) s
    | _ => serveBad q 0x11 s
  | 0x0303 => execMemSpareRank c (f 0x10 1) (f 0x11 1) s
  | 0x0304 => match f 0x18 1 with
    | 0 => execMemPprSoft c (f 0x10 1) (f 0x11 1) (f 0x12 1) (f 0x13 1) (f 0x14 4) ok s
    | 1 => execMemPprHard c (f 0x10 1) (f 0x11 1) (f 0x12 1) (f 0x13 1) (f 0x14 4) ok s
    | _ => serveBad q 0x18 s
  | 0x0305 => execMemRetire c (f 0x10 1) q.force s
  | 0x0401 => execFuncCreate c q.func (f 0x10 2) (f 0x12 2) (f 0x14 2) (f 0x18 8) (f 0x20 8) (f 0x28 8) (cardTargets l 0x30) s
  | 0x0402 => execFuncQuiesce c q.func (f 0x10 2) q.force s
  | 0x0403 => execFuncFreeze c q.func s
  | 0x0404 => execFuncSave c q.func (f 0x10 8) s
  | 0x0405 =>
    if f 0x10 2 ≠ 0 then serveBad q 0x10 s
    else if f 0x14 2 ≠ 0 then serveBad q 0x14 s
    else execFuncRestore c q.func (f 0x12 2) (f 0x18 8) (f 0x20 8) (f 0x28 8) (f 0x30 8) (cardTargets l 0x38) s
  | 0x0406 => execFuncResume c q.func s
  | 0x0407 => execFuncDestroy c q.func s
  | 0x0408 => execFuncReset c q.func s
  | 0x0501 => execPickClockCfg c (f 0x10 2) (f 0x12 2) (f 0x14 4) (BitVec.ofNat 64 (f 0x18 8)) s
  | 0x0502 => execPickMapLoad c (f 0x10 2) (f 0x12 1) (f 0x18 8) s
  | 0x0503 => execPickMode c (f 0x10 2) (f 0x12 1) s
  | 0x0601 => execShuttlePortCfg c (f 0x10 1) (f 0x11 1) (f 0x12 1) (f 0x13 1) (BitVec.ofNat 64 (f 0x18 8))
      (BitVec.ofNat 64 (f 0x20 8)) ((List.range 8).map fun k => BitVec.ofNat 64 (f (0x28 + 8 * k) 8)) s
  | 0x0602 => execShuttleParseCfg c (BitVec.ofNat 64 (f 0x10 8)) s
  | 0x0701 => execFeedOn c (f 0x10 1) (f 0x12 2) (f 0x14 2) s
  | 0x0702 => execFeedOff c (f 0x10 1) q.force s
  | 0x0703 => execFeedStatus c (f 0x10 1) s
  | 0x0704 => execFeedBudget c (f 0x10 2) (f 0x12 1) s
  | 0x0705 => execFeedReclaim c (f 0x10 2) (f 0x12 2) s
  | 0x0801 => execLifeAdvance c (f 0x10 1) (f 0x12 2) (f 0x18 8) ok s
  | 0x0802 => execKeyLoad c (f 0x10 2) (f 0x12 1) q.func (f 0x18 8) s
  | 0x0803 => execWorldLock c (f 0x10 8) s
  | 0x0901 => execRasReadBanks c (f 0x10 2) (f 0x12 1) (f 0x13 1) s
  | 0x0902 => execRasInject c (f 0x10 2) (f 0x12 1) (f 0x13 1) (f 0x18 8) s
  | 0x0A01 =>
    if unit < 2 then execProbeArmComparator c (f 0x10 2) unit ((l.drop 0x18).take 32) s
    else if unit = 0x10 then execProbeArmTrace c (f 0x10 2) ((l.drop 0x18).take 32) s
    else execProbeArmCounter c (f 0x10 2) unit ((l.drop 0x18).take 32) s
  | 0x0A02 => execProbeRead c (f 0x10 2) unit (f 0x13 1) s
  | 0x0B01 => execFwStage c (f 0x10 1) (f 0x14 4) (f 0x18 8) ok s
  | 0x0B02 => match f 0x11 1 with
    | 0 => execFwActivateNextReset c (f 0x10 1) ok s
    | 1 => execFwActivateNow c (f 0x10 1) s
    | _ => serveBad q 0x11 s
  | _ => serveBad q 0 s

/-- The card that is served next (R453): SAFETY, then the aged classes, then the rest, each in class and queue order. -/
def State.nextCard (s : State) : Option Card :=
  s.classOrder.findSome? fun k => s.dby.queue.find? (·.cls == k)
/-- CARD_SERVE (R453, R454): the next card leaves the queue and is carried out. -/
def execCardServe (ok : Bool) (result : Nat) (s : State) : Out :=
  match s.nextCard with
  | none => commit .skip s
  | some q =>
    if !s.romReady then commit .skip s
    else andThen (commit (.all [
        .dby fun d => { d with queue := d.queue.erase q, lastProgress := s.clk.time, serving := true },
        dbyStat, ageEval ]) s) fun s =>
      match cardBad q.opcode q.bytes with
      | some o => serveBad q o s
      | none => serveCard q ok result s

end Sys2Proof.Machine
end

