-- ==== Sys2Proof/Machine/Access.lean ====
section
/-! DEFINITION. Accesses by address: loads and stores of harts to I/O addresses (R336), Lease ring frames (section 1.4), the
debug module's accesses (section 23.2) and inbound PCIe requests (R31, R211). A read or a write of a register goes to the one
meaning that its chapter gives it, whoever sends it. -/

namespace Sys2Proof.Machine

/-! ### Where an address lies -/

/-- The index of `a` in an array of `n` registers `stride` bytes apart from `base`. -/
def arrIx (base stride n a : Nat) : Option Nat :=
  if base ≤ a ∧ (a - base) % stride = 0 ∧ (a - base) / stride < n then some ((a - base) / stride) else none
/-- The subsystem block and offset of an address (Table 1.12). -/
def blockAt (a : Nat) : Option (Nat × Nat) :=
  if 0xE00000000000 ≤ a ∧ a < 0xE00100000000 then some ((a - 0xE00000000000) / 2 ^ 24, a % 2 ^ 24) else none
/-- The node and offset of an address in the per-node registers. -/
def nodeAt (a : Nat) : Option (Nat × Nat) :=
  if 0xE10000000000 ≤ a ∧ a < 0xE1000E000000 then some ((a - 0xE10000000000) / 2 ^ 20, a % 2 ^ 20) else none
/-- The function and offset of an address in the doorbell pages. -/
def pageAt (a : Nat) : Option (Nat × Nat) :=
  if 0xE20000000000 ≤ a ∧ a < 0xE20020010000 then some ((a - 0xE20000000000) / 2 ^ 16, a % 2 ^ 16) else none
/-- The hart, file and offset of an address in the interrupt file pages (section 16.3). -/
def fileAt (a : Nat) : Option (Nat × Nat × Nat) :=
  match blockAt a with
  | some (4, o) => if 0x100000 ≤ o ∧ o < 0xD00000 then
      some ((o - 0x100000) / 2 ^ 16, o / 2 ^ 12 % 16, o % 2 ^ 12) else none
  | _ => none
/-- The card ring whose registers hold an address (Table 17.17); true: the secure world's. -/
def ringAt (a : Nat) : Option Bool :=
  if DBY_RING_CFG 0 ≤ a ∧ a < DBY_RING_CFG 2 then some (decide (DBY_RING_CFG 1 ≤ a)) else none
/-- Is an address in the flash window (R584)? -/
def flashAt (a : Nat) : Bool := match blockAt a with | some (1, o) => decide (0x400000 ≤ o ∧ o < 0x800000) | _ => false
/-- Is an address in the trace window (R597)? -/
def traceAt (a : Nat) : Bool := match blockAt a with | some (0x21, o) => decide (0x400000 ≤ o ∧ o < 0x800000) | _ => false
/-- The block ID of the bank and the offset in it of an address (R546). -/
def bankAt (a : Nat) : Option (Nat × Nat) :=
  match blockAt a, nodeAt a with
  | some (b, o), _ => if 0xF00000 ≤ o ∧ (blockDefs b).isSome then some (b, o - 0xF00000) else none
  | none, some (n, o) => if 0xE00 ≤ o ∧ o < 0xF40 then some (0x100 + n, o - 0xE00) else none
  | none, none => none
/-- The record slot and the word in it of an offset in a bank. -/
def recAt (o : Nat) : Option (Nat × Nat) :=
  if 0x40 ≤ o ∧ o < 0x140 then some ((o - 0x40) / 0x20, (o - 0x40) % 0x20) else none

/-! ### Reads -/

/-- What world `w` reads in the register at `a`: WO fields read 0; a record's ADDR, TENANT and SYNDROME (R550), a key slot
(R324) and a window (R161) of the other world are hidden; a port that the mode does not provide (R283) and a queue that the
function does not have (R169) read 0; OUTSTANDING, DIR_STAT and WIN_LINES count (Tables 2.8, 4.8, 3.8). -/
def State.regView (s : State) (w : Bool) (a : Nat) : W64 :=
  let v := readWord a (s.reg a)
  let mine := fun (b : Bool) => b == w
  match bankAt a with
  | some (id, o) =>
    (match recAt o with
     | some (r, k) =>
       let same := mine (s.bit (RAS_MISC (bankOf id) r) RAS_MISC_WORLD)
       if same then v
       else if k = 8 then 0
       else if k = 0x10 then RAS_MISC_TENANT.put (RAS_MISC_SYNDROME.put v 0) 0
       else v
     | none => v)
  | none =>
    match nodeAt a, pageAt a, blockAt a with
    | some (n, 0x10), _, _ => MESH_FENCE_STAT_OUTSTANDING.put v (s.outstanding n)
    | some (n, 0x400), _, _ => s.dirStatWord n
    | some (n, 0x208), _, _ =>
      LLC_STAT_WIN_LINES.put v (s.cache.slice.filter fun p => keyNode p.1 == n && p.2.win).length
    | some _, _, _ => v
    | none, some (f, o), _ =>
      let nq := s.fnNq f
      if (o < 0x1000 && decide (nq ≤ o / 0x10)) || (decide (0x2000 ≤ o ∧ o < 0x4000) && decide (nq ≤ (o - 0x2000) / 0x20))
      then 0 else v
    | none, none, some (0x05, _) =>
      (match arrIx (BTN_WIN_STATE 0) 8 4096 a with
       | some k => if mine (s.bit (BTN_WIN_STATE k) BTN_WIN_STATE_WORLD) then v
           else v &&& (BTN_WIN_STATE_STATE.mask ||| BTN_WIN_STATE_WORLD.mask)
       | none => v)
    | none, none, some (0x07, o) =>
      if 0x1000 ≤ o ∧ o < 0x4000 ∧ modePorts s.shuMode ≤ o % 0x1000 / 0x100 then 0 else v
    | none, none, some (0x08, _) =>
      (match arrIx (XF_SLOT 0) 8 8192 a with
       | some k => if mine (s.slotWorld k) then v else v &&& XF_SLOT_WORLD.mask
       | none => v)
    | none, none, _ => v

/-- The world that owns what an address names: accesses that are Dobby's own act with it. -/
def State.ownWorld (s : State) (a : Nat) : Bool :=
  match fileAt a, ringAt a, pageAt a, bankAt a, blockAt a with
  | some (_, f, _), _, _, _, _ => fileWorld f
  | none, some w, _, _, _ => w
  | none, none, some (f, _), _, _ => s.funcWorld f
  | none, none, none, some (id, o), _ =>
    (match recAt o with
     | some (r, _) => if splitId id then s.bit (RAS_MISC (bankOf id) r) RAS_MISC_WORLD else s.bankWorld id
     | none => s.bankWorld id)
  | none, none, none, none, some (b, o) =>
    if flashAt a || traceAt a || b == 3 then true
    else match arrIx (BTN_WIN_STATE 0) 8 4096 a, arrIx (XF_SLOT 0) 8 8192 a, arrIx (HRN_SRC 0) 8 1024 a with
    | some k, _, _ => s.bit (BTN_WIN_STATE k) BTN_WIN_STATE_WORLD
    | none, some k, _ => s.slotWorld k
    | none, none, some n => s.bit (HRN_SRC n) HRN_SRC_WORLD
    | none, none, none =>
      if b = 9 ∧ 0x2000 ≤ o ∧ o < 0x2020 then decide (0x2010 ≤ o) else s.blockWorld b
  | none, none, none, none, none => s.blockWorld 0x20

/-- The part of a 64-bit word that an access of `n` bytes at `a` returns (R7). -/
def wordPart (v : W64) (a n : Nat) : W64 := if n = 8 then v else if a % 8 = 0 then v &&& 0xFFFFFFFF else v >>> 32
/-- May a register be accessed with this width and alignment (R7)? -/
def regWidthOk (a n : Nat) : Bool := (n == 8 || n == 4) && a % n == 0

/-- A read of `n` bytes at a register address by world `w` (R7, R11, R428): the answer is the data or an access fault. A side
effect takes place only when the read takes in the field that it is tied to (R9). -/
def regLoad (w : Bool) (a n : Nat) : Act := .read fun s =>
  let r := a / 8 * 8
  if flashAt a then
    (if !w ∨ a % n ≠ 0 then ioFault
     else ioAnswer (BitVec.ofNat 64 (leNat (s.flash (s.get DBY_FLASH_SEL DBY_FLASH_SEL_DEV)
       (s.get DBY_FLASH_SEL DBY_FLASH_SEL_BASE * 2 ^ 22 + a % 2 ^ 22) n))))
  else if !regWidthOk a n then ioFault
  else if traceAt a then ioAnswer (wordPart (s.traceWord w (r % 2 ^ 22)) a n)
  else match fileAt r, ringAt r with
  | some (h, f, o), _ =>
    let timerless := o == 0x48 && !hasTimer f
    if 9 < f then ioAnswer 0
    else if w ≠ fileWorld f then ioFault
    else if o = 0x08 ∧ a % 8 = 0 then claim h f false
    else if o = 0x18 ∧ a % 8 = 0 then chainRead w h f
    else if o = 0x08 ∨ o = 0x18 ∨ timerless ∨ (o = 0x40 ∧ f ≠ 0 ∧ f ≠ 9) then ioAnswer 0
    else ioAnswer (wordPart (s.regView w r) a n)
  | none, some x => if w ≠ x then ioFault else ioAnswer (wordPart (s.regView w r) a n)
  | none, none => ioAnswer (wordPart (s.regView w r) a n)

/-! ### Writes -/

/-- A write that sets or clears the fields of a register by their types (R8, Table 0.5); `may`: the writer may write them. -/
def plainWrite (may : Bool) (a : Nat) (held v : W64) : Act := .read fun s =>
  .reg a ((regFields a).foldl (fun w d => fieldWrite held false may w v d) (s.reg a))
/-- A register word with the bits of a write that reach it. -/
def mergeBits (held old v : W64) : W64 := (old &&& ~~~ held) ||| (v &&& held)

/-- Writes of block 0x00 (R516): a MODE of 3 in TRD_CFG stores 0. -/
def treadleWrite (world : Bool) (a : Nat) (held v : W64) : Act := .read fun s =>
  if a = PWR_RESET then pwrResetWrite world held v
  else if a = PWR_HART_GO then hartGoWrite world held v
  else if a = TRD_CFG ∧ TRD_CFG_MODE.get v = 3 then plainWrite (world == s.blockWorld 0) a held (TRD_CFG_MODE.put v 0)
  else plainWrite (world == s.blockWorld 0) a held v

/-- Writes of block 0x01: the ring registers (R461, R462), and DBY_FLASH_SEL, which secure harts set (R584). -/
def dobbyWrite (world : Bool) (a : Nat) (held v : W64) : Act := .read fun s =>
  match ringAt a with
  | some w =>
    let i := ringIx w
    let en := s.bit (DBY_RING_CFG i) DBY_RING_CFG_EN
    if a = DBY_RING_CFG i then ringCfgWrite world w held v
    else if a = DBY_RING_PROD i then ringIndexWrite a world w held v .skip
    else if a = DBY_RING_RCONS i then ringIndexWrite a world w held v (ringLine w)
    else if world ≠ w then ioFault
    else .when (!en && (a == DBY_RING_RBASE i || a == DBY_RING_CTLA i)) (plainWrite true a held v)
  | none => .when (a == DBY_FLASH_SEL) (plainWrite world a held v)

/-- Writes of block 0x04: the source registers (R420, R421, R430) and the interrupt files (R424). -/
def harnessWrite (world : Bool) (a : Nat) (held v : W64) : Act := .read fun s =>
  match fileAt a, arrIx (HRN_SRC 0) 8 1024 a with
  | some (h, f, o), _ =>
    let low := held.getLsbD 0
    if 9 < f then .skip
    else if world ≠ fileWorld f then ioFault
    else if o = 0x00 ∧ low then threshWrite world h f v
    else if o = 0x10 ∧ low then completeWrite world h f (HRN_COMPLETE_ID.get v)
    else if o = 0x40 ∧ low then msipWrite world h f (v.getLsbD 0)
    else if o = 0x48 then timecmpWrite world h f (mergeBits held (s.reg a) v)
    else .skip
  | none, some n => .when (held.getLsbD 0) (srcWrite world n (v.getLsbD 0) v)
  | none, none => .skip

/-- Writes of block 0x05 (R220): while a pair is enabled the ring area stays, while a controller is enabled its doorbell
base. -/
def driveWrite (world : Bool) (a : Nat) (held v : W64) : Act := .read fun s =>
  let may := world == s.blockWorld 5
  if a = DQ_CFG then
    plainWrite may a (if s.drv.pair.isEmpty then held else held &&& ~~~ DQ_CFG_RING_BASE.mask) v
  else match arrIx (DQ_CTRL_A 0) 0x10 1024 a, arrIx (DQ_CTRL_B 0) 0x10 1024 a, arrIx (DQ_QP 0) 8 4096 a with
  | some n, _, _ => dqCtrlWrite world n held v
  | none, some n, _ => .when (!s.bit (DQ_CTRL_A n) DQ_CTRL_A_EN) (plainWrite may a held v)
  | none, none, some q => dqQpWrite world q held v
  | none, none, none => .skip

/-- A write of SHU_QP_CMD (R287): ignored while BUSY = 1; OP starts an operation when the write takes it in. -/
def qpCmdWrite (world : Bool) (held v : W64) : Act := .read fun s =>
  let w := mergeBits held (s.reg SHU_QP_CMD) v
  let id := SHU_QP_CMD_ID.get w
  if world ≠ s.blockWorld 7 ∨ s.bit SHU_QP_CMD SHU_QP_CMD_BUSY then .skip
  else if !held.getLsbD 0 then setF SHU_QP_CMD SHU_QP_CMD_ID id
  else match SHU_QP_CMD_OP.get w with
  | 1 => qpCreate world id
  | 2 => qpErrorCmd world id
  | 3 => qpDestroy world id
  | 4 => mrReg world (id / 2 ^ 8)
  | 5 => mrDereg world (id / 2 ^ 8)
  | op => setFs SHU_QP_CMD [(SHU_QP_CMD_OP, op), (SHU_QP_CMD_ID, id)]
/-- Writes of block 0x07 (R283, R303). -/
def shuttleWrite (world : Bool) (a : Nat) (held v : W64) : Act := .read fun s =>
  let may := world == s.blockWorld 7
  if a = SHU_QP_CMD then qpCmdWrite world held v
  else if a = SHU_QP_ARG then plainWrite may a held v
  else if a = SHU_QPC_BASE ∨ a = SHU_MR_BASE then
    .when (s.shu.qp.isEmpty && s.shu.region.isEmpty) (plainWrite may a held v)
  else match arrIx (SHU_EXQ_BASE 0) 0x100 8 a, arrIx (SHU_RAWQ_BASE 0) 0x100 8 a, arrIx (SHU_RAWQ_IDX 0) 0x100 8 a,
      arrIx (SHU_EXQ_IDX 0) 0x100 8 a with
  | some p, _, _, _ => ringWrite world p false held v
  | none, some p, _, _ => ringWrite world p true held v
  | none, none, some p, _ => rawTailWrite world p held v
  | none, none, none, some p => .when (decide (p < modePorts s.shuMode)) (plainWrite may a held v)
  | none, none, none, none => .skip

/-- Writes of block 0x09 (R220, R390): without GO, a write of an invalidation register sets its fields while none runs. -/
def pcieWrite (world : Bool) (a : Nat) (held v : W64) : Act := .read fun s =>
  match arrIx (PE_PORT_PHYS 0) 0x40 16 a, arrIx (PE_IOTLB_INV 0) 0x10 2 a, arrIx (PE_IOTLB_INV_ADDR 0) 0x10 2 a with
  | some _, _, _ => plainWrite (world == s.blockWorld 9) a held v
  | none, some i, _ =>
    let w := i == 1
    let x := mergeBits held (s.reg a) v
    if held.getLsbD 0 && PE_IOTLB_INV_GO.get v == 1 then iotlbInv w world none x
    else .when (w == world && !s.bit a PE_IOTLB_INV_GO)
      (setFs a [(PE_IOTLB_INV_SCOPE, PE_IOTLB_INV_SCOPE.get x), (PE_IOTLB_INV_FUNC, PE_IOTLB_INV_FUNC.get x)])
  | none, none, some i => plainWrite ((i == 1) == world) a held v
  | none, none, none => .skip

/-- Writes of a doorbell page (Tables 6.5 and 10.6). -/
def pageWrite (f o : Nat) (held v : W64) : Act :=
  let low := held.getLsbD 0
  if o < 0x1000 then .when low (if o % 0x10 = 0 then sqTailWrite f (o / 0x10) v else cqHeadWrite f (o / 0x10) v)
  else if 0x2000 ≤ o ∧ o < 0x4000 then
    let q := (o - 0x2000) / 0x20
    match o % 0x20 with
    | 0x00 => qbaseWrite f q false held v
    | 0x08 => qbaseWrite f q true held v
    | 0x10 => qctlWrite f q held v
    | _ => .skip
  else if 0x8000 ≤ o then
    let k := (o - 0x8000) / 0x20
    match o % 0x20 with
    | 0x00 => .when low (shuSqTail f k v)
    | 0x08 => .when low (shuRqTail f k v)
    | 0x10 => .when low (shuCqHead f k v)
    | _ => .skip
  else .skip

/-- Writes of an error record bank (R546, R550): SIGNAL, and VALID of a record. -/
def bankWrite (world : Bool) (id o : Nat) (held v : W64) : Act := .read fun s =>
  match recAt o with
  | some (r, 0) => .when (held.getLsbD 0 && v.getLsbD 0 && s.recValid (bankOf id) r && s.mayClear world id r) (recClear id r)
  | some _ => .skip
  | none => .when (o == 0) (.seq (plainWrite (splitId id || s.bankWorld id == world) (RAS_BANK_CTL (bankOf id)) held v)
      (bankEval id))

/-- A write of the 64-bit register at `r` by world `w`: `held` are the bits that reach it, `mpriv` is the flit's MPRIV bit and
`node` the requester's node. A writer that its chapter does not name finds every field RO; a doorbell page takes writes only
of its function's world (R465). -/
def regPut (w mpriv : Bool) (node r : Nat) (held v : W64) : Act := .read fun s =>
  match bankAt r, pageAt r, blockAt r with
  | some (id, o), _, _ => bankWrite w id o held v
  | none, some (f, o), _ => if s.funcWorld f ≠ w then .seq (bump (SEL_DENY node)) ioFault else pageWrite f o held v
  | none, none, some (b, _) =>
    (match b with
     | 0x00 => treadleWrite w r held v
     | 0x01 => dobbyWrite w r held v
     | 0x03 => .when (r == SEL_DEBUG) (selDebugWrite w mpriv held v)
     | 0x04 => harnessWrite w r held v
     | 0x05 => driveWrite w r held v
     | 0x06 => (match arrIx (PICK_ALARM 0) 8 64 r with
       | some k => alarmWrite w k held v
       | none => .skip)
     | 0x07 => shuttleWrite w r held v
     | 0x09 => pcieWrite w r held v
     | _ => .skip)
  | none, none, none => .skip
/-- A write of `n` bytes at a register address (R7, R11): the answer is success or an access fault. -/
def regStore (w mpriv : Bool) (node a n : Nat) (v : W64) : Act :=
  if flashAt a || traceAt a || !regWidthOk a n then ioFault
  else .seq (ioAnswer 0) (regPut w mpriv node (a / 8 * 8) (heldBits a n) (if a % 8 = 0 then v else v <<< 32))

/-- The service node at which a block of the IOD attaches to the mesh (Tables 1.2 and 1.3, R306). -/
def serviceNode (b : Nat) : Option Nat := match b with
  | 0x01 => some 103 | 0x03 => some 111 | 0x08 => some 215 | 0x21 => some 223 | _ => none
/-- The node at which the mesh delivers an I/O access of node `n`: the node of the register, of its block's attachment, or
the port node (R14, R21). -/
def State.ioNode (s : State) (n a : Nat) : Nat :=
  match nodeAt a, blockAt a with
  | some (m, _), _ => m
  | none, some (b, _) => if 0x10 ≤ b ∧ b < 0x1C then mcNode (b - 0x10) else (serviceNode b).getD (s.portFor n)
  | none, none => s.portFor n
/-- A fenced or powered-off node answers an access of node `n` with all-ones data and FAULT (R11, Table 2.4). -/
def behindFence (n a : Nat) (body : Act) : Act := .read fun s =>
  if s.responder (s.ioNode n a) then .seq (bump (MESH_RTR_FENCED (s.ioNode n a)))
    (.io fun x => { x with answer := allBits, fault := true }) else body

/-- REGISTER_WRITE (R8): a write of `n` bytes by a hart of world `world`, in M-mode where `mpriv` is set. -/
def execRegisterWrite (world mpriv : Bool) (node addr n : Nat) (value : W64) (s : State) : Out :=
  commit (behindFence node addr (regStore world mpriv node addr n value)) s

/-- The W1C bits of a register that a write of 1 clears: LATCHED of a source, LOST of a ring, VALID of a record, WAKE_FAIL,
VALID of TRD_ABORT, and in a root port's configuration space Data Link Layer State Changed. -/
def w1cWrite (world : Bool) (a : Nat) (v : W64) : Act := .read fun s =>
  match bankAt a, ringAt a, arrIx (HRN_SRC 0) 8 1024 a with
  | some (id, o), _, _ => (match recAt o with | some (_, 0) => bankWrite world id o allBits v | _ => .skip)
  | none, some w, _ => .when (a == DBY_RING_CFG (ringIx w)) (if world ≠ w then ioFault
      else .when (DBY_RING_CFG_LOST.get v == 1) (setF a DBY_RING_CFG_LOST 0))
  | none, none, some n => .when (s.bit a HRN_SRC_WORLD == world && HRN_SRC_LATCHED.get v == 1) (setF (HRN_SRC n) HRN_SRC_LATCHED 0)
  | none, none, none =>
    let p := (a - 0xC00000000000) / 2 ^ 15
    if a = TRD_STAT ∨ a = TRD_ABORT then plainWrite (world == s.blockWorld 0) a allBits v
    else if 0xC00000000000 ≤ a ∧ a < 0xC00000080000 ∧ v ≠ 0 then
      .seq (modPort p fun x => { x with changed := false }) (portLine p)
    else .skip
/-- W1C_STATUS_CLEAR (R8). -/
def execW1cStatusClear (world : Bool) (addr : Nat) (value : W64) (s : State) : Out := commit (w1cWrite world addr value) s

/-! ### I/O accesses of harts (R336) -/

/-- Is the link of a root port up and its controller in service? -/
def State.pcieUp (s : State) (p : Nat) : Bool :=
  s.bit (PE_PORT_STAT p) PE_PORT_STAT_LINK_UP && !s.bit (PE_PORT_STAT p) PE_PORT_STAT_CONTAINED && !s.dbg.stopped
/-- An access to configuration space (R197). Bus 0 holds the root ports, whose registers the manual leaves to PCI Express: a
read of one is free. On other buses `ext` is what the device answers, if a bridge claims the bus. -/
def ecamAccess (write : Bool) (a n : Nat) (ext : Option W64) : Act := .read fun s =>
  let ones : W64 := wordPart (BitVec.allOnes 64) 0 n
  if !regWidthOk a n then ioFault
  else if write then ioAnswer 0
  else if a / 2 ^ 20 % 256 = 0 ∧ a / 2 ^ 15 % 32 < 16 then withFree fun k => ioAnswer (wordPart (Config.pciWord k) 0 n)
  else if s.dbg.stopped then ioAnswer ones
  else ioAnswer (ext.getD ones)
/-- An access to a root port's memory window: `ext` is what the device answers; without an answer a read is free. -/
def windowAccess (write : Bool) (a : Nat) (ext : Option W64) : Act := .read fun s =>
  match (if s.pcieUp ((a - 0x800000000000) / 2 ^ 42) then ext else none) with
  | some v => ioAnswer (if write then 0 else v)
  | none => if write then ioAnswer 0 else withFree fun k => ioAnswer (Config.pciWord k)
/-- An access of `n` bytes to an I/O address by world `w` from node `node`. -/
def ioAccess (w mpriv write : Bool) (node a n : Nat) (v : W64) (ext : Option W64) : Act :=
  if 0xE00000000000 ≤ a then (if write then regStore w mpriv node a n v else regLoad w a n)
  else if 0xC00000000000 ≤ a then ecamAccess write a n ext
  else windowAccess write a ext

/-- IO_ACCESS (R336): the hart's waiting I/O load or store is sent and answered. A fenced or powered-off node answers FAULT
(Table 2.4); a fault is precise. -/
def execIoAccess (hart : Nat) (ext : Option (BitVec 64)) (s : State) : Out :=
  let t := s.hart hart
  let n := s.nodeOf hart
  commit (match t.io with
    | none => .skip
    | some e =>
      .all [
        modHart hart fun u => { u with io := none },
        bump (CORE_IO_ACCESS n),
        behindFence n e.pa (ioAccess t.world e.mpriv e.store n e.pa e.size (BitVec.ofNat 64 e.data) ext),
        .read fun s =>
          if s.io.fault then takeTrap hart { cause := if e.store then 7 else 5, tval := e.va } e.pc
          else .seq
            (.when (!e.store) (modHart hart fun u => u.loadInto
              { rd := e.rd, pa := e.pa, pa2 := e.pa, n1 := e.size, va := e.va, size := e.size, kind := e.kind, pc := e.pc,
                len := e.len } (s.io.answer.toNat % 2 ^ (8 * e.size))))
            (retire hart e.len),
        stepCheck hart s ]) s

/-! ### The Lease ring (R24–R28) -/

/-- The register range of a stop (R24): a subsystem block, a node, or a controller's block at its node. -/
def stopBase (stop : Nat) : Option Nat :=
  if stop ≠ 0x01 ∧ (blockDefs stop).isSome ∧ stop < 0x100 then some (blockBase stop)
  else if 0x100 ≤ stop ∧ stop < 0x1E0 then some (nodeBase (stop - 0x100)) else none
/-- A frame comes back to Dobby. -/
def frameBack (f : RingFrame) : Act := .dby fun d => { d with frame := f }
/-- A frame with its faults (Table 1.10): `bad` parity failures, of which Dobby's retry repairs one. `body` is what the stop
does. -/
def ringFrame (op stop offset tag bad : Nat) (data : W64) (body : Nat → Act) : Act := .read fun s =>
  let back := fun (st : Nat) => frameBack { stop := stop, op := op, stat := st, tag := tag, data := data }
  match stopBase stop with
  | none => back 0
  | some b =>
    if s.dby.ringBroken then back 0
    else if s.stopLost stop then back 2
    else if 2 ≤ bad then .seq (back 4) (rasLog { sev := 2, cls := cLink, block := stop, bank := some 0x0001 })
    else if offset % 8 ≠ 0 then back 3
    else .seq (body (b + offset % 2 ^ 24)) (.read fun s => frameBack
      { stop := stop, op := op, stat := if s.io.fault then 3 else 1, tag := tag
        data := if op = 1 then s.io.answer else data })
/-- LEASE_RING_READ (R25). -/
def execLeaseRingRead (stop offset tag bad : Nat) (s : State) : Out :=
  commit (ringFrame 1 stop offset tag bad 0 fun a => .read fun s => regLoad (s.ownWorld a) a 8) s

/-- The registers whose fields only Dobby writes, by their chapters. -/
def dobbyRegs (a : Nat) : Bool :=
  match nodeAt a, blockAt a with
  | some (_, o), _ => [0x000, 0x008, 0x200, 0x300].contains o
  | none, some (b, o) =>
    (b == 0x20 && decide (o < 0xF00000)) || b == 0x02 && (o == 0 || decide (0x1000 ≤ o ∧ o < 0x2000)) ||
    (b == 0x03 && decide (o < 0xF00000) && o != 0x20) || (b == 0x04 && decide (0x10000 ≤ o ∧ o < 0x50000)) ||
    (b == 0x05 && o == 0x18) || (b == 0x06 && (o == 0x8 || decide (0x10000 ≤ o ∧ o < 0x18000))) ||
    (b == 0x07 && (o < 0x1000 || (decide (0x1000 ≤ o ∧ o < 0x1800) && decide (o % 0x100 < 0x80)))) ||
    (b == 0x08 && o == 0x8) || (b == 0x09 && decide (0x1000 ≤ o ∧ o < 0x1400) && o % 0x40 == 0) ||
    (decide (0x10 ≤ b ∧ b < 0x1C) && (o == 0 || o == 0x10 || decide (0x1000 ≤ o ∧ o < 0x1020)))
  | none, none => false
/-- LEASE_RING_WRITE (R25): as the owning world's write, and into the fields that Dobby alone writes. What follows from such
a setting comes with the card that Dobby carries out. -/
def execLeaseRingWrite (stop offset tag bad : Nat) (value : W64) (s : State) : Out :=
  commit (ringFrame 2 stop offset tag bad value fun a => .read fun s =>
    if dobbyRegs a then .all [ioAnswer 0, .reg a value, effectiveEval]
    else regStore (s.ownWorld a) false 103 a 8 value) s
/-- LEASE_RING_PING (R25). -/
def execLeaseRingPing (stop offset tag bad : Nat) (s : State) : Out :=
  commit (ringFrame 3 stop offset tag bad 0 fun _ => ioAnswer 0) s

/-- The lowest node of a compute die. -/
def dieFirstNode (d : Nat) : Nat := d / 2 * 112 + d % 2 * 8
/-- RING_FRAME_TIMEOUT (R28): a frame is not back within 512 ring cycles. `brk` is where the ring is broken: in the segment of
a compute die (0–3), which stays bypassed, or in the IOD's (4). -/
def execRingFrameTimeout (brk : Nat) (s : State) : Out :=
  commit (if s.dby.ringBroken then .skip
    else if brk < 4 then
      (if s.dby.ringBypass.contains brk || !s.pwr.railC then .skip else .all [
        .dby fun d => { d with ringBypass := insertNat d.ringBypass brk },
        rasLog { sev := 2, cls := cTimeout, block := 0x100 + dieFirstNode brk, bank := some 0x0001 } ])
    else .all [
      .dby fun d => { d with ringBroken := true },
      rasLog { sev := 3, cls := cTimeout, block := 0x0001 } ]) s

/-! ### Inbound PCIe requests (R31, R208–R211) -/

/-- A request that nothing permits (R30): a read gets Unsupported Request, and the complex logs a UCR record. -/
def inboundRefused (port rid a : Nat) (read : Bool) : Act := .all [
  .when read (cplAnswer 1 [] false),
  rasLog { sev := 2, cls := cProtocol, block := portId port, addr := some a, synd := rid } ]
/-- The pair whose submission ring (`cq` false) or completion ring holds an address, with the offset in the ring; the
request must come from the RID of the ring's controller (R211). -/
def State.ringPair (s : State) (rid a n : Nat) (cq : Bool) : Option Nat :=
  let size := if cq then 0x4000 else 0x10000
  let base := if cq then s.cqRing 0 else s.sqRing 0
  let q := (a - base) / size
  if base ≤ a ∧ q < 4096 ∧ (a - base) % size + n ≤ size ∧ (Tab.find s.drv.pair q).isSome ∧
      s.get (DQ_CTRL_A (s.pairCtrl q)) DQ_CTRL_A_RID = rid ∧ s.dramOk (s.blockWorld 5) a n then some q else none
/-- Is an address in the physical window of a port (Table 7.11)? -/
def State.inPhys (s : State) (port a n : Nat) : Bool :=
  s.bit (PE_PORT_CFG port) PE_PORT_CFG_PHYS && decide (s.get (PE_PORT_PHYS port) PE_PORT_PHYS_BASE ≤ a / 2 ^ 20) &&
    decide ((a + n - 1) / 2 ^ 20 ≤ s.get (PE_PORT_PHYS port) PE_PORT_PHYS_LIMIT) && s.populated a n
/-- A physical access behind the checks of R211 and R465. -/
def physAccess (port rid a n : Nat) (read : Bool) (body : State → Act) : Act := .read fun s =>
  if !s.inPhys port a n then inboundRefused port rid a read
  else if !s.worldOk (s.portWorld port) a then
    .seq (bump (SEL_DENY (s.portFor (s.homeOf (a / 64))))) (inboundRefused port rid a read)
  else body s
/-- The record of data that a device sent poisoned (R399, R553). -/
def inboundPoison (port a : Nat) (world : Bool) : Act :=
  rasLog { sev := 1, cls := cPoison, block := portId port, addr := some (a / 64 * 64), world := world }

/-- PCIE_INBOUND_WRITE (R31): a memory write of requester `rid` below root port `port`. -/
def execPcieInboundWrite (port rid addr : Nat) (data : List (BitVec 8)) (poison : Bool) (s : State) : Out :=
  let n := data.length
  commit (if !s.pcieUp port ∨ n = 0 then .skip
    else if addr / 2 ^ 46 = 1 then handleWrite port rid addr data poison
    else if addr < 2 ^ 46 then
      (match s.ringPair rid addr n true with
       | some q => .all [
           .when poison (inboundPoison port addr (s.blockWorld 5)),
           wrCoh addr data poison,
           .when (n % 16 == 0 && addr % 16 == 0) (.each (List.range (n / 16)) fun k => .read fun s =>
            .when (k == 0 || s.ctrlUp (s.pairCtrl q)) (cqEntry q ((data.drop (16 * k)).take 16))) ]
       | none => physAccess port rid addr n false fun s => .seq
           (.when poison (inboundPoison port addr (s.portWorld port))) (wrCoh addr data poison))
    else if winBase ≤ addr ∧ addr < winBase + 2 ^ 32 then
      .seq (.when (s.winRefused addr n (.pcie rid)).isSome (inboundRefused port rid addr false))
        (winWrite addr n (BitVec.ofNat 512 (leNat data)) poison (.pcie rid))
    else inboundRefused port rid addr false) s
/-- PCIE_INBOUND_READ (R31): a memory read of up to 4,096 bytes (Table 7.2). -/
def execPcieInboundRead (port rid addr n : Nat) (s : State) : Out :=
  let give := fun (s : State) => cplAnswer 0 (s.rd addr n) (s.rdPoison addr n)
  commit (if !s.pcieUp port ∨ n = 0 ∨ 4096 < n then .skip
    else if addr / 2 ^ 46 = 1 then handleRead port rid addr n
    else if addr < 2 ^ 46 then
      (match s.ringPair rid addr n false with
       | some _ => give s
       | none => physAccess port rid addr n true give)
    else inboundRefused port rid addr true) s

/-! ### The debug module (R588–R590) -/

/-- Is a hart unavailable to the debugger (R589)? -/
def State.hartUnavail (s : State) (h : Nat) : Bool :=
  match s.hartNode h with
  | some n => s.tstate n != tsRun && s.tstate n != tsDrain
  | none => true
/-- Set cmderr (debug 1.0). -/
def cmdErr (e : Nat) : Act := .dbg fun d => { d with cmderr := e }
/-- A 64-bit argument of an abstract command: data registers 2k and 2k + 1. -/
def DbgSt.arg (d : DbgSt) (k : Nat) : Nat := Tab.getD d.data (2 * k) 0 + Tab.getD d.data (2 * k + 1) 0 * 2 ^ 32
/-- Set a 64-bit argument. -/
def setArg (k v : Nat) : Act := .dbg fun d =>
  { d with data := Tab.put (Tab.put d.data (2 * k) (v % 2 ^ 32)) (2 * k + 1) (v / 2 ^ 32 % 2 ^ 32) }
/-- The CSRs of the device's own (Table 13.7). -/
def customCsr (n : Nat) : Bool := [0x7C0, 0x7C1, 0x7C2, 0x7C3, 0x5C0, 0x5C1, 0x8C0].contains n

/-- Access Register (Table 23.2): integer and FP registers and custom CSRs, 64 bits; a read may take 32. -/
def accessRegister (h cmd : Nat) : Act := .read fun s =>
  let size := cmd / 2 ^ 20 % 8
  let write := cmd.testBit 16
  let r := cmd % 2 ^ 16
  let t := s.hart h
  let sized := fun (v : W64) => if size = 2 then v.toNat % 2 ^ 32 else v.toNat
  let v := BitVec.ofNat 64 (s.dbg.arg 0)
  let post : Act := .when (cmd.testBit 18) (modHdbg h fun d => { d with prog := true })
  if cmd.testBit 19 then cmdErr 2
  else if !cmd.testBit 17 then post
  else if !(size = 3 ∨ (size = 2 ∧ !write)) then cmdErr 2
  else if 0x1000 ≤ r ∧ r < 0x1020 then .seq (if write then modHart h fun u => u.wx r v else setArg 0 (sized (t.rx r))) post
  else if 0x1020 ≤ r ∧ r < 0x1040 then .seq (if write then modHart h fun u => u.wf r v else setArg 0 (sized (t.rf r))) post
  else if customCsr r then
    (if (t.csrFault r write true).isSome then cmdErr 3
     else .seq (if write then csrApply h r v true else withFree fun k => .read fun s => setArg 0 (sized (s.csrRead h r k))) post)
  else cmdErr 2

/-- Access Memory (Table 23.2): 8 to 64 bits at a physical address of the halted hart's world. -/
def accessMemory (h cmd : Nat) : Act := .read fun s =>
  let lg := cmd / 2 ^ 20 % 8
  let n := 2 ^ lg
  let write := cmd.testBit 16
  let t := s.hart h
  let a := s.dbg.arg 1 % 2 ^ 48
  let v := s.dbg.arg 0 % 2 ^ (8 * n)
  let next : Act := .when (cmd.testBit 19) (setArg 1 (s.dbg.arg 1 + n))
  if cmd.testBit 23 ∨ 3 < lg then cmdErr 2
  else if s.dbg.arg 1 ≠ a ∨ !t.pmpOk 3 a n (if write then 1 else 0) then cmdErr 5
  else match s.place t a n with
  | .dram => if write then .seq (wrCohNat a n v) next
      else if s.rdPoison a n then cmdErr 5 else .seq (setArg 0 (s.rdNat a n)) next
  | .tcm => if write then .seq (modHart h fun u => u.tcmWrite a n v) next else .seq (setArg 0 (t.tcmRead a n)) next
  | .io => .seq (ioAccess t.world true write (s.nodeOf h) a n (BitVec.ofNat 64 v) none)
      (.read fun s => if s.io.fault then cmdErr 5 else .seq (.when (!write) (setArg 0 (s.io.answer.toNat % 2 ^ (8 * n)))) next)
  | .none => cmdErr 5

/-- An abstract command (debug 1.0): ignored while cmderr is not 0; the hart must be halted, available and in a permitted
world (R481). -/
def abstractCmd (h cmd : Nat) : Act := .read fun s =>
  if s.dbg.cmderr ≠ 0 then .skip
  else .seq (.dbg fun d => { d with command := cmd })
    (if 191 < h ∨ !(s.hdbg h).halted ∨ (s.hdbg h).prog ∨ s.hartUnavail h ∨ !s.debugOk h then cmdErr 4
     else match cmd / 2 ^ 24 with
     | 0 => accessRegister h cmd
     | 2 => accessMemory h cmd
     | _ => cmdErr 2)
/-- DM_ABSTRACT_COMMAND (R588): `cmd` is the word written to the command register. -/
def execDmAbstractCommand (hart : Nat) (cmd : BitVec 32) (s : State) : Out := commit (abstractCmd hart cmd.toNat) s

/-- Set sberror (debug 1.0). -/
def sbErr (e : Nat) : Act := .dbg fun d => { d with sberror := e }
/-- The world that a system bus access carries (R590). -/
def State.sbWorld (s : State) : Option Bool := if s.invWorld true then some true else if s.invWorld false then some false else none
/-- A system bus access of 2^`lg` bytes (R590), from node 223. -/
def sbAccess (write : Bool) (a lg : Nat) (v : Nat) (ext : Option W64) : Act := .read fun s =>
  let n := 2 ^ lg
  let got := fun (x : Nat) => Act.dbg fun d => { d with sbdata := x }
  if s.dbg.sberror ≠ 0 then .skip
  else if 3 < lg then sbErr 4
  else if a % n ≠ 0 then sbErr 3
  else match s.sbWorld with
  | none => sbErr 7
  | some w =>
    let denied := match pageAt a with | some (f, _) => write && s.funcWorld f != w | none => false
    if s.responder 223 then sbErr 7
    else if a < 2 ^ 47 then
      if !s.populated a n then sbErr 7
      else if !s.worldOk w a then .seq (bump (SEL_DENY 223)) (sbErr 2)
      else if write then wrCohNat a n (v % 2 ^ (8 * n))
      else if s.rdPoison a n then sbErr 7
      else got (s.rdNat a n)
    else if denied then .seq (bump (SEL_DENY 223)) (sbErr 2)
    else if s.place { world := w } a n ≠ .io ∨ s.responder (s.ioNode 223 a) then sbErr 7
    else .seq (ioAccess w false write 223 a n (BitVec.ofNat 64 v) ext)
      (.read fun s => if s.io.fault then sbErr 7 else .when (!write) (got (s.io.answer.toNat % 2 ^ (8 * n))))
/-- DM_SYSTEM_BUS_ACCESS (R590). -/
def execDmSystemBusAccess (write : Bool) (addr size : Nat) (value : BitVec 64) (ext : Option (BitVec 64)) (s : State) : Out :=
  commit (sbAccess write (addr % 2 ^ 48) size value.toNat ext) s

/-! ### The debug module interface (debug 1.0) -/

/-- The harts that dmcontrol selects: hartsel, and with hasel the hart array mask too. -/
def DbgSt.selected (d : DbgSt) : List Nat :=
  d.hartsel :: (if d.hasel then d.hawindow.filter (· != d.hartsel) else [])
/-- dmstatus. -/
def State.dmstatus (s : State) : Nat :=
  let l := s.dbg.selected
  let real := fun (h : Nat) => decide (h < 192)
  let up := fun (h : Nat) => real h && !s.hartUnavail h
  let pair := fun (lo : Nat) (p : Nat → Bool) => (if l.any p then 2 ^ lo else 0) + (if l.all p then 2 ^ (lo + 1) else 0)
  2 ^ 22 + pair 18 (fun h => real h && (s.hdbg h).haveReset) + pair 16 (fun h => real h && (s.hdbg h).resumeAck) +
    pair 14 (fun h => !real h) + pair 12 (fun h => real h && s.hartUnavail h) +
    pair 10 (fun h => up h && !(s.hdbg h).halted) + pair 8 (fun h => up h && (s.hdbg h).halted) + 2 ^ 7 + 2 ^ 5 + 3
/-- haltsum0 and haltsum1: 32 harts, or 32 groups of them. -/
def State.haltsum (s : State) (base step : Nat) : Nat :=
  ((List.range 32).map fun i => if (List.range step).any (fun j => (s.hdbg (base + i * step + j)).halted) then 2 ^ i else 0).sum
/-- What a read of a DMI register returns. -/
def State.dmiRead (s : State) (a : Nat) : Nat :=
  let d := s.dbg
  if 0x04 ≤ a ∧ a ≤ 0x07 then Tab.getD d.data (a - 0x04) 0
  else if 0x20 ≤ a ∧ a ≤ 0x27 then Tab.getD d.progbuf (a - 0x20) 0
  else match a with
  | 0x10 => (if d.hasel then 2 ^ 26 else 0) + d.hartsel % 2 ^ 10 * 2 ^ 16 + d.hartsel / 2 ^ 10 * 2 ^ 6 + (if d.dmactive then 1 else 0)
  | 0x11 => s.dmstatus
  | 0x13 => s.haltsum (d.hartsel / 1024 * 1024) 32
  | 0x14 => d.hawsel
  | 0x15 => ((List.range 32).map fun i => if d.hawindow.contains (d.hawsel * 32 + i) then 2 ^ i else 0).sum
  | 0x16 => 8 * 2 ^ 24 + d.cmderr * 2 ^ 8 + 4
  | 0x38 => 2 ^ 29 + d.sbcs + d.sberror * 2 ^ 12 + 48 * 2 ^ 5 + 0xF
  | 0x39 => d.sbaddr % 2 ^ 32
  | 0x3A => d.sbaddr / 2 ^ 32
  | 0x3C => d.sbdata % 2 ^ 32
  | 0x3D => d.sbdata / 2 ^ 32
  | 0x40 => s.haltsum (d.hartsel / 32 * 32) 1
  | _ => 0

/-- A system bus access at sbaddress with the size of sbcs; sbautoincrement moves the address on. -/
def sbGo (write : Bool) : Act := .read fun s =>
  let lg := s.dbg.sbcs / 2 ^ 17 % 8
  .seq (sbAccess write s.dbg.sbaddr lg s.dbg.sbdata none)
    (.read fun s => .when (s.dbg.sberror == 0 && s.dbg.sbcs.testBit 16)
      (.dbg fun d => { d with sbaddr := (d.sbaddr + 2 ^ lg) % 2 ^ 48 }))
/-- What a read of a DMI register does beside returning it: sbreadondata. -/
def dmiReadDone (a : Nat) : Act := .read fun s => .when (a == 0x3C && s.dbg.sberror == 0 && s.dbg.sbcs.testBit 15) (sbGo false)

/-- A write of dmcontrol. -/
def dmControl (v : Nat) : Act := .read fun s =>
  let sel := v / 2 ^ 16 % 2 ^ 10 + v / 2 ^ 6 % 2 ^ 10 * 2 ^ 10
  let each := fun (f : Nat → Act) => Act.read fun s => .each (s.dbg.selected.filter fun h => decide (h < 192)) f
  if !v.testBit 0 then .dbg fun d => { d with
      dmactive := false, hartsel := 0, hasel := false, hawindow := [], hawsel := 0, cmderr := 0, data := [], progbuf := []
      command := 0, sbaddr := 0, sbdata := 0, sbcs := 0x40000, sberror := 0
      hart := d.hart.map fun p => (p.1, { p.2 with haltReq := false, resetHalt := false }) }
  else if !s.dbg.dmactive then .dbg fun d => { d with dmactive := true, sbcs := 0x40000 }
  else .all [
    .dbg fun d => { d with hartsel := sel, hasel := v.testBit 26 },
    each fun h => modHdbg h fun x => { x with
      haveReset := x.haveReset && !v.testBit 28
      resetHalt := if v.testBit 2 then false else x.resetHalt || v.testBit 3
      haltReq := x.haltReq && v.testBit 31 },
    if v.testBit 31 then each haltHart
    else .when (v.testBit 30) (each fun h => .seq (modHdbg h fun x => { x with resumeAck := false }) (resumeHart h)) ]

/-- A write of a DMI register. -/
def dmiWrite (a v : Nat) : Act := .read fun s =>
  if a ≠ 0x10 ∧ !s.dbg.dmactive then .skip
  else if 0x04 ≤ a ∧ a ≤ 0x07 then .dbg fun d => { d with data := Tab.put d.data (a - 0x04) v }
  else if 0x20 ≤ a ∧ a ≤ 0x27 then .dbg fun d => { d with progbuf := Tab.put d.progbuf (a - 0x20) v }
  else match a with
  | 0x10 => dmControl v
  | 0x14 => .dbg fun d => { d with hawsel := v % 8 }
  | 0x15 => .dbg fun d => { d with hawindow := d.hawindow.filter (fun h => h / 32 != d.hawsel) ++
      ((List.range 32).filter fun i => v.testBit i && decide (d.hawsel * 32 + i < 192)).map (d.hawsel * 32 + ·) }
  | 0x16 => .dbg fun d => { d with cmderr := d.cmderr &&& (7 - v / 2 ^ 8 % 8) }
  | 0x17 => abstractCmd s.dbg.hartsel v
  | 0x38 => .dbg fun d => { d with sbcs := v / 2 ^ 15 % 2 ^ 6 * 2 ^ 15, sberror := d.sberror &&& (7 - v / 2 ^ 12 % 8) }
  | 0x39 => .seq (.dbg fun d => { d with sbaddr := d.sbaddr / 2 ^ 32 * 2 ^ 32 + v })
      (.when (s.dbg.sberror == 0 && s.dbg.sbcs.testBit 20) (sbGo false))
  | 0x3A => .dbg fun d => { d with sbaddr := d.sbaddr % 2 ^ 32 + v % 2 ^ 16 * 2 ^ 32 }
  | 0x3C => .seq (.dbg fun d => { d with sbdata := d.sbdata / 2 ^ 32 * 2 ^ 32 + v })
      (.when (s.dbg.sberror == 0) (sbGo true))
  | 0x3D => .dbg fun d => { d with sbdata := d.sbdata % 2 ^ 32 + v * 2 ^ 32 }
  | _ => .skip

/-- JTAG_DMI (R585, R588): without `scan` the instruction is loaded; with it 41 bits go through the DMI register: op (1 read,
2 write), 32 bits of data, 7 of address. What is shifted out next holds the data with op 0. -/
def execJtagDmi (scan : Option (BitVec 41)) (s : State) : Out :=
  commit (match scan with
    | none => tapLoad 0x10 0
    | some w =>
      let op := w.toNat % 4
      let v := w.toNat / 4 % 2 ^ 32
      let a := w.toNat / 2 ^ 34
      let out := fun (x : Nat) => Act.dbg fun d => { d with tapShift := a * 2 ^ 34 + x * 4 }
      if s.dbg.ir ≠ 0x10 ∨ !s.tapOn then .skip
      else if op = 1 then .seq (out (s.dmiRead a)) (dmiReadDone a)
      else if op = 2 then .seq (dmiWrite a v) (out v)
      else .skip) s

end Sys2Proof.Machine
end

