-- ==== Sys2Proof/Machine/Dispatch.lean ====
section
/-! DEFINITION. One arm per command: a direct call of its meaning. -/

namespace Sys2Proof.Machine

/-- The effect of a command on everything but the queue. -/
def exec (i : Instr) (s : State) : Host.Outcome State Fault Refusal :=
  match i with
  | .registerWrite world mpriv node addr n value => Sys2Proof.Machine.execRegisterWrite world mpriv node addr n value s
  | .leaseRingRead stop offset tag bad => Sys2Proof.Machine.execLeaseRingRead stop offset tag bad s
  | .leaseRingWrite stop offset tag bad value => Sys2Proof.Machine.execLeaseRingWrite stop offset tag bad value s
  | .leaseRingPing stop offset tag bad => Sys2Proof.Machine.execLeaseRingPing stop offset tag bad s
  | .ringFrameTimeout brk => Sys2Proof.Machine.execRingFrameTimeout brk s
  | .pcieInboundWrite port rid addr data poison => Sys2Proof.Machine.execPcieInboundWrite port rid addr data poison s
  | .pcieInboundRead port rid addr n => Sys2Proof.Machine.execPcieInboundRead port rid addr n s
  | .flitArrival node => Sys2Proof.Machine.execFlitArrival node s
  | .flitInject node => Sys2Proof.Machine.execFlitInject node s
  | .injectionWaitExpiry node => Sys2Proof.Machine.execInjectionWaitExpiry node s
  | .classAgeExpiry node cls => Sys2Proof.Machine.execClassAgeExpiry node cls s
  | .starveAssert node => Sys2Proof.Machine.execStarveAssert node s
  | .dieFifoDrift => Sys2Proof.Machine.execDieFifoDrift s
  | .neighbourThermalStep hot cool hotTemp coolTemp after => Sys2Proof.Machine.execNeighbourThermalStep hot cool hotTemp coolTemp after s
  | .tileDrain c node => Sys2Proof.Machine.execTileDrain c node s
  | .drainComplete node => Sys2Proof.Machine.execDrainComplete node s
  | .drainTimeout node => Sys2Proof.Machine.execDrainTimeout node s
  | .tileFence c node force => Sys2Proof.Machine.execTileFence c node force s
  | .fenceWaitExpiry node => Sys2Proof.Machine.execFenceWaitExpiry node s
  | .tilePowerOff c node => Sys2Proof.Machine.execTilePowerOff c node s
  | .tilePowerOn c node => Sys2Proof.Machine.execTilePowerOn c node s
  | .tileTest c node => Sys2Proof.Machine.execTileTest c node s
  | .tileRestore c node => Sys2Proof.Machine.execTileRestore c node s
  | .tileSpare c failed spare result => Sys2Proof.Machine.execTileSpare c failed spare result s
  | .missTagAcquire node => Sys2Proof.Machine.execMissTagAcquire node s
  | .mapUpdateFlit req entry => Sys2Proof.Machine.execMapUpdateFlit req entry s
  | .mapUpdateAcked entry => Sys2Proof.Machine.execMapUpdateAcked entry s
  | .mapWalkEnd entry => Sys2Proof.Machine.execMapWalkEnd entry s
  | .sliceScrubRead node line wrong => Sys2Proof.Machine.execSliceScrubRead node line wrong s
  | .stridePrefetchIssue node pc => Sys2Proof.Machine.execStridePrefetchIssue node pc s
  | .instructionExecute u op => Sys2Proof.Machine.execInstructionExecute u op s
  | .load u rd rs1 imm size kind hyp => Sys2Proof.Machine.execLoad u rd rs1 imm size kind hyp s
  | .store u rs1 rs2 imm size kind hyp => Sys2Proof.Machine.execStore u rs1 rs2 imm size kind hyp s
  | .storeDrain hart => Sys2Proof.Machine.execStoreDrain hart s
  | .amo u op rd rs1 rs2 size => Sys2Proof.Machine.execAmo u op rd rs1 rs2 size s
  | .loadReserved u rd rs1 size => Sys2Proof.Machine.execLoadReserved u rd rs1 size s
  | .storeConditional u rd rs1 rs2 size => Sys2Proof.Machine.execStoreConditional u rd rs1 rs2 size s
  | .ioAccess hart ext => Sys2Proof.Machine.execIoAccess hart ext s
  | .branchMispredict hart pc => Sys2Proof.Machine.execBranchMispredict hart pc s
  | .memoryOrderFlush hart loadPc storePc => Sys2Proof.Machine.execMemoryOrderFlush hart loadPc storePc s
  | .loadReplay hart => Sys2Proof.Machine.execLoadReplay hart s
  | .exception hart cause tval gpa => Sys2Proof.Machine.execException hart cause tval gpa s
  | .interruptTaken hart => Sys2Proof.Machine.execInterruptTaken hart s
  | .xret u mret => Sys2Proof.Machine.execXret u mret s
  | .fence u pred => Sys2Proof.Machine.execFence u pred s
  | .fenceI u => Sys2Proof.Machine.execFenceI u s
  | .csrWrite u rd num op rs1 imm => Sys2Proof.Machine.execCsrWrite u rd num op rs1 imm s
  | .pause u => Sys2Proof.Machine.execPause u s
  | .prefetchI u rs1 imm => Sys2Proof.Machine.execPrefetchI u rs1 imm s
  | .prefetchR u rs1 imm => Sys2Proof.Machine.execPrefetchR u rs1 imm s
  | .prefetchW u rs1 imm => Sys2Proof.Machine.execPrefetchW u rs1 imm s
  | .cboZero u rs1 => Sys2Proof.Machine.execCboZero u rs1 s
  | .cboClean u rs1 => Sys2Proof.Machine.execCboClean u rs1 s
  | .cboFlush u rs1 => Sys2Proof.Machine.execCboFlush u rs1 s
  | .cboInval u rs1 => Sys2Proof.Machine.execCboInval u rs1 s
  | .sfenceVma u rs1 rs2 => Sys2Proof.Machine.execSfenceVma u rs1 rs2 s
  | .hfenceVvma u rs1 rs2 => Sys2Proof.Machine.execHfenceVvma u rs1 rs2 s
  | .hfenceGvma u rs2 => Sys2Proof.Machine.execHfenceGvma u rs2 s
  | .deterministicEnter u rd op rs1 imm => Sys2Proof.Machine.execDeterministicEnter u rd op rs1 imm s
  | .deterministicExit u rd op rs1 imm => Sys2Proof.Machine.execDeterministicExit u rd op rs1 imm s
  | .coreBpctlFlush u rd op rs1 imm => Sys2Proof.Machine.execCoreBpctlFlush u rd op rs1 imm s
  | .coreBpctxWrite u rd op rs1 imm => Sys2Proof.Machine.execCoreBpctxWrite u rd op rs1 imm s
  | .coreFpctlWrite u rd op rs1 imm => Sys2Proof.Machine.execCoreFpctlWrite u rd op rs1 imm s
  | .fpsync u => Sys2Proof.Machine.execFpsync u s
  | .wgate u rs1 => Sys2Proof.Machine.execWgate u rs1 s
  | .wland u => Sys2Proof.Machine.execWland u s
  | .rdShared node f => Sys2Proof.Machine.execRdShared node f s
  | .rdUnique node f => Sys2Proof.Machine.execRdUnique node f s
  | .upgrade node f => Sys2Proof.Machine.execUpgrade node f s
  | .rdOnce node f => Sys2Proof.Machine.execRdOnce node f s
  | .wrFull node f => Sys2Proof.Machine.execWrFull node f s
  | .wrPart node f => Sys2Proof.Machine.execWrPart node f s
  | .claimZero node f => Sys2Proof.Machine.execClaimZero node f s
  | .evictDirty node f => Sys2Proof.Machine.execEvictDirty node f s
  | .evictClean node f => Sys2Proof.Machine.execEvictClean node f s
  | .clean node f => Sys2Proof.Machine.execClean node f s
  | .flush node f => Sys2Proof.Machine.execFlush node f s
  | .rel node f => Sys2Proof.Machine.execRel node f s
  | .snpShared node f => Sys2Proof.Machine.execSnpShared node f s
  | .snpUnique node f => Sys2Proof.Machine.execSnpUnique node f s
  | .inv node f => Sys2Proof.Machine.execInv node f s
  | .snpOnce node f => Sys2Proof.Machine.execSnpOnce node f s
  | .snpClean node f => Sys2Proof.Machine.execSnpClean node f s
  | .snpFlush node f => Sys2Proof.Machine.execSnpFlush node f s
  | .snpAck node f => Sys2Proof.Machine.execSnpAck node f s
  | .snpMiss node f => Sys2Proof.Machine.execSnpMiss node f s
  | .snpData node f => Sys2Proof.Machine.execSnpData node f s
  | .nackQ node f => Sys2Proof.Machine.execNackQ node f s
  | .nack node f => Sys2Proof.Machine.execNack node f s
  | .grant node f => Sys2Proof.Machine.execGrant node f s
  | .grantIssue node => Sys2Proof.Machine.execGrantIssue node s
  | .comp node f => Sys2Proof.Machine.execComp node f s
  | .compAck node f => Sys2Proof.Machine.execCompAck node f s
  | .fenced node f => Sys2Proof.Machine.execFenced node f s
  | .wbGo node f => Sys2Proof.Machine.execWbGo node f s
  | .wbData node f => Sys2Proof.Machine.execWbData node f s
  | .relDone node f => Sys2Proof.Machine.execRelDone node f s
  | .faultMsg node f => Sys2Proof.Machine.execFaultMsg node f s
  | .dataS node f => Sys2Proof.Machine.execDataS node f s
  | .dataE node f => Sys2Proof.Machine.execDataE node f s
  | .dataM node f => Sys2Proof.Machine.execDataM node f s
  | .dataOnce node f => Sys2Proof.Machine.execDataOnce node f s
  | .memRd node f wrong wrong2 => Sys2Proof.Machine.execMemRd node f wrong wrong2 s
  | .memWr node f => Sys2Proof.Machine.execMemWr node f s
  | .memData node f => Sys2Proof.Machine.execMemData node f s
  | .grantRetryTimeout node req => Sys2Proof.Machine.execGrantRetryTimeout node req s
  | .grantWaitTimeout req line => Sys2Proof.Machine.execGrantWaitTimeout req line s
  | .homeTimeout node line => Sys2Proof.Machine.execHomeTimeout node line s
  | .requesterTimeout req line => Sys2Proof.Machine.execRequesterTimeout req line s
  | .btnMac u rd rs1 rs2 rs3 => Sys2Proof.Machine.execBtnMac u rd rs1 rs2 rs3 s
  | .btnXor u rd rs1 rs2 => Sys2Proof.Machine.execBtnXor u rd rs1 rs2 s
  | .btnWopen u rd rs1 rs2 => Sys2Proof.Machine.execBtnWopen u rd rs1 rs2 s
  | .btnWclose u rd rs1 => Sys2Proof.Machine.execBtnWclose u rd rs1 s
  | .btnWabort u rd rs1 => Sys2Proof.Machine.execBtnWabort u rd rs1 s
  | .btnFence u rd => Sys2Proof.Machine.execBtnFence u rd s
  | .acc node f => Sys2Proof.Machine.execAcc node f s
  | .zero node f => Sys2Proof.Machine.execZero node f s
  | .ack node f => Sys2Proof.Machine.execAck node f s
  | .release node f => Sys2Proof.Machine.execRelease node f s
  | .windowCloseDrained w => Sys2Proof.Machine.execWindowCloseDrained w s
  | .windowCloseReleased w => Sys2Proof.Machine.execWindowCloseReleased w s
  | .windowNoticeDone w => Sys2Proof.Machine.execWindowNoticeDone w s
  | .funcCreate c func nq nv maxIn ctx ptRoot ext targets => Sys2Proof.Machine.execFuncCreate c func nq nv maxIn ctx ptRoot ext targets s
  | .funcQuiesce c func timeoutMs force => Sys2Proof.Machine.execFuncQuiesce c func timeoutMs force s
  | .funcQuiesceDone func => Sys2Proof.Machine.execFuncQuiesceDone func s
  | .funcQuiesceTimeout func => Sys2Proof.Machine.execFuncQuiesceTimeout func s
  | .funcFreeze c func => Sys2Proof.Machine.execFuncFreeze c func s
  | .funcSave c func blob => Sys2Proof.Machine.execFuncSave c func blob s
  | .funcRestore c func nv ctx ptRoot ext blob targets => Sys2Proof.Machine.execFuncRestore c func nv ctx ptRoot ext blob targets s
  | .funcResume c func => Sys2Proof.Machine.execFuncResume c func s
  | .funcDestroy c func => Sys2Proof.Machine.execFuncDestroy c func s
  | .funcReset c func => Sys2Proof.Machine.execFuncReset c func s
  | .loomSqTailWrite func queue value => Sys2Proof.Machine.execLoomSqTailWrite func queue value s
  | .loomCqHeadWrite func queue value => Sys2Proof.Machine.execLoomCqHeadWrite func queue value s
  | .loomQueueEnable func queue value => Sys2Proof.Machine.execLoomQueueEnable func queue value s
  | .loomQueueDisable func queue value => Sys2Proof.Machine.execLoomQueueDisable func queue value s
  | .contextSwap => Sys2Proof.Machine.execContextSwap s
  | .residencyQuantumExpiry func => Sys2Proof.Machine.execResidencyQuantumExpiry func s
  | .loomFetch => Sys2Proof.Machine.execLoomFetch s
  | .loomCompletion req => Sys2Proof.Machine.execLoomCompletion req s
  | .coalesceTimerExpiry func queue => Sys2Proof.Machine.execCoalesceTimerExpiry func queue s
  | .perstRelease port => Sys2Proof.Machine.execPerstRelease port s
  | .pcieLinkUp port sub speed lanes => Sys2Proof.Machine.execPcieLinkUp port sub speed lanes s
  | .pcieLinkFailTimeout port => Sys2Proof.Machine.execPcieLinkFailTimeout port s
  | .pcieSurpriseDown port sub => Sys2Proof.Machine.execPcieSurpriseDown port sub s
  | .pcieLaneLoss port sub lanes => Sys2Proof.Machine.execPcieLaneLoss port sub lanes s
  | .dpcRelease port => Sys2Proof.Machine.execDpcRelease port s
  | .dqCtrlEnable world drive value => Sys2Proof.Machine.execDqCtrlEnable world drive value s
  | .dqCtrlDisable world drive value => Sys2Proof.Machine.execDqCtrlDisable world drive value s
  | .dqQpEnable world qp value => Sys2Proof.Machine.execDqQpEnable world qp value s
  | .dqQpDisable world qp value => Sys2Proof.Machine.execDqQpDisable world qp value s
  | .driveCqDoorbell qp => Sys2Proof.Machine.execDriveCqDoorbell qp s
  | .driveCommandTimeout slot => Sys2Proof.Machine.execDriveCommandTimeout slot s
  | .ptmRequest port => Sys2Proof.Machine.execPtmRequest port s
  | .angleMessage m => Sys2Proof.Machine.execAngleMessage m s
  | .clockAcquireTimeout drive => Sys2Proof.Machine.execClockAcquireTimeout drive s
  | .clockCoastStart drive => Sys2Proof.Machine.execClockCoastStart drive s
  | .clockCoastExpiry drive => Sys2Proof.Machine.execClockCoastExpiry drive s
  | .groupGatherExpiry func group => Sys2Proof.Machine.execGroupGatherExpiry func group s
  | .pickPairClaim slot => Sys2Proof.Machine.execPickPairClaim slot s
  | .pickRelease => Sys2Proof.Machine.execPickRelease s
  | .pickAlarmArm world alarm value => Sys2Proof.Machine.execPickAlarmArm world alarm value s
  | .pickAlarmDisarm world alarm value => Sys2Proof.Machine.execPickAlarmDisarm world alarm value s
  | .pickAlarmFire alarm => Sys2Proof.Machine.execPickAlarmFire alarm s
  | .pickClockCfg c first count nomPeriod cfg => Sys2Proof.Machine.execPickClockCfg c first count nomPeriod cfg s
  | .pickMapLoad c drive z table => Sys2Proof.Machine.execPickMapLoad c drive z table s
  | .pickMode c drive mode => Sys2Proof.Machine.execPickMode c drive mode s
  | .shuttlePortCfg c mode port op txInv cfg mac thr => Sys2Proof.Machine.execShuttlePortCfg c mode port op txInv cfg mac thr s
  | .portFlushRx c port => Sys2Proof.Machine.execPortFlushRx c port s
  | .portFlushTx c port => Sys2Proof.Machine.execPortFlushTx c port s
  | .shuttleParseCfg c image => Sys2Proof.Machine.execShuttleParseCfg c image s
  | .frameReceive port data fcsOk fecCe fecUce => Sys2Proof.Machine.execFrameReceive port data fcsOk fecCe fecUce s
  | .pfcResendTimer port prio => Sys2Proof.Machine.execPfcResendTimer port prio s
  | .pfcXonSend port => Sys2Proof.Machine.execPfcXonSend port s
  | .pauseFrameReceive port dest quanta fcsOk => Sys2Proof.Machine.execPauseFrameReceive port dest quanta fcsOk s
  | .pfcFrameReceive port dest enable quanta fcsOk => Sys2Proof.Machine.execPfcFrameReceive port dest enable quanta fcsOk s
  | .pauseTimerExpiry port prio => Sys2Proof.Machine.execPauseTimerExpiry port prio s
  | .pauseWatchdogExpiry port prio => Sys2Proof.Machine.execPauseWatchdogExpiry port prio s
  | .frameParse port => Sys2Proof.Machine.execFrameParse port s
  | .txFrameStart port underrun poison => Sys2Proof.Machine.execTxFrameStart port underrun poison s
  | .shuRingEnable world port raw value => Sys2Proof.Machine.execShuRingEnable world port raw value s
  | .shuRawqTailWrite world port value => Sys2Proof.Machine.execShuRawqTailWrite world port value s
  | .rawSlotSend port => Sys2Proof.Machine.execRawSlotSend port s
  | .ethLinkChange port up lfault rfault lanes => Sys2Proof.Machine.execEthLinkChange port up lfault rfault lanes s
  | .ethLinkFailTimeout port => Sys2Proof.Machine.execEthLinkFailTimeout port s
  | .qpCreate world qpn => Sys2Proof.Machine.execQpCreate world qpn s
  | .qpError world qpn => Sys2Proof.Machine.execQpError world qpn s
  | .qpDestroy world qpn => Sys2Proof.Machine.execQpDestroy world qpn s
  | .mrReg world region => Sys2Proof.Machine.execMrReg world region s
  | .mrDereg world region => Sys2Proof.Machine.execMrDereg world region s
  | .shuSqTailWrite func slot value => Sys2Proof.Machine.execShuSqTailWrite func slot value s
  | .shuRqTailWrite func slot value => Sys2Proof.Machine.execShuRqTailWrite func slot value s
  | .shuCqHeadWrite func slot value => Sys2Proof.Machine.execShuCqHeadWrite func slot value s
  | .qpWorkFetch qpn => Sys2Proof.Machine.execQpWorkFetch qpn s
  | .roceSend => Sys2Proof.Machine.execRoceSend s
  | .udSend => Sys2Proof.Machine.execUdSend s
  | .roceRdmaWrite => Sys2Proof.Machine.execRoceRdmaWrite s
  | .roceRdmaReadRequest => Sys2Proof.Machine.execRoceRdmaReadRequest s
  | .readResponseSend qpn => Sys2Proof.Machine.execReadResponseSend qpn s
  | .roceReadResponse => Sys2Proof.Machine.execRoceReadResponse s
  | .roceAcknowledge => Sys2Proof.Machine.execRoceAcknowledge s
  | .roceCnp => Sys2Proof.Machine.execRoceCnp s
  | .ackTimeout qpn => Sys2Proof.Machine.execAckTimeout qpn s
  | .rnrTimerExpiry qpn => Sys2Proof.Machine.execRnrTimerExpiry qpn s
  | .responderAckTimer qpn => Sys2Proof.Machine.execResponderAckTimer qpn s
  | .cnpRateIncrease qpn => Sys2Proof.Machine.execCnpRateIncrease qpn s
  | .xformLaneStart lane => Sys2Proof.Machine.execXformLaneStart lane s
  | .xformComplete req => Sys2Proof.Machine.execXformComplete req s
  | .keyLoad c slot type func buf => Sys2Proof.Machine.execKeyLoad c slot type func buf s
  | .iotlbInvalidateFunction w world value => Sys2Proof.Machine.execIotlbInvalidateFunction w world value s
  | .iotlbInvalidatePage w world value => Sys2Proof.Machine.execIotlbInvalidatePage w world value s
  | .iotlbInvalidateDone w => Sys2Proof.Machine.execIotlbInvalidateDone w s
  | .pairBufferExpiry chan line => Sys2Proof.Machine.execPairBufferExpiry chan line s
  | .rankPowerDown chan rank => Sys2Proof.Machine.execRankPowerDown chan rank s
  | .ddrAlert chan write => Sys2Proof.Machine.execDdrAlert chan write s
  | .patrolScrub chan line wrong chanLocal => Sys2Proof.Machine.execPatrolScrub chan line wrong chanLocal s
  | .ecsCommand chan => Sys2Proof.Machine.execEcsCommand chan s
  | .ecsCountRead chan rank device count threshold => Sys2Proof.Machine.execEcsCountRead chan rank device count threshold s
  | .bucketLeak chan rank => Sys2Proof.Machine.execBucketLeak chan rank s
  | .memScrubCfg c channel period ecsH bktThr bktLeak => Sys2Proof.Machine.execMemScrubCfg c channel period ecsH bktThr bktLeak s
  | .memMirrorSet c pair on => Sys2Proof.Machine.execMemMirrorSet c pair on s
  | .memMirrorResync c pair => Sys2Proof.Machine.execMemMirrorResync c pair s
  | .mirrorResyncDone pair => Sys2Proof.Machine.execMirrorResyncDone pair s
  | .memSpareRank c channel rank => Sys2Proof.Machine.execMemSpareRank c channel rank s
  | .spareCopyDone chan => Sys2Proof.Machine.execSpareCopyDone chan s
  | .memPprSoft c channel rank bg bank row resource => Sys2Proof.Machine.execMemPprSoft c channel rank bg bank row resource s
  | .memPprHard c channel rank bg bank row resource => Sys2Proof.Machine.execMemPprHard c channel rank bg bank row resource s
  | .memRetire c channel force => Sys2Proof.Machine.execMemRetire c channel force s
  | .zeroFillDone chan => Sys2Proof.Machine.execZeroFillDone chan s
  | .wiredLineChange src level => Sys2Proof.Machine.execWiredLineChange src level s
  | .vectorRaise vec => Sys2Proof.Machine.execVectorRaise vec s
  | .hrnSrcEnable world src value => Sys2Proof.Machine.execHrnSrcEnable world src value s
  | .hrnSrcDisable world src value => Sys2Proof.Machine.execHrnSrcDisable world src value s
  | .hrnThreshWrite world hart file value => Sys2Proof.Machine.execHrnThreshWrite world hart file value s
  | .hrnClaimRead world hart file => Sys2Proof.Machine.execHrnClaimRead world hart file s
  | .hrnCompleteWrite world hart file id => Sys2Proof.Machine.execHrnCompleteWrite world hart file id s
  | .hrnChainRead world hart file => Sys2Proof.Machine.execHrnChainRead world hart file s
  | .hrnMsipWrite world hart file value => Sys2Proof.Machine.execHrnMsipWrite world hart file value s
  | .hrnTimecmpWrite world hart file value => Sys2Proof.Machine.execHrnTimecmpWrite world hart file value s
  | .timerCompareMatch hart file => Sys2Proof.Machine.execTimerCompareMatch hart file s
  | .eipSet node f => Sys2Proof.Machine.execEipSet node f s
  | .eipClr node f => Sys2Proof.Machine.execEipClr node f s
  | .msipSet node f => Sys2Proof.Machine.execMsipSet node f s
  | .msipClr node f => Sys2Proof.Machine.execMsipClr node f s
  | .tipSet node f => Sys2Proof.Machine.execTipSet node f s
  | .tipClr node f => Sys2Proof.Machine.execTipClr node f s
  | .undelivered node f => Sys2Proof.Machine.execUndelivered node f s
  | .edgeLatchCapture src rising => Sys2Proof.Machine.execEdgeLatchCapture src rising s
  | .edgeLatchTransfer => Sys2Proof.Machine.execEdgeLatchTransfer s
  | .dbyRingProdWrite world w value => Sys2Proof.Machine.execDbyRingProdWrite world w value s
  | .dbyRingRconsWrite world w value => Sys2Proof.Machine.execDbyRingRconsWrite world w value s
  | .cardConsume w => Sys2Proof.Machine.execCardConsume w s
  | .mctpMessage endpoint msg => Sys2Proof.Machine.execMctpMessage endpoint msg s
  | .mailboxCard l => Sys2Proof.Machine.execMailboxCard l s
  | .cardServe ok result => Sys2Proof.Machine.execCardServe ok result s
  | .cardClassAged cls => Sys2Proof.Machine.execCardClassAged cls s
  | .dbyRingEnable world w value => Sys2Proof.Machine.execDbyRingEnable world w value s
  | .dbyRingDisable world w value => Sys2Proof.Machine.execDbyRingDisable world w value s
  | .dbyRingDisableDone w => Sys2Proof.Machine.execDbyRingDisableDone w s
  | .dobbyWatchdogExpiry => Sys2Proof.Machine.execDobbyWatchdogExpiry s
  | .cardPairMismatch scratch => Sys2Proof.Machine.execCardPairMismatch scratch s
  | .safetyPairMismatch => Sys2Proof.Machine.execSafetyPairMismatch s
  | .infoIdentify c => Sys2Proof.Machine.execInfoIdentify c s
  | .infoCaps c => Sys2Proof.Machine.execInfoCaps c s
  | .infoTelemetry c snap => Sys2Proof.Machine.execInfoTelemetry c snap s
  | .setStateWoven c => Sys2Proof.Machine.execSetStateWoven c s
  | .setStateSlack c => Sys2Proof.Machine.execSetStateSlack c s
  | .setStateDoffed c => Sys2Proof.Machine.execSetStateDoffed c s
  | .setStateDark c => Sys2Proof.Machine.execSetStateDark c s
  | .powerGetState c => Sys2Proof.Machine.execPowerGetState c s
  | .powerSetProfile c l => Sys2Proof.Machine.execPowerSetProfile c l s
  | .powerRefusals c clear => Sys2Proof.Machine.execPowerRefusals c clear s
  | .parkComplete => Sys2Proof.Machine.execParkComplete s
  | .slackWakeEvent w => Sys2Proof.Machine.execSlackWakeEvent w s
  | .doffedWritebackDone => Sys2Proof.Machine.execDoffedWritebackDone s
  | .doffedEntryAbort => Sys2Proof.Machine.execDoffedEntryAbort s
  | .doffedWakeEvent w => Sys2Proof.Machine.execDoffedWakeEvent w s
  | .wakeStepReady => Sys2Proof.Machine.execWakeStepReady s
  | .wakeStepTimeout unit router => Sys2Proof.Machine.execWakeStepTimeout unit router s
  | .darkWake w => Sys2Proof.Machine.execDarkWake w s
  | .darkWakeStepTimeout block => Sys2Proof.Machine.execDarkWakeStepTimeout block s
  | .wakeRetry => Sys2Proof.Machine.execWakeRetry s
  | .treadlePatternWake frame => Sys2Proof.Machine.execTreadlePatternWake frame s
  | .treadleEdgeWake width => Sys2Proof.Machine.execTreadleEdgeWake width s
  | .treadlePairCheck low => Sys2Proof.Machine.execTreadlePairCheck low s
  | .latchWake src rising => Sys2Proof.Machine.execLatchWake src rising s
  | .rtcAlarm => Sys2Proof.Machine.execRtcAlarm s
  | .timeOfsCapture => Sys2Proof.Machine.execTimeOfsCapture s
  | .powerLimitSample reads => Sys2Proof.Machine.execPowerLimitSample reads s
  | .powerLimitStep => Sys2Proof.Machine.execPowerLimitStep s
  | .tileThermalStep node temp after => Sys2Proof.Machine.execTileThermalStep node temp after s
  | .pmbusNoAnswer regulator => Sys2Proof.Machine.execPmbusNoAnswer regulator s
  | .vrPgLoss input => Sys2Proof.Machine.execVrPgLoss input s
  | .crdLinkFrame safe feed vin vout energy current temp => Sys2Proof.Machine.execCrdLinkFrame safe feed vin vout energy current temp s
  | .crdLinkLoss safe => Sys2Proof.Machine.execCrdLinkLoss safe s
  | .linkKeyWithdraw safe => Sys2Proof.Machine.execLinkKeyWithdraw safe s
  | .hostSideReset => Sys2Proof.Machine.execHostSideReset s
  | .interlockChange feed safety closed => Sys2Proof.Machine.execInterlockChange feed safety closed s
  | .safetyKeyDecision feed => Sys2Proof.Machine.execSafetyKeyDecision feed s
  | .feedOn c feed slew ilimit => Sys2Proof.Machine.execFeedOn c feed slew ilimit s
  | .feedKeyWaitTimeout feed => Sys2Proof.Machine.execFeedKeyWaitTimeout feed s
  | .feedStart feed check => Sys2Proof.Machine.execFeedStart feed check s
  | .feedRegulation feed => Sys2Proof.Machine.execFeedRegulation feed s
  | .feedRampTimeout feed => Sys2Proof.Machine.execFeedRampTimeout feed s
  | .feedDetectorTrip feed cause others => Sys2Proof.Machine.execFeedDetectorTrip feed cause others s
  | .fetShortCheck feed found => Sys2Proof.Machine.execFetShortCheck feed found s
  | .spinReservationEnd feed => Sys2Proof.Machine.execSpinReservationEnd feed s
  | .feedRetry feed check => Sys2Proof.Machine.execFeedRetry feed check s
  | .feedOff c feed force => Sys2Proof.Machine.execFeedOff c feed force s
  | .feedRampdownDone feed => Sys2Proof.Machine.execFeedRampdownDone feed s
  | .feedStatus c feed => Sys2Proof.Machine.execFeedStatus c feed s
  | .feedBudget c budget maxRamps => Sys2Proof.Machine.execFeedBudget c budget maxRamps s
  | .feedReclaim c mask holdS => Sys2Proof.Machine.execFeedReclaim c mask holdS s
  | .holdEnd => Sys2Proof.Machine.execHoldEnd s
  | .holdRampdownNext => Sys2Proof.Machine.execHoldRampdownNext s
  | .feedSelfTest feed result => Sys2Proof.Machine.execFeedSelfTest feed result s
  | .diodeReading die diode temp faulted => Sys2Proof.Machine.execDiodeReading die diode temp faulted s
  | .thermalTrip tripDie => Sys2Proof.Machine.execThermalTrip tripDie s
  | .lifeAdvance c target len addr fuseOk => Sys2Proof.Machine.execLifeAdvance c target len addr fuseOk s
  | .worldLock c table => Sys2Proof.Machine.execWorldLock c table s
  | .selDebugWrite world mpriv value => Sys2Proof.Machine.execSelDebugWrite world mpriv value s
  | .rasReadBanks c block first clear => Sys2Proof.Machine.execRasReadBanks c block first clear s
  | .rasInject c block kind devices addr => Sys2Proof.Machine.execRasInject c block kind devices addr s
  | .rasRecordClear world block slot => Sys2Proof.Machine.execRasRecordClear world block slot s
  | .errorSummaryAction => Sys2Proof.Machine.execErrorSummaryAction s
  | .w1cStatusClear world addr value => Sys2Proof.Machine.execW1cStatusClear world addr value s
  | .probeArmComparator c node unit image => Sys2Proof.Machine.execProbeArmComparator c node unit image s
  | .probeArmCounter c node unit image => Sys2Proof.Machine.execProbeArmCounter c node unit image s
  | .probeArmTrace c node image => Sys2Proof.Machine.execProbeArmTrace c node image s
  | .probeRead c node unit count => Sys2Proof.Machine.execProbeRead c node unit count s
  | .traceSync die => Sys2Proof.Machine.execTraceSync die s
  | .tracePostEnd die => Sys2Proof.Machine.execTracePostEnd die s
  | .fwStage c slot len addr ok => Sys2Proof.Machine.execFwStage c slot len addr ok s
  | .fwActivateNextReset c slot fuseOk => Sys2Proof.Machine.execFwActivateNextReset c slot fuseOk s
  | .fwActivateNow c slot => Sys2Proof.Machine.execFwActivateNow c slot s
  | .powerOnReset => Sys2Proof.Machine.execPowerOnReset s
  | .coldResetPin low => Sys2Proof.Machine.execColdResetPin low s
  | .warmResetPin low => Sys2Proof.Machine.execWarmResetPin low s
  | .pwrResetWarm world value => Sys2Proof.Machine.execPwrResetWarm world value s
  | .pwrResetCold world value => Sys2Proof.Machine.execPwrResetCold world value s
  | .bootFlow env => Sys2Proof.Machine.execBootFlow env s
  | .pwrHartGo world value => Sys2Proof.Machine.execPwrHartGo world value s
  | .keeperShelfPatrol e => Sys2Proof.Machine.execKeeperShelfPatrol e s
  | .keeperVerifyRequest drive nsid slba nlb => Sys2Proof.Machine.execKeeperVerifyRequest drive nsid slba nlb s
  | .jtagTapReset => Sys2Proof.Machine.execJtagTapReset s
  | .jtagExtest => Sys2Proof.Machine.execJtagExtest s
  | .jtagSamplePreload cells => Sys2Proof.Machine.execJtagSamplePreload cells s
  | .jtagIdcode => Sys2Proof.Machine.execJtagIdcode s
  | .jtagClamp => Sys2Proof.Machine.execJtagClamp s
  | .jtagHighz => Sys2Proof.Machine.execJtagHighz s
  | .jtagDmi scan => Sys2Proof.Machine.execJtagDmi scan s
  | .jtagDtmcs => Sys2Proof.Machine.execJtagDtmcs s
  | .jtagMailbox => Sys2Proof.Machine.execJtagMailbox s
  | .jtagBypass => Sys2Proof.Machine.execJtagBypass s
  | .dmHaltRequest hart => Sys2Proof.Machine.execDmHaltRequest hart s
  | .dmResume hart => Sys2Proof.Machine.execDmResume hart s
  | .dmAbstractCommand hart cmd => Sys2Proof.Machine.execDmAbstractCommand hart cmd s
  | .dmSystemBusAccess write addr size value ext => Sys2Proof.Machine.execDmSystemBusAccess write addr size value ext s
  | .pcieErrorMessage port sub fatal selected => Sys2Proof.Machine.execPcieErrorMessage port sub fatal selected s
  | .channelTrainingTimeout chan => Sys2Proof.Machine.execChannelTrainingTimeout chan s
  | .crdSupplyLoss => Sys2Proof.Machine.execCrdSupplyLoss s
  | .tileTestDone node result => Sys2Proof.Machine.execTileTestDone node result s

end Sys2Proof.Machine
end

