-- ==== Sys2Proof/Safety.lean ====
section
/-! DEFINITION. The terms of the claims: what holds of a sound state (DRAM, the poison marks and the registers are in their
canonical forms, and no register holds a 1 outside its fields, R10), what it means that a command completes, and what it
leaves unchanged. -/

namespace Sys2Proof.Machine

/-- DRAM in canonical form: addresses strictly rising, no byte listed at what an unlisted address reads as. -/
abbrev Memory.wf (m : List Host.Cell) : Bool := Tab.canon (fun _ => (0 : Byte)) (show Tab Byte from m)
/-- The poison marks in canonical form. -/
def Poison.wf (t : Tab Bool) : Bool := Tab.canon (fun _ => false) t
/-- The registers in canonical form. -/
def Regs.wf (t : Tab W64) : Bool := Tab.canon regReset t
/-- No register holds a 1 in a reserved bit (R10). -/
def Regs.reserved (t : Tab W64) : Bool := t.all fun p => p.2 &&& ~~~ regMask p.1 == 0

/-- The invariant that every step keeps. -/
def State.inv (s : State) : Bool :=
  Memory.wf s.mem && Poison.wf s.poison && Regs.wf s.regs && Regs.reserved s.regs

/-- The command completes: it answers a next state, of which `P` holds. -/
def Completes (c : Instr) (s : State) (P : State → Prop) : Prop := ∃ t, exec c s = .next t ∧ P t

/-- The state in which Dobby carries a card out: the card has left the queue (CARD_SERVE), or is taken now (R449). -/
def State.taken (s : State) (c : CardCtx) (op : Nat) : State :=
  if s.dby.serving then { s with dby := { s.dby with serving := false } } else (cardTaken c op).run s
/-- The card reaches its own checks: Dobby serves it, its transport, life cycle and owner allow it (R446, R447, R621), and the
stop that it needs answers. -/
def State.cardOk (s : State) (c : CardCtx) (op : Nat) (mctpOk : Bool) (o : State → Owner) : Bool :=
  (s.dby.serving || (s.reaches c op && (mctpFirst c op s).isNone)) &&
  ((s.taken c op).gateFail c op mctpOk (o (s.taken c op))).isNone &&
  (match cardStop op with | some id => !(s.taken c op).stopLost id | none => true)
/-- The replies that go out from `s` to `t` in answer to card `c`: on a ring the producer index moves past their slots; on
another transport they are sent in order. -/
def Replied (c : CardCtx) (rs : List Reply) (s t : State) : Prop :=
  match c.via with
  | .ring w => (t.dby.ringOf w).replyProd = rs.foldl (fun k r => (k + r.slots) % 2 ^ 32) (s.dby.ringOf w).replyProd
  | _ => t.dby.sent = s.dby.sent ++ rs
/-- The reply ACCEPTED (R454). -/
def accepted (c : CardCtx) (op : Nat) : Reply := ⟨c, stACCEPTED, op, 0xFFFF, []⟩
/-- The reply OK without payload. -/
def okReply (c : CardCtx) (op : Nat) : Reply := ⟨c, stOK, op, 0xFFFF, []⟩

/-- Node `n` queues exactly these flits for injection. -/
abbrev Sends (n : Nat) (l : List Flit) (s t : State) : Prop :=
  t.injQueue n = s.injQueue n ++ l.map fun f => { flit := { f with src := n }, since := s.clk.meshCycle }
/-- A flit is the last that node `n` has queued. -/
abbrev SentLast (n : Nat) (f : Flit) (t : State) : Prop :=
  (t.injQueue n).getLast?.map (·.flit) = some { f with src := n }
/-- The snoop of a home for a request (R111). -/
def snoopOf (h o op : Nat) (f : Flit) : Flit :=
  { dest := o, src := h, req := f.req, cls := clsSNP, opcode := op, txn := f.txn % 2048, world := f.world,
    tenant := f.tenant, line := f.line, prio := f.prio }
/-- The write of a slice's line to its memory controller (R74, Table 4.1). -/
def memWrOf (h c l : Nat) (world : Bool) (d : Line) (p : Bool) : Flit :=
  { dest := mcNode c, src := h, req := h, cls := clsREQ, opcode := opMemWr, line := l, world := world, hasData := true,
    data := d, poison := p }
/-- The read of a line from its memory controller for a request. -/
def memRdOf (h c : Nat) (f : Flit) : Flit :=
  { dest := mcNode c, src := h, req := h, cls := clsREQ, opcode := opMemRd, line := f.line, world := f.world,
    tenant := f.tenant, prio := f.prio }
/-- The answer of a memory controller to a read (Table 4.1). -/
def memDataOf (f : Flit) (d : Line) (p : Bool) : Flit :=
  { answerTo f clsDAT opMemData with dest := f.src, data := d, poison := p, hasData := true }
/-- Data that a snooped tile sends; TXN[11] carries the dirty bit (Table 4.1). -/
def datOf (f : Flit) (dest op : Nat) (d : Line) (p dirty : Bool) : Flit :=
  { answerTo f clsDAT op with
    dest := dest, data := d, poison := p, hasData := true, txn := f.txn % 2048 + (if dirty then 2048 else 0) }
/-- The answer without data of a snooped tile to its home. -/
def rspOf (f : Flit) (op : Nat) (dirty : Bool) : Flit :=
  { answerTo f clsRSP op with dest := f.src, txn := f.txn % 2048 + (if dirty then 2048 else 0) }
/-- The write-back data that answers WB_GO (R115). -/
def wbDataOf (f : Flit) (q : ReqOut) (b : EvBuf) : Flit :=
  { answerTo f clsDAT opWbData with
    dest := f.src, req := q.req, line := q.flit.line, data := b.data, poison := b.poison, hasData := true }
/-- What tells batten flits apart: requester, class, coefficient, line, data and poison. -/
def accKey (f : Flit) : Nat × Nat × Nat × Nat × Line × Bool := (f.req, f.cls, f.opcode, f.line, f.data, f.poison)
/-- A COMP_ACK for request `q` waits for injection at node `n`. -/
def State.ackedTo (s : State) (n : Nat) (q : ReqOut) : Bool :=
  (s.injQueue n).any fun e => e.flit.cls == clsRSP && e.flit.opcode == opCompAck && e.flit.dest == q.home &&
    e.flit.line == q.flit.line && e.flit.txn == q.flit.txn % 2048
/-- No transaction of home `h` is ready to go on, and none waits for the close of line `l`. -/
def State.quietAt (s : State) (h l : Nat) : Bool :=
  s.coh.tx.all fun p => keyNode p.1 != h || (!p.2.ready && p.2.victim != some l)
/-- Home `h` serves the line of a request, which no map move concerns; the requester is alive, its world has the line, the
line is neither busy nor ticketed, a slot is free (R117, R139), and the directory needs no victim for it (R114). -/
def State.admits (s : State) (h : Nat) (f : Flit) : Bool :=
  let i := mapIndex f.line
  decide (h < 224) && decide (f.line < 2 ^ 42) && decide (f.req < 252) &&
  s.get (LLC_MAP i) LLC_MAP_NODE == h && s.get (LLC_MAP i) LLC_MAP_STATE == 0 && (Tab.find s.cache.mapMove i).isNone &&
  !s.dead h f.req && (s.channelOf (f.line * 64)).isSome && s.worldOk f.world (f.line * 64) &&
  !(s.ticketsOf h).any (·.line == f.line) && !s.busy h f.line && s.quietAt h f.line &&
  decide (s.accSlots h < 16) && decide (s.genSlots h < 64) && (s.dirVictim h f.line).isNone

/-- The state in which an instruction's body is carried out: its fetch has been done. -/
def State.fetched (s : State) (i : Ins) : State := match s.gate i with | .ok a => a.run s | _ => s
/-- Instruction `i` can issue: its hart runs, is not paused and waits for no load, its fetch is done without a trap, and no
single step or instruction count of the debugger follows it. -/
def State.ready (s : State) (i : Ins) : Bool :=
  let t := s.hart i.hart
  decide (t.pauseUntil = 0) && t.lq.isEmpty && (match s.gate i with | .ok _ => true | _ => false) &&
  !(s.hdbg i.hart).dcsr.testBit 2 && ((((s.hdbg i.hart).trig[4]?).map (·.tdata1)).getD 0) / 2 ^ 60 % 16 != 3
/-- From `u` to `t` instruction `i` has retired: the registers are those that `f` gives, and the pc has advanced. -/
abbrev Retired (i : Ins) (f : Hart → Hart) (u t : State) : Prop :=
  let a := f (u.hart i.hart)
  let b := t.hart i.hart
  b.x = a.x ∧ b.f = a.f ∧ b.v = a.v ∧ b.priv = a.priv ∧ b.virt = a.virt ∧ b.world = a.world ∧
  b.pc = ((u.hart i.hart).pc + insLen i) % 2 ^ 64

/-- Where an access of a hart goes when its translation needs no walk: its physical address and place. -/
def State.goes (s : State) (h : Nat) (a : Acc) (va n : Nat) (only : List Place) : Option (Nat × Place) :=
  match s.reach h a va n only with
  | .ok (x, w, p) => if w = .walked then none else some (x.pa, p)
  | .error _ => none
/-- Hart `h` has taken a trap into M-mode at `pc` (privileged 1.12): mepc, mcause and mtval, the status and the mode; the
handler's address is the base of mtvec plus `off`. -/
abbrev TrappedM (h : Nat) (code tval : W64) (pc off : Nat) (u t : State) : Prop :=
  let a := u.hart h
  let b := t.hart h
  b.priv = 3 ∧ b.virt = false ∧ b.world = a.world ∧ b.c 0x341 = BitVec.ofNat 64 pc ∧ b.c 0x342 = code ∧ b.c 0x343 = tval ∧
  b.cf 0x300 3 3 = 0 ∧ b.cf 0x300 7 7 = a.cf 0x300 3 3 ∧ b.cf 0x300 12 11 = a.priv % 4 ∧
  b.pc = (a.c 0x305).toNat / 4 * 4 + off ∧ b.x = a.x ∧ b.f = a.f ∧ b.v = a.v

/-- A 64-bit counter has counted `n` more, or stands at its maximum. -/
abbrev Counted (a n : Nat) (s t : State) : Prop := (t.reg a).toNat = min ((s.reg a).toNat + n) (2 ^ 64 - 1)
/-- A record of this severity and class has been logged in the bank of block `id` (R548): a valid record slot holds one, or
it is counted as lost. -/
def Logged (id sev cls : Nat) (s t : State) : Prop :=
  ((List.range 8).any fun r => t.recValid (bankOf id) r && t.recStat (bankOf id) r RAS_STATUS_SEVERITY == sev &&
    t.recStat (bankOf id) r RAS_STATUS_CLASS == cls) = true ∨ Counted (RAS_LOST (bankOf id)) 1 s t

/-- The reason for which the parser passes a frame on to no transport (Table 9.8). -/
def State.parseFail (s : State) (p time : Nat) (l : List Byte) : Option Nat :=
  match s.parse p time l with
  | .ok _ => none
  | .error e => some e

/-- The IOTLB holds every page of a byte range of function `f` for the access, so that its translation changes nothing. -/
def State.ioHeld (s : State) (f va n : Nat) (write : Bool) : Bool :=
  (pagePieces va n).all fun p => (s.ioXl f p.1 write).hit && (s.ioXl f p.1 write).pa.isSome
/-- The physical pieces of such a range. -/
def State.ioPieces (s : State) (f va n : Nat) (write : Bool) : List (Nat × Nat) :=
  (pagePieces va n).map fun p => (((s.ioXl f p.1 write).pa).getD 0, p.2)
/-- The bytes of such a range. -/
def State.ioBytes (s : State) (f va n : Nat) : List Byte := s.rdPieces (s.ioPieces f va n false)
/-- A byte range of function `f` can be read through the IOTLB without poison. -/
def State.ioGood (s : State) (f va n : Nat) : Bool := s.ioHeld f va n false && !s.poisonPieces (s.ioPieces f va n false)
/-- The oldest packet that the parser passed is `k`: it passes the first four checks of Table 10.11 on queue pair `q` with
the cached context `x`, whose function is ACTIVE, and no DESTROY of the queue pair waits. -/
def State.arrives (s : State) (k : InPkt) (q : Nat) (x : Qp) : Bool :=
  s.shu.inq.head? == some k && k.dqpn == q && k.icrcOk && s.qp q == some x && s.shu.cached.contains q && x.st == 1 &&
  s.fstate x.func == 1 && be k.pay 2 2 % 2 ^ 15 == x.pkey % 2 ^ 15 && s.shu.busy != some (3, q)
/-- The access that an R_Key names passes the region checks of R295. -/
def State.regionOk (s : State) (f rkey va len : Nat) (write : Bool) : Bool :=
  let r := rkey / 65536 % 65536
  let l := s.rd (s.regionAt r) 32
  s.shu.region.contains r && !s.rdPoison (s.regionAt r) 32 && cardField l 0x12 2 == rkey % 65536 &&
  cardField l 0x10 2 == f && (cardField l 0x14 1).testBit (if write then 1 else 0) && decide (cardField l 0 8 ≤ va) &&
  decide (va + len ≤ cardField l 0 8 + cardField l 8 8)
/-- From `s` to `t` the transport has handed exactly these frames to port `p`, in order. -/
abbrev Hands (p : Nat) (l : List TxFrame) (s t : State) : Prop :=
  (t.sport p).tx ++ (t.sport p).wait = (s.sport p).tx ++ (s.sport p).wait ++ l

/-- The oldest request that waits for a lane of a class (R305). -/
def State.xfNext (s : State) (cls : Nat) : Option Nat := s.xf.queue.find? fun r => match Tab.find s.loom.req r with
  | some q => xfClass (entSub q.ent) == some cls
  | none => false

/-- The event that a wake cause names comes about now (R497, R500, R507-R509). -/
def State.wakeReady (s : State) (w : WakeCause) : Bool := match w with
  | .irq => s.irqDue
  | .rtc => s.bit TRD_ALARM TRD_ALARM_EN
  | .pattern _ => s.pairReady 2
  | .edge => s.pairReady 1
  | .latch n => decide (1 ≤ n ∧ n ≤ 64) && (s.reg TRD_WAKE_MASK).toNat.testBit (n - 1)
/-- Nothing holds the power sequencer: no lost rail, trip or due retry. -/
def State.seqFree (s : State) : Bool := s.pwr.dead == 0 && s.pwr.retryAt.isNone
/-- What TRD_STAT tells of an event that the Treadle holds (Table 19.15). -/
def State.told (s : State) (w : WakeCause) : Bool :=
  let cause := s.get TRD_STAT TRD_STAT_CAUSE
  match w with
  | .irq => true
  | .rtc => cause == 3
  | .pattern r => cause == 1 && s.bit TRD_STAT TRD_STAT_REVERSED == r
  | .edge => cause == 2
  | .latch n => cause == 4 && s.get TRD_STAT TRD_STAT_SOURCE == n

/-- The mesh clock runs (R44, R55). -/
def State.meshRuns (s : State) : Bool := !s.mesh.stopped && !s.mesh.paused && decide (0 < s.get MESH_CFG MESH_CFG_MESH_FREQ)

/-- The parts of the state. -/
inductive Part where
  | regs | mem | poison | clk | io | fuses | mesh | core | cache | coh | btn | loom | drv | pick | xf | shu | iotlb
  | crl | hrn | mc | dby | ras | pwr | boot | dbg
  deriving DecidableEq, Repr

/-- A part of the state is the same in `s` and `t`; of the registers and of DRAM, every register and every byte read. -/
def Part.same (p : Part) (s t : State) : Prop :=
  match p with
  | .regs => ∀ a, t.reg a = s.reg a
  | .mem => ∀ a, t.byte a = s.byte a
  | .poison => ∀ l, t.isPoison l = s.isPoison l
  | .clk => t.clk = s.clk
  | .io => t.io = s.io
  | .fuses => t.fuses = s.fuses
  | .mesh => t.mesh = s.mesh
  | .core => t.core = s.core
  | .cache => t.cache = s.cache
  | .coh => t.coh = s.coh
  | .btn => t.btn = s.btn
  | .loom => t.loom = s.loom
  | .drv => t.drv = s.drv
  | .pick => t.pick = s.pick
  | .xf => t.xf = s.xf
  | .shu => t.shu = s.shu
  | .iotlb => t.iotlb = s.iotlb
  | .crl => t.crl = s.crl
  | .hrn => t.hrn = s.hrn
  | .mc => t.mc = s.mc
  | .dby => t.dby = s.dby
  | .ras => t.ras = s.ras
  | .pwr => t.pwr = s.pwr
  | .boot => t.boot = s.boot
  | .dbg => t.dbg = s.dbg

/-- The frame of a command: every part outside `ch` is as before, and every register whose address is not in `R`. -/
def Keeps (ch : List Part) (R : Nat → Prop) (s t : State) : Prop :=
  (∀ p : Part, p ≠ .regs → p ∉ ch → p.same s t) ∧ ∀ a, ¬ R a → t.reg a = s.reg a

/-- An address in subsystem block `b` (Table 1.11). -/
def inBlock (b a : Nat) : Prop := blockBase b ≤ a ∧ a < blockBase (b + 1)
/-- An address among the registers of node `n` (Table 1.11). -/
def inNode (n a : Nat) : Prop := nodeBase n ≤ a ∧ a < nodeBase (n + 1)
/-- An address among the registers of any node. -/
def inNodes (a : Nat) : Prop := nodeBase 0 ≤ a ∧ a < nodeBase 224
/-- An address in the doorbell page of function `f` (Table 1.11). -/
def inPage (f a : Nat) : Prop := pageBase f ≤ a ∧ a < pageBase (f + 1)
/-- An address in an error record bank (R546). -/
def inBank (a : Nat) : Prop := ∃ id, bankOf id ≤ a ∧ a < bankOf id + 0x140

end Sys2Proof.Machine
end

