-- ==== Sys2Proof/Frames.lean ====
section
/-! DEFINITION. The frames of the commands: for each command the parts of the state and the registers that it can change;
everything else it leaves as it was (`Keeps`). A register array is named as a whole where the index comes from the state. -/

namespace Sys2Proof.Machine

/-- What a command can change: parts of the state beside the registers, and sets of registers. -/
structure Frame where
  parts : List Part
  regs : List (Nat → Prop)
/-- A register that the command can write. -/
def Frame.writes (f : Frame) (a : Nat) : Prop := ∃ p ∈ f.regs, p a

/-- Every part of the state but the registers and the fuses. -/
def allParts : List Part :=
  [.mem, .poison, .clk, .io, .mesh, .core, .cache, .coh, .btn, .loom, .drv, .pick, .xf, .shu, .iotlb, .crl, .hrn, .mc, .dby, .ras,
   .pwr, .boot, .dbg]
/-- Any register: a reset, or an access whose operand names the register. -/
def anyReg (_ : Nat) : Prop := True
/-- Some register of an array. -/
def anyOf (r : Nat → Nat) (a : Nat) : Prop := ∃ i, a = r i
/-- Some register of an array with two indices. -/
def anyOf2 (r : Nat → Nat → Nat) (a : Nat) : Prop := ∃ i j, a = r i j
/-- The interrupt sources (Table 16.3). -/
def irqRegs : Nat → Prop := anyOf HRN_SRC
/-- What the passing of time counts: the RTC, the counters of mesh cycles that something waits, and the counters of a die
(R593). -/
def timeRegs (a : Nat) : Prop :=
  a ∈ [TRD_RTC, BTN_BACKPRESSURE] ∨ anyOf MESH_RTR_INJWAIT a ∨ anyOf LLC_TAG_WAIT a ∨ anyOf dieCounter a
/-- What the log of an error record writes (R546, R548): the record slots and RAS_LOST of a bank, and the source of its
interrupt line. -/
def logRegs (a : Nat) : Prop :=
  anyOf2 (fun i j => RAS_STATUS (bankOf i) j) a ∨ anyOf2 (fun i j => RAS_ADDR (bankOf i) j) a ∨
    anyOf2 (fun i j => RAS_MISC (bankOf i) j) a ∨ anyOf2 (fun i j => RAS_TIME (bankOf i) j) a ∨
    anyOf (fun i => RAS_LOST (bankOf i)) a ∨ anyOf HRN_SRC a
/-- The counts of refused transitions (R503). -/
def transRegs (a : Nat) : Prop :=
  a ∈ [PWR_RCNT_OVF] ∨ anyOf PWR_RCNT a
/-- The counters of the fetch, the translation and the trap of an instruction (Tables 12.13 and 14.10, R489). -/
def issueRegs (a : Nat) : Prop :=
  anyOf CORE_AD_UPDATE a ∨ anyOf CORE_BP_FLUSH a ∨ anyOf CORE_DTLB_MISS a ∨ anyOf CORE_ITLB_MISS a ∨
    anyOf CORE_L2TLB_MISS a ∨ anyOf CORE_WALK_PTE a ∨ anyOf SEL_DENY a
/-- The status and the counters of home `node` (Tables 3.8, 3.10, 4.8, 4.9 and 5.9). -/
def homeRegs (node : Nat) (a : Nat) : Prop :=
  a ∈ [BTN_ACC_CNT node, BTN_CHAIN node, BTN_POISON node, BTN_SPILL node, BTN_ZERO_CNT node, DIR_BCAST node,
    DIR_EVICT_FORCED node, DIR_STAT node, LLC_HIT node, LLC_MISS node, LLC_STAT node]
/-- The state of the landing windows (section 5.9). -/
def winRegs (a : Nat) : Prop :=
  a ∈ [BTN_OPENS, BTN_STAT] ∨ anyOf BTN_WIN_STATE a
/-- The message vectors (Table 16.4). -/
def vecRegs (a : Nat) : Prop :=
  a ∈ [HRN_VEC_DROP] ∨ anyOf HRN_VEC a
/-- The counters of an I/O translation (Table 14.10). -/
def iotlbRegs (a : Nat) : Prop :=
  a ∈ [PE_IOTLB_FAULT, PE_IOTLB_MISS, PE_IOTLB_PTE]
/-- The doorbells and the status of the queue pairs (section 10.9). -/
def qpRegs (a : Nat) : Prop :=
  a ∈ [SHU_QP_CMD, SHU_XP_STAT] ∨ anyOf2 SHU_CQ_HEAD a ∨ anyOf2 SHU_QSTAT a ∨ anyOf2 SHU_RQ_TAIL a ∨ anyOf2 SHU_SQ_TAIL a
/-- The completion side of the queue pairs (section 10.9). -/
def qpDoneRegs (a : Nat) : Prop :=
  a ∈ [SHU_XP_STAT] ∨ anyOf2 SHU_CQ_HEAD a ∨ anyOf2 SHU_QSTAT a
/-- The counters of an entry into the release heap (Table 8.17). -/
def heapRegs (a : Nat) : Prop :=
  a ∈ [PICK_GRP_FULL, PICK_GRP_LATE, PICK_GRP_MISMATCH, PICK_HEAP_FULL, PICK_LATEST, PICK_UNTIMED]
/-- The queue registers of function `func` (Table 6.5). -/
def queueRegs (func : Nat) (a : Nat) : Prop :=
  anyOf (LOOM_CQ_HEAD func) a ∨ anyOf (LOOM_QCQB func) a ∨ anyOf (LOOM_QCTL func) a ∨ anyOf (LOOM_QSQB func) a ∨
    anyOf (LOOM_SQ_TAIL func) a
/-- The mesh, the caches, the homes, the windows and the memory controllers (chapters 02 to 05 and 15). -/
def meshFrame (c : Instr) : Option Frame :=
  match c with
  | .flitArrival node => some ⟨[.mesh, .hrn, .ras, .dbg],
      [logRegs, (· ∈ [MESH_RTR_CE node, MESH_RTR_DEFL node, MESH_RTR_EJFULL node, MESH_RTR_FENCED node, MESH_RTR_LATE node]), anyOf (DBG_CMP node),
       anyOf DBG_TRC_DROP, anyOf DBG_TRC_STAT, anyOf fun i => RAS_CEC (bankOf i), anyOf dieCounter]⟩
  | .flitInject node => some ⟨[.mesh, .hrn, .ras, .dbg],
      [logRegs, (· ∈ [MESH_RTR_FENCED node]), anyOf (DBG_CMP node), anyOf DBG_TRC_DROP, anyOf DBG_TRC_STAT, anyOf fun i => RAS_CEC (bankOf i),
       anyOf dieCounter]⟩
  | .injectionWaitExpiry _ => some ⟨[.clk, .mesh], [timeRegs]⟩
  | .classAgeExpiry _ _ => some ⟨[.clk, .mesh], [timeRegs]⟩
  | .starveAssert node => some ⟨[.clk, .mesh], [timeRegs, (· ∈ [MESH_RTR_STARVE node])]⟩
  | .dieFifoDrift => some ⟨[.mesh, .hrn, .ras], [logRegs]⟩
  | .tileDrain _ node => some ⟨[.mem, .poison, .clk, .mesh, .core, .cache, .coh, .hrn, .dby],
      [transRegs, irqRegs, (· ∈ [MESH_FENCE_CTL node, MESH_FENCE_STAT node, nodeBase node, DBY_BUSY, DBY_CARDS, DBY_REFUSED, DBY_STAT]),
       anyOf LLC_MAP, anyOf LLC_STAT]⟩
  | .drainComplete node => some ⟨[.mem, .poison, .mesh, .core, .cache, .coh, .hrn, .dby],
      [irqRegs, (· ∈ [MESH_FENCE_CTL node, MESH_FENCE_STAT node, DBY_BUSY, DBY_REFUSED, DBY_STAT])]⟩
  | .drainTimeout node => some ⟨[.mem, .poison, .clk, .mesh, .core, .cache, .coh, .hrn, .dby],
      [timeRegs, irqRegs, (· ∈ [MESH_FENCE_CTL node, MESH_FENCE_STAT node, DBY_BUSY, DBY_REFUSED, DBY_STAT])]⟩
  | .tileFence _ node _ => some ⟨[.mem, .poison, .clk, .mesh, .core, .cache, .coh, .hrn, .dby],
      [transRegs, irqRegs, (· ∈ [MESH_FENCE_CTL node, MESH_FENCE_STAT node, DBY_BUSY, DBY_CARDS, DBY_REFUSED, DBY_STAT])]⟩
  | .fenceWaitExpiry node => some ⟨[.mem, .poison, .clk, .mesh, .core, .cache, .coh, .hrn, .dby],
      [timeRegs, irqRegs, (· ∈ [MESH_FENCE_STAT node, DBY_BUSY, DBY_REFUSED, DBY_STAT]), anyOf MESH_HART_MAP, anyOf nodeBase]⟩
  | .tilePowerOff _ node => some ⟨[.mem, .poison, .clk, .mesh, .core, .cache, .coh, .hrn, .dby, .dbg],
      [transRegs, irqRegs, (· ∈ [nodeBase node, DBY_BUSY, DBY_CARDS, DBY_REFUSED, DBY_STAT])]⟩
  | .tilePowerOn _ node => some ⟨[.mem, .poison, .clk, .mesh, .core, .cache, .coh, .hrn, .dby, .dbg],
      [transRegs, irqRegs, (· ∈ [DIR_STAT node, MESH_FENCE_STAT node, nodeBase node, DBY_BUSY, DBY_CARDS, DBY_REFUSED, DBY_STAT]),
       anyOf (DIR_DEAD node)]⟩
  | .tileTest _ node => some ⟨[.mem, .poison, .clk, .mesh, .core, .cache, .coh, .hrn, .dby],
      [transRegs, irqRegs, (· ∈ [nodeBase node, DBY_BUSY, DBY_CARDS, DBY_REFUSED, DBY_STAT])]⟩
  | .tileRestore _ node => some ⟨[.mem, .poison, .clk, .mesh, .core, .cache, .coh, .hrn, .dby],
      [transRegs, irqRegs, (· ∈ [MESH_FENCE_CTL node, MESH_FENCE_STAT node, nodeBase node, DBY_BUSY, DBY_CARDS, DBY_REFUSED, DBY_STAT]),
       anyOf LLC_MAP, anyOf LLC_STAT, anyOf MC_CFG]⟩
  | .tileSpare _ _ _ _ => some ⟨[.mem, .poison, .clk, .mesh, .core, .cache, .coh, .hrn, .mc, .dby, .ras, .dbg],
      [logRegs, transRegs, (· ∈ [DBY_BUSY, DBY_CARDS, DBY_REFUSED, DBY_STAT]), anyOf2 DIR_DEAD, anyOf DIR_STAT, anyOf LLC_MAP, anyOf LLC_STAT,
       anyOf MC_STAT, anyOf MESH_FENCE_CTL, anyOf MESH_FENCE_STAT, anyOf MESH_HART_MAP, anyOf nodeBase]⟩
  | .missTagAcquire _ => some ⟨[.mesh, .cache], []⟩
  | .mapUpdateFlit _ _ => some ⟨[.cache], []⟩
  | .mapUpdateAcked entry => some ⟨[.mesh, .cache, .coh, .hrn, .ras],
      [logRegs, (· ∈ [LLC_MAP entry]), anyOf BTN_ACC_CNT, anyOf BTN_CHAIN, anyOf BTN_POISON, anyOf BTN_SPILL, anyOf BTN_ZERO_CNT, anyOf DIR_BCAST,
       anyOf DIR_EVICT_FORCED, anyOf DIR_STAT, anyOf LLC_HIT, anyOf LLC_MISS, anyOf LLC_STAT]⟩
  | .mapWalkEnd entry => some ⟨[.cache], [(· ∈ [LLC_MAP entry]), anyOf LLC_STAT]⟩
  | .sliceScrubRead node _ _ => some ⟨[.mesh, .cache, .hrn, .ras], [logRegs, (· ∈ [LLC_CE node]), anyOf fun i => RAS_CEC (bankOf i)]⟩
  | .stridePrefetchIssue node _ => some ⟨[.mesh, .coh], [(· ∈ [CORE_L2_MISS node, CORE_PF_ISSUED node])]⟩
  | .rdShared node _ => some ⟨[.mesh, .cache, .coh, .hrn, .ras], [logRegs, homeRegs node, (· ∈ [DIR_NACK node, SEL_DENY_HOME])]⟩
  | .rdUnique node _ => some ⟨[.mesh, .cache, .coh, .hrn, .ras], [logRegs, homeRegs node, (· ∈ [DIR_NACK node, SEL_DENY_HOME])]⟩
  | .upgrade node _ => some ⟨[.mesh, .cache, .coh, .hrn, .ras], [logRegs, homeRegs node, (· ∈ [DIR_NACK node, SEL_DENY_HOME])]⟩
  | .rdOnce node _ => some ⟨[.mesh, .cache, .coh, .hrn, .ras], [logRegs, homeRegs node, (· ∈ [DIR_NACK node, SEL_DENY_HOME]), anyOf LLC_NL_PF_CNT]⟩
  | .wrFull node _ => some ⟨[.mesh, .cache, .coh, .hrn, .ras], [logRegs, homeRegs node, (· ∈ [DIR_NACK node, SEL_DENY_HOME])]⟩
  | .wrPart node _ => some ⟨[.mesh, .cache, .coh, .hrn, .ras], [logRegs, homeRegs node, (· ∈ [DIR_NACK node, SEL_DENY_HOME])]⟩
  | .claimZero node _ => some ⟨[.mesh, .cache, .coh, .hrn, .ras], [logRegs, homeRegs node, (· ∈ [DIR_NACK node, SEL_DENY_HOME])]⟩
  | .evictDirty node _ => some ⟨[.mesh, .cache, .coh, .hrn, .ras], [logRegs, homeRegs node, (· ∈ [DIR_NACK node, SEL_DENY_HOME])]⟩
  | .evictClean node _ => some ⟨[.mesh, .cache, .coh, .hrn, .ras], [logRegs, homeRegs node, (· ∈ [DIR_NACK node, SEL_DENY_HOME])]⟩
  | .clean node _ => some ⟨[.mesh, .cache, .coh, .hrn, .ras], [logRegs, homeRegs node, (· ∈ [DIR_NACK node, SEL_DENY_HOME])]⟩
  | .flush node _ => some ⟨[.mesh, .cache, .coh, .hrn, .ras], [logRegs, homeRegs node, (· ∈ [DIR_NACK node, SEL_DENY_HOME])]⟩
  | .rel node _ => some ⟨[.mesh, .cache, .coh, .hrn, .ras], [logRegs, homeRegs node]⟩
  | .snpShared _ _ => some ⟨[.mesh, .cache], []⟩
  | .snpUnique _ _ => some ⟨[.mesh, .core, .cache, .coh], []⟩
  | .inv _ _ => some ⟨[.mesh, .core, .cache, .coh], []⟩
  | .snpOnce _ _ => some ⟨[.mesh], []⟩
  | .snpClean _ _ => some ⟨[.mesh, .cache], []⟩
  | .snpFlush _ _ => some ⟨[.mesh, .core, .cache, .coh], []⟩
  | .snpAck node _ => some ⟨[.mesh, .cache, .coh, .hrn, .ras], [logRegs, homeRegs node, (· ∈ [DIR_LATE_RSP node])]⟩
  | .snpMiss node _ => some ⟨[.mesh, .cache, .coh, .hrn, .ras], [logRegs, homeRegs node, (· ∈ [DIR_LATE_RSP node])]⟩
  | .snpData node _ => some ⟨[.mesh, .cache, .coh, .hrn, .ras], [logRegs, homeRegs node, (· ∈ [DIR_LATE_RSP node])]⟩
  | .nackQ _ _ => some ⟨[.mesh, .coh], []⟩
  | .nack _ _ => some ⟨[.mesh, .coh], []⟩
  | .grant _ _ => some ⟨[.mesh, .coh], []⟩
  | .grantIssue node => some ⟨[.mesh, .coh], [(· ∈ [DIR_GRANT node, DIR_STAT node])]⟩
  | .comp node _ => some ⟨[.mesh, .core, .cache, .coh, .btn, .loom, .hrn, .ras, .dbg],
      [logRegs, homeRegs node, winRegs, (· ∈ [BTN_FAIL node]), anyOf CORE_BP_FLUSH]⟩
  | .compAck node _ => some ⟨[.mesh, .cache, .coh, .hrn, .ras], [logRegs, homeRegs node, (· ∈ [DIR_LATE_RSP node])]⟩
  | .fenced _ _ => some ⟨[.mesh, .core, .cache, .coh, .btn, .loom, .hrn, .ras, .dbg], [logRegs, winRegs, anyOf BTN_FAIL, anyOf CORE_BP_FLUSH]⟩
  | .wbGo _ _ => some ⟨[.mesh], []⟩
  | .wbData node _ => some ⟨[.mesh, .cache, .coh, .hrn, .ras], [logRegs, homeRegs node, (· ∈ [DIR_LATE_RSP node])]⟩
  | .relDone node _ => some ⟨[.mesh, .cache, .coh, .hrn, .ras], [logRegs, homeRegs node]⟩
  | .faultMsg node _ => some ⟨[.mesh, .core, .cache, .coh, .btn, .loom, .hrn, .ras, .dbg],
      [logRegs, homeRegs node, winRegs, anyOf BTN_FAIL, anyOf CORE_BP_FLUSH]⟩
  | .dataS _ _ => some ⟨[.mesh, .core, .cache, .coh, .hrn, .ras, .dbg], [logRegs, anyOf CORE_BP_FLUSH]⟩
  | .dataE _ _ => some ⟨[.mesh, .core, .cache, .coh, .hrn, .ras, .dbg], [logRegs, anyOf CORE_BP_FLUSH]⟩
  | .dataM _ _ => some ⟨[.mesh, .core, .cache, .coh, .hrn, .ras, .dbg], [logRegs, anyOf CORE_BP_FLUSH]⟩
  | .dataOnce _ _ => some ⟨[.mesh, .core, .cache, .coh, .hrn, .ras, .dbg], [logRegs, anyOf CORE_BP_FLUSH]⟩
  | .memRd node _ _ _ => some ⟨[.poison, .mesh, .hrn, .mc, .ras],
      [logRegs, (· ∈ [MESH_RTR_FENCED node]), anyOf MC_BKT_TRIP, anyOf MC_CA_RETRY, anyOf MC_CE, anyOf MC_CFG, anyOf MC_DEMAND_FIX, anyOf MC_ILV,
       anyOf MC_MIRROR_RECOVER, anyOf MC_PAIR_MERGE, anyOf MC_UCE, anyOf MC_WCRC_RETRY, anyOf fun i => MESH_FENCE_CTL (mcNode i),
       anyOf fun i => MESH_FENCE_STAT (mcNode i), anyOf fun i => RAS_CEC (bankOf i), anyOf dieCounter, anyOf fun i => nodeBase (mcNode i)]⟩
  | .memWr node _ => some ⟨[.mem, .poison, .mesh, .hrn, .mc, .ras],
      [logRegs, (· ∈ [MESH_RTR_FENCED node]), anyOf MC_BKT_TRIP, anyOf MC_CA_RETRY, anyOf MC_CE, anyOf MC_CFG, anyOf MC_DEMAND_FIX, anyOf MC_ILV,
       anyOf MC_PAIR_MERGE, anyOf MC_UCE, anyOf MC_WCRC_RETRY, anyOf fun i => MESH_FENCE_CTL (mcNode i), anyOf fun i => MESH_FENCE_STAT (mcNode i),
       anyOf fun i => RAS_CEC (bankOf i), anyOf dieCounter, anyOf fun i => nodeBase (mcNode i)]⟩
  | .memData node _ => some ⟨[.mesh, .cache, .coh, .hrn, .ras], [logRegs, homeRegs node]⟩
  | .grantRetryTimeout node _ => some ⟨[.clk, .coh], [timeRegs, (· ∈ [DIR_GRANT_DROP node, DIR_STAT node])]⟩
  | .grantWaitTimeout _ _ => some ⟨[.clk, .mesh, .coh], [timeRegs, anyOf DIR_GRANT_LOST]⟩
  | .homeTimeout node _ => some ⟨[.clk, .mesh, .cache, .coh, .hrn, .ras],
      [timeRegs, logRegs, homeRegs node, (· ∈ [DIR_TMO node]), anyOf (DIR_DEAD node)]⟩
  | .requesterTimeout _ _ => some ⟨[.clk, .mesh, .core, .cache, .coh, .btn, .loom, .hrn, .ras, .dbg],
      [timeRegs, logRegs, winRegs, anyOf BTN_FAIL, anyOf CORE_BP_FLUSH]⟩
  | .acc node _ => some ⟨[.mesh, .cache, .coh, .hrn, .ras], [logRegs, homeRegs node, (· ∈ [DIR_NACK node, SEL_DENY_HOME])]⟩
  | .zero node _ => some ⟨[.mesh, .cache, .coh, .hrn, .ras], [logRegs, homeRegs node, (· ∈ [DIR_NACK node, SEL_DENY_HOME])]⟩
  | .ack node _ => some ⟨[.mesh, .core, .coh, .btn, .loom, .hrn, .ras], [logRegs, winRegs, (· ∈ [BTN_FAIL node])]⟩
  | .release node _ => some ⟨[.mesh, .cache, .coh], [(· ∈ [LLC_STAT node])]⟩
  | .windowCloseDrained _ => some ⟨[.mesh, .coh, .btn], []⟩
  | .windowCloseReleased _ => some ⟨[.mesh, .coh, .btn], []⟩
  | .windowNoticeDone w => some ⟨[.mesh, .btn, .hrn, .ras], [logRegs, vecRegs, (· ∈ [BTN_WIN_STATE w, BTN_STAT])]⟩
  | .pairBufferExpiry chan _ => some ⟨[.poison, .clk, .mesh, .hrn, .mc, .ras],
      [timeRegs, logRegs, (· ∈ [MC_BKT_TRIP chan, MC_CE chan, MC_DEMAND_FIX chan, MC_PAIR_MERGE chan, MC_UCE chan]),
       anyOf fun i => RAS_CEC (bankOf i)]⟩
  | .rankPowerDown _ _ => some ⟨[.clk, .mc], [timeRegs]⟩
  | .ddrAlert chan _ => some ⟨[.mesh, .hrn, .mc, .ras],
      [logRegs, (· ∈ [MC_CA_RETRY chan, MC_CFG chan, MC_WCRC_RETRY chan, MESH_FENCE_CTL (mcNode chan), MESH_FENCE_STAT (mcNode chan),
       nodeBase (mcNode chan)]), anyOf MC_ILV]⟩
  | .patrolScrub chan _ _ _ => some ⟨[.poison, .mesh, .hrn, .mc, .ras],
      [logRegs, (· ∈ [MC_BKT_TRIP chan, MC_CE chan, MC_PATROL_FIX chan, MC_UCE chan]), anyOf fun i => RAS_CEC (bankOf i)]⟩
  | .ecsCommand _ => some ⟨[.mc], []⟩
  | .ecsCountRead _ _ _ _ _ => some ⟨[.mesh, .hrn, .mc, .ras], [logRegs]⟩
  | .bucketLeak _ _ => some ⟨[.mc], []⟩
  | .memScrubCfg _ _ _ _ _ _ => some ⟨[.mem, .poison, .mesh, .core, .cache, .coh, .hrn, .dby],
      [irqRegs, (· ∈ [DBY_BUSY, DBY_CARDS, DBY_REFUSED]), anyOf MC_SCRUB]⟩
  | .memMirrorSet _ _ _ => some ⟨[.mem, .poison, .clk, .mesh, .core, .cache, .coh, .hrn, .mc, .dby],
      [irqRegs, (· ∈ [DBY_BUSY, DBY_CARDS, DBY_REFUSED])]⟩
  | .memMirrorResync _ _ => some ⟨[.mem, .poison, .clk, .mesh, .core, .cache, .coh, .hrn, .dby],
      [irqRegs, (· ∈ [DBY_BUSY, DBY_CARDS, DBY_REFUSED, DBY_STAT]), anyOf MC_STAT]⟩
  | .mirrorResyncDone _ => some ⟨[.mem, .poison, .mesh, .core, .cache, .coh, .hrn, .mc, .dby],
      [irqRegs, (· ∈ [DBY_BUSY, DBY_REFUSED, DBY_STAT]), anyOf MC_ILV, anyOf MC_STAT]⟩
  | .memSpareRank _ channel _ => some ⟨[.mem, .poison, .clk, .mesh, .core, .cache, .coh, .hrn, .mc, .dby],
      [irqRegs, (· ∈ [MC_STAT channel, DBY_BUSY, DBY_CARDS, DBY_REFUSED, DBY_STAT])]⟩
  | .spareCopyDone chan => some ⟨[.mem, .poison, .mesh, .core, .cache, .coh, .hrn, .mc, .dby],
      [irqRegs, (· ∈ [MC_STAT chan, DBY_BUSY, DBY_REFUSED, DBY_STAT])]⟩
  | .memPprSoft _ _ _ _ _ _ _ => some ⟨[.mem, .poison, .clk, .mesh, .core, .cache, .coh, .hrn, .mc, .dby],
      [irqRegs, (· ∈ [DBY_BUSY, DBY_CARDS, DBY_REFUSED, DBY_STAT])]⟩
  | .memPprHard _ _ _ _ _ _ _ => some ⟨[.mem, .poison, .clk, .mesh, .core, .cache, .coh, .hrn, .mc, .dby],
      [irqRegs, (· ∈ [DBY_BUSY, DBY_CARDS, DBY_REFUSED, DBY_STAT])]⟩
  | .memRetire _ channel _ => some ⟨[.mem, .poison, .clk, .mesh, .core, .cache, .coh, .hrn, .mc, .dby, .ras],
      [logRegs, transRegs, (· ∈ [MC_CFG channel, MESH_FENCE_CTL (mcNode channel), MESH_FENCE_STAT (mcNode channel), nodeBase (mcNode channel),
       DBY_BUSY, DBY_CARDS, DBY_REFUSED, DBY_STAT]), anyOf MC_ILV]⟩
  | .zeroFillDone chan => some ⟨[.mem, .poison, .mc], [(· ∈ [MC_STAT chan])]⟩
  | .tileTestDone node _ => some ⟨[.mem, .poison, .mesh, .core, .cache, .coh, .hrn, .mc, .dby, .ras, .dbg],
      [logRegs, (· ∈ [DIR_STAT node, nodeBase node, DBY_BUSY, DBY_REFUSED, DBY_STAT]), anyOf (DIR_DEAD node), anyOf MC_STAT]⟩
  | _ => none
/-- The engines (chapters 06 to 11) and the IOTLB (chapter 14). -/
def engineFrame (c : Instr) : Option Frame :=
  match c with
  | .funcCreate _ func _ _ _ _ _ _ _ => some ⟨[.mem, .poison, .clk, .mesh, .core, .cache, .coh, .loom, .iotlb, .hrn, .dby],
      [transRegs, queueRegs func, irqRegs, (· ∈ [LOOM_FSTAT func, DBY_BUSY, DBY_CARDS, DBY_REFUSED, LOOM_STAT, PE_IOTLB_INVCNT]), anyOf HRN_VEC]⟩
  | .funcQuiesce _ _ _ _ => some ⟨[.mem, .poison, .clk, .mesh, .core, .cache, .coh, .btn, .loom, .drv, .pick, .xf, .iotlb, .hrn, .dby, .ras],
      [logRegs, transRegs, winRegs, vecRegs, iotlbRegs, heapRegs, (· ∈ [DBY_BUSY, DBY_CARDS, DBY_REFUSED, DBY_STAT, DQ_CMDS, LOOM_CQE,
       LOOM_INFLIGHT, LOOM_QERR, LOOM_STAT, PICK_STAT, XF_STAT]), anyOf DQ_QP, anyOf LOOM_FSTAT, anyOf2 LOOM_QCTL, anyOf PE_PORT_STAT]⟩
  | .funcQuiesceDone func => some ⟨[.mem, .poison, .mesh, .core, .cache, .coh, .loom, .hrn, .dby],
      [irqRegs, (· ∈ [LOOM_FSTAT func, DBY_BUSY, DBY_REFUSED, DBY_STAT, LOOM_STAT])]⟩
  | .funcQuiesceTimeout _ => some ⟨[.mem, .poison, .clk, .mesh, .core, .cache, .coh, .hrn, .dby],
      [timeRegs, irqRegs, (· ∈ [DBY_BUSY, DBY_REFUSED, DBY_STAT])]⟩
  | .funcFreeze _ func => some ⟨[.mem, .poison, .mesh, .core, .cache, .coh, .loom, .hrn, .dby],
      [transRegs, irqRegs, (· ∈ [LOOM_FSTAT func, DBY_BUSY, DBY_CARDS, DBY_REFUSED, LOOM_STAT])]⟩
  | .funcSave _ _ _ => some ⟨[.mem, .poison, .mesh, .core, .cache, .coh, .hrn, .dby],
      [transRegs, irqRegs, (· ∈ [DBY_BUSY, DBY_CARDS, DBY_REFUSED, DBY_STAT])]⟩
  | .funcRestore _ func _ _ _ _ _ _ => some ⟨[.mem, .poison, .clk, .mesh, .core, .cache, .coh, .loom, .iotlb, .hrn, .dby],
      [transRegs, queueRegs func, irqRegs, (· ∈ [LOOM_FSTAT func, DBY_BUSY, DBY_CARDS, DBY_REFUSED, DBY_STAT, LOOM_STAT, PE_IOTLB_INVCNT]),
       anyOf HRN_VEC]⟩
  | .funcResume _ func => some ⟨[.mem, .poison, .mesh, .core, .cache, .coh, .loom, .hrn, .dby],
      [transRegs, vecRegs, irqRegs, (· ∈ [LOOM_FSTAT func, DBY_BUSY, DBY_CARDS, DBY_REFUSED, LOOM_PARK, LOOM_STAT])]⟩
  | .funcDestroy _ func => some ⟨[.mem, .poison, .mesh, .core, .cache, .coh, .loom, .xf, .iotlb, .hrn, .dby],
      [transRegs, queueRegs func, irqRegs, (· ∈ [LOOM_FSTAT func, DBY_BUSY, DBY_CARDS, DBY_REFUSED, LOOM_STAT, PE_IOTLB_INVCNT, XF_STAT]),
       anyOf HRN_VEC, anyOf XF_SLOT]⟩
  | .funcReset _ func => some ⟨[.mem, .poison, .mesh, .core, .cache, .coh, .loom, .iotlb, .hrn, .dby],
      [transRegs, irqRegs, (· ∈ [LOOM_FSTAT func, DBY_BUSY, DBY_CARDS, DBY_REFUSED, LOOM_STAT, PE_IOTLB_INVCNT]), anyOf (LOOM_CQ_HEAD func),
       anyOf (LOOM_QCTL func), anyOf (LOOM_SQ_TAIL func)]⟩
  | .loomSqTailWrite func queue _ => some ⟨[.mesh, .loom, .hrn],
      [vecRegs, (· ∈ [LOOM_FSTAT func, LOOM_QCTL func queue, LOOM_SQ_TAIL func queue, LOOM_DB, LOOM_DB_DROP, LOOM_FROZEN_DB, LOOM_PARK, LOOM_QERR,
       LOOM_STAT])]⟩
  | .loomCqHeadWrite func queue _ => some ⟨[.mesh, .loom, .hrn],
      [vecRegs, (· ∈ [LOOM_CQ_HEAD func queue, LOOM_FSTAT func, LOOM_QCTL func queue, LOOM_DB, LOOM_DB_DROP, LOOM_FROZEN_DB, LOOM_PARK, LOOM_QERR,
       LOOM_STAT])]⟩
  | .loomQueueEnable func queue _ => some ⟨[.loom], [(· ∈ [LOOM_CQ_HEAD func queue, LOOM_QCTL func queue, LOOM_SQ_TAIL func queue])]⟩
  | .loomQueueDisable func queue _ => some ⟨[.loom], [(· ∈ [LOOM_CQ_HEAD func queue, LOOM_QCTL func queue, LOOM_SQ_TAIL func queue])]⟩
  | .contextSwap => some ⟨[.mem, .poison, .clk, .mesh, .core, .cache, .coh, .loom, .hrn, .ras],
      [logRegs, (· ∈ [LOOM_CTX_EVICT, LOOM_CTX_LOAD, LOOM_PARK, LOOM_STAT]), anyOf LOOM_FSTAT]⟩
  | .residencyQuantumExpiry _ => some ⟨[.clk, .loom], [timeRegs]⟩
  | .loomFetch => some ⟨[.mem, .poison, .clk, .mesh, .core, .cache, .coh, .btn, .loom, .drv, .pick, .xf, .iotlb, .hrn, .ras],
      [logRegs, winRegs, vecRegs, iotlbRegs, heapRegs, (· ∈ [DQ_CMDS, LOOM_FETCH_CNT, LOOM_INFLIGHT, LOOM_QERR, LOOM_STAT, PICK_STAT, XF_STAT]),
       anyOf DQ_QP, anyOf LOOM_FSTAT, anyOf2 LOOM_QCTL, anyOf PE_PORT_STAT]⟩
  | .loomCompletion _ => some ⟨[.mem, .poison, .clk, .mesh, .core, .cache, .coh, .btn, .loom, .drv, .pick, .xf, .iotlb, .hrn, .ras],
      [logRegs, winRegs, vecRegs, iotlbRegs, heapRegs, (· ∈ [DQ_CMDS, LOOM_CQE, LOOM_INFLIGHT, LOOM_QERR, LOOM_STAT, PICK_STAT, XF_STAT]),
       anyOf DQ_QP, anyOf LOOM_FSTAT, anyOf2 LOOM_QCTL, anyOf PE_PORT_STAT]⟩
  | .coalesceTimerExpiry _ _ => some ⟨[.clk, .mesh, .loom, .hrn], [timeRegs, vecRegs]⟩
  | .perstRelease port => some ⟨[.clk, .drv], [timeRegs, (· ∈ [PE_PORT_STAT port])]⟩
  | .pcieLinkUp port _ _ _ => some ⟨[.mesh, .drv, .hrn], [irqRegs, (· ∈ [PE_PORT_STAT port])]⟩
  | .pcieLinkFailTimeout _ => some ⟨[.clk, .mesh, .drv, .hrn, .ras], [timeRegs, logRegs, (· ∈ [PE_LINK_FAIL])]⟩
  | .pcieSurpriseDown _ _ => some ⟨[.mem, .poison, .clk, .mesh, .core, .cache, .coh, .loom, .drv, .pick, .hrn, .ras],
      [logRegs, (· ∈ [DQ_CMDS, LOOM_INFLIGHT, PICK_STAT]), anyOf DQ_CTRL_A, anyOf DQ_QP, anyOf PE_PORT_STAT, anyOf PICK_CLK_STAT]⟩
  | .pcieLaneLoss _ _ _ => some ⟨[.mesh, .drv, .hrn, .ras], [logRegs]⟩
  | .dpcRelease _ => some ⟨[.mem, .poison, .clk, .mesh, .core, .cache, .coh, .loom, .drv, .pick, .hrn, .ras],
      [logRegs, (· ∈ [DQ_CMDS, LOOM_INFLIGHT, PICK_STAT]), anyOf DQ_CTRL_A, anyOf DQ_QP, anyOf PE_PORT_STAT, anyOf PICK_CLK_STAT]⟩
  | .dqCtrlEnable _ drive _ => some ⟨[.mem, .poison, .clk, .mesh, .core, .cache, .coh, .loom, .drv, .pick, .hrn, .ras],
      [logRegs, (· ∈ [DQ_CTRL_A drive, PICK_CLK_STAT drive, DQ_CMDS, LOOM_INFLIGHT, PICK_STAT]), anyOf DQ_QP, anyOf PE_PORT_STAT]⟩
  | .dqCtrlDisable _ drive _ => some ⟨[.mem, .poison, .clk, .mesh, .core, .cache, .coh, .loom, .drv, .pick, .hrn, .ras],
      [logRegs, (· ∈ [DQ_CTRL_A drive, PICK_CLK_STAT drive, DQ_CMDS, LOOM_INFLIGHT, PICK_STAT]), anyOf DQ_QP, anyOf PE_PORT_STAT]⟩
  | .dqQpEnable _ _ _ => some ⟨[.mem, .poison, .clk, .mesh, .core, .cache, .coh, .loom, .drv, .pick, .hrn],
      [(· ∈ [HRN_SRC 89, DQ_CMDS, LOOM_INFLIGHT, PICK_STAT]), anyOf DQ_QP, anyOf PE_PORT_STAT]⟩
  | .dqQpDisable _ _ _ => some ⟨[.mem, .poison, .clk, .mesh, .core, .cache, .coh, .loom, .drv, .pick, .hrn],
      [(· ∈ [HRN_SRC 89, DQ_CMDS, LOOM_INFLIGHT, PICK_STAT]), anyOf DQ_QP, anyOf PE_PORT_STAT]⟩
  | .driveCqDoorbell _ => some ⟨[.clk, .drv], [timeRegs]⟩
  | .driveCommandTimeout _ => some ⟨[.clk, .loom, .drv], [timeRegs, (· ∈ [DQ_TMO])]⟩
  | .ptmRequest _ => some ⟨[.clk, .drv], []⟩
  | .angleMessage _ => some ⟨[.clk, .mesh, .pick, .hrn, .ras],
      [logRegs, (· ∈ [PE_VDM_DROP, PICK_MSG, PICK_MSG_DROP, PICK_STAT]), anyOf PICK_CLK_IDX, anyOf PICK_CLK_STAT]⟩
  | .clockAcquireTimeout drive => some ⟨[.clk, .mesh, .pick, .hrn, .ras], [timeRegs, logRegs, (· ∈ [PICK_CLK_STAT drive, PICK_STAT])]⟩
  | .clockCoastStart drive => some ⟨[.clk, .mesh, .pick, .hrn, .ras], [timeRegs, logRegs, (· ∈ [PICK_CLK_STAT drive, PICK_STAT])]⟩
  | .clockCoastExpiry drive => some ⟨[.clk, .mesh, .pick, .hrn, .ras], [timeRegs, logRegs, (· ∈ [PICK_CLK_STAT drive, PICK_STAT])]⟩
  | .groupGatherExpiry _ _ => some ⟨[.clk, .mesh, .pick, .hrn], [timeRegs, (· ∈ [HRN_SRC 89, PICK_GRP_SHORT, PICK_LATEST, PICK_STAT])]⟩
  | .pickPairClaim _ => some ⟨[.mem, .poison, .clk, .core, .cache, .coh, .drv, .pick], [timeRegs, (· ∈ [PICK_PAIR_WAIT]), anyOf DQ_QP]⟩
  | .pickRelease => some ⟨[.mem, .poison, .clk, .mesh, .core, .cache, .coh, .drv, .pick, .hrn],
      [timeRegs, (· ∈ [HRN_SRC 89, DQ_CMDS, PICK_CROWD, PICK_RELEASED, PICK_STAT, PICK_UNTIMED]), anyOf DQ_QP]⟩
  | .pickAlarmArm _ alarm _ => some ⟨[.pick], [(· ∈ [PICK_ALARM alarm])]⟩
  | .pickAlarmDisarm _ alarm _ => some ⟨[.pick], [(· ∈ [PICK_ALARM alarm])]⟩
  | .pickAlarmFire alarm => some ⟨[.clk, .mesh, .pick, .hrn], [timeRegs, vecRegs, (· ∈ [PICK_ALARM alarm])]⟩
  | .pickClockCfg _ _ _ _ _ => some ⟨[.mem, .poison, .mesh, .core, .cache, .coh, .pick, .hrn, .dby, .ras],
      [logRegs, (· ∈ [DBY_BUSY, DBY_CARDS, DBY_REFUSED, PICK_STAT]), anyOf PICK_CLK_CFG, anyOf PICK_CLK_IDX, anyOf PICK_CLK_NOM, anyOf PICK_CLK_STAT]⟩
  | .pickMapLoad _ drive _ _ => some ⟨[.mem, .poison, .mesh, .core, .cache, .coh, .pick, .hrn, .dby],
      [irqRegs, (· ∈ [PICK_CLK_NOM drive, DBY_BUSY, DBY_CARDS, DBY_REFUSED])]⟩
  | .pickMode _ _ _ => some ⟨[.mem, .poison, .mesh, .core, .cache, .coh, .pick, .hrn, .dby, .ras],
      [logRegs, (· ∈ [DBY_BUSY, DBY_CARDS, DBY_REFUSED, PICK_STAT]), anyOf PICK_CLK_CFG, anyOf PICK_CLK_IDX, anyOf PICK_CLK_STAT]⟩
  | .shuttlePortCfg _ _ port _ _ _ _ _ => some ⟨[.mem, .poison, .mesh, .core, .cache, .coh, .shu, .hrn, .dby],
      [irqRegs, (· ∈ [SHU_PORT_CFG port, SHU_PORT_MAC port, SHU_PORT_STAT port, SHU_RSN port 23, DBY_BUSY, DBY_CARDS, DBY_REFUSED, SHU_MODE]),
       anyOf SHU_LANE, anyOf (SHU_PFC_THR port)]⟩
  | .portFlushRx _ port => some ⟨[.mem, .poison, .mesh, .core, .cache, .coh, .shu, .hrn, .dby],
      [irqRegs, (· ∈ [SHU_PORT_CFG port, SHU_PORT_MAC port, SHU_PORT_STAT port, SHU_RSN port 23, DBY_BUSY, DBY_CARDS, DBY_REFUSED, SHU_MODE]),
       anyOf SHU_LANE, anyOf (SHU_PFC_THR port)]⟩
  | .portFlushTx _ port => some ⟨[.mem, .poison, .mesh, .core, .cache, .coh, .shu, .hrn, .dby],
      [irqRegs, (· ∈ [SHU_PORT_CFG port, SHU_PORT_MAC port, SHU_PORT_STAT port, SHU_RSN port 23, DBY_BUSY, DBY_CARDS, DBY_REFUSED, SHU_MODE]),
       anyOf SHU_LANE, anyOf (SHU_PFC_THR port)]⟩
  | .shuttleParseCfg _ _ => some ⟨[.mem, .poison, .mesh, .core, .cache, .coh, .hrn, .dby],
      [irqRegs, (· ∈ [DBY_BUSY, DBY_CARDS, DBY_REFUSED, SHU_PARSE_CFG])]⟩
  | .frameReceive port _ _ _ _ => some ⟨[.shu],
      [(· ∈ [SHU_FEC_CE port, SHU_FEC_UCE port, SHU_PAUSE_RX port, SHU_PORT_STAT port, SHU_RSN port 22, SHU_RX_FRAMES port]),
       anyOf fun i => SHU_RSN port i]⟩
  | .pfcResendTimer port _ => some ⟨[.clk, .shu], [timeRegs, (· ∈ [SHU_PORT_STAT port])]⟩
  | .pfcXonSend port => some ⟨[.shu], [(· ∈ [SHU_PORT_STAT port])]⟩
  | .pauseFrameReceive port _ _ _ => some ⟨[.shu], [(· ∈ [SHU_PAUSE_RX port, SHU_PORT_STAT port, SHU_RSN port 22, SHU_RX_FRAMES port])]⟩
  | .pfcFrameReceive port _ _ _ _ => some ⟨[.shu], [(· ∈ [SHU_PAUSE_RX port, SHU_PORT_STAT port, SHU_RSN port 22, SHU_RX_FRAMES port])]⟩
  | .pauseTimerExpiry port _ => some ⟨[.clk, .shu], [timeRegs, (· ∈ [SHU_PORT_STAT port])]⟩
  | .pauseWatchdogExpiry port _ => some ⟨[.clk, .mesh, .shu, .hrn, .ras], [timeRegs, logRegs, (· ∈ [SHU_PAUSE_WD port])]⟩
  | .frameParse port => some ⟨[.mem, .poison, .mesh, .core, .cache, .coh, .shu, .hrn, .ras],
      [logRegs, (· ∈ [SHU_EXQ_BASE port, SHU_EXQ_IDX port, SHU_PORT_STAT port, SHU_RAWQ_BASE port]), anyOf (SHU_RSN port)]⟩
  | .txFrameStart port _ _ => some ⟨[.shu], [(· ∈ [SHU_PAUSE_TX port, SHU_TX_FRAMES port, SHU_TX_POISON port, SHU_TX_UNDERRUN port])]⟩
  | .shuRingEnable _ port _ _ => some ⟨[], [(· ∈ [SHU_EXQ_BASE port, SHU_EXQ_IDX port, SHU_RAWQ_BASE port, SHU_RAWQ_IDX port])]⟩
  | .shuRawqTailWrite _ port _ => some ⟨[], [(· ∈ [SHU_RAWQ_IDX port])]⟩
  | .rawSlotSend port => some ⟨[.clk, .mesh, .shu, .hrn, .ras],
      [logRegs, (· ∈ [SHU_EXQ_BASE port, SHU_RAWQ_BASE port, SHU_RAWQ_IDX port, SHU_RAW_BAD port])]⟩
  | .ethLinkChange port _ _ _ _ => some ⟨[.mesh, .shu, .hrn], [irqRegs, (· ∈ [SHU_PORT_STAT port]), anyOf SHU_LANE]⟩
  | .ethLinkFailTimeout port => some ⟨[.clk, .mesh, .shu, .hrn, .ras], [timeRegs, logRegs, (· ∈ [SHU_LINK_FAIL port])]⟩
  | .qpCreate _ _ => some ⟨[.shu], [qpRegs]⟩
  | .qpError _ _ => some ⟨[.mem, .poison, .mesh, .core, .cache, .coh, .shu, .iotlb, .hrn, .ras],
      [logRegs, vecRegs, iotlbRegs, qpDoneRegs, (· ∈ [SHU_QP_CMD])]⟩
  | .qpDestroy _ _ => some ⟨[.shu], [qpRegs]⟩
  | .mrReg _ _ => some ⟨[.mem, .poison, .core, .cache, .coh, .shu], [(· ∈ [SHU_QP_CMD])]⟩
  | .mrDereg _ _ => some ⟨[.shu], [qpRegs]⟩
  | .shuSqTailWrite func slot _ => some ⟨[.mem, .poison, .mesh, .core, .cache, .coh, .shu, .iotlb, .hrn, .ras],
      [logRegs, vecRegs, iotlbRegs, qpRegs, (· ∈ [SHU_SQ_TAIL func slot])]⟩
  | .shuRqTailWrite func slot _ => some ⟨[.mem, .poison, .mesh, .core, .cache, .coh, .shu, .iotlb, .hrn, .ras],
      [logRegs, vecRegs, iotlbRegs, qpRegs, (· ∈ [SHU_RQ_TAIL func slot])]⟩
  | .shuCqHeadWrite func slot _ => some ⟨[.mem, .poison, .mesh, .core, .cache, .coh, .shu, .iotlb, .hrn, .ras],
      [logRegs, vecRegs, iotlbRegs, qpRegs, (· ∈ [SHU_CQ_HEAD func slot])]⟩
  | .qpWorkFetch _ => some ⟨[.mem, .poison, .clk, .mesh, .core, .cache, .coh, .shu, .iotlb, .hrn, .ras],
      [logRegs, vecRegs, iotlbRegs, qpDoneRegs, (· ∈ [SHU_CTX_MISS, SHU_RETX])]⟩
  | .roceSend => some ⟨[.mem, .poison, .clk, .mesh, .core, .cache, .coh, .shu, .iotlb, .hrn, .ras],
      [logRegs, vecRegs, iotlbRegs, qpRegs, (· ∈ [SHU_TRN 0, SHU_TRN 1, SHU_TRN 10, SHU_TRN 12, SHU_TRN 2, SHU_TRN 3, SHU_TRN 4, SHU_TRN 6,
       SHU_TRN 7, SHU_TRN 8, SHU_TRN 9, SHU_CNP_TX, SHU_CTX_MISS])]⟩
  | .udSend => some ⟨[.mem, .poison, .clk, .mesh, .core, .cache, .coh, .shu, .iotlb, .hrn, .ras],
      [logRegs, vecRegs, iotlbRegs, qpRegs, (· ∈ [SHU_TRN 0, SHU_TRN 1, SHU_TRN 10, SHU_TRN 12, SHU_TRN 2, SHU_TRN 3, SHU_TRN 4, SHU_TRN 5,
       SHU_TRN 6, SHU_TRN 7, SHU_CNP_TX, SHU_CTX_MISS])]⟩
  | .roceRdmaWrite => some ⟨[.mem, .poison, .clk, .mesh, .core, .cache, .coh, .btn, .shu, .iotlb, .hrn, .ras],
      [logRegs, vecRegs, iotlbRegs, qpRegs, (· ∈ [SHU_TRN 0, SHU_TRN 1, SHU_TRN 10, SHU_TRN 11, SHU_TRN 12, SHU_TRN 2, SHU_TRN 3, SHU_TRN 4,
       SHU_TRN 6, SHU_TRN 7, SHU_TRN 8, SHU_TRN 9, BTN_DUP, BTN_LINES_IN, BTN_REJECT, BTN_STAT, SHU_CNP_TX, SHU_CTX_MISS])]⟩
  | .roceRdmaReadRequest => some ⟨[.mem, .poison, .clk, .mesh, .core, .cache, .coh, .shu, .iotlb, .hrn, .ras],
      [logRegs, vecRegs, iotlbRegs, qpRegs, (· ∈ [SHU_TRN 0, SHU_TRN 1, SHU_TRN 10, SHU_TRN 11, SHU_TRN 2, SHU_TRN 3, SHU_TRN 4, SHU_TRN 6,
       SHU_TRN 7, SHU_TRN 8, SHU_TRN 9, SHU_CNP_TX, SHU_CTX_MISS])]⟩
  | .readResponseSend _ => some ⟨[.mem, .poison, .mesh, .core, .cache, .coh, .shu, .iotlb, .hrn, .ras], [logRegs, vecRegs, iotlbRegs, qpRegs]⟩
  | .roceReadResponse => some ⟨[.mem, .poison, .clk, .mesh, .core, .cache, .coh, .shu, .iotlb, .hrn, .ras],
      [logRegs, vecRegs, iotlbRegs, qpRegs, (· ∈ [SHU_TRN 0, SHU_TRN 1, SHU_TRN 10, SHU_TRN 2, SHU_TRN 3, SHU_TRN 4, SHU_TRN 8, SHU_CNP_TX,
       SHU_CTX_MISS]), anyOf fun i => SHU_TRN i]⟩
  | .roceAcknowledge => some ⟨[.mem, .poison, .clk, .mesh, .core, .cache, .coh, .shu, .iotlb, .hrn, .ras],
      [logRegs, vecRegs, iotlbRegs, qpRegs, (· ∈ [SHU_TRN 0, SHU_TRN 1, SHU_TRN 2, SHU_TRN 3, SHU_TRN 4, SHU_TRN 7, SHU_TRN 8, SHU_TRN 9,
       SHU_CNP_TX, SHU_CTX_MISS, SHU_RETX])]⟩
  | .roceCnp => some ⟨[.mem, .poison, .clk, .mesh, .core, .cache, .coh, .shu, .iotlb, .hrn, .ras],
      [logRegs, vecRegs, iotlbRegs, qpRegs, (· ∈ [SHU_TRN 1, SHU_TRN 13, SHU_TRN 2, SHU_TRN 3, SHU_TRN 4, SHU_CNP_TX, SHU_CTX_MISS])]⟩
  | .ackTimeout _ => some ⟨[.mem, .poison, .clk, .mesh, .core, .cache, .coh, .shu, .iotlb, .hrn, .ras],
      [timeRegs, logRegs, vecRegs, iotlbRegs, qpRegs, (· ∈ [SHU_RETX])]⟩
  | .rnrTimerExpiry _ => some ⟨[.mem, .poison, .clk, .mesh, .core, .cache, .coh, .shu, .iotlb, .hrn, .ras],
      [timeRegs, logRegs, vecRegs, iotlbRegs, qpDoneRegs, (· ∈ [SHU_RETX])]⟩
  | .responderAckTimer _ => some ⟨[.shu], []⟩
  | .cnpRateIncrease _ => some ⟨[.clk, .shu], [timeRegs]⟩
  | .xformLaneStart _ => some ⟨[.mem, .poison, .mesh, .core, .cache, .coh, .loom, .xf, .iotlb, .hrn, .ras],
      [logRegs, iotlbRegs, (· ∈ [XF_FORMAT_FAIL, XF_KEY_MISS, XF_OUT_FULL, XF_REQ, XF_STAT, XF_TAG_FAIL]), anyOf XF_SLOT]⟩
  | .xformComplete _ => some ⟨[.mem, .poison, .clk, .mesh, .core, .cache, .coh, .loom, .xf, .iotlb, .hrn, .ras],
      [logRegs, iotlbRegs, (· ∈ [XF_BYTES_IN, XF_BYTES_OUT, XF_FORMAT_FAIL, XF_OUT_FULL, XF_REQ, XF_STAT, XF_TAG_FAIL])]⟩
  | .keyLoad _ slot _ _ _ => some ⟨[.mem, .poison, .mesh, .core, .cache, .coh, .xf, .hrn, .dby],
      [irqRegs, (· ∈ [XF_SLOT slot, DBY_BUSY, DBY_CARDS, DBY_REFUSED, XF_STAT])]⟩
  | .iotlbInvalidateFunction _ _ _ => some ⟨[.iotlb], [anyOf fun i => PE_IOTLB_INV i]⟩
  | .iotlbInvalidatePage _ _ _ => some ⟨[.iotlb], [anyOf fun i => PE_IOTLB_INV i]⟩
  | .iotlbInvalidateDone _ => some ⟨[], [(· ∈ [PE_IOTLB_INVCNT]), anyOf fun i => PE_IOTLB_INV i]⟩
  | .pcieErrorMessage _ _ _ _ => some ⟨[.mem, .poison, .clk, .mesh, .core, .cache, .coh, .loom, .drv, .pick, .hrn, .ras],
      [logRegs, (· ∈ [DQ_CMDS, LOOM_INFLIGHT, PICK_STAT]), anyOf DQ_CTRL_A, anyOf DQ_QP, anyOf PE_PORT_STAT, anyOf PICK_CLK_STAT]⟩
  | _ => none
/-- The harts (chapters 03, 05 and 12 to 14) and the Harness (chapter 16). -/
def hartFrame (c : Instr) : Option Frame :=
  match c with
  | .instructionExecute _ _ => some ⟨[.mem, .poison, .clk, .mesh, .core, .cache, .coh, .hrn, .ras, .dbg], [timeRegs, logRegs, issueRegs]⟩
  | .load _ _ _ _ _ _ _ => some ⟨[.mem, .poison, .clk, .mesh, .core, .cache, .coh, .hrn, .ras, .dbg],
      [timeRegs, logRegs, issueRegs, anyOf CORE_FWD_PARTIAL, anyOf CORE_L1D_MISS, anyOf CORE_L2_MISS, anyOf CORE_PF_HIT]⟩
  | .store _ _ _ _ _ _ _ => some ⟨[.mem, .poison, .clk, .mesh, .core, .cache, .coh, .hrn, .ras, .dbg], [timeRegs, logRegs, issueRegs]⟩
  | .storeDrain _ => some ⟨[.mesh, .core, .cache, .coh, .hrn, .ras, .dbg],
      [logRegs, anyOf CORE_BP_FLUSH, anyOf CORE_L1D_MISS, anyOf CORE_L2_MISS, anyOf CORE_PF_HIT, anyOf CORE_STREAM_LINES]⟩
  | .amo _ _ _ _ _ _ => some ⟨[.mem, .poison, .clk, .mesh, .core, .cache, .coh, .hrn, .ras, .dbg],
      [timeRegs, logRegs, issueRegs, anyOf CORE_L1D_MISS, anyOf CORE_L2_MISS, anyOf CORE_PF_HIT]⟩
  | .loadReserved _ _ _ _ => some ⟨[.mem, .poison, .clk, .mesh, .core, .cache, .coh, .hrn, .ras, .dbg],
      [timeRegs, logRegs, issueRegs, anyOf CORE_L1D_MISS, anyOf CORE_L2_MISS, anyOf CORE_PF_HIT]⟩
  | .storeConditional _ _ _ _ _ => some ⟨[.mem, .poison, .clk, .mesh, .core, .cache, .coh, .hrn, .ras, .dbg],
      [timeRegs, logRegs, issueRegs, anyOf CORE_L1D_MISS, anyOf CORE_L2_MISS, anyOf CORE_PF_HIT]⟩
  | .branchMispredict _ _ => some ⟨[], [anyOf CORE_BR_MISP]⟩
  | .memoryOrderFlush _ _ _ => some ⟨[.core], [anyOf CORE_MEMORDER_FLUSH]⟩
  | .loadReplay _ => some ⟨[.mesh, .core, .cache, .coh, .hrn, .ras, .dbg], [logRegs, anyOf CORE_BP_FLUSH]⟩
  | .exception _ _ _ _ => some ⟨[.core, .cache, .dbg], [anyOf CORE_BP_FLUSH]⟩
  | .interruptTaken _ => some ⟨[.core, .cache, .dbg], [anyOf CORE_BP_FLUSH]⟩
  | .xret _ _ => some ⟨[.mem, .poison, .clk, .mesh, .core, .cache, .coh, .hrn, .ras, .dbg], [timeRegs, logRegs, issueRegs]⟩
  | .fence _ _ => some ⟨[.mem, .poison, .clk, .mesh, .core, .cache, .coh, .hrn, .ras, .dbg], [timeRegs, logRegs, issueRegs]⟩
  | .fenceI _ => some ⟨[.mem, .poison, .clk, .mesh, .core, .cache, .coh, .hrn, .ras, .dbg], [timeRegs, logRegs, issueRegs]⟩
  | .csrWrite _ _ _ _ _ _ => some ⟨[.mem, .poison, .clk, .mesh, .core, .cache, .coh, .hrn, .ras, .dbg],
      [timeRegs, logRegs, issueRegs, anyOf CORE_DET_SWITCH]⟩
  | .pause _ => some ⟨[.mem, .poison, .clk, .mesh, .core, .cache, .coh, .hrn, .ras, .dbg], [timeRegs, logRegs, issueRegs]⟩
  | .prefetchI _ _ _ => some ⟨[.mem, .poison, .clk, .mesh, .core, .cache, .coh, .hrn, .ras, .dbg], [timeRegs, logRegs, issueRegs, anyOf CORE_L2_MISS]⟩
  | .prefetchR _ _ _ => some ⟨[.mem, .poison, .clk, .mesh, .core, .cache, .coh, .hrn, .ras, .dbg], [timeRegs, logRegs, issueRegs, anyOf CORE_L2_MISS]⟩
  | .prefetchW _ _ _ => some ⟨[.mem, .poison, .clk, .mesh, .core, .cache, .coh, .hrn, .ras, .dbg], [timeRegs, logRegs, issueRegs, anyOf CORE_L2_MISS]⟩
  | .cboZero _ _ => some ⟨[.mem, .poison, .clk, .mesh, .core, .cache, .coh, .hrn, .ras, .dbg], [timeRegs, logRegs, issueRegs]⟩
  | .cboClean _ _ => some ⟨[.mem, .poison, .clk, .mesh, .core, .cache, .coh, .hrn, .ras, .dbg], [timeRegs, logRegs, issueRegs]⟩
  | .cboFlush _ _ => some ⟨[.mem, .poison, .clk, .mesh, .core, .cache, .coh, .hrn, .ras, .dbg], [timeRegs, logRegs, issueRegs]⟩
  | .cboInval _ _ => some ⟨[.mem, .poison, .clk, .mesh, .core, .cache, .coh, .hrn, .ras, .dbg], [timeRegs, logRegs, issueRegs]⟩
  | .sfenceVma _ _ _ => some ⟨[.mem, .poison, .clk, .mesh, .core, .cache, .coh, .hrn, .ras, .dbg], [timeRegs, logRegs, issueRegs]⟩
  | .hfenceVvma _ _ _ => some ⟨[.mem, .poison, .clk, .mesh, .core, .cache, .coh, .hrn, .ras, .dbg], [timeRegs, logRegs, issueRegs]⟩
  | .hfenceGvma _ _ => some ⟨[.mem, .poison, .clk, .mesh, .core, .cache, .coh, .hrn, .ras, .dbg], [timeRegs, logRegs, issueRegs]⟩
  | .deterministicEnter _ _ _ _ _ => some ⟨[.mem, .poison, .clk, .mesh, .core, .cache, .coh, .hrn, .ras, .dbg],
      [timeRegs, logRegs, issueRegs, anyOf CORE_DET_SWITCH]⟩
  | .deterministicExit _ _ _ _ _ => some ⟨[.mem, .poison, .clk, .mesh, .core, .cache, .coh, .hrn, .ras, .dbg],
      [timeRegs, logRegs, issueRegs, anyOf CORE_DET_SWITCH]⟩
  | .coreBpctlFlush _ _ _ _ _ => some ⟨[.mem, .poison, .clk, .mesh, .core, .cache, .coh, .hrn, .ras, .dbg],
      [timeRegs, logRegs, issueRegs, anyOf CORE_DET_SWITCH]⟩
  | .coreBpctxWrite _ _ _ _ _ => some ⟨[.mem, .poison, .clk, .mesh, .core, .cache, .coh, .hrn, .ras, .dbg],
      [timeRegs, logRegs, issueRegs, anyOf CORE_DET_SWITCH]⟩
  | .coreFpctlWrite _ _ _ _ _ => some ⟨[.mem, .poison, .clk, .mesh, .core, .cache, .coh, .hrn, .ras, .dbg],
      [timeRegs, logRegs, issueRegs, anyOf CORE_DET_SWITCH]⟩
  | .fpsync _ => some ⟨[.mem, .poison, .clk, .mesh, .core, .cache, .coh, .hrn, .ras, .dbg], [timeRegs, logRegs, issueRegs]⟩
  | .wgate _ _ => some ⟨[.mem, .poison, .clk, .mesh, .core, .cache, .coh, .hrn, .ras, .dbg],
      [timeRegs, logRegs, issueRegs, (· ∈ [SEL_GATE_OK, SEL_GATE_REFUSED]), anyOf SEL_GATE_FAULT]⟩
  | .wland _ => some ⟨[.mem, .poison, .clk, .mesh, .core, .cache, .coh, .hrn, .ras, .dbg], [timeRegs, logRegs, issueRegs]⟩
  | .btnMac _ _ _ _ _ => some ⟨[.mem, .poison, .clk, .mesh, .core, .cache, .coh, .hrn, .ras, .dbg], [timeRegs, logRegs, issueRegs]⟩
  | .btnXor _ _ _ _ => some ⟨[.mem, .poison, .clk, .mesh, .core, .cache, .coh, .hrn, .ras, .dbg], [timeRegs, logRegs, issueRegs]⟩
  | .btnWopen _ _ _ _ => some ⟨[.mem, .poison, .clk, .mesh, .core, .cache, .coh, .btn, .loom, .hrn, .ras, .dbg],
      [timeRegs, logRegs, issueRegs, winRegs]⟩
  | .btnWclose _ _ _ => some ⟨[.mem, .poison, .clk, .mesh, .core, .cache, .coh, .btn, .hrn, .ras, .dbg],
      [timeRegs, logRegs, issueRegs, anyOf BTN_WIN_STATE]⟩
  | .btnWabort _ _ _ => some ⟨[.mem, .poison, .clk, .mesh, .core, .cache, .coh, .btn, .hrn, .ras, .dbg],
      [timeRegs, logRegs, issueRegs, anyOf BTN_WIN_STATE]⟩
  | .btnFence _ _ => some ⟨[.mem, .poison, .clk, .mesh, .core, .cache, .coh, .hrn, .ras, .dbg], [timeRegs, logRegs, issueRegs]⟩
  | .wiredLineChange src _ => some ⟨[.mesh, .hrn], [(· ∈ [HRN_SRC src])]⟩
  | .vectorRaise vec => some ⟨[.mesh, .hrn], [(· ∈ [HRN_VEC vec, HRN_VEC_DROP])]⟩
  | .hrnSrcEnable _ src _ => some ⟨[.mesh, .hrn], [(· ∈ [HRN_SRC src])]⟩
  | .hrnSrcDisable _ src _ => some ⟨[.mesh, .hrn], [(· ∈ [HRN_SRC src])]⟩
  | .hrnThreshWrite _ hart file _ => some ⟨[.io, .mesh, .hrn], [(· ∈ [HRN_THRESH hart file])]⟩
  | .hrnClaimRead _ hart file => some ⟨[.io, .hrn], [irqRegs, (· ∈ [HRN_ISRV hart file, HRN_CHAINS, HRN_CLAIMS, HRN_SPURIOUS]), anyOf HRN_VEC]⟩
  | .hrnCompleteWrite _ hart file _ => some ⟨[.io, .mesh, .hrn], [irqRegs, (· ∈ [HRN_ISRV hart file, HRN_BAD_COMPLETE])]⟩
  | .hrnChainRead _ hart file => some ⟨[.io, .mesh, .hrn], [irqRegs, (· ∈ [HRN_ISRV hart file, HRN_CHAINS, HRN_CLAIMS, HRN_SPURIOUS]), anyOf HRN_VEC]⟩
  | .hrnMsipWrite _ hart file _ => some ⟨[.io, .mesh, .hrn], [(· ∈ [HRN_MSIP hart file])]⟩
  | .hrnTimecmpWrite _ hart file _ => some ⟨[.io, .mesh, .hrn], [(· ∈ [HRN_TIMECMP hart file])]⟩
  | .timerCompareMatch _ _ => some ⟨[.clk, .mesh, .hrn], [timeRegs]⟩
  | .eipSet _ _ => some ⟨[.mesh, .hrn], []⟩
  | .eipClr _ _ => some ⟨[.mesh, .hrn], []⟩
  | .msipSet _ _ => some ⟨[.mesh, .hrn], []⟩
  | .msipClr _ _ => some ⟨[.mesh, .hrn], []⟩
  | .tipSet _ _ => some ⟨[.mesh, .hrn], []⟩
  | .tipClr _ _ => some ⟨[.mesh, .hrn], []⟩
  | .undelivered _ _ => some ⟨[.mesh, .hrn], [(· ∈ [HRN_UNDELIVERED])]⟩
  | .edgeLatchCapture _ _ => some ⟨[.hrn], []⟩
  | .edgeLatchTransfer => some ⟨[.mesh, .hrn], [irqRegs]⟩
  | _ => none
/-- The accesses by address (chapter 01) and the management of the device (chapters 17 to 23). -/
def deviceFrame (c : Instr) : Option Frame :=
  match c with
  | .registerWrite _ _ _ _ _ _ => some ⟨allParts, [anyReg]⟩
  | .leaseRingRead _ _ _ _ => some ⟨[.io, .mesh, .hrn, .dby, .ras],
      [logRegs, (· ∈ [HRN_CHAINS, HRN_CLAIMS, HRN_SPURIOUS]), anyOf2 HRN_ISRV, anyOf HRN_VEC]⟩
  | .leaseRingWrite _ _ _ _ _ => some ⟨allParts, [anyReg]⟩
  | .leaseRingPing _ _ _ _ => some ⟨[.io, .mesh, .hrn, .dby, .ras], [logRegs]⟩
  | .ringFrameTimeout _ => some ⟨[.mesh, .hrn, .dby, .ras], [logRegs]⟩
  | .pcieInboundWrite _ _ _ _ _ => some ⟨[.mem, .poison, .clk, .io, .mesh, .core, .cache, .coh, .btn, .loom, .drv, .pick, .iotlb, .hrn, .ras],
      [logRegs, iotlbRegs, (· ∈ [BTN_DUP, BTN_LINES_IN, BTN_REJECT, BTN_STAT, DQ_CMDS, DQ_LATE_CPL, LOOM_INFLIGHT, LOOM_REVOKED_DMA, PE_DMA_FAULT,
       PE_HANDLE_REJECT, PICK_STAT]), anyOf DQ_CTRL_A, anyOf DQ_QP, anyOf PE_PORT_STAT, anyOf PICK_CLK_IDX, anyOf PICK_CLK_STAT, anyOf SEL_DENY]⟩
  | .pcieInboundRead _ _ _ _ => some ⟨[.mem, .poison, .io, .mesh, .core, .cache, .coh, .drv, .iotlb, .hrn, .ras],
      [logRegs, iotlbRegs, (· ∈ [LOOM_REVOKED_DMA, PE_DMA_FAULT, PE_HANDLE_REJECT]), anyOf SEL_DENY]⟩
  | .neighbourThermalStep _ _ _ _ _ => some ⟨[.clk, .mesh, .hrn, .ras, .pwr], [timeRegs, logRegs]⟩
  | .ioAccess _ _ => some ⟨allParts, [anyReg]⟩
  | .dbyRingProdWrite _ _ _ => some ⟨[.io], [anyOf DBY_RING_PROD]⟩
  | .dbyRingRconsWrite _ _ _ => some ⟨[.io, .mesh, .hrn], [irqRegs, anyOf DBY_RING_RCONS]⟩
  | .cardConsume _ => some ⟨[.mem, .poison, .mesh, .core, .cache, .coh, .hrn, .dby],
      [irqRegs, (· ∈ [DBY_BUSY, DBY_CARDS, DBY_REFUSED, DBY_RING_STALL, DBY_STAT]), anyOf DBY_RING_CFG]⟩
  | .mctpMessage _ _ => some ⟨[.mem, .poison, .mesh, .core, .cache, .coh, .hrn, .dby], [irqRegs, (· ∈ [DBY_BUSY, DBY_CARDS, DBY_REFUSED, DBY_STAT])]⟩
  | .mailboxCard _ => some ⟨[.mem, .poison, .mesh, .core, .cache, .coh, .hrn, .dby], [irqRegs, (· ∈ [DBY_BUSY, DBY_CARDS, DBY_REFUSED, DBY_STAT])]⟩
  | .cardServe _ _ => some ⟨[.mem, .poison, .clk, .io, .fuses, .mesh, .core, .cache, .coh, .btn, .loom, .drv, .pick, .xf, .shu, .iotlb, .crl, .hrn,
      .mc, .dby, .ras, .pwr, .boot, .dbg],
      [anyReg]⟩
  | .cardClassAged _ => some ⟨[.clk, .dby], [timeRegs]⟩
  | .dbyRingEnable _ _ _ => some ⟨[.mem, .poison, .io, .mesh, .core, .cache, .coh, .hrn, .dby],
      [irqRegs, anyOf DBY_RING_CFG, anyOf DBY_RING_PROD, anyOf DBY_RING_RCONS]⟩
  | .dbyRingDisable _ _ _ => some ⟨[.mem, .poison, .io, .mesh, .core, .cache, .coh, .hrn, .dby],
      [irqRegs, anyOf DBY_RING_CFG, anyOf DBY_RING_PROD, anyOf DBY_RING_RCONS]⟩
  | .dbyRingDisableDone _ => some ⟨[.dby], [anyOf DBY_RING_CFG]⟩
  | .dobbyWatchdogExpiry => some ⟨[.mem, .poison, .clk, .mesh, .core, .cache, .coh, .hrn, .dby, .ras],
      [timeRegs, logRegs, (· ∈ [DBY_BUSY, DBY_REFUSED, DBY_RESTARTS, DBY_STAT])]⟩
  | .cardPairMismatch _ => some ⟨[.mem, .poison, .mesh, .core, .cache, .coh, .hrn, .dby, .ras],
      [logRegs, (· ∈ [DBY_BUSY, DBY_REFUSED, DBY_RESTARTS, DBY_STAT]), anyOf DBY_RING_CFG]⟩
  | .safetyPairMismatch => some ⟨[.mem, .poison, .mesh, .core, .cache, .coh, .crl, .hrn, .dby, .ras],
      [logRegs, (· ∈ [CREEL_FAULTS, CREEL_KEY_LOSS, CREEL_STAT, DBY_BUSY, DBY_REFUSED, DBY_STAT]), anyOf CREEL_CH_STAT]⟩
  | .infoIdentify _ => some ⟨[.mem, .poison, .mesh, .core, .cache, .coh, .hrn, .dby], [irqRegs, (· ∈ [DBY_BUSY, DBY_CARDS, DBY_REFUSED])]⟩
  | .infoCaps _ => some ⟨[.mem, .poison, .mesh, .core, .cache, .coh, .hrn, .dby], [irqRegs, (· ∈ [DBY_BUSY, DBY_CARDS, DBY_REFUSED])]⟩
  | .infoTelemetry _ _ => some ⟨[.mem, .poison, .clk, .mesh, .core, .cache, .coh, .hrn, .dby], [irqRegs, (· ∈ [DBY_BUSY, DBY_CARDS, DBY_REFUSED])]⟩
  | .setStateWoven _ => some ⟨allParts, [anyReg]⟩
  | .setStateSlack _ => some ⟨allParts, [anyReg]⟩
  | .setStateDoffed _ => some ⟨allParts, [anyReg]⟩
  | .setStateDark _ => some ⟨allParts, [anyReg]⟩
  | .powerGetState _ => some ⟨[.mem, .poison, .mesh, .core, .cache, .coh, .hrn, .dby], [irqRegs, (· ∈ [DBY_BUSY, DBY_CARDS, DBY_REFUSED])]⟩
  | .powerSetProfile _ _ => some ⟨[.mem, .poison, .mesh, .core, .cache, .coh, .hrn, .dby, .pwr],
      [transRegs, irqRegs, (· ∈ [DBY_BUSY, DBY_CARDS, DBY_REFUSED, DBY_STAT, DIR_CFG, LOOM_CFG, MESH_CFG, PICK_CFG]), anyOf CORE_PF_CFG,
       anyOf LLC_CFG, anyOf MC_CFG, anyOf nodeBase]⟩
  | .powerRefusals _ _ => some ⟨[.mem, .poison, .mesh, .core, .cache, .coh, .hrn, .dby], [irqRegs, (· ∈ [DBY_BUSY, DBY_CARDS, DBY_REFUSED])]⟩
  | .parkComplete => some ⟨allParts, [anyReg]⟩
  | .slackWakeEvent _ => some ⟨allParts, [anyReg]⟩
  | .doffedWritebackDone => some ⟨allParts, [anyReg]⟩
  | .doffedEntryAbort => some ⟨[.mem, .poison, .clk, .mesh, .core, .cache, .coh, .hrn, .dby, .pwr],
      [timeRegs, transRegs, irqRegs, (· ∈ [DBY_BUSY, DBY_REFUSED, DBY_STAT, PWR_STATE])]⟩
  | .doffedWakeEvent _ => some ⟨allParts, [anyReg]⟩
  | .wakeStepReady => some ⟨[.mem, .poison, .clk, .mesh, .core, .cache, .coh, .crl, .hrn, .dby, .pwr],
      [irqRegs, (· ∈ [DBY_BUSY, DBY_REFUSED, DBY_STAT, PWR_STATE]), anyOf nodeBase]⟩
  | .wakeStepTimeout unit _ => some ⟨[.mem, .poison, .clk, .mesh, .core, .cache, .coh, .btn, .hrn, .mc, .dby, .ras, .pwr, .dbg],
      [timeRegs, logRegs, transRegs, (· ∈ [MC_CFG unit, MESH_FENCE_CTL (mcNode unit), MESH_FENCE_STAT (mcNode unit), nodeBase (mcNode unit),
       DBY_BUSY, DBY_REFUSED, DBY_STAT, PWR_STATE]), anyOf DBG_TRC_STAT, anyOf MC_ILV]⟩
  | .darkWake _ => some ⟨allParts, [anyReg]⟩
  | .darkWakeStepTimeout _ => some ⟨allParts, [anyReg]⟩
  | .wakeRetry => some ⟨allParts, [anyReg]⟩
  | .treadlePatternWake _ => some ⟨allParts, [anyReg]⟩
  | .treadleEdgeWake _ => some ⟨allParts, [anyReg]⟩
  | .treadlePairCheck _ => some ⟨[.mesh, .hrn], [(· ∈ [HRN_SRC 33, TRD_STAT])]⟩
  | .latchWake _ _ => some ⟨allParts, [anyReg]⟩
  | .rtcAlarm => some ⟨allParts, [anyReg]⟩
  | .timeOfsCapture => some ⟨[.clk], [timeRegs, (· ∈ [TRD_TIME_OFS])]⟩
  | .powerLimitSample _ => some ⟨[.mesh, .hrn, .ras, .pwr], [logRegs]⟩
  | .powerLimitStep => some ⟨[.clk, .pwr], [timeRegs]⟩
  | .tileThermalStep _ _ _ => some ⟨[.clk, .mesh, .hrn, .pwr], [timeRegs, irqRegs]⟩
  | .pmbusNoAnswer _ => some ⟨[.mesh, .hrn, .ras, .pwr], [logRegs]⟩
  | .vrPgLoss _ => some ⟨allParts, [anyReg]⟩
  | .crdLinkFrame _ feed _ _ _ _ _ => some ⟨[.crl], [(· ∈ [CREEL_CH_CUR feed, CREEL_CH_STAT feed, CREEL_STAT])]⟩
  | .crdLinkLoss _ => some ⟨[.clk, .crl], [timeRegs, (· ∈ [CREEL_STAT])]⟩
  | .linkKeyWithdraw _ => some ⟨[.mem, .poison, .clk, .mesh, .core, .cache, .coh, .crl, .hrn, .dby, .ras],
      [timeRegs, logRegs, (· ∈ [CREEL_FAULTS, CREEL_KEY_LOSS, CREEL_STAT, DBY_BUSY, DBY_REFUSED, DBY_STAT]), anyOf CREEL_CH_STAT]⟩
  | .hostSideReset => some ⟨[.crl], [(· ∈ [CREEL_HOLDS, CREEL_STAT]), anyOf CREEL_CH_STAT]⟩
  | .interlockChange feed _ _ => some ⟨[.mem, .poison, .mesh, .core, .cache, .coh, .crl, .hrn, .dby, .ras],
      [logRegs, (· ∈ [CREEL_CH_STAT feed, CREEL_FAULTS, CREEL_STAT, DBY_BUSY, DBY_REFUSED, DBY_STAT])]⟩
  | .safetyKeyDecision feed => some ⟨[.mem, .poison, .mesh, .core, .cache, .coh, .crl, .hrn, .dby, .ras],
      [logRegs, (· ∈ [CREEL_CH_STAT feed, CREEL_FAULTS, CREEL_STAT, DBY_BUSY, DBY_REFUSED, DBY_STAT])]⟩
  | .feedOn _ feed _ _ => some ⟨[.mem, .poison, .mesh, .core, .cache, .coh, .crl, .hrn, .dby],
      [transRegs, irqRegs, (· ∈ [CREEL_CH_STAT feed, CREEL_BUDGET_REFUSE, CREEL_STAT, DBY_BUSY, DBY_CARDS, DBY_REFUSED, DBY_STAT])]⟩
  | .feedKeyWaitTimeout feed => some ⟨[.mem, .poison, .clk, .mesh, .core, .cache, .coh, .crl, .hrn, .dby],
      [timeRegs, irqRegs, (· ∈ [CREEL_CH_STAT feed, CREEL_STAT, DBY_BUSY, DBY_REFUSED, DBY_STAT])]⟩
  | .feedStart feed _ => some ⟨[.mem, .poison, .clk, .mesh, .core, .cache, .coh, .crl, .hrn, .dby, .ras],
      [timeRegs, logRegs, (· ∈ [CREEL_CH_STAT feed, CREEL_FAULTS, CREEL_STAT, DBY_BUSY, DBY_REFUSED, DBY_STAT])]⟩
  | .feedRegulation feed => some ⟨[.mem, .poison, .clk, .mesh, .core, .cache, .coh, .drv, .crl, .hrn, .dby],
      [timeRegs, irqRegs, (· ∈ [CREEL_CH_STAT feed, CREEL_ON, CREEL_STAT, DBY_BUSY, DBY_REFUSED, DBY_STAT])]⟩
  | .feedRampTimeout feed => some ⟨[.mem, .poison, .clk, .mesh, .core, .cache, .coh, .crl, .hrn, .dby, .ras],
      [timeRegs, logRegs, (· ∈ [CREEL_CH_STAT feed, CREEL_FAULTS, CREEL_STAT, DBY_BUSY, DBY_REFUSED, DBY_STAT])]⟩
  | .feedDetectorTrip _ _ _ => some ⟨[.mem, .poison, .mesh, .core, .cache, .coh, .crl, .hrn, .dby, .ras],
      [logRegs, (· ∈ [CREEL_FAULTS, CREEL_STAT, DBY_BUSY, DBY_REFUSED, DBY_STAT]), anyOf CREEL_CH_STAT]⟩
  | .fetShortCheck feed _ => some ⟨[.clk, .mesh, .crl, .hrn, .ras], [timeRegs, logRegs, (· ∈ [CREEL_CH_STAT feed, CREEL_FAULTS, CREEL_STAT])]⟩
  | .spinReservationEnd _ => some ⟨[.clk, .crl], [timeRegs, (· ∈ [CREEL_STAT])]⟩
  | .feedRetry feed _ => some ⟨[.mem, .poison, .clk, .mesh, .core, .cache, .coh, .crl, .hrn, .dby, .ras],
      [timeRegs, logRegs, transRegs, (· ∈ [CREEL_CH_STAT feed, CREEL_BUDGET_REFUSE, CREEL_FAULTS, CREEL_STAT, DBY_BUSY, DBY_REFUSED, DBY_STAT])]⟩
  | .feedOff _ _ _ => some ⟨[.mem, .poison, .clk, .mesh, .core, .cache, .coh, .loom, .drv, .pick, .crl, .hrn, .dby, .ras],
      [logRegs, transRegs, (· ∈ [CREEL_STAT, DBY_BUSY, DBY_CARDS, DBY_REFUSED, DBY_STAT, DQ_CMDS, LOOM_INFLIGHT, PICK_STAT]), anyOf CREEL_CH_STAT,
       anyOf DQ_CTRL_A, anyOf DQ_QP, anyOf PE_PORT_STAT, anyOf PICK_CLK_STAT]⟩
  | .feedRampdownDone feed => some ⟨[.mem, .poison, .mesh, .core, .cache, .coh, .crl, .hrn, .dby],
      [irqRegs, (· ∈ [CREEL_CH_STAT feed, CREEL_HOLD_END, CREEL_STAT, DBY_BUSY, DBY_REFUSED, DBY_STAT])]⟩
  | .feedStatus _ _ => some ⟨[.mem, .poison, .mesh, .core, .cache, .coh, .hrn, .dby], [irqRegs, (· ∈ [DBY_BUSY, DBY_CARDS, DBY_REFUSED])]⟩
  | .feedBudget _ _ _ => some ⟨[.mem, .poison, .mesh, .core, .cache, .coh, .hrn, .dby],
      [irqRegs, (· ∈ [CREEL_CFG, DBY_BUSY, DBY_CARDS, DBY_REFUSED])]⟩
  | .feedReclaim _ _ _ => some ⟨[.mem, .poison, .mesh, .core, .cache, .coh, .crl, .hrn, .dby],
      [irqRegs, (· ∈ [CREEL_CFG, CREEL_RECLAIMED, CREEL_STAT, DBY_BUSY, DBY_CARDS, DBY_REFUSED, DBY_STAT]), anyOf CREEL_CH_STAT]⟩
  | .holdEnd => some ⟨[.mem, .poison, .clk, .mesh, .core, .cache, .coh, .crl, .hrn, .dby],
      [timeRegs, irqRegs, (· ∈ [CREEL_STAT, DBY_BUSY, DBY_REFUSED, DBY_STAT]), anyOf CREEL_CH_STAT]⟩
  | .holdRampdownNext => some ⟨[.mem, .poison, .clk, .mesh, .core, .cache, .coh, .crl, .hrn, .dby],
      [timeRegs, irqRegs, (· ∈ [CREEL_STAT, DBY_BUSY, DBY_REFUSED, DBY_STAT]), anyOf CREEL_CH_STAT]⟩
  | .feedSelfTest feed _ => some ⟨[.clk, .mesh, .crl, .hrn, .ras], [timeRegs, logRegs, (· ∈ [CREEL_CH_STAT feed, CREEL_FAULTS, CREEL_STAT])]⟩
  | .diodeReading _ _ _ _ => some ⟨[.mem, .poison, .mesh, .core, .cache, .coh, .crl, .hrn, .dby, .ras],
      [logRegs, (· ∈ [CREEL_FAULTS, CREEL_STAT, DBY_BUSY, DBY_REFUSED, DBY_STAT]), anyOf CREEL_CH_STAT]⟩
  | .thermalTrip _ => some ⟨allParts, [anyReg]⟩
  | .lifeAdvance _ _ _ _ _ => some ⟨[.mem, .poison, .clk, .io, .fuses, .mesh, .core, .cache, .coh, .btn, .loom, .drv, .pick, .xf, .shu, .iotlb,
      .crl, .hrn, .mc, .dby, .ras, .pwr, .boot, .dbg],
      [anyReg]⟩
  | .worldLock _ _ => some ⟨[.mem, .poison, .mesh, .core, .cache, .coh, .hrn, .dby],
      [irqRegs, (· ∈ [DBY_BUSY, DBY_CARDS, DBY_REFUSED, SEL_BLKWORLD, SEL_DRAM_WM, SEL_FLASH_WM, SEL_LOCK, SEL_PORTWORLD, XF_CFG]),
       anyOf SEL_FUNCWORLD, anyOf SEL_SLOTWORLD, anyOf SEL_SRCWORLD, anyOf XF_SLOT]⟩
  | .selDebugWrite _ _ _ => some ⟨[], [(· ∈ [SEL_DEBUG])]⟩
  | .rasReadBanks _ _ _ _ => some ⟨[.mem, .poison, .mesh, .core, .cache, .coh, .hrn, .dby, .ras],
      [irqRegs, (· ∈ [DBY_BUSY, DBY_CARDS, DBY_REFUSED]), anyOf2 fun i j => RAS_ADDR (bankOf i) j, anyOf2 fun i j => RAS_MISC (bankOf i) j,
       anyOf2 fun i j => RAS_STATUS (bankOf i) j, anyOf2 fun i j => RAS_TIME (bankOf i) j]⟩
  | .rasInject _ _ _ _ _ => some ⟨[.mem, .poison, .mesh, .core, .cache, .coh, .hrn, .dby, .ras], [irqRegs, (· ∈ [DBY_BUSY, DBY_CARDS, DBY_REFUSED])]⟩
  | .rasRecordClear _ block slot => some ⟨[.mesh, .hrn, .ras],
      [irqRegs, (· ∈ [RAS_ADDR (bankOf block) slot, RAS_MISC (bankOf block) slot, RAS_STATUS (bankOf block) slot, RAS_TIME (bankOf block) slot])]⟩
  | .errorSummaryAction => some ⟨[.mesh, .hrn, .mc, .ras],
      [logRegs, anyOf MC_CFG, anyOf MC_ILV, anyOf MESH_FENCE_CTL, anyOf MESH_FENCE_STAT, anyOf fun i => nodeBase (mcNode i)]⟩
  | .w1cStatusClear _ addr _ => some ⟨[.io, .mesh, .drv, .hrn, .ras],
      [irqRegs, (· ∈ [addr]), anyOf2 fun i j => RAS_ADDR (bankOf i) j, anyOf fun i => RAS_BANK_CTL (bankOf i),
       anyOf2 fun i j => RAS_MISC (bankOf i) j, anyOf2 fun i j => RAS_STATUS (bankOf i) j, anyOf2 fun i j => RAS_TIME (bankOf i) j]⟩
  | .probeArmComparator _ _ _ _ => some ⟨[.mem, .poison, .mesh, .core, .cache, .coh, .hrn, .dby, .dbg],
      [irqRegs, (· ∈ [DBY_BUSY, DBY_CARDS, DBY_REFUSED])]⟩
  | .probeArmCounter _ _ _ _ => some ⟨[.mem, .poison, .mesh, .core, .cache, .coh, .hrn, .dby, .dbg],
      [irqRegs, (· ∈ [DBY_BUSY, DBY_CARDS, DBY_REFUSED]), anyOf dieCounter]⟩
  | .probeArmTrace _ _ _ => some ⟨[.mem, .poison, .mesh, .core, .cache, .coh, .hrn, .dby, .dbg],
      [irqRegs, (· ∈ [DBY_BUSY, DBY_CARDS, DBY_REFUSED]), anyOf DBG_TRC_STAT]⟩
  | .probeRead _ _ _ _ => some ⟨[.mem, .poison, .mesh, .core, .cache, .coh, .hrn, .dby], [irqRegs, (· ∈ [DBY_BUSY, DBY_CARDS, DBY_REFUSED])]⟩
  | .traceSync die => some ⟨[.clk, .dbg], [timeRegs, (· ∈ [DBG_TRC_STAT die])]⟩
  | .tracePostEnd die => some ⟨[.dbg], [(· ∈ [DBG_TRC_STAT die])]⟩
  | .fwStage _ _ _ _ _ => some ⟨[.mem, .poison, .clk, .mesh, .core, .cache, .coh, .hrn, .dby, .boot],
      [irqRegs, (· ∈ [DBY_BUSY, DBY_CARDS, DBY_REFUSED, DBY_STAT])]⟩
  | .fwActivateNextReset _ _ _ => some ⟨[.mem, .poison, .clk, .fuses, .mesh, .core, .cache, .coh, .hrn, .dby, .boot],
      [irqRegs, (· ∈ [DBY_BUSY, DBY_CARDS, DBY_REFUSED, DBY_STAT, PWR_RSTINFO])]⟩
  | .fwActivateNow _ _ => some ⟨[.mem, .poison, .clk, .mesh, .core, .cache, .coh, .hrn, .dby, .boot],
      [irqRegs, (· ∈ [DBY_BUSY, DBY_CARDS, DBY_REFUSED, DBY_RESTARTS, DBY_STAT, PWR_RSTINFO])]⟩
  | .powerOnReset => some ⟨allParts, [anyReg]⟩
  | .coldResetPin _ => some ⟨allParts, [anyReg]⟩
  | .warmResetPin _ => some ⟨allParts, [anyReg]⟩
  | .pwrResetWarm _ _ => some ⟨allParts, [anyReg]⟩
  | .pwrResetCold _ _ => some ⟨allParts, [anyReg]⟩
  | .bootFlow _ => some ⟨[.mem, .clk, .mesh, .core, .cache, .coh, .drv, .crl, .hrn, .mc, .dby, .ras, .pwr, .boot, .dbg],
      [logRegs, transRegs, (· ∈ [DBY_CHIP_ID, DBY_STAT, DIR_CFG, LOOM_CFG, MESH_CFG, PICK_CFG, PWR_RSTINFO, SEL_DEBUG, SEL_LIFE, SHU_MODE,
       TRD_ABORT]), anyOf CORE_PF_CFG, anyOf CREEL_CH_CFG, anyOf LLC_CFG, anyOf LLC_MAP, anyOf LLC_STAT, anyOf MC_CFG, anyOf MC_ILV, anyOf MC_STAT,
       anyOf fun i => MESH_FENCE_STAT (mcNode i), anyOf MESH_HART_MAP, anyOf PE_PORT_CFG, anyOf SHU_LANE, anyOf nodeBase]⟩
  | .pwrHartGo _ _ => some ⟨[.core, .dbg], [(· ∈ [PWR_HART_GO])]⟩
  | .keeperShelfPatrol _ => some ⟨allParts, [anyReg]⟩
  | .keeperVerifyRequest _ _ _ _ => some ⟨[.mem, .poison, .clk, .mesh, .core, .cache, .coh, .drv, .pick, .hrn],
      [heapRegs, (· ∈ [HRN_SRC 89, DQ_CMDS, LOOM_INFLIGHT, PICK_STAT]), anyOf DQ_QP, anyOf PE_PORT_STAT]⟩
  | .jtagTapReset => some ⟨[.dbg], []⟩
  | .jtagExtest => some ⟨[.dbg], []⟩
  | .jtagSamplePreload _ => some ⟨[.dbg], []⟩
  | .jtagIdcode => some ⟨[.dbg], []⟩
  | .jtagClamp => some ⟨[.dbg], []⟩
  | .jtagHighz => some ⟨[.dbg], []⟩
  | .jtagDmi _ => some ⟨allParts, [anyReg]⟩
  | .jtagDtmcs => some ⟨[.dbg], []⟩
  | .jtagMailbox => some ⟨[.dbg], []⟩
  | .jtagBypass => some ⟨[.dbg], []⟩
  | .dmHaltRequest _ => some ⟨[.core, .dbg], []⟩
  | .dmResume _ => some ⟨[.core, .dbg], []⟩
  | .dmAbstractCommand _ _ => some ⟨allParts, [anyReg]⟩
  | .dmSystemBusAccess _ _ _ _ _ => some ⟨allParts, [anyReg]⟩
  | .channelTrainingTimeout chan => some ⟨[.clk, .mesh, .hrn, .ras, .boot], [timeRegs, logRegs, (· ∈ [MC_CFG chan])]⟩
  | .crdSupplyLoss => some ⟨[.mem, .poison, .mesh, .core, .cache, .coh, .crl, .hrn, .dby],
      [irqRegs, (· ∈ [CREEL_STAT, DBY_BUSY, DBY_REFUSED, DBY_STAT]), anyOf CREEL_CH_CUR, anyOf CREEL_CH_STAT]⟩
  | _ => none

/-! ### What stores reach -/

/-- An address in a reply ring of Dobby or in its producer index (R449). -/
def State.replyArea (s : State) (x : Nat) : Prop :=
  ∃ w : Bool, let i := ringIx w
    let base := s.get (DBY_RING_RBASE i) DBY_RING_RBASE_ADDR * 64
    let ctl := s.get (DBY_RING_CTLA i) DBY_RING_CTLA_ADDR * 64 + 8
    (base ≤ x ∧ x < base + 2 ^ s.get (DBY_RING_CFG i) DBY_RING_CFG_RLOG * 64) ∨ (ctl ≤ x ∧ x < ctl + 4)
/-- Every byte of the coherent view outside `n` bytes from `a` is as before. -/
abbrev Elsewhere (a n : Nat) (s t : State) : Prop := ∀ x, (x < a ∨ a + n ≤ x) → t.cohByte x = s.cohByte x
/-- Byte `a` of the copy of its line that node `n` holds. -/
def State.l2Byte (s : State) (n a : Nat) : Option Byte :=
  (s.l2 n (a / 64)).map fun x => x.data.extractLsb' (a % 64 * 8) 8
/-- The same byte in its eviction buffer. -/
def State.evByte (s : State) (n a : Nat) : Option Byte :=
  (Tab.find s.coh.evbuf (lineKey n (a / 64))).map fun x => x.data.extractLsb' (a % 64 * 8) 8
/-- Hart `h` makes its data accesses in M-mode, without translation. -/
def State.bare (s : State) (h : Nat) : Prop := (s.hart h).priv = 3 ∧ (s.hart h).cf 0x300 17 17 = 0
/-- The hart that executes an instruction; HLV and HSV, which translate in any mode, are left out. -/
def insHart (c : Instr) : Option Nat :=
  match c with
  | .instructionExecute u _ => some u.hart
  | .load u _ _ _ _ _ hyp => if hyp = 0 then some u.hart else none
  | .store u _ _ _ _ _ hyp => if hyp = 0 then some u.hart else none
  | .amo u _ _ _ _ _ => some u.hart
  | .loadReserved u _ _ _ => some u.hart
  | .storeConditional u _ _ _ _ => some u.hart
  | .xret u _ => some u.hart
  | .fence u _ => some u.hart
  | .fenceI u => some u.hart
  | .csrWrite u _ _ _ _ _ => some u.hart
  | .pause u => some u.hart
  | .prefetchI u _ _ => some u.hart
  | .prefetchR u _ _ => some u.hart
  | .prefetchW u _ _ => some u.hart
  | .cboZero u _ => some u.hart
  | .cboClean u _ => some u.hart
  | .cboFlush u _ => some u.hart
  | .cboInval u _ => some u.hart
  | .sfenceVma u _ _ => some u.hart
  | .hfenceVvma u _ _ => some u.hart
  | .hfenceGvma u _ => some u.hart
  | .deterministicEnter u _ _ _ _ => some u.hart
  | .deterministicExit u _ _ _ _ => some u.hart
  | .coreBpctlFlush u _ _ _ _ => some u.hart
  | .coreBpctxWrite u _ _ _ _ => some u.hart
  | .coreFpctlWrite u _ _ _ _ => some u.hart
  | .fpsync u => some u.hart
  | .wgate u _ => some u.hart
  | .wland u => some u.hart
  | .btnMac u _ _ _ _ => some u.hart
  | .btnXor u _ _ _ => some u.hart
  | .btnWopen u _ _ _ => some u.hart
  | .btnWclose u _ _ => some u.hart
  | .btnWabort u _ _ => some u.hart
  | .btnFence u _ => some u.hart
  | _ => none
/-- The commands that write memory only by the replies that they give. -/
def repliesOnly (c : Instr) : Bool :=
  match c with
  | .drainComplete _ | .drainTimeout _ | .tileFence _ _ _ | .tileTest _ _ | .funcQuiesceDone _ | .funcQuiesceTimeout _
  | .funcFreeze _ _ | .funcResume _ _ | .funcReset _ _ | .pickClockCfg _ _ _ _ _ | .pickMapLoad _ _ _ _
  | .pickMode _ _ _ | .shuttlePortCfg _ _ _ _ _ _ _ _ | .portFlushRx _ _ | .portFlushTx _ _ | .shuttleParseCfg _ _
  | .memScrubCfg _ _ _ _ _ _ | .memMirrorSet _ _ _ | .memMirrorResync _ _ | .memSpareRank _ _ _
  | .memPprSoft _ _ _ _ _ _ _ | .memPprHard _ _ _ _ _ _ _ | .memRetire _ _ _ | .mctpMessage _ _ | .mailboxCard _
  | .dobbyWatchdogExpiry | .safetyPairMismatch | .infoIdentify _ | .infoCaps _ | .powerGetState _ | .powerRefusals _ _
  | .doffedEntryAbort | .wakeStepReady | .linkKeyWithdraw _ | .interlockChange _ _ _ | .safetyKeyDecision _
  | .feedOn _ _ _ _ | .feedKeyWaitTimeout _ | .feedStart _ _ | .feedRegulation _ | .feedRampTimeout _
  | .feedDetectorTrip _ _ _ | .feedRetry _ _ | .feedRampdownDone _ | .feedStatus _ _ | .feedBudget _ _ _
  | .feedReclaim _ _ _ | .holdEnd | .holdRampdownNext | .diodeReading _ _ _ _ | .worldLock _ _ | .rasReadBanks _ _ _ _
  | .rasInject _ _ _ _ _ | .probeArmComparator _ _ _ _ | .probeArmCounter _ _ _ _ | .probeArmTrace _ _ _
  | .probeRead _ _ _ _ | .fwStage _ _ _ _ _ | .fwActivateNextReset _ _ _ | .fwActivateNow _ _ | .crdSupplyLoss => true
  | _ => false

end Sys2Proof.Machine
end

