-- ==== Sys2Proof/Certificates/Slice0/Obligations.lean ====
section
/-! DEFINITION. The statements of the model, for the provers: what resets leave, what every family of commands does and that
it completes, what it leaves unchanged, and the invariant of every step. -/

open Sys2Proof Sys2Proof.Machine

/-- R7, R8, R11, R465: a write of 8 bytes sets the fields of type RW, one of 4 bytes only those bits that lie in its half; a writer of the
other world changes nothing; another width or alignment is an access fault that changes no register; a fenced or powered-off
node answers a fault; an offset that holds no register ignores the write. That a write of the other world is ignored without a
fault is the model's reading (assumption log). -/
def Obligations.RegisterWritesComplete : Prop :=
  (∀ (s : State) (w m : Bool) (n a b : Nat) (v : W64),
    (a, b) ∈ [(PWR_WAKE_CFG, 0), (PWR_RESUME, 0), (TRD_ALARM, 0), (TRD_WAKE_MASK, 0), (SHU_QP_ARG, 7), (PE_PORT_PHYS 3, 9), (PE_PORT_PHYS 15, 9)] →
    w = s.blockWorld b →
    s.responder (s.ioNode n a) = false →
    Completes (.registerWrite w m n a 8 v) s fun t =>
      t.io.fault = false ∧ t.mem = s.mem ∧ ∀ d ∈ regFields a, d.fld.get (t.reg a) = d.fld.get v) ∧
  (∀ (s : State) (w m : Bool) (n a b : Nat) (v : W64) (h : Fin 2),
    (a, b) ∈ [(PWR_WAKE_CFG, 0), (PWR_RESUME, 0), (TRD_ALARM, 0), (TRD_WAKE_MASK, 0), (SHU_QP_ARG, 7), (PE_PORT_PHYS 3, 9), (PE_PORT_PHYS 15, 9)] →
    w = s.blockWorld b →
    s.responder (s.ioNode n (a + 4 * h)) = false →
    Completes (.registerWrite w m n (a + 4 * h) 4 v) s fun t =>
      t.io.fault = false ∧ t.mem = s.mem ∧ ∀ i : Fin 64, (regMask a).getLsbD i = true →
      (t.reg a).getLsbD i = (if i.val / 32 = h.val then v.getLsbD (i.val % 32) else (s.reg a).getLsbD i)) ∧
  (∀ (s : State) (w m : Bool) (n a b : Nat) (v : W64),
    (a, b) ∈ [(PWR_WAKE_CFG, 0), (PWR_RESUME, 0), (TRD_ALARM, 0), (TRD_WAKE_MASK, 0), (SHU_QP_ARG, 7), (PE_PORT_PHYS 3, 9), (PE_PORT_PHYS 15, 9)] →
    w ≠ s.blockWorld b →
    s.responder (s.ioNode n a) = false →
    Completes (.registerWrite w m n a 8 v) s fun t =>
      t.io.fault = false ∧ t.mem = s.mem ∧ ∀ d ∈ regFields a, d.fld.get (t.reg a) = d.fld.get (s.reg a)) ∧
  (∀ (s : State) (w m : Bool) (n a k : Nat) (v : W64),
    (¬ (k = 8 ∨ k = 4) ∨ a % k ≠ 0) →
    s.responder (s.ioNode n a) = false →
    Completes (.registerWrite w m n a k v) s fun t =>
      t = { s with io := { s.io with answer := 0, fault := true } }) ∧
  (∀ (s : State) (w m : Bool) (n a k : Nat) (v : W64),
    s.ioNode n a < 224 →
    s.responder (s.ioNode n a) = true →
    Completes (.registerWrite w m n a k v) s fun t =>
      t.io.fault = true ∧ Counted (MESH_RTR_FENCED (s.ioNode n a)) 1 s t ∧ t.mem = s.mem ∧ (a ≠ MESH_RTR_FENCED (s.ioNode n a) → t.reg a = s.reg a)) ∧
  (∀ (s : State) (w m : Bool) (n b o k : Nat) (v : W64),
    b ∈ [0x02, 0x08, 0x10, 0x1B, 0x20, 0x21] →
    o < 0x400000 →
    regWidthOk (blockBase b + o) k = true →
    s.responder (s.ioNode n (blockBase b + o)) = false →
    Completes (.registerWrite w m n (blockBase b + o) k v) s fun t =>
      t = { s with io := { s.io with answer := 0, fault := false } }) ∧
  (∀ (s : State) (w m : Bool) (n f o k : Nat) (v : W64),
    f ≤ 8192 →
    o < 2 ^ 16 →
    regWidthOk (pageBase f + o) k = true →
    s.responder (s.ioNode n (pageBase f + o)) = false →
    n < 224 →
    w ≠ s.funcWorld f →
    Completes (.registerWrite w m n (pageBase f + o) k v) s fun t =>
      t.io.fault = true ∧ Counted (SEL_DENY n) 1 s t ∧ t.loom = s.loom ∧ t.shu = s.shu ∧ ∀ i : Fin 8192, t.reg (pageBase f + 8 * i) = s.reg (pageBase f + 8 * i))

/-- R24, R25, R28, Table 1.9, Table 1.10: a frame comes back with its tag and STAT, with the register's value after a read and the register
written after a write; a stop that is powered off or bypassed gives STAT 2, a second parity failure STAT 4 with a record in
Dobby's bank, an offset that is not a multiple of 8 STAT 3, and a stop that does not exist STAT 0. A frame that is not back
leaves the die's segment bypassed, or the ring down. What happens between the frames is not modelled. -/
def Obligations.LeaseRingCommandsComplete : Prop :=
  (∀ (s : State) (b o g bad : Nat),
    b ∈ [0x00, 0x02, 0x06, 0x10, 0x1B] →
    o < 0xF00000 →
    o % 8 = 0 →
    bad < 2 →
    s.stopLost b = false →
    Completes (.leaseRingRead b o g bad) s fun t =>
      t.dby.frame = { stop := b, op := 1, stat := 1, tag := g, data := readWord (blockBase b + o) (s.reg (blockBase b + o)) } ∧ t.regs = s.regs ∧ t.mem = s.mem) ∧
  (∀ (s : State) (n g bad : Nat),
    n < 224 →
    bad < 2 →
    s.stopLost (0x100 + n) = false →
    Completes (.leaseRingRead (0x100 + n) 0 g bad) s fun t =>
      t.dby.frame = { stop := 0x100 + n, op := 1, stat := 1, tag := g, data := s.reg (MESH_NODE_INFO n) } ∧ t.regs = s.regs ∧ t.mem = s.mem) ∧
  (∀ (s : State) (n g bad : Nat) (v : W64),
    n < 224 →
    bad < 2 →
    s.stopLost (0x100 + n) = false →
    Completes (.leaseRingWrite (0x100 + n) 0 g bad v) s fun t =>
      t.dby.frame = { stop := 0x100 + n, op := 2, stat := 1, tag := g, data := v } ∧ t.reg (MESH_NODE_INFO n) = v &&& regMask (MESH_NODE_INFO n) ∧ t.mem = s.mem) ∧
  (∀ (s : State) (h g bad : Nat) (v : W64),
    h < 192 →
    bad < 2 →
    s.stopLost 0x20 = false →
    Completes (.leaseRingWrite 0x20 (0x1000 + 8 * h) g bad v) s fun t =>
      t.dby.frame = { stop := 0x20, op := 2, stat := 1, tag := g, data := v } ∧ t.get (MESH_HART_MAP h) MESH_HART_MAP_NODE = MESH_HART_MAP_NODE.get v ∧
      t.bit (MESH_HART_MAP h) MESH_HART_MAP_VALID = (MESH_HART_MAP_VALID.get v == 1) ∧ t.mem = s.mem) ∧
  (∀ (s : State) (a g bad : Nat) (v : W64),
    a ∈ [PWR_WAKE_CFG, PWR_RESUME, TRD_ALARM, TRD_WAKE_MASK] →
    bad < 2 →
    s.stopLost 0 = false →
    Completes (.leaseRingWrite 0 (a - blockBase 0) g bad v) s fun t =>
      t.dby.frame = { stop := 0, op := 2, stat := 1, tag := g, data := v } ∧ ∀ d ∈ regFields a, d.fld.get (t.reg a) = d.fld.get v) ∧
  (∀ (s : State) (b o g bad : Nat),
    b ∈ [0x00, 0x02, 0x03, 0x04, 0x05, 0x06, 0x07, 0x08, 0x09, 0x10, 0x1B, 0x20, 0x21, 0x100, 0x1DF] →
    o % 8 = 0 →
    bad < 2 →
    s.stopLost b = false →
    Completes (.leaseRingPing b o g bad) s fun t =>
      t.dby.frame = { stop := b, op := 3, stat := 1, tag := g, data := 0 } ∧ t.regs = s.regs ∧ t.mem = s.mem) ∧
  (∀ (s : State) (b o g bad x : Nat),
    s.dby.ringBroken = false →
    b ∈ [0x00, 0x09, 0x10, 0x20, 0x100, 0x1DF] →
    (s.stopLost b = true ∧ x = 2 ∨ s.stopLost b = false ∧ bad < 2 ∧ o % 8 ≠ 0 ∧ x = 3) →
    Completes (.leaseRingPing b o g bad) s fun t =>
      t.dby.frame = { stop := b, op := 3, stat := x, tag := g, data := 0 } ∧ t.regs = s.regs) ∧
  (∀ (s : State) (b o g bad : Nat) (v : W64),
    s.dby.ringBroken = false →
    b ∈ [0x00, 0x09, 0x10, 0x20, 0x100, 0x1DF] →
    s.stopLost b = false →
    2 ≤ bad →
    Completes (.leaseRingWrite b o g bad v) s fun t =>
      t.dby.frame = { stop := b, op := 2, stat := 4, tag := g, data := v } ∧ Logged 1 2 cLink s t ∧ t.mem = s.mem ∧ t.reg (MESH_NODE_INFO 0) = s.reg (MESH_NODE_INFO 0)) ∧
  (∀ (s : State) (b o g bad : Nat) (v : W64),
    (b ∈ [0x01, 0x0A, 0x1C, 0x22, 0x1E0, 0x200] ∨ s.dby.ringBroken = true ∧ b ∈ [0x00, 0x10, 0x100]) →
    Completes (.leaseRingWrite b o g bad v) s fun t =>
      t.dby.frame = { stop := b, op := 2, stat := 0, tag := g, data := v } ∧ t.regs = s.regs ∧ t.mem = s.mem) ∧
  (∀ (s : State) (d : Nat),
    s.dby.ringBroken = false →
    s.pwr.railC = true →
    d < 4 →
    d ∉ s.dby.ringBypass →
    Completes (.ringFrameTimeout d) s fun t =>
      d ∈ t.dby.ringBypass ∧ Logged 1 2 cTimeout s t ∧ t.stopLost (0x100 + dieFirstNode d) = true ∧ t.dby.ringBroken = false) ∧
  (∀ (s : State),
    s.dby.ringBroken = false →
    Completes (.ringFrameTimeout 4) s fun t =>
      t.dby.ringBroken = true ∧ Logged 1 3 cTimeout s t)

/-- R11, R30, R31, R208 to R211, R336, Table 2.4, Table 7.8: a drive's write to a handle lands at the translated address of its command, a read
of one returns the bytes; a physical request that the port's window and the worlds permit reads or writes DRAM; a request that
nothing permits changes nothing and is recorded. An I/O access of a hart returns the register's value, the answer of a device,
or takes an access fault in M-mode where no delegation is set. -/
def Obligations.InboundAndIoAccessesComplete : Prop :=
  (∀ (s : State) (p r a : Nat) (d : List Byte),
    s.pcieUp p = true →
    p < 16 →
    d ≠ [] →
    a < 2 ^ 46 →
    s.ringPair r a d.length true = none →
    s.inPhys p a d.length = true →
    s.worldOk (s.portWorld p) a = true →
    Completes (.pcieInboundWrite p r a d false) s fun t =>
      (List.range d.length).map (fun k => t.byte (a + k)) = d) ∧
  (∀ (s : State) (p r a n : Nat),
    s.pcieUp p = true →
    p < 16 →
    (1 ≤ n ∧ n ≤ 4096) →
    a < 2 ^ 46 →
    s.ringPair r a n false = none →
    s.inPhys p a n = true →
    s.worldOk (s.portWorld p) a = true →
    Completes (.pcieInboundRead p r a n) s fun t =>
      t = { s with io := { s.io with cpl := 0, data := s.rd a n, ep := s.rdPoison a n } }) ∧
  (∀ (s : State) (p r a : Nat) (d : List Byte) (x : Bool),
    s.pcieUp p = true →
    p < 16 →
    d ≠ [] →
    (a < 2 ^ 46 ∧ s.ringPair r a d.length true = none ∧ s.inPhys p a d.length = false ∨ 2 ^ 47 ≤ a ∧ a < winBase ∨ winBase + 2 ^ 32 ≤ a) →
    a / 2 ^ 46 ≠ 1 →
    Completes (.pcieInboundWrite p r a d x) s fun t =>
      t.mem = s.mem ∧ t.poison = s.poison ∧ Logged (portId p) 2 cProtocol s t) ∧
  (∀ (s : State) (p r a n : Nat),
    s.pcieUp p = true →
    p < 16 →
    (1 ≤ n ∧ n ≤ 4096) →
    (a < 2 ^ 46 ∧ s.ringPair r a n false = none ∧ s.inPhys p a n = false ∨ 2 ^ 47 ≤ a) →
    a / 2 ^ 46 ≠ 1 →
    Completes (.pcieInboundRead p r a n) s fun t =>
      t.io.cpl = 1 ∧ t.io.data = [] ∧ t.mem = s.mem ∧ Logged (portId p) 2 cProtocol s t) ∧
  (∀ (s : State) (p r a : Nat) (d : List Byte) (x : Slot) (q : Nat),
    s.pcieUp p = true →
    d ≠ [] →
    a / 2 ^ 46 = 1 →
    s.slot (a / 2 ^ 30 % 65536) = some x →
    s.handleFail r a d.length true = none →
    x.win = false →
    (x.addr + a % 2 ^ 28) % 4096 + d.length ≤ 4096 →
    s.ioXl x.f (x.addr + a % 2 ^ 28) true = { s.ioXl x.f (x.addr + a % 2 ^ 28) true with hit := true, pa := some q } →
    Completes (.pcieInboundWrite p r a d false) s fun t =>
      (List.range d.length).map (fun k => t.byte (q + k)) = d ∧ t.drv = s.drv) ∧
  (∀ (s : State) (h : Nat) (e : IoEnt) (x : Option W64),
    let a := e.pa
    (s.hart h).io = some e →
    e.store = false →
    a ∈ [TRD_ALARM, TRD_WAKE_MASK, PWR_STATE, DBY_CHIP_ID, MC_CFG 3] →
    e.size = 8 →
    e.kind = .unsigned →
    e.rd = 5 →
    s.responder (s.ioNode (s.nodeOf h) a) = false →
    s.ioNode (s.nodeOf h) a < 224 →
    s.nodeOf h < 224 →
    (s.hdbg h).dcsr.testBit 2 = false →
    ((((s.hdbg h).trig[4]?).map (·.tdata1)).getD 0) / 2 ^ 60 % 16 ≠ 3 →
    Completes (.ioAccess h x) s fun t =>
      (t.hart h).rx 5 = s.reg a ∧ (t.hart h).io = none ∧ (t.hart h).pc = ((s.hart h).pc + e.len) % 2 ^ 64 ∧ Counted (CORE_IO_ACCESS (s.nodeOf h)) 1 s t ∧ t.mem = s.mem) ∧
  (∀ (s : State) (h : Nat) (x : Option W64),
    (s.hart h).io = none →
    Completes (.ioAccess h x) s fun t =>
      t = s)

/-- R47: the two passes of a router give every one of up to four flits an output: no flit is held or dropped, no link output
carries two flits, and at most two flits are ejected. -/
def Obligations.ArbitrationHoldsNoFlit : Prop :=
  ∀ (n : Nat) (l : List Flit), l.length ≤ 4 →
    let a := pass1 n l []
    let b := pass2 a.2.1 a.2.2
    ((a.1 ++ b.1).map (·.1)).Perm l ∧
    (∀ p < 5, ((a.1 ++ b.1).filter fun x => x.2 == p).length ≤ 1) ∧
    ((a.1 ++ b.1).filter fun x => x.2 == 5).length ≤ 2 ∧
    (∀ x ∈ a.1 ++ b.1, x.2 < 6 ∧ x.2 ≠ 4)

/-- Chapter 02: what the events of a router do to its flits, and that each of them completes: a sole arrival without an
error goes out on its preferred productive link, or to its endpoint; an injection puts the head flit, stamped (R44), on the
output that R48 gives it and releases the starve line (R52); a waiting flit gets its rights (R48, R49); a starving node
asserts the line and counts it (R52); and a drift of a die FIFO stops the mesh clock (R55). -/
def Obligations.MeshEventsComplete : Prop :=
  (∀ (s : State) (n i p : Nat) (f : Flit) (r : List Flit),
    n < 224 →
    i < 4 →
    s.mesh.stopped = false →
    s.mesh.paused = false →
    Tab.getD s.mesh.inputs (n * 4 + i) [] = f :: r →
    (∀ j < 4, j = i ∨ Tab.getD s.mesh.inputs (n * 4 + j) [] = []) →
    f.hdrErr = 0 →
    f.dest < 224 →
    f.dest ≠ n →
    s.age f < 1536 →
    (productive n f.dest).head? = some p →
    Completes (.flitArrival n) s fun t =>
      Tab.getD t.mesh.inputs (neighbour n p * 4 + opposite p) [] =
      Tab.getD s.mesh.inputs (neighbour n p * 4 + opposite p) [] ++ [f] ∧
      Tab.getD t.mesh.inputs (n * 4 + i) [] = r) ∧
  (∀ (s : State) (n i : Nat) (f : Flit) (r : List Flit),
    n < 224 →
    i < 4 →
    s.mesh.stopped = false →
    s.mesh.paused = false →
    Tab.getD s.mesh.inputs (n * 4 + i) [] = f :: r →
    (∀ j < 4, j = i ∨ Tab.getD s.mesh.inputs (n * 4 + j) [] = []) →
    f.hdrErr = 0 →
    f.dest = n →
    f.datErr = 0 →
    s.responder n = false →
    Completes (.flitArrival n) s fun t =>
      Tab.getD t.mesh.inbox n [] = Tab.getD s.mesh.inbox n [] ++ [f] ∧ Tab.getD t.mesh.inputs (n * 4 + i) [] = r) ∧
  (∀ (s : State) (n p : Nat) (e : InjEntry),
    n < 224 →
    s.mesh.stopped = false →
    s.mesh.paused = false →
    (s.mesh.starve = [] ∨ n ∈ s.mesh.starve) →
    injHead (s.injQueue n) = some e →
    e.flit.dest ≠ n →
    s.injOut n e = some p →
    Completes (.flitInject n) s fun t =>
      t.injQueue n = (s.injQueue n).erase e ∧ n ∉ t.mesh.starve ∧
      Tab.getD t.mesh.inputs (neighbour n p * 4 + opposite p) [] =
      Tab.getD s.mesh.inputs (neighbour n p * 4 + opposite p) [] ++
      [{ e.flit with stamp := s.clk.meshCycle % 2048, src := n }]) ∧
  (∀ (s : State) (n : Nat) (e : InjEntry),
    injHead (s.injQueue n) = some e →
    s.meshRuns = true →
    Completes (.injectionWaitExpiry n) s fun t =>
      t.injQueue n = markFirst (· == e) (fun x => { x with anyOut := true }) (s.injQueue n)) ∧
  (∀ (s : State) (n cls : Nat) (e : InjEntry),
    (s.injQueue n).find? (fun e => e.flit.cls == cls) = some e →
    s.meshRuns = true →
    Completes (.classAgeExpiry n cls) s fun t =>
      t.injQueue n = markFirst (· == e) (fun x => { x with aged := true }) (s.injQueue n)) ∧
  (∀ (s : State) (n : Nat) (e : InjEntry),
    n < 224 →
    injHead (s.injQueue n) = some e →
    n ∉ s.mesh.starve →
    s.meshRuns = true →
    Completes (.starveAssert n) s fun t =>
      n ∈ t.mesh.starve ∧
      (t.reg (MESH_RTR_STARVE n)).toNat = min ((s.reg (MESH_RTR_STARVE n)).toNat + 1) (2 ^ 64 - 1)) ∧
  (∀ (s : State),
    Completes (.dieFifoDrift) s fun t =>
      t.mesh.stopped = true)

/-- R60-R62, R494, R557-R559: a tile card that passes its gates, whose node answers and has no other operation open, does what
Table 2.3 says from the tile states that it requires, and sends its replies; from another tile state it is REFUSED and the tile
state stays. `u` is the state in which the card is taken.
R60, R61, R557: a node with nothing outstanding is drained and TILE.DRAIN is answered OK; a drain that runs out of time is
answered TIMEOUT with the node's block ID; a fence is acknowledged and TILE.FENCE answered OK; the end of a test returns the
node to Fenced and TILE.TEST answers with RESULT. The operation `o` is the one open on the node. -/
def Obligations.TileCommandsComplete : Prop :=
  (∀ (s : State) (c : CardCtx) (node : Nat),
    let u := s.taken c 0x0201
    s.cardOk c 0x0201 false tileOwner = true →
    node < 224 →
    u.stopLost (0x100 + node) = false →
    u.tileBusy node = false →
    u.slotFree false = true →
    u.tstate node ≤ 1 →
    Completes (.tileDrain c node) s fun t =>
      t.tstate node = 2 ∧ t.get (MESH_FENCE_CTL node) MESH_FENCE_CTL_REQ = 1 ∧ node ∈ t.mesh.noNewReq ∧
      Tab.find t.mesh.drainStart node = some u.clk.time ∧ Replied c [accepted c 0x0201] u t) ∧
  (∀ (s : State) (c : CardCtx) (node : Nat),
    let u := s.taken c 0x0201
    s.cardOk c 0x0201 false tileOwner = true →
    node < 224 →
    u.stopLost (0x100 + node) = false →
    u.tileBusy node = false →
    u.slotFree false = true →
    u.tstate node = 2 →
    Completes (.tileDrain c node) s fun t =>
      t.tstate node = 2 ∧ Tab.find t.mesh.drainStart node = some u.clk.time ∧ Replied c [accepted c 0x0201] u t) ∧
  (∀ (s : State) (c : CardCtx) (node : Nat),
    let u := s.taken c 0x0202
    s.cardOk c 0x0202 false tileOwner = true →
    node < 224 →
    u.stopLost (0x100 + node) = false →
    u.tileBusy node = false →
    u.slotFree false = true →
    u.tstate node = 2 →
    u.bit (MESH_FENCE_STAT node) MESH_FENCE_STAT_DRAINED = true →
    Completes (.tileFence c node false) s fun t =>
      t.responder node = true ∧ t.get (MESH_FENCE_CTL node) MESH_FENCE_CTL_REQ = 2 ∧
      t.get (MESH_FENCE_STAT node) MESH_FENCE_STAT_FORCED = 0 ∧ Replied c [accepted c 0x0202] u t) ∧
  (∀ (s : State) (c : CardCtx) (node : Nat),
    let u := s.taken c 0x0202
    s.cardOk c 0x0202 false tileOwner = true →
    node < 224 →
    u.stopLost (0x100 + node) = false →
    u.tileBusy node = false →
    u.slotFree false = true →
    u.tstate node ≤ 2 →
    Completes (.tileFence c node true) s fun t =>
      t.responder node = true ∧ t.get (MESH_FENCE_CTL node) MESH_FENCE_CTL_REQ = 4 ∧
      t.get (MESH_FENCE_STAT node) MESH_FENCE_STAT_FORCED = 1 ∧ Replied c [accepted c 0x0202] u t) ∧
  (∀ (s : State) (c : CardCtx) (node : Nat),
    let u := s.taken c 0x0203
    s.cardOk c 0x0203 false tileOwner = true →
    node < 224 →
    u.stopLost (0x100 + node) = false →
    u.tileBusy node = false →
    u.slotFree false = true →
    u.tstate node = 3 →
    Completes (.tilePowerOff c node) s fun t =>
      t.tstate node = 4 ∧ Replied c [accepted c 0x0203, okReply c 0x0203] u t) ∧
  (∀ (s : State) (c : CardCtx) (node : Nat),
    let u := s.taken c 0x0203
    s.cardOk c 0x0203 false tileOwner = true →
    node < 224 →
    u.stopLost (0x100 + node) = false →
    u.tileBusy node = false →
    u.slotFree false = true →
    u.tstate node = 4 →
    Completes (.tilePowerOn c node) s fun t =>
      t.tstate node = 3 ∧ t.responder node = true ∧ t.get (MESH_FENCE_STAT node) MESH_FENCE_STAT_FENCED = 1 ∧
      Replied c [accepted c 0x0203, okReply c 0x0203] u t) ∧
  (∀ (s : State) (c : CardCtx) (node : Nat),
    let u := s.taken c 0x0204
    s.cardOk c 0x0204 false tileOwner = true →
    node < 224 →
    u.stopLost (0x100 + node) = false →
    u.tileBusy node = false →
    u.slotFree false = true →
    u.tstate node = 3 →
    Completes (.tileTest c node) s fun t =>
      t.tstate node = 5 ∧ Replied c [accepted c 0x0204] u t) ∧
  (∀ (s : State) (c : CardCtx) (node : Nat),
    let u := s.taken c 0x0206
    s.cardOk c 0x0206 false tileOwner = true →
    node < 224 →
    u.stopLost (0x100 + node) = false →
    u.tileBusy node = false →
    u.slotFree false = true →
    u.tstate node = 3 →
    (nodeKind node = 1 → u.bit (MC_CFG (nodeChannel node)) MC_CFG_FORCED = false) →
    Completes (.tileRestore c node) s fun t =>
      t.tstate node = 0 ∧ t.responder node = false ∧ t.get (MESH_FENCE_CTL node) MESH_FENCE_CTL_REQ = 0 ∧
      node ∉ t.mesh.noNewReq ∧ Replied c [accepted c 0x0206, okReply c 0x0206] u t) ∧
  (∀ (s : State) (c : CardCtx) (failed spare : Nat),
    let u := s.taken c 0x0205
    s.cardOk c 0x0205 false tileOwner = true →
    failed < 224 →
    spare < 224 →
    failed ≠ spare →
    nodeKind failed = 0 →
    nodeKind spare = 0 →
    (u.nodeHart failed).isSome = true →
    u.bit (nodeBase spare) MESH_NODE_INFO_SPARE = true →
    u.stopLost (0x100 + failed) = false →
    u.tileBusy failed = false →
    u.tileBusy spare = false →
    u.tstate spare = 4 →
    u.tstate failed ≤ 1 →
    u.slotFree false = true →
    Completes (.tileSpare c failed spare 0) s fun t =>
      t.tstate spare = 1 ∧ t.tstate failed = 2 ∧ Tab.find t.dby.spares failed = some spare ∧
      Replied c [accepted c 0x0205] u t) ∧
  (∀ (s : State) (c : CardCtx) (node : Nat),
    let u := s.taken c 0x0203
    s.cardOk c 0x0203 false tileOwner = true →
    node < 224 →
    u.stopLost (0x100 + node) = false →
    u.tileBusy node = false →
    u.tstate node ≠ 3 →
    Completes (.tilePowerOff c node) s fun t =>
      t.tstate node = u.tstate node ∧ Replied c [⟨c, stREFUSED, 0x0203, 0x100 + node, []⟩] u t) ∧
  (∀ (s : State) (node : Nat) (o : OpenOp),
    node < 224 →
    s.tstate node = 2 →
    s.outstanding node = 0 →
    s.injQueue node = [] →
    (s.cache.l2.any fun p => keyNode p.1 == node) = false →
    (nodeKind node = 0 → s.mapCount node = 0) →
    s.findOp 0x0201 node = some o →
    s.opOpen [0x0205] node = false →
    s.opOpen [0x0305] (nodeChannel node) = false →
    Completes (.drainComplete node) s fun t =>
      t.get (MESH_FENCE_STAT node) MESH_FENCE_STAT_DRAINED = 1 ∧ t.tstate node = 2 ∧
      Replied o.ctx [okReply o.ctx 0x0201] s t) ∧
  (∀ (s : State) (node t0 : Nat) (o : OpenOp),
    node < 224 →
    Tab.find s.mesh.drainStart node = some t0 →
    s.tstate node = 2 →
    s.bit (MESH_FENCE_STAT node) MESH_FENCE_STAT_DRAINED = false →
    s.findOp 0x0201 node = some o →
    s.findOp 0x0205 node = none →
    s.opOpen [0x0305] (nodeChannel node) = false →
    Completes (.drainTimeout node) s fun t =>
      t.tstate node = 2 ∧ t.get (MESH_FENCE_STAT node) MESH_FENCE_STAT_OUTSTANDING = s.outstanding node % 65536 ∧
      t0 + s.get MESH_CFG MESH_CFG_DRAIN_TMO * 1000000 ≤ t.clk.time ∧
      Replied o.ctx [⟨o.ctx, stTIMEOUT, 0x0201, 0x100 + node, []⟩] s t) ∧
  (∀ (s : State) (node : Nat) (o : OpenOp),
    node < 224 →
    s.responder node = true →
    s.bit (MESH_FENCE_STAT node) MESH_FENCE_STAT_FENCED = false →
    s.injQueue node = [] →
    s.findOp 0x0202 node = some o →
    s.findOp 0x0305 (nodeChannel node) = none →
    s.opOpen [0x0205] node = false →
    s.meshRuns = true →
    Completes (.fenceWaitExpiry node) s fun t =>
      t.tstate node = 3 ∧ t.get (MESH_FENCE_STAT node) MESH_FENCE_STAT_FENCED = 1 ∧ t.responder node = true ∧
      Replied o.ctx [okReply o.ctx 0x0202] s t) ∧
  (∀ (s : State) (node result : Nat) (o : OpenOp),
    node < 224 →
    nodeKind node = 0 →
    s.tstate node = 5 →
    result < 2048 →
    s.findOp 0x0204 node = some o →
    Completes (.tileTestDone node result) s fun t =>
      t.tstate node = 3 ∧ Replied o.ctx [⟨o.ctx, stOK, 0x0204, 0xFFFF, natLe 4 result⟩] s t)

/-- R72, R88, R89, R99: an active stride detector asks the home for the next line of its stream that the tile does not hold; a
miss that waited for a memory tag takes a freed one and sends its request; and the background read of a slice counts a
single-bit error, and marks a dirty line with a double-bit error as poisoned.
R81: a requester takes the new value of an entry over and acknowledges; when all have, the old slice starts its walk and counts
the entry in LLC_STAT.MOVING; when nothing of the entry is left there, the entry becomes stable and is distributed again, and the
last acknowledgement ends the move. -/
def Obligations.CacheAndMapEventsComplete : Prop :=
  (∀ (s : State) (node pc l : Nat) (e : Stride),
    node < 224 →
    (Tab.getD s.cache.stride node []).find? (·.pc == pc) = some e →
    s.get (CORE_PF_CFG node) CORE_PF_CFG_TRAIN ≤ e.count →
    e.stride ≠ 0 →
    e.stride.natAbs ≤ 32 →
    e.stride.natAbs ≤ s.get (CORE_PF_CFG node) CORE_PF_CFG_DIST →
    (e.last : Int) + e.stride = (l : Int) →
    l / 64 = e.last / 64 →
    s.l2 node l = none →
    (s.reqsOf node).any (fun q => q.flit.line == l) = false →
    s.prefetchOk node = true →
    Completes (.stridePrefetchIssue node pc) s fun t =>
      (t.coh.reqs.map (fun q => (q.req, q.flit.line, q.flit.opcode))) =
      s.coh.reqs.map (fun q => (q.req, q.flit.line, q.flit.opcode)) ++ [(node, l, opRdShared)] ∧
      (t.reg (CORE_PF_ISSUED node)).toNat = min ((s.reg (CORE_PF_ISSUED node)).toNat + 1) (2 ^ 64 - 1)) ∧
  (∀ (s : State) (node : Nat) (p : Nat × Flit),
    s.cache.tagWait.find? (·.1 == node) = some p →
    Tab.getD s.cache.tagsUsed node 0 < s.get (LLC_STAT node) LLC_STAT_MEM_TAGS →
    Completes (.missTagAcquire node) s fun t =>
      t.cache.tagWait = s.cache.tagWait.erase p ∧ Sends node [p.2] s t ∧
      Tab.getD t.cache.tagsUsed node 0 = Tab.getD s.cache.tagsUsed node 0 + 1) ∧
  (∀ (s : State) (node line : Nat) (x : SliceLine),
    node < 224 →
    s.get (LLC_CFG node) LLC_CFG_SCRUB ≠ 0 →
    s.slice node line = some x →
    Completes (.sliceScrubRead node line 1) s fun t =>
      t.slice node line = some x ∧ Tab.find t.cache.scrubPos node = some line ∧
      (t.reg (LLC_CE node)).toNat = min ((s.reg (LLC_CE node)).toNat + 1) (2 ^ 64 - 1)) ∧
  (∀ (s : State) (node line : Nat) (x : SliceLine),
    node < 224 →
    s.get (LLC_CFG node) LLC_CFG_SCRUB ≠ 0 →
    s.slice node line = some x →
    (s.dirEntry node line).sdirty = true →
    Completes (.sliceScrubRead node line 2) s fun t =>
      t.slice node line = some { x with poison := true } ∧ (t.dirEntry node line).sdirty = true) ∧
  (∀ (s : State) (node line : Nat) (x : SliceLine),
    node < 224 →
    s.get (LLC_CFG node) LLC_CFG_SCRUB ≠ 0 →
    s.slice node line = some x →
    (s.dirEntry node line).sdirty = false →
    Completes (.sliceScrubRead node line 2) s fun t =>
      t.slice node line = some { x with data := s.lineAt line, poison := s.isPoison line }) ∧
  (∀ (s : State) (r i : Nat) (m : MapMove),
    Tab.find s.cache.mapMove i = some m →
    r ∈ m.waiting →
    Completes (.mapUpdateFlit r i) s fun t =>
      Tab.find t.cache.mapMove i = some { m with waiting := m.waiting.erase r, acks := m.acks + 1 }) ∧
  (∀ (s : State) (i : Nat) (m : MapMove),
    LLC_MAP_NODE.get m.old < 224 →
    Tab.find s.cache.mapMove i = some m →
    m.waiting = [] →
    m.ending = false →
    m.started = false →
    let a := LLC_MAP_NODE.get m.old
    Completes (.mapUpdateAcked i) s fun t =>
      Tab.find t.cache.mapMove i = some { m with started := true, walking := true } ∧
      t.get (LLC_STAT a) LLC_STAT_MOVING = (s.get (LLC_STAT a) LLC_STAT_MOVING + 1) % 2 ^ 13) ∧
  (∀ (s : State) (i : Nat) (m : MapMove),
    Tab.find s.cache.mapMove i = some m →
    m.waiting = [] →
    m.ending = true →
    s.tstate (s.get (LLC_MAP i) LLC_MAP_NODE) ≠ 2 →
    Completes (.mapUpdateAcked i) s fun t =>
      Tab.find t.cache.mapMove i = none ∧ t.reg (LLC_MAP i) = s.reg (LLC_MAP i)) ∧
  (∀ (s : State) (i : Nat) (m : MapMove),
    let a := LLC_MAP_NODE.get m.old
    i < 4096 →
    a < 224 →
    Tab.find s.cache.mapMove i = some m →
    m.walking = true →
    s.cache.slice.any (fun p => keyNode p.1 == a && mapIndex (keyLine p.1) == i) = false →
    s.coh.tx.any (fun p => mapIndex (keyLine p.1) == i && (keyNode p.1 == a || p.2.rel)) = false →
    s.entryLines a i = [] →
    Completes (.mapWalkEnd i) s fun t =>
      t.get (LLC_MAP i) LLC_MAP_STATE = 0 ∧ t.get (LLC_MAP i) LLC_MAP_OLD = 0 ∧
      t.get (LLC_MAP i) LLC_MAP_NODE = s.get (LLC_MAP i) LLC_MAP_NODE ∧
      t.get (LLC_STAT a) LLC_STAT_MOVING = s.get (LLC_STAT a) LLC_STAT_MOVING - 1 ∧
      (Tab.find t.cache.mapMove i).map (fun x => (x.old, x.waiting, x.ending)) = some (s.reg (LLC_MAP i), requesters, true))

/-- Table 4.3, R108, R115: a read that the home admits, of a line that its slice holds: without a private copy the data comes from
the home and the transaction waits for COMP_ACK; with another owner the snoop of the table goes to the owner and its answer is
awaited. An UPGRADE of a listed sharer and a CLAIM_ZERO give ownership without data. -/
def Obligations.HomeReadsComplete : Prop :=
  (∀ (s : State) (h : Nat) (f : Flit) (x : SliceLine),
    s.admits h f = true →
    f.req < 224 →
    s.dirEntry h f.line = { sdirty := (s.dirEntry h f.line).sdirty, way := (s.dirEntry h f.line).way } →
    s.slice h f.line = some x →
    Completes (.rdShared h f) s fun t =>
      Sends h [{ answerTo f clsDAT opDataE with data := x.data, poison := x.poison, hasData := true }] s t ∧
      (t.dirEntry h f.line).st = 2 ∧ (t.dirEntry h f.line).owner = f.req ∧ (t.txOf h f.line).map (·.ack) = some true ∧
      (t.reg (LLC_HIT h)).toNat = min ((s.reg (LLC_HIT h)).toNat + 1) (2 ^ 64 - 1)) ∧
  (∀ (s : State) (h : Nat) (f : Flit) (x : SliceLine),
    s.admits h f = true →
    f.req < 224 →
    s.dirEntry h f.line = { sdirty := (s.dirEntry h f.line).sdirty, way := (s.dirEntry h f.line).way } →
    s.slice h f.line = some x →
    Completes (.rdUnique h f) s fun t =>
      Sends h [{ answerTo f clsDAT opDataE with data := x.data, poison := x.poison, hasData := true }] s t ∧
      (t.dirEntry h f.line).st = 2 ∧ (t.dirEntry h f.line).owner = f.req ∧ (t.txOf h f.line).map (·.ack) = some true) ∧
  (∀ (s : State) (h : Nat) (f : Flit) (x : SliceLine),
    s.admits h f = true →
    (s.dirEntry h f.line).st = 0 →
    (s.dirEntry h f.line).shr = [] →
    s.slice h f.line = some x →
    Completes (.rdOnce h f) s fun t =>
      Sends h [{ answerTo f clsDAT opDataOnce with data := x.data, poison := x.poison, hasData := true }] s t ∧
      t.dirEntry h f.line = s.dirEntry h f.line ∧ (t.txOf h f.line).map (·.ack) = some true) ∧
  (∀ (s : State) (h o : Nat) (f : Flit),
    s.admits h f = true →
    (s.dirEntry h f.line).st = 2 →
    (s.dirEntry h f.line).owner = o →
    (s.dirEntry h f.line).shr = [] →
    tileOf f.req ≠ some o →
    s.dead h o = false →
    Completes (.rdShared h f) s fun t =>
      Sends h [snoopOf h o opSnpShared f] s t ∧
      (t.txOf h f.line).map (·.waits) = some [o] ∧ t.dirEntry h f.line = s.dirEntry h f.line) ∧
  (∀ (s : State) (h o : Nat) (f : Flit),
    s.admits h f = true →
    (s.dirEntry h f.line).st = 2 →
    (s.dirEntry h f.line).owner = o →
    (s.dirEntry h f.line).ovf = false →
    (s.dirEntry h f.line).shr = [] →
    tileOf f.req ≠ some o →
    s.dead h o = false →
    Completes (.rdUnique h f) s fun t =>
      Sends h [snoopOf h o opSnpUnique f] s t ∧
      (t.txOf h f.line).map (·.waits) = some [o] ∧ t.dirEntry h f.line = s.dirEntry h f.line) ∧
  (∀ (s : State) (h : Nat) (f : Flit),
    s.admits h f = true →
    f.req < 224 →
    (s.dirEntry h f.line).st = 1 →
    (s.dirEntry h f.line).ovf = false →
    (s.dirEntry h f.line).shr = [f.req] →
    Completes (.upgrade h f) s fun t =>
      Sends h [answerTo f clsRSP opComp] s t ∧ (t.dirEntry h f.line).st = 2 ∧ (t.dirEntry h f.line).owner = f.req ∧
      (t.dirEntry h f.line).shr = [] ∧ t.txOf h f.line = none) ∧
  (∀ (s : State) (h : Nat) (f : Flit),
    s.admits h f = true →
    f.req < 224 →
    (s.dirEntry h f.line).st = 0 →
    (s.dirEntry h f.line).ovf = false →
    (s.dirEntry h f.line).shr = [] →
    Completes (.claimZero h f) s fun t =>
      Sends h [answerTo f clsRSP opComp] s t ∧ (t.dirEntry h f.line).st = 2 ∧ (t.dirEntry h f.line).owner = f.req ∧
      (t.dirEntry h f.line).sdirty = false ∧ t.slice h f.line = none ∧ t.txOf h f.line = none)

/-- Table 4.3, R81, R115, R131, R139-R141: a write, an eviction, a clean, a flush, a release request, an accumulate and a ZERO that
the home admits, of a line without a private copy (of its owner's line for the evictions): what the slice and the directory
entry hold after it, and the answer that goes out. -/
def Obligations.HomeWritesComplete : Prop :=
  (∀ (s : State) (h : Nat) (f : Flit) (x : SliceLine),
    s.admits h f = true →
    (s.dirEntry h f.line).st = 0 →
    (s.dirEntry h f.line).ovf = false →
    s.slice h f.line = some x →
    Completes (.wrFull h f) s fun t =>
      Sends h [answerTo f clsRSP opComp] s t ∧ (t.slice h f.line).map (fun y => (y.data, y.poison)) = some (f.data, f.poison) ∧
      (t.dirEntry h f.line).sdirty = true ∧ (t.dirEntry h f.line).st = 0 ∧ t.txOf h f.line = none) ∧
  (∀ (s : State) (h : Nat) (f : Flit) (x : SliceLine),
    s.admits h f = true →
    (s.dirEntry h f.line).st = 0 →
    (s.dirEntry h f.line).ovf = false →
    s.slice h f.line = some x →
    Completes (.wrPart h f) s fun t =>
      Sends h [answerTo f clsRSP opComp] s t ∧
      (t.slice h f.line).map (fun y => (y.data, y.poison)) = some (mergeMask x.data f.data f.mask, x.poison || f.poison) ∧
      (t.dirEntry h f.line).sdirty = true ∧ (t.dirEntry h f.line).st = 0 ∧ t.txOf h f.line = none) ∧
  (∀ (s : State) (h : Nat) (f : Flit),
    s.admits h f = true →
    f.req < 224 →
    (s.dirEntry h f.line).st = 2 →
    (s.dirEntry h f.line).shr = [] →
    (s.dirEntry h f.line).owner = f.req →
    s.dead h f.req = false →
    Completes (.evictDirty h f) s fun t =>
      Sends h [answerTo f clsRSP opWbGo] s t ∧ (t.txOf h f.line).map (·.wb) = some true) ∧
  (∀ (s : State) (h : Nat) (f : Flit),
    s.admits h f = true →
    f.req < 224 →
    (s.dirEntry h f.line).st = 2 →
    (s.dirEntry h f.line).shr = [] →
    (s.dirEntry h f.line).ovf = false →
    (s.dirEntry h f.line).owner = f.req →
    Completes (.evictClean h f) s fun t =>
      Sends h [answerTo f clsRSP opComp] s t ∧ (t.dirEntry h f.line).st = 0 ∧ t.txOf h f.line = none) ∧
  (∀ (s : State) (h c a : Nat) (f : Flit) (x : SliceLine),
    s.admits h f = true →
    (s.dirEntry h f.line).st = 0 →
    (s.dirEntry h f.line).shr = [] →
    (s.dirEntry h f.line).sdirty = true →
    s.slice h f.line = some x →
    s.channelOf (f.line * 64) = some (c, a) →
    Tab.getD s.cache.tagsUsed h 0 < s.get (LLC_STAT h) LLC_STAT_MEM_TAGS →
    Completes (.clean h f) s fun t =>
      Sends h [memWrOf h c f.line (s.dramSecure (f.line * 64)) x.data x.poison] s t ∧
      (t.dirEntry h f.line).sdirty = false ∧ (t.txOf h f.line).map (·.memWr) = some true) ∧
  (∀ (s : State) (h : Nat) (f : Flit),
    s.admits h f = true →
    (s.dirEntry h f.line).free = true →
    (s.dirEntry h f.line).ovf = false →
    (s.dirEntry h f.line).shr = [] →
    Completes (.flush h f) s fun t =>
      Sends h [answerTo f clsRSP opComp] s t ∧ t.slice h f.line = none ∧ (t.dirEntry h f.line).free = true ∧
      t.txOf h f.line = none) ∧
  (∀ (s : State) (h : Nat) (f : Flit),
    h < 224 →
    f.line < 2 ^ 42 →
    s.busy h f.line = false →
    s.quietAt h f.line = true →
    s.get (LLC_MAP (mapIndex f.line)) LLC_MAP_NODE ≠ h →
    (s.dirEntry h f.line).free = true →
    (s.dirEntry h f.line).ovf = false →
    (s.dirEntry h f.line).shr = [] →
    Completes (.rel h f) s fun t =>
      Sends h [{ answerTo f clsRSP opRelDone with dest := f.src }] s t ∧ t.slice h f.line = none ∧ t.txOf h f.line = none) ∧
  (∀ (s : State) (h : Nat) (f : Flit) (x : SliceLine),
    s.admits h f = true →
    (s.dirEntry h f.line).st = 0 →
    (s.dirEntry h f.line).ovf = false →
    (s.dirEntry h f.line).shr = [] →
    s.slice h f.line = some x →
    f.poison = false →
    Completes (.acc h f) s fun t =>
      Sends h [answerTo f clsBTN 0x02] s t ∧
      (t.slice h f.line).map (fun y => (y.data, y.poison)) = some (gfAcc f.opcode f.data x.data, x.poison) ∧
      (t.dirEntry h f.line).sdirty = true ∧ t.txOf h f.line = none ∧
      (t.reg (BTN_ACC_CNT h)).toNat = min ((s.reg (BTN_ACC_CNT h)).toNat + 1) (2 ^ 64 - 1)) ∧
  (∀ (s : State) (h : Nat) (f : Flit),
    s.admits h f = true →
    (s.dirEntry h f.line).st = 0 →
    (s.dirEntry h f.line).ovf = false →
    (s.dirEntry h f.line).shr = [] →
    Completes (.zero h f) s fun t =>
      SentLast h (answerTo f clsBTN 0x02) t ∧ (t.dirEntry h f.line).sdirty = true ∧ t.txOf h f.line = none ∧
      (∀ y ∈ (t.slice h f.line).toList, y.data = 0 ∧ y.poison = false) ∧
      (t.reg (BTN_ZERO_CNT h)).toNat = min ((s.reg (BTN_ZERO_CNT h)).toNat + 1) (2 ^ 64 - 1)) ∧
  (∀ (s : State) (h : Nat) (f : Flit) (x : SliceLine),
    h < 224 →
    s.busy h f.line = false →
    s.slice h f.line = some x →
    x.win = true →
    Completes (.release h f) s fun t =>
      Sends h [answerTo f clsBTN 0x02] s t ∧ t.slice h f.line = some { x with win := false, rrpv := 3 })

/-- Table 4.3, R108, R109, R115, R118, R122, R123: an awaited answer to a snoop ends that wait, and the last one completes the
transaction; COMP_ACK closes a read; write-back data goes into the slice; memory data answers the read that waits for it; a
release lets its transaction go on; the oldest free ticket is granted and an unused grant dropped; and an agent that does not
answer in HOME_TMO is marked dead and no longer awaited. -/
def Obligations.HomeAnswersComplete : Prop :=
  (∀ (s : State) (h o : Nat) (f : Flit) (x : Tx) (r : List Nat),
    h < 224 →
    f.line < 2 ^ 42 →
    s.quietAt h f.line = true →
    s.txOf h f.line = some x →
    x.waits = f.src :: o :: r →
    Completes (.snpAck h f) s fun t =>
      (t.txOf h f.line).map (·.waits) = some (o :: r) ∧ t.dirEntry h f.line = s.dirEntry h f.line ∧
      t.reg (DIR_LATE_RSP h) = s.reg (DIR_LATE_RSP h)) ∧
  (∀ (s : State) (h : Nat) (f : Flit) (x : Tx),
    h < 224 →
    f.line < 2 ^ 42 →
    s.quietAt h f.line = true →
    s.txOf h f.line = some x →
    x.req.cls = clsREQ →
    x.req.opcode = opRdShared →
    x.waits = [f.src] →
    x.own = opSnpShared →
    (x.mem || x.memWr || x.ack || x.wb || x.rel) = false →
    x.victim = none →
    s.dirEntry h f.line = { st := 2, owner := f.src, way := (s.dirEntry h f.line).way } →
    x.req.req < 224 →
    x.req.req ≠ f.src →
    2048 ≤ f.txn →
    Completes (.snpAck h f) s fun t =>
      (t.dirEntry h f.line).st = 3 ∧ (t.dirEntry h f.line).owner = f.src ∧ (t.dirEntry h f.line).shr = [x.req.req] ∧
      (t.txOf h f.line).map (·.ack) = some true) ∧
  (∀ (s : State) (h o : Nat) (f : Flit) (x : Tx) (r : List Nat),
    h < 224 →
    f.line < 2 ^ 42 →
    s.quietAt h f.line = true →
    s.txOf h f.line = some x →
    x.waits = f.src :: o :: r →
    s.fromOwner h f x = false →
    Completes (.snpMiss h f) s fun t =>
      (t.txOf h f.line).map (·.waits) = some (o :: r) ∧ t.dirEntry h f.line = s.dirEntry h f.line ∧
      t.reg (DIR_LATE_RSP h) = s.reg (DIR_LATE_RSP h)) ∧
  (∀ (s : State) (h o : Nat) (f : Flit) (x : Tx) (r : List Nat),
    h < 224 →
    f.line < 2 ^ 42 →
    s.quietAt h f.line = true →
    s.txOf h f.line = some x →
    x.waits = f.src :: o :: r →
    Completes (.snpData h f) s fun t =>
      (t.txOf h f.line).map (fun y => (y.waits, y.data, y.poison)) = some (o :: r, some f.data, f.poison)) ∧
  (∀ (s : State) (h : Nat) (f : Flit) (x : Tx),
    h < 224 →
    f.line < 2 ^ 42 →
    s.quietAt h f.line = true →
    s.txOf h f.line = some x →
    x.ack = true →
    x.req.req = f.req →
    x.later = [] →
    Tab.find s.cache.mapMove (mapIndex f.line) = none →
    Completes (.compAck h f) s fun t =>
      t.txOf h f.line = none ∧ t.dirEntry h f.line = s.dirEntry h f.line) ∧
  (∀ (s : State) (h : Nat) (f : Flit) (x : Tx) (y : SliceLine),
    h < 224 →
    f.line < 2 ^ 42 →
    s.quietAt h f.line = true →
    s.txOf h f.line = some x →
    x.req.cls = clsREQ →
    x.req.opcode = opEvictDirty →
    x.req.req = f.req →
    x.req.line = f.line →
    f.req < 224 →
    x.wb = true →
    x.waits = [] →
    (x.mem || x.memWr || x.ack || x.rel) = false →
    x.victim = none →
    x.later = [] →
    Tab.find s.cache.mapMove (mapIndex f.line) = none →
    s.dirEntry h f.line = { st := 2, owner := f.req, sdirty := (s.dirEntry h f.line).sdirty, way := (s.dirEntry h f.line).way } →
    s.slice h f.line = some y →
    Completes (.wbData h f) s fun t =>
      Sends h [answerTo x.req clsRSP opComp] s t ∧
      (t.slice h f.line).map (fun y => (y.data, y.poison)) = some (f.data, f.poison) ∧
      (t.dirEntry h f.line).st = 0 ∧ (t.dirEntry h f.line).sdirty = true ∧ t.txOf h f.line = none) ∧
  (∀ (s : State) (h c a : Nat) (f : Flit) (x : Tx),
    h < 224 →
    f.line < 2 ^ 42 →
    s.quietAt h f.line = true →
    s.txOf h f.line = some x →
    x.rel = true →
    x.req.cls = clsREQ →
    x.req.opcode = opRdShared →
    x.req.line = f.line →
    x.req.req < 224 →
    s.dirEntry h f.line = {} →
    s.dirVictim h f.line = none →
    s.slice h f.line = none →
    s.channelOf (f.line * 64) = some (c, a) →
    Tab.getD s.cache.tagsUsed h 0 < s.get (LLC_STAT h) LLC_STAT_MEM_TAGS →
    Completes (.relDone h f) s fun t =>
      (t.txOf h f.line).map (fun y => (y.rel, y.released, y.mem)) = some (false, true, true) ∧
      Sends h [memRdOf h c x.req] s t) ∧
  (∀ (s : State) (h : Nat) (f : Flit) (x : Tx),
    h < 224 →
    f.line < 2 ^ 42 →
    s.quietAt h f.line = true →
    s.responder f.src = false →
    s.txOf h f.line = some x →
    x.mem = true →
    x.acc = false →
    x.waits = [] →
    (x.memWr || x.ack || x.wb || x.rel || x.fwd) = false →
    x.victim = none →
    x.req.cls = clsREQ →
    x.req.opcode = opRdShared →
    x.req.req < 224 →
    s.dirEntry h f.line = {} →
    Completes (.memData h f) s fun t =>
      SentLast h { answerTo x.req clsDAT opDataE with data := f.data, poison := f.poison, hasData := true } t ∧
      (t.dirEntry h f.line).st = 2 ∧ (t.dirEntry h f.line).owner = x.req.req ∧ (t.txOf h f.line).map (·.ack) = some true) ∧
  (∀ (s : State) (h : Nat) (k : Ticket),
    h < 224 →
    (s.ticketsOf h).find? (fun u => !u.granted && !s.busy h u.line && !(s.ticketsOf h).any fun v => v.granted && v.line == u.line) = some k →
    Completes (.grantIssue h) s fun t =>
      Sends h [answerTo k.flit clsRSP opGrant] s t ∧
      t.ticketsOf h = (s.ticketsOf h).map (fun u => if u == k then { u with granted := true, since := s.clk.time } else u) ∧
      (t.reg (DIR_GRANT h)).toNat = min ((s.reg (DIR_GRANT h)).toNat + 1) (2 ^ 64 - 1)) ∧
  (∀ (s : State) (h r : Nat) (k : Ticket),
    h < 224 →
    (s.ticketsOf h).find? (fun u => u.granted && u.req == r) = some k →
    Completes (.grantRetryTimeout h r) s fun t =>
      t.ticketsOf h = (s.ticketsOf h).filter (· != k) ∧ k.since + s.get DIR_CFG DIR_CFG_HOME_TMO * 1000 ≤ t.clk.time ∧
      (t.reg (DIR_GRANT_DROP h)).toNat = min ((s.reg (DIR_GRANT_DROP h)).toNat + 1) (2 ^ 64 - 1)) ∧
  (∀ (s : State) (h line n : Nat) (x : Tx) (r : List Nat),
    h < 224 →
    n < 252 →
    s.txOf h line = some x →
    x.waits = n :: r →
    Completes (.homeTimeout h line) s fun t =>
      t.dead h n = true ∧ x.since + s.get DIR_CFG DIR_CFG_HOME_TMO * 1000 ≤ t.clk.time)

/-- Table 4.1, Table 4.5, R106, R109: what each snoop makes of a line that the tile's L2 holds, and the flits that it sends; a line
in the eviction buffer is answered from it and marked stale, and INV to a clean eviction in flight is answered SNP_MISS. -/
def Obligations.SnoopsComplete : Prop :=
  (∀ (s : State) (n : Nat) (f : Flit) (x : L2Line),
    s.l2 n f.line = some x →
    let dirty := x.st == .m || x.st == .o
    Completes (.snpShared n f) s fun t =>
      t.l2 n f.line = some { x with st := if dirty then .o else .s } ∧
      Sends n [datOf f (reqNode f.req) opDataS x.data x.poison false, rspOf f opSnpAck dirty] s t) ∧
  (∀ (s : State) (n : Nat) (f : Flit) (x : L2Line),
    s.l2 n f.line = some x →
    let dirty := x.st == .m || x.st == .o
    Completes (.snpUnique n f) s fun t =>
      t.l2 n f.line = none ∧
      Sends n [datOf f (reqNode f.req) (if dirty then opDataM else opDataE) x.data x.poison false, rspOf f opSnpAck dirty] s t) ∧
  (∀ (s : State) (n : Nat) (f : Flit) (b : EvBuf),
    s.l2 n f.line = none →
    Tab.find s.coh.evbuf (lineKey n f.line) = some b →
    b.stale = false →
    b.dirty = true →
    Completes (.snpUnique n f) s fun t =>
      (Tab.find t.coh.evbuf (lineKey n f.line)).map (·.stale) = some true ∧
      Sends n [datOf f (reqNode f.req) opDataM b.data b.poison false, rspOf f opSnpAck true] s t) ∧
  (∀ (s : State) (n : Nat) (f : Flit) (x : L2Line),
    s.l2 n f.line = some x →
    Completes (.inv n f) s fun t =>
      t.l2 n f.line = none ∧ Sends n [rspOf f opSnpAck false] s t) ∧
  (∀ (s : State) (n : Nat) (f : Flit) (b : EvBuf),
    s.l2 n f.line = none →
    Tab.find s.coh.evbuf (lineKey n f.line) = some b →
    b.dirty = false →
    Completes (.inv n f) s fun t =>
      t.coh = s.coh ∧ Sends n [rspOf f opSnpMiss false] s t) ∧
  (∀ (s : State) (n : Nat) (f : Flit) (x : L2Line),
    s.l2 n f.line = some x →
    Completes (.snpOnce n f) s fun t =>
      t.l2 n f.line = some x ∧
      Sends n [datOf f f.src opSnpData x.data x.poison (x.st == .m || x.st == .o)] s t) ∧
  (∀ (s : State) (n : Nat) (f : Flit) (x : L2Line),
    s.l2 n f.line = some x →
    Completes (.snpClean n f) s fun t =>
      t.l2 n f.line = some { x with st := if x.st = .m then .e else if x.st = .o then .s else x.st } ∧
      Sends n [datOf f f.src opSnpData x.data x.poison (x.st == .m || x.st == .o)] s t) ∧
  (∀ (s : State) (n : Nat) (f : Flit) (x : L2Line),
    s.l2 n f.line = some x →
    Completes (.snpFlush n f) s fun t =>
      t.l2 n f.line = none ∧ Sends n [datOf f f.src opSnpData x.data x.poison (x.st == .m || x.st == .o)] s t)

/-- R106-R111, R115, R119-R121, R125, R134: how a requester takes the answer to its outstanding request `q`: refusals are kept for
a ticket or a retry, a grant retries with TXN[11], data is installed and acknowledged, a write-back is sent, COMP and ACK close the
request, FENCED sends it to the line's new home, and FAULT or a lost answer completes it as failed with the line poisoned. -/
def Obligations.RequesterComplete : Prop :=
  (∀ (s : State) (n : Nat) (f : Flit) (q : ReqOut),
    s.reqFor f = some q →
    reqNode q.req = n →
    s.coh.earlyGrant.any (fun g => g.1 == q.req && g.2.1 == q.home && g.2.2.1 == q.flit.line) = false →
    Completes (.nackQ n f) s fun t =>
      t.coh.reqs = s.coh.reqs.map fun x =>
      if x.same q then { x with nacked := true, holder := true, since := s.clk.time } else x) ∧
  (∀ (s : State) (n : Nat) (f : Flit) (q : ReqOut),
    s.reqFor f = some q →
    reqNode q.req = n →
    s.coh.reqs.any (fun x => !x.same q && x.req == q.req && x.home == q.home && x.nacked && x.holder) = true →
    Completes (.nack n f) s fun t =>
      t.coh.reqs = s.coh.reqs.map fun x => if x.same q then { x with nacked := true, holder := false } else x) ∧
  (∀ (s : State) (n : Nat) (f : Flit) (q : ReqOut),
    s.reqFor f = some q →
    reqNode q.req = n →
    q.nacked = true →
    q.holder = true →
    Completes (.grant n f) s fun t =>
      Sends n [{ q.flit with dest := q.home, txn := q.flit.txn % 2048 + 2048 }] s t ∧
      t.coh.reqs = s.coh.reqs.map fun x =>
      if x.same q then { x with nacked := false, holder := false, since := s.clk.time } else x) ∧
  (∀ (s : State) (n : Nat) (f : Flit) (q : ReqOut),
    nodeKind f.src ≠ 1 →
    s.reqFor f = some q →
    reqNode q.req = n →
    q.why = .evict →
    Completes (.comp n f) s fun t =>
      Tab.find t.coh.evbuf (lineKey n q.flit.line) = none ∧ t.coh.reqs.any (·.same q) = false) ∧
  (∀ (s : State) (n : Nat) (f : Flit) (q : ReqOut),
    s.reqFor f = some q →
    reqNode q.req = n →
    q.retried = false →
    let home := s.homeOf q.flit.line
    Completes (.fenced n f) s fun t =>
      Sends n [{ q.flit with dest := home, txn := q.flit.txn % 2048 }] s t ∧
      (t.coh.reqs.find? (·.same q)).map (fun x => (x.retried, x.home, x.nacked)) = some (true, home, false)) ∧
  (∀ (s : State) (n : Nat) (f : Flit) (q : ReqOut) (b : EvBuf),
    s.reqFor f = some q →
    reqNode q.req = n →
    Tab.find s.coh.evbuf (lineKey n q.flit.line) = some b →
    Completes (.wbGo n f) s fun t =>
      Sends n [wbDataOf f q b] s t ∧ t.coh.evbuf = s.coh.evbuf) ∧
  (∀ (s : State) (n : Nat) (f : Flit) (q : ReqOut),
    n < 224 →
    f.line < 2 ^ 42 →
    s.reqFor f = some q →
    reqNode q.req = n →
    q.why = .load →
    q.flit.opcode = opRdShared →
    Completes (.faultMsg n f) s fun t =>
      (t.l2 n f.line).map (fun y => (y.st, y.poison)) = some (.s, true) ∧ t.coh.reqs.any (·.same q) = false) ∧
  (∀ (s : State) (n : Nat) (f : Flit) (q : ReqOut),
    n < 224 →
    f.line < 2 ^ 42 →
    s.reqFor f = some q →
    reqNode q.req = n →
    Completes (.dataS n f) s fun t =>
      (t.l2 n f.line).map (fun y => (y.st, y.data, y.poison)) = some (.s, f.data, f.poison) ∧
      t.coh.reqs.any (·.same q) = false ∧ t.ackedTo n q = true) ∧
  (∀ (s : State) (n : Nat) (f : Flit) (q : ReqOut),
    n < 224 →
    f.line < 2 ^ 42 →
    s.reqFor f = some q →
    reqNode q.req = n →
    Completes (.dataE n f) s fun t =>
      (t.l2 n f.line).map (fun y => (y.st, y.data, y.poison)) = some (.e, f.data, f.poison) ∧
      t.coh.reqs.any (·.same q) = false ∧ t.ackedTo n q = true) ∧
  (∀ (s : State) (n : Nat) (f : Flit) (q : ReqOut),
    n < 224 →
    f.line < 2 ^ 42 →
    s.reqFor f = some q →
    reqNode q.req = n →
    Completes (.dataM n f) s fun t =>
      (t.l2 n f.line).map (fun y => (y.st, y.data, y.poison)) = some (.m, f.data, f.poison) ∧
      t.coh.reqs.any (·.same q) = false ∧ t.ackedTo n q = true) ∧
  (∀ (s : State) (n h : Nat) (f : Flit) (q : ReqOut),
    s.reqFor f = some q →
    reqNode q.req = n →
    q.why = .batten →
    s.nodeHart n = some h →
    Completes (.dataOnce n f) s fun t =>
      (t.hart h).btnSrc = some (q.flit.line, f.data, f.poison) ∧ t.coh.reqs.any (·.same q) = false ∧ t.ackedTo n q = true) ∧
  (∀ (s : State) (n h : Nat) (f : Flit) (q : ReqOut),
    s.reqFor f = some q →
    reqNode q.req = n →
    q.why = .batten →
    s.nodeHart n = some h →
    Completes (.ack n f) s fun t =>
      (t.hart h).btnOut = (s.hart h).btnOut - 1 ∧ (t.hart h).btnFail = (s.hart h).btnFail ∧ t.coh.reqs.any (·.same q) = false) ∧
  (∀ (s : State) (r l : Nat) (q : ReqOut),
    reqNode r < 224 →
    s.coh.reqs.find? (fun x => x.req == r && x.flit.line == l && x.nacked && x.holder) = some q →
    Completes (.grantWaitTimeout r l) s fun t =>
      SentLast (reqNode r) { q.flit with dest := q.home, txn := q.flit.txn % 2048 } t ∧
      q.since + s.get DIR_CFG DIR_CFG_GRANT_TMO * 100000 ≤ t.clk.time ∧
      (t.reg (DIR_GRANT_LOST (reqNode r))).toNat = min ((s.reg (DIR_GRANT_LOST (reqNode r))).toNat + 1) (2 ^ 64 - 1)) ∧
  (∀ (s : State) (r l : Nat) (q : ReqOut),
    s.coh.reqs.find? (fun x => x.req == r && x.flit.line == l && !x.nacked) = some q →
    Completes (.requesterTimeout r l) s fun t =>
      t.coh.reqs.any (·.same q) = false ∧ q.since + 2 * s.get DIR_CFG DIR_CFG_HOME_TMO * 1000 ≤ t.clk.time)

/-- R132, R134, R136, R145, R150: a ready hart's BTN.MAC and BTN.XOR whose source its L2 holds send one ACC with their coefficient
and count it; coefficient 0 sends nothing; BTN.FENCE returns and clears the failures; BTN.WOPEN returns the status of the first
failed check, or opens the window; BTN.WCLOSE closes an OPEN window, and marks it aborted with rs1[16]. `u` is the state in which
the body is carried out.
R151, R153: when a closing window has nothing outstanding it awaits the RELEASE of every line of its distinct ACC destinations;
when those are answered the notice is written with WR_PART; and with the notice's answer the window is IDLE with its flags in
LAST_FLAGS and its slot is free. -/
def Obligations.BattenCommandsComplete : Prop :=
  (∀ (s : State) (i : Ins) (rd rs1 rs2 rs3 pd ps : Nat) (y : L2Line),
    let u := s.fetched i
    let h := i.hart
    s.ready i = true →
    (u.hart h).det = false →
    ((u.hart h).rx rs1).toNat % 64 = 0 →
    ((u.hart h).rx rs2).toNat % 64 = 0 →
    ((u.hart h).rx rs3).toNat % 256 ≠ 0 →
    (u.hart h).btnOut < 32 →
    (u.hart h).sq.any (fun q => q.hits (ps / 64 * 64) 64) = false →
    (u.reach h ((u.hart h).dataAcc 1 0) ((u.hart h).rx rs1).toNat 64 [.dram]).toOption.map (·.1.pa) = some pd →
    (u.reach h ((u.hart h).dataAcc 0 0) ((u.hart h).rx rs2).toNat 64 [.dram]).toOption.map (·.1.pa) = some ps →
    u.l2 (u.nodeOf h) (ps / 64) = some y →
    let k := (u.hart h).btnOut + 1
    Completes (.btnMac i rd rs1 rs2 rs3) s fun t =>
      Retired i (fun x => x.wx rd (BitVec.ofNat 64 k)) u t ∧ (t.hart h).btnOut = k ∧
      t.coh.reqs.map (fun q => accKey q.flit) =
      u.coh.reqs.map (fun q => accKey q.flit) ++ [(u.nodeOf h, clsBTN, ((u.hart h).rx rs3).toNat % 256, pd / 64, y.data, y.poison)]) ∧
  (∀ (s : State) (i : Ins) (rd rs1 rs2 rs3 pd ps : Nat),
    let u := s.fetched i
    let h := i.hart
    s.ready i = true →
    (u.hart h).det = false →
    ((u.hart h).rx rs1).toNat % 64 = 0 →
    ((u.hart h).rx rs2).toNat % 64 = 0 →
    ((u.hart h).rx rs3).toNat % 256 = 0 →
    (u.reach h ((u.hart h).dataAcc 1 0) ((u.hart h).rx rs1).toNat 64 [.dram]).toOption.map (·.1.pa) = some pd →
    (u.reach h ((u.hart h).dataAcc 0 0) ((u.hart h).rx rs2).toNat 64 [.dram]).toOption.map (·.1.pa) = some ps →
    Completes (.btnMac i rd rs1 rs2 rs3) s fun t =>
      Retired i (fun x => x.wx rd (BitVec.ofNat 64 (u.hart h).btnOut)) u t ∧ t.coh.reqs = u.coh.reqs) ∧
  (∀ (s : State) (i : Ins) (rd rs1 rs2 pd ps : Nat) (y : L2Line),
    let u := s.fetched i
    let h := i.hart
    s.ready i = true →
    (u.hart h).det = false →
    ((u.hart h).rx rs1).toNat % 64 = 0 →
    ((u.hart h).rx rs2).toNat % 64 = 0 →
    (u.hart h).btnOut < 32 →
    (u.hart h).sq.any (fun q => q.hits (ps / 64 * 64) 64) = false →
    (u.reach h ((u.hart h).dataAcc 1 0) ((u.hart h).rx rs1).toNat 64 [.dram]).toOption.map (·.1.pa) = some pd →
    (u.reach h ((u.hart h).dataAcc 0 0) ((u.hart h).rx rs2).toNat 64 [.dram]).toOption.map (·.1.pa) = some ps →
    u.l2 (u.nodeOf h) (ps / 64) = some y →
    let k := (u.hart h).btnOut + 1
    Completes (.btnXor i rd rs1 rs2) s fun t =>
      Retired i (fun x => x.wx rd (BitVec.ofNat 64 k)) u t ∧ (t.hart h).btnOut = k ∧
      t.coh.reqs.map (fun q => accKey q.flit) = u.coh.reqs.map (fun q => accKey q.flit) ++ [(u.nodeOf h, clsBTN, 1, pd / 64, y.data, y.poison)]) ∧
  (∀ (s : State) (i : Ins) (rd : Nat),
    let u := s.fetched i
    s.ready i = true →
    (u.hart i.hart).det = false →
    (u.hart i.hart).btnOut = 0 →
    Completes (.btnFence i rd) s fun t =>
      Retired i (fun x => x.wx rd (BitVec.ofNat 64 x.btnFail)) u t ∧ (t.hart i.hart).btnFail = 0) ∧
  (∀ (s : State) (i : Ins) (rd rs1 rs2 : Nat),
    let u := s.fetched i
    let w := ((u.hart i.hart).rx rs1).toNat % 4096
    let d := ((u.hart i.hart).rx rs2).toNat
    let y := u.readDesc d
    s.ready i = true →
    winPriv (u.hart i.hart) = true →
    d % 64 = 0 →
    u.openStatus w d (u.hart i.hart).world = stOK →
    y.ents.flatten.any (fun e => entUsed e && entZero e) = false →
    Completes (.btnWopen i rd rs1 rs2) s fun t =>
      Retired i (fun x => x.wx rd 0) u t ∧ t.wstate w = 2 ∧ (t.hart i.hart).wopen = false ∧
      t.win w = { y with hart := none, loom := none } ∧
      t.get (BTN_WIN_STATE w) BTN_WIN_STATE_SEQ = (u.get (BTN_WIN_STATE w) BTN_WIN_STATE_SEQ + 1) % 65536) ∧
  (∀ (s : State) (i : Ins) (rd rs1 rs2 : Nat),
    let u := s.fetched i
    let w := ((u.hart i.hart).rx rs1).toNat % 4096
    let d := ((u.hart i.hart).rx rs2).toNat
    s.ready i = true →
    winPriv (u.hart i.hart) = true →
    d % 64 = 0 →
    u.openStatus w d (u.hart i.hart).world ≠ stOK →
    Completes (.btnWopen i rd rs1 rs2) s fun t =>
      Retired i (fun x => x.wx rd (BitVec.ofNat 64 (u.openStatus w d (u.hart i.hart).world))) u t ∧ t.btn = u.btn) ∧
  (∀ (s : State) (i : Ins) (rd rs1 : Nat),
    let u := s.fetched i
    let w := ((u.hart i.hart).rx rs1).toNat % 4096
    s.ready i = true →
    winPriv (u.hart i.hart) = true →
    u.closeStatus w (u.hart i.hart).world = stACCEPTED →
    Completes (.btnWclose i rd rs1) s fun t =>
      Retired i (fun x => x.wx rd 1) u t ∧ t.wstate w = 3 ∧ (t.win w).phase = 1 ∧
      (t.win w).seen = (if ((u.hart i.hart).rx rs1).getLsbD 16 then (u.win w).seen ||| 2 ^ 7 else (u.win w).seen)) ∧
  (∀ (s : State) (i : Ins) (rd rs1 : Nat),
    let u := s.fetched i
    let w := ((u.hart i.hart).rx rs1).toNat % 4096
    s.ready i = true →
    winPriv (u.hart i.hart) = true →
    u.closeStatus w (u.hart i.hart).world = stACCEPTED →
    ((u.hart i.hart).rx rs1).getLsbD 16 = true →
    Completes (.btnWabort i rd rs1) s fun t =>
      Retired i (fun x => x.wx rd 1) u t ∧ t.wstate w = 3 ∧ (t.win w).phase = 1 ∧ (t.win w).seen.testBit 7 = true) ∧
  (∀ (s : State) (w : Nat),
    w < 4096 →
    s.wstate w = 3 →
    (s.win w).phase = 1 →
    (s.win w).outstanding = 0 →
    let dests := (((s.win w).ents.flatten.filter fun e => entUsed e && !entCopy e).map entDest).eraseDups
    Completes (.windowCloseDrained w) s fun t =>
      (t.win w).phase = 2 ∧ (t.win w).releases = dests.length * (s.win w).lines ∧
      t.coh.reqs.length = s.coh.reqs.length + dests.length * (s.win w).lines ∧
      (t.win w).seen.testBit 8 = ((s.win w).seen.testBit 8 ||
      (List.range (s.win w).npos).any fun p => (s.win w).expect.testBit p && !(s.win w).full p)) ∧
  (∀ (s : State) (w : Nat),
    w < 4096 →
    s.wstate w = 3 →
    (s.win w).phase = 2 →
    (s.win w).releases = 0 →
    Completes (.windowCloseReleased w) s fun t =>
      (t.win w).phase = 3 ∧
      t.coh.reqs.map (fun q => (q.obj, q.sub, q.flit.opcode, q.flit.line)) =
      s.coh.reqs.map (fun q => (q.obj, q.sub, q.flit.opcode, q.flit.line)) ++ [(w, 3, opWrPart, (s.win w).notice / 64)]) ∧
  (∀ (s : State) (w : Nat) (ok : Bool),
    w < 4096 →
    s.wstate w = 3 →
    (s.win w).phase = 3 →
    (s.win w).noticeRes = some ok →
    Completes (.windowNoticeDone w) s fun t =>
      t.wstate w = 0 ∧ Tab.find t.btn.win w = none ∧
      t.get (BTN_WIN_STATE w) BTN_WIN_STATE_LAST_FLAGS = (s.win w).seen % 2048 + (if ok then 0 else 1024))

/-- R164-R166, R185-R190: a FUNC card that passes its gates and its checks, of a function without another card in progress and in
the states that Table 6.2 accepts: the state of the function after it, what else it sets, and the replies. `u` is the state in
which the card is taken. -/
def Obligations.FunctionCardsComplete : Prop :=
  (∀ (s : State) (c : CardCtx) (f nq nv maxIn ctx ptRoot ext : Nat) (ts : List Nat),
    let u := s.taken c 0x0401
    s.cardOk c 0x0401 false (funcOwner f) = true →
    f ≤ 8192 →
    u.opOpen [0x0402, 0x0404, 0x0405] f = false →
    u.fstate f = 0 →
    u.createFail f nq nv maxIn ctx ptRoot ext 0x30 ts = none →
    u.poolFail nq nv ext = none →
    Completes (.funcCreate c f nq nv maxIn ctx ptRoot ext ts) s fun t =>
      t.fstate f = 1 ∧ t.fnNq f = nq ∧ t.get (LOOM_FSTAT f) LOOM_FSTAT_NV = nv ∧ (t.fn f).ctx = ctx ∧ (t.fn f).ptRoot = ptRoot ∧
      (t.fn f).maxIn = (if maxIn = 0 then 256 else maxIn) ∧ Replied c [okReply c 0x0401] u t) ∧
  (∀ (s : State) (c : CardCtx) (f ms : Nat),
    let u := s.taken c 0x0402
    s.cardOk c 0x0402 false (funcOwner f) = true →
    f ≤ 8192 →
    u.opOpen [0x0402, 0x0404, 0x0405] f = false →
    (u.fstate f = 1 ∨ u.fstate f = 2) →
    ms ≤ 10000 →
    u.slotFree false = true →
    Completes (.funcQuiesce c f ms false) s fun t =>
      t.fstate f = 2 ∧ (t.fn f).quiesceEnd = u.clk.time + (if ms = 0 then 100 else ms) * 1000000 ∧
      Replied c [accepted c 0x0402] u t) ∧
  (∀ (s : State) (c : CardCtx) (f ms : Nat),
    let u := s.taken c 0x0402
    s.cardOk c 0x0402 false (funcOwner f) = true →
    f ≤ 8192 →
    u.opOpen [0x0402, 0x0404, 0x0405] f = false →
    (u.fstate f = 1 ∨ u.fstate f = 2) →
    ms ≤ 10000 →
    u.slotFree false = true →
    u.fnReqs f = [] →
    Completes (.funcQuiesce c f ms true) s fun t =>
      t.fstate f = 3 ∧ Replied c [accepted c 0x0402, okReply c 0x0402] u t) ∧
  (∀ (s : State) (f : Nat) (o : OpenOp),
    f ≤ 8192 →
    s.fstate f = 2 →
    s.fnReqs f = [] →
    s.findOp 0x0402 f = some o →
    Completes (.funcQuiesceDone f) s fun t =>
      t.fstate f = 3 ∧ Replied o.ctx [okReply o.ctx 0x0402] s t) ∧
  (∀ (s : State) (f : Nat) (o : OpenOp),
    f ≤ 8192 →
    s.fstate f = 2 →
    s.fnReqs f ≠ [] →
    s.findOp 0x0402 f = some o →
    Completes (.funcQuiesceTimeout f) s fun t =>
      t.fstate f = 2 ∧ (s.fn f).quiesceEnd ≤ t.clk.time ∧ Replied o.ctx [⟨o.ctx, stTIMEOUT, 0x0402, 5, []⟩] s t) ∧
  (∀ (s : State) (c : CardCtx) (f : Nat),
    let u := s.taken c 0x0403
    s.cardOk c 0x0403 false (funcOwner f) = true →
    f ≤ 8192 →
    u.opOpen [0x0402, 0x0404, 0x0405] f = false →
    u.fstate f = 3 →
    u.windowOpen f = false →
    Completes (.funcFreeze c f) s fun t =>
      t.fstate f = 4 ∧ Replied c [okReply c 0x0403] u t) ∧
  (∀ (s : State) (c : CardCtx) (f blob : Nat),
    let u := s.taken c 0x0404
    s.cardOk c 0x0404 false (funcOwner f) = true →
    f ≤ 8192 →
    u.opOpen [0x0402, 0x0404, 0x0405] f = false →
    u.fstate f = 4 →
    blob % 64 = 0 →
    u.dramOf (u.funcWorld f) blob (4096 + 64 * u.fnNq f) = true →
    u.slotFree false = true →
    c.via ≠ .ring true →
    c.via ≠ .ring false →
    Completes (.funcSave c f blob) s fun t =>
      t.fstate f = 4 ∧ t.bytes blob 64 = (u.blobHead f).take 64 ∧ Replied c [accepted c 0x0404, okReply c 0x0404] u t) ∧
  (∀ (s : State) (c : CardCtx) (f nv ctx ptRoot ext blob : Nat) (ts : List Nat),
    let u := s.taken c 0x0405
    s.cardOk c 0x0405 false (funcOwner f) = true →
    f ≤ 8192 →
    u.opOpen [0x0402, 0x0404, 0x0405] f = false →
    u.fstate f = 0 →
    u.restoreFail f nv ctx ptRoot ext blob ts = none →
    u.slotFree false = true →
    Completes (.funcRestore c f nv ctx ptRoot ext blob ts) s fun t =>
      t.fstate f = 4 ∧ t.fnNq f = u.rdNat (blob + 6) 2 ∧ (t.fn f).ctx = ctx ∧ (t.fn f).ptRoot = ptRoot ∧
      Replied c [accepted c 0x0405, okReply c 0x0405] u t) ∧
  (∀ (s : State) (c : CardCtx) (f : Nat),
    let u := s.taken c 0x0406
    s.cardOk c 0x0406 false (funcOwner f) = true →
    f ≤ 8192 →
    u.opOpen [0x0402, 0x0404, 0x0405] f = false →
    (u.fstate f = 3 ∨ u.fstate f = 4) →
    Completes (.funcResume c f) s fun t =>
      t.fstate f = 1 ∧ Replied c [okReply c 0x0406] u t) ∧
  (∀ (s : State) (c : CardCtx) (f : Nat),
    let u := s.taken c 0x0407
    s.cardOk c 0x0407 false (funcOwner f) = true →
    f ≤ 8192 →
    u.opOpen [0x0402, 0x0404, 0x0405] f = false →
    (u.fstate f = 3 ∨ u.fstate f = 4) →
    u.windowOpen f = false →
    (f ≠ 0 ∨ u.loom.fn.any (fun p => p.1 != 0 && !u.funcWorld p.1) = false) →
    Completes (.funcDestroy c f) s fun t =>
      t.fstate f = 0 ∧ t.fnNq f = 0 ∧ Tab.find t.loom.fn f = none ∧ f ∉ t.loom.hold ∧ Replied c [okReply c 0x0407] u t) ∧
  (∀ (s : State) (c : CardCtx) (f : Nat),
    let u := s.taken c 0x0408
    s.cardOk c 0x0408 false (funcOwner f) = true →
    f ≤ 8192 →
    u.opOpen [0x0402, 0x0404, 0x0405] f = false →
    (u.fstate f = 3 ∨ u.fstate f = 4) →
    u.fnNq f ≤ 256 →
    u.windowOpen f = false →
    Completes (.funcReset c f) s fun t =>
      t.fstate f = 1 ∧ (∀ q < u.fnNq f, t.qctl f q LOOM_QCTL_QSTATE = 0 ∧ t.qctl f q LOOM_QCTL_EN = 0 ∧ t.sqTail f q = 0 ∧ t.cqHead f q = 0) ∧
      Replied c [okReply c 0x0408] u t)

/-- R170, R171, R176-R182: a doorbell is recorded and counted; a queue is enabled from index 0 when its checks pass and marked with
ERR 6 when they do not; EN = 0 disables it; a fetch takes the entry at SQ_HEAD; a completion is written at the completion tail and
the request leaves; a coalescing delay signals; a swap loads the function that has waited longest; QUANTUM stops a function's fetch. -/
def Obligations.LoomQueuesComplete : Prop :=
  (∀ (s : State) (f q : Nat) (v : W64),
    f ≤ 8192 →
    (s.fstate f = 1 ∨ s.fstate f = 2 ∨ s.fstate f = 3) →
    q < s.fnNq f →
    q < 256 →
    (s.qctl f q LOOM_QCTL_QSTATE ≠ 1 ∨ LOOM_SQ_TAIL_INDEX.get v < 2 ^ s.qctl f q LOOM_QCTL_SQ_LOG) →
    Completes (.loomSqTailWrite f q v) s fun t =>
      t.sqTail f q = LOOM_SQ_TAIL_INDEX.get v ∧ (t.reg LOOM_DB).toNat = min ((s.reg LOOM_DB).toNat + 1) (2 ^ 64 - 1)) ∧
  (∀ (s : State) (f q : Nat) (v : W64),
    f ≤ 8192 →
    (s.fstate f = 1 ∨ s.fstate f = 2 ∨ s.fstate f = 3) →
    q < s.fnNq f →
    q < 256 →
    s.qctl f q LOOM_QCTL_QSTATE ≠ 1 →
    Completes (.loomCqHeadWrite f q v) s fun t =>
      t.cqHead f q = LOOM_CQ_HEAD_INDEX.get v ∧ (t.reg LOOM_DB).toNat = min ((s.reg LOOM_DB).toNat + 1) (2 ^ 64 - 1)) ∧
  (∀ (s : State) (f q : Nat) (v : W64),
    let d := 2 ^ s.qctl f q LOOM_QCTL_CQ_LOG
    let i := LOOM_CQ_HEAD_INDEX.get v
    f ≤ 8192 →
    (s.fstate f = 1 ∨ s.fstate f = 2 ∨ s.fstate f = 3) →
    q < s.fnNq f →
    q < 256 →
    s.qctl f q LOOM_QCTL_QSTATE = 1 →
    i < d →
    (i + d - s.cqHead f q) % d ≤ ((s.lq f q).ctail + d - s.cqHead f q) % d →
    Completes (.loomCqHeadWrite f q v) s fun t =>
      t.cqHead f q = i) ∧
  (∀ (s : State) (f q : Nat) (v : W64),
    f ≤ 8192 →
    s.fstate f ≠ 0 →
    q < s.fnNq f →
    q < 256 →
    s.bit (LOOM_QCTL f q) LOOM_QCTL_EN = false →
    4 ≤ LOOM_QCTL_SQ_LOG.get v →
    LOOM_QCTL_SQ_LOG.get v ≤ 12 →
    4 ≤ LOOM_QCTL_CQ_LOG.get v →
    LOOM_QCTL_CQ_LOG.get v ≤ 12 →
    LOOM_QCTL_VEC.get v < s.get (LOOM_FSTAT f) LOOM_FSTAT_NV →
    Completes (.loomQueueEnable f q v) s fun t =>
      t.qctl f q LOOM_QCTL_EN = 1 ∧ t.qctl f q LOOM_QCTL_QSTATE = 1 ∧ t.qctl f q LOOM_QCTL_ERR = 0 ∧
      t.qctl f q LOOM_QCTL_SQ_HEAD = 0 ∧ t.qctl f q LOOM_QCTL_SQ_LOG = LOOM_QCTL_SQ_LOG.get v ∧ t.sqTail f q = 0 ∧ t.cqHead f q = 0 ∧
      (t.lq f q).ctail = 0 ∧ (t.lq f q).phase = 1) ∧
  (∀ (s : State) (f q : Nat) (v : W64),
    f ≤ 8192 →
    s.fstate f ≠ 0 →
    q < s.fnNq f →
    q < 256 →
    s.bit (LOOM_QCTL f q) LOOM_QCTL_EN = false →
    (LOOM_QCTL_SQ_LOG.get v < 4 ∨ 12 < LOOM_QCTL_SQ_LOG.get v ∨ LOOM_QCTL_CQ_LOG.get v < 4 ∨ 12 < LOOM_QCTL_CQ_LOG.get v ∨ s.get (LOOM_FSTAT f) LOOM_FSTAT_NV ≤ LOOM_QCTL_VEC.get v) →
    Completes (.loomQueueEnable f q v) s fun t =>
      t.qctl f q LOOM_QCTL_EN = 0 ∧ t.qctl f q LOOM_QCTL_QSTATE = 0 ∧ t.qctl f q LOOM_QCTL_ERR = 6) ∧
  (∀ (s : State) (f q : Nat) (v : W64),
    f ≤ 8192 →
    s.fstate f ≠ 0 →
    q < s.fnNq f →
    q < 256 →
    s.bit (LOOM_QCTL f q) LOOM_QCTL_EN = true →
    Completes (.loomQueueDisable f q v) s fun t =>
      t.qctl f q LOOM_QCTL_EN = 0 ∧ t.qctl f q LOOM_QCTL_QSTATE = 0) ∧
  (∀ (s : State) (q : Nat),
    let a := (s.reg (LOOM_QSQB 0 q)).toNat + 64 * s.qctl 0 q LOOM_QCTL_SQ_HEAD
    s.nextFn = some 0 →
    s.get LOOM_CFG LOOM_CFG_BURST = 1 →
    s.fnNq 0 ≤ 256 →
    ((List.range (s.fnNq 0)).map fun i => ((s.fn 0).rr + i) % s.fnNq 0).find? (fun k => s.fetchable 0 k) = some q →
    a % 64 = 0 →
    s.dramOf false a 1 = true →
    s.rdPoison a 64 = false →
    s.drv.slot.length < 65536 →
    Completes (.loomFetch) s fun t =>
      (Tab.find t.loom.req s.loom.nextReq).map (fun r => (r.f, r.q, r.ent)) = some (0, q, BitVec.ofNat 512 (leNat (s.rd a 64))) ∧
      t.loom.nextReq = s.loom.nextReq + 1 ∧
      t.qctl 0 q LOOM_QCTL_SQ_HEAD = (s.qctl 0 q LOOM_QCTL_SQ_HEAD + 1) % 2 ^ s.qctl 0 q LOOM_QCTL_SQ_LOG ∧
      (t.reg LOOM_FETCH_CNT).toNat = min ((s.reg LOOM_FETCH_CNT).toNat + 1) (2 ^ 64 - 1)) ∧
  (∀ (s : State) (r : Nat) (x : LoomReq) (st res det : Nat),
    let a := (s.reg (LOOM_QCQB 0 x.q)).toNat + 16 * (s.lq 0 x.q).ctail
    x.q < 256 →
    Tab.find s.loom.req r = some x →
    x.f = 0 →
    x.done = some (st, res, det) →
    (st ≠ 0 ∨ entQuiet x.ent = false) →
    s.qctl 0 x.q LOOM_QCTL_QSTATE ≠ 2 →
    (s.qReqs 0 x.q).all (fun p => p.1 == r) = true →
    a % 16 = 0 →
    s.dramOf false a 1 = true →
    Completes (.loomCompletion r) s fun t =>
      Tab.find t.loom.req r = none ∧ (t.reg LOOM_CQE).toNat = min ((s.reg LOOM_CQE).toNat + 1) (2 ^ 64 - 1) ∧
      t.bytes a 16 = cqeBytes (entCid x.ent) (s.qctl 0 x.q LOOM_QCTL_SQ_HEAD) st (s.lq 0 x.q).phase res det ∧
      (t.lq 0 x.q).ctail = ((s.lq 0 x.q).ctail + 1) % 2 ^ s.qctl 0 x.q LOOM_QCTL_CQ_LOG) ∧
  (∀ (s : State) (r : Nat) (x : LoomReq) (res det : Nat),
    Tab.find s.loom.req r = some x →
    x.done = some (0, res, det) →
    entQuiet x.ent = true →
    Completes (.loomCompletion r) s fun t =>
      Tab.find t.loom.req r = none) ∧
  (∀ (s : State) (f q : Nat),
    f ≤ 8192 →
    (s.lq f q).unsig ≠ 0 →
    Completes (.coalesceTimerExpiry f q) s fun t =>
      (t.lq f q).unsig = 0 ∧ (s.lq f q).unsigAt + s.qctl f q LOOM_QCTL_COAL_US * 1000 ≤ t.clk.time) ∧
  (∀ (s : State) (g : Nat),
    s.loom.hold.head? = some g →
    g ≤ 8192 →
    s.get LOOM_STAT LOOM_STAT_RESIDENT < 1024 →
    s.populated (s.fn g).ctx 512 = true →
    s.rdPoison (s.fn g).ctx 512 = false →
    Completes (.contextSwap) s fun t =>
      t.resident g = true ∧ g ∉ t.loom.hold ∧ (t.fn g).since = s.clk.time ∧
      (t.reg LOOM_CTX_LOAD).toNat = min ((s.reg LOOM_CTX_LOAD).toNat + 1) (2 ^ 64 - 1)) ∧
  (∀ (s : State) (f : Nat),
    f ≠ 0 →
    s.resident f = true →
    s.loom.hold ≠ [] →
    (s.fn f).stopped = false →
    Completes (.residencyQuantumExpiry f) s fun t =>
      (t.fn f).stopped = true ∧ (s.fn f).since + s.get LOOM_CFG LOOM_CFG_QUANTUM * 100000 ≤ t.clk.time)

/-- R198, R199, R201, R202, R563: PERST is released when it is due; a link of a released port comes up; a link that stays down
for 1 s is recorded once; a surprise down and a selected or fatal error message contain the port and its controllers; DPC
release brings them to DOWN; a lane loss narrows the link with a CE record; and a PTM response carries two times within 4 ns of
TIME.
R387, R390: an invalidation by a hart of the register's world removes exactly the entries of a function that its scope names
and sets GO; one of a function that is out of range, FREE or of the other world sets ERR and removes nothing; and GO clears, with
the count, when it is done. -/
def Obligations.PcieComplexEventsComplete : Prop :=
  (∀ (s : State) (p d : Nat),
    p < 16 →
    (s.port p).due = some d →
    Completes (.perstRelease p) s fun t =>
      (t.port p).perst = false ∧ (t.port p).due = none ∧ (t.port p).disabled = false ∧ (t.port p).since = some t.clk.time ∧
      d ≤ t.clk.time ∧ t.bit (PE_PORT_STAT p) PE_PORT_STAT_EXPECT_DOWN = false) ∧
  (∀ (s : State) (p speed lanes : Nat),
    p < 16 →
    s.dbg.stopped = false →
    (s.port p).perst = false →
    (s.port p).disabled = false →
    (s.port p).dpc = false →
    1 ≤ speed →
    speed ≤ 5 →
    Completes (.pcieLinkUp p 0 speed lanes) s fun t =>
      t.bit (PE_PORT_STAT p) PE_PORT_STAT_LINK_UP = true ∧ t.get (PE_PORT_STAT p) PE_PORT_STAT_SPEED = speed ∧
      (t.port p).changed = true ∧ Tab.find (t.port p).lanes 0 = some lanes) ∧
  (∀ (s : State) (p d : Nat),
    p < 16 →
    s.dbg.stopped = false →
    (s.port p).since = some d →
    s.bit (PE_PORT_STAT p) PE_PORT_STAT_LINK_UP = false →
    (s.port p).failed = false →
    Completes (.pcieLinkFailTimeout p) s fun t =>
      (t.port p).failed = true ∧ d + 1000000000 ≤ t.clk.time ∧ Counted PE_LINK_FAIL 1 s t ∧ Logged (portId p) 0 cLink s t) ∧
  (∀ (s : State) (p sub : Nat),
    p < 16 →
    s.dbg.stopped = false →
    s.bit (PE_PORT_STAT p) PE_PORT_STAT_EXPECT_DOWN = false →
    s.bit (PE_PORT_STAT p) PE_PORT_STAT_LINK_UP = true →
    Completes (.pcieSurpriseDown p sub) s fun t =>
      (t.port p).dpc = true ∧ (t.port p).changed = true ∧ t.bit (PE_PORT_STAT p) PE_PORT_STAT_CONTAINED = true ∧
      t.bit (PE_PORT_STAT p) PE_PORT_STAT_LINK_UP = false ∧ t.hrn.lines.contains (65 + p) = true ∧
      ∀ n ∈ s.ctrlsOf p, t.get (DQ_CTRL_A n) DQ_CTRL_A_STATE = 3) ∧
  (∀ (s : State) (p sub : Nat) (fatal selected : Bool),
    p < 16 →
    s.dbg.stopped = false →
    s.bit (PE_PORT_STAT p) PE_PORT_STAT_LINK_UP = true →
    (fatal || selected) = true →
    Completes (.pcieErrorMessage p sub fatal selected) s fun t =>
      (t.port p).dpc = true ∧ (t.port p).changed = true ∧ t.bit (PE_PORT_STAT p) PE_PORT_STAT_CONTAINED = true ∧
      t.bit (PE_PORT_STAT p) PE_PORT_STAT_LINK_UP = false) ∧
  (∀ (s : State) (p sub : Nat),
    p < 16 →
    s.dbg.stopped = false →
    s.bit (PE_PORT_STAT p) PE_PORT_STAT_LINK_UP = true →
    Completes (.pcieErrorMessage p sub false false) s fun t =>
      t.drv = s.drv ∧ t.bit (PE_PORT_STAT p) PE_PORT_STAT_LINK_UP = true ∧ Logged (portId p) 2 cLink s t) ∧
  (∀ (s : State) (p : Nat),
    p < 16 →
    (s.port p).dpc = true →
    Completes (.dpcRelease p) s fun t =>
      (t.port p).dpc = false ∧ t.bit (PE_PORT_STAT p) PE_PORT_STAT_CONTAINED = false ∧
      ∀ n ∈ s.ctrlsOf p, s.get (DQ_CTRL_A n) DQ_CTRL_A_STATE = 3 → t.get (DQ_CTRL_A n) DQ_CTRL_A_STATE = 2) ∧
  (∀ (s : State) (p sub lanes : Nat),
    p < 16 →
    s.dbg.stopped = false →
    lanes < Tab.getD (s.port p).lanes sub 0 →
    Completes (.pcieLaneLoss p sub lanes) s fun t =>
      Tab.getD (t.port p).lanes sub 0 = lanes ∧ Logged (portId p) 0 cLink s t) ∧
  (∀ (s : State) (p : Nat),
    p < 16 →
    s.dbg.stopped = false →
    s.bit (PE_PORT_CFG p) PE_PORT_CFG_PTM = true →
    s.bit (PE_PORT_STAT p) PE_PORT_STAT_LINK_UP = true →
    Completes (.ptmRequest p) s fun t =>
      t.drv.ptm.tail = s.drv.ptm ∧ t.drv.ptm.head?.map (fun x => (x.1, decide (x.2.1 ≤ s.clk.time + 4),
      decide (s.clk.time ≤ x.2.1 + 4), decide (x.2.2 ≤ s.clk.time + 4), decide (s.clk.time ≤ x.2.2 + 4))) =
      some (p, true, true, true, true)) ∧
  (∀ (s : State) (w : Bool) (v : BitVec 64),
    let f := PE_IOTLB_INV_FUNC.get v
    let r := PE_IOTLB_INV (if w then 1 else 0)
    s.bit r PE_IOTLB_INV_GO = false →
    1 ≤ f →
    f ≤ 8192 →
    s.funcWorld f = w →
    s.fstate f ≠ 0 →
    Completes (.iotlbInvalidateFunction w w v) s fun t =>
      t.iotlb.ent = s.iotlb.ent.filter (fun e => e.func != f) ∧ t.bit r PE_IOTLB_INV_GO = true ∧ t.bit r PE_IOTLB_INV_ERR = false) ∧
  (∀ (s : State) (w : Bool) (v : BitVec 64),
    let f := PE_IOTLB_INV_FUNC.get v
    let r := PE_IOTLB_INV (if w then 1 else 0)
    s.bit r PE_IOTLB_INV_GO = false →
    (f = 0 ∨ 8192 < f ∨ s.funcWorld f ≠ w ∨ s.fstate f = 0) →
    Completes (.iotlbInvalidateFunction w w v) s fun t =>
      t.iotlb = s.iotlb ∧ t.bit r PE_IOTLB_INV_GO = false ∧ t.bit r PE_IOTLB_INV_ERR = true) ∧
  (∀ (s : State) (w : Bool) (v : BitVec 64),
    let f := PE_IOTLB_INV_FUNC.get v
    let r := PE_IOTLB_INV (if w then 1 else 0)
    let page := (s.reg (PE_IOTLB_INV_ADDR (if w then 1 else 0))).toNat
    s.bit r PE_IOTLB_INV_GO = false →
    1 ≤ f →
    f ≤ 8192 →
    s.funcWorld f = w →
    s.fstate f ≠ 0 →
    Completes (.iotlbInvalidatePage w w v) s fun t =>
      t.iotlb.ent = s.iotlb.ent.filter (fun e => !(e.func == f && page / 2 ^ e.bits == e.vpn)) ∧ t.bit r PE_IOTLB_INV_GO = true ∧
      t.bit r PE_IOTLB_INV_ERR = false) ∧
  (∀ (s : State) (w : Bool),
    let r := PE_IOTLB_INV (if w then 1 else 0)
    s.bit r PE_IOTLB_INV_GO = true →
    Completes (.iotlbInvalidateDone w) s fun t =>
      t.bit r PE_IOTLB_INV_GO = false ∧ Counted PE_IOTLB_INVCNT 1 s t ∧ t.iotlb = s.iotlb)

/-- R203, R205, R212, R214, R216: a write by a hart of the block's world that sets EN of a controller takes its fields and leaves
it in UP or DOWN as its link is; one that clears EN leaves it in state 0; a pair that may be enabled is empty and without an
error; one that may not takes ERR 1; a disabled one has no commands; a completion doorbell announces the head; and a command that
has timed out is revoked and ended, and counted. -/
def Obligations.DriveQueuesComplete : Prop :=
  (∀ (s : State) (n : Nat) (v : BitVec 64),
    n < 1024 →
    s.bit (DQ_CTRL_A n) DQ_CTRL_A_EN = false →
    Completes (.dqCtrlEnable (s.blockWorld 5) n v) s fun t =>
      t.bit (DQ_CTRL_A n) DQ_CTRL_A_EN = true ∧ t.get (DQ_CTRL_A n) DQ_CTRL_A_PORT = DQ_CTRL_A_PORT.get v ∧
      t.get (DQ_CTRL_A n) DQ_CTRL_A_RID = DQ_CTRL_A_RID.get v ∧
      t.get (DQ_CTRL_A n) DQ_CTRL_A_STATE = (if s.bit (PE_PORT_STAT (DQ_CTRL_A_PORT.get v)) PE_PORT_STAT_LINK_UP = true ∧
      s.bit (PE_PORT_STAT (DQ_CTRL_A_PORT.get v)) PE_PORT_STAT_CONTAINED = false then 1 else 2)) ∧
  (∀ (s : State) (n : Nat) (v : BitVec 64),
    n < 1024 →
    s.bit (DQ_CTRL_A n) DQ_CTRL_A_EN = true →
    Completes (.dqCtrlDisable (s.blockWorld 5) n v) s fun t =>
      t.bit (DQ_CTRL_A n) DQ_CTRL_A_EN = false ∧ t.get (DQ_CTRL_A n) DQ_CTRL_A_STATE = 0 ∧
      t.get (DQ_CTRL_A n) DQ_CTRL_A_PORT = s.get (DQ_CTRL_A n) DQ_CTRL_A_PORT) ∧
  (∀ (s : State) (q : Nat) (v : BitVec 64),
    q < 4096 →
    s.bit (DQ_QP q) DQ_QP_EN = false →
    s.bit DQ_CFG DQ_CFG_EN = true →
    s.ctrlUp (DQ_QP_CTRL.get v) = true →
    1 ≤ DQ_QP_QID.get v →
    4 ≤ DQ_QP_LOG_DEPTH.get v →
    DQ_QP_LOG_DEPTH.get v ≤ 10 →
    s.drv.pair.any (fun p => p.1 != q && s.pairCtrl p.1 == DQ_QP_CTRL.get v && s.get (DQ_QP p.1) DQ_QP_QID == DQ_QP_QID.get v) = false →
    Completes (.dqQpEnable (s.blockWorld 5) q v) s fun t =>
      t.bit (DQ_QP q) DQ_QP_EN = true ∧ t.get (DQ_QP q) DQ_QP_ERR = 0 ∧ t.occ q = 0 ∧
      t.pairCtrl q = DQ_QP_CTRL.get v ∧ Tab.find t.drv.pair q = some {}) ∧
  (∀ (s : State) (q : Nat) (v : BitVec 64),
    q < 4096 →
    s.bit (DQ_QP q) DQ_QP_EN = false →
    (s.bit DQ_CFG DQ_CFG_EN = false ∨ s.ctrlUp (DQ_QP_CTRL.get v) = false ∨ DQ_QP_QID.get v = 0 ∨ DQ_QP_LOG_DEPTH.get v < 4 ∨
      10 < DQ_QP_LOG_DEPTH.get v ∨
      s.drv.pair.any (fun p => p.1 != q && s.pairCtrl p.1 == DQ_QP_CTRL.get v && s.get (DQ_QP p.1) DQ_QP_QID == DQ_QP_QID.get v) = true) →
    Completes (.dqQpEnable (s.blockWorld 5) q v) s fun t =>
      t.bit (DQ_QP q) DQ_QP_EN = false ∧ t.get (DQ_QP q) DQ_QP_ERR = 1 ∧ t.drv = s.drv) ∧
  (∀ (s : State) (q : Nat) (v : BitVec 64),
    q < 4096 →
    s.bit (DQ_QP q) DQ_QP_EN = true →
    Completes (.dqQpDisable (s.blockWorld 5) q v) s fun t =>
      t.bit (DQ_QP q) DQ_QP_EN = false ∧ t.occ q = 0 ∧ Tab.find t.drv.pair q = none ∧
      (t.drv.slot.all fun p => p.2.pair != some q) = true) ∧
  (∀ (s : State) (q : Nat) (p : DrvPair),
    Tab.find s.drv.pair q = some p →
    p.unacked ≠ 0 →
    Completes (.driveCqDoorbell q) s fun t =>
      Tab.find t.drv.pair q = some { p with unacked := 0 } ∧
      t.drv.doorbells = ((s.reg (DQ_CTRL_B (s.pairCtrl q))).toNat / 4096 * 4096 + (2 * s.get (DQ_QP q) DQ_QP_QID + 1) *
      (4 * 2 ^ s.get (DQ_CTRL_A (s.pairCtrl q)) DQ_CTRL_A_DSTRD), p.head) :: s.drv.doorbells ∧
      (p.unacked < 8 → p.unackedAt + 1000 ≤ t.clk.time)) ∧
  (∀ (s : State) (k d : Nat) (x : Slot),
    s.slot k = some x →
    x.rung = some d →
    x.ended = false →
    Completes (.driveCommandTimeout k) s fun t =>
      t.slot k = some { x with revoked := true, ended := true } ∧ Counted DQ_TMO 1 s t ∧
      d + s.get (DQ_CTRL_A x.ctrl) DQ_CTRL_A_TMO * 100000000 ≤ t.clk.time)

/-- R229, R235-R237, R241-R245: a gather limit schedules every waiting member of its group; a claim writes an entry's command into
a free pair, and counts the wait where there is none; a release rings the doorbell no earlier than its time and takes the entry
out of the heap; an alarm is armed, refused, disarmed and fired with its vector; and the three Pick cards write the settings,
the zone table and the mode, and start the clocks anew.
R222-R228 and Tables 8.2 and 8.3: an accepted angle message sets IDX and is counted; one with SPINDOWN sends the clock to LOST
and is counted as dropped; and the three timeouts of a clock move it to DEGRADED, COAST and DEGRADED, with PERIOD at NOM_PERIOD
and a CE record in DEGRADED. -/
def Obligations.PickUnitCompletes : Prop :=
  (∀ (s : State) (f g : Nat) (y : PickGroup),
    s.pick.groups.find? (fun y => y.f == f && y.group == g && !y.scheduled) = some y →
    Completes (.groupGatherExpiry f g) s fun t =>
      (t.pick.groups.all fun x => (x.f, x.group) != (f, g) || x.scheduled) = true ∧
      (t.pick.heap.all fun e => e.group != some (f, g) || e.at256.isSome) = true ∧
      y.since + s.get PICK_CFG PICK_CFG_GATHER * 10000 ≤ t.clk.time ∧ (y.entered < y.size → Counted PICK_GRP_SHORT 1 s t)) ∧
  (∀ (s : State) (k r q : Nat) (e : HeapEnt) (x : Slot),
    q < 4096 →
    s.pick.heap.find? (·.slot == k) = some e →
    e.at256 = some r →
    e.claimed = false →
    s.slot k = some x →
    s.pickPair e.drive = some q →
    Completes (.pickPairClaim k) s fun t =>
      t.slot k = some { x with pair := some q } ∧ (t.pair q).claim = some k ∧ t.occ q = (s.occ q + 1) % 1024 ∧
      (t.pick.heap.find? (·.slot == k)) = some { e with claimed := true } ∧ r / 256 - 1000 ≤ t.clk.time) ∧
  (∀ (s : State) (k r : Nat) (e : HeapEnt),
    s.pick.heap.find? (·.slot == k) = some e →
    e.at256 = some r →
    e.claimed = false →
    s.pickPair e.drive = none →
    Completes (.pickPairClaim k) s fun t =>
      t.drv = s.drv ∧ (t.pick.heap.find? (·.slot == k)) = some { e with waited := true } ∧
      (e.waited = false → Counted PICK_PAIR_WAIT 1 s t)) ∧
  (∀ (s : State) (q : Nat) (e : HeapEnt) (x : Slot),
    s.nextRelease = some e →
    s.slot e.slot = some x →
    x.pair = some q →
    Completes (.pickRelease) s fun t =>
      t.slot e.slot = some { x with rung := some t.clk.time } ∧ t.pick.heap.any (·.slot == e.slot) = false ∧
      (e.at256.getD 0 + 255) / 256 ≤ t.clk.time ∧ s.pick.lastRing + 4 ≤ t.clk.time ∧
      (e.why = .angle → Counted PICK_RELEASED 1 s t)) ∧
  (∀ (s : State) (a : Nat) (v : BitVec 64),
    let h := s.reg (HRN_VEC (PICK_ALARM_VEC.get v))
    a < 64 →
    s.bit (PICK_ALARM a) PICK_ALARM_ARM = false →
    1024 ≤ PICK_ALARM_VEC.get v →
    PICK_ALARM_VEC.get v ≤ 33791 →
    HRN_VEC_VALID.get h = 1 →
    (HRN_VEC_WORLD.get h != 0) = s.blockWorld 6 →
    Completes (.pickAlarmArm (s.blockWorld 6) a v) s fun t =>
      t.bit (PICK_ALARM a) PICK_ALARM_ARM = true ∧ t.bit (PICK_ALARM a) PICK_ALARM_FIRED = false ∧
      t.bit (PICK_ALARM a) PICK_ALARM_BADVEC = false ∧ t.get (PICK_ALARM a) PICK_ALARM_DRIVE = PICK_ALARM_DRIVE.get v ∧
      t.get (PICK_ALARM a) PICK_ALARM_ANGLE = PICK_ALARM_ANGLE.get v ∧ t.get (PICK_ALARM a) PICK_ALARM_ADV = PICK_ALARM_ADV.get v ∧
      Tab.find t.pick.armed a = some s.clk.time) ∧
  (∀ (s : State) (a : Nat) (v : BitVec 64),
    let h := s.reg (HRN_VEC (PICK_ALARM_VEC.get v))
    a < 64 →
    s.bit (PICK_ALARM a) PICK_ALARM_ARM = false →
    (PICK_ALARM_VEC.get v < 1024 ∨ 33791 < PICK_ALARM_VEC.get v ∨ HRN_VEC_VALID.get h = 0 ∨ (HRN_VEC_WORLD.get h != 0) ≠ s.blockWorld 6) →
    Completes (.pickAlarmArm (s.blockWorld 6) a v) s fun t =>
      t.bit (PICK_ALARM a) PICK_ALARM_ARM = false ∧ t.bit (PICK_ALARM a) PICK_ALARM_BADVEC = true ∧ t.pick = s.pick) ∧
  (∀ (s : State) (a : Nat) (v : BitVec 64),
    a < 64 →
    s.bit (PICK_ALARM a) PICK_ALARM_ARM = true →
    Completes (.pickAlarmDisarm (s.blockWorld 6) a v) s fun t =>
      t.bit (PICK_ALARM a) PICK_ALARM_ARM = false ∧ Tab.find t.pick.armed a = none ∧
      t.get (PICK_ALARM a) PICK_ALARM_ANGLE = s.get (PICK_ALARM a) PICK_ALARM_ANGLE) ∧
  (∀ (s : State) (a : Nat),
    let v := s.get (PICK_ALARM a) PICK_ALARM_VEC
    a < 64 →
    s.bit (PICK_ALARM a) PICK_ALARM_ARM = true →
    1024 ≤ v →
    v ≤ 33791 →
    s.bit (HRN_VEC v) HRN_VEC_VALID = true →
    Completes (.pickAlarmFire a) s fun t =>
      t.bit (PICK_ALARM a) PICK_ALARM_ARM = false ∧ t.bit (PICK_ALARM a) PICK_ALARM_FIRED = true ∧
      t.bit (PICK_ALARM a) PICK_ALARM_NOCLK = !s.byAngle (s.get (PICK_ALARM a) PICK_ALARM_DRIVE) ∧
      t.bit (HRN_VEC v) HRN_VEC_IP = true) ∧
  (∀ (s : State) (c : CardCtx) (first count nom : Nat) (cfg : BitVec 64),
    let u := s.taken c 0x0501
    s.cardOk c 0x0501 false pickOwner = true →
    first < 1024 →
    1 ≤ count →
    first + count ≤ 1024 →
    (nom = 0 ∨ (4000000 ≤ nom ∧ nom ≤ 20000000)) →
    PICK_CLK_CFG_MODE.get cfg < 3 →
    1 ≤ PICK_CLK_CFG_FILT.get cfg →
    PICK_CLK_CFG_FILT.get cfg ≤ 8 →
    PICK_CLK_CFG_COAST_REVS.get cfg ≠ 0 →
    PICK_CLK_CFG_TOL.get cfg ≠ 0 →
    PICK_CLK_CFG_LEAD.get cfg ≠ 0 →
    cfg &&& ~~~ regMask (PICK_CLK_CFG first) = 0 →
    Completes (.pickClockCfg c first count nom cfg) s fun t =>
      (∀ i < count, t.reg (PICK_CLK_CFG (first + i)) = cfg ∧ t.nom (first + i) = nom ∧
      t.clkState (first + i) = (if nom = 0 ∨ PICK_CLK_CFG_MODE.get cfg = 2 then csOff
      else if u.ctrlUp (first + i) = false then csLost
      else if PICK_CLK_CFG_MODE.get cfg = 0 then csAcquire else csDegraded)) ∧
      Replied c [okReply c 0x0501] u t) ∧
  (∀ (s : State) (c : CardCtx) (drive z table : Nat),
    let u := s.taken c 0x0502
    let ents := (List.range z).map fun i => ({ first := u.rdNat (table + 16 * i) 16 % 2 ^ 48, spt := u.rdNat (table + 16 * i) 16 / 2 ^ 48 % 65536, angle0 := u.rdNat (table + 16 * i) 16 / 2 ^ 64 % 65536, skew := u.rdNat (table + 16 * i) 16 / 2 ^ 80 % 65536 } : Zone)
    s.cardOk c 0x0502 false pickOwner = true →
    drive < 1024 →
    1 ≤ z →
    z ≤ 64 →
    u.dramOf c.world table (16 * z) = true →
    u.rdPoison table (16 * z) = false →
    ents.all (fun e => e.spt != 0) = true →
    ((ents.zip (ents.drop 1)).all fun p => decide (p.1.first < p.2.first)) = true →
    Completes (.pickMapLoad c drive z table) s fun t =>
      Tab.find t.pick.zones drive = some ents ∧ t.get (PICK_CLK_NOM drive) PICK_CLK_NOM_ZONES = z ∧
      Replied c [okReply c 0x0502] u t) ∧
  (∀ (s : State) (c : CardCtx) (drive mode : Nat),
    let u := s.taken c 0x0503
    s.cardOk c 0x0503 false pickOwner = true →
    (drive < 1024 ∨ drive = 0xFFFF) →
    mode < 3 →
    Completes (.pickMode c drive mode) s fun t =>
      (∀ n ∈ (if drive = 0xFFFF then List.range 1024 else [drive]), t.clkMode n = mode) ∧ Replied c [okReply c 0x0503] u t) ∧
  (∀ (s : State) (m : AngleMsg) (n : Nat),
    m.vendor = 0x1F9A →
    (List.range 1024).find? (fun n => s.bit (DQ_CTRL_A n) DQ_CTRL_A_EN && s.get (DQ_CTRL_A n) DQ_CTRL_A_RID == m.rid) = some n →
    m.ep = false →
    m.subtype = 1 →
    m.length = 4 →
    s.clkMode n = 0 →
    s.clkState n ≠ csOff →
    m.ptmValid = true →
    m.spindown = false →
    m.indexTime ≤ s.clk.time →
    s.clk.time ≤ m.indexTime + 2 * s.nom n →
    ((s.clock n).hasIdx = true → 1 ≤ nearest (256 * ((m.indexTime : Int) - s.idx n)) (s.period n)) →
    Completes (.angleMessage m) s fun t =>
      t.idx n = m.indexTime % 2 ^ 64 ∧ Counted PICK_MSG 1 s t ∧ (t.clock n).hasIdx = true) ∧
  (∀ (s : State) (m : AngleMsg) (n : Nat),
    m.vendor = 0x1F9A →
    (List.range 1024).find? (fun n => s.bit (DQ_CTRL_A n) DQ_CTRL_A_EN && s.get (DQ_CTRL_A n) DQ_CTRL_A_RID == m.rid) = some n →
    m.ep = false →
    m.subtype = 1 →
    m.length = 4 →
    s.clkMode n = 0 →
    s.clkState n ≠ csOff →
    m.ptmValid = true →
    m.spindown = true →
    Completes (.angleMessage m) s fun t =>
      t.clkState n = csLost ∧ t.period n = s.nom n * 256 ∧ t.idx n = s.idx n ∧ Counted PICK_MSG_DROP 1 s t) ∧
  (∀ (s : State) (n : Nat),
    n < 1024 →
    s.clkState n = csAcquire →
    Completes (.clockAcquireTimeout n) s fun t =>
      t.clkState n = csDegraded ∧ t.period n = s.nom n * 256 ∧
      max (s.clock n).entered (s.clock n).last + 16 * s.nom n ≤ t.clk.time ∧ Logged 0x0006 0 cTimeout s t) ∧
  (∀ (s : State) (n : Nat),
    n < 1024 →
    s.clkState n = csLocked →
    Completes (.clockCoastStart n) s fun t =>
      t.clkState n = csCoast ∧ t.period n = s.period n ∧ t.idx n = s.idx n ∧
      max (s.clock n).entered (s.clock n).last + periodsNs (s.period n) 16 ≤ t.clk.time) ∧
  (∀ (s : State) (n : Nat),
    n < 1024 →
    s.clkState n = csCoast →
    Completes (.clockCoastExpiry n) s fun t =>
      t.clkState n = csDegraded ∧ t.period n = s.nom n * 256 ∧ t.idx n = s.idx n ∧
      (s.clock n).entered + periodsNs (s.period n) (s.get (PICK_CLK_CFG n) PICK_CLK_CFG_COAST_REVS) ≤ t.clk.time ∧
      Logged 0x0006 0 cTimeout s t)

/-- R251, R252, R263-R267, R270, R280, R281, R283: a port card that passes its checks writes mode, configuration, address and
thresholds; a flush empties a FIFO and counts its frames; the parser card writes its image; a link change sets LINK and the fault
bits; a link that stays down is recorded and counted; control frames that the port acts on load its timers, others are counted
under CTRL; a timer that ends is gone; the watchdog event is counted, recorded and happens once; and XOFF is sent again, and XON
is sent, in one control frame. -/
def Obligations.ShuttlePortsComplete : Prop :=
  (∀ (s : State) (c : CardCtx) (mode port op txInv : Nat) (cfg mac : BitVec 64) (thr : List (BitVec 64)),
    let u := s.taken c 0x0601
    s.cardOk c 0x0601 false (fun s => .is (s.blockWorld 7)) = true →
    port < 8 →
    u.portCardFail mode port op cfg mac thr = none →
    Completes (.shuttlePortCfg c mode port op txInv cfg mac thr) s fun t =>
      (mode ≠ 0xFF → t.shuMode = mode) ∧
      (op.testBit 0 = true → t.reg (SHU_PORT_CFG port) = cfg ∧ t.reg (SHU_PORT_MAC port) = mac ∧
      ∀ k < 8, t.reg (SHU_PFC_THR port k) = (thr[k]?).getD 0) ∧
      (op.testBit 1 = true → (t.sport port).rx = []) ∧ Replied c [okReply c 0x0601] u t) ∧
  (∀ (s : State) (c : CardCtx) (port : Nat),
    let u := s.taken c 0x0601
    s.cardOk c 0x0601 false (fun s => .is (s.blockWorld 7)) = true →
    port < 8 →
    port < modePorts u.shuMode →
    Completes (.portFlushRx c port) s fun t =>
      (t.sport port).rx = [] ∧ Counted (SHU_RSN port 0x17) (u.sport port).rx.length u t ∧
      t.get (SHU_PORT_STAT port) SHU_PORT_STAT_RX_OCC = 0 ∧ (t.sport port).tx = (u.sport port).tx ∧ Replied c [okReply c 0x0601] u t) ∧
  (∀ (s : State) (c : CardCtx) (port : Nat),
    let u := s.taken c 0x0601
    s.cardOk c 0x0601 false (fun s => .is (s.blockWorld 7)) = true →
    port < 8 →
    port < modePorts u.shuMode →
    Completes (.portFlushTx c port) s fun t =>
      (t.sport port).tx ++ (t.sport port).wait = (u.sport port).wait ∧ (t.sport port).rx = (u.sport port).rx ∧
      Counted (SHU_RSN port 0x17) (u.sport port).tx.length u t ∧ Replied c [okReply c 0x0601] u t) ∧
  (∀ (s : State) (c : CardCtx) (image : BitVec 64),
    let u := s.taken c 0x0602
    s.cardOk c 0x0602 false (fun s => .is (s.blockWorld 7)) = true →
    image &&& ~~~ regMask SHU_PARSE_CFG = 0 →
    Completes (.shuttleParseCfg c image) s fun t =>
      t.reg SHU_PARSE_CFG = image ∧ Replied c [okReply c 0x0602] u t) ∧
  (∀ (s : State) (p : Nat) (up l r : Bool) (lanes : List Nat),
    p < 8 →
    s.dbg.stopped = false →
    s.portEn p = true →
    Completes (.ethLinkChange p up l r lanes) s fun t =>
      t.portLink p = up ∧ t.bit (SHU_PORT_STAT p) SHU_PORT_STAT_LFAULT = l ∧ t.bit (SHU_PORT_STAT p) SHU_PORT_STAT_RFAULT = r ∧
      (up = true → (t.sport p).waitLink = none)) ∧
  (∀ (s : State) (p d : Nat),
    p < 8 →
    (s.sport p).waitLink = some d →
    Completes (.ethLinkFailTimeout p) s fun t =>
      (t.sport p).waitLink = none ∧ d + 1000000000 ≤ t.clk.time ∧ Counted (SHU_LINK_FAIL p) 1 s t ∧ Logged 0x0007 0 cLink s t) ∧
  (∀ (s : State) (p dest q : Nat),
    p < 8 →
    s.dbg.stopped = false →
    s.portEn p = true →
    s.portLink p = true →
    (dest = pauseGroup ∨ dest = s.get (SHU_PORT_MAC p) SHU_PORT_MAC_ADDR) →
    s.fc p = 1 →
    1 ≤ q →
    q < 65536 →
    Completes (.pauseFrameReceive p dest q true) s fun t =>
      (∀ k < 8, Tab.find (t.sport p).timer k = some (s.clk.time + quantaNs s.shuMode q)) ∧ Counted (SHU_PAUSE_RX p) 1 s t ∧
      Counted (SHU_RX_FRAMES p) 1 s t) ∧
  (∀ (s : State) (p dest q : Nat),
    p < 8 →
    s.dbg.stopped = false →
    s.portEn p = true →
    s.portLink p = true →
    s.fc p ≠ 1 →
    Completes (.pauseFrameReceive p dest q true) s fun t =>
      t.shu = s.shu ∧ Counted (SHU_RSN p 0x16) 1 s t ∧ Counted (SHU_RX_FRAMES p) 1 s t) ∧
  (∀ (s : State) (p dest en : Nat) (q : List Nat),
    p < 8 →
    s.dbg.stopped = false →
    s.portEn p = true →
    s.portLink p = true →
    (dest = pauseGroup ∨ dest = s.get (SHU_PORT_MAC p) SHU_PORT_MAC_ADDR) →
    s.fc p = 2 →
    Completes (.pfcFrameReceive p dest en q true) s fun t =>
      (∀ k < 8, Tab.find (t.sport p).timer k = (if en.testBit k then
      (if (q[k]?).getD 0 % 65536 = 0 then none else some (s.clk.time + quantaNs s.shuMode ((q[k]?).getD 0 % 65536)))
      else Tab.find (s.sport p).timer k)) ∧ Counted (SHU_PAUSE_RX p) 1 s t) ∧
  (∀ (s : State) (p k d : Nat),
    p < 8 →
    Tab.find (s.sport p).timer k = some d →
    Completes (.pauseTimerExpiry p k) s fun t =>
      Tab.find (t.sport p).timer k = none ∧ Tab.find (t.sport p).paused k = none ∧ d ≤ t.clk.time) ∧
  (∀ (s : State) (p k b d : Nat),
    let wd := s.portCfg p SHU_PORT_CFG_PAUSE_WD
    p < 8 →
    Tab.find (s.sport p).paused k = some b →
    Tab.find (s.sport p).timer k = some d →
    wd ≠ 0 →
    (s.sport p).wdDone.contains k = false →
    b + wd * 10000000 < d →
    Completes (.pauseWatchdogExpiry p k) s fun t =>
      (t.sport p).wdDone.contains k = true ∧ Tab.find (t.sport p).timer k = some d ∧ b + wd * 10000000 < t.clk.time ∧
      Counted (SHU_PAUSE_WD p) 1 s t ∧ Logged 0x0007 0 cThreshold s t) ∧
  (∀ (s : State) (p k d : Nat),
    p < 8 →
    s.dbg.stopped = false →
    Tab.find (s.sport p).xoff k = some d →
    s.get (SHU_PFC_THR p k) SHU_PFC_THR_XON < s.rxOcc p k →
    Completes (.pfcResendTimer p k) s fun t =>
      (t.sport p).ctl = (s.sport p).ctl ++ [⟨s.fc p == 2, [(k, 0xFFFF)]⟩] ∧ d + quantaNs s.shuMode 0x7FFF ≤ t.clk.time ∧
      Tab.find (t.sport p).xoff k = some t.clk.time) ∧
  (∀ (s : State) (p : Nat),
    let l := (s.sport p).xoff.filter fun e => decide (s.rxOcc p e.1 ≤ s.get (SHU_PFC_THR p e.1) SHU_PFC_THR_XON)
    p < 8 →
    s.dbg.stopped = false →
    l ≠ [] →
    Completes (.pfcXonSend p) s fun t =>
      (t.sport p).ctl = (s.sport p).ctl ++ [⟨s.fc p == 2, l.map fun e => (e.1, 0)⟩] ∧
      ∀ e ∈ l, Tab.find (t.sport p).xoff e.1 = none)

/-- R255, R257-R263, R271-R278: a good frame that the port accepts and that fits enters the receive FIFO whole; one with a bad
FCS is counted under FCS; the parser hands over a packet, drops a frame under its reason, or writes it to the exception ring;
the MAC sends control frames first and then the next frame; a good ring is enabled with both indices 0; TAIL is the producer's;
and a good raw slot goes into the transmit FIFO, and HEAD moves on. -/
def Obligations.ShuttleFramesComplete : Prop :=
  (∀ (s : State) (p : Nat) (data : List (BitVec 8)),
    let k := framePrio data (s.portCfg p SHU_PORT_CFG_DEF_PRIO)
    let x := s.get (SHU_PFC_THR p k) SHU_PFC_THR_XOFF
    p < 8 →
    s.dbg.stopped = false →
    s.portEn p = true →
    s.portLink p = true →
    be data 12 2 ≠ 0x8808 →
    60 ≤ data.length →
    data.length + 4 ≤ s.portCfg p SHU_PORT_CFG_MAX_FRAME →
    s.macOk p (leNat (data.take 6)) = true →
    (s.fc p = 1 ∨ s.lossless p k = true ∨ x = 0 ∨ s.rxOcc p k < x) →
    rxUse (s.sport p).rx + frameWords data.length ≤ rxWords s.shuMode →
    Completes (.frameReceive p data true 0 0) s fun t =>
      (t.sport p).rx.map (fun f => (f.data, f.prio, f.time, f.status)) =
      (s.sport p).rx.map (fun f => (f.data, f.prio, f.time, f.status)) ++ [(data, k, s.clk.time, 0)] ∧
      Counted (SHU_RX_FRAMES p) 1 s t) ∧
  (∀ (s : State) (p ce ue : Nat) (data : List (BitVec 8)) (ok : Bool),
    p < 8 →
    s.dbg.stopped = false →
    s.portEn p = true →
    s.portLink p = true →
    be data 12 2 ≠ 0x8808 →
    s.portCfg p SHU_PORT_CFG_CT = 0 →
    (ok = false ∨ ue ≠ 0) →
    Completes (.frameReceive p data ok ce ue) s fun t =>
      t.shu = s.shu ∧ Counted (SHU_RSN p 0x10) 1 s t ∧ Counted (SHU_RX_FRAMES p) 1 s t ∧
      Counted (SHU_FEC_CE p) ce s t ∧ Counted (SHU_FEC_UCE p) ue s t) ∧
  (∀ (s : State) (p : Nat) (f : RxFrame) (r : List RxFrame) (k : InPkt),
    p < 8 →
    (s.sport p).rx = f :: r →
    f.status = 0 →
    (s.parse p f.time f.data).toOption = some k →
    Completes (.frameParse p) s fun t =>
      (t.sport p).rx = r ∧ t.shu.inq = s.shu.inq ++ [k] ∧ Counted (SHU_RSN p 0) 1 s t) ∧
  (∀ (s : State) (p e : Nat) (f : RxFrame) (r : List RxFrame),
    p < 8 →
    (s.sport p).rx = f :: r →
    f.status = 0 →
    s.parseFail p f.time f.data = some e →
    8 ≤ e →
    e < 0x20 →
    Completes (.frameParse p) s fun t =>
      (t.sport p).rx = r ∧ t.shu.inq = s.shu.inq ∧ Counted (SHU_RSN p e) 1 s t) ∧
  (∀ (s : State) (p e : Nat) (f : RxFrame) (r : List RxFrame),
    let lg := s.get (SHU_EXQ_BASE p) SHU_EXQ_BASE_LOG
    let tl := s.get (SHU_EXQ_IDX p) SHU_EXQ_IDX_TAIL
    let hd := s.get (SHU_EXQ_IDX p) SHU_EXQ_IDX_HEAD
    p < 8 →
    (s.sport p).rx = f :: r →
    f.status = 0 →
    s.parseFail p f.time f.data = some e →
    1 ≤ e →
    e ≤ 7 →
    (s.get SHU_PARSE_CFG SHU_PARSE_CFG_EXQ_DROP).testBit (e - 1) = false →
    s.bit (SHU_EXQ_BASE p) SHU_EXQ_BASE_EN = true →
    lg ≤ 12 →
    (tl + 2 ^ (lg + 1) - hd % 2 ^ (lg + 1)) % 2 ^ (lg + 1) ≠ 2 ^ lg →
    s.dramOf (s.blockWorld 7) (s.ringSlotAt false p tl) (32 + f.data.length) = true →
    Completes (.frameParse p) s fun t =>
      (t.sport p).rx = r ∧ t.get (SHU_EXQ_IDX p) SHU_EXQ_IDX_TAIL = (tl + 1) % 2 ^ (lg + 1) ∧ Counted (SHU_RSN p e) 1 s t ∧
      t.bytes (s.ringSlotAt false p tl + 32) f.data.length = f.data) ∧
  (∀ (s : State) (p : Nat) (u v : Bool) (k : CtlFrame) (r : List CtlFrame),
    p < 8 →
    s.dbg.stopped = false →
    s.portEn p = true →
    s.portLink p = true →
    (s.sport p).ctl = k :: r →
    Completes (.txFrameStart p u v) s fun t =>
      (t.sport p).ctl = r ∧ t.shu.sent = (p, .ctl k) :: s.shu.sent ∧ Counted (SHU_TX_FRAMES p) 1 s t ∧
      Counted (SHU_PAUSE_TX p) 1 s t ∧ (t.sport p).tx = (s.sport p).tx) ∧
  (∀ (s : State) (p : Nat) (u v : Bool) (f : TxFrame) (r : List TxFrame),
    p < 8 →
    s.dbg.stopped = false →
    s.portEn p = true →
    s.portLink p = true →
    (s.sport p).ctl = [] →
    s.nextTx p = some (f, r) →
    Completes (.txFrameStart p u v) s fun t =>
      t.shu.sent = (p, .frame f (v || (u && s.portCfg p SHU_PORT_CFG_CT != 0 && decide (s.portCfg p SHU_PORT_CFG_CT * 64 < f.size)))) ::
      s.shu.sent ∧ (t.sport p).rr = f.prio ∧ (t.sport p).tx ++ (t.sport p).wait = r ++ (s.sport p).wait ∧
      (u = false → v = false → Counted (SHU_TX_FRAMES p) 1 s t)) ∧
  (∀ (s : State) (p : Nat) (raw : Bool) (v : BitVec 64),
    let b := ringBase raw p
    let n := SHU_EXQ_BASE_LOG.get v
    p < 8 →
    p < modePorts s.shuMode →
    s.bit b SHU_EXQ_BASE_EN = false →
    6 ≤ n →
    n ≤ 12 →
    s.dramOf (s.blockWorld 7) (SHU_EXQ_BASE_BASE.get v * 4096) (2 ^ n * 16384) = true →
    Completes (.shuRingEnable (s.blockWorld 7) p raw v) s fun t =>
      t.bit b SHU_EXQ_BASE_EN = true ∧ t.get b SHU_EXQ_BASE_LOG = n ∧ t.get b SHU_EXQ_BASE_BASE = SHU_EXQ_BASE_BASE.get v ∧
      t.reg (ringIdx raw p) = 0) ∧
  (∀ (s : State) (p : Nat) (raw : Bool) (v : BitVec 64),
    let b := ringBase raw p
    let n := SHU_EXQ_BASE_LOG.get v
    p < 8 →
    p < modePorts s.shuMode →
    s.bit b SHU_EXQ_BASE_EN = false →
    (n < 6 ∨ 12 < n ∨ s.dramOf (s.blockWorld 7) (SHU_EXQ_BASE_BASE.get v * 4096) (2 ^ n * 16384) = false) →
    Completes (.shuRingEnable (s.blockWorld 7) p raw v) s fun t =>
      t.bit b SHU_EXQ_BASE_EN = false ∧ t.reg (ringIdx raw p) = s.reg (ringIdx raw p)) ∧
  (∀ (s : State) (p : Nat) (v : BitVec 64),
    p < 8 →
    p < modePorts s.shuMode →
    Completes (.shuRawqTailWrite (s.blockWorld 7) p v) s fun t =>
      t.get (SHU_RAWQ_IDX p) SHU_RAWQ_IDX_TAIL = SHU_RAWQ_IDX_TAIL.get v ∧
      t.get (SHU_RAWQ_IDX p) SHU_RAWQ_IDX_HEAD = s.get (SHU_RAWQ_IDX p) SHU_RAWQ_IDX_HEAD) ∧
  (∀ (s : State) (p : Nat),
    let lg := s.get (SHU_RAWQ_BASE p) SHU_RAWQ_BASE_LOG
    let hd := s.get (SHU_RAWQ_IDX p) SHU_RAWQ_IDX_HEAD
    let a := s.ringSlotAt true p hd
    let n := s.rdNat a 2
    let k := s.rdNat (a + 2) 1
    p < 8 →
    lg ≤ 12 →
    s.portEn p = true →
    s.bit (SHU_RAWQ_BASE p) SHU_RAWQ_BASE_EN = true →
    hd ≠ s.get (SHU_RAWQ_IDX p) SHU_RAWQ_IDX_TAIL →
    s.dramOf (s.blockWorld 7) a 16 = true →
    s.rdPoison a 16 = false →
    14 ≤ n →
    n ≤ s.portCfg p SHU_PORT_CFG_MAX_FRAME - 4 →
    k < 8 →
    (s.fc p = 0 ∨ Tab.find (s.sport p).timer k = none) →
    s.txFits p (s.sport p).tx ⟨.raw (s.rd (a + 16) n), k⟩ = true →
    s.dramOf (s.blockWorld 7) (a + 16) n = true →
    s.rdPoison (a + 16) n = false →
    Completes (.rawSlotSend p) s fun t =>
      (t.sport p).tx = (s.sport p).tx ++ [⟨.raw (s.rd (a + 16) n), k⟩] ∧
      t.get (SHU_RAWQ_IDX p) SHU_RAWQ_IDX_HEAD = (hd + 1) % 2 ^ (lg + 1) ∧
      t.get (SHU_RAWQ_IDX p) SHU_RAWQ_IDX_TAIL = s.get (SHU_RAWQ_IDX p) SHU_RAWQ_IDX_TAIL)

/-- R287-R291: CREATE that passes its checks gives the queue pair its descriptor in RTS; ERROR puts it in ERROR with cause 1;
DESTROY frees it where nothing is in flight and waits otherwise; REG copies the entry into the table and DEREG invalidates it,
waiting for inbound accesses; the three doorbells record an index that is in range, and one out of range puts the queue pair in
ERROR. -/
def Obligations.QueuePairCommandsComplete : Prop :=
  (∀ (s : State) (q : Nat),
    let x := qpOfDesc (s.rd (s.reg SHU_QP_ARG).toNat 128)
    s.bit SHU_QP_CMD SHU_QP_CMD_BUSY = false →
    s.createQpFail (s.blockWorld 7) q (s.reg SHU_QP_ARG).toNat = none →
    Completes (.qpCreate (s.blockWorld 7) q) s fun t =>
      t.qp q = some { x with rateAt := s.clk.time } ∧ t.get SHU_QP_CMD SHU_QP_CMD_STATUS = stOK ∧
      t.bit SHU_QP_CMD SHU_QP_CMD_BUSY = false ∧ t.get (SHU_QSTAT x.func x.slot) SHU_QSTAT_QPN = q ∧
      t.get (SHU_QSTAT x.func x.slot) SHU_QSTAT_STATE = 1) ∧
  (∀ (s : State) (q : Nat) (x : Qp),
    s.bit SHU_QP_CMD SHU_QP_CMD_BUSY = false →
    s.qp q = some x →
    x.st ≠ 2 →
    Completes (.qpError (s.blockWorld 7) q) s fun t =>
      (t.qp q).map (fun y => (y.st, y.cause, y.wrs, y.reads)) =
      some (if x.st = 3 then 3 else 2, if x.cause = 0 then 1 else x.cause, [], []) ∧
      t.get SHU_QP_CMD SHU_QP_CMD_STATUS = stOK) ∧
  (∀ (s : State) (q : Nat) (x : Qp),
    s.bit SHU_QP_CMD SHU_QP_CMD_BUSY = false →
    s.qp q = some x →
    x.wrs = [] →
    x.reads = [] →
    Completes (.qpDestroy (s.blockWorld 7) q) s fun t =>
      t.qp q = none ∧ t.get SHU_QP_CMD SHU_QP_CMD_STATUS = stOK ∧ t.bit SHU_QP_CMD SHU_QP_CMD_BUSY = false) ∧
  (∀ (s : State) (q : Nat) (x : Qp),
    s.bit SHU_QP_CMD SHU_QP_CMD_BUSY = false →
    s.qp q = some x →
    (x.wrs ≠ [] ∨ x.reads ≠ []) →
    Completes (.qpDestroy (s.blockWorld 7) q) s fun t =>
      t.qp q = some { x with st := 3, msg := none } ∧ t.bit SHU_QP_CMD SHU_QP_CMD_BUSY = true ∧ t.shu.busy = some (3, q)) ∧
  (∀ (s : State) (r : Nat),
    let a := (s.reg SHU_QP_ARG).toNat
    s.bit SHU_QP_CMD SHU_QP_CMD_BUSY = false →
    s.regFail (s.blockWorld 7) a = none →
    r < 65536 →
    Completes (.mrReg (s.blockWorld 7) r) s fun t =>
      t.shu.region.contains r = true ∧ t.bytes (s.regionAt r) 32 = s.rd a 32 ∧ t.get SHU_QP_CMD SHU_QP_CMD_STATUS = stOK ∧
      t.bit SHU_QP_CMD SHU_QP_CMD_BUSY = false) ∧
  (∀ (s : State) (r : Nat),
    s.bit SHU_QP_CMD SHU_QP_CMD_BUSY = false →
    r < 65536 →
    Completes (.mrDereg (s.blockWorld 7) r) s fun t =>
      t.shu.region.contains r = false ∧ t.bit SHU_QP_CMD SHU_QP_CMD_BUSY = s.regionBusy r) ∧
  (∀ (s : State) (f k q : Nat) (x : Qp) (v : BitVec 64),
    f ≤ 8192 →
    k < 1024 →
    s.slotQp f k = some (q, x) →
    s.qp q = some x →
    s.fstate f ≠ 0 →
    SHU_SQ_TAIL_INDEX.get v < 2 ^ x.sqLog →
    Completes (.shuSqTailWrite f k v) s fun t =>
      t.get (SHU_SQ_TAIL f k) SHU_SQ_TAIL_INDEX = SHU_SQ_TAIL_INDEX.get v ∧
      (t.qp q).map (·.sqTail) = some (SHU_SQ_TAIL_INDEX.get v) ∧ t.bit (SHU_SQ_TAIL f k) SHU_SQ_TAIL_ARM = false) ∧
  (∀ (s : State) (f k q : Nat) (x : Qp) (v : BitVec 64),
    f ≤ 8192 →
    k < 1024 →
    s.slotQp f k = some (q, x) →
    s.qp q = some x →
    s.fstate f ≠ 0 →
    s.shu.busy = none →
    x.st = 1 →
    x.cause = 0 →
    2 ^ x.sqLog ≤ SHU_SQ_TAIL_INDEX.get v →
    Completes (.shuSqTailWrite f k v) s fun t =>
      (t.qp q).map (fun y => (y.st, y.cause)) = some (2, 2) ∧ t.get (SHU_SQ_TAIL f k) SHU_SQ_TAIL_INDEX = s.get (SHU_SQ_TAIL f k) SHU_SQ_TAIL_INDEX) ∧
  (∀ (s : State) (f k q : Nat) (x : Qp) (v : BitVec 64),
    f ≤ 8192 →
    k < 1024 →
    s.slotQp f k = some (q, x) →
    s.qp q = some x →
    s.fstate f ≠ 0 →
    SHU_RQ_TAIL_INDEX.get v < 2 ^ x.rqLog →
    Completes (.shuRqTailWrite f k v) s fun t =>
      t.get (SHU_RQ_TAIL f k) SHU_RQ_TAIL_INDEX = SHU_RQ_TAIL_INDEX.get v ∧
      (t.qp q).map (·.rqTail) = some (SHU_RQ_TAIL_INDEX.get v) ∧ t.bit (SHU_RQ_TAIL f k) SHU_RQ_TAIL_ARM = false) ∧
  (∀ (s : State) (f k q : Nat) (x : Qp) (v : BitVec 64),
    f ≤ 8192 →
    k < 1024 →
    s.slotQp f k = some (q, x) →
    s.qp q = some x →
    s.fstate f ≠ 0 →
    x.st ≠ 2 →
    SHU_CQ_HEAD_INDEX.get v < 2 ^ x.cqLog →
    Completes (.shuCqHeadWrite f k v) s fun t =>
      t.get (SHU_CQ_HEAD f k) SHU_CQ_HEAD_INDEX = SHU_CQ_HEAD_INDEX.get v ∧
      (t.qp q).map (fun y => (y.cqHead, y.arm)) = some (SHU_CQ_HEAD_INDEX.get v, SHU_CQ_HEAD_ARM.get v == 1))

/-- R285, R286, R290-R300: what a queue pair does with its next work request, with an in-order SEND, WRITE and READ, with a READ
response, an acknowledgement and a CNP, and at its timers, where the IOTLB holds the addresses concerned: PSN and MSN advance,
entries are taken, the data of a WRITE stands in memory, responses and acknowledgements are handed to the port, and the packet is
counted under its disposition. -/
def Obligations.RocePacketsComplete : Prop :=
  (∀ (s : State) (q : Nat) (x : Qp),
    let e : Line := BitVec.ofNat 512 (leNat (s.ioBytes x.func (x.sqBase + 64 * x.sqHead) 64))
    s.qp q = some x →
    s.shu.cached.contains q = true →
    x.st = 1 →
    x.ud = false →
    s.fstate x.func = 1 →
    x.sqHead ≠ x.sqTail →
    x.wrs.length < x.maxSq →
    x.rnrUntil = none →
    s.ioGood x.func (x.sqBase + 64 * x.sqHead) 64 = true →
    wqeOk false e = true →
    wqeLen e ≤ 2 ^ 31 →
    ((wqeFlags e).testBit 1 = false ∨ x.wrs = []) →
    ((wqeOp e = 4 ∧ (x.wrs.filter fun w => wqeOp w.ent == 4).length < x.maxRd) ∨ (wqeOp e ≠ 4 ∧ s.ioGood x.func (wqeLaddr e) (wqeLen e) = true)) →
    Completes (.qpWorkFetch q) s fun t =>
      (t.qp q).map (fun y => (y.sqHead, y.sqPsn, y.wrs)) = some ((x.sqHead + 1) % 2 ^ x.sqLog,
      (x.sqPsn + msgPackets (wqeLen e) x.mtu) % 2 ^ 24,
      x.wrs ++ [{ ent := e, first := x.sqPsn, last := (x.sqPsn + msgPackets (wqeLen e) x.mtu - 1) % 2 ^ 24 }])) ∧
  (∀ (s : State) (q : Nat) (x : Qp),
    let e : Line := BitVec.ofNat 512 (leNat (s.ioBytes x.func (x.sqBase + 64 * x.sqHead) 64))
    s.qp q = some x →
    s.shu.cached.contains q = true →
    x.st = 1 →
    x.ud = true →
    s.fstate x.func = 1 →
    x.sqHead ≠ x.sqTail →
    x.wrs.length < x.maxSq →
    x.rnrUntil = none →
    s.ioGood x.func (x.sqBase + 64 * x.sqHead) 64 = true →
    wqeOk true e = true →
    wqeLen e ≤ x.mtu →
    ((wqeFlags e).testBit 1 = false ∨ x.wrs = []) →
    s.ioGood x.func (wqeLaddr e) (wqeLen e) = true →
    Completes (.qpWorkFetch q) s fun t =>
      (t.qp q).map (fun y => (y.sqHead, y.sqPsn)) = some ((x.sqHead + 1) % 2 ^ x.sqLog, (x.sqPsn + 1) % 2 ^ 24) ∧
      ((t.sport x.port).tx ++ (t.sport x.port).wait).length = ((s.sport x.port).tx ++ (s.sport x.port).wait).length + 1) ∧
  (∀ (s : State) (k : InPkt) (q : Nat) (x : Qp),
    let b := s.ioBytes x.func (x.rqBase + 16 * x.rqHead) 16
    s.arrives k q x = true →
    x.ud = false →
    k.op = 4 →
    k.psn = x.rqPsn →
    x.msg = none →
    k.data.length ≤ x.mtu →
    x.rqHead ≠ x.rqTail →
    s.ioGood x.func (x.rqBase + 16 * x.rqHead) 16 = true →
    k.data.length ≤ leNat ((b.drop 8).take 4) →
    s.ioHeld x.func (leNat (b.take 8)) k.data.length true = true →
    Completes (.roceSend) s fun t =>
      (t.qp q).map (fun y => (y.rqHead, y.rqPsn, y.msn, y.msg)) =
      some ((x.rqHead + 1) % 2 ^ x.rqLog, (x.rqPsn + 1) % 2 ^ 24, (x.msn + 1) % 2 ^ 24, none) ∧
      Counted (SHU_TRN 0) 1 s t ∧ t.shu.inq = s.shu.inq.tail) ∧
  (∀ (s : State) (k : InPkt) (q : Nat) (x : Qp),
    let b := s.ioBytes x.func (x.rqBase + 16 * x.rqHead) 16
    let a := leNat (b.take 8)
    s.arrives k q x = true →
    x.ud = true →
    k.op = 0x64 →
    be k.pay 12 4 = x.qkey →
    k.data.length ≤ x.mtu →
    x.rqHead ≠ x.rqTail →
    s.ioGood x.func (x.rqBase + 16 * x.rqHead) 16 = true →
    40 + k.data.length ≤ leNat ((b.drop 8).take 4) →
    s.ioHeld x.func a (40 + k.data.length) true = true →
    s.ioHeld x.func (a + if k.v6 then 0 else 20) (if k.v6 then k.ip.take 40 else k.ip.take 20).length true = true →
    s.ioHeld x.func (a + 40) k.data.length true = true →
    Completes (.udSend) s fun t =>
      (t.qp q).map (·.rqHead) = some ((x.rqHead + 1) % 2 ^ x.rqLog) ∧ Counted (SHU_TRN 0) 1 s t ∧ t.shu.inq = s.shu.inq.tail) ∧
  (∀ (s : State) (k : InPkt) (q p : Nat) (x : Qp),
    let va := be k.pay 12 8
    s.arrives k q x = true →
    x.ud = false →
    k.op = 0x0A →
    k.psn = x.rqPsn →
    x.msg = none →
    k.data.length ≤ x.mtu →
    k.data.length ≤ 2 ^ 31 →
    be k.pay 24 4 = k.data.length →
    s.regionOk x.func (be k.pay 20 4) va k.data.length true = true →
    s.ioHeld x.func va k.data.length true = true →
    s.ioPieces x.func va k.data.length true = [(p, k.data.length)] →
    Completes (.roceRdmaWrite) s fun t =>
      (t.qp q).map (fun y => (y.rqPsn, y.msn, y.msg)) = some ((x.rqPsn + 1) % 2 ^ 24, (x.msn + 1) % 2 ^ 24, none) ∧
      t.bytes p k.data.length = k.data ∧ Counted (SHU_TRN 0) 1 s t) ∧
  (∀ (s : State) (k : InPkt) (q : Nat) (x : Qp),
    let va := be k.pay 12 8
    let n := be k.pay 24 4
    s.arrives k q x = true →
    x.ud = false →
    k.op = 0x0C →
    k.psn = x.rqPsn →
    x.msg = none →
    n ≤ 2 ^ 31 →
    s.regionOk x.func (be k.pay 20 4) va n false = true →
    s.ioHeld x.func va n false = true →
    Completes (.roceRdmaReadRequest) s fun t =>
      (t.qp q).map (fun y => (y.rqPsn, y.msn, y.reads)) = some ((x.rqPsn + msgPackets n x.mtu) % 2 ^ 24, (x.msn + 1) % 2 ^ 24,
      x.reads ++ [{ psn := k.psn, va := va, left := n, region := be k.pay 20 4 / 65536 }]) ∧ Counted (SHU_TRN 0) 1 s t) ∧
  (∀ (s : State) (q : Nat) (x : Qp) (r : RdReq) (l : List RdReq),
    s.qp q = some x →
    x.reads = r :: l →
    x.st ≠ 2 →
    s.fstate x.func ≠ 0 →
    s.shu.busy ≠ some (3, q) →
    r.left ≤ x.mtu →
    s.ioGood x.func r.va r.left = true →
    Completes (.readResponseSend q) s fun t =>
      (t.qp q).map (·.reads) = some l ∧ Hands x.port [⟨.roce { x.pkt q (if r.started then 0x0F else 0x10) r.psn with
      payload := s.ioBytes x.func r.va r.left, ack := some (.ack, x.msn) }, x.prio⟩] s t) ∧
  (∀ (s : State) (q : Nat) (x : Qp) (r : RdReq) (l : List RdReq),
    s.qp q = some x →
    x.reads = r :: l →
    x.st ≠ 2 →
    s.fstate x.func ≠ 0 →
    s.shu.busy ≠ some (3, q) →
    x.mtu < r.left →
    s.ioGood x.func r.va x.mtu = true →
    Completes (.readResponseSend q) s fun t =>
      (t.qp q).map (·.reads) = some ({ r with psn := (r.psn + 1) % 2 ^ 24, va := r.va + x.mtu, left := r.left - x.mtu, started := true } :: l) ∧
      Hands x.port [⟨.roce { x.pkt q (if r.started then 0x0E else 0x0D) r.psn with
      payload := s.ioBytes x.func r.va x.mtu, ack := if r.started then none else some (.ack, x.msn) }, x.prio⟩] s t) ∧
  (∀ (s : State) (k : InPkt) (q : Nat) (x : Qp) (w : SendWr) (l : List SendWr),
    s.arrives k q x = true →
    x.ud = false →
    (k.op = 0x10 ∨ k.op = 0x0F) →
    x.wrs = w :: l →
    w.pendingRead = true →
    x.cqBad = false →
    k.psn = (w.first + w.got / x.mtu) % 2 ^ 24 →
    k.data.length ≤ x.mtu →
    w.got + k.data.length = wqeLen w.ent →
    s.ioHeld x.func (wqeLaddr w.ent + w.got) k.data.length true = true →
    Completes (.roceReadResponse) s fun t =>
      (t.qp q).map (·.una) = some ((w.last + 1) % 2 ^ 24) ∧ Counted (SHU_TRN 0) 1 s t ∧
      ((wqeFlags w.ent).testBit 0 = false → (t.qp q).map (·.wrs) = some (x.wrs.filter fun v => v.first != w.first))) ∧
  (∀ (s : State) (k : InPkt) (q : Nat) (x : Qp) (w : SendWr),
    s.arrives k q x = true →
    x.ud = false →
    k.op = 0x11 →
    be k.pay 12 1 / 32 % 4 = 0 →
    x.wrs = [w] →
    w.pendingRead = false →
    psnGe k.psn x.una = true →
    psnGe k.psn x.sqPsn = false →
    psnGe k.psn w.last = true →
    Completes (.roceAcknowledge) s fun t =>
      (t.qp q).map (fun y => (y.wrs, y.una, y.tries, y.ackFrom)) = some ([], (w.last + 1) % 2 ^ 24, 0, s.clk.time) ∧
      Counted (SHU_TRN 0) 1 s t) ∧
  (∀ (s : State) (k : InPkt) (q : Nat) (x : Qp),
    s.arrives k q x = true →
    x.ud = false →
    k.op = 0x81 →
    Completes (.roceCnp) s fun t =>
      (t.qp q).map (fun y => (y.rate, y.rateAt)) = some (max (x.rate / 2) (2 ^ 40), s.clk.time) ∧ Counted (SHU_TRN 13) 1 s t) ∧
  (∀ (s : State) (q : Nat) (x : Qp),
    s.qp q = some x →
    x.st ≠ 2 →
    x.wrs ≠ [] →
    x.rnrUntil = none →
    s.shu.busy ≠ some (3, q) →
    x.tries < x.retry →
    Completes (.ackTimeout q) s fun t =>
      (t.qp q).map (·.tries) = some (x.tries + 1) ∧ x.ackFrom + 4096 * 2 ^ x.tmo ≤ t.clk.time) ∧
  (∀ (s : State) (q : Nat) (x : Qp),
    s.qp q = some x →
    x.st = 1 →
    x.wrs ≠ [] →
    x.rnrUntil = none →
    s.shu.busy ≠ some (3, q) →
    x.retry ≤ x.tries →
    Completes (.ackTimeout q) s fun t =>
      (t.qp q).map (fun y => (y.st, y.wrs)) = some (2, [])) ∧
  (∀ (s : State) (q d : Nat) (x : Qp),
    s.qp q = some x →
    x.rnrUntil = some d →
    Completes (.rnrTimerExpiry q) s fun t =>
      (t.qp q).map (·.rnrUntil) = some none ∧ d ≤ t.clk.time) ∧
  (∀ (s : State) (q : Nat) (x : Qp),
    s.qp q = some x →
    x.unacked ≠ 0 →
    Completes (.responderAckTimer q) s fun t =>
      (t.qp q).map (·.unacked) = some 0 ∧
      Hands x.port [⟨.roce { x.pkt q 0x11 (x.rqPsn + 2 ^ 24 - 1) with ack := some (.ack, x.msn) }, x.prio⟩] s t) ∧
  (∀ (s : State) (q : Nat) (x : Qp),
    s.qp q = some x →
    x.ud = false →
    x.rate < 100 * 2 ^ 40 →
    Completes (.cnpRateIncrease q) s fun t =>
      (t.qp q).map (·.rate) = some (min (100 * 2 ^ 40) (x.rate + 100 * 2 ^ 40 / 16)) ∧ x.rateAt + 50000 ≤ t.clk.time)

/-- R305, R307-R313, R318-R320: the oldest waiting request of a class takes a free lane with its header and, for a cipher, with its
cached key; a request that succeeds writes its output and its CRC and ends with OK and E; a GCM open whose tag fails leaves zeros;
and KEY.LOAD writes a slot's type, owner and count, drops its cached copy and zeroes the key buffer, or erases the slot. -/
def Obligations.TransformsComplete : Prop :=
  (∀ (s : State) (cls r : Nat) (q : LoomReq),
    let h : Line := BitVec.ofNat 512 (leNat (s.ioBytes q.f (entAddr q.ent) 64))
    let k := entSub q.ent
    (s.xf.lane.filter fun p => p.2.cls == cls).length < xfLanes cls →
    s.xfNext cls = some r →
    Tab.find s.loom.req r = some q →
    entAddr q.ent % 64 = 0 →
    entAddr2 q.ent % 64 = 0 →
    s.ioGood q.f (entAddr q.ent) 64 = true →
    hdrOk k (entLen q.ent) h = true →
    xfKeyType k = 0 →
    entKey q.ent = 0 →
    ((xfFixed k (entLen q.ent)).getD 0 + (if hdrCrc h then 8 else 0) ≤ hdrOutMax h ∨ xfFixed k (entLen q.ent) = none) →
    Completes (.xformLaneStart cls) s fun t =>
      Tab.find t.xf.lane r = some { cls := cls, hdr := h } ∧ r ∉ t.xf.queue ∧ t.loom = s.loom) ∧
  (∀ (s : State) (cls r key : Nat) (q : LoomReq),
    let h : Line := BitVec.ofNat 512 (leNat (s.ioBytes q.f (entAddr q.ent) 64))
    let k := entSub q.ent
    let n := entKey q.ent
    (s.xf.lane.filter fun p => p.2.cls == cls).length < xfLanes cls →
    s.xfNext cls = some r →
    Tab.find s.loom.req r = some q →
    entAddr q.ent % 64 = 0 →
    entAddr2 q.ent % 64 = 0 →
    s.ioGood q.f (entAddr q.ent) 64 = true →
    hdrOk k (entLen q.ent) h = true →
    xfKeyType k ≠ 0 →
    s.slotOwned n q.f = true →
    s.get (XF_SLOT n) XF_SLOT_TYPE = xfKeyType k →
    (xfFixed k (entLen q.ent)).getD 0 + (if hdrCrc h then 8 else 0) ≤ hdrOutMax h →
    s.xf.cache.find? (fun e => e.1 == n) = some (n, key) →
    Completes (.xformLaneStart cls) s fun t =>
      Tab.find t.xf.lane r = some { cls := cls, hdr := h, key := some (n, key) } ∧ r ∉ t.xf.queue ∧ t.loom = s.loom) ∧
  (∀ (s : State) (r p : Nat) (q : LoomReq) (ln : XfLane) (o : List Nat),
    let h := ln.hdr
    let src := entAddr q.ent + 64
    let d := toNats (s.ioBytes q.f src (hdrAadLen h + entLen q.ent))
    let dst := entAddr2 q.ent
    let crc := if hdrCrc h then leBytes 8 (crc64 0 (if hdrCrcOut h then o else d.drop (hdrAadLen h))) else []
    let n := o.length + crc.length
    Tab.find s.xf.lane r = some ln →
    Tab.find s.loom.req r = some q →
    q.done = none →
    s.ioGood q.f src (hdrAadLen h + entLen q.ent) = true →
    (xfCompute (entSub q.ent) h ((ln.key.map (·.2)).getD 0) (d.take (hdrAadLen h)) (d.drop (hdrAadLen h)) (hdrOutMax h - (if hdrCrc h then 8 else 0))).toOption = some o →
    s.ioHeld q.f dst n true = true →
    s.ioPieces q.f dst n true = [(p, n)] →
    (src + hdrAadLen h + entLen q.ent ≤ dst ∨ dst + hdrOutMax h ≤ src - 64) →
    Completes (.xformComplete r) s fun t =>
      (Tab.find t.loom.req r).map (·.done) = some (some (lsOK, o.length, xfDetail 0)) ∧ Tab.find t.xf.lane r = none ∧
      t.bytes p n = ofNats (o ++ crc) ∧ Counted XF_REQ 1 s t ∧ Counted XF_BYTES_OUT n s t) ∧
  (∀ (s : State) (r p : Nat) (q : LoomReq) (ln : XfLane),
    let h := ln.hdr
    let src := entAddr q.ent + 64
    let d := toNats (s.ioBytes q.f src (hdrAadLen h + entLen q.ent))
    let dst := entAddr2 q.ent
    let n := entLen q.ent
    Tab.find s.xf.lane r = some ln →
    Tab.find s.loom.req r = some q →
    q.done = none →
    entSub q.ent = 3 →
    s.ioGood q.f src (hdrAadLen h + n) = true →
    leOf (gcmTag (aesKeys (leBytes 32 ((ln.key.map (·.2)).getD 0))) (leBytes 12 (hdrIv h)) (d.take (hdrAadLen h)) (d.drop (hdrAadLen h))) ≠ hdrTag h →
    s.ioHeld q.f dst n true = true →
    s.ioPieces q.f dst n true = [(p, n)] →
    Completes (.xformComplete r) s fun t =>
      (Tab.find t.loom.req r).map (·.done) = some (some (lsIntegrity, 0, xfDetail 4)) ∧ Tab.find t.xf.lane r = none ∧
      t.bytes p n = List.replicate n 0 ∧ Counted XF_TAG_FAIL 1 s t) ∧
  (∀ (s : State) (c : CardCtx) (k ty f buf : Nat),
    let u := s.taken c 0x0802
    let g := u.get (XF_SLOT k) XF_SLOT_GEN
    s.cardOk c 0x0802 false (keyOwner k) = true →
    k < 8192 →
    (ty = 1 ∨ ty = 2) →
    f ≤ 8192 →
    u.bit SEL_LOCK SEL_LOCK_ASSIGN = true →
    u.boot.wrapBad = false →
    u.funcWorld f = c.world →
    u.fstate f ≠ 0 →
    u.dramOf c.world buf 64 = true →
    u.rdPoison buf 64 = false →
    Completes (.keyLoad c k ty f buf) s fun t =>
      t.get (XF_SLOT k) XF_SLOT_TYPE = ty ∧ t.get (XF_SLOT k) XF_SLOT_FUNC = f ∧ t.get (XF_SLOT k) XF_SLOT_GEN = (g + 1) % 65536 ∧
      (t.xf.cache.all fun e => e.1 != k) = true ∧ Replied c [okReply c 0x0802] u t ∧
      (c.via = .jtag → buf + 64 ≤ u.keyRecord k ∨ u.keyRecord k + 128 ≤ buf → t.bytes buf 64 = List.replicate 64 0)) ∧
  (∀ (s : State) (c : CardCtx) (k f buf : Nat),
    let u := s.taken c 0x0802
    let g := u.get (XF_SLOT k) XF_SLOT_GEN
    s.cardOk c 0x0802 false (keyOwner k) = true →
    k < 8192 →
    f ≤ 8192 →
    u.bit SEL_LOCK SEL_LOCK_ASSIGN = true →
    u.boot.wrapBad = false →
    u.funcWorld f = c.world →
    u.fstate f ≠ 0 →
    Completes (.keyLoad c k 0 f buf) s fun t =>
      t.get (XF_SLOT k) XF_SLOT_TYPE = 0 ∧ t.get (XF_SLOT k) XF_SLOT_FUNC = 0 ∧ t.get (XF_SLOT k) XF_SLOT_GEN = (g + 1) % 65536 ∧
      (t.xf.cache.all fun e => e.1 != k) = true ∧ Replied c [okReply c 0x0802] u t)

/-- R328, R342, R349, R352, R355 to R358: a ready hart carries out an integer, FP, vector, CSR-read, hint, WFI, ECALL or illegal
instruction. `u` is the state in which its body is carried out. A division by 0 and a signed overflow give the results of
Table 13.5 and do not trap; a taken branch or a jump goes to its target; an FP operation writes its result and accrues its
flags, and with an enabled flag in the precise mode traps with cause 24 and writes neither. A vector operation's values are
free values (log entry 12): it retires and clears vstart. -/
def Obligations.CoreInstructionsComplete : Prop :=
  (∀ (s : State) (i : Ins) (op : AluOp) (rd rs1 rs2 : Nat),
    let u := s.fetched i
    s.ready i = true →
    Completes (.instructionExecute i (.alu op rd rs1 rs2)) s fun t =>
      Retired i (fun x => x.wx rd (aluOp op (x.rx rs1) (x.rx rs2))) u t) ∧
  (∀ (s : State) (i : Ins) (rd rs1 rs2 : Nat) (a b : W64),
    let u := s.fetched i
    s.ready i = true →
    (u.hart i.hart).rx rs1 = a →
    (u.hart i.hart).rx rs2 = b →
    (b = 0 ∨ (a = 0x8000000000000000 ∧ b = -1)) →
    Completes (.instructionExecute i (.alu .div rd rs1 rs2)) s fun t =>
      Retired i (fun x => x.wx rd (if b = 0 then -1 else a)) u t) ∧
  (∀ (s : State) (i : Ins) (op : AluOp) (rd rs1 : Nat) (imm : Int),
    let u := s.fetched i
    s.ready i = true →
    Completes (.instructionExecute i (.aluImm op rd rs1 imm)) s fun t =>
      Retired i (fun x => x.wx rd (aluOp op (x.rx rs1) (BitVec.ofInt 64 imm))) u t) ∧
  (∀ (s : State) (i : Ins) (rd : Nat) (imm : Int),
    let u := s.fetched i
    s.ready i = true →
    Completes (.instructionExecute i (.lui rd imm)) s fun t =>
      Retired i (fun x => x.wx rd (BitVec.ofInt 64 imm <<< 12)) u t) ∧
  (∀ (s : State) (i : Ins) (rd : Nat) (imm : Int),
    let u := s.fetched i
    s.ready i = true →
    Completes (.instructionExecute i (.auipc rd imm)) s fun t =>
      Retired i (fun x => x.wx rd (BitVec.ofNat 64 x.pc + (BitVec.ofInt 64 imm <<< 12))) u t) ∧
  (∀ (s : State) (i : Ins) (op : BrOp) (rs1 rs2 : Nat) (off : Int),
    let u := s.fetched i
    let h := u.hart i.hart
    s.ready i = true →
    brCond op (h.rx rs1) (h.rx rs2) = true →
    Completes (.instructionExecute i (.branch op rs1 rs2 off)) s fun t =>
      (t.hart i.hart).pc = pcAdd h.pc off / 2 * 2 ∧ (t.hart i.hart).x = h.x ∧ (t.hart i.hart).pred.hist % 2 = 1) ∧
  (∀ (s : State) (i : Ins) (op : BrOp) (rs1 rs2 : Nat) (off : Int),
    let u := s.fetched i
    s.ready i = true →
    brCond op ((u.hart i.hart).rx rs1) ((u.hart i.hart).rx rs2) = false →
    Completes (.instructionExecute i (.branch op rs1 rs2 off)) s fun t =>
      Retired i (fun x => x) u t ∧ (t.hart i.hart).pred.hist % 2 = 0) ∧
  (∀ (s : State) (i : Ins) (rd : Nat) (off : Int),
    let u := s.fetched i
    let h := u.hart i.hart
    let back := (h.pc + insLen i) % 2 ^ 64
    s.ready i = true →
    Completes (.instructionExecute i (.jal rd off)) s fun t =>
      (t.hart i.hart).pc = pcAdd h.pc off / 2 * 2 ∧ (t.hart i.hart).x = (h.wx rd (BitVec.ofNat 64 back)).x ∧
      (rd = 1 → (t.hart i.hart).pred.ras = ((back, h.pred.tag) :: h.pred.ras).take 32)) ∧
  (∀ (s : State) (i : Ins) (rd rs1 : Nat) (off : Int),
    let u := s.fetched i
    let h := u.hart i.hart
    let back := (h.pc + insLen i) % 2 ^ 64
    s.ready i = true →
    Completes (.instructionExecute i (.jalr rd rs1 off)) s fun t =>
      (t.hart i.hart).pc = pcAdd (h.rx rs1).toNat off / 2 * 2 ∧ (t.hart i.hart).x = (h.wx rd (BitVec.ofNat 64 back)).x ∧
      (rd = 0 → rs1 = 1 → (t.hart i.hart).pred.ras = h.pred.ras.drop 1)) ∧
  (∀ (s : State) (i : Ins) (op : FpOp) (rm rd rs1 rs2 rs3 r : Nat),
    let u := s.fetched i
    let h := u.hart i.hart
    let v := fpCompute op r true (h.rf rs1) (h.rf rs2) (h.rf rs3)
    s.ready i = true →
    h.fsOff = false →
    (fpToX op = false ∧ fpFromX op = false ∧ op ≠ .cvt) →
    (if fpRounds op then h.round rm else some 0) = some r →
    (v.2 &&& h.cf 0x8C0 4 0 = 0 ∨ h.cf 0x8C0 5 5 = 1) →
    Completes (.instructionExecute i (.fp op rm rd rs1 rs2 rs3 true)) s fun t =>
      (t.hart i.hart).f = (h.wf rd v.1).f ∧ (t.hart i.hart).x = h.x ∧
      (t.hart i.hart).c 0x003 = (h.c 0x003 ||| BitVec.ofNat 64 (v.2 % 32)) ∧ (t.hart i.hart).cf 0x300 14 13 = 3 ∧
      (t.hart i.hart).cf 0x8C0 12 8 = (if h.cf 0x8C0 5 5 = 1 then h.cf 0x8C0 12 8 ||| (v.2 &&& h.cf 0x8C0 4 0) else h.cf 0x8C0 12 8) ∧
      (t.hart i.hart).pc = (h.pc + insLen i) % 2 ^ 64) ∧
  (∀ (s : State) (i : Ins) (op : FpOp) (rm rd rs1 rs2 rs3 r : Nat),
    let u := s.fetched i
    let h := u.hart i.hart
    let v := fpCompute op r true (h.rf rs1) (h.rf rs2) (h.rf rs3)
    s.ready i = true →
    (s.hdbg i.hart).prog = false →
    h.fsOff = false →
    (fpToX op = false ∧ fpFromX op = false ∧ op ≠ .cvt) →
    (if fpRounds op then h.round rm else some 0) = some r →
    (v.2 &&& h.cf 0x8C0 4 0 ≠ 0 ∧ h.cf 0x8C0 5 5 = 0) →
    h.trapMode { cause := 24 } = 3 →
    Completes (.instructionExecute i (.fp op rm rd rs1 rs2 rs3 true)) s fun t =>
      TrappedM i.hart 24 (BitVec.ofNat 64 v.2) h.pc 0 u t ∧ (t.hart i.hart).c 0x003 = h.c 0x003) ∧
  (∀ (s : State) (i : Ins) (rd rs1 : Nat),
    let u := s.fetched i
    s.ready i = true →
    (u.hart i.hart).fsOff = false →
    Completes (.instructionExecute i (.fmvToInt rd rs1 true)) s fun t =>
      Retired i (fun x => x.wx rd (x.rf rs1)) u t) ∧
  (∀ (s : State) (i : Ins) (rd rs1 : Nat),
    let u := s.fetched i
    s.ready i = true →
    (u.hart i.hart).fsOff = false →
    Completes (.instructionExecute i (.fmvToFp rd rs1 true)) s fun t =>
      Retired i (fun x => x.wf rd (x.rx rs1)) u t ∧ (t.hart i.hart).cf 0x300 14 13 = 3) ∧
  (∀ (s : State) (i : Ins) (rd rs1 : Nat),
    let u := s.fetched i
    s.ready i = true →
    (u.hart i.hart).fsOff = false →
    Completes (.instructionExecute i (.fsgnj 1 rd rs1 rs1 true)) s fun t =>
      Retired i (fun x => x.wf rd (x.rf rs1 ^^^ 0x8000000000000000)) u t) ∧
  (∀ (s : State) (i : Ins) (code vd vs1 vs2 rs1 : Nat),
    let u := s.fetched i
    let h := u.hart i.hart
    s.ready i = true →
    h.vsOff = false →
    h.det = false →
    (h.c 0xC21).toNat < 2 ^ 63 →
    Completes (.instructionExecute i (.vec code vd vs1 vs2 rs1 false false false)) s fun t =>
      (t.hart i.hart).c 0x008 = 0 ∧ (t.hart i.hart).cf 0x300 10 9 = 3 ∧ (t.hart i.hart).x = h.x ∧ (t.hart i.hart).f = h.f ∧
      (t.hart i.hart).pc = (h.pc + insLen i) % 2 ^ 64) ∧
  (∀ (s : State) (i : Ins) (rd rs1 vt : Nat),
    let u := s.fetched i
    let h := u.hart i.hart
    s.ready i = true →
    h.vsOff = false →
    h.det = false →
    vtypeOk vt = true →
    rs1 % 32 ≠ 0 →
    let vl := BitVec.ofNat 64 (min (h.rx rs1).toNat (vlmax vt))
    Completes (.instructionExecute i (.vsetvl rd rs1 vt 0)) s fun t =>
      Retired i (fun x => x.wx rd vl) u t ∧ (t.hart i.hart).c 0xC20 = vl ∧ (t.hart i.hart).c 0xC21 = BitVec.ofNat 64 vt) ∧
  (∀ (s : State) (i : Ins) (rd num : Nat),
    let u := s.fetched i
    s.ready i = true →
    (u.hart i.hart).csrFault num false (u.hdbg i.hart).prog = none →
    (num ≠ 0xB00 ∧ num ≠ 0xC00) →
    Completes (.instructionExecute i (.csrRead rd num)) s fun t =>
      Retired i (fun x => x.wx rd (u.csrRead i.hart (vsNumber x num) 0)) u t) ∧
  (∀ (s : State) (i : Ins) (rd num cause : Nat),
    let u := s.fetched i
    let h := u.hart i.hart
    s.ready i = true →
    (s.hdbg i.hart).prog = false →
    h.csrFault num false false = some cause →
    h.trapMode { cause := cause } = 3 →
    Completes (.instructionExecute i (.csrRead rd num)) s fun t =>
      TrappedM i.hart (BitVec.ofNat 64 cause) (BitVec.ofNat 64 (insBits i)) h.pc 0 u t) ∧
  (∀ (s : State) (i : Ins),
    let u := s.fetched i
    s.ready i = true →
    Completes (.instructionExecute i .hint) s fun t =>
      Retired i (fun x => x) u t) ∧
  (∀ (s : State) (i : Ins),
    let u := s.fetched i
    s.ready i = true →
    (u.hart i.hart).priv = 3 →
    (u.hart i.hart).virt = false →
    Completes (.instructionExecute i .wfi) s fun t =>
      Retired i (fun x => x) u t ∧ (t.hart i.hart).wfi = true) ∧
  (∀ (s : State) (i : Ins),
    let u := s.fetched i
    let h := u.hart i.hart
    let code := if h.priv = 0 then 8 else if h.priv = 3 then 11 else if h.virt then 10 else 9
    s.ready i = true →
    (s.hdbg i.hart).prog = false →
    h.trapMode { cause := code } = 3 →
    Completes (.instructionExecute i .ecall) s fun t =>
      TrappedM i.hart (BitVec.ofNat 64 code) 0 h.pc 0 u t) ∧
  (∀ (s : State) (i : Ins),
    let u := s.fetched i
    let h := u.hart i.hart
    s.ready i = true →
    (s.hdbg i.hart).prog = false →
    (s.hdbg i.hart).dcsr = 0 →
    h.trapMode { cause := 3 } = 3 →
    Completes (.instructionExecute i .ebreak) s fun t =>
      TrappedM i.hart 3 (BitVec.ofNat 64 h.pc) h.pc 0 u t) ∧
  (∀ (s : State) (i : Ins),
    let u := s.fetched i
    let h := u.hart i.hart
    s.ready i = true →
    (s.hdbg i.hart).prog = false →
    h.trapMode { cause := 2 } = 3 →
    Completes (.instructionExecute i .illegal) s fun t =>
      TrappedM i.hart 2 (BitVec.ofNat 64 (insBits i)) h.pc 0 u t)

/-- R333, R334, R338, R341, R342, R353: a misprediction is counted; an ordering flush discards the load and what is younger,
returns to it and learns the pair; a replay forgets what the load read; an exception and an interrupt into M-mode save pc, cause
and value, set the status, drop the younger loads and clear the predictor; MRET and SRET restore what they saved. -/
def Obligations.PipelineEventsComplete : Prop :=
  (∀ (s : State) (h pc : Nat),
    s.hartUp h = true →
    s.nodeOf h < 224 →
    (s.hart h).det = false →
    (s.hart h).pred.base.any (·.1 == pc) = true →
    Completes (.branchMispredict h pc) s fun t =>
      Counted (CORE_BR_MISP (s.nodeOf h)) 1 s t ∧ t.core = s.core) ∧
  (∀ (s : State) (h a b : Nat),
    s.hartUp h = true →
    s.nodeOf h < 224 →
    (s.hart h).det = false →
    (s.hart h).lq.any (·.pc == a) = true →
    Completes (.memoryOrderFlush h a b) s fun t =>
      (t.hart h).pc = a ∧ (t.hart h).lq = (s.hart h).lq.takeWhile (fun e => e.pc != a) ∧
      (t.hart h).pred.storeSets.head? = some (a, b, (s.hart h).pred.tag) ∧ Counted (CORE_MEMORDER_FLUSH (s.nodeOf h)) 1 s t) ∧
  (∀ (s : State) (h : Nat) (e : LoadEnt),
    s.hartUp h = true →
    (s.hart h).lq = [e] →
    e.replay = true →
    e.pa / 64 = e.pa2 / 64 →
    s.l2 (s.nodeOf h) (e.pa / 64) = none →
    (s.hart h).sq = [] →
    s.asked (s.nodeOf h) (e.pa / 64) = false →
    Completes (.loadReplay h) s fun t =>
      (t.hart h).lq = [{ e with val := none, got := [], replay := false }] ∧
      t.coh.reqs.map (fun q => (q.req, q.flit.opcode, q.flit.line)) =
      s.coh.reqs.map (fun q => (q.req, q.flit.opcode, q.flit.line)) ++ [(s.nodeOf h, opRdShared, e.pa / 64)]) ∧
  (∀ (s : State) (h cause tval gpa : Nat),
    s.hartUp h = true →
    (s.hdbg h).prog = false →
    cause < 64 →
    s.nodeOf h < 224 →
    (s.hart h).lq = [] →
    (s.hart h).trapMode { cause := cause } = 3 →
    Completes (.exception h cause tval gpa) s fun t =>
      TrappedM h (BitVec.ofNat 64 cause) (BitVec.ofNat 64 tval) (s.hart h).pc 0 s t ∧
      (t.hart h).c 0x34B = BitVec.ofNat 64 (gpa / 4) ∧ (t.hart h).c 0x34A = 0 ∧ (t.hart h).pred.base = [] ∧ (t.hart h).pred.ras = []) ∧
  (∀ (s : State) (h cause tval gpa : Nat),
    let a := s.hart h
    s.hartUp h = true →
    (s.hdbg h).prog = false →
    cause < 64 →
    a.lq = [] →
    a.trapMode { cause := cause } = 1 →
    s.etrig h cause = none →
    a.virt = false →
    Completes (.exception h cause tval gpa) s fun t =>
      (t.hart h).priv = 1 ∧ (t.hart h).virt = false ∧ (t.hart h).c 0x141 = BitVec.ofNat 64 a.pc ∧
      (t.hart h).c 0x142 = BitVec.ofNat 64 cause ∧ (t.hart h).c 0x143 = BitVec.ofNat 64 tval ∧
      (t.hart h).cf 0x300 1 1 = 0 ∧ (t.hart h).cf 0x300 5 5 = a.cf 0x300 1 1 ∧ (t.hart h).cf 0x300 8 8 = min a.priv 1 ∧
      (t.hart h).cf 0x600 7 7 = 0 ∧ (t.hart h).pc = (a.c 0x105).toNat / 4 * 4) ∧
  (∀ (s : State) (h cause : Nat),
    let a := s.hart h
    s.hartUp h = true →
    (s.hdbg h).prog = false →
    a.lq = [] →
    s.intrOf h = some cause →
    a.trapMode { cause := cause, intr := true } = 3 →
    Completes (.interruptTaken h) s fun t =>
      TrappedM h (BitVec.ofNat 64 (2 ^ 63 + cause)) 0 a.pc (if (a.c 0x305).toNat % 4 = 1 then 4 * cause else 0) s t) ∧
  (∀ (s : State) (i : Ins),
    let u := s.fetched i
    let a := u.hart i.hart
    s.ready i = true →
    a.sq = [] →
    a.priv = 3 →
    Completes (.xret i true) s fun t =>
      (t.hart i.hart).priv = a.cf 0x300 12 11 ∧ (t.hart i.hart).pc = (a.c 0x341).toNat ∧
      (t.hart i.hart).virt = (a.cf 0x300 12 11 != 3 && a.cf 0x300 39 39 == 1) ∧
      (t.hart i.hart).cf 0x300 3 3 = a.cf 0x300 7 7 ∧ (t.hart i.hart).cf 0x300 7 7 = 1 ∧ (t.hart i.hart).cf 0x300 12 11 = 0 ∧
      (t.hart i.hart).x = a.x) ∧
  (∀ (s : State) (i : Ins),
    let u := s.fetched i
    let a := u.hart i.hart
    s.ready i = true →
    a.sq = [] →
    a.priv = 1 →
    a.virt = false →
    a.cf 0x300 22 22 = 0 →
    Completes (.xret i false) s fun t =>
      (t.hart i.hart).priv = a.cf 0x300 8 8 ∧ (t.hart i.hart).pc = (a.c 0x141).toNat ∧
      (t.hart i.hart).virt = (a.cf 0x600 7 7 == 1) ∧ (t.hart i.hart).cf 0x300 1 1 = a.cf 0x300 5 5 ∧
      (t.hart i.hart).cf 0x300 5 5 = 1 ∧ (t.hart i.hart).cf 0x300 8 8 = 0 ∧ (t.hart i.hart).x = a.x)

/-- R91 to R96, R330 to R336, R352: a load gives the bytes of a held line or of the youngest older store; a store waits in the store
queue and drains into its line; an AMO writes the line and gives the old value; LR takes and SC uses the reservation; PAUSE,
fences, prefetches and cache-block operations. `u` is the state in which the body is carried out. -/
def Obligations.MemoryInstructionsComplete : Prop :=
  (∀ (s : State) (i : Ins) (rd rs1 size p : Nat) (imm : Int) (y : L2Line),
    let u := s.fetched i
    let h := u.hart i.hart
    let va := pcAdd (h.rx rs1).toNat imm
    s.ready i = true →
    h.det = false →
    size ≤ 8 →
    accParts va size = [(va, size)] →
    h.overlap { rd := rd, pa := p, pa2 := p, n1 := size, va := va, size := size, kind := .signed, pc := h.pc, len := insLen i } = [] →
    u.trigAt i.hart 0 va = none →
    u.goes i.hart (h.dataAcc 0 0) va size [.dram, .tcm, .io] = some (p, .dram) →
    u.l2 (u.nodeOf i.hart) (p / 64) = some y →
    y.poison = false →
    Completes (.load i rd rs1 imm size .signed 0) s fun t =>
      Retired i (fun x => x.wx rd (BitVec.ofInt 64 (BitVec.ofNat (8 * size) (lineNat y.data (p % 64) size)).toInt)) u t ∧
      (t.hart i.hart).lq = []) ∧
  (∀ (s : State) (i : Ins) (rd rs1 p : Nat) (imm : Int) (e : StoreEnt),
    let u := s.fetched i
    let h := u.hart i.hart
    let va := pcAdd (h.rx rs1).toNat imm
    s.ready i = true →
    h.det = false →
    va % 8 = 0 →
    h.sq = [e] →
    e = { e with pa := p, size := 8, vector := false, kind := 0 } →
    u.trigAt i.hart 0 va = none →
    u.goes i.hart (h.dataAcc 0 0) va 8 [.dram, .tcm, .io] = some (p, .dram) →
    Completes (.load i rd rs1 imm 8 .unsigned 0) s fun t =>
      Retired i (fun x => x.wx rd (BitVec.ofNat 64 (e.data % 2 ^ 64))) u t ∧ (t.hart i.hart).sq = [e]) ∧
  (∀ (s : State) (i : Ins) (rs1 rs2 size p : Nat) (imm : Int),
    let u := s.fetched i
    let h := u.hart i.hart
    let va := pcAdd (h.rx rs1).toNat imm
    s.ready i = true →
    h.det = false →
    h.sq.length < 96 →
    accParts va size = [(va, size)] →
    u.trigAt i.hart 1 va = none →
    u.goes i.hart (h.dataAcc 1 0) va size [.dram, .tcm, .io] = some (p, .dram) →
    Completes (.store i rs1 rs2 imm size .unsigned 0) s fun t =>
      Retired i (fun x => x) u t ∧
      (t.hart i.hart).sq = h.sq ++ [{ pa := p, size := size, data := (h.rx rs2).toNat % 2 ^ (8 * size), vector := false, kind := 0 }]) ∧
  (∀ (s : State) (h : Nat) (e : StoreEnt) (y : L2Line),
    let n := s.nodeOf h
    (s.hart h).sq = [e] →
    e.sent = false →
    e.kind = 0 →
    (s.hartNode h).isSome = true →
    (s.hart h).lost = false →
    (s.hart h).det = false →
    (s.hart h).lq = [] →
    (Tab.getD s.cache.stream n {}).count < 8 →
    s.l2 n (e.pa / 64) = some y →
    (y.st = .m ∨ y.st = .e) →
    Completes (.storeDrain h) s fun t =>
      (t.hart h).sq = [] ∧ (t.l2 n (e.pa / 64)).map (fun z => (z.st, z.data)) = some (.m, putLine y.data (e.pa % 64) e.size e.data)) ∧
  (∀ (s : State) (h : Nat) (e : StoreEnt),
    let n := s.nodeOf h
    (s.hart h).sq = [e] →
    e.sent = false →
    e.kind < 2 →
    (s.hartNode h).isSome = true →
    (s.hart h).lost = false →
    (s.hart h).det = false →
    (Tab.getD s.cache.stream n {}).count < 8 →
    s.l2 n (e.pa / 64) = none →
    s.asked n (e.pa / 64) = false →
    Completes (.storeDrain h) s fun t =>
      (t.hart h).sq = [e] ∧ t.coh.reqs.map (fun q => (q.req, q.flit.opcode, q.flit.line)) =
      s.coh.reqs.map (fun q => (q.req, q.flit.opcode, q.flit.line)) ++
      [(n, if e.kind = 1 then opClaimZero else opRdUnique, e.pa / 64)]) ∧
  (∀ (s : State) (i : Ins) (op : AmoOp) (rd rs1 rs2 size p : Nat) (y : L2Line),
    let u := s.fetched i
    let h := u.hart i.hart
    let va := (h.rx rs1).toNat
    let old := lineNat y.data (p % 64) size
    s.ready i = true →
    h.det = false →
    h.sq = [] →
    (size = 4 ∨ size = 8) →
    va % size = 0 →
    u.goes i.hart (h.dataAcc 1 0) va size [.dram, .tcm, .io] = some (p, .dram) →
    u.l2 (u.nodeOf i.hart) (p / 64) = some y →
    y.poison = false →
    (y.st = .m ∨ y.st = .e) →
    Completes (.amo i op rd rs1 rs2 size) s fun t =>
      Retired i (fun x => x.wx rd (sxN size old)) u t ∧
      (t.l2 (u.nodeOf i.hart) (p / 64)).map (fun z => (z.st, z.data)) =
      some (.m, putLine y.data (p % 64) size (amoOp op size old ((h.rx rs2).toNat % 2 ^ (8 * size))))) ∧
  (∀ (s : State) (i : Ins) (rd rs1 size p : Nat) (y : L2Line),
    let u := s.fetched i
    let h := u.hart i.hart
    let va := (h.rx rs1).toNat
    s.ready i = true →
    h.det = false →
    h.sq = [] →
    (size = 4 ∨ size = 8) →
    va % size = 0 →
    u.goes i.hart (h.dataAcc 0 0) va size [.dram, .tcm, .io] = some (p, .dram) →
    u.l2 (u.nodeOf i.hart) (p / 64) = some y →
    y.poison = false →
    (y.st = .m ∨ y.st = .e) →
    Completes (.loadReserved i rd rs1 size) s fun t =>
      Retired i (fun x => x.wx rd (sxN size (lineNat y.data (p % 64) size))) u t ∧ (t.hart i.hart).resv = some (p / 64)) ∧
  (∀ (s : State) (i : Ins) (rd rs1 rs2 size p : Nat) (y : L2Line),
    let u := s.fetched i
    let h := u.hart i.hart
    let va := (h.rx rs1).toNat
    s.ready i = true →
    h.det = false →
    h.sq = [] →
    (size = 4 ∨ size = 8) →
    va % size = 0 →
    u.goes i.hart (h.dataAcc 1 0) va size [.dram, .tcm, .io] = some (p, .dram) →
    h.resv = some (p / 64) →
    u.l2 (u.nodeOf i.hart) (p / 64) = some y →
    y.poison = false →
    (y.st = .m ∨ y.st = .e) →
    Completes (.storeConditional i rd rs1 rs2 size) s fun t =>
      Retired i (fun x => x.wx rd 0) u t ∧ (t.hart i.hart).resv = none ∧
      (t.l2 (u.nodeOf i.hart) (p / 64)).map (fun z => (z.st, z.data)) =
      some (.m, putLine y.data (p % 64) size ((h.rx rs2).toNat % 2 ^ (8 * size)))) ∧
  (∀ (s : State) (i : Ins) (rd rs1 rs2 size p : Nat),
    let u := s.fetched i
    let h := u.hart i.hart
    let va := (h.rx rs1).toNat
    s.ready i = true →
    h.sq = [] →
    va % size = 0 →
    u.goes i.hart (h.dataAcc 1 0) va size [.dram, .tcm] = some (p, .dram) →
    h.resv ≠ some (p / 64) →
    Completes (.storeConditional i rd rs1 rs2 size) s fun t =>
      Retired i (fun x => x.wx rd 1) u t ∧ (t.hart i.hart).resv = none ∧ t.cache = u.cache) ∧
  (∀ (s : State) (i : Ins) (pred : Nat),
    let u := s.fetched i
    s.ready i = true →
    (u.hart i.hart).sq = [] →
    (u.hart i.hart).btnOut = 0 →
    Completes (.fence i pred) s fun t =>
      Retired i (fun x => x) u t) ∧
  (∀ (s : State) (i : Ins),
    let u := s.fetched i
    s.ready i = true →
    (u.hart i.hart).sq = [] →
    Completes (.fenceI i) s fun t =>
      Retired i (fun x => x) u t ∧ (t.hart i.hart).fbuf = none) ∧
  (∀ (s : State) (i : Ins),
    let u := s.fetched i
    s.ready i = true →
    Completes (.pause i) s fun t =>
      Retired i (fun x => x) u t ∧ (t.hart i.hart).pauseUntil = u.clk.time + 320 / max 1 (u.coreFreq (u.nodeOf i.hart)) + 1) ∧
  (∀ (s : State) (i : Ins) (rs1 p : Nat) (imm : Int),
    let u := s.fetched i
    let h := u.hart i.hart
    let va := pcAdd (h.rx rs1).toNat imm
    s.ready i = true →
    h.det = false →
    u.prefetchOk (u.nodeOf i.hart) = true →
    (u.reach i.hart (h.dataAcc 2 0) va 1 [.dram]).toOption.map (fun r => (r.1.pa, r.1.upd)) = some (p, []) →
    u.l2 (u.nodeOf i.hart) (p / 64) = none →
    u.asked (u.nodeOf i.hart) (p / 64) = false →
    Completes (.prefetchI i rs1 imm) s fun t =>
      Retired i (fun x => x) u t ∧ t.coh.reqs.map (fun q => (q.req, q.flit.opcode, q.flit.line)) =
      u.coh.reqs.map (fun q => (q.req, q.flit.opcode, q.flit.line)) ++ [(u.nodeOf i.hart, opRdShared, p / 64)]) ∧
  (∀ (s : State) (i : Ins) (rs1 p : Nat) (imm : Int),
    let u := s.fetched i
    let h := u.hart i.hart
    let va := pcAdd (h.rx rs1).toNat imm
    s.ready i = true →
    h.det = false →
    u.prefetchOk (u.nodeOf i.hart) = true →
    (u.reach i.hart (h.dataAcc 0 0) va 1 [.dram]).toOption.map (fun r => (r.1.pa, r.1.upd)) = some (p, []) →
    u.l2 (u.nodeOf i.hart) (p / 64) = none →
    u.asked (u.nodeOf i.hart) (p / 64) = false →
    Completes (.prefetchR i rs1 imm) s fun t =>
      Retired i (fun x => x) u t ∧ t.coh.reqs.map (fun q => (q.req, q.flit.opcode, q.flit.line)) =
      u.coh.reqs.map (fun q => (q.req, q.flit.opcode, q.flit.line)) ++ [(u.nodeOf i.hart, opRdShared, p / 64)]) ∧
  (∀ (s : State) (i : Ins) (rs1 p : Nat) (imm : Int),
    let u := s.fetched i
    let h := u.hart i.hart
    let va := pcAdd (h.rx rs1).toNat imm
    s.ready i = true →
    h.det = false →
    u.prefetchOk (u.nodeOf i.hart) = true →
    (u.reach i.hart (h.dataAcc 1 0) va 1 [.dram]).toOption.map (fun r => (r.1.pa, r.1.upd)) = some (p, []) →
    u.l2 (u.nodeOf i.hart) (p / 64) = none →
    u.asked (u.nodeOf i.hart) (p / 64) = false →
    Completes (.prefetchW i rs1 imm) s fun t =>
      Retired i (fun x => x) u t ∧ t.coh.reqs.map (fun q => (q.req, q.flit.opcode, q.flit.line)) =
      u.coh.reqs.map (fun q => (q.req, q.flit.opcode, q.flit.line)) ++ [(u.nodeOf i.hart, opRdUnique, p / 64)]) ∧
  (∀ (s : State) (i : Ins) (rs1 p : Nat),
    let u := s.fetched i
    let h := u.hart i.hart
    s.ready i = true →
    h.sq.length < 96 →
    h.cboFault 7 = none →
    u.goes i.hart (h.dataAcc 1 0) ((h.rx rs1).toNat / 64 * 64) 64 [.dram, .tcm] = some (p, .dram) →
    Completes (.cboZero i rs1) s fun t =>
      Retired i (fun x => x) u t ∧ (t.hart i.hart).sq = h.sq ++ [{ pa := p, size := 64, data := 0, vector := false, kind := 1 }]) ∧
  (∀ (s : State) (i : Ins) (rs1 p : Nat),
    let u := s.fetched i
    let h := u.hart i.hart
    s.ready i = true →
    h.sq.length < 96 →
    h.cboFault 6 = none →
    u.goes i.hart (h.dataAcc 1 0) ((h.rx rs1).toNat / 64 * 64) 64 [.dram, .tcm] = some (p, .dram) →
    Completes (.cboClean i rs1) s fun t =>
      Retired i (fun x => x) u t ∧ (t.hart i.hart).sq = h.sq ++ [{ pa := p, size := 64, data := 0, vector := false, kind := 2 }]) ∧
  (∀ (s : State) (i : Ins) (rs1 p : Nat),
    let u := s.fetched i
    let h := u.hart i.hart
    s.ready i = true →
    h.sq.length < 96 →
    h.cboFault 6 = none →
    u.goes i.hart (h.dataAcc 1 0) ((h.rx rs1).toNat / 64 * 64) 64 [.dram, .tcm] = some (p, .dram) →
    Completes (.cboFlush i rs1) s fun t =>
      Retired i (fun x => x) u t ∧ (t.hart i.hart).sq = h.sq ++ [{ pa := p, size := 64, data := 0, vector := false, kind := 3 }]) ∧
  (∀ (s : State) (i : Ins) (rs1 p : Nat),
    let u := s.fetched i
    let h := u.hart i.hart
    s.ready i = true →
    h.sq.length < 96 →
    h.cboFault 4 = none →
    u.goes i.hart (h.dataAcc 1 0) ((h.rx rs1).toNat / 64 * 64) 64 [.dram, .tcm] = some (p, .dram) →
    Completes (.cboInval i rs1) s fun t =>
      Retired i (fun x => x) u t ∧ (t.hart i.hart).sq = h.sq ++ [{ pa := p, size := 64, data := 0, vector := false, kind := 3 }])

/-- R330, R341, R344, R360, R361, R365, R367, R381, R474 to R478: a CSR write gives the old value and stores the new one under the
CSR's mask; the writes of the core's own CSRs have their effects; a translation fence removes exactly the entries that it
names; FPSYNC retires, or traps with the pending flags and clears them; WGATE passes into the other world or is refused
with its reason. `u` is the state in which the body is carried out. -/
def Obligations.SystemInstructionsComplete : Prop :=
  (∀ (s : State) (i : Ins) (rd num rs1 : Nat),
    let u := s.fetched i
    let h := u.hart i.hart
    let k := if h.virt && [0x105, 0x140, 0x141, 0x142, 0x143].contains num then num + 0x100 else num
    s.ready i = true →
    h.sq = [] →
    csrPlain.contains num = true →
    [0x30A, 0x10A, 0x60A, 0x3A0, 0x3A2].contains num = false →
    h.csrFault num true (u.hdbg i.hart).prog = none →
    Completes (.csrWrite i rd num 0 rs1 false) s fun t =>
      (t.hart i.hart).x = (h.wx rd (h.c k)).x ∧ (t.hart i.hart).pc = (h.pc + insLen i) % 2 ^ 64 ∧
      (num ≠ 0xB02 → (t.hart i.hart).c k = (h.c k &&& ~~~ csrMask k) ||| (h.rx rs1 &&& csrMask k)) ∧
      (num = 0xB02 → (t.hart i.hart).c num = h.rx rs1)) ∧
  (∀ (s : State) (i : Ins) (rd num rs1 : Nat),
    let u := s.fetched i
    let h := u.hart i.hart
    s.ready i = true →
    h.sq = [] →
    (num = 0x340 ∨ num = 0x342 ∨ num = 0x343) →
    h.priv = 3 →
    Completes (.csrWrite i rd num 1 rs1 false) s fun t =>
      (t.hart i.hart).x = (h.wx rd (h.c num)).x ∧ (t.hart i.hart).c num = (h.c num ||| (if rs1 % 32 = 0 then 0 else h.rx rs1)) ∧
      (t.hart i.hart).pc = (h.pc + insLen i) % 2 ^ 64) ∧
  (∀ (s : State) (i : Ins) (rd rs1 : Nat),
    let u := s.fetched i
    let h := u.hart i.hart
    let v := h.rx rs1
    s.ready i = true →
    h.sq = [] →
    h.priv = 3 →
    h.det = false →
    h.btnOut = 0 →
    u.nodeOf i.hart < 224 →
    (u.reqsOf (u.nodeOf i.hart)).all (fun q => q.why == .evict) = true →
    v.getLsbD 0 = true →
    u.dramOf h.world (v.toNat / 2 ^ 16 % 2 ^ 32 * 2 ^ 16) 65536 = true →
    Completes (.deterministicEnter i rd 0 rs1 false) s fun t =>
      (t.hart i.hart).det = true ∧ (t.hart i.hart).c 0x7C0 = v &&& 0xFFFFFFFF0001 ∧ (t.hart i.hart).tcm = [] ∧
      (t.hart i.hart).pred.base = [] ∧ (t.cache.l2.filter fun p => keyNode p.1 == u.nodeOf i.hart) = [] ∧
      (t.hart i.hart).x = (h.wx rd (h.c 0x7C0)).x ∧ Counted (CORE_DET_SWITCH (u.nodeOf i.hart)) 1 u t) ∧
  (∀ (s : State) (i : Ins) (rd rs1 : Nat),
    let u := s.fetched i
    let h := u.hart i.hart
    s.ready i = true →
    h.sq = [] →
    h.priv = 3 →
    h.det = true →
    h.btnOut = 0 →
    u.nodeOf i.hart < 224 →
    (u.reqsOf (u.nodeOf i.hart)).all (fun q => q.why == .evict) = true →
    (h.rx rs1).getLsbD 0 = false →
    Completes (.deterministicExit i rd 0 rs1 false) s fun t =>
      (t.hart i.hart).det = false ∧ (t.hart i.hart).c 0x7C0 = h.c 0x7C0 &&& 0xFFFFFFFF0000 ∧ (t.hart i.hart).tcm = [] ∧
      (t.hart i.hart).x = (h.wx rd (h.c 0x7C0)).x ∧ Counted (CORE_DET_SWITCH (u.nodeOf i.hart)) 1 u t) ∧
  (∀ (s : State) (i : Ins) (rd rs1 : Nat),
    let u := s.fetched i
    let h := u.hart i.hart
    s.ready i = true →
    h.sq = [] →
    1 ≤ h.priv →
    h.virt = false →
    u.nodeOf i.hart < 224 →
    (h.rx rs1).getLsbD 0 = true →
    Completes (.coreBpctlFlush i rd 0 rs1 false) s fun t =>
      Retired i (fun x => x.wx rd 0) u t ∧ (t.hart i.hart).pred = { tag := h.pred.tag } ∧
      Counted (CORE_BP_FLUSH (u.nodeOf i.hart)) 1 u t) ∧
  (∀ (s : State) (i : Ins) (rd rs1 : Nat),
    let u := s.fetched i
    let h := u.hart i.hart
    s.ready i = true →
    h.sq = [] →
    1 ≤ h.priv →
    h.virt = false →
    Completes (.coreBpctxWrite i rd 0 rs1 false) s fun t =>
      Retired i (fun x => x.wx rd 0) u t ∧ (t.hart i.hart).c 0x5C0 = h.rx rs1 ∧ (t.hart i.hart).pred.tag = (t.hart i.hart).bpTag) ∧
  (∀ (s : State) (i : Ins) (rd rs1 : Nat),
    let u := s.fetched i
    let h := u.hart i.hart
    s.ready i = true →
    h.sq = [] →
    h.fsOff = false →
    Completes (.coreFpctlWrite i rd 0 rs1 false) s fun t =>
      Retired i (fun x => x.wx rd (x.c 0x8C0)) u t ∧
      (t.hart i.hart).c 0x8C0 = (h.c 0x8C0 &&& ~~~ 0x1F3F) ||| (h.rx rs1 &&& 0x1F3F) ∧ (t.hart i.hart).cf 0x300 14 13 = 3) ∧
  (∀ (s : State) (i : Ins),
    let u := s.fetched i
    let h := u.hart i.hart
    s.ready i = true →
    h.sq = [] →
    h.fsOff = false →
    h.cf 0x8C0 12 8 = 0 →
    Completes (.fpsync i) s fun t =>
      Retired i (fun x => x) u t) ∧
  (∀ (s : State) (i : Ins),
    let u := s.fetched i
    let h := u.hart i.hart
    let p := h.cf 0x8C0 12 8
    s.ready i = true →
    (s.hdbg i.hart).prog = false →
    h.sq = [] →
    h.fsOff = false →
    p ≠ 0 →
    h.trapMode { cause := 24 } = 3 →
    Completes (.fpsync i) s fun t =>
      TrappedM i.hart 24 (BitVec.ofNat 64 p) h.pc 0 u t ∧ (t.hart i.hart).cf 0x8C0 12 8 = 0 ∧ (t.hart i.hart).cf 0x300 14 13 = 3) ∧
  (∀ (s : State) (i : Ins) (rs1 rs2 : Nat),
    let u := s.fetched i
    let h := u.hart i.hart
    let out := fun (e : TlbEnt) => e.world == h.world && !e.v && fenceSel (h.fenceArg rs1 64) (h.fenceArg rs2 16) e
    s.ready i = true →
    h.sq = [] →
    1 ≤ h.priv →
    h.virt = false →
    (h.priv = 3 ∨ h.cf 0x300 20 20 = 0) →
    Completes (.sfenceVma i rs1 rs2) s fun t =>
      Retired i (fun x => x) u t ∧ (t.hart i.hart).l2tlb = h.l2tlb.filter (fun e => !out e) ∧
      (t.hart i.hart).dtlb = h.dtlb.filter (fun p => !out p.2) ∧ (t.hart i.hart).itlb = h.itlb.filter (fun p => !out p.2)) ∧
  (∀ (s : State) (i : Ins) (rs1 rs2 : Nat),
    let u := s.fetched i
    let h := u.hart i.hart
    let vm := h.cf 0x680 57 44
    let out := fun (e : TlbEnt) => e.world == h.world && (e.v && e.vmid == vm && fenceSel (h.fenceArg rs1 64) (h.fenceArg rs2 16) e)
    s.ready i = true →
    h.sq = [] →
    1 ≤ h.priv →
    h.virt = false →
    Completes (.hfenceVvma i rs1 rs2) s fun t =>
      Retired i (fun x => x) u t ∧ (t.hart i.hart).l2tlb = h.l2tlb.filter (fun e => !out e) ∧
      (t.hart i.hart).dtlb = h.dtlb.filter (fun p => !out p.2) ∧ (t.hart i.hart).itlb = h.itlb.filter (fun p => !out p.2)) ∧
  (∀ (s : State) (i : Ins) (rs2 : Nat),
    let u := s.fetched i
    let h := u.hart i.hart
    let out := fun (e : TlbEnt) => e.world == h.world && e.v && (decide (rs2 % 32 = 0) || e.vmid == (h.rx rs2).toNat % 2 ^ 14)
    s.ready i = true →
    h.sq = [] →
    1 ≤ h.priv →
    h.virt = false →
    (h.priv ≠ 1 ∨ h.cf 0x300 20 20 = 0) →
    Completes (.hfenceGvma i rs2) s fun t =>
      Retired i (fun x => x) u t ∧ (t.hart i.hart).l2tlb = h.l2tlb.filter (fun e => !out e) ∧
      (t.hart i.hart).dtlb = h.dtlb.filter (fun p => !out p.2) ∧ (t.hart i.hart).itlb = h.itlb.filter (fun p => !out p.2)) ∧
  (∀ (s : State) (i : Ins) (rs1 target : Nat),
    let u := s.fetched i
    let h := u.hart i.hart
    let slot := (h.rx rs1).toNat % 1024
    s.ready i = true →
    h.sq = [] →
    1 ≤ h.priv →
    h.virt = false →
    u.intrOf i.hart = none →
    u.nodeOf i.hart < 224 →
    (u.gateCheck h slot).toOption = some target →
    Completes (.wgate i rs1) s fun t =>
      (t.hart i.hart).world = !h.world ∧ (t.hart i.hart).priv = 3 ∧ (t.hart i.hart).virt = false ∧ (t.hart i.hart).pc = target ∧
      (t.hart i.hart).rx 5 = BitVec.ofNat 64 (slot + h.priv * 1024) ∧
      (∀ k : Fin 8, (t.hart i.hart).rx (10 + k) = h.rx (10 + k)) ∧ (t.hart i.hart).rx 1 = 0 ∧ (t.hart i.hart).rx 2 = 0 ∧
      (t.hart i.hart).cIn h.world 0x341 = BitVec.ofNat 64 (h.pc + 4) ∧ (t.hart i.hart).cf 0x300 3 3 = 0 ∧
      (t.hart i.hart).f = [] ∧ (t.hart i.hart).v = [] ∧ (t.hart i.hart).resv = none ∧ (t.hart i.hart).pred.base = [] ∧
      Counted SEL_GATE_OK 1 u t) ∧
  (∀ (s : State) (i : Ins) (rs1 r : Nat),
    let u := s.fetched i
    let h := u.hart i.hart
    let slot := (h.rx rs1).toNat % 1024
    s.ready i = true →
    (s.hdbg i.hart).prog = false →
    i.hart < 192 →
    h.sq = [] →
    1 ≤ h.priv →
    h.virt = false →
    u.intrOf i.hart = none →
    h.trapMode { cause := 2 } = 3 →
    (match u.gateCheck h slot with | .error r => some r | .ok _ => none) = some r →
    Completes (.wgate i rs1) s fun t =>
      TrappedM i.hart 2 (BitVec.ofNat 64 (insBits i)) h.pc 0 u t ∧
      t.get (SEL_GATE_FAULT i.hart) SEL_GATE_FAULT_REASON = r ∧ t.get (SEL_GATE_FAULT i.hart) SEL_GATE_FAULT_SLOT = slot ∧
      t.get (SEL_GATE_FAULT i.hart) SEL_GATE_FAULT_TARGET_WORLD = (if h.world then 0 else 1) ∧ Counted SEL_GATE_REFUSED 1 u t) ∧
  (∀ (s : State) (i : Ins),
    let u := s.fetched i
    s.ready i = true →
    Completes (.wland i) s fun t =>
      Retired i (fun x => x) u t)

/-- R395, R397, R399, R401, R403 to R405: a read is served from the pair buffer, or from the devices, where a correctable error is
corrected and counted, an uncorrectable one taken from the mirror, or answered poisoned with a UCR record; the other line of
the pair is kept. A write stores the line with its poison and answers COMP; two writes of one pair go out together, and a lone
one is merged after 200 ns. The fourth alert in a run retires the channel. -/
def Obligations.MemoryAccessesComplete : Prop :=
  (∀ (s : State) (c : Nat) (f : Flit) (w w2 : Nat),
    c < 12 →
    s.dbg.stopped = false →
    s.responder (mcNode c) = false →
    Tab.getD s.mc.lone c [] = [] →
    s.paired c f.line = true →
    Completes (.memRd (mcNode c) f w w2) s fun t =>
      Sends (mcNode c) [memDataOf f (s.lineAt f.line) (s.isPoison f.line)] s t ∧ t.mc = s.mc) ∧
  (∀ (s : State) (c : Nat) (f : Flit) (w w2 : Nat),
    c < 12 →
    s.dbg.stopped = false →
    s.responder (mcNode c) = false →
    Tab.getD s.mc.lone c [] = [] →
    s.paired c f.line = false →
    s.ras.injected = [] →
    s.badMark f.line w = 0 →
    Tab.getD s.mc.bad (companion f.line) 0 < 2 →
    Completes (.memRd (mcNode c) f w w2) s fun t =>
      Sends (mcNode c) [memDataOf f (s.lineAt f.line) (s.isPoison f.line)] s t ∧
      (Tab.getD t.mc.pairBuf c []).head? = some (companion f.line, s.clk.time) ∧
      Tab.getD t.mc.rankLast (rankKey c (Config.lineRank f.line)) 0 = s.clk.time) ∧
  (∀ (s : State) (c : Nat) (f : Flit) (w w2 : Nat),
    c < 12 →
    s.dbg.stopped = false →
    s.responder (mcNode c) = false →
    Tab.getD s.mc.lone c [] = [] →
    s.paired c f.line = false →
    s.ras.injected = [] →
    s.badMark f.line w = 1 →
    Completes (.memRd (mcNode c) f w w2) s fun t =>
      Sends (mcNode c) [memDataOf f (s.lineAt f.line) (s.isPoison f.line)] s t ∧ Tab.getD t.mc.bad f.line 0 = 0 ∧
      Counted (MC_CE c) 1 s t ∧ Counted (MC_DEMAND_FIX c) 1 s t ∧ Counted (RAS_CEC (bankOf (dimmId c))) 1 s t) ∧
  (∀ (s : State) (c : Nat) (f : Flit) (w w2 : Nat),
    c < 12 →
    s.dbg.stopped = false →
    s.responder (mcNode c) = false →
    Tab.getD s.mc.lone c [] = [] →
    s.paired c f.line = false →
    s.ras.injected = [] →
    s.badMark f.line w = 2 →
    s.mirrored c = false →
    Completes (.memRd (mcNode c) f w w2) s fun t =>
      Sends (mcNode c) [memDataOf f (s.lineAt f.line) true] s t ∧ Tab.getD t.mc.bad f.line 0 = 2 ∧
      Counted (MC_UCE c) 1 s t ∧ Logged (dimmId c) 2 cDram s t) ∧
  (∀ (s : State) (c : Nat) (f : Flit) (w w2 : Nat),
    c < 12 →
    s.dbg.stopped = false →
    s.responder (mcNode c) = false →
    Tab.getD s.mc.lone c [] = [] →
    s.paired c f.line = false →
    s.ras.injected = [] →
    s.badMark f.line w = 2 →
    s.mirrored c = true →
    max (Tab.getD s.mc.badB f.line 0) w2 < 2 →
    Completes (.memRd (mcNode c) f w w2) s fun t =>
      Sends (mcNode c) [memDataOf f (s.lineAt f.line) (s.isPoison f.line)] s t ∧ Tab.getD t.mc.bad f.line 0 = 0 ∧
      Counted (MC_MIRROR_RECOVER c) 1 s t ∧ Logged (dimmId c) 0 cDram s t) ∧
  (∀ (s : State) (c : Nat) (f : Flit),
    c < 12 →
    s.dbg.stopped = false →
    s.responder (mcNode c) = false →
    Tab.getD s.mc.lone c [] = [] →
    s.ras.injected = [] →
    Completes (.memWr (mcNode c) f) s fun t =>
      Sends (mcNode c) [{ answerTo f clsRSP opComp with dest := f.src }] s t ∧ t.lineAt f.line = f.data ∧ t.isPoison f.line = f.poison ∧
      Tab.getD t.mc.bad f.line 0 = 0 ∧ Tab.getD t.mc.lone c [] = [(f.line, s.clk.time)] ∧ t.paired c f.line = false) ∧
  (∀ (s : State) (c t0 : Nat) (f : Flit),
    c < 12 →
    s.dbg.stopped = false →
    s.responder (mcNode c) = false →
    Tab.getD s.mc.lone c [] = [(companion f.line, t0)] →
    s.clk.time ≤ t0 + 200 →
    s.ras.injected = [] →
    Completes (.memWr (mcNode c) f) s fun t =>
      Sends (mcNode c) [{ answerTo f clsRSP opComp with dest := f.src }] s t ∧ t.lineAt f.line = f.data ∧ t.isPoison f.line = f.poison ∧
      Tab.getD t.mc.lone c [] = [] ∧ t.reg (MC_PAIR_MERGE c) = s.reg (MC_PAIR_MERGE c)) ∧
  (∀ (s : State) (c l t0 : Nat),
    c < 12 →
    Tab.getD s.mc.pairBuf c [] = [(l, t0)] →
    Tab.getD s.mc.lone c [] = [] →
    Completes (.pairBufferExpiry c l) s fun t =>
      Tab.getD t.mc.pairBuf c [] = [] ∧ t0 + 200 ≤ t.clk.time) ∧
  (∀ (s : State) (c l t0 : Nat),
    c < 12 →
    Tab.getD s.mc.pairBuf c [] = [] →
    Tab.getD s.mc.lone c [] = [(l, t0)] →
    Tab.getD s.mc.bad (companion l) 0 = 2 →
    Completes (.pairBufferExpiry c l) s fun t =>
      Tab.getD t.mc.lone c [] = [] ∧ t0 + 200 ≤ t.clk.time ∧ Counted (MC_PAIR_MERGE c) 1 s t ∧ t.isPoison (companion l) = true) ∧
  (∀ (s : State) (c r : Nat),
    let idle := s.get (MC_CFG c) MC_CFG_PD_IDLE
    c < 12 →
    idle ≠ 0 →
    Completes (.rankPowerDown c r) s fun t =>
      (Tab.getD t.mc.powerDown c []).contains r = true ∧ Tab.getD s.mc.rankLast (rankKey c r) 0 +
      (idle * 1000 + max 1 (s.get (MC_CFG c) MC_CFG_SPEED * 50) - 1) / max 1 (s.get (MC_CFG c) MC_CFG_SPEED * 50) ≤ t.clk.time) ∧
  (∀ (s : State) (c : Nat) (write : Bool),
    c < 12 →
    Tab.getD s.mc.alerts c 0 = 0 →
    Completes (.ddrAlert c write) s fun t =>
      Counted (if write then MC_WCRC_RETRY c else MC_CA_RETRY c) 1 s t ∧ Tab.getD t.mc.alerts c 0 = 1) ∧
  (∀ (s : State) (c : Nat) (write : Bool),
    c < 12 →
    Tab.getD s.mc.alerts c 0 = 1 →
    Completes (.ddrAlert c write) s fun t =>
      Logged (dimmId c) 0 cLink s t ∧ Tab.getD t.mc.alerts c 0 = 2) ∧
  (∀ (s : State) (c : Nat) (write : Bool),
    c < 12 →
    Tab.getD s.mc.alerts c 0 = 3 →
    Completes (.ddrAlert c write) s fun t =>
      Logged (dimmId c) 2 cLink s t ∧ t.bit (MC_CFG c) MC_CFG_RETIRED = true ∧ t.bit (MC_CFG c) MC_CFG_FORCED = true ∧
      t.responder (mcNode c) = true)

/-- R400, R402, R404 to R410, R415: the patrol, ECS and the leaky bucket; the channel cards that pass their gates and their checks,
what they set and reply; and the ends of a resync, of a sparing copy and of a zero-fill. `u` is the state in which a card is
taken. -/
def Obligations.MemoryUpkeepCompletes : Prop :=
  (∀ (s : State) (c line w : Nat),
    c < 12 →
    s.get (MC_SCRUB c) MC_SCRUB_PERIOD ≠ 0 →
    s.badMark line w = 1 →
    Completes (.patrolScrub c line w false) s fun t =>
      Counted (MC_PATROL_FIX c) 1 s t ∧ Counted (MC_CE c) 1 s t ∧ Tab.getD t.mc.bad line 0 = 0) ∧
  (∀ (s : State) (c line w : Nat),
    c < 12 →
    s.get (MC_SCRUB c) MC_SCRUB_PERIOD ≠ 0 →
    s.badMark line w = 2 →
    Completes (.patrolScrub c line w false) s fun t =>
      Counted (MC_UCE c) 1 s t ∧ t.isPoison line = true ∧ Tab.getD t.mc.bad line 0 = 0 ∧ Logged (dimmId c) 2 cDram s t) ∧
  (∀ (s : State) (c : Nat),
    Completes (.ecsCommand c) s fun t =>
      Tab.getD t.mc.ecs c 0 = Tab.getD s.mc.ecs c 0 + 1) ∧
  (∀ (s : State) (c r d n thr : Nat),
    c < 12 →
    thr < n →
    Completes (.ecsCountRead c r d n thr) s fun t =>
      Tab.getD t.mc.ecsCount (rankKey c r + d % 64) 0 = n ∧ Logged (dimmId c) 0 cThreshold s t) ∧
  (∀ (s : State) (c r : Nat),
    Completes (.bucketLeak c r) s fun t =>
      Tab.getD t.mc.bucket (rankKey c r) 0 = Tab.getD s.mc.bucket (rankKey c r) 0 - 1) ∧
  (∀ (s : State) (c : CardCtx) (ch p e b l : Nat),
    let u := s.taken c 0x0301
    s.cardOk c 0x0301 false (chanOwner ch) = true →
    ch < 12 →
    p < 256 →
    (1 ≤ e ∧ e < 256) →
    (1 ≤ b ∧ b < 256) →
    (1 ≤ l ∧ l < 256) →
    u.stopLost (0x10 + ch) = false →
    Completes (.memScrubCfg c ch p e b l) s fun t =>
      t.get (MC_SCRUB ch) MC_SCRUB_PERIOD = p ∧ t.get (MC_SCRUB ch) MC_SCRUB_ECS_H = e ∧ t.get (MC_SCRUB ch) MC_SCRUB_BKT_THR = b ∧
      t.get (MC_SCRUB ch) MC_SCRUB_BKT_LEAK = l ∧ Replied c [okReply c 0x0301] u t) ∧
  (∀ (s : State) (c : CardCtx) (pair : Nat) (on : Bool),
    let u := s.taken c 0x0302
    let a := MC_CFG (2 * pair)
    let b := MC_CFG (2 * pair + 1)
    s.cardOk c 0x0302 false (chanOwner (2 * pair)) = true →
    pair < 6 →
    u.stopLost (0x10 + 2 * pair) = false →
    u.opOpen [0x0302] pair = false →
    (u.bit a MC_CFG_POP = true ∧ u.bit b MC_CFG_POP = true) →
    (u.get a MC_CFG_RANKS = u.get b MC_CFG_RANKS ∧ u.get a MC_CFG_CAP = u.get b MC_CFG_CAP) →
    Completes (.memMirrorSet c pair on) s fun t =>
      Tab.find t.mc.mirrorCfg pair = some on ∧ Replied c [okReply c 0x0302] u t) ∧
  (∀ (s : State) (c : CardCtx) (pair k : Nat),
    let u := s.taken c 0x0302
    s.cardOk c 0x0302 false (chanOwner (2 * pair)) = true →
    pair < 6 →
    u.stopLost (0x10 + 2 * pair) = false →
    u.opOpen [0x0302] pair = false →
    Tab.find u.mc.alone pair = some k →
    partner k < 12 →
    u.bit (MC_CFG (partner k)) MC_CFG_RETIRED = false →
    u.tstate (mcNode (partner k)) = tsRun →
    u.slotFree false = true →
    Completes (.memMirrorResync c pair) s fun t =>
      t.bit (MC_STAT (partner k)) MC_STAT_COPYING = true ∧ Replied c [accepted c 0x0302] u t ∧ t.opOpen [0x0302] pair = true) ∧
  (∀ (s : State) (pair k : Nat) (o : OpenOp),
    pair < 6 →
    s.findOp 0x0302 pair = some o →
    Tab.find s.mc.alone pair = some k →
    partner k < 12 →
    Completes (.mirrorResyncDone pair) s fun t =>
      t.bit (MC_STAT (partner k)) MC_STAT_COPYING = false ∧ Tab.find t.mc.alone pair = none ∧
      (∀ i : Fin 4, (t.get (MC_ILV i) MC_ILV_CHANNELS).testBit (2 * pair + 1) = false) ∧
      Replied o.ctx [okReply o.ctx 0x0302] s t) ∧
  (∀ (s : State) (c : CardCtx) (ch r : Nat),
    let u := s.taken c 0x0303
    s.cardOk c 0x0303 false (chanOwner ch) = true →
    ch < 12 →
    u.stopLost (0x10 + ch) = false →
    u.opOpen [0x0303] ch = false →
    r < u.get (MC_CFG ch) MC_CFG_RANKS →
    r ≠ u.get (MC_CFG ch) MC_CFG_SPARE →
    u.get (MC_CFG ch) MC_CFG_SPARE ≠ 0xF →
    Tab.find u.mc.spared ch = none →
    u.get (MC_STAT ch) MC_STAT_FAILED_RANK = 0xF →
    u.slotFree false = true →
    Completes (.memSpareRank c ch r) s fun t =>
      Tab.find t.mc.copying ch = some r ∧ t.bit (MC_STAT ch) MC_STAT_COPYING = true ∧ Replied c [accepted c 0x0303] u t) ∧
  (∀ (s : State) (ch r : Nat) (o : OpenOp),
    ch < 12 →
    r < 16 →
    s.findOp 0x0303 ch = some o →
    Tab.find s.mc.copying ch = some r →
    Completes (.spareCopyDone ch) s fun t =>
      t.get (MC_STAT ch) MC_STAT_FAILED_RANK = r ∧ t.bit (MC_STAT ch) MC_STAT_COPYING = false ∧ Tab.find t.mc.copying ch = none ∧
      Tab.find t.mc.spared ch = some r ∧ Replied o.ctx [okReply o.ctx 0x0303] s t) ∧
  (∀ (s : State) (c : CardCtx) (ch r g b w : Nat),
    let u := s.taken c 0x0304
    s.cardOk c 0x0304 false (chanOwner ch) = true →
    ch < 12 →
    u.stopLost (0x10 + ch) = false →
    r < u.get (MC_CFG ch) MC_CFG_RANKS →
    u.opOpen [0x0304] ch = false →
    u.slotFree false = true →
    Completes (.memPprSoft c ch r g b w true) s fun t =>
      t.mc.repairs = (ch, r, g, b, w, false) :: u.mc.repairs ∧ Replied c [accepted c 0x0304, okReply c 0x0304] u t) ∧
  (∀ (s : State) (c : CardCtx) (ch r g b w : Nat),
    let u := s.taken c 0x0304
    s.cardOk c 0x0304 false (chanOwner ch) = true →
    ch < 12 →
    u.stopLost (0x10 + ch) = false →
    r < u.get (MC_CFG ch) MC_CFG_RANKS →
    u.opOpen [0x0304] ch = false →
    u.bit (MC_CFG ch) MC_CFG_RETIRED = true →
    u.tstate (mcNode ch) = tsFenced →
    u.slotFree false = true →
    Completes (.memPprHard c ch r g b w true) s fun t =>
      t.mc.repairs = (ch, r, g, b, w, true) :: u.mc.repairs ∧ Replied c [accepted c 0x0304, okReply c 0x0304] u t) ∧
  (∀ (s : State) (c : CardCtx) (ch : Nat),
    let u := s.taken c 0x0305
    s.cardOk c 0x0305 false (chanOwner ch) = true →
    ch < 12 →
    u.stopLost (0x10 + ch) = false →
    u.opOpen [0x0305] ch = false →
    u.bit (MC_CFG ch) MC_CFG_RETIRED = false →
    u.mirrored ch = false →
    u.slotFree false = true →
    Completes (.memRetire c ch true) s fun t =>
      t.bit (MC_CFG ch) MC_CFG_RETIRED = true ∧ t.bit (MC_CFG ch) MC_CFG_FORCED = true ∧ t.responder (mcNode ch) = true ∧
      Logged (dimmId ch) 2 cState u t ∧ Replied c [accepted c 0x0305] u t) ∧
  (∀ (s : State) (c : CardCtx) (ch : Nat) (force : Bool),
    let u := s.taken c 0x0305
    s.cardOk c 0x0305 false (chanOwner ch) = true →
    ch < 12 →
    u.stopLost (0x10 + ch) = false →
    u.opOpen [0x0305] ch = false →
    u.bit (MC_CFG ch) MC_CFG_RETIRED = false →
    u.mirrored ch = true →
    u.slotFree false = true →
    Completes (.memRetire c ch force) s fun t =>
      t.bit (MC_CFG ch) MC_CFG_RETIRED = true ∧ t.bit (MC_CFG ch) MC_CFG_FORCED = u.bit (MC_CFG ch) MC_CFG_FORCED ∧
      Tab.find t.mc.alone (ch / 2) = some (partner ch) ∧ t.tstate (mcNode ch) = tsDrain ∧
      Logged (dimmId ch) 0 cState u t ∧ Replied c [accepted c 0x0305] u t) ∧
  (∀ (s : State) (ch pa loc : Nat),
    ch < 12 →
    s.channelOf pa = some (ch, loc) →
    Completes (.zeroFillDone ch) s fun t =>
      t.byte pa = 0 ∧ t.isPoison (pa / 64) = false ∧ t.bit (MC_STAT ch) MC_STAT_ZF_DONE = true)

/-- R419 to R423, R426, R427, R435: a level source's IP follows its line unless it is in service, a selected edge sets IP; a raise of
a valid vector sets IP and of an invalid one is counted; EN = 1 holds only with a legal target, else BADCFG; the EIP state
last sent is the file's claimability wherever the Harness can send; a tile applies a flit of newer sequence; UNDELIVERED holds
the hart's sends; edges caught while the clock is stopped take effect when it runs. -/
def Obligations.InterruptSourcesComplete : Prop :=
  (∀ (s : State) (n : Nat) (lvl : Bool),
    (1 ≤ n ∧ n < 1024) →
    s.hrn.clkStopped = false →
    s.get (HRN_SRC n) HRN_SRC_TRIG = 0 →
    s.srcInService n = false →
    Completes (.wiredLineChange n lvl) s fun t =>
      t.bit (HRN_SRC n) HRN_SRC_IP = lvl ∧ t.hrn.lines.contains n = lvl ∧
      (s.hrnCan (s.srcTarget n).1 = true → (t.eipOf (s.srcTarget n).1 (s.srcTarget n).2).1 = (t.claimable (s.srcTarget n).1 (s.srcTarget n).2).isSome)) ∧
  (∀ (s : State) (n : Nat),
    (1 ≤ n ∧ n < 1024) →
    s.hrn.clkStopped = false →
    (s.get (HRN_SRC n) HRN_SRC_TRIG).testBit 0 = true →
    s.hrn.lines.contains n = false →
    Completes (.wiredLineChange n true) s fun t =>
      t.bit (HRN_SRC n) HRN_SRC_IP = true ∧ t.hrn.lines.contains n = true) ∧
  (∀ (s : State) (n : Nat),
    (1 ≤ n ∧ n ≤ 64) →
    s.hrn.clkStopped = true →
    s.hrn.lines.contains n = false →
    Completes (.wiredLineChange n true) s fun t =>
      t.hrn.latchRise.contains n = true ∧ t.hrn.lines.contains n = true ∧ (∀ k : Fin 64, t.reg (HRN_SRC k) = s.reg (HRN_SRC k))) ∧
  (∀ (s : State) (v : Nat),
    let w := s.reg (HRN_VEC v)
    let h := HRN_VEC_HART.get w
    let f := fileOf (HRN_VEC_WORLD.get w != 0) (HRN_VEC_LEVEL.get w) (HRN_VEC_GUEST.get w)
    (1024 ≤ v ∧ v ≤ 33791) →
    s.bit (HRN_VEC v) HRN_VEC_VALID = true →
    Completes (.vectorRaise v) s fun t =>
      t.bit (HRN_VEC v) HRN_VEC_IP = true ∧
      (s.hrnCan h = true → (t.eipOf h f).1 = (t.claimable h f).isSome) ∧
      (s.hrnCan h = true → (s.eipOf h f).1 = false → (t.claimable h f).isSome = true →
      (t.injQueue (s.portFor ((s.hartNode h).getD 0))).getLast?.map (fun e => (e.flit.dest, e.flit.cls, e.flit.opcode, e.flit.txn, e.flit.line)) =
      some ((s.hartNode h).getD 0, 6, 1, ((s.eipOf h f).2 + 1) % 4096, f))) ∧
  (∀ (s : State) (v : Nat),
    (1024 ≤ v ∧ v ≤ 33791) →
    s.bit (HRN_VEC v) HRN_VEC_VALID = false →
    Completes (.vectorRaise v) s fun t =>
      Counted HRN_VEC_DROP 1 s t ∧ t.reg (HRN_VEC v) = s.reg (HRN_VEC v) ∧ t.hrn = s.hrn) ∧
  (∀ (s : State) (w : Bool) (n : Nat) (v : W64),
    (1 ≤ n ∧ n < 1024) →
    s.bit (HRN_SRC n) HRN_SRC_WORLD = w →
    s.bit (HRN_SRC n) HRN_SRC_EN = false →
    targetOk (HRN_SRC_HART.get v) (HRN_SRC_LEVEL.get v) (HRN_SRC_GUEST.get v) (HRN_SRC_PRIO.get v) w = true →
    Completes (.hrnSrcEnable w n v) s fun t =>
      t.bit (HRN_SRC n) HRN_SRC_EN = true ∧ t.bit (HRN_SRC n) HRN_SRC_BADCFG = false ∧
      t.get (HRN_SRC n) HRN_SRC_HART = HRN_SRC_HART.get v ∧ t.get (HRN_SRC n) HRN_SRC_LEVEL = HRN_SRC_LEVEL.get v ∧
      t.get (HRN_SRC n) HRN_SRC_GUEST = HRN_SRC_GUEST.get v ∧ t.get (HRN_SRC n) HRN_SRC_PRIO = HRN_SRC_PRIO.get v ∧
      t.get (HRN_SRC n) HRN_SRC_TRIG = (if HRN_SRC_TRIG.get v = 0 ∧ n ≤ 64 then 3 else HRN_SRC_TRIG.get v)) ∧
  (∀ (s : State) (w : Bool) (n : Nat) (v : W64),
    (1 ≤ n ∧ n < 1024) →
    s.bit (HRN_SRC n) HRN_SRC_WORLD = w →
    s.bit (HRN_SRC n) HRN_SRC_EN = false →
    targetOk (HRN_SRC_HART.get v) (HRN_SRC_LEVEL.get v) (HRN_SRC_GUEST.get v) (HRN_SRC_PRIO.get v) w = false →
    Completes (.hrnSrcEnable w n v) s fun t =>
      t.bit (HRN_SRC n) HRN_SRC_EN = false ∧ t.bit (HRN_SRC n) HRN_SRC_BADCFG = true) ∧
  (∀ (s : State) (w : Bool) (n : Nat) (v : W64),
    (1 ≤ n ∧ n < 1024) →
    s.bit (HRN_SRC n) HRN_SRC_WORLD = w →
    s.bit (HRN_SRC n) HRN_SRC_EN = true →
    Completes (.hrnSrcDisable w n v) s fun t =>
      t.bit (HRN_SRC n) HRN_SRC_EN = false ∧ t.get (HRN_SRC n) HRN_SRC_HART = s.get (HRN_SRC n) HRN_SRC_HART ∧
      t.get (HRN_SRC n) HRN_SRC_PRIO = s.get (HRN_SRC n) HRN_SRC_PRIO ∧
      (s.hrnCan (s.srcTarget n).1 = true → (t.eipOf (s.srcTarget n).1 (s.srcTarget n).2).1 = (t.claimable (s.srcTarget n).1 (s.srcTarget n).2).isSome)) ∧
  (∀ (s : State) (n : Nat) (f : Flit),
    f.line % 16 < 10 →
    seqNewer (s.tileIrq n (f.line % 16)).seq f.txn = true →
    Completes (.eipSet n f) s fun t =>
      t.tileIrq n (f.line % 16) = { s.tileIrq n (f.line % 16) with eip := true, seq := f.txn }) ∧
  (∀ (s : State) (n : Nat) (f : Flit),
    f.line % 16 < 10 →
    seqNewer (s.tileIrq n (f.line % 16)).seq f.txn = true →
    Completes (.eipClr n f) s fun t =>
      t.tileIrq n (f.line % 16) = { s.tileIrq n (f.line % 16) with eip := false, seq := f.txn }) ∧
  (∀ (s : State) (n : Nat) (f : Flit),
    (f.line % 16 = 0 ∨ f.line % 16 = 9) →
    seqNewer (s.tileIrq n (f.line % 16)).seq f.txn = true →
    Completes (.msipSet n f) s fun t =>
      t.tileIrq n (f.line % 16) = { s.tileIrq n (f.line % 16) with msip := true, seq := f.txn }) ∧
  (∀ (s : State) (n : Nat) (f : Flit),
    (f.line % 16 = 0 ∨ f.line % 16 = 9) →
    seqNewer (s.tileIrq n (f.line % 16)).seq f.txn = true →
    Completes (.msipClr n f) s fun t =>
      t.tileIrq n (f.line % 16) = { s.tileIrq n (f.line % 16) with msip := false, seq := f.txn }) ∧
  (∀ (s : State) (n : Nat) (f : Flit),
    (f.line % 16 = 0 ∨ f.line % 16 = 1 ∨ f.line % 16 = 9) →
    seqNewer (s.tileIrq n (f.line % 16)).seq f.txn = true →
    Completes (.tipSet n f) s fun t =>
      t.tileIrq n (f.line % 16) = { s.tileIrq n (f.line % 16) with tip := true, seq := f.txn }) ∧
  (∀ (s : State) (n : Nat) (f : Flit),
    (f.line % 16 = 0 ∨ f.line % 16 = 1 ∨ f.line % 16 = 9) →
    seqNewer (s.tileIrq n (f.line % 16)).seq f.txn = true →
    Completes (.tipClr n f) s fun t =>
      t.tileIrq n (f.line % 16) = { s.tileIrq n (f.line % 16) with tip := false, seq := f.txn }) ∧
  (∀ (s : State) (n h : Nat) (f : Flit),
    s.hartAt f.src = some h →
    Completes (.undelivered n f) s fun t =>
      Counted HRN_UNDELIVERED 1 s t ∧ t.hrn.held.contains h = true ∧ t.hrnCan h = false) ∧
  (∀ (s : State) (n : Nat) (up : Bool),
    s.hrn.clkStopped = true →
    (1 ≤ n ∧ n ≤ 64) →
    Completes (.edgeLatchCapture n up) s fun t =>
      (if up then t.hrn.latchRise else t.hrn.latchFall).contains n = true ∧ t.regs = s.regs) ∧
  (∀ (s : State) (n : Nat),
    s.hrn.clkStopped = false →
    (1 ≤ n ∧ n ≤ 64) →
    s.hrn.latchRise = [n] →
    s.hrn.latchFall = [] →
    Completes (.edgeLatchTransfer) s fun t =>
      t.bit (HRN_SRC n) HRN_SRC_LATCHED = true ∧ t.hrn.latchRise = [] ∧
      t.bit (HRN_SRC n) HRN_SRC_IP = (s.bit (HRN_SRC n) HRN_SRC_IP || (s.get (HRN_SRC n) HRN_SRC_TRIG).testBit 0))

/-- R424 to R434: a claim returns the claimable interrupt, clears its IP, records it in service and sends no flit; with none claimable
it answers 0xFFFE, 0xFFFF or 0 as Table 16.8 says; a complete ends the service of the ID recorded, any other is counted; a
chain completes and claims; a threshold, a software interrupt and a timer compare take effect before the answer; an access
from the other world takes an access fault and changes nothing. -/
def Obligations.InterruptFilesComplete : Prop :=
  (∀ (s : State) (h f p id : Nat),
    (h ≤ 191 ∧ f ≤ 9) →
    s.claimable h f = some (p, id) →
    (1 ≤ id ∧ id ≤ 33791) →
    Completes (.hrnClaimRead (fileWorld f) h f) s fun t =>
      t.io.answer = BitVec.ofNat 64 (id + p * 2 ^ 16 + (if (t.claimable h f).isSome then 2 ^ 21 else 0)) ∧ t.io.fault = false ∧
      t.inService h f = (p, id) :: s.inService h f ∧ (t.eipOf h f).1 = (t.claimable h f).isSome ∧
      (if id < 1024 then t.bit (HRN_SRC id) HRN_SRC_IP else t.bit (HRN_VEC id) HRN_VEC_IP) = false ∧
      Counted HRN_CLAIMS 1 s t ∧ t.mesh = s.mesh) ∧
  (∀ (s : State) (h f : Nat),
    (h ≤ 191 ∧ f ≤ 9) →
    s.claimable h f = none →
    ((f = 0 ∨ f = 9) ∧ (s.claimable h (9 - f)).isSome = true) →
    Completes (.hrnClaimRead (fileWorld f) h f) s fun t =>
      t.io.answer = 0xFFFE ∧ t.regs = s.regs ∧ t.hrn.isrv = s.hrn.isrv ∧ (t.eipOf h f).1 = false) ∧
  (∀ (s : State) (h f : Nat),
    (h ≤ 191 ∧ f ≤ 9) →
    s.claimable h f = none →
    (¬ ((f = 0 ∨ f = 9) ∧ (s.claimable h (9 - f)).isSome = true)) →
    (s.eipOf h f).1 = true →
    Completes (.hrnClaimRead (fileWorld f) h f) s fun t =>
      t.io.answer = 0xFFFF ∧ Counted HRN_SPURIOUS 1 s t ∧ (t.eipOf h f).1 = false) ∧
  (∀ (s : State) (h f : Nat),
    (h ≤ 191 ∧ f ≤ 9) →
    s.claimable h f = none →
    (¬ ((f = 0 ∨ f = 9) ∧ (s.claimable h (9 - f)).isSome = true)) →
    (s.eipOf h f).1 = false →
    Completes (.hrnClaimRead (fileWorld f) h f) s fun t =>
      t.io.answer = 0 ∧ t.io.fault = false ∧ t.regs = s.regs) ∧
  (∀ (s : State) (w : Bool) (h f : Nat),
    (h ≤ 191 ∧ f ≤ 9) →
    w ≠ fileWorld f →
    Completes (.hrnClaimRead w h f) s fun t =>
      t.io.fault = true ∧ t.hrn = s.hrn ∧ t.regs = s.regs) ∧
  (∀ (s : State) (h f p id : Nat),
    (h ≤ 191 ∧ f ≤ 9) →
    s.inService h f = [(p, id)] →
    Completes (.hrnCompleteWrite (fileWorld f) h f id) s fun t =>
      t.inService h f = [] ∧ t.io.fault = false ∧ t.reg HRN_BAD_COMPLETE = s.reg HRN_BAD_COMPLETE ∧
      (s.hrnCan h = true → (t.eipOf h f).1 = (t.claimable h f).isSome)) ∧
  (∀ (s : State) (h f id : Nat),
    (h ≤ 191 ∧ f ≤ 9) →
    (s.inService h f).any (fun q => q.2 == id) = false →
    Completes (.hrnCompleteWrite (fileWorld f) h f id) s fun t =>
      t.hrn = s.hrn ∧ t.io.fault = false ∧ Counted HRN_BAD_COMPLETE 1 s t) ∧
  (∀ (s : State) (h f p id : Nat),
    (h ≤ 191 ∧ f ≤ 9) →
    s.inService h f = [(p, id)] →
    1024 ≤ id →
    Completes (.hrnChainRead (fileWorld f) h f) s fun t =>
      t.inService h f = (match ({ s with hrn := { s.hrn with isrv := Tab.put s.hrn.isrv (h * 16 + f) [] } } : State).claimable h f with
      | some q => [q]
      | none => []) ∧ t.mesh = s.mesh) ∧
  (∀ (s : State) (h f : Nat) (v : W64),
    (h ≤ 191 ∧ f ≤ 9) →
    Completes (.hrnThreshWrite (fileWorld f) h f v) s fun t =>
      t.get (HRN_THRESH h f) HRN_THRESH_THRESH = v.toNat % 32 ∧ t.io.fault = false ∧
      (s.hrnCan h = true → (t.eipOf h f).1 = (t.claimable h f).isSome)) ∧
  (∀ (s : State) (h f : Nat) (v : Bool),
    h ≤ 191 →
    (f = 0 ∨ f = 9) →
    Tab.getD s.hrn.msip (h * 16 + f) false = !v →
    s.hrnCan h = true →
    Completes (.hrnMsipWrite (fileWorld f) h f v) s fun t =>
      t.bit (HRN_MSIP h f) HRN_MSIP_MSIP = v ∧ Tab.getD t.hrn.msip (h * 16 + f) false = v ∧
      (t.injQueue (s.portFor ((s.hartNode h).getD 0))).getLast?.map (fun e => (e.flit.dest, e.flit.cls, e.flit.opcode, e.flit.line)) =
      some ((s.hartNode h).getD 0, 6, if v then 3 else 4, f)) ∧
  (∀ (s : State) (h f : Nat) (v : W64),
    h ≤ 191 →
    (f = 0 ∨ f = 1 ∨ f = 9) →
    Completes (.hrnTimecmpWrite (fileWorld f) h f v) s fun t =>
      t.reg (HRN_TIMECMP h f) = v ∧ Tab.getD t.hrn.tip (h * 16 + f) false = decide (v.toNat ≤ s.clk.time)) ∧
  (∀ (s : State) (h f : Nat),
    h ≤ 191 →
    (f = 0 ∨ f = 1 ∨ f = 9) →
    Tab.getD s.hrn.tip (h * 16 + f) false = false →
    s.hrnCan h = true →
    Completes (.timerCompareMatch h f) s fun t =>
      Tab.getD t.hrn.tip (h * 16 + f) false = true ∧ (s.reg (HRN_TIMECMP h f)).toNat ≤ t.clk.time ∧
      (t.injQueue (s.portFor ((s.hartNode h).getD 0))).getLast?.map (fun e => (e.flit.dest, e.flit.cls, e.flit.opcode, e.flit.line)) =
      some ((s.hartNode h).getD 0, 6, 5, f))

/-- R446 to R454, R459, R461, R462: the ring registers, the enabling and disabling of a ring, the consumption of its cards, messages of
MCTP and of the mailbox, the ageing of classes, the serving of the queue, and the restarts of Dobby's pairs. -/
def Obligations.CardRingsComplete : Prop :=
  (∀ (s : State) (w : Bool) (v : W64),
    Completes (.dbyRingProdWrite w w v) s fun t =>
      t.get (DBY_RING_PROD (ringIx w)) DBY_RING_PROD_INDEX = v.toNat % 2 ^ 32) ∧
  (∀ (s : State) (x w : Bool) (v : W64),
    x ≠ w →
    Completes (.dbyRingProdWrite x w v) s fun t =>
      t.io.fault = true ∧ t.regs = s.regs) ∧
  (∀ (s : State) (w : Bool) (v : W64),
    Completes (.dbyRingRconsWrite w w v) s fun t =>
      t.get (DBY_RING_RCONS (ringIx w)) DBY_RING_RCONS_INDEX = v.toNat % 2 ^ 32 ∧
      t.hrn.lines.contains (90 + ringIx w) = ((s.dby.ringOf w).replyProd != v.toNat % 2 ^ 32)) ∧
  (∀ (s : State) (w : Bool) (v : W64),
    let i := ringIx w
    let log := DBY_RING_CFG_LOG.get v
    let rlog := DBY_RING_CFG_RLOG.get v
    let ctl := s.get (DBY_RING_CTLA i) DBY_RING_CTLA_ADDR * 64
    s.bit (DBY_RING_CFG i) DBY_RING_CFG_EN = false →
    (6 ≤ log ∧ log ≤ 14 ∧ 6 ≤ rlog ∧ rlog ≤ 14) →
    s.dramOf w (DBY_RING_CFG_BASE.get v * 4096) (64 * 2 ^ log) = true →
    s.dramOf w (s.get (DBY_RING_RBASE i) DBY_RING_RBASE_ADDR * 64) (64 * 2 ^ rlog) = true →
    s.dramOf w ctl 64 = true →
    Completes (.dbyRingEnable w w v) s fun t =>
      t.bit (DBY_RING_CFG i) DBY_RING_CFG_EN = true ∧ t.bit (DBY_RING_CFG i) DBY_RING_CFG_ERR = false ∧
      t.get (DBY_RING_CFG i) DBY_RING_CFG_LOG = log ∧ t.get (DBY_RING_CFG i) DBY_RING_CFG_BASE = DBY_RING_CFG_BASE.get v ∧
      t.get (DBY_RING_PROD i) DBY_RING_PROD_INDEX = 0 ∧ t.get (DBY_RING_RCONS i) DBY_RING_RCONS_INDEX = 0 ∧
      (t.dby.ringOf w).cons = 0 ∧ (t.dby.ringOf w).replyProd = 0 ∧
      ∀ k : Fin 4, t.byte (ctl + k) = 0 ∧ t.byte (ctl + 8 + k) = 0) ∧
  (∀ (s : State) (w : Bool) (v : W64),
    let i := ringIx w
    s.bit (DBY_RING_CFG i) DBY_RING_CFG_EN = false →
    (DBY_RING_CFG_LOG.get v < 6 ∨ 14 < DBY_RING_CFG_LOG.get v ∨
      s.dramOf w (s.get (DBY_RING_CTLA i) DBY_RING_CTLA_ADDR * 64) 64 = false) →
    Completes (.dbyRingEnable w w v) s fun t =>
      t.bit (DBY_RING_CFG i) DBY_RING_CFG_EN = false ∧ t.bit (DBY_RING_CFG i) DBY_RING_CFG_ERR = true) ∧
  (∀ (s : State) (w : Bool) (v : W64),
    s.bit (DBY_RING_CFG (ringIx w)) DBY_RING_CFG_EN = true →
    Completes (.dbyRingDisable w w v) s fun t =>
      t.bit (DBY_RING_CFG (ringIx w)) DBY_RING_CFG_EN = true ∧ (t.dby.ringOf w).disabling = true ∧ t.ringLive w = false) ∧
  (∀ (s : State) (w : Bool),
    (s.dby.ringOf w).disabling = true →
    (s.dby.ringOf w).taken = 0 →
    Completes (.dbyRingDisableDone w) s fun t =>
      t.bit (DBY_RING_CFG (ringIx w)) DBY_RING_CFG_EN = false ∧ (t.dby.ringOf w).disabling = false) ∧
  (∀ (s : State) (w : Bool),
    let i := ringIx w
    let x := s.dby.ringOf w
    let avail := (s.get (DBY_RING_PROD i) DBY_RING_PROD_INDEX + 2 ^ 32 - x.cons) % 2 ^ 32
    let head := s.ringBytes w x.cons 16
    let words := cardField head 6 2
    let slots := (words * 4 + 63) / 64
    let op := cardField head 0 2
    let l := s.ringBytes w x.cons (words * 4)
    let c := cardCtx (.ring w) head
    s.ringLive w = true →
    s.dstate < 2 →
    s.romReady = true →
    (0 < avail ∧ slots ≤ avail) →
    replySpace op ≤ s.replyRoom w →
    s.ringPoison w x.cons (words * 4) = false →
    (4 ≤ words ∧ words ≤ 1024) →
    headerBad l = none →
    s.gateFail c op (mctpAllows op l) (s.cardOwner c.world op (cardField l 8 2) l) = none →
    s.queueFree (cardField l 3 1) = true →
    Completes (.cardConsume w) s fun t =>
      (t.dby.ringOf w).cons = (x.cons + slots) % 2 ^ 32 ∧ (t.dby.ringOf w).reserved = x.reserved + replySpace op ∧
      t.dby.queue.map (fun q => (q.ctx, q.opcode, q.bytes)) = s.dby.queue.map (fun q => (q.ctx, q.opcode, q.bytes)) ++ [(c, op, l)] ∧
      leNat ((List.range 4).map fun k => t.byte (s.ctlAddr w + k)) = (x.cons + slots) % 2 ^ 32 ∧ Counted DBY_CARDS 1 s t) ∧
  (∀ (s : State) (w : Bool),
    let i := ringIx w
    let x := s.dby.ringOf w
    let head := s.ringBytes w x.cons 16
    let words := cardField head 6 2
    let op := cardField head 0 2
    s.ringLive w = true →
    s.dstate < 2 →
    s.romReady = true →
    (s.get (DBY_RING_PROD i) DBY_RING_PROD_INDEX + 2 ^ 32 - x.cons) % 2 ^ 32 ≠ 0 →
    1 ≤ s.replyRoom w →
    s.ringPoison w x.cons 16 = false →
    (words < 4 ∨ 1024 < words) →
    Completes (.cardConsume w) s fun t =>
      (t.dby.ringOf w).cons = x.cons ∧ t.bit (DBY_RING_CFG i) DBY_RING_CFG_ERR = true ∧
      Replied (cardCtx (.ring w) head) [⟨cardCtx (.ring w) head, stBADPARAM, op, dOff 0x06, []⟩] s t) ∧
  (∀ (s : State) (w : Bool),
    let i := ringIx w
    let x := s.dby.ringOf w
    s.ringLive w = true →
    s.dstate < 2 →
    s.romReady = true →
    (s.get (DBY_RING_PROD i) DBY_RING_PROD_INDEX + 2 ^ 32 - x.cons) % 2 ^ 32 ≠ 0 →
    1 ≤ s.replyRoom w →
    s.ringPoison w x.cons 16 = true →
    Completes (.cardConsume w) s fun t =>
      (t.dby.ringOf w).cons = x.cons ∧ t.dby.queue = s.dby.queue ∧ t.bit (DBY_RING_CFG i) DBY_RING_CFG_ERR = true ∧
      (t.dby.ringOf w).replyProd = (x.replyProd + 1) % 2 ^ 32) ∧
  (∀ (s : State) (w : Bool),
    let i := ringIx w
    let x := s.dby.ringOf w
    let avail := (s.get (DBY_RING_PROD i) DBY_RING_PROD_INDEX + 2 ^ 32 - x.cons) % 2 ^ 32
    let words := cardField (s.ringBytes w x.cons 16) 6 2
    s.ringLive w = true →
    s.dstate < 2 →
    s.romReady = true →
    (0 < avail ∧ (words * 4 + 63) / 64 ≤ avail) →
    (4 ≤ words ∧ words ≤ 1024) →
    s.ringPoison w x.cons (words * 4) = false →
    s.replyRoom w < replySpace (cardField (s.ringBytes w x.cons 16) 0 2) →
    x.stalled = false →
    Completes (.cardConsume w) s fun t =>
      Counted DBY_RING_STALL 1 s t ∧ (t.dby.ringOf w).cons = x.cons ∧ t.dby.queue = s.dby.queue) ∧
  (∀ (s : State) (e : Nat) (l : List Byte),
    let c := cardCtx (.mctp e) l
    let op := cardField l 0 2
    let k := l.take (cardField l 6 2 * 4)
    s.reaches c op = true →
    (mctpFirst c op s).isNone = true →
    (4 ≤ cardField l 6 2 ∧ cardField l 6 2 ≤ 1024 ∧ cardField l 6 2 * 4 ≤ l.length ∧ l.length ≤ 4096) →
    headerBad k = none →
    s.gateFail (cardCtx (.mctp e) k) op (mctpAllows op k) (s.cardOwner c.world op (cardField k 8 2) k) = none →
    s.queueFree (cardField k 3 1) = true →
    Completes (.mctpMessage e ([0x7E, 0x1F, 0x9A] ++ l)) s fun t =>
      t.dby.queue.map (fun q => (q.ctx, q.opcode, q.bytes)) = s.dby.queue.map (fun q => (q.ctx, q.opcode, q.bytes)) ++ [(c, op, k)] ∧
      (Tab.getD t.dby.mctp e {}).outstanding = (Tab.getD s.dby.mctp e {}).outstanding + 1 ∧
      (Tab.getD t.dby.mctp e {}).prev = some (c.seq, op, c.tag)) ∧
  (∀ (s : State) (e : Nat) (m : List Byte),
    m.take 3 ≠ [0x7E, 0x1F, 0x9A] →
    Completes (.mctpMessage e m) s fun t =>
      t = s) ∧
  (∀ (s : State) (l : List Byte),
    let c := cardCtx .jtag l
    let op := cardField l 0 2
    s.dbg.ir = 0x20 →
    s.reaches c op = true →
    (cardField l 6 2 < 4 ∨ 1024 < cardField l 6 2 ∨ l.length < cardField l 6 2 * 4) →
    Completes (.mailboxCard l) s fun t =>
      Replied c [⟨c, stBADPARAM, op, dOff 0x06, []⟩] s t ∧ t.dby.queue = s.dby.queue) ∧
  (∀ (s : State) (k : Nat) (q : Card),
    (1 ≤ k ∧ k ≤ 4) →
    s.dby.queue.find? (·.cls == k) = some q →
    Completes (.cardClassAged k) s fun t =>
      q.arrived + 10000000 ≤ t.clk.time ∧ t.dby.aged.contains k = true ∧ t.dby.queue = s.dby.queue) ∧
  (∀ (s : State) (ok : Bool) (r : Nat) (q : Card),
    s.nextCard = some q →
    s.romReady = true →
    q.opcode = 0x0001 →
    cardBad q.opcode q.bytes = none →
    s.gateFail q.ctx 0x0001 false .any = none →
    Completes (.cardServe ok r) s fun t =>
      t.dby.queue = s.dby.queue.erase q ∧ t.dby.serving = false ∧
      Replied q.ctx [⟨q.ctx, stOK, 0x0001, 0xFFFF, natLe 8 (s.reg DBY_CHIP_ID).toNat ++ natLe 16 s.fuses.uid ++ natLe 1 s.lifeCode ++
      natLe 1 (s.boot.slot.getD 0xFF) ++ natLe 2 0 ++ natLe 4 s.boot.fwVersion⟩] s t) ∧
  (∀ (s : State) (ok : Bool) (r o : Nat) (q : Card),
    s.nextCard = some q →
    s.romReady = true →
    cardBad q.opcode q.bytes = some o →
    Completes (.cardServe ok r) s fun t =>
      t.dby.queue = s.dby.queue.erase q ∧ Replied q.ctx [⟨q.ctx, stBADPARAM, q.opcode, dOff o, []⟩] s t) ∧
  (∀ (s : State),
    s.romReady = true →
    Completes (.dobbyWatchdogExpiry) s fun t =>
      s.dby.lastProgress + 90000000 ≤ t.clk.time ∧ t.dby.queue = [] ∧ t.dby.openOps = [] ∧ Counted DBY_RESTARTS 1 s t ∧
      Logged 1 2 cLockstep s t) ∧
  (∀ (s : State) (q : Card),
    s.romReady = true →
    s.dby.queue = [q] →
    s.dby.openOps = [] →
    Completes (.cardPairMismatch false) s fun t =>
      t.dby.queue = [] ∧ Replied q.ctx [⟨q.ctx, stFAULT, q.opcode, 1, []⟩] s t ∧ Counted DBY_RESTARTS 1 s t ∧ Logged 1 2 cLockstep s t) ∧
  (∀ (s : State),
    s.romReady = true →
    Completes (.cardPairMismatch true) s fun t =>
      t.dby.queue = [] ∧ t.dby.openOps = [] ∧ t.dby.sent = s.dby.sent ∧ t.bit (DBY_RING_CFG 0) DBY_RING_CFG_LOST = true ∧
      t.bit (DBY_RING_CFG 1) DBY_RING_CFG_LOST = true ∧ Counted DBY_RESTARTS 1 s t ∧ Logged 1 2 cArray s t) ∧
  (∀ (s : State),
    s.romReady = true →
    Completes (.safetyPairMismatch) s fun t =>
      t.bit DBY_STAT DBY_STAT_SAFE_OK = false ∧ Logged 1 3 cLockstep s t ∧ ∀ n : Fin 16, t.feedKey n 1 = false)

/-- R455, R456, Table 17.8, Table 17.13: INFO.IDENTIFY and INFO.CAPS answer their payloads, INFO.TELEMETRY puts the 2,048-byte snapshot,
with one new sequence number first and last, into the reply or into memory. `u` is the state in which the card is taken. The
channel bandwidths of the snapshot are free values. -/
def Obligations.InfoCardsComplete : Prop :=
  (∀ (s : State) (c : CardCtx),
    let u := s.taken c 0x0001
    s.cardOk c 0x0001 false (fun _ => .any) = true →
    Completes (.infoIdentify c) s fun t =>
      Replied c [⟨c, stOK, 0x0001, 0xFFFF, natLe 8 (s.reg DBY_CHIP_ID).toNat ++ natLe 16 s.fuses.uid ++ natLe 1 s.lifeCode ++
      natLe 1 (s.boot.slot.getD 0xFF) ++ natLe 2 0 ++ natLe 4 s.boot.fwVersion⟩] u t) ∧
  (∀ (s : State) (c : CardCtx),
    let u := s.taken c 0x0002
    s.cardOk c 0x0002 false (fun _ => .any) = true →
    Completes (.infoCaps c) s fun t =>
      Replied c [⟨c, stOK, 0x0002, 0xFFFF, natLe 1 (s.get DBY_CHIP_ID DBY_CHIP_ID_GRADE) ++ natLe 1 192 ++ natLe 1 (8 - s.dby.sparedDone.length) ++
      natLe 1 0 ++ natLe 2 (((List.range 12).map fun k => if s.bit (MC_CFG k) MC_CFG_POP then 2 ^ k else 0).sum) ++
      natLe 1 (s.get SHU_MODE SHU_MODE_MODE) ++ natLe 1 16 ++ natLe 8 s.dramBytes ++ natLe 1 s.pwr.profile ++ natLe 1 s.dstate⟩] u t) ∧
  (∀ (s : State) (c : CardCtx),
    let u := s.taken c 0x0003
    s.cardOk c 0x0003 false (fun _ => .any) = true →
    (c.via = .keeper ∨ c.via = .jtag) →
    Completes (.infoTelemetry c 0) s fun t =>
      t.dby.telSeq = s.dby.telSeq + 1 ∧ t.dby.sent.length = u.dby.sent.length + 1 ∧
      (t.dby.sent.getLast?.map fun r => (r.status, r.opcode, r.payload.length, cardField r.payload 0 8, cardField r.payload 0x7F8 8)) =
      some (stOK, 0x0003, 2048, (s.dby.telSeq + 1) % 2 ^ 64, (s.dby.telSeq + 1) % 2 ^ 64)) ∧
  (∀ (s : State) (c : CardCtx) (a : Nat),
    let u := s.taken c 0x0003
    s.cardOk c 0x0003 false (fun _ => .any) = true →
    a ≠ 0 →
    a % 64 = 0 →
    u.dramOf c.world a 2048 = true →
    (c.via = .keeper ∨ c.via = .jtag) →
    Completes (.infoTelemetry c a) s fun t =>
      Replied c [okReply c 0x0003] u t ∧ leNat ((List.range 8).map fun k => t.byte (a + k)) = (s.dby.telSeq + 1) % 2 ^ 64 ∧
      leNat ((List.range 8).map fun k => t.byte (a + 0x7F8 + k)) = (s.dby.telSeq + 1) % 2 ^ 64) ∧
  (∀ (s : State) (c : CardCtx) (a : Nat),
    let u := s.taken c 0x0003
    s.cardOk c 0x0003 false (fun _ => .any) = true →
    a ≠ 0 →
    (a % 64 ≠ 0 ∨ u.dramOf c.world a 2048 = false) →
    Completes (.infoTelemetry c a) s fun t =>
      Replied c [⟨c, stBADPARAM, 0x0003, dOff 0x10, []⟩] u t ∧ t.dby.telSeq = s.dby.telSeq)

/-- R470 to R472, R480, R481, R483, R484: a world lock that passes the checks of Table 18.4 sets watermarks, worlds and the lock; a write
of SEL_DEBUG changes the fields that its writer may write; a token that passes the checks of Table 18.10 moves the life cycle. -/
def Obligations.SelvedgeCommandsComplete : Prop :=
  (∀ (s : State) (c : CardCtx) (a : Nat),
    let u := s.taken c 0x0803
    let x := assignOf (u.rd a 2304)
    s.cardOk c 0x0803 false (fun _ => .is true) = true →
    u.bit SEL_LOCK SEL_LOCK_ASSIGN = false →
    a % 64 = 0 →
    u.populated a 2304 = true →
    u.rdPoison a 2304 = false →
    assignOk (u.rd a 2304) (u.dramBytes / 2 ^ 30) u.boot.flashUnits = true →
    u.secureAreas.any (fun r => decide (x.dramWm * 2 ^ 30 < r.1 + r.2)) = false →
    u.assignBusy x = none →
    Completes (.worldLock c a) s fun t =>
      t.get SEL_LOCK SEL_LOCK_ASSIGN = 1 ∧ t.get SEL_DRAM_WM SEL_DRAM_WM_WM = x.dramWm ∧ t.get SEL_FLASH_WM SEL_FLASH_WM_WM = x.flashWm ∧
      t.get XF_CFG XF_CFG_KEY_BASE = x.dramWm * 1024 - 1 ∧ (∀ b : Fin 64, t.blockWorld b = x.blocks.testBit b) ∧
      (∀ p : Fin 16, t.portWorld p = x.ports.testBit p) ∧ (∀ f : Fin 8193, t.funcWorld f = x.funcs.testBit f) ∧
      (∀ k : Fin 8192, t.slotWorld k = x.slots.testBit k) ∧ (∀ n : Fin 1023, t.bit (HRN_SRC (n + 1)) HRN_SRC_WORLD = x.sources.testBit (n + 1)) ∧
      Replied c [okReply c 0x0803] u t) ∧
  (∀ (s : State) (c : CardCtx) (a : Nat),
    let u := s.taken c 0x0803
    s.cardOk c 0x0803 false (fun _ => .is true) = true →
    u.bit SEL_LOCK SEL_LOCK_ASSIGN = true →
    Completes (.worldLock c a) s fun t =>
      (∀ f : Fin 8193, t.funcWorld f = s.funcWorld f) ∧ t.get SEL_DRAM_WM SEL_DRAM_WM_WM = s.get SEL_DRAM_WM SEL_DRAM_WM_WM ∧
      Replied c [⟨c, stBADSTATE, 0x0803, 3, []⟩] u t) ∧
  (∀ (s : State) (v : W64),
    Completes (.selDebugWrite false false v) s fun t =>
      t = s) ∧
  (∀ (s : State) (w : Bool) (v : W64),
    s.bit SEL_DEBUG SEL_DEBUG_LOCK = false →
    Completes (.selDebugWrite w true v) s fun t =>
      t.get SEL_DEBUG SEL_DEBUG_NI_N = SEL_DEBUG_NI_N.get v ∧ t.get SEL_DEBUG SEL_DEBUG_INV_N = SEL_DEBUG_INV_N.get v ∧
      t.get SEL_DEBUG SEL_DEBUG_NI_S = (if w then SEL_DEBUG_NI_S.get v else s.get SEL_DEBUG SEL_DEBUG_NI_S) ∧
      t.get SEL_DEBUG SEL_DEBUG_INV_S = (if w then SEL_DEBUG_INV_S.get v else s.get SEL_DEBUG SEL_DEBUG_INV_S) ∧
      t.get SEL_DEBUG SEL_DEBUG_LOCK = (if w then SEL_DEBUG_LOCK.get v else 0) ∧
      t.get SEL_DEBUG SEL_DEBUG_EFFECTIVE = t.effectiveBits) ∧
  (∀ (s : State) (w : Bool) (v : W64),
    s.bit SEL_DEBUG SEL_DEBUG_LOCK = true →
    Completes (.selDebugWrite w true v) s fun t =>
      ∀ d ∈ [SEL_DEBUG_NI_N, SEL_DEBUG_INV_N, SEL_DEBUG_NI_S, SEL_DEBUG_INV_S, SEL_DEBUG_LOCK], t.get SEL_DEBUG d = s.get SEL_DEBUG d) ∧
  (∀ (s : State) (c : CardCtx) (target a : Nat),
    let u := s.taken c 0x0801
    s.cardOk c 0x0801 false (fun _ => .is true) = true →
    u.slotFree false = true →
    u.opOpen [0x0801] 0 = false →
    u.lifeFail target 272 a (u.rd a 272) true = none →
    Completes (.lifeAdvance c target 272 a true) s fun t =>
      t.fuses.life = s.fuses.life + 1 ∧ (s.fuses.life = 0 → t.fuses.cap = cardField (u.rd a 272) 9 1 ∧ t.fuses.ownerSet = true) ∧
      (∃ r, t.pwr.trans = some r ∧ r.number = 7) ∧ t.get PWR_RSTINFO PWR_RSTINFO_KIND = 1 ∧
      ((c.via = .keeper ∨ c.via = .jtag) → u.dby.queue = [] → t.dby.sent = u.dby.sent ++ [accepted c 0x0801, okReply c 0x0801])) ∧
  (∀ (s : State) (c : CardCtx) (target len a st : Nat) (ok : Bool),
    let u := s.taken c 0x0801
    s.cardOk c 0x0801 false (fun _ => .is true) = true →
    u.slotFree false = true →
    u.opOpen [0x0801] 0 = false →
    u.lifeFail target len a (u.rd a 272) ok = some st →
    Completes (.lifeAdvance c target len a ok) s fun t =>
      t.fuses = s.fuses ∧ Replied c [accepted c 0x0801, ⟨c, st, 0x0801, 3, []⟩] u t)

/-- R37, R457, R490 to R492, R496, R498, R501, R502: a POWER.SET_STATE that passes the checks of Table 19.3 starts its transition, one that
a check of that table refuses changes no state; POWER.GET_STATE, POWER.SET_PROFILE and POWER.REFUSALS. `u` is the state in which
the card is taken. -/
def Obligations.PowerCardsComplete : Prop :=
  (∀ (s : State) (c : CardCtx),
    let u := s.taken c 0x0101
    s.cardOk c 0x0101 true powerOwner = true →
    u.powerBusy = false →
    u.dstate = 0 →
    Completes (.setStateWoven c) s fun t =>
      t.dstate = 0 ∧ t.pwr = u.pwr ∧ Replied c [okReply c 0x0101] u t) ∧
  (∀ (s : State) (c : CardCtx),
    let u := s.taken c 0x0101
    s.cardOk c 0x0101 true powerOwner = true →
    u.powerBusy = false →
    u.slotFree false = true →
    u.dstate = 1 →
    Completes (.setStateWoven c) s fun t =>
      t.dstate = 0 ∧ t.get PWR_STATE PWR_STATE_PREV = 1 ∧ t.get PWR_STATE PWR_STATE_LAST_CAUSE = 0 ∧ t.pwr.trans = none ∧
      (∀ n ∈ tileNodes, n ∈ u.pwr.wasRun → u.tstate n = tsPark → t.tstate n = tsRun) ∧
      Replied c [accepted c 0x0101, okReply c 0x0101] u t) ∧
  (∀ (s : State) (c : CardCtx),
    let u := s.taken c 0x0101
    s.cardOk c 0x0101 true powerOwner = true →
    u.powerBusy = false →
    u.slotFree false = true →
    u.dstate = 2 →
    Completes (.setStateWoven c) s fun t =>
      t.dstate = 2 ∧ t.pwr.trans = some { number := 4, start := u.clk.time, step := 1, stepAt := u.clk.time } ∧ t.pwr.railC = true ∧
      Replied c [accepted c 0x0101] u t) ∧
  (∀ (s : State) (c : CardCtx),
    let u := s.taken c 0x0101
    s.cardOk c 0x0101 false powerOwner = true →
    u.powerBusy = false →
    u.slotFree false = true →
    u.dstate = 0 →
    u.setStateRefuser 1 = none →
    Completes (.setStateSlack c) s fun t =>
      t.dstate = 0 ∧ t.pwr.trans = some { number := 1, start := u.clk.time, stepAt := u.clk.time } ∧ t.pwr.armed = true ∧
      t.pwr.wasRun = u.running ∧ (∀ n ∈ u.running, t.tstate n = tsPark) ∧ Replied c [accepted c 0x0101] u t) ∧
  (∀ (s : State) (c : CardCtx) (b : Nat),
    let u := s.taken c 0x0101
    s.cardOk c 0x0101 false powerOwner = true →
    u.powerBusy = false →
    u.dstate = 0 →
    u.setStateRefuser 1 = some b →
    Completes (.setStateSlack c) s fun t =>
      t.dstate = 0 ∧ t.pwr = u.pwr ∧ t.dby.refTotal = u.dby.refTotal + 1 ∧ Replied c [⟨c, stREFUSED, 0x0101, dBlk b, []⟩] u t) ∧
  (∀ (s : State) (c : CardCtx),
    let u := s.taken c 0x0101
    s.cardOk c 0x0101 false powerOwner = true →
    u.powerBusy = false →
    u.slotFree false = true →
    u.dstate = 0 →
    u.setStateRefuser 2 = none →
    Completes (.setStateDoffed c) s fun t =>
      t.dstate = 0 ∧ t.pwr.trans = some { number := 3, start := u.clk.time, stepAt := u.clk.time } ∧ t.pwr.armed = true ∧
      t.pwr.wasRun = u.running ∧ t.hrn.stopped = true ∧ t.core = {} ∧ Replied c [accepted c 0x0101] u t) ∧
  (∀ (s : State) (c : CardCtx) (b : Nat),
    let u := s.taken c 0x0101
    s.cardOk c 0x0101 false powerOwner = true →
    u.powerBusy = false →
    u.dstate = 0 →
    u.setStateRefuser 2 = some b →
    Completes (.setStateDoffed c) s fun t =>
      t.dstate = 0 ∧ t.pwr = u.pwr ∧ Replied c [⟨c, stREFUSED, 0x0101, dBlk b, []⟩] u t) ∧
  (∀ (s : State) (c : CardCtx),
    let u := s.taken c 0x0101
    s.cardOk c 0x0101 false powerOwner = true →
    u.powerBusy = false →
    u.slotFree false = true →
    u.dstate = 0 →
    u.setStateRefuser 3 = none →
    Completes (.setStateDark c) s fun t =>
      t.dstate = 3 ∧ t.get PWR_STATE PWR_STATE_PREV = 0 ∧ t.pwr.railIod = false ∧ t.pwr.armed = true ∧ t.pwr.trans = none ∧
      t.reg TRD_CFG = s.reg TRD_CFG ∧
      ((c.via = .keeper ∨ c.via = .jtag) → t.dby.sent = u.dby.sent ++ [accepted c 0x0101, okReply c 0x0101])) ∧
  (∀ (s : State) (c : CardCtx),
    let u := s.taken c 0x0101
    s.cardOk c 0x0101 false powerOwner = true →
    u.powerBusy = false →
    (u.dstate = 1 ∨ u.dstate = 2) →
    Completes (.setStateDark c) s fun t =>
      t.dstate = u.dstate ∧ Replied c [⟨c, stBADSTATE, 0x0101, 0xFFFF, []⟩] u t) ∧
  (∀ (s : State) (c : CardCtx),
    let u := s.taken c 0x0102
    s.cardOk c 0x0102 false (fun _ => .any) = true →
    Completes (.powerGetState c) s fun t =>
      Replied c [⟨c, stOK, 0x0102, 0xFFFF, natLe 1 u.dstate ++ natLe 1 u.pwr.profile ++ natLe 1 u.pwr.runCount ++ natLe 1 0 ++
      (List.range 224).map fun n => BitVec.ofNat 8 (u.tstate n)⟩] u t) ∧
  (∀ (s : State) (c : CardCtx) (l : List Byte),
    let u := s.taken c 0x0103
    let id := cardField l 0x10 1
    let p := if id = 3 then jacquard l else profileOf id (cardField l 0x11 1)
    s.cardOk c 0x0103 false powerOwner = true →
    u.powerBusy = false →
    u.slotFree false = true →
    u.dstate = 0 →
    profileBad l = none →
    (tileNodes.all fun n => decide (u.winWays n ≤ p.rsv)) = true →
    Completes (.powerSetProfile c l) s fun t =>
      t.pwr.profile = id ∧ t.pwr.limit = p.limit ∧ t.pwr.profFreq = min p.core (u.get DBY_CHIP_ID DBY_CHIP_ID_GRADE) ∧ t.pwr.coreClk = [] ∧
      t.get MESH_CFG MESH_CFG_MESH_FREQ = p.mesh ∧ t.bit MESH_CFG MESH_CFG_PRIO_RDMA = p.prioRdma ∧ t.bit MESH_CFG MESH_CFG_PRIO_HRN = p.prioHrn ∧
      t.get MESH_CFG MESH_CFG_STARVE_LIMIT = p.starve ∧ t.get MESH_CFG MESH_CFG_DRAIN_TMO = p.drain ∧
      t.get DIR_CFG DIR_CFG_HOME_TMO = p.home ∧ t.get DIR_CFG DIR_CFG_GRANT_TMO = p.grant ∧ t.get LOOM_CFG LOOM_CFG_QUANTUM = p.quantum ∧
      t.get LOOM_CFG LOOM_CFG_BURST = p.burst ∧ t.get PICK_CFG PICK_CFG_SETUP = p.setup ∧ t.get PICK_CFG PICK_CFG_GATHER = p.gather ∧
      (∀ n ∈ tileNodes, t.get (LLC_CFG n) LLC_CFG_RSV_WAYS = p.rsv ∧ t.bit (LLC_CFG n) LLC_CFG_NL_PF = p.nl ∧
      t.get (CORE_PF_CFG n) CORE_PF_CFG_TRAIN = p.train ∧ t.get (CORE_PF_CFG n) CORE_PF_CFG_DIST = p.dist) ∧
      (∀ k : Fin 12, t.get (MC_CFG k) MC_CFG_PD_IDLE = p.pdIdle) ∧ Replied c [accepted c 0x0103, okReply c 0x0103] u t) ∧
  (∀ (s : State) (c : CardCtx) (l : List Byte) (n : Nat),
    let u := s.taken c 0x0103
    let id := cardField l 0x10 1
    let p := if id = 3 then jacquard l else profileOf id (cardField l 0x11 1)
    s.cardOk c 0x0103 false powerOwner = true →
    u.powerBusy = false →
    u.dstate = 0 →
    profileBad l = none →
    tileNodes.find? (fun n => decide (p.rsv < u.winWays n)) = some n →
    Completes (.powerSetProfile c l) s fun t =>
      t.pwr = u.pwr ∧ t.get MESH_CFG MESH_CFG_MESH_FREQ = u.get MESH_CFG MESH_CFG_MESH_FREQ ∧
      Replied c [⟨c, stREFUSED, 0x0103, dBlk (0x100 + n), []⟩] u t) ∧
  (∀ (s : State) (c : CardCtx) (x : Nat),
    let u := s.taken c 0x0104
    s.cardOk c 0x0104 false (fun _ => .any) = true →
    x ≤ 1 →
    Completes (.powerRefusals c x) s fun t =>
      t.dby.refLog = (if x = 1 then [] else u.dby.refLog) ∧
      Replied c [⟨c, stOK, 0x0104, 0xFFFF, natLe 8 u.dby.refTotal ++ natLe 1 u.dby.refLog.length ++ natLe 7 0 ++ u.dby.refLog.flatMap RefEntry.bytes⟩] u t)

/-- R496 to R501, R504 to R506: the ends of the entries to Slack and Doffed, the abort of the latter, the wakes that armed events
start, the steps of the wake orders with their timeouts, and the retry of a Dark wake. -/
def Obligations.PowerTransitionsComplete : Prop :=
  (∀ (s : State) (r : Trans) (o : OpenOp),
    s.pwr.trans = some r →
    r.number = 1 →
    (s.pwr.wasRun.all fun n => (s.coh.reqs.all fun q => reqNode q.req != n) && (match s.nodeHart n with
      | some h => (s.hart h).io.isNone && !(s.hart h).wopen && (s.hart h).btnOut == 0
      | none => true)) = true →
    s.pwr.event = none →
    s.findOp 0x0101 0 = some o →
    Completes (.parkComplete) s fun t =>
      t.dstate = 1 ∧ t.get PWR_STATE PWR_STATE_PREV = s.dstate ∧ t.get PWR_STATE PWR_STATE_LAST_CAUSE = 0 ∧ t.pwr.trans = none ∧
      Replied o.ctx [okReply o.ctx 0x0101] s t) ∧
  (∀ (s : State) (r : Trans) (w : WakeCause),
    s.pwr.trans = some r →
    r.number = 1 →
    (s.pwr.wasRun.all fun n => (s.coh.reqs.all fun q => reqNode q.req != n) && (match s.nodeHart n with
      | some h => (s.hart h).io.isNone && !(s.hart h).wopen && (s.hart h).btnOut == 0
      | none => true)) = true →
    s.pwr.event = some w →
    s.wakeArmed w = true →
    s.seqFree = true →
    Completes (.parkComplete) s fun t =>
      t.dstate = 0 ∧ t.get PWR_STATE PWR_STATE_PREV = 1 ∧ t.get PWR_STATE PWR_STATE_LAST_CAUSE = causeOf w ∧ t.pwr.trans = none ∧
      (∀ n ∈ tileNodes, n ∈ s.pwr.wasRun → s.tstate n = tsPark → t.tstate n = tsRun)) ∧
  (∀ (s : State) (w : WakeCause),
    s.dstate = 1 →
    s.pwr.trans = none →
    s.seqFree = true →
    s.wakeArmed w = true →
    s.wakeReady w = true →
    Completes (.slackWakeEvent w) s fun t =>
      t.dstate = 0 ∧ t.get PWR_STATE PWR_STATE_PREV = 1 ∧ t.get PWR_STATE PWR_STATE_LAST_CAUSE = causeOf w ∧ t.pwr.trans = none ∧
      (w ≠ .irq → t.told w = true) ∧ (∀ n ∈ tileNodes, n ∈ s.pwr.wasRun → s.tstate n = tsPark → t.tstate n = tsRun)) ∧
  (∀ (s : State) (w : WakeCause),
    s.dstate = 1 →
    s.wakeArmed w = false →
    Completes (.slackWakeEvent w) s fun t =>
      t = s) ∧
  (∀ (s : State) (w : WakeCause),
    s.dstate = 2 →
    s.pwr.trans = none →
    s.seqFree = true →
    s.wakeArmed w = true →
    s.wakeReady w = true →
    Completes (.doffedWakeEvent w) s fun t =>
      t.dstate = 2 ∧ t.pwr.railC = true ∧ t.pwr.trans.map (fun r => (r.number, r.step, r.cause, r.aborted)) = some (4, 1, causeOf w, false) ∧
      (w ≠ .irq → t.told w = true)) ∧
  (∀ (s : State) (r : Trans) (o : OpenOp),
    s.pwr.trans = some r →
    r.number = 3 →
    s.pwr.event = none →
    s.findOp 0x0101 0 = some o →
    Completes (.doffedWritebackDone) s fun t =>
      t.dstate = 2 ∧ t.get PWR_STATE PWR_STATE_PREV = s.dstate ∧ t.pwr.trans = none ∧ t.pwr.railC = false ∧ t.cache = {} ∧ t.coh = {} ∧
      t.mesh.stopped = true ∧ Replied o.ctx [okReply o.ctx 0x0101] s t) ∧
  (∀ (s : State) (r : Trans) (o : OpenOp) (a : Nat),
    s.pwr.trans = some r →
    r.number = 3 →
    s.pwr.event = none →
    s.findOp 0x0101 0 = some o →
    (o.ctx.via = .keeper ∨ o.ctx.via = .jtag) →
    a < 2 ^ 48 →
    (s.cache.slice.all fun p => keyNode p.1 == s.homeOf (keyLine p.1)) = true →
    Completes (.doffedWritebackDone) s fun t =>
      t.byte a = s.cohByte a) ∧
  (∀ (s : State) (r : Trans) (o : OpenOp) (n : Nat) (l : List Nat),
    s.pwr.trans = some r →
    r.number = 3 →
    s.dirtyNodes = n :: l →
    s.findOp 0x0101 0 = some o →
    Completes (.doffedEntryAbort) s fun t =>
      r.start + 50000000 ≤ t.clk.time ∧ t.get PWR_STATE PWR_STATE_LAST_CAUSE = 5 ∧ t.dby.refTotal = s.dby.refTotal + 1 ∧
      t.pwr.trans = some { number := 4, start := t.clk.time, step := 4, stepAt := t.clk.time, cause := 5, aborted := true } ∧
      Replied o.ctx [⟨o.ctx, stTIMEOUT, 0x0101, dBlk (0x100 + l.foldl min n), []⟩] s t) ∧
  (∀ (s : State) (r : Trans),
    s.pwr.trans = some r →
    (r.number = 4 ∧ r.step < 5 ∨ 6 ≤ r.number ∧ r.step ≤ 7 ∧ s.dby.limited = 0) →
    Completes (.wakeStepReady) s fun t =>
      t.pwr.trans.map (fun x => (x.number, x.step)) = some (r.number, r.step + 1)) ∧
  (∀ (s : State) (r : Trans) (o : OpenOp),
    s.pwr.trans = some r →
    s.findOp 0x0101 0 = some o →
    r.number = 4 →
    5 ≤ r.step →
    r.aborted = false →
    Completes (.wakeStepReady) s fun t =>
      t.dstate = 0 ∧ t.get PWR_STATE PWR_STATE_PREV = s.dstate ∧ t.get PWR_STATE PWR_STATE_LAST_CAUSE = r.cause % 16 ∧ t.pwr.trans = none ∧
      t.hrn.stopped = false ∧ t.mesh.stopped = false ∧
      (s.pwr.wasRun.all fun n => match s.nodeHart n with
      | some h => t.hart h == { pc := s.get PWR_RESUME PWR_RESUME_ADDR * 4, released := true }
      | none => true) = true ∧
      (∀ n ∈ tileNodes, s.tstate n = tsFenced → t.tstate n = tsOff) ∧
      Replied o.ctx [okReply o.ctx 0x0101] s t) ∧
  (∀ (s : State) (r : Trans) (u : Nat),
    s.pwr.trans = some r →
    r.number = 4 →
    r.step = 4 →
    u < 12 →
    s.bit (MC_CFG u) MC_CFG_RETIRED = false →
    Completes (.wakeStepTimeout u false) s fun t =>
      r.stepAt + 5000000 ≤ t.clk.time ∧ t.bit (MC_CFG u) MC_CFG_RETIRED = true ∧ t.bit (MC_CFG u) MC_CFG_FORCED = true ∧
      t.pwr.trans = some r ∧ Logged (0x200 + u) 2 cState s t) ∧
  (∀ (s : State) (r : Trans) (o : OpenOp) (u : Nat) (b : Bool),
    s.pwr.trans = some r →
    r.number = 4 →
    r.aborted = false →
    u < 4 →
    if b then r.step = 5 else r.step ≠ 4 →
    s.findOp 0x0101 0 = some o →
    Completes (.wakeStepTimeout u b) s fun t =>
      t.dstate = s.dstate ∧ t.pwr.trans = none ∧ t.pwr.railC = false ∧ t.dby.refTotal = s.dby.refTotal + 1 ∧
      Replied o.ctx [⟨o.ctx, stFAULT, 0x0101, dieId u, []⟩] s t) ∧
  (∀ (s : State) (w : WakeCause),
    s.dstate = 3 →
    s.pwr.trans = none →
    s.seqFree = true →
    w ≠ .irq →
    s.wakeReady w = true →
    Completes (.darkWake w) s fun t =>
      t.pwr.railIod = true ∧ t.pwr.trans.map (fun r => (r.number, r.step, r.retry)) = some (6, 1, false) ∧
      t.get PWR_RSTINFO PWR_RSTINFO_KIND = 1 ∧ t.get PWR_RSTINFO PWR_RSTINFO_SOURCE = 4 ∧ t.told w = true) ∧
  (∀ (s : State) (r : Trans) (b : Nat),
    s.pwr.trans = some r →
    (r.number = 6 ∨ r.number = 7) →
    r.step ≤ 7 →
    abortBlock b = true →
    s.dby.limited = 0 →
    Completes (.darkWakeStepTimeout b) s fun t =>
      t.dstate = 3 ∧ t.pwr.railIod = false ∧ t.pwr.trans = none ∧ r.stepAt + darkTimeout r.step ≤ t.clk.time ∧
      t.get TRD_ABORT TRD_ABORT_STEP = r.step ∧ t.get TRD_ABORT TRD_ABORT_VALID = 1 ∧ t.get TRD_ABORT TRD_ABORT_BLOCK = b ∧
      t.get TRD_ABORT TRD_ABORT_TRANSITION = r.number ∧
      (if r.retry then t.bit TRD_STAT TRD_STAT_WAKE_FAIL = true ∧ t.pwr.retryAt = none else t.pwr.retryAt = some (t.clk.time + 1000000000))) ∧
  (∀ (s : State) (x : Nat),
    s.pwr.retryAt = some x →
    Completes (.wakeRetry) s fun t =>
      x ≤ t.clk.time + 100000000 ∧ t.pwr.trans.map (fun r => (r.number, r.step, r.retry)) = some (6, 1, true) ∧ t.pwr.retryAt = none ∧
      t.pwr.railIod = true) ∧
  (∀ (s : State) (n : Nat) (r : Trans),
    n < 12 →
    s.pwr.trans = some r →
    6 ≤ r.number →
    8 ≤ r.step →
    n ∉ s.boot.failed →
    Completes (.channelTrainingTimeout n) s fun t =>
      n ∈ t.boot.failed ∧ t.bit (MC_CFG n) MC_CFG_POP = false ∧ Logged (0x200 + n) 2 cDram s t ∧ r.stepAt + 2000000000 ≤ t.clk.time ∧ t.pwr.trans = s.pwr.trans)

/-- R58, R507 to R510, R512, R513, R604 to R606, R617, R618: wakes on the pair in Woven and frames that do not match, the check of the pair,
latched edges, the alarm and the capture of TIME; the package power loop, the thermal steps, and the loss of every rail. -/
def Obligations.TreadleAndLimitsComplete : Prop :=
  (∀ (s : State) (rev : Bool),
    let want : BitVec 32 := BitVec.ofNat 32 (0xAA * 2 ^ 24 + s.get TRD_CFG TRD_CFG_CODE)
    s.dstate = 0 →
    s.pwr.trans = none →
    s.pairReady 2 = true →
    Completes (.treadlePatternWake (if rev then ~~~ want else want)) s fun t =>
      t.pwr.armed = false ∧ t.dstate = 0 ∧ t.hrn.clkStopped = s.hrn.clkStopped ∧ t.reg TRD_STAT = s.reg TRD_STAT) ∧
  (∀ (s : State) (rev : Bool),
    let want : BitVec 32 := BitVec.ofNat 32 (0xAA * 2 ^ 24 + s.get TRD_CFG TRD_CFG_CODE)
    s.dstate = 3 →
    s.pwr.trans = none →
    s.seqFree = true →
    s.pairReady 2 = true →
    Completes (.treadlePatternWake (if rev then ~~~ want else want)) s fun t =>
      t.pwr.armed = false ∧ t.pwr.trans.map (·.number) = some 6 ∧ t.get TRD_STAT TRD_STAT_CAUSE = 1 ∧ t.bit TRD_STAT TRD_STAT_REVERSED = rev) ∧
  (∀ (s : State) (f : BitVec 32),
    let want : BitVec 32 := BitVec.ofNat 32 (0xAA * 2 ^ 24 + s.get TRD_CFG TRD_CFG_CODE)
    f ≠ want →
    f ≠ ~~~ want →
    Completes (.treadlePatternWake f) s fun t =>
      t = s) ∧
  (∀ (s : State) (n : Nat),
    1000 ≤ n →
    s.dstate = 0 →
    s.pwr.trans = none →
    s.pairReady 1 = true →
    Completes (.treadleEdgeWake n) s fun t =>
      t.pwr.armed = false ∧ t.dstate = 0 ∧ t.reg TRD_STAT = s.reg TRD_STAT) ∧
  (∀ (s : State) (n : Nat),
    n < 1000 →
    Completes (.treadleEdgeWake n) s fun t =>
      t = s) ∧
  (∀ (s : State) (low : Bool),
    Completes (.treadlePairCheck low) s fun t =>
      t.bit TRD_STAT TRD_STAT_PAIR_FAULT = low ∧ t.dstate = s.dstate) ∧
  (∀ (s : State) (n : Nat) (up : Bool),
    (1 ≤ n ∧ n ≤ 64) →
    (s.reg TRD_WAKE_MASK).toNat.testBit (n - 1) = true →
    s.dstate = 1 →
    s.pwr.trans = none →
    s.seqFree = true →
    s.wakeArmed (.latch n) = true →
    Completes (.latchWake n up) s fun t =>
      t.dstate = 0 ∧ t.get PWR_STATE PWR_STATE_LAST_CAUSE = 4 ∧ t.get TRD_STAT TRD_STAT_CAUSE = 4 ∧ t.get TRD_STAT TRD_STAT_SOURCE = n ∧
      t.hrn.lines.contains n = up) ∧
  (∀ (s : State),
    let next := max (s.get TRD_RTC TRD_RTC_COUNT + 1) (s.get TRD_ALARM TRD_ALARM_CMP)
    s.bit TRD_ALARM TRD_ALARM_EN = true →
    s.clk.rtcAcc < 1000000000 →
    next < 2 ^ 48 →
    Completes (.rtcAlarm) s fun t =>
      t.bit TRD_ALARM TRD_ALARM_EN = false ∧ t.get TRD_RTC TRD_RTC_COUNT = next) ∧
  (∀ (s : State),
    s.pwr.railIod = true →
    s.clk.rtcAcc < 1000000000 →
    Completes (.timeOfsCapture) s fun t =>
      t.get TRD_RTC TRD_RTC_COUNT = (s.get TRD_RTC TRD_RTC_COUNT / 32 + 1) * 32 % 2 ^ 48 ∧
      t.reg TRD_TIME_OFS = BitVec.ofInt 64 ((t.clk.time : Int) - rtcNs (t.get TRD_RTC TRD_RTC_COUNT))) ∧
  (∀ (s : State) (l : List (Nat × Nat)) (r v : Nat),
    s.dstate ≠ 3 →
    r < 17 →
    Completes (.powerLimitSample (l ++ [(r, v)])) s fun t =>
      Tab.find t.pwr.vr r = some v ∧ t.pwr.silent.contains r = false ∧ t.pwr.sums = (t.pkgPower :: s.pwr.sums).take 10) ∧
  (∀ (s : State),
    s.pwr.sums ≠ [] →
    s.pwr.limit * 1000 < s.pwrAvg →
    Completes (.powerLimitStep) s fun t =>
      s.pwr.limitStep + 900000 ≤ t.clk.time ∧ t.pwr.limitStep = t.clk.time ∧
      ∀ n ∈ s.running, s.coreFreq n ≤ s.profClock n → t.coreFreq n = (if 8 < s.coreFreq n then s.coreFreq n - 1 else s.coreFreq n)) ∧
  (∀ (s : State),
    s.pwr.sums ≠ [] →
    s.pwrAvg * 100 < s.pwr.limit * 95000 →
    Completes (.powerLimitStep) s fun t =>
      s.pwr.limitStep + 9000000 ≤ t.clk.time ∧
      ∀ n ∈ s.running, s.coreFreq n ≤ s.profClock n → t.coreFreq n = min (s.coreFreq n + 1) (s.profClock n)) ∧
  (∀ (s : State) (n d : Nat) (x : Int),
    n < 224 →
    nodeKind n = 0 →
    s.pwr.railC = true →
    100 ≤ x →
    Tab.find s.pwr.thermStep n = none →
    8 < s.coreFreq n →
    s.coreFreq n ≤ s.profClock n →
    Completes (.tileThermalStep n x d) s fun t =>
      Tab.find t.pwr.tileTemp n = some x ∧ t.coreFreq n = s.coreFreq n - 1 ∧ t.hrn.lines.contains (35 + nodeDie n) = true) ∧
  (∀ (s : State) (n d t0 : Nat) (x : Int),
    n < 224 →
    nodeKind n = 0 →
    s.pwr.railC = true →
    x ≤ 95 →
    Tab.find s.pwr.thermCool n = some t0 →
    (Tab.find s.pwr.thermStep n).isSome = true →
    t0 + 100000000 ≤ s.clk.time + d →
    Completes (.tileThermalStep n x d) s fun t =>
      t.coreFreq n = t.profClock n ∧ Tab.find t.pwr.tileTemp n = some x) ∧
  (∀ (s : State) (a b d : Nat) (x y : Int),
    a < 224 →
    b < 224 →
    nodeKind a = 0 →
    nodeKind b = 0 →
    hops a b = 1 →
    s.pwr.railC = true →
    45 < x - y →
    Tab.find s.mesh.nbrSince (a * 256 + b) = none →
    Tab.find s.pwr.thermStep a = none →
    8 < s.coreFreq a →
    s.coreFreq a ≤ s.profClock a →
    Completes (.neighbourThermalStep a b x y d) s fun t =>
      t.coreFreq a = s.coreFreq a - 1 ∧ Logged (0x100 + a) 0 cThermal s t ∧ (Tab.find t.mesh.nbrSince (a * 256 + b)).isSome = true) ∧
  (∀ (s : State) (r : Nat),
    r < 17 →
    s.dstate ≠ 3 →
    s.pwr.silent.contains r = false →
    Completes (.pmbusNoAnswer r) s fun t =>
      Tab.find t.pwr.vr r = some (s.vrMax r) ∧ t.pwr.silent.contains r = true ∧ Logged 0 2 cTimeout s t) ∧
  (∀ (s : State) (k : Nat),
    s.railOn k = true →
    Completes (.vrPgLoss k) s fun t =>
      t.dstate = 3 ∧ t.pwr.railIod = false ∧ t.pwr.railC = false ∧ t.pwr.dead = 1 ∧ t.fatalLow = true ∧ t.thermtripLow = false) ∧
  (∀ (s : State) (d t0 : Nat) (x : Nat),
    Tab.find s.crl.hot d = some (x, t0) →
    d < 5 →
    s.diePowered d = true →
    Completes (.thermalTrip d) s fun t =>
      t0 + 900000 ≤ t.clk.time ∧ t.dstate = 3 ∧ t.pwr.railIod = false ∧ t.pwr.dead = 2 ∧ t.thermtripLow = true)

/-- R525, R527, R528, R533 to R535, R537: a FEED card that passes its gates and its checks, and the refusals of FEED.ON. `u` is the state in
which the card is taken. -/
def Obligations.FeedCardsComplete : Prop :=
  (∀ (s : State) (c : CardCtx) (n slew ilim : Nat),
    let u := s.taken c 0x0701
    s.cardOk c 0x0701 false feedOwner = true →
    n ≤ 15 →
    slew ≤ 200 →
    ilim ≤ 100 →
    u.life ≠ 4 →
    u.feedState n = 0 →
    (u.feed n).asked = none →
    (u.feed n).retired = false →
    (u.feed n).ilk = true →
    (10800 ≤ u.get (CREEL_CH_STAT n) CREEL_CH_STAT_VIN ∧ u.get (CREEL_CH_STAT n) CREEL_CH_STAT_VIN ≤ 13200) →
    (u.linkUp false = true ∧ u.linkUp true = true) →
    u.budgetOk n ilim = true →
    u.slotFree false = true →
    Completes (.feedOn c n slew ilim) s fun t =>
      (t.feed n).asked = some u.clk.time ∧ (t.feed n).resv = u.feedAsk n ilim ∧ (t.feed n).slew = slew ∧ (t.feed n).ilimit = ilim ∧
      t.feedKey n 0 = true ∧ t.feedState n = 0 ∧ t.get (CREEL_CH_STAT n) CREEL_CH_STAT_FAULT = 0 ∧ Replied c [accepted c 0x0701] u t) ∧
  (∀ (s : State) (c : CardCtx) (n slew ilim : Nat),
    let u := s.taken c 0x0701
    s.cardOk c 0x0701 false feedOwner = true →
    n ≤ 15 →
    slew ≤ 200 →
    ilim ≤ 100 →
    u.life ≠ 4 →
    u.feedState n = 0 →
    (u.feed n).asked = none →
    ((u.feed n).ilk = false ∨ u.get (CREEL_CH_STAT n) CREEL_CH_STAT_VIN < 10800 ∨ 13200 < u.get (CREEL_CH_STAT n) CREEL_CH_STAT_VIN) →
    Completes (.feedOn c n slew ilim) s fun t =>
      t.crl = u.crl ∧ t.feedState n = 0 ∧ t.dby.refTotal = u.dby.refTotal + 1 ∧ Replied c [⟨c, stREFUSED, 0x0701, dBlk (feedId n), []⟩] u t) ∧
  (∀ (s : State) (c : CardCtx) (n slew ilim : Nat),
    let u := s.taken c 0x0701
    s.cardOk c 0x0701 false feedOwner = true →
    n ≤ 15 →
    slew ≤ 200 →
    ilim ≤ 100 →
    u.life ≠ 4 →
    u.feedState n = 0 →
    (u.feed n).asked = none →
    (u.feed n).retired = false →
    (u.feed n).ilk = true →
    (10800 ≤ u.get (CREEL_CH_STAT n) CREEL_CH_STAT_VIN ∧ u.get (CREEL_CH_STAT n) CREEL_CH_STAT_VIN ≤ 13200) →
    (u.linkUp false = true ∧ u.linkUp true = true) →
    u.budgetOk n ilim = false →
    Completes (.feedOn c n slew ilim) s fun t =>
      t.crl = u.crl ∧ t.feedState n = 0 ∧ Counted CREEL_BUDGET_REFUSE 1 u t ∧ Replied c [⟨c, stREFUSED, 0x0701, dBlk 2, []⟩] u t) ∧
  (∀ (s : State) (c : CardCtx) (n : Nat) (force : Bool),
    let u := s.taken c 0x0702
    s.cardOk c 0x0702 true feedOwner = true →
    n ≤ 15 →
    (u.feedState n = 2 ∨ u.feedState n = 3) →
    (u.feed n).asked = none →
    (force = true ∨ ((u.portsOfFeed n).all fun p => u.portCmds p == 0) = true) →
    u.anyOpen [0x0702] = false →
    u.slotFree true = true →
    Completes (.feedOff c n force) s fun t =>
      t.feedState n = 5 ∧ t.get (CREEL_CH_STAT n) CREEL_CH_STAT_FAULT = u.get (CREEL_CH_STAT n) CREEL_CH_STAT_FAULT ∧ (t.feed n).resv = 0 ∧ Replied c [accepted c 0x0702] u t) ∧
  (∀ (s : State) (c : CardCtx) (n : Nat) (force : Bool),
    let u := s.taken c 0x0702
    s.cardOk c 0x0702 true feedOwner = true →
    n ≤ 15 →
    u.feedState n = 4 →
    (u.feed n).asked = none →
    (force = true ∨ ((u.portsOfFeed n).all fun p => u.portCmds p == 0) = true) →
    u.anyOpen [0x0702] = false →
    u.slotFree true = true →
    Completes (.feedOff c n force) s fun t =>
      t.feedState n = 0 ∧ (t.feed n).retryAt = none ∧ t.get (CREEL_CH_STAT n) CREEL_CH_STAT_RETRIES = 0 ∧
      t.get (CREEL_CH_STAT n) CREEL_CH_STAT_FAULT = u.get (CREEL_CH_STAT n) CREEL_CH_STAT_FAULT ∧
      Replied c [accepted c 0x0702, okReply c 0x0702] u t) ∧
  (∀ (s : State) (c : CardCtx) (n p : Nat),
    let u := s.taken c 0x0702
    s.cardOk c 0x0702 true feedOwner = true →
    n ≤ 15 →
    u.feedState n ≠ 0 →
    (List.range 16).find? (fun p => (u.portsOfFeed n).contains p && u.portCmds p != 0) = some p →
    Completes (.feedOff c n false) s fun t =>
      t.crl = u.crl ∧ t.feedState n = u.feedState n ∧ Replied c [⟨c, stREFUSED, 0x0702, dBlk (0x400 + p), []⟩] u t) ∧
  (∀ (s : State) (c : CardCtx) (force : Bool),
    let u := s.taken c 0x0702
    s.cardOk c 0x0702 true feedOwner = true →
    ((List.range 16).all fun n => u.feedState n == 0 && (u.feed n).asked.isNone) = true →
    Completes (.feedOff c 0xFF force) s fun t =>
      t.crl = u.crl ∧ Replied c [okReply c 0x0702] u t) ∧
  (∀ (s : State) (c : CardCtx) (n : Nat),
    let u := s.taken c 0x0703
    s.cardOk c 0x0703 false (fun _ => .any) = true →
    (n ≤ 15 ∨ n = 0xFF) →
    Completes (.feedStatus c n) s fun t =>
      Replied c [⟨c, stOK, 0x0703, 0xFFFF, (if n = 0xFF then List.range 16 else [n]).flatMap u.feedRecord⟩] u t) ∧
  (∀ (s : State) (c : CardCtx) (b m : Nat),
    let u := s.taken c 0x0704
    s.cardOk c 0x0704 false feedOwner = true →
    (1 ≤ b ∧ b ≤ 1600) →
    (1 ≤ m ∧ m ≤ 16) →
    Completes (.feedBudget c b m) s fun t =>
      t.get CREEL_CFG CREEL_CFG_BUDGET = b ∧ t.get CREEL_CFG CREEL_CFG_MAX_RAMPS = m ∧ t.get CREEL_CFG CREEL_CFG_HOLD_S = u.get CREEL_CFG CREEL_CFG_HOLD_S ∧
      t.crl = u.crl ∧ Replied c [okReply c 0x0704] u t) ∧
  (∀ (s : State) (c : CardCtx) (mask h : Nat),
    let u := s.taken c 0x0705
    let rest := u.rankOrder (u.holdingChans.filter fun n => !mask.testBit n)
    s.cardOk c 0x0705 false feedOwner = true →
    h ≤ 600 →
    (u.linkUp false = true ∧ u.linkUp true = true) →
    u.anyOpen [0x0701] = false →
    u.crl.hold.isSome = true →
    Completes (.feedReclaim c mask h) s fun t =>
      t.crl.hold = none ∧ t.crl.downQ = rest.tail ∧
      (∀ n : Fin 16, (u.feed n).holding = true → u.feedState n = 3 → mask.testBit n = true →
      t.feedState n = 2 ∧ t.feedKey n 0 = true ∧ t.feedKey n 1 = true) ∧
      (∀ n ∈ rest.head?, t.feedState n = 5 ∧ (t.feed n).byHold = true) ∧
      t.get CREEL_CFG CREEL_CFG_HOLD_S = (if h = 0 then u.get CREEL_CFG CREEL_CFG_HOLD_S else h) ∧ Replied c [okReply c 0x0705] u t)

/-- R522 to R524, R526, R527, R529, R533, R535, R536, R544, R545, R565, R566, R622: the links and keys, a start with its checks, detectors,
retries, the hold and the ramp-downs, the self-test, the diodes, and the loss of the CRD's supply. -/
def Obligations.CreelEventsComplete : Prop :=
  (∀ (s : State) (n vin vout e : Nat) (i x : Int),
    n < 16 →
    (vin < 65536 ∧ vout < 65536) →
    Completes (.crdLinkFrame false n vin vout e i x) s fun t =>
      t.linkUp false = true ∧ t.crl.lostSeq = none ∧ t.crl.frameSeq = s.clk.time ∧ t.get (CREEL_CH_STAT n) CREEL_CH_STAT_VIN = vin ∧
      t.get (CREEL_CH_STAT n) CREEL_CH_STAT_VOUT = vout ∧ t.get (CREEL_CH_STAT n) CREEL_CH_STAT_ENERGY = min e 100 ∧
      t.get (CREEL_CH_CUR n) CREEL_CH_CUR_CURRENT = (i % 2 ^ 32).toNat ∧ t.feedState n = s.feedState n) ∧
  (∀ (s : State) (n vin vout e : Nat) (i x : Int),
    Completes (.crdLinkFrame true n vin vout e i x) s fun t =>
      t.linkUp true = true ∧ t.crl.lostSafe = none ∧ t.crl.frameSafe = s.clk.time ∧ t.reg (CREEL_CH_STAT n) = s.reg (CREEL_CH_STAT n)) ∧
  (∀ (s : State) (w : Bool),
    s.linkUp w = true →
    Completes (.crdLinkLoss w) s fun t =>
      t.linkUp w = false ∧ t.lostAt w = some t.clk.time ∧ (if w then s.crl.frameSafe else s.crl.frameSeq) + 50000 ≤ t.clk.time) ∧
  (∀ (s : State) (w : Bool) (t0 : Nat),
    let i := if w then 1 else 0
    s.lostAt w = some t0 →
    s.linkUp (!w) = true →
    s.crl.hold = none →
    Completes (.linkKeyWithdraw w) s fun t =>
      t0 + 100000 ≤ t.clk.time ∧ ∀ n : Fin 16, t.feedKey n i = false ∧
      (s.feedKey n i = true → s.feedState n ∈ [1, 2, 3, 5] → (s.feedState n = 5 → s.feedOffOpen n = false) → t.feedState n = 4 ∧ t.get (CREEL_CH_STAT n) CREEL_CH_STAT_FAULT = 0x0D + i)) ∧
  (∀ (s : State) (a b : Nat),
    s.crl.lostSeq = some a →
    s.crl.lostSafe = some b →
    (a ≤ b + 100000 ∧ b ≤ a + 100000) →
    s.crl.hold = none →
    ((List.range 16).any fun n => s.feedState n == 1 || s.feedState n == 2) = true →
    Completes (.hostSideReset) s fun t =>
      t.crl.hold = some (s.clk.time, s.get CREEL_CFG CREEL_CFG_HOLD_S) ∧ Counted CREEL_HOLDS 1 s t ∧
      (∀ n : Fin 16, s.feedState n = 2 → t.feedState n = 3 ∧ (t.feed n).holding = true) ∧
      (∀ n : Fin 16, s.feedState n = 1 → t.feedState n = 1 ∧ (t.feed n).holding = true) ∧ ∀ n : Fin 16, ∀ i : Fin 2, t.feedKey n i = s.feedKey n i) ∧
  (∀ (s : State) (n : Nat),
    n < 16 →
    s.feedState n ∈ [1, 2, 3, 5] →
    (s.feedState n = 5 → s.feedOffOpen n = false) →
    Completes (.interlockChange n false false) s fun t =>
      t.feedKey n 2 = false ∧ t.feedState n = 4 ∧ t.get (CREEL_CH_STAT n) CREEL_CH_STAT_FAULT = 0x0C ∧ t.hrn.lines.contains (17 + n) = true ∧
      (t.feed n).ilk = false ∧ Counted CREEL_FAULTS 1 s t ∧ Logged (feedId n) 2 cFeed s t) ∧
  (∀ (s : State) (n : Nat),
    n < 16 →
    Completes (.interlockChange n false true) s fun t =>
      t.feedKey n 2 = true ∧ t.feedState n = s.feedState n ∧ t.hrn.lines.contains (17 + n) = false ∧ (t.feed n).ilk = true) ∧
  (∀ (s : State) (n : Nat),
    n < 16 →
    s.feedKey n 1 = true →
    s.feedState n ∈ [1, 2, 3, 5] →
    (s.feedState n = 5 → s.feedOffOpen n = false) →
    Completes (.interlockChange n true false) s fun t =>
      t.feedKey n 1 = false ∧ t.feedState n = 4 ∧ t.get (CREEL_CH_STAT n) CREEL_CH_STAT_FAULT = 0x0E ∧ (t.feed n).ilkSafe = false) ∧
  (∀ (s : State) (n : Nat),
    n < 16 →
    s.linkUp true = true →
    s.bit DBY_STAT DBY_STAT_SAFE_OK = true →
    (s.feed n).ilkSafe = true →
    s.dieAtLeast 1050 = false →
    s.life ≠ 4 →
    s.feedState n ≠ 4 →
    Completes (.safetyKeyDecision n) s fun t =>
      t.feedKey n 1 = true ∧ t.feedState n = s.feedState n) ∧
  (∀ (s : State) (n : Nat),
    n < 16 →
    s.linkUp true = true →
    s.bit DBY_STAT DBY_STAT_SAFE_OK = true →
    ((s.feed n).ilkSafe = false ∨ s.dieAtLeast 1100 = true) →
    s.feedKey n 1 = true →
    s.feedState n ∈ [1, 2, 3, 5] →
    (s.feedState n = 5 → s.feedOffOpen n = false) →
    Completes (.safetyKeyDecision n) s fun t =>
      t.feedKey n 1 = false ∧ t.feedState n = 4 ∧ t.get (CREEL_CH_STAT n) CREEL_CH_STAT_FAULT = 0x0E) ∧
  (∀ (s : State) (n t0 : Nat),
    n < 16 →
    (s.feed n).asked = some t0 →
    s.get (CREEL_CH_STAT n) CREEL_CH_STAT_KEYS ≠ 7 →
    Completes (.feedKeyWaitTimeout n) s fun t =>
      t0 + 9000000 ≤ t.clk.time ∧ t.feedState n = 0 ∧ (t.feed n).asked = none ∧ (t.feed n).resv = 0 ∧
      t.get (CREEL_CH_STAT n) CREEL_CH_STAT_FAULT = (if !s.feedKey n 2 then 0x0C else if !s.feedKey n 0 then 0x0D else 0x0E) ∧
      ∀ o ∈ s.findOp 0x0701 n, Replied o.ctx [⟨o.ctx, stFAULT, 0x0701, dBlk (feedId n), []⟩] s t) ∧
  (∀ (s : State) (n : Nat),
    n < 16 →
    (s.feed n).asked.isSome = true →
    s.get (CREEL_CH_STAT n) CREEL_CH_STAT_KEYS = 7 →
    Completes (.feedStart n 0) s fun t =>
      t.feedState n = 1 ∧ (t.feed n).asked = none ∧ (t.feed n).start = some s.clk.time ∧ (t.feed n).isRetry = false) ∧
  (∀ (s : State) (n k : Nat),
    n < 16 →
    (s.feed n).asked.isSome = true →
    s.get (CREEL_CH_STAT n) CREEL_CH_STAT_KEYS = 7 →
    k ∈ [0x07, 0x09, 0x10] →
    Completes (.feedStart n k) s fun t =>
      t.feedState n = 4 ∧ t.get (CREEL_CH_STAT n) CREEL_CH_STAT_FAULT = k ∧ (t.feed n).resv = 0 ∧ (k = 0x10 → (t.feed n).retired = true) ∧
      ∀ o ∈ s.findOp 0x0701 n, (s.opOpen [0x0702] n = false → Replied o.ctx [⟨o.ctx, stFAULT, 0x0701, dBlk (feedId n), []⟩] s t)) ∧
  (∀ (s : State) (n t0 : Nat),
    n < 16 →
    (s.feed n).start = some t0 →
    s.feedState n = 1 →
    Completes (.feedRegulation n) s fun t =>
      t0 + 1000000 ≤ t.clk.time ∧ Counted CREEL_ON 1 s t ∧ t.feedState n = (if (s.feed n).holding then 3 else 2) ∧ (t.feed n).start = none ∧
      ((s.feed n).holding = false → (t.feed n).regAt = some t.clk.time ∧ ∀ o ∈ s.findOp 0x0701 n, Replied o.ctx [okReply o.ctx 0x0701] s t)) ∧
  (∀ (s : State) (n t0 : Nat),
    let slew := if (s.feed n).slew = 0 then s.get (CREEL_CH_CFG n) CREEL_CH_CFG_SLEW else (s.feed n).slew
    n < 16 →
    (s.feed n).start = some t0 →
    s.feedState n = 1 →
    1 ≤ slew →
    Completes (.feedRampTimeout n) s fun t =>
      t0 + 480000000 / slew + 10000000 ≤ t.clk.time ∧ t.feedState n = 4 ∧ t.get (CREEL_CH_STAT n) CREEL_CH_STAT_FAULT = 5 ∧
      Logged (feedId n) 2 cFeed s t) ∧
  (∀ (s : State) (n k m : Nat),
    n < 16 →
    s.feedState n ∈ [1, 2, 3, 5] →
    detectorArmed (s.feedState n) k = true →
    k ≠ 0x06 →
    k ≠ 0x11 →
    (s.feedState n = 5 → s.feedOffOpen n = false) →
    Completes (.feedDetectorTrip n k m) s fun t =>
      t.feedState n = 4 ∧ t.get (CREEL_CH_STAT n) CREEL_CH_STAT_FAULT = k ∧ Counted CREEL_FAULTS (m + 1) s t ∧ (t.feed n).resv = 0 ∧
      (t.feed n).pulledAt = some s.clk.time ∧ Logged (feedId n) 2 cFeed s t ∧
      (s.bit (CREEL_CH_CFG n) CREEL_CH_CFG_RETRY = true → causeRetries k = true → (s.feed n).retired = false → (s.feed n).isRetry = false →
      (t.feed n).retryAt = some (s.clk.time + 1000000000) ∧ t.get (CREEL_CH_STAT n) CREEL_CH_STAT_RETRIES = 3)) ∧
  (∀ (s : State) (n k m : Nat) (o : OpenOp),
    n < 16 →
    s.feedState n = 5 →
    s.dby.openOps = [o] →
    o.opcode = 0x0702 →
    o.obj = n →
    detectorArmed 5 k = true →
    k ≠ 0x11 →
    Completes (.feedDetectorTrip n k m) s fun t =>
      t.feedState n = 0 ∧ t.get (CREEL_CH_STAT n) CREEL_CH_STAT_FAULT = k ∧ (t.feed n).retryAt = none ∧ Logged (feedId n) 2 cFeed s t ∧
      Replied o.ctx [okReply o.ctx 0x0702] s t) ∧
  (∀ (s : State) (n k m : Nat),
    n < 16 →
    (s.feedState n = 0 ∨ s.feedState n = 4) →
    detectorArmed (s.feedState n) k = true →
    k ≠ 0x11 →
    Completes (.feedDetectorTrip n k m) s fun t =>
      t.feedState n = s.feedState n ∧ t.crl = s.crl ∧ Counted CREEL_FAULTS (m + 1) s t) ∧
  (∀ (s : State) (n m : Nat),
    n < 16 →
    (s.feedState n = 2 ∨ s.feedState n = 3) →
    Completes (.feedDetectorTrip n 0x06 m) s fun t =>
      t.feedState n = s.feedState n ∧ t.bit (CREEL_CH_STAT n) CREEL_CH_STAT_OPEN_LOAD = true ∧ Counted CREEL_FAULTS (m + 1) s t) ∧
  (∀ (s : State) (n m k : Nat),
    n < 16 →
    detectorArmed (s.feedState n) 0x11 = true →
    k < 16 →
    s.feedState k ∈ [1, 2, 3, 5] →
    (s.feedState k = 5 → s.feedOffOpen k = false) →
    Completes (.feedDetectorTrip n 0x11 m) s fun t =>
      t.feedState k = 4 ∧ t.get (CREEL_CH_STAT k) CREEL_CH_STAT_FAULT = 0x11) ∧
  (∀ (s : State) (n t0 : Nat) (found : Bool),
    n < 16 →
    (s.feed n).pulledAt = some t0 →
    Completes (.fetShortCheck n found) s fun t =>
      t0 + 10000 ≤ t.clk.time ∧ (t.feed n).pulledAt = none ∧
      (if found then (t.feed n).retired = true ∧ (s.feedState n = 0 → t.feedState n = 4) ∧ t.get (CREEL_CH_STAT n) CREEL_CH_STAT_FAULT = 0x10 ∧ Logged (feedId n) 3 cFeed s t ∧
      Counted CREEL_FAULTS 1 s t else t.feedState n = s.feedState n)) ∧
  (∀ (s : State) (n t0 : Nat),
    n < 16 →
    (s.feed n).regAt = some t0 →
    Completes (.spinReservationEnd n) s fun t =>
      (t.feed n).resv = 0 ∧ (t.feed n).regAt = none ∧ t0 + s.get (CREEL_CH_CFG n) CREEL_CH_CFG_SPIN_S * 1000000000 ≤ t.clk.time ∧
      t.feedState n = s.feedState n) ∧
  (∀ (s : State) (n t0 : Nat),
    n < 16 →
    (s.feed n).retryAt = some t0 →
    s.get (CREEL_CH_STAT n) CREEL_CH_STAT_KEYS = 7 →
    s.budgetOk n 0 = true →
    Completes (.feedRetry n 0) s fun t =>
      t.feedState n = 1 ∧ (t.feed n).isRetry = true ∧ (t.feed n).resv = s.feedAsk n 0 ∧ (t.feed n).retryAt = none ∧
      t.get (CREEL_CH_STAT n) CREEL_CH_STAT_RETRIES = s.get (CREEL_CH_STAT n) CREEL_CH_STAT_RETRIES - 1 ∧
      t0 ≤ t.clk.time + retryWait (s.get (CREEL_CH_STAT n) CREEL_CH_STAT_RETRIES) / 10) ∧
  (∀ (s : State) (n t0 k : Nat),
    n < 16 →
    (s.feed n).retryAt = some t0 →
    s.get (CREEL_CH_STAT n) CREEL_CH_STAT_KEYS ≠ 7 →
    Completes (.feedRetry n k) s fun t =>
      t.feedState n = s.feedState n ∧ (t.feed n).retryAt = none ∧ t.get (CREEL_CH_STAT n) CREEL_CH_STAT_RETRIES = 0 ∧
      t.dby.refLog.head?.map (fun e => (e.opcode, e.refuser, e.status, e.transition)) = some (0xFFFF, feedId n, stREFUSED, 0x0203)) ∧
  (∀ (s : State) (n : Nat) (o : OpenOp),
    n < 16 →
    s.feedState n = 5 →
    s.dby.openOps = [o] →
    o.opcode = 0x0702 →
    o.obj = n →
    Completes (.feedRampdownDone n) s fun t =>
      t.feedState n = 0 ∧ t.feedKey n 0 = false ∧ t.feedKey n 1 = false ∧ (t.feed n).pulledAt = some s.clk.time ∧
      t.get (CREEL_CH_STAT n) CREEL_CH_STAT_FAULT = (if (s.feed n).byHold then 0x12 else s.get (CREEL_CH_STAT n) CREEL_CH_STAT_FAULT) ∧
      Counted CREEL_HOLD_END (if (s.feed n).byHold then 1 else 0) s t ∧ Replied o.ctx [okReply o.ctx 0x0702] s t) ∧
  (∀ (s : State) (t0 len : Nat),
    let rest := s.rankOrder s.holdingChans
    s.crl.hold = some (t0, len) →
    Completes (.holdEnd) s fun t =>
      t0 + len * 990000000 ≤ t.clk.time ∧ t.crl.hold = none ∧ t.crl.downQ = rest.tail ∧
      ∀ n ∈ rest.head?, t.feedState n = 5 ∧ (t.feed n).byHold = true) ∧
  (∀ (s : State) (n : Nat) (r : List Nat),
    s.crl.downQ = n :: r →
    n < 16 →
    s.feedState n = 3 →
    Completes (.holdRampdownNext) s fun t =>
      s.crl.downAt + s.get CREEL_CFG CREEL_CFG_GAP * 100000000 ≤ t.clk.time ∧ t.crl.downQ = r ∧ t.crl.downAt = t.clk.time ∧
      t.feedState n = 5 ∧ (t.feed n).byHold = true) ∧
  (∀ (s : State) (n k : Nat),
    n < 16 →
    s.feedState n = 0 →
    (s.feed n).asked = none →
    Completes (.feedSelfTest n k) s fun t =>
      (s.feed n).testedAt + 54000000000 ≤ t.clk.time ∧ (t.feed n).testedAt = t.clk.time ∧ t.feedState n = (if k = 2 then 4 else 0) ∧
      (t.feed n).retired = ((s.feed n).retired || k == 1 || k == 2) ∧
      (k = 2 → t.get (CREEL_CH_STAT n) CREEL_CH_STAT_FAULT = 0x10 ∧ Logged (feedId n) 3 cFeed s t) ∧ (k = 1 → Logged (feedId n) 2 cFeed s t)) ∧
  (∀ (s : State) (d k : Nat) (x : Int) (bad : Bool),
    d ≤ 5 →
    k ≤ 1 →
    s.diePowered d = true →
    Completes (.diodeReading d k x bad) s fun t =>
      Tab.find t.crl.diode (2 * d + k) = some { temp := x, faulted := bad || decide (x < -400) || decide (1500 < x) } ∧
      ((Tab.getD s.crl.hot d (0, 0)).1 = 1 → 1100 ≤ t.dieTemp d → ∀ n : Fin 16, t.feedKey n 1 = false) ∧
      (d < 5 → 1000 ≤ t.dieTemp d → t.hrn.lines.contains (35 + d) = true) ∧ (t.dieTemp d < 1100 → Tab.find t.crl.hot d = none)) ∧
  (∀ (s : State),
    Completes (.crdSupplyLoss) s fun t =>
      (∀ n : Fin 16, t.feedState n = 0 ∧ t.get (CREEL_CH_STAT n) CREEL_CH_STAT_KEYS = 0 ∧ (t.feed n).retired = false ∧ (t.feed n).resv = 0) ∧
      t.crl.hold = none ∧ t.linkUp false = false ∧ t.linkUp true = false ∧ t.lostAt false = some s.clk.time)

/-- R8, R413, R458, R550 to R552: RAS.READ_BANKS answers the valid records that BLOCK names from position FIRST on and clears those that the
caller may clear; RAS.INJECT arms one fault; a hart of the right world clears a record; Dobby acts on the oldest record of the
error summary lines as Table 21.6 states; and status bits clear on a write of 1. `u` is the state in which the card is taken. -/
def Obligations.ErrorRecordsComplete : Prop :=
  (∀ (s : State) (c : CardCtx) (b first k : Nat),
    let u := s.taken c 0x0901
    let l := (((u.banksNamed c.world b).flatMap fun id => ((List.range 8).filter fun r => u.recValid (bankOf id) r).map fun r => (id, r)).drop first).take 120
    s.cardOk c 0x0901 false (fun s => s.bankOwner b) = true →
    (b = 0xFFFF ∨ isBankId b = true ∧ u.stopLost b = false) →
    Completes (.rasReadBanks c b first k) s fun t =>
      Replied c [⟨c, stOK, 0x0901, 0xFFFF, natLe 16 l.length ++ l.flatMap fun p => u.recBytes c.world p.1 p.2⟩] u t ∧
      (k = 1 → ∀ p ∈ l, u.mayClear c.world p.1 p.2 = true → t.recValid (bankOf p.1) p.2 = false)) ∧
  (∀ (s : State) (c : CardCtx) (b first k : Nat),
    let u := s.taken c 0x0901
    s.cardOk c 0x0901 false (fun s => s.bankOwner b) = true →
    b ≠ 0xFFFF →
    isBankId b = false →
    Completes (.rasReadBanks c b first k) s fun t =>
      Replied c [⟨c, stBADPARAM, 0x0901, dOff 0x10, []⟩] u t) ∧
  (∀ (s : State) (c : CardCtx) (b k d a : Nat),
    let u := s.taken c 0x0902
    s.cardOk c 0x0902 false (fun _ => .is true) = true →
    (u.life ≠ 2 ∨ u.effective 3 = true) →
    (injectChannel b).isSome = true →
    u.stopLost (0x10 + b % 16) = false →
    k < 3 →
    (k = 0 → d = 1 ∨ d = 2) →
    Completes (.rasInject c b k d a) s fun t =>
      t.ras.injected = u.ras.injected ++ [{ block := b, kind := k, devices := d, addr := a }] ∧ Replied c [okReply c 0x0902] u t) ∧
  (∀ (s : State) (c : CardCtx) (b k d a : Nat),
    let u := s.taken c 0x0902
    s.cardOk c 0x0902 false (fun _ => .is true) = true →
    u.life = 2 →
    u.effective 3 = false →
    Completes (.rasInject c b k d a) s fun t =>
      t.ras = u.ras ∧ Replied c [⟨c, stNOTPERM, 0x0902, 3, []⟩] u t) ∧
  (∀ (s : State) (w : Bool) (b r : Nat),
    r < 8 →
    s.recValid (bankOf b) r = true →
    s.mayClear w b r = true →
    Completes (.rasRecordClear w b r) s fun t =>
      t.recValid (bankOf b) r = false ∧ t.reg (RAS_STATUS (bankOf b) r) = 0 ∧ t.reg (RAS_MISC (bankOf b) r) = 0) ∧
  (∀ (s : State) (w : Bool) (b r : Nat),
    s.mayClear w b r = false →
    Completes (.rasRecordClear w b r) s fun t =>
      t = s) ∧
  (∀ (s : State) (x : SumRec) (l : List SumRec),
    s.ras.summary = x :: l →
    Completes (.errorSummaryAction) s fun t =>
      t.ras.summary = l ∧ (∀ n ∈ x.fenceNode, n < 224 → s.tstate n ≤ tsDrain → t.responder n = true ∧ t.bit (MESH_FENCE_STAT n) MESH_FENCE_STAT_FORCED = true ∧
      t.mesh.noNewReq.contains n = true) ∧
      ∀ k ∈ x.retire, k < 12 → t.bit (MC_CFG k) MC_CFG_RETIRED = true) ∧
  (∀ (s : State) (w : Bool) (v : W64),
    w = s.blockWorld 0 →
    TRD_STAT_WAKE_FAIL.get v = 1 →
    Completes (.w1cStatusClear w TRD_STAT v) s fun t =>
      t.bit TRD_STAT TRD_STAT_WAKE_FAIL = false ∧ ∀ d ∈ [TRD_STAT_CAUSE, TRD_STAT_REVERSED, TRD_STAT_PAIR_FAULT, TRD_STAT_SOURCE],
      t.get TRD_STAT d = s.get TRD_STAT d) ∧
  (∀ (s : State) (n : Nat) (w : Bool) (v : W64),
    (1 ≤ n ∧ n ≤ 1023) →
    w = s.bit (HRN_SRC n) HRN_SRC_WORLD →
    HRN_SRC_LATCHED.get v = 1 →
    Completes (.w1cStatusClear w (HRN_SRC n) v) s fun t =>
      t.bit (HRN_SRC n) HRN_SRC_LATCHED = false ∧ ∀ d ∈ [HRN_SRC_EN, HRN_SRC_IP, HRN_SRC_HART, HRN_SRC_PRIO], t.get (HRN_SRC n) d = s.get (HRN_SRC n) d) ∧
  (∀ (s : State) (w : Bool) (v : W64),
    DBY_RING_CFG_LOST.get v = 1 →
    Completes (.w1cStatusClear w (DBY_RING_CFG (ringIx w)) v) s fun t =>
      t.bit (DBY_RING_CFG (ringIx w)) DBY_RING_CFG_LOST = false ∧
      t.bit (DBY_RING_CFG (ringIx w)) DBY_RING_CFG_EN = s.bit (DBY_RING_CFG (ringIx w)) DBY_RING_CFG_EN)

/-- R485, R567, R568, R570, R571, R575 to R577, R579, R580, R611, R618, R619, R621: each reset that runs the boot flow, from each of its sources, the pulses
that start none, the outcomes of the boot flow, and the release of harts. A pulse between 8 and 10 µs starts its reset or does
nothing. -/
def Obligations.ResetsComplete : Prop :=
  (∀ (s : State),
    Completes (.powerOnReset) s fun t =>
      t.pwr.trans.map (fun r => (r.number, r.step)) = some (7, 1) ∧ t.get PWR_RSTINFO PWR_RSTINFO_KIND = 0 ∧ t.get PWR_RSTINFO PWR_RSTINFO_SOURCE = 0 ∧
      t.get TRD_RTC TRD_RTC_COUNT = 0 ∧ t.mem = [] ∧ t.core = {} ∧ t.cache = {} ∧ t.coh = {} ∧ t.xf.epoch = s.xf.epoch + 1 ∧ t.fuses = s.fuses ∧
      t.boot.flash = s.boot.flash) ∧
  (∀ (s : State) (n a : Nat),
    10000 ≤ n →
    islandReg a = true →
    rcntReg a = false →
    a ∉ [PWR_STATE, PWR_WAKE_CFG, PWR_RESUME, PWR_HART_GO, PWR_RESET, PWR_RSTINFO] →
    Completes (.coldResetPin n) s fun t =>
      t.get PWR_RSTINFO PWR_RSTINFO_KIND = 1 ∧ t.get PWR_RSTINFO PWR_RSTINFO_SOURCE = (if s.pwr.dead = 2 then 6 else 1) ∧
      t.pwr.trans.map (·.number) = some 7 ∧ t.pwr.dead = 0 ∧ t.mem = [] ∧ t.poison = [] ∧ t.core = {} ∧ t.reg a = s.reg a) ∧
  (∀ (s : State) (n : Nat),
    n < 8000 →
    Completes (.coldResetPin n) s fun t =>
      t = s) ∧
  (∀ (s : State) (n : Nat),
    (8000 ≤ n ∧ n < 10000) →
    Completes (.coldResetPin n) s fun t =>
      t = { s with clk := { s.clk with freeIx := s.clk.freeIx + 1 } } ∨ t.get PWR_RSTINFO PWR_RSTINFO_KIND = 1 ∧ t.pwr.trans.map (·.number) = some 7) ∧
  (∀ (s : State) (n a : Nat),
    10000 ≤ n →
    s.pwr.dead = 0 →
    (bankReg a = true ∨ rcntReg a = true) →
    Completes (.warmResetPin n) s fun t =>
      t.get PWR_RSTINFO PWR_RSTINFO_KIND = 2 ∧ t.get PWR_RSTINFO PWR_RSTINFO_SOURCE = 2 ∧ t.pwr.trans.map (·.number) = some 7 ∧
      t.mem = [] ∧ t.cache = {} ∧ t.dby.refLog = [] ∧ t.reg a = s.reg a) ∧
  (∀ (s : State) (n : Nat),
    (s.pwr.dead ≠ 0 ∨ n < 8000) →
    Completes (.warmResetPin n) s fun t =>
      t = s) ∧
  (∀ (s : State) (w : Bool) (v : W64),
    w = s.blockWorld 0 →
    PWR_RESET_KEY.get v = 0xA5C3 →
    Completes (.pwrResetWarm w v) s fun t =>
      t.get PWR_RSTINFO PWR_RSTINFO_KIND = 2 ∧ t.get PWR_RSTINFO PWR_RSTINFO_SOURCE = 3 ∧ t.pwr.trans.map (·.number) = some 7 ∧
      t.get PWR_RESET PWR_RESET_KEY = 0 ∧ t.mem = []) ∧
  (∀ (s : State) (w : Bool) (v : W64),
    (w ≠ s.blockWorld 0 ∨ PWR_RESET_KEY.get v ≠ 0xA5C3) →
    Completes (.pwrResetWarm w v) s fun t =>
      t = s) ∧
  (∀ (s : State) (w : Bool) (v : W64),
    w = s.blockWorld 0 →
    PWR_RESET_KEY.get v = 0xA5C3 →
    Completes (.pwrResetCold w v) s fun t =>
      t.get PWR_RSTINFO PWR_RSTINFO_KIND = 1 ∧ t.get PWR_RSTINFO PWR_RSTINFO_SOURCE = 3 ∧ t.pwr.trans.map (·.number) = some 7 ∧ t.mem = []) ∧
  (∀ (s : State) (w : Bool) (v : W64),
    let h := PWR_HART_GO_HART.get v
    let a := PWR_HART_GO_ADDR.get v * 4
    w = s.blockWorld 0 →
    v.getLsbD 8 = true →
    h ≤ 191 →
    (s.hart h).released = false →
    (s.hartNode h).map s.tstate = some tsRun →
    s.dramOf true a 4 = true →
    (s.hdbg h).resetHalt = false →
    Completes (.pwrHartGo w v) s fun t =>
      (t.hart h).released = true ∧ (t.hart h).pc = a ∧ (t.hart h).priv = 3 ∧ (t.hart h).world = true ∧ (t.hart h).x = [(10, BitVec.ofNat 64 h)] ∧
      t.bit PWR_HART_GO PWR_HART_GO_ERR = false) ∧
  (∀ (s : State) (w : Bool) (v : W64),
    let h := PWR_HART_GO_HART.get v
    w = s.blockWorld 0 →
    v.getLsbD 8 = true →
    (191 < h ∨ (s.hart h).released = true ∨ s.dramOf true (PWR_HART_GO_ADDR.get v * 4) 4 = false) →
    Completes (.pwrHartGo w v) s fun t =>
      t.core = s.core ∧ t.bit PWR_HART_GO PWR_HART_GO_ERR = true) ∧
  (∀ (s : State) (e : BootEnv) (r : Trans),
    s.pwr.trans = some r →
    6 ≤ r.number →
    r.step ≤ 9 →
    s.pwr.dead = 0 →
    s.fuses.lifeCopiesAgree = true →
    s.fuses.life = 4 →
    Completes (.bootFlow e) s fun t =>
      t.dby.limited = 1 ∧ t.pwr.trans = none ∧ t.pwr.railC = false ∧ t.pwr.railQ = false ∧ t.pwr.railDimm = false ∧ t.core = s.core ∧
      t.get SEL_LIFE SEL_LIFE_STATE = 4) ∧
  (∀ (s : State) (e : BootEnv) (r : Trans),
    s.pwr.trans = some r →
    6 ≤ r.number →
    r.step ≤ 9 →
    s.pwr.dead = 0 →
    s.fuses.lifeCopiesAgree = true →
    s.fuses.life ≠ 4 →
    e.wipeFails = true →
    Completes (.bootFlow e) s fun t =>
      t.dby.limited = 2 ∧ t.pwr.trans = none ∧ t.core = s.core ∧ Logged 3 3 cState s t) ∧
  (∀ (s : State) (e : BootEnv) (r : Trans),
    let tiles := (tileNodes.filter s.tileEnabled).take 192
    s.pwr.trans = some r →
    6 ≤ r.number →
    r.step ≤ 9 →
    s.pwr.dead = 0 →
    s.fuses.lifeCopiesAgree = true →
    s.fuses.life ≠ 4 →
    e.wipeFails = false →
    e.configBad = false →
    e.routerBad = [] →
    s.boot.active ≤ 1 →
    (s.hdbg 0).resetHalt = false →
    Completes (.bootFlow e) s fun t =>
      t.pwr.trans = none ∧ t.mesh.stopped = false ∧ t.get PWR_RSTINFO PWR_RSTINFO_BOOTSEL = e.bootsel % 4 ∧ t.get PWR_RSTINFO PWR_RSTINFO_PROF = e.prof % 4 ∧
      t.pwr.profile = e.prof % 4 ∧ t.get SEL_LIFE SEL_LIFE_STATE = s.fuses.life ∧
      (∀ h : Fin 192, h < tiles.length → t.hartNode h = tiles[h.val]? ∧ t.nodeHart (tiles[h.val]?.getD 0) = some h.val) ∧
      (∀ i : Fin 4096, tiles.length = 192 → t.get (LLC_MAP i) LLC_MAP_NODE = tiles[i.val % 192]?.getD 0) ∧
      (if t.dramBytes = 0 then t.dby.limited = 3
      else
      let x := choose (e.bootsel % 4) s.boot.active s.boot.trial s.boot.tried fun k => t.slotValid k && t.hostOk k
      let b := t.slotImage (x.slot.getD 0)
      t.boot.slot = x.slot ∧ t.boot.active = x.active ∧ t.boot.trial = x.trial ∧ t.boot.tried = x.tried ∧
      t.get PWR_RSTINFO PWR_RSTINFO_IMAGE = x.slot.getD 3 ∧
      (if x.slot.isNone || imgHostLen b == 0 then t.bit DBY_STAT DBY_STAT_KEEPER = true ∧ ∀ h : Fin 192, (t.hart h).released = (s.hart h).released
      else t.bit DBY_STAT DBY_STAT_KEEPER = false ∧ (t.hart 0).released = true ∧ (t.hart 0).pc = imgHostEntry b ∧ (t.hart 0).priv = 3 ∧
      (t.hart 0).rx 10 = 0 ∧ (t.hart 0).rx 11 = t.reg PWR_RSTINFO)))

/-- R574, R578, R580 to R583: an image that verifies is staged in the slot that does not run, is made ACTIVE on trial, a trial is
confirmed, and the card pair restarts from a slot at once; the keeper's patrol starts, logs a range, and a keeper request takes a
command slot. `u` is the state in which the card is taken. -/
def Obligations.FirmwareAndKeeperComplete : Prop :=
  (∀ (s : State) (c : CardCtx) (slot len a : Nat),
    let u := s.taken c 0x0B01
    let k := u.fwSlot slot
    let img : ImageBytes := fun o n => u.rd (a + o) n
    s.cardOk c 0x0B01 false fwOwner = true →
    (slot ≤ 1 ∨ slot = 0xFF) →
    u.boot.active ≤ 1 →
    (0x1001 ≤ len ∧ len ≤ 0x1000000) →
    u.dramOf true a len = true →
    u.anyOpen [0x0B01, 0x0B02] = false →
    u.slotFree false = true →
    u.boot.slot ≠ some k →
    u.rdPoison a len = false →
    0x1000 + imgLen img ≤ len →
    u.imgValid img = true →
    Completes (.fwStage c slot len a true) s fun t =>
      t.flash k 0 len = u.rd a len ∧ t.boot.active = u.boot.active ∧ Replied c [accepted c 0x0B01, okReply c 0x0B01] u t) ∧
  (∀ (s : State) (c : CardCtx) (slot len a : Nat) (ok : Bool),
    let u := s.taken c 0x0B01
    let k := u.fwSlot slot
    s.cardOk c 0x0B01 false fwOwner = true →
    (slot ≤ 1 ∨ slot = 0xFF) →
    (0x1001 ≤ len ∧ len ≤ 0x1000000) →
    u.dramOf true a len = true →
    u.anyOpen [0x0B01, 0x0B02] = false →
    u.slotFree false = true →
    u.boot.slot ≠ some k →
    u.rdPoison a len = false →
    u.imgValid (fun o n => u.rd (a + o) n) = false →
    Completes (.fwStage c slot len a ok) s fun t =>
      t.boot = u.boot ∧ Replied c [accepted c 0x0B01, ⟨c, stNOTPERM, 0x0B01, 1, []⟩] u t) ∧
  (∀ (s : State) (c : CardCtx) (slot : Nat) (ok : Bool),
    let u := s.taken c 0x0B02
    let k := u.fwSlot slot
    s.cardOk c 0x0B02 false fwOwner = true →
    (slot ≤ 1 ∨ slot = 0xFF) →
    u.anyOpen [0x0B01, 0x0B02] = false →
    u.slotFree false = true →
    u.boot.slot ≠ some k →
    u.slotValid k = true →
    Completes (.fwActivateNextReset c slot ok) s fun t =>
      t.boot.active = k ∧ t.boot.trial = true ∧ t.boot.tried = false ∧ t.boot.slot = u.boot.slot ∧ t.fuses = u.fuses ∧
      Replied c [accepted c 0x0B02, okReply c 0x0B02] u t) ∧
  (∀ (s : State) (c : CardCtx) (slot : Nat),
    let u := s.taken c 0x0B02
    let k := u.fwSlot slot
    let b := u.slotImage k
    s.cardOk c 0x0B02 false fwOwner = true →
    slot ≤ 1 →
    u.anyOpen [0x0B01, 0x0B02] = false →
    u.slotFree false = true →
    u.boot.slot = some k →
    u.boot.trial = true →
    Completes (.fwActivateNextReset c slot true) s fun t =>
      t.boot.trial = false ∧ t.bit PWR_RSTINFO PWR_RSTINFO_TRIAL = false ∧ t.boot.active = u.boot.active ∧
      t.fuses.floor = (if (imgNum b 7 1).testBit 0 then max u.fuses.floor (imgNum b 8 4) else u.fuses.floor) ∧
      Replied c [accepted c 0x0B02, okReply c 0x0B02] u t) ∧
  (∀ (s : State) (c : CardCtx) (slot : Nat),
    let u := s.taken c 0x0B02
    let k := u.fwSlot slot
    s.cardOk c 0x0B02 false fwOwner = true →
    (slot ≤ 1 ∨ slot = 0xFF) →
    u.boot.active ≤ 1 →
    (∀ r ∈ u.boot.slot, r ≤ 1) →
    u.dby.openOps = [] →
    u.dby.queue = [] →
    u.slotValid k = true →
    Completes (.fwActivateNow c slot) s fun t =>
      t.boot.slot = some k ∧ t.boot.fwVersion = imgNum (u.slotImage k) 0x0C 4 ∧ t.get DBY_STAT DBY_STAT_IMAGE = k ∧ t.get PWR_RSTINFO PWR_RSTINFO_IMAGE = k ∧
      Counted DBY_RESTARTS 1 u t ∧ ((c.via = .keeper ∨ c.via = .jtag) → Replied c [accepted c 0x0B02, okReply c 0x0B02] u t)) ∧
  (∀ (s : State),
    s.keeper = true →
    s.boot.patrol = none →
    s.boot.patrolDue = true →
    s.dstate = 0 →
    Completes (.keeperShelfPatrol .start) s fun t =>
      t.boot.patrol = some { feeds := s.pairedFeeds } ∧ t.boot.patrolDue = false ∧
      t.boot.healthSeq = (if s.pairedFeeds.isEmpty then s.boot.healthSeq else (s.boot.healthSeq + 1) % 65536)) ∧
  (∀ (s : State) (p : Patrol) (f drive nsid slba nlb st : Nat) (l : List Nat),
    let k := s.boot.healthSeq
    s.keeper = true →
    s.boot.patrol = some p →
    p.feeds = f :: l →
    k < 32768 →
    Completes (.keeperShelfPatrol (.badRange drive nsid slba nlb st)) s fun t =>
      (∀ d : Fin 2, t.flash d (0x1010000 + 32 * k) 32 = natLe 8 s.clk.time ++ natLe 1 2 ++ natLe 1 f ++ natLe 2 drive ++ natLe 4 nsid ++ natLe 8 slba ++
      natLe 4 nlb ++ natLe 2 st ++ natLe 2 k) ∧ t.boot.healthSeq = k + 1) ∧
  (∀ (s : State) (drive nsid slba nlb : Nat),
    s.keeper = false →
    Completes (.keeperVerifyRequest drive nsid slba nlb) s fun t =>
      t.drv.keeper = (65536, lsDriveDown, 5) :: s.drv.keeper ∧ t.drv.slot = s.drv.slot) ∧
  (∀ (s : State) (drive nsid slba nlb : Nat),
    s.keeper = true →
    drive < 1024 →
    (1 ≤ nlb ∧ nlb ≤ 65536) →
    s.ctrlUp drive = true →
    (s.pairsOf drive).isEmpty = false →
    ((List.range 65536).any fun i => (s.slot i).isNone) = true →
    Completes (.keeperVerifyRequest drive nsid slba nlb) s fun t =>
      (t.drv.slot.any fun p => p.2.ctrl == drive && p.2.nsid == nsid && p.2.slba == slba && p.2.nlb == nlb && p.2.op == nvmeOp 2 && p.2.timed &&
      p.2.req.isNone && p.2.seq == s.drv.nextSeq) = true ∧ t.drv.keeper = s.drv.keeper)

/-- R591, R593, R595, R596, R598: an image without a reserved bit is stored, counter and trace images take effect, PROBE.READ returns the
values, and bad nodes, units and images are refused; a running trace takes its sync records and stops once POST is reached.
`u` is the state in which the card is taken. -/
def Obligations.ProbeAndTraceCommandsComplete : Prop :=
  (∀ (s : State) (c : CardCtx) (n k : Nat) (l : List Byte),
    let u := s.taken c 0x0A01
    s.cardOk c 0x0A01 false probeOwner = true →
    n < 224 →
    k < 2 →
    u.stopLost (0x100 + n) = false →
    cmpBad l = none →
    Completes (.probeArmComparator c n k l) s fun t =>
      Replied c [okReply c 0x0A01] u t ∧ Tab.find t.dbg.cmp (n * 2 + k) = some (cmpImage l)) ∧
  (∀ (s : State) (c : CardCtx) (n k : Nat) (l : List Byte) (o : Nat),
    let u := s.taken c 0x0A01
    s.cardOk c 0x0A01 false probeOwner = true →
    (224 ≤ n ∧ o = 0x10 ∨ n < 224 ∧ u.stopLost (0x100 + n) = false ∧ (2 ≤ k ∧ o = 0x12 ∨ k < 2 ∧ (cmpBad l).map (0x18 + ·) = some o)) →
    Completes (.probeArmComparator c n k l) s fun t =>
      Replied c [⟨c, stBADPARAM, 0x0A01, dOff o, []⟩] u t ∧ t.dbg = u.dbg) ∧
  (∀ (s : State) (c : CardCtx) (n k : Nat) (l : List Byte),
    let u := s.taken c 0x0A01
    let j := nodeDie n * 64 + (k - 0x40)
    s.cardOk c 0x0A01 false probeOwner = true →
    n < 224 →
    (0x40 ≤ k ∧ k < 0x80) →
    u.stopLost (0x100 + n) = false →
    cntBad l = none →
    Completes (.probeArmCounter c n k l) s fun t =>
      Replied c [okReply c 0x0A01] u t ∧ Tab.find t.dbg.cnt j = some ⟨cardField l 0 1, cardField l 1 1, cardField l 8 8⟩ ∧
      t.reg (DBG_CNT (nodeDie n) (k - 0x40)) = (if cardField l 2 1 = 1 then 0 else u.reg (DBG_CNT (nodeDie n) (k - 0x40)))) ∧
  (∀ (s : State) (c : CardCtx) (n k : Nat) (l : List Byte) (o : Nat),
    let u := s.taken c 0x0A01
    s.cardOk c 0x0A01 false probeOwner = true →
    (224 ≤ n ∧ o = 0x10 ∨ n < 224 ∧ u.stopLost (0x100 + n) = false ∧
      ((k < 0x40 ∨ 0x80 ≤ k) ∧ o = 0x12 ∨ 0x40 ≤ k ∧ k < 0x80 ∧ (cntBad l).map (0x18 + ·) = some o)) →
    Completes (.probeArmCounter c n k l) s fun t =>
      Replied c [⟨c, stBADPARAM, 0x0A01, dOff o, []⟩] u t ∧ t.dbg = u.dbg) ∧
  (∀ (s : State) (c : CardCtx) (n : Nat) (l : List Byte),
    let u := s.taken c 0x0A01
    let d := nodeDie n
    s.cardOk c 0x0A01 false probeOwner = true →
    n < 224 →
    u.stopLost (0x100 + n) = false →
    traceBad l = none →
    cardField l 0 1 = 0 →
    Completes (.probeArmTrace c n l) s fun t =>
      Replied c [okReply c 0x0A01] u t ∧ t.tracing d = false ∧ t.get (DBG_TRC_STAT d) DBG_TRC_STAT_MODE = 0 ∧ t.dbg.sram = u.dbg.sram ∧
      (t.traceOf d).left = none ∧ t.get (DBG_TRC_STAT d) DBG_TRC_STAT_WPTR = u.get (DBG_TRC_STAT d) DBG_TRC_STAT_WPTR) ∧
  (∀ (s : State) (c : CardCtx) (n : Nat) (l : List Byte),
    let u := s.taken c 0x0A01
    let d := nodeDie n
    let m := cardField l 0 1
    s.cardOk c 0x0A01 false probeOwner = true →
    n < 224 →
    u.stopLost (0x100 + n) = false →
    traceBad l = none →
    m ≠ 0 →
    u.tracing d = false →
    Completes (.probeArmTrace c n l) s fun t =>
      Replied c [okReply c 0x0A01] u t ∧ t.get (DBG_TRC_STAT d) DBG_TRC_STAT_MODE = m ∧ t.bit (DBG_TRC_STAT d) DBG_TRC_STAT_WRAPPED = false ∧
      t.bit (DBG_TRC_STAT d) DBG_TRC_STAT_TRIGGERED = false ∧ (t.traceOf d).post = cardField l 4 4 ∧
      (if cardField l 1 1 = 0 then t.tracing d = true ∧ t.get (DBG_TRC_STAT d) DBG_TRC_STAT_WPTR = 1 ∧
      Tab.getD t.dbg.sram (d * 65536) 0 = syncRecord u.clk.meshCycle u.clk.time
      else t.tracing d = false ∧ t.get (DBG_TRC_STAT d) DBG_TRC_STAT_WPTR = 0 ∧ (t.traceOf d).waitStart = true)) ∧
  (∀ (s : State) (c : CardCtx) (n : Nat) (l : List Byte),
    let u := s.taken c 0x0A01
    s.cardOk c 0x0A01 false probeOwner = true →
    n < 224 →
    u.stopLost (0x100 + n) = false →
    traceBad l = none →
    cardField l 0 1 ≠ 0 →
    u.tracing (nodeDie n) = true →
    Completes (.probeArmTrace c n l) s fun t =>
      Replied c [⟨c, stBADSTATE, 0x0A01, 0x0021, []⟩] u t ∧ t.dbg = u.dbg ∧ t.reg (DBG_TRC_STAT (nodeDie n)) = u.reg (DBG_TRC_STAT (nodeDie n))) ∧
  (∀ (s : State) (c : CardCtx) (n k m : Nat),
    let u := s.taken c 0x0A02
    s.cardOk c 0x0A02 false probeOwner = true →
    n < 224 →
    u.stopLost (0x100 + n) = false →
    (1 ≤ m ∧ m ≤ 120) →
    (k < 2 ∨ k = 0x10 ∨ 0x40 ≤ k ∧ k < 0x80) →
    Completes (.probeRead c n k m) s fun t =>
      Replied c [⟨c, stOK, 0x0A02, 0xFFFF, (if k < 2 then natLe 8 (u.reg (DBG_CMP n k)).toNat
      else if k = 0x10 then natLe 8 (u.reg (DBG_TRC_STAT (nodeDie n))).toNat
      else (List.range (min m (0x80 - k))).flatMap fun i => natLe 8 (u.reg (DBG_CNT (nodeDie n) (k - 0x40 + i))).toNat)⟩] u t) ∧
  (∀ (s : State) (c : CardCtx) (n k m o : Nat),
    let u := s.taken c 0x0A02
    s.cardOk c 0x0A02 false probeOwner = true →
    (224 ≤ n ∧ o = 0x10 ∨ n < 224 ∧ u.stopLost (0x100 + n) = false ∧
      (¬ (k < 2 ∨ k = 0x10 ∨ 0x40 ≤ k ∧ k < 0x80) ∧ o = 0x12 ∨ (k < 2 ∨ k = 0x10 ∨ 0x40 ≤ k ∧ k < 0x80) ∧ (m = 0 ∨ 120 < m) ∧ o = 0x13)) →
    Completes (.probeRead c n k m) s fun t =>
      Replied c [⟨c, stBADPARAM, 0x0A02, dOff o, []⟩] u t) ∧
  (∀ (s : State) (d : Nat),
    let p := s.get (DBG_TRC_STAT d) DBG_TRC_STAT_WPTR
    let full := s.get (DBG_TRC_STAT d) DBG_TRC_STAT_MODE = 2 ∧ p = 65535 ∧ (s.traceOf d).left = none
    d < 4 →
    s.meshRuns = true →
    s.tracing d = true →
    (s.traceOf d).left ≠ some 0 →
    Completes (.traceSync d) s fun t =>
      Tab.getD t.dbg.sram (d * 65536 + p) 0 = syncRecord t.clk.meshCycle t.clk.time ∧ t.get (DBG_TRC_STAT d) DBG_TRC_STAT_WPTR = (p + 1) % 65536 ∧
      (s.traceOf d).lastSync + 2 ^ 22 ≤ t.clk.meshCycle ∧ (t.traceOf d).lastSync = t.clk.meshCycle ∧ t.tracing d = !decide full) ∧
  (∀ (s : State) (d : Nat),
    s.tracing d = false →
    Completes (.traceSync d) s fun t =>
      t = s) ∧
  (∀ (s : State) (d : Nat),
    d < 4 →
    (s.traceOf d).left = some 0 →
    Completes (.tracePostEnd d) s fun t =>
      t.tracing d = false ∧ (t.traceOf d).left = none ∧ t.dbg.sram = s.dbg.sram) ∧
  (∀ (s : State) (d : Nat),
    (s.traceOf d).left ≠ some 0 →
    Completes (.tracePostEnd d) s fun t =>
      t = s)

/-- R585 to R589, Table 23.1, Table 23.2: every instruction of the TAP is loaded while the IOD is powered, EXTEST, CLAMP and HIGHZ only
where R586 lets them, and the controllers then stop; MAILBOX is BYPASS outside its life-cycle states. The DMI register reads
and writes the debug module; its register layout and the value of DTMCS are those of debug 1.0 (assumption log). In Dark nothing
is loaded. -/
def Obligations.JtagCommandsComplete : Prop :=
  (∀ (s : State),
    s.tapOn = true →
    Completes (.jtagTapReset) s fun t =>
      t = { s with dbg := { s.dbg with ir := 0x02, tapShift := s.get DBY_CHIP_ID DBY_CHIP_ID_STEP % 16 * 2 ^ 28 + 0x0192 * 2 ^ 12 + 0x2B5 * 2 + 1 } }) ∧
  (∀ (s : State),
    s.tapOn = true →
    Completes (.jtagIdcode) s fun t =>
      t = { s with dbg := { s.dbg with ir := 0x02, tapShift := s.get DBY_CHIP_ID DBY_CHIP_ID_STEP % 16 * 2 ^ 28 + 0x0192 * 2 ^ 12 + 0x2B5 * 2 + 1 } }) ∧
  (∀ (s : State) (b : Nat),
    s.tapOn = true →
    b < 2 ^ 3904 →
    Completes (.jtagSamplePreload b) s fun t =>
      t = { s with dbg := { s.dbg with ir := 0x01, tapShift := 0, boundary := b } }) ∧
  (∀ (s : State),
    let ok := decide (s.life = 0 ∨ s.life = 1 ∨ s.life = 3) && decide (∀ c : Fin 16, s.get (CREEL_CH_STAT c) CREEL_CH_STAT_STATE = 0)
    s.tapOn = true →
    Completes (.jtagExtest) s fun t =>
      t = { s with dbg := { s.dbg with ir := if ok then 0x00 else 0xFF, tapShift := 0, stopped := ok || s.dbg.stopped } }) ∧
  (∀ (s : State),
    let ok := decide (s.life = 0 ∨ s.life = 1 ∨ s.life = 3) && decide (∀ c : Fin 16, s.get (CREEL_CH_STAT c) CREEL_CH_STAT_STATE = 0)
    s.tapOn = true →
    Completes (.jtagClamp) s fun t =>
      t = { s with dbg := { s.dbg with ir := if ok then 0x03 else 0xFF, tapShift := 0, stopped := ok || s.dbg.stopped } }) ∧
  (∀ (s : State),
    let ok := decide (s.life = 0 ∨ s.life = 1 ∨ s.life = 3) && decide (∀ c : Fin 16, s.get (CREEL_CH_STAT c) CREEL_CH_STAT_STATE = 0)
    s.tapOn = true →
    Completes (.jtagHighz) s fun t =>
      t = { s with dbg := { s.dbg with ir := if ok then 0x04 else 0xFF, tapShift := 0, stopped := ok || s.dbg.stopped } }) ∧
  (∀ (s : State),
    s.tapOn = true →
    Completes (.jtagDtmcs) s fun t =>
      t = { s with dbg := { s.dbg with ir := 0x11, tapShift := 0x71 } }) ∧
  (∀ (s : State),
    s.tapOn = true →
    Completes (.jtagMailbox) s fun t =>
      t = { s with dbg := { s.dbg with ir := if s.life = 0 ∨ s.life = 1 ∨ s.life = 3 then 0x20 else 0xFF, tapShift := 0 } }) ∧
  (∀ (s : State),
    s.tapOn = true →
    Completes (.jtagBypass) s fun t =>
      t = { s with dbg := { s.dbg with ir := 0xFF, tapShift := 0 } }) ∧
  (∀ (s : State),
    s.tapOn = true →
    Completes (.jtagDmi none) s fun t =>
      t = { s with dbg := { s.dbg with ir := 0x10, tapShift := 0 } }) ∧
  (∀ (s : State) (a d : Nat),
    s.tapOn = true →
    s.dbg.ir = 0x10 →
    a < 128 →
    a ≠ 0x3C →
    d < 2 ^ 32 →
    Completes (.jtagDmi (some (BitVec.ofNat 41 (a * 2 ^ 34 + d * 4 + 1)))) s fun t =>
      t = { s with dbg := { s.dbg with tapShift := a * 2 ^ 34 + s.dmiRead a * 4 } }) ∧
  (∀ (s : State) (a d : Nat),
    s.tapOn = true →
    s.dbg.ir = 0x10 →
    s.dbg.dmactive = true →
    (4 ≤ a ∧ a < 8) →
    d < 2 ^ 32 →
    Completes (.jtagDmi (some (BitVec.ofNat 41 (a * 2 ^ 34 + d * 4 + 2)))) s fun t =>
      Tab.getD t.dbg.data (a - 4) 0 = d ∧ t.dbg.progbuf = s.dbg.progbuf ∧ t.dbg.tapShift = a * 2 ^ 34 + d * 4) ∧
  (∀ (s : State) (a d : Nat),
    s.tapOn = true →
    s.dbg.ir = 0x10 →
    s.dbg.dmactive = true →
    (0x20 ≤ a ∧ a < 0x28) →
    d < 2 ^ 32 →
    Completes (.jtagDmi (some (BitVec.ofNat 41 (a * 2 ^ 34 + d * 4 + 2)))) s fun t =>
      Tab.getD t.dbg.progbuf (a - 0x20) 0 = d ∧ t.dbg.data = s.dbg.data ∧ t.dbg.tapShift = a * 2 ^ 34 + d * 4) ∧
  (∀ (s : State) (h : Nat),
    s.tapOn = true →
    s.dbg.ir = 0x10 →
    s.dbg.dmactive = true →
    h < 192 →
    Completes (.jtagDmi (some (BitVec.ofNat 41 (0x10 * 2 ^ 34 + (h * 2 ^ 16 + 2 ^ 31 + 1) * 4 + 2)))) s fun t =>
      t.dbg.hartsel = h ∧ t.dbg.hasel = false ∧ t.core.hart = (if s.canHalt h then Tab.upd s.core.hart h {} (fun u => { u with priv := 3, virt := false, lq := [], io := none, wfi := false }) else s.core.hart) ∧
      ((t.hdbg h).halted || (t.hdbg h).haltReq) = true ∧ ((s.hdbg h).halted = false → (t.hdbg h).halted = s.canHalt h)) ∧
  (∀ (s : State) (w : BitVec 41),
    (s.tapOn = false ∨ s.dbg.ir ≠ 0x10 ∨ w.toNat % 4 = 0 ∨ w.toNat % 4 = 3) →
    Completes (.jtagDmi (some w)) s fun t =>
      t = s) ∧
  (∀ (s : State),
    s.tapOn = false →
    Completes (.jtagTapReset) s fun t =>
      t = s) ∧
  (∀ (s : State),
    s.tapOn = false →
    Completes (.jtagExtest) s fun t =>
      t = s) ∧
  (∀ (s : State),
    s.tapOn = false →
    Completes (.jtagSamplePreload 5) s fun t =>
      t = s) ∧
  (∀ (s : State),
    s.tapOn = false →
    Completes (.jtagIdcode) s fun t =>
      t = s) ∧
  (∀ (s : State),
    s.tapOn = false →
    Completes (.jtagClamp) s fun t =>
      t = s) ∧
  (∀ (s : State),
    s.tapOn = false →
    Completes (.jtagHighz) s fun t =>
      t = s) ∧
  (∀ (s : State),
    s.tapOn = false →
    Completes (.jtagDtmcs) s fun t =>
      t = s) ∧
  (∀ (s : State),
    s.tapOn = false →
    Completes (.jtagMailbox) s fun t =>
      t = s) ∧
  (∀ (s : State),
    s.tapOn = false →
    Completes (.jtagBypass) s fun t =>
      t = s) ∧
  (∀ (s : State),
    s.tapOn = false →
    Completes (.jtagDmi none) s fun t =>
      t = s)

/-- R481, R588 to R590, Table 23.2: a hart that may be debugged and whose tile is in Run halts with its pc and mode saved, otherwise the
request is held; a resumed hart goes on at dpc in dcsr's mode; Access Register and Access Memory move a value between data0 and
the hart's register or memory; a system bus access goes out in the world that an invasive enable admits, or sberror tells why
not. Layouts and cmderr values are those of debug 1.0 (assumption log). -/
def Obligations.DebugModuleCommandsComplete : Prop :=
  (∀ (s : State) (h : Nat),
    let p := match (s.hart h).lq with | e :: _ => e.pc | [] => (s.hart h).pc
    s.canHalt h = true →
    Completes (.dmHaltRequest h) s fun t =>
      (t.hdbg h).halted = true ∧ (t.hdbg h).haltReq = false ∧ (t.hdbg h).dpc = p ∧ (t.hdbg h).dcsr % 4 = (s.hart h).priv % 4 ∧
      (t.hdbg h).dcsr / 2 ^ 6 % 8 = 3 ∧ (t.hart h).x = (s.hart h).x ∧ (t.hart h).f = (s.hart h).f ∧ (t.hart h).v = (s.hart h).v ∧
      (t.hart h).csr = (s.hart h).csr ∧ (t.hart h).pc = (s.hart h).pc ∧ t.regs = s.regs) ∧
  (∀ (s : State) (h : Nat),
    s.canHalt h = false →
    (s.hdbg h).halted = false →
    Completes (.dmHaltRequest h) s fun t =>
      (t.hdbg h).haltReq = true ∧ (t.hdbg h).halted = false ∧ t.core = s.core) ∧
  (∀ (s : State) (h : Nat),
    let p := (s.hdbg h).dcsr % 4
    (s.hdbg h).halted = true →
    (s.hdbg h).prog = false →
    Completes (.dmResume h) s fun t =>
      (t.hdbg h).halted = false ∧ (t.hdbg h).resumeAck = true ∧ (t.hart h).pc = (s.hdbg h).dpc ∧ (t.hart h).priv = p ∧
      (t.hart h).virt = ((s.hdbg h).dcsr.testBit 5 && p != 3) ∧ (t.hart h).x = (s.hart h).x ∧ (t.hart h).f = (s.hart h).f ∧
      (t.hart h).v = (s.hart h).v ∧ (t.hart h).cf 0x300 17 17 = (if p < 3 then 0 else (s.hart h).cf 0x300 17 17)) ∧
  (∀ (s : State) (h : Nat),
    ((s.hdbg h).halted = false ∨ (s.hdbg h).prog = true) →
    Completes (.dmResume h) s fun t =>
      t = s) ∧
  (∀ (s : State) (h r v : Nat),
    s.dbg.cmderr = 0 →
    h < 192 →
    (s.hdbg h).halted = true →
    (s.hdbg h).prog = false →
    s.hartUnavail h = false →
    s.debugOk h = true →
    (1 ≤ r ∧ r < 32) →
    v = s.dbg.arg 0 →
    v < 2 ^ 64 →
    Completes (.dmAbstractCommand h (BitVec.ofNat 32 (3 * 2 ^ 20 + 2 ^ 17 + 2 ^ 16 + 0x1000 + r))) s fun t =>
      (t.hart h).rx r = BitVec.ofNat 64 v ∧ (∀ k : Fin 32, k.val ≠ r → (t.hart h).rx k = (s.hart h).rx k) ∧ t.dbg.cmderr = 0 ∧ (t.hart h).pc = (s.hart h).pc) ∧
  (∀ (s : State) (h r : Nat),
    s.dbg.cmderr = 0 →
    h < 192 →
    (s.hdbg h).halted = true →
    (s.hdbg h).prog = false →
    s.hartUnavail h = false →
    s.debugOk h = true →
    r < 32 →
    Completes (.dmAbstractCommand h (BitVec.ofNat 32 (3 * 2 ^ 20 + 2 ^ 17 + 0x1000 + r))) s fun t =>
      t.dbg.arg 0 = ((s.hart h).rx r).toNat ∧ t.core = s.core ∧ t.dbg.cmderr = 0) ∧
  (∀ (s : State) (h lg : Nat),
    let a := s.dbg.arg 1
    s.dbg.cmderr = 0 →
    h < 192 →
    (s.hdbg h).halted = true →
    (s.hdbg h).prog = false →
    s.hartUnavail h = false →
    s.debugOk h = true →
    lg ≤ 3 →
    a < 2 ^ 47 →
    (s.hart h).pmpOk 3 a (2 ^ lg) 0 = true →
    s.place (s.hart h) a (2 ^ lg) = .dram →
    s.rdPoison a (2 ^ lg) = false →
    Completes (.dmAbstractCommand h (BitVec.ofNat 32 (2 * 2 ^ 24 + lg * 2 ^ 20 + 2 ^ 19))) s fun t =>
      t.dbg.arg 0 = s.rdNat a (2 ^ lg) ∧ t.dbg.arg 1 = a + 2 ^ lg ∧ t.dbg.cmderr = 0 ∧ t.core = s.core ∧ t.mem = s.mem) ∧
  (∀ (s : State) (h lg : Nat),
    let a := s.dbg.arg 1
    let v := s.dbg.arg 0 % 2 ^ (8 * 2 ^ lg)
    s.dbg.cmderr = 0 →
    h < 192 →
    (s.hdbg h).halted = true →
    (s.hdbg h).prog = false →
    s.hartUnavail h = false →
    s.debugOk h = true →
    lg ≤ 3 →
    a < 2 ^ 47 →
    (s.hart h).pmpOk 3 a (2 ^ lg) 1 = true →
    s.place (s.hart h) a (2 ^ lg) = .dram →
    Completes (.dmAbstractCommand h (BitVec.ofNat 32 (2 * 2 ^ 24 + lg * 2 ^ 20 + 2 ^ 16))) s fun t =>
      t.dbg.cmderr = 0 ∧ t.dbg.arg 1 = a ∧ ∀ k : Fin 8, k.val < 2 ^ lg → t.byte (a + k) = BitVec.ofNat 8 (v / 2 ^ (8 * k.val))) ∧
  (∀ (s : State) (h : Nat) (c : BitVec 32),
    s.dbg.cmderr = 0 →
    (191 < h ∨ (s.hdbg h).halted = false ∨ s.hartUnavail h = true ∨ s.debugOk h = false) →
    Completes (.dmAbstractCommand h c) s fun t =>
      t.dbg.cmderr = 4 ∧ t.core = s.core ∧ t.mem = s.mem ∧ t.regs = s.regs) ∧
  (∀ (s : State) (h : Nat) (c : BitVec 32),
    s.dbg.cmderr ≠ 0 →
    Completes (.dmAbstractCommand h c) s fun t =>
      t = s) ∧
  (∀ (s : State) (a lg : Nat) (v : W64) (e : Option W64),
    s.dbg.sberror = 0 →
    lg ≤ 3 →
    a % 2 ^ lg = 0 →
    a < 2 ^ 47 →
    s.invWorld true = true →
    s.responder 223 = false →
    s.populated a (2 ^ lg) = true →
    Completes (.dmSystemBusAccess true a lg v e) s fun t =>
      t.dbg.sberror = 0 ∧ ∀ k : Fin 8, k.val < 2 ^ lg → t.byte (a + k) = BitVec.ofNat 8 (v.toNat / 2 ^ (8 * k.val))) ∧
  (∀ (s : State) (a lg : Nat) (v : W64) (e : Option W64) (w : Bool),
    s.dbg.sberror = 0 →
    lg ≤ 3 →
    a % 2 ^ lg = 0 →
    a < 2 ^ 47 →
    (s.invWorld true = true ∧ w = true ∨ s.invWorld true = false ∧ s.invWorld false = true ∧ w = false) →
    s.responder 223 = false →
    s.populated a (2 ^ lg) = true →
    s.worldOk w a = true →
    s.rdPoison a (2 ^ lg) = false →
    Completes (.dmSystemBusAccess false a lg v e) s fun t =>
      t = { s with dbg := { s.dbg with sbdata := s.rdNat a (2 ^ lg) } }) ∧
  (∀ (s : State) (wr : Bool) (a lg : Nat) (v : W64) (e : Option W64),
    s.dbg.sberror = 0 →
    lg ≤ 3 →
    a % 2 ^ lg = 0 →
    a < 2 ^ 47 →
    s.invWorld true = false →
    s.invWorld false = true →
    s.responder 223 = false →
    s.populated a (2 ^ lg) = true →
    s.worldOk false a = false →
    Completes (.dmSystemBusAccess wr a lg v e) s fun t =>
      t.dbg.sberror = 2 ∧ Counted (SEL_DENY 223) 1 s t ∧ t.mem = s.mem) ∧
  (∀ (s : State) (wr : Bool) (a lg x : Nat) (v : W64) (e : Option W64),
    s.dbg.sberror = 0 →
    a < 2 ^ 48 →
    (3 < lg ∧ x = 4 ∨ lg ≤ 3 ∧ a % 2 ^ lg ≠ 0 ∧ x = 3 ∨ lg ≤ 3 ∧ a % 2 ^ lg = 0 ∧ s.invWorld true = false ∧ s.invWorld false = false ∧ x = 7) →
    Completes (.dmSystemBusAccess wr a lg v e) s fun t =>
      t = { s with dbg := { s.dbg with sberror := x } }) ∧
  (∀ (s : State) (wr : Bool) (a lg : Nat) (v : W64) (e : Option W64),
    s.dbg.sberror ≠ 0 →
    Completes (.dmSystemBusAccess wr a lg v e) s fun t =>
      t = s)

/-- A step with command `c` at the front of the queue is `exec c` with the rest of the queue. With an empty queue one nanosecond
passes: the model's choice (log entry 3). -/
def Obligations.StepTakesTheFront : Prop :=
  (∀ (c : Instr) (s : State), step { s with pending := c :: s.pending } = exec c s) ∧
  ∀ s : State, s.pending = [] → step s = .next ((advance 1).run s)

/-- A command that completes leaves the queue of the waiting commands as it was: the queue is the model's (log entry 1). -/
def Obligations.ExecLeavesTheQueue : Prop :=
  ∀ (c : Instr) (s t : State),
    exec c s = .next t →
    t.pending = s.pending

/-- After reset DRAM, the poison marks and the registers are in their canonical forms, and no register holds a 1 in a reserved
bit (R10). -/
def Obligations.ResetHoldsTheInvariant : Prop :=
  State.reset.inv = true

/-- From every state that meets the invariant (canonical DRAM, poison marks and registers, and no 1 in a reserved bit, R10), a
step that goes on ends in a state that meets it. -/
def Obligations.StepKeepsTheInvariant : Prop :=
  ∀ (s t : State),
    s.inv = true →
    step s = .next t →
    t.inv = true

/-- The values of the Reset columns: of each listed register, the field has the value after a cold reset. Values that straps,
fuses or the boot image give are not listed. -/
def Obligations.ResetValues : Prop :=
  let s := State.reset
  s.pending = [] ∧ (∀ a, s.byte a = 0) ∧
  s.get MESH_CFG MESH_CFG_STARVE_LIMIT = 64 ∧ s.get MESH_CFG MESH_CFG_DRAIN_TMO = 10 ∧
  (∀ n : Fin 224, s.get (nodeBase n) MESH_NODE_INFO_X = n % 16 ∧ s.get (nodeBase n) MESH_NODE_INFO_Y = n / 16 ∧
    s.get (nodeBase n) MESH_NODE_INFO_TSTATE = 4) ∧
  s.get (LLC_CFG 5) LLC_CFG_NL_PF = 1 ∧ s.get (LLC_CFG 5) LLC_CFG_SCRUB = 10 ∧
  s.get DIR_CFG DIR_CFG_HOME_TMO = 50 ∧ s.get DIR_CFG DIR_CFG_GRANT_TMO = 10 ∧
  s.get BTN_CAP BTN_CAP_WINDOWS = 4096 ∧ s.get BTN_CAP BTN_CAP_MAX_LINES = 512 ∧
  s.get LOOM_CAP LOOM_CAP_FUNCS = 8192 ∧ s.get LOOM_CAP LOOM_CAP_RESIDENT = 1024 ∧
  s.get LOOM_CFG LOOM_CFG_QUANTUM = 10 ∧ s.get LOOM_CFG LOOM_CFG_BURST = 4 ∧
  s.get LOOM_STAT LOOM_STAT_QP_FREE = 65536 ∧ s.get LOOM_STAT LOOM_STAT_VEC_FREE = 32768 ∧
  s.get (DQ_CTRL_A 7) DQ_CTRL_A_LBA_SHIFT = 9 ∧ s.get (DQ_CTRL_A 7) DQ_CTRL_A_TMO = 80 ∧
  s.get PICK_CFG PICK_CFG_SETUP = 2 ∧ s.get PICK_CFG PICK_CFG_GATHER = 20 ∧
  s.get (PICK_CLK_CFG 1023) PICK_CLK_CFG_COAST_REVS = 64 ∧ s.get (PICK_CLK_CFG 1023) PICK_CLK_CFG_TOL = 2000 ∧
  s.get (PICK_CLK_CFG 1023) PICK_CLK_CFG_LEAD = 5000 ∧ s.get (PICK_CLK_CFG 1023) PICK_CLK_CFG_FIXED = 1000 ∧
  s.get SHU_PARSE_CFG SHU_PARSE_CFG_VXLAN_PORT = 4789 ∧ s.get (SHU_PORT_CFG 7) SHU_PORT_CFG_MAX_FRAME = 9216 ∧
  s.get SHU_XP_STAT SHU_XP_STAT_SLOTS_FREE = 16384 ∧ s.get XF_CAP XF_CAP_SLOTS = 8192 ∧
  s.get (PE_PORT_CFG 11) PE_PORT_CFG_FEED = 11 ∧ s.get (PE_PORT_CFG 12) PE_PORT_CFG_FEED = 31 ∧
  s.get (PE_PORT_STAT 3) PE_PORT_STAT_EXPECT_DOWN = 1 ∧
  s.get (MC_SCRUB 11) MC_SCRUB_PERIOD = 24 ∧ s.get (MC_SCRUB 11) MC_SCRUB_ECS_H = 24 ∧ s.get (MC_SCRUB 11) MC_SCRUB_BKT_THR = 16 ∧
  s.reg (HRN_TIMECMP 191 9) = 0xFFFFFFFFFFFFFFFF ∧
  s.get (DBY_RING_CFG 1) DBY_RING_CFG_LOG = 6 ∧ s.get (DBY_RING_CFG 1) DBY_RING_CFG_RLOG = 6 ∧
  s.get SEL_DRAM_WM SEL_DRAM_WM_WM = 0x1FFF ∧ s.get SEL_FLASH_WM SEL_FLASH_WM_WM = 0xFFFF ∧
  s.get TRD_CFG TRD_CFG_MODE = 2 ∧ s.get TRD_CFG TRD_CFG_CODE = 0x5CA10E ∧
  s.get (CREEL_CH_CFG 15) CREEL_CH_CFG_ILIMIT = 40 ∧ s.get (CREEL_CH_CFG 15) CREEL_CH_CFG_RANK = 15 ∧
  s.get (CREEL_CH_CFG 15) CREEL_CH_CFG_SPIN_A = 60 ∧ s.get (CREEL_CH_PROT 15) CREEL_CH_PROT_SOA_MJ = 400 ∧
  s.get CREEL_CFG CREEL_CFG_BUDGET = 120 ∧ s.get CREEL_CFG CREEL_CFG_HOLD_S = 60

/-- A command of chapters 02 to 05 or 15 that completes leaves every part of the state and every register as it was but those
that its frame (`meshFrame`) names. -/
def Obligations.MeshCommandsKeepTheRest : Prop :=
  ∀ (c : Instr) (f : Frame) (s t : State),
    meshFrame c = some f →
    exec c s = .next t →
    Keeps f.parts f.writes s t

/-- A command of chapters 06 to 11, or of the IOTLB, that completes leaves every part of the state and every register as it was
but those that its frame (`engineFrame`) names. -/
def Obligations.EngineCommandsKeepTheRest : Prop :=
  ∀ (c : Instr) (f : Frame) (s t : State),
    engineFrame c = some f →
    exec c s = .next t →
    Keeps f.parts f.writes s t

/-- A command of chapters 12, 13, 14 or 16, or a batten instruction of a hart, that completes leaves every part of the state and
every register as it was but those that its frame (`hartFrame`) names. -/
def Obligations.HartCommandsKeepTheRest : Prop :=
  ∀ (c : Instr) (f : Frame) (s t : State),
    hartFrame c = some f →
    exec c s = .next t →
    Keeps f.parts f.writes s t

/-- A command of chapters 01 or 17 to 23 that completes leaves every part of the state and every register as it was but those
that its frame (`deviceFrame`) names. A reset, and an access whose operand names the register, can write any register. -/
def Obligations.DeviceCommandsKeepTheRest : Prop :=
  ∀ (c : Instr) (f : Frame) (s t : State),
    deviceFrame c = some f →
    exec c s = .next t →
    Keeps f.parts f.writes s t

/-- A write of an engine puts its bytes at their address in the coherent view and changes no other byte of it. So with a PCIe write
to DRAM, a system bus access, a debugger's memory access, a telemetry snapshot and every command that writes memory only by its
replies (their ring slots and producer index). MEM_WR changes the bytes of its line only, and a zero-fill the bytes of its channel.
An instruction in M-mode changes no byte of DRAM; STORE_DRAIN changes, in the tile's L2, bytes of its line only; an AMO and an SC
the bytes of their operand; any other instruction none, though one that enters deterministic mode moves the tile's lines to the
eviction buffer. -/
def Obligations.StoresStayInTheirBytes : Prop :=
  (∀ (s t : State) (a : Nat) (b : List Byte) (p : Bool),
    t = (wrCoh a b p).run s →
    Elsewhere a b.length s t ∧ (∀ i, i < b.length → t.cohByte (a + i) = b.getD i 0) ∧
      Keeps [.mem, .poison, .core, .cache, .coh] (fun _ => False) s t) ∧
  (∀ (s t : State) (port rid a : Nat) (b : List Byte) (p : Bool),
    a < 2 ^ 46 →
    s.ringPair rid a b.length true = none →
    exec (.pcieInboundWrite port rid a b p) s = .next t →
    Elsewhere a b.length s t) ∧
  (∀ (s t : State) (wr : Bool) (a lg v : Nat) (ext : Option (BitVec 64)),
    a < 2 ^ 47 →
    exec (.dmSystemBusAccess wr a lg v ext) s = .next t →
    Elsewhere a (if wr then 2 ^ lg else 0) s t) ∧
  (∀ (s t : State) (h : Nat) (cmd : BitVec 32),
    cmd.toNat / 2 ^ 24 = 2 →
    s.place (s.hart h) (s.dbg.arg 1 % 2 ^ 48) (2 ^ (cmd.toNat / 2 ^ 20 % 8)) ≠ .io →
    exec (.dmAbstractCommand h cmd) s = .next t →
    Elsewhere (s.dbg.arg 1 % 2 ^ 48) (if cmd.toNat.testBit 16 then 2 ^ (cmd.toNat / 2 ^ 20 % 8) else 0) s t) ∧
  (∀ (s t : State) (node : Nat) (f : Flit),
    exec (.memWr node f) s = .next t →
    ∀ x, x / 64 ≠ f.line → t.byte x = s.byte x) ∧
  (∀ (s t : State) (chan : Nat),
    exec (.zeroFillDone chan) s = .next t →
    ∀ x, (s.channelOf x).map (·.1) ≠ some chan → t.byte x = s.byte x) ∧
  (∀ (s t : State) (c : CardCtx) (snap : Nat),
    exec (.infoTelemetry c snap) s = .next t →
    ∀ x, (snap = 0 ∨ x < snap ∨ snap + 2048 ≤ x) → ¬ s.replyArea x → t.cohByte x = s.cohByte x) ∧
  (∀ (s t : State) (c : Instr),
    repliesOnly c = true →
    exec c s = .next t →
    ∀ x, ¬ s.replyArea x → t.cohByte x = s.cohByte x) ∧
  (∀ (s t : State) (c : Instr) (h : Nat),
    insHart c = some h →
    s.bare h →
    exec c s = .next t →
    (∀ a, t.byte a = s.byte a) ∧ (∀ l, t.isPoison l = s.isPoison l) ∧ t.cache.slice = s.cache.slice ∧
      ∀ n a, (match c with
      | .amo u _ _ rs1 _ size => n ≠ s.nodeOf u.hart ∨ a < ((s.hart u.hart).rx rs1).toNat ∨ ((s.hart u.hart).rx rs1).toNat + size ≤ a
      | .storeConditional u _ rs1 _ size =>
      n ≠ s.nodeOf u.hart ∨ a < ((s.hart u.hart).rx rs1).toNat ∨ ((s.hart u.hart).rx rs1).toNat + size ≤ a
      | _ => True) → t.l2Byte n a = s.l2Byte n a ∨ (t.l2Byte n a = none ∧ t.evByte n a = s.l2Byte n a)) ∧
  (∀ (s t : State) (h : Nat),
    exec (.storeDrain h) s = .next t →
    (∀ a, t.byte a = s.byte a) ∧ t.cache.slice = s.cache.slice ∧
      ∀ n a, (n ≠ s.nodeOf h ∨ (s.hart h).sq.head?.map (·.pa / 64) ≠ some (a / 64)) → t.l2Byte n a = s.l2Byte n a)

/-- A write of a register has the same effect whatever it carries in the reserved bits; no command leaves a 1 in a reserved bit;
and what a read of a register returns has 0 in every reserved bit. -/
def Obligations.ReservedBitsReadZero : Prop :=
  (∀ (world mpriv : Bool) (node a : Nat) (v : W64) (s : State), a % 8 = 0 →
    exec (.registerWrite world mpriv node a 8 (v &&& regMask a)) s = exec (.registerWrite world mpriv node a 8 v) s) ∧
  (∀ (c : Instr) (s t : State), (∀ a, s.reg a &&& ~~~ regMask a = 0) → exec c s = .next t → ∀ a, t.reg a &&& ~~~ regMask a = 0) ∧
  ∀ (s : State) (w : Bool) (a : Nat), (∀ b, s.reg b &&& ~~~ regMask b = 0) → s.regView w a &&& ~~~ regMask a = 0

/-- Local positions (0,1), (0,3) and (0,5) of a die are memory-controller nodes, (7,2) and (7,4) port nodes, (7,6) the service
node, and the other 50 core tiles; the node IDs are those of Table 1.3. -/
def Obligations.NodeMap : Prop :=
  (∀ n : Fin 224, let x := n.val % 16 % 8; let y := n.val / 16 % 7
    (nodeKind n = 1 ↔ x = 0 ∧ (y = 1 ∨ y = 3 ∨ y = 5)) ∧ (nodeKind n = 2 ↔ x = 7 ∧ (y = 2 ∨ y = 4)) ∧
    (nodeKind n = 3 ↔ x = 7 ∧ y = 6) ∧ nodeKind n < 4) ∧
  (∀ d : Fin 4, ((List.range 224).filter fun n => nodeDie n == d && nodeKind n == 0).length = 50) ∧
  (List.range 12).map mcNode = [16, 48, 80, 24, 56, 88, 128, 160, 192, 136, 168, 200] ∧
  (List.range 8).map portNode = [39, 71, 47, 79, 151, 183, 159, 191] ∧
  (List.range 224).filter (nodeKind · == 1) = [16, 24, 48, 56, 80, 88, 128, 136, 160, 168, 192, 200] ∧
  (List.range 224).filter (nodeKind · == 2) = [39, 47, 71, 79, 151, 159, 183, 191] ∧
  (List.range 224).filter (nodeKind · == 3) = [103, 111, 215, 223]

/-- A link port is productive for a flit when the hop through it brings the flit one hop nearer to DEST on the torus and, where
both directions of the dimension are equally short (8 columns or 7 rows), it is the + port. The first pass gives a flit at its
destination an ejection slot only, and any other flit a productive port only. -/
def Obligations.ProductivePorts : Prop :=
  (∀ n d p : Nat, n < 224 → d < 224 → (p ∈ productive n d ↔ p < 4 ∧ hops (neighbour n p) d + 1 = hops n d ∧
    ¬ (p = 1 ∧ (d % 16 + 16 - n % 16) % 16 = 8) ∧ ¬ (p = 3 ∧ (d / 16 + 14 - n / 16) % 14 = 7))) ∧
  ∀ (n : Nat) (l : List Flit) (used : List Nat), ∀ x ∈ (pass1 n l used).1,
    if x.1.dest = n then x.2 = 5 else x.2 ∈ productive n x.1.dest

/-- The map index is the XOR fold of PA[47:6], and the home is the NODE of that LLC_MAP entry; the set index is
PA[16:6] ^ PA[27:17], and PA[16:6] is recovered as set ^ PA[27:17], so that set and tag name the line. -/
def Obligations.HomeAndSetOfALine : Prop :=
  (∀ pa : BitVec 48, mapIndex (pa.toNat / 64) =
    (pa.extractLsb' 6 12 ^^^ pa.extractLsb' 18 12 ^^^ pa.extractLsb' 30 12 ^^^ (pa.extractLsb' 42 6).setWidth 12).toNat) ∧
  (∀ (s : State) (l : Nat), s.homeOf l = s.get (LLC_MAP (mapIndex l)) LLC_MAP_NODE) ∧
  (∀ pa : BitVec 48, sliceSet (pa.toNat / 64) = (pa.extractLsb' 6 11 ^^^ pa.extractLsb' 17 11).toNat ∧
    (pa.extractLsb' 6 11).toNat = sliceSet (pa.toNat / 64) ^^^ (pa.extractLsb' 17 11).toNat) ∧
  ∀ pa pb : BitVec 48, sliceSet (pa.toNat / 64) = sliceSet (pb.toNat / 64) → pa.extractLsb' 17 31 = pb.extractLsb' 17 31 →
    pa.toNat / 64 = pb.toNat / 64

/-- IDCODE puts (STEP[3:0] << 28) | (0x0192 << 12) | (0x2B5 << 1) | 1 into the data register; at stepping 0x01 it is 0x1019256B. -/
def Obligations.IdcodeOfTheDevice : Prop :=
  ∀ (s : State),
    let step := s.get DBY_CHIP_ID DBY_CHIP_ID_STEP
    s.tapOn = true →
    Completes (.jtagIdcode) s fun t =>
      t.dbg.tapShift = ((step % 16) <<< 28) ||| (0x0192 <<< 12) ||| (0x2B5 <<< 1) ||| 1 ∧ (step = 0x01 → t.dbg.tapShift = 0x1019256B)
end

