-- ==== Sys2Proof/Laws/Tab.lean ====
section
/-! SUPPORT. Laws of finite maps: what `find` sees after `put`, `drop` and `store`, and that a store keeps the canonical
form. -/

namespace Sys2Proof.Machine

variable {α : Type}

@[simp] theorem Tab.find_put_same (t : Tab α) (k : Nat) (v : α) : Tab.find (Tab.put t k v) k = some v := by
  induction t with
  | nil => simp [Tab.put, Tab.find]
  | cons p r ih =>
    unfold Tab.put
    split
    · simp [Tab.find]
    · split
      · simp [Tab.find]
      · have : p.1 ≠ k := by omega
        simp [Tab.find, this, ih]

theorem Tab.find_put_ne (t : Tab α) {k j : Nat} (v : α) (h : j ≠ k) : Tab.find (Tab.put t k v) j = Tab.find t j := by
  induction t with
  | nil => simp [Tab.put, Tab.find, Ne.symm h]
  | cons p r ih =>
    unfold Tab.put
    split
    · simp [Tab.find, Ne.symm h]
    · split
      · have : p.1 ≠ j := by omega
        simp [Tab.find, Ne.symm h, this]
      · simp [Tab.find, ih]

@[simp] theorem Tab.find_drop_same (t : Tab α) (k : Nat) : Tab.find (Tab.drop t k) k = none := by
  induction t with
  | nil => simp [Tab.drop, Tab.find]
  | cons p r ih =>
    unfold Tab.drop
    split
    · exact ih
    · rename_i h; simp [Tab.find, h, ih]

theorem Tab.find_drop_ne (t : Tab α) {k j : Nat} (h : j ≠ k) : Tab.find (Tab.drop t k) j = Tab.find t j := by
  induction t with
  | nil => simp [Tab.drop, Tab.find]
  | cons p r ih =>
    unfold Tab.drop
    split
    · have : p.1 ≠ j := by omega
      simp [Tab.find, this, ih]
    · simp [Tab.find, ih]

theorem Tab.find_put (t : Tab α) (k j : Nat) (v : α) :
    Tab.find (Tab.put t k v) j = if j = k then some v else Tab.find t j := by
  split
  · next h => subst h; simp
  · next h => exact Tab.find_put_ne t v h

@[simp] theorem Tab.getD_put_same (t : Tab α) (k : Nat) (v d : α) : Tab.getD (Tab.put t k v) k d = v := by
  simp [Tab.getD]
theorem Tab.getD_put_ne (t : Tab α) {k j : Nat} (v d : α) (h : j ≠ k) : Tab.getD (Tab.put t k v) j d = Tab.getD t j d := by
  simp [Tab.getD, Tab.find_put_ne t v h]
@[simp] theorem Tab.getD_drop_same (t : Tab α) (k : Nat) (d : α) : Tab.getD (Tab.drop t k) k d = d := by simp [Tab.getD]
theorem Tab.getD_drop_ne (t : Tab α) {k j : Nat} (d : α) (h : j ≠ k) : Tab.getD (Tab.drop t k) j d = Tab.getD t j d := by
  simp [Tab.getD, Tab.find_drop_ne t h]
@[simp] theorem Tab.getD_upd_same (t : Tab α) (k : Nat) (d e : α) (f : α → α) :
    Tab.getD (Tab.upd t k d f) k e = f (Tab.getD t k d) := by simp [Tab.upd]
theorem Tab.getD_upd_ne (t : Tab α) {k j : Nat} (d e : α) (f : α → α) (h : j ≠ k) :
    Tab.getD (Tab.upd t k d f) j e = Tab.getD t j e := by simp [Tab.upd, Tab.getD_put_ne t _ e h]

section
variable [DecidableEq α] (dflt : Nat → α)

/-- A stored value is the value that is read. -/
@[simp] theorem Tab.load_store_same (t : Tab α) (k : Nat) (v : α) : Tab.load dflt (Tab.store dflt t k v) k = v := by
  unfold Tab.load Tab.store
  split
  · next h => simp [h]
  · simp
/-- A store leaves every other key alone. -/
theorem Tab.load_store_ne (t : Tab α) {k j : Nat} (v : α) (h : j ≠ k) :
    Tab.load dflt (Tab.store dflt t k v) j = Tab.load dflt t j := by
  unfold Tab.load Tab.store
  split
  · exact Tab.getD_drop_ne t _ h
  · exact Tab.getD_put_ne t v _ h
theorem Tab.load_store (t : Tab α) (k j : Nat) (v : α) :
    Tab.load dflt (Tab.store dflt t k v) j = if j = k then v else Tab.load dflt t j := by
  split
  · next h => subst h; simp
  · next h => exact Tab.load_store_ne dflt t v h

end

/-! ### The canonical form -/

theorem Tab.risingFrom_mono {t : Tab α} {a b : Nat} (h : a ≤ b) (r : Tab.risingFrom (some b) t = true) :
    Tab.risingFrom (some a) t = true := by
  cases t with
  | nil => rfl
  | cons p q =>
    simp only [Tab.risingFrom, Bool.and_eq_true, decide_eq_true_eq] at r ⊢
    exact ⟨by omega, r.2⟩
theorem Tab.risingFrom_none {t : Tab α} {b : Nat} (r : Tab.risingFrom (some b) t = true) :
    Tab.risingFrom none t = true := by
  cases t with
  | nil => rfl
  | cons p q =>
    simp only [Tab.risingFrom, Bool.and_eq_true] at r ⊢
    exact ⟨trivial, r.2⟩

/-- Every key above a bound stays above it, and the put key is. -/
theorem Tab.risingFrom_put {t : Tab α} {b k : Nat} (v : α) (hk : b < k) (r : Tab.risingFrom (some b) t = true) :
    Tab.risingFrom (some b) (Tab.put t k v) = true := by
  induction t generalizing b with
  | nil => simp [Tab.put, Tab.risingFrom, hk]
  | cons p q ih =>
    simp only [Tab.risingFrom, Bool.and_eq_true, decide_eq_true_eq] at r
    unfold Tab.put
    split
    · next h => simp [Tab.risingFrom, hk, h, r.2]
    · split
      · next h => subst h; simp [Tab.risingFrom, hk, r.2]
      · simp only [Tab.risingFrom, Bool.and_eq_true, decide_eq_true_eq]
        exact ⟨r.1, ih (by omega) r.2⟩
theorem Tab.rising_put {t : Tab α} (k : Nat) (v : α) (r : Tab.risingFrom none t = true) :
    Tab.risingFrom none (Tab.put t k v) = true := by
  cases t with
  | nil => simp [Tab.put, Tab.risingFrom]
  | cons p q =>
    simp only [Tab.risingFrom, Bool.and_eq_true] at r
    unfold Tab.put
    split
    · next h => simp [Tab.risingFrom, h, r.2]
    · split
      · next h => subst h; simp [Tab.risingFrom, r.2]
      · simp only [Tab.risingFrom, Bool.and_eq_true]
        exact ⟨trivial, Tab.risingFrom_put v (by omega) r.2⟩
theorem Tab.risingFrom_drop {t : Tab α} {b : Nat} (k : Nat) (r : Tab.risingFrom (some b) t = true) :
    Tab.risingFrom (some b) (Tab.drop t k) = true := by
  induction t generalizing b with
  | nil => rfl
  | cons p q ih =>
    simp only [Tab.risingFrom, Bool.and_eq_true, decide_eq_true_eq] at r
    unfold Tab.drop
    split
    · exact ih (Tab.risingFrom_mono (by omega) r.2)
    · simp only [Tab.risingFrom, Bool.and_eq_true, decide_eq_true_eq]
      exact ⟨r.1, ih r.2⟩
theorem Tab.rising_drop {t : Tab α} (k : Nat) (r : Tab.risingFrom none t = true) :
    Tab.risingFrom none (Tab.drop t k) = true := by
  induction t with
  | nil => rfl
  | cons p q ih =>
    simp only [Tab.risingFrom, Bool.and_eq_true] at r
    unfold Tab.drop
    split
    · exact ih (Tab.risingFrom_none r.2)
    · simp only [Tab.risingFrom, Bool.and_eq_true]
      exact ⟨trivial, Tab.risingFrom_drop k r.2⟩

/-- What holds of every entry of a map and of a put entry holds of every entry after it. -/
theorem Tab.all_put {t : Tab α} {p : Nat × α → Bool} {k : Nat} {v : α} (h : t.all p = true) (hv : p (k, v) = true) :
    (Tab.put t k v).all p = true := by
  induction t with
  | nil => simp [Tab.put, hv]
  | cons q r ih =>
    simp only [List.all_cons, Bool.and_eq_true] at h
    unfold Tab.put
    split
    · simp [hv, h]
    · split
      · simp [hv, h]
      · simp [h, ih h.2]
theorem Tab.all_drop {t : Tab α} {p : Nat × α → Bool} (k : Nat) (h : t.all p = true) : (Tab.drop t k).all p = true := by
  induction t with
  | nil => rfl
  | cons q r ih =>
    simp only [List.all_cons, Bool.and_eq_true] at h
    unfold Tab.drop
    split
    · exact ih h.2
    · simp [h, ih h.2]

/-- A store keeps the canonical form. -/
theorem Tab.canon_store [DecidableEq α] {dflt : Nat → α} {t : Tab α} (k : Nat) (v : α) (h : Tab.canon dflt t = true) :
    Tab.canon dflt (Tab.store dflt t k v) = true := by
  simp only [Tab.canon, Bool.and_eq_true] at h ⊢
  unfold Tab.store
  split
  · exact ⟨Tab.rising_drop k h.1, Tab.all_drop k h.2⟩
  · next hv => exact ⟨Tab.rising_put k v h.1, Tab.all_put h.2 (by simpa using hv)⟩
/-- What holds of every entry and of a stored one holds of every entry after the store. -/
theorem Tab.all_store [DecidableEq α] {dflt : Nat → α} {t : Tab α} {p : Nat × α → Bool} {k : Nat} {v : α}
    (h : t.all p = true) (hv : p (k, v) = true) : (Tab.store dflt t k v).all p = true := by
  unfold Tab.store
  split
  · exact Tab.all_drop k h
  · exact Tab.all_put h hv

end Sys2Proof.Machine
end

