-- ==== Sys2Proof/Laws/State.lean ====
section
/-! SUPPORT. What one elementary effect does to each part of the state: it changes its own part and no other. Written by
a script from the list of the parts. -/

namespace Sys2Proof.Machine

variable (s : State)

@[simp] theorem run_skip : Act.run .skip s = s := rfl
@[simp] theorem run_seq (a b : Act) : Act.run (.seq a b) s = Act.run b (Act.run a s) := rfl
@[simp] theorem run_read (k : State → Act) : Act.run (.read k) s = Act.run (k s) s := rfl
@[simp] theorem run_all_nil : Act.run (.all []) s = s := rfl
@[simp] theorem run_all_cons (a : Act) (l : List Act) : Act.run (.all (a :: l)) s = Act.run (.all l) (Act.run a s) := rfl
@[simp] theorem run_when_true (a : Act) : Act.run (.when true a) s = Act.run a s := rfl
@[simp] theorem run_when_false (a : Act) : Act.run (.when false a) s = s := rfl
@[simp] theorem run_each_nil {α : Type} (f : α → Act) : Act.run (.each [] f) s = s := rfl
@[simp] theorem run_each_cons {α : Type} (x : α) (l : List α) (f : α → Act) :
    Act.run (.each (x :: l) f) s = Act.run (.each l f) (Act.run (f x) s) := rfl
/-- Effects one after another, split at any place. -/
theorem run_all_append (l m : List Act) : Act.run (.all (l ++ m)) s = Act.run (.all m) (Act.run (.all l) s) := by
  induction l generalizing s with
  | nil => rfl
  | cons a l ih => exact ih _

@[simp] theorem run_reg_pending (a : Nat) (v : W64) : (Act.run (.reg a v) s).pending = s.pending := rfl
@[simp] theorem run_reg_clk (a : Nat) (v : W64) : (Act.run (.reg a v) s).clk = s.clk := rfl
@[simp] theorem run_reg_regs (a : Nat) (v : W64) : (Act.run (.reg a v) s).regs = Tab.store regReset s.regs a (v &&& regMask a) := rfl
@[simp] theorem run_reg_mem (a : Nat) (v : W64) : (Act.run (.reg a v) s).mem = s.mem := rfl
@[simp] theorem run_reg_poison (a : Nat) (v : W64) : (Act.run (.reg a v) s).poison = s.poison := rfl
@[simp] theorem run_reg_io (a : Nat) (v : W64) : (Act.run (.reg a v) s).io = s.io := rfl
@[simp] theorem run_reg_fuses (a : Nat) (v : W64) : (Act.run (.reg a v) s).fuses = s.fuses := rfl
@[simp] theorem run_reg_mesh (a : Nat) (v : W64) : (Act.run (.reg a v) s).mesh = s.mesh := rfl
@[simp] theorem run_reg_core (a : Nat) (v : W64) : (Act.run (.reg a v) s).core = s.core := rfl
@[simp] theorem run_reg_cache (a : Nat) (v : W64) : (Act.run (.reg a v) s).cache = s.cache := rfl
@[simp] theorem run_reg_coh (a : Nat) (v : W64) : (Act.run (.reg a v) s).coh = s.coh := rfl
@[simp] theorem run_reg_btn (a : Nat) (v : W64) : (Act.run (.reg a v) s).btn = s.btn := rfl
@[simp] theorem run_reg_loom (a : Nat) (v : W64) : (Act.run (.reg a v) s).loom = s.loom := rfl
@[simp] theorem run_reg_drv (a : Nat) (v : W64) : (Act.run (.reg a v) s).drv = s.drv := rfl
@[simp] theorem run_reg_pick (a : Nat) (v : W64) : (Act.run (.reg a v) s).pick = s.pick := rfl
@[simp] theorem run_reg_xf (a : Nat) (v : W64) : (Act.run (.reg a v) s).xf = s.xf := rfl
@[simp] theorem run_reg_shu (a : Nat) (v : W64) : (Act.run (.reg a v) s).shu = s.shu := rfl
@[simp] theorem run_reg_iotlb (a : Nat) (v : W64) : (Act.run (.reg a v) s).iotlb = s.iotlb := rfl
@[simp] theorem run_reg_crl (a : Nat) (v : W64) : (Act.run (.reg a v) s).crl = s.crl := rfl
@[simp] theorem run_reg_hrn (a : Nat) (v : W64) : (Act.run (.reg a v) s).hrn = s.hrn := rfl
@[simp] theorem run_reg_mc (a : Nat) (v : W64) : (Act.run (.reg a v) s).mc = s.mc := rfl
@[simp] theorem run_reg_dby (a : Nat) (v : W64) : (Act.run (.reg a v) s).dby = s.dby := rfl
@[simp] theorem run_reg_ras (a : Nat) (v : W64) : (Act.run (.reg a v) s).ras = s.ras := rfl
@[simp] theorem run_reg_pwr (a : Nat) (v : W64) : (Act.run (.reg a v) s).pwr = s.pwr := rfl
@[simp] theorem run_reg_boot (a : Nat) (v : W64) : (Act.run (.reg a v) s).boot = s.boot := rfl
@[simp] theorem run_reg_dbg (a : Nat) (v : W64) : (Act.run (.reg a v) s).dbg = s.dbg := rfl
@[simp] theorem run_byte_pending (a : Nat) (v : Byte) : (Act.run (.byte a v) s).pending = s.pending := rfl
@[simp] theorem run_byte_clk (a : Nat) (v : Byte) : (Act.run (.byte a v) s).clk = s.clk := rfl
@[simp] theorem run_byte_regs (a : Nat) (v : Byte) : (Act.run (.byte a v) s).regs = s.regs := rfl
@[simp] theorem run_byte_mem (a : Nat) (v : Byte) : (Act.run (.byte a v) s).mem = Tab.store (fun _ => 0) s.mem a v := rfl
@[simp] theorem run_byte_poison (a : Nat) (v : Byte) : (Act.run (.byte a v) s).poison = s.poison := rfl
@[simp] theorem run_byte_io (a : Nat) (v : Byte) : (Act.run (.byte a v) s).io = s.io := rfl
@[simp] theorem run_byte_fuses (a : Nat) (v : Byte) : (Act.run (.byte a v) s).fuses = s.fuses := rfl
@[simp] theorem run_byte_mesh (a : Nat) (v : Byte) : (Act.run (.byte a v) s).mesh = s.mesh := rfl
@[simp] theorem run_byte_core (a : Nat) (v : Byte) : (Act.run (.byte a v) s).core = s.core := rfl
@[simp] theorem run_byte_cache (a : Nat) (v : Byte) : (Act.run (.byte a v) s).cache = s.cache := rfl
@[simp] theorem run_byte_coh (a : Nat) (v : Byte) : (Act.run (.byte a v) s).coh = s.coh := rfl
@[simp] theorem run_byte_btn (a : Nat) (v : Byte) : (Act.run (.byte a v) s).btn = s.btn := rfl
@[simp] theorem run_byte_loom (a : Nat) (v : Byte) : (Act.run (.byte a v) s).loom = s.loom := rfl
@[simp] theorem run_byte_drv (a : Nat) (v : Byte) : (Act.run (.byte a v) s).drv = s.drv := rfl
@[simp] theorem run_byte_pick (a : Nat) (v : Byte) : (Act.run (.byte a v) s).pick = s.pick := rfl
@[simp] theorem run_byte_xf (a : Nat) (v : Byte) : (Act.run (.byte a v) s).xf = s.xf := rfl
@[simp] theorem run_byte_shu (a : Nat) (v : Byte) : (Act.run (.byte a v) s).shu = s.shu := rfl
@[simp] theorem run_byte_iotlb (a : Nat) (v : Byte) : (Act.run (.byte a v) s).iotlb = s.iotlb := rfl
@[simp] theorem run_byte_crl (a : Nat) (v : Byte) : (Act.run (.byte a v) s).crl = s.crl := rfl
@[simp] theorem run_byte_hrn (a : Nat) (v : Byte) : (Act.run (.byte a v) s).hrn = s.hrn := rfl
@[simp] theorem run_byte_mc (a : Nat) (v : Byte) : (Act.run (.byte a v) s).mc = s.mc := rfl
@[simp] theorem run_byte_dby (a : Nat) (v : Byte) : (Act.run (.byte a v) s).dby = s.dby := rfl
@[simp] theorem run_byte_ras (a : Nat) (v : Byte) : (Act.run (.byte a v) s).ras = s.ras := rfl
@[simp] theorem run_byte_pwr (a : Nat) (v : Byte) : (Act.run (.byte a v) s).pwr = s.pwr := rfl
@[simp] theorem run_byte_boot (a : Nat) (v : Byte) : (Act.run (.byte a v) s).boot = s.boot := rfl
@[simp] theorem run_byte_dbg (a : Nat) (v : Byte) : (Act.run (.byte a v) s).dbg = s.dbg := rfl
@[simp] theorem run_setPoison_pending (l : Nat) (p : Bool) : (Act.run (.setPoison l p) s).pending = s.pending := rfl
@[simp] theorem run_setPoison_clk (l : Nat) (p : Bool) : (Act.run (.setPoison l p) s).clk = s.clk := rfl
@[simp] theorem run_setPoison_regs (l : Nat) (p : Bool) : (Act.run (.setPoison l p) s).regs = s.regs := rfl
@[simp] theorem run_setPoison_mem (l : Nat) (p : Bool) : (Act.run (.setPoison l p) s).mem = s.mem := rfl
@[simp] theorem run_setPoison_poison (l : Nat) (p : Bool) : (Act.run (.setPoison l p) s).poison = Tab.store (fun _ => false) s.poison l p := rfl
@[simp] theorem run_setPoison_io (l : Nat) (p : Bool) : (Act.run (.setPoison l p) s).io = s.io := rfl
@[simp] theorem run_setPoison_fuses (l : Nat) (p : Bool) : (Act.run (.setPoison l p) s).fuses = s.fuses := rfl
@[simp] theorem run_setPoison_mesh (l : Nat) (p : Bool) : (Act.run (.setPoison l p) s).mesh = s.mesh := rfl
@[simp] theorem run_setPoison_core (l : Nat) (p : Bool) : (Act.run (.setPoison l p) s).core = s.core := rfl
@[simp] theorem run_setPoison_cache (l : Nat) (p : Bool) : (Act.run (.setPoison l p) s).cache = s.cache := rfl
@[simp] theorem run_setPoison_coh (l : Nat) (p : Bool) : (Act.run (.setPoison l p) s).coh = s.coh := rfl
@[simp] theorem run_setPoison_btn (l : Nat) (p : Bool) : (Act.run (.setPoison l p) s).btn = s.btn := rfl
@[simp] theorem run_setPoison_loom (l : Nat) (p : Bool) : (Act.run (.setPoison l p) s).loom = s.loom := rfl
@[simp] theorem run_setPoison_drv (l : Nat) (p : Bool) : (Act.run (.setPoison l p) s).drv = s.drv := rfl
@[simp] theorem run_setPoison_pick (l : Nat) (p : Bool) : (Act.run (.setPoison l p) s).pick = s.pick := rfl
@[simp] theorem run_setPoison_xf (l : Nat) (p : Bool) : (Act.run (.setPoison l p) s).xf = s.xf := rfl
@[simp] theorem run_setPoison_shu (l : Nat) (p : Bool) : (Act.run (.setPoison l p) s).shu = s.shu := rfl
@[simp] theorem run_setPoison_iotlb (l : Nat) (p : Bool) : (Act.run (.setPoison l p) s).iotlb = s.iotlb := rfl
@[simp] theorem run_setPoison_crl (l : Nat) (p : Bool) : (Act.run (.setPoison l p) s).crl = s.crl := rfl
@[simp] theorem run_setPoison_hrn (l : Nat) (p : Bool) : (Act.run (.setPoison l p) s).hrn = s.hrn := rfl
@[simp] theorem run_setPoison_mc (l : Nat) (p : Bool) : (Act.run (.setPoison l p) s).mc = s.mc := rfl
@[simp] theorem run_setPoison_dby (l : Nat) (p : Bool) : (Act.run (.setPoison l p) s).dby = s.dby := rfl
@[simp] theorem run_setPoison_ras (l : Nat) (p : Bool) : (Act.run (.setPoison l p) s).ras = s.ras := rfl
@[simp] theorem run_setPoison_pwr (l : Nat) (p : Bool) : (Act.run (.setPoison l p) s).pwr = s.pwr := rfl
@[simp] theorem run_setPoison_boot (l : Nat) (p : Bool) : (Act.run (.setPoison l p) s).boot = s.boot := rfl
@[simp] theorem run_setPoison_dbg (l : Nat) (p : Bool) : (Act.run (.setPoison l p) s).dbg = s.dbg := rfl
@[simp] theorem run_clk_pending (f : Clk → Clk) : (Act.run (.clk f) s).pending = s.pending := rfl
@[simp] theorem run_clk_clk (f : Clk → Clk) : (Act.run (.clk f) s).clk = f s.clk := rfl
@[simp] theorem run_clk_regs (f : Clk → Clk) : (Act.run (.clk f) s).regs = s.regs := rfl
@[simp] theorem run_clk_mem (f : Clk → Clk) : (Act.run (.clk f) s).mem = s.mem := rfl
@[simp] theorem run_clk_poison (f : Clk → Clk) : (Act.run (.clk f) s).poison = s.poison := rfl
@[simp] theorem run_clk_io (f : Clk → Clk) : (Act.run (.clk f) s).io = s.io := rfl
@[simp] theorem run_clk_fuses (f : Clk → Clk) : (Act.run (.clk f) s).fuses = s.fuses := rfl
@[simp] theorem run_clk_mesh (f : Clk → Clk) : (Act.run (.clk f) s).mesh = s.mesh := rfl
@[simp] theorem run_clk_core (f : Clk → Clk) : (Act.run (.clk f) s).core = s.core := rfl
@[simp] theorem run_clk_cache (f : Clk → Clk) : (Act.run (.clk f) s).cache = s.cache := rfl
@[simp] theorem run_clk_coh (f : Clk → Clk) : (Act.run (.clk f) s).coh = s.coh := rfl
@[simp] theorem run_clk_btn (f : Clk → Clk) : (Act.run (.clk f) s).btn = s.btn := rfl
@[simp] theorem run_clk_loom (f : Clk → Clk) : (Act.run (.clk f) s).loom = s.loom := rfl
@[simp] theorem run_clk_drv (f : Clk → Clk) : (Act.run (.clk f) s).drv = s.drv := rfl
@[simp] theorem run_clk_pick (f : Clk → Clk) : (Act.run (.clk f) s).pick = s.pick := rfl
@[simp] theorem run_clk_xf (f : Clk → Clk) : (Act.run (.clk f) s).xf = s.xf := rfl
@[simp] theorem run_clk_shu (f : Clk → Clk) : (Act.run (.clk f) s).shu = s.shu := rfl
@[simp] theorem run_clk_iotlb (f : Clk → Clk) : (Act.run (.clk f) s).iotlb = s.iotlb := rfl
@[simp] theorem run_clk_crl (f : Clk → Clk) : (Act.run (.clk f) s).crl = s.crl := rfl
@[simp] theorem run_clk_hrn (f : Clk → Clk) : (Act.run (.clk f) s).hrn = s.hrn := rfl
@[simp] theorem run_clk_mc (f : Clk → Clk) : (Act.run (.clk f) s).mc = s.mc := rfl
@[simp] theorem run_clk_dby (f : Clk → Clk) : (Act.run (.clk f) s).dby = s.dby := rfl
@[simp] theorem run_clk_ras (f : Clk → Clk) : (Act.run (.clk f) s).ras = s.ras := rfl
@[simp] theorem run_clk_pwr (f : Clk → Clk) : (Act.run (.clk f) s).pwr = s.pwr := rfl
@[simp] theorem run_clk_boot (f : Clk → Clk) : (Act.run (.clk f) s).boot = s.boot := rfl
@[simp] theorem run_clk_dbg (f : Clk → Clk) : (Act.run (.clk f) s).dbg = s.dbg := rfl
@[simp] theorem run_io_pending (f : IoSt → IoSt) : (Act.run (.io f) s).pending = s.pending := rfl
@[simp] theorem run_io_clk (f : IoSt → IoSt) : (Act.run (.io f) s).clk = s.clk := rfl
@[simp] theorem run_io_regs (f : IoSt → IoSt) : (Act.run (.io f) s).regs = s.regs := rfl
@[simp] theorem run_io_mem (f : IoSt → IoSt) : (Act.run (.io f) s).mem = s.mem := rfl
@[simp] theorem run_io_poison (f : IoSt → IoSt) : (Act.run (.io f) s).poison = s.poison := rfl
@[simp] theorem run_io_io (f : IoSt → IoSt) : (Act.run (.io f) s).io = f s.io := rfl
@[simp] theorem run_io_fuses (f : IoSt → IoSt) : (Act.run (.io f) s).fuses = s.fuses := rfl
@[simp] theorem run_io_mesh (f : IoSt → IoSt) : (Act.run (.io f) s).mesh = s.mesh := rfl
@[simp] theorem run_io_core (f : IoSt → IoSt) : (Act.run (.io f) s).core = s.core := rfl
@[simp] theorem run_io_cache (f : IoSt → IoSt) : (Act.run (.io f) s).cache = s.cache := rfl
@[simp] theorem run_io_coh (f : IoSt → IoSt) : (Act.run (.io f) s).coh = s.coh := rfl
@[simp] theorem run_io_btn (f : IoSt → IoSt) : (Act.run (.io f) s).btn = s.btn := rfl
@[simp] theorem run_io_loom (f : IoSt → IoSt) : (Act.run (.io f) s).loom = s.loom := rfl
@[simp] theorem run_io_drv (f : IoSt → IoSt) : (Act.run (.io f) s).drv = s.drv := rfl
@[simp] theorem run_io_pick (f : IoSt → IoSt) : (Act.run (.io f) s).pick = s.pick := rfl
@[simp] theorem run_io_xf (f : IoSt → IoSt) : (Act.run (.io f) s).xf = s.xf := rfl
@[simp] theorem run_io_shu (f : IoSt → IoSt) : (Act.run (.io f) s).shu = s.shu := rfl
@[simp] theorem run_io_iotlb (f : IoSt → IoSt) : (Act.run (.io f) s).iotlb = s.iotlb := rfl
@[simp] theorem run_io_crl (f : IoSt → IoSt) : (Act.run (.io f) s).crl = s.crl := rfl
@[simp] theorem run_io_hrn (f : IoSt → IoSt) : (Act.run (.io f) s).hrn = s.hrn := rfl
@[simp] theorem run_io_mc (f : IoSt → IoSt) : (Act.run (.io f) s).mc = s.mc := rfl
@[simp] theorem run_io_dby (f : IoSt → IoSt) : (Act.run (.io f) s).dby = s.dby := rfl
@[simp] theorem run_io_ras (f : IoSt → IoSt) : (Act.run (.io f) s).ras = s.ras := rfl
@[simp] theorem run_io_pwr (f : IoSt → IoSt) : (Act.run (.io f) s).pwr = s.pwr := rfl
@[simp] theorem run_io_boot (f : IoSt → IoSt) : (Act.run (.io f) s).boot = s.boot := rfl
@[simp] theorem run_io_dbg (f : IoSt → IoSt) : (Act.run (.io f) s).dbg = s.dbg := rfl
@[simp] theorem run_fuses_pending (f : Fuses → Fuses) : (Act.run (.fuses f) s).pending = s.pending := rfl
@[simp] theorem run_fuses_clk (f : Fuses → Fuses) : (Act.run (.fuses f) s).clk = s.clk := rfl
@[simp] theorem run_fuses_regs (f : Fuses → Fuses) : (Act.run (.fuses f) s).regs = s.regs := rfl
@[simp] theorem run_fuses_mem (f : Fuses → Fuses) : (Act.run (.fuses f) s).mem = s.mem := rfl
@[simp] theorem run_fuses_poison (f : Fuses → Fuses) : (Act.run (.fuses f) s).poison = s.poison := rfl
@[simp] theorem run_fuses_io (f : Fuses → Fuses) : (Act.run (.fuses f) s).io = s.io := rfl
@[simp] theorem run_fuses_fuses (f : Fuses → Fuses) : (Act.run (.fuses f) s).fuses = f s.fuses := rfl
@[simp] theorem run_fuses_mesh (f : Fuses → Fuses) : (Act.run (.fuses f) s).mesh = s.mesh := rfl
@[simp] theorem run_fuses_core (f : Fuses → Fuses) : (Act.run (.fuses f) s).core = s.core := rfl
@[simp] theorem run_fuses_cache (f : Fuses → Fuses) : (Act.run (.fuses f) s).cache = s.cache := rfl
@[simp] theorem run_fuses_coh (f : Fuses → Fuses) : (Act.run (.fuses f) s).coh = s.coh := rfl
@[simp] theorem run_fuses_btn (f : Fuses → Fuses) : (Act.run (.fuses f) s).btn = s.btn := rfl
@[simp] theorem run_fuses_loom (f : Fuses → Fuses) : (Act.run (.fuses f) s).loom = s.loom := rfl
@[simp] theorem run_fuses_drv (f : Fuses → Fuses) : (Act.run (.fuses f) s).drv = s.drv := rfl
@[simp] theorem run_fuses_pick (f : Fuses → Fuses) : (Act.run (.fuses f) s).pick = s.pick := rfl
@[simp] theorem run_fuses_xf (f : Fuses → Fuses) : (Act.run (.fuses f) s).xf = s.xf := rfl
@[simp] theorem run_fuses_shu (f : Fuses → Fuses) : (Act.run (.fuses f) s).shu = s.shu := rfl
@[simp] theorem run_fuses_iotlb (f : Fuses → Fuses) : (Act.run (.fuses f) s).iotlb = s.iotlb := rfl
@[simp] theorem run_fuses_crl (f : Fuses → Fuses) : (Act.run (.fuses f) s).crl = s.crl := rfl
@[simp] theorem run_fuses_hrn (f : Fuses → Fuses) : (Act.run (.fuses f) s).hrn = s.hrn := rfl
@[simp] theorem run_fuses_mc (f : Fuses → Fuses) : (Act.run (.fuses f) s).mc = s.mc := rfl
@[simp] theorem run_fuses_dby (f : Fuses → Fuses) : (Act.run (.fuses f) s).dby = s.dby := rfl
@[simp] theorem run_fuses_ras (f : Fuses → Fuses) : (Act.run (.fuses f) s).ras = s.ras := rfl
@[simp] theorem run_fuses_pwr (f : Fuses → Fuses) : (Act.run (.fuses f) s).pwr = s.pwr := rfl
@[simp] theorem run_fuses_boot (f : Fuses → Fuses) : (Act.run (.fuses f) s).boot = s.boot := rfl
@[simp] theorem run_fuses_dbg (f : Fuses → Fuses) : (Act.run (.fuses f) s).dbg = s.dbg := rfl
@[simp] theorem run_mesh_pending (f : MeshSt → MeshSt) : (Act.run (.mesh f) s).pending = s.pending := rfl
@[simp] theorem run_mesh_clk (f : MeshSt → MeshSt) : (Act.run (.mesh f) s).clk = s.clk := rfl
@[simp] theorem run_mesh_regs (f : MeshSt → MeshSt) : (Act.run (.mesh f) s).regs = s.regs := rfl
@[simp] theorem run_mesh_mem (f : MeshSt → MeshSt) : (Act.run (.mesh f) s).mem = s.mem := rfl
@[simp] theorem run_mesh_poison (f : MeshSt → MeshSt) : (Act.run (.mesh f) s).poison = s.poison := rfl
@[simp] theorem run_mesh_io (f : MeshSt → MeshSt) : (Act.run (.mesh f) s).io = s.io := rfl
@[simp] theorem run_mesh_fuses (f : MeshSt → MeshSt) : (Act.run (.mesh f) s).fuses = s.fuses := rfl
@[simp] theorem run_mesh_mesh (f : MeshSt → MeshSt) : (Act.run (.mesh f) s).mesh = f s.mesh := rfl
@[simp] theorem run_mesh_core (f : MeshSt → MeshSt) : (Act.run (.mesh f) s).core = s.core := rfl
@[simp] theorem run_mesh_cache (f : MeshSt → MeshSt) : (Act.run (.mesh f) s).cache = s.cache := rfl
@[simp] theorem run_mesh_coh (f : MeshSt → MeshSt) : (Act.run (.mesh f) s).coh = s.coh := rfl
@[simp] theorem run_mesh_btn (f : MeshSt → MeshSt) : (Act.run (.mesh f) s).btn = s.btn := rfl
@[simp] theorem run_mesh_loom (f : MeshSt → MeshSt) : (Act.run (.mesh f) s).loom = s.loom := rfl
@[simp] theorem run_mesh_drv (f : MeshSt → MeshSt) : (Act.run (.mesh f) s).drv = s.drv := rfl
@[simp] theorem run_mesh_pick (f : MeshSt → MeshSt) : (Act.run (.mesh f) s).pick = s.pick := rfl
@[simp] theorem run_mesh_xf (f : MeshSt → MeshSt) : (Act.run (.mesh f) s).xf = s.xf := rfl
@[simp] theorem run_mesh_shu (f : MeshSt → MeshSt) : (Act.run (.mesh f) s).shu = s.shu := rfl
@[simp] theorem run_mesh_iotlb (f : MeshSt → MeshSt) : (Act.run (.mesh f) s).iotlb = s.iotlb := rfl
@[simp] theorem run_mesh_crl (f : MeshSt → MeshSt) : (Act.run (.mesh f) s).crl = s.crl := rfl
@[simp] theorem run_mesh_hrn (f : MeshSt → MeshSt) : (Act.run (.mesh f) s).hrn = s.hrn := rfl
@[simp] theorem run_mesh_mc (f : MeshSt → MeshSt) : (Act.run (.mesh f) s).mc = s.mc := rfl
@[simp] theorem run_mesh_dby (f : MeshSt → MeshSt) : (Act.run (.mesh f) s).dby = s.dby := rfl
@[simp] theorem run_mesh_ras (f : MeshSt → MeshSt) : (Act.run (.mesh f) s).ras = s.ras := rfl
@[simp] theorem run_mesh_pwr (f : MeshSt → MeshSt) : (Act.run (.mesh f) s).pwr = s.pwr := rfl
@[simp] theorem run_mesh_boot (f : MeshSt → MeshSt) : (Act.run (.mesh f) s).boot = s.boot := rfl
@[simp] theorem run_mesh_dbg (f : MeshSt → MeshSt) : (Act.run (.mesh f) s).dbg = s.dbg := rfl
@[simp] theorem run_core_pending (f : CoreSt → CoreSt) : (Act.run (.core f) s).pending = s.pending := rfl
@[simp] theorem run_core_clk (f : CoreSt → CoreSt) : (Act.run (.core f) s).clk = s.clk := rfl
@[simp] theorem run_core_regs (f : CoreSt → CoreSt) : (Act.run (.core f) s).regs = s.regs := rfl
@[simp] theorem run_core_mem (f : CoreSt → CoreSt) : (Act.run (.core f) s).mem = s.mem := rfl
@[simp] theorem run_core_poison (f : CoreSt → CoreSt) : (Act.run (.core f) s).poison = s.poison := rfl
@[simp] theorem run_core_io (f : CoreSt → CoreSt) : (Act.run (.core f) s).io = s.io := rfl
@[simp] theorem run_core_fuses (f : CoreSt → CoreSt) : (Act.run (.core f) s).fuses = s.fuses := rfl
@[simp] theorem run_core_mesh (f : CoreSt → CoreSt) : (Act.run (.core f) s).mesh = s.mesh := rfl
@[simp] theorem run_core_core (f : CoreSt → CoreSt) : (Act.run (.core f) s).core = f s.core := rfl
@[simp] theorem run_core_cache (f : CoreSt → CoreSt) : (Act.run (.core f) s).cache = s.cache := rfl
@[simp] theorem run_core_coh (f : CoreSt → CoreSt) : (Act.run (.core f) s).coh = s.coh := rfl
@[simp] theorem run_core_btn (f : CoreSt → CoreSt) : (Act.run (.core f) s).btn = s.btn := rfl
@[simp] theorem run_core_loom (f : CoreSt → CoreSt) : (Act.run (.core f) s).loom = s.loom := rfl
@[simp] theorem run_core_drv (f : CoreSt → CoreSt) : (Act.run (.core f) s).drv = s.drv := rfl
@[simp] theorem run_core_pick (f : CoreSt → CoreSt) : (Act.run (.core f) s).pick = s.pick := rfl
@[simp] theorem run_core_xf (f : CoreSt → CoreSt) : (Act.run (.core f) s).xf = s.xf := rfl
@[simp] theorem run_core_shu (f : CoreSt → CoreSt) : (Act.run (.core f) s).shu = s.shu := rfl
@[simp] theorem run_core_iotlb (f : CoreSt → CoreSt) : (Act.run (.core f) s).iotlb = s.iotlb := rfl
@[simp] theorem run_core_crl (f : CoreSt → CoreSt) : (Act.run (.core f) s).crl = s.crl := rfl
@[simp] theorem run_core_hrn (f : CoreSt → CoreSt) : (Act.run (.core f) s).hrn = s.hrn := rfl
@[simp] theorem run_core_mc (f : CoreSt → CoreSt) : (Act.run (.core f) s).mc = s.mc := rfl
@[simp] theorem run_core_dby (f : CoreSt → CoreSt) : (Act.run (.core f) s).dby = s.dby := rfl
@[simp] theorem run_core_ras (f : CoreSt → CoreSt) : (Act.run (.core f) s).ras = s.ras := rfl
@[simp] theorem run_core_pwr (f : CoreSt → CoreSt) : (Act.run (.core f) s).pwr = s.pwr := rfl
@[simp] theorem run_core_boot (f : CoreSt → CoreSt) : (Act.run (.core f) s).boot = s.boot := rfl
@[simp] theorem run_core_dbg (f : CoreSt → CoreSt) : (Act.run (.core f) s).dbg = s.dbg := rfl
@[simp] theorem run_cache_pending (f : CacheSt → CacheSt) : (Act.run (.cache f) s).pending = s.pending := rfl
@[simp] theorem run_cache_clk (f : CacheSt → CacheSt) : (Act.run (.cache f) s).clk = s.clk := rfl
@[simp] theorem run_cache_regs (f : CacheSt → CacheSt) : (Act.run (.cache f) s).regs = s.regs := rfl
@[simp] theorem run_cache_mem (f : CacheSt → CacheSt) : (Act.run (.cache f) s).mem = s.mem := rfl
@[simp] theorem run_cache_poison (f : CacheSt → CacheSt) : (Act.run (.cache f) s).poison = s.poison := rfl
@[simp] theorem run_cache_io (f : CacheSt → CacheSt) : (Act.run (.cache f) s).io = s.io := rfl
@[simp] theorem run_cache_fuses (f : CacheSt → CacheSt) : (Act.run (.cache f) s).fuses = s.fuses := rfl
@[simp] theorem run_cache_mesh (f : CacheSt → CacheSt) : (Act.run (.cache f) s).mesh = s.mesh := rfl
@[simp] theorem run_cache_core (f : CacheSt → CacheSt) : (Act.run (.cache f) s).core = s.core := rfl
@[simp] theorem run_cache_cache (f : CacheSt → CacheSt) : (Act.run (.cache f) s).cache = f s.cache := rfl
@[simp] theorem run_cache_coh (f : CacheSt → CacheSt) : (Act.run (.cache f) s).coh = s.coh := rfl
@[simp] theorem run_cache_btn (f : CacheSt → CacheSt) : (Act.run (.cache f) s).btn = s.btn := rfl
@[simp] theorem run_cache_loom (f : CacheSt → CacheSt) : (Act.run (.cache f) s).loom = s.loom := rfl
@[simp] theorem run_cache_drv (f : CacheSt → CacheSt) : (Act.run (.cache f) s).drv = s.drv := rfl
@[simp] theorem run_cache_pick (f : CacheSt → CacheSt) : (Act.run (.cache f) s).pick = s.pick := rfl
@[simp] theorem run_cache_xf (f : CacheSt → CacheSt) : (Act.run (.cache f) s).xf = s.xf := rfl
@[simp] theorem run_cache_shu (f : CacheSt → CacheSt) : (Act.run (.cache f) s).shu = s.shu := rfl
@[simp] theorem run_cache_iotlb (f : CacheSt → CacheSt) : (Act.run (.cache f) s).iotlb = s.iotlb := rfl
@[simp] theorem run_cache_crl (f : CacheSt → CacheSt) : (Act.run (.cache f) s).crl = s.crl := rfl
@[simp] theorem run_cache_hrn (f : CacheSt → CacheSt) : (Act.run (.cache f) s).hrn = s.hrn := rfl
@[simp] theorem run_cache_mc (f : CacheSt → CacheSt) : (Act.run (.cache f) s).mc = s.mc := rfl
@[simp] theorem run_cache_dby (f : CacheSt → CacheSt) : (Act.run (.cache f) s).dby = s.dby := rfl
@[simp] theorem run_cache_ras (f : CacheSt → CacheSt) : (Act.run (.cache f) s).ras = s.ras := rfl
@[simp] theorem run_cache_pwr (f : CacheSt → CacheSt) : (Act.run (.cache f) s).pwr = s.pwr := rfl
@[simp] theorem run_cache_boot (f : CacheSt → CacheSt) : (Act.run (.cache f) s).boot = s.boot := rfl
@[simp] theorem run_cache_dbg (f : CacheSt → CacheSt) : (Act.run (.cache f) s).dbg = s.dbg := rfl
@[simp] theorem run_coh_pending (f : CohSt → CohSt) : (Act.run (.coh f) s).pending = s.pending := rfl
@[simp] theorem run_coh_clk (f : CohSt → CohSt) : (Act.run (.coh f) s).clk = s.clk := rfl
@[simp] theorem run_coh_regs (f : CohSt → CohSt) : (Act.run (.coh f) s).regs = s.regs := rfl
@[simp] theorem run_coh_mem (f : CohSt → CohSt) : (Act.run (.coh f) s).mem = s.mem := rfl
@[simp] theorem run_coh_poison (f : CohSt → CohSt) : (Act.run (.coh f) s).poison = s.poison := rfl
@[simp] theorem run_coh_io (f : CohSt → CohSt) : (Act.run (.coh f) s).io = s.io := rfl
@[simp] theorem run_coh_fuses (f : CohSt → CohSt) : (Act.run (.coh f) s).fuses = s.fuses := rfl
@[simp] theorem run_coh_mesh (f : CohSt → CohSt) : (Act.run (.coh f) s).mesh = s.mesh := rfl
@[simp] theorem run_coh_core (f : CohSt → CohSt) : (Act.run (.coh f) s).core = s.core := rfl
@[simp] theorem run_coh_cache (f : CohSt → CohSt) : (Act.run (.coh f) s).cache = s.cache := rfl
@[simp] theorem run_coh_coh (f : CohSt → CohSt) : (Act.run (.coh f) s).coh = f s.coh := rfl
@[simp] theorem run_coh_btn (f : CohSt → CohSt) : (Act.run (.coh f) s).btn = s.btn := rfl
@[simp] theorem run_coh_loom (f : CohSt → CohSt) : (Act.run (.coh f) s).loom = s.loom := rfl
@[simp] theorem run_coh_drv (f : CohSt → CohSt) : (Act.run (.coh f) s).drv = s.drv := rfl
@[simp] theorem run_coh_pick (f : CohSt → CohSt) : (Act.run (.coh f) s).pick = s.pick := rfl
@[simp] theorem run_coh_xf (f : CohSt → CohSt) : (Act.run (.coh f) s).xf = s.xf := rfl
@[simp] theorem run_coh_shu (f : CohSt → CohSt) : (Act.run (.coh f) s).shu = s.shu := rfl
@[simp] theorem run_coh_iotlb (f : CohSt → CohSt) : (Act.run (.coh f) s).iotlb = s.iotlb := rfl
@[simp] theorem run_coh_crl (f : CohSt → CohSt) : (Act.run (.coh f) s).crl = s.crl := rfl
@[simp] theorem run_coh_hrn (f : CohSt → CohSt) : (Act.run (.coh f) s).hrn = s.hrn := rfl
@[simp] theorem run_coh_mc (f : CohSt → CohSt) : (Act.run (.coh f) s).mc = s.mc := rfl
@[simp] theorem run_coh_dby (f : CohSt → CohSt) : (Act.run (.coh f) s).dby = s.dby := rfl
@[simp] theorem run_coh_ras (f : CohSt → CohSt) : (Act.run (.coh f) s).ras = s.ras := rfl
@[simp] theorem run_coh_pwr (f : CohSt → CohSt) : (Act.run (.coh f) s).pwr = s.pwr := rfl
@[simp] theorem run_coh_boot (f : CohSt → CohSt) : (Act.run (.coh f) s).boot = s.boot := rfl
@[simp] theorem run_coh_dbg (f : CohSt → CohSt) : (Act.run (.coh f) s).dbg = s.dbg := rfl
@[simp] theorem run_btn_pending (f : BtnSt → BtnSt) : (Act.run (.btn f) s).pending = s.pending := rfl
@[simp] theorem run_btn_clk (f : BtnSt → BtnSt) : (Act.run (.btn f) s).clk = s.clk := rfl
@[simp] theorem run_btn_regs (f : BtnSt → BtnSt) : (Act.run (.btn f) s).regs = s.regs := rfl
@[simp] theorem run_btn_mem (f : BtnSt → BtnSt) : (Act.run (.btn f) s).mem = s.mem := rfl
@[simp] theorem run_btn_poison (f : BtnSt → BtnSt) : (Act.run (.btn f) s).poison = s.poison := rfl
@[simp] theorem run_btn_io (f : BtnSt → BtnSt) : (Act.run (.btn f) s).io = s.io := rfl
@[simp] theorem run_btn_fuses (f : BtnSt → BtnSt) : (Act.run (.btn f) s).fuses = s.fuses := rfl
@[simp] theorem run_btn_mesh (f : BtnSt → BtnSt) : (Act.run (.btn f) s).mesh = s.mesh := rfl
@[simp] theorem run_btn_core (f : BtnSt → BtnSt) : (Act.run (.btn f) s).core = s.core := rfl
@[simp] theorem run_btn_cache (f : BtnSt → BtnSt) : (Act.run (.btn f) s).cache = s.cache := rfl
@[simp] theorem run_btn_coh (f : BtnSt → BtnSt) : (Act.run (.btn f) s).coh = s.coh := rfl
@[simp] theorem run_btn_btn (f : BtnSt → BtnSt) : (Act.run (.btn f) s).btn = f s.btn := rfl
@[simp] theorem run_btn_loom (f : BtnSt → BtnSt) : (Act.run (.btn f) s).loom = s.loom := rfl
@[simp] theorem run_btn_drv (f : BtnSt → BtnSt) : (Act.run (.btn f) s).drv = s.drv := rfl
@[simp] theorem run_btn_pick (f : BtnSt → BtnSt) : (Act.run (.btn f) s).pick = s.pick := rfl
@[simp] theorem run_btn_xf (f : BtnSt → BtnSt) : (Act.run (.btn f) s).xf = s.xf := rfl
@[simp] theorem run_btn_shu (f : BtnSt → BtnSt) : (Act.run (.btn f) s).shu = s.shu := rfl
@[simp] theorem run_btn_iotlb (f : BtnSt → BtnSt) : (Act.run (.btn f) s).iotlb = s.iotlb := rfl
@[simp] theorem run_btn_crl (f : BtnSt → BtnSt) : (Act.run (.btn f) s).crl = s.crl := rfl
@[simp] theorem run_btn_hrn (f : BtnSt → BtnSt) : (Act.run (.btn f) s).hrn = s.hrn := rfl
@[simp] theorem run_btn_mc (f : BtnSt → BtnSt) : (Act.run (.btn f) s).mc = s.mc := rfl
@[simp] theorem run_btn_dby (f : BtnSt → BtnSt) : (Act.run (.btn f) s).dby = s.dby := rfl
@[simp] theorem run_btn_ras (f : BtnSt → BtnSt) : (Act.run (.btn f) s).ras = s.ras := rfl
@[simp] theorem run_btn_pwr (f : BtnSt → BtnSt) : (Act.run (.btn f) s).pwr = s.pwr := rfl
@[simp] theorem run_btn_boot (f : BtnSt → BtnSt) : (Act.run (.btn f) s).boot = s.boot := rfl
@[simp] theorem run_btn_dbg (f : BtnSt → BtnSt) : (Act.run (.btn f) s).dbg = s.dbg := rfl
@[simp] theorem run_loom_pending (f : LoomSt → LoomSt) : (Act.run (.loom f) s).pending = s.pending := rfl
@[simp] theorem run_loom_clk (f : LoomSt → LoomSt) : (Act.run (.loom f) s).clk = s.clk := rfl
@[simp] theorem run_loom_regs (f : LoomSt → LoomSt) : (Act.run (.loom f) s).regs = s.regs := rfl
@[simp] theorem run_loom_mem (f : LoomSt → LoomSt) : (Act.run (.loom f) s).mem = s.mem := rfl
@[simp] theorem run_loom_poison (f : LoomSt → LoomSt) : (Act.run (.loom f) s).poison = s.poison := rfl
@[simp] theorem run_loom_io (f : LoomSt → LoomSt) : (Act.run (.loom f) s).io = s.io := rfl
@[simp] theorem run_loom_fuses (f : LoomSt → LoomSt) : (Act.run (.loom f) s).fuses = s.fuses := rfl
@[simp] theorem run_loom_mesh (f : LoomSt → LoomSt) : (Act.run (.loom f) s).mesh = s.mesh := rfl
@[simp] theorem run_loom_core (f : LoomSt → LoomSt) : (Act.run (.loom f) s).core = s.core := rfl
@[simp] theorem run_loom_cache (f : LoomSt → LoomSt) : (Act.run (.loom f) s).cache = s.cache := rfl
@[simp] theorem run_loom_coh (f : LoomSt → LoomSt) : (Act.run (.loom f) s).coh = s.coh := rfl
@[simp] theorem run_loom_btn (f : LoomSt → LoomSt) : (Act.run (.loom f) s).btn = s.btn := rfl
@[simp] theorem run_loom_loom (f : LoomSt → LoomSt) : (Act.run (.loom f) s).loom = f s.loom := rfl
@[simp] theorem run_loom_drv (f : LoomSt → LoomSt) : (Act.run (.loom f) s).drv = s.drv := rfl
@[simp] theorem run_loom_pick (f : LoomSt → LoomSt) : (Act.run (.loom f) s).pick = s.pick := rfl
@[simp] theorem run_loom_xf (f : LoomSt → LoomSt) : (Act.run (.loom f) s).xf = s.xf := rfl
@[simp] theorem run_loom_shu (f : LoomSt → LoomSt) : (Act.run (.loom f) s).shu = s.shu := rfl
@[simp] theorem run_loom_iotlb (f : LoomSt → LoomSt) : (Act.run (.loom f) s).iotlb = s.iotlb := rfl
@[simp] theorem run_loom_crl (f : LoomSt → LoomSt) : (Act.run (.loom f) s).crl = s.crl := rfl
@[simp] theorem run_loom_hrn (f : LoomSt → LoomSt) : (Act.run (.loom f) s).hrn = s.hrn := rfl
@[simp] theorem run_loom_mc (f : LoomSt → LoomSt) : (Act.run (.loom f) s).mc = s.mc := rfl
@[simp] theorem run_loom_dby (f : LoomSt → LoomSt) : (Act.run (.loom f) s).dby = s.dby := rfl
@[simp] theorem run_loom_ras (f : LoomSt → LoomSt) : (Act.run (.loom f) s).ras = s.ras := rfl
@[simp] theorem run_loom_pwr (f : LoomSt → LoomSt) : (Act.run (.loom f) s).pwr = s.pwr := rfl
@[simp] theorem run_loom_boot (f : LoomSt → LoomSt) : (Act.run (.loom f) s).boot = s.boot := rfl
@[simp] theorem run_loom_dbg (f : LoomSt → LoomSt) : (Act.run (.loom f) s).dbg = s.dbg := rfl
@[simp] theorem run_drv_pending (f : DrvSt → DrvSt) : (Act.run (.drv f) s).pending = s.pending := rfl
@[simp] theorem run_drv_clk (f : DrvSt → DrvSt) : (Act.run (.drv f) s).clk = s.clk := rfl
@[simp] theorem run_drv_regs (f : DrvSt → DrvSt) : (Act.run (.drv f) s).regs = s.regs := rfl
@[simp] theorem run_drv_mem (f : DrvSt → DrvSt) : (Act.run (.drv f) s).mem = s.mem := rfl
@[simp] theorem run_drv_poison (f : DrvSt → DrvSt) : (Act.run (.drv f) s).poison = s.poison := rfl
@[simp] theorem run_drv_io (f : DrvSt → DrvSt) : (Act.run (.drv f) s).io = s.io := rfl
@[simp] theorem run_drv_fuses (f : DrvSt → DrvSt) : (Act.run (.drv f) s).fuses = s.fuses := rfl
@[simp] theorem run_drv_mesh (f : DrvSt → DrvSt) : (Act.run (.drv f) s).mesh = s.mesh := rfl
@[simp] theorem run_drv_core (f : DrvSt → DrvSt) : (Act.run (.drv f) s).core = s.core := rfl
@[simp] theorem run_drv_cache (f : DrvSt → DrvSt) : (Act.run (.drv f) s).cache = s.cache := rfl
@[simp] theorem run_drv_coh (f : DrvSt → DrvSt) : (Act.run (.drv f) s).coh = s.coh := rfl
@[simp] theorem run_drv_btn (f : DrvSt → DrvSt) : (Act.run (.drv f) s).btn = s.btn := rfl
@[simp] theorem run_drv_loom (f : DrvSt → DrvSt) : (Act.run (.drv f) s).loom = s.loom := rfl
@[simp] theorem run_drv_drv (f : DrvSt → DrvSt) : (Act.run (.drv f) s).drv = f s.drv := rfl
@[simp] theorem run_drv_pick (f : DrvSt → DrvSt) : (Act.run (.drv f) s).pick = s.pick := rfl
@[simp] theorem run_drv_xf (f : DrvSt → DrvSt) : (Act.run (.drv f) s).xf = s.xf := rfl
@[simp] theorem run_drv_shu (f : DrvSt → DrvSt) : (Act.run (.drv f) s).shu = s.shu := rfl
@[simp] theorem run_drv_iotlb (f : DrvSt → DrvSt) : (Act.run (.drv f) s).iotlb = s.iotlb := rfl
@[simp] theorem run_drv_crl (f : DrvSt → DrvSt) : (Act.run (.drv f) s).crl = s.crl := rfl
@[simp] theorem run_drv_hrn (f : DrvSt → DrvSt) : (Act.run (.drv f) s).hrn = s.hrn := rfl
@[simp] theorem run_drv_mc (f : DrvSt → DrvSt) : (Act.run (.drv f) s).mc = s.mc := rfl
@[simp] theorem run_drv_dby (f : DrvSt → DrvSt) : (Act.run (.drv f) s).dby = s.dby := rfl
@[simp] theorem run_drv_ras (f : DrvSt → DrvSt) : (Act.run (.drv f) s).ras = s.ras := rfl
@[simp] theorem run_drv_pwr (f : DrvSt → DrvSt) : (Act.run (.drv f) s).pwr = s.pwr := rfl
@[simp] theorem run_drv_boot (f : DrvSt → DrvSt) : (Act.run (.drv f) s).boot = s.boot := rfl
@[simp] theorem run_drv_dbg (f : DrvSt → DrvSt) : (Act.run (.drv f) s).dbg = s.dbg := rfl
@[simp] theorem run_pick_pending (f : PickSt → PickSt) : (Act.run (.pick f) s).pending = s.pending := rfl
@[simp] theorem run_pick_clk (f : PickSt → PickSt) : (Act.run (.pick f) s).clk = s.clk := rfl
@[simp] theorem run_pick_regs (f : PickSt → PickSt) : (Act.run (.pick f) s).regs = s.regs := rfl
@[simp] theorem run_pick_mem (f : PickSt → PickSt) : (Act.run (.pick f) s).mem = s.mem := rfl
@[simp] theorem run_pick_poison (f : PickSt → PickSt) : (Act.run (.pick f) s).poison = s.poison := rfl
@[simp] theorem run_pick_io (f : PickSt → PickSt) : (Act.run (.pick f) s).io = s.io := rfl
@[simp] theorem run_pick_fuses (f : PickSt → PickSt) : (Act.run (.pick f) s).fuses = s.fuses := rfl
@[simp] theorem run_pick_mesh (f : PickSt → PickSt) : (Act.run (.pick f) s).mesh = s.mesh := rfl
@[simp] theorem run_pick_core (f : PickSt → PickSt) : (Act.run (.pick f) s).core = s.core := rfl
@[simp] theorem run_pick_cache (f : PickSt → PickSt) : (Act.run (.pick f) s).cache = s.cache := rfl
@[simp] theorem run_pick_coh (f : PickSt → PickSt) : (Act.run (.pick f) s).coh = s.coh := rfl
@[simp] theorem run_pick_btn (f : PickSt → PickSt) : (Act.run (.pick f) s).btn = s.btn := rfl
@[simp] theorem run_pick_loom (f : PickSt → PickSt) : (Act.run (.pick f) s).loom = s.loom := rfl
@[simp] theorem run_pick_drv (f : PickSt → PickSt) : (Act.run (.pick f) s).drv = s.drv := rfl
@[simp] theorem run_pick_pick (f : PickSt → PickSt) : (Act.run (.pick f) s).pick = f s.pick := rfl
@[simp] theorem run_pick_xf (f : PickSt → PickSt) : (Act.run (.pick f) s).xf = s.xf := rfl
@[simp] theorem run_pick_shu (f : PickSt → PickSt) : (Act.run (.pick f) s).shu = s.shu := rfl
@[simp] theorem run_pick_iotlb (f : PickSt → PickSt) : (Act.run (.pick f) s).iotlb = s.iotlb := rfl
@[simp] theorem run_pick_crl (f : PickSt → PickSt) : (Act.run (.pick f) s).crl = s.crl := rfl
@[simp] theorem run_pick_hrn (f : PickSt → PickSt) : (Act.run (.pick f) s).hrn = s.hrn := rfl
@[simp] theorem run_pick_mc (f : PickSt → PickSt) : (Act.run (.pick f) s).mc = s.mc := rfl
@[simp] theorem run_pick_dby (f : PickSt → PickSt) : (Act.run (.pick f) s).dby = s.dby := rfl
@[simp] theorem run_pick_ras (f : PickSt → PickSt) : (Act.run (.pick f) s).ras = s.ras := rfl
@[simp] theorem run_pick_pwr (f : PickSt → PickSt) : (Act.run (.pick f) s).pwr = s.pwr := rfl
@[simp] theorem run_pick_boot (f : PickSt → PickSt) : (Act.run (.pick f) s).boot = s.boot := rfl
@[simp] theorem run_pick_dbg (f : PickSt → PickSt) : (Act.run (.pick f) s).dbg = s.dbg := rfl
@[simp] theorem run_xf_pending (f : XfSt → XfSt) : (Act.run (.xf f) s).pending = s.pending := rfl
@[simp] theorem run_xf_clk (f : XfSt → XfSt) : (Act.run (.xf f) s).clk = s.clk := rfl
@[simp] theorem run_xf_regs (f : XfSt → XfSt) : (Act.run (.xf f) s).regs = s.regs := rfl
@[simp] theorem run_xf_mem (f : XfSt → XfSt) : (Act.run (.xf f) s).mem = s.mem := rfl
@[simp] theorem run_xf_poison (f : XfSt → XfSt) : (Act.run (.xf f) s).poison = s.poison := rfl
@[simp] theorem run_xf_io (f : XfSt → XfSt) : (Act.run (.xf f) s).io = s.io := rfl
@[simp] theorem run_xf_fuses (f : XfSt → XfSt) : (Act.run (.xf f) s).fuses = s.fuses := rfl
@[simp] theorem run_xf_mesh (f : XfSt → XfSt) : (Act.run (.xf f) s).mesh = s.mesh := rfl
@[simp] theorem run_xf_core (f : XfSt → XfSt) : (Act.run (.xf f) s).core = s.core := rfl
@[simp] theorem run_xf_cache (f : XfSt → XfSt) : (Act.run (.xf f) s).cache = s.cache := rfl
@[simp] theorem run_xf_coh (f : XfSt → XfSt) : (Act.run (.xf f) s).coh = s.coh := rfl
@[simp] theorem run_xf_btn (f : XfSt → XfSt) : (Act.run (.xf f) s).btn = s.btn := rfl
@[simp] theorem run_xf_loom (f : XfSt → XfSt) : (Act.run (.xf f) s).loom = s.loom := rfl
@[simp] theorem run_xf_drv (f : XfSt → XfSt) : (Act.run (.xf f) s).drv = s.drv := rfl
@[simp] theorem run_xf_pick (f : XfSt → XfSt) : (Act.run (.xf f) s).pick = s.pick := rfl
@[simp] theorem run_xf_xf (f : XfSt → XfSt) : (Act.run (.xf f) s).xf = f s.xf := rfl
@[simp] theorem run_xf_shu (f : XfSt → XfSt) : (Act.run (.xf f) s).shu = s.shu := rfl
@[simp] theorem run_xf_iotlb (f : XfSt → XfSt) : (Act.run (.xf f) s).iotlb = s.iotlb := rfl
@[simp] theorem run_xf_crl (f : XfSt → XfSt) : (Act.run (.xf f) s).crl = s.crl := rfl
@[simp] theorem run_xf_hrn (f : XfSt → XfSt) : (Act.run (.xf f) s).hrn = s.hrn := rfl
@[simp] theorem run_xf_mc (f : XfSt → XfSt) : (Act.run (.xf f) s).mc = s.mc := rfl
@[simp] theorem run_xf_dby (f : XfSt → XfSt) : (Act.run (.xf f) s).dby = s.dby := rfl
@[simp] theorem run_xf_ras (f : XfSt → XfSt) : (Act.run (.xf f) s).ras = s.ras := rfl
@[simp] theorem run_xf_pwr (f : XfSt → XfSt) : (Act.run (.xf f) s).pwr = s.pwr := rfl
@[simp] theorem run_xf_boot (f : XfSt → XfSt) : (Act.run (.xf f) s).boot = s.boot := rfl
@[simp] theorem run_xf_dbg (f : XfSt → XfSt) : (Act.run (.xf f) s).dbg = s.dbg := rfl
@[simp] theorem run_shu_pending (f : ShuSt → ShuSt) : (Act.run (.shu f) s).pending = s.pending := rfl
@[simp] theorem run_shu_clk (f : ShuSt → ShuSt) : (Act.run (.shu f) s).clk = s.clk := rfl
@[simp] theorem run_shu_regs (f : ShuSt → ShuSt) : (Act.run (.shu f) s).regs = s.regs := rfl
@[simp] theorem run_shu_mem (f : ShuSt → ShuSt) : (Act.run (.shu f) s).mem = s.mem := rfl
@[simp] theorem run_shu_poison (f : ShuSt → ShuSt) : (Act.run (.shu f) s).poison = s.poison := rfl
@[simp] theorem run_shu_io (f : ShuSt → ShuSt) : (Act.run (.shu f) s).io = s.io := rfl
@[simp] theorem run_shu_fuses (f : ShuSt → ShuSt) : (Act.run (.shu f) s).fuses = s.fuses := rfl
@[simp] theorem run_shu_mesh (f : ShuSt → ShuSt) : (Act.run (.shu f) s).mesh = s.mesh := rfl
@[simp] theorem run_shu_core (f : ShuSt → ShuSt) : (Act.run (.shu f) s).core = s.core := rfl
@[simp] theorem run_shu_cache (f : ShuSt → ShuSt) : (Act.run (.shu f) s).cache = s.cache := rfl
@[simp] theorem run_shu_coh (f : ShuSt → ShuSt) : (Act.run (.shu f) s).coh = s.coh := rfl
@[simp] theorem run_shu_btn (f : ShuSt → ShuSt) : (Act.run (.shu f) s).btn = s.btn := rfl
@[simp] theorem run_shu_loom (f : ShuSt → ShuSt) : (Act.run (.shu f) s).loom = s.loom := rfl
@[simp] theorem run_shu_drv (f : ShuSt → ShuSt) : (Act.run (.shu f) s).drv = s.drv := rfl
@[simp] theorem run_shu_pick (f : ShuSt → ShuSt) : (Act.run (.shu f) s).pick = s.pick := rfl
@[simp] theorem run_shu_xf (f : ShuSt → ShuSt) : (Act.run (.shu f) s).xf = s.xf := rfl
@[simp] theorem run_shu_shu (f : ShuSt → ShuSt) : (Act.run (.shu f) s).shu = f s.shu := rfl
@[simp] theorem run_shu_iotlb (f : ShuSt → ShuSt) : (Act.run (.shu f) s).iotlb = s.iotlb := rfl
@[simp] theorem run_shu_crl (f : ShuSt → ShuSt) : (Act.run (.shu f) s).crl = s.crl := rfl
@[simp] theorem run_shu_hrn (f : ShuSt → ShuSt) : (Act.run (.shu f) s).hrn = s.hrn := rfl
@[simp] theorem run_shu_mc (f : ShuSt → ShuSt) : (Act.run (.shu f) s).mc = s.mc := rfl
@[simp] theorem run_shu_dby (f : ShuSt → ShuSt) : (Act.run (.shu f) s).dby = s.dby := rfl
@[simp] theorem run_shu_ras (f : ShuSt → ShuSt) : (Act.run (.shu f) s).ras = s.ras := rfl
@[simp] theorem run_shu_pwr (f : ShuSt → ShuSt) : (Act.run (.shu f) s).pwr = s.pwr := rfl
@[simp] theorem run_shu_boot (f : ShuSt → ShuSt) : (Act.run (.shu f) s).boot = s.boot := rfl
@[simp] theorem run_shu_dbg (f : ShuSt → ShuSt) : (Act.run (.shu f) s).dbg = s.dbg := rfl
@[simp] theorem run_iotlb_pending (f : IotlbSt → IotlbSt) : (Act.run (.iotlb f) s).pending = s.pending := rfl
@[simp] theorem run_iotlb_clk (f : IotlbSt → IotlbSt) : (Act.run (.iotlb f) s).clk = s.clk := rfl
@[simp] theorem run_iotlb_regs (f : IotlbSt → IotlbSt) : (Act.run (.iotlb f) s).regs = s.regs := rfl
@[simp] theorem run_iotlb_mem (f : IotlbSt → IotlbSt) : (Act.run (.iotlb f) s).mem = s.mem := rfl
@[simp] theorem run_iotlb_poison (f : IotlbSt → IotlbSt) : (Act.run (.iotlb f) s).poison = s.poison := rfl
@[simp] theorem run_iotlb_io (f : IotlbSt → IotlbSt) : (Act.run (.iotlb f) s).io = s.io := rfl
@[simp] theorem run_iotlb_fuses (f : IotlbSt → IotlbSt) : (Act.run (.iotlb f) s).fuses = s.fuses := rfl
@[simp] theorem run_iotlb_mesh (f : IotlbSt → IotlbSt) : (Act.run (.iotlb f) s).mesh = s.mesh := rfl
@[simp] theorem run_iotlb_core (f : IotlbSt → IotlbSt) : (Act.run (.iotlb f) s).core = s.core := rfl
@[simp] theorem run_iotlb_cache (f : IotlbSt → IotlbSt) : (Act.run (.iotlb f) s).cache = s.cache := rfl
@[simp] theorem run_iotlb_coh (f : IotlbSt → IotlbSt) : (Act.run (.iotlb f) s).coh = s.coh := rfl
@[simp] theorem run_iotlb_btn (f : IotlbSt → IotlbSt) : (Act.run (.iotlb f) s).btn = s.btn := rfl
@[simp] theorem run_iotlb_loom (f : IotlbSt → IotlbSt) : (Act.run (.iotlb f) s).loom = s.loom := rfl
@[simp] theorem run_iotlb_drv (f : IotlbSt → IotlbSt) : (Act.run (.iotlb f) s).drv = s.drv := rfl
@[simp] theorem run_iotlb_pick (f : IotlbSt → IotlbSt) : (Act.run (.iotlb f) s).pick = s.pick := rfl
@[simp] theorem run_iotlb_xf (f : IotlbSt → IotlbSt) : (Act.run (.iotlb f) s).xf = s.xf := rfl
@[simp] theorem run_iotlb_shu (f : IotlbSt → IotlbSt) : (Act.run (.iotlb f) s).shu = s.shu := rfl
@[simp] theorem run_iotlb_iotlb (f : IotlbSt → IotlbSt) : (Act.run (.iotlb f) s).iotlb = f s.iotlb := rfl
@[simp] theorem run_iotlb_crl (f : IotlbSt → IotlbSt) : (Act.run (.iotlb f) s).crl = s.crl := rfl
@[simp] theorem run_iotlb_hrn (f : IotlbSt → IotlbSt) : (Act.run (.iotlb f) s).hrn = s.hrn := rfl
@[simp] theorem run_iotlb_mc (f : IotlbSt → IotlbSt) : (Act.run (.iotlb f) s).mc = s.mc := rfl
@[simp] theorem run_iotlb_dby (f : IotlbSt → IotlbSt) : (Act.run (.iotlb f) s).dby = s.dby := rfl
@[simp] theorem run_iotlb_ras (f : IotlbSt → IotlbSt) : (Act.run (.iotlb f) s).ras = s.ras := rfl
@[simp] theorem run_iotlb_pwr (f : IotlbSt → IotlbSt) : (Act.run (.iotlb f) s).pwr = s.pwr := rfl
@[simp] theorem run_iotlb_boot (f : IotlbSt → IotlbSt) : (Act.run (.iotlb f) s).boot = s.boot := rfl
@[simp] theorem run_iotlb_dbg (f : IotlbSt → IotlbSt) : (Act.run (.iotlb f) s).dbg = s.dbg := rfl
@[simp] theorem run_crl_pending (f : CrlSt → CrlSt) : (Act.run (.crl f) s).pending = s.pending := rfl
@[simp] theorem run_crl_clk (f : CrlSt → CrlSt) : (Act.run (.crl f) s).clk = s.clk := rfl
@[simp] theorem run_crl_regs (f : CrlSt → CrlSt) : (Act.run (.crl f) s).regs = s.regs := rfl
@[simp] theorem run_crl_mem (f : CrlSt → CrlSt) : (Act.run (.crl f) s).mem = s.mem := rfl
@[simp] theorem run_crl_poison (f : CrlSt → CrlSt) : (Act.run (.crl f) s).poison = s.poison := rfl
@[simp] theorem run_crl_io (f : CrlSt → CrlSt) : (Act.run (.crl f) s).io = s.io := rfl
@[simp] theorem run_crl_fuses (f : CrlSt → CrlSt) : (Act.run (.crl f) s).fuses = s.fuses := rfl
@[simp] theorem run_crl_mesh (f : CrlSt → CrlSt) : (Act.run (.crl f) s).mesh = s.mesh := rfl
@[simp] theorem run_crl_core (f : CrlSt → CrlSt) : (Act.run (.crl f) s).core = s.core := rfl
@[simp] theorem run_crl_cache (f : CrlSt → CrlSt) : (Act.run (.crl f) s).cache = s.cache := rfl
@[simp] theorem run_crl_coh (f : CrlSt → CrlSt) : (Act.run (.crl f) s).coh = s.coh := rfl
@[simp] theorem run_crl_btn (f : CrlSt → CrlSt) : (Act.run (.crl f) s).btn = s.btn := rfl
@[simp] theorem run_crl_loom (f : CrlSt → CrlSt) : (Act.run (.crl f) s).loom = s.loom := rfl
@[simp] theorem run_crl_drv (f : CrlSt → CrlSt) : (Act.run (.crl f) s).drv = s.drv := rfl
@[simp] theorem run_crl_pick (f : CrlSt → CrlSt) : (Act.run (.crl f) s).pick = s.pick := rfl
@[simp] theorem run_crl_xf (f : CrlSt → CrlSt) : (Act.run (.crl f) s).xf = s.xf := rfl
@[simp] theorem run_crl_shu (f : CrlSt → CrlSt) : (Act.run (.crl f) s).shu = s.shu := rfl
@[simp] theorem run_crl_iotlb (f : CrlSt → CrlSt) : (Act.run (.crl f) s).iotlb = s.iotlb := rfl
@[simp] theorem run_crl_crl (f : CrlSt → CrlSt) : (Act.run (.crl f) s).crl = f s.crl := rfl
@[simp] theorem run_crl_hrn (f : CrlSt → CrlSt) : (Act.run (.crl f) s).hrn = s.hrn := rfl
@[simp] theorem run_crl_mc (f : CrlSt → CrlSt) : (Act.run (.crl f) s).mc = s.mc := rfl
@[simp] theorem run_crl_dby (f : CrlSt → CrlSt) : (Act.run (.crl f) s).dby = s.dby := rfl
@[simp] theorem run_crl_ras (f : CrlSt → CrlSt) : (Act.run (.crl f) s).ras = s.ras := rfl
@[simp] theorem run_crl_pwr (f : CrlSt → CrlSt) : (Act.run (.crl f) s).pwr = s.pwr := rfl
@[simp] theorem run_crl_boot (f : CrlSt → CrlSt) : (Act.run (.crl f) s).boot = s.boot := rfl
@[simp] theorem run_crl_dbg (f : CrlSt → CrlSt) : (Act.run (.crl f) s).dbg = s.dbg := rfl
@[simp] theorem run_hrn_pending (f : HrnSt → HrnSt) : (Act.run (.hrn f) s).pending = s.pending := rfl
@[simp] theorem run_hrn_clk (f : HrnSt → HrnSt) : (Act.run (.hrn f) s).clk = s.clk := rfl
@[simp] theorem run_hrn_regs (f : HrnSt → HrnSt) : (Act.run (.hrn f) s).regs = s.regs := rfl
@[simp] theorem run_hrn_mem (f : HrnSt → HrnSt) : (Act.run (.hrn f) s).mem = s.mem := rfl
@[simp] theorem run_hrn_poison (f : HrnSt → HrnSt) : (Act.run (.hrn f) s).poison = s.poison := rfl
@[simp] theorem run_hrn_io (f : HrnSt → HrnSt) : (Act.run (.hrn f) s).io = s.io := rfl
@[simp] theorem run_hrn_fuses (f : HrnSt → HrnSt) : (Act.run (.hrn f) s).fuses = s.fuses := rfl
@[simp] theorem run_hrn_mesh (f : HrnSt → HrnSt) : (Act.run (.hrn f) s).mesh = s.mesh := rfl
@[simp] theorem run_hrn_core (f : HrnSt → HrnSt) : (Act.run (.hrn f) s).core = s.core := rfl
@[simp] theorem run_hrn_cache (f : HrnSt → HrnSt) : (Act.run (.hrn f) s).cache = s.cache := rfl
@[simp] theorem run_hrn_coh (f : HrnSt → HrnSt) : (Act.run (.hrn f) s).coh = s.coh := rfl
@[simp] theorem run_hrn_btn (f : HrnSt → HrnSt) : (Act.run (.hrn f) s).btn = s.btn := rfl
@[simp] theorem run_hrn_loom (f : HrnSt → HrnSt) : (Act.run (.hrn f) s).loom = s.loom := rfl
@[simp] theorem run_hrn_drv (f : HrnSt → HrnSt) : (Act.run (.hrn f) s).drv = s.drv := rfl
@[simp] theorem run_hrn_pick (f : HrnSt → HrnSt) : (Act.run (.hrn f) s).pick = s.pick := rfl
@[simp] theorem run_hrn_xf (f : HrnSt → HrnSt) : (Act.run (.hrn f) s).xf = s.xf := rfl
@[simp] theorem run_hrn_shu (f : HrnSt → HrnSt) : (Act.run (.hrn f) s).shu = s.shu := rfl
@[simp] theorem run_hrn_iotlb (f : HrnSt → HrnSt) : (Act.run (.hrn f) s).iotlb = s.iotlb := rfl
@[simp] theorem run_hrn_crl (f : HrnSt → HrnSt) : (Act.run (.hrn f) s).crl = s.crl := rfl
@[simp] theorem run_hrn_hrn (f : HrnSt → HrnSt) : (Act.run (.hrn f) s).hrn = f s.hrn := rfl
@[simp] theorem run_hrn_mc (f : HrnSt → HrnSt) : (Act.run (.hrn f) s).mc = s.mc := rfl
@[simp] theorem run_hrn_dby (f : HrnSt → HrnSt) : (Act.run (.hrn f) s).dby = s.dby := rfl
@[simp] theorem run_hrn_ras (f : HrnSt → HrnSt) : (Act.run (.hrn f) s).ras = s.ras := rfl
@[simp] theorem run_hrn_pwr (f : HrnSt → HrnSt) : (Act.run (.hrn f) s).pwr = s.pwr := rfl
@[simp] theorem run_hrn_boot (f : HrnSt → HrnSt) : (Act.run (.hrn f) s).boot = s.boot := rfl
@[simp] theorem run_hrn_dbg (f : HrnSt → HrnSt) : (Act.run (.hrn f) s).dbg = s.dbg := rfl
@[simp] theorem run_mc_pending (f : MemSt → MemSt) : (Act.run (.mc f) s).pending = s.pending := rfl
@[simp] theorem run_mc_clk (f : MemSt → MemSt) : (Act.run (.mc f) s).clk = s.clk := rfl
@[simp] theorem run_mc_regs (f : MemSt → MemSt) : (Act.run (.mc f) s).regs = s.regs := rfl
@[simp] theorem run_mc_mem (f : MemSt → MemSt) : (Act.run (.mc f) s).mem = s.mem := rfl
@[simp] theorem run_mc_poison (f : MemSt → MemSt) : (Act.run (.mc f) s).poison = s.poison := rfl
@[simp] theorem run_mc_io (f : MemSt → MemSt) : (Act.run (.mc f) s).io = s.io := rfl
@[simp] theorem run_mc_fuses (f : MemSt → MemSt) : (Act.run (.mc f) s).fuses = s.fuses := rfl
@[simp] theorem run_mc_mesh (f : MemSt → MemSt) : (Act.run (.mc f) s).mesh = s.mesh := rfl
@[simp] theorem run_mc_core (f : MemSt → MemSt) : (Act.run (.mc f) s).core = s.core := rfl
@[simp] theorem run_mc_cache (f : MemSt → MemSt) : (Act.run (.mc f) s).cache = s.cache := rfl
@[simp] theorem run_mc_coh (f : MemSt → MemSt) : (Act.run (.mc f) s).coh = s.coh := rfl
@[simp] theorem run_mc_btn (f : MemSt → MemSt) : (Act.run (.mc f) s).btn = s.btn := rfl
@[simp] theorem run_mc_loom (f : MemSt → MemSt) : (Act.run (.mc f) s).loom = s.loom := rfl
@[simp] theorem run_mc_drv (f : MemSt → MemSt) : (Act.run (.mc f) s).drv = s.drv := rfl
@[simp] theorem run_mc_pick (f : MemSt → MemSt) : (Act.run (.mc f) s).pick = s.pick := rfl
@[simp] theorem run_mc_xf (f : MemSt → MemSt) : (Act.run (.mc f) s).xf = s.xf := rfl
@[simp] theorem run_mc_shu (f : MemSt → MemSt) : (Act.run (.mc f) s).shu = s.shu := rfl
@[simp] theorem run_mc_iotlb (f : MemSt → MemSt) : (Act.run (.mc f) s).iotlb = s.iotlb := rfl
@[simp] theorem run_mc_crl (f : MemSt → MemSt) : (Act.run (.mc f) s).crl = s.crl := rfl
@[simp] theorem run_mc_hrn (f : MemSt → MemSt) : (Act.run (.mc f) s).hrn = s.hrn := rfl
@[simp] theorem run_mc_mc (f : MemSt → MemSt) : (Act.run (.mc f) s).mc = f s.mc := rfl
@[simp] theorem run_mc_dby (f : MemSt → MemSt) : (Act.run (.mc f) s).dby = s.dby := rfl
@[simp] theorem run_mc_ras (f : MemSt → MemSt) : (Act.run (.mc f) s).ras = s.ras := rfl
@[simp] theorem run_mc_pwr (f : MemSt → MemSt) : (Act.run (.mc f) s).pwr = s.pwr := rfl
@[simp] theorem run_mc_boot (f : MemSt → MemSt) : (Act.run (.mc f) s).boot = s.boot := rfl
@[simp] theorem run_mc_dbg (f : MemSt → MemSt) : (Act.run (.mc f) s).dbg = s.dbg := rfl
@[simp] theorem run_dby_pending (f : DbySt → DbySt) : (Act.run (.dby f) s).pending = s.pending := rfl
@[simp] theorem run_dby_clk (f : DbySt → DbySt) : (Act.run (.dby f) s).clk = s.clk := rfl
@[simp] theorem run_dby_regs (f : DbySt → DbySt) : (Act.run (.dby f) s).regs = s.regs := rfl
@[simp] theorem run_dby_mem (f : DbySt → DbySt) : (Act.run (.dby f) s).mem = s.mem := rfl
@[simp] theorem run_dby_poison (f : DbySt → DbySt) : (Act.run (.dby f) s).poison = s.poison := rfl
@[simp] theorem run_dby_io (f : DbySt → DbySt) : (Act.run (.dby f) s).io = s.io := rfl
@[simp] theorem run_dby_fuses (f : DbySt → DbySt) : (Act.run (.dby f) s).fuses = s.fuses := rfl
@[simp] theorem run_dby_mesh (f : DbySt → DbySt) : (Act.run (.dby f) s).mesh = s.mesh := rfl
@[simp] theorem run_dby_core (f : DbySt → DbySt) : (Act.run (.dby f) s).core = s.core := rfl
@[simp] theorem run_dby_cache (f : DbySt → DbySt) : (Act.run (.dby f) s).cache = s.cache := rfl
@[simp] theorem run_dby_coh (f : DbySt → DbySt) : (Act.run (.dby f) s).coh = s.coh := rfl
@[simp] theorem run_dby_btn (f : DbySt → DbySt) : (Act.run (.dby f) s).btn = s.btn := rfl
@[simp] theorem run_dby_loom (f : DbySt → DbySt) : (Act.run (.dby f) s).loom = s.loom := rfl
@[simp] theorem run_dby_drv (f : DbySt → DbySt) : (Act.run (.dby f) s).drv = s.drv := rfl
@[simp] theorem run_dby_pick (f : DbySt → DbySt) : (Act.run (.dby f) s).pick = s.pick := rfl
@[simp] theorem run_dby_xf (f : DbySt → DbySt) : (Act.run (.dby f) s).xf = s.xf := rfl
@[simp] theorem run_dby_shu (f : DbySt → DbySt) : (Act.run (.dby f) s).shu = s.shu := rfl
@[simp] theorem run_dby_iotlb (f : DbySt → DbySt) : (Act.run (.dby f) s).iotlb = s.iotlb := rfl
@[simp] theorem run_dby_crl (f : DbySt → DbySt) : (Act.run (.dby f) s).crl = s.crl := rfl
@[simp] theorem run_dby_hrn (f : DbySt → DbySt) : (Act.run (.dby f) s).hrn = s.hrn := rfl
@[simp] theorem run_dby_mc (f : DbySt → DbySt) : (Act.run (.dby f) s).mc = s.mc := rfl
@[simp] theorem run_dby_dby (f : DbySt → DbySt) : (Act.run (.dby f) s).dby = f s.dby := rfl
@[simp] theorem run_dby_ras (f : DbySt → DbySt) : (Act.run (.dby f) s).ras = s.ras := rfl
@[simp] theorem run_dby_pwr (f : DbySt → DbySt) : (Act.run (.dby f) s).pwr = s.pwr := rfl
@[simp] theorem run_dby_boot (f : DbySt → DbySt) : (Act.run (.dby f) s).boot = s.boot := rfl
@[simp] theorem run_dby_dbg (f : DbySt → DbySt) : (Act.run (.dby f) s).dbg = s.dbg := rfl
@[simp] theorem run_ras_pending (f : RasSt → RasSt) : (Act.run (.ras f) s).pending = s.pending := rfl
@[simp] theorem run_ras_clk (f : RasSt → RasSt) : (Act.run (.ras f) s).clk = s.clk := rfl
@[simp] theorem run_ras_regs (f : RasSt → RasSt) : (Act.run (.ras f) s).regs = s.regs := rfl
@[simp] theorem run_ras_mem (f : RasSt → RasSt) : (Act.run (.ras f) s).mem = s.mem := rfl
@[simp] theorem run_ras_poison (f : RasSt → RasSt) : (Act.run (.ras f) s).poison = s.poison := rfl
@[simp] theorem run_ras_io (f : RasSt → RasSt) : (Act.run (.ras f) s).io = s.io := rfl
@[simp] theorem run_ras_fuses (f : RasSt → RasSt) : (Act.run (.ras f) s).fuses = s.fuses := rfl
@[simp] theorem run_ras_mesh (f : RasSt → RasSt) : (Act.run (.ras f) s).mesh = s.mesh := rfl
@[simp] theorem run_ras_core (f : RasSt → RasSt) : (Act.run (.ras f) s).core = s.core := rfl
@[simp] theorem run_ras_cache (f : RasSt → RasSt) : (Act.run (.ras f) s).cache = s.cache := rfl
@[simp] theorem run_ras_coh (f : RasSt → RasSt) : (Act.run (.ras f) s).coh = s.coh := rfl
@[simp] theorem run_ras_btn (f : RasSt → RasSt) : (Act.run (.ras f) s).btn = s.btn := rfl
@[simp] theorem run_ras_loom (f : RasSt → RasSt) : (Act.run (.ras f) s).loom = s.loom := rfl
@[simp] theorem run_ras_drv (f : RasSt → RasSt) : (Act.run (.ras f) s).drv = s.drv := rfl
@[simp] theorem run_ras_pick (f : RasSt → RasSt) : (Act.run (.ras f) s).pick = s.pick := rfl
@[simp] theorem run_ras_xf (f : RasSt → RasSt) : (Act.run (.ras f) s).xf = s.xf := rfl
@[simp] theorem run_ras_shu (f : RasSt → RasSt) : (Act.run (.ras f) s).shu = s.shu := rfl
@[simp] theorem run_ras_iotlb (f : RasSt → RasSt) : (Act.run (.ras f) s).iotlb = s.iotlb := rfl
@[simp] theorem run_ras_crl (f : RasSt → RasSt) : (Act.run (.ras f) s).crl = s.crl := rfl
@[simp] theorem run_ras_hrn (f : RasSt → RasSt) : (Act.run (.ras f) s).hrn = s.hrn := rfl
@[simp] theorem run_ras_mc (f : RasSt → RasSt) : (Act.run (.ras f) s).mc = s.mc := rfl
@[simp] theorem run_ras_dby (f : RasSt → RasSt) : (Act.run (.ras f) s).dby = s.dby := rfl
@[simp] theorem run_ras_ras (f : RasSt → RasSt) : (Act.run (.ras f) s).ras = f s.ras := rfl
@[simp] theorem run_ras_pwr (f : RasSt → RasSt) : (Act.run (.ras f) s).pwr = s.pwr := rfl
@[simp] theorem run_ras_boot (f : RasSt → RasSt) : (Act.run (.ras f) s).boot = s.boot := rfl
@[simp] theorem run_ras_dbg (f : RasSt → RasSt) : (Act.run (.ras f) s).dbg = s.dbg := rfl
@[simp] theorem run_pwr_pending (f : PwrSt → PwrSt) : (Act.run (.pwr f) s).pending = s.pending := rfl
@[simp] theorem run_pwr_clk (f : PwrSt → PwrSt) : (Act.run (.pwr f) s).clk = s.clk := rfl
@[simp] theorem run_pwr_regs (f : PwrSt → PwrSt) : (Act.run (.pwr f) s).regs = s.regs := rfl
@[simp] theorem run_pwr_mem (f : PwrSt → PwrSt) : (Act.run (.pwr f) s).mem = s.mem := rfl
@[simp] theorem run_pwr_poison (f : PwrSt → PwrSt) : (Act.run (.pwr f) s).poison = s.poison := rfl
@[simp] theorem run_pwr_io (f : PwrSt → PwrSt) : (Act.run (.pwr f) s).io = s.io := rfl
@[simp] theorem run_pwr_fuses (f : PwrSt → PwrSt) : (Act.run (.pwr f) s).fuses = s.fuses := rfl
@[simp] theorem run_pwr_mesh (f : PwrSt → PwrSt) : (Act.run (.pwr f) s).mesh = s.mesh := rfl
@[simp] theorem run_pwr_core (f : PwrSt → PwrSt) : (Act.run (.pwr f) s).core = s.core := rfl
@[simp] theorem run_pwr_cache (f : PwrSt → PwrSt) : (Act.run (.pwr f) s).cache = s.cache := rfl
@[simp] theorem run_pwr_coh (f : PwrSt → PwrSt) : (Act.run (.pwr f) s).coh = s.coh := rfl
@[simp] theorem run_pwr_btn (f : PwrSt → PwrSt) : (Act.run (.pwr f) s).btn = s.btn := rfl
@[simp] theorem run_pwr_loom (f : PwrSt → PwrSt) : (Act.run (.pwr f) s).loom = s.loom := rfl
@[simp] theorem run_pwr_drv (f : PwrSt → PwrSt) : (Act.run (.pwr f) s).drv = s.drv := rfl
@[simp] theorem run_pwr_pick (f : PwrSt → PwrSt) : (Act.run (.pwr f) s).pick = s.pick := rfl
@[simp] theorem run_pwr_xf (f : PwrSt → PwrSt) : (Act.run (.pwr f) s).xf = s.xf := rfl
@[simp] theorem run_pwr_shu (f : PwrSt → PwrSt) : (Act.run (.pwr f) s).shu = s.shu := rfl
@[simp] theorem run_pwr_iotlb (f : PwrSt → PwrSt) : (Act.run (.pwr f) s).iotlb = s.iotlb := rfl
@[simp] theorem run_pwr_crl (f : PwrSt → PwrSt) : (Act.run (.pwr f) s).crl = s.crl := rfl
@[simp] theorem run_pwr_hrn (f : PwrSt → PwrSt) : (Act.run (.pwr f) s).hrn = s.hrn := rfl
@[simp] theorem run_pwr_mc (f : PwrSt → PwrSt) : (Act.run (.pwr f) s).mc = s.mc := rfl
@[simp] theorem run_pwr_dby (f : PwrSt → PwrSt) : (Act.run (.pwr f) s).dby = s.dby := rfl
@[simp] theorem run_pwr_ras (f : PwrSt → PwrSt) : (Act.run (.pwr f) s).ras = s.ras := rfl
@[simp] theorem run_pwr_pwr (f : PwrSt → PwrSt) : (Act.run (.pwr f) s).pwr = f s.pwr := rfl
@[simp] theorem run_pwr_boot (f : PwrSt → PwrSt) : (Act.run (.pwr f) s).boot = s.boot := rfl
@[simp] theorem run_pwr_dbg (f : PwrSt → PwrSt) : (Act.run (.pwr f) s).dbg = s.dbg := rfl
@[simp] theorem run_boot_pending (f : BootSt → BootSt) : (Act.run (.boot f) s).pending = s.pending := rfl
@[simp] theorem run_boot_clk (f : BootSt → BootSt) : (Act.run (.boot f) s).clk = s.clk := rfl
@[simp] theorem run_boot_regs (f : BootSt → BootSt) : (Act.run (.boot f) s).regs = s.regs := rfl
@[simp] theorem run_boot_mem (f : BootSt → BootSt) : (Act.run (.boot f) s).mem = s.mem := rfl
@[simp] theorem run_boot_poison (f : BootSt → BootSt) : (Act.run (.boot f) s).poison = s.poison := rfl
@[simp] theorem run_boot_io (f : BootSt → BootSt) : (Act.run (.boot f) s).io = s.io := rfl
@[simp] theorem run_boot_fuses (f : BootSt → BootSt) : (Act.run (.boot f) s).fuses = s.fuses := rfl
@[simp] theorem run_boot_mesh (f : BootSt → BootSt) : (Act.run (.boot f) s).mesh = s.mesh := rfl
@[simp] theorem run_boot_core (f : BootSt → BootSt) : (Act.run (.boot f) s).core = s.core := rfl
@[simp] theorem run_boot_cache (f : BootSt → BootSt) : (Act.run (.boot f) s).cache = s.cache := rfl
@[simp] theorem run_boot_coh (f : BootSt → BootSt) : (Act.run (.boot f) s).coh = s.coh := rfl
@[simp] theorem run_boot_btn (f : BootSt → BootSt) : (Act.run (.boot f) s).btn = s.btn := rfl
@[simp] theorem run_boot_loom (f : BootSt → BootSt) : (Act.run (.boot f) s).loom = s.loom := rfl
@[simp] theorem run_boot_drv (f : BootSt → BootSt) : (Act.run (.boot f) s).drv = s.drv := rfl
@[simp] theorem run_boot_pick (f : BootSt → BootSt) : (Act.run (.boot f) s).pick = s.pick := rfl
@[simp] theorem run_boot_xf (f : BootSt → BootSt) : (Act.run (.boot f) s).xf = s.xf := rfl
@[simp] theorem run_boot_shu (f : BootSt → BootSt) : (Act.run (.boot f) s).shu = s.shu := rfl
@[simp] theorem run_boot_iotlb (f : BootSt → BootSt) : (Act.run (.boot f) s).iotlb = s.iotlb := rfl
@[simp] theorem run_boot_crl (f : BootSt → BootSt) : (Act.run (.boot f) s).crl = s.crl := rfl
@[simp] theorem run_boot_hrn (f : BootSt → BootSt) : (Act.run (.boot f) s).hrn = s.hrn := rfl
@[simp] theorem run_boot_mc (f : BootSt → BootSt) : (Act.run (.boot f) s).mc = s.mc := rfl
@[simp] theorem run_boot_dby (f : BootSt → BootSt) : (Act.run (.boot f) s).dby = s.dby := rfl
@[simp] theorem run_boot_ras (f : BootSt → BootSt) : (Act.run (.boot f) s).ras = s.ras := rfl
@[simp] theorem run_boot_pwr (f : BootSt → BootSt) : (Act.run (.boot f) s).pwr = s.pwr := rfl
@[simp] theorem run_boot_boot (f : BootSt → BootSt) : (Act.run (.boot f) s).boot = f s.boot := rfl
@[simp] theorem run_boot_dbg (f : BootSt → BootSt) : (Act.run (.boot f) s).dbg = s.dbg := rfl
@[simp] theorem run_dbg_pending (f : DbgSt → DbgSt) : (Act.run (.dbg f) s).pending = s.pending := rfl
@[simp] theorem run_dbg_clk (f : DbgSt → DbgSt) : (Act.run (.dbg f) s).clk = s.clk := rfl
@[simp] theorem run_dbg_regs (f : DbgSt → DbgSt) : (Act.run (.dbg f) s).regs = s.regs := rfl
@[simp] theorem run_dbg_mem (f : DbgSt → DbgSt) : (Act.run (.dbg f) s).mem = s.mem := rfl
@[simp] theorem run_dbg_poison (f : DbgSt → DbgSt) : (Act.run (.dbg f) s).poison = s.poison := rfl
@[simp] theorem run_dbg_io (f : DbgSt → DbgSt) : (Act.run (.dbg f) s).io = s.io := rfl
@[simp] theorem run_dbg_fuses (f : DbgSt → DbgSt) : (Act.run (.dbg f) s).fuses = s.fuses := rfl
@[simp] theorem run_dbg_mesh (f : DbgSt → DbgSt) : (Act.run (.dbg f) s).mesh = s.mesh := rfl
@[simp] theorem run_dbg_core (f : DbgSt → DbgSt) : (Act.run (.dbg f) s).core = s.core := rfl
@[simp] theorem run_dbg_cache (f : DbgSt → DbgSt) : (Act.run (.dbg f) s).cache = s.cache := rfl
@[simp] theorem run_dbg_coh (f : DbgSt → DbgSt) : (Act.run (.dbg f) s).coh = s.coh := rfl
@[simp] theorem run_dbg_btn (f : DbgSt → DbgSt) : (Act.run (.dbg f) s).btn = s.btn := rfl
@[simp] theorem run_dbg_loom (f : DbgSt → DbgSt) : (Act.run (.dbg f) s).loom = s.loom := rfl
@[simp] theorem run_dbg_drv (f : DbgSt → DbgSt) : (Act.run (.dbg f) s).drv = s.drv := rfl
@[simp] theorem run_dbg_pick (f : DbgSt → DbgSt) : (Act.run (.dbg f) s).pick = s.pick := rfl
@[simp] theorem run_dbg_xf (f : DbgSt → DbgSt) : (Act.run (.dbg f) s).xf = s.xf := rfl
@[simp] theorem run_dbg_shu (f : DbgSt → DbgSt) : (Act.run (.dbg f) s).shu = s.shu := rfl
@[simp] theorem run_dbg_iotlb (f : DbgSt → DbgSt) : (Act.run (.dbg f) s).iotlb = s.iotlb := rfl
@[simp] theorem run_dbg_crl (f : DbgSt → DbgSt) : (Act.run (.dbg f) s).crl = s.crl := rfl
@[simp] theorem run_dbg_hrn (f : DbgSt → DbgSt) : (Act.run (.dbg f) s).hrn = s.hrn := rfl
@[simp] theorem run_dbg_mc (f : DbgSt → DbgSt) : (Act.run (.dbg f) s).mc = s.mc := rfl
@[simp] theorem run_dbg_dby (f : DbgSt → DbgSt) : (Act.run (.dbg f) s).dby = s.dby := rfl
@[simp] theorem run_dbg_ras (f : DbgSt → DbgSt) : (Act.run (.dbg f) s).ras = s.ras := rfl
@[simp] theorem run_dbg_pwr (f : DbgSt → DbgSt) : (Act.run (.dbg f) s).pwr = s.pwr := rfl
@[simp] theorem run_dbg_boot (f : DbgSt → DbgSt) : (Act.run (.dbg f) s).boot = s.boot := rfl
@[simp] theorem run_dbg_dbg (f : DbgSt → DbgSt) : (Act.run (.dbg f) s).dbg = f s.dbg := rfl

/-! ### Registers and bytes as they are read -/

/-- A register reads as it was written, without its reserved bits (R10). -/
@[simp] theorem reg_run_reg_same (a : Nat) (v : W64) : (Act.run (.reg a v) s).reg a = v &&& regMask a := by
  simp [State.reg]
/-- A register write leaves every other register alone. -/
theorem reg_run_reg_ne {a b : Nat} (v : W64) (h : b ≠ a) : (Act.run (.reg a v) s).reg b = s.reg b := by
  simp [State.reg, Tab.load_store_ne _ _ _ h]
theorem reg_run_reg (a b : Nat) (v : W64) : (Act.run (.reg a v) s).reg b = if b = a then v &&& regMask a else s.reg b := by
  split
  · next h => subst h; simp
  · next h => exact reg_run_reg_ne s v h
/-- A byte of DRAM reads as it was written. -/
@[simp] theorem byte_run_byte_same (a : Nat) (v : Byte) : (Act.run (.byte a v) s).byte a = v := by
  simp [State.byte, Tab.load, Tab.store]; split <;> simp_all
/-- A byte written leaves every other byte alone. -/
theorem byte_run_byte_ne {a b : Nat} (v : Byte) (h : b ≠ a) : (Act.run (.byte a v) s).byte b = s.byte b := by
  simp [State.byte, Tab.load_store_ne _ _ _ h]
@[simp] theorem reg_run_byte (b : Nat) (v : Byte) (a : Nat) : (Act.run (.byte b v) s).reg a = s.reg a := rfl
@[simp] theorem reg_run_setPoison (l : Nat) (p : Bool) (a : Nat) : (Act.run (.setPoison l p) s).reg a = s.reg a := rfl
@[simp] theorem reg_run_clk (f : Clk → Clk) (a : Nat) : (Act.run (.clk f) s).reg a = s.reg a := rfl
@[simp] theorem reg_run_io (f : IoSt → IoSt) (a : Nat) : (Act.run (.io f) s).reg a = s.reg a := rfl
@[simp] theorem reg_run_fuses (f : Fuses → Fuses) (a : Nat) : (Act.run (.fuses f) s).reg a = s.reg a := rfl
@[simp] theorem reg_run_mesh (f : MeshSt → MeshSt) (a : Nat) : (Act.run (.mesh f) s).reg a = s.reg a := rfl
@[simp] theorem reg_run_core (f : CoreSt → CoreSt) (a : Nat) : (Act.run (.core f) s).reg a = s.reg a := rfl
@[simp] theorem reg_run_cache (f : CacheSt → CacheSt) (a : Nat) : (Act.run (.cache f) s).reg a = s.reg a := rfl
@[simp] theorem reg_run_coh (f : CohSt → CohSt) (a : Nat) : (Act.run (.coh f) s).reg a = s.reg a := rfl
@[simp] theorem reg_run_btn (f : BtnSt → BtnSt) (a : Nat) : (Act.run (.btn f) s).reg a = s.reg a := rfl
@[simp] theorem reg_run_loom (f : LoomSt → LoomSt) (a : Nat) : (Act.run (.loom f) s).reg a = s.reg a := rfl
@[simp] theorem reg_run_drv (f : DrvSt → DrvSt) (a : Nat) : (Act.run (.drv f) s).reg a = s.reg a := rfl
@[simp] theorem reg_run_pick (f : PickSt → PickSt) (a : Nat) : (Act.run (.pick f) s).reg a = s.reg a := rfl
@[simp] theorem reg_run_xf (f : XfSt → XfSt) (a : Nat) : (Act.run (.xf f) s).reg a = s.reg a := rfl
@[simp] theorem reg_run_shu (f : ShuSt → ShuSt) (a : Nat) : (Act.run (.shu f) s).reg a = s.reg a := rfl
@[simp] theorem reg_run_iotlb (f : IotlbSt → IotlbSt) (a : Nat) : (Act.run (.iotlb f) s).reg a = s.reg a := rfl
@[simp] theorem reg_run_crl (f : CrlSt → CrlSt) (a : Nat) : (Act.run (.crl f) s).reg a = s.reg a := rfl
@[simp] theorem reg_run_hrn (f : HrnSt → HrnSt) (a : Nat) : (Act.run (.hrn f) s).reg a = s.reg a := rfl
@[simp] theorem reg_run_mc (f : MemSt → MemSt) (a : Nat) : (Act.run (.mc f) s).reg a = s.reg a := rfl
@[simp] theorem reg_run_dby (f : DbySt → DbySt) (a : Nat) : (Act.run (.dby f) s).reg a = s.reg a := rfl
@[simp] theorem reg_run_ras (f : RasSt → RasSt) (a : Nat) : (Act.run (.ras f) s).reg a = s.reg a := rfl
@[simp] theorem reg_run_pwr (f : PwrSt → PwrSt) (a : Nat) : (Act.run (.pwr f) s).reg a = s.reg a := rfl
@[simp] theorem reg_run_boot (f : BootSt → BootSt) (a : Nat) : (Act.run (.boot f) s).reg a = s.reg a := rfl
@[simp] theorem reg_run_dbg (f : DbgSt → DbgSt) (a : Nat) : (Act.run (.dbg f) s).reg a = s.reg a := rfl
@[simp] theorem byte_run_reg (b : Nat) (v : W64) (a : Nat) : (Act.run (.reg b v) s).byte a = s.byte a := rfl
@[simp] theorem byte_run_setPoison (l : Nat) (p : Bool) (a : Nat) : (Act.run (.setPoison l p) s).byte a = s.byte a := rfl
@[simp] theorem byte_run_clk (f : Clk → Clk) (a : Nat) : (Act.run (.clk f) s).byte a = s.byte a := rfl
@[simp] theorem byte_run_io (f : IoSt → IoSt) (a : Nat) : (Act.run (.io f) s).byte a = s.byte a := rfl
@[simp] theorem byte_run_fuses (f : Fuses → Fuses) (a : Nat) : (Act.run (.fuses f) s).byte a = s.byte a := rfl
@[simp] theorem byte_run_mesh (f : MeshSt → MeshSt) (a : Nat) : (Act.run (.mesh f) s).byte a = s.byte a := rfl
@[simp] theorem byte_run_core (f : CoreSt → CoreSt) (a : Nat) : (Act.run (.core f) s).byte a = s.byte a := rfl
@[simp] theorem byte_run_cache (f : CacheSt → CacheSt) (a : Nat) : (Act.run (.cache f) s).byte a = s.byte a := rfl
@[simp] theorem byte_run_coh (f : CohSt → CohSt) (a : Nat) : (Act.run (.coh f) s).byte a = s.byte a := rfl
@[simp] theorem byte_run_btn (f : BtnSt → BtnSt) (a : Nat) : (Act.run (.btn f) s).byte a = s.byte a := rfl
@[simp] theorem byte_run_loom (f : LoomSt → LoomSt) (a : Nat) : (Act.run (.loom f) s).byte a = s.byte a := rfl
@[simp] theorem byte_run_drv (f : DrvSt → DrvSt) (a : Nat) : (Act.run (.drv f) s).byte a = s.byte a := rfl
@[simp] theorem byte_run_pick (f : PickSt → PickSt) (a : Nat) : (Act.run (.pick f) s).byte a = s.byte a := rfl
@[simp] theorem byte_run_xf (f : XfSt → XfSt) (a : Nat) : (Act.run (.xf f) s).byte a = s.byte a := rfl
@[simp] theorem byte_run_shu (f : ShuSt → ShuSt) (a : Nat) : (Act.run (.shu f) s).byte a = s.byte a := rfl
@[simp] theorem byte_run_iotlb (f : IotlbSt → IotlbSt) (a : Nat) : (Act.run (.iotlb f) s).byte a = s.byte a := rfl
@[simp] theorem byte_run_crl (f : CrlSt → CrlSt) (a : Nat) : (Act.run (.crl f) s).byte a = s.byte a := rfl
@[simp] theorem byte_run_hrn (f : HrnSt → HrnSt) (a : Nat) : (Act.run (.hrn f) s).byte a = s.byte a := rfl
@[simp] theorem byte_run_mc (f : MemSt → MemSt) (a : Nat) : (Act.run (.mc f) s).byte a = s.byte a := rfl
@[simp] theorem byte_run_dby (f : DbySt → DbySt) (a : Nat) : (Act.run (.dby f) s).byte a = s.byte a := rfl
@[simp] theorem byte_run_ras (f : RasSt → RasSt) (a : Nat) : (Act.run (.ras f) s).byte a = s.byte a := rfl
@[simp] theorem byte_run_pwr (f : PwrSt → PwrSt) (a : Nat) : (Act.run (.pwr f) s).byte a = s.byte a := rfl
@[simp] theorem byte_run_boot (f : BootSt → BootSt) (a : Nat) : (Act.run (.boot f) s).byte a = s.byte a := rfl
@[simp] theorem byte_run_dbg (f : DbgSt → DbgSt) (a : Nat) : (Act.run (.dbg f) s).byte a = s.byte a := rfl

end Sys2Proof.Machine
end

