-- ==== Sys2Proof/Laws/Frame.lean ====
section
/-! SUPPORT. What an effect can change. `Act.Leaves L a` says that every elementary effect in the tree of `a`, whatever
states it meets, satisfies `L`; with `L` "leaves `g` as it is" an effect leaves `g` as it is. Each shared operation has one
lemma here, which names the elementary effects that it consists of. -/

set_option Elab.async false

namespace Sys2Proof.Machine

/-- Every elementary effect of `a` satisfies `L`. -/
def Act.Leaves (L : Act → Prop) (a : Act) : Prop :=
  match a with
  | .skip => True
  | .seq a b => Act.Leaves L a ∧ Act.Leaves L b
  | .read k => ∀ s, Act.Leaves L (k s)
  | a => L a

/-- An effect leaves `g` as it is. -/
def Act.Fixes {α : Type} (g : State → α) (a : Act) : Prop := ∀ s, g (a.run s) = g s

variable {L : Act → Prop}

@[simp] theorem leaves_skip : Act.Leaves L .skip := trivial
@[simp] theorem leaves_seq {a b : Act} : Act.Leaves L (.seq a b) ↔ Act.Leaves L a ∧ Act.Leaves L b := Iff.rfl
@[simp] theorem leaves_read {k : State → Act} : Act.Leaves L (.read k) ↔ ∀ s, Act.Leaves L (k s) := Iff.rfl
@[simp] theorem leaves_reg {a : Nat} {v : W64} : Act.Leaves L (.reg a v) ↔ L (.reg a v) := Iff.rfl
@[simp] theorem leaves_byte {a : Nat} {v : Byte} : Act.Leaves L (.byte a v) ↔ L (.byte a v) := Iff.rfl
@[simp] theorem leaves_setPoison {l : Nat} {p : Bool} : Act.Leaves L (.setPoison l p) ↔ L (.setPoison l p) := Iff.rfl
@[simp] theorem leaves_clk {f} : Act.Leaves L (.clk f) ↔ L (.clk f) := Iff.rfl
@[simp] theorem leaves_io {f} : Act.Leaves L (.io f) ↔ L (.io f) := Iff.rfl
@[simp] theorem leaves_fuses {f} : Act.Leaves L (.fuses f) ↔ L (.fuses f) := Iff.rfl
@[simp] theorem leaves_mesh {f} : Act.Leaves L (.mesh f) ↔ L (.mesh f) := Iff.rfl
@[simp] theorem leaves_core {f} : Act.Leaves L (.core f) ↔ L (.core f) := Iff.rfl
@[simp] theorem leaves_cache {f} : Act.Leaves L (.cache f) ↔ L (.cache f) := Iff.rfl
@[simp] theorem leaves_coh {f} : Act.Leaves L (.coh f) ↔ L (.coh f) := Iff.rfl
@[simp] theorem leaves_btn {f} : Act.Leaves L (.btn f) ↔ L (.btn f) := Iff.rfl
@[simp] theorem leaves_loom {f} : Act.Leaves L (.loom f) ↔ L (.loom f) := Iff.rfl
@[simp] theorem leaves_drv {f} : Act.Leaves L (.drv f) ↔ L (.drv f) := Iff.rfl
@[simp] theorem leaves_pick {f} : Act.Leaves L (.pick f) ↔ L (.pick f) := Iff.rfl
@[simp] theorem leaves_xf {f} : Act.Leaves L (.xf f) ↔ L (.xf f) := Iff.rfl
@[simp] theorem leaves_shu {f} : Act.Leaves L (.shu f) ↔ L (.shu f) := Iff.rfl
@[simp] theorem leaves_iotlb {f} : Act.Leaves L (.iotlb f) ↔ L (.iotlb f) := Iff.rfl
@[simp] theorem leaves_crl {f} : Act.Leaves L (.crl f) ↔ L (.crl f) := Iff.rfl
@[simp] theorem leaves_hrn {f} : Act.Leaves L (.hrn f) ↔ L (.hrn f) := Iff.rfl
@[simp] theorem leaves_mc {f} : Act.Leaves L (.mc f) ↔ L (.mc f) := Iff.rfl
@[simp] theorem leaves_dby {f} : Act.Leaves L (.dby f) ↔ L (.dby f) := Iff.rfl
@[simp] theorem leaves_ras {f} : Act.Leaves L (.ras f) ↔ L (.ras f) := Iff.rfl
@[simp] theorem leaves_pwr {f} : Act.Leaves L (.pwr f) ↔ L (.pwr f) := Iff.rfl
@[simp] theorem leaves_boot {f} : Act.Leaves L (.boot f) ↔ L (.boot f) := Iff.rfl
@[simp] theorem leaves_dbg {f} : Act.Leaves L (.dbg f) ↔ L (.dbg f) := Iff.rfl
@[simp] theorem leaves_all_nil : Act.Leaves L (.all []) := trivial
@[simp] theorem leaves_all_cons {a : Act} {l : List Act} :
    Act.Leaves L (.all (a :: l)) ↔ Act.Leaves L a ∧ Act.Leaves L (.all l) := Iff.rfl
/-- Effects one after another. -/
theorem leaves_all {l : List Act} (h : ∀ a ∈ l, Act.Leaves L a) : Act.Leaves L (.all l) := by
  induction l with
  | nil => trivial
  | cons a r ih => exact ⟨h a (by simp), ih fun b hb => h b (by simp [hb])⟩
/-- The same effect for each member of a list. -/
theorem leaves_each {α : Type} {l : List α} {f : α → Act} (h : ∀ x, Act.Leaves L (f x)) : Act.Leaves L (.each l f) :=
  leaves_all fun a ha => by
    obtain ⟨x, -, rfl⟩ := List.mem_map.mp ha
    exact h x
/-- The same, with what is known of the members. -/
theorem leaves_each_mem {α : Type} {l : List α} {f : α → Act} (h : ∀ x ∈ l, Act.Leaves L (f x)) :
    Act.Leaves L (.each l f) :=
  leaves_all fun a ha => by
    obtain ⟨x, hx, rfl⟩ := List.mem_map.mp ha
    exact h x hx
theorem leaves_when {c : Bool} {a : Act} (h : Act.Leaves L a) : Act.Leaves L (.when c a) := by
  cases c
  · trivial
  · exact h
theorem leaves_ite {c : Prop} [Decidable c] {a b : Act} (ha : Act.Leaves L a) (hb : Act.Leaves L b) :
    Act.Leaves L (if c then a else b) := by
  split
  · exact ha
  · exact hb
/-- What holds of fewer effects holds of more. -/
theorem Act.Leaves.mono {M : Act → Prop} (h : ∀ a, L a → M a) : ∀ {a : Act}, Act.Leaves L a → Act.Leaves M a := by
  intro a
  induction a with
  | skip => exact id
  | seq a b iha ihb => exact fun x => ⟨iha x.1, ihb x.2⟩
  | read k ih => exact fun x s => ih s (x s)
  | _ => exact fun x => h _ x
/-- An effect whose elementary effects leave `g` as it is leaves it as it is. -/
theorem Act.Leaves.fixes {α : Type} {g : State → α} {a : Act} (h : Act.Leaves (Act.Fixes g) a) : Act.Fixes g a := by
  induction a with
  | skip => exact fun _ => rfl
  | seq a b iha ihb => exact fun s => (ihb h.2 _).trans (iha h.1 s)
  | read k ih => exact fun s => ih s (h s) s
  | _ => exact h
/-- No effect touches the queue. -/
theorem Act.run_pending (a : Act) : ∀ s : State, (a.run s).pending = s.pending := by
  induction a with
  | seq a b iha ihb => exact fun s => (ihb _).trans (iha s)
  | read k ih => exact fun s => ih s s
  | _ => exact fun _ => rfl

end Sys2Proof.Machine
end

