-- ==== Sys2Proof/Laws/Field.lean ====
section
/-! SUPPORT. The fields of registers: what a field reads after a write to it or beside it, and how the fields of a register are
found in the register map. -/

set_option Elab.async false

namespace Sys2Proof.Machine

/-- Bits of a word that a mask covers wholly survive the mask. -/
theorem Fld.get_bits (f : Fld) (w : W64) (_h : f.lo + f.wid ≤ 64) :
    f.get w = (w.extractLsb' f.lo f.wid).toNat := by
  simp [Fld.get, BitVec.extractLsb', Nat.shiftRight_eq_div_pow]
/-- A field's mask, bit by bit. -/
theorem Fld.mask_bit (f : Fld) (i : Nat) (hi : i < 64) :
    f.mask.getLsbD i = (decide (f.lo ≤ i) && decide (i < f.lo + f.wid)) := by
  simp only [Fld.mask, BitVec.getLsbD_ofNat, hi, decide_true, Bool.true_and, Nat.testBit_mul_two_pow,
    Nat.testBit_two_pow_sub_one]
  by_cases h : f.lo ≤ i
  · simp only [h, decide_true, Bool.true_and, decide_eq_decide]; omega
  · simp [h]
/-- A field's bits are not changed by a mask that covers it. -/
theorem Fld.get_and (f : Fld) (w m : W64) (h : f.lo + f.wid ≤ 64) (hm : f.mask &&& ~~~m = 0) :
    f.get (w &&& m) = f.get w := by
  rw [Fld.get_bits _ _ h, Fld.get_bits _ _ h]
  congr 1
  ext i hi
  have hb : (f.mask &&& ~~~m).getLsbD (f.lo + i) = false := by rw [hm]; simp
  have hk : f.mask.getLsbD (f.lo + i) = true := by
    rw [Fld.mask_bit _ _ (by omega)]; simp; omega
  simp only [BitVec.getLsbD_and, hk, Bool.true_and, BitVec.getLsbD_not] at hb
  have h64 : f.lo + i < 64 := by omega
  simp only [h64, decide_true, Bool.true_and, Bool.not_eq_false'] at hb
  simp only [BitVec.getElem_extractLsb', BitVec.getLsbD_and, hb, Bool.and_true]
/-- A field reads what was put in it. -/
theorem Fld.get_put (f : Fld) (w : W64) (v : Nat) (h : f.lo + f.wid ≤ 64) : f.get (f.put w v) = v % 2 ^ f.wid := by
  have e : f.get (f.put w v) = ((BitVec.ofNat 64 (v % 2 ^ f.wid * 2 ^ f.lo)).extractLsb' f.lo f.wid).toNat := by
    rw [Fld.get_bits _ _ h]
    congr 1
    ext i hi
    have hk : f.mask.getLsbD (f.lo + i) = true := by
      rw [Fld.mask_bit _ _ (by omega)]; simp; omega
    simp [Fld.put, BitVec.getElem_extractLsb', BitVec.getLsbD_or, BitVec.getLsbD_and, hk]
  rw [e]
  have hp : v % 2 ^ f.wid * 2 ^ f.lo < 2 ^ 64 := by
    have h1 : v % 2 ^ f.wid < 2 ^ f.wid := Nat.mod_lt _ (Nat.two_pow_pos _)
    calc v % 2 ^ f.wid * 2 ^ f.lo < 2 ^ f.wid * 2 ^ f.lo := Nat.mul_lt_mul_of_pos_right h1 (Nat.two_pow_pos _)
      _ = 2 ^ (f.wid + f.lo) := by rw [Nat.pow_add]
      _ ≤ 2 ^ 64 := Nat.pow_le_pow_right (by decide) (by omega)
  rw [BitVec.extractLsb'_toNat, BitVec.toNat_ofNat, Nat.mod_eq_of_lt hp, Nat.shiftRight_eq_div_pow,
    Nat.mul_div_cancel _ (Nat.two_pow_pos f.lo), Nat.mod_mod]
/-- A field keeps its value when another, disjoint field is put. -/
theorem Fld.get_put_other (f g : Fld) (w : W64) (v : Nat) (hf : f.lo + f.wid ≤ 64)
    (hd : f.lo + f.wid ≤ g.lo ∨ g.lo + g.wid ≤ f.lo) : f.get (g.put w v) = f.get w := by
  rw [Fld.get_bits _ _ hf, Fld.get_bits _ _ hf]
  congr 1
  ext i hi
  have hk : g.mask.getLsbD (f.lo + i) = false := by
    rw [Fld.mask_bit _ _ (by omega)]; simp; omega
  have hz : (BitVec.ofNat 64 (v % 2 ^ g.wid * 2 ^ g.lo)).getLsbD (f.lo + i) = false := by
    rw [BitVec.getLsbD_ofNat, Nat.testBit_mul_two_pow]
    by_cases h : g.lo ≤ f.lo + i
    · have : (v % 2 ^ g.wid).testBit (f.lo + i - g.lo) = false :=
        Nat.testBit_lt_two_pow (Nat.lt_of_lt_of_le (Nat.mod_lt _ (Nat.two_pow_pos _))
          (Nat.pow_le_pow_right (by decide) (by omega)))
      rw [this, Bool.and_false, Bool.and_false]
    · rw [decide_eq_false h, Bool.false_and, Bool.and_false]
  have h64 : f.lo + i < 64 := by omega
  simp only [Fld.put, BitVec.getElem_extractLsb', BitVec.getLsbD_or, BitVec.getLsbD_and, BitVec.getLsbD_not, hk, hz, h64]
  simp

/-- A field of a register just written. -/
theorem get_reg (s : State) (a : Nat) (v : W64) (f : Fld) (h : f.lo + f.wid ≤ 64) (hm : f.mask &&& ~~~regMask a = 0) :
    (Act.run (.reg a v) s).get a f = f.get v := by
  simp [State.get, Fld.get_and f v _ h hm]
/-- A field of another register. -/
theorem get_reg_ne (s : State) {a b : Nat} (v : W64) (f : Fld) (h : a ≠ b) :
    (Act.run (.reg a v) s).get b f = s.get b f := by
  simp [State.get, reg_run_reg_ne s v (Ne.symm h)]
/-- A field just set. -/
theorem get_setF (s : State) (a : Nat) (f : Fld) (v : Nat) (h : f.lo + f.wid ≤ 64) (hm : f.mask &&& ~~~regMask a = 0) :
    (Act.run (setF a f v) s).get a f = v % 2 ^ f.wid := by
  simp only [setF, run_read]; rw [get_reg _ _ _ _ h hm, Fld.get_put _ _ _ h]
/-- A field beside the one just set. -/
theorem get_setF_other (s : State) (a : Nat) (f g : Fld) (v : Nat) (hf : f.lo + f.wid ≤ 64)
    (hd : f.lo + f.wid ≤ g.lo ∨ g.lo + g.wid ≤ f.lo) (hm : f.mask &&& ~~~regMask a = 0) :
    (Act.run (setF a g v) s).get a f = s.get a f := by
  simp only [setF, run_read]; rw [get_reg _ _ _ _ hf hm, Fld.get_put_other _ _ _ _ hf hd]; rfl
/-- A field of another register. -/
theorem get_setF_ne (s : State) {a b : Nat} (f g : Fld) (v : Nat) (h : a ≠ b) :
    (Act.run (setF a g v) s).get b f = s.get b f := by
  simp only [setF, run_read]; exact get_reg_ne _ _ _ h

/-- A counter counts one and stops at its maximum. -/
theorem bump_toNat (s : State) (a : Nat) (h : regMask a = BitVec.allOnes 64) :
   (((bump a).run s).reg a).toNat = min ((s.reg a).toNat + 1) (2^64-1) := by
  simp only [bump, addTo, run_read]
  rw [reg_run_reg_same, h]
  have : (BitVec.ofNat 64 (min ((s.reg a).toNat + 1) (2 ^ 64 - 1)) &&& BitVec.allOnes 64) = BitVec.ofNat 64 (min ((s.reg a).toNat + 1) (2 ^ 64 - 1)) := BitVec.and_allOnes
  rw [this, BitVec.toNat_ofNat, Nat.mod_eq_of_lt (by omega)]

/-! ### Which bits hold fields -/

/-- The mask of a field list. -/
def maskOf (l : List FieldDef) : W64 := l.foldl (fun m d => m ||| d.fld.mask) 0
/-- The fields at an offset of a register list. -/
def fieldsAt (l : List RegDef) (o : Nat) : List FieldDef :=
  match l.find? (·.hits o) with
  | none => []
  | some d => d.fields
/-- The last offset that a definition reaches, from its first. -/
def RegDef.span (d : RegDef) : Nat := (d.n1 - 1) * d.s1 + (d.n2 - 1) * d.s2
/-- The distance of the registers of a definition, inside its innermost array. -/
def RegDef.gap (d : RegDef) : Nat := if d.n2 = 0 then d.s1 else d.s2
/-- Arrays whose rows hold whole inner arrays. -/
def RegDef.neat (d : RegDef) : Bool := decide (d.s1 % d.gap = 0)
/-- Two definitions that share no offset: they lie apart, or are arrays of one spacing on different places. -/
def RegDef.apart (e d : RegDef) : Bool :=
  decide (e.off + e.span < d.off) || decide (d.off + d.span < e.off) ||
    (decide (e.n1 ≠ 0) && decide (d.n1 ≠ 0) && e.neat && d.neat && decide (e.gap = d.gap) &&
      decide (e.off % d.gap ≠ d.off % d.gap))
/-- A definition reaches no offset beyond its span. -/
theorem RegDef.hits_le {d : RegDef} {o : Nat} (h : d.hits o = true) : d.off ≤ o ∧ o ≤ d.off + d.span := by
  simp only [RegDef.hits, Bool.and_eq_true, decide_eq_true_eq] at h
  refine ⟨h.1, ?_⟩
  have h2 := h.2
  unfold RegDef.span
  split at h2
  · simp at h2; omega
  · rw [Bool.and_eq_true, decide_eq_true_eq] at h2
    have hd := Nat.div_add_mod (o - d.off) d.s1
    have hq : (o - d.off) / d.s1 * d.s1 ≤ (d.n1 - 1) * d.s1 := Nat.mul_le_mul_right _ (by omega)
    have hq' : d.s1 * ((o - d.off) / d.s1) = (o - d.off) / d.s1 * d.s1 := Nat.mul_comm _ _
    have h3 := h2.2
    split at h3
    · simp at h3; omega
    · rw [Bool.and_eq_true, decide_eq_true_eq] at h3
      have he := Nat.div_add_mod ((o - d.off) % d.s1) d.s2
      have hr : (o - d.off) % d.s1 / d.s2 * d.s2 ≤ (d.n2 - 1) * d.s2 := Nat.mul_le_mul_right _ (by omega)
      have hr' : d.s2 * ((o - d.off) % d.s1 / d.s2) = (o - d.off) % d.s1 / d.s2 * d.s2 := Nat.mul_comm _ _
      have h4 : (o - d.off) % d.s1 % d.s2 = 0 := by simpa using h3.2
      omega
/-- The registers of an array lie whole gaps from its first. -/
theorem RegDef.hits_gap {d : RegDef} {o : Nat} (h : d.hits o = true) (hn : d.n1 ≠ 0) (hs : d.neat = true) :
    (o - d.off) % d.gap = 0 := by
  simp only [RegDef.hits, Bool.and_eq_true, decide_eq_true_eq, hn, if_false] at h
  simp only [RegDef.neat, decide_eq_true_eq] at hs
  have h3 := h.2.2
  unfold RegDef.gap at hs ⊢
  split at h3
  · rename_i h0; simp only [h0, if_true]; simpa using h3
  · rename_i h0
    simp only [h0, if_false] at hs ⊢
    rw [Bool.and_eq_true] at h3
    have h4 : (o - d.off) % d.s1 % d.s2 = 0 := by simpa using h3.2
    rwa [Nat.mod_mod_of_dvd _ (Nat.dvd_of_mod_eq_zero hs)] at h4
/-- Definitions that lie apart hit no common offset. -/
theorem RegDef.apart_hits {e d : RegDef} {o : Nat} (ha : e.apart d = true) (h : d.hits o = true) : e.hits o = false := by
  cases he : e.hits o with
  | false => rfl
  | true =>
    exfalso
    have h1 := RegDef.hits_le h
    have h2 := RegDef.hits_le he
    simp only [RegDef.apart, Bool.or_eq_true, Bool.and_eq_true, decide_eq_true_eq] at ha
    rcases ha with (ha | ha) | ha
    · omega
    · omega
    · obtain ⟨⟨⟨⟨⟨n1, n2⟩, g1⟩, g2⟩, ge⟩, gn⟩ := ha
      have hg := RegDef.hits_gap he n1 g1
      have hk := RegDef.hits_gap h n2 g2
      rw [ge] at hg
      have e1 : o % d.gap = e.off % d.gap := by
        have : o = e.off + (o - e.off) := by omega
        rw [this, Nat.add_mod, hg, Nat.add_zero, Nat.mod_mod]
      have e2 : o % d.gap = d.off % d.gap := by
        have : o = d.off + (o - d.off) := by omega
        rw [this, Nat.add_mod, hk, Nat.add_zero, Nat.mod_mod]
      exact gn (e1.symm.trans e2)
/-- A row of registers hits the places of its members. -/
theorem RegDef.hits_row {off n1 s1 i : Nat} {fs : List FieldDef} (hs : 0 < s1) (hi : i < n1) :
    RegDef.hits ⟨off, n1, s1, 0, 0, fs⟩ (off + s1 * i) = true := by
  have h0 : n1 ≠ 0 := by omega
  have h1 : off + s1 * i - off = s1 * i := by omega
  simp [RegDef.hits, h0, h1, Nat.mul_div_cancel_left _ hs, hi]
/-- A grid of registers hits the places of its members. -/
theorem RegDef.hits_grid {off n1 s1 n2 s2 i j : Nat} {fs : List FieldDef} (hs : 0 < s2) (hn : 0 < n2)
    (hc : n2 * s2 ≤ s1) (hi : i < n1) (hj : j < n2) :
    RegDef.hits ⟨off, n1, s1, n2, s2, fs⟩ (off + s1 * i + s2 * j) = true := by
  have h0 : n1 ≠ 0 := by omega
  have h2 : n2 ≠ 0 := by omega
  have hb : s2 * j < s1 := by
    have : s2 * j < n2 * s2 := by rw [Nat.mul_comm n2]; exact Nat.mul_lt_mul_of_pos_left hj hs
    omega
  have h1 : off + s1 * i + s2 * j - off = s2 * j + s1 * i := by omega
  have hd : (s2 * j + s1 * i) / s1 = i := by
    rw [Nat.add_mul_div_left _ _ (by omega), Nat.div_eq_of_lt hb, Nat.zero_add]
  have hm : (s2 * j + s1 * i) % s1 = s2 * j := by rw [Nat.add_mul_mod_self_left, Nat.mod_eq_of_lt hb]
  have ho : off ≤ off + s1 * i + s2 * j := by omega
  simp [RegDef.hits, h0, h2, h1, hd, hm, hi, hj, ho, Nat.mul_div_cancel_left _ hs]
/-- The definition that hits an offset is found behind definitions that lie apart from it. -/
theorem fieldsAt_apart {pre post : List RegDef} {d : RegDef} {o : Nat} (hp : pre.all (·.apart d) = true)
    (h : d.hits o = true) : fieldsAt (pre ++ d :: post) o = d.fields := by
  have : (pre ++ d :: post).find? (·.hits o) = some d := by
    induction pre with
    | nil => simp [h]
    | cons e r ih =>
      simp only [List.all_cons, Bool.and_eq_true] at hp
      simp only [List.cons_append, List.find?_cons, RegDef.apart_hits hp.1 h]
      exact ih hp.2
  simp only [fieldsAt, this]

/-- The bits of a register by the place of its address. -/
theorem regMask_of {a o : Nat} {l : List RegDef} (h : regSpace a = some (l, o)) : regMask a = maskOf (fieldsAt l o) := by
  unfold regMask regFields; rw [h]; rfl

/-- Per-node registers below the bank. -/
theorem regMask_node (n o : Nat) (hn : n < 224) (ho : o < 0xE00) : regMask (nodeBase n + o) = maskOf (fieldsAt nodeDefs o) := by
  have h1 : ¬ (0xE00000000000 ≤ nodeBase n + o ∧ nodeBase n + o < 0xE00100000000) := by simp only [nodeBase]; omega
  have h2 : 0xE10000000000 ≤ nodeBase n + o ∧ nodeBase n + o < 0xE1000E000000 := by simp only [nodeBase]; omega
  have h3 : (nodeBase n + o - 0xE10000000000) % 0x100000 = o := by simp only [nodeBase]; omega
  have h4 : ¬ (0xE00 ≤ o ∧ o < 0xF40) := by omega
  exact regMask_of (by unfold regSpace; rw [if_neg h1, if_pos h2]; simp only [h3, h4, if_false])
/-- Registers of a block below its bank. -/
theorem regMask_block (b o : Nat) (l : List RegDef) (hb : b < 0x100) (hl : blockDefs b = some l) (ho : o < 0xF00000) :
    regMask (blockBase b + o) = maskOf (fieldsAt l o) := by
  have h1 : 0xE00000000000 ≤ blockBase b + o ∧ blockBase b + o < 0xE00100000000 := by simp only [blockBase]; omega
  have h2 : (blockBase b + o - 0xE00000000000) / 0x1000000 = b := by simp only [blockBase]; omega
  have h3 : (blockBase b + o - 0xE00000000000) % 0x1000000 = o := by simp only [blockBase]; omega
  have h4 : ¬ 0xF00000 ≤ o := by omega
  exact regMask_of (by unfold regSpace; rw [if_pos h1]; simp only [h2, h3, hl, h4, if_false])
/-- Registers of a doorbell page. -/
theorem regMask_page (f o : Nat) (hf : f < 8193) (ho : o < 0x10000) : regMask (pageBase f + o) = maskOf (fieldsAt pageDefs o) := by
  have h1 : ¬ (0xE00000000000 ≤ pageBase f + o ∧ pageBase f + o < 0xE00100000000) := by simp only [pageBase]; omega
  have h2 : ¬ (0xE10000000000 ≤ pageBase f + o ∧ pageBase f + o < 0xE1000E000000) := by simp only [pageBase]; omega
  have h3 : 0xE20000000000 ≤ pageBase f + o ∧ pageBase f + o < 0xE20020010000 := by simp only [pageBase]; omega
  have h4 : (pageBase f + o - 0xE20000000000) % 0x10000 = o := by simp only [pageBase]; omega
  exact regMask_of (by unfold regSpace; rw [if_neg h1, if_neg h2, if_pos h3]; simp only [h4])
/-- Registers of a bank of a block. -/
theorem regMask_blockBank (b o : Nat) (l : List RegDef) (hb : b < 0x100) (hl : blockDefs b = some l) (ho : o < 0x100000) :
    regMask (blockBank b + o) = maskOf (fieldsAt bankDefs o) := by
  have h1 : 0xE00000000000 ≤ blockBank b + o ∧ blockBank b + o < 0xE00100000000 := by
    simp only [blockBank, blockBase]; omega
  have h2 : (blockBank b + o - 0xE00000000000) / 0x1000000 = b := by simp only [blockBank, blockBase]; omega
  have h3 : (blockBank b + o - 0xE00000000000) % 0x1000000 = 0xF00000 + o := by simp only [blockBank, blockBase]; omega
  have h4 : 0xF00000 ≤ 0xF00000 + o := by omega
  have h5 : 0xF00000 + o - 0xF00000 = o := by omega
  exact regMask_of (by unfold regSpace; rw [if_pos h1]; simp only [h2, h3, hl, h4, h5, if_true])
/-- Registers of a bank of a node. -/
theorem regMask_nodeBank (n o : Nat) (hn : n < 224) (ho : o < 0x140) :
    regMask (nodeBank n + o) = maskOf (fieldsAt bankDefs o) := by
  have h1 : ¬ (0xE00000000000 ≤ nodeBank n + o ∧ nodeBank n + o < 0xE00100000000) := by
    simp only [nodeBank, nodeBase]; omega
  have h2 : 0xE10000000000 ≤ nodeBank n + o ∧ nodeBank n + o < 0xE1000E000000 := by simp only [nodeBank, nodeBase]; omega
  have h3 : (nodeBank n + o - 0xE10000000000) % 0x100000 = 0xE00 + o := by simp only [nodeBank, nodeBase]; omega
  have h4 : 0xE00 ≤ 0xE00 + o ∧ 0xE00 + o < 0xF40 := by omega
  have h5 : 0xE00 + o - 0xE00 = o := by omega
  exact regMask_of (by unfold regSpace; rw [if_neg h1, if_pos h2]; simp only [h3, h4, h5, and_self, if_true])

end Sys2Proof.Machine
end

