-- ==== Sys2Proof/Laws/Regs.lean ====
section
/-! SUPPORT. Which bits of each register hold fields (Table 0.5, R10). Written by a script from the register map. -/

set_option Elab.async false

namespace Sys2Proof.Machine

@[simp] theorem mask_MESH_NODE_INFO (n : Nat) (hn : n < 224) : regMask (MESH_NODE_INFO n) = 0x7FF03FF73FF#64 := by
  have e : MESH_NODE_INFO n = nodeBase n + (0x0) := by unfold MESH_NODE_INFO; first | rfl | (simp only [blockBase]; omega) | omega
  rw [e, regMask_node _ _ hn (by omega)]; rfl
@[simp] theorem mask_MESH_FENCE_CTL (n : Nat) (hn : n < 224) : regMask (MESH_FENCE_CTL n) = 0x7#64 := by
  have e : MESH_FENCE_CTL n = nodeBase n + (0x8) := by unfold MESH_FENCE_CTL; first | rfl | (simp only [blockBase]; omega) | omega
  rw [e, regMask_node _ _ hn (by omega)]; rfl
@[simp] theorem mask_MESH_FENCE_STAT (n : Nat) (hn : n < 224) : regMask (MESH_FENCE_STAT n) = 0xFFFF0F#64 := by
  have e : MESH_FENCE_STAT n = nodeBase n + (0x10) := by unfold MESH_FENCE_STAT; first | rfl | (simp only [blockBase]; omega) | omega
  rw [e, regMask_node _ _ hn (by omega)]; rfl
@[simp] theorem mask_MESH_RTR_DEFL (n : Nat) (hn : n < 224) : regMask (MESH_RTR_DEFL n) = 0xFFFFFFFFFFFFFFFF#64 := by
  have e : MESH_RTR_DEFL n = nodeBase n + (0x100) := by unfold MESH_RTR_DEFL; first | rfl | (simp only [blockBase]; omega) | omega
  rw [e, regMask_node _ _ hn (by omega)]; rfl
@[simp] theorem mask_MESH_RTR_INJWAIT (n : Nat) (hn : n < 224) : regMask (MESH_RTR_INJWAIT n) = 0xFFFFFFFFFFFFFFFF#64 := by
  have e : MESH_RTR_INJWAIT n = nodeBase n + (0x108) := by unfold MESH_RTR_INJWAIT; first | rfl | (simp only [blockBase]; omega) | omega
  rw [e, regMask_node _ _ hn (by omega)]; rfl
@[simp] theorem mask_MESH_RTR_STARVE (n : Nat) (hn : n < 224) : regMask (MESH_RTR_STARVE n) = 0xFFFFFFFFFFFFFFFF#64 := by
  have e : MESH_RTR_STARVE n = nodeBase n + (0x110) := by unfold MESH_RTR_STARVE; first | rfl | (simp only [blockBase]; omega) | omega
  rw [e, regMask_node _ _ hn (by omega)]; rfl
@[simp] theorem mask_MESH_RTR_EJFULL (n : Nat) (hn : n < 224) : regMask (MESH_RTR_EJFULL n) = 0xFFFFFFFFFFFFFFFF#64 := by
  have e : MESH_RTR_EJFULL n = nodeBase n + (0x118) := by unfold MESH_RTR_EJFULL; first | rfl | (simp only [blockBase]; omega) | omega
  rw [e, regMask_node _ _ hn (by omega)]; rfl
@[simp] theorem mask_MESH_RTR_FENCED (n : Nat) (hn : n < 224) : regMask (MESH_RTR_FENCED n) = 0xFFFFFFFFFFFFFFFF#64 := by
  have e : MESH_RTR_FENCED n = nodeBase n + (0x120) := by unfold MESH_RTR_FENCED; first | rfl | (simp only [blockBase]; omega) | omega
  rw [e, regMask_node _ _ hn (by omega)]; rfl
@[simp] theorem mask_MESH_RTR_CE (n : Nat) (hn : n < 224) : regMask (MESH_RTR_CE n) = 0xFFFFFFFFFFFFFFFF#64 := by
  have e : MESH_RTR_CE n = nodeBase n + (0x128) := by unfold MESH_RTR_CE; first | rfl | (simp only [blockBase]; omega) | omega
  rw [e, regMask_node _ _ hn (by omega)]; rfl
@[simp] theorem mask_MESH_RTR_LATE (n : Nat) (hn : n < 224) : regMask (MESH_RTR_LATE n) = 0xFFFFFFFFFFFFFFFF#64 := by
  have e : MESH_RTR_LATE n = nodeBase n + (0x130) := by unfold MESH_RTR_LATE; first | rfl | (simp only [blockBase]; omega) | omega
  rw [e, regMask_node _ _ hn (by omega)]; rfl
@[simp] theorem mask_LLC_CFG (n : Nat) (hn : n < 224) : regMask (LLC_CFG n) = 0xFF0F#64 := by
  have e : LLC_CFG n = nodeBase n + (0x200) := by unfold LLC_CFG; first | rfl | (simp only [blockBase]; omega) | omega
  rw [e, regMask_node _ _ hn (by omega)]; rfl
@[simp] theorem mask_LLC_STAT (n : Nat) (hn : n < 224) : regMask (LLC_STAT n) = 0x7F3FFF1FFF1FFF#64 := by
  have e : LLC_STAT n = nodeBase n + (0x208) := by unfold LLC_STAT; first | rfl | (simp only [blockBase]; omega) | omega
  rw [e, regMask_node _ _ hn (by omega)]; rfl
@[simp] theorem mask_CORE_PF_CFG (n : Nat) (hn : n < 224) : regMask (CORE_PF_CFG n) = 0x1F0F#64 := by
  have e : CORE_PF_CFG n = nodeBase n + (0x300) := by unfold CORE_PF_CFG; first | rfl | (simp only [blockBase]; omega) | omega
  rw [e, regMask_node _ _ hn (by omega)]; rfl
@[simp] theorem mask_LLC_HIT (n : Nat) (hn : n < 224) : regMask (LLC_HIT n) = 0xFFFFFFFFFFFFFFFF#64 := by
  have e : LLC_HIT n = nodeBase n + (0x280) := by unfold LLC_HIT; first | rfl | (simp only [blockBase]; omega) | omega
  rw [e, regMask_node _ _ hn (by omega)]; rfl
@[simp] theorem mask_LLC_MISS (n : Nat) (hn : n < 224) : regMask (LLC_MISS n) = 0xFFFFFFFFFFFFFFFF#64 := by
  have e : LLC_MISS n = nodeBase n + (0x288) := by unfold LLC_MISS; first | rfl | (simp only [blockBase]; omega) | omega
  rw [e, regMask_node _ _ hn (by omega)]; rfl
@[simp] theorem mask_LLC_CE (n : Nat) (hn : n < 224) : regMask (LLC_CE n) = 0xFFFFFFFFFFFFFFFF#64 := by
  have e : LLC_CE n = nodeBase n + (0x290) := by unfold LLC_CE; first | rfl | (simp only [blockBase]; omega) | omega
  rw [e, regMask_node _ _ hn (by omega)]; rfl
@[simp] theorem mask_LLC_TAG_REBUILD (n : Nat) (hn : n < 224) : regMask (LLC_TAG_REBUILD n) = 0xFFFFFFFFFFFFFFFF#64 := by
  have e : LLC_TAG_REBUILD n = nodeBase n + (0x298) := by unfold LLC_TAG_REBUILD; first | rfl | (simp only [blockBase]; omega) | omega
  rw [e, regMask_node _ _ hn (by omega)]; rfl
@[simp] theorem mask_LLC_NL_PF_CNT (n : Nat) (hn : n < 224) : regMask (LLC_NL_PF_CNT n) = 0xFFFFFFFFFFFFFFFF#64 := by
  have e : LLC_NL_PF_CNT n = nodeBase n + (0x2A0) := by unfold LLC_NL_PF_CNT; first | rfl | (simp only [blockBase]; omega) | omega
  rw [e, regMask_node _ _ hn (by omega)]; rfl
@[simp] theorem mask_LLC_TAG_WAIT (n : Nat) (hn : n < 224) : regMask (LLC_TAG_WAIT n) = 0xFFFFFFFFFFFFFFFF#64 := by
  have e : LLC_TAG_WAIT n = nodeBase n + (0x2A8) := by unfold LLC_TAG_WAIT; first | rfl | (simp only [blockBase]; omega) | omega
  rw [e, regMask_node _ _ hn (by omega)]; rfl
@[simp] theorem mask_CORE_L1D_MISS (n : Nat) (hn : n < 224) : regMask (CORE_L1D_MISS n) = 0xFFFFFFFFFFFFFFFF#64 := by
  have e : CORE_L1D_MISS n = nodeBase n + (0x380) := by unfold CORE_L1D_MISS; first | rfl | (simp only [blockBase]; omega) | omega
  rw [e, regMask_node _ _ hn (by omega)]; rfl
@[simp] theorem mask_CORE_L2_MISS (n : Nat) (hn : n < 224) : regMask (CORE_L2_MISS n) = 0xFFFFFFFFFFFFFFFF#64 := by
  have e : CORE_L2_MISS n = nodeBase n + (0x388) := by unfold CORE_L2_MISS; first | rfl | (simp only [blockBase]; omega) | omega
  rw [e, regMask_node _ _ hn (by omega)]; rfl
@[simp] theorem mask_CORE_PF_ISSUED (n : Nat) (hn : n < 224) : regMask (CORE_PF_ISSUED n) = 0xFFFFFFFFFFFFFFFF#64 := by
  have e : CORE_PF_ISSUED n = nodeBase n + (0x390) := by unfold CORE_PF_ISSUED; first | rfl | (simp only [blockBase]; omega) | omega
  rw [e, regMask_node _ _ hn (by omega)]; rfl
@[simp] theorem mask_CORE_PF_HIT (n : Nat) (hn : n < 224) : regMask (CORE_PF_HIT n) = 0xFFFFFFFFFFFFFFFF#64 := by
  have e : CORE_PF_HIT n = nodeBase n + (0x398) := by unfold CORE_PF_HIT; first | rfl | (simp only [blockBase]; omega) | omega
  rw [e, regMask_node _ _ hn (by omega)]; rfl
@[simp] theorem mask_CORE_STREAM_LINES (n : Nat) (hn : n < 224) : regMask (CORE_STREAM_LINES n) = 0xFFFFFFFFFFFFFFFF#64 := by
  have e : CORE_STREAM_LINES n = nodeBase n + (0x3A0) := by unfold CORE_STREAM_LINES; first | rfl | (simp only [blockBase]; omega) | omega
  rw [e, regMask_node _ _ hn (by omega)]; rfl
@[simp] theorem mask_CORE_CE (n : Nat) (hn : n < 224) : regMask (CORE_CE n) = 0xFFFFFFFFFFFFFFFF#64 := by
  have e : CORE_CE n = nodeBase n + (0x3A8) := by unfold CORE_CE; first | rfl | (simp only [blockBase]; omega) | omega
  rw [e, regMask_node _ _ hn (by omega)]; rfl
@[simp] theorem mask_DIR_STAT (n : Nat) (hn : n < 224) : regMask (DIR_STAT n) = 0x7FFFFFFF#64 := by
  have e : DIR_STAT n = nodeBase n + (0x400) := by unfold DIR_STAT; first | rfl | (simp only [blockBase]; omega) | omega
  rw [e, regMask_node _ _ hn (by omega)]; rfl
theorem at_DIR_DEAD : ∀ i < 4, maskOf (fieldsAt nodeDefs (0x410 + 0x8 * i)) = 0xFFFFFFFFFFFFFFFF#64 := by decide +kernel
@[simp] theorem mask_DIR_DEAD (n i : Nat) (hn : n < 224) (hi : i < 4) : regMask (DIR_DEAD n i) = 0xFFFFFFFFFFFFFFFF#64 := by
  have e : DIR_DEAD n i = nodeBase n + (0x410 + 0x8 * i) := by unfold DIR_DEAD; first | rfl | (simp only [blockBase]; omega) | omega
  rw [e, regMask_node _ _ hn (by omega)]; exact at_DIR_DEAD i hi
@[simp] theorem mask_DIR_NACK (n : Nat) (hn : n < 224) : regMask (DIR_NACK n) = 0xFFFFFFFFFFFFFFFF#64 := by
  have e : DIR_NACK n = nodeBase n + (0x480) := by unfold DIR_NACK; first | rfl | (simp only [blockBase]; omega) | omega
  rw [e, regMask_node _ _ hn (by omega)]; rfl
@[simp] theorem mask_DIR_GRANT (n : Nat) (hn : n < 224) : regMask (DIR_GRANT n) = 0xFFFFFFFFFFFFFFFF#64 := by
  have e : DIR_GRANT n = nodeBase n + (0x488) := by unfold DIR_GRANT; first | rfl | (simp only [blockBase]; omega) | omega
  rw [e, regMask_node _ _ hn (by omega)]; rfl
@[simp] theorem mask_DIR_GRANT_DROP (n : Nat) (hn : n < 224) : regMask (DIR_GRANT_DROP n) = 0xFFFFFFFFFFFFFFFF#64 := by
  have e : DIR_GRANT_DROP n = nodeBase n + (0x490) := by unfold DIR_GRANT_DROP; first | rfl | (simp only [blockBase]; omega) | omega
  rw [e, regMask_node _ _ hn (by omega)]; rfl
@[simp] theorem mask_DIR_GRANT_LOST (n : Nat) (hn : n < 224) : regMask (DIR_GRANT_LOST n) = 0xFFFFFFFFFFFFFFFF#64 := by
  have e : DIR_GRANT_LOST n = nodeBase n + (0x498) := by unfold DIR_GRANT_LOST; first | rfl | (simp only [blockBase]; omega) | omega
  rw [e, regMask_node _ _ hn (by omega)]; rfl
@[simp] theorem mask_DIR_EVICT_FORCED (n : Nat) (hn : n < 224) : regMask (DIR_EVICT_FORCED n) = 0xFFFFFFFFFFFFFFFF#64 := by
  have e : DIR_EVICT_FORCED n = nodeBase n + (0x4A0) := by unfold DIR_EVICT_FORCED; first | rfl | (simp only [blockBase]; omega) | omega
  rw [e, regMask_node _ _ hn (by omega)]; rfl
@[simp] theorem mask_DIR_BCAST (n : Nat) (hn : n < 224) : regMask (DIR_BCAST n) = 0xFFFFFFFFFFFFFFFF#64 := by
  have e : DIR_BCAST n = nodeBase n + (0x4A8) := by unfold DIR_BCAST; first | rfl | (simp only [blockBase]; omega) | omega
  rw [e, regMask_node _ _ hn (by omega)]; rfl
@[simp] theorem mask_DIR_TMO (n : Nat) (hn : n < 224) : regMask (DIR_TMO n) = 0xFFFFFFFFFFFFFFFF#64 := by
  have e : DIR_TMO n = nodeBase n + (0x4B0) := by unfold DIR_TMO; first | rfl | (simp only [blockBase]; omega) | omega
  rw [e, regMask_node _ _ hn (by omega)]; rfl
@[simp] theorem mask_DIR_LATE_RSP (n : Nat) (hn : n < 224) : regMask (DIR_LATE_RSP n) = 0xFFFFFFFFFFFFFFFF#64 := by
  have e : DIR_LATE_RSP n = nodeBase n + (0x4B8) := by unfold DIR_LATE_RSP; first | rfl | (simp only [blockBase]; omega) | omega
  rw [e, regMask_node _ _ hn (by omega)]; rfl
@[simp] theorem mask_DIR_REBUILD (n : Nat) (hn : n < 224) : regMask (DIR_REBUILD n) = 0xFFFFFFFFFFFFFFFF#64 := by
  have e : DIR_REBUILD n = nodeBase n + (0x4C0) := by unfold DIR_REBUILD; first | rfl | (simp only [blockBase]; omega) | omega
  rw [e, regMask_node _ _ hn (by omega)]; rfl
@[simp] theorem mask_BTN_ACC_CNT (n : Nat) (hn : n < 224) : regMask (BTN_ACC_CNT n) = 0xFFFFFFFFFFFFFFFF#64 := by
  have e : BTN_ACC_CNT n = nodeBase n + (0x500) := by unfold BTN_ACC_CNT; first | rfl | (simp only [blockBase]; omega) | omega
  rw [e, regMask_node _ _ hn (by omega)]; rfl
@[simp] theorem mask_BTN_CHAIN (n : Nat) (hn : n < 224) : regMask (BTN_CHAIN n) = 0xFFFFFFFFFFFFFFFF#64 := by
  have e : BTN_CHAIN n = nodeBase n + (0x508) := by unfold BTN_CHAIN; first | rfl | (simp only [blockBase]; omega) | omega
  rw [e, regMask_node _ _ hn (by omega)]; rfl
@[simp] theorem mask_BTN_POISON (n : Nat) (hn : n < 224) : regMask (BTN_POISON n) = 0xFFFFFFFFFFFFFFFF#64 := by
  have e : BTN_POISON n = nodeBase n + (0x510) := by unfold BTN_POISON; first | rfl | (simp only [blockBase]; omega) | omega
  rw [e, regMask_node _ _ hn (by omega)]; rfl
@[simp] theorem mask_BTN_SPILL (n : Nat) (hn : n < 224) : regMask (BTN_SPILL n) = 0xFFFFFFFFFFFFFFFF#64 := by
  have e : BTN_SPILL n = nodeBase n + (0x518) := by unfold BTN_SPILL; first | rfl | (simp only [blockBase]; omega) | omega
  rw [e, regMask_node _ _ hn (by omega)]; rfl
@[simp] theorem mask_BTN_ZERO_CNT (n : Nat) (hn : n < 224) : regMask (BTN_ZERO_CNT n) = 0xFFFFFFFFFFFFFFFF#64 := by
  have e : BTN_ZERO_CNT n = nodeBase n + (0x520) := by unfold BTN_ZERO_CNT; first | rfl | (simp only [blockBase]; omega) | omega
  rw [e, regMask_node _ _ hn (by omega)]; rfl
@[simp] theorem mask_BTN_FAIL (n : Nat) (hn : n < 224) : regMask (BTN_FAIL n) = 0xFFFFFFFFFFFFFFFF#64 := by
  have e : BTN_FAIL n = nodeBase n + (0x528) := by unfold BTN_FAIL; first | rfl | (simp only [blockBase]; omega) | omega
  rw [e, regMask_node _ _ hn (by omega)]; rfl
@[simp] theorem mask_CORE_FWD_PARTIAL (n : Nat) (hn : n < 224) : regMask (CORE_FWD_PARTIAL n) = 0xFFFFFFFFFFFFFFFF#64 := by
  have e : CORE_FWD_PARTIAL n = nodeBase n + (0x600) := by unfold CORE_FWD_PARTIAL; first | rfl | (simp only [blockBase]; omega) | omega
  rw [e, regMask_node _ _ hn (by omega)]; rfl
@[simp] theorem mask_CORE_MEMORDER_FLUSH (n : Nat) (hn : n < 224) : regMask (CORE_MEMORDER_FLUSH n) = 0xFFFFFFFFFFFFFFFF#64 := by
  have e : CORE_MEMORDER_FLUSH n = nodeBase n + (0x608) := by unfold CORE_MEMORDER_FLUSH; first | rfl | (simp only [blockBase]; omega) | omega
  rw [e, regMask_node _ _ hn (by omega)]; rfl
@[simp] theorem mask_CORE_BR_MISP (n : Nat) (hn : n < 224) : regMask (CORE_BR_MISP n) = 0xFFFFFFFFFFFFFFFF#64 := by
  have e : CORE_BR_MISP n = nodeBase n + (0x610) := by unfold CORE_BR_MISP; first | rfl | (simp only [blockBase]; omega) | omega
  rw [e, regMask_node _ _ hn (by omega)]; rfl
@[simp] theorem mask_CORE_BP_FLUSH (n : Nat) (hn : n < 224) : regMask (CORE_BP_FLUSH n) = 0xFFFFFFFFFFFFFFFF#64 := by
  have e : CORE_BP_FLUSH n = nodeBase n + (0x618) := by unfold CORE_BP_FLUSH; first | rfl | (simp only [blockBase]; omega) | omega
  rw [e, regMask_node _ _ hn (by omega)]; rfl
@[simp] theorem mask_CORE_ROB_FULL (n : Nat) (hn : n < 224) : regMask (CORE_ROB_FULL n) = 0xFFFFFFFFFFFFFFFF#64 := by
  have e : CORE_ROB_FULL n = nodeBase n + (0x620) := by unfold CORE_ROB_FULL; first | rfl | (simp only [blockBase]; omega) | omega
  rw [e, regMask_node _ _ hn (by omega)]; rfl
@[simp] theorem mask_CORE_LQ_FULL (n : Nat) (hn : n < 224) : regMask (CORE_LQ_FULL n) = 0xFFFFFFFFFFFFFFFF#64 := by
  have e : CORE_LQ_FULL n = nodeBase n + (0x628) := by unfold CORE_LQ_FULL; first | rfl | (simp only [blockBase]; omega) | omega
  rw [e, regMask_node _ _ hn (by omega)]; rfl
@[simp] theorem mask_CORE_SQ_FULL (n : Nat) (hn : n < 224) : regMask (CORE_SQ_FULL n) = 0xFFFFFFFFFFFFFFFF#64 := by
  have e : CORE_SQ_FULL n = nodeBase n + (0x630) := by unfold CORE_SQ_FULL; first | rfl | (simp only [blockBase]; omega) | omega
  rw [e, regMask_node _ _ hn (by omega)]; rfl
@[simp] theorem mask_CORE_CKPT_FULL (n : Nat) (hn : n < 224) : regMask (CORE_CKPT_FULL n) = 0xFFFFFFFFFFFFFFFF#64 := by
  have e : CORE_CKPT_FULL n = nodeBase n + (0x638) := by unfold CORE_CKPT_FULL; first | rfl | (simp only [blockBase]; omega) | omega
  rw [e, regMask_node _ _ hn (by omega)]; rfl
@[simp] theorem mask_CORE_IO_ACCESS (n : Nat) (hn : n < 224) : regMask (CORE_IO_ACCESS n) = 0xFFFFFFFFFFFFFFFF#64 := by
  have e : CORE_IO_ACCESS n = nodeBase n + (0x640) := by unfold CORE_IO_ACCESS; first | rfl | (simp only [blockBase]; omega) | omega
  rw [e, regMask_node _ _ hn (by omega)]; rfl
@[simp] theorem mask_CORE_DET_SWITCH (n : Nat) (hn : n < 224) : regMask (CORE_DET_SWITCH n) = 0xFFFFFFFFFFFFFFFF#64 := by
  have e : CORE_DET_SWITCH n = nodeBase n + (0x648) := by unfold CORE_DET_SWITCH; first | rfl | (simp only [blockBase]; omega) | omega
  rw [e, regMask_node _ _ hn (by omega)]; rfl
@[simp] theorem mask_CORE_ITLB_MISS (n : Nat) (hn : n < 224) : regMask (CORE_ITLB_MISS n) = 0xFFFFFFFFFFFFFFFF#64 := by
  have e : CORE_ITLB_MISS n = nodeBase n + (0x700) := by unfold CORE_ITLB_MISS; first | rfl | (simp only [blockBase]; omega) | omega
  rw [e, regMask_node _ _ hn (by omega)]; rfl
@[simp] theorem mask_CORE_DTLB_MISS (n : Nat) (hn : n < 224) : regMask (CORE_DTLB_MISS n) = 0xFFFFFFFFFFFFFFFF#64 := by
  have e : CORE_DTLB_MISS n = nodeBase n + (0x708) := by unfold CORE_DTLB_MISS; first | rfl | (simp only [blockBase]; omega) | omega
  rw [e, regMask_node _ _ hn (by omega)]; rfl
@[simp] theorem mask_CORE_L2TLB_MISS (n : Nat) (hn : n < 224) : regMask (CORE_L2TLB_MISS n) = 0xFFFFFFFFFFFFFFFF#64 := by
  have e : CORE_L2TLB_MISS n = nodeBase n + (0x710) := by unfold CORE_L2TLB_MISS; first | rfl | (simp only [blockBase]; omega) | omega
  rw [e, regMask_node _ _ hn (by omega)]; rfl
@[simp] theorem mask_CORE_WALK_PTE (n : Nat) (hn : n < 224) : regMask (CORE_WALK_PTE n) = 0xFFFFFFFFFFFFFFFF#64 := by
  have e : CORE_WALK_PTE n = nodeBase n + (0x718) := by unfold CORE_WALK_PTE; first | rfl | (simp only [blockBase]; omega) | omega
  rw [e, regMask_node _ _ hn (by omega)]; rfl
@[simp] theorem mask_CORE_AD_UPDATE (n : Nat) (hn : n < 224) : regMask (CORE_AD_UPDATE n) = 0xFFFFFFFFFFFFFFFF#64 := by
  have e : CORE_AD_UPDATE n = nodeBase n + (0x720) := by unfold CORE_AD_UPDATE; first | rfl | (simp only [blockBase]; omega) | omega
  rw [e, regMask_node _ _ hn (by omega)]; rfl
@[simp] theorem mask_CORE_WALK_STALE (n : Nat) (hn : n < 224) : regMask (CORE_WALK_STALE n) = 0xFFFFFFFFFFFFFFFF#64 := by
  have e : CORE_WALK_STALE n = nodeBase n + (0x728) := by unfold CORE_WALK_STALE; first | rfl | (simp only [blockBase]; omega) | omega
  rw [e, regMask_node _ _ hn (by omega)]; rfl
@[simp] theorem mask_SEL_DENY (n : Nat) (hn : n < 224) : regMask (SEL_DENY n) = 0xFFFFFFFFFFFFFFFF#64 := by
  have e : SEL_DENY n = nodeBase n + (0x800) := by unfold SEL_DENY; first | rfl | (simp only [blockBase]; omega) | omega
  rw [e, regMask_node _ _ hn (by omega)]; rfl
theorem at_DBG_CMP : ∀ i < 2, maskOf (fieldsAt nodeDefs (0x900 + 0x8 * i)) = 0xFFFFFFFFFFFFFFFF#64 := by decide +kernel
@[simp] theorem mask_DBG_CMP (n i : Nat) (hn : n < 224) (hi : i < 2) : regMask (DBG_CMP n i) = 0xFFFFFFFFFFFFFFFF#64 := by
  have e : DBG_CMP n i = nodeBase n + (0x900 + 0x8 * i) := by unfold DBG_CMP; first | rfl | (simp only [blockBase]; omega) | omega
  rw [e, regMask_node _ _ hn (by omega)]; exact at_DBG_CMP i hi
@[simp] theorem mask_PWR_STATE  : regMask (PWR_STATE) = 0xFF#64 := by
  have e : PWR_STATE = blockBase 0x00 + (0x0) := by unfold PWR_STATE; first | rfl | (simp only [blockBase]; omega) | omega
  rw [e, regMask_block _ _ _ (by decide) rfl (by omega)]; rfl
@[simp] theorem mask_PWR_WAKE_CFG  : regMask (PWR_WAKE_CFG) = 0xF#64 := by
  have e : PWR_WAKE_CFG = blockBase 0x00 + (0x8) := by unfold PWR_WAKE_CFG; first | rfl | (simp only [blockBase]; omega) | omega
  rw [e, regMask_block _ _ _ (by decide) rfl (by omega)]; rfl
@[simp] theorem mask_PWR_RESUME  : regMask (PWR_RESUME) = 0xFFFFFFFFFFFD#64 := by
  have e : PWR_RESUME = blockBase 0x00 + (0x10) := by unfold PWR_RESUME; first | rfl | (simp only [blockBase]; omega) | omega
  rw [e, regMask_block _ _ _ (by decide) rfl (by omega)]; rfl
@[simp] theorem mask_PWR_RESET  : regMask (PWR_RESET) = 0xFFFF0003#64 := by
  have e : PWR_RESET = blockBase 0x00 + (0x18) := by unfold PWR_RESET; first | rfl | (simp only [blockBase]; omega) | omega
  rw [e, regMask_block _ _ _ (by decide) rfl (by omega)]; rfl
@[simp] theorem mask_PWR_HART_GO  : regMask (PWR_HART_GO) = 0xFFFFFFFFFFFC03FF#64 := by
  have e : PWR_HART_GO = blockBase 0x00 + (0x20) := by unfold PWR_HART_GO; first | rfl | (simp only [blockBase]; omega) | omega
  rw [e, regMask_block _ _ _ (by decide) rfl (by omega)]; rfl
@[simp] theorem mask_PWR_RSTINFO  : regMask (PWR_RSTINFO) = 0x3FFF#64 := by
  have e : PWR_RSTINFO = blockBase 0x00 + (0x28) := by unfold PWR_RSTINFO; first | rfl | (simp only [blockBase]; omega) | omega
  rw [e, regMask_block _ _ _ (by decide) rfl (by omega)]; rfl
@[simp] theorem mask_TRD_CFG  : regMask (TRD_CFG) = 0xFFFFFF03#64 := by
  have e : TRD_CFG = blockBase 0x00 + (0x100) := by unfold TRD_CFG; first | rfl | (simp only [blockBase]; omega) | omega
  rw [e, regMask_block _ _ _ (by decide) rfl (by omega)]; rfl
@[simp] theorem mask_TRD_STAT  : regMask (TRD_STAT) = 0x7F3F#64 := by
  have e : TRD_STAT = blockBase 0x00 + (0x108) := by unfold TRD_STAT; first | rfl | (simp only [blockBase]; omega) | omega
  rw [e, regMask_block _ _ _ (by decide) rfl (by omega)]; rfl
@[simp] theorem mask_TRD_RTC  : regMask (TRD_RTC) = 0xFFFFFFFFFFFF#64 := by
  have e : TRD_RTC = blockBase 0x00 + (0x110) := by unfold TRD_RTC; first | rfl | (simp only [blockBase]; omega) | omega
  rw [e, regMask_block _ _ _ (by decide) rfl (by omega)]; rfl
@[simp] theorem mask_TRD_ALARM  : regMask (TRD_ALARM) = 0x1FFFFFFFFFFFF#64 := by
  have e : TRD_ALARM = blockBase 0x00 + (0x118) := by unfold TRD_ALARM; first | rfl | (simp only [blockBase]; omega) | omega
  rw [e, regMask_block _ _ _ (by decide) rfl (by omega)]; rfl
@[simp] theorem mask_TRD_WAKE_MASK  : regMask (TRD_WAKE_MASK) = 0xFFFFFFFFFFFFFFFF#64 := by
  have e : TRD_WAKE_MASK = blockBase 0x00 + (0x120) := by unfold TRD_WAKE_MASK; first | rfl | (simp only [blockBase]; omega) | omega
  rw [e, regMask_block _ _ _ (by decide) rfl (by omega)]; rfl
@[simp] theorem mask_TRD_ABORT  : regMask (TRD_ABORT) = 0xFFFFFFFF001F#64 := by
  have e : TRD_ABORT = blockBase 0x00 + (0x128) := by unfold TRD_ABORT; first | rfl | (simp only [blockBase]; omega) | omega
  rw [e, regMask_block _ _ _ (by decide) rfl (by omega)]; rfl
@[simp] theorem mask_TRD_TIME_OFS  : regMask (TRD_TIME_OFS) = 0xFFFFFFFFFFFFFFFF#64 := by
  have e : TRD_TIME_OFS = blockBase 0x00 + (0x130) := by unfold TRD_TIME_OFS; first | rfl | (simp only [blockBase]; omega) | omega
  rw [e, regMask_block _ _ _ (by decide) rfl (by omega)]; rfl
theorem at_PWR_RCNT : ∀ i < 32, maskOf (fieldsAt defs00 (0x200 + 0x8 * i)) = 0xFFFFFFFFFFFFFFFF#64 := by decide +kernel
@[simp] theorem mask_PWR_RCNT (i : Nat) (hi : i < 32) : regMask (PWR_RCNT i) = 0xFFFFFFFFFFFFFFFF#64 := by
  have e : PWR_RCNT i = blockBase 0x00 + (0x200 + 0x8 * i) := by unfold PWR_RCNT; first | rfl | (simp only [blockBase]; omega) | omega
  rw [e, regMask_block _ _ _ (by decide) rfl (by omega)]; exact at_PWR_RCNT i hi
@[simp] theorem mask_PWR_RCNT_OVF  : regMask (PWR_RCNT_OVF) = 0xFFFFFFFFFFFFFFFF#64 := by
  have e : PWR_RCNT_OVF = blockBase 0x00 + (0x300) := by unfold PWR_RCNT_OVF; first | rfl | (simp only [blockBase]; omega) | omega
  rw [e, regMask_block _ _ _ (by decide) rfl (by omega)]; rfl
@[simp] theorem mask_DBY_CHIP_ID  : regMask (DBY_CHIP_ID) = 0xFFFFFFFFFFFF#64 := by
  have e : DBY_CHIP_ID = blockBase 0x01 + (0x0) := by unfold DBY_CHIP_ID; first | rfl | (simp only [blockBase]; omega) | omega
  rw [e, regMask_block _ _ _ (by decide) rfl (by omega)]; rfl
@[simp] theorem mask_DBY_STAT  : regMask (DBY_STAT) = 0xF01FF07FF#64 := by
  have e : DBY_STAT = blockBase 0x01 + (0x8) := by unfold DBY_STAT; first | rfl | (simp only [blockBase]; omega) | omega
  rw [e, regMask_block _ _ _ (by decide) rfl (by omega)]; rfl
theorem at_DBY_RING_CFG : ∀ i < 2, maskOf (fieldsAt defs01 (0x100 + 0x40 * i)) = 0xFFFFFFFFFFF7#64 := by decide +kernel
@[simp] theorem mask_DBY_RING_CFG (i : Nat) (hi : i < 2) : regMask (DBY_RING_CFG i) = 0xFFFFFFFFFFF7#64 := by
  have e : DBY_RING_CFG i = blockBase 0x01 + (0x100 + 0x40 * i) := by unfold DBY_RING_CFG; first | rfl | (simp only [blockBase]; omega) | omega
  rw [e, regMask_block _ _ _ (by decide) rfl (by omega)]; exact at_DBY_RING_CFG i hi
theorem at_DBY_RING_RBASE : ∀ i < 2, maskOf (fieldsAt defs01 (0x108 + 0x40 * i)) = 0xFFFFFFFFFFC0#64 := by decide +kernel
@[simp] theorem mask_DBY_RING_RBASE (i : Nat) (hi : i < 2) : regMask (DBY_RING_RBASE i) = 0xFFFFFFFFFFC0#64 := by
  have e : DBY_RING_RBASE i = blockBase 0x01 + (0x108 + 0x40 * i) := by unfold DBY_RING_RBASE; first | rfl | (simp only [blockBase]; omega) | omega
  rw [e, regMask_block _ _ _ (by decide) rfl (by omega)]; exact at_DBY_RING_RBASE i hi
theorem at_DBY_RING_CTLA : ∀ i < 2, maskOf (fieldsAt defs01 (0x110 + 0x40 * i)) = 0xFFFFFFFFFFC0#64 := by decide +kernel
@[simp] theorem mask_DBY_RING_CTLA (i : Nat) (hi : i < 2) : regMask (DBY_RING_CTLA i) = 0xFFFFFFFFFFC0#64 := by
  have e : DBY_RING_CTLA i = blockBase 0x01 + (0x110 + 0x40 * i) := by unfold DBY_RING_CTLA; first | rfl | (simp only [blockBase]; omega) | omega
  rw [e, regMask_block _ _ _ (by decide) rfl (by omega)]; exact at_DBY_RING_CTLA i hi
theorem at_DBY_RING_PROD : ∀ i < 2, maskOf (fieldsAt defs01 (0x118 + 0x40 * i)) = 0xFFFFFFFF#64 := by decide +kernel
@[simp] theorem mask_DBY_RING_PROD (i : Nat) (hi : i < 2) : regMask (DBY_RING_PROD i) = 0xFFFFFFFF#64 := by
  have e : DBY_RING_PROD i = blockBase 0x01 + (0x118 + 0x40 * i) := by unfold DBY_RING_PROD; first | rfl | (simp only [blockBase]; omega) | omega
  rw [e, regMask_block _ _ _ (by decide) rfl (by omega)]; exact at_DBY_RING_PROD i hi
theorem at_DBY_RING_RCONS : ∀ i < 2, maskOf (fieldsAt defs01 (0x120 + 0x40 * i)) = 0xFFFFFFFF#64 := by decide +kernel
@[simp] theorem mask_DBY_RING_RCONS (i : Nat) (hi : i < 2) : regMask (DBY_RING_RCONS i) = 0xFFFFFFFF#64 := by
  have e : DBY_RING_RCONS i = blockBase 0x01 + (0x120 + 0x40 * i) := by unfold DBY_RING_RCONS; first | rfl | (simp only [blockBase]; omega) | omega
  rw [e, regMask_block _ _ _ (by decide) rfl (by omega)]; exact at_DBY_RING_RCONS i hi
@[simp] theorem mask_DBY_CARDS  : regMask (DBY_CARDS) = 0xFFFFFFFFFFFFFFFF#64 := by
  have e : DBY_CARDS = blockBase 0x01 + (0x200) := by unfold DBY_CARDS; first | rfl | (simp only [blockBase]; omega) | omega
  rw [e, regMask_block _ _ _ (by decide) rfl (by omega)]; rfl
@[simp] theorem mask_DBY_BUSY  : regMask (DBY_BUSY) = 0xFFFFFFFFFFFFFFFF#64 := by
  have e : DBY_BUSY = blockBase 0x01 + (0x208) := by unfold DBY_BUSY; first | rfl | (simp only [blockBase]; omega) | omega
  rw [e, regMask_block _ _ _ (by decide) rfl (by omega)]; rfl
@[simp] theorem mask_DBY_REFUSED  : regMask (DBY_REFUSED) = 0xFFFFFFFFFFFFFFFF#64 := by
  have e : DBY_REFUSED = blockBase 0x01 + (0x210) := by unfold DBY_REFUSED; first | rfl | (simp only [blockBase]; omega) | omega
  rw [e, regMask_block _ _ _ (by decide) rfl (by omega)]; rfl
@[simp] theorem mask_DBY_RESTARTS  : regMask (DBY_RESTARTS) = 0xFFFFFFFFFFFFFFFF#64 := by
  have e : DBY_RESTARTS = blockBase 0x01 + (0x218) := by unfold DBY_RESTARTS; first | rfl | (simp only [blockBase]; omega) | omega
  rw [e, regMask_block _ _ _ (by decide) rfl (by omega)]; rfl
@[simp] theorem mask_DBY_RING_STALL  : regMask (DBY_RING_STALL) = 0xFFFFFFFFFFFFFFFF#64 := by
  have e : DBY_RING_STALL = blockBase 0x01 + (0x220) := by unfold DBY_RING_STALL; first | rfl | (simp only [blockBase]; omega) | omega
  rw [e, regMask_block _ _ _ (by decide) rfl (by omega)]; rfl
@[simp] theorem mask_DBY_FLASH_SEL  : regMask (DBY_FLASH_SEL) = 0xFFC00001#64 := by
  have e : DBY_FLASH_SEL = blockBase 0x01 + (0x300) := by unfold DBY_FLASH_SEL; first | rfl | (simp only [blockBase]; omega) | omega
  rw [e, regMask_block _ _ _ (by decide) rfl (by omega)]; rfl
@[simp] theorem mask_CREEL_CFG  : regMask (CREEL_CFG) = 0xFF03FF01F7FF#64 := by
  have e : CREEL_CFG = blockBase 0x02 + (0x0) := by unfold CREEL_CFG; first | rfl | (simp only [blockBase]; omega) | omega
  rw [e, regMask_block _ _ _ (by decide) rfl (by omega)]; rfl
@[simp] theorem mask_CREEL_STAT  : regMask (CREEL_STAT) = 0xFFFF071F07FF#64 := by
  have e : CREEL_STAT = blockBase 0x02 + (0x8) := by unfold CREEL_STAT; first | rfl | (simp only [blockBase]; omega) | omega
  rw [e, regMask_block _ _ _ (by decide) rfl (by omega)]; rfl
theorem at_CREEL_CH_CFG : ∀ i < 16, maskOf (fieldsAt defs02 (0x1000 + 0x20 * i)) = 0xFF0FFF7FFFFFFF#64 := by decide +kernel
@[simp] theorem mask_CREEL_CH_CFG (i : Nat) (hi : i < 16) : regMask (CREEL_CH_CFG i) = 0xFF0FFF7FFFFFFF#64 := by
  have e : CREEL_CH_CFG i = blockBase 0x02 + (0x1000 + 0x20 * i) := by unfold CREEL_CH_CFG; first | rfl | (simp only [blockBase]; omega) | omega
  rw [e, regMask_block _ _ _ (by decide) rfl (by omega)]; exact at_CREEL_CH_CFG i hi
theorem at_CREEL_CH_PROT : ∀ i < 16, maskOf (fieldsAt defs02 (0x1008 + 0x20 * i)) = 0xFFFFFFFFFF#64 := by decide +kernel
@[simp] theorem mask_CREEL_CH_PROT (i : Nat) (hi : i < 16) : regMask (CREEL_CH_PROT i) = 0xFFFFFFFFFF#64 := by
  have e : CREEL_CH_PROT i = blockBase 0x02 + (0x1008 + 0x20 * i) := by unfold CREEL_CH_PROT; first | rfl | (simp only [blockBase]; omega) | omega
  rw [e, regMask_block _ _ _ (by decide) rfl (by omega)]; exact at_CREEL_CH_PROT i hi
theorem at_CREEL_CH_STAT : ∀ i < 16, maskOf (fieldsAt defs02 (0x1010 + 0x20 * i)) = 0xFFFFFFFF7F3FFF07#64 := by decide +kernel
@[simp] theorem mask_CREEL_CH_STAT (i : Nat) (hi : i < 16) : regMask (CREEL_CH_STAT i) = 0xFFFFFFFF7F3FFF07#64 := by
  have e : CREEL_CH_STAT i = blockBase 0x02 + (0x1010 + 0x20 * i) := by unfold CREEL_CH_STAT; first | rfl | (simp only [blockBase]; omega) | omega
  rw [e, regMask_block _ _ _ (by decide) rfl (by omega)]; exact at_CREEL_CH_STAT i hi
theorem at_CREEL_CH_CUR : ∀ i < 16, maskOf (fieldsAt defs02 (0x1018 + 0x20 * i)) = 0xFFFFFFFF#64 := by decide +kernel
@[simp] theorem mask_CREEL_CH_CUR (i : Nat) (hi : i < 16) : regMask (CREEL_CH_CUR i) = 0xFFFFFFFF#64 := by
  have e : CREEL_CH_CUR i = blockBase 0x02 + (0x1018 + 0x20 * i) := by unfold CREEL_CH_CUR; first | rfl | (simp only [blockBase]; omega) | omega
  rw [e, regMask_block _ _ _ (by decide) rfl (by omega)]; exact at_CREEL_CH_CUR i hi
@[simp] theorem mask_CREEL_ON  : regMask (CREEL_ON) = 0xFFFFFFFFFFFFFFFF#64 := by
  have e : CREEL_ON = blockBase 0x02 + (0x100) := by unfold CREEL_ON; first | rfl | (simp only [blockBase]; omega) | omega
  rw [e, regMask_block _ _ _ (by decide) rfl (by omega)]; rfl
@[simp] theorem mask_CREEL_FAULTS  : regMask (CREEL_FAULTS) = 0xFFFFFFFFFFFFFFFF#64 := by
  have e : CREEL_FAULTS = blockBase 0x02 + (0x108) := by unfold CREEL_FAULTS; first | rfl | (simp only [blockBase]; omega) | omega
  rw [e, regMask_block _ _ _ (by decide) rfl (by omega)]; rfl
@[simp] theorem mask_CREEL_BUDGET_REFUSE  : regMask (CREEL_BUDGET_REFUSE) = 0xFFFFFFFFFFFFFFFF#64 := by
  have e : CREEL_BUDGET_REFUSE = blockBase 0x02 + (0x110) := by unfold CREEL_BUDGET_REFUSE; first | rfl | (simp only [blockBase]; omega) | omega
  rw [e, regMask_block _ _ _ (by decide) rfl (by omega)]; rfl
@[simp] theorem mask_CREEL_HOLDS  : regMask (CREEL_HOLDS) = 0xFFFFFFFFFFFFFFFF#64 := by
  have e : CREEL_HOLDS = blockBase 0x02 + (0x118) := by unfold CREEL_HOLDS; first | rfl | (simp only [blockBase]; omega) | omega
  rw [e, regMask_block _ _ _ (by decide) rfl (by omega)]; rfl
@[simp] theorem mask_CREEL_RECLAIMED  : regMask (CREEL_RECLAIMED) = 0xFFFFFFFFFFFFFFFF#64 := by
  have e : CREEL_RECLAIMED = blockBase 0x02 + (0x120) := by unfold CREEL_RECLAIMED; first | rfl | (simp only [blockBase]; omega) | omega
  rw [e, regMask_block _ _ _ (by decide) rfl (by omega)]; rfl
@[simp] theorem mask_CREEL_HOLD_END  : regMask (CREEL_HOLD_END) = 0xFFFFFFFFFFFFFFFF#64 := by
  have e : CREEL_HOLD_END = blockBase 0x02 + (0x128) := by unfold CREEL_HOLD_END; first | rfl | (simp only [blockBase]; omega) | omega
  rw [e, regMask_block _ _ _ (by decide) rfl (by omega)]; rfl
@[simp] theorem mask_CREEL_KEY_LOSS  : regMask (CREEL_KEY_LOSS) = 0xFFFFFFFFFFFFFFFF#64 := by
  have e : CREEL_KEY_LOSS = blockBase 0x02 + (0x130) := by unfold CREEL_KEY_LOSS; first | rfl | (simp only [blockBase]; omega) | omega
  rw [e, regMask_block _ _ _ (by decide) rfl (by omega)]; rfl
@[simp] theorem mask_SEL_LOCK  : regMask (SEL_LOCK) = 0x1#64 := by
  have e : SEL_LOCK = blockBase 0x03 + (0x0) := by unfold SEL_LOCK; first | rfl | (simp only [blockBase]; omega) | omega
  rw [e, regMask_block _ _ _ (by decide) rfl (by omega)]; rfl
@[simp] theorem mask_SEL_DRAM_WM  : regMask (SEL_DRAM_WM) = 0xFFFF#64 := by
  have e : SEL_DRAM_WM = blockBase 0x03 + (0x8) := by unfold SEL_DRAM_WM; first | rfl | (simp only [blockBase]; omega) | omega
  rw [e, regMask_block _ _ _ (by decide) rfl (by omega)]; rfl
@[simp] theorem mask_SEL_FLASH_WM  : regMask (SEL_FLASH_WM) = 0xFFFF#64 := by
  have e : SEL_FLASH_WM = blockBase 0x03 + (0x10) := by unfold SEL_FLASH_WM; first | rfl | (simp only [blockBase]; omega) | omega
  rw [e, regMask_block _ _ _ (by decide) rfl (by omega)]; rfl
@[simp] theorem mask_SEL_LIFE  : regMask (SEL_LIFE) = 0xFF#64 := by
  have e : SEL_LIFE = blockBase 0x03 + (0x18) := by unfold SEL_LIFE; first | rfl | (simp only [blockBase]; omega) | omega
  rw [e, regMask_block _ _ _ (by decide) rfl (by omega)]; rfl
@[simp] theorem mask_SEL_DEBUG  : regMask (SEL_DEBUG) = 0x8000000000000F0F#64 := by
  have e : SEL_DEBUG = blockBase 0x03 + (0x20) := by unfold SEL_DEBUG; first | rfl | (simp only [blockBase]; omega) | omega
  rw [e, regMask_block _ _ _ (by decide) rfl (by omega)]; rfl
@[simp] theorem mask_SEL_BLKWORLD  : regMask (SEL_BLKWORLD) = 0xFFFFFFFFFFFFFFFF#64 := by
  have e : SEL_BLKWORLD = blockBase 0x03 + (0x28) := by unfold SEL_BLKWORLD; first | rfl | (simp only [blockBase]; omega) | omega
  rw [e, regMask_block _ _ _ (by decide) rfl (by omega)]; rfl
@[simp] theorem mask_SEL_PORTWORLD  : regMask (SEL_PORTWORLD) = 0xFFFF#64 := by
  have e : SEL_PORTWORLD = blockBase 0x03 + (0x30) := by unfold SEL_PORTWORLD; first | rfl | (simp only [blockBase]; omega) | omega
  rw [e, regMask_block _ _ _ (by decide) rfl (by omega)]; rfl
theorem at_SEL_FUNCWORLD : ∀ i < 129, maskOf (fieldsAt defs03 (0x1000 + 0x8 * i)) = 0xFFFFFFFFFFFFFFFF#64 := by
  intro i hi
  have e : defs03 = defs03.take 7 ++ ⟨0x1000, 129, 0x8, 0, 0x0, [⟨⟨0, 64⟩, .ro, 0x0⟩]⟩ :: defs03.drop 8 := rfl
  rw [e, fieldsAt_apart (by decide +kernel) (RegDef.hits_row (by decide) hi)]; decide +kernel
@[simp] theorem mask_SEL_FUNCWORLD (i : Nat) (hi : i < 129) : regMask (SEL_FUNCWORLD i) = 0xFFFFFFFFFFFFFFFF#64 := by
  have e : SEL_FUNCWORLD i = blockBase 0x03 + (0x1000 + 0x8 * i) := by unfold SEL_FUNCWORLD; first | rfl | (simp only [blockBase]; omega) | omega
  rw [e, regMask_block _ _ _ (by decide) rfl (by omega)]; exact at_SEL_FUNCWORLD i hi
theorem at_SEL_SRCWORLD : ∀ i < 16, maskOf (fieldsAt defs03 (0x1800 + 0x8 * i)) = 0xFFFFFFFFFFFFFFFF#64 := by decide +kernel
@[simp] theorem mask_SEL_SRCWORLD (i : Nat) (hi : i < 16) : regMask (SEL_SRCWORLD i) = 0xFFFFFFFFFFFFFFFF#64 := by
  have e : SEL_SRCWORLD i = blockBase 0x03 + (0x1800 + 0x8 * i) := by unfold SEL_SRCWORLD; first | rfl | (simp only [blockBase]; omega) | omega
  rw [e, regMask_block _ _ _ (by decide) rfl (by omega)]; exact at_SEL_SRCWORLD i hi
theorem at_SEL_SLOTWORLD : ∀ i < 128, maskOf (fieldsAt defs03 (0x1900 + 0x8 * i)) = 0xFFFFFFFFFFFFFFFF#64 := by
  intro i hi
  have e : defs03 = defs03.take 9 ++ ⟨0x1900, 128, 0x8, 0, 0x0, [⟨⟨0, 64⟩, .ro, 0x0⟩]⟩ :: defs03.drop 10 := rfl
  rw [e, fieldsAt_apart (by decide +kernel) (RegDef.hits_row (by decide) hi)]; decide +kernel
@[simp] theorem mask_SEL_SLOTWORLD (i : Nat) (hi : i < 128) : regMask (SEL_SLOTWORLD i) = 0xFFFFFFFFFFFFFFFF#64 := by
  have e : SEL_SLOTWORLD i = blockBase 0x03 + (0x1900 + 0x8 * i) := by unfold SEL_SLOTWORLD; first | rfl | (simp only [blockBase]; omega) | omega
  rw [e, regMask_block _ _ _ (by decide) rfl (by omega)]; exact at_SEL_SLOTWORLD i hi
theorem at_SEL_GATE_FAULT : ∀ i < 192, maskOf (fieldsAt defs03 (0x2000 + 0x8 * i)) = 0x7FFF#64 := by
  intro i hi
  have e : defs03 = defs03.take 10 ++ ⟨0x2000, 192, 0x8, 0, 0x0, [⟨⟨0, 4⟩, .ro, 0x0⟩, ⟨⟨4, 10⟩, .ro, 0x0⟩, ⟨⟨14, 1⟩, .ro, 0x0⟩]⟩ :: defs03.drop 11 := rfl
  rw [e, fieldsAt_apart (by decide +kernel) (RegDef.hits_row (by decide) hi)]; decide +kernel
@[simp] theorem mask_SEL_GATE_FAULT (i : Nat) (hi : i < 192) : regMask (SEL_GATE_FAULT i) = 0x7FFF#64 := by
  have e : SEL_GATE_FAULT i = blockBase 0x03 + (0x2000 + 0x8 * i) := by unfold SEL_GATE_FAULT; first | rfl | (simp only [blockBase]; omega) | omega
  rw [e, regMask_block _ _ _ (by decide) rfl (by omega)]; exact at_SEL_GATE_FAULT i hi
@[simp] theorem mask_SEL_DENY_HOME  : regMask (SEL_DENY_HOME) = 0xFFFFFFFFFFFFFFFF#64 := by
  have e : SEL_DENY_HOME = blockBase 0x03 + (0x100) := by unfold SEL_DENY_HOME; first | rfl | (simp only [blockBase]; omega) | omega
  rw [e, regMask_block _ _ _ (by decide) rfl (by omega)]; rfl
@[simp] theorem mask_SEL_GATE_OK  : regMask (SEL_GATE_OK) = 0xFFFFFFFFFFFFFFFF#64 := by
  have e : SEL_GATE_OK = blockBase 0x03 + (0x108) := by unfold SEL_GATE_OK; first | rfl | (simp only [blockBase]; omega) | omega
  rw [e, regMask_block _ _ _ (by decide) rfl (by omega)]; rfl
@[simp] theorem mask_SEL_GATE_REFUSED  : regMask (SEL_GATE_REFUSED) = 0xFFFFFFFFFFFFFFFF#64 := by
  have e : SEL_GATE_REFUSED = blockBase 0x03 + (0x110) := by unfold SEL_GATE_REFUSED; first | rfl | (simp only [blockBase]; omega) | omega
  rw [e, regMask_block _ _ _ (by decide) rfl (by omega)]; rfl
theorem at_HRN_SRC : ∀ i < 1024, maskOf (fieldsAt defs04 (0x1000 + 0x8 * i)) = 0x1F1FFF7F#64 := by
  intro i hi
  have e : defs04 = defs04.take 0 ++ ⟨0x1000, 1024, 0x8, 0, 0x0, [⟨⟨0, 1⟩, .rw, 0x0⟩, ⟨⟨1, 2⟩, .rw, 0x0⟩, ⟨⟨3, 1⟩, .ro, 0x0⟩, ⟨⟨4, 1⟩, .w1c, 0x0⟩, ⟨⟨5, 1⟩, .ro, 0x0⟩, ⟨⟨6, 1⟩, .ro, 0x0⟩, ⟨⟨8, 8⟩, .rw, 0x0⟩, ⟨⟨16, 2⟩, .rw, 0x0⟩, ⟨⟨18, 3⟩, .rw, 0x0⟩, ⟨⟨24, 5⟩, .rw, 0x0⟩]⟩ :: defs04.drop 1 := rfl
  rw [e, fieldsAt_apart (by decide +kernel) (RegDef.hits_row (by decide) hi)]; decide +kernel
@[simp] theorem mask_HRN_SRC (i : Nat) (hi : i < 1024) : regMask (HRN_SRC i) = 0x1F1FFF7F#64 := by
  have e : HRN_SRC i = blockBase 0x04 + (0x1000 + 0x8 * i) := by unfold HRN_SRC; first | rfl | (simp only [blockBase]; omega) | omega
  rw [e, regMask_block _ _ _ (by decide) rfl (by omega)]; exact at_HRN_SRC i hi
theorem at_HRN_VEC : ∀ i < 32768, maskOf (fieldsAt defs04 (0x10000 + 0x8 * i)) = 0x3FFF1F1FFF07#64 := by
  intro i hi
  have e : defs04 = defs04.take 1 ++ ⟨0x10000, 32768, 0x8, 0, 0x0, [⟨⟨0, 1⟩, .ro, 0x0⟩, ⟨⟨1, 1⟩, .ro, 0x0⟩, ⟨⟨2, 1⟩, .ro, 0x0⟩, ⟨⟨8, 8⟩, .ro, 0x0⟩, ⟨⟨16, 2⟩, .ro, 0x0⟩, ⟨⟨18, 3⟩, .ro, 0x0⟩, ⟨⟨24, 5⟩, .ro, 0x0⟩, ⟨⟨32, 14⟩, .ro, 0x0⟩]⟩ :: defs04.drop 2 := rfl
  rw [e, fieldsAt_apart (by decide +kernel) (RegDef.hits_row (by decide) hi)]; decide +kernel
@[simp] theorem mask_HRN_VEC (i : Nat) (h : 1024 ≤ i) (hi : i < 33792) : regMask (HRN_VEC i) = 0x3FFF1F1FFF07#64 := by
  have e : HRN_VEC i = blockBase 0x04 + (0x10000 + 0x8 * (i - 1024)) := by unfold HRN_VEC; simp only [blockBase]; omega
  rw [e, regMask_block _ _ _ (by decide) rfl (by omega)]; exact at_HRN_VEC (i - 1024) (by omega)
@[simp] theorem mask_HRN_CLAIMS  : regMask (HRN_CLAIMS) = 0xFFFFFFFFFFFFFFFF#64 := by
  have e : HRN_CLAIMS = blockBase 0x04 + (0x100) := by unfold HRN_CLAIMS; first | rfl | (simp only [blockBase]; omega) | omega
  rw [e, regMask_block _ _ _ (by decide) rfl (by omega)]; rfl
@[simp] theorem mask_HRN_SPURIOUS  : regMask (HRN_SPURIOUS) = 0xFFFFFFFFFFFFFFFF#64 := by
  have e : HRN_SPURIOUS = blockBase 0x04 + (0x108) := by unfold HRN_SPURIOUS; first | rfl | (simp only [blockBase]; omega) | omega
  rw [e, regMask_block _ _ _ (by decide) rfl (by omega)]; rfl
@[simp] theorem mask_HRN_BAD_COMPLETE  : regMask (HRN_BAD_COMPLETE) = 0xFFFFFFFFFFFFFFFF#64 := by
  have e : HRN_BAD_COMPLETE = blockBase 0x04 + (0x110) := by unfold HRN_BAD_COMPLETE; first | rfl | (simp only [blockBase]; omega) | omega
  rw [e, regMask_block _ _ _ (by decide) rfl (by omega)]; rfl
@[simp] theorem mask_HRN_VEC_DROP  : regMask (HRN_VEC_DROP) = 0xFFFFFFFFFFFFFFFF#64 := by
  have e : HRN_VEC_DROP = blockBase 0x04 + (0x118) := by unfold HRN_VEC_DROP; first | rfl | (simp only [blockBase]; omega) | omega
  rw [e, regMask_block _ _ _ (by decide) rfl (by omega)]; rfl
@[simp] theorem mask_HRN_UNDELIVERED  : regMask (HRN_UNDELIVERED) = 0xFFFFFFFFFFFFFFFF#64 := by
  have e : HRN_UNDELIVERED = blockBase 0x04 + (0x120) := by unfold HRN_UNDELIVERED; first | rfl | (simp only [blockBase]; omega) | omega
  rw [e, regMask_block _ _ _ (by decide) rfl (by omega)]; rfl
@[simp] theorem mask_HRN_CHAINS  : regMask (HRN_CHAINS) = 0xFFFFFFFFFFFFFFFF#64 := by
  have e : HRN_CHAINS = blockBase 0x04 + (0x128) := by unfold HRN_CHAINS; first | rfl | (simp only [blockBase]; omega) | omega
  rw [e, regMask_block _ _ _ (by decide) rfl (by omega)]; rfl
theorem at_HRN_THRESH : ∀ i < 192, ∀ j < 10, maskOf (fieldsAt defs04 (0x100000 + 0x10000 * i + 0x1000 * j)) = 0x1F#64 := by
  intro i hi j hj
  have e : defs04 = defs04.take 8 ++ ⟨0x100000, 192, 0x10000, 10, 0x1000, [⟨⟨0, 5⟩, .rw, 0x0⟩]⟩ :: defs04.drop 9 := rfl
  rw [e, fieldsAt_apart (by decide +kernel) (RegDef.hits_grid (by decide) (by decide) (by decide) hi hj)]; decide +kernel
@[simp] theorem mask_HRN_THRESH (i j : Nat) (hi : i < 192) (hj : j < 10) : regMask (HRN_THRESH i j) = 0x1F#64 := by
  have e : HRN_THRESH i j = blockBase 0x04 + (0x100000 + 0x10000 * i + 0x1000 * j) := by unfold HRN_THRESH; first | rfl | (simp only [blockBase]; omega) | omega
  rw [e, regMask_block _ _ _ (by decide) rfl (by omega)]; exact at_HRN_THRESH i hi j hj
theorem at_HRN_CLAIM : ∀ i < 192, ∀ j < 10, maskOf (fieldsAt defs04 (0x100008 + 0x10000 * i + 0x1000 * j)) = 0x3FFFFF#64 := by
  intro i hi j hj
  have e : defs04 = defs04.take 9 ++ ⟨0x100008, 192, 0x10000, 10, 0x1000, [⟨⟨0, 22⟩, .ro, 0x0⟩]⟩ :: defs04.drop 10 := rfl
  rw [e, fieldsAt_apart (by decide +kernel) (RegDef.hits_grid (by decide) (by decide) (by decide) hi hj)]; decide +kernel
@[simp] theorem mask_HRN_CLAIM (i j : Nat) (hi : i < 192) (hj : j < 10) : regMask (HRN_CLAIM i j) = 0x3FFFFF#64 := by
  have e : HRN_CLAIM i j = blockBase 0x04 + (0x100008 + 0x10000 * i + 0x1000 * j) := by unfold HRN_CLAIM; first | rfl | (simp only [blockBase]; omega) | omega
  rw [e, regMask_block _ _ _ (by decide) rfl (by omega)]; exact at_HRN_CLAIM i hi j hj
theorem at_HRN_COMPLETE : ∀ i < 192, ∀ j < 10, maskOf (fieldsAt defs04 (0x100010 + 0x10000 * i + 0x1000 * j)) = 0xFFFF#64 := by
  intro i hi j hj
  have e : defs04 = defs04.take 10 ++ ⟨0x100010, 192, 0x10000, 10, 0x1000, [⟨⟨0, 16⟩, .wo, 0x0⟩]⟩ :: defs04.drop 11 := rfl
  rw [e, fieldsAt_apart (by decide +kernel) (RegDef.hits_grid (by decide) (by decide) (by decide) hi hj)]; decide +kernel
@[simp] theorem mask_HRN_COMPLETE (i j : Nat) (hi : i < 192) (hj : j < 10) : regMask (HRN_COMPLETE i j) = 0xFFFF#64 := by
  have e : HRN_COMPLETE i j = blockBase 0x04 + (0x100010 + 0x10000 * i + 0x1000 * j) := by unfold HRN_COMPLETE; first | rfl | (simp only [blockBase]; omega) | omega
  rw [e, regMask_block _ _ _ (by decide) rfl (by omega)]; exact at_HRN_COMPLETE i hi j hj
theorem at_HRN_CHAIN : ∀ i < 192, ∀ j < 10, maskOf (fieldsAt defs04 (0x100018 + 0x10000 * i + 0x1000 * j)) = 0x3FFFFF#64 := by
  intro i hi j hj
  have e : defs04 = defs04.take 11 ++ ⟨0x100018, 192, 0x10000, 10, 0x1000, [⟨⟨0, 22⟩, .ro, 0x0⟩]⟩ :: defs04.drop 12 := rfl
  rw [e, fieldsAt_apart (by decide +kernel) (RegDef.hits_grid (by decide) (by decide) (by decide) hi hj)]; decide +kernel
@[simp] theorem mask_HRN_CHAIN (i j : Nat) (hi : i < 192) (hj : j < 10) : regMask (HRN_CHAIN i j) = 0x3FFFFF#64 := by
  have e : HRN_CHAIN i j = blockBase 0x04 + (0x100018 + 0x10000 * i + 0x1000 * j) := by unfold HRN_CHAIN; first | rfl | (simp only [blockBase]; omega) | omega
  rw [e, regMask_block _ _ _ (by decide) rfl (by omega)]; exact at_HRN_CHAIN i hi j hj
theorem at_HRN_ISRV : ∀ i < 192, ∀ j < 10, maskOf (fieldsAt defs04 (0x100020 + 0x10000 * i + 0x1000 * j)) = 0xFFFFFFFE#64 := by
  intro i hi j hj
  have e : defs04 = defs04.take 12 ++ ⟨0x100020, 192, 0x10000, 10, 0x1000, [⟨⟨1, 31⟩, .ro, 0x0⟩]⟩ :: defs04.drop 13 := rfl
  rw [e, fieldsAt_apart (by decide +kernel) (RegDef.hits_grid (by decide) (by decide) (by decide) hi hj)]; decide +kernel
@[simp] theorem mask_HRN_ISRV (i j : Nat) (hi : i < 192) (hj : j < 10) : regMask (HRN_ISRV i j) = 0xFFFFFFFE#64 := by
  have e : HRN_ISRV i j = blockBase 0x04 + (0x100020 + 0x10000 * i + 0x1000 * j) := by unfold HRN_ISRV; first | rfl | (simp only [blockBase]; omega) | omega
  rw [e, regMask_block _ _ _ (by decide) rfl (by omega)]; exact at_HRN_ISRV i hi j hj
theorem at_HRN_MSIP : ∀ i < 192, ∀ j < 10, maskOf (fieldsAt defs04 (0x100040 + 0x10000 * i + 0x1000 * j)) = 0x1#64 := by
  intro i hi j hj
  have e : defs04 = defs04.take 13 ++ ⟨0x100040, 192, 0x10000, 10, 0x1000, [⟨⟨0, 1⟩, .rw, 0x0⟩]⟩ :: defs04.drop 14 := rfl
  rw [e, fieldsAt_apart (by decide +kernel) (RegDef.hits_grid (by decide) (by decide) (by decide) hi hj)]; decide +kernel
@[simp] theorem mask_HRN_MSIP (i j : Nat) (hi : i < 192) (hj : j < 10) : regMask (HRN_MSIP i j) = 0x1#64 := by
  have e : HRN_MSIP i j = blockBase 0x04 + (0x100040 + 0x10000 * i + 0x1000 * j) := by unfold HRN_MSIP; first | rfl | (simp only [blockBase]; omega) | omega
  rw [e, regMask_block _ _ _ (by decide) rfl (by omega)]; exact at_HRN_MSIP i hi j hj
theorem at_HRN_TIMECMP : ∀ i < 192, ∀ j < 10, maskOf (fieldsAt defs04 (0x100048 + 0x10000 * i + 0x1000 * j)) = 0xFFFFFFFFFFFFFFFF#64 := by
  intro i hi j hj
  have e : defs04 = defs04.take 14 ++ ⟨0x100048, 192, 0x10000, 10, 0x1000, [⟨⟨0, 64⟩, .rw, 0xFFFFFFFFFFFFFFFF⟩]⟩ :: defs04.drop 15 := rfl
  rw [e, fieldsAt_apart (by decide +kernel) (RegDef.hits_grid (by decide) (by decide) (by decide) hi hj)]; decide +kernel
@[simp] theorem mask_HRN_TIMECMP (i j : Nat) (hi : i < 192) (hj : j < 10) : regMask (HRN_TIMECMP i j) = 0xFFFFFFFFFFFFFFFF#64 := by
  have e : HRN_TIMECMP i j = blockBase 0x04 + (0x100048 + 0x10000 * i + 0x1000 * j) := by unfold HRN_TIMECMP; first | rfl | (simp only [blockBase]; omega) | omega
  rw [e, regMask_block _ _ _ (by decide) rfl (by omega)]; exact at_HRN_TIMECMP i hi j hj
@[simp] theorem mask_LOOM_CAP  : regMask (LOOM_CAP) = 0xFFFFFFFFFFF3FFF#64 := by
  have e : LOOM_CAP = blockBase 0x05 + (0x0) := by unfold LOOM_CAP; first | rfl | (simp only [blockBase]; omega) | omega
  rw [e, regMask_block _ _ _ (by decide) rfl (by omega)]; rfl
@[simp] theorem mask_LOOM_STAT  : regMask (LOOM_STAT) = 0x3FFFFFFFFFFFFFF#64 := by
  have e : LOOM_STAT = blockBase 0x05 + (0x8) := by unfold LOOM_STAT; first | rfl | (simp only [blockBase]; omega) | omega
  rw [e, regMask_block _ _ _ (by decide) rfl (by omega)]; rfl
@[simp] theorem mask_LOOM_INFLIGHT  : regMask (LOOM_INFLIGHT) = 0x1FFFF#64 := by
  have e : LOOM_INFLIGHT = blockBase 0x05 + (0x10) := by unfold LOOM_INFLIGHT; first | rfl | (simp only [blockBase]; omega) | omega
  rw [e, regMask_block _ _ _ (by decide) rfl (by omega)]; rfl
@[simp] theorem mask_LOOM_CFG  : regMask (LOOM_CFG) = 0xFFF#64 := by
  have e : LOOM_CFG = blockBase 0x05 + (0x18) := by unfold LOOM_CFG; first | rfl | (simp only [blockBase]; omega) | omega
  rw [e, regMask_block _ _ _ (by decide) rfl (by omega)]; rfl
@[simp] theorem mask_LOOM_DB  : regMask (LOOM_DB) = 0xFFFFFFFFFFFFFFFF#64 := by
  have e : LOOM_DB = blockBase 0x05 + (0x100) := by unfold LOOM_DB; first | rfl | (simp only [blockBase]; omega) | omega
  rw [e, regMask_block _ _ _ (by decide) rfl (by omega)]; rfl
@[simp] theorem mask_LOOM_DB_DROP  : regMask (LOOM_DB_DROP) = 0xFFFFFFFFFFFFFFFF#64 := by
  have e : LOOM_DB_DROP = blockBase 0x05 + (0x108) := by unfold LOOM_DB_DROP; first | rfl | (simp only [blockBase]; omega) | omega
  rw [e, regMask_block _ _ _ (by decide) rfl (by omega)]; rfl
@[simp] theorem mask_LOOM_FROZEN_DB  : regMask (LOOM_FROZEN_DB) = 0xFFFFFFFFFFFFFFFF#64 := by
  have e : LOOM_FROZEN_DB = blockBase 0x05 + (0x110) := by unfold LOOM_FROZEN_DB; first | rfl | (simp only [blockBase]; omega) | omega
  rw [e, regMask_block _ _ _ (by decide) rfl (by omega)]; rfl
@[simp] theorem mask_LOOM_FETCH_CNT  : regMask (LOOM_FETCH_CNT) = 0xFFFFFFFFFFFFFFFF#64 := by
  have e : LOOM_FETCH_CNT = blockBase 0x05 + (0x118) := by unfold LOOM_FETCH_CNT; first | rfl | (simp only [blockBase]; omega) | omega
  rw [e, regMask_block _ _ _ (by decide) rfl (by omega)]; rfl
@[simp] theorem mask_LOOM_CQE  : regMask (LOOM_CQE) = 0xFFFFFFFFFFFFFFFF#64 := by
  have e : LOOM_CQE = blockBase 0x05 + (0x120) := by unfold LOOM_CQE; first | rfl | (simp only [blockBase]; omega) | omega
  rw [e, regMask_block _ _ _ (by decide) rfl (by omega)]; rfl
@[simp] theorem mask_LOOM_CTX_LOAD  : regMask (LOOM_CTX_LOAD) = 0xFFFFFFFFFFFFFFFF#64 := by
  have e : LOOM_CTX_LOAD = blockBase 0x05 + (0x128) := by unfold LOOM_CTX_LOAD; first | rfl | (simp only [blockBase]; omega) | omega
  rw [e, regMask_block _ _ _ (by decide) rfl (by omega)]; rfl
@[simp] theorem mask_LOOM_CTX_EVICT  : regMask (LOOM_CTX_EVICT) = 0xFFFFFFFFFFFFFFFF#64 := by
  have e : LOOM_CTX_EVICT = blockBase 0x05 + (0x130) := by unfold LOOM_CTX_EVICT; first | rfl | (simp only [blockBase]; omega) | omega
  rw [e, regMask_block _ _ _ (by decide) rfl (by omega)]; rfl
@[simp] theorem mask_LOOM_PARK  : regMask (LOOM_PARK) = 0xFFFFFFFFFFFFFFFF#64 := by
  have e : LOOM_PARK = blockBase 0x05 + (0x138) := by unfold LOOM_PARK; first | rfl | (simp only [blockBase]; omega) | omega
  rw [e, regMask_block _ _ _ (by decide) rfl (by omega)]; rfl
@[simp] theorem mask_LOOM_QERR  : regMask (LOOM_QERR) = 0xFFFFFFFFFFFFFFFF#64 := by
  have e : LOOM_QERR = blockBase 0x05 + (0x140) := by unfold LOOM_QERR; first | rfl | (simp only [blockBase]; omega) | omega
  rw [e, regMask_block _ _ _ (by decide) rfl (by omega)]; rfl
@[simp] theorem mask_LOOM_REVOKED_DMA  : regMask (LOOM_REVOKED_DMA) = 0xFFFFFFFFFFFFFFFF#64 := by
  have e : LOOM_REVOKED_DMA = blockBase 0x05 + (0x148) := by unfold LOOM_REVOKED_DMA; first | rfl | (simp only [blockBase]; omega) | omega
  rw [e, regMask_block _ _ _ (by decide) rfl (by omega)]; rfl
@[simp] theorem mask_DQ_CFG  : regMask (DQ_CFG) = 0xFFFFC0000001#64 := by
  have e : DQ_CFG = blockBase 0x05 + (0x400000) := by unfold DQ_CFG; first | rfl | (simp only [blockBase]; omega) | omega
  rw [e, regMask_block _ _ _ (by decide) rfl (by omega)]; rfl
theorem at_DQ_CTRL_A : ∀ i < 1024, maskOf (fieldsAt defs05 (0x401000 + 0x10 * i)) = 0xFFFFFFFF03FF#64 := by
  intro i hi
  have e : defs05 = defs05.take 15 ++ ⟨0x401000, 1024, 0x10, 0, 0x0, [⟨⟨0, 1⟩, .rw, 0x0⟩, ⟨⟨1, 2⟩, .ro, 0x0⟩, ⟨⟨3, 4⟩, .rw, 0x0⟩, ⟨⟨7, 3⟩, .rw, 0x0⟩, ⟨⟨16, 16⟩, .rw, 0x0⟩, ⟨⟨32, 4⟩, .rw, 0x9⟩, ⟨⟨36, 4⟩, .rw, 0x0⟩, ⟨⟨40, 8⟩, .rw, 0x50⟩]⟩ :: defs05.drop 16 := rfl
  rw [e, fieldsAt_apart (by decide +kernel) (RegDef.hits_row (by decide) hi)]; decide +kernel
@[simp] theorem mask_DQ_CTRL_A (i : Nat) (hi : i < 1024) : regMask (DQ_CTRL_A i) = 0xFFFFFFFF03FF#64 := by
  have e : DQ_CTRL_A i = blockBase 0x05 + (0x401000 + 0x10 * i) := by unfold DQ_CTRL_A; first | rfl | (simp only [blockBase]; omega) | omega
  rw [e, regMask_block _ _ _ (by decide) rfl (by omega)]; exact at_DQ_CTRL_A i hi
theorem at_DQ_CTRL_B : ∀ i < 1024, maskOf (fieldsAt defs05 (0x401008 + 0x10 * i)) = 0xFFFFFFFFFFFFF000#64 := by
  intro i hi
  have e : defs05 = defs05.take 16 ++ ⟨0x401008, 1024, 0x10, 0, 0x0, [⟨⟨12, 52⟩, .rw, 0x0⟩]⟩ :: defs05.drop 17 := rfl
  rw [e, fieldsAt_apart (by decide +kernel) (RegDef.hits_row (by decide) hi)]; decide +kernel
@[simp] theorem mask_DQ_CTRL_B (i : Nat) (hi : i < 1024) : regMask (DQ_CTRL_B i) = 0xFFFFFFFFFFFFF000#64 := by
  have e : DQ_CTRL_B i = blockBase 0x05 + (0x401008 + 0x10 * i) := by unfold DQ_CTRL_B; first | rfl | (simp only [blockBase]; omega) | omega
  rw [e, regMask_block _ _ _ (by decide) rfl (by omega)]; exact at_DQ_CTRL_B i hi
theorem at_DQ_QP : ∀ i < 4096, maskOf (fieldsAt defs05 (0x410000 + 0x8 * i)) = 0x3FF0FFFFF0FFF#64 := by
  intro i hi
  have e : defs05 = defs05.take 17 ++ ⟨0x410000, 4096, 0x8, 0, 0x0, [⟨⟨0, 10⟩, .rw, 0x0⟩, ⟨⟨10, 1⟩, .rw, 0x0⟩, ⟨⟨11, 1⟩, .ro, 0x0⟩, ⟨⟨16, 16⟩, .rw, 0x0⟩, ⟨⟨32, 4⟩, .rw, 0x4⟩, ⟨⟨40, 10⟩, .ro, 0x0⟩]⟩ :: defs05.drop 18 := rfl
  rw [e, fieldsAt_apart (by decide +kernel) (RegDef.hits_row (by decide) hi)]; decide +kernel
@[simp] theorem mask_DQ_QP (i : Nat) (hi : i < 4096) : regMask (DQ_QP i) = 0x3FF0FFFFF0FFF#64 := by
  have e : DQ_QP i = blockBase 0x05 + (0x410000 + 0x8 * i) := by unfold DQ_QP; first | rfl | (simp only [blockBase]; omega) | omega
  rw [e, regMask_block _ _ _ (by decide) rfl (by omega)]; exact at_DQ_QP i hi
@[simp] theorem mask_DQ_CMDS  : regMask (DQ_CMDS) = 0xFFFFFFFFFFFFFFFF#64 := by
  have e : DQ_CMDS = blockBase 0x05 + (0x400100) := by unfold DQ_CMDS; first | rfl | (simp only [blockBase]; omega) | omega
  rw [e, regMask_block _ _ _ (by decide) rfl (by omega)]; rfl
@[simp] theorem mask_DQ_TMO  : regMask (DQ_TMO) = 0xFFFFFFFFFFFFFFFF#64 := by
  have e : DQ_TMO = blockBase 0x05 + (0x400108) := by unfold DQ_TMO; first | rfl | (simp only [blockBase]; omega) | omega
  rw [e, regMask_block _ _ _ (by decide) rfl (by omega)]; rfl
@[simp] theorem mask_DQ_LATE_CPL  : regMask (DQ_LATE_CPL) = 0xFFFFFFFFFFFFFFFF#64 := by
  have e : DQ_LATE_CPL = blockBase 0x05 + (0x400110) := by unfold DQ_LATE_CPL; first | rfl | (simp only [blockBase]; omega) | omega
  rw [e, regMask_block _ _ _ (by decide) rfl (by omega)]; rfl
@[simp] theorem mask_BTN_CAP  : regMask (BTN_CAP) = 0x3FF0F3F03FF1FFF#64 := by
  have e : BTN_CAP = blockBase 0x05 + (0x800000) := by unfold BTN_CAP; first | rfl | (simp only [blockBase]; omega) | omega
  rw [e, regMask_block _ _ _ (by decide) rfl (by omega)]; rfl
@[simp] theorem mask_BTN_STAT  : regMask (BTN_STAT) = 0x1FFF03FF#64 := by
  have e : BTN_STAT = blockBase 0x05 + (0x800008) := by unfold BTN_STAT; first | rfl | (simp only [blockBase]; omega) | omega
  rw [e, regMask_block _ _ _ (by decide) rfl (by omega)]; rfl
theorem at_BTN_WIN_STATE : ∀ i < 4096, maskOf (fieldsAt defs05 (0x810000 + 0x8 * i)) = 0x3FFFFFFFFFFF7#64 := by
  intro i hi
  have e : defs05 = defs05.take 23 ++ ⟨0x810000, 4096, 0x8, 0, 0x0, [⟨⟨0, 2⟩, .ro, 0x0⟩, ⟨⟨2, 1⟩, .ro, 0x0⟩, ⟨⟨4, 14⟩, .ro, 0x0⟩, ⟨⟨18, 16⟩, .ro, 0x0⟩, ⟨⟨34, 16⟩, .ro, 0x0⟩]⟩ :: defs05.drop 24 := rfl
  rw [e, fieldsAt_apart (by decide +kernel) (RegDef.hits_row (by decide) hi)]; decide +kernel
@[simp] theorem mask_BTN_WIN_STATE (i : Nat) (hi : i < 4096) : regMask (BTN_WIN_STATE i) = 0x3FFFFFFFFFFF7#64 := by
  have e : BTN_WIN_STATE i = blockBase 0x05 + (0x810000 + 0x8 * i) := by unfold BTN_WIN_STATE; first | rfl | (simp only [blockBase]; omega) | omega
  rw [e, regMask_block _ _ _ (by decide) rfl (by omega)]; exact at_BTN_WIN_STATE i hi
@[simp] theorem mask_BTN_LINES_IN  : regMask (BTN_LINES_IN) = 0xFFFFFFFFFFFFFFFF#64 := by
  have e : BTN_LINES_IN = blockBase 0x05 + (0x800100) := by unfold BTN_LINES_IN; first | rfl | (simp only [blockBase]; omega) | omega
  rw [e, regMask_block _ _ _ (by decide) rfl (by omega)]; rfl
@[simp] theorem mask_BTN_REJECT  : regMask (BTN_REJECT) = 0xFFFFFFFFFFFFFFFF#64 := by
  have e : BTN_REJECT = blockBase 0x05 + (0x800108) := by unfold BTN_REJECT; first | rfl | (simp only [blockBase]; omega) | omega
  rw [e, regMask_block _ _ _ (by decide) rfl (by omega)]; rfl
@[simp] theorem mask_BTN_DUP  : regMask (BTN_DUP) = 0xFFFFFFFFFFFFFFFF#64 := by
  have e : BTN_DUP = blockBase 0x05 + (0x800110) := by unfold BTN_DUP; first | rfl | (simp only [blockBase]; omega) | omega
  rw [e, regMask_block _ _ _ (by decide) rfl (by omega)]; rfl
@[simp] theorem mask_BTN_OPENS  : regMask (BTN_OPENS) = 0xFFFFFFFFFFFFFFFF#64 := by
  have e : BTN_OPENS = blockBase 0x05 + (0x800118) := by unfold BTN_OPENS; first | rfl | (simp only [blockBase]; omega) | omega
  rw [e, regMask_block _ _ _ (by decide) rfl (by omega)]; rfl
@[simp] theorem mask_BTN_BACKPRESSURE  : regMask (BTN_BACKPRESSURE) = 0xFFFFFFFFFFFFFFFF#64 := by
  have e : BTN_BACKPRESSURE = blockBase 0x05 + (0x800120) := by unfold BTN_BACKPRESSURE; first | rfl | (simp only [blockBase]; omega) | omega
  rw [e, regMask_block _ _ _ (by decide) rfl (by omega)]; rfl
@[simp] theorem mask_PICK_CAP  : regMask (PICK_CAP) = 0x3F03FF3FFF07FF#64 := by
  have e : PICK_CAP = blockBase 0x06 + (0x0) := by unfold PICK_CAP; first | rfl | (simp only [blockBase]; omega) | omega
  rw [e, regMask_block _ _ _ (by decide) rfl (by omega)]; rfl
@[simp] theorem mask_PICK_CFG  : regMask (PICK_CFG) = 0xFFFF#64 := by
  have e : PICK_CFG = blockBase 0x06 + (0x8) := by unfold PICK_CFG; first | rfl | (simp only [blockBase]; omega) | omega
  rw [e, regMask_block _ _ _ (by decide) rfl (by omega)]; rfl
@[simp] theorem mask_PICK_STAT  : regMask (PICK_STAT) = 0x7FF07FF03FF3FFF#64 := by
  have e : PICK_STAT = blockBase 0x06 + (0x10) := by unfold PICK_STAT; first | rfl | (simp only [blockBase]; omega) | omega
  rw [e, regMask_block _ _ _ (by decide) rfl (by omega)]; rfl
theorem at_PICK_CLK_CFG : ∀ i < 1024, maskOf (fieldsAt defs06 (0x10000 + 0x20 * i)) = 0xFFFFFFFFFFFFFFF3#64 := by
  intro i hi
  have e : defs06 = defs06.take 3 ++ ⟨0x10000, 1024, 0x20, 0, 0x0, [⟨⟨0, 2⟩, .ro, 0x0⟩, ⟨⟨4, 4⟩, .ro, 0x3⟩, ⟨⟨8, 8⟩, .ro, 0x40⟩, ⟨⟨16, 16⟩, .ro, 0x7D0⟩, ⟨⟨32, 16⟩, .ro, 0x1388⟩, ⟨⟨48, 16⟩, .ro, 0x3E8⟩]⟩ :: defs06.drop 4 := rfl
  rw [e, fieldsAt_apart (by decide +kernel) (RegDef.hits_row (by decide) hi)]; decide +kernel
@[simp] theorem mask_PICK_CLK_CFG (i : Nat) (hi : i < 1024) : regMask (PICK_CLK_CFG i) = 0xFFFFFFFFFFFFFFF3#64 := by
  have e : PICK_CLK_CFG i = blockBase 0x06 + (0x10000 + 0x20 * i) := by unfold PICK_CLK_CFG; first | rfl | (simp only [blockBase]; omega) | omega
  rw [e, regMask_block _ _ _ (by decide) rfl (by omega)]; exact at_PICK_CLK_CFG i hi
theorem at_PICK_CLK_NOM : ∀ i < 1024, maskOf (fieldsAt defs06 (0x10008 + 0x20 * i)) = 0x7FFFFFFFFF#64 := by
  intro i hi
  have e : defs06 = defs06.take 4 ++ ⟨0x10008, 1024, 0x20, 0, 0x0, [⟨⟨0, 32⟩, .ro, 0x0⟩, ⟨⟨32, 7⟩, .ro, 0x0⟩]⟩ :: defs06.drop 5 := rfl
  rw [e, fieldsAt_apart (by decide +kernel) (RegDef.hits_row (by decide) hi)]; decide +kernel
@[simp] theorem mask_PICK_CLK_NOM (i : Nat) (hi : i < 1024) : regMask (PICK_CLK_NOM i) = 0x7FFFFFFFFF#64 := by
  have e : PICK_CLK_NOM i = blockBase 0x06 + (0x10008 + 0x20 * i) := by unfold PICK_CLK_NOM; first | rfl | (simp only [blockBase]; omega) | omega
  rw [e, regMask_block _ _ _ (by decide) rfl (by omega)]; exact at_PICK_CLK_NOM i hi
theorem at_PICK_CLK_STAT : ∀ i < 1024, maskOf (fieldsAt defs06 (0x10010 + 0x20 * i)) = 0xFFFF07FFFFFFFFFF#64 := by
  intro i hi
  have e : defs06 = defs06.take 5 ++ ⟨0x10010, 1024, 0x20, 0, 0x0, [⟨⟨0, 40⟩, .ro, 0x0⟩, ⟨⟨40, 3⟩, .ro, 0x0⟩, ⟨⟨48, 16⟩, .ro, 0x0⟩]⟩ :: defs06.drop 6 := rfl
  rw [e, fieldsAt_apart (by decide +kernel) (RegDef.hits_row (by decide) hi)]; decide +kernel
@[simp] theorem mask_PICK_CLK_STAT (i : Nat) (hi : i < 1024) : regMask (PICK_CLK_STAT i) = 0xFFFF07FFFFFFFFFF#64 := by
  have e : PICK_CLK_STAT i = blockBase 0x06 + (0x10010 + 0x20 * i) := by unfold PICK_CLK_STAT; first | rfl | (simp only [blockBase]; omega) | omega
  rw [e, regMask_block _ _ _ (by decide) rfl (by omega)]; exact at_PICK_CLK_STAT i hi
theorem at_PICK_CLK_IDX : ∀ i < 1024, maskOf (fieldsAt defs06 (0x10018 + 0x20 * i)) = 0xFFFFFFFFFFFFFFFF#64 := by
  intro i hi
  have e : defs06 = defs06.take 6 ++ ⟨0x10018, 1024, 0x20, 0, 0x0, [⟨⟨0, 64⟩, .ro, 0x0⟩]⟩ :: defs06.drop 7 := rfl
  rw [e, fieldsAt_apart (by decide +kernel) (RegDef.hits_row (by decide) hi)]; decide +kernel
@[simp] theorem mask_PICK_CLK_IDX (i : Nat) (hi : i < 1024) : regMask (PICK_CLK_IDX i) = 0xFFFFFFFFFFFFFFFF#64 := by
  have e : PICK_CLK_IDX i = blockBase 0x06 + (0x10018 + 0x20 * i) := by unfold PICK_CLK_IDX; first | rfl | (simp only [blockBase]; omega) | omega
  rw [e, regMask_block _ _ _ (by decide) rfl (by omega)]; exact at_PICK_CLK_IDX i hi
theorem at_PICK_ALARM : ∀ i < 64, maskOf (fieldsAt defs06 (0x20000 + 0x8 * i)) = 0xFFFFFFFFFFFF3FFF#64 := by decide +kernel
@[simp] theorem mask_PICK_ALARM (i : Nat) (hi : i < 64) : regMask (PICK_ALARM i) = 0xFFFFFFFFFFFF3FFF#64 := by
  have e : PICK_ALARM i = blockBase 0x06 + (0x20000 + 0x8 * i) := by unfold PICK_ALARM; first | rfl | (simp only [blockBase]; omega) | omega
  rw [e, regMask_block _ _ _ (by decide) rfl (by omega)]; exact at_PICK_ALARM i hi
@[simp] theorem mask_PICK_MSG  : regMask (PICK_MSG) = 0xFFFFFFFFFFFFFFFF#64 := by
  have e : PICK_MSG = blockBase 0x06 + (0x100) := by unfold PICK_MSG; first | rfl | (simp only [blockBase]; omega) | omega
  rw [e, regMask_block _ _ _ (by decide) rfl (by omega)]; rfl
@[simp] theorem mask_PICK_MSG_DROP  : regMask (PICK_MSG_DROP) = 0xFFFFFFFFFFFFFFFF#64 := by
  have e : PICK_MSG_DROP = blockBase 0x06 + (0x108) := by unfold PICK_MSG_DROP; first | rfl | (simp only [blockBase]; omega) | omega
  rw [e, regMask_block _ _ _ (by decide) rfl (by omega)]; rfl
@[simp] theorem mask_PICK_RELEASED  : regMask (PICK_RELEASED) = 0xFFFFFFFFFFFFFFFF#64 := by
  have e : PICK_RELEASED = blockBase 0x06 + (0x110) := by unfold PICK_RELEASED; first | rfl | (simp only [blockBase]; omega) | omega
  rw [e, regMask_block _ _ _ (by decide) rfl (by omega)]; rfl
@[simp] theorem mask_PICK_UNTIMED  : regMask (PICK_UNTIMED) = 0xFFFFFFFFFFFFFFFF#64 := by
  have e : PICK_UNTIMED = blockBase 0x06 + (0x118) := by unfold PICK_UNTIMED; first | rfl | (simp only [blockBase]; omega) | omega
  rw [e, regMask_block _ _ _ (by decide) rfl (by omega)]; rfl
@[simp] theorem mask_PICK_LATEST  : regMask (PICK_LATEST) = 0xFFFFFFFFFFFFFFFF#64 := by
  have e : PICK_LATEST = blockBase 0x06 + (0x120) := by unfold PICK_LATEST; first | rfl | (simp only [blockBase]; omega) | omega
  rw [e, regMask_block _ _ _ (by decide) rfl (by omega)]; rfl
@[simp] theorem mask_PICK_CROWD  : regMask (PICK_CROWD) = 0xFFFFFFFFFFFFFFFF#64 := by
  have e : PICK_CROWD = blockBase 0x06 + (0x128) := by unfold PICK_CROWD; first | rfl | (simp only [blockBase]; omega) | omega
  rw [e, regMask_block _ _ _ (by decide) rfl (by omega)]; rfl
@[simp] theorem mask_PICK_PAIR_WAIT  : regMask (PICK_PAIR_WAIT) = 0xFFFFFFFFFFFFFFFF#64 := by
  have e : PICK_PAIR_WAIT = blockBase 0x06 + (0x130) := by unfold PICK_PAIR_WAIT; first | rfl | (simp only [blockBase]; omega) | omega
  rw [e, regMask_block _ _ _ (by decide) rfl (by omega)]; rfl
@[simp] theorem mask_PICK_HEAP_FULL  : regMask (PICK_HEAP_FULL) = 0xFFFFFFFFFFFFFFFF#64 := by
  have e : PICK_HEAP_FULL = blockBase 0x06 + (0x138) := by unfold PICK_HEAP_FULL; first | rfl | (simp only [blockBase]; omega) | omega
  rw [e, regMask_block _ _ _ (by decide) rfl (by omega)]; rfl
@[simp] theorem mask_PICK_GRP_FULL  : regMask (PICK_GRP_FULL) = 0xFFFFFFFFFFFFFFFF#64 := by
  have e : PICK_GRP_FULL = blockBase 0x06 + (0x140) := by unfold PICK_GRP_FULL; first | rfl | (simp only [blockBase]; omega) | omega
  rw [e, regMask_block _ _ _ (by decide) rfl (by omega)]; rfl
@[simp] theorem mask_PICK_GRP_SHORT  : regMask (PICK_GRP_SHORT) = 0xFFFFFFFFFFFFFFFF#64 := by
  have e : PICK_GRP_SHORT = blockBase 0x06 + (0x148) := by unfold PICK_GRP_SHORT; first | rfl | (simp only [blockBase]; omega) | omega
  rw [e, regMask_block _ _ _ (by decide) rfl (by omega)]; rfl
@[simp] theorem mask_PICK_GRP_LATE  : regMask (PICK_GRP_LATE) = 0xFFFFFFFFFFFFFFFF#64 := by
  have e : PICK_GRP_LATE = blockBase 0x06 + (0x150) := by unfold PICK_GRP_LATE; first | rfl | (simp only [blockBase]; omega) | omega
  rw [e, regMask_block _ _ _ (by decide) rfl (by omega)]; rfl
@[simp] theorem mask_PICK_GRP_MISMATCH  : regMask (PICK_GRP_MISMATCH) = 0xFFFFFFFFFFFFFFFF#64 := by
  have e : PICK_GRP_MISMATCH = blockBase 0x06 + (0x158) := by unfold PICK_GRP_MISMATCH; first | rfl | (simp only [blockBase]; omega) | omega
  rw [e, regMask_block _ _ _ (by decide) rfl (by omega)]; rfl
@[simp] theorem mask_SHU_MODE  : regMask (SHU_MODE) = 0x3#64 := by
  have e : SHU_MODE = blockBase 0x07 + (0x0) := by unfold SHU_MODE; first | rfl | (simp only [blockBase]; omega) | omega
  rw [e, regMask_block _ _ _ (by decide) rfl (by omega)]; rfl
@[simp] theorem mask_SHU_PARSE_CFG  : regMask (SHU_PARSE_CFG) = 0xFFFF00FF#64 := by
  have e : SHU_PARSE_CFG = blockBase 0x07 + (0x8) := by unfold SHU_PARSE_CFG; first | rfl | (simp only [blockBase]; omega) | omega
  rw [e, regMask_block _ _ _ (by decide) rfl (by omega)]; rfl
theorem at_SHU_LANE : ∀ i < 8, maskOf (fieldsAt defs07 (0x800 + 0x8 * i)) = 0xF3#64 := by decide +kernel
@[simp] theorem mask_SHU_LANE (i : Nat) (hi : i < 8) : regMask (SHU_LANE i) = 0xF3#64 := by
  have e : SHU_LANE i = blockBase 0x07 + (0x800 + 0x8 * i) := by unfold SHU_LANE; first | rfl | (simp only [blockBase]; omega) | omega
  rw [e, regMask_block _ _ _ (by decide) rfl (by omega)]; exact at_SHU_LANE i hi
theorem at_SHU_PORT_CFG : ∀ i < 8, maskOf (fieldsAt defs07 (0x1000 + 0x100 * i)) = 0xFFFF3FFFFFFF#64 := by decide +kernel
@[simp] theorem mask_SHU_PORT_CFG (i : Nat) (hi : i < 8) : regMask (SHU_PORT_CFG i) = 0xFFFF3FFFFFFF#64 := by
  have e : SHU_PORT_CFG i = blockBase 0x07 + (0x1000 + 0x100 * i) := by unfold SHU_PORT_CFG; first | rfl | (simp only [blockBase]; omega) | omega
  rw [e, regMask_block _ _ _ (by decide) rfl (by omega)]; exact at_SHU_PORT_CFG i hi
theorem at_SHU_PORT_STAT : ∀ i < 8, maskOf (fieldsAt defs07 (0x1008 + 0x100 * i)) = 0xFFFFFFFF07#64 := by decide +kernel
@[simp] theorem mask_SHU_PORT_STAT (i : Nat) (hi : i < 8) : regMask (SHU_PORT_STAT i) = 0xFFFFFFFF07#64 := by
  have e : SHU_PORT_STAT i = blockBase 0x07 + (0x1008 + 0x100 * i) := by unfold SHU_PORT_STAT; first | rfl | (simp only [blockBase]; omega) | omega
  rw [e, regMask_block _ _ _ (by decide) rfl (by omega)]; exact at_SHU_PORT_STAT i hi
theorem at_SHU_PORT_MAC : ∀ i < 8, maskOf (fieldsAt defs07 (0x1010 + 0x100 * i)) = 0xFFFFFFFFFFFF#64 := by decide +kernel
@[simp] theorem mask_SHU_PORT_MAC (i : Nat) (hi : i < 8) : regMask (SHU_PORT_MAC i) = 0xFFFFFFFFFFFF#64 := by
  have e : SHU_PORT_MAC i = blockBase 0x07 + (0x1010 + 0x100 * i) := by unfold SHU_PORT_MAC; first | rfl | (simp only [blockBase]; omega) | omega
  rw [e, regMask_block _ _ _ (by decide) rfl (by omega)]; exact at_SHU_PORT_MAC i hi
theorem at_SHU_PFC_THR : ∀ i < 8, ∀ j < 8, maskOf (fieldsAt defs07 (0x1040 + 0x100 * i + 0x8 * j)) = 0xFFFFFFFF#64 := by decide +kernel
@[simp] theorem mask_SHU_PFC_THR (i j : Nat) (hi : i < 8) (hj : j < 8) : regMask (SHU_PFC_THR i j) = 0xFFFFFFFF#64 := by
  have e : SHU_PFC_THR i j = blockBase 0x07 + (0x1040 + 0x100 * i + 0x8 * j) := by unfold SHU_PFC_THR; first | rfl | (simp only [blockBase]; omega) | omega
  rw [e, regMask_block _ _ _ (by decide) rfl (by omega)]; exact at_SHU_PFC_THR i hi j hj
theorem at_SHU_EXQ_BASE : ∀ i < 8, maskOf (fieldsAt defs07 (0x1080 + 0x100 * i)) = 0xFFFFFFFFFFFFF01F#64 := by decide +kernel
@[simp] theorem mask_SHU_EXQ_BASE (i : Nat) (hi : i < 8) : regMask (SHU_EXQ_BASE i) = 0xFFFFFFFFFFFFF01F#64 := by
  have e : SHU_EXQ_BASE i = blockBase 0x07 + (0x1080 + 0x100 * i) := by unfold SHU_EXQ_BASE; first | rfl | (simp only [blockBase]; omega) | omega
  rw [e, regMask_block _ _ _ (by decide) rfl (by omega)]; exact at_SHU_EXQ_BASE i hi
theorem at_SHU_EXQ_IDX : ∀ i < 8, maskOf (fieldsAt defs07 (0x1088 + 0x100 * i)) = 0x1FFF1FFF#64 := by decide +kernel
@[simp] theorem mask_SHU_EXQ_IDX (i : Nat) (hi : i < 8) : regMask (SHU_EXQ_IDX i) = 0x1FFF1FFF#64 := by
  have e : SHU_EXQ_IDX i = blockBase 0x07 + (0x1088 + 0x100 * i) := by unfold SHU_EXQ_IDX; first | rfl | (simp only [blockBase]; omega) | omega
  rw [e, regMask_block _ _ _ (by decide) rfl (by omega)]; exact at_SHU_EXQ_IDX i hi
theorem at_SHU_RAWQ_BASE : ∀ i < 8, maskOf (fieldsAt defs07 (0x1090 + 0x100 * i)) = 0xFFFFFFFFFFFFF01F#64 := by decide +kernel
@[simp] theorem mask_SHU_RAWQ_BASE (i : Nat) (hi : i < 8) : regMask (SHU_RAWQ_BASE i) = 0xFFFFFFFFFFFFF01F#64 := by
  have e : SHU_RAWQ_BASE i = blockBase 0x07 + (0x1090 + 0x100 * i) := by unfold SHU_RAWQ_BASE; first | rfl | (simp only [blockBase]; omega) | omega
  rw [e, regMask_block _ _ _ (by decide) rfl (by omega)]; exact at_SHU_RAWQ_BASE i hi
theorem at_SHU_RAWQ_IDX : ∀ i < 8, maskOf (fieldsAt defs07 (0x1098 + 0x100 * i)) = 0x1FFF1FFF#64 := by decide +kernel
@[simp] theorem mask_SHU_RAWQ_IDX (i : Nat) (hi : i < 8) : regMask (SHU_RAWQ_IDX i) = 0x1FFF1FFF#64 := by
  have e : SHU_RAWQ_IDX i = blockBase 0x07 + (0x1098 + 0x100 * i) := by unfold SHU_RAWQ_IDX; first | rfl | (simp only [blockBase]; omega) | omega
  rw [e, regMask_block _ _ _ (by decide) rfl (by omega)]; exact at_SHU_RAWQ_IDX i hi
theorem at_SHU_RX_FRAMES : ∀ i < 8, maskOf (fieldsAt defs07 (0x2000 + 0x100 * i)) = 0xFFFFFFFFFFFFFFFF#64 := by decide +kernel
@[simp] theorem mask_SHU_RX_FRAMES (i : Nat) (hi : i < 8) : regMask (SHU_RX_FRAMES i) = 0xFFFFFFFFFFFFFFFF#64 := by
  have e : SHU_RX_FRAMES i = blockBase 0x07 + (0x2000 + 0x100 * i) := by unfold SHU_RX_FRAMES; first | rfl | (simp only [blockBase]; omega) | omega
  rw [e, regMask_block _ _ _ (by decide) rfl (by omega)]; exact at_SHU_RX_FRAMES i hi
theorem at_SHU_TX_FRAMES : ∀ i < 8, maskOf (fieldsAt defs07 (0x2008 + 0x100 * i)) = 0xFFFFFFFFFFFFFFFF#64 := by decide +kernel
@[simp] theorem mask_SHU_TX_FRAMES (i : Nat) (hi : i < 8) : regMask (SHU_TX_FRAMES i) = 0xFFFFFFFFFFFFFFFF#64 := by
  have e : SHU_TX_FRAMES i = blockBase 0x07 + (0x2008 + 0x100 * i) := by unfold SHU_TX_FRAMES; first | rfl | (simp only [blockBase]; omega) | omega
  rw [e, regMask_block _ _ _ (by decide) rfl (by omega)]; exact at_SHU_TX_FRAMES i hi
theorem at_SHU_PAUSE_RX : ∀ i < 8, maskOf (fieldsAt defs07 (0x2010 + 0x100 * i)) = 0xFFFFFFFFFFFFFFFF#64 := by decide +kernel
@[simp] theorem mask_SHU_PAUSE_RX (i : Nat) (hi : i < 8) : regMask (SHU_PAUSE_RX i) = 0xFFFFFFFFFFFFFFFF#64 := by
  have e : SHU_PAUSE_RX i = blockBase 0x07 + (0x2010 + 0x100 * i) := by unfold SHU_PAUSE_RX; first | rfl | (simp only [blockBase]; omega) | omega
  rw [e, regMask_block _ _ _ (by decide) rfl (by omega)]; exact at_SHU_PAUSE_RX i hi
theorem at_SHU_PAUSE_TX : ∀ i < 8, maskOf (fieldsAt defs07 (0x2018 + 0x100 * i)) = 0xFFFFFFFFFFFFFFFF#64 := by decide +kernel
@[simp] theorem mask_SHU_PAUSE_TX (i : Nat) (hi : i < 8) : regMask (SHU_PAUSE_TX i) = 0xFFFFFFFFFFFFFFFF#64 := by
  have e : SHU_PAUSE_TX i = blockBase 0x07 + (0x2018 + 0x100 * i) := by unfold SHU_PAUSE_TX; first | rfl | (simp only [blockBase]; omega) | omega
  rw [e, regMask_block _ _ _ (by decide) rfl (by omega)]; exact at_SHU_PAUSE_TX i hi
theorem at_SHU_TX_UNDERRUN : ∀ i < 8, maskOf (fieldsAt defs07 (0x2020 + 0x100 * i)) = 0xFFFFFFFFFFFFFFFF#64 := by decide +kernel
@[simp] theorem mask_SHU_TX_UNDERRUN (i : Nat) (hi : i < 8) : regMask (SHU_TX_UNDERRUN i) = 0xFFFFFFFFFFFFFFFF#64 := by
  have e : SHU_TX_UNDERRUN i = blockBase 0x07 + (0x2020 + 0x100 * i) := by unfold SHU_TX_UNDERRUN; first | rfl | (simp only [blockBase]; omega) | omega
  rw [e, regMask_block _ _ _ (by decide) rfl (by omega)]; exact at_SHU_TX_UNDERRUN i hi
theorem at_SHU_TX_POISON : ∀ i < 8, maskOf (fieldsAt defs07 (0x2028 + 0x100 * i)) = 0xFFFFFFFFFFFFFFFF#64 := by decide +kernel
@[simp] theorem mask_SHU_TX_POISON (i : Nat) (hi : i < 8) : regMask (SHU_TX_POISON i) = 0xFFFFFFFFFFFFFFFF#64 := by
  have e : SHU_TX_POISON i = blockBase 0x07 + (0x2028 + 0x100 * i) := by unfold SHU_TX_POISON; first | rfl | (simp only [blockBase]; omega) | omega
  rw [e, regMask_block _ _ _ (by decide) rfl (by omega)]; exact at_SHU_TX_POISON i hi
theorem at_SHU_FEC_CE : ∀ i < 8, maskOf (fieldsAt defs07 (0x2030 + 0x100 * i)) = 0xFFFFFFFFFFFFFFFF#64 := by decide +kernel
@[simp] theorem mask_SHU_FEC_CE (i : Nat) (hi : i < 8) : regMask (SHU_FEC_CE i) = 0xFFFFFFFFFFFFFFFF#64 := by
  have e : SHU_FEC_CE i = blockBase 0x07 + (0x2030 + 0x100 * i) := by unfold SHU_FEC_CE; first | rfl | (simp only [blockBase]; omega) | omega
  rw [e, regMask_block _ _ _ (by decide) rfl (by omega)]; exact at_SHU_FEC_CE i hi
theorem at_SHU_FEC_UCE : ∀ i < 8, maskOf (fieldsAt defs07 (0x2038 + 0x100 * i)) = 0xFFFFFFFFFFFFFFFF#64 := by decide +kernel
@[simp] theorem mask_SHU_FEC_UCE (i : Nat) (hi : i < 8) : regMask (SHU_FEC_UCE i) = 0xFFFFFFFFFFFFFFFF#64 := by
  have e : SHU_FEC_UCE i = blockBase 0x07 + (0x2038 + 0x100 * i) := by unfold SHU_FEC_UCE; first | rfl | (simp only [blockBase]; omega) | omega
  rw [e, regMask_block _ _ _ (by decide) rfl (by omega)]; exact at_SHU_FEC_UCE i hi
theorem at_SHU_PAUSE_WD : ∀ i < 8, maskOf (fieldsAt defs07 (0x2040 + 0x100 * i)) = 0xFFFFFFFFFFFFFFFF#64 := by decide +kernel
@[simp] theorem mask_SHU_PAUSE_WD (i : Nat) (hi : i < 8) : regMask (SHU_PAUSE_WD i) = 0xFFFFFFFFFFFFFFFF#64 := by
  have e : SHU_PAUSE_WD i = blockBase 0x07 + (0x2040 + 0x100 * i) := by unfold SHU_PAUSE_WD; first | rfl | (simp only [blockBase]; omega) | omega
  rw [e, regMask_block _ _ _ (by decide) rfl (by omega)]; exact at_SHU_PAUSE_WD i hi
theorem at_SHU_LINK_FAIL : ∀ i < 8, maskOf (fieldsAt defs07 (0x2048 + 0x100 * i)) = 0xFFFFFFFFFFFFFFFF#64 := by decide +kernel
@[simp] theorem mask_SHU_LINK_FAIL (i : Nat) (hi : i < 8) : regMask (SHU_LINK_FAIL i) = 0xFFFFFFFFFFFFFFFF#64 := by
  have e : SHU_LINK_FAIL i = blockBase 0x07 + (0x2048 + 0x100 * i) := by unfold SHU_LINK_FAIL; first | rfl | (simp only [blockBase]; omega) | omega
  rw [e, regMask_block _ _ _ (by decide) rfl (by omega)]; exact at_SHU_LINK_FAIL i hi
theorem at_SHU_RAW_BAD : ∀ i < 8, maskOf (fieldsAt defs07 (0x2050 + 0x100 * i)) = 0xFFFFFFFFFFFFFFFF#64 := by decide +kernel
@[simp] theorem mask_SHU_RAW_BAD (i : Nat) (hi : i < 8) : regMask (SHU_RAW_BAD i) = 0xFFFFFFFFFFFFFFFF#64 := by
  have e : SHU_RAW_BAD i = blockBase 0x07 + (0x2050 + 0x100 * i) := by unfold SHU_RAW_BAD; first | rfl | (simp only [blockBase]; omega) | omega
  rw [e, regMask_block _ _ _ (by decide) rfl (by omega)]; exact at_SHU_RAW_BAD i hi
theorem at_SHU_RSN : ∀ i < 8, ∀ j < 32, maskOf (fieldsAt defs07 (0x3000 + 0x100 * i + 0x8 * j)) = 0xFFFFFFFFFFFFFFFF#64 := by
  intro i hi j hj
  have e : defs07 = defs07.take 22 ++ ⟨0x3000, 8, 0x100, 32, 0x8, [⟨⟨0, 64⟩, .ro, 0x0⟩]⟩ :: defs07.drop 23 := rfl
  rw [e, fieldsAt_apart (by decide +kernel) (RegDef.hits_grid (by decide) (by decide) (by decide) hi hj)]; decide +kernel
@[simp] theorem mask_SHU_RSN (i j : Nat) (hi : i < 8) (hj : j < 32) : regMask (SHU_RSN i j) = 0xFFFFFFFFFFFFFFFF#64 := by
  have e : SHU_RSN i j = blockBase 0x07 + (0x3000 + 0x100 * i + 0x8 * j) := by unfold SHU_RSN; first | rfl | (simp only [blockBase]; omega) | omega
  rw [e, regMask_block _ _ _ (by decide) rfl (by omega)]; exact at_SHU_RSN i hi j hj
@[simp] theorem mask_SHU_QP_CMD  : regMask (SHU_QP_CMD) = 0xFFFFFFFF1F#64 := by
  have e : SHU_QP_CMD = blockBase 0x07 + (0x4000) := by unfold SHU_QP_CMD; first | rfl | (simp only [blockBase]; omega) | omega
  rw [e, regMask_block _ _ _ (by decide) rfl (by omega)]; rfl
@[simp] theorem mask_SHU_QP_ARG  : regMask (SHU_QP_ARG) = 0xFFFFFFFFFFFFFFFF#64 := by
  have e : SHU_QP_ARG = blockBase 0x07 + (0x4008) := by unfold SHU_QP_ARG; first | rfl | (simp only [blockBase]; omega) | omega
  rw [e, regMask_block _ _ _ (by decide) rfl (by omega)]; rfl
@[simp] theorem mask_SHU_QPC_BASE  : regMask (SHU_QPC_BASE) = 0xFFFFFFE00000#64 := by
  have e : SHU_QPC_BASE = blockBase 0x07 + (0x4010) := by unfold SHU_QPC_BASE; first | rfl | (simp only [blockBase]; omega) | omega
  rw [e, regMask_block _ _ _ (by decide) rfl (by omega)]; rfl
@[simp] theorem mask_SHU_MR_BASE  : regMask (SHU_MR_BASE) = 0xFFFFFFE00000#64 := by
  have e : SHU_MR_BASE = blockBase 0x07 + (0x4018) := by unfold SHU_MR_BASE; first | rfl | (simp only [blockBase]; omega) | omega
  rw [e, regMask_block _ _ _ (by decide) rfl (by omega)]; rfl
@[simp] theorem mask_SHU_XP_STAT  : regMask (SHU_XP_STAT) = 0x1FFF7FFF#64 := by
  have e : SHU_XP_STAT = blockBase 0x07 + (0x4020) := by unfold SHU_XP_STAT; first | rfl | (simp only [blockBase]; omega) | omega
  rw [e, regMask_block _ _ _ (by decide) rfl (by omega)]; rfl
theorem at_SHU_TRN : ∀ i < 14, maskOf (fieldsAt defs07 (0x4100 + 0x8 * i)) = 0xFFFFFFFFFFFFFFFF#64 := by decide +kernel
@[simp] theorem mask_SHU_TRN (i : Nat) (hi : i < 14) : regMask (SHU_TRN i) = 0xFFFFFFFFFFFFFFFF#64 := by
  have e : SHU_TRN i = blockBase 0x07 + (0x4100 + 0x8 * i) := by unfold SHU_TRN; first | rfl | (simp only [blockBase]; omega) | omega
  rw [e, regMask_block _ _ _ (by decide) rfl (by omega)]; exact at_SHU_TRN i hi
@[simp] theorem mask_SHU_CTX_MISS  : regMask (SHU_CTX_MISS) = 0xFFFFFFFFFFFFFFFF#64 := by
  have e : SHU_CTX_MISS = blockBase 0x07 + (0x4200) := by unfold SHU_CTX_MISS; first | rfl | (simp only [blockBase]; omega) | omega
  rw [e, regMask_block _ _ _ (by decide) rfl (by omega)]; rfl
@[simp] theorem mask_SHU_RETX  : regMask (SHU_RETX) = 0xFFFFFFFFFFFFFFFF#64 := by
  have e : SHU_RETX = blockBase 0x07 + (0x4208) := by unfold SHU_RETX; first | rfl | (simp only [blockBase]; omega) | omega
  rw [e, regMask_block _ _ _ (by decide) rfl (by omega)]; rfl
@[simp] theorem mask_SHU_CNP_TX  : regMask (SHU_CNP_TX) = 0xFFFFFFFFFFFFFFFF#64 := by
  have e : SHU_CNP_TX = blockBase 0x07 + (0x4210) := by unfold SHU_CNP_TX; first | rfl | (simp only [blockBase]; omega) | omega
  rw [e, regMask_block _ _ _ (by decide) rfl (by omega)]; rfl
@[simp] theorem mask_XF_CAP  : regMask (XF_CAP) = 0xFFFFF03FF3FFF#64 := by
  have e : XF_CAP = blockBase 0x08 + (0x0) := by unfold XF_CAP; first | rfl | (simp only [blockBase]; omega) | omega
  rw [e, regMask_block _ _ _ (by decide) rfl (by omega)]; rfl
@[simp] theorem mask_XF_CFG  : regMask (XF_CFG) = 0xFFFFFFF00000#64 := by
  have e : XF_CFG = blockBase 0x08 + (0x8) := by unfold XF_CFG; first | rfl | (simp only [blockBase]; omega) | omega
  rw [e, regMask_block _ _ _ (by decide) rfl (by omega)]; rfl
@[simp] theorem mask_XF_STAT  : regMask (XF_STAT) = 0xFFFF03FF#64 := by
  have e : XF_STAT = blockBase 0x08 + (0x10) := by unfold XF_STAT; first | rfl | (simp only [blockBase]; omega) | omega
  rw [e, regMask_block _ _ _ (by decide) rfl (by omega)]; rfl
theorem at_XF_SLOT : ∀ i < 8192, maskOf (fieldsAt defs08 (0x10000 + 0x8 * i)) = 0xFFFF0003FFF7#64 := by
  intro i hi
  have e : defs08 = defs08.take 3 ++ ⟨0x10000, 8192, 0x8, 0, 0x0, [⟨⟨0, 2⟩, .ro, 0x0⟩, ⟨⟨2, 1⟩, .ro, 0x0⟩, ⟨⟨4, 14⟩, .ro, 0x0⟩, ⟨⟨32, 16⟩, .ro, 0x0⟩]⟩ :: defs08.drop 4 := rfl
  rw [e, fieldsAt_apart (by decide +kernel) (RegDef.hits_row (by decide) hi)]; decide +kernel
@[simp] theorem mask_XF_SLOT (i : Nat) (hi : i < 8192) : regMask (XF_SLOT i) = 0xFFFF0003FFF7#64 := by
  have e : XF_SLOT i = blockBase 0x08 + (0x10000 + 0x8 * i) := by unfold XF_SLOT; first | rfl | (simp only [blockBase]; omega) | omega
  rw [e, regMask_block _ _ _ (by decide) rfl (by omega)]; exact at_XF_SLOT i hi
@[simp] theorem mask_XF_REQ  : regMask (XF_REQ) = 0xFFFFFFFFFFFFFFFF#64 := by
  have e : XF_REQ = blockBase 0x08 + (0x100) := by unfold XF_REQ; first | rfl | (simp only [blockBase]; omega) | omega
  rw [e, regMask_block _ _ _ (by decide) rfl (by omega)]; rfl
@[simp] theorem mask_XF_BYTES_IN  : regMask (XF_BYTES_IN) = 0xFFFFFFFFFFFFFFFF#64 := by
  have e : XF_BYTES_IN = blockBase 0x08 + (0x108) := by unfold XF_BYTES_IN; first | rfl | (simp only [blockBase]; omega) | omega
  rw [e, regMask_block _ _ _ (by decide) rfl (by omega)]; rfl
@[simp] theorem mask_XF_BYTES_OUT  : regMask (XF_BYTES_OUT) = 0xFFFFFFFFFFFFFFFF#64 := by
  have e : XF_BYTES_OUT = blockBase 0x08 + (0x110) := by unfold XF_BYTES_OUT; first | rfl | (simp only [blockBase]; omega) | omega
  rw [e, regMask_block _ _ _ (by decide) rfl (by omega)]; rfl
@[simp] theorem mask_XF_KEY_MISS  : regMask (XF_KEY_MISS) = 0xFFFFFFFFFFFFFFFF#64 := by
  have e : XF_KEY_MISS = blockBase 0x08 + (0x118) := by unfold XF_KEY_MISS; first | rfl | (simp only [blockBase]; omega) | omega
  rw [e, regMask_block _ _ _ (by decide) rfl (by omega)]; rfl
@[simp] theorem mask_XF_TAG_FAIL  : regMask (XF_TAG_FAIL) = 0xFFFFFFFFFFFFFFFF#64 := by
  have e : XF_TAG_FAIL = blockBase 0x08 + (0x120) := by unfold XF_TAG_FAIL; first | rfl | (simp only [blockBase]; omega) | omega
  rw [e, regMask_block _ _ _ (by decide) rfl (by omega)]; rfl
@[simp] theorem mask_XF_FORMAT_FAIL  : regMask (XF_FORMAT_FAIL) = 0xFFFFFFFFFFFFFFFF#64 := by
  have e : XF_FORMAT_FAIL = blockBase 0x08 + (0x128) := by unfold XF_FORMAT_FAIL; first | rfl | (simp only [blockBase]; omega) | omega
  rw [e, regMask_block _ _ _ (by decide) rfl (by omega)]; rfl
@[simp] theorem mask_XF_OUT_FULL  : regMask (XF_OUT_FULL) = 0xFFFFFFFFFFFFFFFF#64 := by
  have e : XF_OUT_FULL = blockBase 0x08 + (0x130) := by unfold XF_OUT_FULL; first | rfl | (simp only [blockBase]; omega) | omega
  rw [e, regMask_block _ _ _ (by decide) rfl (by omega)]; rfl
theorem at_PE_PORT_CFG : ∀ i < 16, maskOf (fieldsAt defs09 (0x1000 + 0x40 * i)) = 0x1F1F#64 := by decide +kernel
@[simp] theorem mask_PE_PORT_CFG (i : Nat) (hi : i < 16) : regMask (PE_PORT_CFG i) = 0x1F1F#64 := by
  have e : PE_PORT_CFG i = blockBase 0x09 + (0x1000 + 0x40 * i) := by unfold PE_PORT_CFG; first | rfl | (simp only [blockBase]; omega) | omega
  rw [e, regMask_block _ _ _ (by decide) rfl (by omega)]; exact at_PE_PORT_CFG i hi
theorem at_PE_PORT_PHYS : ∀ i < 16, maskOf (fieldsAt defs09 (0x1008 + 0x40 * i)) = 0xFFFFFFF0FFFFFFF#64 := by decide +kernel
@[simp] theorem mask_PE_PORT_PHYS (i : Nat) (hi : i < 16) : regMask (PE_PORT_PHYS i) = 0xFFFFFFF0FFFFFFF#64 := by
  have e : PE_PORT_PHYS i = blockBase 0x09 + (0x1008 + 0x40 * i) := by unfold PE_PORT_PHYS; first | rfl | (simp only [blockBase]; omega) | omega
  rw [e, regMask_block _ _ _ (by decide) rfl (by omega)]; exact at_PE_PORT_PHYS i hi
theorem at_PE_PORT_STAT : ∀ i < 16, maskOf (fieldsAt defs09 (0x1010 + 0x40 * i)) = 0x1FFFF707#64 := by decide +kernel
@[simp] theorem mask_PE_PORT_STAT (i : Nat) (hi : i < 16) : regMask (PE_PORT_STAT i) = 0x1FFFF707#64 := by
  have e : PE_PORT_STAT i = blockBase 0x09 + (0x1010 + 0x40 * i) := by unfold PE_PORT_STAT; first | rfl | (simp only [blockBase]; omega) | omega
  rw [e, regMask_block _ _ _ (by decide) rfl (by omega)]; exact at_PE_PORT_STAT i hi
@[simp] theorem mask_PE_HANDLE_REJECT  : regMask (PE_HANDLE_REJECT) = 0xFFFFFFFFFFFFFFFF#64 := by
  have e : PE_HANDLE_REJECT = blockBase 0x09 + (0x100) := by unfold PE_HANDLE_REJECT; first | rfl | (simp only [blockBase]; omega) | omega
  rw [e, regMask_block _ _ _ (by decide) rfl (by omega)]; rfl
@[simp] theorem mask_PE_DMA_FAULT  : regMask (PE_DMA_FAULT) = 0xFFFFFFFFFFFFFFFF#64 := by
  have e : PE_DMA_FAULT = blockBase 0x09 + (0x108) := by unfold PE_DMA_FAULT; first | rfl | (simp only [blockBase]; omega) | omega
  rw [e, regMask_block _ _ _ (by decide) rfl (by omega)]; rfl
@[simp] theorem mask_PE_VDM_DROP  : regMask (PE_VDM_DROP) = 0xFFFFFFFFFFFFFFFF#64 := by
  have e : PE_VDM_DROP = blockBase 0x09 + (0x110) := by unfold PE_VDM_DROP; first | rfl | (simp only [blockBase]; omega) | omega
  rw [e, regMask_block _ _ _ (by decide) rfl (by omega)]; rfl
@[simp] theorem mask_PE_LINK_FAIL  : regMask (PE_LINK_FAIL) = 0xFFFFFFFFFFFFFFFF#64 := by
  have e : PE_LINK_FAIL = blockBase 0x09 + (0x118) := by unfold PE_LINK_FAIL; first | rfl | (simp only [blockBase]; omega) | omega
  rw [e, regMask_block _ _ _ (by decide) rfl (by omega)]; rfl
theorem at_PE_IOTLB_INV : ∀ i < 2, maskOf (fieldsAt defs09 (0x2000 + 0x10 * i)) = 0x3FFFF#64 := by decide +kernel
@[simp] theorem mask_PE_IOTLB_INV (i : Nat) (hi : i < 2) : regMask (PE_IOTLB_INV i) = 0x3FFFF#64 := by
  have e : PE_IOTLB_INV i = blockBase 0x09 + (0x2000 + 0x10 * i) := by unfold PE_IOTLB_INV; first | rfl | (simp only [blockBase]; omega) | omega
  rw [e, regMask_block _ _ _ (by decide) rfl (by omega)]; exact at_PE_IOTLB_INV i hi
theorem at_PE_IOTLB_INV_ADDR : ∀ i < 2, maskOf (fieldsAt defs09 (0x2008 + 0x10 * i)) = 0xFFFFFFFFFFFFF000#64 := by decide +kernel
@[simp] theorem mask_PE_IOTLB_INV_ADDR (i : Nat) (hi : i < 2) : regMask (PE_IOTLB_INV_ADDR i) = 0xFFFFFFFFFFFFF000#64 := by
  have e : PE_IOTLB_INV_ADDR i = blockBase 0x09 + (0x2008 + 0x10 * i) := by unfold PE_IOTLB_INV_ADDR; first | rfl | (simp only [blockBase]; omega) | omega
  rw [e, regMask_block _ _ _ (by decide) rfl (by omega)]; exact at_PE_IOTLB_INV_ADDR i hi
@[simp] theorem mask_PE_IOTLB_MISS  : regMask (PE_IOTLB_MISS) = 0xFFFFFFFFFFFFFFFF#64 := by
  have e : PE_IOTLB_MISS = blockBase 0x09 + (0x2100) := by unfold PE_IOTLB_MISS; first | rfl | (simp only [blockBase]; omega) | omega
  rw [e, regMask_block _ _ _ (by decide) rfl (by omega)]; rfl
@[simp] theorem mask_PE_IOTLB_PTE  : regMask (PE_IOTLB_PTE) = 0xFFFFFFFFFFFFFFFF#64 := by
  have e : PE_IOTLB_PTE = blockBase 0x09 + (0x2108) := by unfold PE_IOTLB_PTE; first | rfl | (simp only [blockBase]; omega) | omega
  rw [e, regMask_block _ _ _ (by decide) rfl (by omega)]; rfl
@[simp] theorem mask_PE_IOTLB_FAULT  : regMask (PE_IOTLB_FAULT) = 0xFFFFFFFFFFFFFFFF#64 := by
  have e : PE_IOTLB_FAULT = blockBase 0x09 + (0x2110) := by unfold PE_IOTLB_FAULT; first | rfl | (simp only [blockBase]; omega) | omega
  rw [e, regMask_block _ _ _ (by decide) rfl (by omega)]; rfl
@[simp] theorem mask_PE_IOTLB_INVCNT  : regMask (PE_IOTLB_INVCNT) = 0xFFFFFFFFFFFFFFFF#64 := by
  have e : PE_IOTLB_INVCNT = blockBase 0x09 + (0x2118) := by unfold PE_IOTLB_INVCNT; first | rfl | (simp only [blockBase]; omega) | omega
  rw [e, regMask_block _ _ _ (by decide) rfl (by omega)]; rfl
theorem mask_MC_CFG (n : Nat) (hn : n < 12) : regMask (MC_CFG n) = 0x3FFFF1FFFFF0F#64 := by
  have hl : blockDefs (0x10 + n) = some mcDefs ∨ blockDefs (0x10 + n) = some (mcDefs ++ defs10) := by
    revert n; decide
  rcases hl with hl | hl <;> (rw [MC_CFG, mcBase, regMask_block _ _ _ (by omega) hl (by omega)]; rfl)
theorem mask_MC_STAT (n : Nat) (hn : n < 12) : regMask (MC_STAT n) = 0xFFF03#64 := by
  have hl : blockDefs (0x10 + n) = some mcDefs ∨ blockDefs (0x10 + n) = some (mcDefs ++ defs10) := by
    revert n; decide
  rcases hl with hl | hl <;> (rw [MC_STAT, mcBase, regMask_block _ _ _ (by omega) hl (by omega)]; rfl)
theorem mask_MC_SCRUB (n : Nat) (hn : n < 12) : regMask (MC_SCRUB n) = 0xFFFFFFFF#64 := by
  have hl : blockDefs (0x10 + n) = some mcDefs ∨ blockDefs (0x10 + n) = some (mcDefs ++ defs10) := by
    revert n; decide
  rcases hl with hl | hl <;> (rw [MC_SCRUB, mcBase, regMask_block _ _ _ (by omega) hl (by omega)]; rfl)
theorem mask_MC_CE (n : Nat) (hn : n < 12) : regMask (MC_CE n) = 0xFFFFFFFFFFFFFFFF#64 := by
  have hl : blockDefs (0x10 + n) = some mcDefs ∨ blockDefs (0x10 + n) = some (mcDefs ++ defs10) := by
    revert n; decide
  rcases hl with hl | hl <;> (rw [MC_CE, mcBase, regMask_block _ _ _ (by omega) hl (by omega)]; rfl)
theorem mask_MC_UCE (n : Nat) (hn : n < 12) : regMask (MC_UCE n) = 0xFFFFFFFFFFFFFFFF#64 := by
  have hl : blockDefs (0x10 + n) = some mcDefs ∨ blockDefs (0x10 + n) = some (mcDefs ++ defs10) := by
    revert n; decide
  rcases hl with hl | hl <;> (rw [MC_UCE, mcBase, regMask_block _ _ _ (by omega) hl (by omega)]; rfl)
theorem mask_MC_DEMAND_FIX (n : Nat) (hn : n < 12) : regMask (MC_DEMAND_FIX n) = 0xFFFFFFFFFFFFFFFF#64 := by
  have hl : blockDefs (0x10 + n) = some mcDefs ∨ blockDefs (0x10 + n) = some (mcDefs ++ defs10) := by
    revert n; decide
  rcases hl with hl | hl <;> (rw [MC_DEMAND_FIX, mcBase, regMask_block _ _ _ (by omega) hl (by omega)]; rfl)
theorem mask_MC_PATROL_FIX (n : Nat) (hn : n < 12) : regMask (MC_PATROL_FIX n) = 0xFFFFFFFFFFFFFFFF#64 := by
  have hl : blockDefs (0x10 + n) = some mcDefs ∨ blockDefs (0x10 + n) = some (mcDefs ++ defs10) := by
    revert n; decide
  rcases hl with hl | hl <;> (rw [MC_PATROL_FIX, mcBase, regMask_block _ _ _ (by omega) hl (by omega)]; rfl)
theorem mask_MC_CA_RETRY (n : Nat) (hn : n < 12) : regMask (MC_CA_RETRY n) = 0xFFFFFFFFFFFFFFFF#64 := by
  have hl : blockDefs (0x10 + n) = some mcDefs ∨ blockDefs (0x10 + n) = some (mcDefs ++ defs10) := by
    revert n; decide
  rcases hl with hl | hl <;> (rw [MC_CA_RETRY, mcBase, regMask_block _ _ _ (by omega) hl (by omega)]; rfl)
theorem mask_MC_WCRC_RETRY (n : Nat) (hn : n < 12) : regMask (MC_WCRC_RETRY n) = 0xFFFFFFFFFFFFFFFF#64 := by
  have hl : blockDefs (0x10 + n) = some mcDefs ∨ blockDefs (0x10 + n) = some (mcDefs ++ defs10) := by
    revert n; decide
  rcases hl with hl | hl <;> (rw [MC_WCRC_RETRY, mcBase, regMask_block _ _ _ (by omega) hl (by omega)]; rfl)
theorem mask_MC_MIRROR_RECOVER (n : Nat) (hn : n < 12) : regMask (MC_MIRROR_RECOVER n) = 0xFFFFFFFFFFFFFFFF#64 := by
  have hl : blockDefs (0x10 + n) = some mcDefs ∨ blockDefs (0x10 + n) = some (mcDefs ++ defs10) := by
    revert n; decide
  rcases hl with hl | hl <;> (rw [MC_MIRROR_RECOVER, mcBase, regMask_block _ _ _ (by omega) hl (by omega)]; rfl)
theorem mask_MC_PAIR_MERGE (n : Nat) (hn : n < 12) : regMask (MC_PAIR_MERGE n) = 0xFFFFFFFFFFFFFFFF#64 := by
  have hl : blockDefs (0x10 + n) = some mcDefs ∨ blockDefs (0x10 + n) = some (mcDefs ++ defs10) := by
    revert n; decide
  rcases hl with hl | hl <;> (rw [MC_PAIR_MERGE, mcBase, regMask_block _ _ _ (by omega) hl (by omega)]; rfl)
theorem mask_MC_BKT_TRIP (n : Nat) (hn : n < 12) : regMask (MC_BKT_TRIP n) = 0xFFFFFFFFFFFFFFFF#64 := by
  have hl : blockDefs (0x10 + n) = some mcDefs ∨ blockDefs (0x10 + n) = some (mcDefs ++ defs10) := by
    revert n; decide
  rcases hl with hl | hl <;> (rw [MC_BKT_TRIP, mcBase, regMask_block _ _ _ (by omega) hl (by omega)]; rfl)
theorem at_MC_ILV : ∀ i < 4, maskOf (fieldsAt (mcDefs ++ defs10) (0x1000 + 0x8 * i)) = 0x1FFFFFFFFFFFF#64 := by decide +kernel
@[simp] theorem mask_MC_ILV (i : Nat) (hi : i < 4) : regMask (MC_ILV i) = 0x1FFFFFFFFFFFF#64 := by
  have e : MC_ILV i = blockBase 0x10 + (0x1000 + 0x8 * i) := by unfold MC_ILV; first | rfl | (simp only [blockBase]; omega) | omega
  rw [e, regMask_block _ _ _ (by decide) rfl (by omega)]; exact at_MC_ILV i hi
@[simp] theorem mask_MESH_CFG  : regMask (MESH_CFG) = 0xFFFF07FF03#64 := by
  have e : MESH_CFG = blockBase 0x20 + (0x0) := by unfold MESH_CFG; first | rfl | (simp only [blockBase]; omega) | omega
  rw [e, regMask_block _ _ _ (by decide) rfl (by omega)]; rfl
@[simp] theorem mask_DIR_CFG  : regMask (DIR_CFG) = 0xFF03FF#64 := by
  have e : DIR_CFG = blockBase 0x20 + (0x100) := by unfold DIR_CFG; first | rfl | (simp only [blockBase]; omega) | omega
  rw [e, regMask_block _ _ _ (by decide) rfl (by omega)]; rfl
theorem at_MESH_HART_MAP : ∀ i < 192, maskOf (fieldsAt defs20 (0x1000 + 0x8 * i)) = 0x1FF#64 := by
  intro i hi
  have e : defs20 = defs20.take 2 ++ ⟨0x1000, 192, 0x8, 0, 0x0, [⟨⟨0, 8⟩, .ro, 0x0⟩, ⟨⟨8, 1⟩, .ro, 0x0⟩]⟩ :: defs20.drop 3 := rfl
  rw [e, fieldsAt_apart (by decide +kernel) (RegDef.hits_row (by decide) hi)]; decide +kernel
@[simp] theorem mask_MESH_HART_MAP (i : Nat) (hi : i < 192) : regMask (MESH_HART_MAP i) = 0x1FF#64 := by
  have e : MESH_HART_MAP i = blockBase 0x20 + (0x1000 + 0x8 * i) := by unfold MESH_HART_MAP; first | rfl | (simp only [blockBase]; omega) | omega
  rw [e, regMask_block _ _ _ (by decide) rfl (by omega)]; exact at_MESH_HART_MAP i hi
theorem at_LLC_MAP : ∀ i < 4096, maskOf (fieldsAt defs20 (0x8000 + 0x8 * i)) = 0xFF03FF#64 := by
  intro i hi
  have e : defs20 = defs20.take 3 ++ ⟨0x8000, 4096, 0x8, 0, 0x0, [⟨⟨0, 8⟩, .ro, 0x0⟩, ⟨⟨8, 2⟩, .ro, 0x0⟩, ⟨⟨16, 8⟩, .ro, 0x0⟩]⟩ :: defs20.drop 4 := rfl
  rw [e, fieldsAt_apart (by decide +kernel) (RegDef.hits_row (by decide) hi)]; decide +kernel
@[simp] theorem mask_LLC_MAP (i : Nat) (hi : i < 4096) : regMask (LLC_MAP i) = 0xFF03FF#64 := by
  have e : LLC_MAP i = blockBase 0x20 + (0x8000 + 0x8 * i) := by unfold LLC_MAP; first | rfl | (simp only [blockBase]; omega) | omega
  rw [e, regMask_block _ _ _ (by decide) rfl (by omega)]; exact at_LLC_MAP i hi
theorem at_DBG_TRC_STAT : ∀ i < 4, maskOf (fieldsAt defs21 (0x100 + 0x10 * i)) = 0xFFFF1F#64 := by decide +kernel
@[simp] theorem mask_DBG_TRC_STAT (i : Nat) (hi : i < 4) : regMask (DBG_TRC_STAT i) = 0xFFFF1F#64 := by
  have e : DBG_TRC_STAT i = blockBase 0x21 + (0x100 + 0x10 * i) := by unfold DBG_TRC_STAT; first | rfl | (simp only [blockBase]; omega) | omega
  rw [e, regMask_block _ _ _ (by decide) rfl (by omega)]; exact at_DBG_TRC_STAT i hi
theorem at_DBG_TRC_DROP : ∀ i < 4, maskOf (fieldsAt defs21 (0x108 + 0x10 * i)) = 0xFFFFFFFFFFFFFFFF#64 := by decide +kernel
@[simp] theorem mask_DBG_TRC_DROP (i : Nat) (hi : i < 4) : regMask (DBG_TRC_DROP i) = 0xFFFFFFFFFFFFFFFF#64 := by
  have e : DBG_TRC_DROP i = blockBase 0x21 + (0x108 + 0x10 * i) := by unfold DBG_TRC_DROP; first | rfl | (simp only [blockBase]; omega) | omega
  rw [e, regMask_block _ _ _ (by decide) rfl (by omega)]; exact at_DBG_TRC_DROP i hi
theorem at_DBG_CNT : ∀ i < 4, ∀ j < 64, maskOf (fieldsAt defs21 (0x1000 + 0x200 * i + 0x8 * j)) = 0xFFFFFFFFFFFFFFFF#64 := by
  intro i hi j hj
  have e : defs21 = defs21.take 2 ++ ⟨0x1000, 4, 0x200, 64, 0x8, [⟨⟨0, 64⟩, .ro, 0x0⟩]⟩ :: defs21.drop 3 := rfl
  rw [e, fieldsAt_apart (by decide +kernel) (RegDef.hits_grid (by decide) (by decide) (by decide) hi hj)]; decide +kernel
@[simp] theorem mask_DBG_CNT (i j : Nat) (hi : i < 4) (hj : j < 64) : regMask (DBG_CNT i j) = 0xFFFFFFFFFFFFFFFF#64 := by
  have e : DBG_CNT i j = blockBase 0x21 + (0x1000 + 0x200 * i + 0x8 * j) := by unfold DBG_CNT; first | rfl | (simp only [blockBase]; omega) | omega
  rw [e, regMask_block _ _ _ (by decide) rfl (by omega)]; exact at_DBG_CNT i hi j hj
theorem at_LOOM_SQ_TAIL : ∀ i < 256, maskOf (fieldsAt pageDefs (0x0 + 0x10 * i)) = 0xFFFF#64 := by
  intro i hi
  have e : pageDefs = pageDefs.take 0 ++ ⟨0x0, 256, 0x10, 0, 0x0, [⟨⟨0, 16⟩, .rw, 0x0⟩]⟩ :: pageDefs.drop 1 := rfl
  rw [e, fieldsAt_apart (by decide +kernel) (RegDef.hits_row (by decide) hi)]; decide +kernel
@[simp] theorem mask_LOOM_SQ_TAIL (f i : Nat) (hf : f < 8193) (hi : i < 256) : regMask (LOOM_SQ_TAIL f i) = 0xFFFF#64 := by
  have e : LOOM_SQ_TAIL f i = pageBase f + (0x0 + 0x10 * i) := by unfold LOOM_SQ_TAIL; first | rfl | (simp only [blockBase]; omega) | omega
  rw [e, regMask_page _ _ hf (by omega)]; exact at_LOOM_SQ_TAIL i hi
theorem at_LOOM_CQ_HEAD : ∀ i < 256, maskOf (fieldsAt pageDefs (0x8 + 0x10 * i)) = 0xFFFF#64 := by
  intro i hi
  have e : pageDefs = pageDefs.take 1 ++ ⟨0x8, 256, 0x10, 0, 0x0, [⟨⟨0, 16⟩, .rw, 0x0⟩]⟩ :: pageDefs.drop 2 := rfl
  rw [e, fieldsAt_apart (by decide +kernel) (RegDef.hits_row (by decide) hi)]; decide +kernel
@[simp] theorem mask_LOOM_CQ_HEAD (f i : Nat) (hf : f < 8193) (hi : i < 256) : regMask (LOOM_CQ_HEAD f i) = 0xFFFF#64 := by
  have e : LOOM_CQ_HEAD f i = pageBase f + (0x8 + 0x10 * i) := by unfold LOOM_CQ_HEAD; first | rfl | (simp only [blockBase]; omega) | omega
  rw [e, regMask_page _ _ hf (by omega)]; exact at_LOOM_CQ_HEAD i hi
@[simp] theorem mask_LOOM_FSTAT (f : Nat) (hf : f < 8193) : regMask (LOOM_FSTAT f) = 0x1FFF03FFFF1F#64 := by
  have e : LOOM_FSTAT f = pageBase f + (0x1000) := by unfold LOOM_FSTAT; first | rfl | (simp only [blockBase]; omega) | omega
  rw [e, regMask_page _ _ hf (by omega)]; rfl
theorem at_LOOM_QSQB : ∀ i < 256, maskOf (fieldsAt pageDefs (0x2000 + 0x20 * i)) = 0xFFFFFFFFFFFFF000#64 := by
  intro i hi
  have e : pageDefs = pageDefs.take 3 ++ ⟨0x2000, 256, 0x20, 0, 0x0, [⟨⟨12, 52⟩, .rw, 0x0⟩]⟩ :: pageDefs.drop 4 := rfl
  rw [e, fieldsAt_apart (by decide +kernel) (RegDef.hits_row (by decide) hi)]; decide +kernel
@[simp] theorem mask_LOOM_QSQB (f i : Nat) (hf : f < 8193) (hi : i < 256) : regMask (LOOM_QSQB f i) = 0xFFFFFFFFFFFFF000#64 := by
  have e : LOOM_QSQB f i = pageBase f + (0x2000 + 0x20 * i) := by unfold LOOM_QSQB; first | rfl | (simp only [blockBase]; omega) | omega
  rw [e, regMask_page _ _ hf (by omega)]; exact at_LOOM_QSQB i hi
theorem at_LOOM_QCQB : ∀ i < 256, maskOf (fieldsAt pageDefs (0x2008 + 0x20 * i)) = 0xFFFFFFFFFFFFF000#64 := by
  intro i hi
  have e : pageDefs = pageDefs.take 4 ++ ⟨0x2008, 256, 0x20, 0, 0x0, [⟨⟨12, 52⟩, .rw, 0x0⟩]⟩ :: pageDefs.drop 5 := rfl
  rw [e, fieldsAt_apart (by decide +kernel) (RegDef.hits_row (by decide) hi)]; decide +kernel
@[simp] theorem mask_LOOM_QCQB (f i : Nat) (hf : f < 8193) (hi : i < 256) : regMask (LOOM_QCQB f i) = 0xFFFFFFFFFFFFF000#64 := by
  have e : LOOM_QCQB f i = pageBase f + (0x2008 + 0x20 * i) := by unfold LOOM_QCQB; first | rfl | (simp only [blockBase]; omega) | omega
  rw [e, regMask_page _ _ hf (by omega)]; exact at_LOOM_QCQB i hi
theorem at_LOOM_QCTL : ∀ i < 256, maskOf (fieldsAt pageDefs (0x2010 + 0x20 * i)) = 0xFFF00FFFFFFFFFD#64 := by
  intro i hi
  have e : pageDefs = pageDefs.take 5 ++ ⟨0x2010, 256, 0x20, 0, 0x0, [⟨⟨0, 1⟩, .rw, 0x0⟩, ⟨⟨2, 2⟩, .ro, 0x0⟩, ⟨⟨4, 4⟩, .rw, 0x4⟩, ⟨⟨8, 4⟩, .rw, 0x4⟩, ⟨⟨12, 8⟩, .rw, 0x0⟩, ⟨⟨20, 8⟩, .rw, 0x0⟩, ⟨⟨28, 8⟩, .rw, 0x0⟩, ⟨⟨36, 4⟩, .ro, 0x0⟩, ⟨⟨48, 12⟩, .ro, 0x0⟩]⟩ :: pageDefs.drop 6 := rfl
  rw [e, fieldsAt_apart (by decide +kernel) (RegDef.hits_row (by decide) hi)]; decide +kernel
@[simp] theorem mask_LOOM_QCTL (f i : Nat) (hf : f < 8193) (hi : i < 256) : regMask (LOOM_QCTL f i) = 0xFFF00FFFFFFFFFD#64 := by
  have e : LOOM_QCTL f i = pageBase f + (0x2010 + 0x20 * i) := by unfold LOOM_QCTL; first | rfl | (simp only [blockBase]; omega) | omega
  rw [e, regMask_page _ _ hf (by omega)]; exact at_LOOM_QCTL i hi
theorem at_SHU_SQ_TAIL : ∀ i < 1024, maskOf (fieldsAt pageDefs (0x8000 + 0x20 * i)) = 0x1FFFF#64 := by
  intro i hi
  have e : pageDefs = pageDefs.take 6 ++ ⟨0x8000, 1024, 0x20, 0, 0x0, [⟨⟨0, 16⟩, .rw, 0x0⟩, ⟨⟨16, 1⟩, .rw, 0x0⟩]⟩ :: pageDefs.drop 7 := rfl
  rw [e, fieldsAt_apart (by decide +kernel) (RegDef.hits_row (by decide) hi)]; decide +kernel
@[simp] theorem mask_SHU_SQ_TAIL (f i : Nat) (hf : f < 8193) (hi : i < 1024) : regMask (SHU_SQ_TAIL f i) = 0x1FFFF#64 := by
  have e : SHU_SQ_TAIL f i = pageBase f + (0x8000 + 0x20 * i) := by unfold SHU_SQ_TAIL; first | rfl | (simp only [blockBase]; omega) | omega
  rw [e, regMask_page _ _ hf (by omega)]; exact at_SHU_SQ_TAIL i hi
theorem at_SHU_RQ_TAIL : ∀ i < 1024, maskOf (fieldsAt pageDefs (0x8008 + 0x20 * i)) = 0x1FFFF#64 := by
  intro i hi
  have e : pageDefs = pageDefs.take 7 ++ ⟨0x8008, 1024, 0x20, 0, 0x0, [⟨⟨0, 16⟩, .rw, 0x0⟩, ⟨⟨16, 1⟩, .rw, 0x0⟩]⟩ :: pageDefs.drop 8 := rfl
  rw [e, fieldsAt_apart (by decide +kernel) (RegDef.hits_row (by decide) hi)]; decide +kernel
@[simp] theorem mask_SHU_RQ_TAIL (f i : Nat) (hf : f < 8193) (hi : i < 1024) : regMask (SHU_RQ_TAIL f i) = 0x1FFFF#64 := by
  have e : SHU_RQ_TAIL f i = pageBase f + (0x8008 + 0x20 * i) := by unfold SHU_RQ_TAIL; first | rfl | (simp only [blockBase]; omega) | omega
  rw [e, regMask_page _ _ hf (by omega)]; exact at_SHU_RQ_TAIL i hi
theorem at_SHU_CQ_HEAD : ∀ i < 1024, maskOf (fieldsAt pageDefs (0x8010 + 0x20 * i)) = 0x1FFFF#64 := by
  intro i hi
  have e : pageDefs = pageDefs.take 8 ++ ⟨0x8010, 1024, 0x20, 0, 0x0, [⟨⟨0, 16⟩, .rw, 0x0⟩, ⟨⟨16, 1⟩, .rw, 0x0⟩]⟩ :: pageDefs.drop 9 := rfl
  rw [e, fieldsAt_apart (by decide +kernel) (RegDef.hits_row (by decide) hi)]; decide +kernel
@[simp] theorem mask_SHU_CQ_HEAD (f i : Nat) (hf : f < 8193) (hi : i < 1024) : regMask (SHU_CQ_HEAD f i) = 0x1FFFF#64 := by
  have e : SHU_CQ_HEAD f i = pageBase f + (0x8010 + 0x20 * i) := by unfold SHU_CQ_HEAD; first | rfl | (simp only [blockBase]; omega) | omega
  rw [e, regMask_page _ _ hf (by omega)]; exact at_SHU_CQ_HEAD i hi
theorem at_SHU_QSTAT : ∀ i < 1024, maskOf (fieldsAt pageDefs (0x8018 + 0x20 * i)) = 0xF3FFFFFF#64 := by
  intro i hi
  have e : pageDefs = pageDefs.take 9 ++ ⟨0x8018, 1024, 0x20, 0, 0x0, [⟨⟨0, 24⟩, .ro, 0x0⟩, ⟨⟨24, 2⟩, .ro, 0x0⟩, ⟨⟨28, 4⟩, .ro, 0x0⟩]⟩ :: pageDefs.drop 10 := rfl
  rw [e, fieldsAt_apart (by decide +kernel) (RegDef.hits_row (by decide) hi)]; decide +kernel
@[simp] theorem mask_SHU_QSTAT (f i : Nat) (hf : f < 8193) (hi : i < 1024) : regMask (SHU_QSTAT f i) = 0xF3FFFFFF#64 := by
  have e : SHU_QSTAT f i = pageBase f + (0x8018 + 0x20 * i) := by unfold SHU_QSTAT; first | rfl | (simp only [blockBase]; omega) | omega
  rw [e, regMask_page _ _ hf (by omega)]; exact at_SHU_QSTAT i hi
theorem mask_RAS_BANK_CTL_blockBank (b : Nat) (l : List RegDef) (hb : b < 0x100) (hl : blockDefs b = some l) : regMask (RAS_BANK_CTL (blockBank b)) = 0xF#64 := by
  rw [RAS_BANK_CTL, regMask_blockBank _ _ l hb hl (by omega)]; rfl
theorem mask_RAS_CEC_blockBank (b : Nat) (l : List RegDef) (hb : b < 0x100) (hl : blockDefs b = some l) : regMask (RAS_CEC (blockBank b)) = 0xFFFFFFFFFFFFFFFF#64 := by
  rw [RAS_CEC, regMask_blockBank _ _ l hb hl (by omega)]; rfl
theorem mask_RAS_LOST_blockBank (b : Nat) (l : List RegDef) (hb : b < 0x100) (hl : blockDefs b = some l) : regMask (RAS_LOST (blockBank b)) = 0xFFFFFFFFFFFFFFFF#64 := by
  rw [RAS_LOST, regMask_blockBank _ _ l hb hl (by omega)]; rfl
theorem at_RAS_STATUS : ∀ i < 8, maskOf (fieldsAt bankDefs (0x40 + 0x20 * i)) = 0xFFFFFF1F#64 := by decide +kernel
theorem mask_RAS_STATUS_blockBank (b i : Nat) (l : List RegDef) (hb : b < 0x100) (hl : blockDefs b = some l) (hi : i < 8) : regMask (RAS_STATUS (blockBank b) i) = 0xFFFFFF1F#64 := by
  rw [RAS_STATUS, Nat.add_assoc, regMask_blockBank _ _ l hb hl (by omega)]; exact at_RAS_STATUS i hi
theorem at_RAS_ADDR : ∀ i < 8, maskOf (fieldsAt bankDefs (0x48 + 0x20 * i)) = 0xFFFFFFFFFFFF#64 := by decide +kernel
theorem mask_RAS_ADDR_blockBank (b i : Nat) (l : List RegDef) (hb : b < 0x100) (hl : blockDefs b = some l) (hi : i < 8) : regMask (RAS_ADDR (blockBank b) i) = 0xFFFFFFFFFFFF#64 := by
  rw [RAS_ADDR, Nat.add_assoc, regMask_blockBank _ _ l hb hl (by omega)]; exact at_RAS_ADDR i hi
theorem at_RAS_MISC : ∀ i < 8, maskOf (fieldsAt bankDefs (0x50 + 0x20 * i)) = 0xFFFFFFFFFFFFFFFF#64 := by decide +kernel
theorem mask_RAS_MISC_blockBank (b i : Nat) (l : List RegDef) (hb : b < 0x100) (hl : blockDefs b = some l) (hi : i < 8) : regMask (RAS_MISC (blockBank b) i) = 0xFFFFFFFFFFFFFFFF#64 := by
  rw [RAS_MISC, Nat.add_assoc, regMask_blockBank _ _ l hb hl (by omega)]; exact at_RAS_MISC i hi
theorem at_RAS_TIME : ∀ i < 8, maskOf (fieldsAt bankDefs (0x58 + 0x20 * i)) = 0xFFFFFFFFFFFFFFFF#64 := by decide +kernel
theorem mask_RAS_TIME_blockBank (b i : Nat) (l : List RegDef) (hb : b < 0x100) (hl : blockDefs b = some l) (hi : i < 8) : regMask (RAS_TIME (blockBank b) i) = 0xFFFFFFFFFFFFFFFF#64 := by
  rw [RAS_TIME, Nat.add_assoc, regMask_blockBank _ _ l hb hl (by omega)]; exact at_RAS_TIME i hi
theorem mask_RAS_BANK_CTL_nodeBank (b : Nat) (hb : b < 224) : regMask (RAS_BANK_CTL (nodeBank b)) = 0xF#64 := by
  rw [RAS_BANK_CTL, regMask_nodeBank _ _ hb (by omega)]; rfl
theorem mask_RAS_CEC_nodeBank (b : Nat) (hb : b < 224) : regMask (RAS_CEC (nodeBank b)) = 0xFFFFFFFFFFFFFFFF#64 := by
  rw [RAS_CEC, regMask_nodeBank _ _ hb (by omega)]; rfl
theorem mask_RAS_LOST_nodeBank (b : Nat) (hb : b < 224) : regMask (RAS_LOST (nodeBank b)) = 0xFFFFFFFFFFFFFFFF#64 := by
  rw [RAS_LOST, regMask_nodeBank _ _ hb (by omega)]; rfl
theorem mask_RAS_STATUS_nodeBank (b i : Nat) (hb : b < 224) (hi : i < 8) : regMask (RAS_STATUS (nodeBank b) i) = 0xFFFFFF1F#64 := by
  rw [RAS_STATUS, Nat.add_assoc, regMask_nodeBank _ _ hb (by omega)]; exact at_RAS_STATUS i hi
theorem mask_RAS_ADDR_nodeBank (b i : Nat) (hb : b < 224) (hi : i < 8) : regMask (RAS_ADDR (nodeBank b) i) = 0xFFFFFFFFFFFF#64 := by
  rw [RAS_ADDR, Nat.add_assoc, regMask_nodeBank _ _ hb (by omega)]; exact at_RAS_ADDR i hi
theorem mask_RAS_MISC_nodeBank (b i : Nat) (hb : b < 224) (hi : i < 8) : regMask (RAS_MISC (nodeBank b) i) = 0xFFFFFFFFFFFFFFFF#64 := by
  rw [RAS_MISC, Nat.add_assoc, regMask_nodeBank _ _ hb (by omega)]; exact at_RAS_MISC i hi
theorem mask_RAS_TIME_nodeBank (b i : Nat) (hb : b < 224) (hi : i < 8) : regMask (RAS_TIME (nodeBank b) i) = 0xFFFFFFFFFFFFFFFF#64 := by
  rw [RAS_TIME, Nat.add_assoc, regMask_nodeBank _ _ hb (by omega)]; exact at_RAS_TIME i hi

end Sys2Proof.Machine
end

