-- ==== Sys2Proof/Laws/Ops.lean ====
section
/-! SUPPORT. The shared operations: what each of them consists of, for frames (`_leaves`). -/

set_option Elab.async false

namespace Sys2Proof.Machine

variable {L : Act → Prop}

/-- The elementary effects that a frame allows. -/
def Allowed (ch : List Part) (R : Nat → Prop) (a : Act) : Prop :=
  match a with
  | .skip | .seq _ _ | .read _ => True
  | .reg a _ => R a
  | .byte _ _ => .mem ∈ ch
  | .setPoison _ _ => .poison ∈ ch
  | .clk _ => .clk ∈ ch
  | .io _ => .io ∈ ch
  | .fuses _ => .fuses ∈ ch
  | .mesh _ => .mesh ∈ ch
  | .core _ => .core ∈ ch
  | .cache _ => .cache ∈ ch
  | .coh _ => .coh ∈ ch
  | .btn _ => .btn ∈ ch
  | .loom _ => .loom ∈ ch
  | .drv _ => .drv ∈ ch
  | .pick _ => .pick ∈ ch
  | .xf _ => .xf ∈ ch
  | .shu _ => .shu ∈ ch
  | .iotlb _ => .iotlb ∈ ch
  | .crl _ => .crl ∈ ch
  | .hrn _ => .hrn ∈ ch
  | .mc _ => .mc ∈ ch
  | .dby _ => .dby ∈ ch
  | .ras _ => .ras ∈ ch
  | .pwr _ => .pwr ∈ ch
  | .boot _ => .boot ∈ ch
  | .dbg _ => .dbg ∈ ch

/-- Frames compose. -/
theorem Keeps.trans {ch : List Part} {R : Nat → Prop} {s t u : State} (h : Keeps ch R s t) (k : Keeps ch R t u) :
    Keeps ch R s u := by
  refine ⟨fun p hp hc => ?_, fun a ha => (k.2 a ha).trans (h.2 a ha)⟩
  have h1 := h.1 p hp hc
  have h2 := k.1 p hp hc
  cases p <;> first | exact absurd rfl hp | exact fun a => (h2 a).trans (h1 a) | exact h2.trans h1
theorem Keeps.refl (ch : List Part) (R : Nat → Prop) (s : State) : Keeps ch R s s := by
  refine ⟨fun p _ _ => ?_, fun _ _ => rfl⟩
  cases p <;> first | exact fun _ => rfl | exact rfl
/-- An effect whose elementary effects a frame allows keeps the frame. -/
theorem Act.Leaves.keeps {ch : List Part} {R : Nat → Prop} {a : Act} (h : Act.Leaves (Allowed ch R) a) :
    ∀ s, Keeps ch R s (a.run s) := by
  induction a with
  | skip => exact fun s => Keeps.refl ch R s
  | seq a b iha ihb => exact fun s => (iha h.1 s).trans (ihb h.2 _)
  | read k ih => exact fun s => ih s (h s) s
  | reg a v =>
    intro s
    refine ⟨fun p hp _ => ?_, fun b hb => ?_⟩
    · cases p <;> first | exact absurd rfl hp | exact fun _ => rfl | rfl
    · exact reg_run_reg_ne s v (fun e => hb (e ▸ h))
  | byte a v =>
    intro s
    refine ⟨fun p _ hc => ?_, fun b _ => rfl⟩
    cases p <;> first | exact absurd h hc | exact fun _ => rfl | rfl
  | setPoison l q =>
    intro s
    refine ⟨fun p _ hc => ?_, fun b _ => rfl⟩
    cases p <;> first | exact absurd h hc | exact fun _ => rfl | rfl
  | _ =>
    intro s
    refine ⟨fun p _ hc => ?_, fun b _ => rfl⟩
    cases p <;> first | exact absurd h hc | exact fun _ => rfl | rfl

/-! ### Registers -/

@[simp] theorem setF_leaves {a : Nat} {f : Fld} {v : Nat} : Act.Leaves L (setF a f v) ↔ ∀ s : State, L (.reg a (f.put (s.reg a) v)) :=
  Iff.rfl
theorem setF_leaves' {a : Nat} {f : Fld} {v : Nat} (h : ∀ w, L (.reg a w)) : Act.Leaves L (setF a f v) := fun _ => h _
theorem setFs_leaves {a : Nat} {l : List (Fld × Nat)} (h : ∀ w, L (.reg a w)) : Act.Leaves L (setFs a l) := fun _ => h _
theorem setB_leaves {a : Nat} {f : Fld} {v : Bool} (h : ∀ w, L (.reg a w)) : Act.Leaves L (setB a f v) := fun _ => h _
theorem addTo_leaves {a n : Nat} (h : ∀ w, L (.reg a w)) : Act.Leaves L (addTo a n) := fun _ => h _
theorem bump_leaves {a : Nat} (h : ∀ w, L (.reg a w)) : Act.Leaves L (bump a) := fun _ => h _
theorem resetReg_leaves {a : Nat} (h : ∀ w, L (.reg a w)) : Act.Leaves L (resetReg a) := h _

/-! ### The mesh and the Harness -/

theorem send_leaves {n : Nat} {f : Flit} (h : ∀ g, L (.mesh g)) : Act.Leaves L (send n f) := fun _ => h _
theorem hrnSend_leaves {h f o : Nat} (hh : ∀ g, L (.hrn g)) (hm : ∀ n q, Act.Leaves L (send n q)) :
    Act.Leaves L (hrnSend h f o) := by
  intro s
  refine leaves_ite trivial ?_
  split
  · trivial
  · exact ⟨hh _, hm _ _, trivial⟩
theorem hrnSendEip_leaves {h f : Nat} {c : Bool} (hh : ∀ g, L (.hrn g)) (hm : ∀ n q, Act.Leaves L (send n q)) :
    Act.Leaves L (hrnSendEip h f c) := by
  intro s
  exact leaves_ite trivial ⟨hh _, hrnSend_leaves hh hm, trivial⟩
theorem hrnEval_leaves {h f : Nat} (hh : ∀ g, L (.hrn g)) (hm : ∀ n q, Act.Leaves L (send n q)) :
    Act.Leaves L (hrnEval h f) := by
  intro s
  exact leaves_ite trivial (hrnSendEip_leaves hh hm)
theorem srcEval_leaves {n : Nat} (hh : ∀ g, L (.hrn g)) (hm : ∀ n q, Act.Leaves L (send n q)) :
    Act.Leaves L (srcEval n) := fun _ => hrnEval_leaves hh hm
theorem inBlock_src {n : Nat} (h : n < 1024) : inBlock 4 (HRN_SRC n) := by
  unfold inBlock HRN_SRC; simp only [blockBase]; omega
theorem inBlock_vec {n : Nat} (h : n < 33792) : inBlock 4 (HRN_VEC n) := by
  unfold inBlock HRN_VEC; simp only [blockBase]; omega
theorem levelIp_leaves {n : Nat} (hr : ∀ w, L (.reg (HRN_SRC n) w)) : Act.Leaves L (levelIp n) := fun _ =>
  leaves_ite (setB_leaves hr) trivial
theorem lineSet_leaves {n : Nat} {b : Bool} (hr : ∀ w, L (.reg (HRN_SRC n) w)) (hh : ∀ g, L (.hrn g))
    (hm : ∀ n q, Act.Leaves L (send n q)) : Act.Leaves L (lineSet n b) := by
  intro s
  refine leaves_ite ⟨hh _, leaves_ite (hh _) trivial⟩ ⟨hh _, ?_, srcEval_leaves hh hm, trivial⟩
  exact leaves_ite (levelIp_leaves hr) (leaves_ite (setF_leaves' hr) (leaves_ite (setF_leaves' hr) trivial))
theorem linePulse_leaves {n : Nat} (hr : ∀ w, L (.reg (HRN_SRC n) w)) (hh : ∀ g, L (.hrn g))
    (hm : ∀ n q, Act.Leaves L (send n q)) : Act.Leaves L (linePulse n) :=
  ⟨lineSet_leaves hr hh hm, lineSet_leaves hr hh hm, trivial⟩
theorem sourceRaise_leaves {n : Nat} (hr : ∀ w, L (.reg (HRN_SRC n) w)) (hh : ∀ g, L (.hrn g))
    (hm : ∀ n q, Act.Leaves L (send n q)) : Act.Leaves L (sourceRaise n) := fun _ =>
  leaves_ite (lineSet_leaves hr hh hm) (linePulse_leaves hr hh hm)
theorem vectorRaise_leaves {v : Nat} (hr : ∀ w, L (.reg (HRN_VEC v) w)) (hd : ∀ w, L (.reg HRN_VEC_DROP w))
    (hh : ∀ g, L (.hrn g)) (hm : ∀ n q, Act.Leaves L (send n q)) : Act.Leaves L (vectorRaise v) := fun _ =>
  leaves_ite (bump_leaves hd) ⟨setF_leaves' hr, hrnEval_leaves hh hm, trivial⟩

/-! ### Error records -/

theorem bankSource_lt {id n : Nat} (h : bankSource id = some n) : n < 1024 := by
  unfold bankSource at h
  repeat' split at h
  all_goals first | (injection h with h; omega) | cases h
theorem bankEval_leaves {id : Nat} (hr : ∀ n w, n < 1024 → L (.reg (HRN_SRC n) w)) (hh : ∀ g, L (.hrn g))
    (hm : ∀ n q, Act.Leaves L (send n q)) : Act.Leaves L (bankEval id) := by
  intro s
  dsimp only
  split
  · trivial
  · rename_i n hn
    exact leaves_ite trivial (lineSet_leaves (fun w => hr n w (bankSource_lt hn)) hh hm)
theorem recWrite_leaves {b r : Nat} {x : RasRec} (h1 : ∀ w, L (.reg (RAS_STATUS b r) w)) (h2 : ∀ w, L (.reg (RAS_ADDR b r) w))
    (h3 : ∀ w, L (.reg (RAS_MISC b r) w)) (h4 : ∀ w, L (.reg (RAS_TIME b r) w)) (h5 : ∀ g, L (.ras g)) :
    Act.Leaves L (recWrite b r x) :=
  fun _ => ⟨setFs_leaves h1, h2 _, setFs_leaves h3, h4 _, h5 _, trivial⟩
theorem pickRec_lt {s : State} {b : Nat} {o : Bool} {p : Nat → Bool} {r : Nat} (h : s.pickRec b o p = some r) : r < 8 := by
  have key : ∀ (l : List Nat) (f : Option Nat → Nat → Option Nat) (b : Option Nat), (∀ b k q, f b k = some q → q = k ∨ b = some q) →
      (∀ x ∈ l, x < 8) → (∀ q, b = some q → q < 8) → ∀ q, l.foldl f b = some q → q < 8 := by
    intro l f
    induction l with
    | nil => exact fun b _ _ hb q hq => hb q hq
    | cons a l ih =>
      intro b hf hl hb q hq
      refine ih (f b a) hf (fun x hx => hl x (by simp [hx])) ?_ q hq
      intro q' hq'
      rcases hf b a q' hq' with e | e
      · exact e ▸ hl a (by simp)
      · exact hb _ e
  refine key _ _ none ?_ ?_ (by simp) r h
  · intro x k q hq; let bank := b
    cases x with
    | none => exact .inl (Option.some.inj hq).symm
    | some c =>
      have hq' : (if (if o = true then (s.reg (RAS_TIME bank k)).toNat < (s.reg (RAS_TIME bank c)).toNat
        else (s.reg (RAS_TIME bank c)).toNat ≤ (s.reg (RAS_TIME bank k)).toNat) then some k else some c) = some q := by
        cases o <;> exact hq
      by_cases hc : (if o = true then (s.reg (RAS_TIME bank k)).toNat < (s.reg (RAS_TIME bank c)).toNat
        else (s.reg (RAS_TIME bank c)).toNat ≤ (s.reg (RAS_TIME bank k)).toNat)
      · rw [if_pos hc] at hq'; exact .inl (Option.some.inj hq').symm
      · rw [if_neg hc] at hq'; exact .inr hq'
  · intro x hx
    simp at hx; exact hx.1
/-- A record goes to the registers of its bank, to the summary line and to the Harness. -/
theorem rasLog_leaves {x : RasRec} (hb : ∀ a w, inBank a → L (.reg a w)) (hs : ∀ n w, n < 1024 → L (.reg (HRN_SRC n) w))
    (h5 : ∀ g, L (.ras g)) (hh : ∀ g, L (.hrn g)) (hm : ∀ n q, Act.Leaves L (send n q)) : Act.Leaves L (rasLog x) := by
  intro s
  have hin : ∀ o, o < 0x140 → ∀ w, L (.reg (bankOf (x.bank.getD x.block) + o) w) := fun o ho w =>
    hb _ _ ⟨_, Nat.le_add_right _ _, Nat.add_lt_add_left ho _⟩
  have hst : ∀ r, r < 8 → ∀ w, L (.reg (RAS_STATUS (bankOf (x.bank.getD x.block)) r) w) := fun r hr w => by
    have := hin (0x40 + 0x20 * r) (by omega) w
    simpa [RAS_STATUS, Nat.add_assoc] using this
  have hrec : ∀ r, r < 8 → Act.Leaves L (recWrite (bankOf (x.bank.getD x.block)) r x) := fun r hr =>
    recWrite_leaves (hst r hr)
      (fun w => by have := hin (0x48 + 0x20 * r) (by omega) w; simpa [RAS_ADDR, Nat.add_assoc] using this)
      (fun w => by have := hin (0x50 + 0x20 * r) (by omega) w; simpa [RAS_MISC, Nat.add_assoc] using this)
      (fun w => by have := hin (0x58 + 0x20 * r) (by omega) w; simpa [RAS_TIME, Nat.add_assoc] using this) h5
  have hfind : ∀ (p : Nat → Bool) r, (List.range 8).find? p = some r → r < 8 := fun p r h => by
    have := List.mem_of_find?_eq_some h; simpa using this
  refine ⟨?_, bankEval_leaves hs hh hm⟩
  split
  · rename_i r hr
    refine setF_leaves' (hst r ?_)
    by_cases hc : x.sev = 0
    · rw [if_pos hc] at hr; exact hfind _ _ hr
    · rw [if_neg hc] at hr; cases hr
  · split
    · rename_i r hr; exact hrec r (hfind _ _ hr)
    · split
      · rename_i r hr; exact hrec r (pickRec_lt hr)
      · refine ⟨bump_leaves (fun w => by simpa [RAS_LOST] using hin 0x10 (by omega) w), ?_, trivial⟩
        split
        · rename_i r hr; exact setF_leaves' (hst r (pickRec_lt hr))
        · trivial

end Sys2Proof.Machine
end

