-- ==== Sys2Proof/Laws/Flags.lean ====
section
/-! SUPPORT. What the probes, the die counters and the passing of time consist of. -/

set_option Elab.async false

namespace Sys2Proof.Machine

variable {L : Act → Prop}

theorem inBlock_dieCounter {k : Nat} (h : k < 256) : inBlock 0x21 (dieCounter k) := by
  unfold inBlock dieCounter DBG_CNT; simp only [blockBase]; omega
theorem inBlock_trcStat {d : Nat} (h : d < 4) : inBlock 0x21 (DBG_TRC_STAT d) := by
  unfold inBlock DBG_TRC_STAT; simp only [blockBase]; omega
theorem inBlock_trcDrop {d : Nat} (h : d < 4) : inBlock 0x21 (DBG_TRC_DROP d) := by
  unfold inBlock DBG_TRC_DROP; simp only [blockBase]; omega
theorem dieOf_lt {n : Nat} (h : n < 224) : dieOf n < 4 := by
  unfold dieOf nodeDie; omega
/-- An address of a node's own registers. -/
theorem inNode_add {n o : Nat} (h : o < 0x100000) : inNode n (nodeBase n + o) := by
  unfold inNode nodeBase; omega

/-- An event is added to counters of the debug block. -/
theorem dieEvent_leaves {n e c k : Nat} (h : ∀ j w, j < 256 → L (.reg (dieCounter j) w)) : Act.Leaves L (dieEvent n e c k) := by
  intro s
  refine leaves_each_mem fun p hp => addTo_leaves fun w => h _ w ?_
  have := (List.mem_filter.mp hp).2
  simp at this; exact this.1.1.1.1
theorem flitEvent_leaves {n e c k : Nat} {f : Flit} (h : ∀ j w, j < 256 → L (.reg (dieCounter j) w)) :
    Act.Leaves L (flitEvent n f e c k) := fun _ => leaves_ite (dieEvent_leaves h) trivial
theorem tracePut_leaves {d : Nat} {r : BitVec 128} (h : ∀ w, L (.reg (DBG_TRC_STAT d) w)) (hd : ∀ g, L (.dbg g)) :
    Act.Leaves L (tracePut d r) := by
  intro s
  refine leaves_ite trivial ⟨leaves_ite (setF_leaves' h) trivial, hd _, setF_leaves' h, ?_, trivial⟩
  split
  · exact hd _
  · exact leaves_ite (setF_leaves' h) trivial
theorem traceDue_leaves {d : Nat} {r : BitVec 128} (h : ∀ w, L (.reg (DBG_TRC_STAT d) w))
    (hp : ∀ w, L (.reg (DBG_TRC_DROP d) w)) (hd : ∀ g, L (.dbg g)) : Act.Leaves L (traceDue d r) := by
  intro s
  refine leaves_ite trivial (leaves_ite ⟨bump_leaves hp, hd _, trivial⟩ ⟨leaves_ite trivial
    ⟨tracePut_leaves h hd, hd _, trivial⟩, tracePut_leaves h hd, hd _, trivial⟩)
theorem traceStart_leaves {d : Nat} (h : ∀ w, L (.reg (DBG_TRC_STAT d) w)) (hd : ∀ g, L (.dbg g)) :
    Act.Leaves L (traceStart d) := fun _ => ⟨setF_leaves' h, hd _, tracePut_leaves h hd, trivial⟩
theorem traceStopMatch_leaves {d : Nat} (h : ∀ w, L (.reg (DBG_TRC_STAT d) w)) (hd : ∀ g, L (.dbg g)) :
    Act.Leaves L (traceStopMatch d) := fun _ =>
  leaves_ite trivial ⟨setF_leaves' h, leaves_ite trivial (hd _), trivial⟩
/-- A probe changes counters, the trace and nothing else. -/
theorem probe_leaves {n p : Nat} {f : Flit} {b : Bool} (hn : n < 224) (h : ∀ a w, inBlock 0x21 a → L (.reg a w))
    (hc : ∀ u w, u < 2 → L (.reg (DBG_CMP n u) w)) (hd : ∀ g, L (.dbg g)) : Act.Leaves L (probe n p f b) := by
  intro s
  have hs : ∀ w, L (.reg (DBG_TRC_STAT (dieOf n)) w) := fun w => h _ w (inBlock_trcStat (dieOf_lt hn))
  have hx : ∀ w, L (.reg (DBG_TRC_DROP (dieOf n)) w) := fun w => h _ w (inBlock_trcDrop (dieOf_lt hn))
  refine leaves_ite trivial (leaves_each_mem fun u hu => leaves_ite trivial ⟨dieEvent_leaves
    (fun j w hj => h _ w (inBlock_dieCounter hj)), leaves_ite (bump_leaves fun w => hc u w ?_) trivial, leaves_ite ?_ trivial,
    leaves_ite (traceStopMatch_leaves hs hd) trivial, leaves_ite (traceDue_leaves hs hx hd) trivial, trivial⟩)
  · simp at hu; omega
  · exact fun _ => leaves_ite (traceStart_leaves hs hd) trivial

/-! ### Time -/

theorem meshPasses_leaves {k : Nat} (hc : ∀ g, L (.clk g)) (hn : ∀ a w, inNodes a → L (.reg a w))
    (hb : ∀ w, L (.reg BTN_BACKPRESSURE w)) (hd : ∀ j w, j < 256 → L (.reg (dieCounter j) w)) :
    Act.Leaves L (meshPasses k) := by
  intro s
  have hin : ∀ n o, n < 224 → o < 0x100000 → inNodes (nodeBase n + o) := fun n o h1 h2 => by
    unfold inNodes nodeBase; omega
  refine leaves_ite trivial ⟨hc _, leaves_each_mem fun p hp => ?_, leaves_each_mem fun n hm => addTo_leaves fun w => ?_,
    leaves_when (addTo_leaves hb), leaves_each_mem fun p hp => addTo_leaves fun w => hd _ w ?_, trivial⟩
  · have hp2 := (List.mem_filter.mp hp).2
    simp at hp2
    split
    · exact ⟨addTo_leaves fun w => hn _ w (hin _ _ hp2 (by decide)), flitEvent_leaves hd, trivial⟩
    · trivial
  · have hm2 := (List.mem_filter.mp hm).2
    simp at hm2
    exact hn _ w (hin _ _ hm2 (by decide))
  · have := (List.mem_filter.mp hp).2
    simp at this; exact this.1
/-- Time passes: the clocks, the RTC and the counters that count cycles. -/
theorem advance_leaves {ns : Nat} (hc : ∀ g, L (.clk g)) (hr : ∀ w, L (.reg TRD_RTC w)) (hn : ∀ a w, inNodes a → L (.reg a w))
    (hb : ∀ w, L (.reg BTN_BACKPRESSURE w)) (hd : ∀ j w, j < 256 → L (.reg (dieCounter j) w)) :
    Act.Leaves L (advance ns) := fun _ =>
  ⟨hc _, leaves_ite trivial (setF_leaves' hr), leaves_ite trivial ⟨hc _, meshPasses_leaves hc hn hb hd⟩, trivial⟩
theorem advanceTo_leaves {t : Nat} (h : ∀ ns, Act.Leaves L (advance ns)) : Act.Leaves L (advanceTo t) := fun _ =>
  leaves_ite (h _) trivial
theorem advanceMesh_leaves {t : Nat} (h : ∀ ns, Act.Leaves L (advance ns)) : Act.Leaves L (advanceMesh t) := fun _ =>
  leaves_ite (h _) trivial
theorem atMesh_leaves {t : Nat} {a : Act} (h : ∀ ns, Act.Leaves L (advance ns)) (ha : Act.Leaves L a) :
    Act.Leaves L (atMesh t a) := ⟨advanceMesh_leaves h, fun _ => leaves_when ha⟩
theorem withFree_leaves {k : Nat → Act} (hc : ∀ g, L (.clk g)) (h : ∀ n, Act.Leaves L (k n)) : Act.Leaves L (withFree k) :=
  fun _ => ⟨hc _, h _⟩
theorem whileLive_leaves {a : Act} (h : Act.Leaves L a) : Act.Leaves L (whileLive a) := fun _ => leaves_when h

/-- TIME after time has passed. -/
theorem advance_time (s : State) (ns : Nat) : ((advance ns).run s).clk.time = s.clk.time + ns := by
  have h : Act.Leaves (Act.Fixes fun s => s.clk.time) (.all [
      if (rtcTicks s.clk.rtcAcc ns).1 = 0 then .skip else setF TRD_RTC TRD_RTC_COUNT (s.get TRD_RTC TRD_RTC_COUNT + (rtcTicks s.clk.rtcAcc ns).1),
      if s.mesh.stopped || s.mesh.paused then .skip
      else .seq (.clk fun c => { c with meshAcc := (s.clk.meshAcc + ns * s.get MESH_CFG MESH_CFG_MESH_FREQ) % 10 })
        (meshPasses ((s.clk.meshAcc + ns * s.get MESH_CFG MESH_CFG_MESH_FREQ) / 10)) ]) := by
    refine ⟨leaves_ite trivial (setF_leaves' fun _ _ => rfl), leaves_ite trivial ⟨fun _ => rfl, ?_⟩, trivial⟩
    intro t
    refine leaves_ite trivial ⟨fun _ => rfl, leaves_each fun p => ?_, leaves_each fun n => addTo_leaves fun _ _ => rfl,
      leaves_when (addTo_leaves fun _ _ => rfl), leaves_each fun p => addTo_leaves fun _ _ => rfl, trivial⟩
    split
    · exact ⟨addTo_leaves fun _ _ => rfl, flitEvent_leaves fun _ _ _ _ => rfl, trivial⟩
    · trivial
  have := h.fixes ((Act.clk fun c => { c with time := c.time + ns, rtcAcc := (rtcTicks s.clk.rtcAcc ns).2 }).run s)
  exact this

/-- The mesh cycle counter after mesh cycles have passed. -/
theorem meshPasses_meshCycle (s : State) (k : Nat) : ((meshPasses k).run s).clk.meshCycle = s.clk.meshCycle + k := by
  by_cases hk : k = 0
  · subst hk; rfl
  have h : Act.Leaves (Act.Fixes fun s => s.clk.meshCycle) (.all [
      .each (s.mesh.inj.filter fun p => decide (p.1 < 224)) fun p => (match injHead p.2 with
        | some e => .all [addTo (MESH_RTR_INJWAIT p.1) k, flitEvent p.1 e.flit 4 0 k]
        | none => .skip),
      .each ((s.cache.tagWait.map (·.1)).eraseDups.filter fun n => decide (n < 224)) fun n => addTo (LLC_TAG_WAIT n) k,
      .when (decide (4096 ≤ s.btn.fan.length)) (addTo BTN_BACKPRESSURE k),
      .each (s.dbg.cnt.filter fun p => decide (p.1 < 256) && p.2.event == 6) fun p => addTo (dieCounter p.1) k ]) := by
    refine ⟨leaves_each fun p => ?_, leaves_each fun n => addTo_leaves fun _ _ => rfl, leaves_when (addTo_leaves fun _ _ => rfl),
      leaves_each fun p => addTo_leaves fun _ _ => rfl, trivial⟩
    split
    · exact ⟨addTo_leaves fun _ _ => rfl, flitEvent_leaves fun _ _ _ _ => rfl, trivial⟩
    · trivial
  have e := h.fixes ((Act.clk fun c => { c with meshCycle := c.meshCycle + k }).run s)
  simp only [meshPasses, Act.run, hk, if_false]
  exact e
/-- The mesh cycle counter after time has passed while its clock runs. -/
theorem advance_meshCycle (s : State) (ns : Nat) (h1 : s.mesh.stopped = false) (h2 : s.mesh.paused = false) :
    ((advance ns).run s).clk.meshCycle =
      s.clk.meshCycle + (s.clk.meshAcc + ns * s.get MESH_CFG MESH_CFG_MESH_FREQ) / 10 := by
  simp only [advance, Act.run, Act.all, h1, h2, Bool.or_self, Bool.false_eq_true, if_false]
  split <;> exact meshPasses_meshCycle _ _
/-- While the mesh clock runs it reaches the cycle that an event waits for. -/
theorem advanceMesh_reaches (s : State) (c : Nat) (h1 : s.mesh.stopped = false) (h2 : s.mesh.paused = false)
    (h3 : 0 < s.get MESH_CFG MESH_CFG_MESH_FREQ) : c ≤ ((advanceMesh c).run s).clk.meshCycle := by
  by_cases hc : s.clk.meshCycle < c
  · simp only [advanceMesh, Act.run, hc, if_true]
    rw [advance_meshCycle s _ h1 h2]
    generalize s.get MESH_CFG MESH_CFG_MESH_FREQ = f at *
    have hm : max 1 f = f := by omega
    rw [hm]
    generalize hx : (c - s.clk.meshCycle) * 10 - s.clk.meshAcc = x
    have : x ≤ (x + (f - 1)) / f * f := by
      have h5 := Nat.div_add_mod (x + (f - 1)) f
      have h6 := Nat.mod_lt (x + (f - 1)) h3
      rw [Nat.mul_comm f] at h5; omega
    omega
  · simp only [advanceMesh, Act.run, hc, if_false]; omega

/-- A register that does not count cycles keeps its value while time passes. -/
theorem advance_reg {a : Nat} (ns : Nat) (s : State) (h1 : a ≠ TRD_RTC) (h2 : ∀ n < 224, a ≠ MESH_RTR_INJWAIT n ∧ a ≠ LLC_TAG_WAIT n) (h3 : a ≠ BTN_BACKPRESSURE) (h4 : ∀ j < 256, a ≠ dieCounter j) :
   ((advance ns).run s).reg a = s.reg a := by
  have hr : ∀ b v, a ≠ b → Act.Fixes (fun s => s.reg a) (.reg b v) := fun b v hb t => reg_run_reg_ne t v hb
  refine Act.Leaves.fixes (g := fun s => s.reg a) ?_ s
  intro s
  refine ⟨fun _ => rfl, leaves_ite trivial (setF_leaves' fun w => hr _ _ h1), leaves_ite trivial ⟨fun _ => rfl, ?_⟩, trivial⟩
  intro t
  refine leaves_ite trivial ⟨fun _ => rfl, leaves_each_mem fun p hp => ?_, leaves_each_mem fun n hn => addTo_leaves fun w => hr _ _ (h2 _ ?_).2,
      leaves_when (addTo_leaves fun w => hr _ _ h3), leaves_each_mem fun p hp => addTo_leaves fun w => hr _ _ (h4 _ ?_), trivial⟩
  · have := (List.mem_filter.mp hp).2
    simp at this
    split
    · exact ⟨addTo_leaves fun w => hr _ _ (h2 _ this).1, flitEvent_leaves fun j w hj => hr _ _ (h4 j hj), trivial⟩
    · trivial
  · have := (List.mem_filter.mp hn).2
    simpa using this
  · have := (List.mem_filter.mp hp).2
    simp at this; exact this.1

end Sys2Proof.Machine
end

