-- ==== Sys2Proof/Laws/Card.lean ====
section
/-! SUPPORT. Command cards: what Dobby's writes to memory, its replies and its operation slots consist of, what a reply
leaves, and that a card which passes its gates is carried out. -/

set_option Elab.async false

namespace Sys2Proof.Machine

variable {L : Act → Prop}

/-! ### Memory -/

theorem wrBytes_leaves {a : Nat} {l : List Byte} (h : ∀ a v, L (.byte a v)) : Act.Leaves L (wrBytes a l) := by
  induction l generalizing a with
  | nil => trivial
  | cons b r ih => exact ⟨h _ _, ih⟩
theorem wr_leaves {a n v : Nat} (h : ∀ a v, L (.byte a v)) : Act.Leaves L (wr a n v) := wrBytes_leaves h
theorem wrLine_leaves {l : Nat} {d : Line} {p : Bool} (h : ∀ a v, L (.byte a v)) (hp : ∀ l p, L (.setPoison l p)) :
    Act.Leaves L (wrLine l d p) := ⟨wr_leaves h, hp _ _⟩
theorem dropL2_leaves {n l : Nat} (hc : ∀ g, L (.cache g)) (hk : ∀ g, L (.core g)) : Act.Leaves L (dropL2 n l) := by
  refine ⟨hc _, fun s => ?_, trivial⟩
  dsimp only
  split
  · trivial
  · exact hk _
theorem pullLine_leaves {l : Nat} (h : ∀ a v, L (.byte a v)) (hp : ∀ l p, L (.setPoison l p)) (hc : ∀ g, L (.cache g))
    (hk : ∀ g, L (.core g)) (ho : ∀ g, L (.coh g)) : Act.Leaves L (pullLine l) := fun _ =>
  leaves_ite trivial ⟨wrLine_leaves h hp, leaves_each fun _ => dropL2_leaves hc hk, hc _, ho _, trivial⟩
/-- A write of an engine or of Dobby to memory. -/
theorem wrCoh_leaves {a : Nat} {b : List Byte} {p : Bool} (h : ∀ a v, L (.byte a v)) (hp : ∀ l p, L (.setPoison l p))
    (hc : ∀ g, L (.cache g)) (hk : ∀ g, L (.core g)) (ho : ∀ g, L (.coh g)) : Act.Leaves L (wrCoh a b p) :=
  ⟨leaves_each fun _ => pullLine_leaves h hp hc hk ho, wrBytes_leaves h, leaves_each fun _ => hp _ _,
    leaves_when (leaves_each fun _ => hp _ _), trivial⟩
theorem wrSlots_leaves {b g k n : Nat} {l : List Byte} (h : ∀ a l p, Act.Leaves L (wrCoh a l p)) :
    Act.Leaves L (wrSlots b g l k n) := by
  induction n generalizing l k with
  | zero => trivial
  | succ n ih => exact ⟨h _ _ _, ih⟩

/-! ### Replies -/

theorem modRing_leaves {w : Bool} {f : RingSt → RingSt} (h : ∀ g, L (.dby g)) : Act.Leaves L (modRing w f) := h _
theorem ringIx_lt (w : Bool) : ringIx w < 2 := by cases w <;> decide
theorem ringLine_leaves {w : Bool} (hr : ∀ n v, n < 1024 → L (.reg (HRN_SRC n) v)) (hh : ∀ g, L (.hrn g))
    (hm : ∀ n q, Act.Leaves L (send n q)) : Act.Leaves L (ringLine w) := fun _ =>
  lineSet_leaves (fun v => hr _ v (by have := ringIx_lt w; omega)) hh hm
/-- A reply goes to memory and the Harness (ring) or to Dobby's transport. -/
theorem deliver_leaves {r : Reply} (hw : ∀ a l p, Act.Leaves L (wrCoh a l p)) (hd : ∀ g, L (.dby g))
    (hr : ∀ n v, n < 1024 → L (.reg (HRN_SRC n) v)) (hh : ∀ g, L (.hrn g)) (hm : ∀ n q, Act.Leaves L (send n q)) :
    Act.Leaves L (deliver r) := by
  intro s
  dsimp only
  split
  · exact ⟨wrSlots_leaves hw, hw _ _ _, hd _, ringLine_leaves hr hh hm, trivial⟩
  · exact hd _
  · exact hd _
theorem acceptedSlot_leaves {c : CardCtx} (h : ∀ g, L (.dby g)) : Act.Leaves L (acceptedSlot c) := by
  unfold acceptedSlot
  split
  · exact h _
  · trivial
theorem replyWith_leaves {c : CardCtx} {op st d : Nat} {p : List Byte} (h : ∀ r, Act.Leaves L (deliver r))
    (hb : ∀ w, L (.reg DBY_BUSY w)) (hr : ∀ w, L (.reg DBY_REFUSED w)) (hd : ∀ g, L (.dby g)) :
    Act.Leaves L (replyWith c op st d p) :=
  ⟨h _, leaves_ite (bump_leaves hb) (leaves_ite (bump_leaves hr) (leaves_ite (acceptedSlot_leaves hd) trivial)), trivial⟩
theorem cardDone_leaves {c : CardCtx} {n : Nat} (h : ∀ g, L (.dby g)) : Act.Leaves L (cardDone c n) := by
  unfold cardDone
  split
  · exact h _
  · exact h _
  · trivial
theorem dbyStat_leaves (h : ∀ w, L (.reg DBY_STAT w)) : Act.Leaves L dbyStat := fun _ => setFs_leaves h
theorem answer_leaves {c : CardCtx} {op st d : Nat} {p : List Byte} (h : Act.Leaves L (replyWith c op st d p))
    (hd : ∀ g, L (.dby g)) : Act.Leaves L (answer c op st d p) := ⟨h, cardDone_leaves hd, trivial⟩
theorem finish_leaves {op o st d : Nat} {p : List Byte} (h : ∀ c, Act.Leaves L (replyWith c op st d p))
    (hd : ∀ g, L (.dby g)) (hs : ∀ w, L (.reg DBY_STAT w)) : Act.Leaves L (finish op o st d p) := by
  intro s
  dsimp only
  split
  · trivial
  · exact ⟨hd _, dbyStat_leaves hs, h _, cardDone_leaves hd, trivial⟩
theorem cardTaken_leaves {c : CardCtx} {op : Nat} (hd : ∀ g, L (.dby g)) (hc : ∀ w, L (.reg DBY_CARDS w)) :
    Act.Leaves L (cardTaken c op) := by
  refine ⟨?_, bump_leaves hc, trivial⟩
  split
  · exact hd _
  · exact hd _
  · trivial
theorem inBlock_dby {o : Nat} (h : o < 0x1000000) : inBlock 1 (blockBase 1 + o) := by
  unfold inBlock; simp only [blockBase]; omega

/-- What a reply changes: DRAM and the copies of lines (a ring), Dobby, the Harness and its flits, and registers of Dobby and
of the Harness. -/
theorem reply_leaves {c : CardCtx} {op st d : Nat} {p : List Byte} (h1 : ∀ a v, L (.byte a v))
    (h2 : ∀ l p, L (.setPoison l p)) (h3 : ∀ g, L (.cache g)) (h4 : ∀ g, L (.core g)) (h5 : ∀ g, L (.coh g))
    (h6 : ∀ g, L (.dby g)) (h7 : ∀ g, L (.hrn g)) (h8 : ∀ n q, Act.Leaves L (send n q))
    (h9 : ∀ a w, inBlock 1 a → L (.reg a w)) (h10 : ∀ n w, n < 1024 → L (.reg (HRN_SRC n) w)) :
    Act.Leaves L (replyWith c op st d p) :=
  replyWith_leaves (fun _ => deliver_leaves (fun _ _ _ => wrCoh_leaves h1 h2 h3 h4 h5) h6 h10 h7 h8)
    (fun w => h9 _ w (inBlock_dby (by decide))) (fun w => h9 _ w (inBlock_dby (by decide))) h6

/-! ### What replies leave -/

/-- Everything but the replies sent and the indices of the reply rings. -/
def Act.NoReply (a : Act) : Prop := Act.Fixes (fun s => (s.dby.sent, s.dby.ring0.replyProd, s.dby.ring1.replyProd)) a
theorem Act.NoReply.sent {a : Act} (h : a.NoReply) (s : State) : (a.run s).dby.sent = s.dby.sent :=
  congrArg (·.1) (h s)
theorem Act.NoReply.prod {a : Act} (h : a.NoReply) (s : State) (w : Bool) :
    ((a.run s).dby.ringOf w).replyProd = (s.dby.ringOf w).replyProd := by
  have := h s
  simp only [Prod.mk.injEq] at this
  cases w
  · exact this.2.1
  · exact this.2.2

theorem Replied.nil (c : CardCtx) (s : State) : Replied c [] s s := by
  unfold Replied; split
  · rfl
  · simp
/-- What sends no reply may follow. -/
theorem Replied.step {c : CardCtx} {rs : List Reply} {s t : State} {a : Act} (h : Replied c rs s t) (ha : a.NoReply) :
    Replied c rs s (a.run t) := by
  unfold Replied at h ⊢
  split
  · rename_i w hw; simp only [hw] at h; rw [ha.prod]; exact h
  · rename_i hw
    have : t.dby.sent = s.dby.sent ++ rs := by
      split at h
      · rename_i w e; exact absurd e (hw w)
      · exact h
    rw [ha.sent]; exact this
/-- What sends no reply may stand before. -/
theorem Replied.pre {c : CardCtx} {rs : List Reply} {s t : State} {a : Act} (ha : a.NoReply) (h : Replied c rs (a.run s) t) :
    Replied c rs s t := by
  unfold Replied at h ⊢
  split
  · rename_i w hw; simp only [hw] at h; rw [ha.prod] at h; exact h
  · rename_i hw
    split at h
    · rename_i w e; exact absurd e (hw w)
    · rw [ha.sent] at h; exact h

theorem wrCoh_noReply (a : Nat) (b : List Byte) (p : Bool) : (wrCoh a b p).NoReply :=
  Act.Leaves.fixes (wrCoh_leaves (fun _ _ _ => rfl) (fun _ _ _ => rfl) (fun _ _ => rfl) (fun _ _ => rfl) (fun _ _ => rfl))
theorem wrSlots_noReply (b g : Nat) (l : List Byte) (k n : Nat) : (wrSlots b g l k n).NoReply :=
  Act.Leaves.fixes (wrSlots_leaves fun _ _ _ => wrCoh_leaves (fun _ _ _ => rfl) (fun _ _ _ => rfl) (fun _ _ => rfl)
    (fun _ _ => rfl) (fun _ _ => rfl))
theorem ringLine_noReply (w : Bool) : (ringLine w).NoReply :=
  Act.Leaves.fixes (ringLine_leaves (fun _ _ _ _ => rfl) (fun _ _ => rfl) (fun _ _ _ _ => rfl))
theorem reg_noReply (a : Nat) (v : W64) : (Act.reg a v).NoReply := fun _ => rfl
theorem bump_noReply (a : Nat) : (bump a).NoReply := fun _ => rfl
theorem dbyStat_noReply : dbyStat.NoReply := fun _ => rfl
theorem cardDone_noReply (c : CardCtx) (n : Nat) : (cardDone c n).NoReply := by
  intro s
  unfold cardDone
  split
  · rename_i w _; cases w <;> rfl
  · rfl
  · rfl

theorem acceptedSlot_noReply (c : CardCtx) : (acceptedSlot c).NoReply := by
  intro s
  unfold acceptedSlot
  split
  · rename_i w _; cases w <;> rfl
  · rfl

/-- A reply is delivered: exactly this one. -/
theorem deliver_replied (r : Reply) (s : State) : Replied r.ctx [r] s ((deliver r).run s) := by
  have hring : ∀ w, r.ctx.via = .ring w → (((deliver r).run s).dby.ringOf w).replyProd =
      ((s.dby.ringOf w).replyProd + r.slots) % 2 ^ 32 := by
    intro w hw
    have e : (deliver r).run s = (ringLine w).run ((modRing w fun y => { y with replyProd := (y.replyProd + r.slots) % 2 ^ 32 }).run
        ((wrCohNat (s.get (DBY_RING_CTLA (ringIx w)) DBY_RING_CTLA_ADDR * 64 + 8) 4
          (((s.dby.ringOf w).replyProd + r.slots) % 2 ^ 32)).run
        ((wrSlots (s.get (DBY_RING_RBASE (ringIx w)) DBY_RING_RBASE_ADDR * 64) (s.get (DBY_RING_CFG (ringIx w)) DBY_RING_CFG_RLOG)
        r.toBytes (s.dby.ringOf w).replyProd r.slots).run s))) := by
      simp only [deliver, run_read, hw]; rfl
    rw [e, (ringLine_noReply w).prod]
    have hp := fun w => (wrCoh_noReply (s.get (DBY_RING_CTLA (ringIx w)) DBY_RING_CTLA_ADDR * 64 + 8)
      (natLe 4 (((s.dby.ringOf w).replyProd + r.slots) % 2 ^ 32)) false).prod
        ((wrSlots (s.get (DBY_RING_RBASE (ringIx w)) DBY_RING_RBASE_ADDR * 64) (s.get (DBY_RING_CFG (ringIx w)) DBY_RING_CFG_RLOG)
        r.toBytes (s.dby.ringOf w).replyProd r.slots).run s) w
    have hq := fun w => (wrSlots_noReply (s.get (DBY_RING_RBASE (ringIx w)) DBY_RING_RBASE_ADDR * 64)
      (s.get (DBY_RING_CFG (ringIx w)) DBY_RING_CFG_RLOG) r.toBytes (s.dby.ringOf w).replyProd r.slots).prod s w
    have hz := (hp w).trans (hq w)
    cases w
    · exact congrArg (fun k => (k + r.slots) % 2 ^ 32) hz
    · exact congrArg (fun k => (k + r.slots) % 2 ^ 32) hz
  unfold Replied
  split
  · rename_i w hw; exact hring w hw
  · rename_i hw
    simp only [deliver, run_read]
    split
    · rename_i w e; exact absurd e (hw w)
    · rfl
    · rfl
theorem Replied.snoc {c : CardCtx} {rs : List Reply} {s t : State} {r : Reply} (hc : r.ctx = c) (h : Replied c rs s t) :
    Replied c (rs ++ [r]) s ((deliver r).run t) := by
  have k := deliver_replied r t
  rw [hc] at k
  unfold Replied at h k ⊢
  split
  · rename_i w hw
    simp only [hw] at h k
    rw [k, h, List.foldl_append]
  · rename_i hw
    have h1 : t.dby.sent = s.dby.sent ++ rs := by
      split at h
      · rename_i w e; exact absurd e (hw w)
      · exact h
    have h2 : ((deliver r).run t).dby.sent = t.dby.sent ++ [r] := by
      split at k
      · rename_i w e; exact absurd e (hw w)
      · exact k
    rw [h2, h1, List.append_assoc]
/-- One more reply. -/
theorem Replied.reply {c : CardCtx} {rs : List Reply} {s t : State} (op st d : Nat) (p : List Byte) (h : Replied c rs s t) :
    Replied c (rs ++ [⟨c, st, op, d, p⟩]) s ((replyWith c op st d p).run t) := by
  have k := h.snoc (r := ⟨c, st, op, d, p⟩) rfl
  simp only [replyWith, run_all_cons, run_all_nil]
  split
  · exact k.step (bump_noReply _)
  · split
    · exact k.step (bump_noReply _)
    · split
      · exact k.step (acceptedSlot_noReply _)
      · exact k
/-- One more reply, the last. -/
theorem Replied.answer {c : CardCtx} {rs : List Reply} {s t : State} (op st d : Nat) (p : List Byte) (h : Replied c rs s t) :
    Replied c (rs ++ [⟨c, st, op, d, p⟩]) s ((answer c op st d p).run t) :=
  (h.reply op st d p).step (cardDone_noReply _ _)

/-! ### Gates and slots -/

/-- A card that passes its gates is carried out in the state in which it is taken. -/
theorem gated_run {s : State} {c : CardCtx} {op : Nat} {m : Bool} {o : State → Owner} (body : State → Act)
    (h : s.cardOk c op m o = true) : (gated c op m o body).run s = (body (s.taken c op)).run (s.taken c op) := by
  simp only [State.cardOk, Bool.and_eq_true] at h
  obtain ⟨⟨hs, hg⟩, hi⟩ := h
  have core : (Act.read fun s => match s.gateFail c op m (o s) with
    | some (st, d) => answer0 c op st d
    | none => match cardStop op with
      | some id => viaStop c op id (body s)
      | none => body s).run (s.taken c op) = (body (s.taken c op)).run (s.taken c op) := by
    cases hgf : (s.taken c op).gateFail c op m (o (s.taken c op)) with
    | some p => rw [hgf] at hg; cases hg
    | none =>
      simp only [run_read, hgf]
      cases hc : cardStop op with
      | none => rfl
      | some id =>
        simp only [hc] at hi
        have hi' : (s.taken c op).stopLost id = false := by simpa using hi
        simp only [viaStop, run_read, hi']; rfl
  by_cases hv : s.dby.serving = true
  · have e : s.taken c op = (Act.dby fun d => { d with serving := false }).run s := by simp [State.taken, hv]; rfl
    simp only [gated, run_read, hv, if_true, run_seq]
    rw [e] at core ⊢
    exact core
  · have hv' : s.dby.serving = false := by simpa using hv
    simp only [hv', Bool.false_or, Bool.and_eq_true] at hs
    have hm : mctpFirst c op s = none := by
      cases hx : mctpFirst c op s with
      | none => rfl
      | some a => rw [hx] at hs; cases hs.2
    have e : s.taken c op = (cardTaken c op).run s := by simp [State.taken, hv']
    simp only [gated, run_read, hv', hs.1, hm]
    rw [e] at core ⊢
    exact core
/-- The state in which an accepted card's operation begins: ACCEPTED is sent and its slot is open (R454). -/
def State.opened (s : State) (c : CardCtx) (op obj : Nat) : State :=
  dbyStat.run ((Act.dby fun d => { d with openOps := d.openOps ++
      [{ ctx := c, opcode := op, obj := obj, start := s.clk.time, safety := cardSafety op }] }).run
      ((replyWith c op stACCEPTED 0xFFFF []).run s))
/-- A card with a free slot is accepted. -/
theorem accept_run {c : CardCtx} {op obj : Nat} {body : Act} {s : State} (h : s.slotFree (cardSafety op) = true) :
    (accept c op obj body).run s = body.run (s.opened c op obj) := by
  simp only [accept, run_read]; rw [if_pos h]; rfl
theorem reply_openOps (c : CardCtx) (op st d : Nat) (p : List Byte) :
    Act.Fixes (fun s => s.dby.openOps) (replyWith c op st d p) := by
  have hw : ∀ a l p, Act.Leaves (Act.Fixes fun s => s.dby.openOps) (wrCoh a l p) := fun a l p =>
    wrCoh_leaves (fun _ _ _ => rfl) (fun _ _ _ => rfl) (fun _ _ => rfl) (fun _ _ => rfl) (fun _ _ => rfl)
  have hd : ∀ r, Act.Leaves (Act.Fixes fun s => s.dby.openOps) (deliver r) := by
    intro r s
    dsimp only
    split
    · rename_i w _
      exact ⟨wrSlots_leaves hw, hw _ _ _, fun t => by cases w <;> rfl, ringLine_leaves (fun _ _ _ _ => rfl) (fun _ _ => rfl)
        (fun _ _ _ _ => rfl), trivial⟩
    · exact fun _ => rfl
    · exact fun _ => rfl
  have hs : Act.Leaves (Act.Fixes fun s => s.dby.openOps) (acceptedSlot c) := by
    unfold acceptedSlot
    split
    · rename_i w _; exact fun t => by cases w <;> rfl
    · trivial
  exact Act.Leaves.fixes ⟨hd _, leaves_ite (bump_leaves fun _ _ => rfl) (leaves_ite (bump_leaves fun _ _ => rfl)
    (leaves_ite hs trivial)), trivial⟩
/-- After acceptance the operation is the one open on its object, if none was. -/
theorem opened_findOp {s : State} {c : CardCtx} {op obj : Nat} (h : s.findOp op obj = none) :
    (s.opened c op obj).findOp op obj =
      some { ctx := c, opcode := op, obj := obj, start := s.clk.time, safety := cardSafety op } := by
  have e : (s.opened c op obj).dby.openOps = s.dby.openOps ++
      [{ ctx := c, opcode := op, obj := obj, start := s.clk.time, safety := cardSafety op }] := by
    show ((replyWith c op stACCEPTED 0xFFFF []).run s).dby.openOps ++ _ = _
    have := reply_openOps c op stACCEPTED 0xFFFF [] s
    simp only at this
    rw [this]
  simp only [State.findOp, e, List.find?_append] at h ⊢
  rw [h]; simp
theorem opened_replied {c : CardCtx} {rs : List Reply} {op obj : Nat} {s t : State} (h : Replied c rs s t) :
    Replied c (rs ++ [accepted c op]) s (t.opened c op obj) :=
  ((h.reply op stACCEPTED 0xFFFF []).step (a := .dby fun d => { d with openOps := d.openOps ++
      [{ ctx := c, opcode := op, obj := obj, start := t.clk.time, safety := cardSafety op }] }) (fun _ => rfl)).step
    dbyStat_noReply
/-- The final reply of an open operation. -/
theorem finish_run {op obj st d : Nat} {p : List Byte} {s : State} {o : OpenOp} (h : s.findOp op obj = some o) :
    (finish op obj st d p).run s = (cardDone o.ctx (replySpace op - 1)).run ((replyWith o.ctx op st d p).run
      (dbyStat.run ((Act.dby fun d => { d with openOps := d.openOps.eraseP fun x => x.opcode == op && x.obj == obj }).run s))) := by
  simp only [finish, run_read, h]; rfl
theorem finish_none {op obj st d : Nat} {p : List Byte} {s : State} (h : s.findOp op obj = none) :
    (finish op obj st d p).run s = s := by
  simp only [finish, run_read, h, run_skip]
theorem finish_replied {c : CardCtx} {rs : List Reply} {op obj st d : Nat} {p : List Byte} {s t : State} {o : OpenOp}
    (h : t.findOp op obj = some o) (hc : o.ctx = c) (hr : Replied c rs s t) :
    Replied c (rs ++ [⟨c, st, op, d, p⟩]) s ((finish op obj st d p).run t) := by
  rw [finish_run h, hc]
  have h1 : Replied c rs s (dbyStat.run ((Act.dby fun d => { d with openOps := d.openOps.eraseP fun x =>
      x.opcode == op && x.obj == obj }).run t)) :=
    (hr.step (a := .dby fun d => { d with openOps := d.openOps.eraseP fun x => x.opcode == op && x.obj == obj })
      (fun _ => rfl)).step dbyStat_noReply
  exact (h1.reply op st d p).step (cardDone_noReply _ _)
/-- The command whose meaning is an effect completes by it. -/
theorem completes_commit {c : Instr} {s : State} {a : Act} {P : State → Prop} (h : exec c s = commit a s) (hp : P (a.run s)) :
    Completes c s P := ⟨_, h, hp⟩

end Sys2Proof.Machine
end

