-- ==== Sys2Proof/Laws/Inv.lean ====
section
/-! SUPPORT. Every effect keeps the invariant of Safety.lean: the memory operations keep the canonical form, and a register
write sets no reserved bit. -/

namespace Sys2Proof.Machine

/-- A byte written to DRAM keeps its canonical form. -/
theorem Memory.wf_store {m : List Host.Cell} (a : Nat) (v : Byte) (h : Memory.wf m = true) :
    Memory.wf (Tab.store (fun _ => (0 : Byte)) (show Tab Byte from m) a v) = true := Tab.canon_store a v h
/-- A poison mark keeps the canonical form of the marks. -/
theorem Poison.wf_store {t : Tab Bool} (l : Nat) (p : Bool) (h : Poison.wf t = true) :
    Poison.wf (Tab.store (fun _ => false) t l p) = true := Tab.canon_store l p h
/-- A register write keeps the canonical form. -/
theorem Regs.wf_store {t : Tab W64} (a : Nat) (v : W64) (h : Regs.wf t = true) :
    Regs.wf (Tab.store regReset t a v) = true := Tab.canon_store a v h
/-- A masked word has no bit outside the mask. -/
theorem and_mask_out (v m : W64) : v &&& m &&& ~~~m = 0 := by
  ext i hi; simp
/-- A register write sets no reserved bit. -/
theorem Regs.reserved_store {t : Tab W64} (a : Nat) (v : W64) (h : Regs.reserved t = true) :
    Regs.reserved (Tab.store regReset t a (v &&& regMask a)) = true := by
  unfold Regs.reserved at h ⊢
  exact Tab.all_store h (by simp only [and_mask_out]; rfl)

/-- Every effect keeps the invariant. -/
theorem Act.run_inv (a : Act) : ∀ s : State, s.inv = true → (a.run s).inv = true := by
  induction a with
  | seq a b iha ihb => exact fun s h => ihb _ (iha s h)
  | read k ih => exact fun s h => ih s s h
  | reg a v =>
    intro s h
    simp only [State.inv, Bool.and_eq_true] at h ⊢
    exact ⟨⟨h.1.1, Regs.wf_store a _ h.1.2⟩, Regs.reserved_store a v h.2⟩
  | byte a v =>
    intro s h
    simp only [State.inv, Bool.and_eq_true] at h ⊢
    exact ⟨⟨⟨Memory.wf_store a v h.1.1.1, h.1.1.2⟩, h.1.2⟩, h.2⟩
  | setPoison l p =>
    intro s h
    simp only [State.inv, Bool.and_eq_true] at h ⊢
    exact ⟨⟨⟨h.1.1.1, Poison.wf_store l p h.1.1.2⟩, h.1.2⟩, h.2⟩
  | _ => exact fun s h => h

end Sys2Proof.Machine
end

