-- ==== Sys2Proof/Laws/Parts.lean ====
section
/-! SUPPORT. The parts of the state that each shared operation leaves as they are. Written by a script from the lemmas of
Laws/Ops.lean, Laws/Flags.lean and Laws/Card.lean. -/

set_option Elab.async false

namespace Sys2Proof.Machine

variable (s : State)

/-- Where the error record banks lie. -/
theorem inBank_cases {a : Nat} (h : inBank a) :
    (0xE00000000000 ≤ a ∧ a < 0xE10000000000 ∧ 0xF00000 ≤ (a - 0xE00000000000) % 0x1000000) ∨
    (0xE10000000000 ≤ a ∧ a < 0xE10010000000 ∧ 0xE00 ≤ (a - 0xE10000000000) % 0x100000 ∧
      (a - 0xE10000000000) % 0x100000 < 0xF40) := by
  obtain ⟨id, h1, h2⟩ := h
  unfold bankOf at h1 h2
  repeat' split at h1
  all_goals simp only [blockBank, nodeBank, blockBase, nodeBase, *, if_true, if_false] at h1 h2 <;> omega

@[simp] theorem send_mem (n : Nat) (f : Flit) : (Act.run (send n f) s).mem = s.mem := ((send_leaves (fun _ _ => rfl)) : Act.Leaves (Act.Fixes State.mem) (send n f)).fixes s
@[simp] theorem send_poison (n : Nat) (f : Flit) : (Act.run (send n f) s).poison = s.poison := ((send_leaves (fun _ _ => rfl)) : Act.Leaves (Act.Fixes State.poison) (send n f)).fixes s
@[simp] theorem send_clk (n : Nat) (f : Flit) : (Act.run (send n f) s).clk = s.clk := ((send_leaves (fun _ _ => rfl)) : Act.Leaves (Act.Fixes State.clk) (send n f)).fixes s
@[simp] theorem send_io (n : Nat) (f : Flit) : (Act.run (send n f) s).io = s.io := ((send_leaves (fun _ _ => rfl)) : Act.Leaves (Act.Fixes State.io) (send n f)).fixes s
@[simp] theorem send_fuses (n : Nat) (f : Flit) : (Act.run (send n f) s).fuses = s.fuses := ((send_leaves (fun _ _ => rfl)) : Act.Leaves (Act.Fixes State.fuses) (send n f)).fixes s
@[simp] theorem send_core (n : Nat) (f : Flit) : (Act.run (send n f) s).core = s.core := ((send_leaves (fun _ _ => rfl)) : Act.Leaves (Act.Fixes State.core) (send n f)).fixes s
@[simp] theorem send_cache (n : Nat) (f : Flit) : (Act.run (send n f) s).cache = s.cache := ((send_leaves (fun _ _ => rfl)) : Act.Leaves (Act.Fixes State.cache) (send n f)).fixes s
@[simp] theorem send_coh (n : Nat) (f : Flit) : (Act.run (send n f) s).coh = s.coh := ((send_leaves (fun _ _ => rfl)) : Act.Leaves (Act.Fixes State.coh) (send n f)).fixes s
@[simp] theorem send_btn (n : Nat) (f : Flit) : (Act.run (send n f) s).btn = s.btn := ((send_leaves (fun _ _ => rfl)) : Act.Leaves (Act.Fixes State.btn) (send n f)).fixes s
@[simp] theorem send_loom (n : Nat) (f : Flit) : (Act.run (send n f) s).loom = s.loom := ((send_leaves (fun _ _ => rfl)) : Act.Leaves (Act.Fixes State.loom) (send n f)).fixes s
@[simp] theorem send_drv (n : Nat) (f : Flit) : (Act.run (send n f) s).drv = s.drv := ((send_leaves (fun _ _ => rfl)) : Act.Leaves (Act.Fixes State.drv) (send n f)).fixes s
@[simp] theorem send_pick (n : Nat) (f : Flit) : (Act.run (send n f) s).pick = s.pick := ((send_leaves (fun _ _ => rfl)) : Act.Leaves (Act.Fixes State.pick) (send n f)).fixes s
@[simp] theorem send_xf (n : Nat) (f : Flit) : (Act.run (send n f) s).xf = s.xf := ((send_leaves (fun _ _ => rfl)) : Act.Leaves (Act.Fixes State.xf) (send n f)).fixes s
@[simp] theorem send_shu (n : Nat) (f : Flit) : (Act.run (send n f) s).shu = s.shu := ((send_leaves (fun _ _ => rfl)) : Act.Leaves (Act.Fixes State.shu) (send n f)).fixes s
@[simp] theorem send_iotlb (n : Nat) (f : Flit) : (Act.run (send n f) s).iotlb = s.iotlb := ((send_leaves (fun _ _ => rfl)) : Act.Leaves (Act.Fixes State.iotlb) (send n f)).fixes s
@[simp] theorem send_crl (n : Nat) (f : Flit) : (Act.run (send n f) s).crl = s.crl := ((send_leaves (fun _ _ => rfl)) : Act.Leaves (Act.Fixes State.crl) (send n f)).fixes s
@[simp] theorem send_hrn (n : Nat) (f : Flit) : (Act.run (send n f) s).hrn = s.hrn := ((send_leaves (fun _ _ => rfl)) : Act.Leaves (Act.Fixes State.hrn) (send n f)).fixes s
@[simp] theorem send_mc (n : Nat) (f : Flit) : (Act.run (send n f) s).mc = s.mc := ((send_leaves (fun _ _ => rfl)) : Act.Leaves (Act.Fixes State.mc) (send n f)).fixes s
@[simp] theorem send_dby (n : Nat) (f : Flit) : (Act.run (send n f) s).dby = s.dby := ((send_leaves (fun _ _ => rfl)) : Act.Leaves (Act.Fixes State.dby) (send n f)).fixes s
@[simp] theorem send_ras (n : Nat) (f : Flit) : (Act.run (send n f) s).ras = s.ras := ((send_leaves (fun _ _ => rfl)) : Act.Leaves (Act.Fixes State.ras) (send n f)).fixes s
@[simp] theorem send_pwr (n : Nat) (f : Flit) : (Act.run (send n f) s).pwr = s.pwr := ((send_leaves (fun _ _ => rfl)) : Act.Leaves (Act.Fixes State.pwr) (send n f)).fixes s
@[simp] theorem send_boot (n : Nat) (f : Flit) : (Act.run (send n f) s).boot = s.boot := ((send_leaves (fun _ _ => rfl)) : Act.Leaves (Act.Fixes State.boot) (send n f)).fixes s
@[simp] theorem send_dbg (n : Nat) (f : Flit) : (Act.run (send n f) s).dbg = s.dbg := ((send_leaves (fun _ _ => rfl)) : Act.Leaves (Act.Fixes State.dbg) (send n f)).fixes s
@[simp] theorem hrnEval_mem (h f : Nat) : (Act.run (hrnEval h f) s).mem = s.mem := ((hrnEval_leaves (fun _ _ => rfl) (fun _ _ _ _ => rfl)) : Act.Leaves (Act.Fixes State.mem) (hrnEval h f)).fixes s
@[simp] theorem hrnEval_poison (h f : Nat) : (Act.run (hrnEval h f) s).poison = s.poison := ((hrnEval_leaves (fun _ _ => rfl) (fun _ _ _ _ => rfl)) : Act.Leaves (Act.Fixes State.poison) (hrnEval h f)).fixes s
@[simp] theorem hrnEval_clk (h f : Nat) : (Act.run (hrnEval h f) s).clk = s.clk := ((hrnEval_leaves (fun _ _ => rfl) (fun _ _ _ _ => rfl)) : Act.Leaves (Act.Fixes State.clk) (hrnEval h f)).fixes s
@[simp] theorem hrnEval_io (h f : Nat) : (Act.run (hrnEval h f) s).io = s.io := ((hrnEval_leaves (fun _ _ => rfl) (fun _ _ _ _ => rfl)) : Act.Leaves (Act.Fixes State.io) (hrnEval h f)).fixes s
@[simp] theorem hrnEval_fuses (h f : Nat) : (Act.run (hrnEval h f) s).fuses = s.fuses := ((hrnEval_leaves (fun _ _ => rfl) (fun _ _ _ _ => rfl)) : Act.Leaves (Act.Fixes State.fuses) (hrnEval h f)).fixes s
@[simp] theorem hrnEval_core (h f : Nat) : (Act.run (hrnEval h f) s).core = s.core := ((hrnEval_leaves (fun _ _ => rfl) (fun _ _ _ _ => rfl)) : Act.Leaves (Act.Fixes State.core) (hrnEval h f)).fixes s
@[simp] theorem hrnEval_cache (h f : Nat) : (Act.run (hrnEval h f) s).cache = s.cache := ((hrnEval_leaves (fun _ _ => rfl) (fun _ _ _ _ => rfl)) : Act.Leaves (Act.Fixes State.cache) (hrnEval h f)).fixes s
@[simp] theorem hrnEval_coh (h f : Nat) : (Act.run (hrnEval h f) s).coh = s.coh := ((hrnEval_leaves (fun _ _ => rfl) (fun _ _ _ _ => rfl)) : Act.Leaves (Act.Fixes State.coh) (hrnEval h f)).fixes s
@[simp] theorem hrnEval_btn (h f : Nat) : (Act.run (hrnEval h f) s).btn = s.btn := ((hrnEval_leaves (fun _ _ => rfl) (fun _ _ _ _ => rfl)) : Act.Leaves (Act.Fixes State.btn) (hrnEval h f)).fixes s
@[simp] theorem hrnEval_loom (h f : Nat) : (Act.run (hrnEval h f) s).loom = s.loom := ((hrnEval_leaves (fun _ _ => rfl) (fun _ _ _ _ => rfl)) : Act.Leaves (Act.Fixes State.loom) (hrnEval h f)).fixes s
@[simp] theorem hrnEval_drv (h f : Nat) : (Act.run (hrnEval h f) s).drv = s.drv := ((hrnEval_leaves (fun _ _ => rfl) (fun _ _ _ _ => rfl)) : Act.Leaves (Act.Fixes State.drv) (hrnEval h f)).fixes s
@[simp] theorem hrnEval_pick (h f : Nat) : (Act.run (hrnEval h f) s).pick = s.pick := ((hrnEval_leaves (fun _ _ => rfl) (fun _ _ _ _ => rfl)) : Act.Leaves (Act.Fixes State.pick) (hrnEval h f)).fixes s
@[simp] theorem hrnEval_xf (h f : Nat) : (Act.run (hrnEval h f) s).xf = s.xf := ((hrnEval_leaves (fun _ _ => rfl) (fun _ _ _ _ => rfl)) : Act.Leaves (Act.Fixes State.xf) (hrnEval h f)).fixes s
@[simp] theorem hrnEval_shu (h f : Nat) : (Act.run (hrnEval h f) s).shu = s.shu := ((hrnEval_leaves (fun _ _ => rfl) (fun _ _ _ _ => rfl)) : Act.Leaves (Act.Fixes State.shu) (hrnEval h f)).fixes s
@[simp] theorem hrnEval_iotlb (h f : Nat) : (Act.run (hrnEval h f) s).iotlb = s.iotlb := ((hrnEval_leaves (fun _ _ => rfl) (fun _ _ _ _ => rfl)) : Act.Leaves (Act.Fixes State.iotlb) (hrnEval h f)).fixes s
@[simp] theorem hrnEval_crl (h f : Nat) : (Act.run (hrnEval h f) s).crl = s.crl := ((hrnEval_leaves (fun _ _ => rfl) (fun _ _ _ _ => rfl)) : Act.Leaves (Act.Fixes State.crl) (hrnEval h f)).fixes s
@[simp] theorem hrnEval_mc (h f : Nat) : (Act.run (hrnEval h f) s).mc = s.mc := ((hrnEval_leaves (fun _ _ => rfl) (fun _ _ _ _ => rfl)) : Act.Leaves (Act.Fixes State.mc) (hrnEval h f)).fixes s
@[simp] theorem hrnEval_dby (h f : Nat) : (Act.run (hrnEval h f) s).dby = s.dby := ((hrnEval_leaves (fun _ _ => rfl) (fun _ _ _ _ => rfl)) : Act.Leaves (Act.Fixes State.dby) (hrnEval h f)).fixes s
@[simp] theorem hrnEval_ras (h f : Nat) : (Act.run (hrnEval h f) s).ras = s.ras := ((hrnEval_leaves (fun _ _ => rfl) (fun _ _ _ _ => rfl)) : Act.Leaves (Act.Fixes State.ras) (hrnEval h f)).fixes s
@[simp] theorem hrnEval_pwr (h f : Nat) : (Act.run (hrnEval h f) s).pwr = s.pwr := ((hrnEval_leaves (fun _ _ => rfl) (fun _ _ _ _ => rfl)) : Act.Leaves (Act.Fixes State.pwr) (hrnEval h f)).fixes s
@[simp] theorem hrnEval_boot (h f : Nat) : (Act.run (hrnEval h f) s).boot = s.boot := ((hrnEval_leaves (fun _ _ => rfl) (fun _ _ _ _ => rfl)) : Act.Leaves (Act.Fixes State.boot) (hrnEval h f)).fixes s
@[simp] theorem hrnEval_dbg (h f : Nat) : (Act.run (hrnEval h f) s).dbg = s.dbg := ((hrnEval_leaves (fun _ _ => rfl) (fun _ _ _ _ => rfl)) : Act.Leaves (Act.Fixes State.dbg) (hrnEval h f)).fixes s
@[simp] theorem lineSet_mem (n : Nat) (b : Bool) : (Act.run (lineSet n b) s).mem = s.mem := ((lineSet_leaves (fun _ _ => rfl) (fun _ _ => rfl) (fun _ _ _ _ => rfl)) : Act.Leaves (Act.Fixes State.mem) (lineSet n b)).fixes s
@[simp] theorem lineSet_poison (n : Nat) (b : Bool) : (Act.run (lineSet n b) s).poison = s.poison := ((lineSet_leaves (fun _ _ => rfl) (fun _ _ => rfl) (fun _ _ _ _ => rfl)) : Act.Leaves (Act.Fixes State.poison) (lineSet n b)).fixes s
@[simp] theorem lineSet_clk (n : Nat) (b : Bool) : (Act.run (lineSet n b) s).clk = s.clk := ((lineSet_leaves (fun _ _ => rfl) (fun _ _ => rfl) (fun _ _ _ _ => rfl)) : Act.Leaves (Act.Fixes State.clk) (lineSet n b)).fixes s
@[simp] theorem lineSet_io (n : Nat) (b : Bool) : (Act.run (lineSet n b) s).io = s.io := ((lineSet_leaves (fun _ _ => rfl) (fun _ _ => rfl) (fun _ _ _ _ => rfl)) : Act.Leaves (Act.Fixes State.io) (lineSet n b)).fixes s
@[simp] theorem lineSet_fuses (n : Nat) (b : Bool) : (Act.run (lineSet n b) s).fuses = s.fuses := ((lineSet_leaves (fun _ _ => rfl) (fun _ _ => rfl) (fun _ _ _ _ => rfl)) : Act.Leaves (Act.Fixes State.fuses) (lineSet n b)).fixes s
@[simp] theorem lineSet_core (n : Nat) (b : Bool) : (Act.run (lineSet n b) s).core = s.core := ((lineSet_leaves (fun _ _ => rfl) (fun _ _ => rfl) (fun _ _ _ _ => rfl)) : Act.Leaves (Act.Fixes State.core) (lineSet n b)).fixes s
@[simp] theorem lineSet_cache (n : Nat) (b : Bool) : (Act.run (lineSet n b) s).cache = s.cache := ((lineSet_leaves (fun _ _ => rfl) (fun _ _ => rfl) (fun _ _ _ _ => rfl)) : Act.Leaves (Act.Fixes State.cache) (lineSet n b)).fixes s
@[simp] theorem lineSet_coh (n : Nat) (b : Bool) : (Act.run (lineSet n b) s).coh = s.coh := ((lineSet_leaves (fun _ _ => rfl) (fun _ _ => rfl) (fun _ _ _ _ => rfl)) : Act.Leaves (Act.Fixes State.coh) (lineSet n b)).fixes s
@[simp] theorem lineSet_btn (n : Nat) (b : Bool) : (Act.run (lineSet n b) s).btn = s.btn := ((lineSet_leaves (fun _ _ => rfl) (fun _ _ => rfl) (fun _ _ _ _ => rfl)) : Act.Leaves (Act.Fixes State.btn) (lineSet n b)).fixes s
@[simp] theorem lineSet_loom (n : Nat) (b : Bool) : (Act.run (lineSet n b) s).loom = s.loom := ((lineSet_leaves (fun _ _ => rfl) (fun _ _ => rfl) (fun _ _ _ _ => rfl)) : Act.Leaves (Act.Fixes State.loom) (lineSet n b)).fixes s
@[simp] theorem lineSet_drv (n : Nat) (b : Bool) : (Act.run (lineSet n b) s).drv = s.drv := ((lineSet_leaves (fun _ _ => rfl) (fun _ _ => rfl) (fun _ _ _ _ => rfl)) : Act.Leaves (Act.Fixes State.drv) (lineSet n b)).fixes s
@[simp] theorem lineSet_pick (n : Nat) (b : Bool) : (Act.run (lineSet n b) s).pick = s.pick := ((lineSet_leaves (fun _ _ => rfl) (fun _ _ => rfl) (fun _ _ _ _ => rfl)) : Act.Leaves (Act.Fixes State.pick) (lineSet n b)).fixes s
@[simp] theorem lineSet_xf (n : Nat) (b : Bool) : (Act.run (lineSet n b) s).xf = s.xf := ((lineSet_leaves (fun _ _ => rfl) (fun _ _ => rfl) (fun _ _ _ _ => rfl)) : Act.Leaves (Act.Fixes State.xf) (lineSet n b)).fixes s
@[simp] theorem lineSet_shu (n : Nat) (b : Bool) : (Act.run (lineSet n b) s).shu = s.shu := ((lineSet_leaves (fun _ _ => rfl) (fun _ _ => rfl) (fun _ _ _ _ => rfl)) : Act.Leaves (Act.Fixes State.shu) (lineSet n b)).fixes s
@[simp] theorem lineSet_iotlb (n : Nat) (b : Bool) : (Act.run (lineSet n b) s).iotlb = s.iotlb := ((lineSet_leaves (fun _ _ => rfl) (fun _ _ => rfl) (fun _ _ _ _ => rfl)) : Act.Leaves (Act.Fixes State.iotlb) (lineSet n b)).fixes s
@[simp] theorem lineSet_crl (n : Nat) (b : Bool) : (Act.run (lineSet n b) s).crl = s.crl := ((lineSet_leaves (fun _ _ => rfl) (fun _ _ => rfl) (fun _ _ _ _ => rfl)) : Act.Leaves (Act.Fixes State.crl) (lineSet n b)).fixes s
@[simp] theorem lineSet_mc (n : Nat) (b : Bool) : (Act.run (lineSet n b) s).mc = s.mc := ((lineSet_leaves (fun _ _ => rfl) (fun _ _ => rfl) (fun _ _ _ _ => rfl)) : Act.Leaves (Act.Fixes State.mc) (lineSet n b)).fixes s
@[simp] theorem lineSet_dby (n : Nat) (b : Bool) : (Act.run (lineSet n b) s).dby = s.dby := ((lineSet_leaves (fun _ _ => rfl) (fun _ _ => rfl) (fun _ _ _ _ => rfl)) : Act.Leaves (Act.Fixes State.dby) (lineSet n b)).fixes s
@[simp] theorem lineSet_ras (n : Nat) (b : Bool) : (Act.run (lineSet n b) s).ras = s.ras := ((lineSet_leaves (fun _ _ => rfl) (fun _ _ => rfl) (fun _ _ _ _ => rfl)) : Act.Leaves (Act.Fixes State.ras) (lineSet n b)).fixes s
@[simp] theorem lineSet_pwr (n : Nat) (b : Bool) : (Act.run (lineSet n b) s).pwr = s.pwr := ((lineSet_leaves (fun _ _ => rfl) (fun _ _ => rfl) (fun _ _ _ _ => rfl)) : Act.Leaves (Act.Fixes State.pwr) (lineSet n b)).fixes s
@[simp] theorem lineSet_boot (n : Nat) (b : Bool) : (Act.run (lineSet n b) s).boot = s.boot := ((lineSet_leaves (fun _ _ => rfl) (fun _ _ => rfl) (fun _ _ _ _ => rfl)) : Act.Leaves (Act.Fixes State.boot) (lineSet n b)).fixes s
@[simp] theorem lineSet_dbg (n : Nat) (b : Bool) : (Act.run (lineSet n b) s).dbg = s.dbg := ((lineSet_leaves (fun _ _ => rfl) (fun _ _ => rfl) (fun _ _ _ _ => rfl)) : Act.Leaves (Act.Fixes State.dbg) (lineSet n b)).fixes s
@[simp] theorem linePulse_mem (n : Nat) : (Act.run (linePulse n) s).mem = s.mem := ((linePulse_leaves (fun _ _ => rfl) (fun _ _ => rfl) (fun _ _ _ _ => rfl)) : Act.Leaves (Act.Fixes State.mem) (linePulse n)).fixes s
@[simp] theorem linePulse_poison (n : Nat) : (Act.run (linePulse n) s).poison = s.poison := ((linePulse_leaves (fun _ _ => rfl) (fun _ _ => rfl) (fun _ _ _ _ => rfl)) : Act.Leaves (Act.Fixes State.poison) (linePulse n)).fixes s
@[simp] theorem linePulse_clk (n : Nat) : (Act.run (linePulse n) s).clk = s.clk := ((linePulse_leaves (fun _ _ => rfl) (fun _ _ => rfl) (fun _ _ _ _ => rfl)) : Act.Leaves (Act.Fixes State.clk) (linePulse n)).fixes s
@[simp] theorem linePulse_io (n : Nat) : (Act.run (linePulse n) s).io = s.io := ((linePulse_leaves (fun _ _ => rfl) (fun _ _ => rfl) (fun _ _ _ _ => rfl)) : Act.Leaves (Act.Fixes State.io) (linePulse n)).fixes s
@[simp] theorem linePulse_fuses (n : Nat) : (Act.run (linePulse n) s).fuses = s.fuses := ((linePulse_leaves (fun _ _ => rfl) (fun _ _ => rfl) (fun _ _ _ _ => rfl)) : Act.Leaves (Act.Fixes State.fuses) (linePulse n)).fixes s
@[simp] theorem linePulse_core (n : Nat) : (Act.run (linePulse n) s).core = s.core := ((linePulse_leaves (fun _ _ => rfl) (fun _ _ => rfl) (fun _ _ _ _ => rfl)) : Act.Leaves (Act.Fixes State.core) (linePulse n)).fixes s
@[simp] theorem linePulse_cache (n : Nat) : (Act.run (linePulse n) s).cache = s.cache := ((linePulse_leaves (fun _ _ => rfl) (fun _ _ => rfl) (fun _ _ _ _ => rfl)) : Act.Leaves (Act.Fixes State.cache) (linePulse n)).fixes s
@[simp] theorem linePulse_coh (n : Nat) : (Act.run (linePulse n) s).coh = s.coh := ((linePulse_leaves (fun _ _ => rfl) (fun _ _ => rfl) (fun _ _ _ _ => rfl)) : Act.Leaves (Act.Fixes State.coh) (linePulse n)).fixes s
@[simp] theorem linePulse_btn (n : Nat) : (Act.run (linePulse n) s).btn = s.btn := ((linePulse_leaves (fun _ _ => rfl) (fun _ _ => rfl) (fun _ _ _ _ => rfl)) : Act.Leaves (Act.Fixes State.btn) (linePulse n)).fixes s
@[simp] theorem linePulse_loom (n : Nat) : (Act.run (linePulse n) s).loom = s.loom := ((linePulse_leaves (fun _ _ => rfl) (fun _ _ => rfl) (fun _ _ _ _ => rfl)) : Act.Leaves (Act.Fixes State.loom) (linePulse n)).fixes s
@[simp] theorem linePulse_drv (n : Nat) : (Act.run (linePulse n) s).drv = s.drv := ((linePulse_leaves (fun _ _ => rfl) (fun _ _ => rfl) (fun _ _ _ _ => rfl)) : Act.Leaves (Act.Fixes State.drv) (linePulse n)).fixes s
@[simp] theorem linePulse_pick (n : Nat) : (Act.run (linePulse n) s).pick = s.pick := ((linePulse_leaves (fun _ _ => rfl) (fun _ _ => rfl) (fun _ _ _ _ => rfl)) : Act.Leaves (Act.Fixes State.pick) (linePulse n)).fixes s
@[simp] theorem linePulse_xf (n : Nat) : (Act.run (linePulse n) s).xf = s.xf := ((linePulse_leaves (fun _ _ => rfl) (fun _ _ => rfl) (fun _ _ _ _ => rfl)) : Act.Leaves (Act.Fixes State.xf) (linePulse n)).fixes s
@[simp] theorem linePulse_shu (n : Nat) : (Act.run (linePulse n) s).shu = s.shu := ((linePulse_leaves (fun _ _ => rfl) (fun _ _ => rfl) (fun _ _ _ _ => rfl)) : Act.Leaves (Act.Fixes State.shu) (linePulse n)).fixes s
@[simp] theorem linePulse_iotlb (n : Nat) : (Act.run (linePulse n) s).iotlb = s.iotlb := ((linePulse_leaves (fun _ _ => rfl) (fun _ _ => rfl) (fun _ _ _ _ => rfl)) : Act.Leaves (Act.Fixes State.iotlb) (linePulse n)).fixes s
@[simp] theorem linePulse_crl (n : Nat) : (Act.run (linePulse n) s).crl = s.crl := ((linePulse_leaves (fun _ _ => rfl) (fun _ _ => rfl) (fun _ _ _ _ => rfl)) : Act.Leaves (Act.Fixes State.crl) (linePulse n)).fixes s
@[simp] theorem linePulse_mc (n : Nat) : (Act.run (linePulse n) s).mc = s.mc := ((linePulse_leaves (fun _ _ => rfl) (fun _ _ => rfl) (fun _ _ _ _ => rfl)) : Act.Leaves (Act.Fixes State.mc) (linePulse n)).fixes s
@[simp] theorem linePulse_dby (n : Nat) : (Act.run (linePulse n) s).dby = s.dby := ((linePulse_leaves (fun _ _ => rfl) (fun _ _ => rfl) (fun _ _ _ _ => rfl)) : Act.Leaves (Act.Fixes State.dby) (linePulse n)).fixes s
@[simp] theorem linePulse_ras (n : Nat) : (Act.run (linePulse n) s).ras = s.ras := ((linePulse_leaves (fun _ _ => rfl) (fun _ _ => rfl) (fun _ _ _ _ => rfl)) : Act.Leaves (Act.Fixes State.ras) (linePulse n)).fixes s
@[simp] theorem linePulse_pwr (n : Nat) : (Act.run (linePulse n) s).pwr = s.pwr := ((linePulse_leaves (fun _ _ => rfl) (fun _ _ => rfl) (fun _ _ _ _ => rfl)) : Act.Leaves (Act.Fixes State.pwr) (linePulse n)).fixes s
@[simp] theorem linePulse_boot (n : Nat) : (Act.run (linePulse n) s).boot = s.boot := ((linePulse_leaves (fun _ _ => rfl) (fun _ _ => rfl) (fun _ _ _ _ => rfl)) : Act.Leaves (Act.Fixes State.boot) (linePulse n)).fixes s
@[simp] theorem linePulse_dbg (n : Nat) : (Act.run (linePulse n) s).dbg = s.dbg := ((linePulse_leaves (fun _ _ => rfl) (fun _ _ => rfl) (fun _ _ _ _ => rfl)) : Act.Leaves (Act.Fixes State.dbg) (linePulse n)).fixes s
@[simp] theorem sourceRaise_mem (n : Nat) : (Act.run (sourceRaise n) s).mem = s.mem := ((sourceRaise_leaves (fun _ _ => rfl) (fun _ _ => rfl) (fun _ _ _ _ => rfl)) : Act.Leaves (Act.Fixes State.mem) (sourceRaise n)).fixes s
@[simp] theorem sourceRaise_poison (n : Nat) : (Act.run (sourceRaise n) s).poison = s.poison := ((sourceRaise_leaves (fun _ _ => rfl) (fun _ _ => rfl) (fun _ _ _ _ => rfl)) : Act.Leaves (Act.Fixes State.poison) (sourceRaise n)).fixes s
@[simp] theorem sourceRaise_clk (n : Nat) : (Act.run (sourceRaise n) s).clk = s.clk := ((sourceRaise_leaves (fun _ _ => rfl) (fun _ _ => rfl) (fun _ _ _ _ => rfl)) : Act.Leaves (Act.Fixes State.clk) (sourceRaise n)).fixes s
@[simp] theorem sourceRaise_io (n : Nat) : (Act.run (sourceRaise n) s).io = s.io := ((sourceRaise_leaves (fun _ _ => rfl) (fun _ _ => rfl) (fun _ _ _ _ => rfl)) : Act.Leaves (Act.Fixes State.io) (sourceRaise n)).fixes s
@[simp] theorem sourceRaise_fuses (n : Nat) : (Act.run (sourceRaise n) s).fuses = s.fuses := ((sourceRaise_leaves (fun _ _ => rfl) (fun _ _ => rfl) (fun _ _ _ _ => rfl)) : Act.Leaves (Act.Fixes State.fuses) (sourceRaise n)).fixes s
@[simp] theorem sourceRaise_core (n : Nat) : (Act.run (sourceRaise n) s).core = s.core := ((sourceRaise_leaves (fun _ _ => rfl) (fun _ _ => rfl) (fun _ _ _ _ => rfl)) : Act.Leaves (Act.Fixes State.core) (sourceRaise n)).fixes s
@[simp] theorem sourceRaise_cache (n : Nat) : (Act.run (sourceRaise n) s).cache = s.cache := ((sourceRaise_leaves (fun _ _ => rfl) (fun _ _ => rfl) (fun _ _ _ _ => rfl)) : Act.Leaves (Act.Fixes State.cache) (sourceRaise n)).fixes s
@[simp] theorem sourceRaise_coh (n : Nat) : (Act.run (sourceRaise n) s).coh = s.coh := ((sourceRaise_leaves (fun _ _ => rfl) (fun _ _ => rfl) (fun _ _ _ _ => rfl)) : Act.Leaves (Act.Fixes State.coh) (sourceRaise n)).fixes s
@[simp] theorem sourceRaise_btn (n : Nat) : (Act.run (sourceRaise n) s).btn = s.btn := ((sourceRaise_leaves (fun _ _ => rfl) (fun _ _ => rfl) (fun _ _ _ _ => rfl)) : Act.Leaves (Act.Fixes State.btn) (sourceRaise n)).fixes s
@[simp] theorem sourceRaise_loom (n : Nat) : (Act.run (sourceRaise n) s).loom = s.loom := ((sourceRaise_leaves (fun _ _ => rfl) (fun _ _ => rfl) (fun _ _ _ _ => rfl)) : Act.Leaves (Act.Fixes State.loom) (sourceRaise n)).fixes s
@[simp] theorem sourceRaise_drv (n : Nat) : (Act.run (sourceRaise n) s).drv = s.drv := ((sourceRaise_leaves (fun _ _ => rfl) (fun _ _ => rfl) (fun _ _ _ _ => rfl)) : Act.Leaves (Act.Fixes State.drv) (sourceRaise n)).fixes s
@[simp] theorem sourceRaise_pick (n : Nat) : (Act.run (sourceRaise n) s).pick = s.pick := ((sourceRaise_leaves (fun _ _ => rfl) (fun _ _ => rfl) (fun _ _ _ _ => rfl)) : Act.Leaves (Act.Fixes State.pick) (sourceRaise n)).fixes s
@[simp] theorem sourceRaise_xf (n : Nat) : (Act.run (sourceRaise n) s).xf = s.xf := ((sourceRaise_leaves (fun _ _ => rfl) (fun _ _ => rfl) (fun _ _ _ _ => rfl)) : Act.Leaves (Act.Fixes State.xf) (sourceRaise n)).fixes s
@[simp] theorem sourceRaise_shu (n : Nat) : (Act.run (sourceRaise n) s).shu = s.shu := ((sourceRaise_leaves (fun _ _ => rfl) (fun _ _ => rfl) (fun _ _ _ _ => rfl)) : Act.Leaves (Act.Fixes State.shu) (sourceRaise n)).fixes s
@[simp] theorem sourceRaise_iotlb (n : Nat) : (Act.run (sourceRaise n) s).iotlb = s.iotlb := ((sourceRaise_leaves (fun _ _ => rfl) (fun _ _ => rfl) (fun _ _ _ _ => rfl)) : Act.Leaves (Act.Fixes State.iotlb) (sourceRaise n)).fixes s
@[simp] theorem sourceRaise_crl (n : Nat) : (Act.run (sourceRaise n) s).crl = s.crl := ((sourceRaise_leaves (fun _ _ => rfl) (fun _ _ => rfl) (fun _ _ _ _ => rfl)) : Act.Leaves (Act.Fixes State.crl) (sourceRaise n)).fixes s
@[simp] theorem sourceRaise_mc (n : Nat) : (Act.run (sourceRaise n) s).mc = s.mc := ((sourceRaise_leaves (fun _ _ => rfl) (fun _ _ => rfl) (fun _ _ _ _ => rfl)) : Act.Leaves (Act.Fixes State.mc) (sourceRaise n)).fixes s
@[simp] theorem sourceRaise_dby (n : Nat) : (Act.run (sourceRaise n) s).dby = s.dby := ((sourceRaise_leaves (fun _ _ => rfl) (fun _ _ => rfl) (fun _ _ _ _ => rfl)) : Act.Leaves (Act.Fixes State.dby) (sourceRaise n)).fixes s
@[simp] theorem sourceRaise_ras (n : Nat) : (Act.run (sourceRaise n) s).ras = s.ras := ((sourceRaise_leaves (fun _ _ => rfl) (fun _ _ => rfl) (fun _ _ _ _ => rfl)) : Act.Leaves (Act.Fixes State.ras) (sourceRaise n)).fixes s
@[simp] theorem sourceRaise_pwr (n : Nat) : (Act.run (sourceRaise n) s).pwr = s.pwr := ((sourceRaise_leaves (fun _ _ => rfl) (fun _ _ => rfl) (fun _ _ _ _ => rfl)) : Act.Leaves (Act.Fixes State.pwr) (sourceRaise n)).fixes s
@[simp] theorem sourceRaise_boot (n : Nat) : (Act.run (sourceRaise n) s).boot = s.boot := ((sourceRaise_leaves (fun _ _ => rfl) (fun _ _ => rfl) (fun _ _ _ _ => rfl)) : Act.Leaves (Act.Fixes State.boot) (sourceRaise n)).fixes s
@[simp] theorem sourceRaise_dbg (n : Nat) : (Act.run (sourceRaise n) s).dbg = s.dbg := ((sourceRaise_leaves (fun _ _ => rfl) (fun _ _ => rfl) (fun _ _ _ _ => rfl)) : Act.Leaves (Act.Fixes State.dbg) (sourceRaise n)).fixes s
@[simp] theorem vectorRaise_mem (v : Nat) : (Act.run (vectorRaise v) s).mem = s.mem := ((vectorRaise_leaves (fun _ _ => rfl) (fun _ _ => rfl) (fun _ _ => rfl) (fun _ _ _ _ => rfl)) : Act.Leaves (Act.Fixes State.mem) (vectorRaise v)).fixes s
@[simp] theorem vectorRaise_poison (v : Nat) : (Act.run (vectorRaise v) s).poison = s.poison := ((vectorRaise_leaves (fun _ _ => rfl) (fun _ _ => rfl) (fun _ _ => rfl) (fun _ _ _ _ => rfl)) : Act.Leaves (Act.Fixes State.poison) (vectorRaise v)).fixes s
@[simp] theorem vectorRaise_clk (v : Nat) : (Act.run (vectorRaise v) s).clk = s.clk := ((vectorRaise_leaves (fun _ _ => rfl) (fun _ _ => rfl) (fun _ _ => rfl) (fun _ _ _ _ => rfl)) : Act.Leaves (Act.Fixes State.clk) (vectorRaise v)).fixes s
@[simp] theorem vectorRaise_io (v : Nat) : (Act.run (vectorRaise v) s).io = s.io := ((vectorRaise_leaves (fun _ _ => rfl) (fun _ _ => rfl) (fun _ _ => rfl) (fun _ _ _ _ => rfl)) : Act.Leaves (Act.Fixes State.io) (vectorRaise v)).fixes s
@[simp] theorem vectorRaise_fuses (v : Nat) : (Act.run (vectorRaise v) s).fuses = s.fuses := ((vectorRaise_leaves (fun _ _ => rfl) (fun _ _ => rfl) (fun _ _ => rfl) (fun _ _ _ _ => rfl)) : Act.Leaves (Act.Fixes State.fuses) (vectorRaise v)).fixes s
@[simp] theorem vectorRaise_core (v : Nat) : (Act.run (vectorRaise v) s).core = s.core := ((vectorRaise_leaves (fun _ _ => rfl) (fun _ _ => rfl) (fun _ _ => rfl) (fun _ _ _ _ => rfl)) : Act.Leaves (Act.Fixes State.core) (vectorRaise v)).fixes s
@[simp] theorem vectorRaise_cache (v : Nat) : (Act.run (vectorRaise v) s).cache = s.cache := ((vectorRaise_leaves (fun _ _ => rfl) (fun _ _ => rfl) (fun _ _ => rfl) (fun _ _ _ _ => rfl)) : Act.Leaves (Act.Fixes State.cache) (vectorRaise v)).fixes s
@[simp] theorem vectorRaise_coh (v : Nat) : (Act.run (vectorRaise v) s).coh = s.coh := ((vectorRaise_leaves (fun _ _ => rfl) (fun _ _ => rfl) (fun _ _ => rfl) (fun _ _ _ _ => rfl)) : Act.Leaves (Act.Fixes State.coh) (vectorRaise v)).fixes s
@[simp] theorem vectorRaise_btn (v : Nat) : (Act.run (vectorRaise v) s).btn = s.btn := ((vectorRaise_leaves (fun _ _ => rfl) (fun _ _ => rfl) (fun _ _ => rfl) (fun _ _ _ _ => rfl)) : Act.Leaves (Act.Fixes State.btn) (vectorRaise v)).fixes s
@[simp] theorem vectorRaise_loom (v : Nat) : (Act.run (vectorRaise v) s).loom = s.loom := ((vectorRaise_leaves (fun _ _ => rfl) (fun _ _ => rfl) (fun _ _ => rfl) (fun _ _ _ _ => rfl)) : Act.Leaves (Act.Fixes State.loom) (vectorRaise v)).fixes s
@[simp] theorem vectorRaise_drv (v : Nat) : (Act.run (vectorRaise v) s).drv = s.drv := ((vectorRaise_leaves (fun _ _ => rfl) (fun _ _ => rfl) (fun _ _ => rfl) (fun _ _ _ _ => rfl)) : Act.Leaves (Act.Fixes State.drv) (vectorRaise v)).fixes s
@[simp] theorem vectorRaise_pick (v : Nat) : (Act.run (vectorRaise v) s).pick = s.pick := ((vectorRaise_leaves (fun _ _ => rfl) (fun _ _ => rfl) (fun _ _ => rfl) (fun _ _ _ _ => rfl)) : Act.Leaves (Act.Fixes State.pick) (vectorRaise v)).fixes s
@[simp] theorem vectorRaise_xf (v : Nat) : (Act.run (vectorRaise v) s).xf = s.xf := ((vectorRaise_leaves (fun _ _ => rfl) (fun _ _ => rfl) (fun _ _ => rfl) (fun _ _ _ _ => rfl)) : Act.Leaves (Act.Fixes State.xf) (vectorRaise v)).fixes s
@[simp] theorem vectorRaise_shu (v : Nat) : (Act.run (vectorRaise v) s).shu = s.shu := ((vectorRaise_leaves (fun _ _ => rfl) (fun _ _ => rfl) (fun _ _ => rfl) (fun _ _ _ _ => rfl)) : Act.Leaves (Act.Fixes State.shu) (vectorRaise v)).fixes s
@[simp] theorem vectorRaise_iotlb (v : Nat) : (Act.run (vectorRaise v) s).iotlb = s.iotlb := ((vectorRaise_leaves (fun _ _ => rfl) (fun _ _ => rfl) (fun _ _ => rfl) (fun _ _ _ _ => rfl)) : Act.Leaves (Act.Fixes State.iotlb) (vectorRaise v)).fixes s
@[simp] theorem vectorRaise_crl (v : Nat) : (Act.run (vectorRaise v) s).crl = s.crl := ((vectorRaise_leaves (fun _ _ => rfl) (fun _ _ => rfl) (fun _ _ => rfl) (fun _ _ _ _ => rfl)) : Act.Leaves (Act.Fixes State.crl) (vectorRaise v)).fixes s
@[simp] theorem vectorRaise_mc (v : Nat) : (Act.run (vectorRaise v) s).mc = s.mc := ((vectorRaise_leaves (fun _ _ => rfl) (fun _ _ => rfl) (fun _ _ => rfl) (fun _ _ _ _ => rfl)) : Act.Leaves (Act.Fixes State.mc) (vectorRaise v)).fixes s
@[simp] theorem vectorRaise_dby (v : Nat) : (Act.run (vectorRaise v) s).dby = s.dby := ((vectorRaise_leaves (fun _ _ => rfl) (fun _ _ => rfl) (fun _ _ => rfl) (fun _ _ _ _ => rfl)) : Act.Leaves (Act.Fixes State.dby) (vectorRaise v)).fixes s
@[simp] theorem vectorRaise_ras (v : Nat) : (Act.run (vectorRaise v) s).ras = s.ras := ((vectorRaise_leaves (fun _ _ => rfl) (fun _ _ => rfl) (fun _ _ => rfl) (fun _ _ _ _ => rfl)) : Act.Leaves (Act.Fixes State.ras) (vectorRaise v)).fixes s
@[simp] theorem vectorRaise_pwr (v : Nat) : (Act.run (vectorRaise v) s).pwr = s.pwr := ((vectorRaise_leaves (fun _ _ => rfl) (fun _ _ => rfl) (fun _ _ => rfl) (fun _ _ _ _ => rfl)) : Act.Leaves (Act.Fixes State.pwr) (vectorRaise v)).fixes s
@[simp] theorem vectorRaise_boot (v : Nat) : (Act.run (vectorRaise v) s).boot = s.boot := ((vectorRaise_leaves (fun _ _ => rfl) (fun _ _ => rfl) (fun _ _ => rfl) (fun _ _ _ _ => rfl)) : Act.Leaves (Act.Fixes State.boot) (vectorRaise v)).fixes s
@[simp] theorem vectorRaise_dbg (v : Nat) : (Act.run (vectorRaise v) s).dbg = s.dbg := ((vectorRaise_leaves (fun _ _ => rfl) (fun _ _ => rfl) (fun _ _ => rfl) (fun _ _ _ _ => rfl)) : Act.Leaves (Act.Fixes State.dbg) (vectorRaise v)).fixes s
@[simp] theorem bankEval_mem (i : Nat) : (Act.run (bankEval i) s).mem = s.mem := ((bankEval_leaves (fun _ _ _ _ => rfl) (fun _ _ => rfl) (fun _ _ _ _ => rfl)) : Act.Leaves (Act.Fixes State.mem) (bankEval i)).fixes s
@[simp] theorem bankEval_poison (i : Nat) : (Act.run (bankEval i) s).poison = s.poison := ((bankEval_leaves (fun _ _ _ _ => rfl) (fun _ _ => rfl) (fun _ _ _ _ => rfl)) : Act.Leaves (Act.Fixes State.poison) (bankEval i)).fixes s
@[simp] theorem bankEval_clk (i : Nat) : (Act.run (bankEval i) s).clk = s.clk := ((bankEval_leaves (fun _ _ _ _ => rfl) (fun _ _ => rfl) (fun _ _ _ _ => rfl)) : Act.Leaves (Act.Fixes State.clk) (bankEval i)).fixes s
@[simp] theorem bankEval_io (i : Nat) : (Act.run (bankEval i) s).io = s.io := ((bankEval_leaves (fun _ _ _ _ => rfl) (fun _ _ => rfl) (fun _ _ _ _ => rfl)) : Act.Leaves (Act.Fixes State.io) (bankEval i)).fixes s
@[simp] theorem bankEval_fuses (i : Nat) : (Act.run (bankEval i) s).fuses = s.fuses := ((bankEval_leaves (fun _ _ _ _ => rfl) (fun _ _ => rfl) (fun _ _ _ _ => rfl)) : Act.Leaves (Act.Fixes State.fuses) (bankEval i)).fixes s
@[simp] theorem bankEval_core (i : Nat) : (Act.run (bankEval i) s).core = s.core := ((bankEval_leaves (fun _ _ _ _ => rfl) (fun _ _ => rfl) (fun _ _ _ _ => rfl)) : Act.Leaves (Act.Fixes State.core) (bankEval i)).fixes s
@[simp] theorem bankEval_cache (i : Nat) : (Act.run (bankEval i) s).cache = s.cache := ((bankEval_leaves (fun _ _ _ _ => rfl) (fun _ _ => rfl) (fun _ _ _ _ => rfl)) : Act.Leaves (Act.Fixes State.cache) (bankEval i)).fixes s
@[simp] theorem bankEval_coh (i : Nat) : (Act.run (bankEval i) s).coh = s.coh := ((bankEval_leaves (fun _ _ _ _ => rfl) (fun _ _ => rfl) (fun _ _ _ _ => rfl)) : Act.Leaves (Act.Fixes State.coh) (bankEval i)).fixes s
@[simp] theorem bankEval_btn (i : Nat) : (Act.run (bankEval i) s).btn = s.btn := ((bankEval_leaves (fun _ _ _ _ => rfl) (fun _ _ => rfl) (fun _ _ _ _ => rfl)) : Act.Leaves (Act.Fixes State.btn) (bankEval i)).fixes s
@[simp] theorem bankEval_loom (i : Nat) : (Act.run (bankEval i) s).loom = s.loom := ((bankEval_leaves (fun _ _ _ _ => rfl) (fun _ _ => rfl) (fun _ _ _ _ => rfl)) : Act.Leaves (Act.Fixes State.loom) (bankEval i)).fixes s
@[simp] theorem bankEval_drv (i : Nat) : (Act.run (bankEval i) s).drv = s.drv := ((bankEval_leaves (fun _ _ _ _ => rfl) (fun _ _ => rfl) (fun _ _ _ _ => rfl)) : Act.Leaves (Act.Fixes State.drv) (bankEval i)).fixes s
@[simp] theorem bankEval_pick (i : Nat) : (Act.run (bankEval i) s).pick = s.pick := ((bankEval_leaves (fun _ _ _ _ => rfl) (fun _ _ => rfl) (fun _ _ _ _ => rfl)) : Act.Leaves (Act.Fixes State.pick) (bankEval i)).fixes s
@[simp] theorem bankEval_xf (i : Nat) : (Act.run (bankEval i) s).xf = s.xf := ((bankEval_leaves (fun _ _ _ _ => rfl) (fun _ _ => rfl) (fun _ _ _ _ => rfl)) : Act.Leaves (Act.Fixes State.xf) (bankEval i)).fixes s
@[simp] theorem bankEval_shu (i : Nat) : (Act.run (bankEval i) s).shu = s.shu := ((bankEval_leaves (fun _ _ _ _ => rfl) (fun _ _ => rfl) (fun _ _ _ _ => rfl)) : Act.Leaves (Act.Fixes State.shu) (bankEval i)).fixes s
@[simp] theorem bankEval_iotlb (i : Nat) : (Act.run (bankEval i) s).iotlb = s.iotlb := ((bankEval_leaves (fun _ _ _ _ => rfl) (fun _ _ => rfl) (fun _ _ _ _ => rfl)) : Act.Leaves (Act.Fixes State.iotlb) (bankEval i)).fixes s
@[simp] theorem bankEval_crl (i : Nat) : (Act.run (bankEval i) s).crl = s.crl := ((bankEval_leaves (fun _ _ _ _ => rfl) (fun _ _ => rfl) (fun _ _ _ _ => rfl)) : Act.Leaves (Act.Fixes State.crl) (bankEval i)).fixes s
@[simp] theorem bankEval_mc (i : Nat) : (Act.run (bankEval i) s).mc = s.mc := ((bankEval_leaves (fun _ _ _ _ => rfl) (fun _ _ => rfl) (fun _ _ _ _ => rfl)) : Act.Leaves (Act.Fixes State.mc) (bankEval i)).fixes s
@[simp] theorem bankEval_dby (i : Nat) : (Act.run (bankEval i) s).dby = s.dby := ((bankEval_leaves (fun _ _ _ _ => rfl) (fun _ _ => rfl) (fun _ _ _ _ => rfl)) : Act.Leaves (Act.Fixes State.dby) (bankEval i)).fixes s
@[simp] theorem bankEval_ras (i : Nat) : (Act.run (bankEval i) s).ras = s.ras := ((bankEval_leaves (fun _ _ _ _ => rfl) (fun _ _ => rfl) (fun _ _ _ _ => rfl)) : Act.Leaves (Act.Fixes State.ras) (bankEval i)).fixes s
@[simp] theorem bankEval_pwr (i : Nat) : (Act.run (bankEval i) s).pwr = s.pwr := ((bankEval_leaves (fun _ _ _ _ => rfl) (fun _ _ => rfl) (fun _ _ _ _ => rfl)) : Act.Leaves (Act.Fixes State.pwr) (bankEval i)).fixes s
@[simp] theorem bankEval_boot (i : Nat) : (Act.run (bankEval i) s).boot = s.boot := ((bankEval_leaves (fun _ _ _ _ => rfl) (fun _ _ => rfl) (fun _ _ _ _ => rfl)) : Act.Leaves (Act.Fixes State.boot) (bankEval i)).fixes s
@[simp] theorem bankEval_dbg (i : Nat) : (Act.run (bankEval i) s).dbg = s.dbg := ((bankEval_leaves (fun _ _ _ _ => rfl) (fun _ _ => rfl) (fun _ _ _ _ => rfl)) : Act.Leaves (Act.Fixes State.dbg) (bankEval i)).fixes s
@[simp] theorem rasLog_mem (x : RasRec) : (Act.run (rasLog x) s).mem = s.mem := ((rasLog_leaves (fun _ _ _ _ => rfl) (fun _ _ _ _ => rfl) (fun _ _ => rfl) (fun _ _ => rfl) (fun _ _ _ _ => rfl)) : Act.Leaves (Act.Fixes State.mem) (rasLog x)).fixes s
@[simp] theorem rasLog_poison (x : RasRec) : (Act.run (rasLog x) s).poison = s.poison := ((rasLog_leaves (fun _ _ _ _ => rfl) (fun _ _ _ _ => rfl) (fun _ _ => rfl) (fun _ _ => rfl) (fun _ _ _ _ => rfl)) : Act.Leaves (Act.Fixes State.poison) (rasLog x)).fixes s
@[simp] theorem rasLog_clk (x : RasRec) : (Act.run (rasLog x) s).clk = s.clk := ((rasLog_leaves (fun _ _ _ _ => rfl) (fun _ _ _ _ => rfl) (fun _ _ => rfl) (fun _ _ => rfl) (fun _ _ _ _ => rfl)) : Act.Leaves (Act.Fixes State.clk) (rasLog x)).fixes s
@[simp] theorem rasLog_io (x : RasRec) : (Act.run (rasLog x) s).io = s.io := ((rasLog_leaves (fun _ _ _ _ => rfl) (fun _ _ _ _ => rfl) (fun _ _ => rfl) (fun _ _ => rfl) (fun _ _ _ _ => rfl)) : Act.Leaves (Act.Fixes State.io) (rasLog x)).fixes s
@[simp] theorem rasLog_fuses (x : RasRec) : (Act.run (rasLog x) s).fuses = s.fuses := ((rasLog_leaves (fun _ _ _ _ => rfl) (fun _ _ _ _ => rfl) (fun _ _ => rfl) (fun _ _ => rfl) (fun _ _ _ _ => rfl)) : Act.Leaves (Act.Fixes State.fuses) (rasLog x)).fixes s
@[simp] theorem rasLog_core (x : RasRec) : (Act.run (rasLog x) s).core = s.core := ((rasLog_leaves (fun _ _ _ _ => rfl) (fun _ _ _ _ => rfl) (fun _ _ => rfl) (fun _ _ => rfl) (fun _ _ _ _ => rfl)) : Act.Leaves (Act.Fixes State.core) (rasLog x)).fixes s
@[simp] theorem rasLog_cache (x : RasRec) : (Act.run (rasLog x) s).cache = s.cache := ((rasLog_leaves (fun _ _ _ _ => rfl) (fun _ _ _ _ => rfl) (fun _ _ => rfl) (fun _ _ => rfl) (fun _ _ _ _ => rfl)) : Act.Leaves (Act.Fixes State.cache) (rasLog x)).fixes s
@[simp] theorem rasLog_coh (x : RasRec) : (Act.run (rasLog x) s).coh = s.coh := ((rasLog_leaves (fun _ _ _ _ => rfl) (fun _ _ _ _ => rfl) (fun _ _ => rfl) (fun _ _ => rfl) (fun _ _ _ _ => rfl)) : Act.Leaves (Act.Fixes State.coh) (rasLog x)).fixes s
@[simp] theorem rasLog_btn (x : RasRec) : (Act.run (rasLog x) s).btn = s.btn := ((rasLog_leaves (fun _ _ _ _ => rfl) (fun _ _ _ _ => rfl) (fun _ _ => rfl) (fun _ _ => rfl) (fun _ _ _ _ => rfl)) : Act.Leaves (Act.Fixes State.btn) (rasLog x)).fixes s
@[simp] theorem rasLog_loom (x : RasRec) : (Act.run (rasLog x) s).loom = s.loom := ((rasLog_leaves (fun _ _ _ _ => rfl) (fun _ _ _ _ => rfl) (fun _ _ => rfl) (fun _ _ => rfl) (fun _ _ _ _ => rfl)) : Act.Leaves (Act.Fixes State.loom) (rasLog x)).fixes s
@[simp] theorem rasLog_drv (x : RasRec) : (Act.run (rasLog x) s).drv = s.drv := ((rasLog_leaves (fun _ _ _ _ => rfl) (fun _ _ _ _ => rfl) (fun _ _ => rfl) (fun _ _ => rfl) (fun _ _ _ _ => rfl)) : Act.Leaves (Act.Fixes State.drv) (rasLog x)).fixes s
@[simp] theorem rasLog_pick (x : RasRec) : (Act.run (rasLog x) s).pick = s.pick := ((rasLog_leaves (fun _ _ _ _ => rfl) (fun _ _ _ _ => rfl) (fun _ _ => rfl) (fun _ _ => rfl) (fun _ _ _ _ => rfl)) : Act.Leaves (Act.Fixes State.pick) (rasLog x)).fixes s
@[simp] theorem rasLog_xf (x : RasRec) : (Act.run (rasLog x) s).xf = s.xf := ((rasLog_leaves (fun _ _ _ _ => rfl) (fun _ _ _ _ => rfl) (fun _ _ => rfl) (fun _ _ => rfl) (fun _ _ _ _ => rfl)) : Act.Leaves (Act.Fixes State.xf) (rasLog x)).fixes s
@[simp] theorem rasLog_shu (x : RasRec) : (Act.run (rasLog x) s).shu = s.shu := ((rasLog_leaves (fun _ _ _ _ => rfl) (fun _ _ _ _ => rfl) (fun _ _ => rfl) (fun _ _ => rfl) (fun _ _ _ _ => rfl)) : Act.Leaves (Act.Fixes State.shu) (rasLog x)).fixes s
@[simp] theorem rasLog_iotlb (x : RasRec) : (Act.run (rasLog x) s).iotlb = s.iotlb := ((rasLog_leaves (fun _ _ _ _ => rfl) (fun _ _ _ _ => rfl) (fun _ _ => rfl) (fun _ _ => rfl) (fun _ _ _ _ => rfl)) : Act.Leaves (Act.Fixes State.iotlb) (rasLog x)).fixes s
@[simp] theorem rasLog_crl (x : RasRec) : (Act.run (rasLog x) s).crl = s.crl := ((rasLog_leaves (fun _ _ _ _ => rfl) (fun _ _ _ _ => rfl) (fun _ _ => rfl) (fun _ _ => rfl) (fun _ _ _ _ => rfl)) : Act.Leaves (Act.Fixes State.crl) (rasLog x)).fixes s
@[simp] theorem rasLog_mc (x : RasRec) : (Act.run (rasLog x) s).mc = s.mc := ((rasLog_leaves (fun _ _ _ _ => rfl) (fun _ _ _ _ => rfl) (fun _ _ => rfl) (fun _ _ => rfl) (fun _ _ _ _ => rfl)) : Act.Leaves (Act.Fixes State.mc) (rasLog x)).fixes s
@[simp] theorem rasLog_dby (x : RasRec) : (Act.run (rasLog x) s).dby = s.dby := ((rasLog_leaves (fun _ _ _ _ => rfl) (fun _ _ _ _ => rfl) (fun _ _ => rfl) (fun _ _ => rfl) (fun _ _ _ _ => rfl)) : Act.Leaves (Act.Fixes State.dby) (rasLog x)).fixes s
@[simp] theorem rasLog_pwr (x : RasRec) : (Act.run (rasLog x) s).pwr = s.pwr := ((rasLog_leaves (fun _ _ _ _ => rfl) (fun _ _ _ _ => rfl) (fun _ _ => rfl) (fun _ _ => rfl) (fun _ _ _ _ => rfl)) : Act.Leaves (Act.Fixes State.pwr) (rasLog x)).fixes s
@[simp] theorem rasLog_boot (x : RasRec) : (Act.run (rasLog x) s).boot = s.boot := ((rasLog_leaves (fun _ _ _ _ => rfl) (fun _ _ _ _ => rfl) (fun _ _ => rfl) (fun _ _ => rfl) (fun _ _ _ _ => rfl)) : Act.Leaves (Act.Fixes State.boot) (rasLog x)).fixes s
@[simp] theorem rasLog_dbg (x : RasRec) : (Act.run (rasLog x) s).dbg = s.dbg := ((rasLog_leaves (fun _ _ _ _ => rfl) (fun _ _ _ _ => rfl) (fun _ _ => rfl) (fun _ _ => rfl) (fun _ _ _ _ => rfl)) : Act.Leaves (Act.Fixes State.dbg) (rasLog x)).fixes s
@[simp] theorem flitEvent_mem (n : Nat) (f : Flit) (e c k : Nat) : (Act.run (flitEvent n f e c k) s).mem = s.mem := ((flitEvent_leaves (fun _ _ _ _ => rfl)) : Act.Leaves (Act.Fixes State.mem) (flitEvent n f e c k)).fixes s
@[simp] theorem flitEvent_poison (n : Nat) (f : Flit) (e c k : Nat) : (Act.run (flitEvent n f e c k) s).poison = s.poison := ((flitEvent_leaves (fun _ _ _ _ => rfl)) : Act.Leaves (Act.Fixes State.poison) (flitEvent n f e c k)).fixes s
@[simp] theorem flitEvent_clk (n : Nat) (f : Flit) (e c k : Nat) : (Act.run (flitEvent n f e c k) s).clk = s.clk := ((flitEvent_leaves (fun _ _ _ _ => rfl)) : Act.Leaves (Act.Fixes State.clk) (flitEvent n f e c k)).fixes s
@[simp] theorem flitEvent_io (n : Nat) (f : Flit) (e c k : Nat) : (Act.run (flitEvent n f e c k) s).io = s.io := ((flitEvent_leaves (fun _ _ _ _ => rfl)) : Act.Leaves (Act.Fixes State.io) (flitEvent n f e c k)).fixes s
@[simp] theorem flitEvent_fuses (n : Nat) (f : Flit) (e c k : Nat) : (Act.run (flitEvent n f e c k) s).fuses = s.fuses := ((flitEvent_leaves (fun _ _ _ _ => rfl)) : Act.Leaves (Act.Fixes State.fuses) (flitEvent n f e c k)).fixes s
@[simp] theorem flitEvent_mesh (n : Nat) (f : Flit) (e c k : Nat) : (Act.run (flitEvent n f e c k) s).mesh = s.mesh := ((flitEvent_leaves (fun _ _ _ _ => rfl)) : Act.Leaves (Act.Fixes State.mesh) (flitEvent n f e c k)).fixes s
@[simp] theorem flitEvent_core (n : Nat) (f : Flit) (e c k : Nat) : (Act.run (flitEvent n f e c k) s).core = s.core := ((flitEvent_leaves (fun _ _ _ _ => rfl)) : Act.Leaves (Act.Fixes State.core) (flitEvent n f e c k)).fixes s
@[simp] theorem flitEvent_cache (n : Nat) (f : Flit) (e c k : Nat) : (Act.run (flitEvent n f e c k) s).cache = s.cache := ((flitEvent_leaves (fun _ _ _ _ => rfl)) : Act.Leaves (Act.Fixes State.cache) (flitEvent n f e c k)).fixes s
@[simp] theorem flitEvent_coh (n : Nat) (f : Flit) (e c k : Nat) : (Act.run (flitEvent n f e c k) s).coh = s.coh := ((flitEvent_leaves (fun _ _ _ _ => rfl)) : Act.Leaves (Act.Fixes State.coh) (flitEvent n f e c k)).fixes s
@[simp] theorem flitEvent_btn (n : Nat) (f : Flit) (e c k : Nat) : (Act.run (flitEvent n f e c k) s).btn = s.btn := ((flitEvent_leaves (fun _ _ _ _ => rfl)) : Act.Leaves (Act.Fixes State.btn) (flitEvent n f e c k)).fixes s
@[simp] theorem flitEvent_loom (n : Nat) (f : Flit) (e c k : Nat) : (Act.run (flitEvent n f e c k) s).loom = s.loom := ((flitEvent_leaves (fun _ _ _ _ => rfl)) : Act.Leaves (Act.Fixes State.loom) (flitEvent n f e c k)).fixes s
@[simp] theorem flitEvent_drv (n : Nat) (f : Flit) (e c k : Nat) : (Act.run (flitEvent n f e c k) s).drv = s.drv := ((flitEvent_leaves (fun _ _ _ _ => rfl)) : Act.Leaves (Act.Fixes State.drv) (flitEvent n f e c k)).fixes s
@[simp] theorem flitEvent_pick (n : Nat) (f : Flit) (e c k : Nat) : (Act.run (flitEvent n f e c k) s).pick = s.pick := ((flitEvent_leaves (fun _ _ _ _ => rfl)) : Act.Leaves (Act.Fixes State.pick) (flitEvent n f e c k)).fixes s
@[simp] theorem flitEvent_xf (n : Nat) (f : Flit) (e c k : Nat) : (Act.run (flitEvent n f e c k) s).xf = s.xf := ((flitEvent_leaves (fun _ _ _ _ => rfl)) : Act.Leaves (Act.Fixes State.xf) (flitEvent n f e c k)).fixes s
@[simp] theorem flitEvent_shu (n : Nat) (f : Flit) (e c k : Nat) : (Act.run (flitEvent n f e c k) s).shu = s.shu := ((flitEvent_leaves (fun _ _ _ _ => rfl)) : Act.Leaves (Act.Fixes State.shu) (flitEvent n f e c k)).fixes s
@[simp] theorem flitEvent_iotlb (n : Nat) (f : Flit) (e c k : Nat) : (Act.run (flitEvent n f e c k) s).iotlb = s.iotlb := ((flitEvent_leaves (fun _ _ _ _ => rfl)) : Act.Leaves (Act.Fixes State.iotlb) (flitEvent n f e c k)).fixes s
@[simp] theorem flitEvent_crl (n : Nat) (f : Flit) (e c k : Nat) : (Act.run (flitEvent n f e c k) s).crl = s.crl := ((flitEvent_leaves (fun _ _ _ _ => rfl)) : Act.Leaves (Act.Fixes State.crl) (flitEvent n f e c k)).fixes s
@[simp] theorem flitEvent_hrn (n : Nat) (f : Flit) (e c k : Nat) : (Act.run (flitEvent n f e c k) s).hrn = s.hrn := ((flitEvent_leaves (fun _ _ _ _ => rfl)) : Act.Leaves (Act.Fixes State.hrn) (flitEvent n f e c k)).fixes s
@[simp] theorem flitEvent_mc (n : Nat) (f : Flit) (e c k : Nat) : (Act.run (flitEvent n f e c k) s).mc = s.mc := ((flitEvent_leaves (fun _ _ _ _ => rfl)) : Act.Leaves (Act.Fixes State.mc) (flitEvent n f e c k)).fixes s
@[simp] theorem flitEvent_dby (n : Nat) (f : Flit) (e c k : Nat) : (Act.run (flitEvent n f e c k) s).dby = s.dby := ((flitEvent_leaves (fun _ _ _ _ => rfl)) : Act.Leaves (Act.Fixes State.dby) (flitEvent n f e c k)).fixes s
@[simp] theorem flitEvent_ras (n : Nat) (f : Flit) (e c k : Nat) : (Act.run (flitEvent n f e c k) s).ras = s.ras := ((flitEvent_leaves (fun _ _ _ _ => rfl)) : Act.Leaves (Act.Fixes State.ras) (flitEvent n f e c k)).fixes s
@[simp] theorem flitEvent_pwr (n : Nat) (f : Flit) (e c k : Nat) : (Act.run (flitEvent n f e c k) s).pwr = s.pwr := ((flitEvent_leaves (fun _ _ _ _ => rfl)) : Act.Leaves (Act.Fixes State.pwr) (flitEvent n f e c k)).fixes s
@[simp] theorem flitEvent_boot (n : Nat) (f : Flit) (e c k : Nat) : (Act.run (flitEvent n f e c k) s).boot = s.boot := ((flitEvent_leaves (fun _ _ _ _ => rfl)) : Act.Leaves (Act.Fixes State.boot) (flitEvent n f e c k)).fixes s
@[simp] theorem flitEvent_dbg (n : Nat) (f : Flit) (e c k : Nat) : (Act.run (flitEvent n f e c k) s).dbg = s.dbg := ((flitEvent_leaves (fun _ _ _ _ => rfl)) : Act.Leaves (Act.Fixes State.dbg) (flitEvent n f e c k)).fixes s
@[simp] theorem probe_mem (n p : Nat) (f : Flit) (b : Bool) (hn : n < 224) : (Act.run (probe n p f b) s).mem = s.mem := ((probe_leaves hn (fun _ _ _ _ => rfl) (fun _ _ _ _ => rfl) (fun _ _ => rfl)) : Act.Leaves (Act.Fixes State.mem) (probe n p f b)).fixes s
@[simp] theorem probe_poison (n p : Nat) (f : Flit) (b : Bool) (hn : n < 224) : (Act.run (probe n p f b) s).poison = s.poison := ((probe_leaves hn (fun _ _ _ _ => rfl) (fun _ _ _ _ => rfl) (fun _ _ => rfl)) : Act.Leaves (Act.Fixes State.poison) (probe n p f b)).fixes s
@[simp] theorem probe_clk (n p : Nat) (f : Flit) (b : Bool) (hn : n < 224) : (Act.run (probe n p f b) s).clk = s.clk := ((probe_leaves hn (fun _ _ _ _ => rfl) (fun _ _ _ _ => rfl) (fun _ _ => rfl)) : Act.Leaves (Act.Fixes State.clk) (probe n p f b)).fixes s
@[simp] theorem probe_io (n p : Nat) (f : Flit) (b : Bool) (hn : n < 224) : (Act.run (probe n p f b) s).io = s.io := ((probe_leaves hn (fun _ _ _ _ => rfl) (fun _ _ _ _ => rfl) (fun _ _ => rfl)) : Act.Leaves (Act.Fixes State.io) (probe n p f b)).fixes s
@[simp] theorem probe_fuses (n p : Nat) (f : Flit) (b : Bool) (hn : n < 224) : (Act.run (probe n p f b) s).fuses = s.fuses := ((probe_leaves hn (fun _ _ _ _ => rfl) (fun _ _ _ _ => rfl) (fun _ _ => rfl)) : Act.Leaves (Act.Fixes State.fuses) (probe n p f b)).fixes s
@[simp] theorem probe_mesh (n p : Nat) (f : Flit) (b : Bool) (hn : n < 224) : (Act.run (probe n p f b) s).mesh = s.mesh := ((probe_leaves hn (fun _ _ _ _ => rfl) (fun _ _ _ _ => rfl) (fun _ _ => rfl)) : Act.Leaves (Act.Fixes State.mesh) (probe n p f b)).fixes s
@[simp] theorem probe_core (n p : Nat) (f : Flit) (b : Bool) (hn : n < 224) : (Act.run (probe n p f b) s).core = s.core := ((probe_leaves hn (fun _ _ _ _ => rfl) (fun _ _ _ _ => rfl) (fun _ _ => rfl)) : Act.Leaves (Act.Fixes State.core) (probe n p f b)).fixes s
@[simp] theorem probe_cache (n p : Nat) (f : Flit) (b : Bool) (hn : n < 224) : (Act.run (probe n p f b) s).cache = s.cache := ((probe_leaves hn (fun _ _ _ _ => rfl) (fun _ _ _ _ => rfl) (fun _ _ => rfl)) : Act.Leaves (Act.Fixes State.cache) (probe n p f b)).fixes s
@[simp] theorem probe_coh (n p : Nat) (f : Flit) (b : Bool) (hn : n < 224) : (Act.run (probe n p f b) s).coh = s.coh := ((probe_leaves hn (fun _ _ _ _ => rfl) (fun _ _ _ _ => rfl) (fun _ _ => rfl)) : Act.Leaves (Act.Fixes State.coh) (probe n p f b)).fixes s
@[simp] theorem probe_btn (n p : Nat) (f : Flit) (b : Bool) (hn : n < 224) : (Act.run (probe n p f b) s).btn = s.btn := ((probe_leaves hn (fun _ _ _ _ => rfl) (fun _ _ _ _ => rfl) (fun _ _ => rfl)) : Act.Leaves (Act.Fixes State.btn) (probe n p f b)).fixes s
@[simp] theorem probe_loom (n p : Nat) (f : Flit) (b : Bool) (hn : n < 224) : (Act.run (probe n p f b) s).loom = s.loom := ((probe_leaves hn (fun _ _ _ _ => rfl) (fun _ _ _ _ => rfl) (fun _ _ => rfl)) : Act.Leaves (Act.Fixes State.loom) (probe n p f b)).fixes s
@[simp] theorem probe_drv (n p : Nat) (f : Flit) (b : Bool) (hn : n < 224) : (Act.run (probe n p f b) s).drv = s.drv := ((probe_leaves hn (fun _ _ _ _ => rfl) (fun _ _ _ _ => rfl) (fun _ _ => rfl)) : Act.Leaves (Act.Fixes State.drv) (probe n p f b)).fixes s
@[simp] theorem probe_pick (n p : Nat) (f : Flit) (b : Bool) (hn : n < 224) : (Act.run (probe n p f b) s).pick = s.pick := ((probe_leaves hn (fun _ _ _ _ => rfl) (fun _ _ _ _ => rfl) (fun _ _ => rfl)) : Act.Leaves (Act.Fixes State.pick) (probe n p f b)).fixes s
@[simp] theorem probe_xf (n p : Nat) (f : Flit) (b : Bool) (hn : n < 224) : (Act.run (probe n p f b) s).xf = s.xf := ((probe_leaves hn (fun _ _ _ _ => rfl) (fun _ _ _ _ => rfl) (fun _ _ => rfl)) : Act.Leaves (Act.Fixes State.xf) (probe n p f b)).fixes s
@[simp] theorem probe_shu (n p : Nat) (f : Flit) (b : Bool) (hn : n < 224) : (Act.run (probe n p f b) s).shu = s.shu := ((probe_leaves hn (fun _ _ _ _ => rfl) (fun _ _ _ _ => rfl) (fun _ _ => rfl)) : Act.Leaves (Act.Fixes State.shu) (probe n p f b)).fixes s
@[simp] theorem probe_iotlb (n p : Nat) (f : Flit) (b : Bool) (hn : n < 224) : (Act.run (probe n p f b) s).iotlb = s.iotlb := ((probe_leaves hn (fun _ _ _ _ => rfl) (fun _ _ _ _ => rfl) (fun _ _ => rfl)) : Act.Leaves (Act.Fixes State.iotlb) (probe n p f b)).fixes s
@[simp] theorem probe_crl (n p : Nat) (f : Flit) (b : Bool) (hn : n < 224) : (Act.run (probe n p f b) s).crl = s.crl := ((probe_leaves hn (fun _ _ _ _ => rfl) (fun _ _ _ _ => rfl) (fun _ _ => rfl)) : Act.Leaves (Act.Fixes State.crl) (probe n p f b)).fixes s
@[simp] theorem probe_hrn (n p : Nat) (f : Flit) (b : Bool) (hn : n < 224) : (Act.run (probe n p f b) s).hrn = s.hrn := ((probe_leaves hn (fun _ _ _ _ => rfl) (fun _ _ _ _ => rfl) (fun _ _ => rfl)) : Act.Leaves (Act.Fixes State.hrn) (probe n p f b)).fixes s
@[simp] theorem probe_mc (n p : Nat) (f : Flit) (b : Bool) (hn : n < 224) : (Act.run (probe n p f b) s).mc = s.mc := ((probe_leaves hn (fun _ _ _ _ => rfl) (fun _ _ _ _ => rfl) (fun _ _ => rfl)) : Act.Leaves (Act.Fixes State.mc) (probe n p f b)).fixes s
@[simp] theorem probe_dby (n p : Nat) (f : Flit) (b : Bool) (hn : n < 224) : (Act.run (probe n p f b) s).dby = s.dby := ((probe_leaves hn (fun _ _ _ _ => rfl) (fun _ _ _ _ => rfl) (fun _ _ => rfl)) : Act.Leaves (Act.Fixes State.dby) (probe n p f b)).fixes s
@[simp] theorem probe_ras (n p : Nat) (f : Flit) (b : Bool) (hn : n < 224) : (Act.run (probe n p f b) s).ras = s.ras := ((probe_leaves hn (fun _ _ _ _ => rfl) (fun _ _ _ _ => rfl) (fun _ _ => rfl)) : Act.Leaves (Act.Fixes State.ras) (probe n p f b)).fixes s
@[simp] theorem probe_pwr (n p : Nat) (f : Flit) (b : Bool) (hn : n < 224) : (Act.run (probe n p f b) s).pwr = s.pwr := ((probe_leaves hn (fun _ _ _ _ => rfl) (fun _ _ _ _ => rfl) (fun _ _ => rfl)) : Act.Leaves (Act.Fixes State.pwr) (probe n p f b)).fixes s
@[simp] theorem probe_boot (n p : Nat) (f : Flit) (b : Bool) (hn : n < 224) : (Act.run (probe n p f b) s).boot = s.boot := ((probe_leaves hn (fun _ _ _ _ => rfl) (fun _ _ _ _ => rfl) (fun _ _ => rfl)) : Act.Leaves (Act.Fixes State.boot) (probe n p f b)).fixes s
@[simp] theorem advance_mem (n : Nat) : (Act.run (advance n) s).mem = s.mem := ((advance_leaves (fun _ _ => rfl) (fun _ _ => rfl) (fun _ _ _ _ => rfl) (fun _ _ => rfl) (fun _ _ _ _ => rfl)) : Act.Leaves (Act.Fixes State.mem) (advance n)).fixes s
@[simp] theorem advance_poison (n : Nat) : (Act.run (advance n) s).poison = s.poison := ((advance_leaves (fun _ _ => rfl) (fun _ _ => rfl) (fun _ _ _ _ => rfl) (fun _ _ => rfl) (fun _ _ _ _ => rfl)) : Act.Leaves (Act.Fixes State.poison) (advance n)).fixes s
@[simp] theorem advance_io (n : Nat) : (Act.run (advance n) s).io = s.io := ((advance_leaves (fun _ _ => rfl) (fun _ _ => rfl) (fun _ _ _ _ => rfl) (fun _ _ => rfl) (fun _ _ _ _ => rfl)) : Act.Leaves (Act.Fixes State.io) (advance n)).fixes s
@[simp] theorem advance_fuses (n : Nat) : (Act.run (advance n) s).fuses = s.fuses := ((advance_leaves (fun _ _ => rfl) (fun _ _ => rfl) (fun _ _ _ _ => rfl) (fun _ _ => rfl) (fun _ _ _ _ => rfl)) : Act.Leaves (Act.Fixes State.fuses) (advance n)).fixes s
@[simp] theorem advance_mesh (n : Nat) : (Act.run (advance n) s).mesh = s.mesh := ((advance_leaves (fun _ _ => rfl) (fun _ _ => rfl) (fun _ _ _ _ => rfl) (fun _ _ => rfl) (fun _ _ _ _ => rfl)) : Act.Leaves (Act.Fixes State.mesh) (advance n)).fixes s
@[simp] theorem advance_core (n : Nat) : (Act.run (advance n) s).core = s.core := ((advance_leaves (fun _ _ => rfl) (fun _ _ => rfl) (fun _ _ _ _ => rfl) (fun _ _ => rfl) (fun _ _ _ _ => rfl)) : Act.Leaves (Act.Fixes State.core) (advance n)).fixes s
@[simp] theorem advance_cache (n : Nat) : (Act.run (advance n) s).cache = s.cache := ((advance_leaves (fun _ _ => rfl) (fun _ _ => rfl) (fun _ _ _ _ => rfl) (fun _ _ => rfl) (fun _ _ _ _ => rfl)) : Act.Leaves (Act.Fixes State.cache) (advance n)).fixes s
@[simp] theorem advance_coh (n : Nat) : (Act.run (advance n) s).coh = s.coh := ((advance_leaves (fun _ _ => rfl) (fun _ _ => rfl) (fun _ _ _ _ => rfl) (fun _ _ => rfl) (fun _ _ _ _ => rfl)) : Act.Leaves (Act.Fixes State.coh) (advance n)).fixes s
@[simp] theorem advance_btn (n : Nat) : (Act.run (advance n) s).btn = s.btn := ((advance_leaves (fun _ _ => rfl) (fun _ _ => rfl) (fun _ _ _ _ => rfl) (fun _ _ => rfl) (fun _ _ _ _ => rfl)) : Act.Leaves (Act.Fixes State.btn) (advance n)).fixes s
@[simp] theorem advance_loom (n : Nat) : (Act.run (advance n) s).loom = s.loom := ((advance_leaves (fun _ _ => rfl) (fun _ _ => rfl) (fun _ _ _ _ => rfl) (fun _ _ => rfl) (fun _ _ _ _ => rfl)) : Act.Leaves (Act.Fixes State.loom) (advance n)).fixes s
@[simp] theorem advance_drv (n : Nat) : (Act.run (advance n) s).drv = s.drv := ((advance_leaves (fun _ _ => rfl) (fun _ _ => rfl) (fun _ _ _ _ => rfl) (fun _ _ => rfl) (fun _ _ _ _ => rfl)) : Act.Leaves (Act.Fixes State.drv) (advance n)).fixes s
@[simp] theorem advance_pick (n : Nat) : (Act.run (advance n) s).pick = s.pick := ((advance_leaves (fun _ _ => rfl) (fun _ _ => rfl) (fun _ _ _ _ => rfl) (fun _ _ => rfl) (fun _ _ _ _ => rfl)) : Act.Leaves (Act.Fixes State.pick) (advance n)).fixes s
@[simp] theorem advance_xf (n : Nat) : (Act.run (advance n) s).xf = s.xf := ((advance_leaves (fun _ _ => rfl) (fun _ _ => rfl) (fun _ _ _ _ => rfl) (fun _ _ => rfl) (fun _ _ _ _ => rfl)) : Act.Leaves (Act.Fixes State.xf) (advance n)).fixes s
@[simp] theorem advance_shu (n : Nat) : (Act.run (advance n) s).shu = s.shu := ((advance_leaves (fun _ _ => rfl) (fun _ _ => rfl) (fun _ _ _ _ => rfl) (fun _ _ => rfl) (fun _ _ _ _ => rfl)) : Act.Leaves (Act.Fixes State.shu) (advance n)).fixes s
@[simp] theorem advance_iotlb (n : Nat) : (Act.run (advance n) s).iotlb = s.iotlb := ((advance_leaves (fun _ _ => rfl) (fun _ _ => rfl) (fun _ _ _ _ => rfl) (fun _ _ => rfl) (fun _ _ _ _ => rfl)) : Act.Leaves (Act.Fixes State.iotlb) (advance n)).fixes s
@[simp] theorem advance_crl (n : Nat) : (Act.run (advance n) s).crl = s.crl := ((advance_leaves (fun _ _ => rfl) (fun _ _ => rfl) (fun _ _ _ _ => rfl) (fun _ _ => rfl) (fun _ _ _ _ => rfl)) : Act.Leaves (Act.Fixes State.crl) (advance n)).fixes s
@[simp] theorem advance_hrn (n : Nat) : (Act.run (advance n) s).hrn = s.hrn := ((advance_leaves (fun _ _ => rfl) (fun _ _ => rfl) (fun _ _ _ _ => rfl) (fun _ _ => rfl) (fun _ _ _ _ => rfl)) : Act.Leaves (Act.Fixes State.hrn) (advance n)).fixes s
@[simp] theorem advance_mc (n : Nat) : (Act.run (advance n) s).mc = s.mc := ((advance_leaves (fun _ _ => rfl) (fun _ _ => rfl) (fun _ _ _ _ => rfl) (fun _ _ => rfl) (fun _ _ _ _ => rfl)) : Act.Leaves (Act.Fixes State.mc) (advance n)).fixes s
@[simp] theorem advance_dby (n : Nat) : (Act.run (advance n) s).dby = s.dby := ((advance_leaves (fun _ _ => rfl) (fun _ _ => rfl) (fun _ _ _ _ => rfl) (fun _ _ => rfl) (fun _ _ _ _ => rfl)) : Act.Leaves (Act.Fixes State.dby) (advance n)).fixes s
@[simp] theorem advance_ras (n : Nat) : (Act.run (advance n) s).ras = s.ras := ((advance_leaves (fun _ _ => rfl) (fun _ _ => rfl) (fun _ _ _ _ => rfl) (fun _ _ => rfl) (fun _ _ _ _ => rfl)) : Act.Leaves (Act.Fixes State.ras) (advance n)).fixes s
@[simp] theorem advance_pwr (n : Nat) : (Act.run (advance n) s).pwr = s.pwr := ((advance_leaves (fun _ _ => rfl) (fun _ _ => rfl) (fun _ _ _ _ => rfl) (fun _ _ => rfl) (fun _ _ _ _ => rfl)) : Act.Leaves (Act.Fixes State.pwr) (advance n)).fixes s
@[simp] theorem advance_boot (n : Nat) : (Act.run (advance n) s).boot = s.boot := ((advance_leaves (fun _ _ => rfl) (fun _ _ => rfl) (fun _ _ _ _ => rfl) (fun _ _ => rfl) (fun _ _ _ _ => rfl)) : Act.Leaves (Act.Fixes State.boot) (advance n)).fixes s
@[simp] theorem advance_dbg (n : Nat) : (Act.run (advance n) s).dbg = s.dbg := ((advance_leaves (fun _ _ => rfl) (fun _ _ => rfl) (fun _ _ _ _ => rfl) (fun _ _ => rfl) (fun _ _ _ _ => rfl)) : Act.Leaves (Act.Fixes State.dbg) (advance n)).fixes s
@[simp] theorem advanceTo_mem (n : Nat) : (Act.run (advanceTo n) s).mem = s.mem := ((advanceTo_leaves fun _ => advance_leaves (fun _ _ => rfl) (fun _ _ => rfl) (fun _ _ _ _ => rfl) (fun _ _ => rfl) (fun _ _ _ _ => rfl)) : Act.Leaves (Act.Fixes State.mem) (advanceTo n)).fixes s
@[simp] theorem advanceTo_poison (n : Nat) : (Act.run (advanceTo n) s).poison = s.poison := ((advanceTo_leaves fun _ => advance_leaves (fun _ _ => rfl) (fun _ _ => rfl) (fun _ _ _ _ => rfl) (fun _ _ => rfl) (fun _ _ _ _ => rfl)) : Act.Leaves (Act.Fixes State.poison) (advanceTo n)).fixes s
@[simp] theorem advanceTo_io (n : Nat) : (Act.run (advanceTo n) s).io = s.io := ((advanceTo_leaves fun _ => advance_leaves (fun _ _ => rfl) (fun _ _ => rfl) (fun _ _ _ _ => rfl) (fun _ _ => rfl) (fun _ _ _ _ => rfl)) : Act.Leaves (Act.Fixes State.io) (advanceTo n)).fixes s
@[simp] theorem advanceTo_fuses (n : Nat) : (Act.run (advanceTo n) s).fuses = s.fuses := ((advanceTo_leaves fun _ => advance_leaves (fun _ _ => rfl) (fun _ _ => rfl) (fun _ _ _ _ => rfl) (fun _ _ => rfl) (fun _ _ _ _ => rfl)) : Act.Leaves (Act.Fixes State.fuses) (advanceTo n)).fixes s
@[simp] theorem advanceTo_mesh (n : Nat) : (Act.run (advanceTo n) s).mesh = s.mesh := ((advanceTo_leaves fun _ => advance_leaves (fun _ _ => rfl) (fun _ _ => rfl) (fun _ _ _ _ => rfl) (fun _ _ => rfl) (fun _ _ _ _ => rfl)) : Act.Leaves (Act.Fixes State.mesh) (advanceTo n)).fixes s
@[simp] theorem advanceTo_core (n : Nat) : (Act.run (advanceTo n) s).core = s.core := ((advanceTo_leaves fun _ => advance_leaves (fun _ _ => rfl) (fun _ _ => rfl) (fun _ _ _ _ => rfl) (fun _ _ => rfl) (fun _ _ _ _ => rfl)) : Act.Leaves (Act.Fixes State.core) (advanceTo n)).fixes s
@[simp] theorem advanceTo_cache (n : Nat) : (Act.run (advanceTo n) s).cache = s.cache := ((advanceTo_leaves fun _ => advance_leaves (fun _ _ => rfl) (fun _ _ => rfl) (fun _ _ _ _ => rfl) (fun _ _ => rfl) (fun _ _ _ _ => rfl)) : Act.Leaves (Act.Fixes State.cache) (advanceTo n)).fixes s
@[simp] theorem advanceTo_coh (n : Nat) : (Act.run (advanceTo n) s).coh = s.coh := ((advanceTo_leaves fun _ => advance_leaves (fun _ _ => rfl) (fun _ _ => rfl) (fun _ _ _ _ => rfl) (fun _ _ => rfl) (fun _ _ _ _ => rfl)) : Act.Leaves (Act.Fixes State.coh) (advanceTo n)).fixes s
@[simp] theorem advanceTo_btn (n : Nat) : (Act.run (advanceTo n) s).btn = s.btn := ((advanceTo_leaves fun _ => advance_leaves (fun _ _ => rfl) (fun _ _ => rfl) (fun _ _ _ _ => rfl) (fun _ _ => rfl) (fun _ _ _ _ => rfl)) : Act.Leaves (Act.Fixes State.btn) (advanceTo n)).fixes s
@[simp] theorem advanceTo_loom (n : Nat) : (Act.run (advanceTo n) s).loom = s.loom := ((advanceTo_leaves fun _ => advance_leaves (fun _ _ => rfl) (fun _ _ => rfl) (fun _ _ _ _ => rfl) (fun _ _ => rfl) (fun _ _ _ _ => rfl)) : Act.Leaves (Act.Fixes State.loom) (advanceTo n)).fixes s
@[simp] theorem advanceTo_drv (n : Nat) : (Act.run (advanceTo n) s).drv = s.drv := ((advanceTo_leaves fun _ => advance_leaves (fun _ _ => rfl) (fun _ _ => rfl) (fun _ _ _ _ => rfl) (fun _ _ => rfl) (fun _ _ _ _ => rfl)) : Act.Leaves (Act.Fixes State.drv) (advanceTo n)).fixes s
@[simp] theorem advanceTo_pick (n : Nat) : (Act.run (advanceTo n) s).pick = s.pick := ((advanceTo_leaves fun _ => advance_leaves (fun _ _ => rfl) (fun _ _ => rfl) (fun _ _ _ _ => rfl) (fun _ _ => rfl) (fun _ _ _ _ => rfl)) : Act.Leaves (Act.Fixes State.pick) (advanceTo n)).fixes s
@[simp] theorem advanceTo_xf (n : Nat) : (Act.run (advanceTo n) s).xf = s.xf := ((advanceTo_leaves fun _ => advance_leaves (fun _ _ => rfl) (fun _ _ => rfl) (fun _ _ _ _ => rfl) (fun _ _ => rfl) (fun _ _ _ _ => rfl)) : Act.Leaves (Act.Fixes State.xf) (advanceTo n)).fixes s
@[simp] theorem advanceTo_shu (n : Nat) : (Act.run (advanceTo n) s).shu = s.shu := ((advanceTo_leaves fun _ => advance_leaves (fun _ _ => rfl) (fun _ _ => rfl) (fun _ _ _ _ => rfl) (fun _ _ => rfl) (fun _ _ _ _ => rfl)) : Act.Leaves (Act.Fixes State.shu) (advanceTo n)).fixes s
@[simp] theorem advanceTo_iotlb (n : Nat) : (Act.run (advanceTo n) s).iotlb = s.iotlb := ((advanceTo_leaves fun _ => advance_leaves (fun _ _ => rfl) (fun _ _ => rfl) (fun _ _ _ _ => rfl) (fun _ _ => rfl) (fun _ _ _ _ => rfl)) : Act.Leaves (Act.Fixes State.iotlb) (advanceTo n)).fixes s
@[simp] theorem advanceTo_crl (n : Nat) : (Act.run (advanceTo n) s).crl = s.crl := ((advanceTo_leaves fun _ => advance_leaves (fun _ _ => rfl) (fun _ _ => rfl) (fun _ _ _ _ => rfl) (fun _ _ => rfl) (fun _ _ _ _ => rfl)) : Act.Leaves (Act.Fixes State.crl) (advanceTo n)).fixes s
@[simp] theorem advanceTo_hrn (n : Nat) : (Act.run (advanceTo n) s).hrn = s.hrn := ((advanceTo_leaves fun _ => advance_leaves (fun _ _ => rfl) (fun _ _ => rfl) (fun _ _ _ _ => rfl) (fun _ _ => rfl) (fun _ _ _ _ => rfl)) : Act.Leaves (Act.Fixes State.hrn) (advanceTo n)).fixes s
@[simp] theorem advanceTo_mc (n : Nat) : (Act.run (advanceTo n) s).mc = s.mc := ((advanceTo_leaves fun _ => advance_leaves (fun _ _ => rfl) (fun _ _ => rfl) (fun _ _ _ _ => rfl) (fun _ _ => rfl) (fun _ _ _ _ => rfl)) : Act.Leaves (Act.Fixes State.mc) (advanceTo n)).fixes s
@[simp] theorem advanceTo_dby (n : Nat) : (Act.run (advanceTo n) s).dby = s.dby := ((advanceTo_leaves fun _ => advance_leaves (fun _ _ => rfl) (fun _ _ => rfl) (fun _ _ _ _ => rfl) (fun _ _ => rfl) (fun _ _ _ _ => rfl)) : Act.Leaves (Act.Fixes State.dby) (advanceTo n)).fixes s
@[simp] theorem advanceTo_ras (n : Nat) : (Act.run (advanceTo n) s).ras = s.ras := ((advanceTo_leaves fun _ => advance_leaves (fun _ _ => rfl) (fun _ _ => rfl) (fun _ _ _ _ => rfl) (fun _ _ => rfl) (fun _ _ _ _ => rfl)) : Act.Leaves (Act.Fixes State.ras) (advanceTo n)).fixes s
@[simp] theorem advanceTo_pwr (n : Nat) : (Act.run (advanceTo n) s).pwr = s.pwr := ((advanceTo_leaves fun _ => advance_leaves (fun _ _ => rfl) (fun _ _ => rfl) (fun _ _ _ _ => rfl) (fun _ _ => rfl) (fun _ _ _ _ => rfl)) : Act.Leaves (Act.Fixes State.pwr) (advanceTo n)).fixes s
@[simp] theorem advanceTo_boot (n : Nat) : (Act.run (advanceTo n) s).boot = s.boot := ((advanceTo_leaves fun _ => advance_leaves (fun _ _ => rfl) (fun _ _ => rfl) (fun _ _ _ _ => rfl) (fun _ _ => rfl) (fun _ _ _ _ => rfl)) : Act.Leaves (Act.Fixes State.boot) (advanceTo n)).fixes s
@[simp] theorem advanceTo_dbg (n : Nat) : (Act.run (advanceTo n) s).dbg = s.dbg := ((advanceTo_leaves fun _ => advance_leaves (fun _ _ => rfl) (fun _ _ => rfl) (fun _ _ _ _ => rfl) (fun _ _ => rfl) (fun _ _ _ _ => rfl)) : Act.Leaves (Act.Fixes State.dbg) (advanceTo n)).fixes s
@[simp] theorem advanceMesh_mem (n : Nat) : (Act.run (advanceMesh n) s).mem = s.mem := ((advanceMesh_leaves fun _ => advance_leaves (fun _ _ => rfl) (fun _ _ => rfl) (fun _ _ _ _ => rfl) (fun _ _ => rfl) (fun _ _ _ _ => rfl)) : Act.Leaves (Act.Fixes State.mem) (advanceMesh n)).fixes s
@[simp] theorem advanceMesh_poison (n : Nat) : (Act.run (advanceMesh n) s).poison = s.poison := ((advanceMesh_leaves fun _ => advance_leaves (fun _ _ => rfl) (fun _ _ => rfl) (fun _ _ _ _ => rfl) (fun _ _ => rfl) (fun _ _ _ _ => rfl)) : Act.Leaves (Act.Fixes State.poison) (advanceMesh n)).fixes s
@[simp] theorem advanceMesh_io (n : Nat) : (Act.run (advanceMesh n) s).io = s.io := ((advanceMesh_leaves fun _ => advance_leaves (fun _ _ => rfl) (fun _ _ => rfl) (fun _ _ _ _ => rfl) (fun _ _ => rfl) (fun _ _ _ _ => rfl)) : Act.Leaves (Act.Fixes State.io) (advanceMesh n)).fixes s
@[simp] theorem advanceMesh_fuses (n : Nat) : (Act.run (advanceMesh n) s).fuses = s.fuses := ((advanceMesh_leaves fun _ => advance_leaves (fun _ _ => rfl) (fun _ _ => rfl) (fun _ _ _ _ => rfl) (fun _ _ => rfl) (fun _ _ _ _ => rfl)) : Act.Leaves (Act.Fixes State.fuses) (advanceMesh n)).fixes s
@[simp] theorem advanceMesh_mesh (n : Nat) : (Act.run (advanceMesh n) s).mesh = s.mesh := ((advanceMesh_leaves fun _ => advance_leaves (fun _ _ => rfl) (fun _ _ => rfl) (fun _ _ _ _ => rfl) (fun _ _ => rfl) (fun _ _ _ _ => rfl)) : Act.Leaves (Act.Fixes State.mesh) (advanceMesh n)).fixes s
@[simp] theorem advanceMesh_core (n : Nat) : (Act.run (advanceMesh n) s).core = s.core := ((advanceMesh_leaves fun _ => advance_leaves (fun _ _ => rfl) (fun _ _ => rfl) (fun _ _ _ _ => rfl) (fun _ _ => rfl) (fun _ _ _ _ => rfl)) : Act.Leaves (Act.Fixes State.core) (advanceMesh n)).fixes s
@[simp] theorem advanceMesh_cache (n : Nat) : (Act.run (advanceMesh n) s).cache = s.cache := ((advanceMesh_leaves fun _ => advance_leaves (fun _ _ => rfl) (fun _ _ => rfl) (fun _ _ _ _ => rfl) (fun _ _ => rfl) (fun _ _ _ _ => rfl)) : Act.Leaves (Act.Fixes State.cache) (advanceMesh n)).fixes s
@[simp] theorem advanceMesh_coh (n : Nat) : (Act.run (advanceMesh n) s).coh = s.coh := ((advanceMesh_leaves fun _ => advance_leaves (fun _ _ => rfl) (fun _ _ => rfl) (fun _ _ _ _ => rfl) (fun _ _ => rfl) (fun _ _ _ _ => rfl)) : Act.Leaves (Act.Fixes State.coh) (advanceMesh n)).fixes s
@[simp] theorem advanceMesh_btn (n : Nat) : (Act.run (advanceMesh n) s).btn = s.btn := ((advanceMesh_leaves fun _ => advance_leaves (fun _ _ => rfl) (fun _ _ => rfl) (fun _ _ _ _ => rfl) (fun _ _ => rfl) (fun _ _ _ _ => rfl)) : Act.Leaves (Act.Fixes State.btn) (advanceMesh n)).fixes s
@[simp] theorem advanceMesh_loom (n : Nat) : (Act.run (advanceMesh n) s).loom = s.loom := ((advanceMesh_leaves fun _ => advance_leaves (fun _ _ => rfl) (fun _ _ => rfl) (fun _ _ _ _ => rfl) (fun _ _ => rfl) (fun _ _ _ _ => rfl)) : Act.Leaves (Act.Fixes State.loom) (advanceMesh n)).fixes s
@[simp] theorem advanceMesh_drv (n : Nat) : (Act.run (advanceMesh n) s).drv = s.drv := ((advanceMesh_leaves fun _ => advance_leaves (fun _ _ => rfl) (fun _ _ => rfl) (fun _ _ _ _ => rfl) (fun _ _ => rfl) (fun _ _ _ _ => rfl)) : Act.Leaves (Act.Fixes State.drv) (advanceMesh n)).fixes s
@[simp] theorem advanceMesh_pick (n : Nat) : (Act.run (advanceMesh n) s).pick = s.pick := ((advanceMesh_leaves fun _ => advance_leaves (fun _ _ => rfl) (fun _ _ => rfl) (fun _ _ _ _ => rfl) (fun _ _ => rfl) (fun _ _ _ _ => rfl)) : Act.Leaves (Act.Fixes State.pick) (advanceMesh n)).fixes s
@[simp] theorem advanceMesh_xf (n : Nat) : (Act.run (advanceMesh n) s).xf = s.xf := ((advanceMesh_leaves fun _ => advance_leaves (fun _ _ => rfl) (fun _ _ => rfl) (fun _ _ _ _ => rfl) (fun _ _ => rfl) (fun _ _ _ _ => rfl)) : Act.Leaves (Act.Fixes State.xf) (advanceMesh n)).fixes s
@[simp] theorem advanceMesh_shu (n : Nat) : (Act.run (advanceMesh n) s).shu = s.shu := ((advanceMesh_leaves fun _ => advance_leaves (fun _ _ => rfl) (fun _ _ => rfl) (fun _ _ _ _ => rfl) (fun _ _ => rfl) (fun _ _ _ _ => rfl)) : Act.Leaves (Act.Fixes State.shu) (advanceMesh n)).fixes s
@[simp] theorem advanceMesh_iotlb (n : Nat) : (Act.run (advanceMesh n) s).iotlb = s.iotlb := ((advanceMesh_leaves fun _ => advance_leaves (fun _ _ => rfl) (fun _ _ => rfl) (fun _ _ _ _ => rfl) (fun _ _ => rfl) (fun _ _ _ _ => rfl)) : Act.Leaves (Act.Fixes State.iotlb) (advanceMesh n)).fixes s
@[simp] theorem advanceMesh_crl (n : Nat) : (Act.run (advanceMesh n) s).crl = s.crl := ((advanceMesh_leaves fun _ => advance_leaves (fun _ _ => rfl) (fun _ _ => rfl) (fun _ _ _ _ => rfl) (fun _ _ => rfl) (fun _ _ _ _ => rfl)) : Act.Leaves (Act.Fixes State.crl) (advanceMesh n)).fixes s
@[simp] theorem advanceMesh_hrn (n : Nat) : (Act.run (advanceMesh n) s).hrn = s.hrn := ((advanceMesh_leaves fun _ => advance_leaves (fun _ _ => rfl) (fun _ _ => rfl) (fun _ _ _ _ => rfl) (fun _ _ => rfl) (fun _ _ _ _ => rfl)) : Act.Leaves (Act.Fixes State.hrn) (advanceMesh n)).fixes s
@[simp] theorem advanceMesh_mc (n : Nat) : (Act.run (advanceMesh n) s).mc = s.mc := ((advanceMesh_leaves fun _ => advance_leaves (fun _ _ => rfl) (fun _ _ => rfl) (fun _ _ _ _ => rfl) (fun _ _ => rfl) (fun _ _ _ _ => rfl)) : Act.Leaves (Act.Fixes State.mc) (advanceMesh n)).fixes s
@[simp] theorem advanceMesh_dby (n : Nat) : (Act.run (advanceMesh n) s).dby = s.dby := ((advanceMesh_leaves fun _ => advance_leaves (fun _ _ => rfl) (fun _ _ => rfl) (fun _ _ _ _ => rfl) (fun _ _ => rfl) (fun _ _ _ _ => rfl)) : Act.Leaves (Act.Fixes State.dby) (advanceMesh n)).fixes s
@[simp] theorem advanceMesh_ras (n : Nat) : (Act.run (advanceMesh n) s).ras = s.ras := ((advanceMesh_leaves fun _ => advance_leaves (fun _ _ => rfl) (fun _ _ => rfl) (fun _ _ _ _ => rfl) (fun _ _ => rfl) (fun _ _ _ _ => rfl)) : Act.Leaves (Act.Fixes State.ras) (advanceMesh n)).fixes s
@[simp] theorem advanceMesh_pwr (n : Nat) : (Act.run (advanceMesh n) s).pwr = s.pwr := ((advanceMesh_leaves fun _ => advance_leaves (fun _ _ => rfl) (fun _ _ => rfl) (fun _ _ _ _ => rfl) (fun _ _ => rfl) (fun _ _ _ _ => rfl)) : Act.Leaves (Act.Fixes State.pwr) (advanceMesh n)).fixes s
@[simp] theorem advanceMesh_boot (n : Nat) : (Act.run (advanceMesh n) s).boot = s.boot := ((advanceMesh_leaves fun _ => advance_leaves (fun _ _ => rfl) (fun _ _ => rfl) (fun _ _ _ _ => rfl) (fun _ _ => rfl) (fun _ _ _ _ => rfl)) : Act.Leaves (Act.Fixes State.boot) (advanceMesh n)).fixes s
@[simp] theorem advanceMesh_dbg (n : Nat) : (Act.run (advanceMesh n) s).dbg = s.dbg := ((advanceMesh_leaves fun _ => advance_leaves (fun _ _ => rfl) (fun _ _ => rfl) (fun _ _ _ _ => rfl) (fun _ _ => rfl) (fun _ _ _ _ => rfl)) : Act.Leaves (Act.Fixes State.dbg) (advanceMesh n)).fixes s
@[simp] theorem wrCoh_clk (a : Nat) (b : List Byte) (p : Bool) : (Act.run (wrCoh a b p) s).clk = s.clk := ((wrCoh_leaves (fun _ _ _ => rfl) (fun _ _ _ => rfl) (fun _ _ => rfl) (fun _ _ => rfl) (fun _ _ => rfl)) : Act.Leaves (Act.Fixes State.clk) (wrCoh a b p)).fixes s
@[simp] theorem wrCoh_io (a : Nat) (b : List Byte) (p : Bool) : (Act.run (wrCoh a b p) s).io = s.io := ((wrCoh_leaves (fun _ _ _ => rfl) (fun _ _ _ => rfl) (fun _ _ => rfl) (fun _ _ => rfl) (fun _ _ => rfl)) : Act.Leaves (Act.Fixes State.io) (wrCoh a b p)).fixes s
@[simp] theorem wrCoh_fuses (a : Nat) (b : List Byte) (p : Bool) : (Act.run (wrCoh a b p) s).fuses = s.fuses := ((wrCoh_leaves (fun _ _ _ => rfl) (fun _ _ _ => rfl) (fun _ _ => rfl) (fun _ _ => rfl) (fun _ _ => rfl)) : Act.Leaves (Act.Fixes State.fuses) (wrCoh a b p)).fixes s
@[simp] theorem wrCoh_mesh (a : Nat) (b : List Byte) (p : Bool) : (Act.run (wrCoh a b p) s).mesh = s.mesh := ((wrCoh_leaves (fun _ _ _ => rfl) (fun _ _ _ => rfl) (fun _ _ => rfl) (fun _ _ => rfl) (fun _ _ => rfl)) : Act.Leaves (Act.Fixes State.mesh) (wrCoh a b p)).fixes s
@[simp] theorem wrCoh_btn (a : Nat) (b : List Byte) (p : Bool) : (Act.run (wrCoh a b p) s).btn = s.btn := ((wrCoh_leaves (fun _ _ _ => rfl) (fun _ _ _ => rfl) (fun _ _ => rfl) (fun _ _ => rfl) (fun _ _ => rfl)) : Act.Leaves (Act.Fixes State.btn) (wrCoh a b p)).fixes s
@[simp] theorem wrCoh_loom (a : Nat) (b : List Byte) (p : Bool) : (Act.run (wrCoh a b p) s).loom = s.loom := ((wrCoh_leaves (fun _ _ _ => rfl) (fun _ _ _ => rfl) (fun _ _ => rfl) (fun _ _ => rfl) (fun _ _ => rfl)) : Act.Leaves (Act.Fixes State.loom) (wrCoh a b p)).fixes s
@[simp] theorem wrCoh_drv (a : Nat) (b : List Byte) (p : Bool) : (Act.run (wrCoh a b p) s).drv = s.drv := ((wrCoh_leaves (fun _ _ _ => rfl) (fun _ _ _ => rfl) (fun _ _ => rfl) (fun _ _ => rfl) (fun _ _ => rfl)) : Act.Leaves (Act.Fixes State.drv) (wrCoh a b p)).fixes s
@[simp] theorem wrCoh_pick (a : Nat) (b : List Byte) (p : Bool) : (Act.run (wrCoh a b p) s).pick = s.pick := ((wrCoh_leaves (fun _ _ _ => rfl) (fun _ _ _ => rfl) (fun _ _ => rfl) (fun _ _ => rfl) (fun _ _ => rfl)) : Act.Leaves (Act.Fixes State.pick) (wrCoh a b p)).fixes s
@[simp] theorem wrCoh_xf (a : Nat) (b : List Byte) (p : Bool) : (Act.run (wrCoh a b p) s).xf = s.xf := ((wrCoh_leaves (fun _ _ _ => rfl) (fun _ _ _ => rfl) (fun _ _ => rfl) (fun _ _ => rfl) (fun _ _ => rfl)) : Act.Leaves (Act.Fixes State.xf) (wrCoh a b p)).fixes s
@[simp] theorem wrCoh_shu (a : Nat) (b : List Byte) (p : Bool) : (Act.run (wrCoh a b p) s).shu = s.shu := ((wrCoh_leaves (fun _ _ _ => rfl) (fun _ _ _ => rfl) (fun _ _ => rfl) (fun _ _ => rfl) (fun _ _ => rfl)) : Act.Leaves (Act.Fixes State.shu) (wrCoh a b p)).fixes s
@[simp] theorem wrCoh_iotlb (a : Nat) (b : List Byte) (p : Bool) : (Act.run (wrCoh a b p) s).iotlb = s.iotlb := ((wrCoh_leaves (fun _ _ _ => rfl) (fun _ _ _ => rfl) (fun _ _ => rfl) (fun _ _ => rfl) (fun _ _ => rfl)) : Act.Leaves (Act.Fixes State.iotlb) (wrCoh a b p)).fixes s
@[simp] theorem wrCoh_crl (a : Nat) (b : List Byte) (p : Bool) : (Act.run (wrCoh a b p) s).crl = s.crl := ((wrCoh_leaves (fun _ _ _ => rfl) (fun _ _ _ => rfl) (fun _ _ => rfl) (fun _ _ => rfl) (fun _ _ => rfl)) : Act.Leaves (Act.Fixes State.crl) (wrCoh a b p)).fixes s
@[simp] theorem wrCoh_hrn (a : Nat) (b : List Byte) (p : Bool) : (Act.run (wrCoh a b p) s).hrn = s.hrn := ((wrCoh_leaves (fun _ _ _ => rfl) (fun _ _ _ => rfl) (fun _ _ => rfl) (fun _ _ => rfl) (fun _ _ => rfl)) : Act.Leaves (Act.Fixes State.hrn) (wrCoh a b p)).fixes s
@[simp] theorem wrCoh_mc (a : Nat) (b : List Byte) (p : Bool) : (Act.run (wrCoh a b p) s).mc = s.mc := ((wrCoh_leaves (fun _ _ _ => rfl) (fun _ _ _ => rfl) (fun _ _ => rfl) (fun _ _ => rfl) (fun _ _ => rfl)) : Act.Leaves (Act.Fixes State.mc) (wrCoh a b p)).fixes s
@[simp] theorem wrCoh_dby (a : Nat) (b : List Byte) (p : Bool) : (Act.run (wrCoh a b p) s).dby = s.dby := ((wrCoh_leaves (fun _ _ _ => rfl) (fun _ _ _ => rfl) (fun _ _ => rfl) (fun _ _ => rfl) (fun _ _ => rfl)) : Act.Leaves (Act.Fixes State.dby) (wrCoh a b p)).fixes s
@[simp] theorem wrCoh_ras (a : Nat) (b : List Byte) (p : Bool) : (Act.run (wrCoh a b p) s).ras = s.ras := ((wrCoh_leaves (fun _ _ _ => rfl) (fun _ _ _ => rfl) (fun _ _ => rfl) (fun _ _ => rfl) (fun _ _ => rfl)) : Act.Leaves (Act.Fixes State.ras) (wrCoh a b p)).fixes s
@[simp] theorem wrCoh_pwr (a : Nat) (b : List Byte) (p : Bool) : (Act.run (wrCoh a b p) s).pwr = s.pwr := ((wrCoh_leaves (fun _ _ _ => rfl) (fun _ _ _ => rfl) (fun _ _ => rfl) (fun _ _ => rfl) (fun _ _ => rfl)) : Act.Leaves (Act.Fixes State.pwr) (wrCoh a b p)).fixes s
@[simp] theorem wrCoh_boot (a : Nat) (b : List Byte) (p : Bool) : (Act.run (wrCoh a b p) s).boot = s.boot := ((wrCoh_leaves (fun _ _ _ => rfl) (fun _ _ _ => rfl) (fun _ _ => rfl) (fun _ _ => rfl) (fun _ _ => rfl)) : Act.Leaves (Act.Fixes State.boot) (wrCoh a b p)).fixes s
@[simp] theorem wrCoh_dbg (a : Nat) (b : List Byte) (p : Bool) : (Act.run (wrCoh a b p) s).dbg = s.dbg := ((wrCoh_leaves (fun _ _ _ => rfl) (fun _ _ _ => rfl) (fun _ _ => rfl) (fun _ _ => rfl) (fun _ _ => rfl)) : Act.Leaves (Act.Fixes State.dbg) (wrCoh a b p)).fixes s
@[simp] theorem replyWith_clk (c : CardCtx) (op st d : Nat) (p : List Byte) : (Act.run (replyWith c op st d p) s).clk = s.clk := ((reply_leaves (fun _ _ _ => rfl) (fun _ _ _ => rfl) (fun _ _ => rfl) (fun _ _ => rfl) (fun _ _ => rfl) (fun _ _ => rfl) (fun _ _ => rfl) (fun _ _ _ _ => rfl) (fun _ _ _ _ => rfl) (fun _ _ _ _ => rfl)) : Act.Leaves (Act.Fixes State.clk) (replyWith c op st d p)).fixes s
@[simp] theorem replyWith_io (c : CardCtx) (op st d : Nat) (p : List Byte) : (Act.run (replyWith c op st d p) s).io = s.io := ((reply_leaves (fun _ _ _ => rfl) (fun _ _ _ => rfl) (fun _ _ => rfl) (fun _ _ => rfl) (fun _ _ => rfl) (fun _ _ => rfl) (fun _ _ => rfl) (fun _ _ _ _ => rfl) (fun _ _ _ _ => rfl) (fun _ _ _ _ => rfl)) : Act.Leaves (Act.Fixes State.io) (replyWith c op st d p)).fixes s
@[simp] theorem replyWith_fuses (c : CardCtx) (op st d : Nat) (p : List Byte) : (Act.run (replyWith c op st d p) s).fuses = s.fuses := ((reply_leaves (fun _ _ _ => rfl) (fun _ _ _ => rfl) (fun _ _ => rfl) (fun _ _ => rfl) (fun _ _ => rfl) (fun _ _ => rfl) (fun _ _ => rfl) (fun _ _ _ _ => rfl) (fun _ _ _ _ => rfl) (fun _ _ _ _ => rfl)) : Act.Leaves (Act.Fixes State.fuses) (replyWith c op st d p)).fixes s
@[simp] theorem replyWith_btn (c : CardCtx) (op st d : Nat) (p : List Byte) : (Act.run (replyWith c op st d p) s).btn = s.btn := ((reply_leaves (fun _ _ _ => rfl) (fun _ _ _ => rfl) (fun _ _ => rfl) (fun _ _ => rfl) (fun _ _ => rfl) (fun _ _ => rfl) (fun _ _ => rfl) (fun _ _ _ _ => rfl) (fun _ _ _ _ => rfl) (fun _ _ _ _ => rfl)) : Act.Leaves (Act.Fixes State.btn) (replyWith c op st d p)).fixes s
@[simp] theorem replyWith_loom (c : CardCtx) (op st d : Nat) (p : List Byte) : (Act.run (replyWith c op st d p) s).loom = s.loom := ((reply_leaves (fun _ _ _ => rfl) (fun _ _ _ => rfl) (fun _ _ => rfl) (fun _ _ => rfl) (fun _ _ => rfl) (fun _ _ => rfl) (fun _ _ => rfl) (fun _ _ _ _ => rfl) (fun _ _ _ _ => rfl) (fun _ _ _ _ => rfl)) : Act.Leaves (Act.Fixes State.loom) (replyWith c op st d p)).fixes s
@[simp] theorem replyWith_drv (c : CardCtx) (op st d : Nat) (p : List Byte) : (Act.run (replyWith c op st d p) s).drv = s.drv := ((reply_leaves (fun _ _ _ => rfl) (fun _ _ _ => rfl) (fun _ _ => rfl) (fun _ _ => rfl) (fun _ _ => rfl) (fun _ _ => rfl) (fun _ _ => rfl) (fun _ _ _ _ => rfl) (fun _ _ _ _ => rfl) (fun _ _ _ _ => rfl)) : Act.Leaves (Act.Fixes State.drv) (replyWith c op st d p)).fixes s
@[simp] theorem replyWith_pick (c : CardCtx) (op st d : Nat) (p : List Byte) : (Act.run (replyWith c op st d p) s).pick = s.pick := ((reply_leaves (fun _ _ _ => rfl) (fun _ _ _ => rfl) (fun _ _ => rfl) (fun _ _ => rfl) (fun _ _ => rfl) (fun _ _ => rfl) (fun _ _ => rfl) (fun _ _ _ _ => rfl) (fun _ _ _ _ => rfl) (fun _ _ _ _ => rfl)) : Act.Leaves (Act.Fixes State.pick) (replyWith c op st d p)).fixes s
@[simp] theorem replyWith_xf (c : CardCtx) (op st d : Nat) (p : List Byte) : (Act.run (replyWith c op st d p) s).xf = s.xf := ((reply_leaves (fun _ _ _ => rfl) (fun _ _ _ => rfl) (fun _ _ => rfl) (fun _ _ => rfl) (fun _ _ => rfl) (fun _ _ => rfl) (fun _ _ => rfl) (fun _ _ _ _ => rfl) (fun _ _ _ _ => rfl) (fun _ _ _ _ => rfl)) : Act.Leaves (Act.Fixes State.xf) (replyWith c op st d p)).fixes s
@[simp] theorem replyWith_shu (c : CardCtx) (op st d : Nat) (p : List Byte) : (Act.run (replyWith c op st d p) s).shu = s.shu := ((reply_leaves (fun _ _ _ => rfl) (fun _ _ _ => rfl) (fun _ _ => rfl) (fun _ _ => rfl) (fun _ _ => rfl) (fun _ _ => rfl) (fun _ _ => rfl) (fun _ _ _ _ => rfl) (fun _ _ _ _ => rfl) (fun _ _ _ _ => rfl)) : Act.Leaves (Act.Fixes State.shu) (replyWith c op st d p)).fixes s
@[simp] theorem replyWith_iotlb (c : CardCtx) (op st d : Nat) (p : List Byte) : (Act.run (replyWith c op st d p) s).iotlb = s.iotlb := ((reply_leaves (fun _ _ _ => rfl) (fun _ _ _ => rfl) (fun _ _ => rfl) (fun _ _ => rfl) (fun _ _ => rfl) (fun _ _ => rfl) (fun _ _ => rfl) (fun _ _ _ _ => rfl) (fun _ _ _ _ => rfl) (fun _ _ _ _ => rfl)) : Act.Leaves (Act.Fixes State.iotlb) (replyWith c op st d p)).fixes s
@[simp] theorem replyWith_crl (c : CardCtx) (op st d : Nat) (p : List Byte) : (Act.run (replyWith c op st d p) s).crl = s.crl := ((reply_leaves (fun _ _ _ => rfl) (fun _ _ _ => rfl) (fun _ _ => rfl) (fun _ _ => rfl) (fun _ _ => rfl) (fun _ _ => rfl) (fun _ _ => rfl) (fun _ _ _ _ => rfl) (fun _ _ _ _ => rfl) (fun _ _ _ _ => rfl)) : Act.Leaves (Act.Fixes State.crl) (replyWith c op st d p)).fixes s
@[simp] theorem replyWith_mc (c : CardCtx) (op st d : Nat) (p : List Byte) : (Act.run (replyWith c op st d p) s).mc = s.mc := ((reply_leaves (fun _ _ _ => rfl) (fun _ _ _ => rfl) (fun _ _ => rfl) (fun _ _ => rfl) (fun _ _ => rfl) (fun _ _ => rfl) (fun _ _ => rfl) (fun _ _ _ _ => rfl) (fun _ _ _ _ => rfl) (fun _ _ _ _ => rfl)) : Act.Leaves (Act.Fixes State.mc) (replyWith c op st d p)).fixes s
@[simp] theorem replyWith_ras (c : CardCtx) (op st d : Nat) (p : List Byte) : (Act.run (replyWith c op st d p) s).ras = s.ras := ((reply_leaves (fun _ _ _ => rfl) (fun _ _ _ => rfl) (fun _ _ => rfl) (fun _ _ => rfl) (fun _ _ => rfl) (fun _ _ => rfl) (fun _ _ => rfl) (fun _ _ _ _ => rfl) (fun _ _ _ _ => rfl) (fun _ _ _ _ => rfl)) : Act.Leaves (Act.Fixes State.ras) (replyWith c op st d p)).fixes s
@[simp] theorem replyWith_pwr (c : CardCtx) (op st d : Nat) (p : List Byte) : (Act.run (replyWith c op st d p) s).pwr = s.pwr := ((reply_leaves (fun _ _ _ => rfl) (fun _ _ _ => rfl) (fun _ _ => rfl) (fun _ _ => rfl) (fun _ _ => rfl) (fun _ _ => rfl) (fun _ _ => rfl) (fun _ _ _ _ => rfl) (fun _ _ _ _ => rfl) (fun _ _ _ _ => rfl)) : Act.Leaves (Act.Fixes State.pwr) (replyWith c op st d p)).fixes s
@[simp] theorem replyWith_boot (c : CardCtx) (op st d : Nat) (p : List Byte) : (Act.run (replyWith c op st d p) s).boot = s.boot := ((reply_leaves (fun _ _ _ => rfl) (fun _ _ _ => rfl) (fun _ _ => rfl) (fun _ _ => rfl) (fun _ _ => rfl) (fun _ _ => rfl) (fun _ _ => rfl) (fun _ _ _ _ => rfl) (fun _ _ _ _ => rfl) (fun _ _ _ _ => rfl)) : Act.Leaves (Act.Fixes State.boot) (replyWith c op st d p)).fixes s
@[simp] theorem replyWith_dbg (c : CardCtx) (op st d : Nat) (p : List Byte) : (Act.run (replyWith c op st d p) s).dbg = s.dbg := ((reply_leaves (fun _ _ _ => rfl) (fun _ _ _ => rfl) (fun _ _ => rfl) (fun _ _ => rfl) (fun _ _ => rfl) (fun _ _ => rfl) (fun _ _ => rfl) (fun _ _ _ _ => rfl) (fun _ _ _ _ => rfl) (fun _ _ _ _ => rfl)) : Act.Leaves (Act.Fixes State.dbg) (replyWith c op st d p)).fixes s
@[simp] theorem answer_clk (c : CardCtx) (op st d : Nat) (p : List Byte) : (Act.run (answer c op st d p) s).clk = s.clk := ((answer_leaves (reply_leaves (fun _ _ _ => rfl) (fun _ _ _ => rfl) (fun _ _ => rfl) (fun _ _ => rfl) (fun _ _ => rfl) (fun _ _ => rfl) (fun _ _ => rfl) (fun _ _ _ _ => rfl) (fun _ _ _ _ => rfl) (fun _ _ _ _ => rfl)) (fun _ _ => rfl)) : Act.Leaves (Act.Fixes State.clk) (answer c op st d p)).fixes s
@[simp] theorem answer_io (c : CardCtx) (op st d : Nat) (p : List Byte) : (Act.run (answer c op st d p) s).io = s.io := ((answer_leaves (reply_leaves (fun _ _ _ => rfl) (fun _ _ _ => rfl) (fun _ _ => rfl) (fun _ _ => rfl) (fun _ _ => rfl) (fun _ _ => rfl) (fun _ _ => rfl) (fun _ _ _ _ => rfl) (fun _ _ _ _ => rfl) (fun _ _ _ _ => rfl)) (fun _ _ => rfl)) : Act.Leaves (Act.Fixes State.io) (answer c op st d p)).fixes s
@[simp] theorem answer_fuses (c : CardCtx) (op st d : Nat) (p : List Byte) : (Act.run (answer c op st d p) s).fuses = s.fuses := ((answer_leaves (reply_leaves (fun _ _ _ => rfl) (fun _ _ _ => rfl) (fun _ _ => rfl) (fun _ _ => rfl) (fun _ _ => rfl) (fun _ _ => rfl) (fun _ _ => rfl) (fun _ _ _ _ => rfl) (fun _ _ _ _ => rfl) (fun _ _ _ _ => rfl)) (fun _ _ => rfl)) : Act.Leaves (Act.Fixes State.fuses) (answer c op st d p)).fixes s
@[simp] theorem answer_btn (c : CardCtx) (op st d : Nat) (p : List Byte) : (Act.run (answer c op st d p) s).btn = s.btn := ((answer_leaves (reply_leaves (fun _ _ _ => rfl) (fun _ _ _ => rfl) (fun _ _ => rfl) (fun _ _ => rfl) (fun _ _ => rfl) (fun _ _ => rfl) (fun _ _ => rfl) (fun _ _ _ _ => rfl) (fun _ _ _ _ => rfl) (fun _ _ _ _ => rfl)) (fun _ _ => rfl)) : Act.Leaves (Act.Fixes State.btn) (answer c op st d p)).fixes s
@[simp] theorem answer_loom (c : CardCtx) (op st d : Nat) (p : List Byte) : (Act.run (answer c op st d p) s).loom = s.loom := ((answer_leaves (reply_leaves (fun _ _ _ => rfl) (fun _ _ _ => rfl) (fun _ _ => rfl) (fun _ _ => rfl) (fun _ _ => rfl) (fun _ _ => rfl) (fun _ _ => rfl) (fun _ _ _ _ => rfl) (fun _ _ _ _ => rfl) (fun _ _ _ _ => rfl)) (fun _ _ => rfl)) : Act.Leaves (Act.Fixes State.loom) (answer c op st d p)).fixes s
@[simp] theorem answer_drv (c : CardCtx) (op st d : Nat) (p : List Byte) : (Act.run (answer c op st d p) s).drv = s.drv := ((answer_leaves (reply_leaves (fun _ _ _ => rfl) (fun _ _ _ => rfl) (fun _ _ => rfl) (fun _ _ => rfl) (fun _ _ => rfl) (fun _ _ => rfl) (fun _ _ => rfl) (fun _ _ _ _ => rfl) (fun _ _ _ _ => rfl) (fun _ _ _ _ => rfl)) (fun _ _ => rfl)) : Act.Leaves (Act.Fixes State.drv) (answer c op st d p)).fixes s
@[simp] theorem answer_pick (c : CardCtx) (op st d : Nat) (p : List Byte) : (Act.run (answer c op st d p) s).pick = s.pick := ((answer_leaves (reply_leaves (fun _ _ _ => rfl) (fun _ _ _ => rfl) (fun _ _ => rfl) (fun _ _ => rfl) (fun _ _ => rfl) (fun _ _ => rfl) (fun _ _ => rfl) (fun _ _ _ _ => rfl) (fun _ _ _ _ => rfl) (fun _ _ _ _ => rfl)) (fun _ _ => rfl)) : Act.Leaves (Act.Fixes State.pick) (answer c op st d p)).fixes s
@[simp] theorem answer_xf (c : CardCtx) (op st d : Nat) (p : List Byte) : (Act.run (answer c op st d p) s).xf = s.xf := ((answer_leaves (reply_leaves (fun _ _ _ => rfl) (fun _ _ _ => rfl) (fun _ _ => rfl) (fun _ _ => rfl) (fun _ _ => rfl) (fun _ _ => rfl) (fun _ _ => rfl) (fun _ _ _ _ => rfl) (fun _ _ _ _ => rfl) (fun _ _ _ _ => rfl)) (fun _ _ => rfl)) : Act.Leaves (Act.Fixes State.xf) (answer c op st d p)).fixes s
@[simp] theorem answer_shu (c : CardCtx) (op st d : Nat) (p : List Byte) : (Act.run (answer c op st d p) s).shu = s.shu := ((answer_leaves (reply_leaves (fun _ _ _ => rfl) (fun _ _ _ => rfl) (fun _ _ => rfl) (fun _ _ => rfl) (fun _ _ => rfl) (fun _ _ => rfl) (fun _ _ => rfl) (fun _ _ _ _ => rfl) (fun _ _ _ _ => rfl) (fun _ _ _ _ => rfl)) (fun _ _ => rfl)) : Act.Leaves (Act.Fixes State.shu) (answer c op st d p)).fixes s
@[simp] theorem answer_iotlb (c : CardCtx) (op st d : Nat) (p : List Byte) : (Act.run (answer c op st d p) s).iotlb = s.iotlb := ((answer_leaves (reply_leaves (fun _ _ _ => rfl) (fun _ _ _ => rfl) (fun _ _ => rfl) (fun _ _ => rfl) (fun _ _ => rfl) (fun _ _ => rfl) (fun _ _ => rfl) (fun _ _ _ _ => rfl) (fun _ _ _ _ => rfl) (fun _ _ _ _ => rfl)) (fun _ _ => rfl)) : Act.Leaves (Act.Fixes State.iotlb) (answer c op st d p)).fixes s
@[simp] theorem answer_crl (c : CardCtx) (op st d : Nat) (p : List Byte) : (Act.run (answer c op st d p) s).crl = s.crl := ((answer_leaves (reply_leaves (fun _ _ _ => rfl) (fun _ _ _ => rfl) (fun _ _ => rfl) (fun _ _ => rfl) (fun _ _ => rfl) (fun _ _ => rfl) (fun _ _ => rfl) (fun _ _ _ _ => rfl) (fun _ _ _ _ => rfl) (fun _ _ _ _ => rfl)) (fun _ _ => rfl)) : Act.Leaves (Act.Fixes State.crl) (answer c op st d p)).fixes s
@[simp] theorem answer_mc (c : CardCtx) (op st d : Nat) (p : List Byte) : (Act.run (answer c op st d p) s).mc = s.mc := ((answer_leaves (reply_leaves (fun _ _ _ => rfl) (fun _ _ _ => rfl) (fun _ _ => rfl) (fun _ _ => rfl) (fun _ _ => rfl) (fun _ _ => rfl) (fun _ _ => rfl) (fun _ _ _ _ => rfl) (fun _ _ _ _ => rfl) (fun _ _ _ _ => rfl)) (fun _ _ => rfl)) : Act.Leaves (Act.Fixes State.mc) (answer c op st d p)).fixes s
@[simp] theorem answer_ras (c : CardCtx) (op st d : Nat) (p : List Byte) : (Act.run (answer c op st d p) s).ras = s.ras := ((answer_leaves (reply_leaves (fun _ _ _ => rfl) (fun _ _ _ => rfl) (fun _ _ => rfl) (fun _ _ => rfl) (fun _ _ => rfl) (fun _ _ => rfl) (fun _ _ => rfl) (fun _ _ _ _ => rfl) (fun _ _ _ _ => rfl) (fun _ _ _ _ => rfl)) (fun _ _ => rfl)) : Act.Leaves (Act.Fixes State.ras) (answer c op st d p)).fixes s
@[simp] theorem answer_pwr (c : CardCtx) (op st d : Nat) (p : List Byte) : (Act.run (answer c op st d p) s).pwr = s.pwr := ((answer_leaves (reply_leaves (fun _ _ _ => rfl) (fun _ _ _ => rfl) (fun _ _ => rfl) (fun _ _ => rfl) (fun _ _ => rfl) (fun _ _ => rfl) (fun _ _ => rfl) (fun _ _ _ _ => rfl) (fun _ _ _ _ => rfl) (fun _ _ _ _ => rfl)) (fun _ _ => rfl)) : Act.Leaves (Act.Fixes State.pwr) (answer c op st d p)).fixes s
@[simp] theorem answer_boot (c : CardCtx) (op st d : Nat) (p : List Byte) : (Act.run (answer c op st d p) s).boot = s.boot := ((answer_leaves (reply_leaves (fun _ _ _ => rfl) (fun _ _ _ => rfl) (fun _ _ => rfl) (fun _ _ => rfl) (fun _ _ => rfl) (fun _ _ => rfl) (fun _ _ => rfl) (fun _ _ _ _ => rfl) (fun _ _ _ _ => rfl) (fun _ _ _ _ => rfl)) (fun _ _ => rfl)) : Act.Leaves (Act.Fixes State.boot) (answer c op st d p)).fixes s
@[simp] theorem answer_dbg (c : CardCtx) (op st d : Nat) (p : List Byte) : (Act.run (answer c op st d p) s).dbg = s.dbg := ((answer_leaves (reply_leaves (fun _ _ _ => rfl) (fun _ _ _ => rfl) (fun _ _ => rfl) (fun _ _ => rfl) (fun _ _ => rfl) (fun _ _ => rfl) (fun _ _ => rfl) (fun _ _ _ _ => rfl) (fun _ _ _ _ => rfl) (fun _ _ _ _ => rfl)) (fun _ _ => rfl)) : Act.Leaves (Act.Fixes State.dbg) (answer c op st d p)).fixes s
@[simp] theorem finish_clk (op o st d : Nat) (p : List Byte) : (Act.run (finish op o st d p) s).clk = s.clk := ((finish_leaves (fun _ => reply_leaves (fun _ _ _ => rfl) (fun _ _ _ => rfl) (fun _ _ => rfl) (fun _ _ => rfl) (fun _ _ => rfl) (fun _ _ => rfl) (fun _ _ => rfl) (fun _ _ _ _ => rfl) (fun _ _ _ _ => rfl) (fun _ _ _ _ => rfl)) (fun _ _ => rfl) (fun _ _ => rfl)) : Act.Leaves (Act.Fixes State.clk) (finish op o st d p)).fixes s
@[simp] theorem finish_io (op o st d : Nat) (p : List Byte) : (Act.run (finish op o st d p) s).io = s.io := ((finish_leaves (fun _ => reply_leaves (fun _ _ _ => rfl) (fun _ _ _ => rfl) (fun _ _ => rfl) (fun _ _ => rfl) (fun _ _ => rfl) (fun _ _ => rfl) (fun _ _ => rfl) (fun _ _ _ _ => rfl) (fun _ _ _ _ => rfl) (fun _ _ _ _ => rfl)) (fun _ _ => rfl) (fun _ _ => rfl)) : Act.Leaves (Act.Fixes State.io) (finish op o st d p)).fixes s
@[simp] theorem finish_fuses (op o st d : Nat) (p : List Byte) : (Act.run (finish op o st d p) s).fuses = s.fuses := ((finish_leaves (fun _ => reply_leaves (fun _ _ _ => rfl) (fun _ _ _ => rfl) (fun _ _ => rfl) (fun _ _ => rfl) (fun _ _ => rfl) (fun _ _ => rfl) (fun _ _ => rfl) (fun _ _ _ _ => rfl) (fun _ _ _ _ => rfl) (fun _ _ _ _ => rfl)) (fun _ _ => rfl) (fun _ _ => rfl)) : Act.Leaves (Act.Fixes State.fuses) (finish op o st d p)).fixes s
@[simp] theorem finish_btn (op o st d : Nat) (p : List Byte) : (Act.run (finish op o st d p) s).btn = s.btn := ((finish_leaves (fun _ => reply_leaves (fun _ _ _ => rfl) (fun _ _ _ => rfl) (fun _ _ => rfl) (fun _ _ => rfl) (fun _ _ => rfl) (fun _ _ => rfl) (fun _ _ => rfl) (fun _ _ _ _ => rfl) (fun _ _ _ _ => rfl) (fun _ _ _ _ => rfl)) (fun _ _ => rfl) (fun _ _ => rfl)) : Act.Leaves (Act.Fixes State.btn) (finish op o st d p)).fixes s
@[simp] theorem finish_loom (op o st d : Nat) (p : List Byte) : (Act.run (finish op o st d p) s).loom = s.loom := ((finish_leaves (fun _ => reply_leaves (fun _ _ _ => rfl) (fun _ _ _ => rfl) (fun _ _ => rfl) (fun _ _ => rfl) (fun _ _ => rfl) (fun _ _ => rfl) (fun _ _ => rfl) (fun _ _ _ _ => rfl) (fun _ _ _ _ => rfl) (fun _ _ _ _ => rfl)) (fun _ _ => rfl) (fun _ _ => rfl)) : Act.Leaves (Act.Fixes State.loom) (finish op o st d p)).fixes s
@[simp] theorem finish_drv (op o st d : Nat) (p : List Byte) : (Act.run (finish op o st d p) s).drv = s.drv := ((finish_leaves (fun _ => reply_leaves (fun _ _ _ => rfl) (fun _ _ _ => rfl) (fun _ _ => rfl) (fun _ _ => rfl) (fun _ _ => rfl) (fun _ _ => rfl) (fun _ _ => rfl) (fun _ _ _ _ => rfl) (fun _ _ _ _ => rfl) (fun _ _ _ _ => rfl)) (fun _ _ => rfl) (fun _ _ => rfl)) : Act.Leaves (Act.Fixes State.drv) (finish op o st d p)).fixes s
@[simp] theorem finish_pick (op o st d : Nat) (p : List Byte) : (Act.run (finish op o st d p) s).pick = s.pick := ((finish_leaves (fun _ => reply_leaves (fun _ _ _ => rfl) (fun _ _ _ => rfl) (fun _ _ => rfl) (fun _ _ => rfl) (fun _ _ => rfl) (fun _ _ => rfl) (fun _ _ => rfl) (fun _ _ _ _ => rfl) (fun _ _ _ _ => rfl) (fun _ _ _ _ => rfl)) (fun _ _ => rfl) (fun _ _ => rfl)) : Act.Leaves (Act.Fixes State.pick) (finish op o st d p)).fixes s
@[simp] theorem finish_xf (op o st d : Nat) (p : List Byte) : (Act.run (finish op o st d p) s).xf = s.xf := ((finish_leaves (fun _ => reply_leaves (fun _ _ _ => rfl) (fun _ _ _ => rfl) (fun _ _ => rfl) (fun _ _ => rfl) (fun _ _ => rfl) (fun _ _ => rfl) (fun _ _ => rfl) (fun _ _ _ _ => rfl) (fun _ _ _ _ => rfl) (fun _ _ _ _ => rfl)) (fun _ _ => rfl) (fun _ _ => rfl)) : Act.Leaves (Act.Fixes State.xf) (finish op o st d p)).fixes s
@[simp] theorem finish_shu (op o st d : Nat) (p : List Byte) : (Act.run (finish op o st d p) s).shu = s.shu := ((finish_leaves (fun _ => reply_leaves (fun _ _ _ => rfl) (fun _ _ _ => rfl) (fun _ _ => rfl) (fun _ _ => rfl) (fun _ _ => rfl) (fun _ _ => rfl) (fun _ _ => rfl) (fun _ _ _ _ => rfl) (fun _ _ _ _ => rfl) (fun _ _ _ _ => rfl)) (fun _ _ => rfl) (fun _ _ => rfl)) : Act.Leaves (Act.Fixes State.shu) (finish op o st d p)).fixes s
@[simp] theorem finish_iotlb (op o st d : Nat) (p : List Byte) : (Act.run (finish op o st d p) s).iotlb = s.iotlb := ((finish_leaves (fun _ => reply_leaves (fun _ _ _ => rfl) (fun _ _ _ => rfl) (fun _ _ => rfl) (fun _ _ => rfl) (fun _ _ => rfl) (fun _ _ => rfl) (fun _ _ => rfl) (fun _ _ _ _ => rfl) (fun _ _ _ _ => rfl) (fun _ _ _ _ => rfl)) (fun _ _ => rfl) (fun _ _ => rfl)) : Act.Leaves (Act.Fixes State.iotlb) (finish op o st d p)).fixes s
@[simp] theorem finish_crl (op o st d : Nat) (p : List Byte) : (Act.run (finish op o st d p) s).crl = s.crl := ((finish_leaves (fun _ => reply_leaves (fun _ _ _ => rfl) (fun _ _ _ => rfl) (fun _ _ => rfl) (fun _ _ => rfl) (fun _ _ => rfl) (fun _ _ => rfl) (fun _ _ => rfl) (fun _ _ _ _ => rfl) (fun _ _ _ _ => rfl) (fun _ _ _ _ => rfl)) (fun _ _ => rfl) (fun _ _ => rfl)) : Act.Leaves (Act.Fixes State.crl) (finish op o st d p)).fixes s
@[simp] theorem finish_mc (op o st d : Nat) (p : List Byte) : (Act.run (finish op o st d p) s).mc = s.mc := ((finish_leaves (fun _ => reply_leaves (fun _ _ _ => rfl) (fun _ _ _ => rfl) (fun _ _ => rfl) (fun _ _ => rfl) (fun _ _ => rfl) (fun _ _ => rfl) (fun _ _ => rfl) (fun _ _ _ _ => rfl) (fun _ _ _ _ => rfl) (fun _ _ _ _ => rfl)) (fun _ _ => rfl) (fun _ _ => rfl)) : Act.Leaves (Act.Fixes State.mc) (finish op o st d p)).fixes s
@[simp] theorem finish_ras (op o st d : Nat) (p : List Byte) : (Act.run (finish op o st d p) s).ras = s.ras := ((finish_leaves (fun _ => reply_leaves (fun _ _ _ => rfl) (fun _ _ _ => rfl) (fun _ _ => rfl) (fun _ _ => rfl) (fun _ _ => rfl) (fun _ _ => rfl) (fun _ _ => rfl) (fun _ _ _ _ => rfl) (fun _ _ _ _ => rfl) (fun _ _ _ _ => rfl)) (fun _ _ => rfl) (fun _ _ => rfl)) : Act.Leaves (Act.Fixes State.ras) (finish op o st d p)).fixes s
@[simp] theorem finish_pwr (op o st d : Nat) (p : List Byte) : (Act.run (finish op o st d p) s).pwr = s.pwr := ((finish_leaves (fun _ => reply_leaves (fun _ _ _ => rfl) (fun _ _ _ => rfl) (fun _ _ => rfl) (fun _ _ => rfl) (fun _ _ => rfl) (fun _ _ => rfl) (fun _ _ => rfl) (fun _ _ _ _ => rfl) (fun _ _ _ _ => rfl) (fun _ _ _ _ => rfl)) (fun _ _ => rfl) (fun _ _ => rfl)) : Act.Leaves (Act.Fixes State.pwr) (finish op o st d p)).fixes s
@[simp] theorem finish_boot (op o st d : Nat) (p : List Byte) : (Act.run (finish op o st d p) s).boot = s.boot := ((finish_leaves (fun _ => reply_leaves (fun _ _ _ => rfl) (fun _ _ _ => rfl) (fun _ _ => rfl) (fun _ _ => rfl) (fun _ _ => rfl) (fun _ _ => rfl) (fun _ _ => rfl) (fun _ _ _ _ => rfl) (fun _ _ _ _ => rfl) (fun _ _ _ _ => rfl)) (fun _ _ => rfl) (fun _ _ => rfl)) : Act.Leaves (Act.Fixes State.boot) (finish op o st d p)).fixes s
@[simp] theorem finish_dbg (op o st d : Nat) (p : List Byte) : (Act.run (finish op o st d p) s).dbg = s.dbg := ((finish_leaves (fun _ => reply_leaves (fun _ _ _ => rfl) (fun _ _ _ => rfl) (fun _ _ => rfl) (fun _ _ => rfl) (fun _ _ => rfl) (fun _ _ => rfl) (fun _ _ => rfl) (fun _ _ _ _ => rfl) (fun _ _ _ _ => rfl) (fun _ _ _ _ => rfl)) (fun _ _ => rfl) (fun _ _ => rfl)) : Act.Leaves (Act.Fixes State.dbg) (finish op o st d p)).fixes s
@[simp] theorem cardTaken_mem (c : CardCtx) (op : Nat) : (Act.run (cardTaken c op) s).mem = s.mem := ((cardTaken_leaves (fun _ _ => rfl) (fun _ _ => rfl)) : Act.Leaves (Act.Fixes State.mem) (cardTaken c op)).fixes s
@[simp] theorem cardTaken_poison (c : CardCtx) (op : Nat) : (Act.run (cardTaken c op) s).poison = s.poison := ((cardTaken_leaves (fun _ _ => rfl) (fun _ _ => rfl)) : Act.Leaves (Act.Fixes State.poison) (cardTaken c op)).fixes s
@[simp] theorem cardTaken_clk (c : CardCtx) (op : Nat) : (Act.run (cardTaken c op) s).clk = s.clk := ((cardTaken_leaves (fun _ _ => rfl) (fun _ _ => rfl)) : Act.Leaves (Act.Fixes State.clk) (cardTaken c op)).fixes s
@[simp] theorem cardTaken_io (c : CardCtx) (op : Nat) : (Act.run (cardTaken c op) s).io = s.io := ((cardTaken_leaves (fun _ _ => rfl) (fun _ _ => rfl)) : Act.Leaves (Act.Fixes State.io) (cardTaken c op)).fixes s
@[simp] theorem cardTaken_fuses (c : CardCtx) (op : Nat) : (Act.run (cardTaken c op) s).fuses = s.fuses := ((cardTaken_leaves (fun _ _ => rfl) (fun _ _ => rfl)) : Act.Leaves (Act.Fixes State.fuses) (cardTaken c op)).fixes s
@[simp] theorem cardTaken_mesh (c : CardCtx) (op : Nat) : (Act.run (cardTaken c op) s).mesh = s.mesh := ((cardTaken_leaves (fun _ _ => rfl) (fun _ _ => rfl)) : Act.Leaves (Act.Fixes State.mesh) (cardTaken c op)).fixes s
@[simp] theorem cardTaken_core (c : CardCtx) (op : Nat) : (Act.run (cardTaken c op) s).core = s.core := ((cardTaken_leaves (fun _ _ => rfl) (fun _ _ => rfl)) : Act.Leaves (Act.Fixes State.core) (cardTaken c op)).fixes s
@[simp] theorem cardTaken_cache (c : CardCtx) (op : Nat) : (Act.run (cardTaken c op) s).cache = s.cache := ((cardTaken_leaves (fun _ _ => rfl) (fun _ _ => rfl)) : Act.Leaves (Act.Fixes State.cache) (cardTaken c op)).fixes s
@[simp] theorem cardTaken_coh (c : CardCtx) (op : Nat) : (Act.run (cardTaken c op) s).coh = s.coh := ((cardTaken_leaves (fun _ _ => rfl) (fun _ _ => rfl)) : Act.Leaves (Act.Fixes State.coh) (cardTaken c op)).fixes s
@[simp] theorem cardTaken_btn (c : CardCtx) (op : Nat) : (Act.run (cardTaken c op) s).btn = s.btn := ((cardTaken_leaves (fun _ _ => rfl) (fun _ _ => rfl)) : Act.Leaves (Act.Fixes State.btn) (cardTaken c op)).fixes s
@[simp] theorem cardTaken_loom (c : CardCtx) (op : Nat) : (Act.run (cardTaken c op) s).loom = s.loom := ((cardTaken_leaves (fun _ _ => rfl) (fun _ _ => rfl)) : Act.Leaves (Act.Fixes State.loom) (cardTaken c op)).fixes s
@[simp] theorem cardTaken_drv (c : CardCtx) (op : Nat) : (Act.run (cardTaken c op) s).drv = s.drv := ((cardTaken_leaves (fun _ _ => rfl) (fun _ _ => rfl)) : Act.Leaves (Act.Fixes State.drv) (cardTaken c op)).fixes s
@[simp] theorem cardTaken_pick (c : CardCtx) (op : Nat) : (Act.run (cardTaken c op) s).pick = s.pick := ((cardTaken_leaves (fun _ _ => rfl) (fun _ _ => rfl)) : Act.Leaves (Act.Fixes State.pick) (cardTaken c op)).fixes s
@[simp] theorem cardTaken_xf (c : CardCtx) (op : Nat) : (Act.run (cardTaken c op) s).xf = s.xf := ((cardTaken_leaves (fun _ _ => rfl) (fun _ _ => rfl)) : Act.Leaves (Act.Fixes State.xf) (cardTaken c op)).fixes s
@[simp] theorem cardTaken_shu (c : CardCtx) (op : Nat) : (Act.run (cardTaken c op) s).shu = s.shu := ((cardTaken_leaves (fun _ _ => rfl) (fun _ _ => rfl)) : Act.Leaves (Act.Fixes State.shu) (cardTaken c op)).fixes s
@[simp] theorem cardTaken_iotlb (c : CardCtx) (op : Nat) : (Act.run (cardTaken c op) s).iotlb = s.iotlb := ((cardTaken_leaves (fun _ _ => rfl) (fun _ _ => rfl)) : Act.Leaves (Act.Fixes State.iotlb) (cardTaken c op)).fixes s
@[simp] theorem cardTaken_crl (c : CardCtx) (op : Nat) : (Act.run (cardTaken c op) s).crl = s.crl := ((cardTaken_leaves (fun _ _ => rfl) (fun _ _ => rfl)) : Act.Leaves (Act.Fixes State.crl) (cardTaken c op)).fixes s
@[simp] theorem cardTaken_hrn (c : CardCtx) (op : Nat) : (Act.run (cardTaken c op) s).hrn = s.hrn := ((cardTaken_leaves (fun _ _ => rfl) (fun _ _ => rfl)) : Act.Leaves (Act.Fixes State.hrn) (cardTaken c op)).fixes s
@[simp] theorem cardTaken_mc (c : CardCtx) (op : Nat) : (Act.run (cardTaken c op) s).mc = s.mc := ((cardTaken_leaves (fun _ _ => rfl) (fun _ _ => rfl)) : Act.Leaves (Act.Fixes State.mc) (cardTaken c op)).fixes s
@[simp] theorem cardTaken_ras (c : CardCtx) (op : Nat) : (Act.run (cardTaken c op) s).ras = s.ras := ((cardTaken_leaves (fun _ _ => rfl) (fun _ _ => rfl)) : Act.Leaves (Act.Fixes State.ras) (cardTaken c op)).fixes s
@[simp] theorem cardTaken_pwr (c : CardCtx) (op : Nat) : (Act.run (cardTaken c op) s).pwr = s.pwr := ((cardTaken_leaves (fun _ _ => rfl) (fun _ _ => rfl)) : Act.Leaves (Act.Fixes State.pwr) (cardTaken c op)).fixes s
@[simp] theorem cardTaken_boot (c : CardCtx) (op : Nat) : (Act.run (cardTaken c op) s).boot = s.boot := ((cardTaken_leaves (fun _ _ => rfl) (fun _ _ => rfl)) : Act.Leaves (Act.Fixes State.boot) (cardTaken c op)).fixes s
@[simp] theorem cardTaken_dbg (c : CardCtx) (op : Nat) : (Act.run (cardTaken c op) s).dbg = s.dbg := ((cardTaken_leaves (fun _ _ => rfl) (fun _ _ => rfl)) : Act.Leaves (Act.Fixes State.dbg) (cardTaken c op)).fixes s
@[simp] theorem bump_mem (a : Nat) : (Act.run (bump a) s).mem = s.mem := rfl
@[simp] theorem bump_poison (a : Nat) : (Act.run (bump a) s).poison = s.poison := rfl
@[simp] theorem bump_clk (a : Nat) : (Act.run (bump a) s).clk = s.clk := rfl
@[simp] theorem bump_io (a : Nat) : (Act.run (bump a) s).io = s.io := rfl
@[simp] theorem bump_fuses (a : Nat) : (Act.run (bump a) s).fuses = s.fuses := rfl
@[simp] theorem bump_mesh (a : Nat) : (Act.run (bump a) s).mesh = s.mesh := rfl
@[simp] theorem bump_core (a : Nat) : (Act.run (bump a) s).core = s.core := rfl
@[simp] theorem bump_cache (a : Nat) : (Act.run (bump a) s).cache = s.cache := rfl
@[simp] theorem bump_coh (a : Nat) : (Act.run (bump a) s).coh = s.coh := rfl
@[simp] theorem bump_btn (a : Nat) : (Act.run (bump a) s).btn = s.btn := rfl
@[simp] theorem bump_loom (a : Nat) : (Act.run (bump a) s).loom = s.loom := rfl
@[simp] theorem bump_drv (a : Nat) : (Act.run (bump a) s).drv = s.drv := rfl
@[simp] theorem bump_pick (a : Nat) : (Act.run (bump a) s).pick = s.pick := rfl
@[simp] theorem bump_xf (a : Nat) : (Act.run (bump a) s).xf = s.xf := rfl
@[simp] theorem bump_shu (a : Nat) : (Act.run (bump a) s).shu = s.shu := rfl
@[simp] theorem bump_iotlb (a : Nat) : (Act.run (bump a) s).iotlb = s.iotlb := rfl
@[simp] theorem bump_crl (a : Nat) : (Act.run (bump a) s).crl = s.crl := rfl
@[simp] theorem bump_hrn (a : Nat) : (Act.run (bump a) s).hrn = s.hrn := rfl
@[simp] theorem bump_mc (a : Nat) : (Act.run (bump a) s).mc = s.mc := rfl
@[simp] theorem bump_dby (a : Nat) : (Act.run (bump a) s).dby = s.dby := rfl
@[simp] theorem bump_ras (a : Nat) : (Act.run (bump a) s).ras = s.ras := rfl
@[simp] theorem bump_pwr (a : Nat) : (Act.run (bump a) s).pwr = s.pwr := rfl
@[simp] theorem bump_boot (a : Nat) : (Act.run (bump a) s).boot = s.boot := rfl
@[simp] theorem bump_dbg (a : Nat) : (Act.run (bump a) s).dbg = s.dbg := rfl
@[simp] theorem addTo_mem (a n : Nat) : (Act.run (addTo a n) s).mem = s.mem := rfl
@[simp] theorem addTo_poison (a n : Nat) : (Act.run (addTo a n) s).poison = s.poison := rfl
@[simp] theorem addTo_clk (a n : Nat) : (Act.run (addTo a n) s).clk = s.clk := rfl
@[simp] theorem addTo_io (a n : Nat) : (Act.run (addTo a n) s).io = s.io := rfl
@[simp] theorem addTo_fuses (a n : Nat) : (Act.run (addTo a n) s).fuses = s.fuses := rfl
@[simp] theorem addTo_mesh (a n : Nat) : (Act.run (addTo a n) s).mesh = s.mesh := rfl
@[simp] theorem addTo_core (a n : Nat) : (Act.run (addTo a n) s).core = s.core := rfl
@[simp] theorem addTo_cache (a n : Nat) : (Act.run (addTo a n) s).cache = s.cache := rfl
@[simp] theorem addTo_coh (a n : Nat) : (Act.run (addTo a n) s).coh = s.coh := rfl
@[simp] theorem addTo_btn (a n : Nat) : (Act.run (addTo a n) s).btn = s.btn := rfl
@[simp] theorem addTo_loom (a n : Nat) : (Act.run (addTo a n) s).loom = s.loom := rfl
@[simp] theorem addTo_drv (a n : Nat) : (Act.run (addTo a n) s).drv = s.drv := rfl
@[simp] theorem addTo_pick (a n : Nat) : (Act.run (addTo a n) s).pick = s.pick := rfl
@[simp] theorem addTo_xf (a n : Nat) : (Act.run (addTo a n) s).xf = s.xf := rfl
@[simp] theorem addTo_shu (a n : Nat) : (Act.run (addTo a n) s).shu = s.shu := rfl
@[simp] theorem addTo_iotlb (a n : Nat) : (Act.run (addTo a n) s).iotlb = s.iotlb := rfl
@[simp] theorem addTo_crl (a n : Nat) : (Act.run (addTo a n) s).crl = s.crl := rfl
@[simp] theorem addTo_hrn (a n : Nat) : (Act.run (addTo a n) s).hrn = s.hrn := rfl
@[simp] theorem addTo_mc (a n : Nat) : (Act.run (addTo a n) s).mc = s.mc := rfl
@[simp] theorem addTo_dby (a n : Nat) : (Act.run (addTo a n) s).dby = s.dby := rfl
@[simp] theorem addTo_ras (a n : Nat) : (Act.run (addTo a n) s).ras = s.ras := rfl
@[simp] theorem addTo_pwr (a n : Nat) : (Act.run (addTo a n) s).pwr = s.pwr := rfl
@[simp] theorem addTo_boot (a n : Nat) : (Act.run (addTo a n) s).boot = s.boot := rfl
@[simp] theorem addTo_dbg (a n : Nat) : (Act.run (addTo a n) s).dbg = s.dbg := rfl
@[simp] theorem setF_mem (a : Nat) (f : Fld) (v : Nat) : (Act.run (setF a f v) s).mem = s.mem := rfl
@[simp] theorem setF_poison (a : Nat) (f : Fld) (v : Nat) : (Act.run (setF a f v) s).poison = s.poison := rfl
@[simp] theorem setF_clk (a : Nat) (f : Fld) (v : Nat) : (Act.run (setF a f v) s).clk = s.clk := rfl
@[simp] theorem setF_io (a : Nat) (f : Fld) (v : Nat) : (Act.run (setF a f v) s).io = s.io := rfl
@[simp] theorem setF_fuses (a : Nat) (f : Fld) (v : Nat) : (Act.run (setF a f v) s).fuses = s.fuses := rfl
@[simp] theorem setF_mesh (a : Nat) (f : Fld) (v : Nat) : (Act.run (setF a f v) s).mesh = s.mesh := rfl
@[simp] theorem setF_core (a : Nat) (f : Fld) (v : Nat) : (Act.run (setF a f v) s).core = s.core := rfl
@[simp] theorem setF_cache (a : Nat) (f : Fld) (v : Nat) : (Act.run (setF a f v) s).cache = s.cache := rfl
@[simp] theorem setF_coh (a : Nat) (f : Fld) (v : Nat) : (Act.run (setF a f v) s).coh = s.coh := rfl
@[simp] theorem setF_btn (a : Nat) (f : Fld) (v : Nat) : (Act.run (setF a f v) s).btn = s.btn := rfl
@[simp] theorem setF_loom (a : Nat) (f : Fld) (v : Nat) : (Act.run (setF a f v) s).loom = s.loom := rfl
@[simp] theorem setF_drv (a : Nat) (f : Fld) (v : Nat) : (Act.run (setF a f v) s).drv = s.drv := rfl
@[simp] theorem setF_pick (a : Nat) (f : Fld) (v : Nat) : (Act.run (setF a f v) s).pick = s.pick := rfl
@[simp] theorem setF_xf (a : Nat) (f : Fld) (v : Nat) : (Act.run (setF a f v) s).xf = s.xf := rfl
@[simp] theorem setF_shu (a : Nat) (f : Fld) (v : Nat) : (Act.run (setF a f v) s).shu = s.shu := rfl
@[simp] theorem setF_iotlb (a : Nat) (f : Fld) (v : Nat) : (Act.run (setF a f v) s).iotlb = s.iotlb := rfl
@[simp] theorem setF_crl (a : Nat) (f : Fld) (v : Nat) : (Act.run (setF a f v) s).crl = s.crl := rfl
@[simp] theorem setF_hrn (a : Nat) (f : Fld) (v : Nat) : (Act.run (setF a f v) s).hrn = s.hrn := rfl
@[simp] theorem setF_mc (a : Nat) (f : Fld) (v : Nat) : (Act.run (setF a f v) s).mc = s.mc := rfl
@[simp] theorem setF_dby (a : Nat) (f : Fld) (v : Nat) : (Act.run (setF a f v) s).dby = s.dby := rfl
@[simp] theorem setF_ras (a : Nat) (f : Fld) (v : Nat) : (Act.run (setF a f v) s).ras = s.ras := rfl
@[simp] theorem setF_pwr (a : Nat) (f : Fld) (v : Nat) : (Act.run (setF a f v) s).pwr = s.pwr := rfl
@[simp] theorem setF_boot (a : Nat) (f : Fld) (v : Nat) : (Act.run (setF a f v) s).boot = s.boot := rfl
@[simp] theorem setF_dbg (a : Nat) (f : Fld) (v : Nat) : (Act.run (setF a f v) s).dbg = s.dbg := rfl
@[simp] theorem setFs_mem (a : Nat) (l : List (Fld × Nat)) : (Act.run (setFs a l) s).mem = s.mem := rfl
@[simp] theorem setFs_poison (a : Nat) (l : List (Fld × Nat)) : (Act.run (setFs a l) s).poison = s.poison := rfl
@[simp] theorem setFs_clk (a : Nat) (l : List (Fld × Nat)) : (Act.run (setFs a l) s).clk = s.clk := rfl
@[simp] theorem setFs_io (a : Nat) (l : List (Fld × Nat)) : (Act.run (setFs a l) s).io = s.io := rfl
@[simp] theorem setFs_fuses (a : Nat) (l : List (Fld × Nat)) : (Act.run (setFs a l) s).fuses = s.fuses := rfl
@[simp] theorem setFs_mesh (a : Nat) (l : List (Fld × Nat)) : (Act.run (setFs a l) s).mesh = s.mesh := rfl
@[simp] theorem setFs_core (a : Nat) (l : List (Fld × Nat)) : (Act.run (setFs a l) s).core = s.core := rfl
@[simp] theorem setFs_cache (a : Nat) (l : List (Fld × Nat)) : (Act.run (setFs a l) s).cache = s.cache := rfl
@[simp] theorem setFs_coh (a : Nat) (l : List (Fld × Nat)) : (Act.run (setFs a l) s).coh = s.coh := rfl
@[simp] theorem setFs_btn (a : Nat) (l : List (Fld × Nat)) : (Act.run (setFs a l) s).btn = s.btn := rfl
@[simp] theorem setFs_loom (a : Nat) (l : List (Fld × Nat)) : (Act.run (setFs a l) s).loom = s.loom := rfl
@[simp] theorem setFs_drv (a : Nat) (l : List (Fld × Nat)) : (Act.run (setFs a l) s).drv = s.drv := rfl
@[simp] theorem setFs_pick (a : Nat) (l : List (Fld × Nat)) : (Act.run (setFs a l) s).pick = s.pick := rfl
@[simp] theorem setFs_xf (a : Nat) (l : List (Fld × Nat)) : (Act.run (setFs a l) s).xf = s.xf := rfl
@[simp] theorem setFs_shu (a : Nat) (l : List (Fld × Nat)) : (Act.run (setFs a l) s).shu = s.shu := rfl
@[simp] theorem setFs_iotlb (a : Nat) (l : List (Fld × Nat)) : (Act.run (setFs a l) s).iotlb = s.iotlb := rfl
@[simp] theorem setFs_crl (a : Nat) (l : List (Fld × Nat)) : (Act.run (setFs a l) s).crl = s.crl := rfl
@[simp] theorem setFs_hrn (a : Nat) (l : List (Fld × Nat)) : (Act.run (setFs a l) s).hrn = s.hrn := rfl
@[simp] theorem setFs_mc (a : Nat) (l : List (Fld × Nat)) : (Act.run (setFs a l) s).mc = s.mc := rfl
@[simp] theorem setFs_dby (a : Nat) (l : List (Fld × Nat)) : (Act.run (setFs a l) s).dby = s.dby := rfl
@[simp] theorem setFs_ras (a : Nat) (l : List (Fld × Nat)) : (Act.run (setFs a l) s).ras = s.ras := rfl
@[simp] theorem setFs_pwr (a : Nat) (l : List (Fld × Nat)) : (Act.run (setFs a l) s).pwr = s.pwr := rfl
@[simp] theorem setFs_boot (a : Nat) (l : List (Fld × Nat)) : (Act.run (setFs a l) s).boot = s.boot := rfl
@[simp] theorem setFs_dbg (a : Nat) (l : List (Fld × Nat)) : (Act.run (setFs a l) s).dbg = s.dbg := rfl
@[simp] theorem setB_mem (a : Nat) (f : Fld) (v : Bool) : (Act.run (setB a f v) s).mem = s.mem := rfl
@[simp] theorem setB_poison (a : Nat) (f : Fld) (v : Bool) : (Act.run (setB a f v) s).poison = s.poison := rfl
@[simp] theorem setB_clk (a : Nat) (f : Fld) (v : Bool) : (Act.run (setB a f v) s).clk = s.clk := rfl
@[simp] theorem setB_io (a : Nat) (f : Fld) (v : Bool) : (Act.run (setB a f v) s).io = s.io := rfl
@[simp] theorem setB_fuses (a : Nat) (f : Fld) (v : Bool) : (Act.run (setB a f v) s).fuses = s.fuses := rfl
@[simp] theorem setB_mesh (a : Nat) (f : Fld) (v : Bool) : (Act.run (setB a f v) s).mesh = s.mesh := rfl
@[simp] theorem setB_core (a : Nat) (f : Fld) (v : Bool) : (Act.run (setB a f v) s).core = s.core := rfl
@[simp] theorem setB_cache (a : Nat) (f : Fld) (v : Bool) : (Act.run (setB a f v) s).cache = s.cache := rfl
@[simp] theorem setB_coh (a : Nat) (f : Fld) (v : Bool) : (Act.run (setB a f v) s).coh = s.coh := rfl
@[simp] theorem setB_btn (a : Nat) (f : Fld) (v : Bool) : (Act.run (setB a f v) s).btn = s.btn := rfl
@[simp] theorem setB_loom (a : Nat) (f : Fld) (v : Bool) : (Act.run (setB a f v) s).loom = s.loom := rfl
@[simp] theorem setB_drv (a : Nat) (f : Fld) (v : Bool) : (Act.run (setB a f v) s).drv = s.drv := rfl
@[simp] theorem setB_pick (a : Nat) (f : Fld) (v : Bool) : (Act.run (setB a f v) s).pick = s.pick := rfl
@[simp] theorem setB_xf (a : Nat) (f : Fld) (v : Bool) : (Act.run (setB a f v) s).xf = s.xf := rfl
@[simp] theorem setB_shu (a : Nat) (f : Fld) (v : Bool) : (Act.run (setB a f v) s).shu = s.shu := rfl
@[simp] theorem setB_iotlb (a : Nat) (f : Fld) (v : Bool) : (Act.run (setB a f v) s).iotlb = s.iotlb := rfl
@[simp] theorem setB_crl (a : Nat) (f : Fld) (v : Bool) : (Act.run (setB a f v) s).crl = s.crl := rfl
@[simp] theorem setB_hrn (a : Nat) (f : Fld) (v : Bool) : (Act.run (setB a f v) s).hrn = s.hrn := rfl
@[simp] theorem setB_mc (a : Nat) (f : Fld) (v : Bool) : (Act.run (setB a f v) s).mc = s.mc := rfl
@[simp] theorem setB_dby (a : Nat) (f : Fld) (v : Bool) : (Act.run (setB a f v) s).dby = s.dby := rfl
@[simp] theorem setB_ras (a : Nat) (f : Fld) (v : Bool) : (Act.run (setB a f v) s).ras = s.ras := rfl
@[simp] theorem setB_pwr (a : Nat) (f : Fld) (v : Bool) : (Act.run (setB a f v) s).pwr = s.pwr := rfl
@[simp] theorem setB_boot (a : Nat) (f : Fld) (v : Bool) : (Act.run (setB a f v) s).boot = s.boot := rfl
@[simp] theorem setB_dbg (a : Nat) (f : Fld) (v : Bool) : (Act.run (setB a f v) s).dbg = s.dbg := rfl
@[simp] theorem resetReg_mem (a : Nat) : (Act.run (resetReg a) s).mem = s.mem := rfl
@[simp] theorem resetReg_poison (a : Nat) : (Act.run (resetReg a) s).poison = s.poison := rfl
@[simp] theorem resetReg_clk (a : Nat) : (Act.run (resetReg a) s).clk = s.clk := rfl
@[simp] theorem resetReg_io (a : Nat) : (Act.run (resetReg a) s).io = s.io := rfl
@[simp] theorem resetReg_fuses (a : Nat) : (Act.run (resetReg a) s).fuses = s.fuses := rfl
@[simp] theorem resetReg_mesh (a : Nat) : (Act.run (resetReg a) s).mesh = s.mesh := rfl
@[simp] theorem resetReg_core (a : Nat) : (Act.run (resetReg a) s).core = s.core := rfl
@[simp] theorem resetReg_cache (a : Nat) : (Act.run (resetReg a) s).cache = s.cache := rfl
@[simp] theorem resetReg_coh (a : Nat) : (Act.run (resetReg a) s).coh = s.coh := rfl
@[simp] theorem resetReg_btn (a : Nat) : (Act.run (resetReg a) s).btn = s.btn := rfl
@[simp] theorem resetReg_loom (a : Nat) : (Act.run (resetReg a) s).loom = s.loom := rfl
@[simp] theorem resetReg_drv (a : Nat) : (Act.run (resetReg a) s).drv = s.drv := rfl
@[simp] theorem resetReg_pick (a : Nat) : (Act.run (resetReg a) s).pick = s.pick := rfl
@[simp] theorem resetReg_xf (a : Nat) : (Act.run (resetReg a) s).xf = s.xf := rfl
@[simp] theorem resetReg_shu (a : Nat) : (Act.run (resetReg a) s).shu = s.shu := rfl
@[simp] theorem resetReg_iotlb (a : Nat) : (Act.run (resetReg a) s).iotlb = s.iotlb := rfl
@[simp] theorem resetReg_crl (a : Nat) : (Act.run (resetReg a) s).crl = s.crl := rfl
@[simp] theorem resetReg_hrn (a : Nat) : (Act.run (resetReg a) s).hrn = s.hrn := rfl
@[simp] theorem resetReg_mc (a : Nat) : (Act.run (resetReg a) s).mc = s.mc := rfl
@[simp] theorem resetReg_dby (a : Nat) : (Act.run (resetReg a) s).dby = s.dby := rfl
@[simp] theorem resetReg_ras (a : Nat) : (Act.run (resetReg a) s).ras = s.ras := rfl
@[simp] theorem resetReg_pwr (a : Nat) : (Act.run (resetReg a) s).pwr = s.pwr := rfl
@[simp] theorem resetReg_boot (a : Nat) : (Act.run (resetReg a) s).boot = s.boot := rfl
@[simp] theorem resetReg_dbg (a : Nat) : (Act.run (resetReg a) s).dbg = s.dbg := rfl
@[simp] theorem setTState_mem (n v : Nat) : (Act.run (setTState n v) s).mem = s.mem := rfl
@[simp] theorem setTState_poison (n v : Nat) : (Act.run (setTState n v) s).poison = s.poison := rfl
@[simp] theorem setTState_clk (n v : Nat) : (Act.run (setTState n v) s).clk = s.clk := rfl
@[simp] theorem setTState_io (n v : Nat) : (Act.run (setTState n v) s).io = s.io := rfl
@[simp] theorem setTState_fuses (n v : Nat) : (Act.run (setTState n v) s).fuses = s.fuses := rfl
@[simp] theorem setTState_mesh (n v : Nat) : (Act.run (setTState n v) s).mesh = s.mesh := rfl
@[simp] theorem setTState_core (n v : Nat) : (Act.run (setTState n v) s).core = s.core := rfl
@[simp] theorem setTState_cache (n v : Nat) : (Act.run (setTState n v) s).cache = s.cache := rfl
@[simp] theorem setTState_coh (n v : Nat) : (Act.run (setTState n v) s).coh = s.coh := rfl
@[simp] theorem setTState_btn (n v : Nat) : (Act.run (setTState n v) s).btn = s.btn := rfl
@[simp] theorem setTState_loom (n v : Nat) : (Act.run (setTState n v) s).loom = s.loom := rfl
@[simp] theorem setTState_drv (n v : Nat) : (Act.run (setTState n v) s).drv = s.drv := rfl
@[simp] theorem setTState_pick (n v : Nat) : (Act.run (setTState n v) s).pick = s.pick := rfl
@[simp] theorem setTState_xf (n v : Nat) : (Act.run (setTState n v) s).xf = s.xf := rfl
@[simp] theorem setTState_shu (n v : Nat) : (Act.run (setTState n v) s).shu = s.shu := rfl
@[simp] theorem setTState_iotlb (n v : Nat) : (Act.run (setTState n v) s).iotlb = s.iotlb := rfl
@[simp] theorem setTState_crl (n v : Nat) : (Act.run (setTState n v) s).crl = s.crl := rfl
@[simp] theorem setTState_hrn (n v : Nat) : (Act.run (setTState n v) s).hrn = s.hrn := rfl
@[simp] theorem setTState_mc (n v : Nat) : (Act.run (setTState n v) s).mc = s.mc := rfl
@[simp] theorem setTState_dby (n v : Nat) : (Act.run (setTState n v) s).dby = s.dby := rfl
@[simp] theorem setTState_ras (n v : Nat) : (Act.run (setTState n v) s).ras = s.ras := rfl
@[simp] theorem setTState_pwr (n v : Nat) : (Act.run (setTState n v) s).pwr = s.pwr := rfl
@[simp] theorem setTState_boot (n v : Nat) : (Act.run (setTState n v) s).boot = s.boot := rfl
@[simp] theorem setTState_dbg (n v : Nat) : (Act.run (setTState n v) s).dbg = s.dbg := rfl
@[simp] theorem dbyStat_mem  : (Act.run (dbyStat) s).mem = s.mem := rfl
@[simp] theorem dbyStat_poison  : (Act.run (dbyStat) s).poison = s.poison := rfl
@[simp] theorem dbyStat_clk  : (Act.run (dbyStat) s).clk = s.clk := rfl
@[simp] theorem dbyStat_io  : (Act.run (dbyStat) s).io = s.io := rfl
@[simp] theorem dbyStat_fuses  : (Act.run (dbyStat) s).fuses = s.fuses := rfl
@[simp] theorem dbyStat_mesh  : (Act.run (dbyStat) s).mesh = s.mesh := rfl
@[simp] theorem dbyStat_core  : (Act.run (dbyStat) s).core = s.core := rfl
@[simp] theorem dbyStat_cache  : (Act.run (dbyStat) s).cache = s.cache := rfl
@[simp] theorem dbyStat_coh  : (Act.run (dbyStat) s).coh = s.coh := rfl
@[simp] theorem dbyStat_btn  : (Act.run (dbyStat) s).btn = s.btn := rfl
@[simp] theorem dbyStat_loom  : (Act.run (dbyStat) s).loom = s.loom := rfl
@[simp] theorem dbyStat_drv  : (Act.run (dbyStat) s).drv = s.drv := rfl
@[simp] theorem dbyStat_pick  : (Act.run (dbyStat) s).pick = s.pick := rfl
@[simp] theorem dbyStat_xf  : (Act.run (dbyStat) s).xf = s.xf := rfl
@[simp] theorem dbyStat_shu  : (Act.run (dbyStat) s).shu = s.shu := rfl
@[simp] theorem dbyStat_iotlb  : (Act.run (dbyStat) s).iotlb = s.iotlb := rfl
@[simp] theorem dbyStat_crl  : (Act.run (dbyStat) s).crl = s.crl := rfl
@[simp] theorem dbyStat_hrn  : (Act.run (dbyStat) s).hrn = s.hrn := rfl
@[simp] theorem dbyStat_mc  : (Act.run (dbyStat) s).mc = s.mc := rfl
@[simp] theorem dbyStat_dby  : (Act.run (dbyStat) s).dby = s.dby := rfl
@[simp] theorem dbyStat_ras  : (Act.run (dbyStat) s).ras = s.ras := rfl
@[simp] theorem dbyStat_pwr  : (Act.run (dbyStat) s).pwr = s.pwr := rfl
@[simp] theorem dbyStat_boot  : (Act.run (dbyStat) s).boot = s.boot := rfl
@[simp] theorem dbyStat_dbg  : (Act.run (dbyStat) s).dbg = s.dbg := rfl

end Sys2Proof.Machine
end

