-- ==== Sys2Proof/Laws/Mesh.lean ====
section
/-! SUPPORT. Chapter 02: the ports of a router and the flits on its links. -/

set_option Elab.async false

namespace Sys2Proof.Machine

/-- The ports that a flit may take are link ports. -/
theorem goX_lt {n d q : Nat} (h : (goX n d).2 = some q) : q < 4 := by
  unfold goX at h; dsimp only at h; repeat' split at h
  all_goals simp at h <;> omega
theorem goY_lt {n d q : Nat} (h : (goY n d).2 = some q) : q < 4 := by
  unfold goY at h; dsimp only at h; repeat' split at h
  all_goals simp at h <;> omega
theorem productive_lt {n d p : Nat} (h : p ∈ productive n d) : p < 4 := by
  unfold productive at h; dsimp only at h
  split at h <;> simp [Option.mem_toList] at h <;> rcases h with h | h
  all_goals first | exact goX_lt h | exact goY_lt h
/-- A link leads to another node. -/
theorem neighbour_ne {n p : Nat} (hp : p < 4) : neighbour n p ≠ n := by
  have : p = 0 ∨ p = 1 ∨ p = 2 ∨ p = 3 := by omega
  unfold neighbour
  rcases this with rfl | rfl | rfl | rfl <;> simp only <;> omega
theorem opposite_lt {p : Nat} (hp : p < 4) : opposite p < 4 := by
  unfold opposite; split <;> omega
theorem range4 : List.range 4 = [0, 1, 2, 3] := rfl
/-- Every link input of a router loses its first flit. -/
theorem dropInputs (t : Tab (List Flit)) (n k : Nat) :
   Tab.getD ((List.range 4).foldl (fun t p => Tab.put t (n * 4 + p) ((Tab.getD t (n * 4 + p) []).drop 1)) t) k [] =
     if n * 4 ≤ k ∧ k < n * 4 + 4 then (Tab.getD t k []).drop 1 else Tab.getD t k [] := by
  simp only [range4, List.foldl]
  by_cases h : n * 4 ≤ k ∧ k < n * 4 + 4
  · simp only [h, and_self, if_true]
    have : k = n*4+0 ∨ k = n*4+1 ∨ k = n*4+2 ∨ k = n*4+3 := by omega
    rcases this with rfl | rfl | rfl | rfl <;>
      (repeat (first | rw [Tab.getD_put_same] | rw [Tab.getD_put_ne _ _ _ (by omega)]))
  · simp only [h, if_false]
    repeat rw [Tab.getD_put_ne _ _ _ (by omega)]

theorem injOut_lt {s : State} {n p : Nat} {e : InjEntry} (hd : e.flit.dest ≠ n) (h : s.injOut n e = some p) : p < 4 := by
  unfold State.injOut at h
  simp only [if_neg hd] at h
  split at h
  · rename_i q hq; injection h with h; subst h; exact productive_lt (List.mem_of_find?_eq_some hq)
  · split at h
    · have := List.mem_of_find?_eq_some h; simp at this; omega
    · cases h

end Sys2Proof.Machine
end

