-- ==== Sys2Proof/Tests/Slice0.lean ====
section
/-! SUPPORT. Tests: the manual's worked examples, the well-formedness checks, and, for every clause of a statement with
hypotheses, a state and operands that meet them. -/

set_option Elab.async false
set_option linter.unusedVariables false

open Sys2Proof Sys2Proof.Machine

/-- A state with the registers of a list at given contents. -/
def regsAt (l : List (Nat × Nat)) : Tab W64 := l.foldl (fun t p => Tab.put t p.1 (BitVec.ofNat 64 p.2)) []
/-- A state whose mesh runs and in which a card from the keeper is being served. -/
def cardState (l : List (Nat × Nat)) : State :=
  { regs := regsAt l, mesh := { stopped := false }, pwr := { railC := true }, dby := { serving := true } }
/-- The keeper's card. -/
def kCard : CardCtx := { via := .keeper, world := true, tag := 1, seq := 0 }
/-- A flit to node 7 for the examples of chapter 02. -/
def flitA : Flit := { dest := 7, src := 3, req := 3, cls := 0, opcode := 1 }
/-- A state in which DRAM of one channel is populated and node 3 is the home of line 5. -/
def homeState (l : List (Nat × Nat)) (c : CacheSt) (d : CohSt) : State :=
  { regs := regsAt ([(LLC_MAP 5, 3), (LLC_STAT 3, 8 * 2 ^ 48), (MC_ILV 0, 2 ^ 18 + 2 ^ 36 + 2 ^ 48), (SEL_DRAM_WM, 0)] ++ l), mesh := { stopped := false },
    cache := c, coh := d }
/-- A request of node 7 for line 5. -/
def reqA : Flit := { dest := 3, src := 7, req := 7, cls := 0, opcode := 1, line := 5, txn := 9 }
/-- A slice line of ones. -/
def lineA : SliceLine := { data := 1 }
/-- Node 7's outstanding request for it. -/
def reqQ : ReqOut := { req := 7, home := 3, flit := reqA, why := .load, since := 0 }
/-- Hart 0 of node 7, running in M-mode with its code in line 5 of its L2. -/
def hartState (t : Hart) (l : List (Nat × Nat)) : State :=
  { homeState ([(MESH_NODE_INFO 7, 2 ^ 25), (MESH_HART_MAP 0, 2 ^ 8 + 7)] ++ l) { l2 := [(lineKey 7 5, { st := .e, data := 3 })] } {} with
    core := { hart := [(0, { t with released := true, pc := 320 })] } }
/-- An instruction of hart 0, 4 bytes long. -/
def insA : Ins := { hart := 0, bits := 3 }
/-- An integer register file. -/
def xRegs (l : List (Nat × Nat)) : Tab W64 := l.map fun p => (p.1, BitVec.ofNat 64 p.2)
/-- The keeper's card meets function 9 in a state, with DRAM populated. -/
def fnState (st : Nat) (l : List (Nat × Nat)) (x : LoomSt) (o : List OpenOp) : State :=
  { cardState ([(MC_ILV 0, 2 ^ 18 + 2 ^ 36 + 2 ^ 48), (SEL_DRAM_WM, 0), (LOOM_FSTAT 9, st + 2 ^ 8 + 2 ^ 17)] ++ l) with
    loom := x, dby := { serving := true, openOps := o } }
/-- A save blob of one queue and one vector at 0x10000, all else 0. -/
def blobMem : List Host.Cell :=
  [(65536, 0x31), (65537, 0x42), (65538, 0x4D), (65539, 0x4C), (65540, 1), (65542, 1), (65544, 1),
   (69624, 0xF6), (69625, 0x2F), (69626, 0x5A), (69627, 0x48), (69628, 0xC0), (69629, 0xFF), (69630, 0x82), (69631, 0xC9)]
/-- A READ of drive 5 for function 9, issued at time 3. -/
def slotA : Slot := { req := none, f := 9, ctrl := 5, op := 2, nsid := 1, slba := 0, nlb := 1, len := 4096, addr := 8192, win := false, rung := some 3 }
/-- A heap entry of drive 5. -/
def heapA : HeapEnt := { slot := 4, drive := 5, theta := 0, latest := 0, at256 := some 2560 }
/-- Port 1 of four runs with its link up. -/
def portState (l : List (Nat × Nat)) (p : ShuPort) : State :=
  { regs := regsAt ([(SHU_MODE, 1), (SHU_PORT_CFG 1, 1), (SHU_PORT_STAT 1, 1)] ++ l), shu := { port := [(1, p)] } }
/-- A RoCEv2 SEND Only packet over IPv4 in a frame of minimum length. -/
def frameA : List Byte :=
  [1, 0, 0, 0, 0, 1, 2, 2, 2, 2, 2, 2, 8, 0, 69, 0, 0, 44, 0, 0, 0, 0, 64, 17, 102, 191, 10, 0, 0, 1, 10, 0, 0, 2, 0, 9, 18, 183, 0, 24, 0, 0, 4, 0, 255, 255, 0, 0, 0, 5, 0, 0, 0, 1, 0, 0, 0, 0, 0, 0]
/-- What the parser makes of it. -/
def pktA : InPkt :=
  { port := 1, time := 7, ecn := 0, v6 := false, ip := (frameA.drop 14).take 20, udp := (frameA.drop 34).take 8, pay := (frameA.drop 42).take 16 }
/-- Queue pair 5 of function 9, with one send entry and one receive entry in its rings. -/
def qpA : Qp := { func := 9, sqBase := 0x1000, rqBase := 0x2000, cqBase := 0x4000, sqTail := 1, rqTail := 1 }
/-- A SEND in flight, and a READ of 4 bytes. -/
def wrA : SendWr := { ent := 0, first := 0, last := 0 }
def rdA : SendWr := { ent := BitVec.ofNat 512 (4 + 4 * 2 ^ 64), first := 0, last := 0 }
/-- Function 9 is ACTIVE with its first 1 GiB mapped to DRAM, and queue pair 5 has a context. -/
def roceState (l : List (Nat × Nat)) (x : Qp) (k : List InPkt) : State :=
  { regs := regsAt ([(MC_ILV 0, 2 ^ 18 + 2 ^ 36 + 2 ^ 48), (SEL_DRAM_WM, 0), (LOOM_FSTAT 9, 1 + 2 ^ 17)] ++ l),
    iotlb := { ent := [⟨9, 0, 30, 0, 0xFF⟩] }, shu := { qp := [(5, x)], cached := [5], inq := k, region := [7] } }
/-- A packet for queue pair 5 with PSN 0, with a good invariant CRC. -/
def pktOf (op : Nat) (ext data : List Byte) : InPkt :=
  let b : List Byte := [BitVec.ofNat 8 op, 0, 0, 0, 0, 0, 0, 5, 0, 0, 0, 0] ++ ext ++ data
  let z : InPkt := { port := 1, time := 7, ecn := 0, v6 := false, ip := List.replicate 20 1, udp := List.replicate 8 2, pay := b }
  let c := crc32 (List.replicate 8 255 ++ (maskBytes (fun i => i == 1 || i == 8 || i == 10 || i == 11) z.ip ++
    maskBytes (fun i => i == 6 || i == 7) z.udp ++ maskBytes (fun i => i == 4) b).map BitVec.toNat)
  { z with pay := b ++ natLe 4 c }
/-- A RETH for 4 bytes at 0x3000 under R_Key 0x00070000. -/
def rethA : List Byte := [0, 0, 0, 0, 0, 0, 0x30, 0, 0, 7, 0, 0, 0, 0, 0, 4]
/-- Region entry 7 of function 9: 64 KiB at 0 with remote read and write. -/
def regMem : List Host.Cell := [(234, 1), (240, 9), (244, 3)]
/-- A descriptor of an RC queue pair of function 9 at 0x1000. -/
def descMem : List Host.Cell :=
  [(4098, 9), (4136, 4), (4137, 4), (4138, 4), (4140, 1), (4141, 1), (4152, 1), (4153, 1), (4154, 1), (4200, 1)]
/-- An XFORM request of function 9 from 0x1000 to 0x2000. -/
def xfReq (sub key : Nat) (len : Nat := 0) : LoomReq := { f := 9, q := 0, ent := BitVec.ofNat 512 (sub * 2 ^ 32 + key * 2 ^ 48 + len * 2 ^ 160 + 0x1000 * 2 ^ 192 + 0x2000 * 2 ^ 256) }
/-- Request 4 is such a request and waits for a lane. -/
def xfState (l : List (Nat × Nat)) (sub key : Nat) (x : XfSt) (m : List Host.Cell) : State :=
  { roceState l {} [] with mem := m, xf := { x with queue := if x.lane.isEmpty then [4] else [] }, loom := { req := [(4, xfReq sub key (if sub = 3 then 4 else 0))] } }
/-- Hart 0, whose node also holds line 10. -/
def hartLine (t : Hart) (y : L2Line) : State :=
  { hartState t [] with cache := { l2 := [(lineKey 7 5, { st := .e, data := 3 }), (lineKey 7 10, y)] } }
/-- The Harness in a state, with hart 0 at node 7. -/
def harnState (l : List (Nat × Nat)) (x : HrnSt) : State :=
  { regs := regsAt ([(MESH_NODE_INFO 7, 2 ^ 25), (MESH_HART_MAP 0, 2 ^ 8 + 7)] ++ l), hrn := x }
/-- Dobby runs, with DRAM populated of which 1 GiB is secure, and the normal ring at 0x10000 with replies at 0x11000. -/
def dbyState (l : List (Nat × Nat)) (d : DbySt) (m : List Host.Cell) : State :=
  { regs := regsAt ([(MC_ILV 0, 2 ^ 18 + 2 * 2 ^ 18 + 2 ^ 36 + 2 ^ 48), (SEL_DRAM_WM, 1), (DBY_RING_CFG 0, 0x66 * 16 + 1 + 2 ^ 30 + 65536),
      (DBY_RING_RBASE 0, 2 ^ 30 + 0x11000), (DBY_RING_CTLA 0, 2 ^ 30 + 0x12000)] ++ l),
    mesh := { stopped := false }, pwr := { railIod := true, railC := true, trans := none }, dby := d, mem := m }
/-- A card INFO.IDENTIFY of the normal world, tag 1, sequence 2. -/
def cardA : List Byte := [1, 0, 0, 3, 1, 0, 4, 0, 0xFF, 0xFF, 0, 0, 2, 0, 0, 0]
/-- The same in slot 0 of the normal ring. -/
def cardMem : List Host.Cell :=
  [(1073807360, 1), (1073807363, 3), (1073807364, 1), (1073807366, 4), (1073807368, 0xFF), (1073807369, 0xFF), (1073807372, 2)]
/-- DRAM that holds these bytes from an address on. -/
def memOf (a : Nat) (l : List Byte) : List Host.Cell :=
  ((List.range l.length).zip l).filterMap fun p => if p.2 = 0 then none else some (a + p.1, p.2)
/-- The public key of the test vectors is the base point itself (private key 1); this is its SHA-384 digest. -/
def keyHash : Nat := 0xa19d4db171b582eb8052b0cfe555e17894aa22d1c8a9770950697dd8f796d2fa4bf0a56ad80006b7ea08e1191f814b65
/-- A token BLANK to PROVISIONED of the vendor with DBG_CAP 5, and its signature. -/
def tokenA : List Byte := (beBytes 16 0x3154434c010000010005000000000000 ++ List.replicate 16 0 ++ [9] ++ List.replicate 47 0 ++
  beBytes 48 p384G.1 ++ beBytes 48 p384G.2 ++ beBytes 48 p384G.1 ++ beBytes 48 0xb526e9055703259cf87272a2eedaa254656fd753f959088fa0d042317071475c85da43144d71487144fa2fc0b82dc006).map (BitVec.ofNat 8)
/-- Nothing is locked, and a token or an assignment table lies at 0x1000 in secure DRAM. -/
def lifeState (l : List (Nat × Nat)) (m : List Byte) : State :=
  { cardState ([(MC_ILV 0, 2 ^ 18 + 2 ^ 36 + 2 ^ 48)] ++ l) with mem := memOf 4096 m, fuses := { vendorHash := keyHash }, boot := { flashUnits := 2048 } }
/-- An assignment table: one GiB is secure, with every assignable block, port 3, source 5, key slot 6 and function 7. -/
def tableA : List Byte := natLe 6 0x153454C31 ++ natLe 2 0 ++ natLe 4 1 ++ natLe 4 300 ++ natLe 8 assignableBlocks ++ natLe 2 8 ++
  natLe 38 0 ++ natLe 128 (2 ^ 5) ++ natLe 1024 (2 ^ 6) ++ natLe 1032 (2 ^ 7) ++ natLe 56 0
/-- The compute dies and the IOD run; the keeper's card is served; tile 7 is in Run and tile 8 parked. -/
def pwrState (l : List (Nat × Nat)) (x : PwrSt) : State :=
  { regs := regsAt ([(nodeBase 7, 0), (nodeBase 8, 2 ^ 40)] ++ l),
    mesh := { stopped := false }, dby := { serving := true }, pwr := { x with railC := true } }
/-- An open POWER.SET_STATE of the keeper. -/
def opPwr : OpenOp := ⟨kCard, 0x0101, 0, 0, false⟩
/-- Both links are up, and channel 3 is in a state with keys and 12 V at its input. -/
def crlState (st keys : Nat) (l : List (Nat × Nat)) (x : CrlChan) : State :=
  { cardState ([(CREEL_STAT, 3 * 2 ^ 24), (CREEL_CH_STAT 3, st + keys * 2 ^ 16 + 12000 * 2 ^ 48)] ++ l) with crl := { chan := [(3, x)] } }
/-- An open card of channel 3. -/
def opFeed (op : Nat) : OpenOp := ⟨kCard, op, 3, 0, false⟩
/-- The header of an image of the vendor with security version 3, firmware version 9 and a payload of one byte, 7, and its signature. -/
def imageA : List Byte := (natLe 8 0x14E54494D ++ natLe 8 (3 + 9 * 2 ^ 32) ++ natLe 8 1 ++ natLe 8 (0x1000 + 2 ^ 32) ++ natLe 8 0x1000 ++ natLe 88 0) ++
  (beBytes 48 p384G.1 ++ beBytes 48 p384G.2 ++ beBytes 48 p384G.1 ++ beBytes 48 0xda3019cc65eb716255138603dfdebdc516165567854140d8447d4c32b4516178a6edffee163af6deec203bb72fca2eb7).map (BitVec.ofNat 8)
/-- The keeper's card is served; image A lies in DRAM at 0x1000 and, apart from bytes that no check reads, in slot 1. -/
def fwState (b : BootSt) : State :=
  { cardState [(MC_ILV 0, 2 ^ 18 + 2 ^ 36 + 2 ^ 48)] with
    mem := memOf 4096 imageA ++ [(8192, 7)], fuses := { vendorHash := keyHash }
    boot := { b with flash := ((List.range 320).zip imageA).map (fun p => (2 ^ 32 + p.1, p.2)) ++ [(2 ^ 32 + 4096, 7)] } }
/-- Four channels with one DIMM each that train. -/
def envA : BootEnv := { bootsel := 3, prof := 2, dimms := [some {}, some {}, some {}, some {}] }
/-- A boot flow runs its step 5. -/
def bootState (l : List (Nat × Nat)) : State := { regs := regsAt l, pwr := { trans := some { number := 7, start := 0, step := 5 } } }
/-- A load of TRD_ALARM that waits at hart 0. -/
def ioA : IoEnt := { store := false, pa := TRD_ALARM, size := 8, rd := 5, kind := .unsigned, va := TRD_ALARM, pc := 320, len := 4, data := 0, mpriv := true }
/-- The state after a command that completes. -/
def after (c : Instr) (s : State) : State := match exec c s with | .next t => t | _ => s
/-- A card of the normal world on its ring. -/
def ringCtx : CardCtx := { via := .ring false, world := false, tag := 1, seq := 0 }
/-- What `after` gives, for a command that completes. -/
theorem after_eq {c : Instr} {s : State} (h : (match exec c s with | .next _ => true | _ => false) = true) :
    exec c s = .next (after c s) := by
  unfold after
  split at h
  · next t ht => rw [ht]
  · cases h

/-! ### Examples that the manual works out -/

/-- Section 5.10: products in GF(2^8). -/
theorem test_gfmul : gfmul 0xF4 0x51 = 0xC4 ∧ gfmul 0xF4 0x32 = 0xE5 ∧ gfmul 0xF5 0x32 = 0xD7 := by decide +kernel
/-- Section 3.2: the map index and the set of PA 0x0123456789C0. -/
theorem test_map_index : mapIndex (0x0123456789C0 / 64) = 0xBF3 ∧ sliceSet (0x0123456789C0 / 64) = 0x494 := by decide +kernel
/-- Section 15.3: twelve channels; that address is on channel 1 at local 0x1845C8A1C0. -/
theorem test_interleave :
    ({ regs := regsAt [(MC_ILV 0, 0x3FFFF * 2 ^ 18 + 0xFFF * 2 ^ 36 + 2 ^ 48)] } : State).channelOf 0x0123456789C0 =
      some (1, 0x1845C8A1C0) := by decide +kernel
/-- A flit of section 2.2's example, of an age in cycle 1,000. -/
def flitOf (dest src age : Nat) : Flit := { flitA with dest := dest, src := src, stamp := 1000 - age }
/-- Section 2.2: node 5 in cycle 1,000, with flits A, B, C and D on its inputs and E waiting for 2 cycles. -/
def node5 : State :=
  { regs := [], clk := { meshCycle := 1000 }
    mesh := { stopped := false
              inputs := [(20, [flitOf 7 1 300]), (21, [flitOf 5 2 40]), (22, [flitOf 9 3 120]), (23, [flitOf 85 4 10])]
              inj := [(5, [{ flit := flitOf 4 5 2, since := 998 }])] } }
/-- A leaves by +x, C is deflected to −x, D leaves by +y, B is ejected. -/
theorem test_arbitration :
    let t := (after (.flitArrival 5) node5).mesh
    Tab.getD t.inputs (6 * 4 + 1) [] = [flitOf 7 1 300] ∧ Tab.getD t.inputs (4 * 4 + 0) [] = [flitOf 9 3 120] ∧
    Tab.getD t.inputs (21 * 4 + 3) [] = [flitOf 85 4 10] ∧ Tab.getD t.inbox 5 [] = [flitOf 5 2 40] := by decide +kernel
/-- E stays in the queue: the only free output, −y, is not productive for it. -/
theorem test_injection_waits :
    (after (.flitInject 5) (after (.flitArrival 5) node5)).injQueue 5 = node5.injQueue 5 := by decide +kernel
/-- Section 7.5: the handle of slot 0x1234. -/
theorem test_handle : handleBase 0x1234 = 0x448D00000000 := by decide +kernel
/-- Table 8.18: the first releases of drives 100, 102, 103, 106, 110 and 112 after t0. -/
theorem test_first_release :
    ([(1200000, 16384, 383333), (500000, 0, 7333333), (6100000, 57344, 691666), (4500000, 40960, 208333),
      (3900000, 32768, 8100000), (900000, 8192, 7975000)] : List (Nat × Nat × Nat)).all (fun p =>
      let s : State := { regs := regsAt [(PICK_CLK_IDX 0, 5000000000 - p.1),
        (PICK_CLK_STAT 0, ((PICK_CLK_STAT_STATE.put (PICK_CLK_STAT_PERIOD.put 0 (8333333 * 256)) csLocked)).toNat)] }
      s.firstRelease 0 p.2.1 5000000000 == some ((5000000000 + p.2.2) * 256)) = true := by decide +kernel
/-- Section 9.4: R269 accepts the configuration; with 8,192 words more in lossy priorities it does not. -/
theorem test_headroom :
    let thr := fun (c : Nat) => SHU_PFC_THR_XON.put (SHU_PFC_THR_XOFF.put 0 (if c = 3 ∨ c = 4 then 8192 else 1024))
      (if c = 3 ∨ c = 4 then 7168 else 512)
    let cfg := SHU_PORT_CFG_LOSSLESS.put (SHU_PORT_CFG_FC.put 0 2) 0x18
    thrBad 0 cfg ((List.range 8).map thr) = false ∧
    thrBad 0 cfg ((List.range 8).map fun c => if c = 3 ∨ c = 4 then thr 3 else SHU_PFC_THR_XOFF.put (thr 0) 3072) = true := by
  decide +kernel
/-- R310: the CRC of the ASCII bytes "123456789". -/
theorem test_crc64 : crc64 0 [0x31, 0x32, 0x33, 0x34, 0x35, 0x36, 0x37, 0x38, 0x39] = 0x6C40DF5F0B497347 := by decide +kernel
/-- Section 17.9: with 1,008 cards before it, a card is told 4,040 µs. -/
theorem test_queue_wait :
    ({ regs := [], dby := { queue := List.replicate 1008 { (default : Card) with cls := 3 } } } : State).queueWait 3 = 4040 := by
  decide +kernel
/-- R587: IDCODE at stepping 0x01. -/
theorem test_idcode : (after .jtagIdcode (cardState [(DBY_CHIP_ID, 2 ^ 40)])).dbg.tapShift = 0x1019256B := by decide +kernel
/-- Section 23.6: the record of a DATA_ONCE ejected at node 39. -/
theorem test_flit_record :
    let f : Flit := { dest := 39, src := 5, req := 0, cls := clsDAT, opcode := 0x04, line := 0x0123456789C0 / 64, tenant := 417 }
    flitRecord 1 5 39 0x123456 f false = 0x0123456789C1A10400A0C9C48D1589EC#128 := by decide +kernel
/-- R6: memory is little-endian. -/
theorem test_little_endian : leNat [0x12, 0x34] = 0x3412 ∧ natLe 2 0x3412 = [0x12, 0x34] := by decide +kernel

/-! ### Well-formedness: for each check, a command that it refuses -/

theorem test_wf : Instr.wf (.rdShared 3 reqA) = true ∧ Instr.wf (.tileTest kCard 999) = true := by decide +kernel
theorem test_wf_node : Instr.wf (.flitArrival 224) = false := by decide +kernel
theorem test_wf_hart : Instr.wf (.storeDrain 192) = false := by decide +kernel
theorem test_wf_ins : Instr.wf (.fenceI { hart := 192 }) = false := by decide +kernel
theorem test_wf_register : Instr.wf (.amo insA .add 5 6 32 8) = false := by decide +kernel
theorem test_wf_csr : Instr.wf (.csrWrite insA 5 4096 0 6 false) = false := by decide +kernel
theorem test_wf_channel : Instr.wf (.zeroFillDone 12) = false := by decide +kernel
theorem test_wf_port : Instr.wf (.pcieInboundRead 16 0 0 4) = false := by decide +kernel
theorem test_wf_class : Instr.wf (.classAgeExpiry 3 8) = false := by decide +kernel
theorem test_wf_function : Instr.wf (.funcQuiesceDone 16384) = false := by decide +kernel
theorem test_wf_flit : Instr.wf (.rdShared 3 { reqA with tenant := 16384 }) = false ∧
    Instr.wf (.rdShared 3 { reqA with line := 2 ^ 42 }) = false ∧ Instr.wf (.rdShared 3 { reqA with dest := 224 }) = false := by
  decide +kernel
theorem test_wf_card : Instr.wf (.infoCaps { kCard with tag := 65536 }) = false ∧
    Instr.wf (.infoCaps { kCard with via := .mctp 256 }) = false := by decide +kernel
theorem test_wf_die : Instr.wf (.traceSync 4) = false := by decide +kernel
theorem test_wf_drive : Instr.wf (.clockCoastExpiry 1024) = false := by decide +kernel
theorem test_wf_pair : Instr.wf (.dqQpEnable true 4096 0) = false := by decide +kernel
theorem test_wf_alarm : Instr.wf (.pickAlarmFire 64) = false := by decide +kernel
theorem test_wf_feed : Instr.wf (.feedRegulation 16) = false := by decide +kernel
theorem test_wf_entry : Instr.wf (.mapWalkEnd 4096) = false := by decide +kernel
theorem test_wf_source : Instr.wf (.wiredLineChange 1024 true) = false := by decide +kernel

/-! ### Every hypothesis of the statements is met -/

/-- The hypotheses of clause 1 of RegisterWritesComplete are met together. -/
theorem witness_RegisterWritesComplete_1 : ∃ (s : State) (w : Bool) (m : Bool) (n : Nat) (a : Nat) (b : Nat) (v : W64), (a, b) ∈ [(PWR_WAKE_CFG, 0), (PWR_RESUME, 0), (TRD_ALARM, 0), (TRD_WAKE_MASK, 0), (SHU_QP_ARG, 7), (PE_PORT_PHYS 3, 9), (PE_PORT_PHYS 15, 9)] ∧ w = s.blockWorld b ∧ s.responder (s.ioNode n a) = false :=
  ⟨cardState [], true, false, 0, TRD_ALARM, 0, 0xFFFFFFFFFFFFFFFF, by decide +kernel⟩
/-- The hypotheses of clause 2 of RegisterWritesComplete are met together. -/
theorem witness_RegisterWritesComplete_2 : ∃ (s : State) (w : Bool) (m : Bool) (n : Nat) (a : Nat) (b : Nat) (v : W64) (h : Fin 2), (a, b) ∈ [(PWR_WAKE_CFG, 0), (PWR_RESUME, 0), (TRD_ALARM, 0), (TRD_WAKE_MASK, 0), (SHU_QP_ARG, 7), (PE_PORT_PHYS 3, 9), (PE_PORT_PHYS 15, 9)] ∧ w = s.blockWorld b ∧ s.responder (s.ioNode n (a + 4 * h)) = false :=
  ⟨cardState [(TRD_WAKE_MASK, 7)], true, false, 0, TRD_WAKE_MASK, 0, 0xFFFFFFFF, 1, by decide +kernel⟩
/-- The hypotheses of clause 3 of RegisterWritesComplete are met together. -/
theorem witness_RegisterWritesComplete_3 : ∃ (s : State) (w : Bool) (m : Bool) (n : Nat) (a : Nat) (b : Nat) (v : W64), (a, b) ∈ [(PWR_WAKE_CFG, 0), (PWR_RESUME, 0), (TRD_ALARM, 0), (TRD_WAKE_MASK, 0), (SHU_QP_ARG, 7), (PE_PORT_PHYS 3, 9), (PE_PORT_PHYS 15, 9)] ∧ w ≠ s.blockWorld b ∧ s.responder (s.ioNode n a) = false :=
  ⟨cardState [(TRD_WAKE_MASK, 7)], false, false, 0, TRD_WAKE_MASK, 0, 5, by decide +kernel⟩
/-- The hypotheses of clause 4 of RegisterWritesComplete are met together. -/
theorem witness_RegisterWritesComplete_4 : ∃ (s : State) (w : Bool) (m : Bool) (n : Nat) (a : Nat) (k : Nat) (v : W64), (¬ (k = 8 ∨ k = 4) ∨ a % k ≠ 0) ∧ s.responder (s.ioNode n a) = false :=
  ⟨cardState [], true, false, 0, TRD_ALARM + 4, 8, 5, by decide +kernel⟩
/-- The hypotheses of clause 5 of RegisterWritesComplete are met together. -/
theorem witness_RegisterWritesComplete_5 : ∃ (s : State) (w : Bool) (m : Bool) (n : Nat) (a : Nat) (k : Nat) (v : W64), s.ioNode n a < 224 ∧ s.responder (s.ioNode n a) = true :=
  ⟨cardState [(MESH_FENCE_STAT 5, 4)], true, false, 0, MESH_FENCE_CTL 5, 8, 5, by decide +kernel⟩
/-- The hypotheses of clause 6 of RegisterWritesComplete are met together. -/
theorem witness_RegisterWritesComplete_6 : ∃ (s : State) (w : Bool) (m : Bool) (n : Nat) (b : Nat) (o : Nat) (k : Nat) (v : W64), b ∈ [0x02, 0x08, 0x10, 0x1B, 0x20, 0x21] ∧ o < 0x400000 ∧ regWidthOk (blockBase b + o) k = true ∧ s.responder (s.ioNode n (blockBase b + o)) = false :=
  ⟨cardState [], true, false, 0, 0x10, 0x3FFFFC, 4, 5, by decide +kernel⟩
/-- The hypotheses of clause 7 of RegisterWritesComplete are met together. -/
theorem witness_RegisterWritesComplete_7 : ∃ (s : State) (w : Bool) (m : Bool) (n : Nat) (f : Nat) (o : Nat) (k : Nat) (v : W64), f ≤ 8192 ∧ o < 2 ^ 16 ∧ regWidthOk (pageBase f + o) k = true ∧ s.responder (s.ioNode n (pageBase f + o)) = false ∧ n < 224 ∧ w ≠ s.funcWorld f :=
  ⟨cardState [], true, false, 0, 8192, 0x2008, 8, 5, by decide +kernel⟩
/-- The hypotheses of clause 1 of LeaseRingCommandsComplete are met together. -/
theorem witness_LeaseRingCommandsComplete_1 : ∃ (s : State) (b : Nat) (o : Nat) (g : Nat) (bad : Nat), b ∈ [0x00, 0x02, 0x06, 0x10, 0x1B] ∧ o < 0xF00000 ∧ o % 8 = 0 ∧ bad < 2 ∧ s.stopLost b = false :=
  ⟨cardState [(TRD_ALARM, 9)], 0, 0x118, 255, 1, by decide +kernel⟩
/-- The hypotheses of clause 2 of LeaseRingCommandsComplete are met together. -/
theorem witness_LeaseRingCommandsComplete_2 : ∃ (s : State) (n : Nat) (g : Nat) (bad : Nat), n < 224 ∧ bad < 2 ∧ s.stopLost (0x100 + n) = false :=
  ⟨cardState [], 223, 3, 0, by decide +kernel⟩
/-- The hypotheses of clause 3 of LeaseRingCommandsComplete are met together. -/
theorem witness_LeaseRingCommandsComplete_3 : ∃ (s : State) (n : Nat) (g : Nat) (bad : Nat) (v : W64), n < 224 ∧ bad < 2 ∧ s.stopLost (0x100 + n) = false :=
  ⟨cardState [], 223, 3, 0, 0xFFFFFFFFFFFFFFFF, by decide +kernel⟩
/-- The hypotheses of clause 4 of LeaseRingCommandsComplete are met together. -/
theorem witness_LeaseRingCommandsComplete_4 : ∃ (s : State) (h : Nat) (g : Nat) (bad : Nat) (v : W64), h < 192 ∧ bad < 2 ∧ s.stopLost 0x20 = false :=
  ⟨cardState [], 191, 3, 0, 0x1FF, by decide +kernel⟩
/-- The hypotheses of clause 5 of LeaseRingCommandsComplete are met together. -/
theorem witness_LeaseRingCommandsComplete_5 : ∃ (s : State) (a : Nat) (g : Nat) (bad : Nat) (v : W64), a ∈ [PWR_WAKE_CFG, PWR_RESUME, TRD_ALARM, TRD_WAKE_MASK] ∧ bad < 2 ∧ s.stopLost 0 = false :=
  ⟨cardState [], TRD_ALARM, 3, 0, 0x1FF, by decide +kernel⟩
/-- The hypotheses of clause 6 of LeaseRingCommandsComplete are met together. -/
theorem witness_LeaseRingCommandsComplete_6 : ∃ (s : State) (b : Nat) (o : Nat) (g : Nat) (bad : Nat), b ∈ [0x00, 0x02, 0x03, 0x04, 0x05, 0x06, 0x07, 0x08, 0x09, 0x10, 0x1B, 0x20, 0x21, 0x100, 0x1DF] ∧ o % 8 = 0 ∧ bad < 2 ∧ s.stopLost b = false :=
  ⟨cardState [], 0x1DF, 0, 3, 0, by decide +kernel⟩
/-- The hypotheses of clause 7 of LeaseRingCommandsComplete are met together. -/
theorem witness_LeaseRingCommandsComplete_7 : ∃ (s : State) (b : Nat) (o : Nat) (g : Nat) (bad : Nat) (x : Nat), s.dby.ringBroken = false ∧ b ∈ [0x00, 0x09, 0x10, 0x20, 0x100, 0x1DF] ∧ (s.stopLost b = true ∧ x = 2 ∨ s.stopLost b = false ∧ bad < 2 ∧ o % 8 ≠ 0 ∧ x = 3) :=
  ⟨{ cardState [] with dby := { ringBypass := [0] } }, 0x10, 0, 3, 0, 2, by decide +kernel⟩
/-- The hypotheses of clause 8 of LeaseRingCommandsComplete are met together. -/
theorem witness_LeaseRingCommandsComplete_8 : ∃ (s : State) (b : Nat) (o : Nat) (g : Nat) (bad : Nat) (v : W64), s.dby.ringBroken = false ∧ b ∈ [0x00, 0x09, 0x10, 0x20, 0x100, 0x1DF] ∧ s.stopLost b = false ∧ 2 ≤ bad :=
  ⟨cardState [], 0x10, 0, 3, 2, 5, by decide +kernel⟩
/-- The hypotheses of clause 9 of LeaseRingCommandsComplete are met together. -/
theorem witness_LeaseRingCommandsComplete_9 : ∃ (s : State) (b : Nat) (o : Nat) (g : Nat) (bad : Nat) (v : W64), (b ∈ [0x01, 0x0A, 0x1C, 0x22, 0x1E0, 0x200] ∨ s.dby.ringBroken = true ∧ b ∈ [0x00, 0x10, 0x100]) :=
  ⟨cardState [], 0x1C, 0, 3, 2, 5, by decide +kernel⟩
/-- The hypotheses of clause 10 of LeaseRingCommandsComplete are met together. -/
theorem witness_LeaseRingCommandsComplete_10 : ∃ (s : State) (d : Nat), s.dby.ringBroken = false ∧ s.pwr.railC = true ∧ d < 4 ∧ d ∉ s.dby.ringBypass :=
  ⟨cardState [], 3, by decide +kernel⟩
/-- The hypotheses of clause 11 of LeaseRingCommandsComplete are met together. -/
theorem witness_LeaseRingCommandsComplete_11 : ∃ (s : State), s.dby.ringBroken = false :=
  ⟨cardState [], by decide +kernel⟩
/-- The hypotheses of clause 1 of InboundAndIoAccessesComplete are met together. -/
theorem witness_InboundAndIoAccessesComplete_1 : ∃ (s : State) (p : Nat) (r : Nat) (a : Nat) (d : List Byte), s.pcieUp p = true ∧ p < 16 ∧ d ≠ [] ∧ a < 2 ^ 46 ∧ s.ringPair r a d.length true = none ∧ s.inPhys p a d.length = true ∧ s.worldOk (s.portWorld p) a = true :=
  ⟨{ cardState [(SEL_DRAM_WM, 0), (MC_ILV 0, 2 ^ 18 + 2 ^ 36 + 2 ^ 48), (PE_PORT_CFG 15, 16), (PE_PORT_PHYS 15, 2 ^ 32), (PE_PORT_STAT 15, 1)] with io := {} }, 15, 7, 100, [1, 2, 3], by decide +kernel⟩
/-- The hypotheses of clause 2 of InboundAndIoAccessesComplete are met together. -/
theorem witness_InboundAndIoAccessesComplete_2 : ∃ (s : State) (p : Nat) (r : Nat) (a : Nat) (n : Nat), s.pcieUp p = true ∧ p < 16 ∧ 1 ≤ n ∧ n ≤ 4096 ∧ a < 2 ^ 46 ∧ s.ringPair r a n false = none ∧ s.inPhys p a n = true ∧ s.worldOk (s.portWorld p) a = true :=
  ⟨{ cardState [(SEL_DRAM_WM, 0), (MC_ILV 0, 2 ^ 18 + 2 ^ 36 + 2 ^ 48), (PE_PORT_CFG 15, 16), (PE_PORT_PHYS 15, 2 ^ 32), (PE_PORT_STAT 15, 1)] with mem := [(100, 7)] }, 15, 7, 100, 3, by decide +kernel⟩
/-- The hypotheses of clause 3 of InboundAndIoAccessesComplete are met together. -/
theorem witness_InboundAndIoAccessesComplete_3 : ∃ (s : State) (p : Nat) (r : Nat) (a : Nat) (d : List Byte) (x : Bool), s.pcieUp p = true ∧ p < 16 ∧ d ≠ [] ∧ (a < 2 ^ 46 ∧ s.ringPair r a d.length true = none ∧ s.inPhys p a d.length = false ∨ 2 ^ 47 ≤ a ∧ a < winBase ∨ winBase + 2 ^ 32 ≤ a) ∧ a / 2 ^ 46 ≠ 1 :=
  ⟨cardState [(PE_PORT_STAT 15, 1)], 15, 7, 100, [1, 2, 3], true, by decide +kernel⟩
/-- The hypotheses of clause 4 of InboundAndIoAccessesComplete are met together. -/
theorem witness_InboundAndIoAccessesComplete_4 : ∃ (s : State) (p : Nat) (r : Nat) (a : Nat) (n : Nat), s.pcieUp p = true ∧ p < 16 ∧ 1 ≤ n ∧ n ≤ 4096 ∧ (a < 2 ^ 46 ∧ s.ringPair r a n false = none ∧ s.inPhys p a n = false ∨ 2 ^ 47 ≤ a) ∧ a / 2 ^ 46 ≠ 1 :=
  ⟨cardState [(PE_PORT_STAT 15, 1)], 15, 7, 0xE10000000000, 8, by decide +kernel⟩
/-- The hypotheses of clause 5 of InboundAndIoAccessesComplete are met together. -/
theorem witness_InboundAndIoAccessesComplete_5 : ∃ (s : State) (p : Nat) (r : Nat) (a : Nat) (d : List Byte) (x : Slot) (q : Nat), s.pcieUp p = true ∧ d ≠ [] ∧ a / 2 ^ 46 = 1 ∧ s.slot (a / 2 ^ 30 % 65536) = some x ∧ s.handleFail r a d.length true = none ∧ x.win = false ∧ (x.addr + a % 2 ^ 28) % 4096 + d.length ≤ 4096 ∧ s.ioXl x.f (x.addr + a % 2 ^ 28) true = { s.ioXl x.f (x.addr + a % 2 ^ 28) true with hit := true, pa := some q } :=
  ⟨{ fnState 1 [(PE_PORT_STAT 0, 1), (DQ_CTRL_A 5, 7 * 2 ^ 16 + 1)] {} [] with iotlb := { ent := [⟨9, 0, 30, 0, 0xFF⟩] }, drv := { slot := [(3, slotA)] } }, 0, 7, 2 ^ 46 + 3 * 2 ^ 30 + 16, [1, 2, 3], slotA, 8208, by decide +kernel⟩
/-- The hypotheses of clause 6 of InboundAndIoAccessesComplete are met together. -/
theorem witness_InboundAndIoAccessesComplete_6 : ∃ (s : State) (h : Nat) (e : IoEnt) (x : Option W64), let a := e.pa; (s.hart h).io = some e ∧ e.store = false ∧ a ∈ [TRD_ALARM, TRD_WAKE_MASK, PWR_STATE, DBY_CHIP_ID, MC_CFG 3] ∧ e.size = 8 ∧ e.kind = .unsigned ∧ e.rd = 5 ∧ s.responder (s.ioNode (s.nodeOf h) a) = false ∧ s.ioNode (s.nodeOf h) a < 224 ∧ s.nodeOf h < 224 ∧ (s.hdbg h).dcsr.testBit 2 = false ∧ ((((s.hdbg h).trig[4]?).map (·.tdata1)).getD 0) / 2 ^ 60 % 16 ≠ 3 :=
  ⟨hartState { io := some ioA } [(TRD_ALARM, 7)], 0, ioA, none, by decide +kernel⟩
/-- The hypotheses of clause 7 of InboundAndIoAccessesComplete are met together. -/
theorem witness_InboundAndIoAccessesComplete_7 : ∃ (s : State) (h : Nat) (x : Option W64), (s.hart h).io = none :=
  ⟨hartState {} [], 0, none, by decide +kernel⟩
/-- The hypotheses of clause 1 of MeshEventsComplete are met together. -/
theorem witness_MeshEventsComplete_1 : ∃ (s : State) (n : Nat) (i : Nat) (p : Nat) (f : Flit) (r : List Flit), n < 224 ∧ i < 4 ∧ s.mesh.stopped = false ∧ s.mesh.paused = false ∧ Tab.getD s.mesh.inputs (n * 4 + i) [] = f :: r ∧ (∀ j < 4, j = i ∨ Tab.getD s.mesh.inputs (n * 4 + j) [] = []) ∧ f.hdrErr = 0 ∧ f.dest < 224 ∧ f.dest ≠ n ∧ s.age f < 1536 ∧ (productive n f.dest).head? = some p :=
  ⟨{ mesh := { stopped := false, inputs := [(5 * 4 + 1, [flitA])] } }, 5, 1, 0, flitA, [], by decide +kernel⟩
/-- The hypotheses of clause 2 of MeshEventsComplete are met together. -/
theorem witness_MeshEventsComplete_2 : ∃ (s : State) (n : Nat) (i : Nat) (f : Flit) (r : List Flit), n < 224 ∧ i < 4 ∧ s.mesh.stopped = false ∧ s.mesh.paused = false ∧ Tab.getD s.mesh.inputs (n * 4 + i) [] = f :: r ∧ (∀ j < 4, j = i ∨ Tab.getD s.mesh.inputs (n * 4 + j) [] = []) ∧ f.hdrErr = 0 ∧ f.dest = n ∧ f.datErr = 0 ∧ s.responder n = false :=
  ⟨{ mesh := { stopped := false, inputs := [(7 * 4 + 1, [flitA])] } }, 7, 1, flitA, [], by decide +kernel⟩
/-- The hypotheses of clause 3 of MeshEventsComplete are met together. -/
theorem witness_MeshEventsComplete_3 : ∃ (s : State) (n : Nat) (p : Nat) (e : InjEntry), n < 224 ∧ s.mesh.stopped = false ∧ s.mesh.paused = false ∧ (s.mesh.starve = [] ∨ n ∈ s.mesh.starve) ∧ injHead (s.injQueue n) = some e ∧ e.flit.dest ≠ n ∧ s.injOut n e = some p :=
  ⟨{ mesh := { stopped := false, inj := [(3, [{ flit := flitA, since := 0 }])] } }, 3, 0, { flit := flitA, since := 0 }, by decide +kernel⟩
/-- The hypotheses of clause 4 of MeshEventsComplete are met together. -/
theorem witness_MeshEventsComplete_4 : ∃ (s : State) (n : Nat) (e : InjEntry), injHead (s.injQueue n) = some e ∧ s.meshRuns = true :=
  ⟨{ mesh := { stopped := false, inj := [(3, [{ flit := flitA, since := 0 }])] } }, 3, { flit := flitA, since := 0 }, by decide +kernel⟩
/-- The hypotheses of clause 5 of MeshEventsComplete are met together. -/
theorem witness_MeshEventsComplete_5 : ∃ (s : State) (n : Nat) (cls : Nat) (e : InjEntry), (s.injQueue n).find? (fun e => e.flit.cls == cls) = some e ∧ s.meshRuns = true :=
  ⟨{ mesh := { stopped := false, inj := [(3, [{ flit := flitA, since := 0 }])] } }, 3, 0, { flit := flitA, since := 0 }, by decide +kernel⟩
/-- The hypotheses of clause 6 of MeshEventsComplete are met together. -/
theorem witness_MeshEventsComplete_6 : ∃ (s : State) (n : Nat) (e : InjEntry), n < 224 ∧ injHead (s.injQueue n) = some e ∧ n ∉ s.mesh.starve ∧ s.meshRuns = true :=
  ⟨{ mesh := { stopped := false, inj := [(3, [{ flit := flitA, since := 0 }])] } }, 3, { flit := flitA, since := 0 }, by decide +kernel⟩
/-- The hypotheses of clause 1 of TileCommandsComplete are met together. -/
theorem witness_TileCommandsComplete_1 : ∃ (s : State) (c : CardCtx) (node : Nat), let u := s.taken c 0x0201; s.cardOk c 0x0201 false tileOwner = true ∧ node < 224 ∧ u.stopLost (0x100 + node) = false ∧ u.tileBusy node = false ∧ u.slotFree false = true ∧ u.tstate node ≤ 1 :=
  ⟨cardState [(MESH_NODE_INFO 3, 0)], kCard, 3, by decide +kernel⟩
/-- The hypotheses of clause 2 of TileCommandsComplete are met together. -/
theorem witness_TileCommandsComplete_2 : ∃ (s : State) (c : CardCtx) (node : Nat), let u := s.taken c 0x0201; s.cardOk c 0x0201 false tileOwner = true ∧ node < 224 ∧ u.stopLost (0x100 + node) = false ∧ u.tileBusy node = false ∧ u.slotFree false = true ∧ u.tstate node = 2 :=
  ⟨cardState [(MESH_NODE_INFO 3, 2 * 2 ^ 40)], kCard, 3, by decide +kernel⟩
/-- The hypotheses of clause 3 of TileCommandsComplete are met together. -/
theorem witness_TileCommandsComplete_3 : ∃ (s : State) (c : CardCtx) (node : Nat), let u := s.taken c 0x0202; s.cardOk c 0x0202 false tileOwner = true ∧ node < 224 ∧ u.stopLost (0x100 + node) = false ∧ u.tileBusy node = false ∧ u.slotFree false = true ∧ u.tstate node = 2 ∧ u.bit (MESH_FENCE_STAT node) MESH_FENCE_STAT_DRAINED = true :=
  ⟨cardState [(MESH_NODE_INFO 3, 2 * 2 ^ 40), (MESH_FENCE_STAT 3, 1)], kCard, 3, by decide +kernel⟩
/-- The hypotheses of clause 4 of TileCommandsComplete are met together. -/
theorem witness_TileCommandsComplete_4 : ∃ (s : State) (c : CardCtx) (node : Nat), let u := s.taken c 0x0202; s.cardOk c 0x0202 false tileOwner = true ∧ node < 224 ∧ u.stopLost (0x100 + node) = false ∧ u.tileBusy node = false ∧ u.slotFree false = true ∧ u.tstate node ≤ 2 :=
  ⟨cardState [(MESH_NODE_INFO 3, 0)], kCard, 3, by decide +kernel⟩
/-- The hypotheses of clause 5 of TileCommandsComplete are met together. -/
theorem witness_TileCommandsComplete_5 : ∃ (s : State) (c : CardCtx) (node : Nat), let u := s.taken c 0x0203; s.cardOk c 0x0203 false tileOwner = true ∧ node < 224 ∧ u.stopLost (0x100 + node) = false ∧ u.tileBusy node = false ∧ u.slotFree false = true ∧ u.tstate node = 3 :=
  ⟨cardState [(MESH_NODE_INFO 3, 3 * 2 ^ 40)], kCard, 3, by decide +kernel⟩
/-- The hypotheses of clause 6 of TileCommandsComplete are met together. -/
theorem witness_TileCommandsComplete_6 : ∃ (s : State) (c : CardCtx) (node : Nat), let u := s.taken c 0x0203; s.cardOk c 0x0203 false tileOwner = true ∧ node < 224 ∧ u.stopLost (0x100 + node) = false ∧ u.tileBusy node = false ∧ u.slotFree false = true ∧ u.tstate node = 4 :=
  ⟨cardState [(MESH_NODE_INFO 3, 4 * 2 ^ 40)], kCard, 3, by decide +kernel⟩
/-- The hypotheses of clause 7 of TileCommandsComplete are met together. -/
theorem witness_TileCommandsComplete_7 : ∃ (s : State) (c : CardCtx) (node : Nat), let u := s.taken c 0x0204; s.cardOk c 0x0204 false tileOwner = true ∧ node < 224 ∧ u.stopLost (0x100 + node) = false ∧ u.tileBusy node = false ∧ u.slotFree false = true ∧ u.tstate node = 3 :=
  ⟨cardState [(MESH_NODE_INFO 3, 3 * 2 ^ 40)], kCard, 3, by decide +kernel⟩
/-- The hypotheses of clause 8 of TileCommandsComplete are met together. -/
theorem witness_TileCommandsComplete_8 : ∃ (s : State) (c : CardCtx) (node : Nat), let u := s.taken c 0x0206; s.cardOk c 0x0206 false tileOwner = true ∧ node < 224 ∧ u.stopLost (0x100 + node) = false ∧ u.tileBusy node = false ∧ u.slotFree false = true ∧ u.tstate node = 3 ∧ (nodeKind node = 1 → u.bit (MC_CFG (nodeChannel node)) MC_CFG_FORCED = false) :=
  ⟨cardState [(MESH_NODE_INFO 3, 3 * 2 ^ 40), (MESH_FENCE_STAT 3, 6)], kCard, 3, by decide +kernel⟩
/-- The hypotheses of clause 9 of TileCommandsComplete are met together. -/
theorem witness_TileCommandsComplete_9 : ∃ (s : State) (c : CardCtx) (failed : Nat) (spare : Nat), let u := s.taken c 0x0205; s.cardOk c 0x0205 false tileOwner = true ∧ failed < 224 ∧ spare < 224 ∧ failed ≠ spare ∧ nodeKind failed = 0 ∧ nodeKind spare = 0 ∧ (u.nodeHart failed).isSome = true ∧ u.bit (nodeBase spare) MESH_NODE_INFO_SPARE = true ∧ u.stopLost (0x100 + failed) = false ∧ u.tileBusy failed = false ∧ u.tileBusy spare = false ∧ u.tstate spare = 4 ∧ u.tstate failed ≤ 1 ∧ u.slotFree false = true :=
  ⟨cardState [(MESH_NODE_INFO 3, 2 ^ 25), (MESH_NODE_INFO 6, 2 ^ 24 + 4 * 2 ^ 40)], kCard, 3, 6, by decide +kernel⟩
/-- The hypotheses of clause 10 of TileCommandsComplete are met together. -/
theorem witness_TileCommandsComplete_10 : ∃ (s : State) (c : CardCtx) (node : Nat), let u := s.taken c 0x0203; s.cardOk c 0x0203 false tileOwner = true ∧ node < 224 ∧ u.stopLost (0x100 + node) = false ∧ u.tileBusy node = false ∧ u.tstate node ≠ 3 :=
  ⟨cardState [(MESH_NODE_INFO 3, 0)], kCard, 3, by decide +kernel⟩
/-- The hypotheses of clause 11 of TileCommandsComplete are met together. -/
theorem witness_TileCommandsComplete_11 : ∃ (s : State) (node : Nat) (o : OpenOp), node < 224 ∧ s.tstate node = 2 ∧ s.outstanding node = 0 ∧ s.injQueue node = [] ∧ (s.cache.l2.any fun p => keyNode p.1 == node) = false ∧ (nodeKind node = 0 → s.mapCount node = 0) ∧ s.findOp 0x0201 node = some o ∧ s.opOpen [0x0205] node = false ∧ s.opOpen [0x0305] (nodeChannel node) = false :=
  ⟨{ regs := regsAt [(MESH_NODE_INFO 3, 2 * 2 ^ 40)], dby := { openOps := [⟨kCard, 0x0201, 3, 0, false⟩] } }, 3, ⟨kCard, 0x0201, 3, 0, false⟩, by decide +kernel⟩
/-- The hypotheses of clause 12 of TileCommandsComplete are met together. -/
theorem witness_TileCommandsComplete_12 : ∃ (s : State) (node : Nat) (t0 : Nat) (o : OpenOp), node < 224 ∧ Tab.find s.mesh.drainStart node = some t0 ∧ s.tstate node = 2 ∧ s.bit (MESH_FENCE_STAT node) MESH_FENCE_STAT_DRAINED = false ∧ s.findOp 0x0201 node = some o ∧ s.findOp 0x0205 node = none ∧ s.opOpen [0x0305] (nodeChannel node) = false :=
  ⟨{ regs := regsAt [(MESH_NODE_INFO 3, 2 * 2 ^ 40)], mesh := { drainStart := [(3, 0)] }, dby := { openOps := [⟨kCard, 0x0201, 3, 0, false⟩] } }, 3, 0, ⟨kCard, 0x0201, 3, 0, false⟩, by decide +kernel⟩
/-- The hypotheses of clause 13 of TileCommandsComplete are met together. -/
theorem witness_TileCommandsComplete_13 : ∃ (s : State) (node : Nat) (o : OpenOp), node < 224 ∧ s.responder node = true ∧ s.bit (MESH_FENCE_STAT node) MESH_FENCE_STAT_FENCED = false ∧ s.injQueue node = [] ∧ s.findOp 0x0202 node = some o ∧ s.findOp 0x0305 (nodeChannel node) = none ∧ s.opOpen [0x0205] node = false ∧ s.meshRuns = true :=
  ⟨{ mesh := { stopped := false }, regs := regsAt [(MESH_NODE_INFO 3, 2 * 2 ^ 40), (MESH_FENCE_STAT 3, 5)], dby := { openOps := [⟨kCard, 0x0202, 3, 0, false⟩] } }, 3, ⟨kCard, 0x0202, 3, 0, false⟩, by decide +kernel⟩
/-- The hypotheses of clause 14 of TileCommandsComplete are met together. -/
theorem witness_TileCommandsComplete_14 : ∃ (s : State) (node : Nat) (result : Nat) (o : OpenOp), node < 224 ∧ nodeKind node = 0 ∧ s.tstate node = 5 ∧ result < 2048 ∧ s.findOp 0x0204 node = some o :=
  ⟨{ regs := regsAt [(MESH_NODE_INFO 3, 5 * 2 ^ 40)], dby := { openOps := [⟨kCard, 0x0204, 3, 0, false⟩] } }, 3, 5, ⟨kCard, 0x0204, 3, 0, false⟩, by decide +kernel⟩
/-- The hypotheses of clause 1 of CacheAndMapEventsComplete are met together. -/
theorem witness_CacheAndMapEventsComplete_1 : ∃ (s : State) (node : Nat) (pc : Nat) (l : Nat) (e : Stride), node < 224 ∧ (Tab.getD s.cache.stride node []).find? (·.pc == pc) = some e ∧ s.get (CORE_PF_CFG node) CORE_PF_CFG_TRAIN ≤ e.count ∧ e.stride ≠ 0 ∧ e.stride.natAbs ≤ 32 ∧ e.stride.natAbs ≤ s.get (CORE_PF_CFG node) CORE_PF_CFG_DIST ∧ (e.last : Int) + e.stride = (l : Int) ∧ l / 64 = e.last / 64 ∧ s.l2 node l = none ∧ (s.reqsOf node).any (fun q => q.flit.line == l) = false ∧ s.prefetchOk node = true :=
  ⟨{ regs := regsAt [(CORE_PF_CFG 3, 4 * 2 ^ 8 + 2)], cache := { stride := [(3, [⟨64, 4, 1, 3⟩])] } }, 3, 64, 5, ⟨64, 4, 1, 3⟩, by decide +kernel⟩
/-- The hypotheses of clause 2 of CacheAndMapEventsComplete are met together. -/
theorem witness_CacheAndMapEventsComplete_2 : ∃ (s : State) (node : Nat) (p : Nat × Flit), s.cache.tagWait.find? (·.1 == node) = some p ∧ Tab.getD s.cache.tagsUsed node 0 < s.get (LLC_STAT node) LLC_STAT_MEM_TAGS :=
  ⟨homeState [] { tagWait := [(3, reqA)] } {}, 3, (3, reqA), by decide +kernel⟩
/-- The hypotheses of clause 3 of CacheAndMapEventsComplete are met together. -/
theorem witness_CacheAndMapEventsComplete_3 : ∃ (s : State) (node : Nat) (line : Nat) (x : SliceLine), node < 224 ∧ s.get (LLC_CFG node) LLC_CFG_SCRUB ≠ 0 ∧ s.slice node line = some x :=
  ⟨homeState [] { slice := [(lineKey 3 5, lineA)] } {}, 3, 5, lineA, by decide +kernel⟩
/-- The hypotheses of clause 4 of CacheAndMapEventsComplete are met together. -/
theorem witness_CacheAndMapEventsComplete_4 : ∃ (s : State) (node : Nat) (line : Nat) (x : SliceLine), node < 224 ∧ s.get (LLC_CFG node) LLC_CFG_SCRUB ≠ 0 ∧ s.slice node line = some x ∧ (s.dirEntry node line).sdirty = true :=
  ⟨homeState [] { slice := [(lineKey 3 5, lineA)] } { dir := [(lineKey 3 5, { sdirty := true })] }, 3, 5, lineA, by decide +kernel⟩
/-- The hypotheses of clause 5 of CacheAndMapEventsComplete are met together. -/
theorem witness_CacheAndMapEventsComplete_5 : ∃ (s : State) (node : Nat) (line : Nat) (x : SliceLine), node < 224 ∧ s.get (LLC_CFG node) LLC_CFG_SCRUB ≠ 0 ∧ s.slice node line = some x ∧ (s.dirEntry node line).sdirty = false :=
  ⟨homeState [] { slice := [(lineKey 3 5, lineA)] } {}, 3, 5, lineA, by decide +kernel⟩
/-- The hypotheses of clause 6 of CacheAndMapEventsComplete are met together. -/
theorem witness_CacheAndMapEventsComplete_6 : ∃ (s : State) (r : Nat) (i : Nat) (m : MapMove), Tab.find s.cache.mapMove i = some m ∧ r ∈ m.waiting :=
  ⟨homeState [] { mapMove := [(5, { old := 3, waiting := [9], acks := 0 })] } {}, 9, 5, { old := 3, waiting := [9], acks := 0 }, by decide +kernel⟩
/-- The hypotheses of clause 7 of CacheAndMapEventsComplete are met together. -/
theorem witness_CacheAndMapEventsComplete_7 : ∃ (s : State) (i : Nat) (m : MapMove), let a := LLC_MAP_NODE.get m.old; LLC_MAP_NODE.get m.old < 224 ∧ Tab.find s.cache.mapMove i = some m ∧ m.waiting = [] ∧ m.ending = false ∧ m.started = false :=
  ⟨homeState [] { mapMove := [(5, { old := 3, waiting := [], acks := 0 })] } {}, 5, { old := 3, waiting := [], acks := 0 }, by decide +kernel⟩
/-- The hypotheses of clause 8 of CacheAndMapEventsComplete are met together. -/
theorem witness_CacheAndMapEventsComplete_8 : ∃ (s : State) (i : Nat) (m : MapMove), Tab.find s.cache.mapMove i = some m ∧ m.waiting = [] ∧ m.ending = true ∧ s.tstate (s.get (LLC_MAP i) LLC_MAP_NODE) ≠ 2 :=
  ⟨homeState [] { mapMove := [(5, { old := 3, waiting := [], acks := 0, ending := true })] } {}, 5, { old := 3, waiting := [], acks := 0, ending := true }, by decide +kernel⟩
/-- The hypotheses of clause 9 of CacheAndMapEventsComplete are met together. -/
theorem witness_CacheAndMapEventsComplete_9 : ∃ (s : State) (i : Nat) (m : MapMove), let a := LLC_MAP_NODE.get m.old; i < 4096 ∧ a < 224 ∧ Tab.find s.cache.mapMove i = some m ∧ m.walking = true ∧ s.cache.slice.any (fun p => keyNode p.1 == a && mapIndex (keyLine p.1) == i) = false ∧ s.coh.tx.any (fun p => mapIndex (keyLine p.1) == i && (keyNode p.1 == a || p.2.rel)) = false ∧ s.entryLines a i = [] :=
  ⟨homeState [(LLC_STAT 9, 2 ^ 16)] { mapMove := [(5, { old := 9, waiting := [], acks := 0, walking := true, started := true })] } {}, 5, { old := 9, waiting := [], acks := 0, walking := true, started := true }, by decide +kernel⟩
/-- The hypotheses of clause 1 of HomeReadsComplete are met together. -/
theorem witness_HomeReadsComplete_1 : ∃ (s : State) (h : Nat) (f : Flit) (x : SliceLine), s.admits h f = true ∧ f.req < 224 ∧ s.dirEntry h f.line = { sdirty := (s.dirEntry h f.line).sdirty, way := (s.dirEntry h f.line).way } ∧ s.slice h f.line = some x :=
  ⟨homeState [] { slice := [(lineKey 3 5, lineA)] } {}, 3, reqA, lineA, by decide +kernel⟩
/-- The hypotheses of clause 2 of HomeReadsComplete are met together. -/
theorem witness_HomeReadsComplete_2 : ∃ (s : State) (h : Nat) (f : Flit) (x : SliceLine), s.admits h f = true ∧ f.req < 224 ∧ s.dirEntry h f.line = { sdirty := (s.dirEntry h f.line).sdirty, way := (s.dirEntry h f.line).way } ∧ s.slice h f.line = some x :=
  ⟨homeState [] { slice := [(lineKey 3 5, lineA)] } {}, 3, reqA, lineA, by decide +kernel⟩
/-- The hypotheses of clause 3 of HomeReadsComplete are met together. -/
theorem witness_HomeReadsComplete_3 : ∃ (s : State) (h : Nat) (f : Flit) (x : SliceLine), s.admits h f = true ∧ (s.dirEntry h f.line).st = 0 ∧ (s.dirEntry h f.line).shr = [] ∧ s.slice h f.line = some x :=
  ⟨homeState [] { slice := [(lineKey 3 5, lineA)] } {}, 3, reqA, lineA, by decide +kernel⟩
/-- The hypotheses of clause 4 of HomeReadsComplete are met together. -/
theorem witness_HomeReadsComplete_4 : ∃ (s : State) (h : Nat) (o : Nat) (f : Flit), s.admits h f = true ∧ (s.dirEntry h f.line).st = 2 ∧ (s.dirEntry h f.line).owner = o ∧ (s.dirEntry h f.line).shr = [] ∧ tileOf f.req ≠ some o ∧ s.dead h o = false :=
  ⟨homeState [] {} { dir := [(lineKey 3 5, { st := 2, owner := 9 })] }, 3, 9, reqA, by decide +kernel⟩
/-- The hypotheses of clause 5 of HomeReadsComplete are met together. -/
theorem witness_HomeReadsComplete_5 : ∃ (s : State) (h : Nat) (o : Nat) (f : Flit), s.admits h f = true ∧ (s.dirEntry h f.line).st = 2 ∧ (s.dirEntry h f.line).owner = o ∧ (s.dirEntry h f.line).ovf = false ∧ (s.dirEntry h f.line).shr = [] ∧ tileOf f.req ≠ some o ∧ s.dead h o = false :=
  ⟨homeState [] {} { dir := [(lineKey 3 5, { st := 2, owner := 9 })] }, 3, 9, reqA, by decide +kernel⟩
/-- The hypotheses of clause 6 of HomeReadsComplete are met together. -/
theorem witness_HomeReadsComplete_6 : ∃ (s : State) (h : Nat) (f : Flit), s.admits h f = true ∧ f.req < 224 ∧ (s.dirEntry h f.line).st = 1 ∧ (s.dirEntry h f.line).ovf = false ∧ (s.dirEntry h f.line).shr = [f.req] :=
  ⟨homeState [] {} { dir := [(lineKey 3 5, { st := 1, shr := [7] })] }, 3, reqA, by decide +kernel⟩
/-- The hypotheses of clause 7 of HomeReadsComplete are met together. -/
theorem witness_HomeReadsComplete_7 : ∃ (s : State) (h : Nat) (f : Flit), s.admits h f = true ∧ f.req < 224 ∧ (s.dirEntry h f.line).st = 0 ∧ (s.dirEntry h f.line).ovf = false ∧ (s.dirEntry h f.line).shr = [] :=
  ⟨homeState [] { slice := [(lineKey 3 5, lineA)] } {}, 3, reqA, by decide +kernel⟩
/-- The hypotheses of clause 1 of HomeWritesComplete are met together. -/
theorem witness_HomeWritesComplete_1 : ∃ (s : State) (h : Nat) (f : Flit) (x : SliceLine), s.admits h f = true ∧ (s.dirEntry h f.line).st = 0 ∧ (s.dirEntry h f.line).ovf = false ∧ s.slice h f.line = some x :=
  ⟨homeState [] { slice := [(lineKey 3 5, lineA)] } {}, 3, reqA, lineA, by decide +kernel⟩
/-- The hypotheses of clause 2 of HomeWritesComplete are met together. -/
theorem witness_HomeWritesComplete_2 : ∃ (s : State) (h : Nat) (f : Flit) (x : SliceLine), s.admits h f = true ∧ (s.dirEntry h f.line).st = 0 ∧ (s.dirEntry h f.line).ovf = false ∧ s.slice h f.line = some x :=
  ⟨homeState [] { slice := [(lineKey 3 5, lineA)] } {}, 3, reqA, lineA, by decide +kernel⟩
/-- The hypotheses of clause 3 of HomeWritesComplete are met together. -/
theorem witness_HomeWritesComplete_3 : ∃ (s : State) (h : Nat) (f : Flit), s.admits h f = true ∧ f.req < 224 ∧ (s.dirEntry h f.line).st = 2 ∧ (s.dirEntry h f.line).shr = [] ∧ (s.dirEntry h f.line).owner = f.req ∧ s.dead h f.req = false :=
  ⟨homeState [] {} { dir := [(lineKey 3 5, { st := 2, owner := 7 })] }, 3, reqA, by decide +kernel⟩
/-- The hypotheses of clause 4 of HomeWritesComplete are met together. -/
theorem witness_HomeWritesComplete_4 : ∃ (s : State) (h : Nat) (f : Flit), s.admits h f = true ∧ f.req < 224 ∧ (s.dirEntry h f.line).st = 2 ∧ (s.dirEntry h f.line).shr = [] ∧ (s.dirEntry h f.line).ovf = false ∧ (s.dirEntry h f.line).owner = f.req :=
  ⟨homeState [] {} { dir := [(lineKey 3 5, { st := 2, owner := 7 })] }, 3, reqA, by decide +kernel⟩
/-- The hypotheses of clause 5 of HomeWritesComplete are met together. -/
theorem witness_HomeWritesComplete_5 : ∃ (s : State) (h : Nat) (c : Nat) (a : Nat) (f : Flit) (x : SliceLine), s.admits h f = true ∧ (s.dirEntry h f.line).st = 0 ∧ (s.dirEntry h f.line).shr = [] ∧ (s.dirEntry h f.line).sdirty = true ∧ s.slice h f.line = some x ∧ s.channelOf (f.line * 64) = some (c, a) ∧ Tab.getD s.cache.tagsUsed h 0 < s.get (LLC_STAT h) LLC_STAT_MEM_TAGS :=
  ⟨homeState [] { slice := [(lineKey 3 5, lineA)] } { dir := [(lineKey 3 5, { sdirty := true })] }, 3, 0, 320, reqA, lineA, by decide +kernel⟩
/-- The hypotheses of clause 6 of HomeWritesComplete are met together. -/
theorem witness_HomeWritesComplete_6 : ∃ (s : State) (h : Nat) (f : Flit), s.admits h f = true ∧ (s.dirEntry h f.line).free = true ∧ (s.dirEntry h f.line).ovf = false ∧ (s.dirEntry h f.line).shr = [] :=
  ⟨homeState [] { slice := [(lineKey 3 5, lineA)] } {}, 3, reqA, by decide +kernel⟩
/-- The hypotheses of clause 7 of HomeWritesComplete are met together. -/
theorem witness_HomeWritesComplete_7 : ∃ (s : State) (h : Nat) (f : Flit), h < 224 ∧ f.line < 2 ^ 42 ∧ s.busy h f.line = false ∧ s.quietAt h f.line = true ∧ s.get (LLC_MAP (mapIndex f.line)) LLC_MAP_NODE ≠ h ∧ (s.dirEntry h f.line).free = true ∧ (s.dirEntry h f.line).ovf = false ∧ (s.dirEntry h f.line).shr = [] :=
  ⟨homeState [] { slice := [(lineKey 9 5, lineA)] } {}, 9, reqA, by decide +kernel⟩
/-- The hypotheses of clause 8 of HomeWritesComplete are met together. -/
theorem witness_HomeWritesComplete_8 : ∃ (s : State) (h : Nat) (f : Flit) (x : SliceLine), s.admits h f = true ∧ (s.dirEntry h f.line).st = 0 ∧ (s.dirEntry h f.line).ovf = false ∧ (s.dirEntry h f.line).shr = [] ∧ s.slice h f.line = some x ∧ f.poison = false :=
  ⟨homeState [] { slice := [(lineKey 3 5, lineA)] } {}, 3, reqA, lineA, by decide +kernel⟩
/-- The hypotheses of clause 9 of HomeWritesComplete are met together. -/
theorem witness_HomeWritesComplete_9 : ∃ (s : State) (h : Nat) (f : Flit), s.admits h f = true ∧ (s.dirEntry h f.line).st = 0 ∧ (s.dirEntry h f.line).ovf = false ∧ (s.dirEntry h f.line).shr = [] :=
  ⟨homeState [] { slice := [(lineKey 3 5, lineA)] } {}, 3, reqA, by decide +kernel⟩
/-- The hypotheses of clause 10 of HomeWritesComplete are met together. -/
theorem witness_HomeWritesComplete_10 : ∃ (s : State) (h : Nat) (f : Flit) (x : SliceLine), h < 224 ∧ s.busy h f.line = false ∧ s.slice h f.line = some x ∧ x.win = true :=
  ⟨homeState [] { slice := [(lineKey 3 5, { lineA with win := true, rrpv := 0 })] } {}, 3, reqA, { lineA with win := true, rrpv := 0 }, by decide +kernel⟩
/-- The hypotheses of clause 1 of HomeAnswersComplete are met together. -/
theorem witness_HomeAnswersComplete_1 : ∃ (s : State) (h : Nat) (o : Nat) (f : Flit) (x : Tx) (r : List Nat), h < 224 ∧ f.line < 2 ^ 42 ∧ s.quietAt h f.line = true ∧ s.txOf h f.line = some x ∧ x.waits = f.src :: o :: r :=
  ⟨homeState [] {} { tx := [(lineKey 3 5, { req := reqA, waits := [7, 8] })] }, 3, 8, reqA, { req := reqA, waits := [7, 8] }, [], by decide +kernel⟩
/-- The hypotheses of clause 2 of HomeAnswersComplete are met together. -/
theorem witness_HomeAnswersComplete_2 : ∃ (s : State) (h : Nat) (f : Flit) (x : Tx), h < 224 ∧ f.line < 2 ^ 42 ∧ s.quietAt h f.line = true ∧ s.txOf h f.line = some x ∧ x.req.cls = clsREQ ∧ x.req.opcode = opRdShared ∧ x.waits = [f.src] ∧ x.own = opSnpShared ∧ (x.mem || x.memWr || x.ack || x.wb || x.rel) = false ∧ x.victim = none ∧ s.dirEntry h f.line = { st := 2, owner := f.src, way := (s.dirEntry h f.line).way } ∧ x.req.req < 224 ∧ x.req.req ≠ f.src ∧ 2048 ≤ f.txn :=
  ⟨homeState [] {} { dir := [(lineKey 3 5, { st := 2, owner := 9 })], tx := [(lineKey 3 5, { req := reqA, waits := [9], own := 1 })] }, 3, { reqA with src := 9, txn := 2048 }, { req := reqA, waits := [9], own := 1 }, by decide +kernel⟩
/-- The hypotheses of clause 3 of HomeAnswersComplete are met together. -/
theorem witness_HomeAnswersComplete_3 : ∃ (s : State) (h : Nat) (o : Nat) (f : Flit) (x : Tx) (r : List Nat), h < 224 ∧ f.line < 2 ^ 42 ∧ s.quietAt h f.line = true ∧ s.txOf h f.line = some x ∧ x.waits = f.src :: o :: r ∧ s.fromOwner h f x = false :=
  ⟨homeState [] {} { tx := [(lineKey 3 5, { req := reqA, waits := [7, 8] })] }, 3, 8, reqA, { req := reqA, waits := [7, 8] }, [], by decide +kernel⟩
/-- The hypotheses of clause 4 of HomeAnswersComplete are met together. -/
theorem witness_HomeAnswersComplete_4 : ∃ (s : State) (h : Nat) (o : Nat) (f : Flit) (x : Tx) (r : List Nat), h < 224 ∧ f.line < 2 ^ 42 ∧ s.quietAt h f.line = true ∧ s.txOf h f.line = some x ∧ x.waits = f.src :: o :: r :=
  ⟨homeState [] {} { tx := [(lineKey 3 5, { req := reqA, waits := [7, 8] })] }, 3, 8, reqA, { req := reqA, waits := [7, 8] }, [], by decide +kernel⟩
/-- The hypotheses of clause 5 of HomeAnswersComplete are met together. -/
theorem witness_HomeAnswersComplete_5 : ∃ (s : State) (h : Nat) (f : Flit) (x : Tx), h < 224 ∧ f.line < 2 ^ 42 ∧ s.quietAt h f.line = true ∧ s.txOf h f.line = some x ∧ x.ack = true ∧ x.req.req = f.req ∧ x.later = [] ∧ Tab.find s.cache.mapMove (mapIndex f.line) = none :=
  ⟨homeState [] {} { tx := [(lineKey 3 5, { req := reqA, ack := true })] }, 3, reqA, { req := reqA, ack := true }, by decide +kernel⟩
/-- The hypotheses of clause 6 of HomeAnswersComplete are met together. -/
theorem witness_HomeAnswersComplete_6 : ∃ (s : State) (h : Nat) (f : Flit) (x : Tx) (y : SliceLine), h < 224 ∧ f.line < 2 ^ 42 ∧ s.quietAt h f.line = true ∧ s.txOf h f.line = some x ∧ x.req.cls = clsREQ ∧ x.req.opcode = opEvictDirty ∧ x.req.req = f.req ∧ x.req.line = f.line ∧ f.req < 224 ∧ x.wb = true ∧ x.waits = [] ∧ (x.mem || x.memWr || x.ack || x.rel) = false ∧ x.victim = none ∧ x.later = [] ∧ Tab.find s.cache.mapMove (mapIndex f.line) = none ∧ s.dirEntry h f.line = { st := 2, owner := f.req, sdirty := (s.dirEntry h f.line).sdirty, way := (s.dirEntry h f.line).way } ∧ s.slice h f.line = some y :=
  ⟨homeState [] { slice := [(lineKey 3 5, lineA)] } { dir := [(lineKey 3 5, { st := 2, owner := 7 })], tx := [(lineKey 3 5, { req := { reqA with opcode := 8 }, wb := true })] }, 3, reqA, { req := { reqA with opcode := 8 }, wb := true }, lineA, by decide +kernel⟩
/-- The hypotheses of clause 7 of HomeAnswersComplete are met together. -/
theorem witness_HomeAnswersComplete_7 : ∃ (s : State) (h : Nat) (c : Nat) (a : Nat) (f : Flit) (x : Tx), h < 224 ∧ f.line < 2 ^ 42 ∧ s.quietAt h f.line = true ∧ s.txOf h f.line = some x ∧ x.rel = true ∧ x.req.cls = clsREQ ∧ x.req.opcode = opRdShared ∧ x.req.line = f.line ∧ x.req.req < 224 ∧ s.dirEntry h f.line = {} ∧ s.dirVictim h f.line = none ∧ s.slice h f.line = none ∧ s.channelOf (f.line * 64) = some (c, a) ∧ Tab.getD s.cache.tagsUsed h 0 < s.get (LLC_STAT h) LLC_STAT_MEM_TAGS :=
  ⟨homeState [] {} { tx := [(lineKey 3 5, { req := reqA, rel := true })] }, 3, 0, 320, reqA, { req := reqA, rel := true }, by decide +kernel⟩
/-- The hypotheses of clause 8 of HomeAnswersComplete are met together. -/
theorem witness_HomeAnswersComplete_8 : ∃ (s : State) (h : Nat) (f : Flit) (x : Tx), h < 224 ∧ f.line < 2 ^ 42 ∧ s.quietAt h f.line = true ∧ s.responder f.src = false ∧ s.txOf h f.line = some x ∧ x.mem = true ∧ x.acc = false ∧ x.waits = [] ∧ (x.memWr || x.ack || x.wb || x.rel || x.fwd) = false ∧ x.victim = none ∧ x.req.cls = clsREQ ∧ x.req.opcode = opRdShared ∧ x.req.req < 224 ∧ s.dirEntry h f.line = {} :=
  ⟨homeState [] {} { tx := [(lineKey 3 5, { req := reqA, mem := true })] }, 3, { reqA with src := 16, data := 6 }, { req := reqA, mem := true }, by decide +kernel⟩
/-- The hypotheses of clause 9 of HomeAnswersComplete are met together. -/
theorem witness_HomeAnswersComplete_9 : ∃ (s : State) (h : Nat) (k : Ticket), h < 224 ∧ (s.ticketsOf h).find? (fun u => !u.granted && !s.busy h u.line && !(s.ticketsOf h).any fun v => v.granted && v.line == u.line) = some k :=
  ⟨homeState [] {} { tickets := [(3, [{ req := 7, line := 5, flit := reqA }])] }, 3, { req := 7, line := 5, flit := reqA }, by decide +kernel⟩
/-- The hypotheses of clause 10 of HomeAnswersComplete are met together. -/
theorem witness_HomeAnswersComplete_10 : ∃ (s : State) (h : Nat) (r : Nat) (k : Ticket), h < 224 ∧ (s.ticketsOf h).find? (fun u => u.granted && u.req == r) = some k :=
  ⟨homeState [] {} { tickets := [(3, [{ req := 7, line := 5, flit := reqA, granted := true }])] }, 3, 7, { req := 7, line := 5, flit := reqA, granted := true }, by decide +kernel⟩
/-- The hypotheses of clause 11 of HomeAnswersComplete are met together. -/
theorem witness_HomeAnswersComplete_11 : ∃ (s : State) (h : Nat) (line : Nat) (n : Nat) (x : Tx) (r : List Nat), h < 224 ∧ n < 252 ∧ s.txOf h line = some x ∧ x.waits = n :: r :=
  ⟨homeState [] {} { tx := [(lineKey 3 5, { req := reqA, waits := [9] })] }, 3, 5, 9, { req := reqA, waits := [9] }, [], by decide +kernel⟩
/-- The hypotheses of clause 1 of SnoopsComplete are met together. -/
theorem witness_SnoopsComplete_1 : ∃ (s : State) (n : Nat) (f : Flit) (x : L2Line), let dirty := x.st == .m || x.st == .o; s.l2 n f.line = some x :=
  ⟨homeState [] { l2 := [(lineKey 3 5, { st := .m, data := 4 })] } {}, 3, reqA, { st := .m, data := 4 }, by decide +kernel⟩
/-- The hypotheses of clause 2 of SnoopsComplete are met together. -/
theorem witness_SnoopsComplete_2 : ∃ (s : State) (n : Nat) (f : Flit) (x : L2Line), let dirty := x.st == .m || x.st == .o; s.l2 n f.line = some x :=
  ⟨homeState [] { l2 := [(lineKey 3 5, { st := .m, data := 4 })] } {}, 3, reqA, { st := .m, data := 4 }, by decide +kernel⟩
/-- The hypotheses of clause 3 of SnoopsComplete are met together. -/
theorem witness_SnoopsComplete_3 : ∃ (s : State) (n : Nat) (f : Flit) (b : EvBuf), s.l2 n f.line = none ∧ Tab.find s.coh.evbuf (lineKey n f.line) = some b ∧ b.stale = false ∧ b.dirty = true :=
  ⟨homeState [] {} { evbuf := [(lineKey 3 5, { data := 4, dirty := true })] }, 3, reqA, { data := 4, dirty := true }, by decide +kernel⟩
/-- The hypotheses of clause 4 of SnoopsComplete are met together. -/
theorem witness_SnoopsComplete_4 : ∃ (s : State) (n : Nat) (f : Flit) (x : L2Line), s.l2 n f.line = some x :=
  ⟨homeState [] { l2 := [(lineKey 3 5, { st := .s, data := 4 })] } {}, 3, reqA, { st := .s, data := 4 }, by decide +kernel⟩
/-- The hypotheses of clause 5 of SnoopsComplete are met together. -/
theorem witness_SnoopsComplete_5 : ∃ (s : State) (n : Nat) (f : Flit) (b : EvBuf), s.l2 n f.line = none ∧ Tab.find s.coh.evbuf (lineKey n f.line) = some b ∧ b.dirty = false :=
  ⟨homeState [] {} { evbuf := [(lineKey 3 5, { data := 4 })] }, 3, reqA, { data := 4 }, by decide +kernel⟩
/-- The hypotheses of clause 6 of SnoopsComplete are met together. -/
theorem witness_SnoopsComplete_6 : ∃ (s : State) (n : Nat) (f : Flit) (x : L2Line), s.l2 n f.line = some x :=
  ⟨homeState [] { l2 := [(lineKey 3 5, { st := .o, data := 4 })] } {}, 3, reqA, { st := .o, data := 4 }, by decide +kernel⟩
/-- The hypotheses of clause 7 of SnoopsComplete are met together. -/
theorem witness_SnoopsComplete_7 : ∃ (s : State) (n : Nat) (f : Flit) (x : L2Line), s.l2 n f.line = some x :=
  ⟨homeState [] { l2 := [(lineKey 3 5, { st := .o, data := 4 })] } {}, 3, reqA, { st := .o, data := 4 }, by decide +kernel⟩
/-- The hypotheses of clause 8 of SnoopsComplete are met together. -/
theorem witness_SnoopsComplete_8 : ∃ (s : State) (n : Nat) (f : Flit) (x : L2Line), s.l2 n f.line = some x :=
  ⟨homeState [] { l2 := [(lineKey 3 5, { st := .o, data := 4 })] } {}, 3, reqA, { st := .o, data := 4 }, by decide +kernel⟩
/-- The hypotheses of clause 1 of RequesterComplete are met together. -/
theorem witness_RequesterComplete_1 : ∃ (s : State) (n : Nat) (f : Flit) (q : ReqOut), s.reqFor f = some q ∧ reqNode q.req = n ∧ s.coh.earlyGrant.any (fun g => g.1 == q.req && g.2.1 == q.home && g.2.2.1 == q.flit.line) = false :=
  ⟨homeState [] {} { reqs := [reqQ] }, 7, reqA, reqQ, by decide +kernel⟩
/-- The hypotheses of clause 2 of RequesterComplete are met together. -/
theorem witness_RequesterComplete_2 : ∃ (s : State) (n : Nat) (f : Flit) (q : ReqOut), s.reqFor f = some q ∧ reqNode q.req = n ∧ s.coh.reqs.any (fun x => !x.same q && x.req == q.req && x.home == q.home && x.nacked && x.holder) = true :=
  ⟨homeState [] {} { reqs := [reqQ, { reqQ with flit := { reqA with line := 6 }, nacked := true, holder := true }] }, 7, reqA, reqQ, by decide +kernel⟩
/-- The hypotheses of clause 3 of RequesterComplete are met together. -/
theorem witness_RequesterComplete_3 : ∃ (s : State) (n : Nat) (f : Flit) (q : ReqOut), s.reqFor f = some q ∧ reqNode q.req = n ∧ q.nacked = true ∧ q.holder = true :=
  ⟨homeState [] {} { reqs := [{ reqQ with nacked := true, holder := true }] }, 7, reqA, { reqQ with nacked := true, holder := true }, by decide +kernel⟩
/-- The hypotheses of clause 4 of RequesterComplete are met together. -/
theorem witness_RequesterComplete_4 : ∃ (s : State) (n : Nat) (f : Flit) (q : ReqOut), nodeKind f.src ≠ 1 ∧ s.reqFor f = some q ∧ reqNode q.req = n ∧ q.why = .evict :=
  ⟨homeState [] {} { reqs := [{ reqQ with why := .evict }], evbuf := [(lineKey 7 5, { data := 4 })] }, 7, { reqA with src := 3 }, { reqQ with why := .evict }, by decide +kernel⟩
/-- The hypotheses of clause 5 of RequesterComplete are met together. -/
theorem witness_RequesterComplete_5 : ∃ (s : State) (n : Nat) (f : Flit) (q : ReqOut), let home := s.homeOf q.flit.line; s.reqFor f = some q ∧ reqNode q.req = n ∧ q.retried = false :=
  ⟨homeState [] {} { reqs := [reqQ] }, 7, reqA, reqQ, by decide +kernel⟩
/-- The hypotheses of clause 6 of RequesterComplete are met together. -/
theorem witness_RequesterComplete_6 : ∃ (s : State) (n : Nat) (f : Flit) (q : ReqOut) (b : EvBuf), s.reqFor f = some q ∧ reqNode q.req = n ∧ Tab.find s.coh.evbuf (lineKey n q.flit.line) = some b :=
  ⟨homeState [] {} { reqs := [{ reqQ with why := .evict }], evbuf := [(lineKey 7 5, { data := 4, dirty := true })] }, 7, reqA, { reqQ with why := .evict }, { data := 4, dirty := true }, by decide +kernel⟩
/-- The hypotheses of clause 7 of RequesterComplete are met together. -/
theorem witness_RequesterComplete_7 : ∃ (s : State) (n : Nat) (f : Flit) (q : ReqOut), n < 224 ∧ f.line < 2 ^ 42 ∧ s.reqFor f = some q ∧ reqNode q.req = n ∧ q.why = .load ∧ q.flit.opcode = opRdShared :=
  ⟨homeState [] {} { reqs := [reqQ] }, 7, reqA, reqQ, by decide +kernel⟩
/-- The hypotheses of clause 8 of RequesterComplete are met together. -/
theorem witness_RequesterComplete_8 : ∃ (s : State) (n : Nat) (f : Flit) (q : ReqOut), n < 224 ∧ f.line < 2 ^ 42 ∧ s.reqFor f = some q ∧ reqNode q.req = n :=
  ⟨homeState [] {} { reqs := [reqQ] }, 7, reqA, reqQ, by decide +kernel⟩
/-- The hypotheses of clause 9 of RequesterComplete are met together. -/
theorem witness_RequesterComplete_9 : ∃ (s : State) (n : Nat) (f : Flit) (q : ReqOut), n < 224 ∧ f.line < 2 ^ 42 ∧ s.reqFor f = some q ∧ reqNode q.req = n :=
  ⟨homeState [] {} { reqs := [reqQ] }, 7, reqA, reqQ, by decide +kernel⟩
/-- The hypotheses of clause 10 of RequesterComplete are met together. -/
theorem witness_RequesterComplete_10 : ∃ (s : State) (n : Nat) (f : Flit) (q : ReqOut), n < 224 ∧ f.line < 2 ^ 42 ∧ s.reqFor f = some q ∧ reqNode q.req = n :=
  ⟨homeState [] {} { reqs := [reqQ] }, 7, reqA, reqQ, by decide +kernel⟩
/-- The hypotheses of clause 11 of RequesterComplete are met together. -/
theorem witness_RequesterComplete_11 : ∃ (s : State) (n : Nat) (h : Nat) (f : Flit) (q : ReqOut), s.reqFor f = some q ∧ reqNode q.req = n ∧ q.why = .batten ∧ s.nodeHart n = some h :=
  ⟨{ homeState [(MESH_NODE_INFO 7, 2 ^ 25)] {} { reqs := [{ reqQ with why := .batten }] } with core := { hart := [(0, {})] } }, 7, 0, reqA, { reqQ with why := .batten }, by decide +kernel⟩
/-- The hypotheses of clause 12 of RequesterComplete are met together. -/
theorem witness_RequesterComplete_12 : ∃ (s : State) (n : Nat) (h : Nat) (f : Flit) (q : ReqOut), s.reqFor f = some q ∧ reqNode q.req = n ∧ q.why = .batten ∧ s.nodeHart n = some h :=
  ⟨{ homeState [(MESH_NODE_INFO 7, 2 ^ 25)] {} { reqs := [{ reqQ with why := .batten }] } with core := { hart := [(0, { btnOut := 2 })] } }, 7, 0, reqA, { reqQ with why := .batten }, by decide +kernel⟩
/-- The hypotheses of clause 13 of RequesterComplete are met together. -/
theorem witness_RequesterComplete_13 : ∃ (s : State) (r : Nat) (l : Nat) (q : ReqOut), reqNode r < 224 ∧ s.coh.reqs.find? (fun x => x.req == r && x.flit.line == l && x.nacked && x.holder) = some q :=
  ⟨homeState [] {} { reqs := [{ reqQ with nacked := true, holder := true }] }, 7, 5, { reqQ with nacked := true, holder := true }, by decide +kernel⟩
/-- The hypotheses of clause 14 of RequesterComplete are met together. -/
theorem witness_RequesterComplete_14 : ∃ (s : State) (r : Nat) (l : Nat) (q : ReqOut), s.coh.reqs.find? (fun x => x.req == r && x.flit.line == l && !x.nacked) = some q :=
  ⟨homeState [] {} { reqs := [reqQ] }, 7, 5, reqQ, by decide +kernel⟩
/-- The hypotheses of clause 1 of BattenCommandsComplete are met together. -/
theorem witness_BattenCommandsComplete_1 : ∃ (s : State) (i : Ins) (rd : Nat) (rs1 : Nat) (rs2 : Nat) (rs3 : Nat) (pd : Nat) (ps : Nat) (y : L2Line), let u := s.fetched i; let h := i.hart; let k := (u.hart h).btnOut + 1; s.ready i = true ∧ (u.hart h).det = false ∧ ((u.hart h).rx rs1).toNat % 64 = 0 ∧ ((u.hart h).rx rs2).toNat % 64 = 0 ∧ ((u.hart h).rx rs3).toNat % 256 ≠ 0 ∧ (u.hart h).btnOut < 32 ∧ (u.hart h).sq.any (fun q => q.hits (ps / 64 * 64) 64) = false ∧ (u.reach h ((u.hart h).dataAcc 1 0) ((u.hart h).rx rs1).toNat 64 [.dram]).toOption.map (·.1.pa) = some pd ∧ (u.reach h ((u.hart h).dataAcc 0 0) ((u.hart h).rx rs2).toNat 64 [.dram]).toOption.map (·.1.pa) = some ps ∧ u.l2 (u.nodeOf h) (ps / 64) = some y :=
  ⟨hartState { x := xRegs [(1, 640), (2, 320), (3, 29)] } [], insA, 4, 1, 2, 3, 640, 320, { st := .e, data := 3, l1i := some 0, rrpv := 0 }, by decide +kernel⟩
/-- The hypotheses of clause 2 of BattenCommandsComplete are met together. -/
theorem witness_BattenCommandsComplete_2 : ∃ (s : State) (i : Ins) (rd : Nat) (rs1 : Nat) (rs2 : Nat) (rs3 : Nat) (pd : Nat) (ps : Nat), let u := s.fetched i; let h := i.hart; s.ready i = true ∧ (u.hart h).det = false ∧ ((u.hart h).rx rs1).toNat % 64 = 0 ∧ ((u.hart h).rx rs2).toNat % 64 = 0 ∧ ((u.hart h).rx rs3).toNat % 256 = 0 ∧ (u.reach h ((u.hart h).dataAcc 1 0) ((u.hart h).rx rs1).toNat 64 [.dram]).toOption.map (·.1.pa) = some pd ∧ (u.reach h ((u.hart h).dataAcc 0 0) ((u.hart h).rx rs2).toNat 64 [.dram]).toOption.map (·.1.pa) = some ps :=
  ⟨hartState { x := xRegs [(1, 640), (2, 320)] } [], insA, 4, 1, 2, 3, 640, 320, by decide +kernel⟩
/-- The hypotheses of clause 3 of BattenCommandsComplete are met together. -/
theorem witness_BattenCommandsComplete_3 : ∃ (s : State) (i : Ins) (rd : Nat) (rs1 : Nat) (rs2 : Nat) (pd : Nat) (ps : Nat) (y : L2Line), let u := s.fetched i; let h := i.hart; let k := (u.hart h).btnOut + 1; s.ready i = true ∧ (u.hart h).det = false ∧ ((u.hart h).rx rs1).toNat % 64 = 0 ∧ ((u.hart h).rx rs2).toNat % 64 = 0 ∧ (u.hart h).btnOut < 32 ∧ (u.hart h).sq.any (fun q => q.hits (ps / 64 * 64) 64) = false ∧ (u.reach h ((u.hart h).dataAcc 1 0) ((u.hart h).rx rs1).toNat 64 [.dram]).toOption.map (·.1.pa) = some pd ∧ (u.reach h ((u.hart h).dataAcc 0 0) ((u.hart h).rx rs2).toNat 64 [.dram]).toOption.map (·.1.pa) = some ps ∧ u.l2 (u.nodeOf h) (ps / 64) = some y :=
  ⟨hartState { x := xRegs [(1, 640), (2, 320)] } [], insA, 4, 1, 2, 640, 320, { st := .e, data := 3, l1i := some 0, rrpv := 0 }, by decide +kernel⟩
/-- The hypotheses of clause 4 of BattenCommandsComplete are met together. -/
theorem witness_BattenCommandsComplete_4 : ∃ (s : State) (i : Ins) (rd : Nat), let u := s.fetched i; s.ready i = true ∧ (u.hart i.hart).det = false ∧ (u.hart i.hart).btnOut = 0 :=
  ⟨hartState { btnFail := 2 } [], insA, 4, by decide +kernel⟩
/-- The hypotheses of clause 5 of BattenCommandsComplete are met together. -/
theorem witness_BattenCommandsComplete_5 : ∃ (s : State) (i : Ins) (rd : Nat) (rs1 : Nat) (rs2 : Nat), let u := s.fetched i; let w := ((u.hart i.hart).rx rs1).toNat % 4096; let d := ((u.hart i.hart).rx rs2).toNat; let y := u.readDesc d; s.ready i = true ∧ winPriv (u.hart i.hart) = true ∧ d % 64 = 0 ∧ u.openStatus w d (u.hart i.hart).world = stOK ∧ y.ents.flatten.any (fun e => entUsed e && entZero e) = false :=
  ⟨{ hartState { x := xRegs [(1, 37), (2, 64)] } [(SEL_FUNCWORLD 0, 1)] with mem := [(64, 1), (66, 1)] }, insA, 4, 1, 2, by decide +kernel⟩
/-- The hypotheses of clause 6 of BattenCommandsComplete are met together. -/
theorem witness_BattenCommandsComplete_6 : ∃ (s : State) (i : Ins) (rd : Nat) (rs1 : Nat) (rs2 : Nat), let u := s.fetched i; let w := ((u.hart i.hart).rx rs1).toNat % 4096; let d := ((u.hart i.hart).rx rs2).toNat; s.ready i = true ∧ winPriv (u.hart i.hart) = true ∧ d % 64 = 0 ∧ u.openStatus w d (u.hart i.hart).world ≠ stOK :=
  ⟨hartState { x := xRegs [(1, 37), (2, 64)] } [(BTN_WIN_STATE 37, 2)], insA, 4, 1, 2, by decide +kernel⟩
/-- The hypotheses of clause 7 of BattenCommandsComplete are met together. -/
theorem witness_BattenCommandsComplete_7 : ∃ (s : State) (i : Ins) (rd : Nat) (rs1 : Nat), let u := s.fetched i; let w := ((u.hart i.hart).rx rs1).toNat % 4096; s.ready i = true ∧ winPriv (u.hart i.hart) = true ∧ u.closeStatus w (u.hart i.hart).world = stACCEPTED :=
  ⟨hartState { x := xRegs [(1, 37)] } [(BTN_WIN_STATE 37, 2 + 4)], insA, 4, 1, by decide +kernel⟩
/-- The hypotheses of clause 8 of BattenCommandsComplete are met together. -/
theorem witness_BattenCommandsComplete_8 : ∃ (s : State) (i : Ins) (rd : Nat) (rs1 : Nat), let u := s.fetched i; let w := ((u.hart i.hart).rx rs1).toNat % 4096; s.ready i = true ∧ winPriv (u.hart i.hart) = true ∧ u.closeStatus w (u.hart i.hart).world = stACCEPTED ∧ ((u.hart i.hart).rx rs1).getLsbD 16 = true :=
  ⟨hartState { x := xRegs [(1, 65573)] } [(BTN_WIN_STATE 37, 2 + 4)], insA, 4, 1, by decide +kernel⟩
/-- The hypotheses of clause 9 of BattenCommandsComplete are met together. -/
theorem witness_BattenCommandsComplete_9 : ∃ (s : State) (w : Nat), let dests := (((s.win w).ents.flatten.filter fun e => entUsed e && !entCopy e).map entDest).eraseDups; w < 4096 ∧ s.wstate w = 3 ∧ (s.win w).phase = 1 ∧ (s.win w).outstanding = 0 :=
  ⟨{ homeState [(BTN_WIN_STATE 37, 3)] {} {} with btn := { win := [(37, { npos := 1, lines := 2, expect := 1, ents := [[640 + 2 ^ 48]], phase := 1 })] } }, 37, by decide +kernel⟩
/-- The hypotheses of clause 10 of BattenCommandsComplete are met together. -/
theorem witness_BattenCommandsComplete_10 : ∃ (s : State) (w : Nat), w < 4096 ∧ s.wstate w = 3 ∧ (s.win w).phase = 2 ∧ (s.win w).releases = 0 :=
  ⟨{ homeState [(BTN_WIN_STATE 37, 3)] {} {} with btn := { win := [(37, { npos := 1, lines := 2, notice := 640, phase := 2 })] } }, 37, by decide +kernel⟩
/-- The hypotheses of clause 11 of BattenCommandsComplete are met together. -/
theorem witness_BattenCommandsComplete_11 : ∃ (s : State) (w : Nat) (ok : Bool), w < 4096 ∧ s.wstate w = 3 ∧ (s.win w).phase = 3 ∧ (s.win w).noticeRes = some ok :=
  ⟨{ homeState [(BTN_WIN_STATE 37, 3)] {} {} with btn := { win := [(37, { npos := 1, lines := 2, seen := 3, phase := 3, noticeRes := some true })] } }, 37, true, by decide +kernel⟩
/-- The hypotheses of clause 1 of FunctionCardsComplete are met together. -/
theorem witness_FunctionCardsComplete_1 : ∃ (s : State) (c : CardCtx) (f : Nat) (nq : Nat) (nv : Nat) (maxIn : Nat) (ctx : Nat) (ptRoot : Nat) (ext : Nat) (ts : List Nat), let u := s.taken c 0x0401; s.cardOk c 0x0401 false (funcOwner f) = true ∧ f ≤ 8192 ∧ u.opOpen [0x0402, 0x0404, 0x0405] f = false ∧ u.fstate f = 0 ∧ u.createFail f nq nv maxIn ctx ptRoot ext 0x30 ts = none ∧ u.poolFail nq nv ext = none :=
  ⟨fnState 0 [] {} [], kCard, 9, 1, 1, 0, 512, 4096, 8192, [65536], by decide +kernel⟩
/-- The hypotheses of clause 2 of FunctionCardsComplete are met together. -/
theorem witness_FunctionCardsComplete_2 : ∃ (s : State) (c : CardCtx) (f : Nat) (ms : Nat), let u := s.taken c 0x0402; s.cardOk c 0x0402 false (funcOwner f) = true ∧ f ≤ 8192 ∧ u.opOpen [0x0402, 0x0404, 0x0405] f = false ∧ (u.fstate f = 1 ∨ u.fstate f = 2) ∧ ms ≤ 10000 ∧ u.slotFree false = true :=
  ⟨fnState 1 [] {} [], kCard, 9, 5, by decide +kernel⟩
/-- The hypotheses of clause 3 of FunctionCardsComplete are met together. -/
theorem witness_FunctionCardsComplete_3 : ∃ (s : State) (c : CardCtx) (f : Nat) (ms : Nat), let u := s.taken c 0x0402; s.cardOk c 0x0402 false (funcOwner f) = true ∧ f ≤ 8192 ∧ u.opOpen [0x0402, 0x0404, 0x0405] f = false ∧ (u.fstate f = 1 ∨ u.fstate f = 2) ∧ ms ≤ 10000 ∧ u.slotFree false = true ∧ u.fnReqs f = [] :=
  ⟨fnState 1 [] {} [], kCard, 9, 5, by decide +kernel⟩
/-- The hypotheses of clause 4 of FunctionCardsComplete are met together. -/
theorem witness_FunctionCardsComplete_4 : ∃ (s : State) (f : Nat) (o : OpenOp), f ≤ 8192 ∧ s.fstate f = 2 ∧ s.fnReqs f = [] ∧ s.findOp 0x0402 f = some o :=
  ⟨fnState 2 [] {} [⟨kCard, 0x0402, 9, 0, false⟩], 9, ⟨kCard, 0x0402, 9, 0, false⟩, by decide +kernel⟩
/-- The hypotheses of clause 5 of FunctionCardsComplete are met together. -/
theorem witness_FunctionCardsComplete_5 : ∃ (s : State) (f : Nat) (o : OpenOp), f ≤ 8192 ∧ s.fstate f = 2 ∧ s.fnReqs f ≠ [] ∧ s.findOp 0x0402 f = some o :=
  ⟨fnState 2 [] { req := [(0, { f := 9, q := 0, ent := 1 })] } [⟨kCard, 0x0402, 9, 0, false⟩], 9, ⟨kCard, 0x0402, 9, 0, false⟩, by decide +kernel⟩
/-- The hypotheses of clause 6 of FunctionCardsComplete are met together. -/
theorem witness_FunctionCardsComplete_6 : ∃ (s : State) (c : CardCtx) (f : Nat), let u := s.taken c 0x0403; s.cardOk c 0x0403 false (funcOwner f) = true ∧ f ≤ 8192 ∧ u.opOpen [0x0402, 0x0404, 0x0405] f = false ∧ u.fstate f = 3 ∧ u.windowOpen f = false :=
  ⟨fnState 3 [] {} [], kCard, 9, by decide +kernel⟩
/-- The hypotheses of clause 7 of FunctionCardsComplete are met together. -/
theorem witness_FunctionCardsComplete_7 : ∃ (s : State) (c : CardCtx) (f : Nat) (blob : Nat), let u := s.taken c 0x0404; s.cardOk c 0x0404 false (funcOwner f) = true ∧ f ≤ 8192 ∧ u.opOpen [0x0402, 0x0404, 0x0405] f = false ∧ u.fstate f = 4 ∧ blob % 64 = 0 ∧ u.dramOf (u.funcWorld f) blob (4096 + 64 * u.fnNq f) = true ∧ u.slotFree false = true ∧ c.via ≠ .ring true ∧ c.via ≠ .ring false :=
  ⟨fnState 4 [] {} [], kCard, 9, 16384, by decide +kernel⟩
/-- The hypotheses of clause 8 of FunctionCardsComplete are met together. -/
theorem witness_FunctionCardsComplete_8 : ∃ (s : State) (c : CardCtx) (f : Nat) (nv : Nat) (ctx : Nat) (ptRoot : Nat) (ext : Nat) (blob : Nat) (ts : List Nat), let u := s.taken c 0x0405; s.cardOk c 0x0405 false (funcOwner f) = true ∧ f ≤ 8192 ∧ u.opOpen [0x0402, 0x0404, 0x0405] f = false ∧ u.fstate f = 0 ∧ u.restoreFail f nv ctx ptRoot ext blob ts = none ∧ u.slotFree false = true :=
  ⟨{ fnState 0 [] {} [] with mem := blobMem }, kCard, 9, 1, 512, 4096, 8192, 65536, [65536], by decide +kernel⟩
/-- The hypotheses of clause 9 of FunctionCardsComplete are met together. -/
theorem witness_FunctionCardsComplete_9 : ∃ (s : State) (c : CardCtx) (f : Nat), let u := s.taken c 0x0406; s.cardOk c 0x0406 false (funcOwner f) = true ∧ f ≤ 8192 ∧ u.opOpen [0x0402, 0x0404, 0x0405] f = false ∧ (u.fstate f = 3 ∨ u.fstate f = 4) :=
  ⟨fnState 4 [] {} [], kCard, 9, by decide +kernel⟩
/-- The hypotheses of clause 10 of FunctionCardsComplete are met together. -/
theorem witness_FunctionCardsComplete_10 : ∃ (s : State) (c : CardCtx) (f : Nat), let u := s.taken c 0x0407; s.cardOk c 0x0407 false (funcOwner f) = true ∧ f ≤ 8192 ∧ u.opOpen [0x0402, 0x0404, 0x0405] f = false ∧ (u.fstate f = 3 ∨ u.fstate f = 4) ∧ u.windowOpen f = false ∧ (f ≠ 0 ∨ u.loom.fn.any (fun p => p.1 != 0 && !u.funcWorld p.1) = false) :=
  ⟨fnState 3 [] { fn := [(9, {})] } [], kCard, 9, by decide +kernel⟩
/-- The hypotheses of clause 11 of FunctionCardsComplete are met together. -/
theorem witness_FunctionCardsComplete_11 : ∃ (s : State) (c : CardCtx) (f : Nat), let u := s.taken c 0x0408; s.cardOk c 0x0408 false (funcOwner f) = true ∧ f ≤ 8192 ∧ u.opOpen [0x0402, 0x0404, 0x0405] f = false ∧ (u.fstate f = 3 ∨ u.fstate f = 4) ∧ u.fnNq f ≤ 256 ∧ u.windowOpen f = false :=
  ⟨fnState 3 [(LOOM_QCTL 9 0, 5)] { fn := [(9, {})] } [], kCard, 9, by decide +kernel⟩
/-- The hypotheses of clause 1 of LoomQueuesComplete are met together. -/
theorem witness_LoomQueuesComplete_1 : ∃ (s : State) (f : Nat) (q : Nat) (v : W64), f ≤ 8192 ∧ (s.fstate f = 1 ∨ s.fstate f = 2 ∨ s.fstate f = 3) ∧ q < s.fnNq f ∧ q < 256 ∧ (s.qctl f q LOOM_QCTL_QSTATE ≠ 1 ∨ LOOM_SQ_TAIL_INDEX.get v < 2 ^ s.qctl f q LOOM_QCTL_SQ_LOG) :=
  ⟨fnState 1 [] {} [], 9, 0, 3, by decide +kernel⟩
/-- The hypotheses of clause 2 of LoomQueuesComplete are met together. -/
theorem witness_LoomQueuesComplete_2 : ∃ (s : State) (f : Nat) (q : Nat) (v : W64), f ≤ 8192 ∧ (s.fstate f = 1 ∨ s.fstate f = 2 ∨ s.fstate f = 3) ∧ q < s.fnNq f ∧ q < 256 ∧ s.qctl f q LOOM_QCTL_QSTATE ≠ 1 :=
  ⟨fnState 1 [] {} [], 9, 0, 3, by decide +kernel⟩
/-- The hypotheses of clause 3 of LoomQueuesComplete are met together. -/
theorem witness_LoomQueuesComplete_3 : ∃ (s : State) (f : Nat) (q : Nat) (v : W64), let d := 2 ^ s.qctl f q LOOM_QCTL_CQ_LOG; let i := LOOM_CQ_HEAD_INDEX.get v; f ≤ 8192 ∧ (s.fstate f = 1 ∨ s.fstate f = 2 ∨ s.fstate f = 3) ∧ q < s.fnNq f ∧ q < 256 ∧ s.qctl f q LOOM_QCTL_QSTATE = 1 ∧ i < d ∧ (i + d - s.cqHead f q) % d ≤ ((s.lq f q).ctail + d - s.cqHead f q) % d :=
  ⟨fnState 1 [(LOOM_QCTL 9 0, 1 + 4 + 4 * 16 + 4 * 256)] { fn := [(9, { q := [(0, { ctail := 3 })] })] } [], 9, 0, 2, by decide +kernel⟩
/-- The hypotheses of clause 4 of LoomQueuesComplete are met together. -/
theorem witness_LoomQueuesComplete_4 : ∃ (s : State) (f : Nat) (q : Nat) (v : W64), f ≤ 8192 ∧ s.fstate f ≠ 0 ∧ q < s.fnNq f ∧ q < 256 ∧ s.bit (LOOM_QCTL f q) LOOM_QCTL_EN = false ∧ 4 ≤ LOOM_QCTL_SQ_LOG.get v ∧ LOOM_QCTL_SQ_LOG.get v ≤ 12 ∧ 4 ≤ LOOM_QCTL_CQ_LOG.get v ∧ LOOM_QCTL_CQ_LOG.get v ≤ 12 ∧ LOOM_QCTL_VEC.get v < s.get (LOOM_FSTAT f) LOOM_FSTAT_NV :=
  ⟨fnState 1 [] {} [], 9, 0, 1 + 5 * 16 + 4 * 256, by decide +kernel⟩
/-- The hypotheses of clause 5 of LoomQueuesComplete are met together. -/
theorem witness_LoomQueuesComplete_5 : ∃ (s : State) (f : Nat) (q : Nat) (v : W64), f ≤ 8192 ∧ s.fstate f ≠ 0 ∧ q < s.fnNq f ∧ q < 256 ∧ s.bit (LOOM_QCTL f q) LOOM_QCTL_EN = false ∧ (LOOM_QCTL_SQ_LOG.get v < 4 ∨ 12 < LOOM_QCTL_SQ_LOG.get v ∨ LOOM_QCTL_CQ_LOG.get v < 4 ∨ 12 < LOOM_QCTL_CQ_LOG.get v ∨ s.get (LOOM_FSTAT f) LOOM_FSTAT_NV ≤ LOOM_QCTL_VEC.get v) :=
  ⟨fnState 1 [] {} [], 9, 0, 1 + 3 * 16 + 4 * 256, by decide +kernel⟩
/-- The hypotheses of clause 6 of LoomQueuesComplete are met together. -/
theorem witness_LoomQueuesComplete_6 : ∃ (s : State) (f : Nat) (q : Nat) (v : W64), f ≤ 8192 ∧ s.fstate f ≠ 0 ∧ q < s.fnNq f ∧ q < 256 ∧ s.bit (LOOM_QCTL f q) LOOM_QCTL_EN = true :=
  ⟨fnState 1 [(LOOM_QCTL 9 0, 5)] {} [], 9, 0, 0, by decide +kernel⟩
/-- The hypotheses of clause 7 of LoomQueuesComplete are met together. -/
theorem witness_LoomQueuesComplete_7 : ∃ (s : State) (q : Nat), let a := (s.reg (LOOM_QSQB 0 q)).toNat + 64 * s.qctl 0 q LOOM_QCTL_SQ_HEAD; s.nextFn = some 0 ∧ s.get LOOM_CFG LOOM_CFG_BURST = 1 ∧ s.fnNq 0 ≤ 256 ∧ ((List.range (s.fnNq 0)).map fun i => ((s.fn 0).rr + i) % s.fnNq 0).find? (fun k => s.fetchable 0 k) = some q ∧ a % 64 = 0 ∧ s.dramOf false a 1 = true ∧ s.rdPoison a 64 = false ∧ s.drv.slot.length < 65536 :=
  ⟨{ fnState 0 [(LOOM_CFG, 256), (LOOM_FSTAT 0, 1 + 8 + 256 + 2 ^ 17), (LOOM_QCTL 0 0, 1 + 4 + 4 * 16 + 4 * 256), (LOOM_SQ_TAIL 0 0, 1), (LOOM_QSQB 0 0, 4096)] {} [] with mem := [(4096, 7)] }, 0, by decide +kernel⟩
/-- The hypotheses of clause 8 of LoomQueuesComplete are met together. -/
theorem witness_LoomQueuesComplete_8 : ∃ (s : State) (r : Nat) (x : LoomReq) (st : Nat) (res : Nat) (det : Nat), let a := (s.reg (LOOM_QCQB 0 x.q)).toNat + 16 * (s.lq 0 x.q).ctail; x.q < 256 ∧ Tab.find s.loom.req r = some x ∧ x.f = 0 ∧ x.done = some (st, res, det) ∧ (st ≠ 0 ∨ entQuiet x.ent = false) ∧ s.qctl 0 x.q LOOM_QCTL_QSTATE ≠ 2 ∧ (s.qReqs 0 x.q).all (fun p => p.1 == r) = true ∧ a % 16 = 0 ∧ s.dramOf false a 1 = true :=
  ⟨fnState 0 [(LOOM_FSTAT 0, 1 + 8 + 256 + 2 ^ 17), (LOOM_QCTL 0 0, 1 + 4 + 4 * 16 + 4 * 256), (LOOM_QCQB 0 0, 8192)] { req := [(3, { f := 0, q := 0, ent := 5, done := some (1, 0, 5) })] } [], 3, { f := 0, q := 0, ent := 5, done := some (1, 0, 5) }, 1, 0, 5, by decide +kernel⟩
/-- The hypotheses of clause 9 of LoomQueuesComplete are met together. -/
theorem witness_LoomQueuesComplete_9 : ∃ (s : State) (r : Nat) (x : LoomReq) (res : Nat) (det : Nat), Tab.find s.loom.req r = some x ∧ x.done = some (0, res, det) ∧ entQuiet x.ent = true :=
  ⟨fnState 1 [] { req := [(3, { f := 9, q := 0, ent := 517, done := some (0, 0, 5) })] } [], 3, { f := 9, q := 0, ent := 517, done := some (0, 0, 5) }, 0, 5, by decide +kernel⟩
/-- The hypotheses of clause 10 of LoomQueuesComplete are met together. -/
theorem witness_LoomQueuesComplete_10 : ∃ (s : State) (f : Nat) (q : Nat), f ≤ 8192 ∧ (s.lq f q).unsig ≠ 0 :=
  ⟨fnState 1 [] { fn := [(9, { q := [(0, { unsig := 3 })] })] } [], 9, 0, by decide +kernel⟩
/-- The hypotheses of clause 11 of LoomQueuesComplete are met together. -/
theorem witness_LoomQueuesComplete_11 : ∃ (s : State) (g : Nat), s.loom.hold.head? = some g ∧ g ≤ 8192 ∧ s.get LOOM_STAT LOOM_STAT_RESIDENT < 1024 ∧ s.populated (s.fn g).ctx 512 = true ∧ s.rdPoison (s.fn g).ctx 512 = false :=
  ⟨fnState 1 [] { fn := [(9, {})], hold := [9] } [], 9, by decide +kernel⟩
/-- The hypotheses of clause 12 of LoomQueuesComplete are met together. -/
theorem witness_LoomQueuesComplete_12 : ∃ (s : State) (f : Nat), f ≠ 0 ∧ s.resident f = true ∧ s.loom.hold ≠ [] ∧ (s.fn f).stopped = false :=
  ⟨fnState 9 [] { fn := [(9, {})], hold := [8] } [], 9, by decide +kernel⟩
/-- The hypotheses of clause 1 of PcieComplexEventsComplete are met together. -/
theorem witness_PcieComplexEventsComplete_1 : ∃ (s : State) (p : Nat) (d : Nat), p < 16 ∧ (s.port p).due = some d :=
  ⟨{ drv := { port := [(3, { due := some 5 })] } }, 3, 5, by decide +kernel⟩
/-- The hypotheses of clause 2 of PcieComplexEventsComplete are met together. -/
theorem witness_PcieComplexEventsComplete_2 : ∃ (s : State) (p : Nat) (speed : Nat) (lanes : Nat), p < 16 ∧ s.dbg.stopped = false ∧ (s.port p).perst = false ∧ (s.port p).disabled = false ∧ (s.port p).dpc = false ∧ 1 ≤ speed ∧ speed ≤ 5 :=
  ⟨{ drv := { port := [(3, { perst := false, disabled := false })] } }, 3, 5, 8, by decide +kernel⟩
/-- The hypotheses of clause 3 of PcieComplexEventsComplete are met together. -/
theorem witness_PcieComplexEventsComplete_3 : ∃ (s : State) (p : Nat) (d : Nat), p < 16 ∧ s.dbg.stopped = false ∧ (s.port p).since = some d ∧ s.bit (PE_PORT_STAT p) PE_PORT_STAT_LINK_UP = false ∧ (s.port p).failed = false :=
  ⟨{ drv := { port := [(3, { since := some 5 })] } }, 3, 5, by decide +kernel⟩
/-- The hypotheses of clause 4 of PcieComplexEventsComplete are met together. -/
theorem witness_PcieComplexEventsComplete_4 : ∃ (s : State) (p : Nat) (sub : Nat), p < 16 ∧ s.dbg.stopped = false ∧ s.bit (PE_PORT_STAT p) PE_PORT_STAT_EXPECT_DOWN = false ∧ s.bit (PE_PORT_STAT p) PE_PORT_STAT_LINK_UP = true :=
  ⟨{ regs := regsAt [(PE_PORT_STAT 3, 1), (DQ_CTRL_A 2, 1 + 3 * 256)] }, 3, 1, by decide +kernel⟩
/-- The hypotheses of clause 5 of PcieComplexEventsComplete are met together. -/
theorem witness_PcieComplexEventsComplete_5 : ∃ (s : State) (p : Nat) (sub : Nat) (fatal : Bool) (selected : Bool), p < 16 ∧ s.dbg.stopped = false ∧ s.bit (PE_PORT_STAT p) PE_PORT_STAT_LINK_UP = true ∧ (fatal || selected) = true :=
  ⟨{ regs := regsAt [(PE_PORT_STAT 3, 1)] }, 3, 1, true, false, by decide +kernel⟩
/-- The hypotheses of clause 6 of PcieComplexEventsComplete are met together. -/
theorem witness_PcieComplexEventsComplete_6 : ∃ (s : State) (p : Nat) (sub : Nat), p < 16 ∧ s.dbg.stopped = false ∧ s.bit (PE_PORT_STAT p) PE_PORT_STAT_LINK_UP = true :=
  ⟨{ regs := regsAt [(PE_PORT_STAT 3, 1)] }, 3, 1, by decide +kernel⟩
/-- The hypotheses of clause 7 of PcieComplexEventsComplete are met together. -/
theorem witness_PcieComplexEventsComplete_7 : ∃ (s : State) (p : Nat), p < 16 ∧ (s.port p).dpc = true :=
  ⟨{ drv := { port := [(3, { dpc := true })] } }, 3, by decide +kernel⟩
/-- The hypotheses of clause 8 of PcieComplexEventsComplete are met together. -/
theorem witness_PcieComplexEventsComplete_8 : ∃ (s : State) (p : Nat) (sub : Nat) (lanes : Nat), p < 16 ∧ s.dbg.stopped = false ∧ lanes < Tab.getD (s.port p).lanes sub 0 :=
  ⟨{ drv := { port := [(3, { lanes := [(0, 8)] })] } }, 3, 0, 4, by decide +kernel⟩
/-- The hypotheses of clause 9 of PcieComplexEventsComplete are met together. -/
theorem witness_PcieComplexEventsComplete_9 : ∃ (s : State) (p : Nat), p < 16 ∧ s.dbg.stopped = false ∧ s.bit (PE_PORT_CFG p) PE_PORT_CFG_PTM = true ∧ s.bit (PE_PORT_STAT p) PE_PORT_STAT_LINK_UP = true :=
  ⟨{ regs := regsAt [(PE_PORT_CFG 3, 1 * 2 ^ PE_PORT_CFG_PTM.lo), (PE_PORT_STAT 3, 1)] }, 3, by decide +kernel⟩
/-- The hypotheses of clause 10 of PcieComplexEventsComplete are met together. -/
theorem witness_PcieComplexEventsComplete_10 : ∃ (s : State) (w : Bool) (v : BitVec 64), let f := PE_IOTLB_INV_FUNC.get v; let r := PE_IOTLB_INV (if w then 1 else 0); s.bit r PE_IOTLB_INV_GO = false ∧ 1 ≤ f ∧ f ≤ 8192 ∧ s.funcWorld f = w ∧ s.fstate f ≠ 0 :=
  ⟨roceState [] {} [], false, BitVec.ofNat 64 (9 * 2 ^ PE_IOTLB_INV_FUNC.lo), by decide +kernel⟩
/-- The hypotheses of clause 11 of PcieComplexEventsComplete are met together. -/
theorem witness_PcieComplexEventsComplete_11 : ∃ (s : State) (w : Bool) (v : BitVec 64), let f := PE_IOTLB_INV_FUNC.get v; let r := PE_IOTLB_INV (if w then 1 else 0); s.bit r PE_IOTLB_INV_GO = false ∧ (f = 0 ∨ 8192 < f ∨ s.funcWorld f ≠ w ∨ s.fstate f = 0) :=
  ⟨roceState [] {} [], true, 0, by decide +kernel⟩
/-- The hypotheses of clause 12 of PcieComplexEventsComplete are met together. -/
theorem witness_PcieComplexEventsComplete_12 : ∃ (s : State) (w : Bool) (v : BitVec 64), let f := PE_IOTLB_INV_FUNC.get v; let r := PE_IOTLB_INV (if w then 1 else 0); let page := (s.reg (PE_IOTLB_INV_ADDR (if w then 1 else 0))).toNat; s.bit r PE_IOTLB_INV_GO = false ∧ 1 ≤ f ∧ f ≤ 8192 ∧ s.funcWorld f = w ∧ s.fstate f ≠ 0 :=
  ⟨roceState [] {} [], false, BitVec.ofNat 64 (9 * 2 ^ PE_IOTLB_INV_FUNC.lo), by decide +kernel⟩
/-- The hypotheses of clause 13 of PcieComplexEventsComplete are met together. -/
theorem witness_PcieComplexEventsComplete_13 : ∃ (s : State) (w : Bool), let r := PE_IOTLB_INV (if w then 1 else 0); s.bit r PE_IOTLB_INV_GO = true :=
  ⟨{ regs := regsAt [(PE_IOTLB_INV 1, 2 ^ PE_IOTLB_INV_GO.lo)] }, true, by decide +kernel⟩
/-- The hypotheses of clause 1 of DriveQueuesComplete are met together. -/
theorem witness_DriveQueuesComplete_1 : ∃ (s : State) (n : Nat) (v : BitVec 64), n < 1024 ∧ s.bit (DQ_CTRL_A n) DQ_CTRL_A_EN = false :=
  ⟨{ regs := regsAt [(PE_PORT_STAT 3, 1)] }, 5, 769, by decide +kernel⟩
/-- The hypotheses of clause 2 of DriveQueuesComplete are met together. -/
theorem witness_DriveQueuesComplete_2 : ∃ (s : State) (n : Nat) (v : BitVec 64), n < 1024 ∧ s.bit (DQ_CTRL_A n) DQ_CTRL_A_EN = true :=
  ⟨{ regs := regsAt [(DQ_CTRL_A 5, 1)] }, 5, 769, by decide +kernel⟩
/-- The hypotheses of clause 3 of DriveQueuesComplete are met together. -/
theorem witness_DriveQueuesComplete_3 : ∃ (s : State) (q : Nat) (v : BitVec 64), q < 4096 ∧ s.bit (DQ_QP q) DQ_QP_EN = false ∧ s.bit DQ_CFG DQ_CFG_EN = true ∧ s.ctrlUp (DQ_QP_CTRL.get v) = true ∧ 1 ≤ DQ_QP_QID.get v ∧ 4 ≤ DQ_QP_LOG_DEPTH.get v ∧ DQ_QP_LOG_DEPTH.get v ≤ 10 ∧ s.drv.pair.any (fun p => p.1 != q && s.pairCtrl p.1 == DQ_QP_CTRL.get v && s.get (DQ_QP p.1) DQ_QP_QID == DQ_QP_QID.get v) = false :=
  ⟨{ regs := regsAt [(DQ_CFG, 1), (DQ_CTRL_A 2, 1 * 2 ^ DQ_CTRL_A_STATE.lo)] }, 5, BitVec.ofNat 64 (2 * 2 ^ DQ_QP_CTRL.lo + 2 ^ DQ_QP_QID.lo + 4 * 2 ^ DQ_QP_LOG_DEPTH.lo), by decide +kernel⟩
/-- The hypotheses of clause 4 of DriveQueuesComplete are met together. -/
theorem witness_DriveQueuesComplete_4 : ∃ (s : State) (q : Nat) (v : BitVec 64), q < 4096 ∧ s.bit (DQ_QP q) DQ_QP_EN = false ∧ (s.bit DQ_CFG DQ_CFG_EN = false ∨ s.ctrlUp (DQ_QP_CTRL.get v) = false ∨ DQ_QP_QID.get v = 0 ∨ DQ_QP_LOG_DEPTH.get v < 4 ∨ 10 < DQ_QP_LOG_DEPTH.get v ∨ s.drv.pair.any (fun p => p.1 != q && s.pairCtrl p.1 == DQ_QP_CTRL.get v && s.get (DQ_QP p.1) DQ_QP_QID == DQ_QP_QID.get v) = true) :=
  ⟨{}, 5, 0, by decide +kernel⟩
/-- The hypotheses of clause 5 of DriveQueuesComplete are met together. -/
theorem witness_DriveQueuesComplete_5 : ∃ (s : State) (q : Nat) (v : BitVec 64), q < 4096 ∧ s.bit (DQ_QP q) DQ_QP_EN = true :=
  ⟨{ regs := regsAt [(DQ_QP 5, 1024)], drv := { pair := [(5, {})] } }, 5, 0, by decide +kernel⟩
/-- The hypotheses of clause 6 of DriveQueuesComplete are met together. -/
theorem witness_DriveQueuesComplete_6 : ∃ (s : State) (q : Nat) (p : DrvPair), Tab.find s.drv.pair q = some p ∧ p.unacked ≠ 0 :=
  ⟨{ drv := { pair := [(5, { unacked := 3, head := 4 })] } }, 5, { unacked := 3, head := 4 }, by decide +kernel⟩
/-- The hypotheses of clause 7 of DriveQueuesComplete are met together. -/
theorem witness_DriveQueuesComplete_7 : ∃ (s : State) (k : Nat) (d : Nat) (x : Slot), s.slot k = some x ∧ x.rung = some d ∧ x.ended = false :=
  ⟨{ drv := { slot := [(4, slotA)] } }, 4, 3, slotA, by decide +kernel⟩
/-- The hypotheses of clause 1 of PickUnitCompletes are met together. -/
theorem witness_PickUnitCompletes_1 : ∃ (s : State) (f : Nat) (g : Nat) (y : PickGroup), s.pick.groups.find? (fun y => y.f == f && y.group == g && !y.scheduled) = some y :=
  ⟨{ pick := { groups := [{ f := 9, group := 33, size := 2, entered := 1, since := 5 }], heap := [{ slot := 4, drive := 5, theta := 0, latest := 0, group := some (9, 33) }] } }, 9, 33, { f := 9, group := 33, size := 2, entered := 1, since := 5 }, by decide +kernel⟩
/-- The hypotheses of clause 2 of PickUnitCompletes are met together. -/
theorem witness_PickUnitCompletes_2 : ∃ (s : State) (k : Nat) (r : Nat) (q : Nat) (e : HeapEnt) (x : Slot), q < 4096 ∧ s.pick.heap.find? (·.slot == k) = some e ∧ e.at256 = some r ∧ e.claimed = false ∧ s.slot k = some x ∧ s.pickPair e.drive = some q :=
  ⟨{ regs := regsAt [(DQ_CFG, 1), (DQ_QP 6, 5 + 1024 + 4 * 2 ^ 32)], pick := { heap := [heapA] }, drv := { slot := [(4, { slotA with rung := none })], pair := [(6, {})] } }, 4, 2560, 6, heapA, { slotA with rung := none }, by decide +kernel⟩
/-- The hypotheses of clause 3 of PickUnitCompletes are met together. -/
theorem witness_PickUnitCompletes_3 : ∃ (s : State) (k : Nat) (r : Nat) (e : HeapEnt), s.pick.heap.find? (·.slot == k) = some e ∧ e.at256 = some r ∧ e.claimed = false ∧ s.pickPair e.drive = none :=
  ⟨{ pick := { heap := [heapA] } }, 4, 2560, heapA, by decide +kernel⟩
/-- The hypotheses of clause 4 of PickUnitCompletes are met together. -/
theorem witness_PickUnitCompletes_4 : ∃ (s : State) (q : Nat) (e : HeapEnt) (x : Slot), s.nextRelease = some e ∧ s.slot e.slot = some x ∧ x.pair = some q :=
  ⟨{ regs := regsAt [(DQ_CFG, 1), (DQ_QP 6, 5 + 1024 + 4 * 2 ^ 32)], pick := { heap := [{ heapA with claimed := true }] }, drv := { slot := [(4, { slotA with pair := some 6, rung := none })], pair := [(6, { claim := some 4 })] } }, 6, { heapA with claimed := true }, { slotA with pair := some 6, rung := none }, by decide +kernel⟩
/-- The hypotheses of clause 5 of PickUnitCompletes are met together. -/
theorem witness_PickUnitCompletes_5 : ∃ (s : State) (a : Nat) (v : BitVec 64), let h := s.reg (HRN_VEC (PICK_ALARM_VEC.get v)); a < 64 ∧ s.bit (PICK_ALARM a) PICK_ALARM_ARM = false ∧ 1024 ≤ PICK_ALARM_VEC.get v ∧ PICK_ALARM_VEC.get v ≤ 33791 ∧ HRN_VEC_VALID.get h = 1 ∧ (HRN_VEC_WORLD.get h != 0) = s.blockWorld 6 :=
  ⟨{ regs := regsAt [(HRN_VEC 1024, 2 ^ HRN_VEC_VALID.lo)] }, 3, BitVec.ofNat 64 (1024 * 2 ^ 32 + 5), by decide +kernel⟩
/-- The hypotheses of clause 6 of PickUnitCompletes are met together. -/
theorem witness_PickUnitCompletes_6 : ∃ (s : State) (a : Nat) (v : BitVec 64), let h := s.reg (HRN_VEC (PICK_ALARM_VEC.get v)); a < 64 ∧ s.bit (PICK_ALARM a) PICK_ALARM_ARM = false ∧ (PICK_ALARM_VEC.get v < 1024 ∨ 33791 < PICK_ALARM_VEC.get v ∨ HRN_VEC_VALID.get h = 0 ∨ (HRN_VEC_WORLD.get h != 0) ≠ s.blockWorld 6) :=
  ⟨{}, 3, 5, by decide +kernel⟩
/-- The hypotheses of clause 7 of PickUnitCompletes are met together. -/
theorem witness_PickUnitCompletes_7 : ∃ (s : State) (a : Nat) (v : BitVec 64), a < 64 ∧ s.bit (PICK_ALARM a) PICK_ALARM_ARM = true :=
  ⟨{ regs := regsAt [(PICK_ALARM 3, 1024)] }, 3, 5, by decide +kernel⟩
/-- The hypotheses of clause 8 of PickUnitCompletes are met together. -/
theorem witness_PickUnitCompletes_8 : ∃ (s : State) (a : Nat), let v := s.get (PICK_ALARM a) PICK_ALARM_VEC; a < 64 ∧ s.bit (PICK_ALARM a) PICK_ALARM_ARM = true ∧ 1024 ≤ v ∧ v ≤ 33791 ∧ s.bit (HRN_VEC v) HRN_VEC_VALID = true :=
  ⟨{ regs := regsAt [(PICK_ALARM 3, 1024 + 1024 * 2 ^ 32), (HRN_VEC 1024, 2 ^ HRN_VEC_VALID.lo)] }, 3, by decide +kernel⟩
/-- The hypotheses of clause 9 of PickUnitCompletes are met together. -/
theorem witness_PickUnitCompletes_9 : ∃ (s : State) (c : CardCtx) (first : Nat) (count : Nat) (nom : Nat) (cfg : BitVec 64), let u := s.taken c 0x0501; s.cardOk c 0x0501 false pickOwner = true ∧ first < 1024 ∧ 1 ≤ count ∧ first + count ≤ 1024 ∧ (nom = 0 ∨ (4000000 ≤ nom ∧ nom ≤ 20000000)) ∧ PICK_CLK_CFG_MODE.get cfg < 3 ∧ 1 ≤ PICK_CLK_CFG_FILT.get cfg ∧ PICK_CLK_CFG_FILT.get cfg ≤ 8 ∧ PICK_CLK_CFG_COAST_REVS.get cfg ≠ 0 ∧ PICK_CLK_CFG_TOL.get cfg ≠ 0 ∧ PICK_CLK_CFG_LEAD.get cfg ≠ 0 ∧ cfg &&& ~~~ regMask (PICK_CLK_CFG first) = 0 :=
  ⟨cardState [], kCard, 5, 2, 8000000, BitVec.ofNat 64 (3 * 2 ^ 4 + 64 * 2 ^ 8 + 2000 * 2 ^ 16 + 5000 * 2 ^ 32), by decide +kernel⟩
/-- The hypotheses of clause 10 of PickUnitCompletes are met together. -/
theorem witness_PickUnitCompletes_10 : ∃ (s : State) (c : CardCtx) (drive : Nat) (z : Nat) (table : Nat), let u := s.taken c 0x0502; let ents := (List.range z).map fun i => ({ first := u.rdNat (table + 16 * i) 16 % 2 ^ 48, spt := u.rdNat (table + 16 * i) 16 / 2 ^ 48 % 65536, angle0 := u.rdNat (table + 16 * i) 16 / 2 ^ 64 % 65536, skew := u.rdNat (table + 16 * i) 16 / 2 ^ 80 % 65536 } : Zone); s.cardOk c 0x0502 false pickOwner = true ∧ drive < 1024 ∧ 1 ≤ z ∧ z ≤ 64 ∧ u.dramOf c.world table (16 * z) = true ∧ u.rdPoison table (16 * z) = false ∧ ents.all (fun e => e.spt != 0) = true ∧ ((ents.zip (ents.drop 1)).all fun p => decide (p.1.first < p.2.first)) = true :=
  ⟨{ cardState [(MC_ILV 0, 2 ^ 18 + 2 ^ 36 + 2 ^ 48), (SEL_DRAM_WM, 1)] with mem := [(4102, 1), (4118, 2), (4112, 9)] }, kCard, 5, 2, 4096, by decide +kernel⟩
/-- The hypotheses of clause 11 of PickUnitCompletes are met together. -/
theorem witness_PickUnitCompletes_11 : ∃ (s : State) (c : CardCtx) (drive : Nat) (mode : Nat), let u := s.taken c 0x0503; s.cardOk c 0x0503 false pickOwner = true ∧ (drive < 1024 ∨ drive = 0xFFFF) ∧ mode < 3 :=
  ⟨cardState [], kCard, 5, 1, by decide +kernel⟩
/-- The hypotheses of clause 12 of PickUnitCompletes are met together. -/
theorem witness_PickUnitCompletes_12 : ∃ (s : State) (m : AngleMsg) (n : Nat), m.vendor = 0x1F9A ∧ (List.range 1024).find? (fun n => s.bit (DQ_CTRL_A n) DQ_CTRL_A_EN && s.get (DQ_CTRL_A n) DQ_CTRL_A_RID == m.rid) = some n ∧ m.ep = false ∧ m.subtype = 1 ∧ m.length = 4 ∧ s.clkMode n = 0 ∧ s.clkState n ≠ csOff ∧ m.ptmValid = true ∧ m.spindown = false ∧ m.indexTime ≤ s.clk.time ∧ s.clk.time ≤ m.indexTime + 2 * s.nom n ∧ ((s.clock n).hasIdx = true → 1 ≤ nearest (256 * ((m.indexTime : Int) - s.idx n)) (s.period n)) :=
  ⟨{ regs := regsAt [(DQ_CTRL_A 5, 1 + 7 * 2 ^ 16), (PICK_CLK_NOM 5, 8000000), (PICK_CLK_STAT 5, 2 ^ 40)], clk := { time := 1000 } }, { rid := 7, vendor := 0x1F9A, subtype := 1, length := 4, ep := false, ptmValid := true, spindown := false, indexTime := 900, period := 0 }, 5, by decide +kernel⟩
/-- The hypotheses of clause 13 of PickUnitCompletes are met together. -/
theorem witness_PickUnitCompletes_13 : ∃ (s : State) (m : AngleMsg) (n : Nat), m.vendor = 0x1F9A ∧ (List.range 1024).find? (fun n => s.bit (DQ_CTRL_A n) DQ_CTRL_A_EN && s.get (DQ_CTRL_A n) DQ_CTRL_A_RID == m.rid) = some n ∧ m.ep = false ∧ m.subtype = 1 ∧ m.length = 4 ∧ s.clkMode n = 0 ∧ s.clkState n ≠ csOff ∧ m.ptmValid = true ∧ m.spindown = true :=
  ⟨{ regs := regsAt [(DQ_CTRL_A 5, 1 + 7 * 2 ^ 16), (PICK_CLK_NOM 5, 8000000), (PICK_CLK_STAT 5, 2 ^ 40)], clk := { time := 1000 } }, { rid := 7, vendor := 0x1F9A, subtype := 1, length := 4, ep := false, ptmValid := true, spindown := true, indexTime := 900, period := 0 }, 5, by decide +kernel⟩
/-- The hypotheses of clause 14 of PickUnitCompletes are met together. -/
theorem witness_PickUnitCompletes_14 : ∃ (s : State) (n : Nat), n < 1024 ∧ s.clkState n = csAcquire :=
  ⟨{ regs := regsAt [(PICK_CLK_STAT 5, 2 ^ 40)] }, 5, by decide +kernel⟩
/-- The hypotheses of clause 15 of PickUnitCompletes are met together. -/
theorem witness_PickUnitCompletes_15 : ∃ (s : State) (n : Nat), n < 1024 ∧ s.clkState n = csLocked :=
  ⟨{ regs := regsAt [(PICK_CLK_STAT 5, 2 * 2 ^ 40)] }, 5, by decide +kernel⟩
/-- The hypotheses of clause 16 of PickUnitCompletes are met together. -/
theorem witness_PickUnitCompletes_16 : ∃ (s : State) (n : Nat), n < 1024 ∧ s.clkState n = csCoast :=
  ⟨{ regs := regsAt [(PICK_CLK_STAT 5, 3 * 2 ^ 40)] }, 5, by decide +kernel⟩
/-- The hypotheses of clause 1 of ShuttlePortsComplete are met together. -/
theorem witness_ShuttlePortsComplete_1 : ∃ (s : State) (c : CardCtx) (mode : Nat) (port : Nat) (op : Nat) (txInv : Nat) (cfg : BitVec 64) (mac : BitVec 64) (thr : List (BitVec 64)), let u := s.taken c 0x0601; s.cardOk c 0x0601 false (fun s => .is (s.blockWorld 7)) = true ∧ port < 8 ∧ u.portCardFail mode port op cfg mac thr = none :=
  ⟨cardState [], kCard, 1, 0, 1, 0, BitVec.ofNat 64 (9216 * 2 ^ 16 + 1), 5, [64], by decide +kernel⟩
/-- The hypotheses of clause 2 of ShuttlePortsComplete are met together. -/
theorem witness_ShuttlePortsComplete_2 : ∃ (s : State) (c : CardCtx) (port : Nat), let u := s.taken c 0x0601; s.cardOk c 0x0601 false (fun s => .is (s.blockWorld 7)) = true ∧ port < 8 ∧ port < modePorts u.shuMode :=
  ⟨cardState [], kCard, 1, by decide +kernel⟩
/-- The hypotheses of clause 3 of ShuttlePortsComplete are met together. -/
theorem witness_ShuttlePortsComplete_3 : ∃ (s : State) (c : CardCtx) (port : Nat), let u := s.taken c 0x0601; s.cardOk c 0x0601 false (fun s => .is (s.blockWorld 7)) = true ∧ port < 8 ∧ port < modePorts u.shuMode :=
  ⟨cardState [], kCard, 1, by decide +kernel⟩
/-- The hypotheses of clause 4 of ShuttlePortsComplete are met together. -/
theorem witness_ShuttlePortsComplete_4 : ∃ (s : State) (c : CardCtx) (image : BitVec 64), let u := s.taken c 0x0602; s.cardOk c 0x0602 false (fun s => .is (s.blockWorld 7)) = true ∧ image &&& ~~~ regMask SHU_PARSE_CFG = 0 :=
  ⟨cardState [], kCard, 3, by decide +kernel⟩
/-- The hypotheses of clause 5 of ShuttlePortsComplete are met together. -/
theorem witness_ShuttlePortsComplete_5 : ∃ (s : State) (p : Nat) (up : Bool) (l : Bool) (r : Bool) (lanes : List Nat), p < 8 ∧ s.dbg.stopped = false ∧ s.portEn p = true :=
  ⟨portState [] {}, 1, false, true, false, [9, 9], by decide +kernel⟩
/-- The hypotheses of clause 6 of ShuttlePortsComplete are met together. -/
theorem witness_ShuttlePortsComplete_6 : ∃ (s : State) (p : Nat) (d : Nat), p < 8 ∧ (s.sport p).waitLink = some d :=
  ⟨portState [] { waitLink := some 3 }, 1, 3, by decide +kernel⟩
/-- The hypotheses of clause 7 of ShuttlePortsComplete are met together. -/
theorem witness_ShuttlePortsComplete_7 : ∃ (s : State) (p : Nat) (dest : Nat) (q : Nat), p < 8 ∧ s.dbg.stopped = false ∧ s.portEn p = true ∧ s.portLink p = true ∧ (dest = pauseGroup ∨ dest = s.get (SHU_PORT_MAC p) SHU_PORT_MAC_ADDR) ∧ s.fc p = 1 ∧ 1 ≤ q ∧ q < 65536 :=
  ⟨portState [(SHU_PORT_CFG 1, 3)] {}, 1, pauseGroup, 100, by decide +kernel⟩
/-- The hypotheses of clause 8 of ShuttlePortsComplete are met together. -/
theorem witness_ShuttlePortsComplete_8 : ∃ (s : State) (p : Nat) (dest : Nat) (q : Nat), p < 8 ∧ s.dbg.stopped = false ∧ s.portEn p = true ∧ s.portLink p = true ∧ s.fc p ≠ 1 :=
  ⟨portState [] {}, 1, pauseGroup, 100, by decide +kernel⟩
/-- The hypotheses of clause 9 of ShuttlePortsComplete are met together. -/
theorem witness_ShuttlePortsComplete_9 : ∃ (s : State) (p : Nat) (dest : Nat) (en : Nat) (q : List Nat), p < 8 ∧ s.dbg.stopped = false ∧ s.portEn p = true ∧ s.portLink p = true ∧ (dest = pauseGroup ∨ dest = s.get (SHU_PORT_MAC p) SHU_PORT_MAC_ADDR) ∧ s.fc p = 2 :=
  ⟨portState [(SHU_PORT_CFG 1, 5)] {}, 1, pauseGroup, 6, [0, 100, 0], by decide +kernel⟩
/-- The hypotheses of clause 10 of ShuttlePortsComplete are met together. -/
theorem witness_ShuttlePortsComplete_10 : ∃ (s : State) (p : Nat) (k : Nat) (d : Nat), p < 8 ∧ Tab.find (s.sport p).timer k = some d :=
  ⟨portState [] { timer := [(2, 9)] }, 1, 2, 9, by decide +kernel⟩
/-- The hypotheses of clause 11 of ShuttlePortsComplete are met together. -/
theorem witness_ShuttlePortsComplete_11 : ∃ (s : State) (p : Nat) (k : Nat) (b : Nat) (d : Nat), let wd := s.portCfg p SHU_PORT_CFG_PAUSE_WD; p < 8 ∧ Tab.find (s.sport p).paused k = some b ∧ Tab.find (s.sport p).timer k = some d ∧ wd ≠ 0 ∧ (s.sport p).wdDone.contains k = false ∧ b + wd * 10000000 < d :=
  ⟨portState [(SHU_PORT_CFG 1, 1 + 10 * 2 ^ 40)] { timer := [(2, 900000000)], paused := [(2, 9)] }, 1, 2, 9, 900000000, by decide +kernel⟩
/-- The hypotheses of clause 12 of ShuttlePortsComplete are met together. -/
theorem witness_ShuttlePortsComplete_12 : ∃ (s : State) (p : Nat) (k : Nat) (d : Nat), p < 8 ∧ s.dbg.stopped = false ∧ Tab.find (s.sport p).xoff k = some d ∧ s.get (SHU_PFC_THR p k) SHU_PFC_THR_XON < s.rxOcc p k :=
  ⟨portState [] { xoff := [(2, 9)], rx := [⟨[1], 2, 0, false, 0⟩] }, 1, 2, 9, by decide +kernel⟩
/-- The hypotheses of clause 13 of ShuttlePortsComplete are met together. -/
theorem witness_ShuttlePortsComplete_13 : ∃ (s : State) (p : Nat), let l := (s.sport p).xoff.filter fun e => decide (s.rxOcc p e.1 ≤ s.get (SHU_PFC_THR p e.1) SHU_PFC_THR_XON); p < 8 ∧ s.dbg.stopped = false ∧ l ≠ [] :=
  ⟨portState [] { xoff := [(2, 9)] }, 1, by decide +kernel⟩
/-- The hypotheses of clause 1 of ShuttleFramesComplete are met together. -/
theorem witness_ShuttleFramesComplete_1 : ∃ (s : State) (p : Nat) (data : List (BitVec 8)), let k := framePrio data (s.portCfg p SHU_PORT_CFG_DEF_PRIO); let x := s.get (SHU_PFC_THR p k) SHU_PFC_THR_XOFF; p < 8 ∧ s.dbg.stopped = false ∧ s.portEn p = true ∧ s.portLink p = true ∧ be data 12 2 ≠ 0x8808 ∧ 60 ≤ data.length ∧ data.length + 4 ≤ s.portCfg p SHU_PORT_CFG_MAX_FRAME ∧ s.macOk p (leNat (data.take 6)) = true ∧ (s.fc p = 1 ∨ s.lossless p k = true ∨ x = 0 ∨ s.rxOcc p k < x) ∧ rxUse (s.sport p).rx + frameWords data.length ≤ rxWords s.shuMode :=
  ⟨portState [(SHU_PORT_CFG 1, 9 + 9216 * 2 ^ 16)] {}, 1, List.replicate 60 1, by decide +kernel⟩
/-- The hypotheses of clause 2 of ShuttleFramesComplete are met together. -/
theorem witness_ShuttleFramesComplete_2 : ∃ (s : State) (p : Nat) (ce : Nat) (ue : Nat) (data : List (BitVec 8)) (ok : Bool), p < 8 ∧ s.dbg.stopped = false ∧ s.portEn p = true ∧ s.portLink p = true ∧ be data 12 2 ≠ 0x8808 ∧ s.portCfg p SHU_PORT_CFG_CT = 0 ∧ (ok = false ∨ ue ≠ 0) :=
  ⟨portState [(SHU_PORT_CFG 1, 9 + 9216 * 2 ^ 16)] {}, 1, 2, 1, [1, 2], true, by decide +kernel⟩
/-- The hypotheses of clause 3 of ShuttleFramesComplete are met together. -/
theorem witness_ShuttleFramesComplete_3 : ∃ (s : State) (p : Nat) (f : RxFrame) (r : List RxFrame) (k : InPkt), p < 8 ∧ (s.sport p).rx = f :: r ∧ f.status = 0 ∧ (s.parse p f.time f.data).toOption = some k :=
  ⟨portState [] { rx := [⟨frameA, 0, 7, false, 0⟩] }, 1, ⟨frameA, 0, 7, false, 0⟩, [], pktA, by decide +kernel⟩
/-- The hypotheses of clause 4 of ShuttleFramesComplete are met together. -/
theorem witness_ShuttleFramesComplete_4 : ∃ (s : State) (p : Nat) (e : Nat) (f : RxFrame) (r : List RxFrame), p < 8 ∧ (s.sport p).rx = f :: r ∧ f.status = 0 ∧ s.parseFail p f.time f.data = some e ∧ 8 ≤ e ∧ e < 0x20 :=
  ⟨portState [] { rx := [⟨[1, 2], 0, 7, false, 0⟩] }, 1, 0x0D, ⟨[1, 2], 0, 7, false, 0⟩, [], by decide +kernel⟩
/-- The hypotheses of clause 5 of ShuttleFramesComplete are met together. -/
theorem witness_ShuttleFramesComplete_5 : ∃ (s : State) (p : Nat) (e : Nat) (f : RxFrame) (r : List RxFrame), let lg := s.get (SHU_EXQ_BASE p) SHU_EXQ_BASE_LOG; let tl := s.get (SHU_EXQ_IDX p) SHU_EXQ_IDX_TAIL; let hd := s.get (SHU_EXQ_IDX p) SHU_EXQ_IDX_HEAD; p < 8 ∧ (s.sport p).rx = f :: r ∧ f.status = 0 ∧ s.parseFail p f.time f.data = some e ∧ 1 ≤ e ∧ e ≤ 7 ∧ (s.get SHU_PARSE_CFG SHU_PARSE_CFG_EXQ_DROP).testBit (e - 1) = false ∧ s.bit (SHU_EXQ_BASE p) SHU_EXQ_BASE_EN = true ∧ lg ≤ 12 ∧ (tl + 2 ^ (lg + 1) - hd % 2 ^ (lg + 1)) % 2 ^ (lg + 1) ≠ 2 ^ lg ∧ s.dramOf (s.blockWorld 7) (s.ringSlotAt false p tl) (32 + f.data.length) = true :=
  ⟨portState [(SHU_EXQ_BASE 1, 6 + 16), (MC_ILV 0, 2 ^ 18 + 2 ^ 36 + 2 ^ 48), (SEL_DRAM_WM, 0)] { rx := [⟨List.replicate 14 1, 0, 7, false, 0⟩] }, 1, 1, ⟨List.replicate 14 1, 0, 7, false, 0⟩, [], by decide +kernel⟩
/-- The hypotheses of clause 6 of ShuttleFramesComplete are met together. -/
theorem witness_ShuttleFramesComplete_6 : ∃ (s : State) (p : Nat) (u : Bool) (v : Bool) (k : CtlFrame) (r : List CtlFrame), p < 8 ∧ s.dbg.stopped = false ∧ s.portEn p = true ∧ s.portLink p = true ∧ (s.sport p).ctl = k :: r :=
  ⟨portState [] { ctl := [⟨true, [(2, 5)]⟩] }, 1, false, false, ⟨true, [(2, 5)]⟩, [], by decide +kernel⟩
/-- The hypotheses of clause 7 of ShuttleFramesComplete are met together. -/
theorem witness_ShuttleFramesComplete_7 : ∃ (s : State) (p : Nat) (u : Bool) (v : Bool) (f : TxFrame) (r : List TxFrame), p < 8 ∧ s.dbg.stopped = false ∧ s.portEn p = true ∧ s.portLink p = true ∧ (s.sport p).ctl = [] ∧ s.nextTx p = some (f, r) :=
  ⟨portState [] { tx := [⟨.raw [1, 2], 0⟩] }, 1, false, false, ⟨.raw [1, 2], 0⟩, [], by decide +kernel⟩
/-- The hypotheses of clause 8 of ShuttleFramesComplete are met together. -/
theorem witness_ShuttleFramesComplete_8 : ∃ (s : State) (p : Nat) (raw : Bool) (v : BitVec 64), let b := ringBase raw p; let n := SHU_EXQ_BASE_LOG.get v; p < 8 ∧ p < modePorts s.shuMode ∧ s.bit b SHU_EXQ_BASE_EN = false ∧ 6 ≤ n ∧ n ≤ 12 ∧ s.dramOf (s.blockWorld 7) (SHU_EXQ_BASE_BASE.get v * 4096) (2 ^ n * 16384) = true :=
  ⟨portState [(MC_ILV 0, 2 ^ 18 + 2 ^ 36 + 2 ^ 48), (SEL_DRAM_WM, 0)] {}, 1, true, 6, by decide +kernel⟩
/-- The hypotheses of clause 9 of ShuttleFramesComplete are met together. -/
theorem witness_ShuttleFramesComplete_9 : ∃ (s : State) (p : Nat) (raw : Bool) (v : BitVec 64), let b := ringBase raw p; let n := SHU_EXQ_BASE_LOG.get v; p < 8 ∧ p < modePorts s.shuMode ∧ s.bit b SHU_EXQ_BASE_EN = false ∧ (n < 6 ∨ 12 < n ∨ s.dramOf (s.blockWorld 7) (SHU_EXQ_BASE_BASE.get v * 4096) (2 ^ n * 16384) = false) :=
  ⟨portState [] {}, 1, false, 5, by decide +kernel⟩
/-- The hypotheses of clause 10 of ShuttleFramesComplete are met together. -/
theorem witness_ShuttleFramesComplete_10 : ∃ (s : State) (p : Nat) (v : BitVec 64), p < 8 ∧ p < modePorts s.shuMode :=
  ⟨portState [] {}, 1, 327683, by decide +kernel⟩
/-- The hypotheses of clause 11 of ShuttleFramesComplete are met together. -/
theorem witness_ShuttleFramesComplete_11 : ∃ (s : State) (p : Nat), let lg := s.get (SHU_RAWQ_BASE p) SHU_RAWQ_BASE_LOG; let hd := s.get (SHU_RAWQ_IDX p) SHU_RAWQ_IDX_HEAD; let a := s.ringSlotAt true p hd; let n := s.rdNat a 2; let k := s.rdNat (a + 2) 1; p < 8 ∧ lg ≤ 12 ∧ s.portEn p = true ∧ s.bit (SHU_RAWQ_BASE p) SHU_RAWQ_BASE_EN = true ∧ hd ≠ s.get (SHU_RAWQ_IDX p) SHU_RAWQ_IDX_TAIL ∧ s.dramOf (s.blockWorld 7) a 16 = true ∧ s.rdPoison a 16 = false ∧ 14 ≤ n ∧ n ≤ s.portCfg p SHU_PORT_CFG_MAX_FRAME - 4 ∧ k < 8 ∧ (s.fc p = 0 ∨ Tab.find (s.sport p).timer k = none) ∧ s.txFits p (s.sport p).tx ⟨.raw (s.rd (a + 16) n), k⟩ = true ∧ s.dramOf (s.blockWorld 7) (a + 16) n = true ∧ s.rdPoison (a + 16) n = false :=
  ⟨{ portState [(SHU_RAWQ_BASE 1, 6 + 16), (SHU_RAWQ_IDX 1, 65536), (MC_ILV 0, 2 ^ 18 + 2 ^ 36 + 2 ^ 48), (SEL_DRAM_WM, 0), (SHU_PORT_CFG 1, 1 + 9216 * 2 ^ 16)] {} with mem := [(0, 20), (2, 3)] }, 1, by decide +kernel⟩
/-- The hypotheses of clause 1 of QueuePairCommandsComplete are met together. -/
theorem witness_QueuePairCommandsComplete_1 : ∃ (s : State) (q : Nat), let x := qpOfDesc (s.rd (s.reg SHU_QP_ARG).toNat 128); s.bit SHU_QP_CMD SHU_QP_CMD_BUSY = false ∧ s.createQpFail (s.blockWorld 7) q (s.reg SHU_QP_ARG).toNat = none :=
  ⟨{ roceState [(SHU_QP_ARG, 4096), (LOOM_FSTAT 9, 1 + 2 ^ 8 + 2 ^ 17)] {} [] with mem := descMem, shu := {} }, 6, by decide +kernel⟩
/-- The hypotheses of clause 2 of QueuePairCommandsComplete are met together. -/
theorem witness_QueuePairCommandsComplete_2 : ∃ (s : State) (q : Nat) (x : Qp), s.bit SHU_QP_CMD SHU_QP_CMD_BUSY = false ∧ s.qp q = some x ∧ x.st ≠ 2 :=
  ⟨roceState [] qpA [], 5, qpA, by decide +kernel⟩
/-- The hypotheses of clause 3 of QueuePairCommandsComplete are met together. -/
theorem witness_QueuePairCommandsComplete_3 : ∃ (s : State) (q : Nat) (x : Qp), s.bit SHU_QP_CMD SHU_QP_CMD_BUSY = false ∧ s.qp q = some x ∧ x.wrs = [] ∧ x.reads = [] :=
  ⟨roceState [] qpA [], 5, qpA, by decide +kernel⟩
/-- The hypotheses of clause 4 of QueuePairCommandsComplete are met together. -/
theorem witness_QueuePairCommandsComplete_4 : ∃ (s : State) (q : Nat) (x : Qp), s.bit SHU_QP_CMD SHU_QP_CMD_BUSY = false ∧ s.qp q = some x ∧ (x.wrs ≠ [] ∨ x.reads ≠ []) :=
  ⟨roceState [] { qpA with wrs := [wrA] } [], 5, { qpA with wrs := [wrA] }, by decide +kernel⟩
/-- The hypotheses of clause 5 of QueuePairCommandsComplete are met together. -/
theorem witness_QueuePairCommandsComplete_5 : ∃ (s : State) (r : Nat), let a := (s.reg SHU_QP_ARG).toNat; s.bit SHU_QP_CMD SHU_QP_CMD_BUSY = false ∧ s.regFail (s.blockWorld 7) a = none ∧ r < 65536 :=
  ⟨{ roceState [(SHU_QP_ARG, 4096)] {} [] with mem := [(4105, 1), (4112, 9)] }, 7, by decide +kernel⟩
/-- The hypotheses of clause 6 of QueuePairCommandsComplete are met together. -/
theorem witness_QueuePairCommandsComplete_6 : ∃ (s : State) (r : Nat), s.bit SHU_QP_CMD SHU_QP_CMD_BUSY = false ∧ r < 65536 :=
  ⟨{ roceState [] {} [] with shu := { region := [7, 8] } }, 7, by decide +kernel⟩
/-- The hypotheses of clause 7 of QueuePairCommandsComplete are met together. -/
theorem witness_QueuePairCommandsComplete_7 : ∃ (s : State) (f : Nat) (k : Nat) (q : Nat) (x : Qp) (v : BitVec 64), f ≤ 8192 ∧ k < 1024 ∧ s.slotQp f k = some (q, x) ∧ s.qp q = some x ∧ s.fstate f ≠ 0 ∧ SHU_SQ_TAIL_INDEX.get v < 2 ^ x.sqLog :=
  ⟨roceState [] qpA [], 9, 0, 5, qpA, 3, by decide +kernel⟩
/-- The hypotheses of clause 8 of QueuePairCommandsComplete are met together. -/
theorem witness_QueuePairCommandsComplete_8 : ∃ (s : State) (f : Nat) (k : Nat) (q : Nat) (x : Qp) (v : BitVec 64), f ≤ 8192 ∧ k < 1024 ∧ s.slotQp f k = some (q, x) ∧ s.qp q = some x ∧ s.fstate f ≠ 0 ∧ s.shu.busy = none ∧ x.st = 1 ∧ x.cause = 0 ∧ 2 ^ x.sqLog ≤ SHU_SQ_TAIL_INDEX.get v :=
  ⟨roceState [] qpA [], 9, 0, 5, qpA, 16, by decide +kernel⟩
/-- The hypotheses of clause 9 of QueuePairCommandsComplete are met together. -/
theorem witness_QueuePairCommandsComplete_9 : ∃ (s : State) (f : Nat) (k : Nat) (q : Nat) (x : Qp) (v : BitVec 64), f ≤ 8192 ∧ k < 1024 ∧ s.slotQp f k = some (q, x) ∧ s.qp q = some x ∧ s.fstate f ≠ 0 ∧ SHU_RQ_TAIL_INDEX.get v < 2 ^ x.rqLog :=
  ⟨roceState [] qpA [], 9, 0, 5, qpA, 3, by decide +kernel⟩
/-- The hypotheses of clause 10 of QueuePairCommandsComplete are met together. -/
theorem witness_QueuePairCommandsComplete_10 : ∃ (s : State) (f : Nat) (k : Nat) (q : Nat) (x : Qp) (v : BitVec 64), f ≤ 8192 ∧ k < 1024 ∧ s.slotQp f k = some (q, x) ∧ s.qp q = some x ∧ s.fstate f ≠ 0 ∧ x.st ≠ 2 ∧ SHU_CQ_HEAD_INDEX.get v < 2 ^ x.cqLog :=
  ⟨roceState [] qpA [], 9, 0, 5, qpA, 65539, by decide +kernel⟩
/-- The hypotheses of clause 1 of RocePacketsComplete are met together. -/
theorem witness_RocePacketsComplete_1 : ∃ (s : State) (q : Nat) (x : Qp), let e : Line := BitVec.ofNat 512 (leNat (s.ioBytes x.func (x.sqBase + 64 * x.sqHead) 64)); s.qp q = some x ∧ s.shu.cached.contains q = true ∧ x.st = 1 ∧ x.ud = false ∧ s.fstate x.func = 1 ∧ x.sqHead ≠ x.sqTail ∧ x.wrs.length < x.maxSq ∧ x.rnrUntil = none ∧ s.ioGood x.func (x.sqBase + 64 * x.sqHead) 64 = true ∧ wqeOk false e = true ∧ wqeLen e ≤ 2 ^ 31 ∧ ((wqeFlags e).testBit 1 = false ∨ x.wrs = []) ∧ ((wqeOp e = 4 ∧ (x.wrs.filter fun w => wqeOp w.ent == 4).length < x.maxRd) ∨ (wqeOp e ≠ 4 ∧ s.ioGood x.func (wqeLaddr e) (wqeLen e) = true)) :=
  ⟨roceState [] qpA [], 5, qpA, by decide +kernel⟩
/-- The hypotheses of clause 2 of RocePacketsComplete are met together. -/
theorem witness_RocePacketsComplete_2 : ∃ (s : State) (q : Nat) (x : Qp), let e : Line := BitVec.ofNat 512 (leNat (s.ioBytes x.func (x.sqBase + 64 * x.sqHead) 64)); s.qp q = some x ∧ s.shu.cached.contains q = true ∧ x.st = 1 ∧ x.ud = true ∧ s.fstate x.func = 1 ∧ x.sqHead ≠ x.sqTail ∧ x.wrs.length < x.maxSq ∧ x.rnrUntil = none ∧ s.ioGood x.func (x.sqBase + 64 * x.sqHead) 64 = true ∧ wqeOk true e = true ∧ wqeLen e ≤ x.mtu ∧ ((wqeFlags e).testBit 1 = false ∨ x.wrs = []) ∧ s.ioGood x.func (wqeLaddr e) (wqeLen e) = true :=
  ⟨roceState [] { qpA with ud := true } [], 5, { qpA with ud := true }, by decide +kernel⟩
/-- The hypotheses of clause 3 of RocePacketsComplete are met together. -/
theorem witness_RocePacketsComplete_3 : ∃ (s : State) (k : InPkt) (q : Nat) (x : Qp), let b := s.ioBytes x.func (x.rqBase + 16 * x.rqHead) 16; s.arrives k q x = true ∧ x.ud = false ∧ k.op = 4 ∧ k.psn = x.rqPsn ∧ x.msg = none ∧ k.data.length ≤ x.mtu ∧ x.rqHead ≠ x.rqTail ∧ s.ioGood x.func (x.rqBase + 16 * x.rqHead) 16 = true ∧ k.data.length ≤ leNat ((b.drop 8).take 4) ∧ s.ioHeld x.func (leNat (b.take 8)) k.data.length true = true :=
  ⟨{ roceState [] qpA [pktOf 4 [] [1, 2, 3, 4]] with mem := [(0x2008, 64)] }, pktOf 4 [] [1, 2, 3, 4], 5, qpA, by decide +kernel⟩
/-- The hypotheses of clause 4 of RocePacketsComplete are met together. -/
theorem witness_RocePacketsComplete_4 : ∃ (s : State) (k : InPkt) (q : Nat) (x : Qp), let b := s.ioBytes x.func (x.rqBase + 16 * x.rqHead) 16; let a := leNat (b.take 8); s.arrives k q x = true ∧ x.ud = true ∧ k.op = 0x64 ∧ be k.pay 12 4 = x.qkey ∧ k.data.length ≤ x.mtu ∧ x.rqHead ≠ x.rqTail ∧ s.ioGood x.func (x.rqBase + 16 * x.rqHead) 16 = true ∧ 40 + k.data.length ≤ leNat ((b.drop 8).take 4) ∧ s.ioHeld x.func a (40 + k.data.length) true = true ∧ s.ioHeld x.func (a + if k.v6 then 0 else 20) (if k.v6 then k.ip.take 40 else k.ip.take 20).length true = true ∧ s.ioHeld x.func (a + 40) k.data.length true = true :=
  ⟨{ roceState [] { qpA with ud := true } [pktOf 0x64 [0, 0, 0, 0, 0, 0, 0, 3] [1, 2, 3, 4]] with mem := [(0x2008, 64)] }, pktOf 0x64 [0, 0, 0, 0, 0, 0, 0, 3] [1, 2, 3, 4], 5, { qpA with ud := true }, by decide +kernel⟩
/-- The hypotheses of clause 5 of RocePacketsComplete are met together. -/
theorem witness_RocePacketsComplete_5 : ∃ (s : State) (k : InPkt) (q : Nat) (p : Nat) (x : Qp), let va := be k.pay 12 8; s.arrives k q x = true ∧ x.ud = false ∧ k.op = 0x0A ∧ k.psn = x.rqPsn ∧ x.msg = none ∧ k.data.length ≤ x.mtu ∧ k.data.length ≤ 2 ^ 31 ∧ be k.pay 24 4 = k.data.length ∧ s.regionOk x.func (be k.pay 20 4) va k.data.length true = true ∧ s.ioHeld x.func va k.data.length true = true ∧ s.ioPieces x.func va k.data.length true = [(p, k.data.length)] :=
  ⟨{ roceState [] qpA [pktOf 10 rethA [1, 2, 3, 4]] with mem := regMem }, pktOf 10 rethA [1, 2, 3, 4], 5, 0x3000, qpA, by decide +kernel⟩
/-- The hypotheses of clause 6 of RocePacketsComplete are met together. -/
theorem witness_RocePacketsComplete_6 : ∃ (s : State) (k : InPkt) (q : Nat) (x : Qp), let va := be k.pay 12 8; let n := be k.pay 24 4; s.arrives k q x = true ∧ x.ud = false ∧ k.op = 0x0C ∧ k.psn = x.rqPsn ∧ x.msg = none ∧ n ≤ 2 ^ 31 ∧ s.regionOk x.func (be k.pay 20 4) va n false = true ∧ s.ioHeld x.func va n false = true :=
  ⟨{ roceState [] qpA [pktOf 12 rethA []] with mem := regMem }, pktOf 12 rethA [], 5, qpA, by decide +kernel⟩
/-- The hypotheses of clause 7 of RocePacketsComplete are met together. -/
theorem witness_RocePacketsComplete_7 : ∃ (s : State) (q : Nat) (x : Qp) (r : RdReq) (l : List RdReq), s.qp q = some x ∧ x.reads = r :: l ∧ x.st ≠ 2 ∧ s.fstate x.func ≠ 0 ∧ s.shu.busy ≠ some (3, q) ∧ r.left ≤ x.mtu ∧ s.ioGood x.func r.va r.left = true :=
  ⟨roceState [] { qpA with reads := [{ psn := 5, va := 64, left := 8, region := 0 }] } [], 5, { qpA with reads := [{ psn := 5, va := 64, left := 8, region := 0 }] }, { psn := 5, va := 64, left := 8, region := 0 }, [], by decide +kernel⟩
/-- The hypotheses of clause 8 of RocePacketsComplete are met together. -/
theorem witness_RocePacketsComplete_8 : ∃ (s : State) (q : Nat) (x : Qp) (r : RdReq) (l : List RdReq), s.qp q = some x ∧ x.reads = r :: l ∧ x.st ≠ 2 ∧ s.fstate x.func ≠ 0 ∧ s.shu.busy ≠ some (3, q) ∧ x.mtu < r.left ∧ s.ioGood x.func r.va x.mtu = true :=
  ⟨roceState [] { qpA with reads := [{ psn := 5, va := 64, left := 300, region := 0 }] } [], 5, { qpA with reads := [{ psn := 5, va := 64, left := 300, region := 0 }] }, { psn := 5, va := 64, left := 300, region := 0 }, [], by decide +kernel⟩
/-- The hypotheses of clause 9 of RocePacketsComplete are met together. -/
theorem witness_RocePacketsComplete_9 : ∃ (s : State) (k : InPkt) (q : Nat) (x : Qp) (w : SendWr) (l : List SendWr), s.arrives k q x = true ∧ x.ud = false ∧ (k.op = 0x10 ∨ k.op = 0x0F) ∧ x.wrs = w :: l ∧ w.pendingRead = true ∧ x.cqBad = false ∧ k.psn = (w.first + w.got / x.mtu) % 2 ^ 24 ∧ k.data.length ≤ x.mtu ∧ w.got + k.data.length = wqeLen w.ent ∧ s.ioHeld x.func (wqeLaddr w.ent + w.got) k.data.length true = true :=
  ⟨roceState [] { qpA with wrs := [rdA] } [pktOf 16 [0, 0, 0, 0] [1, 2, 3, 4]], pktOf 16 [0, 0, 0, 0] [1, 2, 3, 4], 5, { qpA with wrs := [rdA] }, rdA, [], by decide +kernel⟩
/-- The hypotheses of clause 10 of RocePacketsComplete are met together. -/
theorem witness_RocePacketsComplete_10 : ∃ (s : State) (k : InPkt) (q : Nat) (x : Qp) (w : SendWr), s.arrives k q x = true ∧ x.ud = false ∧ k.op = 0x11 ∧ be k.pay 12 1 / 32 % 4 = 0 ∧ x.wrs = [w] ∧ w.pendingRead = false ∧ psnGe k.psn x.una = true ∧ psnGe k.psn x.sqPsn = false ∧ psnGe k.psn w.last = true :=
  ⟨roceState [] { qpA with wrs := [wrA], sqPsn := 1 } [pktOf 17 [0, 0, 0, 0] []], pktOf 17 [0, 0, 0, 0] [], 5, { qpA with wrs := [wrA], sqPsn := 1 }, wrA, by decide +kernel⟩
/-- The hypotheses of clause 11 of RocePacketsComplete are met together. -/
theorem witness_RocePacketsComplete_11 : ∃ (s : State) (k : InPkt) (q : Nat) (x : Qp), s.arrives k q x = true ∧ x.ud = false ∧ k.op = 0x81 :=
  ⟨roceState [] qpA [pktOf 0x81 [0, 0, 0, 0, 0, 0, 0, 0, 0, 0, 0, 0, 0, 0, 0, 0] []], pktOf 0x81 [0, 0, 0, 0, 0, 0, 0, 0, 0, 0, 0, 0, 0, 0, 0, 0] [], 5, qpA, by decide +kernel⟩
/-- The hypotheses of clause 12 of RocePacketsComplete are met together. -/
theorem witness_RocePacketsComplete_12 : ∃ (s : State) (q : Nat) (x : Qp), s.qp q = some x ∧ x.st ≠ 2 ∧ x.wrs ≠ [] ∧ x.rnrUntil = none ∧ s.shu.busy ≠ some (3, q) ∧ x.tries < x.retry :=
  ⟨roceState [] { qpA with wrs := [wrA], retry := 3 } [], 5, { qpA with wrs := [wrA], retry := 3 }, by decide +kernel⟩
/-- The hypotheses of clause 13 of RocePacketsComplete are met together. -/
theorem witness_RocePacketsComplete_13 : ∃ (s : State) (q : Nat) (x : Qp), s.qp q = some x ∧ x.st = 1 ∧ x.wrs ≠ [] ∧ x.rnrUntil = none ∧ s.shu.busy ≠ some (3, q) ∧ x.retry ≤ x.tries :=
  ⟨roceState [] { qpA with wrs := [wrA] } [], 5, { qpA with wrs := [wrA] }, by decide +kernel⟩
/-- The hypotheses of clause 14 of RocePacketsComplete are met together. -/
theorem witness_RocePacketsComplete_14 : ∃ (s : State) (q : Nat) (d : Nat) (x : Qp), s.qp q = some x ∧ x.rnrUntil = some d :=
  ⟨roceState [] { qpA with wrs := [wrA], rnrUntil := some 5 } [], 5, 5, { qpA with wrs := [wrA], rnrUntil := some 5 }, by decide +kernel⟩
/-- The hypotheses of clause 15 of RocePacketsComplete are met together. -/
theorem witness_RocePacketsComplete_15 : ∃ (s : State) (q : Nat) (x : Qp), s.qp q = some x ∧ x.unacked ≠ 0 :=
  ⟨roceState [] { qpA with unacked := 2 } [], 5, { qpA with unacked := 2 }, by decide +kernel⟩
/-- The hypotheses of clause 16 of RocePacketsComplete are met together. -/
theorem witness_RocePacketsComplete_16 : ∃ (s : State) (q : Nat) (x : Qp), s.qp q = some x ∧ x.ud = false ∧ x.rate < 100 * 2 ^ 40 :=
  ⟨roceState [] { qpA with rate := 2 ^ 40 } [], 5, { qpA with rate := 2 ^ 40 }, by decide +kernel⟩
/-- The hypotheses of clause 1 of TransformsComplete are met together. -/
theorem witness_TransformsComplete_1 : ∃ (s : State) (cls : Nat) (r : Nat) (q : LoomReq), let h : Line := BitVec.ofNat 512 (leNat (s.ioBytes q.f (entAddr q.ent) 64)); let k := entSub q.ent; (s.xf.lane.filter fun p => p.2.cls == cls).length < xfLanes cls ∧ s.xfNext cls = some r ∧ Tab.find s.loom.req r = some q ∧ entAddr q.ent % 64 = 0 ∧ entAddr2 q.ent % 64 = 0 ∧ s.ioGood q.f (entAddr q.ent) 64 = true ∧ hdrOk k (entLen q.ent) h = true ∧ xfKeyType k = 0 ∧ entKey q.ent = 0 ∧ ((xfFixed k (entLen q.ent)).getD 0 + (if hdrCrc h then 8 else 0) ≤ hdrOutMax h ∨ xfFixed k (entLen q.ent) = none) :=
  ⟨xfState [] 0x20 0 {} [(4096, 16)], 2, 4, xfReq 0x20 0, by decide +kernel⟩
/-- The hypotheses of clause 2 of TransformsComplete are met together. -/
theorem witness_TransformsComplete_2 : ∃ (s : State) (cls : Nat) (r : Nat) (key : Nat) (q : LoomReq), let h : Line := BitVec.ofNat 512 (leNat (s.ioBytes q.f (entAddr q.ent) 64)); let k := entSub q.ent; let n := entKey q.ent; (s.xf.lane.filter fun p => p.2.cls == cls).length < xfLanes cls ∧ s.xfNext cls = some r ∧ Tab.find s.loom.req r = some q ∧ entAddr q.ent % 64 = 0 ∧ entAddr2 q.ent % 64 = 0 ∧ s.ioGood q.f (entAddr q.ent) 64 = true ∧ hdrOk k (entLen q.ent) h = true ∧ xfKeyType k ≠ 0 ∧ s.slotOwned n q.f = true ∧ s.get (XF_SLOT n) XF_SLOT_TYPE = xfKeyType k ∧ (xfFixed k (entLen q.ent)).getD 0 + (if hdrCrc h then 8 else 0) ≤ hdrOutMax h ∧ s.xf.cache.find? (fun e => e.1 == n) = some (n, key) :=
  ⟨xfState [(XF_SLOT 3, 2 + 9 * 16)] 2 3 { cache := [(3, 77)] } [(4096, 32)], 0, 4, 77, xfReq 2 3, by decide +kernel⟩
/-- The hypotheses of clause 3 of TransformsComplete are met together. -/
theorem witness_TransformsComplete_3 : ∃ (s : State) (r : Nat) (p : Nat) (q : LoomReq) (ln : XfLane) (o : List Nat), let h := ln.hdr; let src := entAddr q.ent + 64; let d := toNats (s.ioBytes q.f src (hdrAadLen h + entLen q.ent)); let dst := entAddr2 q.ent; let crc := if hdrCrc h then leBytes 8 (crc64 0 (if hdrCrcOut h then o else d.drop (hdrAadLen h))) else []; let n := o.length + crc.length; Tab.find s.xf.lane r = some ln ∧ Tab.find s.loom.req r = some q ∧ q.done = none ∧ s.ioGood q.f src (hdrAadLen h + entLen q.ent) = true ∧ (xfCompute (entSub q.ent) h ((ln.key.map (·.2)).getD 0) (d.take (hdrAadLen h)) (d.drop (hdrAadLen h)) (hdrOutMax h - (if hdrCrc h then 8 else 0))).toOption = some o ∧ s.ioHeld q.f dst n true = true ∧ s.ioPieces q.f dst n true = [(p, n)] ∧ (src + hdrAadLen h + entLen q.ent ≤ dst ∨ dst + hdrOutMax h ≤ src - 64) :=
  ⟨xfState [] 0x20 0 { lane := [(4, { cls := 2, hdr := 16 })] } [], 4, 8192, xfReq 0x20 0, { cls := 2, hdr := 16 }, List.replicate 8 0, by decide +kernel⟩
/-- The hypotheses of clause 4 of TransformsComplete are met together. -/
theorem witness_TransformsComplete_4 : ∃ (s : State) (r : Nat) (p : Nat) (q : LoomReq) (ln : XfLane), let h := ln.hdr; let src := entAddr q.ent + 64; let d := toNats (s.ioBytes q.f src (hdrAadLen h + entLen q.ent)); let dst := entAddr2 q.ent; let n := entLen q.ent; Tab.find s.xf.lane r = some ln ∧ Tab.find s.loom.req r = some q ∧ q.done = none ∧ entSub q.ent = 3 ∧ s.ioGood q.f src (hdrAadLen h + n) = true ∧ leOf (gcmTag (aesKeys (leBytes 32 ((ln.key.map (·.2)).getD 0))) (leBytes 12 (hdrIv h)) (d.take (hdrAadLen h)) (d.drop (hdrAadLen h))) ≠ hdrTag h ∧ s.ioHeld q.f dst n true = true ∧ s.ioPieces q.f dst n true = [(p, n)] :=
  ⟨xfState [] 3 0 { lane := [(4, { cls := 0, hdr := 16 })] } [], 4, 8192, xfReq 3 0 4, { cls := 0, hdr := 16 }, by decide +kernel⟩
/-- The hypotheses of clause 5 of TransformsComplete are met together. -/
theorem witness_TransformsComplete_5 : ∃ (s : State) (c : CardCtx) (k : Nat) (ty : Nat) (f : Nat) (buf : Nat), let u := s.taken c 0x0802; let g := u.get (XF_SLOT k) XF_SLOT_GEN; s.cardOk c 0x0802 false (keyOwner k) = true ∧ k < 8192 ∧ (ty = 1 ∨ ty = 2) ∧ f ≤ 8192 ∧ u.bit SEL_LOCK SEL_LOCK_ASSIGN = true ∧ u.boot.wrapBad = false ∧ u.funcWorld f = c.world ∧ u.fstate f ≠ 0 ∧ u.dramOf c.world buf 64 = true ∧ u.rdPoison buf 64 = false :=
  ⟨{ fnState 1 [(SEL_LOCK, 2 ^ SEL_LOCK_ASSIGN.lo), (SEL_DRAM_WM, 1), (SEL_SLOTWORLD 0, 1), (SEL_FUNCWORLD 0, 512)] {} [] with mem := [(4096, 7)] }, { kCard with via := .jtag }, 0, 1, 9, 4096, by decide +kernel⟩
/-- The hypotheses of clause 6 of TransformsComplete are met together. -/
theorem witness_TransformsComplete_6 : ∃ (s : State) (c : CardCtx) (k : Nat) (f : Nat) (buf : Nat), let u := s.taken c 0x0802; let g := u.get (XF_SLOT k) XF_SLOT_GEN; s.cardOk c 0x0802 false (keyOwner k) = true ∧ k < 8192 ∧ f ≤ 8192 ∧ u.bit SEL_LOCK SEL_LOCK_ASSIGN = true ∧ u.boot.wrapBad = false ∧ u.funcWorld f = c.world ∧ u.fstate f ≠ 0 :=
  ⟨fnState 1 [(SEL_LOCK, 2 ^ SEL_LOCK_ASSIGN.lo), (SEL_SLOTWORLD 0, 1), (SEL_FUNCWORLD 0, 512)] {} [], { kCard with via := .jtag }, 0, 9, 0, by decide +kernel⟩
/-- The hypotheses of clause 1 of CoreInstructionsComplete are met together. -/
theorem witness_CoreInstructionsComplete_1 : ∃ (s : State) (i : Ins) (op : AluOp) (rd : Nat) (rs1 : Nat) (rs2 : Nat), let u := s.fetched i; s.ready i = true :=
  ⟨hartState { x := xRegs [(1, 640), (2, 320)] } [], insA, .sub, 4, 1, 2, by decide +kernel⟩
/-- The hypotheses of clause 2 of CoreInstructionsComplete are met together. -/
theorem witness_CoreInstructionsComplete_2 : ∃ (s : State) (i : Ins) (rd : Nat) (rs1 : Nat) (rs2 : Nat) (a : W64) (b : W64), let u := s.fetched i; s.ready i = true ∧ (u.hart i.hart).rx rs1 = a ∧ (u.hart i.hart).rx rs2 = b ∧ (b = 0 ∨ (a = 0x8000000000000000 ∧ b = -1)) :=
  ⟨hartState { x := xRegs [(1, 640)] } [], insA, 4, 1, 2, 640, 0, by decide +kernel⟩
/-- The hypotheses of clause 3 of CoreInstructionsComplete are met together. -/
theorem witness_CoreInstructionsComplete_3 : ∃ (s : State) (i : Ins) (op : AluOp) (rd : Nat) (rs1 : Nat) (imm : Int), let u := s.fetched i; s.ready i = true :=
  ⟨hartState { x := xRegs [(1, 640)] } [], insA, .add, 4, 1, -3, by decide +kernel⟩
/-- The hypotheses of clause 4 of CoreInstructionsComplete are met together. -/
theorem witness_CoreInstructionsComplete_4 : ∃ (s : State) (i : Ins) (rd : Nat) (imm : Int), let u := s.fetched i; s.ready i = true :=
  ⟨hartState {} [], insA, 4, -3, by decide +kernel⟩
/-- The hypotheses of clause 5 of CoreInstructionsComplete are met together. -/
theorem witness_CoreInstructionsComplete_5 : ∃ (s : State) (i : Ins) (rd : Nat) (imm : Int), let u := s.fetched i; s.ready i = true :=
  ⟨hartState {} [], insA, 4, -3, by decide +kernel⟩
/-- The hypotheses of clause 6 of CoreInstructionsComplete are met together. -/
theorem witness_CoreInstructionsComplete_6 : ∃ (s : State) (i : Ins) (op : BrOp) (rs1 : Nat) (rs2 : Nat) (off : Int), let u := s.fetched i; let h := u.hart i.hart; s.ready i = true ∧ brCond op (h.rx rs1) (h.rx rs2) = true :=
  ⟨hartState { x := xRegs [(1, 640)] } [], insA, .ne, 1, 2, -8, by decide +kernel⟩
/-- The hypotheses of clause 7 of CoreInstructionsComplete are met together. -/
theorem witness_CoreInstructionsComplete_7 : ∃ (s : State) (i : Ins) (op : BrOp) (rs1 : Nat) (rs2 : Nat) (off : Int), let u := s.fetched i; s.ready i = true ∧ brCond op ((u.hart i.hart).rx rs1) ((u.hart i.hart).rx rs2) = false :=
  ⟨hartState { x := xRegs [(1, 640)] } [], insA, .eq, 1, 2, -8, by decide +kernel⟩
/-- The hypotheses of clause 8 of CoreInstructionsComplete are met together. -/
theorem witness_CoreInstructionsComplete_8 : ∃ (s : State) (i : Ins) (rd : Nat) (off : Int), let u := s.fetched i; let h := u.hart i.hart; let back := (h.pc + insLen i) % 2 ^ 64; s.ready i = true :=
  ⟨hartState {} [], insA, 1, 16, by decide +kernel⟩
/-- The hypotheses of clause 9 of CoreInstructionsComplete are met together. -/
theorem witness_CoreInstructionsComplete_9 : ∃ (s : State) (i : Ins) (rd : Nat) (rs1 : Nat) (off : Int), let u := s.fetched i; let h := u.hart i.hart; let back := (h.pc + insLen i) % 2 ^ 64; s.ready i = true :=
  ⟨hartState { x := xRegs [(1, 640)] } [], insA, 0, 1, 5, by decide +kernel⟩
/-- The hypotheses of clause 10 of CoreInstructionsComplete are met together. -/
theorem witness_CoreInstructionsComplete_10 : ∃ (s : State) (i : Ins) (op : FpOp) (rm : Nat) (rd : Nat) (rs1 : Nat) (rs2 : Nat) (rs3 : Nat) (r : Nat), let u := s.fetched i; let h := u.hart i.hart; let v := fpCompute op r true (h.rf rs1) (h.rf rs2) (h.rf rs3); s.ready i = true ∧ h.fsOff = false ∧ fpToX op = false ∧ fpFromX op = false ∧ op ≠ .cvt ∧ (if fpRounds op then h.round rm else some 0) = some r ∧ (v.2 &&& h.cf 0x8C0 4 0 = 0 ∨ h.cf 0x8C0 5 5 = 1) :=
  ⟨hartState { f := xRegs [(2, 0x3FF0000000000000)], csr := [(csrKey true 0x300, 0x2000), (csrKey true 0x8C0, 0x38)] } [], insA, .div, 0, 1, 2, 3, 4, 0, by decide +kernel⟩
/-- The hypotheses of clause 11 of CoreInstructionsComplete are met together. -/
theorem witness_CoreInstructionsComplete_11 : ∃ (s : State) (i : Ins) (op : FpOp) (rm : Nat) (rd : Nat) (rs1 : Nat) (rs2 : Nat) (rs3 : Nat) (r : Nat), let u := s.fetched i; let h := u.hart i.hart; let v := fpCompute op r true (h.rf rs1) (h.rf rs2) (h.rf rs3); s.ready i = true ∧ (s.hdbg i.hart).prog = false ∧ h.fsOff = false ∧ fpToX op = false ∧ fpFromX op = false ∧ op ≠ .cvt ∧ (if fpRounds op then h.round rm else some 0) = some r ∧ v.2 &&& h.cf 0x8C0 4 0 ≠ 0 ∧ h.cf 0x8C0 5 5 = 0 ∧ h.trapMode { cause := 24 } = 3 :=
  ⟨hartState { f := xRegs [(2, 0x3FF0000000000000)], csr := [(csrKey true 0x300, 0x2000), (csrKey true 0x8C0, 0x18)] } [], insA, .div, 0, 1, 2, 3, 4, 0, by decide +kernel⟩
/-- The hypotheses of clause 12 of CoreInstructionsComplete are met together. -/
theorem witness_CoreInstructionsComplete_12 : ∃ (s : State) (i : Ins) (rd : Nat) (rs1 : Nat), let u := s.fetched i; s.ready i = true ∧ (u.hart i.hart).fsOff = false :=
  ⟨hartState { f := xRegs [(2, 5)], csr := [(csrKey true 0x300, 0x2000)] } [], insA, 1, 2, by decide +kernel⟩
/-- The hypotheses of clause 13 of CoreInstructionsComplete are met together. -/
theorem witness_CoreInstructionsComplete_13 : ∃ (s : State) (i : Ins) (rd : Nat) (rs1 : Nat), let u := s.fetched i; s.ready i = true ∧ (u.hart i.hart).fsOff = false :=
  ⟨hartState { x := xRegs [(2, 5)], csr := [(csrKey true 0x300, 0x2000)] } [], insA, 1, 2, by decide +kernel⟩
/-- The hypotheses of clause 14 of CoreInstructionsComplete are met together. -/
theorem witness_CoreInstructionsComplete_14 : ∃ (s : State) (i : Ins) (rd : Nat) (rs1 : Nat), let u := s.fetched i; s.ready i = true ∧ (u.hart i.hart).fsOff = false :=
  ⟨hartState { f := xRegs [(2, 5)], csr := [(csrKey true 0x300, 0x2000)] } [], insA, 1, 2, by decide +kernel⟩
/-- The hypotheses of clause 15 of CoreInstructionsComplete are met together. -/
theorem witness_CoreInstructionsComplete_15 : ∃ (s : State) (i : Ins) (code : Nat) (vd : Nat) (vs1 : Nat) (vs2 : Nat) (rs1 : Nat), let u := s.fetched i; let h := u.hart i.hart; s.ready i = true ∧ h.vsOff = false ∧ h.det = false ∧ (h.c 0xC21).toNat < 2 ^ 63 :=
  ⟨hartState { csr := [(0xC21, 0), (csrKey true 0x300, 0x200)] } [], insA, 1, 2, 3, 4, 5, by decide +kernel⟩
/-- The hypotheses of clause 16 of CoreInstructionsComplete are met together. -/
theorem witness_CoreInstructionsComplete_16 : ∃ (s : State) (i : Ins) (rd : Nat) (rs1 : Nat) (vt : Nat), let u := s.fetched i; let h := u.hart i.hart; let vl := BitVec.ofNat 64 (min (h.rx rs1).toNat (vlmax vt)); s.ready i = true ∧ h.vsOff = false ∧ h.det = false ∧ vtypeOk vt = true ∧ rs1 % 32 ≠ 0 :=
  ⟨hartState { x := xRegs [(2, 9)], csr := [(csrKey true 0x300, 0x200)] } [], insA, 1, 2, 24, by decide +kernel⟩
/-- The hypotheses of clause 17 of CoreInstructionsComplete are met together. -/
theorem witness_CoreInstructionsComplete_17 : ∃ (s : State) (i : Ins) (rd : Nat) (num : Nat), let u := s.fetched i; s.ready i = true ∧ (u.hart i.hart).csrFault num false (u.hdbg i.hart).prog = none ∧ num ≠ 0xB00 ∧ num ≠ 0xC00 :=
  ⟨hartState {} [], insA, 1, 0xF12, by decide +kernel⟩
/-- The hypotheses of clause 18 of CoreInstructionsComplete are met together. -/
theorem witness_CoreInstructionsComplete_18 : ∃ (s : State) (i : Ins) (rd : Nat) (num : Nat) (cause : Nat), let u := s.fetched i; let h := u.hart i.hart; s.ready i = true ∧ (s.hdbg i.hart).prog = false ∧ h.csrFault num false false = some cause ∧ h.trapMode { cause := cause } = 3 :=
  ⟨hartState { priv := 0, csr := [(csrKey true 0x3A0, 0x1F), (csrKey true 0x3B0, 0x3FFFFFFFFFFFFF)] } [], insA, 1, 0x300, 2, by decide +kernel⟩
/-- The hypotheses of clause 19 of CoreInstructionsComplete are met together. -/
theorem witness_CoreInstructionsComplete_19 : ∃ (s : State) (i : Ins), let u := s.fetched i; s.ready i = true :=
  ⟨hartState {} [], insA, by decide +kernel⟩
/-- The hypotheses of clause 20 of CoreInstructionsComplete are met together. -/
theorem witness_CoreInstructionsComplete_20 : ∃ (s : State) (i : Ins), let u := s.fetched i; s.ready i = true ∧ (u.hart i.hart).priv = 3 ∧ (u.hart i.hart).virt = false :=
  ⟨hartState {} [], insA, by decide +kernel⟩
/-- The hypotheses of clause 21 of CoreInstructionsComplete are met together. -/
theorem witness_CoreInstructionsComplete_21 : ∃ (s : State) (i : Ins), let u := s.fetched i; let h := u.hart i.hart; let code := if h.priv = 0 then 8 else if h.priv = 3 then 11 else if h.virt then 10 else 9; s.ready i = true ∧ (s.hdbg i.hart).prog = false ∧ h.trapMode { cause := code } = 3 :=
  ⟨hartState { csr := [(csrKey true 0x305, 0x1000)] } [], insA, by decide +kernel⟩
/-- The hypotheses of clause 22 of CoreInstructionsComplete are met together. -/
theorem witness_CoreInstructionsComplete_22 : ∃ (s : State) (i : Ins), let u := s.fetched i; let h := u.hart i.hart; s.ready i = true ∧ (s.hdbg i.hart).prog = false ∧ (s.hdbg i.hart).dcsr = 0 ∧ h.trapMode { cause := 3 } = 3 :=
  ⟨{ hartState { csr := [(csrKey true 0x305, 0x1000)] } [] with dbg := { hart := [(0, { dcsr := 0 })] } }, insA, by decide +kernel⟩
/-- The hypotheses of clause 23 of CoreInstructionsComplete are met together. -/
theorem witness_CoreInstructionsComplete_23 : ∃ (s : State) (i : Ins), let u := s.fetched i; let h := u.hart i.hart; s.ready i = true ∧ (s.hdbg i.hart).prog = false ∧ h.trapMode { cause := 2 } = 3 :=
  ⟨hartState { csr := [(csrKey true 0x305, 0x1000)] } [], insA, by decide +kernel⟩
/-- The hypotheses of clause 1 of PipelineEventsComplete are met together. -/
theorem witness_PipelineEventsComplete_1 : ∃ (s : State) (h : Nat) (pc : Nat), s.hartUp h = true ∧ s.nodeOf h < 224 ∧ (s.hart h).det = false ∧ (s.hart h).pred.base.any (·.1 == pc) = true :=
  ⟨hartState { pred := { base := [(320, 1, 0)] } } [], 0, 320, by decide +kernel⟩
/-- The hypotheses of clause 2 of PipelineEventsComplete are met together. -/
theorem witness_PipelineEventsComplete_2 : ∃ (s : State) (h : Nat) (a : Nat) (b : Nat), s.hartUp h = true ∧ s.nodeOf h < 224 ∧ (s.hart h).det = false ∧ (s.hart h).lq.any (·.pc == a) = true :=
  ⟨hartState { lq := [{ rd := 1, pa := 0, pa2 := 0, n1 := 8, va := 0, size := 8, kind := .signed, pc := 316, len := 4 }] } [], 0, 316, 300, by decide +kernel⟩
/-- The hypotheses of clause 3 of PipelineEventsComplete are met together. -/
theorem witness_PipelineEventsComplete_3 : ∃ (s : State) (h : Nat) (e : LoadEnt), s.hartUp h = true ∧ (s.hart h).lq = [e] ∧ e.replay = true ∧ e.pa / 64 = e.pa2 / 64 ∧ s.l2 (s.nodeOf h) (e.pa / 64) = none ∧ (s.hart h).sq = [] ∧ s.asked (s.nodeOf h) (e.pa / 64) = false :=
  ⟨hartState { lq := [{ rd := 1, pa := 640, pa2 := 640, n1 := 8, va := 0, size := 8, kind := .signed, pc := 316, len := 4, val := some 4, replay := true }] } [], 0, { rd := 1, pa := 640, pa2 := 640, n1 := 8, va := 0, size := 8, kind := .signed, pc := 316, len := 4, val := some 4, replay := true }, by decide +kernel⟩
/-- The hypotheses of clause 4 of PipelineEventsComplete are met together. -/
theorem witness_PipelineEventsComplete_4 : ∃ (s : State) (h : Nat) (cause : Nat) (tval : Nat) (gpa : Nat), s.hartUp h = true ∧ (s.hdbg h).prog = false ∧ cause < 64 ∧ s.nodeOf h < 224 ∧ (s.hart h).lq = [] ∧ (s.hart h).trapMode { cause := cause } = 3 :=
  ⟨hartState { csr := [(csrKey true 0x305, 0x1000)], pred := { base := [(320, 1, 0)] } } [], 0, 13, 640, 8, by decide +kernel⟩
/-- The hypotheses of clause 5 of PipelineEventsComplete are met together. -/
theorem witness_PipelineEventsComplete_5 : ∃ (s : State) (h : Nat) (cause : Nat) (tval : Nat) (gpa : Nat), let a := s.hart h; s.hartUp h = true ∧ (s.hdbg h).prog = false ∧ cause < 64 ∧ a.lq = [] ∧ a.trapMode { cause := cause } = 1 ∧ s.etrig h cause = none ∧ a.virt = false :=
  ⟨hartState { priv := 0, csr := [(csrKey true 0x105, 0x1000), (csrKey true 0x302, 0x2000)] } [], 0, 13, 640, 8, by decide +kernel⟩
/-- The hypotheses of clause 6 of PipelineEventsComplete are met together. -/
theorem witness_PipelineEventsComplete_6 : ∃ (s : State) (h : Nat) (cause : Nat), let a := s.hart h; s.hartUp h = true ∧ (s.hdbg h).prog = false ∧ a.lq = [] ∧ s.intrOf h = some cause ∧ a.trapMode { cause := cause, intr := true } = 3 :=
  ⟨{ hartState { csr := [(csrKey true 0x305, 0x1001), (csrKey true 0x300, 8), (csrKey true 0x304, 8)] } [] with hrn := { tile := [(7 * 16, { msip := true })] } }, 0, 3, by decide +kernel⟩
/-- The hypotheses of clause 7 of PipelineEventsComplete are met together. -/
theorem witness_PipelineEventsComplete_7 : ∃ (s : State) (i : Ins), let u := s.fetched i; let a := u.hart i.hart; s.ready i = true ∧ a.sq = [] ∧ a.priv = 3 :=
  ⟨hartState { csr := [(csrKey true 0x341, 0x1000), (csrKey true 0x300, 0x880)] } [], insA, by decide +kernel⟩
/-- The hypotheses of clause 8 of PipelineEventsComplete are met together. -/
theorem witness_PipelineEventsComplete_8 : ∃ (s : State) (i : Ins), let u := s.fetched i; let a := u.hart i.hart; s.ready i = true ∧ a.sq = [] ∧ a.priv = 1 ∧ a.virt = false ∧ a.cf 0x300 22 22 = 0 :=
  ⟨hartState { priv := 1, csr := [(csrKey true 0x141, 0x1000), (csrKey true 0x300, 0x120), (csrKey true 0x3A0, 0x1F), (csrKey true 0x3B0, 0x3FFFFFFFFFFFFF)] } [], insA, by decide +kernel⟩
/-- The hypotheses of clause 1 of MemoryInstructionsComplete are met together. -/
theorem witness_MemoryInstructionsComplete_1 : ∃ (s : State) (i : Ins) (rd : Nat) (rs1 : Nat) (size : Nat) (p : Nat) (imm : Int) (y : L2Line), let u := s.fetched i; let h := u.hart i.hart; let va := pcAdd (h.rx rs1).toNat imm; s.ready i = true ∧ h.det = false ∧ size ≤ 8 ∧ accParts va size = [(va, size)] ∧ h.overlap { rd := rd, pa := p, pa2 := p, n1 := size, va := va, size := size, kind := .signed, pc := h.pc, len := insLen i } = [] ∧ u.trigAt i.hart 0 va = none ∧ u.goes i.hart (h.dataAcc 0 0) va size [.dram, .tcm, .io] = some (p, .dram) ∧ u.l2 (u.nodeOf i.hart) (p / 64) = some y ∧ y.poison = false :=
  ⟨hartLine { x := xRegs [(1, 632)] } { st := .e, data := 0xFF3 }, insA, 4, 1, 1, 641, 9, { st := .e, data := 0xFF3 }, by decide +kernel⟩
/-- The hypotheses of clause 2 of MemoryInstructionsComplete are met together. -/
theorem witness_MemoryInstructionsComplete_2 : ∃ (s : State) (i : Ins) (rd : Nat) (rs1 : Nat) (p : Nat) (imm : Int) (e : StoreEnt), let u := s.fetched i; let h := u.hart i.hart; let va := pcAdd (h.rx rs1).toNat imm; s.ready i = true ∧ h.det = false ∧ va % 8 = 0 ∧ h.sq = [e] ∧ e = { e with pa := p, size := 8, vector := false, kind := 0 } ∧ u.trigAt i.hart 0 va = none ∧ u.goes i.hart (h.dataAcc 0 0) va 8 [.dram, .tcm, .io] = some (p, .dram) :=
  ⟨hartState { x := xRegs [(1, 632)], sq := [{ pa := 640, size := 8, data := 77 }] } [], insA, 4, 1, 640, 8, { pa := 640, size := 8, data := 77 }, by decide +kernel⟩
/-- The hypotheses of clause 3 of MemoryInstructionsComplete are met together. -/
theorem witness_MemoryInstructionsComplete_3 : ∃ (s : State) (i : Ins) (rs1 : Nat) (rs2 : Nat) (size : Nat) (p : Nat) (imm : Int), let u := s.fetched i; let h := u.hart i.hart; let va := pcAdd (h.rx rs1).toNat imm; s.ready i = true ∧ h.det = false ∧ h.sq.length < 96 ∧ accParts va size = [(va, size)] ∧ u.trigAt i.hart 1 va = none ∧ u.goes i.hart (h.dataAcc 1 0) va size [.dram, .tcm, .io] = some (p, .dram) :=
  ⟨hartState { x := xRegs [(1, 632), (2, 258)] } [], insA, 1, 2, 1, 640, 8, by decide +kernel⟩
/-- The hypotheses of clause 4 of MemoryInstructionsComplete are met together. -/
theorem witness_MemoryInstructionsComplete_4 : ∃ (s : State) (h : Nat) (e : StoreEnt) (y : L2Line), let n := s.nodeOf h; (s.hart h).sq = [e] ∧ e.sent = false ∧ e.kind = 0 ∧ (s.hartNode h).isSome = true ∧ (s.hart h).lost = false ∧ (s.hart h).det = false ∧ (s.hart h).lq = [] ∧ (Tab.getD s.cache.stream n {}).count < 8 ∧ s.l2 n (e.pa / 64) = some y ∧ (y.st = .m ∨ y.st = .e) :=
  ⟨hartLine { sq := [{ pa := 644, size := 4, data := 77 }] } { st := .e, data := 3 }, 0, { pa := 644, size := 4, data := 77 }, { st := .e, data := 3 }, by decide +kernel⟩
/-- The hypotheses of clause 5 of MemoryInstructionsComplete are met together. -/
theorem witness_MemoryInstructionsComplete_5 : ∃ (s : State) (h : Nat) (e : StoreEnt), let n := s.nodeOf h; (s.hart h).sq = [e] ∧ e.sent = false ∧ e.kind < 2 ∧ (s.hartNode h).isSome = true ∧ (s.hart h).lost = false ∧ (s.hart h).det = false ∧ (Tab.getD s.cache.stream n {}).count < 8 ∧ s.l2 n (e.pa / 64) = none ∧ s.asked n (e.pa / 64) = false :=
  ⟨hartState { sq := [{ pa := 640, size := 4, data := 77 }] } [], 0, { pa := 640, size := 4, data := 77 }, by decide +kernel⟩
/-- The hypotheses of clause 6 of MemoryInstructionsComplete are met together. -/
theorem witness_MemoryInstructionsComplete_6 : ∃ (s : State) (i : Ins) (op : AmoOp) (rd : Nat) (rs1 : Nat) (rs2 : Nat) (size : Nat) (p : Nat) (y : L2Line), let u := s.fetched i; let h := u.hart i.hart; let va := (h.rx rs1).toNat; let old := lineNat y.data (p % 64) size; s.ready i = true ∧ h.det = false ∧ h.sq = [] ∧ (size = 4 ∨ size = 8) ∧ va % size = 0 ∧ u.goes i.hart (h.dataAcc 1 0) va size [.dram, .tcm, .io] = some (p, .dram) ∧ u.l2 (u.nodeOf i.hart) (p / 64) = some y ∧ y.poison = false ∧ (y.st = .m ∨ y.st = .e) :=
  ⟨hartLine { x := xRegs [(1, 644), (2, 5)] } { st := .e, data := 3 }, insA, .add, 4, 1, 2, 4, 644, { st := .e, data := 3 }, by decide +kernel⟩
/-- The hypotheses of clause 7 of MemoryInstructionsComplete are met together. -/
theorem witness_MemoryInstructionsComplete_7 : ∃ (s : State) (i : Ins) (rd : Nat) (rs1 : Nat) (size : Nat) (p : Nat) (y : L2Line), let u := s.fetched i; let h := u.hart i.hart; let va := (h.rx rs1).toNat; s.ready i = true ∧ h.det = false ∧ h.sq = [] ∧ (size = 4 ∨ size = 8) ∧ va % size = 0 ∧ u.goes i.hart (h.dataAcc 0 0) va size [.dram, .tcm, .io] = some (p, .dram) ∧ u.l2 (u.nodeOf i.hart) (p / 64) = some y ∧ y.poison = false ∧ (y.st = .m ∨ y.st = .e) :=
  ⟨hartLine { x := xRegs [(1, 640)] } { st := .e, data := 3 }, insA, 4, 1, 8, 640, { st := .e, data := 3 }, by decide +kernel⟩
/-- The hypotheses of clause 8 of MemoryInstructionsComplete are met together. -/
theorem witness_MemoryInstructionsComplete_8 : ∃ (s : State) (i : Ins) (rd : Nat) (rs1 : Nat) (rs2 : Nat) (size : Nat) (p : Nat) (y : L2Line), let u := s.fetched i; let h := u.hart i.hart; let va := (h.rx rs1).toNat; s.ready i = true ∧ h.det = false ∧ h.sq = [] ∧ (size = 4 ∨ size = 8) ∧ va % size = 0 ∧ u.goes i.hart (h.dataAcc 1 0) va size [.dram, .tcm, .io] = some (p, .dram) ∧ h.resv = some (p / 64) ∧ u.l2 (u.nodeOf i.hart) (p / 64) = some y ∧ y.poison = false ∧ (y.st = .m ∨ y.st = .e) :=
  ⟨hartLine { x := xRegs [(1, 640), (2, 6)], resv := some 10 } { st := .m, data := 3 }, insA, 4, 1, 2, 8, 640, { st := .m, data := 3 }, by decide +kernel⟩
/-- The hypotheses of clause 9 of MemoryInstructionsComplete are met together. -/
theorem witness_MemoryInstructionsComplete_9 : ∃ (s : State) (i : Ins) (rd : Nat) (rs1 : Nat) (rs2 : Nat) (size : Nat) (p : Nat), let u := s.fetched i; let h := u.hart i.hart; let va := (h.rx rs1).toNat; s.ready i = true ∧ h.sq = [] ∧ va % size = 0 ∧ u.goes i.hart (h.dataAcc 1 0) va size [.dram, .tcm] = some (p, .dram) ∧ h.resv ≠ some (p / 64) :=
  ⟨hartLine { x := xRegs [(1, 640), (2, 6)], resv := some 11 } { st := .m, data := 3 }, insA, 4, 1, 2, 8, 640, by decide +kernel⟩
/-- The hypotheses of clause 10 of MemoryInstructionsComplete are met together. -/
theorem witness_MemoryInstructionsComplete_10 : ∃ (s : State) (i : Ins) (pred : Nat), let u := s.fetched i; s.ready i = true ∧ (u.hart i.hart).sq = [] ∧ (u.hart i.hart).btnOut = 0 :=
  ⟨hartState {} [], insA, 15, by decide +kernel⟩
/-- The hypotheses of clause 11 of MemoryInstructionsComplete are met together. -/
theorem witness_MemoryInstructionsComplete_11 : ∃ (s : State) (i : Ins), let u := s.fetched i; s.ready i = true ∧ (u.hart i.hart).sq = [] :=
  ⟨hartState {} [], insA, by decide +kernel⟩
/-- The hypotheses of clause 12 of MemoryInstructionsComplete are met together. -/
theorem witness_MemoryInstructionsComplete_12 : ∃ (s : State) (i : Ins), let u := s.fetched i; s.ready i = true :=
  ⟨hartState {} [], insA, by decide +kernel⟩
/-- The hypotheses of clause 13 of MemoryInstructionsComplete are met together. -/
theorem witness_MemoryInstructionsComplete_13 : ∃ (s : State) (i : Ins) (rs1 : Nat) (p : Nat) (imm : Int), let u := s.fetched i; let h := u.hart i.hart; let va := pcAdd (h.rx rs1).toNat imm; s.ready i = true ∧ h.det = false ∧ u.prefetchOk (u.nodeOf i.hart) = true ∧ (u.reach i.hart (h.dataAcc 2 0) va 1 [.dram]).toOption.map (fun r => (r.1.pa, r.1.upd)) = some (p, []) ∧ u.l2 (u.nodeOf i.hart) (p / 64) = none ∧ u.asked (u.nodeOf i.hart) (p / 64) = false :=
  ⟨hartState { x := xRegs [(1, 640)] } [], insA, 1, 672, 32, by decide +kernel⟩
/-- The hypotheses of clause 14 of MemoryInstructionsComplete are met together. -/
theorem witness_MemoryInstructionsComplete_14 : ∃ (s : State) (i : Ins) (rs1 : Nat) (p : Nat) (imm : Int), let u := s.fetched i; let h := u.hart i.hart; let va := pcAdd (h.rx rs1).toNat imm; s.ready i = true ∧ h.det = false ∧ u.prefetchOk (u.nodeOf i.hart) = true ∧ (u.reach i.hart (h.dataAcc 0 0) va 1 [.dram]).toOption.map (fun r => (r.1.pa, r.1.upd)) = some (p, []) ∧ u.l2 (u.nodeOf i.hart) (p / 64) = none ∧ u.asked (u.nodeOf i.hart) (p / 64) = false :=
  ⟨hartState { x := xRegs [(1, 640)] } [], insA, 1, 640, 0, by decide +kernel⟩
/-- The hypotheses of clause 15 of MemoryInstructionsComplete are met together. -/
theorem witness_MemoryInstructionsComplete_15 : ∃ (s : State) (i : Ins) (rs1 : Nat) (p : Nat) (imm : Int), let u := s.fetched i; let h := u.hart i.hart; let va := pcAdd (h.rx rs1).toNat imm; s.ready i = true ∧ h.det = false ∧ u.prefetchOk (u.nodeOf i.hart) = true ∧ (u.reach i.hart (h.dataAcc 1 0) va 1 [.dram]).toOption.map (fun r => (r.1.pa, r.1.upd)) = some (p, []) ∧ u.l2 (u.nodeOf i.hart) (p / 64) = none ∧ u.asked (u.nodeOf i.hart) (p / 64) = false :=
  ⟨hartState { x := xRegs [(1, 640)] } [], insA, 1, 640, 0, by decide +kernel⟩
/-- The hypotheses of clause 16 of MemoryInstructionsComplete are met together. -/
theorem witness_MemoryInstructionsComplete_16 : ∃ (s : State) (i : Ins) (rs1 : Nat) (p : Nat), let u := s.fetched i; let h := u.hart i.hart; s.ready i = true ∧ h.sq.length < 96 ∧ h.cboFault 7 = none ∧ u.goes i.hart (h.dataAcc 1 0) ((h.rx rs1).toNat / 64 * 64) 64 [.dram, .tcm] = some (p, .dram) :=
  ⟨hartState { x := xRegs [(1, 650)] } [], insA, 1, 640, by decide +kernel⟩
/-- The hypotheses of clause 17 of MemoryInstructionsComplete are met together. -/
theorem witness_MemoryInstructionsComplete_17 : ∃ (s : State) (i : Ins) (rs1 : Nat) (p : Nat), let u := s.fetched i; let h := u.hart i.hart; s.ready i = true ∧ h.sq.length < 96 ∧ h.cboFault 6 = none ∧ u.goes i.hart (h.dataAcc 1 0) ((h.rx rs1).toNat / 64 * 64) 64 [.dram, .tcm] = some (p, .dram) :=
  ⟨hartState { x := xRegs [(1, 650)] } [], insA, 1, 640, by decide +kernel⟩
/-- The hypotheses of clause 18 of MemoryInstructionsComplete are met together. -/
theorem witness_MemoryInstructionsComplete_18 : ∃ (s : State) (i : Ins) (rs1 : Nat) (p : Nat), let u := s.fetched i; let h := u.hart i.hart; s.ready i = true ∧ h.sq.length < 96 ∧ h.cboFault 6 = none ∧ u.goes i.hart (h.dataAcc 1 0) ((h.rx rs1).toNat / 64 * 64) 64 [.dram, .tcm] = some (p, .dram) :=
  ⟨hartState { x := xRegs [(1, 650)] } [], insA, 1, 640, by decide +kernel⟩
/-- The hypotheses of clause 19 of MemoryInstructionsComplete are met together. -/
theorem witness_MemoryInstructionsComplete_19 : ∃ (s : State) (i : Ins) (rs1 : Nat) (p : Nat), let u := s.fetched i; let h := u.hart i.hart; s.ready i = true ∧ h.sq.length < 96 ∧ h.cboFault 4 = none ∧ u.goes i.hart (h.dataAcc 1 0) ((h.rx rs1).toNat / 64 * 64) 64 [.dram, .tcm] = some (p, .dram) :=
  ⟨hartState { x := xRegs [(1, 650)] } [], insA, 1, 640, by decide +kernel⟩
/-- The hypotheses of clause 1 of SystemInstructionsComplete are met together. -/
theorem witness_SystemInstructionsComplete_1 : ∃ (s : State) (i : Ins) (rd : Nat) (num : Nat) (rs1 : Nat), let u := s.fetched i; let h := u.hart i.hart; let k := if h.virt && [0x105, 0x140, 0x141, 0x142, 0x143].contains num then num + 0x100 else num; s.ready i = true ∧ h.sq = [] ∧ csrPlain.contains num = true ∧ [0x30A, 0x10A, 0x60A, 0x3A0, 0x3A2].contains num = false ∧ h.csrFault num true (u.hdbg i.hart).prog = none :=
  ⟨hartState { x := xRegs [(1, 0xFFF)] } [], insA, 4, 0x341, 1, by decide +kernel⟩
/-- The hypotheses of clause 2 of SystemInstructionsComplete are met together. -/
theorem witness_SystemInstructionsComplete_2 : ∃ (s : State) (i : Ins) (rd : Nat) (num : Nat) (rs1 : Nat), let u := s.fetched i; let h := u.hart i.hart; s.ready i = true ∧ h.sq = [] ∧ (num = 0x340 ∨ num = 0x342 ∨ num = 0x343) ∧ h.priv = 3 :=
  ⟨hartState { x := xRegs [(1, 0xFFF)] } [], insA, 4, 0x340, 1, by decide +kernel⟩
/-- The hypotheses of clause 3 of SystemInstructionsComplete are met together. -/
theorem witness_SystemInstructionsComplete_3 : ∃ (s : State) (i : Ins) (rd : Nat) (rs1 : Nat), let u := s.fetched i; let h := u.hart i.hart; let v := h.rx rs1; s.ready i = true ∧ h.sq = [] ∧ h.priv = 3 ∧ h.det = false ∧ h.btnOut = 0 ∧ u.nodeOf i.hart < 224 ∧ (u.reqsOf (u.nodeOf i.hart)).all (fun q => q.why == .evict) = true ∧ v.getLsbD 0 = true ∧ u.dramOf h.world (v.toNat / 2 ^ 16 % 2 ^ 32 * 2 ^ 16) 65536 = true :=
  ⟨hartState { x := xRegs [(1, 0x20001)] } [(SEL_DRAM_WM, 1)], insA, 4, 1, by decide +kernel⟩
/-- The hypotheses of clause 4 of SystemInstructionsComplete are met together. -/
theorem witness_SystemInstructionsComplete_4 : ∃ (s : State) (i : Ins) (rd : Nat) (rs1 : Nat), let u := s.fetched i; let h := u.hart i.hart; s.ready i = true ∧ h.sq = [] ∧ h.priv = 3 ∧ h.det = true ∧ h.btnOut = 0 ∧ u.nodeOf i.hart < 224 ∧ (u.reqsOf (u.nodeOf i.hart)).all (fun q => q.why == .evict) = true ∧ (h.rx rs1).getLsbD 0 = false :=
  ⟨hartState { fbuf := some 20, csr := [(csrKey true 0x7C0, 0x20001)] } [], insA, 4, 1, by decide +kernel⟩
/-- The hypotheses of clause 5 of SystemInstructionsComplete are met together. -/
theorem witness_SystemInstructionsComplete_5 : ∃ (s : State) (i : Ins) (rd : Nat) (rs1 : Nat), let u := s.fetched i; let h := u.hart i.hart; s.ready i = true ∧ h.sq = [] ∧ 1 ≤ h.priv ∧ h.virt = false ∧ u.nodeOf i.hart < 224 ∧ (h.rx rs1).getLsbD 0 = true :=
  ⟨hartState { x := xRegs [(1, 1)], pred := { base := [(320, 1, 0)] } } [], insA, 4, 1, by decide +kernel⟩
/-- The hypotheses of clause 6 of SystemInstructionsComplete are met together. -/
theorem witness_SystemInstructionsComplete_6 : ∃ (s : State) (i : Ins) (rd : Nat) (rs1 : Nat), let u := s.fetched i; let h := u.hart i.hart; s.ready i = true ∧ h.sq = [] ∧ 1 ≤ h.priv ∧ h.virt = false :=
  ⟨hartState { x := xRegs [(1, 1)] } [], insA, 4, 1, by decide +kernel⟩
/-- The hypotheses of clause 7 of SystemInstructionsComplete are met together. -/
theorem witness_SystemInstructionsComplete_7 : ∃ (s : State) (i : Ins) (rd : Nat) (rs1 : Nat), let u := s.fetched i; let h := u.hart i.hart; s.ready i = true ∧ h.sq = [] ∧ h.fsOff = false :=
  ⟨hartState { x := xRegs [(1, 0x38)], csr := [(csrKey true 0x300, 0x2000)] } [], insA, 4, 1, by decide +kernel⟩
/-- The hypotheses of clause 8 of SystemInstructionsComplete are met together. -/
theorem witness_SystemInstructionsComplete_8 : ∃ (s : State) (i : Ins), let u := s.fetched i; let h := u.hart i.hart; s.ready i = true ∧ h.sq = [] ∧ h.fsOff = false ∧ h.cf 0x8C0 12 8 = 0 :=
  ⟨hartState { csr := [(csrKey true 0x300, 0x2000)] } [], insA, by decide +kernel⟩
/-- The hypotheses of clause 9 of SystemInstructionsComplete are met together. -/
theorem witness_SystemInstructionsComplete_9 : ∃ (s : State) (i : Ins), let u := s.fetched i; let h := u.hart i.hart; let p := h.cf 0x8C0 12 8; s.ready i = true ∧ (s.hdbg i.hart).prog = false ∧ h.sq = [] ∧ h.fsOff = false ∧ p ≠ 0 ∧ h.trapMode { cause := 24 } = 3 :=
  ⟨hartState { csr := [(csrKey true 0x300, 0x2000), (csrKey true 0x8C0, 0x920)] } [], insA, by decide +kernel⟩
/-- The hypotheses of clause 10 of SystemInstructionsComplete are met together. -/
theorem witness_SystemInstructionsComplete_10 : ∃ (s : State) (i : Ins) (rs1 : Nat) (rs2 : Nat), let u := s.fetched i; let h := u.hart i.hart; let out := fun (e : TlbEnt) => e.world == h.world && !e.v && fenceSel (h.fenceArg rs1 64) (h.fenceArg rs2 16) e; s.ready i = true ∧ h.sq = [] ∧ 1 ≤ h.priv ∧ h.virt = false ∧ (h.priv = 3 ∨ h.cf 0x300 20 20 = 0) :=
  ⟨hartState { x := xRegs [(1, 0x4000)], l2tlb := [{ vpn := 4, bits := 12, mode := 9, asid := 1, vmid := 0, v := false, g := false, world := true, ppn := 4, perm := 0xFF }] } [], insA, 1, 0, by decide +kernel⟩
/-- The hypotheses of clause 11 of SystemInstructionsComplete are met together. -/
theorem witness_SystemInstructionsComplete_11 : ∃ (s : State) (i : Ins) (rs1 : Nat) (rs2 : Nat), let u := s.fetched i; let h := u.hart i.hart; let vm := h.cf 0x680 57 44; let out := fun (e : TlbEnt) => e.world == h.world && (e.v && e.vmid == vm && fenceSel (h.fenceArg rs1 64) (h.fenceArg rs2 16) e); s.ready i = true ∧ h.sq = [] ∧ 1 ≤ h.priv ∧ h.virt = false :=
  ⟨hartState { l2tlb := [{ vpn := 4, bits := 12, mode := 9, asid := 1, vmid := 0, v := true, g := false, world := true, ppn := 4, perm := 0xFF }] } [], insA, 0, 0, by decide +kernel⟩
/-- The hypotheses of clause 12 of SystemInstructionsComplete are met together. -/
theorem witness_SystemInstructionsComplete_12 : ∃ (s : State) (i : Ins) (rs2 : Nat), let u := s.fetched i; let h := u.hart i.hart; let out := fun (e : TlbEnt) => e.world == h.world && e.v && (decide (rs2 % 32 = 0) || e.vmid == (h.rx rs2).toNat % 2 ^ 14); s.ready i = true ∧ h.sq = [] ∧ 1 ≤ h.priv ∧ h.virt = false ∧ (h.priv ≠ 1 ∨ h.cf 0x300 20 20 = 0) :=
  ⟨hartState { x := xRegs [(1, 3)], l2tlb := [{ vpn := 4, bits := 12, mode := 9, asid := 1, vmid := 3, v := true, g := false, world := true, ppn := 4, perm := 0xFF }] } [], insA, 1, by decide +kernel⟩
/-- The hypotheses of clause 13 of SystemInstructionsComplete are met together. -/
theorem witness_SystemInstructionsComplete_13 : ∃ (s : State) (i : Ins) (rs1 : Nat) (target : Nat), let u := s.fetched i; let h := u.hart i.hart; let slot := (h.rx rs1).toNat % 1024; s.ready i = true ∧ h.sq = [] ∧ 1 ≤ h.priv ∧ h.virt = false ∧ u.intrOf i.hart = none ∧ u.nodeOf i.hart < 224 ∧ (u.gateCheck h slot).toOption = some target :=
  ⟨{ hartState { x := xRegs [(1, 2), (10, 7), (20, 9)], csr := [(csrKey true 0x7C3, BitVec.ofNat 64 (2 ^ 63 + 4096 + 2))] } [(SEL_LOCK, 1)] with mem := [(4128, 0), (4129, 32), (4136, 1), (8192, 0x2B), (8193, 16)] }, insA, 1, 8192, by decide +kernel⟩
/-- The hypotheses of clause 14 of SystemInstructionsComplete are met together. -/
theorem witness_SystemInstructionsComplete_14 : ∃ (s : State) (i : Ins) (rs1 : Nat) (r : Nat), let u := s.fetched i; let h := u.hart i.hart; let slot := (h.rx rs1).toNat % 1024; s.ready i = true ∧ (s.hdbg i.hart).prog = false ∧ i.hart < 192 ∧ h.sq = [] ∧ 1 ≤ h.priv ∧ h.virt = false ∧ u.intrOf i.hart = none ∧ h.trapMode { cause := 2 } = 3 ∧ (match u.gateCheck h slot with | .error r => some r | .ok _ => none) = some r :=
  ⟨hartState { x := xRegs [(1, 2)] } [(SEL_LOCK, 1)], insA, 1, 2, by decide +kernel⟩
/-- The hypotheses of clause 15 of SystemInstructionsComplete are met together. -/
theorem witness_SystemInstructionsComplete_15 : ∃ (s : State) (i : Ins), let u := s.fetched i; s.ready i = true :=
  ⟨hartState {} [], insA, by decide +kernel⟩
/-- The hypotheses of clause 1 of MemoryAccessesComplete are met together. -/
theorem witness_MemoryAccessesComplete_1 : ∃ (s : State) (c : Nat) (f : Flit) (w : Nat) (w2 : Nat), c < 12 ∧ s.dbg.stopped = false ∧ s.responder (mcNode c) = false ∧ Tab.getD s.mc.lone c [] = [] ∧ s.paired c f.line = true :=
  ⟨{ homeState [] {} {} with mc := { pairBuf := [(0, [(5, 0)])] }, mem := [(320, 7)] }, 0, { reqA with dest := 16 }, 0, 0, by decide +kernel⟩
/-- The hypotheses of clause 2 of MemoryAccessesComplete are met together. -/
theorem witness_MemoryAccessesComplete_2 : ∃ (s : State) (c : Nat) (f : Flit) (w : Nat) (w2 : Nat), c < 12 ∧ s.dbg.stopped = false ∧ s.responder (mcNode c) = false ∧ Tab.getD s.mc.lone c [] = [] ∧ s.paired c f.line = false ∧ s.ras.injected = [] ∧ s.badMark f.line w = 0 ∧ Tab.getD s.mc.bad (companion f.line) 0 < 2 :=
  ⟨{ homeState [] {} {} with mem := [(320, 7)] }, 0, { reqA with dest := 16 }, 0, 0, by decide +kernel⟩
/-- The hypotheses of clause 3 of MemoryAccessesComplete are met together. -/
theorem witness_MemoryAccessesComplete_3 : ∃ (s : State) (c : Nat) (f : Flit) (w : Nat) (w2 : Nat), c < 12 ∧ s.dbg.stopped = false ∧ s.responder (mcNode c) = false ∧ Tab.getD s.mc.lone c [] = [] ∧ s.paired c f.line = false ∧ s.ras.injected = [] ∧ s.badMark f.line w = 1 :=
  ⟨{ homeState [] {} {} with mem := [(320, 7)] }, 0, { reqA with dest := 16 }, 1, 0, by decide +kernel⟩
/-- The hypotheses of clause 4 of MemoryAccessesComplete are met together. -/
theorem witness_MemoryAccessesComplete_4 : ∃ (s : State) (c : Nat) (f : Flit) (w : Nat) (w2 : Nat), c < 12 ∧ s.dbg.stopped = false ∧ s.responder (mcNode c) = false ∧ Tab.getD s.mc.lone c [] = [] ∧ s.paired c f.line = false ∧ s.ras.injected = [] ∧ s.badMark f.line w = 2 ∧ s.mirrored c = false :=
  ⟨{ homeState [] {} {} with mem := [(320, 7)] }, 0, { reqA with dest := 16 }, 2, 0, by decide +kernel⟩
/-- The hypotheses of clause 5 of MemoryAccessesComplete are met together. -/
theorem witness_MemoryAccessesComplete_5 : ∃ (s : State) (c : Nat) (f : Flit) (w : Nat) (w2 : Nat), c < 12 ∧ s.dbg.stopped = false ∧ s.responder (mcNode c) = false ∧ Tab.getD s.mc.lone c [] = [] ∧ s.paired c f.line = false ∧ s.ras.injected = [] ∧ s.badMark f.line w = 2 ∧ s.mirrored c = true ∧ max (Tab.getD s.mc.badB f.line 0) w2 < 2 :=
  ⟨{ homeState [(MC_CFG 0, 2)] {} {} with mem := [(320, 7)] }, 0, { reqA with dest := 16 }, 2, 1, by decide +kernel⟩
/-- The hypotheses of clause 6 of MemoryAccessesComplete are met together. -/
theorem witness_MemoryAccessesComplete_6 : ∃ (s : State) (c : Nat) (f : Flit), c < 12 ∧ s.dbg.stopped = false ∧ s.responder (mcNode c) = false ∧ Tab.getD s.mc.lone c [] = [] ∧ s.ras.injected = [] :=
  ⟨homeState [] {} {}, 0, { reqA with dest := 16, data := 9, poison := true }, by decide +kernel⟩
/-- The hypotheses of clause 7 of MemoryAccessesComplete are met together. -/
theorem witness_MemoryAccessesComplete_7 : ∃ (s : State) (c : Nat) (t0 : Nat) (f : Flit), c < 12 ∧ s.dbg.stopped = false ∧ s.responder (mcNode c) = false ∧ Tab.getD s.mc.lone c [] = [(companion f.line, t0)] ∧ s.clk.time ≤ t0 + 200 ∧ s.ras.injected = [] :=
  ⟨{ homeState [] {} {} with mc := { lone := [(0, [(4, 0)])] } }, 0, 0, { reqA with dest := 16, data := 9 }, by decide +kernel⟩
/-- The hypotheses of clause 8 of MemoryAccessesComplete are met together. -/
theorem witness_MemoryAccessesComplete_8 : ∃ (s : State) (c : Nat) (l : Nat) (t0 : Nat), c < 12 ∧ Tab.getD s.mc.pairBuf c [] = [(l, t0)] ∧ Tab.getD s.mc.lone c [] = [] :=
  ⟨{ homeState [] {} {} with mc := { pairBuf := [(0, [(4, 3)])] } }, 0, 4, 3, by decide +kernel⟩
/-- The hypotheses of clause 9 of MemoryAccessesComplete are met together. -/
theorem witness_MemoryAccessesComplete_9 : ∃ (s : State) (c : Nat) (l : Nat) (t0 : Nat), c < 12 ∧ Tab.getD s.mc.pairBuf c [] = [] ∧ Tab.getD s.mc.lone c [] = [(l, t0)] ∧ Tab.getD s.mc.bad (companion l) 0 = 2 :=
  ⟨{ homeState [] {} {} with mc := { lone := [(0, [(4, 3)])], bad := [(5, 2)] } }, 0, 4, 3, by decide +kernel⟩
/-- The hypotheses of clause 10 of MemoryAccessesComplete are met together. -/
theorem witness_MemoryAccessesComplete_10 : ∃ (s : State) (c : Nat) (r : Nat), let idle := s.get (MC_CFG c) MC_CFG_PD_IDLE; c < 12 ∧ idle ≠ 0 :=
  ⟨homeState [(MC_CFG 2, 64 * 2 ^ 16 + 64 * 2 ^ 32)] {} {}, 2, 1, by decide +kernel⟩
/-- The hypotheses of clause 11 of MemoryAccessesComplete are met together. -/
theorem witness_MemoryAccessesComplete_11 : ∃ (s : State) (c : Nat) (write : Bool), c < 12 ∧ Tab.getD s.mc.alerts c 0 = 0 :=
  ⟨homeState [] {} {}, 0, true, by decide +kernel⟩
/-- The hypotheses of clause 12 of MemoryAccessesComplete are met together. -/
theorem witness_MemoryAccessesComplete_12 : ∃ (s : State) (c : Nat) (write : Bool), c < 12 ∧ Tab.getD s.mc.alerts c 0 = 1 :=
  ⟨{ homeState [] {} {} with mc := { alerts := [(0, 1)] } }, 0, true, by decide +kernel⟩
/-- The hypotheses of clause 13 of MemoryAccessesComplete are met together. -/
theorem witness_MemoryAccessesComplete_13 : ∃ (s : State) (c : Nat) (write : Bool), c < 12 ∧ Tab.getD s.mc.alerts c 0 = 3 :=
  ⟨{ homeState [] {} {} with mc := { alerts := [(0, 3)] } }, 0, true, by decide +kernel⟩
/-- The hypotheses of clause 1 of MemoryUpkeepCompletes are met together. -/
theorem witness_MemoryUpkeepCompletes_1 : ∃ (s : State) (c : Nat) (line : Nat) (w : Nat), c < 12 ∧ s.get (MC_SCRUB c) MC_SCRUB_PERIOD ≠ 0 ∧ s.badMark line w = 1 :=
  ⟨homeState [] {} {}, 0, 5, 1, by decide +kernel⟩
/-- The hypotheses of clause 2 of MemoryUpkeepCompletes are met together. -/
theorem witness_MemoryUpkeepCompletes_2 : ∃ (s : State) (c : Nat) (line : Nat) (w : Nat), c < 12 ∧ s.get (MC_SCRUB c) MC_SCRUB_PERIOD ≠ 0 ∧ s.badMark line w = 2 :=
  ⟨homeState [] {} {}, 0, 5, 2, by decide +kernel⟩
/-- The hypotheses of clause 4 of MemoryUpkeepCompletes are met together. -/
theorem witness_MemoryUpkeepCompletes_4 : ∃ (s : State) (c : Nat) (r : Nat) (d : Nat) (n : Nat) (thr : Nat), c < 12 ∧ thr < n :=
  ⟨homeState [] {} {}, 0, 1, 2, 9, 8, by decide +kernel⟩
/-- The hypotheses of clause 6 of MemoryUpkeepCompletes are met together. -/
theorem witness_MemoryUpkeepCompletes_6 : ∃ (s : State) (c : CardCtx) (ch : Nat) (p : Nat) (e : Nat) (b : Nat) (l : Nat), let u := s.taken c 0x0301; s.cardOk c 0x0301 false (chanOwner ch) = true ∧ ch < 12 ∧ p < 256 ∧ 1 ≤ e ∧ e < 256 ∧ 1 ≤ b ∧ b < 256 ∧ 1 ≤ l ∧ l < 256 ∧ u.stopLost (0x10 + ch) = false :=
  ⟨cardState [], kCard, 11, 0, 1, 255, 3, by decide +kernel⟩
/-- The hypotheses of clause 7 of MemoryUpkeepCompletes are met together. -/
theorem witness_MemoryUpkeepCompletes_7 : ∃ (s : State) (c : CardCtx) (pair : Nat) (on : Bool), let u := s.taken c 0x0302; let a := MC_CFG (2 * pair); let b := MC_CFG (2 * pair + 1); s.cardOk c 0x0302 false (chanOwner (2 * pair)) = true ∧ pair < 6 ∧ u.stopLost (0x10 + 2 * pair) = false ∧ u.opOpen [0x0302] pair = false ∧ u.bit a MC_CFG_POP = true ∧ u.bit b MC_CFG_POP = true ∧ u.get a MC_CFG_RANKS = u.get b MC_CFG_RANKS ∧ u.get a MC_CFG_CAP = u.get b MC_CFG_CAP :=
  ⟨cardState [(MC_CFG 10, 0x201), (MC_CFG 11, 0x201)], kCard, 5, true, by decide +kernel⟩
/-- The hypotheses of clause 8 of MemoryUpkeepCompletes are met together. -/
theorem witness_MemoryUpkeepCompletes_8 : ∃ (s : State) (c : CardCtx) (pair : Nat) (k : Nat), let u := s.taken c 0x0302; s.cardOk c 0x0302 false (chanOwner (2 * pair)) = true ∧ pair < 6 ∧ u.stopLost (0x10 + 2 * pair) = false ∧ u.opOpen [0x0302] pair = false ∧ Tab.find u.mc.alone pair = some k ∧ partner k < 12 ∧ u.bit (MC_CFG (partner k)) MC_CFG_RETIRED = false ∧ u.tstate (mcNode (partner k)) = tsRun ∧ u.slotFree false = true :=
  ⟨{ cardState [(nodeBase (mcNode 10), 0)] with mc := { alone := [(5, 11)] } }, kCard, 5, 11, by decide +kernel⟩
/-- The hypotheses of clause 9 of MemoryUpkeepCompletes are met together. -/
theorem witness_MemoryUpkeepCompletes_9 : ∃ (s : State) (pair : Nat) (k : Nat) (o : OpenOp), pair < 6 ∧ s.findOp 0x0302 pair = some o ∧ Tab.find s.mc.alone pair = some k ∧ partner k < 12 :=
  ⟨{ cardState [(MC_ILV 1, 0x82A * 2 ^ 36)] with mc := { alone := [(5, 11)] }, dby := { openOps := [⟨kCard, 0x0302, 5, 0, false⟩] } }, 5, 11, ⟨kCard, 0x0302, 5, 0, false⟩, by decide +kernel⟩
/-- The hypotheses of clause 10 of MemoryUpkeepCompletes are met together. -/
theorem witness_MemoryUpkeepCompletes_10 : ∃ (s : State) (c : CardCtx) (ch : Nat) (r : Nat), let u := s.taken c 0x0303; s.cardOk c 0x0303 false (chanOwner ch) = true ∧ ch < 12 ∧ u.stopLost (0x10 + ch) = false ∧ u.opOpen [0x0303] ch = false ∧ r < u.get (MC_CFG ch) MC_CFG_RANKS ∧ r ≠ u.get (MC_CFG ch) MC_CFG_SPARE ∧ u.get (MC_CFG ch) MC_CFG_SPARE ≠ 0xF ∧ Tab.find u.mc.spared ch = none ∧ u.get (MC_STAT ch) MC_STAT_FAILED_RANK = 0xF ∧ u.slotFree false = true :=
  ⟨cardState [(MC_CFG 3, 0x3401)], kCard, 3, 1, by decide +kernel⟩
/-- The hypotheses of clause 11 of MemoryUpkeepCompletes are met together. -/
theorem witness_MemoryUpkeepCompletes_11 : ∃ (s : State) (ch : Nat) (r : Nat) (o : OpenOp), ch < 12 ∧ r < 16 ∧ s.findOp 0x0303 ch = some o ∧ Tab.find s.mc.copying ch = some r :=
  ⟨{ cardState [] with mc := { copying := [(3, 1)] }, dby := { openOps := [⟨kCard, 0x0303, 3, 0, false⟩] } }, 3, 1, ⟨kCard, 0x0303, 3, 0, false⟩, by decide +kernel⟩
/-- The hypotheses of clause 12 of MemoryUpkeepCompletes are met together. -/
theorem witness_MemoryUpkeepCompletes_12 : ∃ (s : State) (c : CardCtx) (ch : Nat) (r : Nat) (g : Nat) (b : Nat) (w : Nat), let u := s.taken c 0x0304; s.cardOk c 0x0304 false (chanOwner ch) = true ∧ ch < 12 ∧ u.stopLost (0x10 + ch) = false ∧ r < u.get (MC_CFG ch) MC_CFG_RANKS ∧ u.opOpen [0x0304] ch = false ∧ u.slotFree false = true :=
  ⟨cardState [(MC_CFG 3, 0x401)], kCard, 3, 1, 2, 3, 500, by decide +kernel⟩
/-- The hypotheses of clause 13 of MemoryUpkeepCompletes are met together. -/
theorem witness_MemoryUpkeepCompletes_13 : ∃ (s : State) (c : CardCtx) (ch : Nat) (r : Nat) (g : Nat) (b : Nat) (w : Nat), let u := s.taken c 0x0304; s.cardOk c 0x0304 false (chanOwner ch) = true ∧ ch < 12 ∧ u.stopLost (0x10 + ch) = false ∧ r < u.get (MC_CFG ch) MC_CFG_RANKS ∧ u.opOpen [0x0304] ch = false ∧ u.bit (MC_CFG ch) MC_CFG_RETIRED = true ∧ u.tstate (mcNode ch) = tsFenced ∧ u.slotFree false = true :=
  ⟨cardState [(MC_CFG 3, 0x405), (nodeBase (mcNode 3), 3 * 2 ^ 40)], kCard, 3, 1, 2, 3, 500, by decide +kernel⟩
/-- The hypotheses of clause 14 of MemoryUpkeepCompletes are met together. -/
theorem witness_MemoryUpkeepCompletes_14 : ∃ (s : State) (c : CardCtx) (ch : Nat), let u := s.taken c 0x0305; s.cardOk c 0x0305 false (chanOwner ch) = true ∧ ch < 12 ∧ u.stopLost (0x10 + ch) = false ∧ u.opOpen [0x0305] ch = false ∧ u.bit (MC_CFG ch) MC_CFG_RETIRED = false ∧ u.mirrored ch = false ∧ u.slotFree false = true :=
  ⟨cardState [(MC_CFG 3, 0x401)], kCard, 3, by decide +kernel⟩
/-- The hypotheses of clause 15 of MemoryUpkeepCompletes are met together. -/
theorem witness_MemoryUpkeepCompletes_15 : ∃ (s : State) (c : CardCtx) (ch : Nat) (force : Bool), let u := s.taken c 0x0305; s.cardOk c 0x0305 false (chanOwner ch) = true ∧ ch < 12 ∧ u.stopLost (0x10 + ch) = false ∧ u.opOpen [0x0305] ch = false ∧ u.bit (MC_CFG ch) MC_CFG_RETIRED = false ∧ u.mirrored ch = true ∧ u.slotFree false = true :=
  ⟨cardState [(MC_CFG 3, 0x403)], kCard, 3, false, by decide +kernel⟩
/-- The hypotheses of clause 16 of MemoryUpkeepCompletes are met together. -/
theorem witness_MemoryUpkeepCompletes_16 : ∃ (s : State) (ch : Nat) (pa : Nat) (loc : Nat), ch < 12 ∧ s.channelOf pa = some (ch, loc) :=
  ⟨{ homeState [] {} {} with mem := [(320, 7)], poison := [(5, true)] }, 0, 320, 320, by decide +kernel⟩
/-- The hypotheses of clause 1 of InterruptSourcesComplete are met together. -/
theorem witness_InterruptSourcesComplete_1 : ∃ (s : State) (n : Nat) (lvl : Bool), 1 ≤ n ∧ n < 1024 ∧ s.hrn.clkStopped = false ∧ s.get (HRN_SRC n) HRN_SRC_TRIG = 0 ∧ s.srcInService n = false :=
  ⟨harnState [(HRN_SRC 70, 1 + 12 * 2 ^ 24)] {}, 70, true, by decide +kernel⟩
/-- The hypotheses of clause 2 of InterruptSourcesComplete are met together. -/
theorem witness_InterruptSourcesComplete_2 : ∃ (s : State) (n : Nat), 1 ≤ n ∧ n < 1024 ∧ s.hrn.clkStopped = false ∧ (s.get (HRN_SRC n) HRN_SRC_TRIG).testBit 0 = true ∧ s.hrn.lines.contains n = false :=
  ⟨harnState [(HRN_SRC 70, 3 + 12 * 2 ^ 24)] {}, 70, by decide +kernel⟩
/-- The hypotheses of clause 3 of InterruptSourcesComplete are met together. -/
theorem witness_InterruptSourcesComplete_3 : ∃ (s : State) (n : Nat), 1 ≤ n ∧ n ≤ 64 ∧ s.hrn.clkStopped = true ∧ s.hrn.lines.contains n = false :=
  ⟨harnState [] { clkStopped := true }, 5, by decide +kernel⟩
/-- The hypotheses of clause 4 of InterruptSourcesComplete are met together. -/
theorem witness_InterruptSourcesComplete_4 : ∃ (s : State) (v : Nat), let w := s.reg (HRN_VEC v); let h := HRN_VEC_HART.get w; let f := fileOf (HRN_VEC_WORLD.get w != 0) (HRN_VEC_LEVEL.get w) (HRN_VEC_GUEST.get w); 1024 ≤ v ∧ v ≤ 33791 ∧ s.bit (HRN_VEC v) HRN_VEC_VALID = true :=
  ⟨harnState [(HRN_VEC 2100, 1 + 5 * 2 ^ 24)] {}, 2100, by decide +kernel⟩
/-- The hypotheses of clause 5 of InterruptSourcesComplete are met together. -/
theorem witness_InterruptSourcesComplete_5 : ∃ (s : State) (v : Nat), 1024 ≤ v ∧ v ≤ 33791 ∧ s.bit (HRN_VEC v) HRN_VEC_VALID = false :=
  ⟨harnState [] {}, 33791, by decide +kernel⟩
/-- The hypotheses of clause 6 of InterruptSourcesComplete are met together. -/
theorem witness_InterruptSourcesComplete_6 : ∃ (s : State) (w : Bool) (n : Nat) (v : W64), 1 ≤ n ∧ n < 1024 ∧ s.bit (HRN_SRC n) HRN_SRC_WORLD = w ∧ s.bit (HRN_SRC n) HRN_SRC_EN = false ∧ targetOk (HRN_SRC_HART.get v) (HRN_SRC_LEVEL.get v) (HRN_SRC_GUEST.get v) (HRN_SRC_PRIO.get v) w = true :=
  ⟨harnState [] {}, false, 64, BitVec.ofNat 64 (1 + 2 ^ 16 + 31 * 2 ^ 24 + 191 * 2 ^ 8), by decide +kernel⟩
/-- The hypotheses of clause 7 of InterruptSourcesComplete are met together. -/
theorem witness_InterruptSourcesComplete_7 : ∃ (s : State) (w : Bool) (n : Nat) (v : W64), 1 ≤ n ∧ n < 1024 ∧ s.bit (HRN_SRC n) HRN_SRC_WORLD = w ∧ s.bit (HRN_SRC n) HRN_SRC_EN = false ∧ targetOk (HRN_SRC_HART.get v) (HRN_SRC_LEVEL.get v) (HRN_SRC_GUEST.get v) (HRN_SRC_PRIO.get v) w = false :=
  ⟨harnState [(HRN_SRC 70, 2 ^ 6)] {}, true, 70, BitVec.ofNat 64 (1 + 2 ^ 16 + 31 * 2 ^ 24), by decide +kernel⟩
/-- The hypotheses of clause 8 of InterruptSourcesComplete are met together. -/
theorem witness_InterruptSourcesComplete_8 : ∃ (s : State) (w : Bool) (n : Nat) (v : W64), 1 ≤ n ∧ n < 1024 ∧ s.bit (HRN_SRC n) HRN_SRC_WORLD = w ∧ s.bit (HRN_SRC n) HRN_SRC_EN = true :=
  ⟨harnState [(HRN_SRC 70, 3 + 12 * 2 ^ 24)] {}, false, 70, 0, by decide +kernel⟩
/-- The hypotheses of clause 9 of InterruptSourcesComplete are met together. -/
theorem witness_InterruptSourcesComplete_9 : ∃ (s : State) (n : Nat) (f : Flit), f.line % 16 < 10 ∧ seqNewer (s.tileIrq n (f.line % 16)).seq f.txn = true :=
  ⟨harnState [] {}, 7, { flitA with cls := 6, txn := 2047, line := 9 }, by decide +kernel⟩
/-- The hypotheses of clause 10 of InterruptSourcesComplete are met together. -/
theorem witness_InterruptSourcesComplete_10 : ∃ (s : State) (n : Nat) (f : Flit), f.line % 16 < 10 ∧ seqNewer (s.tileIrq n (f.line % 16)).seq f.txn = true :=
  ⟨harnState [] {}, 7, { flitA with cls := 6, txn := 1, line := 9 }, by decide +kernel⟩
/-- The hypotheses of clause 11 of InterruptSourcesComplete are met together. -/
theorem witness_InterruptSourcesComplete_11 : ∃ (s : State) (n : Nat) (f : Flit), (f.line % 16 = 0 ∨ f.line % 16 = 9) ∧ seqNewer (s.tileIrq n (f.line % 16)).seq f.txn = true :=
  ⟨harnState [] {}, 7, { flitA with cls := 6, txn := 1, line := 9 }, by decide +kernel⟩
/-- The hypotheses of clause 12 of InterruptSourcesComplete are met together. -/
theorem witness_InterruptSourcesComplete_12 : ∃ (s : State) (n : Nat) (f : Flit), (f.line % 16 = 0 ∨ f.line % 16 = 9) ∧ seqNewer (s.tileIrq n (f.line % 16)).seq f.txn = true :=
  ⟨harnState [] {}, 7, { flitA with cls := 6, txn := 1, line := 0 }, by decide +kernel⟩
/-- The hypotheses of clause 13 of InterruptSourcesComplete are met together. -/
theorem witness_InterruptSourcesComplete_13 : ∃ (s : State) (n : Nat) (f : Flit), (f.line % 16 = 0 ∨ f.line % 16 = 1 ∨ f.line % 16 = 9) ∧ seqNewer (s.tileIrq n (f.line % 16)).seq f.txn = true :=
  ⟨harnState [] {}, 7, { flitA with cls := 6, txn := 1, line := 1 }, by decide +kernel⟩
/-- The hypotheses of clause 14 of InterruptSourcesComplete are met together. -/
theorem witness_InterruptSourcesComplete_14 : ∃ (s : State) (n : Nat) (f : Flit), (f.line % 16 = 0 ∨ f.line % 16 = 1 ∨ f.line % 16 = 9) ∧ seqNewer (s.tileIrq n (f.line % 16)).seq f.txn = true :=
  ⟨harnState [] {}, 7, { flitA with cls := 6, txn := 1, line := 1 }, by decide +kernel⟩
/-- The hypotheses of clause 15 of InterruptSourcesComplete are met together. -/
theorem witness_InterruptSourcesComplete_15 : ∃ (s : State) (n : Nat) (h : Nat) (f : Flit), s.hartAt f.src = some h :=
  ⟨harnState [] {}, 39, 0, { flitA with src := 7 }, by decide +kernel⟩
/-- The hypotheses of clause 16 of InterruptSourcesComplete are met together. -/
theorem witness_InterruptSourcesComplete_16 : ∃ (s : State) (n : Nat) (up : Bool), s.hrn.clkStopped = true ∧ 1 ≤ n ∧ n ≤ 64 :=
  ⟨harnState [] { clkStopped := true }, 64, false, by decide +kernel⟩
/-- The hypotheses of clause 17 of InterruptSourcesComplete are met together. -/
theorem witness_InterruptSourcesComplete_17 : ∃ (s : State) (n : Nat), s.hrn.clkStopped = false ∧ 1 ≤ n ∧ n ≤ 64 ∧ s.hrn.latchRise = [n] ∧ s.hrn.latchFall = [] :=
  ⟨harnState [] { latchRise := [34] }, 34, by decide +kernel⟩
/-- The hypotheses of clause 1 of InterruptFilesComplete are met together. -/
theorem witness_InterruptFilesComplete_1 : ∃ (s : State) (h : Nat) (f : Nat) (p : Nat) (id : Nat), h ≤ 191 ∧ f ≤ 9 ∧ s.claimable h f = some (p, id) ∧ 1 ≤ id ∧ id ≤ 33791 :=
  ⟨harnState [(HRN_SRC 70, 11 + 12 * 2 ^ 24)] {}, 0, 0, 12, 70, by decide +kernel⟩
/-- The hypotheses of clause 2 of InterruptFilesComplete are met together. -/
theorem witness_InterruptFilesComplete_2 : ∃ (s : State) (h : Nat) (f : Nat), h ≤ 191 ∧ f ≤ 9 ∧ s.claimable h f = none ∧ ((f = 0 ∨ f = 9) ∧ (s.claimable h (9 - f)).isSome = true) :=
  ⟨harnState [(HRN_SRC 70, 11 + 64 + 12 * 2 ^ 24)] {}, 0, 0, by decide +kernel⟩
/-- The hypotheses of clause 3 of InterruptFilesComplete are met together. -/
theorem witness_InterruptFilesComplete_3 : ∃ (s : State) (h : Nat) (f : Nat), h ≤ 191 ∧ f ≤ 9 ∧ s.claimable h f = none ∧ (¬ ((f = 0 ∨ f = 9) ∧ (s.claimable h (9 - f)).isSome = true)) ∧ (s.eipOf h f).1 = true :=
  ⟨harnState [] { eip := [(1, true, 5)] }, 0, 1, by decide +kernel⟩
/-- The hypotheses of clause 4 of InterruptFilesComplete are met together. -/
theorem witness_InterruptFilesComplete_4 : ∃ (s : State) (h : Nat) (f : Nat), h ≤ 191 ∧ f ≤ 9 ∧ s.claimable h f = none ∧ (¬ ((f = 0 ∨ f = 9) ∧ (s.claimable h (9 - f)).isSome = true)) ∧ (s.eipOf h f).1 = false :=
  ⟨harnState [] {}, 191, 9, by decide +kernel⟩
/-- The hypotheses of clause 5 of InterruptFilesComplete are met together. -/
theorem witness_InterruptFilesComplete_5 : ∃ (s : State) (w : Bool) (h : Nat) (f : Nat), h ≤ 191 ∧ f ≤ 9 ∧ w ≠ fileWorld f :=
  ⟨harnState [] {}, false, 191, 9, by decide +kernel⟩
/-- The hypotheses of clause 6 of InterruptFilesComplete are met together. -/
theorem witness_InterruptFilesComplete_6 : ∃ (s : State) (h : Nat) (f : Nat) (p : Nat) (id : Nat), h ≤ 191 ∧ f ≤ 9 ∧ s.inService h f = [(p, id)] :=
  ⟨harnState [(HRN_SRC 70, 3 + 12 * 2 ^ 24)] { isrv := [(0, [(12, 70)])] }, 0, 0, 12, 70, by decide +kernel⟩
/-- The hypotheses of clause 7 of InterruptFilesComplete are met together. -/
theorem witness_InterruptFilesComplete_7 : ∃ (s : State) (h : Nat) (f : Nat) (id : Nat), h ≤ 191 ∧ f ≤ 9 ∧ (s.inService h f).any (fun q => q.2 == id) = false :=
  ⟨harnState [] { isrv := [(0, [(12, 70)])] }, 0, 0, 71, by decide +kernel⟩
/-- The hypotheses of clause 8 of InterruptFilesComplete are met together. -/
theorem witness_InterruptFilesComplete_8 : ∃ (s : State) (h : Nat) (f : Nat) (p : Nat) (id : Nat), h ≤ 191 ∧ f ≤ 9 ∧ s.inService h f = [(p, id)] ∧ 1024 ≤ id :=
  ⟨harnState [(HRN_SRC 70, 11 + 12 * 2 ^ 24)] { isrv := [(0, [(31, 33791)])] }, 0, 0, 31, 33791, by decide +kernel⟩
/-- The hypotheses of clause 9 of InterruptFilesComplete are met together. -/
theorem witness_InterruptFilesComplete_9 : ∃ (s : State) (h : Nat) (f : Nat) (v : W64), h ≤ 191 ∧ f ≤ 9 :=
  ⟨harnState [(HRN_SRC 70, 11 + 12 * 2 ^ 24)] {}, 191, 9, 31, by decide +kernel⟩
/-- The hypotheses of clause 10 of InterruptFilesComplete are met together. -/
theorem witness_InterruptFilesComplete_10 : ∃ (s : State) (h : Nat) (f : Nat) (v : Bool), h ≤ 191 ∧ (f = 0 ∨ f = 9) ∧ Tab.getD s.hrn.msip (h * 16 + f) false = !v ∧ s.hrnCan h = true :=
  ⟨harnState [] {}, 0, 9, true, by decide +kernel⟩
/-- The hypotheses of clause 11 of InterruptFilesComplete are met together. -/
theorem witness_InterruptFilesComplete_11 : ∃ (s : State) (h : Nat) (f : Nat) (v : W64), h ≤ 191 ∧ (f = 0 ∨ f = 1 ∨ f = 9) :=
  ⟨harnState [] {}, 191, 1, 0, by decide +kernel⟩
/-- The hypotheses of clause 12 of InterruptFilesComplete are met together. -/
theorem witness_InterruptFilesComplete_12 : ∃ (s : State) (h : Nat) (f : Nat), h ≤ 191 ∧ (f = 0 ∨ f = 1 ∨ f = 9) ∧ Tab.getD s.hrn.tip (h * 16 + f) false = false ∧ s.hrnCan h = true :=
  ⟨harnState [(HRN_TIMECMP 0 1, 500)] {}, 0, 1, by decide +kernel⟩
/-- The hypotheses of clause 2 of CardRingsComplete are met together. -/
theorem witness_CardRingsComplete_2 : ∃ (s : State) (x : Bool) (w : Bool) (v : W64), x ≠ w :=
  ⟨dbyState [] {} [], false, true, 5, by decide +kernel⟩
/-- The hypotheses of clause 4 of CardRingsComplete are met together. -/
theorem witness_CardRingsComplete_4 : ∃ (s : State) (w : Bool) (v : W64), let i := ringIx w; let log := DBY_RING_CFG_LOG.get v; let rlog := DBY_RING_CFG_RLOG.get v; let ctl := s.get (DBY_RING_CTLA i) DBY_RING_CTLA_ADDR * 64; s.bit (DBY_RING_CFG i) DBY_RING_CFG_EN = false ∧ 6 ≤ log ∧ log ≤ 14 ∧ 6 ≤ rlog ∧ rlog ≤ 14 ∧ s.dramOf w (DBY_RING_CFG_BASE.get v * 4096) (64 * 2 ^ log) = true ∧ s.dramOf w (s.get (DBY_RING_RBASE i) DBY_RING_RBASE_ADDR * 64) (64 * 2 ^ rlog) = true ∧ s.dramOf w ctl 64 = true :=
  ⟨dbyState [(DBY_RING_CFG 0, 0x660)] { ring0 := { cons := 5 } } [(1073815552, 5)], false, BitVec.ofNat 64 (2 ^ 30 + 65536 + 0x6E1), by decide +kernel⟩
/-- The hypotheses of clause 5 of CardRingsComplete are met together. -/
theorem witness_CardRingsComplete_5 : ∃ (s : State) (w : Bool) (v : W64), let i := ringIx w; s.bit (DBY_RING_CFG i) DBY_RING_CFG_EN = false ∧ (DBY_RING_CFG_LOG.get v < 6 ∨ 14 < DBY_RING_CFG_LOG.get v ∨ s.dramOf w (s.get (DBY_RING_CTLA i) DBY_RING_CTLA_ADDR * 64) 64 = false) :=
  ⟨dbyState [(DBY_RING_CFG 0, 0x660)] {} [], false, BitVec.ofNat 64 (2 ^ 30 + 65536 + 0x6F1), by decide +kernel⟩
/-- The hypotheses of clause 6 of CardRingsComplete are met together. -/
theorem witness_CardRingsComplete_6 : ∃ (s : State) (w : Bool) (v : W64), s.bit (DBY_RING_CFG (ringIx w)) DBY_RING_CFG_EN = true :=
  ⟨dbyState [] {} [], false, 0, by decide +kernel⟩
/-- The hypotheses of clause 7 of CardRingsComplete are met together. -/
theorem witness_CardRingsComplete_7 : ∃ (s : State) (w : Bool), (s.dby.ringOf w).disabling = true ∧ (s.dby.ringOf w).taken = 0 :=
  ⟨dbyState [] { ring0 := { disabling := true } } [], false, by decide +kernel⟩
/-- The hypotheses of clause 8 of CardRingsComplete are met together. -/
theorem witness_CardRingsComplete_8 : ∃ (s : State) (w : Bool), let i := ringIx w; let x := s.dby.ringOf w; let avail := (s.get (DBY_RING_PROD i) DBY_RING_PROD_INDEX + 2 ^ 32 - x.cons) % 2 ^ 32; let head := s.ringBytes w x.cons 16; let words := cardField head 6 2; let slots := (words * 4 + 63) / 64; let op := cardField head 0 2; let l := s.ringBytes w x.cons (words * 4); let c := cardCtx (.ring w) head; s.ringLive w = true ∧ s.dstate < 2 ∧ s.romReady = true ∧ 0 < avail ∧ slots ≤ avail ∧ replySpace op ≤ s.replyRoom w ∧ s.ringPoison w x.cons (words * 4) = false ∧ 4 ≤ words ∧ words ≤ 1024 ∧ headerBad l = none ∧ s.gateFail c op (mctpAllows op l) (s.cardOwner c.world op (cardField l 8 2) l) = none ∧ s.queueFree (cardField l 3 1) = true :=
  ⟨dbyState [(DBY_RING_PROD 0, 1)] {} cardMem, false, by decide +kernel⟩
/-- The hypotheses of clause 9 of CardRingsComplete are met together. -/
theorem witness_CardRingsComplete_9 : ∃ (s : State) (w : Bool), let i := ringIx w; let x := s.dby.ringOf w; let head := s.ringBytes w x.cons 16; let words := cardField head 6 2; let op := cardField head 0 2; s.ringLive w = true ∧ s.dstate < 2 ∧ s.romReady = true ∧ (s.get (DBY_RING_PROD i) DBY_RING_PROD_INDEX + 2 ^ 32 - x.cons) % 2 ^ 32 ≠ 0 ∧ 1 ≤ s.replyRoom w ∧ s.ringPoison w x.cons 16 = false ∧ (words < 4 ∨ 1024 < words) :=
  ⟨dbyState [(DBY_RING_PROD 0, 1)] {} [(1073807360, 1), (1073807366, 3)], false, by decide +kernel⟩
/-- The hypotheses of clause 10 of CardRingsComplete are met together. -/
theorem witness_CardRingsComplete_10 : ∃ (s : State) (w : Bool), let i := ringIx w; let x := s.dby.ringOf w; s.ringLive w = true ∧ s.dstate < 2 ∧ s.romReady = true ∧ (s.get (DBY_RING_PROD i) DBY_RING_PROD_INDEX + 2 ^ 32 - x.cons) % 2 ^ 32 ≠ 0 ∧ 1 ≤ s.replyRoom w ∧ s.ringPoison w x.cons 16 = true :=
  ⟨{ dbyState [(DBY_RING_PROD 0, 1)] {} [(1073807360, 1), (1073807366, 3)] with poison := [(16778240, true)] }, false, by decide +kernel⟩
/-- The hypotheses of clause 11 of CardRingsComplete are met together. -/
theorem witness_CardRingsComplete_11 : ∃ (s : State) (w : Bool), let i := ringIx w; let x := s.dby.ringOf w; let avail := (s.get (DBY_RING_PROD i) DBY_RING_PROD_INDEX + 2 ^ 32 - x.cons) % 2 ^ 32; let words := cardField (s.ringBytes w x.cons 16) 6 2; s.ringLive w = true ∧ s.dstate < 2 ∧ s.romReady = true ∧ 0 < avail ∧ (words * 4 + 63) / 64 ≤ avail ∧ 4 ≤ words ∧ words ≤ 1024 ∧ s.ringPoison w x.cons (words * 4) = false ∧ s.replyRoom w < replySpace (cardField (s.ringBytes w x.cons 16) 0 2) ∧ x.stalled = false :=
  ⟨dbyState [(DBY_RING_PROD 0, 1)] { ring0 := { replyProd := 64 } } cardMem, false, by decide +kernel⟩
/-- The hypotheses of clause 12 of CardRingsComplete are met together. -/
theorem witness_CardRingsComplete_12 : ∃ (s : State) (e : Nat) (l : List Byte), let c := cardCtx (.mctp e) l; let op := cardField l 0 2; let k := l.take (cardField l 6 2 * 4); s.reaches c op = true ∧ (mctpFirst c op s).isNone = true ∧ 4 ≤ cardField l 6 2 ∧ cardField l 6 2 ≤ 1024 ∧ cardField l 6 2 * 4 ≤ l.length ∧ l.length ≤ 4096 ∧ headerBad k = none ∧ s.gateFail (cardCtx (.mctp e) k) op (mctpAllows op k) (s.cardOwner c.world op (cardField k 8 2) k) = none ∧ s.queueFree (cardField k 3 1) = true :=
  ⟨dbyState [] {} [], 255, cardA ++ [9], by decide +kernel⟩
/-- The hypotheses of clause 13 of CardRingsComplete are met together. -/
theorem witness_CardRingsComplete_13 : ∃ (s : State) (e : Nat) (m : List Byte), m.take 3 ≠ [0x7E, 0x1F, 0x9A] :=
  ⟨dbyState [] {} [], 1, [0x7E, 0x1F, 0x9B], by decide +kernel⟩
/-- The hypotheses of clause 14 of CardRingsComplete are met together. -/
theorem witness_CardRingsComplete_14 : ∃ (s : State) (l : List Byte), let c := cardCtx .jtag l; let op := cardField l 0 2; s.dbg.ir = 0x20 ∧ s.reaches c op = true ∧ (cardField l 6 2 < 4 ∨ 1024 < cardField l 6 2 ∨ l.length < cardField l 6 2 * 4) :=
  ⟨{ dbyState [] {} [] with dbg := { ir := 0x20 } }, cardA.take 15, by decide +kernel⟩
/-- The hypotheses of clause 15 of CardRingsComplete are met together. -/
theorem witness_CardRingsComplete_15 : ∃ (s : State) (k : Nat) (q : Card), 1 ≤ k ∧ k ≤ 4 ∧ s.dby.queue.find? (·.cls == k) = some q :=
  ⟨dbyState [] { queue := [⟨kCard, 1, 3, false, 0xFFFF, cardA, 7⟩] } [], 3, ⟨kCard, 1, 3, false, 0xFFFF, cardA, 7⟩, by decide +kernel⟩
/-- The hypotheses of clause 16 of CardRingsComplete are met together. -/
theorem witness_CardRingsComplete_16 : ∃ (s : State) (ok : Bool) (r : Nat) (q : Card), s.nextCard = some q ∧ s.romReady = true ∧ q.opcode = 0x0001 ∧ cardBad q.opcode q.bytes = none ∧ s.gateFail q.ctx 0x0001 false .any = none :=
  ⟨dbyState [] { queue := [⟨kCard, 1, 3, false, 0xFFFF, cardA, 7⟩] } [], true, 0, ⟨kCard, 1, 3, false, 0xFFFF, cardA, 7⟩, by decide +kernel⟩
/-- The hypotheses of clause 17 of CardRingsComplete are met together. -/
theorem witness_CardRingsComplete_17 : ∃ (s : State) (ok : Bool) (r : Nat) (o : Nat) (q : Card), s.nextCard = some q ∧ s.romReady = true ∧ cardBad q.opcode q.bytes = some o :=
  ⟨dbyState [] { queue := [⟨kCard, 1, 3, false, 0xFFFF, cardA ++ [0, 1], 7⟩] } [], true, 0, 17, ⟨kCard, 1, 3, false, 0xFFFF, cardA ++ [0, 1], 7⟩, by decide +kernel⟩
/-- The hypotheses of clause 18 of CardRingsComplete are met together. -/
theorem witness_CardRingsComplete_18 : ∃ (s : State), s.romReady = true :=
  ⟨dbyState [] { queue := [⟨kCard, 1, 3, false, 0xFFFF, cardA, 7⟩] } [], by decide +kernel⟩
/-- The hypotheses of clause 19 of CardRingsComplete are met together. -/
theorem witness_CardRingsComplete_19 : ∃ (s : State) (q : Card), s.romReady = true ∧ s.dby.queue = [q] ∧ s.dby.openOps = [] :=
  ⟨dbyState [] { queue := [⟨kCard, 1, 3, false, 0xFFFF, cardA, 7⟩] } [], ⟨kCard, 1, 3, false, 0xFFFF, cardA, 7⟩, by decide +kernel⟩
/-- The hypotheses of clause 20 of CardRingsComplete are met together. -/
theorem witness_CardRingsComplete_20 : ∃ (s : State), s.romReady = true :=
  ⟨dbyState [] { queue := [⟨kCard, 1, 3, false, 0xFFFF, cardA, 7⟩] } [], by decide +kernel⟩
/-- The hypotheses of clause 21 of CardRingsComplete are met together. -/
theorem witness_CardRingsComplete_21 : ∃ (s : State), s.romReady = true :=
  ⟨dbyState [(CREEL_CH_STAT 3, 2 + 7 * 2 ^ 16)] {} [], by decide +kernel⟩
/-- The hypotheses of clause 1 of InfoCardsComplete are met together. -/
theorem witness_InfoCardsComplete_1 : ∃ (s : State) (c : CardCtx), let u := s.taken c 0x0001; s.cardOk c 0x0001 false (fun _ => .any) = true :=
  ⟨cardState [], kCard, by decide +kernel⟩
/-- The hypotheses of clause 2 of InfoCardsComplete are met together. -/
theorem witness_InfoCardsComplete_2 : ∃ (s : State) (c : CardCtx), let u := s.taken c 0x0002; s.cardOk c 0x0002 false (fun _ => .any) = true :=
  ⟨cardState [(MC_CFG 11, 1)], kCard, by decide +kernel⟩
/-- The hypotheses of clause 3 of InfoCardsComplete are met together. -/
theorem witness_InfoCardsComplete_3 : ∃ (s : State) (c : CardCtx), let u := s.taken c 0x0003; s.cardOk c 0x0003 false (fun _ => .any) = true ∧ (c.via = .keeper ∨ c.via = .jtag) :=
  ⟨cardState [], kCard, by decide +kernel⟩
/-- The hypotheses of clause 4 of InfoCardsComplete are met together. -/
theorem witness_InfoCardsComplete_4 : ∃ (s : State) (c : CardCtx) (a : Nat), let u := s.taken c 0x0003; s.cardOk c 0x0003 false (fun _ => .any) = true ∧ a ≠ 0 ∧ a % 64 = 0 ∧ u.dramOf c.world a 2048 = true ∧ (c.via = .keeper ∨ c.via = .jtag) :=
  ⟨{ dbyState [] { serving := true } [] with clk := { time := 7 } }, kCard, 64, by decide +kernel⟩
/-- The hypotheses of clause 5 of InfoCardsComplete are met together. -/
theorem witness_InfoCardsComplete_5 : ∃ (s : State) (c : CardCtx) (a : Nat), let u := s.taken c 0x0003; s.cardOk c 0x0003 false (fun _ => .any) = true ∧ a ≠ 0 ∧ (a % 64 ≠ 0 ∨ u.dramOf c.world a 2048 = false) :=
  ⟨cardState [], kCard, 63, by decide +kernel⟩
/-- The hypotheses of clause 1 of SelvedgeCommandsComplete are met together. -/
theorem witness_SelvedgeCommandsComplete_1 : ∃ (s : State) (c : CardCtx) (a : Nat), let u := s.taken c 0x0803; let x := assignOf (u.rd a 2304); s.cardOk c 0x0803 false (fun _ => .is true) = true ∧ u.bit SEL_LOCK SEL_LOCK_ASSIGN = false ∧ a % 64 = 0 ∧ u.populated a 2304 = true ∧ u.rdPoison a 2304 = false ∧ assignOk (u.rd a 2304) (u.dramBytes / 2 ^ 30) u.boot.flashUnits = true ∧ u.secureAreas.any (fun r => decide (x.dramWm * 2 ^ 30 < r.1 + r.2)) = false ∧ u.assignBusy x = none :=
  ⟨lifeState [(PE_PORT_PHYS 3, 1)] tableA, kCard, 4096, by decide +kernel⟩
/-- The hypotheses of clause 2 of SelvedgeCommandsComplete are met together. -/
theorem witness_SelvedgeCommandsComplete_2 : ∃ (s : State) (c : CardCtx) (a : Nat), let u := s.taken c 0x0803; s.cardOk c 0x0803 false (fun _ => .is true) = true ∧ u.bit SEL_LOCK SEL_LOCK_ASSIGN = true :=
  ⟨lifeState [(SEL_LOCK, 1)] tableA, kCard, 4096, by decide +kernel⟩
/-- The hypotheses of clause 4 of SelvedgeCommandsComplete are met together. -/
theorem witness_SelvedgeCommandsComplete_4 : ∃ (s : State) (w : Bool) (v : W64), s.bit SEL_DEBUG SEL_DEBUG_LOCK = false :=
  ⟨cardState [], true, 0x800000000000000F, by decide +kernel⟩
/-- The hypotheses of clause 5 of SelvedgeCommandsComplete are met together. -/
theorem witness_SelvedgeCommandsComplete_5 : ∃ (s : State) (w : Bool) (v : W64), s.bit SEL_DEBUG SEL_DEBUG_LOCK = true :=
  ⟨cardState [(SEL_DEBUG, 2 ^ 63 + 5)], true, 0xF, by decide +kernel⟩
/-- The hypotheses of clause 6 of SelvedgeCommandsComplete are met together. -/
theorem witness_SelvedgeCommandsComplete_6 : ∃ (s : State) (c : CardCtx) (target : Nat) (a : Nat), let u := s.taken c 0x0801; s.cardOk c 0x0801 false (fun _ => .is true) = true ∧ u.slotFree false = true ∧ u.opOpen [0x0801] 0 = false ∧ u.lifeFail target 272 a (u.rd a 272) true = none :=
  ⟨lifeState [] tokenA, kCard, 1, 4096, by decide +kernel⟩
/-- The hypotheses of clause 7 of SelvedgeCommandsComplete are met together. -/
theorem witness_SelvedgeCommandsComplete_7 : ∃ (s : State) (c : CardCtx) (target : Nat) (len : Nat) (a : Nat) (st : Nat) (ok : Bool), let u := s.taken c 0x0801; s.cardOk c 0x0801 false (fun _ => .is true) = true ∧ u.slotFree false = true ∧ u.opOpen [0x0801] 0 = false ∧ u.lifeFail target len a (u.rd a 272) ok = some st :=
  ⟨lifeState [] tokenA, kCard, 1, 271, 4096, stBADPARAM, true, by decide +kernel⟩
/-- The hypotheses of clause 1 of PowerCardsComplete are met together. -/
theorem witness_PowerCardsComplete_1 : ∃ (s : State) (c : CardCtx), let u := s.taken c 0x0101; s.cardOk c 0x0101 true powerOwner = true ∧ u.powerBusy = false ∧ u.dstate = 0 :=
  ⟨pwrState [] { trans := none }, kCard, by decide +kernel⟩
/-- The hypotheses of clause 2 of PowerCardsComplete are met together. -/
theorem witness_PowerCardsComplete_2 : ∃ (s : State) (c : CardCtx), let u := s.taken c 0x0101; s.cardOk c 0x0101 true powerOwner = true ∧ u.powerBusy = false ∧ u.slotFree false = true ∧ u.dstate = 1 :=
  ⟨pwrState [(PWR_STATE, 1)] { trans := none, wasRun := [8] }, kCard, by decide +kernel⟩
/-- The hypotheses of clause 3 of PowerCardsComplete are met together. -/
theorem witness_PowerCardsComplete_3 : ∃ (s : State) (c : CardCtx), let u := s.taken c 0x0101; s.cardOk c 0x0101 true powerOwner = true ∧ u.powerBusy = false ∧ u.slotFree false = true ∧ u.dstate = 2 :=
  ⟨pwrState [(PWR_STATE, 2)] { trans := none }, kCard, by decide +kernel⟩
/-- The hypotheses of clause 4 of PowerCardsComplete are met together. -/
theorem witness_PowerCardsComplete_4 : ∃ (s : State) (c : CardCtx), let u := s.taken c 0x0101; s.cardOk c 0x0101 false powerOwner = true ∧ u.powerBusy = false ∧ u.slotFree false = true ∧ u.dstate = 0 ∧ u.setStateRefuser 1 = none :=
  ⟨pwrState [] { trans := none }, kCard, by decide +kernel⟩
/-- The hypotheses of clause 5 of PowerCardsComplete are met together. -/
theorem witness_PowerCardsComplete_5 : ∃ (s : State) (c : CardCtx) (b : Nat), let u := s.taken c 0x0101; s.cardOk c 0x0101 false powerOwner = true ∧ u.powerBusy = false ∧ u.dstate = 0 ∧ u.setStateRefuser 1 = some b :=
  ⟨{ pwrState [] { trans := none } with btn := { win := [(3, {})] } }, kCard, 5, by decide +kernel⟩
/-- The hypotheses of clause 6 of PowerCardsComplete are met together. -/
theorem witness_PowerCardsComplete_6 : ∃ (s : State) (c : CardCtx), let u := s.taken c 0x0101; s.cardOk c 0x0101 false powerOwner = true ∧ u.powerBusy = false ∧ u.slotFree false = true ∧ u.dstate = 0 ∧ u.setStateRefuser 2 = none :=
  ⟨pwrState [(MC_ILV 0, 2 ^ 18 + 2 ^ 36 + 2 ^ 48), (PWR_RESUME, 1)] { trans := none }, kCard, by decide +kernel⟩
/-- The hypotheses of clause 7 of PowerCardsComplete are met together. -/
theorem witness_PowerCardsComplete_7 : ∃ (s : State) (c : CardCtx) (b : Nat), let u := s.taken c 0x0101; s.cardOk c 0x0101 false powerOwner = true ∧ u.powerBusy = false ∧ u.dstate = 0 ∧ u.setStateRefuser 2 = some b :=
  ⟨pwrState [] { trans := none }, kCard, 0, by decide +kernel⟩
/-- The hypotheses of clause 8 of PowerCardsComplete are met together. -/
theorem witness_PowerCardsComplete_8 : ∃ (s : State) (c : CardCtx), let u := s.taken c 0x0101; s.cardOk c 0x0101 false powerOwner = true ∧ u.powerBusy = false ∧ u.slotFree false = true ∧ u.dstate = 0 ∧ u.setStateRefuser 3 = none :=
  ⟨pwrState [] { trans := none }, kCard, by decide +kernel⟩
/-- The hypotheses of clause 9 of PowerCardsComplete are met together. -/
theorem witness_PowerCardsComplete_9 : ∃ (s : State) (c : CardCtx), let u := s.taken c 0x0101; s.cardOk c 0x0101 false powerOwner = true ∧ u.powerBusy = false ∧ (u.dstate = 1 ∨ u.dstate = 2) :=
  ⟨pwrState [(PWR_STATE, 1)] { trans := none }, kCard, by decide +kernel⟩
/-- The hypotheses of clause 10 of PowerCardsComplete are met together. -/
theorem witness_PowerCardsComplete_10 : ∃ (s : State) (c : CardCtx), let u := s.taken c 0x0102; s.cardOk c 0x0102 false (fun _ => .any) = true :=
  ⟨pwrState [] {}, kCard, by decide +kernel⟩
/-- The hypotheses of clause 11 of PowerCardsComplete are met together. -/
theorem witness_PowerCardsComplete_11 : ∃ (s : State) (c : CardCtx) (l : List Byte), let u := s.taken c 0x0103; let id := cardField l 0x10 1; let p := if id = 3 then jacquard l else profileOf id (cardField l 0x11 1); s.cardOk c 0x0103 false powerOwner = true ∧ u.powerBusy = false ∧ u.slotFree false = true ∧ u.dstate = 0 ∧ profileBad l = none ∧ (tileNodes.all fun n => decide (u.winWays n ≤ p.rsv)) = true :=
  ⟨pwrState [] { trans := none }, kCard, [3, 1, 0, 0, 1, 0, 5, 0, 0xFF, 0xFF, 0, 0, 0, 0, 0, 0, 2, 8, 0, 0], by decide +kernel⟩
/-- The hypotheses of clause 12 of PowerCardsComplete are met together. -/
theorem witness_PowerCardsComplete_12 : ∃ (s : State) (c : CardCtx) (l : List Byte) (n : Nat), let u := s.taken c 0x0103; let id := cardField l 0x10 1; let p := if id = 3 then jacquard l else profileOf id (cardField l 0x11 1); s.cardOk c 0x0103 false powerOwner = true ∧ u.powerBusy = false ∧ u.dstate = 0 ∧ profileBad l = none ∧ tileNodes.find? (fun n => decide (p.rsv < u.winWays n)) = some n :=
  ⟨{ pwrState [] { trans := none } with cache := { slice := [(lineKey 7 5, { data := 0, win := true }), (lineKey 7 5, { data := 0, win := true })] } }, kCard, [3, 1, 0, 0, 1, 0, 5, 0, 0xFF, 0xFF, 0, 0, 0, 0, 0, 0, 2, 8, 0, 0], 7, by decide +kernel⟩
/-- The hypotheses of clause 13 of PowerCardsComplete are met together. -/
theorem witness_PowerCardsComplete_13 : ∃ (s : State) (c : CardCtx) (x : Nat), let u := s.taken c 0x0104; s.cardOk c 0x0104 false (fun _ => .any) = true ∧ x ≤ 1 :=
  ⟨{ pwrState [] {} with dby := { serving := true, refLog := [⟨1, 2, 3, 4, 5⟩] } }, kCard, 1, by decide +kernel⟩
/-- The hypotheses of clause 1 of PowerTransitionsComplete are met together. -/
theorem witness_PowerTransitionsComplete_1 : ∃ (s : State) (r : Trans) (o : OpenOp), s.pwr.trans = some r ∧ r.number = 1 ∧ (s.pwr.wasRun.all fun n => (s.coh.reqs.all fun q => reqNode q.req != n) && (match s.nodeHart n with | some h => (s.hart h).io.isNone && !(s.hart h).wopen && (s.hart h).btnOut == 0 | none => true)) = true ∧ s.pwr.event = none ∧ s.findOp 0x0101 0 = some o :=
  ⟨{ pwrState [] { trans := some { number := 1, start := 0 }, wasRun := [8] } with dby := { openOps := [opPwr] } }, { number := 1, start := 0 }, opPwr, by decide +kernel⟩
/-- The hypotheses of clause 2 of PowerTransitionsComplete are met together. -/
theorem witness_PowerTransitionsComplete_2 : ∃ (s : State) (r : Trans) (w : WakeCause), s.pwr.trans = some r ∧ r.number = 1 ∧ (s.pwr.wasRun.all fun n => (s.coh.reqs.all fun q => reqNode q.req != n) && (match s.nodeHart n with | some h => (s.hart h).io.isNone && !(s.hart h).wopen && (s.hart h).btnOut == 0 | none => true)) = true ∧ s.pwr.event = some w ∧ s.wakeArmed w = true ∧ s.seqFree = true :=
  ⟨{ pwrState [(PWR_WAKE_CFG, 2)] { trans := some { number := 1, start := 0 }, wasRun := [8], event := some .rtc } with dby := { openOps := [opPwr] } }, { number := 1, start := 0 }, .rtc, by decide +kernel⟩
/-- The hypotheses of clause 3 of PowerTransitionsComplete are met together. -/
theorem witness_PowerTransitionsComplete_3 : ∃ (s : State) (w : WakeCause), s.dstate = 1 ∧ s.pwr.trans = none ∧ s.seqFree = true ∧ s.wakeArmed w = true ∧ s.wakeReady w = true :=
  ⟨pwrState [(PWR_STATE, 1), (PWR_WAKE_CFG, 2), (TRD_ALARM, 2 ^ 48 + 5)] { trans := none, wasRun := [8] }, .rtc, by decide +kernel⟩
/-- The hypotheses of clause 4 of PowerTransitionsComplete are met together. -/
theorem witness_PowerTransitionsComplete_4 : ∃ (s : State) (w : WakeCause), s.dstate = 1 ∧ s.wakeArmed w = false :=
  ⟨pwrState [(PWR_STATE, 1), (TRD_ALARM, 2 ^ 48 + 5)] { trans := none, wasRun := [8] }, .rtc, by decide +kernel⟩
/-- The hypotheses of clause 5 of PowerTransitionsComplete are met together. -/
theorem witness_PowerTransitionsComplete_5 : ∃ (s : State) (w : WakeCause), s.dstate = 2 ∧ s.pwr.trans = none ∧ s.seqFree = true ∧ s.wakeArmed w = true ∧ s.wakeReady w = true :=
  ⟨pwrState [(PWR_STATE, 2), (PWR_WAKE_CFG, 4)] { trans := none, armed := true }, .pattern true, by decide +kernel⟩
/-- The hypotheses of clause 6 of PowerTransitionsComplete are met together. -/
theorem witness_PowerTransitionsComplete_6 : ∃ (s : State) (r : Trans) (o : OpenOp), s.pwr.trans = some r ∧ r.number = 3 ∧ s.pwr.event = none ∧ s.findOp 0x0101 0 = some o :=
  ⟨{ pwrState [] { trans := some { number := 3, start := 0 } } with dby := { openOps := [opPwr] } }, { number := 3, start := 0 }, opPwr, by decide +kernel⟩
/-- The hypotheses of clause 7 of PowerTransitionsComplete are met together. -/
theorem witness_PowerTransitionsComplete_7 : ∃ (s : State) (r : Trans) (o : OpenOp) (a : Nat), s.pwr.trans = some r ∧ r.number = 3 ∧ s.pwr.event = none ∧ s.findOp 0x0101 0 = some o ∧ (o.ctx.via = .keeper ∨ o.ctx.via = .jtag) ∧ a < 2 ^ 48 ∧ (s.cache.slice.all fun p => keyNode p.1 == s.homeOf (keyLine p.1)) = true :=
  ⟨{ pwrState [] { trans := some { number := 3, start := 0 } } with dby := { openOps := [opPwr] }, cache := { l2 := [(lineKey 7 5, { st := .m, data := 3 })] } }, { number := 3, start := 0 }, opPwr, 320, by decide +kernel⟩
/-- The hypotheses of clause 8 of PowerTransitionsComplete are met together. -/
theorem witness_PowerTransitionsComplete_8 : ∃ (s : State) (r : Trans) (o : OpenOp) (n : Nat) (l : List Nat), s.pwr.trans = some r ∧ r.number = 3 ∧ s.dirtyNodes = n :: l ∧ s.findOp 0x0101 0 = some o :=
  ⟨{ pwrState [] { trans := some { number := 3, start := 0 } } with dby := { openOps := [opPwr] }, cache := { l2 := [(lineKey 7 5, { st := .m, data := 3 })] } }, { number := 3, start := 0 }, opPwr, 7, [], by decide +kernel⟩
/-- The hypotheses of clause 9 of PowerTransitionsComplete are met together. -/
theorem witness_PowerTransitionsComplete_9 : ∃ (s : State) (r : Trans), s.pwr.trans = some r ∧ (r.number = 4 ∧ r.step < 5 ∨ 6 ≤ r.number ∧ r.step ≤ 7 ∧ s.dby.limited = 0) :=
  ⟨pwrState [] { trans := some { number := 6, start := 0, step := 7 } }, { number := 6, start := 0, step := 7 }, by decide +kernel⟩
/-- The hypotheses of clause 10 of PowerTransitionsComplete are met together. -/
theorem witness_PowerTransitionsComplete_10 : ∃ (s : State) (r : Trans) (o : OpenOp), s.pwr.trans = some r ∧ s.findOp 0x0101 0 = some o ∧ r.number = 4 ∧ 5 ≤ r.step ∧ r.aborted = false :=
  ⟨{ pwrState [(PWR_STATE, 2), (PWR_RESUME, 401)] { trans := some { number := 4, start := 0, step := 5 }, wasRun := [7] } with dby := { openOps := [opPwr] } }, { number := 4, start := 0, step := 5 }, opPwr, by decide +kernel⟩
/-- The hypotheses of clause 11 of PowerTransitionsComplete are met together. -/
theorem witness_PowerTransitionsComplete_11 : ∃ (s : State) (r : Trans) (u : Nat), s.pwr.trans = some r ∧ r.number = 4 ∧ r.step = 4 ∧ u < 12 ∧ s.bit (MC_CFG u) MC_CFG_RETIRED = false :=
  ⟨pwrState [] { trans := some { number := 4, start := 0, step := 4 } }, { number := 4, start := 0, step := 4 }, 11, by decide +kernel⟩
/-- The hypotheses of clause 12 of PowerTransitionsComplete are met together. -/
theorem witness_PowerTransitionsComplete_12 : ∃ (s : State) (r : Trans) (o : OpenOp) (u : Nat) (b : Bool), s.pwr.trans = some r ∧ r.number = 4 ∧ r.aborted = false ∧ u < 4 ∧ if b then r.step = 5 else r.step ≠ 4 ∧ s.findOp 0x0101 0 = some o :=
  ⟨{ pwrState [(PWR_STATE, 2)] { trans := some { number := 4, start := 0, step := 2 } } with dby := { openOps := [opPwr] } }, { number := 4, start := 0, step := 2 }, opPwr, 3, false, by decide +kernel⟩
/-- The hypotheses of clause 13 of PowerTransitionsComplete are met together. -/
theorem witness_PowerTransitionsComplete_13 : ∃ (s : State) (w : WakeCause), s.dstate = 3 ∧ s.pwr.trans = none ∧ s.seqFree = true ∧ w ≠ .irq ∧ s.wakeReady w = true :=
  ⟨pwrState [(PWR_STATE, 3), (TRD_WAKE_MASK, 2 ^ 63)] { trans := none }, .latch 64, by decide +kernel⟩
/-- The hypotheses of clause 14 of PowerTransitionsComplete are met together. -/
theorem witness_PowerTransitionsComplete_14 : ∃ (s : State) (r : Trans) (b : Nat), s.pwr.trans = some r ∧ (r.number = 6 ∨ r.number = 7) ∧ r.step ≤ 7 ∧ abortBlock b = true ∧ s.dby.limited = 0 :=
  ⟨pwrState [] { trans := some { number := 7, start := 0, step := 3, retry := true } }, { number := 7, start := 0, step := 3, retry := true }, 0xFFFF, by decide +kernel⟩
/-- The hypotheses of clause 15 of PowerTransitionsComplete are met together. -/
theorem witness_PowerTransitionsComplete_15 : ∃ (s : State) (x : Nat), s.pwr.retryAt = some x :=
  ⟨pwrState [(PWR_STATE, 3)] { trans := none, retryAt := some 1000000000 }, 1000000000, by decide +kernel⟩
/-- The hypotheses of clause 16 of PowerTransitionsComplete are met together. -/
theorem witness_PowerTransitionsComplete_16 : ∃ (s : State) (n : Nat) (r : Trans), n < 12 ∧ s.pwr.trans = some r ∧ 6 ≤ r.number ∧ 8 ≤ r.step ∧ n ∉ s.boot.failed :=
  ⟨{ cardState [(MC_CFG 11, 1)] with pwr := { trans := some { number := 6, start := 0, step := 8 } } }, 11, { number := 6, start := 0, step := 8 }, by decide +kernel⟩
/-- The hypotheses of clause 1 of TreadleAndLimitsComplete are met together. -/
theorem witness_TreadleAndLimitsComplete_1 : ∃ (s : State) (rev : Bool), let want : BitVec 32 := BitVec.ofNat 32 (0xAA * 2 ^ 24 + s.get TRD_CFG TRD_CFG_CODE); s.dstate = 0 ∧ s.pwr.trans = none ∧ s.pairReady 2 = true :=
  ⟨pwrState [] { trans := none }, true, by decide +kernel⟩
/-- The hypotheses of clause 2 of TreadleAndLimitsComplete are met together. -/
theorem witness_TreadleAndLimitsComplete_2 : ∃ (s : State) (rev : Bool), let want : BitVec 32 := BitVec.ofNat 32 (0xAA * 2 ^ 24 + s.get TRD_CFG TRD_CFG_CODE); s.dstate = 3 ∧ s.pwr.trans = none ∧ s.seqFree = true ∧ s.pairReady 2 = true :=
  ⟨pwrState [(PWR_STATE, 3)] { trans := none }, true, by decide +kernel⟩
/-- The hypotheses of clause 3 of TreadleAndLimitsComplete are met together. -/
theorem witness_TreadleAndLimitsComplete_3 : ∃ (s : State) (f : BitVec 32), let want : BitVec 32 := BitVec.ofNat 32 (0xAA * 2 ^ 24 + s.get TRD_CFG TRD_CFG_CODE); f ≠ want ∧ f ≠ ~~~ want :=
  ⟨pwrState [] { trans := none }, 0xAA5CA10F, by decide +kernel⟩
/-- The hypotheses of clause 4 of TreadleAndLimitsComplete are met together. -/
theorem witness_TreadleAndLimitsComplete_4 : ∃ (s : State) (n : Nat), 1000 ≤ n ∧ s.dstate = 0 ∧ s.pwr.trans = none ∧ s.pairReady 1 = true :=
  ⟨pwrState [(TRD_CFG, 1)] { trans := none }, 1000, by decide +kernel⟩
/-- The hypotheses of clause 5 of TreadleAndLimitsComplete are met together. -/
theorem witness_TreadleAndLimitsComplete_5 : ∃ (s : State) (n : Nat), n < 1000 :=
  ⟨pwrState [(TRD_CFG, 1)] { trans := none }, 999, by decide +kernel⟩
/-- The hypotheses of clause 7 of TreadleAndLimitsComplete are met together. -/
theorem witness_TreadleAndLimitsComplete_7 : ∃ (s : State) (n : Nat) (up : Bool), 1 ≤ n ∧ n ≤ 64 ∧ (s.reg TRD_WAKE_MASK).toNat.testBit (n - 1) = true ∧ s.dstate = 1 ∧ s.pwr.trans = none ∧ s.seqFree = true ∧ s.wakeArmed (.latch n) = true :=
  ⟨pwrState [(PWR_STATE, 1), (PWR_WAKE_CFG, 8), (TRD_WAKE_MASK, 2 ^ 63)] { trans := none }, 64, true, by decide +kernel⟩
/-- The hypotheses of clause 8 of TreadleAndLimitsComplete are met together. -/
theorem witness_TreadleAndLimitsComplete_8 : ∃ (s : State), let next := max (s.get TRD_RTC TRD_RTC_COUNT + 1) (s.get TRD_ALARM TRD_ALARM_CMP); s.bit TRD_ALARM TRD_ALARM_EN = true ∧ s.clk.rtcAcc < 1000000000 ∧ next < 2 ^ 48 :=
  ⟨pwrState [(TRD_ALARM, 2 ^ 48 + 5), (TRD_RTC, 5)] { trans := none }, by decide +kernel⟩
/-- The hypotheses of clause 9 of TreadleAndLimitsComplete are met together. -/
theorem witness_TreadleAndLimitsComplete_9 : ∃ (s : State), s.pwr.railIod = true ∧ s.clk.rtcAcc < 1000000000 :=
  ⟨pwrState [(TRD_RTC, 2 ^ 48 - 1)] { trans := none }, by decide +kernel⟩
/-- The hypotheses of clause 10 of TreadleAndLimitsComplete are met together. -/
theorem witness_TreadleAndLimitsComplete_10 : ∃ (s : State) (l : List (Nat × Nat)) (r : Nat) (v : Nat), s.dstate ≠ 3 ∧ r < 17 :=
  ⟨pwrState [] { trans := none, silent := [3] }, [(1, 5), (99, 4)], 3, 700, by decide +kernel⟩
/-- The hypotheses of clause 11 of TreadleAndLimitsComplete are met together. -/
theorem witness_TreadleAndLimitsComplete_11 : ∃ (s : State), s.pwr.sums ≠ [] ∧ s.pwr.limit * 1000 < s.pwrAvg :=
  ⟨pwrState [] { trans := none, sums := [400001] }, by decide +kernel⟩
/-- The hypotheses of clause 12 of TreadleAndLimitsComplete are met together. -/
theorem witness_TreadleAndLimitsComplete_12 : ∃ (s : State), s.pwr.sums ≠ [] ∧ s.pwrAvg * 100 < s.pwr.limit * 95000 :=
  ⟨pwrState [] { trans := none, sums := [100000], coreClk := [(7, 9)] }, by decide +kernel⟩
/-- The hypotheses of clause 13 of TreadleAndLimitsComplete are met together. -/
theorem witness_TreadleAndLimitsComplete_13 : ∃ (s : State) (n : Nat) (d : Nat) (x : Int), n < 224 ∧ nodeKind n = 0 ∧ s.pwr.railC = true ∧ 100 ≤ x ∧ Tab.find s.pwr.thermStep n = none ∧ 8 < s.coreFreq n ∧ s.coreFreq n ≤ s.profClock n :=
  ⟨pwrState [] { trans := none }, 7, 100, 104, by decide +kernel⟩
/-- The hypotheses of clause 14 of TreadleAndLimitsComplete are met together. -/
theorem witness_TreadleAndLimitsComplete_14 : ∃ (s : State) (n : Nat) (d : Nat) (t0 : Nat) (x : Int), n < 224 ∧ nodeKind n = 0 ∧ s.pwr.railC = true ∧ x ≤ 95 ∧ Tab.find s.pwr.thermCool n = some t0 ∧ (Tab.find s.pwr.thermStep n).isSome = true ∧ t0 + 100000000 ≤ s.clk.time + d :=
  ⟨pwrState [] { trans := none, thermCool := [(7, 0)], thermStep := [(7, 0)], coreClk := [(7, 9)] }, 7, 100000000, 0, -3, by decide +kernel⟩
/-- The hypotheses of clause 15 of TreadleAndLimitsComplete are met together. -/
theorem witness_TreadleAndLimitsComplete_15 : ∃ (s : State) (a : Nat) (b : Nat) (d : Nat) (x : Int) (y : Int), a < 224 ∧ b < 224 ∧ nodeKind a = 0 ∧ nodeKind b = 0 ∧ hops a b = 1 ∧ s.pwr.railC = true ∧ 45 < x - y ∧ Tab.find s.mesh.nbrSince (a * 256 + b) = none ∧ Tab.find s.pwr.thermStep a = none ∧ 8 < s.coreFreq a ∧ s.coreFreq a ≤ s.profClock a :=
  ⟨pwrState [] { trans := none }, 8, 9, 5, 80, 34, by decide +kernel⟩
/-- The hypotheses of clause 16 of TreadleAndLimitsComplete are met together. -/
theorem witness_TreadleAndLimitsComplete_16 : ∃ (s : State) (r : Nat), r < 17 ∧ s.dstate ≠ 3 ∧ s.pwr.silent.contains r = false :=
  ⟨pwrState [] { trans := none }, 16, by decide +kernel⟩
/-- The hypotheses of clause 17 of TreadleAndLimitsComplete are met together. -/
theorem witness_TreadleAndLimitsComplete_17 : ∃ (s : State) (k : Nat), s.railOn k = true :=
  ⟨pwrState [] { trans := none }, 4, by decide +kernel⟩
/-- The hypotheses of clause 18 of TreadleAndLimitsComplete are met together. -/
theorem witness_TreadleAndLimitsComplete_18 : ∃ (s : State) (d : Nat) (t0 : Nat) (x : Nat), Tab.find s.crl.hot d = some (x, t0) ∧ d < 5 ∧ s.diePowered d = true :=
  ⟨{ pwrState [] { trans := none } with crl := { hot := [(2, (2, 5))] } }, 2, 5, 2, by decide +kernel⟩
/-- The hypotheses of clause 1 of FeedCardsComplete are met together. -/
theorem witness_FeedCardsComplete_1 : ∃ (s : State) (c : CardCtx) (n : Nat) (slew : Nat) (ilim : Nat), let u := s.taken c 0x0701; s.cardOk c 0x0701 false feedOwner = true ∧ n ≤ 15 ∧ slew ≤ 200 ∧ ilim ≤ 100 ∧ u.life ≠ 4 ∧ u.feedState n = 0 ∧ (u.feed n).asked = none ∧ (u.feed n).retired = false ∧ (u.feed n).ilk = true ∧ 10800 ≤ u.get (CREEL_CH_STAT n) CREEL_CH_STAT_VIN ∧ u.get (CREEL_CH_STAT n) CREEL_CH_STAT_VIN ≤ 13200 ∧ u.linkUp false = true ∧ u.linkUp true = true ∧ u.budgetOk n ilim = true ∧ u.slotFree false = true :=
  ⟨crlState 0 4 [] { ilk := true }, kCard, 3, 0, 100, by decide +kernel⟩
/-- The hypotheses of clause 2 of FeedCardsComplete are met together. -/
theorem witness_FeedCardsComplete_2 : ∃ (s : State) (c : CardCtx) (n : Nat) (slew : Nat) (ilim : Nat), let u := s.taken c 0x0701; s.cardOk c 0x0701 false feedOwner = true ∧ n ≤ 15 ∧ slew ≤ 200 ∧ ilim ≤ 100 ∧ u.life ≠ 4 ∧ u.feedState n = 0 ∧ (u.feed n).asked = none ∧ ((u.feed n).ilk = false ∨ u.get (CREEL_CH_STAT n) CREEL_CH_STAT_VIN < 10800 ∨ 13200 < u.get (CREEL_CH_STAT n) CREEL_CH_STAT_VIN) :=
  ⟨crlState 0 4 [] {}, kCard, 3, 0, 100, by decide +kernel⟩
/-- The hypotheses of clause 3 of FeedCardsComplete are met together. -/
theorem witness_FeedCardsComplete_3 : ∃ (s : State) (c : CardCtx) (n : Nat) (slew : Nat) (ilim : Nat), let u := s.taken c 0x0701; s.cardOk c 0x0701 false feedOwner = true ∧ n ≤ 15 ∧ slew ≤ 200 ∧ ilim ≤ 100 ∧ u.life ≠ 4 ∧ u.feedState n = 0 ∧ (u.feed n).asked = none ∧ (u.feed n).retired = false ∧ (u.feed n).ilk = true ∧ 10800 ≤ u.get (CREEL_CH_STAT n) CREEL_CH_STAT_VIN ∧ u.get (CREEL_CH_STAT n) CREEL_CH_STAT_VIN ≤ 13200 ∧ u.linkUp false = true ∧ u.linkUp true = true ∧ u.budgetOk n ilim = false :=
  ⟨crlState 0 4 [(CREEL_CFG, 99 + 2 * 2 ^ 12)] { ilk := true }, kCard, 3, 0, 100, by decide +kernel⟩
/-- The hypotheses of clause 4 of FeedCardsComplete are met together. -/
theorem witness_FeedCardsComplete_4 : ∃ (s : State) (c : CardCtx) (n : Nat) (force : Bool), let u := s.taken c 0x0702; s.cardOk c 0x0702 true feedOwner = true ∧ n ≤ 15 ∧ (u.feedState n = 2 ∨ u.feedState n = 3) ∧ (u.feed n).asked = none ∧ (force = true ∨ ((u.portsOfFeed n).all fun p => u.portCmds p == 0) = true) ∧ u.anyOpen [0x0702] = false ∧ u.slotFree true = true :=
  ⟨crlState 2 7 [] {}, kCard, 3, false, by decide +kernel⟩
/-- The hypotheses of clause 5 of FeedCardsComplete are met together. -/
theorem witness_FeedCardsComplete_5 : ∃ (s : State) (c : CardCtx) (n : Nat) (force : Bool), let u := s.taken c 0x0702; s.cardOk c 0x0702 true feedOwner = true ∧ n ≤ 15 ∧ u.feedState n = 4 ∧ (u.feed n).asked = none ∧ (force = true ∨ ((u.portsOfFeed n).all fun p => u.portCmds p == 0) = true) ∧ u.anyOpen [0x0702] = false ∧ u.slotFree true = true :=
  ⟨crlState 4 7 [] { retryAt := some 7 }, kCard, 3, true, by decide +kernel⟩
/-- The hypotheses of clause 6 of FeedCardsComplete are met together. -/
theorem witness_FeedCardsComplete_6 : ∃ (s : State) (c : CardCtx) (n : Nat) (p : Nat), let u := s.taken c 0x0702; s.cardOk c 0x0702 true feedOwner = true ∧ n ≤ 15 ∧ u.feedState n ≠ 0 ∧ (List.range 16).find? (fun p => (u.portsOfFeed n).contains p && u.portCmds p != 0) = some p :=
  ⟨crlState 2 7 [(PE_PORT_CFG 5, 3 * 2 ^ PE_PORT_CFG_FEED.lo), (PE_PORT_STAT 5, 2 ^ PE_PORT_STAT_CMDS.lo)] {}, kCard, 3, 5, by decide +kernel⟩
/-- The hypotheses of clause 7 of FeedCardsComplete are met together. -/
theorem witness_FeedCardsComplete_7 : ∃ (s : State) (c : CardCtx) (force : Bool), let u := s.taken c 0x0702; s.cardOk c 0x0702 true feedOwner = true ∧ ((List.range 16).all fun n => u.feedState n == 0 && (u.feed n).asked.isNone) = true :=
  ⟨crlState 0 7 [] {}, kCard, false, by decide +kernel⟩
/-- The hypotheses of clause 8 of FeedCardsComplete are met together. -/
theorem witness_FeedCardsComplete_8 : ∃ (s : State) (c : CardCtx) (n : Nat), let u := s.taken c 0x0703; s.cardOk c 0x0703 false (fun _ => .any) = true ∧ (n ≤ 15 ∨ n = 0xFF) :=
  ⟨crlState 2 7 [] {}, kCard, 0xFF, by decide +kernel⟩
/-- The hypotheses of clause 9 of FeedCardsComplete are met together. -/
theorem witness_FeedCardsComplete_9 : ∃ (s : State) (c : CardCtx) (b : Nat) (m : Nat), let u := s.taken c 0x0704; s.cardOk c 0x0704 false feedOwner = true ∧ 1 ≤ b ∧ b ≤ 1600 ∧ 1 ≤ m ∧ m ≤ 16 :=
  ⟨crlState 2 7 [] {}, kCard, 1600, 16, by decide +kernel⟩
/-- The hypotheses of clause 10 of FeedCardsComplete are met together. -/
theorem witness_FeedCardsComplete_10 : ∃ (s : State) (c : CardCtx) (mask : Nat) (h : Nat), let u := s.taken c 0x0705; let rest := u.rankOrder (u.holdingChans.filter fun n => !mask.testBit n); s.cardOk c 0x0705 false feedOwner = true ∧ h ≤ 600 ∧ u.linkUp false = true ∧ u.linkUp true = true ∧ u.anyOpen [0x0701] = false ∧ u.crl.hold.isSome = true :=
  ⟨{ crlState 3 7 [(CREEL_CH_STAT 2, 3)] {} with crl := { chan := [(2, { holding := true }), (3, { holding := true })], hold := some (0, 60) } }, kCard, 8, 600, by decide +kernel⟩
/-- The hypotheses of clause 1 of CreelEventsComplete are met together. -/
theorem witness_CreelEventsComplete_1 : ∃ (s : State) (n : Nat) (vin : Nat) (vout : Nat) (e : Nat) (i : Int) (x : Int), n < 16 ∧ vin < 65536 ∧ vout < 65536 :=
  ⟨crlState 2 7 [] {}, 3, 12000, 11990, 101, -5, 400, by decide +kernel⟩
/-- The hypotheses of clause 3 of CreelEventsComplete are met together. -/
theorem witness_CreelEventsComplete_3 : ∃ (s : State) (w : Bool), s.linkUp w = true :=
  ⟨crlState 2 7 [] {}, true, by decide +kernel⟩
/-- The hypotheses of clause 4 of CreelEventsComplete are met together. -/
theorem witness_CreelEventsComplete_4 : ∃ (s : State) (w : Bool) (t0 : Nat), let i := if w then 1 else 0; s.lostAt w = some t0 ∧ s.linkUp (!w) = true ∧ s.crl.hold = none :=
  ⟨{ crlState 2 7 [(CREEL_STAT, 2 ^ 24)] {} with crl := { lostSafe := some 9 } }, true, 9, by decide +kernel⟩
/-- The hypotheses of clause 5 of CreelEventsComplete are met together. -/
theorem witness_CreelEventsComplete_5 : ∃ (s : State) (a : Nat) (b : Nat), s.crl.lostSeq = some a ∧ s.crl.lostSafe = some b ∧ a ≤ b + 100000 ∧ b ≤ a + 100000 ∧ s.crl.hold = none ∧ ((List.range 16).any fun n => s.feedState n == 1 || s.feedState n == 2) = true :=
  ⟨{ crlState 2 7 [] {} with crl := { lostSeq := some 9, lostSafe := some 100009 } }, 9, 100009, by decide +kernel⟩
/-- The hypotheses of clause 6 of CreelEventsComplete are met together. -/
theorem witness_CreelEventsComplete_6 : ∃ (s : State) (n : Nat), n < 16 ∧ s.feedState n ∈ [1, 2, 3, 5] ∧ (s.feedState n = 5 → s.feedOffOpen n = false) :=
  ⟨crlState 5 7 [] {}, 3, by decide +kernel⟩
/-- The hypotheses of clause 7 of CreelEventsComplete are met together. -/
theorem witness_CreelEventsComplete_7 : ∃ (s : State) (n : Nat), n < 16 :=
  ⟨crlState 4 0 [] {}, 3, by decide +kernel⟩
/-- The hypotheses of clause 8 of CreelEventsComplete are met together. -/
theorem witness_CreelEventsComplete_8 : ∃ (s : State) (n : Nat), n < 16 ∧ s.feedKey n 1 = true ∧ s.feedState n ∈ [1, 2, 3, 5] ∧ (s.feedState n = 5 → s.feedOffOpen n = false) :=
  ⟨crlState 2 7 [] {}, 3, by decide +kernel⟩
/-- The hypotheses of clause 9 of CreelEventsComplete are met together. -/
theorem witness_CreelEventsComplete_9 : ∃ (s : State) (n : Nat), n < 16 ∧ s.linkUp true = true ∧ s.bit DBY_STAT DBY_STAT_SAFE_OK = true ∧ (s.feed n).ilkSafe = true ∧ s.dieAtLeast 1050 = false ∧ s.life ≠ 4 ∧ s.feedState n ≠ 4 :=
  ⟨crlState 0 5 [(DBY_STAT, 2 ^ DBY_STAT_SAFE_OK.lo)] { ilkSafe := true }, 3, by decide +kernel⟩
/-- The hypotheses of clause 10 of CreelEventsComplete are met together. -/
theorem witness_CreelEventsComplete_10 : ∃ (s : State) (n : Nat), n < 16 ∧ s.linkUp true = true ∧ s.bit DBY_STAT DBY_STAT_SAFE_OK = true ∧ ((s.feed n).ilkSafe = false ∨ s.dieAtLeast 1100 = true) ∧ s.feedKey n 1 = true ∧ s.feedState n ∈ [1, 2, 3, 5] ∧ (s.feedState n = 5 → s.feedOffOpen n = false) :=
  ⟨crlState 2 7 [(DBY_STAT, 2 ^ DBY_STAT_SAFE_OK.lo)] {}, 3, by decide +kernel⟩
/-- The hypotheses of clause 11 of CreelEventsComplete are met together. -/
theorem witness_CreelEventsComplete_11 : ∃ (s : State) (n : Nat) (t0 : Nat), n < 16 ∧ (s.feed n).asked = some t0 ∧ s.get (CREEL_CH_STAT n) CREEL_CH_STAT_KEYS ≠ 7 :=
  ⟨{ crlState 0 5 [] { asked := some 4, resv := 60 } with dby := { openOps := [opFeed 0x0701] } }, 3, 4, by decide +kernel⟩
/-- The hypotheses of clause 12 of CreelEventsComplete are met together. -/
theorem witness_CreelEventsComplete_12 : ∃ (s : State) (n : Nat), n < 16 ∧ (s.feed n).asked.isSome = true ∧ s.get (CREEL_CH_STAT n) CREEL_CH_STAT_KEYS = 7 :=
  ⟨crlState 0 7 [] { asked := some 4, resv := 60 }, 3, by decide +kernel⟩
/-- The hypotheses of clause 13 of CreelEventsComplete are met together. -/
theorem witness_CreelEventsComplete_13 : ∃ (s : State) (n : Nat) (k : Nat), n < 16 ∧ (s.feed n).asked.isSome = true ∧ s.get (CREEL_CH_STAT n) CREEL_CH_STAT_KEYS = 7 ∧ k ∈ [0x07, 0x09, 0x10] :=
  ⟨{ crlState 0 7 [] { asked := some 4, resv := 60 } with dby := { openOps := [opFeed 0x0701] } }, 3, 0x10, by decide +kernel⟩
/-- The hypotheses of clause 14 of CreelEventsComplete are met together. -/
theorem witness_CreelEventsComplete_14 : ∃ (s : State) (n : Nat) (t0 : Nat), n < 16 ∧ (s.feed n).start = some t0 ∧ s.feedState n = 1 :=
  ⟨{ crlState 1 7 [] { start := some 4, resv := 60 } with dby := { openOps := [opFeed 0x0701] } }, 3, 4, by decide +kernel⟩
/-- The hypotheses of clause 15 of CreelEventsComplete are met together. -/
theorem witness_CreelEventsComplete_15 : ∃ (s : State) (n : Nat) (t0 : Nat), let slew := if (s.feed n).slew = 0 then s.get (CREEL_CH_CFG n) CREEL_CH_CFG_SLEW else (s.feed n).slew; n < 16 ∧ (s.feed n).start = some t0 ∧ s.feedState n = 1 ∧ 1 ≤ slew :=
  ⟨crlState 1 7 [] { start := some 4, resv := 60 }, 3, 4, by decide +kernel⟩
/-- The hypotheses of clause 16 of CreelEventsComplete are met together. -/
theorem witness_CreelEventsComplete_16 : ∃ (s : State) (n : Nat) (k : Nat) (m : Nat), n < 16 ∧ s.feedState n ∈ [1, 2, 3, 5] ∧ detectorArmed (s.feedState n) k = true ∧ k ≠ 0x06 ∧ k ≠ 0x11 ∧ (s.feedState n = 5 → s.feedOffOpen n = false) :=
  ⟨crlState 2 7 [(CREEL_CH_CFG 3, 2 ^ 7)] {}, 3, 0x04, 1, by decide +kernel⟩
/-- The hypotheses of clause 17 of CreelEventsComplete are met together. -/
theorem witness_CreelEventsComplete_17 : ∃ (s : State) (n : Nat) (k : Nat) (m : Nat) (o : OpenOp), n < 16 ∧ s.feedState n = 5 ∧ s.dby.openOps = [o] ∧ o.opcode = 0x0702 ∧ o.obj = n ∧ detectorArmed 5 k = true ∧ k ≠ 0x11 :=
  ⟨{ crlState 5 7 [(CREEL_CH_CFG 3, 2 ^ 7)] {} with dby := { openOps := [opFeed 0x0702] } }, 3, 0x01, 0, opFeed 0x0702, by decide +kernel⟩
/-- The hypotheses of clause 18 of CreelEventsComplete are met together. -/
theorem witness_CreelEventsComplete_18 : ∃ (s : State) (n : Nat) (k : Nat) (m : Nat), n < 16 ∧ (s.feedState n = 0 ∨ s.feedState n = 4) ∧ detectorArmed (s.feedState n) k = true ∧ k ≠ 0x11 :=
  ⟨crlState 4 7 [] {}, 3, 0x08, 1, by decide +kernel⟩
/-- The hypotheses of clause 19 of CreelEventsComplete are met together. -/
theorem witness_CreelEventsComplete_19 : ∃ (s : State) (n : Nat) (m : Nat), n < 16 ∧ (s.feedState n = 2 ∨ s.feedState n = 3) :=
  ⟨crlState 2 7 [] {}, 3, 0, by decide +kernel⟩
/-- The hypotheses of clause 20 of CreelEventsComplete are met together. -/
theorem witness_CreelEventsComplete_20 : ∃ (s : State) (n : Nat) (m : Nat) (k : Nat), n < 16 ∧ detectorArmed (s.feedState n) 0x11 = true ∧ k < 16 ∧ s.feedState k ∈ [1, 2, 3, 5] ∧ (s.feedState k = 5 → s.feedOffOpen k = false) :=
  ⟨crlState 2 7 [] {}, 0, 0, 3, by decide +kernel⟩
/-- The hypotheses of clause 21 of CreelEventsComplete are met together. -/
theorem witness_CreelEventsComplete_21 : ∃ (s : State) (n : Nat) (t0 : Nat) (found : Bool), n < 16 ∧ (s.feed n).pulledAt = some t0 :=
  ⟨crlState 4 7 [] { pulledAt := some 8 }, 3, 8, true, by decide +kernel⟩
/-- The hypotheses of clause 22 of CreelEventsComplete are met together. -/
theorem witness_CreelEventsComplete_22 : ∃ (s : State) (n : Nat) (t0 : Nat), n < 16 ∧ (s.feed n).regAt = some t0 :=
  ⟨crlState 2 7 [] { regAt := some 8, resv := 60 }, 3, 8, by decide +kernel⟩
/-- The hypotheses of clause 23 of CreelEventsComplete are met together. -/
theorem witness_CreelEventsComplete_23 : ∃ (s : State) (n : Nat) (t0 : Nat), n < 16 ∧ (s.feed n).retryAt = some t0 ∧ s.get (CREEL_CH_STAT n) CREEL_CH_STAT_KEYS = 7 ∧ s.budgetOk n 0 = true :=
  ⟨crlState 4 7 [] { retryAt := some 8 }, 3, 8, by decide +kernel⟩
/-- The hypotheses of clause 24 of CreelEventsComplete are met together. -/
theorem witness_CreelEventsComplete_24 : ∃ (s : State) (n : Nat) (t0 : Nat) (k : Nat), n < 16 ∧ (s.feed n).retryAt = some t0 ∧ s.get (CREEL_CH_STAT n) CREEL_CH_STAT_KEYS ≠ 7 :=
  ⟨crlState 4 5 [] { retryAt := some 8 }, 3, 8, 0, by decide +kernel⟩
/-- The hypotheses of clause 25 of CreelEventsComplete are met together. -/
theorem witness_CreelEventsComplete_25 : ∃ (s : State) (n : Nat) (o : OpenOp), n < 16 ∧ s.feedState n = 5 ∧ s.dby.openOps = [o] ∧ o.opcode = 0x0702 ∧ o.obj = n :=
  ⟨{ crlState 5 7 [] {} with dby := { openOps := [opFeed 0x0702] } }, 3, opFeed 0x0702, by decide +kernel⟩
/-- The hypotheses of clause 26 of CreelEventsComplete are met together. -/
theorem witness_CreelEventsComplete_26 : ∃ (s : State) (t0 : Nat) (len : Nat), let rest := s.rankOrder s.holdingChans; s.crl.hold = some (t0, len) :=
  ⟨{ crlState 3 7 [] {} with crl := { chan := [(3, { holding := true })], hold := some (9, 60) } }, 9, 60, by decide +kernel⟩
/-- The hypotheses of clause 27 of CreelEventsComplete are met together. -/
theorem witness_CreelEventsComplete_27 : ∃ (s : State) (n : Nat) (r : List Nat), s.crl.downQ = n :: r ∧ n < 16 ∧ s.feedState n = 3 :=
  ⟨{ crlState 3 7 [] {} with crl := { downQ := [3, 4] } }, 3, [4], by decide +kernel⟩
/-- The hypotheses of clause 28 of CreelEventsComplete are met together. -/
theorem witness_CreelEventsComplete_28 : ∃ (s : State) (n : Nat) (k : Nat), n < 16 ∧ s.feedState n = 0 ∧ (s.feed n).asked = none :=
  ⟨crlState 0 0 [] {}, 3, 2, by decide +kernel⟩
/-- The hypotheses of clause 29 of CreelEventsComplete are met together. -/
theorem witness_CreelEventsComplete_29 : ∃ (s : State) (d : Nat) (k : Nat) (x : Int) (bad : Bool), d ≤ 5 ∧ k ≤ 1 ∧ s.diePowered d = true :=
  ⟨{ crlState 2 7 [] {} with crl := { hot := [(2, (1, 5))] } }, 2, 1, 1100, false, by decide +kernel⟩
/-- The hypotheses of clause 1 of ErrorRecordsComplete are met together. -/
theorem witness_ErrorRecordsComplete_1 : ∃ (s : State) (c : CardCtx) (b : Nat) (first : Nat) (k : Nat), let u := s.taken c 0x0901; let l := (((u.banksNamed c.world b).flatMap fun id => ((List.range 8).filter fun r => u.recValid (bankOf id) r).map fun r => (id, r)).drop first).take 120; s.cardOk c 0x0901 false (fun s => s.bankOwner b) = true ∧ (b = 0xFFFF ∨ isBankId b = true ∧ u.stopLost b = false) :=
  ⟨cardState [(RAS_STATUS (bankOf 2) 3, 9), (RAS_STATUS (bankOf 3) 0, 1), (RAS_MISC (bankOf 2) 3, 5)], kCard, 2, 0, 1, by decide +kernel⟩
/-- The hypotheses of clause 2 of ErrorRecordsComplete are met together. -/
theorem witness_ErrorRecordsComplete_2 : ∃ (s : State) (c : CardCtx) (b : Nat) (first : Nat) (k : Nat), let u := s.taken c 0x0901; s.cardOk c 0x0901 false (fun s => s.bankOwner b) = true ∧ b ≠ 0xFFFF ∧ isBankId b = false :=
  ⟨cardState [], kCard, 0x200, 0, 0, by decide +kernel⟩
/-- The hypotheses of clause 3 of ErrorRecordsComplete are met together. -/
theorem witness_ErrorRecordsComplete_3 : ∃ (s : State) (c : CardCtx) (b : Nat) (k : Nat) (d : Nat) (a : Nat), let u := s.taken c 0x0902; s.cardOk c 0x0902 false (fun _ => .is true) = true ∧ (u.life ≠ 2 ∨ u.effective 3 = true) ∧ (injectChannel b).isSome = true ∧ u.stopLost (0x10 + b % 16) = false ∧ k < 3 ∧ (k = 0 → d = 1 ∨ d = 2) :=
  ⟨cardState [], kCard, 0x20B, 0, 2, 64, by decide +kernel⟩
/-- The hypotheses of clause 4 of ErrorRecordsComplete are met together. -/
theorem witness_ErrorRecordsComplete_4 : ∃ (s : State) (c : CardCtx) (b : Nat) (k : Nat) (d : Nat) (a : Nat), let u := s.taken c 0x0902; s.cardOk c 0x0902 false (fun _ => .is true) = true ∧ u.life = 2 ∧ u.effective 3 = false :=
  ⟨{ cardState [] with fuses := { life := 2 } }, kCard, 0x20B, 0, 2, 64, by decide +kernel⟩
/-- The hypotheses of clause 5 of ErrorRecordsComplete are met together. -/
theorem witness_ErrorRecordsComplete_5 : ∃ (s : State) (w : Bool) (b : Nat) (r : Nat), r < 8 ∧ s.recValid (bankOf b) r = true ∧ s.mayClear w b r = true :=
  ⟨cardState [(RAS_STATUS (bankOf 2) 3, 9), (RAS_MISC (bankOf 2) 3, 5)], true, 2, 3, by decide +kernel⟩
/-- The hypotheses of clause 6 of ErrorRecordsComplete are met together. -/
theorem witness_ErrorRecordsComplete_6 : ∃ (s : State) (w : Bool) (b : Nat) (r : Nat), s.mayClear w b r = false :=
  ⟨cardState [(RAS_STATUS (bankOf 2) 3, 9)], false, 2, 3, by decide +kernel⟩
/-- The hypotheses of clause 7 of ErrorRecordsComplete are met together. -/
theorem witness_ErrorRecordsComplete_7 : ∃ (s : State) (x : SumRec) (l : List SumRec), s.ras.summary = x :: l :=
  ⟨{ cardState [(nodeBase 7, 0)] with ras := { summary := [⟨5, 0, some 7, some 11⟩] } }, ⟨5, 0, some 7, some 11⟩, [], by decide +kernel⟩
/-- The hypotheses of clause 8 of ErrorRecordsComplete are met together. -/
theorem witness_ErrorRecordsComplete_8 : ∃ (s : State) (w : Bool) (v : W64), w = s.blockWorld 0 ∧ TRD_STAT_WAKE_FAIL.get v = 1 :=
  ⟨cardState [(TRD_STAT, 0xFF)], true, 0xFFFF, by decide +kernel⟩
/-- The hypotheses of clause 9 of ErrorRecordsComplete are met together. -/
theorem witness_ErrorRecordsComplete_9 : ∃ (s : State) (n : Nat) (w : Bool) (v : W64), 1 ≤ n ∧ n ≤ 1023 ∧ w = s.bit (HRN_SRC n) HRN_SRC_WORLD ∧ HRN_SRC_LATCHED.get v = 1 :=
  ⟨cardState [(HRN_SRC 64, 2 ^ HRN_SRC_LATCHED.lo)], 64, false, BitVec.ofNat 64 (2 ^ HRN_SRC_LATCHED.lo), by decide +kernel⟩
/-- The hypotheses of clause 10 of ErrorRecordsComplete are met together. -/
theorem witness_ErrorRecordsComplete_10 : ∃ (s : State) (w : Bool) (v : W64), DBY_RING_CFG_LOST.get v = 1 :=
  ⟨cardState [(DBY_RING_CFG 1, 7)], true, 4, by decide +kernel⟩
/-- The hypotheses of clause 2 of ResetsComplete are met together. -/
theorem witness_ResetsComplete_2 : ∃ (s : State) (n : Nat) (a : Nat), 10000 ≤ n ∧ islandReg a = true ∧ rcntReg a = false ∧ a ∉ [PWR_STATE, PWR_WAKE_CFG, PWR_RESUME, PWR_HART_GO, PWR_RESET, PWR_RSTINFO] :=
  ⟨{ cardState [] with mem := [(5, 5)], pwr := { dead := 2 } }, 10000, TRD_CFG, by decide +kernel⟩
/-- The hypotheses of clause 3 of ResetsComplete are met together. -/
theorem witness_ResetsComplete_3 : ∃ (s : State) (n : Nat), n < 8000 :=
  ⟨cardState [], 7999, by decide +kernel⟩
/-- The hypotheses of clause 4 of ResetsComplete are met together. -/
theorem witness_ResetsComplete_4 : ∃ (s : State) (n : Nat), 8000 ≤ n ∧ n < 10000 :=
  ⟨cardState [], 8000, by decide +kernel⟩
/-- The hypotheses of clause 5 of ResetsComplete are met together. -/
theorem witness_ResetsComplete_5 : ∃ (s : State) (n : Nat) (a : Nat), 10000 ≤ n ∧ s.pwr.dead = 0 ∧ (bankReg a = true ∨ rcntReg a = true) :=
  ⟨cardState [(RAS_STATUS (bankOf 2) 3, 9)], 10000, RAS_STATUS (bankOf 2) 3, by decide +kernel⟩
/-- The hypotheses of clause 6 of ResetsComplete are met together. -/
theorem witness_ResetsComplete_6 : ∃ (s : State) (n : Nat), (s.pwr.dead ≠ 0 ∨ n < 8000) :=
  ⟨cardState [], 7999, by decide +kernel⟩
/-- The hypotheses of clause 7 of ResetsComplete are met together. -/
theorem witness_ResetsComplete_7 : ∃ (s : State) (w : Bool) (v : W64), w = s.blockWorld 0 ∧ PWR_RESET_KEY.get v = 0xA5C3 :=
  ⟨cardState [], true, 0xA5C30000, by decide +kernel⟩
/-- The hypotheses of clause 8 of ResetsComplete are met together. -/
theorem witness_ResetsComplete_8 : ∃ (s : State) (w : Bool) (v : W64), (w ≠ s.blockWorld 0 ∨ PWR_RESET_KEY.get v ≠ 0xA5C3) :=
  ⟨cardState [], false, 0xA5C30000, by decide +kernel⟩
/-- The hypotheses of clause 9 of ResetsComplete are met together. -/
theorem witness_ResetsComplete_9 : ∃ (s : State) (w : Bool) (v : W64), w = s.blockWorld 0 ∧ PWR_RESET_KEY.get v = 0xA5C3 :=
  ⟨cardState [], true, 0xA5C30000, by decide +kernel⟩
/-- The hypotheses of clause 10 of ResetsComplete are met together. -/
theorem witness_ResetsComplete_10 : ∃ (s : State) (w : Bool) (v : W64), let h := PWR_HART_GO_HART.get v; let a := PWR_HART_GO_ADDR.get v * 4; w = s.blockWorld 0 ∧ v.getLsbD 8 = true ∧ h ≤ 191 ∧ (s.hart h).released = false ∧ (s.hartNode h).map s.tstate = some tsRun ∧ s.dramOf true a 4 = true ∧ (s.hdbg h).resetHalt = false :=
  ⟨cardState [(MC_ILV 0, 2 ^ 18 + 2 ^ 36 + 2 ^ 48), (MESH_NODE_INFO 7, 2 ^ 25 + 2 ^ 17), (MESH_HART_MAP 2, 2 ^ 8 + 7)], true, BitVec.ofNat 64 (2 + 2 ^ 8 + 5 * 2 ^ 18), by decide +kernel⟩
/-- The hypotheses of clause 11 of ResetsComplete are met together. -/
theorem witness_ResetsComplete_11 : ∃ (s : State) (w : Bool) (v : W64), let h := PWR_HART_GO_HART.get v; w = s.blockWorld 0 ∧ v.getLsbD 8 = true ∧ (191 < h ∨ (s.hart h).released = true ∨ s.dramOf true (PWR_HART_GO_ADDR.get v * 4) 4 = false) :=
  ⟨cardState [], true, 0x1C0, by decide +kernel⟩
/-- The hypotheses of clause 12 of ResetsComplete are met together. -/
theorem witness_ResetsComplete_12 : ∃ (s : State) (e : BootEnv) (r : Trans), s.pwr.trans = some r ∧ 6 ≤ r.number ∧ r.step ≤ 9 ∧ s.pwr.dead = 0 ∧ s.fuses.lifeCopiesAgree = true ∧ s.fuses.life = 4 :=
  ⟨{ bootState [] with fuses := { life := 4 } }, envA, { number := 7, start := 0, step := 5 }, by decide +kernel⟩
/-- The hypotheses of clause 13 of ResetsComplete are met together. -/
theorem witness_ResetsComplete_13 : ∃ (s : State) (e : BootEnv) (r : Trans), s.pwr.trans = some r ∧ 6 ≤ r.number ∧ r.step ≤ 9 ∧ s.pwr.dead = 0 ∧ s.fuses.lifeCopiesAgree = true ∧ s.fuses.life ≠ 4 ∧ e.wipeFails = true :=
  ⟨bootState [], { envA with wipeFails := true }, { number := 7, start := 0, step := 5 }, by decide +kernel⟩
/-- The hypotheses of clause 14 of ResetsComplete are met together. -/
theorem witness_ResetsComplete_14 : ∃ (s : State) (e : BootEnv) (r : Trans), let tiles := (tileNodes.filter s.tileEnabled).take 192; s.pwr.trans = some r ∧ 6 ≤ r.number ∧ r.step ≤ 9 ∧ s.pwr.dead = 0 ∧ s.fuses.lifeCopiesAgree = true ∧ s.fuses.life ≠ 4 ∧ e.wipeFails = false ∧ e.configBad = false ∧ e.routerBad = [] ∧ s.boot.active ≤ 1 ∧ (s.hdbg 0).resetHalt = false :=
  ⟨bootState [], envA, { number := 7, start := 0, step := 5 }, by decide +kernel⟩
/-- The hypotheses of clause 1 of FirmwareAndKeeperComplete are met together. -/
theorem witness_FirmwareAndKeeperComplete_1 : ∃ (s : State) (c : CardCtx) (slot : Nat) (len : Nat) (a : Nat), let u := s.taken c 0x0B01; let k := u.fwSlot slot; let img : ImageBytes := fun o n => u.rd (a + o) n; s.cardOk c 0x0B01 false fwOwner = true ∧ (slot ≤ 1 ∨ slot = 0xFF) ∧ u.boot.active ≤ 1 ∧ 0x1001 ≤ len ∧ len ≤ 0x1000000 ∧ u.dramOf true a len = true ∧ u.anyOpen [0x0B01, 0x0B02] = false ∧ u.slotFree false = true ∧ u.boot.slot ≠ some k ∧ u.rdPoison a len = false ∧ 0x1000 + imgLen img ≤ len ∧ u.imgValid img = true :=
  ⟨fwState {}, kCard, 0xFF, 0x1001, 4096, by decide +kernel⟩
/-- The hypotheses of clause 2 of FirmwareAndKeeperComplete are met together. -/
theorem witness_FirmwareAndKeeperComplete_2 : ∃ (s : State) (c : CardCtx) (slot : Nat) (len : Nat) (a : Nat) (ok : Bool), let u := s.taken c 0x0B01; let k := u.fwSlot slot; s.cardOk c 0x0B01 false fwOwner = true ∧ (slot ≤ 1 ∨ slot = 0xFF) ∧ 0x1001 ≤ len ∧ len ≤ 0x1000000 ∧ u.dramOf true a len = true ∧ u.anyOpen [0x0B01, 0x0B02] = false ∧ u.slotFree false = true ∧ u.boot.slot ≠ some k ∧ u.rdPoison a len = false ∧ u.imgValid (fun o n => u.rd (a + o) n) = false :=
  ⟨fwState {}, kCard, 0, 0x1001, 8192, true, by decide +kernel⟩
/-- The hypotheses of clause 3 of FirmwareAndKeeperComplete are met together. -/
theorem witness_FirmwareAndKeeperComplete_3 : ∃ (s : State) (c : CardCtx) (slot : Nat) (ok : Bool), let u := s.taken c 0x0B02; let k := u.fwSlot slot; s.cardOk c 0x0B02 false fwOwner = true ∧ (slot ≤ 1 ∨ slot = 0xFF) ∧ u.anyOpen [0x0B01, 0x0B02] = false ∧ u.slotFree false = true ∧ u.boot.slot ≠ some k ∧ u.slotValid k = true :=
  ⟨fwState {}, kCard, 0xFF, true, by decide +kernel⟩
/-- The hypotheses of clause 4 of FirmwareAndKeeperComplete are met together. -/
theorem witness_FirmwareAndKeeperComplete_4 : ∃ (s : State) (c : CardCtx) (slot : Nat), let u := s.taken c 0x0B02; let k := u.fwSlot slot; let b := u.slotImage k; s.cardOk c 0x0B02 false fwOwner = true ∧ slot ≤ 1 ∧ u.anyOpen [0x0B01, 0x0B02] = false ∧ u.slotFree false = true ∧ u.boot.slot = some k ∧ u.boot.trial = true :=
  ⟨fwState { slot := some 1, trial := true }, kCard, 1, by decide +kernel⟩
/-- The hypotheses of clause 5 of FirmwareAndKeeperComplete are met together. -/
theorem witness_FirmwareAndKeeperComplete_5 : ∃ (s : State) (c : CardCtx) (slot : Nat), let u := s.taken c 0x0B02; let k := u.fwSlot slot; s.cardOk c 0x0B02 false fwOwner = true ∧ (slot ≤ 1 ∨ slot = 0xFF) ∧ u.boot.active ≤ 1 ∧ (∀ r ∈ u.boot.slot, r ≤ 1) ∧ u.dby.openOps = [] ∧ u.dby.queue = [] ∧ u.slotValid k = true :=
  ⟨fwState {}, kCard, 0xFF, by decide +kernel⟩
/-- The hypotheses of clause 6 of FirmwareAndKeeperComplete are met together. -/
theorem witness_FirmwareAndKeeperComplete_6 : ∃ (s : State), s.keeper = true ∧ s.boot.patrol = none ∧ s.boot.patrolDue = true ∧ s.dstate = 0 :=
  ⟨{ cardState [(DBY_STAT, 2 ^ DBY_STAT_KEEPER.lo), (PE_PORT_CFG 5, 3 * 2 ^ PE_PORT_CFG_FEED.lo)] with boot := { patrolDue := true } }, by decide +kernel⟩
/-- The hypotheses of clause 7 of FirmwareAndKeeperComplete are met together. -/
theorem witness_FirmwareAndKeeperComplete_7 : ∃ (s : State) (p : Patrol) (f : Nat) (drive : Nat) (nsid : Nat) (slba : Nat) (nlb : Nat) (st : Nat) (l : List Nat), let k := s.boot.healthSeq; s.keeper = true ∧ s.boot.patrol = some p ∧ p.feeds = f :: l ∧ k < 32768 :=
  ⟨{ cardState [(DBY_STAT, 2 ^ DBY_STAT_KEEPER.lo)] with boot := { patrol := some { feeds := [3] }, healthSeq := 128 } }, { feeds := [3] }, 3, 5, 1, 99, 64, 4, [], by decide +kernel⟩
/-- The hypotheses of clause 8 of FirmwareAndKeeperComplete are met together. -/
theorem witness_FirmwareAndKeeperComplete_8 : ∃ (s : State) (drive : Nat) (nsid : Nat) (slba : Nat) (nlb : Nat), s.keeper = false :=
  ⟨cardState [], 5, 1, 99, 64, by decide +kernel⟩
/-- The hypotheses of clause 9 of FirmwareAndKeeperComplete are met together. -/
theorem witness_FirmwareAndKeeperComplete_9 : ∃ (s : State) (drive : Nat) (nsid : Nat) (slba : Nat) (nlb : Nat), s.keeper = true ∧ drive < 1024 ∧ 1 ≤ nlb ∧ nlb ≤ 65536 ∧ s.ctrlUp drive = true ∧ (s.pairsOf drive).isEmpty = false ∧ ((List.range 65536).any fun i => (s.slot i).isNone) = true :=
  ⟨{ cardState [(DBY_STAT, 2 ^ DBY_STAT_KEEPER.lo), (DQ_CTRL_A 5, 2 ^ DQ_CTRL_A_STATE.lo + 2 ^ DQ_CTRL_A_EN.lo), (DQ_QP 2, 5 * 2 ^ DQ_QP_CTRL.lo + 2 ^ DQ_QP_EN.lo), (DQ_CFG, 2 ^ DQ_CFG_EN.lo)] with drv := { pair := [(2, {})] } }, 5, 1, 99, 64, by decide +kernel⟩
/-- The hypotheses of clause 1 of ProbeAndTraceCommandsComplete are met together. -/
theorem witness_ProbeAndTraceCommandsComplete_1 : ∃ (s : State) (c : CardCtx) (n : Nat) (k : Nat) (l : List Byte), let u := s.taken c 0x0A01; s.cardOk c 0x0A01 false probeOwner = true ∧ n < 224 ∧ k < 2 ∧ u.stopLost (0x100 + n) = false ∧ cmpBad l = none :=
  ⟨cardState [], kCard, 223, 1, [0x3F, 0xFF, 7, 0xFF, 0, 0, 0x3F, 0xF] ++ List.replicate 24 0, by decide +kernel⟩
/-- The hypotheses of clause 2 of ProbeAndTraceCommandsComplete are met together. -/
theorem witness_ProbeAndTraceCommandsComplete_2 : ∃ (s : State) (c : CardCtx) (n : Nat) (k : Nat) (l : List Byte) (o : Nat), let u := s.taken c 0x0A01; s.cardOk c 0x0A01 false probeOwner = true ∧ (224 ≤ n ∧ o = 0x10 ∨ n < 224 ∧ u.stopLost (0x100 + n) = false ∧ (2 ≤ k ∧ o = 0x12 ∨ k < 2 ∧ (cmpBad l).map (0x18 + ·) = some o)) :=
  ⟨cardState [], kCard, 223, 1, [0x40] ++ List.replicate 31 0, 0x18, by decide +kernel⟩
/-- The hypotheses of clause 3 of ProbeAndTraceCommandsComplete are met together. -/
theorem witness_ProbeAndTraceCommandsComplete_3 : ∃ (s : State) (c : CardCtx) (n : Nat) (k : Nat) (l : List Byte), let u := s.taken c 0x0A01; let j := nodeDie n * 64 + (k - 0x40); s.cardOk c 0x0A01 false probeOwner = true ∧ n < 224 ∧ 0x40 ≤ k ∧ k < 0x80 ∧ u.stopLost (0x100 + n) = false ∧ cntBad l = none :=
  ⟨cardState [(DBG_CNT 3 63, 9)], kCard, 223, 0x7F, [6, 2, 1, 0, 0, 0, 0, 0, 255, 255] ++ List.replicate 22 0, by decide +kernel⟩
/-- The hypotheses of clause 4 of ProbeAndTraceCommandsComplete are met together. -/
theorem witness_ProbeAndTraceCommandsComplete_4 : ∃ (s : State) (c : CardCtx) (n : Nat) (k : Nat) (l : List Byte) (o : Nat), let u := s.taken c 0x0A01; s.cardOk c 0x0A01 false probeOwner = true ∧ (224 ≤ n ∧ o = 0x10 ∨ n < 224 ∧ u.stopLost (0x100 + n) = false ∧ ((k < 0x40 ∨ 0x80 ≤ k) ∧ o = 0x12 ∨ 0x40 ≤ k ∧ k < 0x80 ∧ (cntBad l).map (0x18 + ·) = some o)) :=
  ⟨cardState [], kCard, 5, 0x40, [7] ++ List.replicate 31 0, 0x18, by decide +kernel⟩
/-- The hypotheses of clause 5 of ProbeAndTraceCommandsComplete are met together. -/
theorem witness_ProbeAndTraceCommandsComplete_5 : ∃ (s : State) (c : CardCtx) (n : Nat) (l : List Byte), let u := s.taken c 0x0A01; let d := nodeDie n; s.cardOk c 0x0A01 false probeOwner = true ∧ n < 224 ∧ u.stopLost (0x100 + n) = false ∧ traceBad l = none ∧ cardField l 0 1 = 0 :=
  ⟨cardState [(DBG_TRC_STAT 3, 0x1FD)], kCard, 223, List.replicate 32 0, by decide +kernel⟩
/-- The hypotheses of clause 6 of ProbeAndTraceCommandsComplete are met together. -/
theorem witness_ProbeAndTraceCommandsComplete_6 : ∃ (s : State) (c : CardCtx) (n : Nat) (l : List Byte), let u := s.taken c 0x0A01; let d := nodeDie n; let m := cardField l 0 1; s.cardOk c 0x0A01 false probeOwner = true ∧ n < 224 ∧ u.stopLost (0x100 + n) = false ∧ traceBad l = none ∧ m ≠ 0 ∧ u.tracing d = false :=
  ⟨cardState [(DBG_TRC_STAT 3, 0x1F9)], kCard, 223, [2, 0, 0, 0, 5] ++ List.replicate 27 0, by decide +kernel⟩
/-- The hypotheses of clause 7 of ProbeAndTraceCommandsComplete are met together. -/
theorem witness_ProbeAndTraceCommandsComplete_7 : ∃ (s : State) (c : CardCtx) (n : Nat) (l : List Byte), let u := s.taken c 0x0A01; s.cardOk c 0x0A01 false probeOwner = true ∧ n < 224 ∧ u.stopLost (0x100 + n) = false ∧ traceBad l = none ∧ cardField l 0 1 ≠ 0 ∧ u.tracing (nodeDie n) = true :=
  ⟨cardState [(DBG_TRC_STAT 3, 5)], kCard, 223, [2, 0, 0, 0, 5] ++ List.replicate 27 0, by decide +kernel⟩
/-- The hypotheses of clause 8 of ProbeAndTraceCommandsComplete are met together. -/
theorem witness_ProbeAndTraceCommandsComplete_8 : ∃ (s : State) (c : CardCtx) (n : Nat) (k : Nat) (m : Nat), let u := s.taken c 0x0A02; s.cardOk c 0x0A02 false probeOwner = true ∧ n < 224 ∧ u.stopLost (0x100 + n) = false ∧ 1 ≤ m ∧ m ≤ 120 ∧ (k < 2 ∨ k = 0x10 ∨ 0x40 ≤ k ∧ k < 0x80) :=
  ⟨cardState [(DBG_CNT 3 63, 9)], kCard, 223, 0x7E, 5, by decide +kernel⟩
/-- The hypotheses of clause 9 of ProbeAndTraceCommandsComplete are met together. -/
theorem witness_ProbeAndTraceCommandsComplete_9 : ∃ (s : State) (c : CardCtx) (n : Nat) (k : Nat) (m : Nat) (o : Nat), let u := s.taken c 0x0A02; s.cardOk c 0x0A02 false probeOwner = true ∧ (224 ≤ n ∧ o = 0x10 ∨ n < 224 ∧ u.stopLost (0x100 + n) = false ∧ (¬ (k < 2 ∨ k = 0x10 ∨ 0x40 ≤ k ∧ k < 0x80) ∧ o = 0x12 ∨ (k < 2 ∨ k = 0x10 ∨ 0x40 ≤ k ∧ k < 0x80) ∧ (m = 0 ∨ 120 < m) ∧ o = 0x13)) :=
  ⟨cardState [], kCard, 3, 0x11, 5, 0x12, by decide +kernel⟩
/-- The hypotheses of clause 10 of ProbeAndTraceCommandsComplete are met together. -/
theorem witness_ProbeAndTraceCommandsComplete_10 : ∃ (s : State) (d : Nat), let p := s.get (DBG_TRC_STAT d) DBG_TRC_STAT_WPTR; let full := s.get (DBG_TRC_STAT d) DBG_TRC_STAT_MODE = 2 ∧ p = 65535 ∧ (s.traceOf d).left = none; d < 4 ∧ s.meshRuns = true ∧ s.tracing d = true ∧ (s.traceOf d).left ≠ some 0 :=
  ⟨{ cardState [(DBG_TRC_STAT 3, 6 + 65535 * 2 ^ 8)] with clk := { meshCycle := 5 } }, 3, by decide +kernel⟩
/-- The hypotheses of clause 11 of ProbeAndTraceCommandsComplete are met together. -/
theorem witness_ProbeAndTraceCommandsComplete_11 : ∃ (s : State) (d : Nat), s.tracing d = false :=
  ⟨cardState [], 2, by decide +kernel⟩
/-- The hypotheses of clause 12 of ProbeAndTraceCommandsComplete are met together. -/
theorem witness_ProbeAndTraceCommandsComplete_12 : ∃ (s : State) (d : Nat), d < 4 ∧ (s.traceOf d).left = some 0 :=
  ⟨{ cardState [(DBG_TRC_STAT 2, 5)] with dbg := { trace := [(2, { left := some 0 })] } }, 2, by decide +kernel⟩
/-- The hypotheses of clause 13 of ProbeAndTraceCommandsComplete are met together. -/
theorem witness_ProbeAndTraceCommandsComplete_13 : ∃ (s : State) (d : Nat), (s.traceOf d).left ≠ some 0 :=
  ⟨cardState [], 2, by decide +kernel⟩
/-- The hypotheses of clause 1 of JtagCommandsComplete are met together. -/
theorem witness_JtagCommandsComplete_1 : ∃ (s : State), s.tapOn = true :=
  ⟨cardState [(DBY_CHIP_ID, 2 ^ 40)], by decide +kernel⟩
/-- The hypotheses of clause 2 of JtagCommandsComplete are met together. -/
theorem witness_JtagCommandsComplete_2 : ∃ (s : State), s.tapOn = true :=
  ⟨cardState [(DBY_CHIP_ID, 31 * 2 ^ 40)], by decide +kernel⟩
/-- The hypotheses of clause 3 of JtagCommandsComplete are met together. -/
theorem witness_JtagCommandsComplete_3 : ∃ (s : State) (b : Nat), s.tapOn = true ∧ b < 2 ^ 3904 :=
  ⟨cardState [], 2 ^ 3903, by decide +kernel⟩
/-- The hypotheses of clause 4 of JtagCommandsComplete are met together. -/
theorem witness_JtagCommandsComplete_4 : ∃ (s : State), let ok := decide (s.life = 0 ∨ s.life = 1 ∨ s.life = 3) && decide (∀ c : Fin 16, s.get (CREEL_CH_STAT c) CREEL_CH_STAT_STATE = 0); s.tapOn = true :=
  ⟨cardState [], by decide +kernel⟩
/-- The hypotheses of clause 5 of JtagCommandsComplete are met together. -/
theorem witness_JtagCommandsComplete_5 : ∃ (s : State), let ok := decide (s.life = 0 ∨ s.life = 1 ∨ s.life = 3) && decide (∀ c : Fin 16, s.get (CREEL_CH_STAT c) CREEL_CH_STAT_STATE = 0); s.tapOn = true :=
  ⟨cardState [], by decide +kernel⟩
/-- The hypotheses of clause 6 of JtagCommandsComplete are met together. -/
theorem witness_JtagCommandsComplete_6 : ∃ (s : State), let ok := decide (s.life = 0 ∨ s.life = 1 ∨ s.life = 3) && decide (∀ c : Fin 16, s.get (CREEL_CH_STAT c) CREEL_CH_STAT_STATE = 0); s.tapOn = true :=
  ⟨cardState [], by decide +kernel⟩
/-- The hypotheses of clause 7 of JtagCommandsComplete are met together. -/
theorem witness_JtagCommandsComplete_7 : ∃ (s : State), s.tapOn = true :=
  ⟨cardState [], by decide +kernel⟩
/-- The hypotheses of clause 8 of JtagCommandsComplete are met together. -/
theorem witness_JtagCommandsComplete_8 : ∃ (s : State), s.tapOn = true :=
  ⟨cardState [], by decide +kernel⟩
/-- The hypotheses of clause 9 of JtagCommandsComplete are met together. -/
theorem witness_JtagCommandsComplete_9 : ∃ (s : State), s.tapOn = true :=
  ⟨cardState [], by decide +kernel⟩
/-- The hypotheses of clause 10 of JtagCommandsComplete are met together. -/
theorem witness_JtagCommandsComplete_10 : ∃ (s : State), s.tapOn = true :=
  ⟨cardState [], by decide +kernel⟩
/-- The hypotheses of clause 11 of JtagCommandsComplete are met together. -/
theorem witness_JtagCommandsComplete_11 : ∃ (s : State) (a : Nat) (d : Nat), s.tapOn = true ∧ s.dbg.ir = 0x10 ∧ a < 128 ∧ a ≠ 0x3C ∧ d < 2 ^ 32 :=
  ⟨{ cardState [] with dbg := { ir := 16 } }, 127, 5, by decide +kernel⟩
/-- The hypotheses of clause 12 of JtagCommandsComplete are met together. -/
theorem witness_JtagCommandsComplete_12 : ∃ (s : State) (a : Nat) (d : Nat), s.tapOn = true ∧ s.dbg.ir = 0x10 ∧ s.dbg.dmactive = true ∧ 4 ≤ a ∧ a < 8 ∧ d < 2 ^ 32 :=
  ⟨{ cardState [] with dbg := { ir := 16, dmactive := true } }, 7, 5, by decide +kernel⟩
/-- The hypotheses of clause 13 of JtagCommandsComplete are met together. -/
theorem witness_JtagCommandsComplete_13 : ∃ (s : State) (a : Nat) (d : Nat), s.tapOn = true ∧ s.dbg.ir = 0x10 ∧ s.dbg.dmactive = true ∧ 0x20 ≤ a ∧ a < 0x28 ∧ d < 2 ^ 32 :=
  ⟨{ cardState [] with dbg := { ir := 16, dmactive := true } }, 0x27, 5, by decide +kernel⟩
/-- The hypotheses of clause 14 of JtagCommandsComplete are met together. -/
theorem witness_JtagCommandsComplete_14 : ∃ (s : State) (h : Nat), s.tapOn = true ∧ s.dbg.ir = 0x10 ∧ s.dbg.dmactive = true ∧ h < 192 :=
  ⟨{ hartState {} [(SEL_DEBUG, 0xF)] with dbg := { ir := 16, dmactive := true } }, 0, by decide +kernel⟩
/-- The hypotheses of clause 15 of JtagCommandsComplete are met together. -/
theorem witness_JtagCommandsComplete_15 : ∃ (s : State) (w : BitVec 41), (s.tapOn = false ∨ s.dbg.ir ≠ 0x10 ∨ w.toNat % 4 = 0 ∨ w.toNat % 4 = 3) :=
  ⟨cardState [], 2, by decide +kernel⟩
/-- The hypotheses of clause 16 of JtagCommandsComplete are met together. -/
theorem witness_JtagCommandsComplete_16 : ∃ (s : State), s.tapOn = false :=
  ⟨cardState [(PWR_STATE, 3)], by decide +kernel⟩
/-- The hypotheses of clause 17 of JtagCommandsComplete are met together. -/
theorem witness_JtagCommandsComplete_17 : ∃ (s : State), s.tapOn = false :=
  ⟨cardState [(PWR_STATE, 3)], by decide +kernel⟩
/-- The hypotheses of clause 18 of JtagCommandsComplete are met together. -/
theorem witness_JtagCommandsComplete_18 : ∃ (s : State), s.tapOn = false :=
  ⟨cardState [(PWR_STATE, 3)], by decide +kernel⟩
/-- The hypotheses of clause 19 of JtagCommandsComplete are met together. -/
theorem witness_JtagCommandsComplete_19 : ∃ (s : State), s.tapOn = false :=
  ⟨cardState [(PWR_STATE, 3)], by decide +kernel⟩
/-- The hypotheses of clause 20 of JtagCommandsComplete are met together. -/
theorem witness_JtagCommandsComplete_20 : ∃ (s : State), s.tapOn = false :=
  ⟨cardState [(PWR_STATE, 3)], by decide +kernel⟩
/-- The hypotheses of clause 21 of JtagCommandsComplete are met together. -/
theorem witness_JtagCommandsComplete_21 : ∃ (s : State), s.tapOn = false :=
  ⟨cardState [(PWR_STATE, 3)], by decide +kernel⟩
/-- The hypotheses of clause 22 of JtagCommandsComplete are met together. -/
theorem witness_JtagCommandsComplete_22 : ∃ (s : State), s.tapOn = false :=
  ⟨cardState [(PWR_STATE, 3)], by decide +kernel⟩
/-- The hypotheses of clause 23 of JtagCommandsComplete are met together. -/
theorem witness_JtagCommandsComplete_23 : ∃ (s : State), s.tapOn = false :=
  ⟨cardState [(PWR_STATE, 3)], by decide +kernel⟩
/-- The hypotheses of clause 24 of JtagCommandsComplete are met together. -/
theorem witness_JtagCommandsComplete_24 : ∃ (s : State), s.tapOn = false :=
  ⟨cardState [(PWR_STATE, 3)], by decide +kernel⟩
/-- The hypotheses of clause 25 of JtagCommandsComplete are met together. -/
theorem witness_JtagCommandsComplete_25 : ∃ (s : State), s.tapOn = false :=
  ⟨cardState [(PWR_STATE, 3)], by decide +kernel⟩
/-- The hypotheses of clause 1 of DebugModuleCommandsComplete are met together. -/
theorem witness_DebugModuleCommandsComplete_1 : ∃ (s : State) (h : Nat), let p := match (s.hart h).lq with | e :: _ => e.pc | [] => (s.hart h).pc; s.canHalt h = true :=
  ⟨hartState { priv := 1, x := xRegs [(5, 6)] } [(SEL_DEBUG, 0xF)], 0, by decide +kernel⟩
/-- The hypotheses of clause 2 of DebugModuleCommandsComplete are met together. -/
theorem witness_DebugModuleCommandsComplete_2 : ∃ (s : State) (h : Nat), s.canHalt h = false ∧ (s.hdbg h).halted = false :=
  ⟨hartState {} [], 0, by decide +kernel⟩
/-- The hypotheses of clause 3 of DebugModuleCommandsComplete are met together. -/
theorem witness_DebugModuleCommandsComplete_3 : ∃ (s : State) (h : Nat), let p := (s.hdbg h).dcsr % 4; (s.hdbg h).halted = true ∧ (s.hdbg h).prog = false :=
  ⟨{ hartState {} [] with dbg := { hart := [(0, { halted := true, dpc := 64, dcsr := 1 })] } }, 0, by decide +kernel⟩
/-- The hypotheses of clause 4 of DebugModuleCommandsComplete are met together. -/
theorem witness_DebugModuleCommandsComplete_4 : ∃ (s : State) (h : Nat), ((s.hdbg h).halted = false ∨ (s.hdbg h).prog = true) :=
  ⟨hartState {} [], 0, by decide +kernel⟩
/-- The hypotheses of clause 5 of DebugModuleCommandsComplete are met together. -/
theorem witness_DebugModuleCommandsComplete_5 : ∃ (s : State) (h : Nat) (r : Nat) (v : Nat), s.dbg.cmderr = 0 ∧ h < 192 ∧ (s.hdbg h).halted = true ∧ (s.hdbg h).prog = false ∧ s.hartUnavail h = false ∧ s.debugOk h = true ∧ 1 ≤ r ∧ r < 32 ∧ v = s.dbg.arg 0 ∧ v < 2 ^ 64 :=
  ⟨{ hartState {} [(SEL_DEBUG, 0xF)] with dbg := { hart := [(0, { halted := true })], data := [(0, 7)] } }, 0, 31, 7, by decide +kernel⟩
/-- The hypotheses of clause 6 of DebugModuleCommandsComplete are met together. -/
theorem witness_DebugModuleCommandsComplete_6 : ∃ (s : State) (h : Nat) (r : Nat), s.dbg.cmderr = 0 ∧ h < 192 ∧ (s.hdbg h).halted = true ∧ (s.hdbg h).prog = false ∧ s.hartUnavail h = false ∧ s.debugOk h = true ∧ r < 32 :=
  ⟨{ hartState { x := xRegs [(5, 2 ^ 40)] } [(SEL_DEBUG, 0xF)] with dbg := { hart := [(0, { halted := true })] } }, 0, 5, by decide +kernel⟩
/-- The hypotheses of clause 7 of DebugModuleCommandsComplete are met together. -/
theorem witness_DebugModuleCommandsComplete_7 : ∃ (s : State) (h : Nat) (lg : Nat), let a := s.dbg.arg 1; s.dbg.cmderr = 0 ∧ h < 192 ∧ (s.hdbg h).halted = true ∧ (s.hdbg h).prog = false ∧ s.hartUnavail h = false ∧ s.debugOk h = true ∧ lg ≤ 3 ∧ a < 2 ^ 47 ∧ (s.hart h).pmpOk 3 a (2 ^ lg) 0 = true ∧ s.place (s.hart h) a (2 ^ lg) = .dram ∧ s.rdPoison a (2 ^ lg) = false :=
  ⟨{ hartState { } [(SEL_DEBUG, 0xF)] with mem := [(4096, 9)], dbg := { hart := [(0, { halted := true })], data := [(2, 4096)] } }, 0, 3, by decide +kernel⟩
/-- The hypotheses of clause 8 of DebugModuleCommandsComplete are met together. -/
theorem witness_DebugModuleCommandsComplete_8 : ∃ (s : State) (h : Nat) (lg : Nat), let a := s.dbg.arg 1; let v := s.dbg.arg 0 % 2 ^ (8 * 2 ^ lg); s.dbg.cmderr = 0 ∧ h < 192 ∧ (s.hdbg h).halted = true ∧ (s.hdbg h).prog = false ∧ s.hartUnavail h = false ∧ s.debugOk h = true ∧ lg ≤ 3 ∧ a < 2 ^ 47 ∧ (s.hart h).pmpOk 3 a (2 ^ lg) 1 = true ∧ s.place (s.hart h) a (2 ^ lg) = .dram :=
  ⟨{ hartState { } [(SEL_DEBUG, 0xF)] with dbg := { hart := [(0, { halted := true })], data := [(0, 0x1234), (2, 4096)] } }, 0, 1, by decide +kernel⟩
/-- The hypotheses of clause 9 of DebugModuleCommandsComplete are met together. -/
theorem witness_DebugModuleCommandsComplete_9 : ∃ (s : State) (h : Nat) (c : BitVec 32), s.dbg.cmderr = 0 ∧ (191 < h ∨ (s.hdbg h).halted = false ∨ s.hartUnavail h = true ∨ s.debugOk h = false) :=
  ⟨hartState {} [], 0, 5, by decide +kernel⟩
/-- The hypotheses of clause 10 of DebugModuleCommandsComplete are met together. -/
theorem witness_DebugModuleCommandsComplete_10 : ∃ (s : State) (h : Nat) (c : BitVec 32), s.dbg.cmderr ≠ 0 :=
  ⟨{ hartState {} [] with dbg := { cmderr := 4 } }, 0, 5, by decide +kernel⟩
/-- The hypotheses of clause 11 of DebugModuleCommandsComplete are met together. -/
theorem witness_DebugModuleCommandsComplete_11 : ∃ (s : State) (a : Nat) (lg : Nat) (v : W64) (e : Option W64), s.dbg.sberror = 0 ∧ lg ≤ 3 ∧ a % 2 ^ lg = 0 ∧ a < 2 ^ 47 ∧ s.invWorld true = true ∧ s.responder 223 = false ∧ s.populated a (2 ^ lg) = true :=
  ⟨homeState [(SEL_DEBUG, 0xF)] {} {}, 4096, 3, 0x123456, none, by decide +kernel⟩
/-- The hypotheses of clause 12 of DebugModuleCommandsComplete are met together. -/
theorem witness_DebugModuleCommandsComplete_12 : ∃ (s : State) (a : Nat) (lg : Nat) (v : W64) (e : Option W64) (w : Bool), s.dbg.sberror = 0 ∧ lg ≤ 3 ∧ a % 2 ^ lg = 0 ∧ a < 2 ^ 47 ∧ (s.invWorld true = true ∧ w = true ∨ s.invWorld true = false ∧ s.invWorld false = true ∧ w = false) ∧ s.responder 223 = false ∧ s.populated a (2 ^ lg) = true ∧ s.worldOk w a = true ∧ s.rdPoison a (2 ^ lg) = false :=
  ⟨{ homeState [(SEL_DEBUG, 2)] {} {} with mem := [(4096, 9)] }, 4096, 3, 0, none, false, by decide +kernel⟩
/-- The hypotheses of clause 13 of DebugModuleCommandsComplete are met together. -/
theorem witness_DebugModuleCommandsComplete_13 : ∃ (s : State) (wr : Bool) (a : Nat) (lg : Nat) (v : W64) (e : Option W64), s.dbg.sberror = 0 ∧ lg ≤ 3 ∧ a % 2 ^ lg = 0 ∧ a < 2 ^ 47 ∧ s.invWorld true = false ∧ s.invWorld false = true ∧ s.responder 223 = false ∧ s.populated a (2 ^ lg) = true ∧ s.worldOk false a = false :=
  ⟨homeState [(SEL_DEBUG, 2), (SEL_DRAM_WM, 1)] {} {}, true, 4096, 3, 0, none, by decide +kernel⟩
/-- The hypotheses of clause 14 of DebugModuleCommandsComplete are met together. -/
theorem witness_DebugModuleCommandsComplete_14 : ∃ (s : State) (wr : Bool) (a : Nat) (lg : Nat) (x : Nat) (v : W64) (e : Option W64), s.dbg.sberror = 0 ∧ a < 2 ^ 48 ∧ (3 < lg ∧ x = 4 ∨ lg ≤ 3 ∧ a % 2 ^ lg ≠ 0 ∧ x = 3 ∨ lg ≤ 3 ∧ a % 2 ^ lg = 0 ∧ s.invWorld true = false ∧ s.invWorld false = false ∧ x = 7) :=
  ⟨homeState [] {} {}, true, 4096, 3, 7, 0, none, by decide +kernel⟩
/-- The hypotheses of clause 15 of DebugModuleCommandsComplete are met together. -/
theorem witness_DebugModuleCommandsComplete_15 : ∃ (s : State) (wr : Bool) (a : Nat) (lg : Nat) (v : W64) (e : Option W64), s.dbg.sberror ≠ 0 :=
  ⟨{ homeState [] {} {} with dbg := { sberror := 2 } }, true, 4096, 3, 0, none, by decide +kernel⟩
/-- The hypotheses of clause 1 of ExecLeavesTheQueue are met together. -/
theorem witness_ExecLeavesTheQueue_1 : ∃ (c : Instr) (s : State) (t : State), exec c s = .next t :=
  ⟨.jtagIdcode, State.reset, after .jtagIdcode State.reset, by exact rfl⟩
/-- The hypotheses of clause 1 of StepKeepsTheInvariant are met together. -/
theorem witness_StepKeepsTheInvariant_1 : ∃ (s : State) (t : State), s.inv = true ∧ step s = .next t :=
  ⟨State.reset, (advance 1).run State.reset, by exact ⟨by decide +kernel, rfl⟩⟩
/-- The hypotheses of clause 1 of MeshCommandsKeepTheRest are met together. -/
theorem witness_MeshCommandsKeepTheRest_1 : ∃ (c : Instr) (f : Frame) (s : State) (t : State), meshFrame c = some f ∧ exec c s = .next t :=
  ⟨.dieFifoDrift, (meshFrame (.dieFifoDrift)).getD ⟨[], []⟩, State.reset, after (.dieFifoDrift) State.reset, by exact ⟨rfl, after_eq rfl⟩⟩
/-- The hypotheses of clause 1 of EngineCommandsKeepTheRest are met together. -/
theorem witness_EngineCommandsKeepTheRest_1 : ∃ (c : Instr) (f : Frame) (s : State) (t : State), engineFrame c = some f ∧ exec c s = .next t :=
  ⟨.contextSwap, (engineFrame (.contextSwap)).getD ⟨[], []⟩, State.reset, after (.contextSwap) State.reset, by exact ⟨rfl, after_eq rfl⟩⟩
/-- The hypotheses of clause 1 of HartCommandsKeepTheRest are met together. -/
theorem witness_HartCommandsKeepTheRest_1 : ∃ (c : Instr) (f : Frame) (s : State) (t : State), hartFrame c = some f ∧ exec c s = .next t :=
  ⟨.storeDrain 0, (hartFrame (.storeDrain 0)).getD ⟨[], []⟩, State.reset, after (.storeDrain 0) State.reset, by exact ⟨rfl, after_eq rfl⟩⟩
/-- The hypotheses of clause 1 of DeviceCommandsKeepTheRest are met together. -/
theorem witness_DeviceCommandsKeepTheRest_1 : ∃ (c : Instr) (f : Frame) (s : State) (t : State), deviceFrame c = some f ∧ exec c s = .next t :=
  ⟨.jtagIdcode, (deviceFrame (.jtagIdcode)).getD ⟨[], []⟩, State.reset, after (.jtagIdcode) State.reset, by exact ⟨rfl, after_eq rfl⟩⟩
/-- The hypotheses of clause 1 of StoresStayInTheirBytes are met together. -/
theorem witness_StoresStayInTheirBytes_1 : ∃ (s : State) (t : State) (a : Nat) (b : List Byte) (p : Bool), t = (wrCoh a b p).run s :=
  ⟨State.reset, (wrCoh 100 [1, 2] false).run State.reset, 100, [1, 2], false, by exact rfl⟩
/-- The hypotheses of clause 2 of StoresStayInTheirBytes are met together. -/
theorem witness_StoresStayInTheirBytes_2 : ∃ (s : State) (t : State) (port : Nat) (rid : Nat) (a : Nat) (b : List Byte) (p : Bool), a < 2 ^ 46 ∧ s.ringPair rid a b.length true = none ∧ exec (.pcieInboundWrite port rid a b p) s = .next t :=
  ⟨State.reset, after (.pcieInboundWrite 0 256 4096 [1] false) State.reset, 0, 256, 4096, [1], false, by exact ⟨by decide +kernel, by decide +kernel, after_eq rfl⟩⟩
/-- The hypotheses of clause 3 of StoresStayInTheirBytes are met together. -/
theorem witness_StoresStayInTheirBytes_3 : ∃ (s : State) (t : State) (wr : Bool) (a : Nat) (lg : Nat) (v : Nat) (ext : Option (BitVec 64)), a < 2 ^ 47 ∧ exec (.dmSystemBusAccess wr a lg v ext) s = .next t :=
  ⟨State.reset, after (.dmSystemBusAccess true 4096 3 5 none) State.reset, true, 4096, 3, 5, none, by exact ⟨by decide +kernel, after_eq rfl⟩⟩
/-- The hypotheses of clause 4 of StoresStayInTheirBytes are met together. -/
theorem witness_StoresStayInTheirBytes_4 : ∃ (s : State) (t : State) (h : Nat) (cmd : BitVec 32), cmd.toNat / 2 ^ 24 = 2 ∧ s.place (s.hart h) (s.dbg.arg 1 % 2 ^ 48) (2 ^ (cmd.toNat / 2 ^ 20 % 8)) ≠ .io ∧ exec (.dmAbstractCommand h cmd) s = .next t :=
  ⟨State.reset, after (.dmAbstractCommand 0 0x02310000) State.reset, 0, 0x02310000, by exact ⟨by decide +kernel, by decide +kernel, after_eq rfl⟩⟩
/-- The hypotheses of clause 5 of StoresStayInTheirBytes are met together. -/
theorem witness_StoresStayInTheirBytes_5 : ∃ (s : State) (t : State) (node : Nat) (f : Flit), exec (.memWr node f) s = .next t :=
  ⟨State.reset, after (.memWr 16 { dest := 16, src := 0, req := 0, cls := clsREQ, opcode := opMemWr }) State.reset, 16, { dest := 16, src := 0, req := 0, cls := clsREQ, opcode := opMemWr }, by exact after_eq rfl⟩
/-- The hypotheses of clause 6 of StoresStayInTheirBytes are met together. -/
theorem witness_StoresStayInTheirBytes_6 : ∃ (s : State) (t : State) (chan : Nat), exec (.zeroFillDone chan) s = .next t :=
  ⟨State.reset, after (.zeroFillDone 3) State.reset, 3, by exact after_eq rfl⟩
/-- The hypotheses of clause 7 of StoresStayInTheirBytes are met together. -/
theorem witness_StoresStayInTheirBytes_7 : ∃ (s : State) (t : State) (c : CardCtx) (snap : Nat), exec (.infoTelemetry c snap) s = .next t :=
  ⟨State.reset, after (.infoTelemetry ringCtx 0) State.reset, ringCtx, 0, by exact after_eq rfl⟩
/-- The hypotheses of clause 8 of StoresStayInTheirBytes are met together. -/
theorem witness_StoresStayInTheirBytes_8 : ∃ (s : State) (t : State) (c : Instr), repliesOnly c = true ∧ exec c s = .next t :=
  ⟨State.reset, after .crdSupplyLoss State.reset, .crdSupplyLoss, by exact ⟨rfl, rfl⟩⟩
/-- The hypotheses of clause 9 of StoresStayInTheirBytes are met together. -/
theorem witness_StoresStayInTheirBytes_9 : ∃ (s : State) (t : State) (c : Instr) (h : Nat), insHart c = some h ∧ s.bare h ∧ exec c s = .next t :=
  ⟨State.reset, after (.fpsync { hart := 0 }) State.reset, .fpsync { hart := 0 }, 0, by exact ⟨rfl, ⟨by decide +kernel, by decide +kernel⟩, after_eq rfl⟩⟩
/-- The hypotheses of clause 10 of StoresStayInTheirBytes are met together. -/
theorem witness_StoresStayInTheirBytes_10 : ∃ (s : State) (t : State) (h : Nat), exec (.storeDrain h) s = .next t :=
  ⟨State.reset, after (.storeDrain 0) State.reset, 0, by exact after_eq rfl⟩
/-- The hypotheses of clause 1 of IdcodeOfTheDevice are met together. -/
theorem witness_IdcodeOfTheDevice_1 : ∃ (s : State), let step := s.get DBY_CHIP_ID DBY_CHIP_ID_STEP; s.tapOn = true :=
  ⟨cardState [(DBY_CHIP_ID, 2 ^ 40)], by decide +kernel⟩
end

section
/-! The node map (R18, Table 1.3): the kind of a node from its local position on the die, and the node IDs of each kind. -/

set_option Elab.async false

namespace Sys2Proof.Machine

/-! ### The kind of a node from its local position -/

theorem nodeKind_eq_one_iff (n : Nat) :
    nodeKind n = 1 ↔ n % 16 % 8 = 0 ∧ (n / 16 % 7 = 1 ∨ n / 16 % 7 = 3 ∨ n / 16 % 7 = 5) := by
  unfold nodeKind
  dsimp only
  repeat' split
  all_goals constructor <;> intro h <;> omega

/-- The port positions are not memory-controller positions, since their column is 7 and not 0. -/
theorem nodeKind_eq_two_iff (n : Nat) :
    nodeKind n = 2 ↔ n % 16 % 8 = 7 ∧ (n / 16 % 7 = 2 ∨ n / 16 % 7 = 4) := by
  unfold nodeKind
  dsimp only
  repeat' split
  all_goals constructor <;> intro h <;> omega

/-- The service position is in the ports' column 7, in a row of its own. -/
theorem nodeKind_eq_three_iff (n : Nat) : nodeKind n = 3 ↔ n % 16 % 8 = 7 ∧ n / 16 % 7 = 6 := by
  unfold nodeKind
  dsimp only
  repeat' split
  all_goals constructor <;> intro h <;> omega

theorem nodeKind_lt_four (n : Nat) : nodeKind n < 4 := by
  unfold nodeKind
  dsimp only
  repeat' split
  all_goals decide

/-! ### The node IDs of each kind -/

/-- Of the 8 × 7 nodes of a die, 6 have another kind. -/
theorem coreTiles_of_die : ∀ d : Fin 4,
    ((List.range 224).filter fun n => nodeDie n == d && nodeKind n == 0).length = 50 := by decide

theorem mcNode_ids : (List.range 12).map mcNode = [16, 48, 80, 24, 56, 88, 128, 160, 192, 136, 168, 200] := by
  decide

theorem portNode_ids : (List.range 8).map portNode = [39, 71, 47, 79, 151, 183, 159, 191] := by decide

theorem nodes_of_kind_one :
    (List.range 224).filter (nodeKind · == 1) = [16, 24, 48, 56, 80, 88, 128, 136, 160, 168, 192, 200] := by decide

theorem nodes_of_kind_two :
    (List.range 224).filter (nodeKind · == 2) = [39, 47, 71, 79, 151, 159, 183, 191] := by decide

theorem nodes_of_kind_three : (List.range 224).filter (nodeKind · == 3) = [103, 111, 215, 223] := by decide

/-- Settles O57: the kinds hold of every local position, by the branches of `nodeKind`; the IDs are a finite table. -/
theorem nodeMap : Obligations.NodeMap := by
  unfold Obligations.NodeMap
  have kinds (n : Fin 224) := And.intro (nodeKind_eq_one_iff n) <| And.intro (nodeKind_eq_two_iff n) <|
    And.intro (nodeKind_eq_three_iff n) (nodeKind_lt_four n)
  exact ⟨kinds, coreTiles_of_die, mcNode_ids, portNode_ids, nodes_of_kind_one, nodes_of_kind_two, nodes_of_kind_three⟩

end Sys2Proof.Machine
end

section
/-! The productive ports of a flit (R45) and the first pass of the arbitration (R47). -/

set_option Elab.async false

namespace Sys2Proof.Machine

/-! ### Which ports the model gives -/

theorem mem_productive {n d p : Nat} : p ∈ productive n d ↔ (goX n d).2 = some p ∨ (goY n d).2 = some p := by
  unfold productive
  dsimp only
  split <;> simp [or_comm]

/-- The port of the x dimension, by the columns that remain in the + direction. -/
theorem goX_port_iff {n d p : Nat} : (goX n d).2 = some p ↔
    p = 0 ∧ (d % 16 + 16 - n % 16) % 16 ≠ 0 ∧ (d % 16 + 16 - n % 16) % 16 ≤ 8 ∨
    p = 1 ∧ 8 < (d % 16 + 16 - n % 16) % 16 := by
  unfold goX
  dsimp only
  repeat' split
  all_goals (simp; omega)

/-- The port of the y dimension, by the rows that remain in the + direction. -/
theorem goY_port_iff {n d p : Nat} : (goY n d).2 = some p ↔
    p = 2 ∧ (d / 16 + 14 - n / 16) % 14 ≠ 0 ∧ (d / 16 + 14 - n / 16) % 14 ≤ 7 ∨
    p = 3 ∧ 7 < (d / 16 + 14 - n / 16) % 14 := by
  unfold goY
  dsimp only
  repeat' split
  all_goals (simp; omega)

/-! ### Which hops bring a flit nearer -/

/-- Steps in the + direction from `a` to `b` on a ring of `m`. -/
def ahead (m a b : Nat) : Nat := (b + m - a) % m

theorem ahead_eq {m a b : Nat} (ha : a < m) (hb : b < m) : ahead m a b = if a ≤ b then b - a else b + m - a := by
  unfold ahead
  split
  · rw [show b + m - a = b - a + m by omega, Nat.add_mod_right, Nat.mod_eq_of_lt (by omega)]
  · exact Nat.mod_eq_of_lt (by omega)

theorem ringDist_eq_ahead {m a b : Nat} (ha : a < m) (hb : b < m) :
    ringDist m a b = min (ahead m a b) (m - ahead m a b) := by
  change min (ahead m a b) (ahead m b a) = _
  rw [ahead_eq ha hb, ahead_eq hb ha]
  split <;> split <;> omega

/-- A step in the + direction nears `b` when at most half of the ring lies ahead. -/
theorem ringDist_step_plus {m h a b : Nat} (hm : m = 2 * h) (ha : a < m) (hb : b < m) :
    ringDist m ((a + 1) % m) b + 1 = ringDist m a b ↔ ahead m a b ≠ 0 ∧ ahead m a b ≤ h := by
  rw [ringDist_eq_ahead (Nat.mod_lt _ (by omega)) hb, ringDist_eq_ahead ha hb,
    ahead_eq (Nat.mod_lt _ (by omega)) hb, ahead_eq ha hb]
  rcases (show a + 1 < m ∨ a + 1 = m by omega) with h1 | h1
  · rw [Nat.mod_eq_of_lt h1]; split <;> split <;> omega
  · rw [h1, Nat.mod_self]; split <;> split <;> omega

/-- A step in the − direction nears `b` when at least half of the ring lies ahead. -/
theorem ringDist_step_minus {m h c a b : Nat} (hm : m = 2 * h) (hc : c + 1 = m) (ha : a < m) (hb : b < m) :
    ringDist m ((a + c) % m) b + 1 = ringDist m a b ↔ h ≤ ahead m a b := by
  rw [ringDist_eq_ahead (Nat.mod_lt _ (by omega)) hb, ringDist_eq_ahead ha hb,
    ahead_eq (Nat.mod_lt _ (by omega)) hb, ahead_eq ha hb]
  rcases Nat.eq_zero_or_pos a with rfl | h1
  · rw [Nat.mod_eq_of_lt (by omega)]; split <;> split <;> omega
  · rw [show a + c = a - 1 + m by omega, Nat.add_mod_right, Nat.mod_eq_of_lt (by omega)]
    split <;> split <;> omega

/-- A hop in the x dimension leaves the row. -/
theorem hops_sameRow {n d x : Nat} (hx : x < 16) :
    hops (n / 16 * 16 + x) d = ringDist 16 x (d % 16) + ringDist 14 (n / 16) (d / 16) := by
  rw [hops, show (n / 16 * 16 + x) % 16 = x by omega, show (n / 16 * 16 + x) / 16 = n / 16 by omega]

/-- A hop in the y dimension leaves the column. -/
theorem hops_sameColumn {n d y : Nat} :
    hops (y * 16 + n % 16) d = ringDist 16 (n % 16) (d % 16) + ringDist 14 y (d / 16) := by
  rw [hops, show (y * 16 + n % 16) % 16 = n % 16 by omega, show (y * 16 + n % 16) / 16 = y by omega]

theorem hops_plusX {n d : Nat} : hops (neighbour n 0) d + 1 = hops n d ↔
    ahead 16 (n % 16) (d % 16) ≠ 0 ∧ ahead 16 (n % 16) (d % 16) ≤ 8 := by
  change hops (n / 16 * 16 + (n % 16 + 1) % 16) d + 1 = _ ↔ _
  rw [← ringDist_step_plus (m := 16) rfl (by omega) (by omega), hops_sameRow (by omega), hops]
  omega

theorem hops_minusX {n d : Nat} : hops (neighbour n 1) d + 1 = hops n d ↔ 8 ≤ ahead 16 (n % 16) (d % 16) := by
  change hops (n / 16 * 16 + (n % 16 + 15) % 16) d + 1 = _ ↔ _
  rw [← ringDist_step_minus (m := 16) (c := 15) rfl rfl (by omega) (by omega), hops_sameRow (by omega), hops]
  omega

theorem hops_plusY {n d : Nat} (hn : n < 224) (hd : d < 224) : hops (neighbour n 2) d + 1 = hops n d ↔
    ahead 14 (n / 16) (d / 16) ≠ 0 ∧ ahead 14 (n / 16) (d / 16) ≤ 7 := by
  change hops ((n / 16 + 1) % 14 * 16 + n % 16) d + 1 = _ ↔ _
  rw [← ringDist_step_plus (m := 14) rfl (by omega) (by omega), hops_sameColumn, hops]
  omega

theorem hops_minusY {n d : Nat} (hn : n < 224) (hd : d < 224) : hops (neighbour n 3) d + 1 = hops n d ↔
    7 ≤ ahead 14 (n / 16) (d / 16) := by
  change hops ((n / 16 + 13) % 14 * 16 + n % 16) d + 1 = _ ↔ _
  rw [← ringDist_step_minus (m := 14) (c := 13) rfl rfl (by omega) (by omega), hops_sameColumn, hops]
  omega

/-- R45: a productive port lies on a minimal path, and of two equally short directions it is the + one. -/
theorem mem_productive_iff {n d p : Nat} (hn : n < 224) (hd : d < 224) :
    p ∈ productive n d ↔ p < 4 ∧ hops (neighbour n p) d + 1 = hops n d ∧
      ¬ (p = 1 ∧ (d % 16 + 16 - n % 16) % 16 = 8) ∧ ¬ (p = 3 ∧ (d / 16 + 14 - n / 16) % 14 = 7) := by
  rw [mem_productive, goX_port_iff, goY_port_iff]
  match p with
  | 0 => rw [hops_plusX, ahead]; omega
  | 1 => rw [hops_minusX, ahead]; omega
  | 2 => rw [hops_plusY hn hd, ahead]; omega
  | 3 => rw [hops_minusY hn hd, ahead]; omega
  | q + 4 => omega

/-! ### The first pass -/

/-- R47, first pass: ejection at the destination, and a productive output elsewhere. -/
theorem pass1_port (n : Nat) (l : List Flit) (used : List Nat) :
    ∀ x ∈ (pass1 n l used).1, if x.1.dest = n then x.2 = 5 else x.2 ∈ productive n x.1.dest := by
  induction l generalizing used with
  | nil => simp [pass1]
  | cons f r ih =>
    unfold pass1
    by_cases hf : f.dest = n
    · rw [if_pos hf]
      split
      · exact List.forall_mem_cons.mpr ⟨if_pos hf ▸ rfl, ih _⟩
      · exact ih _
    · rw [if_neg hf]
      split
      · next p hp =>
        exact List.forall_mem_cons.mpr ⟨by rw [if_neg hf]; exact List.mem_of_find?_eq_some hp, ih _⟩
      · exact ih _

/-- Settles O58: the ports dimension by dimension, the first pass by induction on the ranked flits. -/
theorem productivePorts : Obligations.ProductivePorts := by
  unfold Obligations.ProductivePorts
  exact ⟨fun _ _ _ hn hd => mem_productive_iff hn hd, pass1_port⟩

end Sys2Proof.Machine
end

section
/-! What the shared operations change: the parts of the state and the registers that each of them stays within. The operations
that need the same parts share one bundle of facts about the frame. -/

set_option Elab.async false

namespace Sys2Proof.Machine

/-! ### Frames -/

@[simp] theorem Frame.writes_nil (l : List Part) (a : Nat) : ¬ Frame.writes ⟨l, []⟩ a := by simp [Frame.writes]
@[simp] theorem Frame.writes_cons (l : List Part) (p : Nat → Prop) (r : List (Nat → Prop)) (a : Nat) :
    Frame.writes ⟨l, p :: r⟩ a ↔ p a ∨ Frame.writes ⟨l, r⟩ a := by simp [Frame.writes]
/-- A register of an array is one of the array. -/
@[simp] theorem anyOf_self (r : Nat → Nat) (i : Nat) : anyOf r (r i) := ⟨i, rfl⟩
@[simp] theorem anyOf2_self (r : Nat → Nat → Nat) (i j : Nat) : anyOf2 r (r i j) := ⟨i, j, rfl⟩

/-- Every elementary effect of `a` is on a part in `ch` or on a register in `R`. -/
abbrev Act.Within (ch : List Part) (R : Nat → Prop) (a : Act) : Prop := Act.Leaves (Allowed ch R) a

/-- What a line of the Harness changes. -/
structure LineFrame (ch : List Part) (R : Nat → Prop) : Prop where
  mesh : .mesh ∈ ch := by simp
  hrn : .hrn ∈ ch := by simp
  irq : ∀ a, irqRegs a → R a := by exact fun _ h => ⟨_, by simp, h⟩

/-- What an error record changes. -/
structure LogFrame (ch : List Part) (R : Nat → Prop) : Prop where
  mesh : .mesh ∈ ch := by simp
  hrn : .hrn ∈ ch := by simp
  ras : .ras ∈ ch := by simp
  log : ∀ a, logRegs a → R a := by exact fun _ h => ⟨_, by simp, h⟩

/-- What the passing of time changes. -/
structure TimeFrame (ch : List Part) (R : Nat → Prop) : Prop where
  clk : .clk ∈ ch := by simp
  time : ∀ a, timeRegs a → R a := by exact fun _ h => ⟨_, by simp, h⟩

/-- What a write to memory in the coherent view changes. -/
structure MemoryFrame (ch : List Part) : Prop where
  mem : .mem ∈ ch := by simp
  poison : .poison ∈ ch := by simp
  core : .core ∈ ch := by simp
  cache : .cache ∈ ch := by simp
  coh : .coh ∈ ch := by simp

/-- What a reply card changes. -/
structure ReplyFrame (ch : List Part) (R : Nat → Prop) : Prop extends LineFrame ch R, MemoryFrame ch where
  dby : .dby ∈ ch := by simp
  busy : R DBY_BUSY := by simp
  refused : R DBY_REFUSED := by simp

variable {ch : List Part} {R : Nat → Prop}

theorem irqRegs_src (n : Nat) : irqRegs (HRN_SRC n) := ⟨n, rfl⟩
theorem logRegs_of_irqRegs {a : Nat} (h : irqRegs a) : logRegs a := by
  unfold irqRegs at h
  simp [logRegs, h]
theorem LogFrame.toLineFrame (F : LogFrame ch R) : LineFrame ch R :=
  ⟨F.mesh, F.hrn, fun _ h => F.log _ (logRegs_of_irqRegs h)⟩

/-! ### Registers and flits -/

theorem setF_within {a v : Nat} {f : Fld} (h : R a := by simp) : (setF a f v).Within ch R :=
  setF_leaves' fun _ => h
theorem setFs_within {a : Nat} {l : List (Fld × Nat)} (h : R a := by simp) : (setFs a l).Within ch R :=
  setFs_leaves fun _ => h
theorem addTo_within {a n : Nat} (h : R a) : (addTo a n).Within ch R := addTo_leaves fun _ => h
theorem bump_within {a : Nat} (h : R a := by simp) : (bump a).Within ch R := bump_leaves fun _ => h
theorem mesh_within {f : MeshSt → MeshSt} (h : .mesh ∈ ch := by simp) : (Act.mesh f).Within ch R := h
theorem core_within {f : CoreSt → CoreSt} (h : .core ∈ ch := by simp) : (Act.core f).Within ch R := h
theorem cache_within {f : CacheSt → CacheSt} (h : .cache ∈ ch := by simp) : (Act.cache f).Within ch R := h
theorem coh_within {f : CohSt → CohSt} (h : .coh ∈ ch := by simp) : (Act.coh f).Within ch R := h
theorem btn_within {f : BtnSt → BtnSt} (h : .btn ∈ ch := by simp) : (Act.btn f).Within ch R := h
theorem mc_within {f : MemSt → MemSt} (h : .mc ∈ ch := by simp) : (Act.mc f).Within ch R := h
theorem dby_within {f : DbySt → DbySt} (h : .dby ∈ ch := by simp) : (Act.dby f).Within ch R := h
theorem ras_within {f : RasSt → RasSt} (h : .ras ∈ ch := by simp) : (Act.ras f).Within ch R := h
theorem setPoison_within {l : Nat} {p : Bool} (h : .poison ∈ ch := by simp) : (Act.setPoison l p).Within ch R := h
theorem send_within {n : Nat} {f : Flit} (h : .mesh ∈ ch := by simp) : (send n f).Within ch R := send_leaves fun _ => h
theorem lineSet_within {n : Nat} {b : Bool} (F : LineFrame ch R) : (lineSet n b).Within ch R :=
  lineSet_leaves (fun _ => F.irq _ (irqRegs_src n)) (fun _ => F.hrn) fun _ _ => send_within F.mesh
theorem vectorRaise_within {v : Nat} (F : LineFrame ch R) (hv : ∀ a, vecRegs a → R a) : (vectorRaise v).Within ch R :=
  vectorRaise_leaves (fun _ => hv _ (.inr ⟨v, rfl⟩)) (fun _ => hv _ (.inl (by simp))) (fun _ => F.hrn)
    fun _ _ => send_within F.mesh

/-! ### Error records -/

theorem recWrite_within {id r : Nat} {x : RasRec} (F : LogFrame ch R) : (recWrite (bankOf id) r x).Within ch R := by
  apply recWrite_leaves
  case h5 => exact fun _ => F.ras
  all_goals exact fun _ => F.log _ (by simp [logRegs])
theorem rasLog_within {x : RasRec} (F : LogFrame ch R) : (rasLog x).Within ch R := by
  have status : ∀ id r, R (RAS_STATUS (bankOf id) r) := fun id r => F.log _ (.inl ⟨id, r, rfl⟩)
  have lost : ∀ id, R (RAS_LOST (bankOf id)) := fun id => F.log _ (by simp [logRegs])
  refine fun s => ⟨?_, bankEval_leaves (fun n _ _ => F.toLineFrame.irq _ (irqRegs_src n)) (fun _ => F.hrn)
    fun _ _ => send_within F.mesh⟩
  split
  · exact setF_within (status ..)
  · split
    · exact recWrite_within F
    · split
      · exact recWrite_within F
      · refine ⟨bump_within (lost _), ?_, trivial⟩
        split
        · exact setF_within (status ..)
        · trivial

/-! ### Time -/

theorem timeRegs_counter (k : Nat) : timeRegs (dieCounter k) := by simp [timeRegs]
theorem dieEvent_within {n e c k : Nat} (h : ∀ j, R (dieCounter j)) : (dieEvent n e c k).Within ch R :=
  dieEvent_leaves fun j _ _ => h j
theorem flitEvent_within {n e c k : Nat} {f : Flit} (h : ∀ j, R (dieCounter j)) : (flitEvent n f e c k).Within ch R :=
  flitEvent_leaves fun j _ _ => h j
theorem meshPasses_within {k : Nat} (F : TimeFrame ch R) : (meshPasses k).Within ch R := by
  have counter : ∀ j, R (dieCounter j) := fun j => F.time _ (timeRegs_counter j)
  refine fun s => leaves_ite trivial ⟨F.clk, leaves_each fun p => ?_, leaves_each fun n => addTo_within (F.time _ ?_),
    leaves_when (addTo_within (F.time _ ?_)), leaves_each fun p => addTo_within (counter _), trivial⟩
  · split
    · exact ⟨addTo_within (F.time _ (by simp [timeRegs])), flitEvent_within counter, trivial⟩
    · trivial
  all_goals simp [timeRegs]
theorem advance_within {ns : Nat} (F : TimeFrame ch R) : (advance ns).Within ch R := fun _ =>
  ⟨F.clk, leaves_ite trivial (setF_within (F.time _ (.inl (by simp)))),
    leaves_ite trivial ⟨F.clk, meshPasses_within F⟩, trivial⟩
theorem advanceTo_within {t : Nat} (F : TimeFrame ch R) : (advanceTo t).Within ch R :=
  advanceTo_leaves fun _ => advance_within F
theorem atMesh_within {t : Nat} {a : Act} (F : TimeFrame ch R) (h : a.Within ch R) : (atMesh t a).Within ch R :=
  atMesh_leaves (fun _ => advance_within F) h

/-! ### Memory -/

theorem wrCoh_within {a : Nat} {b : List Byte} {p : Bool} (F : MemoryFrame ch) : (wrCoh a b p).Within ch R :=
  wrCoh_leaves (fun _ _ => F.mem) (fun _ _ => F.poison) (fun _ => F.cache) (fun _ => F.core) fun _ => F.coh
theorem wrLine_within {l : Nat} {d : Line} {p : Bool} (hm : .mem ∈ ch) (hp : .poison ∈ ch) : (wrLine l d p).Within ch R :=
  wrLine_leaves (fun _ _ => hm) fun _ _ => hp
theorem dropL2_within {n l : Nat} (hc : .cache ∈ ch) (hk : .core ∈ ch) : (dropL2 n l).Within ch R :=
  dropL2_leaves (fun _ => hc) fun _ => hk

/-! ### Command cards -/

theorem replyWith_within {c : CardCtx} {op st d : Nat} {p : List Byte} (F : ReplyFrame ch R) :
    (replyWith c op st d p).Within ch R :=
  replyWith_leaves (fun _ => deliver_leaves (fun _ _ _ => wrCoh_within F.toMemoryFrame) (fun _ => F.dby)
    (fun n _ _ => F.irq _ (irqRegs_src n)) (fun _ => F.hrn) fun _ _ => send_within F.mesh)
    (fun _ => F.busy) (fun _ => F.refused) fun _ => F.dby
theorem answer_within {c : CardCtx} {op st d : Nat} {p : List Byte} (F : ReplyFrame ch R) :
    (answer c op st d p).Within ch R := answer_leaves (replyWith_within F) fun _ => F.dby
theorem answer0_within {c : CardCtx} {op st d : Nat} (F : ReplyFrame ch R) : (answer0 c op st d).Within ch R :=
  answer_within F
theorem answerOk_within {c : CardCtx} {op : Nat} (F : ReplyFrame ch R) : (answerOk c op).Within ch R := answer_within F
theorem answerBusyFree_within {c : CardCtx} {op : Nat} (F : ReplyFrame ch R) (hc : .clk ∈ ch) :
    (answerBusyFree c op).Within ch R := withFree_leaves (fun _ => hc) fun _ => answer_within F
theorem refusal_within {op r st tr : Nat} (hd : .dby ∈ ch) (ht : ∀ a, transRegs a → R a) :
    (refusal op r st tr).Within ch R := by
  refine fun s => ⟨hd, ?_, trivial⟩
  split
  · exact setFs_within (ht _ (.inr ⟨_, rfl⟩))
  · exact bump_within (ht _ (.inl (by simp)))
theorem answerRefused_within {c : CardCtx} {op b tr : Nat} (F : ReplyFrame ch R) (ht : ∀ a, transRegs a → R a) :
    (answerRefused c op b tr).Within ch R := ⟨refusal_within F.dby ht, answer0_within F, trivial⟩
theorem accept_within {c : CardCtx} {op obj : Nat} {body : Act} (F : ReplyFrame ch R) (hs : R DBY_STAT)
    (hb : body.Within ch R) : (accept c op obj body).Within ch R := fun _ =>
  leaves_ite ⟨replyWith_within F, F.dby, dbyStat_leaves fun _ => hs, hb, trivial⟩ (answer0_within F)
theorem finish_within {op o st d : Nat} {p : List Byte} (F : ReplyFrame ch R) (hs : R DBY_STAT) :
    (finish op o st d p).Within ch R := finish_leaves (fun _ => replyWith_within F) (fun _ => F.dby) fun _ => hs
theorem viaStop_within {c : CardCtx} {op id : Nat} {body : Act} (F : ReplyFrame ch R) (hb : body.Within ch R) :
    (viaStop c op id body).Within ch R := fun _ => leaves_ite (answer0_within F) hb
theorem mctpFirst_within {c : CardCtx} {op : Nat} {s : State} {a : Act} (F : ReplyFrame ch R)
    (h : mctpFirst c op s = some a) : a.Within ch R := by
  unfold mctpFirst at h
  dsimp only at h
  split at h
  · split at h
    · injection h with h
      subst h
      split
      · exact F.dby
      · trivial
    · split at h
      · injection h with h
        subst h
        exact ⟨F.dby, bump_within F.busy, trivial⟩
      · cases h
  · cases h
/-- A card changes what its gates, its refusals and its body change. -/
theorem gated_within {c : CardCtx} {op : Nat} {m : Bool} {o : State → Owner} {body : State → Act} (F : ReplyFrame ch R)
    (hc : R DBY_CARDS) (hb : ∀ s, (body s).Within ch R) : (gated c op m o body).Within ch R := by
  have go : (Act.read fun s => match s.gateFail c op m (o s) with
      | some (st, d) => answer0 c op st d
      | none => match cardStop op with
        | some id => viaStop c op id (body s)
        | none => body s).Within ch R := fun s => by
    dsimp only
    split
    · exact answer0_within F
    · split
      · exact viaStop_within F (hb s)
      · exact hb s
  refine fun s => leaves_ite ⟨F.dby, go⟩ (leaves_ite trivial ?_)
  split
  · exact mctpFirst_within F ‹_›
  · exact ⟨cardTaken_leaves (fun _ => F.dby) fun _ => hc, go⟩
theorem tileCard_within {c : CardCtx} {op n : Nat} {body : State → Act} (F : ReplyFrame ch R) (hk : .clk ∈ ch)
    (hc : R DBY_CARDS) (hb : ∀ s, (body s).Within ch R) : (tileCard c op n body).Within ch R :=
  gated_within F hc fun s => leaves_ite (answer0_within F)
    (viaStop_within F (leaves_ite (answerBusyFree_within F hk) (hb s)))

end Sys2Proof.Machine
end

section
/-! What a home and its slice change (chapters 03 to 05). -/

set_option Elab.async false

namespace Sys2Proof.Machine

/-- What a cache that sends requests and writes lines back changes. -/
structure CacheFrame (ch : List Part) : Prop where
  mesh : .mesh ∈ ch := by simp
  cache : .cache ∈ ch := by simp
  coh : .coh ∈ ch := by simp

/-- What home `h` changes as it carries transactions out. -/
structure HomeFrame (ch : List Part) (R : Nat → Prop) (h : Nat) : Prop extends LogFrame ch R, CacheFrame ch where
  home : ∀ a, homeRegs h a → R a := by exact fun _ h => ⟨_, by simp, h⟩

variable {ch : List Part} {R : Nat → Prop} {h : Nat}

/-! ### The slice and the directory -/

theorem memSend_within {n : Nat} {f : Flit} (C : CacheFrame ch) : (memSend n f).Within ch R := fun _ =>
  leaves_ite ⟨C.cache, send_within C.mesh, trivial⟩ C.cache
theorem memReq_within {n op l t : Nat} {w p : Bool} {d : Option (Line × Bool)} (C : CacheFrame ch) :
    (memReq n op l w t p d).Within ch R := by
  intro s
  dsimp only
  split
  · trivial
  · exact memSend_within C
theorem memWrite_within {n l : Nat} {d : Line} {p : Bool} (C : CacheFrame ch) : (memWrite n l d p).Within ch R :=
  fun _ => memReq_within C
theorem modDir_within {n l : Nat} {f : DirEntry → DirEntry} (C : CacheFrame ch) : (modDir n l f).Within ch R :=
  fun _ => C.coh
theorem evictSlice_within {n l : Nat} (C : CacheFrame ch) : (evictSlice n l).Within ch R := by
  intro s
  dsimp only
  split
  · trivial
  · exact ⟨leaves_when ⟨memWrite_within C, modDir_within C, trivial⟩, C.cache, trivial⟩
theorem fillSlice_within {n l r : Nat} {d : Line} {p w : Bool} (C : CacheFrame ch) :
    (fillSlice n l d p r w).Within ch R := by
  intro s
  dsimp only
  split
  · exact C.cache
  · split
    · exact memWrite_within C
    · refine ⟨leaves_when (leaves_each fun _ => C.cache), ?_, C.cache, trivial⟩
      split
      · exact evictSlice_within C
      · trivial
/-- What becomes of a slice's line that may be absent. -/
theorem writeBack_within {n l : Nat} {o : Option SliceLine} (C : CacheFrame ch) :
    Act.Within ch R (match o with | some x => memWrite n l x.data x.poison | none => .skip) := by
  split
  · exact memWrite_within C
  · trivial
theorem poisonHome_within {n l : Nat} (C : CacheFrame ch) : (poisonHome n l).Within ch R := fun _ =>
  ⟨fillSlice_within C, modDir_within C, trivial⟩
theorem nextLine_within {p l : Nat} (C : CacheFrame ch) (hr : ∀ i, R (LLC_NL_PF_CNT i)) : (nextLine p l).Within ch R :=
  fun _ => leaves_ite ⟨fillSlice_within C, bump_within (hr _), trivial⟩ trivial

/-! ### Transactions -/

theorem HomeFrame.bump {a : Nat} (F : HomeFrame ch R h) (ha : homeRegs h a) : (bump a).Within ch R :=
  bump_within (F.home a ha)
theorem winLines_within (F : HomeFrame ch R h) : (winLines h).Within ch R := fun _ =>
  setF_within (F.home _ (by simp [homeRegs]))
theorem dirStat_within (F : HomeFrame ch R h) : (dirStat h).Within ch R := fun _ => F.home _ (by simp [homeRegs])
theorem deadHolders_within {l : Nat} (F : HomeFrame ch R h) : (deadHolders h l).Within ch R := fun _ =>
  ⟨leaves_when (modDir_within F.toCacheFrame), leaves_when ⟨modDir_within F.toCacheFrame, poisonHome_within F.toCacheFrame,
    rasLog_within F.toLogFrame, trivial⟩, trivial⟩
theorem openTx_within {f : Flit} {t r : Bool} (F : HomeFrame ch R h) : (openTx h f t r).Within ch R := fun _ =>
  ⟨F.coh, dirStat_within F, trivial⟩
theorem closeTx_within {l : Nat} (F : HomeFrame ch R h) : (closeTx h l).Within ch R := by
  intro s
  dsimp only
  split
  · trivial
  · refine ⟨F.coh, dirStat_within F, leaves_each fun _ => ⟨F.cache, winLines_within F, send_within F.mesh, trivial⟩, ?_, trivial⟩
    split
    · exact openTx_within F
    · intro s
      dsimp only
      split
      · exact leaves_ite (openTx_within F) trivial
      · trivial
theorem applyBtn_within {f : Flit} {c : Bool} (F : HomeFrame ch R h) : (applyBtn h f c).Within ch R :=
  ⟨leaves_ite
    ⟨F.cache, F.bump (by simp [homeRegs]), leaves_when (F.bump (by simp [homeRegs])),
      leaves_when ⟨F.bump (by simp [homeRegs]), rasLog_within F.toLogFrame, trivial⟩, trivial⟩
    ⟨F.cache, F.bump (by simp [homeRegs]), trivial⟩,
    modDir_within F.toCacheFrame, send_within F.mesh, trivial⟩
theorem fillBtn_within {l : Nat} {d : Line} {p w : Bool} (F : HomeFrame ch R h) : (fillBtn h l d p w).Within ch R :=
  have fill {w} : (fillSlice h l d p 2 w).Within ch R := fillSlice_within F.toCacheFrame
  fun _ => leaves_ite fill (leaves_ite ⟨fill, winLines_within F, trivial⟩ ⟨F.bump (by simp [homeRegs]), fill, trivial⟩)

/-- The end of a transaction: what each request answers and leaves in the directory (Tables 4.3 and 5.4). -/
theorem finishTx_within {l : Nat} (F : HomeFrame ch R h) : (finishTx h l).Within ch R := by
  intro s
  dsimp only
  split
  · trivial
  · have fill {d p} : (fillSlice h l d p 2 false).Within ch R := fillSlice_within F.toCacheFrame
    have close : (closeTx h l).Within ch R := closeTx_within F
    have flush : Act.Within ch R (.all [(match s.slice h l with | some x => memWrite h l x.data x.poison | none => .skip),
        modDir h l fun e => { e with sdirty := false },
        modTx h l fun t => { t with memWr := true, written := true }]) :=
      ⟨writeBack_within F.toCacheFrame, modDir_within F.toCacheFrame, F.coh, trivial⟩
    have gone : Act.Within ch R (.all [putDir h l {}, dropSlice h l, winLines h]) :=
      ⟨F.coh, F.cache, winLines_within F, trivial⟩
    have done {f op} : Act.Within ch R (.all [homeRsp h f op, closeTx h l]) := ⟨send_within F.mesh, close, trivial⟩
    split
    · exact ⟨leaves_ite ⟨F.cache, fillBtn_within F, trivial⟩ (leaves_when (fillBtn_within F)), applyBtn_within F,
        leaves_each fun _ => applyBtn_within F, close, trivial⟩
    · split
      · exact leaves_ite ⟨F.coh, F.coh, trivial⟩
          (leaves_ite ⟨send_within F.mesh, F.coh, F.coh, trivial⟩ ⟨send_within F.mesh, F.coh, F.coh, trivial⟩)
      · exact ⟨leaves_when (send_within F.mesh), F.coh, F.coh, trivial⟩
      · exact leaves_ite ⟨F.coh, done, trivial⟩ ⟨leaves_when (send_within F.mesh), F.coh, F.coh, trivial⟩
      · exact ⟨send_within F.mesh, F.coh, trivial⟩
      · exact ⟨fill, F.coh, done, trivial⟩
      · exact ⟨fill, F.coh, done, trivial⟩
      · exact ⟨F.cache, F.coh, done, trivial⟩
      · exact leaves_ite ⟨fill, F.coh, done, trivial⟩ done
      · exact ⟨F.coh, done, trivial⟩
      · exact leaves_ite flush ⟨modDir_within F.toCacheFrame, done, trivial⟩
      · exact leaves_ite flush ⟨gone, done, trivial⟩
      · exact leaves_ite flush ⟨gone, send_within F.mesh, close, trivial⟩
      · exact leaves_ite flush ⟨gone, close, trivial⟩

theorem progress_within {l : Nat} (F : HomeFrame ch R h) : (progress h l).Within ch R := by
  intro s
  dsimp only
  split
  · trivial
  · exact leaves_ite (finishTx_within F) trivial
theorem goTx_within {l : Nat} (F : HomeFrame ch R h) : (goTx h l).Within ch R := by
  refine ⟨deadHolders_within F, fun s => ?_⟩
  dsimp only
  split
  · trivial
  · exact ⟨F.coh, leaves_when (send_within F.mesh), leaves_when (F.bump (by simp [homeRegs])),
      leaves_each fun _ => send_within F.mesh, leaves_when ⟨F.bump (by simp [homeRegs]), F.cache, trivial⟩,
      leaves_when ⟨F.bump (by simp [homeRegs]), memReq_within F.toCacheFrame, trivial⟩, leaves_when (send_within F.mesh),
      progress_within F, trivial⟩
theorem runTx_within {l : Nat} (F : HomeFrame ch R h) : (runTx h l).Within ch R := by
  intro s
  dsimp only
  split
  · trivial
  · refine leaves_ite ⟨F.coh, send_within F.mesh, trivial⟩ ?_
    split
    · exact ⟨F.bump (by simp [homeRegs]), leaves_ite
        ⟨writeBack_within F.toCacheFrame, modDir_within F.toCacheFrame, F.coh, goTx_within F, trivial⟩
        ⟨F.coh, openTx_within F, goTx_within F, trivial⟩⟩
    · exact ⟨F.coh, goTx_within F, trivial⟩
theorem pumpOne_within (F : HomeFrame ch R h) : (pumpOne h).Within ch R := by
  intro s
  dsimp only
  split
  · exact runTx_within F
  · trivial
theorem pump_within (F : HomeFrame ch R h) : (pump h).Within ch R := fun _ => leaves_each fun _ => pumpOne_within F
theorem arrived_within {l : Nat} (F : HomeFrame ch R h) : (arrived h l).Within ch R :=
  ⟨progress_within F, pumpOne_within F, pump_within F, trivial⟩

/-! ### Requests -/

theorem modTickets_within {f : List Ticket → List Ticket} (ho : .coh ∈ ch) (hs : R (DIR_STAT h)) :
    (modTickets h f).Within ch R := ⟨ho, fun _ => hs⟩
theorem HomeFrame.tickets {f : List Ticket → List Ticket} (F : HomeFrame ch R h) : (modTickets h f).Within ch R :=
  modTickets_within F.coh (F.home _ (by simp [homeRegs]))
theorem nack_within {f : Flit} (F : HomeFrame ch R h) (hn : R (DIR_NACK h)) : (nack h f).Within ch R := fun _ =>
  ⟨bump_within hn, leaves_ite (send_within F.mesh) ⟨F.tickets, send_within F.mesh, trivial⟩⟩
theorem denyHome_within {f : Flit} (F : LogFrame ch R) (hd : R SEL_DENY_HOME) : (denyHome h f).Within ch R :=
  ⟨send_within F.mesh, bump_within hd, rasLog_within F, trivial⟩
theorem enterHome_within {f : Flit} (F : HomeFrame ch R h) (hn : R (DIR_NACK h)) (hd : R SEL_DENY_HOME) :
    (enterHome h f).Within ch R := by
  have rsp {op} : (homeRsp h f op).Within ch R := send_within F.mesh
  exact fun s => leaves_ite rsp <| leaves_ite rsp <| leaves_ite rsp <| leaves_ite (denyHome_within F.toLogFrame hd) <|
    leaves_ite ⟨F.tickets, openTx_within F, runTx_within F, trivial⟩ <| leaves_ite F.coh <| leaves_ite (nack_within F hn)
      ⟨openTx_within F, runTx_within F, trivial⟩
theorem reqAt_within {f : Flit} {op : Nat} (F : HomeFrame ch R h) (hn : R (DIR_NACK h)) (hd : R SEL_DENY_HOME) :
    (reqAt h f op).Within ch R := ⟨F.mesh, enterHome_within F hn hd, pump_within F, trivial⟩

/-! ### Answers and timeouts -/

theorem snoopAnswer_within {f : Flit} {k : Tx → Act} (F : HomeFrame ch R h) (hl : R (DIR_LATE_RSP h))
    (hk : ∀ t, (k t).Within ch R) : (snoopAnswer h f k).Within ch R := by
  refine ⟨F.mesh, fun s => ?_⟩
  dsimp only
  split
  · exact leaves_ite ⟨F.coh, hk _, arrived_within F, trivial⟩ (bump_within hl)
  · exact bump_within hl
theorem fencedChannel_within {f : Flit} (F : LogFrame ch R) : (fencedChannel h f).Within ch R := fun _ =>
  leaves_when (rasLog_within F)
theorem memAnswered_within {f : Flit} (F : HomeFrame ch R h) : (memAnswered h f).Within ch R := by
  refine fun s => ⟨F.cache, leaves_when (fencedChannel_within F.toLogFrame), ?_, trivial⟩
  split
  · exact ⟨F.coh, leaves_when (arrived_within F), trivial⟩
  · trivial
theorem agentDead_within {l r : Nat} {b : Bool} (F : HomeFrame ch R h) (ht : R (DIR_TMO h)) (hd : ∀ i, R (DIR_DEAD h i)) :
    (agentDead h l r b).Within ch R :=
  ⟨fun _ => hd _, bump_within ht, modDir_within F.toCacheFrame, leaves_when (poisonHome_within F.toCacheFrame),
    rasLog_within F.toLogFrame, trivial⟩

end Sys2Proof.Machine
end

section
/-! What a router, the fence responder and a memory controller change (chapters 02 and 15). -/

set_option Elab.async false

namespace Sys2Proof.Machine

/-- What the mesh probes change at node `n`. -/
structure ProbeFrame (ch : List Part) (R : Nat → Prop) (n : Nat) : Prop where
  dbg : .dbg ∈ ch := by simp
  cmp : ∀ u, R (DBG_CMP n u) := by exact fun _ => ⟨_, by simp, anyOf_self _ _⟩
  drop : ∀ d, R (DBG_TRC_DROP d) := by simp
  stat : ∀ d, R (DBG_TRC_STAT d) := by simp
  counter : ∀ k, R (dieCounter k) := by simp

/-- What the correction of a read changes on channel `c`. -/
structure CorrectFrame (ch : List Part) (R : Nat → Prop) (c : Nat) : Prop extends LogFrame ch R where
  mc : .mc ∈ ch := by simp
  corrected : R (MC_CE c) := by simp
  tripped : R (MC_BKT_TRIP c) := by simp
  count : ∀ id, R (RAS_CEC (bankOf id)) := by simp

/-- What link errors and a retirement change on channel `c`. -/
structure RetireFrame (ch : List Part) (R : Nat → Prop) (c : Nat) : Prop extends LogFrame ch R where
  mc : .mc ∈ ch := by simp
  cfg : R (MC_CFG c) := by simp
  ilv : ∀ i, R (MC_ILV i) := by simp
  fenceCtl : R (MESH_FENCE_CTL (mcNode c)) := by simp
  fenceStat : R (MESH_FENCE_STAT (mcNode c)) := by simp
  node : R (nodeBase (mcNode c)) := by simp

variable {ch : List Part} {R : Nat → Prop}

/-! ### The router -/

theorem probe_within {n p : Nat} {f : Flit} {d : Bool} (P : ProbeFrame ch R n) : (probe n p f d).Within ch R := by
  have start : (traceStart (dieOf n)).Within ch R := traceStart_leaves (fun _ => P.stat _) fun _ => P.dbg
  have stop : (traceStopMatch (dieOf n)).Within ch R := traceStopMatch_leaves (fun _ => P.stat _) fun _ => P.dbg
  have due {r} : (traceDue (dieOf n) r).Within ch R :=
    traceDue_leaves (fun _ => P.stat _) (fun _ => P.drop _) fun _ => P.dbg
  exact fun s => leaves_ite trivial <| leaves_each fun u => leaves_ite trivial
    ⟨dieEvent_within P.counter, leaves_ite (bump_within (P.cmp u)) trivial,
      leaves_ite (fun _ => leaves_ite start trivial) trivial, leaves_ite stop trivial, leaves_ite due trivial, trivial⟩
/-- R64: the responder answers the class and opcode of the flit. -/
theorem fenceAnswer_within {n : Nat} {f : Flit} (F : LogFrame ch R) (hf : R (MESH_RTR_FENCED n))
    (hc : ∀ k, R (dieCounter k)) : (fenceAnswer n f).Within ch R := by
  have snd {g} : (send n g).Within ch R := send_within F.mesh
  have noted {x a b} (ha : a.Within ch R) (hb : b.Within ch R) : Act.Within ch R (.all [rasLog x, a, b]) :=
    ⟨rasLog_within F, ha, hb, trivial⟩
  refine ⟨⟨bump_within hf, flitEvent_within hc, trivial⟩, ?_⟩
  exact leaves_ite (leaves_ite snd snd) <| leaves_ite (leaves_ite (leaves_ite snd snd) snd) <|
    leaves_ite (leaves_ite snd <| leaves_ite (noted snd snd) <| leaves_ite (noted snd snd) ⟨rasLog_within F, snd, trivial⟩) <|
    leaves_ite snd <| leaves_ite snd <| leaves_ite F.mesh trivial
theorem ejectFlit_within {n : Nat} {f : Flit} (F : LogFrame ch R) (P : ProbeFrame ch R n) (hf : R (MESH_RTR_FENCED n))
    (hc : ∀ id, R (RAS_CEC (bankOf id))) : (ejectFlit n f).Within ch R := fun _ =>
  ⟨probe_within P, leaves_ite (fenceAnswer_within F hf P.counter)
    ⟨leaves_ite (bump_within (hc _)) (leaves_ite (rasLog_within F) trivial), F.mesh, trivial⟩⟩
theorem forward_within {n p : Nat} {f : Flit} {d : Bool} (F : LogFrame ch R) (P : ProbeFrame ch R n)
    (hl : R (MESH_RTR_LATE n)) (hd : R (MESH_RTR_DEFL n)) (he : R (MESH_RTR_EJFULL n)) : (forward n f p d).Within ch R :=
  fun _ => ⟨leaves_ite ⟨bump_within hl, rasLog_within F, trivial⟩ trivial,
    leaves_ite ⟨bump_within hd, flitEvent_within P.counter,
      leaves_ite ⟨bump_within he, flitEvent_within P.counter, trivial⟩ trivial, trivial⟩ trivial,
    probe_within P, F.mesh, trivial⟩
theorem headerCheck_within {n : Nat} {l : List Flit} (F : LogFrame ch R) (hc : R (MESH_RTR_CE n)) :
    (headerCheck n l).Within ch R :=
  leaves_each fun _ => leaves_ite (bump_within hc) (leaves_ite (rasLog_within F) trivial)

/-! ### Drain and fence -/

theorem startDrain_within {n : Nat} (hm : .mesh ∈ ch) (hc : R (MESH_FENCE_CTL n)) (hs : R (MESH_FENCE_STAT n))
    (hn : R (nodeBase n)) : (startDrain n).Within ch R := fun _ =>
  ⟨setF_within hc, setF_within hs, setF_within hn, hm, trivial⟩
theorem startFence_within {n : Nat} {b : Bool} (hm : .mesh ∈ ch) (hc : R (MESH_FENCE_CTL n))
    (hs : R (MESH_FENCE_STAT n)) : (startFence n b).Within ch R := ⟨setF_within hc, setFs_within hs, hm, trivial⟩

/-! ### Memory channels -/

theorem corrected_within {c r d : Nat} (F : CorrectFrame ch R c) : (corrected c r d).Within ch R := fun _ =>
  ⟨bump_within F.corrected, bump_within (F.count _), leaves_ite
    ⟨F.mc, bump_within F.tripped, rasLog_within F.toLogFrame, lineSet_within F.toLogFrame.toLineFrame, trivial⟩ F.mc, trivial⟩
theorem mergeLone_within {c l : Nat} (F : CorrectFrame ch R c) (hp : .poison ∈ ch) (hm : R (MC_PAIR_MERGE c))
    (hf : R (MC_DEMAND_FIX c)) (hu : R (MC_UCE c)) : (mergeLone c l).Within ch R := fun _ =>
  ⟨bump_within hm, F.mc, leaves_ite trivial <| leaves_ite ⟨corrected_within F, bump_within hf, F.mc, trivial⟩
    ⟨bump_within hu, F.mc, hp, trivial⟩, trivial⟩
theorem settleLone_within {c : Nat} (F : CorrectFrame ch R c) (hp : .poison ∈ ch) (hm : R (MC_PAIR_MERGE c))
    (hf : R (MC_DEMAND_FIX c)) (hu : R (MC_UCE c)) : (settleLone c).Within ch R := fun _ =>
  leaves_each fun _ => mergeLone_within F hp hm hf hu
theorem deviceRead_within {c l w w2 r d : Nat} {k : Bool → Act} (F : CorrectFrame ch R c) (hf : R (MC_DEMAND_FIX c))
    (hu : R (MC_UCE c)) (hr : R (MC_MIRROR_RECOVER c)) (hk : ∀ p, (k p).Within ch R) :
    (deviceRead c l w w2 r d k).Within ch R := fun _ =>
  leaves_ite (hk _) <| leaves_ite ⟨corrected_within F, bump_within hf, F.mc, hk _, trivial⟩ <|
    leaves_ite ⟨bump_within hu, bump_within hr, rasLog_within F.toLogFrame, F.mc, hk _, trivial⟩
      ⟨bump_within hu, rasLog_within F.toLogFrame, F.mc, hk _, trivial⟩
theorem switchPartner_within {c : Nat} (hm : .mc ∈ ch) (hi : ∀ i, R (MC_ILV i)) : (switchPartner c).Within ch R :=
  ⟨fun _ => hm, leaves_each fun _ _ => leaves_ite (setF_within (hi _)) trivial, hm, trivial⟩
theorem retireForced_within {c : Nat} (F : RetireFrame ch R c) : (retireForced c).Within ch R :=
  ⟨setFs_within F.cfg, startFence_within F.mesh F.fenceCtl F.fenceStat, trivial⟩
theorem retireMirrored_within {c : Nat} (F : RetireFrame ch R c) : (retireMirrored c).Within ch R :=
  ⟨switchPartner_within F.mc F.ilv, setF_within F.cfg, startDrain_within F.mesh F.fenceCtl F.fenceStat F.node,
    rasLog_within F.toLogFrame, trivial⟩
theorem alert_within {c : Nat} {w : Bool} (F : RetireFrame ch R c) (hw : R (MC_WCRC_RETRY c)) (hr : R (MC_CA_RETRY c)) :
    (alert c w).Within ch R := by
  have retry : R (if w then MC_WCRC_RETRY c else MC_CA_RETRY c) := by cases w <;> assumption
  have log {x} : (rasLog x).Within ch R := rasLog_within F.toLogFrame
  exact fun _ => ⟨F.mc, leaves_ite (bump_within retry) <| leaves_ite log <| leaves_ite
    ⟨log, fun _ => leaves_ite trivial (leaves_ite (retireMirrored_within F) (retireForced_within F)), trivial⟩ trivial, trivial⟩
theorem commandDone_within {c : Nat} {w : Bool} (F : RetireFrame ch R c) (hw : R (MC_WCRC_RETRY c)) (hr : R (MC_CA_RETRY c)) :
    (commandDone c w).Within ch R := fun _ =>
  ⟨leaves_ite ⟨alert_within F hw hr, F.ras, trivial⟩ trivial, F.mc, trivial⟩
theorem zeroFill_within {c : Nat} (hm : .mem ∈ ch) (hp : .poison ∈ ch) (hc : .mc ∈ ch) (hs : R (MC_STAT c)) :
    (zeroFill c).Within ch R := fun _ =>
  ⟨leaves_each fun _ => hm, leaves_each fun _ => hp, hc, setF_within hs, trivial⟩
theorem ppr_within {c : CardCtx} {n r g b w : Nat} {u k : Bool} (F : ReplyFrame ch R) (hk : .clk ∈ ch) (hm : .mc ∈ ch)
    (hc : R DBY_CARDS) (hs : R DBY_STAT) : (ppr c n r g b w u k).Within ch R := by
  have no {st d} : (answer0 c 0x0304 st d).Within ch R := answer0_within F
  exact gated_within F hc fun s => leaves_ite no <| leaves_ite no <| leaves_ite no <|
    leaves_ite (answerBusyFree_within F hk) <| leaves_ite no <| leaves_ite no <|
    accept_within F hs ⟨hm, finish_within F hs, trivial⟩

end Sys2Proof.Machine
end

section
/-! What a requester changes: a tile's L2, its hart, the batten instructions and the landing windows (chapters 03 to 05). -/

set_option Elab.async false

namespace Sys2Proof.Machine

/-- What the answer to a load changes in a hart, with the trap that it may take. -/
structure HartFrame (ch : List Part) (R : Nat → Prop) : Prop extends LogFrame ch R where
  core : .core ∈ ch := by simp
  cache : .cache ∈ ch := by simp
  dbg : .dbg ∈ ch := by simp
  flush : ∀ n, R (CORE_BP_FLUSH n) := by simp

/-- What an answer to a landing window changes. -/
structure WindowFrame (ch : List Part) (R : Nat → Prop) : Prop where
  core : .core ∈ ch := by simp
  btn : .btn ∈ ch := by simp
  loom : .loom ∈ ch := by simp
  win : ∀ a, winRegs a → R a := by exact fun _ h => ⟨_, by simp, h⟩

/-- What an answer to a request of node `n` changes. -/
structure RequesterFrame (ch : List Part) (R : Nat → Prop) (n : Nat) : Prop
    extends HartFrame ch R, CacheFrame ch, WindowFrame ch R where
  fail : R (BTN_FAIL n) := by simp

variable {ch : List Part} {R : Nat → Prop}

/-! ### The L2 of a tile -/

theorem sendMsg_within {r c o l t m : Nat} {y : ReqWhy} {w x : Bool} {d : Option (Line × Bool)} (hm : .mesh ∈ ch)
    (ho : .coh ∈ ch) : (sendMsg r c o l y w t d m x).Within ch R := fun _ => ⟨ho, send_within hm, trivial⟩
theorem tileReq_within {n o l : Nat} {y : ReqWhy} {w : Bool} (hm : .mesh ∈ ch) (ho : .coh ∈ ch) :
    (tileReq n o l y w).Within ch R := fun _ => ⟨ho, send_within hm, trivial⟩
theorem evictL2_within {n l : Nat} (C : CacheFrame ch) : (evictL2 n l).Within ch R := by
  intro s
  dsimp only
  split
  · trivial
  · exact ⟨C.cache, C.coh, tileReq_within C.mesh C.coh, trivial⟩
theorem evictInDrain_within {n l : Nat} (C : CacheFrame ch) : (evictInDrain n l).Within ch R := fun _ =>
  leaves_when (evictL2_within C)
theorem fillL2_within {n l : Nat} {st : Moesi} {d : Line} {p f : Bool} (C : CacheFrame ch) :
    (fillL2 n l st d p f).Within ch R := by
  intro s
  dsimp only
  split
  · exact C.cache
  · refine ⟨leaves_when (leaves_each fun _ => C.cache), ?_, C.cache, trivial⟩
    split
    · exact evictL2_within C
    · trivial
theorem fillL1_within {n l : Nat} {i : Bool} (hc : .cache ∈ ch) : (fillL1 n l i).Within ch R := by
  intro s
  dsimp only
  split
  · trivial
  · exact ⟨leaves_each fun _ => hc, hc, hc, trivial⟩
theorem takeLine_within {n : Nat} {q : ReqOut} {st : Moesi} {d : Line} {p : Bool} (C : CacheFrame ch) :
    (takeLine n q st d p).Within ch R := by
  refine ⟨fillL2_within C, ?_, evictInDrain_within C, trivial⟩
  split
  case h_6 => trivial
  all_goals exact fillL1_within C.cache
theorem giveUp_within {n l : Nat} {b : Bool} (C : CacheFrame ch) (hk : .core ∈ ch) : (giveUp n l b).Within ch R :=
  leaves_ite C.coh (dropL2_within C.cache hk)

/-! ### The hart -/

theorem takeTrap_within {h pc : Nat} {e : Trap} (F : HartFrame ch R) : (takeTrap h e pc).Within ch R := fun _ =>
  leaves_ite ⟨F.dbg, F.dbg, trivial⟩
    ⟨F.core, F.cache, leaves_when fun _ => ⟨F.core, bump_within (F.flush _), trivial⟩,
      leaves_when fun _ _ => ⟨F.dbg, F.core, trivial⟩, trivial⟩
theorem poisonUse_within {h pa : Nat} (F : LogFrame ch R) : (poisonUse h pa).Within ch R := fun _ => rasLog_within F
theorem loadHead_within {h : Nat} (F : HartFrame ch R) : (loadHead h).Within ch R := by
  intro s
  dsimp only
  split
  · trivial
  · split
    · trivial
    · exact ⟨poisonUse_within F.toLogFrame, takeTrap_within F, trivial⟩
    · exact ⟨fillL1_within F.cache, leaves_when (fillL1_within F.cache), F.core, trivial⟩
theorem loadPump_within {h : Nat} (F : HartFrame ch R) : (loadPump h).Within ch R := fun _ =>
  ⟨fun _ => F.core, leaves_each fun _ => loadHead_within F⟩
theorem hartPump_within {n : Nat} (F : HartFrame ch R) : (hartPump n).Within ch R := by
  intro s
  dsimp only
  split
  · exact loadPump_within F
  · trivial
theorem sqDone_within {n l : Nat} (hk : .core ∈ ch) : (sqDone n l).Within ch R := by
  intro s
  dsimp only
  split
  · trivial
  · exact hk
theorem takeCopy_within {n : Nat} {q : ReqOut} {d : Line} {p : Bool} (F : HartFrame ch R) :
    (takeCopy n q d p).Within ch R := by
  intro s
  dsimp only
  split
  · trivial
  · split
    · exact F.core
    · refine leaves_ite ⟨poisonUse_within F.toLogFrame, takeTrap_within F, trivial⟩ ?_
      split
      · exact F.core
      · trivial
    · exact ⟨F.core, loadPump_within F⟩

/-! ### Batten instructions and landing windows -/

theorem macDone_within {n l h : Nat} {b : Bool} (F : LogFrame ch R) (hk : .core ∈ ch) (hf : R (BTN_FAIL n)) :
    (macDone n l h b).Within ch R := by
  intro s
  dsimp only
  split
  · trivial
  · exact ⟨hk, leaves_when ⟨bump_within hf, rasLog_within F, trivial⟩, trivial⟩
theorem btnStat_within (h : R BTN_STAT) : btnStat.Within ch R := fun _ => setFs_within h
theorem winFree_within {w : Nat} (hb : .btn ∈ ch) (hw : R (BTN_WIN_STATE w)) (hs : R BTN_STAT) : (winFree w).Within ch R :=
  ⟨setF_within hw, hb, btnStat_within hs, trivial⟩
theorem WindowFrame.state (W : WindowFrame ch R) (w : Nat) : R (BTN_WIN_STATE w) := W.win _ (by simp [winRegs])
theorem WindowFrame.stat (W : WindowFrame ch R) : R BTN_STAT := W.win _ (by simp [winRegs])
theorem winOpened_within {w : Nat} (W : WindowFrame ch R) : (winOpened w).Within ch R := by
  refine fun s => ⟨leaves_ite (winFree_within W.btn (W.state w) W.stat)
    ⟨setF_within (W.state w), bump_within (W.win _ (by simp [winRegs])), W.btn, trivial⟩, ?_, ?_, trivial⟩
  · split
    · exact ⟨W.core, W.core, trivial⟩
    · trivial
  · split
    · exact W.loom
    · trivial
theorem winAnswered_within {q : ReqOut} {b : Bool} (W : WindowFrame ch R) : (winAnswered q b).Within ch R := by
  unfold winAnswered
  dsimp only
  split
  · exact ⟨W.btn, fun _ => leaves_when (winOpened_within W)⟩
  · exact ⟨W.btn, W.btn, btnStat_within W.stat, trivial⟩
  · exact W.btn
  · exact W.btn
theorem winSend_within {w u c o l t m : Nat} {x : Bool} {d : Option (Line × Bool)} (hm : .mesh ∈ ch) (ho : .coh ∈ ch) :
    (winSend w u c o l x t d m).Within ch R := fun _ => ⟨sendMsg_within hm ho, ho⟩

/-! ### Requests -/

theorem resend_within {q : ReqOut} {t : Bool} (hm : .mesh ∈ ch) (ho : .coh ∈ ch) : (resend q t).Within ch R := fun _ =>
  ⟨ho, send_within hm, trivial⟩
theorem retryNacked_within {r h : Nat} (hm : .mesh ∈ ch) (ho : .coh ∈ ch) : (retryNacked r h).Within ch R := fun _ =>
  leaves_ite trivial (leaves_each fun _ => resend_within hm ho)
theorem closeReq_within {q : ReqOut} (hm : .mesh ∈ ch) (ho : .coh ∈ ch) : (closeReq q).Within ch R :=
  ⟨ho, retryNacked_within hm ho⟩
theorem answerAt_within {n : Nat} {f : Flit} {k : ReqOut → Act} (hm : .mesh ∈ ch)
    (hk : ∀ q, reqNode q.req = n → (k q).Within ch R) : (answerAt n f k).Within ch R := by
  refine ⟨hm, fun s => ?_⟩
  dsimp only
  split
  · next q _ =>
    split
    · exact hk q ‹_›
    · trivial
  · trivial
theorem reqDone_within {n : Nat} {q : ReqOut} (F : RequesterFrame ch R n) : (reqDone n q).Within ch R := by
  refine fun s => ⟨?_, closeReq_within F.mesh F.coh, hartPump_within F.toHartFrame, trivial⟩
  split
  · exact F.coh
  · exact takeLine_within F.toCacheFrame
  · exact sqDone_within F.core
  · exact sqDone_within F.core
  · exact sqDone_within F.core
  · exact winAnswered_within F.toWindowFrame
  · exact macDone_within F.toLogFrame F.core F.fail
  · split
    · exact F.cache
    · trivial
theorem reqFailed_within {q : ReqOut} (F : RequesterFrame ch R (reqNode q.req)) : (reqFailed q).Within ch R := by
  have record : (failRecord q).Within ch R := rasLog_within F.toLogFrame
  have copy {d p} : (takeCopy (reqNode q.req) q d p).Within ch R := takeCopy_within F.toHartFrame
  refine ⟨?_, closeReq_within F.mesh F.coh, hartPump_within F.toHartFrame, trivial⟩
  split
  · exact leaves_ite (macDone_within F.toLogFrame F.core F.fail) ⟨record, copy⟩
  · exact ⟨record, winAnswered_within F.toWindowFrame⟩
  · trivial
  · exact ⟨record, F.coh⟩
  · exact ⟨record, sqDone_within F.core⟩
  · exact ⟨record, sqDone_within F.core⟩
  · exact ⟨record, sqDone_within F.core⟩
  · exact ⟨record, leaves_ite copy (takeLine_within F.toCacheFrame)⟩
theorem dataAt_within {n : Nat} {f : Flit} {st : Moesi} (F : HartFrame ch R) (C : CacheFrame ch) :
    (dataAt n f st).Within ch R := answerAt_within C.mesh fun _ _ =>
  ⟨takeLine_within C, send_within C.mesh, closeReq_within C.mesh C.coh, hartPump_within F, trivial⟩

end Sys2Proof.Machine
end

section
/-! What the moves of the slice map and the operations on tiles change (chapters 02 and 03). -/

set_option Elab.async false

namespace Sys2Proof.Machine

/-- What a move of slice-map entries changes. -/
structure MapFrame (ch : List Part) (R : Nat → Prop) : Prop where
  cache : .cache ∈ ch := by simp
  map : ∀ i, R (LLC_MAP i) := by simp
  stat : ∀ n, R (LLC_STAT n) := by simp

/-- What the fence logic and TSTATE of node `n` change. -/
structure NodeFrame (ch : List Part) (R : Nat → Prop) (n : Nat) : Prop where
  mesh : .mesh ∈ ch := by simp
  fenceCtl : R (MESH_FENCE_CTL n) := by simp
  fenceStat : R (MESH_FENCE_STAT n) := by simp
  node : R (nodeBase n) := by simp

/-- What the loss of a node's state changes. -/
structure WipeFrame (ch : List Part) (R : Nat → Prop) (n : Nat) : Prop where
  core : .core ∈ ch := by simp
  cache : .cache ∈ ch := by simp
  coh : .coh ∈ ch := by simp
  hrn : .hrn ∈ ch := by simp
  dbg : .dbg ∈ ch := by simp
  dirStat : R (DIR_STAT n) := by simp
  dead : ∀ i, R (DIR_DEAD n i) := by simp

variable {ch : List Part} {R : Nat → Prop}

/-! ### The slice map -/

theorem moveEntry_within {i b : Nat} (hc : .cache ∈ ch) (hm : R (LLC_MAP i)) (hs : ∀ n, R (LLC_STAT n)) :
    (moveEntry i b).Within ch R := fun _ =>
  ⟨hc, setFs_within hm, setF_within (hs _), fun _ => setF_within (hs _), trivial⟩
theorem moveAway_within {n i : Nat} (hc : .cache ∈ ch) (hm : R (LLC_MAP i)) (hs : ∀ n, R (LLC_STAT n)) :
    (moveAway n i).Within ch R := by
  intro s
  dsimp only
  split
  · exact moveEntry_within hc hm hs
  · trivial
/-- Every entry of a node moves. The act is named, since its list of 4,096 entries is not to be unfolded by unification. -/
theorem moveAll_within {n : Nat} {o : Option Nat} {a : Act} (M : MapFrame ch R) (ha : moveAll n o = a) : a.Within ch R := by
  subst ha
  intro s
  dsimp only
  generalize s.entriesOf n = l
  refine leaves_each fun i => ?_
  split
  · exact moveEntry_within M.cache (M.map _) M.stat
  · exact moveAway_within M.cache (M.map _) M.stat
theorem fillSlices_within {n k : Nat} (M : MapFrame ch R) (hc : .clk ∈ ch) : (fillSlices n k).Within ch R := by
  induction k with
  | zero => trivial
  | succ k ih =>
    intro s
    dsimp only
    split
    · trivial
    · exact leaves_ite trivial (withFree_leaves (fun _ => hc) fun _ => ⟨moveEntry_within M.cache (M.map _) M.stat, ih⟩)
theorem divideTags_within {d : Nat} (hs : ∀ n, R (LLC_STAT n)) : (divideTags d).Within ch R := fun _ =>
  ⟨leaves_each fun _ => setF_within (hs _), leaves_each fun _ => setF_within (hs _), trivial⟩

/-! ### Drain, fence, power and test -/

theorem drainNode_within {n : Nat} {o : Option Nat} (N : NodeFrame ch R n) (M : MapFrame ch R) (C : CacheFrame ch)
    (hk : .core ∈ ch) : (drainNode n o).Within ch R := by
  unfold drainNode
  generalize hm : moveAll n o = moves
  refine ⟨startDrain_within N.mesh N.fenceCtl N.fenceStat N.node, fun s => ?_, leaves_when (divideTags_within M.stat),
    fun _ => leaves_each fun _ => evictL2_within C, leaves_when (moveAll_within M hm), trivial⟩
  dsimp only
  split
  · exact hk
  · trivial
theorem dropDomain_within {n : Nat} (hc : .cache ∈ ch) (ho : .coh ∈ ch) : (dropDomain n).Within ch R :=
  ⟨hc, ho, trivial⟩
theorem wipeHart_within {n : Nat} (hk : .core ∈ ch) (hd : .dbg ∈ ch) (hh : .hrn ∈ ch) : (wipeHart n).Within ch R := by
  intro s
  dsimp only
  split
  · exact ⟨hk, hd, hh, trivial⟩
  · trivial
theorem zeroInit_within {n : Nat} (W : WipeFrame ch R n) : (zeroInit n).Within ch R :=
  ⟨dropDomain_within W.cache W.coh, wipeHart_within W.core W.dbg W.hrn,
    leaves_when ⟨W.dirStat, leaves_each fun _ => W.dead _, trivial⟩, trivial⟩
theorem testEnd_within {n r : Nat} (W : WipeFrame ch R n) (F : LogFrame ch R) (hm : .mem ∈ ch) (hp : .poison ∈ ch)
    (hc : .mc ∈ ch) (hs : ∀ c, R (MC_STAT c)) : (testEnd n r).Within ch R :=
  ⟨zeroInit_within W, leaves_when (zeroFill_within hm hp hc (hs _)), leaves_when (rasLog_within F), trivial⟩
theorem openNode_within {n t : Nat} (N : NodeFrame ch R n) (hs : ∀ n, R (LLC_STAT n)) : (openNode n t).Within ch R :=
  ⟨setF_within N.fenceCtl, N.fenceStat, N.mesh, setF_within N.node, leaves_when (divideTags_within hs), trivial⟩

/-! ### The move to a spare -/

theorem hrnResend_within {h : Nat} (hm : .mesh ∈ ch) (hh : .hrn ∈ ch) : (hrnResend h).Within ch R := by
  have snd {f o} : (hrnSend h f o).Within ch R := hrnSend_leaves (fun _ => hh) fun _ _ => send_within hm
  exact ⟨hh, leaves_each fun _ _ => ⟨hrnSendEip_leaves (fun _ => hh) fun _ _ => send_within hm, leaves_when snd,
    leaves_when snd, trivial⟩, trivial⟩
theorem spareMove_within {n k h : Nat} {b : Bool} (F : ReplyFrame ch R) (hs : R DBY_STAT) (hm : ∀ i, R (MESH_HART_MAP i))
    (hn : ∀ i, R (nodeBase i)) : (spareMove n k h b).Within ch R := fun _ =>
  ⟨setF_within (hm h), setF_within (hn _), setFs_within (hn _), setFs_within (hm h), F.hrn, F.core, setF_within (hn _),
    hrnResend_within F.mesh F.hrn, F.dby, finish_within F hs, trivial⟩
theorem spareGoOn_within {n : Nat} (F : ReplyFrame ch R) (hs : R DBY_STAT) (hm : ∀ i, R (MESH_HART_MAP i))
    (hn : ∀ i, R (nodeBase i)) : (spareGoOn n).Within ch R := by
  intro s
  dsimp only
  split
  · exact spareMove_within F hs hm hn
  · trivial
/-- A tile whose spare is ready goes on where its own drain and fence stand (R72). -/
theorem spareStep_within {n k : Nat} (F : ReplyFrame ch R) (N : NodeFrame ch R n) (M : MapFrame ch R) (C : CacheFrame ch)
    (hs : R DBY_STAT) (hm : ∀ i, R (MESH_HART_MAP i)) (hn : ∀ i, R (nodeBase i)) :
    Act.Within ch R (.read fun s =>
      if s.tstate n = tsFenced then spareGoOn n
      else if s.tstate n = tsDrain then
        (if s.bit (MESH_FENCE_STAT n) MESH_FENCE_STAT_DRAINED then spareFence n
         else .mesh fun m => { m with drainStart := Tab.put m.drainStart n s.clk.time })
      else drainNode n (some k)) := fun _ =>
  leaves_ite (spareGoOn_within F hs hm hn) <| leaves_ite
    (leaves_ite (startFence_within N.mesh N.fenceCtl N.fenceStat) N.mesh) (drainNode_within N M C F.core)

end Sys2Proof.Machine
end

section
/-! What the commands of chapters 02 to 05 and 15 leave unchanged: the act of each command stays within its frame. -/

set_option Elab.async false

namespace Sys2Proof.Machine

/-- An outcome of a command from `s` keeps everything outside a frame. -/
def Frame.Bounds (F : Frame) (s : State) (o : Out) : Prop := ∀ t, o = .next t → Keeps F.parts F.writes s t

theorem Frame.bounds_commit {F : Frame} {s : State} {a : Act} (h : a.Within F.parts F.writes) : F.Bounds s (commit a s) := by
  rintro t ⟨⟩
  exact h.keeps s

variable {F : Frame} {s : State}

theorem Frame.bounds_skip : F.Bounds s (commit .skip s) := Frame.bounds_commit trivial

/-! ### The mesh -/

theorem flitArrival_bounds {n : Nat} (hF : meshFrame (.flitArrival n) = some F) : F.Bounds s (execFlitArrival n s) := by
  cases hF
  unfold execFlitArrival
  dsimp only
  split
  · exact Frame.bounds_skip
  · exact Frame.bounds_commit ⟨mesh_within, headerCheck_within {} (by simp),
      leaves_each fun _ => leaves_ite (ejectFlit_within {} {} (by simp) (by simp))
        (forward_within {} {} (by simp) (by simp) (by simp)),
      leaves_each fun _ => forward_within {} {} (by simp) (by simp) (by simp), trivial⟩
theorem flitInject_bounds {n : Nat} (hF : meshFrame (.flitInject n) = some F) : F.Bounds s (execFlitInject n s) := by
  cases hF
  unfold execFlitInject
  dsimp only
  split
  · exact Frame.bounds_skip
  · split
    · exact Frame.bounds_skip
    · split
      · exact Frame.bounds_skip
      · exact Frame.bounds_commit ⟨mesh_within, probe_within {},
          leaves_ite (ejectFlit_within {} {} (by simp) (by simp)) mesh_within, trivial⟩
theorem injectionWaitExpiry_bounds {n : Nat} (hF : meshFrame (.injectionWaitExpiry n) = some F) :
    F.Bounds s (execInjectionWaitExpiry n s) := by
  cases hF
  unfold execInjectionWaitExpiry
  split
  · exact Frame.bounds_skip
  · exact Frame.bounds_commit (atMesh_within {} mesh_within)
theorem classAgeExpiry_bounds {n c : Nat} (hF : meshFrame (.classAgeExpiry n c) = some F) :
    F.Bounds s (execClassAgeExpiry n c s) := by
  cases hF
  unfold execClassAgeExpiry
  split
  · exact Frame.bounds_skip
  · exact Frame.bounds_commit (atMesh_within {} mesh_within)
theorem starveAssert_bounds {n : Nat} (hF : meshFrame (.starveAssert n) = some F) : F.Bounds s (execStarveAssert n s) := by
  cases hF
  unfold execStarveAssert
  split
  · exact Frame.bounds_skip
  · split
    · exact Frame.bounds_skip
    · exact Frame.bounds_commit (atMesh_within {} ⟨bump_within, mesh_within⟩)
theorem dieFifoDrift_bounds (hF : meshFrame .dieFifoDrift = some F) : F.Bounds s (execDieFifoDrift s) := by
  cases hF
  exact Frame.bounds_commit ⟨rasLog_within {}, mesh_within, trivial⟩

/-! ### Tiles -/

theorem tileDrain_bounds {c : CardCtx} {n : Nat} (hF : meshFrame (.tileDrain c n) = some F) :
    F.Bounds s (execTileDrain c n s) := by
  cases hF
  exact Frame.bounds_commit <| tileCard_within {} (by simp) (by simp) fun s => leaves_ite
    (accept_within {} (by simp) (drainNode_within {} {} {} (by simp))) <|
    leaves_ite (accept_within {} (by simp) fun _ => mesh_within) (answerRefused_within {} fun _ h => by simp [h])
theorem drainComplete_bounds {n : Nat} (hF : meshFrame (.drainComplete n) = some F) :
    F.Bounds s (execDrainComplete n s) := by
  cases hF
  exact Frame.bounds_commit <| leaves_ite trivial ⟨setFs_within, mesh_within, finish_within {} (by simp),
    leaves_when (startFence_within (by simp) (by simp) (by simp)),
    leaves_when (startFence_within (by simp) (by simp) (by simp)), trivial⟩
theorem drainTimeout_bounds {n : Nat} (hF : meshFrame (.drainTimeout n) = some F) : F.Bounds s (execDrainTimeout n s) := by
  cases hF
  refine Frame.bounds_commit ?_
  split
  · trivial
  · exact leaves_ite trivial ⟨advanceTo_within {}, setF_within, mesh_within, finish_within {} (by simp),
      leaves_when (startFence_within (by simp) (by simp) (by simp)), finish_within {} (by simp), trivial⟩
theorem tileFence_bounds {c : CardCtx} {n : Nat} {b : Bool} (hF : meshFrame (.tileFence c n b) = some F) :
    F.Bounds s (execTileFence c n b s) := by
  cases hF
  exact Frame.bounds_commit <| tileCard_within {} (by simp) (by simp) fun s => leaves_ite
    (leaves_ite (accept_within {} (by simp) (startFence_within (by simp) (by simp) (by simp)))
      (answerRefused_within {} fun _ h => by simp [h]))
    (leaves_ite (accept_within {} (by simp) (startFence_within (by simp) (by simp) (by simp)))
      (answerRefused_within {} fun _ h => by simp [h]))
theorem fenceWaitExpiry_bounds {n : Nat} (hF : meshFrame (.fenceWaitExpiry n) = some F) :
    F.Bounds s (execFenceWaitExpiry n s) := by
  cases hF
  refine Frame.bounds_commit (leaves_ite trivial (atMesh_within {} ⟨setF_within, setF_within, mesh_within,
    dropDomain_within (by simp) (by simp), ?_, finish_within {} (by simp), leaves_when (finish_within {} (by simp)),
    spareGoOn_within {} (by simp) (by simp) (by simp), trivial⟩))
  split
  · exact core_within
  · trivial
theorem tilePowerOff_bounds {c : CardCtx} {n : Nat} (hF : meshFrame (.tilePowerOff c n) = some F) :
    F.Bounds s (execTilePowerOff c n s) := by
  cases hF
  exact Frame.bounds_commit <| tileCard_within {} (by simp) (by simp) fun s => leaves_ite
    (answerRefused_within {} fun _ h => by simp [h]) <| accept_within {} (by simp)
    ⟨setF_within, dropDomain_within (by simp) (by simp), wipeHart_within (by simp) (by simp) (by simp), dby_within,
      finish_within {} (by simp), trivial⟩
theorem tilePowerOn_bounds {c : CardCtx} {n : Nat} (hF : meshFrame (.tilePowerOn c n) = some F) :
    F.Bounds s (execTilePowerOn c n s) := by
  cases hF
  exact Frame.bounds_commit <| tileCard_within {} (by simp) (by simp) fun s => leaves_ite
    (answerRefused_within {} fun _ h => by simp [h]) <| accept_within {} (by simp)
    ⟨zeroInit_within {}, setF_within, setFs_within, finish_within {} (by simp), trivial⟩
theorem tileTest_bounds {c : CardCtx} {n : Nat} (hF : meshFrame (.tileTest c n) = some F) :
    F.Bounds s (execTileTest c n s) := by
  cases hF
  exact Frame.bounds_commit <| tileCard_within {} (by simp) (by simp) fun s => leaves_ite
    (answerRefused_within {} fun _ h => by simp [h]) <| accept_within {} (by simp) setF_within
theorem tileTestDone_bounds {n r : Nat} (hF : meshFrame (.tileTestDone n r) = some F) :
    F.Bounds s (execTileTestDone n r s) := by
  cases hF
  exact Frame.bounds_commit <| leaves_ite trivial
    ⟨testEnd_within {} {} (by simp) (by simp) (by simp) (by simp), setF_within,
      finish_within { irq := fun _ h => by simp [logRegs_of_irqRegs h] } (by simp), trivial⟩
theorem tileRestore_bounds {c : CardCtx} {n : Nat} (hF : meshFrame (.tileRestore c n) = some F) :
    F.Bounds s (execTileRestore c n s) := by
  cases hF
  refine Frame.bounds_commit <| tileCard_within {} (by simp) (by simp) fun s => leaves_ite
    (answerRefused_within {} fun _ h => by simp [h]) <| leaves_ite (answerRefused_within {} fun _ h => by simp [h]) <|
    accept_within {} (by simp) ⟨openNode_within {} (by simp), leaves_when setF_within,
      leaves_when (fillSlices_within {} (by simp)), ?_, finish_within {} (by simp), trivial⟩
  split
  · exact hrnResend_within (by simp) (by simp)
  · trivial
theorem tileSpare_bounds {c : CardCtx} {f k r : Nat} (hF : meshFrame (.tileSpare c f k r) = some F) :
    F.Bounds s (execTileSpare c f k r s) := by
  have reply : ReplyFrame F.parts F.writes := by cases hF; exact { irq := fun _ h => by simp [logRegs_of_irqRegs h] }
  have log : LogFrame F.parts F.writes := by cases hF; exact {}
  have node n : NodeFrame F.parts F.writes n := by cases hF; exact {}
  have wipe n : WipeFrame F.parts F.writes n := by cases hF; exact {}
  have map : MapFrame F.parts F.writes := by cases hF; exact {}
  have caches : CacheFrame F.parts := by cases hF; exact {}
  have stat : F.writes DBY_STAT := by cases hF; simp
  have trans : ∀ a, transRegs a → F.writes a := by cases hF; exact fun _ h => by simp [h]
  have goOn k := spareStep_within (n := f) (k := k) reply (node f) map caches stat (by cases hF; simp) fun n => (node n).node
  have test {k r} : (testEnd k r).Within F.parts F.writes := by
    cases hF; exact testEnd_within (wipe k) log (by simp) (by simp) (by simp) (by simp)
  have no {st d} : (answer0 c 0x0205 st d).Within F.parts F.writes := answer0_within reply
  refine Frame.bounds_commit <| gated_within reply (by cases hF; simp) fun s => leaves_ite no <| leaves_ite no <|
    leaves_ite no <| leaves_ite (answerBusyFree_within reply (by cases hF; simp)) ?_
  split
  · exact no
  · exact leaves_ite no <| leaves_ite no <| leaves_ite (answerRefused_within reply trans) <|
      accept_within reply stat fun _ => leaves_ite (goOn _) ⟨zeroInit_within (wipe _), setF_within (node _).node, test,
        leaves_ite (finish_within reply stat) ⟨openNode_within (node _) map.stat, reply.dby, goOn _, trivial⟩, trivial⟩

/-! ### The caches -/

theorem missTagAcquire_bounds {n : Nat} (hF : meshFrame (.missTagAcquire n) = some F) :
    F.Bounds s (execMissTagAcquire n s) := by
  cases hF
  refine Frame.bounds_commit ?_
  split
  · trivial
  · exact leaves_ite ⟨cache_within, fun _ => leaves_ite ⟨cache_within, send_within, trivial⟩ cache_within, trivial⟩ trivial
theorem mapUpdateFlit_bounds {r e : Nat} (hF : meshFrame (.mapUpdateFlit r e) = some F) :
    F.Bounds s (execMapUpdateFlit r e s) := by
  cases hF
  exact Frame.bounds_commit cache_within
/-- The home of an entry comes from the state, so the frame names its registers at every home. -/
theorem mapUpdateAcked_home {e : Nat} (hF : meshFrame (.mapUpdateAcked e) = some F) (n : Nat) :
    HomeFrame F.parts F.writes n := by
  cases hF
  refine { home := fun a ha => ?_ }
  simp only [homeRegs, List.mem_cons, List.not_mem_nil, or_false] at ha
  rcases ha with rfl | rfl | rfl | rfl | rfl | rfl | rfl | rfl | rfl | rfl | rfl <;> simp
theorem mapUpdateAcked_bounds {e : Nat} (hF : meshFrame (.mapUpdateAcked e) = some F) :
    F.Bounds s (execMapUpdateAcked e s) := by
  have home := mapUpdateAcked_home hF
  cases hF
  refine Frame.bounds_commit ?_
  split
  · trivial
  · exact leaves_ite trivial <| leaves_ite
      ⟨cache_within, leaves_when (moveAway_within (by simp) (by simp) (by simp))⟩ <| leaves_ite trivial
      ⟨cache_within, setF_within, leaves_each fun _ => openTx_within (home _), pump_within (home _), trivial⟩
theorem mapWalkEnd_bounds {e : Nat} (hF : meshFrame (.mapWalkEnd e) = some F) : F.Bounds s (execMapWalkEnd e s) := by
  cases hF
  refine Frame.bounds_commit ?_
  split
  · trivial
  · exact leaves_ite trivial ⟨setF_within, cache_within, setFs_within, trivial⟩
theorem sliceScrubRead_bounds {n l w : Nat} (hF : meshFrame (.sliceScrubRead n l w) = some F) :
    F.Bounds s (execSliceScrubRead n l w s) := by
  cases hF
  refine Frame.bounds_commit (leaves_ite trivial ⟨cache_within, ?_⟩)
  split
  · trivial
  · exact leaves_ite trivial <| leaves_ite ⟨bump_within, bump_within, trivial⟩ <|
      leaves_ite ⟨cache_within, rasLog_within {}, trivial⟩ ⟨cache_within, rasLog_within {}, trivial⟩
theorem stridePrefetchIssue_bounds {n p : Nat} (hF : meshFrame (.stridePrefetchIssue n p) = some F) :
    F.Bounds s (execStridePrefetchIssue n p s) := by
  cases hF
  refine Frame.bounds_commit ?_
  split
  · trivial
  · refine leaves_ite trivial ?_
    split
    · trivial
    · exact ⟨bump_within, bump_within, tileReq_within (by simp) (by simp), trivial⟩

/-! ### Requests at a home -/

/-- The frame of a request that a home takes in. -/
def requestFrame (n : Nat) : Frame :=
  ⟨[.mesh, .cache, .coh, .hrn, .ras], [logRegs, homeRegs n, (· ∈ [DIR_NACK n, SEL_DENY_HOME])]⟩

theorem requestFrame_home (n : Nat) : HomeFrame (requestFrame n).parts (requestFrame n).writes n := by
  unfold requestFrame
  exact {}
theorem requestFrame_nack (n : Nat) : (requestFrame n).writes (DIR_NACK n) := by simp [requestFrame]
theorem requestFrame_deny (n : Nat) : (requestFrame n).writes SEL_DENY_HOME := by simp [requestFrame]
theorem reqAt_bounds {n op : Nat} {f : Flit} : (requestFrame n).Bounds s (commit (reqAt n f op) s) :=
  Frame.bounds_commit (reqAt_within (requestFrame_home n) (requestFrame_nack n) (requestFrame_deny n))
/-- An ACC or a ZERO of a batten enters its home as a request does. -/
theorem enterHome_bounds {n : Nat} {f g : Flit} :
    (requestFrame n).Bounds s (commit (.all [takeInbox n f, enterHome n g, pump n]) s) :=
  have H := requestFrame_home n
  Frame.bounds_commit ⟨H.mesh, enterHome_within H (requestFrame_nack n) (requestFrame_deny n), pump_within H, trivial⟩
theorem rdOnce_bounds {n : Nat} {f : Flit} (hF : meshFrame (.rdOnce n f) = some F) : F.Bounds s (execRdOnce n f s) := by
  cases hF
  refine Frame.bounds_commit ⟨reqAt_within {} (by simp) (by simp), fun t => ?_⟩
  dsimp only
  split
  · exact leaves_when (nextLine_within {} (by simp))
  · trivial
theorem rel_bounds {n : Nat} {f : Flit} (hF : meshFrame (.rel n f) = some F) : F.Bounds s (execRel n f s) := by
  cases hF
  exact Frame.bounds_commit ⟨mesh_within, leaves_ite coh_within ⟨openTx_within {}, runTx_within {}, trivial⟩,
    pump_within {}, trivial⟩
theorem release_bounds {n : Nat} {f : Flit} (hF : meshFrame (.release n f) = some F) : F.Bounds s (execRelease n f s) := by
  cases hF
  exact Frame.bounds_commit ⟨mesh_within, leaves_ite coh_within
    ⟨cache_within, fun _ => setF_within, send_within, trivial⟩⟩
theorem grantIssue_bounds {n : Nat} (hF : meshFrame (.grantIssue n) = some F) : F.Bounds s (execGrantIssue n s) := by
  cases hF
  refine Frame.bounds_commit ?_
  split
  · trivial
  · exact ⟨modTickets_within (by simp) (by simp), bump_within, send_within, trivial⟩
theorem grantRetryTimeout_bounds {n r : Nat} (hF : meshFrame (.grantRetryTimeout n r) = some F) :
    F.Bounds s (execGrantRetryTimeout n r s) := by
  cases hF
  refine Frame.bounds_commit ?_
  split
  · trivial
  · exact ⟨advanceTo_within {}, modTickets_within (by simp) (by simp), bump_within, trivial⟩

/-! ### Answers at a home -/

theorem snpAck_bounds {n : Nat} {f : Flit} (hF : meshFrame (.snpAck n f) = some F) : F.Bounds s (execSnpAck n f s) := by
  cases hF
  exact Frame.bounds_commit (snoopAnswer_within {} (by simp) fun _ _ => leaves_ite coh_within trivial)
theorem snpMiss_bounds {n : Nat} {f : Flit} (hF : meshFrame (.snpMiss n f) = some F) : F.Bounds s (execSnpMiss n f s) := by
  cases hF
  exact Frame.bounds_commit (snoopAnswer_within {} (by simp) fun _ _ => leaves_ite
    ⟨modDir_within {}, poisonHome_within {}, rasLog_within {}, fun _ => coh_within, trivial⟩ trivial)
theorem snpData_bounds {n : Nat} {f : Flit} (hF : meshFrame (.snpData n f) = some F) : F.Bounds s (execSnpData n f s) := by
  cases hF
  exact Frame.bounds_commit (snoopAnswer_within {} (by simp) fun _ =>
    ⟨leaves_when ⟨fillSlice_within {}, modDir_within {}, trivial⟩, coh_within, trivial⟩)
theorem compAck_bounds {n : Nat} {f : Flit} (hF : meshFrame (.compAck n f) = some F) : F.Bounds s (execCompAck n f s) := by
  cases hF
  refine Frame.bounds_commit ⟨mesh_within, ?_⟩
  split
  · exact leaves_ite ⟨closeTx_within {}, pump_within {}, trivial⟩ bump_within
  · exact bump_within
theorem wbData_bounds {n : Nat} {f : Flit} (hF : meshFrame (.wbData n f) = some F) : F.Bounds s (execWbData n f s) := by
  cases hF
  refine Frame.bounds_commit ⟨mesh_within, ?_⟩
  split
  · exact leaves_ite ⟨coh_within, arrived_within {}, trivial⟩ bump_within
  · exact bump_within
theorem relDone_bounds {n : Nat} {f : Flit} (hF : meshFrame (.relDone n f) = some F) : F.Bounds s (execRelDone n f s) := by
  cases hF
  exact Frame.bounds_commit ⟨mesh_within, coh_within, pump_within {}, trivial⟩
theorem memData_bounds {n : Nat} {f : Flit} (hF : meshFrame (.memData n f) = some F) : F.Bounds s (execMemData n f s) := by
  cases hF
  refine Frame.bounds_commit ⟨mesh_within, cache_within, fencedChannel_within {}, ?_, trivial⟩
  split
  · exact leaves_ite ⟨leaves_ite (fillBtn_within {}) (fillSlice_within {}), coh_within, arrived_within {}, trivial⟩ trivial
  · trivial
theorem homeTimeout_bounds {n l : Nat} (hF : meshFrame (.homeTimeout n l) = some F) : F.Bounds s (execHomeTimeout n l s) := by
  cases hF
  refine Frame.bounds_commit ?_
  split
  · trivial
  · exact leaves_ite trivial ⟨advanceTo_within {}, leaves_each fun _ => agentDead_within {} (by simp) (by simp),
      leaves_when (agentDead_within {} (by simp) (by simp)), leaves_when (agentDead_within {} (by simp) (by simp)),
      fun _ => coh_within, leaves_ite (closeTx_within {}) <|
        leaves_ite ⟨send_within, closeTx_within {}, trivial⟩ (progress_within {}), pump_within {}, trivial⟩

/-! ### Snoops at a tile -/

theorem snpShared_bounds {n : Nat} {f : Flit} (hF : meshFrame (.snpShared n f) = some F) :
    F.Bounds s (execSnpShared n f s) := by
  cases hF
  refine Frame.bounds_commit ⟨mesh_within, ?_⟩
  split
  · exact send_within
  · exact ⟨send_within, cache_within, send_within, trivial⟩
theorem snpUnique_bounds {n : Nat} {f : Flit} (hF : meshFrame (.snpUnique n f) = some F) :
    F.Bounds s (execSnpUnique n f s) := by
  cases hF
  refine Frame.bounds_commit ⟨mesh_within, ?_⟩
  split
  · exact send_within
  · exact ⟨send_within, giveUp_within {} (by simp), send_within, trivial⟩
theorem inv_bounds {n : Nat} {f : Flit} (hF : meshFrame (.inv n f) = some F) : F.Bounds s (execInv n f s) := by
  cases hF
  refine Frame.bounds_commit ⟨mesh_within, ?_⟩
  split
  · exact leaves_ite send_within ⟨giveUp_within {} (by simp), send_within, trivial⟩
  · exact send_within
theorem snpOnce_bounds {n : Nat} {f : Flit} (hF : meshFrame (.snpOnce n f) = some F) : F.Bounds s (execSnpOnce n f s) := by
  cases hF
  refine Frame.bounds_commit ⟨mesh_within, ?_⟩
  split
  · exact send_within
  · exact send_within
theorem snpClean_bounds {n : Nat} {f : Flit} (hF : meshFrame (.snpClean n f) = some F) :
    F.Bounds s (execSnpClean n f s) := by
  cases hF
  refine Frame.bounds_commit ⟨mesh_within, ?_⟩
  split
  · exact send_within
  · exact ⟨send_within, cache_within, trivial⟩
theorem snpFlush_bounds {n : Nat} {f : Flit} (hF : meshFrame (.snpFlush n f) = some F) :
    F.Bounds s (execSnpFlush n f s) := by
  cases hF
  refine Frame.bounds_commit ⟨mesh_within, ?_⟩
  split
  · exact send_within
  · exact ⟨send_within, giveUp_within {} (by simp), trivial⟩

/-! ### Answers at a requester -/

theorem nackQ_bounds {n : Nat} {f : Flit} (hF : meshFrame (.nackQ n f) = some F) : F.Bounds s (execNackQ n f s) := by
  cases hF
  refine Frame.bounds_commit (answerAt_within (by simp) fun q _ t => ?_)
  dsimp only
  split
  · exact ⟨coh_within, resend_within (by simp) (by simp)⟩
  · exact coh_within
theorem nack_bounds {n : Nat} {f : Flit} (hF : meshFrame (.nack n f) = some F) : F.Bounds s (execNack n f s) := by
  cases hF
  exact Frame.bounds_commit (answerAt_within (by simp) fun _ _ =>
    ⟨coh_within, retryNacked_within (by simp) (by simp), trivial⟩)
theorem grant_bounds {n : Nat} {f : Flit} (hF : meshFrame (.grant n f) = some F) : F.Bounds s (execGrant n f s) := by
  cases hF
  exact Frame.bounds_commit (answerAt_within (by simp) fun _ _ _ =>
    leaves_ite (resend_within (by simp) (by simp)) (leaves_ite trivial coh_within))
theorem comp_bounds {n : Nat} {f : Flit} (hF : meshFrame (.comp n f) = some F) : F.Bounds s (execComp n f s) := by
  cases hF
  exact Frame.bounds_commit (leaves_ite ⟨mesh_within, memAnswered_within {}⟩
    (answerAt_within (by simp) fun _ _ => reqDone_within {}))
theorem fenced_bounds {n : Nat} {f : Flit} (hF : meshFrame (.fenced n f) = some F) : F.Bounds s (execFenced n f s) := by
  cases hF
  exact Frame.bounds_commit (answerAt_within (by simp) fun _ _ _ => leaves_ite (reqFailed_within {})
    ⟨coh_within, resend_within (by simp) (by simp), trivial⟩)
theorem wbGo_bounds {n : Nat} {f : Flit} (hF : meshFrame (.wbGo n f) = some F) : F.Bounds s (execWbGo n f s) := by
  cases hF
  refine Frame.bounds_commit (answerAt_within (by simp) fun q _ t => ?_)
  dsimp only
  split
  · exact send_within
  · trivial
theorem faultMsg_bounds {n : Nat} {f : Flit} (hF : meshFrame (.faultMsg n f) = some F) :
    F.Bounds s (execFaultMsg n f s) := by
  cases hF
  exact Frame.bounds_commit (leaves_ite ⟨mesh_within, memAnswered_within {}⟩
    (answerAt_within (by simp) fun _ _ => reqFailed_within {}))
/-- The frame of data that a tile takes in. -/
def dataFrame : Frame := ⟨[.mesh, .core, .cache, .coh, .hrn, .ras, .dbg], [logRegs, anyOf CORE_BP_FLUSH]⟩
theorem dataAt_bounds {n : Nat} {f : Flit} {st : Moesi} : dataFrame.Bounds s (commit (dataAt n f st) s) := by
  unfold dataFrame
  exact Frame.bounds_commit (dataAt_within {} {})
theorem dataOnce_bounds {n : Nat} {f : Flit} (hF : meshFrame (.dataOnce n f) = some F) :
    F.Bounds s (execDataOnce n f s) := by
  cases hF
  exact Frame.bounds_commit (answerAt_within (by simp) fun _ _ =>
    ⟨send_within, closeReq_within (by simp) (by simp), takeCopy_within {}, trivial⟩)
theorem ack_bounds {n : Nat} {f : Flit} (hF : meshFrame (.ack n f) = some F) : F.Bounds s (execAck n f s) := by
  cases hF
  refine Frame.bounds_commit (answerAt_within (by simp) fun _ _ => ⟨?_, closeReq_within (by simp) (by simp)⟩)
  split
  · exact winAnswered_within {}
  · exact macDone_within {} (by simp) (by simp)
  · trivial
theorem grantWaitTimeout_bounds {r l : Nat} (hF : meshFrame (.grantWaitTimeout r l) = some F) :
    F.Bounds s (execGrantWaitTimeout r l s) := by
  cases hF
  refine Frame.bounds_commit ?_
  split
  · trivial
  · exact ⟨advanceTo_within {}, bump_within, resend_within (by simp) (by simp), trivial⟩
theorem requesterTimeout_bounds {r l : Nat} (hF : meshFrame (.requesterTimeout r l) = some F) :
    F.Bounds s (execRequesterTimeout r l s) := by
  cases hF
  refine Frame.bounds_commit ?_
  split
  · trivial
  · exact ⟨advanceTo_within {}, reqFailed_within {}, trivial⟩

/-! ### Landing windows -/

theorem windowCloseDrained_bounds {w : Nat} (hF : meshFrame (.windowCloseDrained w) = some F) :
    F.Bounds s (execWindowCloseDrained w s) := by
  cases hF
  exact Frame.bounds_commit (leaves_ite trivial
    ⟨btn_within, leaves_each fun _ => winSend_within (by simp) (by simp), trivial⟩)
theorem windowCloseReleased_bounds {w : Nat} (hF : meshFrame (.windowCloseReleased w) = some F) :
    F.Bounds s (execWindowCloseReleased w s) := by
  cases hF
  exact Frame.bounds_commit (leaves_ite trivial ⟨btn_within, winSend_within (by simp) (by simp), trivial⟩)
theorem windowNoticeDone_bounds {w : Nat} (hF : meshFrame (.windowNoticeDone w) = some F) :
    F.Bounds s (execWindowNoticeDone w s) := by
  cases hF
  refine Frame.bounds_commit ?_
  split
  · trivial
  · exact ⟨leaves_when (rasLog_within {}), leaves_when (vectorRaise_within { irq := fun _ h => by simp [logRegs_of_irqRegs h] }
      fun _ h => by simp [h]), setF_within, winFree_within (by simp) (by simp) (by simp), trivial⟩

/-! ### Memory channels -/

theorem memRd_bounds {n w w2 : Nat} {f : Flit} (hF : meshFrame (.memRd n f w w2) = some F) :
    F.Bounds s (execMemRd n f w w2 s) := by
  cases hF
  exact Frame.bounds_commit <| whileLive_leaves ⟨mesh_within, leaves_ite (fenceAnswer_within {} (by simp) (by simp))
    ⟨settleLone_within {} (by simp) (by simp) (by simp) (by simp), leaves_ite (fun _ => send_within)
      ⟨commandDone_within {} (by simp) (by simp), fun _ => mc_within,
        deviceRead_within {} (by simp) (by simp) (by simp) fun _ _ => send_within,
        leaves_when fun _ => mc_within, trivial⟩⟩⟩
theorem memWr_bounds {n : Nat} {f : Flit} (hF : meshFrame (.memWr n f) = some F) : F.Bounds s (execMemWr n f s) := by
  cases hF
  refine Frame.bounds_commit <| whileLive_leaves ⟨mesh_within, leaves_ite (fenceAnswer_within {} (by simp) (by simp))
    ⟨settleLone_within {} (by simp) (by simp) (by simp) (by simp), commandDone_within {} (by simp) (by simp),
      fun _ => mc_within, wrLine_within (by simp) (by simp), mc_within, ?_, mc_within,
      fun _ => leaves_ite mc_within mc_within, send_within, trivial⟩⟩
  split
  · exact ⟨mc_within, ras_within, trivial⟩
  · exact mc_within
theorem pairBufferExpiry_bounds {c l : Nat} (hF : meshFrame (.pairBufferExpiry c l) = some F) :
    F.Bounds s (execPairBufferExpiry c l s) := by
  cases hF
  refine Frame.bounds_commit ⟨?_, ?_, trivial⟩
  · split
    · exact ⟨advanceTo_within {}, mc_within, trivial⟩
    · trivial
  · split
    · exact ⟨advanceTo_within {}, mergeLone_within {} (by simp) (by simp) (by simp) (by simp), trivial⟩
    · trivial
theorem rankPowerDown_bounds {c r : Nat} (hF : meshFrame (.rankPowerDown c r) = some F) :
    F.Bounds s (execRankPowerDown c r s) := by
  cases hF
  exact Frame.bounds_commit (leaves_ite trivial ⟨advanceTo_within {}, mc_within, trivial⟩)
theorem ddrAlert_bounds {c : Nat} {w : Bool} (hF : meshFrame (.ddrAlert c w) = some F) :
    F.Bounds s (execDdrAlert c w s) := by
  cases hF
  exact Frame.bounds_commit (alert_within {} (by simp) (by simp))
theorem patrolScrub_bounds {c l w : Nat} {b : Bool} (hF : meshFrame (.patrolScrub c l w b) = some F) :
    F.Bounds s (execPatrolScrub c l w b s) := by
  cases hF
  exact Frame.bounds_commit <| leaves_ite trivial <| leaves_ite trivial <| leaves_ite
    ⟨corrected_within {}, bump_within, leaves_ite trivial (leaves_ite mc_within mc_within), trivial⟩
    ⟨bump_within, rasLog_within {}, leaves_ite trivial (leaves_ite mc_within ⟨mc_within, setPoison_within, trivial⟩), trivial⟩
theorem ecsCommand_bounds {c : Nat} (hF : meshFrame (.ecsCommand c) = some F) : F.Bounds s (execEcsCommand c s) := by
  cases hF
  exact Frame.bounds_commit mc_within
theorem ecsCountRead_bounds {c r d k t : Nat} (hF : meshFrame (.ecsCountRead c r d k t) = some F) :
    F.Bounds s (execEcsCountRead c r d k t s) := by
  cases hF
  exact Frame.bounds_commit ⟨mc_within, leaves_ite (rasLog_within {}) trivial, trivial⟩
theorem bucketLeak_bounds {c r : Nat} (hF : meshFrame (.bucketLeak c r) = some F) : F.Bounds s (execBucketLeak c r s) := by
  cases hF
  exact Frame.bounds_commit mc_within
theorem zeroFillDone_bounds {c : Nat} (hF : meshFrame (.zeroFillDone c) = some F) : F.Bounds s (execZeroFillDone c s) := by
  cases hF
  exact Frame.bounds_commit (zeroFill_within (by simp) (by simp) (by simp) (by simp))

/-! ### Cards of the memory channels -/

theorem memScrubCfg_bounds {c : CardCtx} {n p e t l : Nat} (hF : meshFrame (.memScrubCfg c n p e t l) = some F) :
    F.Bounds s (execMemScrubCfg c n p e t l s) := by
  have reply : ReplyFrame F.parts F.writes := by cases hF; exact {}
  have scrub k : F.writes (MC_SCRUB k) := by cases hF; simp
  have no {st d} : (answer0 c 0x0301 st d).Within F.parts F.writes := answer0_within reply
  exact Frame.bounds_commit <| gated_within reply (by cases hF; simp) fun s => leaves_ite no <| leaves_ite no <|
    leaves_ite no <| leaves_ite no <| leaves_ite no <| leaves_ite no
      ⟨leaves_each fun _ => setFs_within (scrub _), answerOk_within reply, trivial⟩
theorem memMirrorSet_bounds {c : CardCtx} {p : Nat} {b : Bool} (hF : meshFrame (.memMirrorSet c p b) = some F) :
    F.Bounds s (execMemMirrorSet c p b s) := by
  have reply : ReplyFrame F.parts F.writes := by cases hF; exact {}
  have no {st d} : (answer0 c 0x0302 st d).Within F.parts F.writes := answer0_within reply
  exact Frame.bounds_commit <| gated_within reply (by cases hF; simp) fun s => leaves_ite no <| leaves_ite no <|
    leaves_ite (answerBusyFree_within reply (by cases hF; simp)) <|
    leaves_ite ⟨by cases hF; exact mc_within, answerOk_within reply, trivial⟩ no
theorem memMirrorResync_bounds {c : CardCtx} {p : Nat} (hF : meshFrame (.memMirrorResync c p) = some F) :
    F.Bounds s (execMemMirrorResync c p s) := by
  have reply : ReplyFrame F.parts F.writes := by cases hF; exact {}
  have no {st d} : (answer0 c 0x0302 st d).Within F.parts F.writes := answer0_within reply
  refine Frame.bounds_commit <| gated_within reply (by cases hF; simp) fun s => leaves_ite no <| leaves_ite no <|
    leaves_ite (answerBusyFree_within reply (by cases hF; simp)) ?_
  split
  · exact no
  · exact leaves_ite (accept_within reply (by cases hF; simp) (setFs_within (by cases hF; simp))) no
theorem mirrorResyncDone_bounds {p : Nat} (hF : meshFrame (.mirrorResyncDone p) = some F) :
    F.Bounds s (execMirrorResyncDone p s) := by
  cases hF
  refine Frame.bounds_commit ?_
  split
  · exact ⟨setFs_within, leaves_each fun _ => ⟨mc_within, setPoison_within, trivial⟩,
      leaves_each fun _ _ => leaves_ite setF_within trivial, mc_within, finish_within {} (by simp), trivial⟩
  · trivial
theorem memSpareRank_bounds {c : CardCtx} {n r : Nat} (hF : meshFrame (.memSpareRank c n r) = some F) :
    F.Bounds s (execMemSpareRank c n r s) := by
  have reply : ReplyFrame F.parts F.writes := by cases hF; exact {}
  have no {st d} : (answer0 c 0x0303 st d).Within F.parts F.writes := answer0_within reply
  exact Frame.bounds_commit <| gated_within reply (by cases hF; simp) fun s => leaves_ite no <| leaves_ite no <|
    leaves_ite (answerBusyFree_within reply (by cases hF; simp)) <| leaves_ite no <| leaves_ite no <| leaves_ite no <|
    accept_within reply (by cases hF; simp) (by cases hF; exact ⟨mc_within, setFs_within, trivial⟩)
theorem spareCopyDone_bounds {c : Nat} (hF : meshFrame (.spareCopyDone c) = some F) :
    F.Bounds s (execSpareCopyDone c s) := by
  cases hF
  refine Frame.bounds_commit ?_
  split
  · trivial
  · exact ⟨setFs_within, leaves_each fun _ => ⟨mc_within, setPoison_within, trivial⟩, mc_within,
      finish_within {} (by simp), trivial⟩
theorem memPprSoft_bounds {c : CardCtx} {n r g b w : Nat} {u : Bool} (hF : meshFrame (.memPprSoft c n r g b w u) = some F) :
    F.Bounds s (execMemPprSoft c n r g b w u s) := by
  cases hF
  exact Frame.bounds_commit (ppr_within {} (by simp) (by simp) (by simp) (by simp))
theorem memPprHard_bounds {c : CardCtx} {n r g b w : Nat} {u : Bool} (hF : meshFrame (.memPprHard c n r g b w u) = some F) :
    F.Bounds s (execMemPprHard c n r g b w u s) := by
  cases hF
  exact Frame.bounds_commit (ppr_within {} (by simp) (by simp) (by simp) (by simp))
theorem memRetire_bounds {c : CardCtx} {n : Nat} {b : Bool} (hF : meshFrame (.memRetire c n b) = some F) :
    F.Bounds s (execMemRetire c n b s) := by
  have reply : ReplyFrame F.parts F.writes := by cases hF; exact { irq := fun _ h => by simp [logRegs_of_irqRegs h] }
  have retire : RetireFrame F.parts F.writes n := by cases hF; exact {}
  have stat : F.writes DBY_STAT := by cases hF; simp
  have no {st d} : (answer0 c 0x0305 st d).Within F.parts F.writes := answer0_within reply
  exact Frame.bounds_commit <| gated_within reply (by cases hF; simp) fun s => leaves_ite no <| leaves_ite no <|
    leaves_ite (answerBusyFree_within reply (by cases hF; simp)) <| leaves_ite (answerOk_within reply) <|
    leaves_ite (accept_within reply stat (retireMirrored_within retire)) <|
    leaves_ite (answerRefused_within reply (by cases hF; exact fun _ h => by simp [h])) <|
    accept_within reply stat ⟨retireForced_within retire, rasLog_within retire.toLogFrame, trivial⟩

end Sys2Proof.Machine
end

section
/-! The frames of the commands of chapters 02 to 05 and 15, put together. -/

set_option Elab.async false

namespace Sys2Proof.Machine

/-- Each command with a frame in `meshFrame` keeps to it; the other commands have none. -/
theorem meshFrame_bounds {c : Instr} {F : Frame} {s : State} (hF : meshFrame c = some F) : F.Bounds s (exec c s) := by
  cases c with
  | rdShared | rdUnique | upgrade | wrFull | wrPart | claimZero | evictDirty | evictClean | clean | flush =>
    cases hF
    exact reqAt_bounds
  | acc | zero =>
    cases hF
    exact enterHome_bounds
  | dataS | dataE | dataM =>
    cases hF
    exact dataAt_bounds
  | flitArrival => exact flitArrival_bounds hF
  | flitInject => exact flitInject_bounds hF
  | injectionWaitExpiry => exact injectionWaitExpiry_bounds hF
  | classAgeExpiry => exact classAgeExpiry_bounds hF
  | starveAssert => exact starveAssert_bounds hF
  | dieFifoDrift => exact dieFifoDrift_bounds hF
  | tileDrain => exact tileDrain_bounds hF
  | drainComplete => exact drainComplete_bounds hF
  | drainTimeout => exact drainTimeout_bounds hF
  | tileFence => exact tileFence_bounds hF
  | fenceWaitExpiry => exact fenceWaitExpiry_bounds hF
  | tilePowerOff => exact tilePowerOff_bounds hF
  | tilePowerOn => exact tilePowerOn_bounds hF
  | tileTest => exact tileTest_bounds hF
  | tileRestore => exact tileRestore_bounds hF
  | tileSpare => exact tileSpare_bounds hF
  | missTagAcquire => exact missTagAcquire_bounds hF
  | mapUpdateFlit => exact mapUpdateFlit_bounds hF
  | mapUpdateAcked => exact mapUpdateAcked_bounds hF
  | mapWalkEnd => exact mapWalkEnd_bounds hF
  | sliceScrubRead => exact sliceScrubRead_bounds hF
  | stridePrefetchIssue => exact stridePrefetchIssue_bounds hF
  | rdOnce => exact rdOnce_bounds hF
  | rel => exact rel_bounds hF
  | snpShared => exact snpShared_bounds hF
  | snpUnique => exact snpUnique_bounds hF
  | inv => exact inv_bounds hF
  | snpOnce => exact snpOnce_bounds hF
  | snpClean => exact snpClean_bounds hF
  | snpFlush => exact snpFlush_bounds hF
  | snpAck => exact snpAck_bounds hF
  | snpMiss => exact snpMiss_bounds hF
  | snpData => exact snpData_bounds hF
  | nackQ => exact nackQ_bounds hF
  | nack => exact nack_bounds hF
  | grant => exact grant_bounds hF
  | grantIssue => exact grantIssue_bounds hF
  | comp => exact comp_bounds hF
  | compAck => exact compAck_bounds hF
  | fenced => exact fenced_bounds hF
  | wbGo => exact wbGo_bounds hF
  | wbData => exact wbData_bounds hF
  | relDone => exact relDone_bounds hF
  | faultMsg => exact faultMsg_bounds hF
  | dataOnce => exact dataOnce_bounds hF
  | memRd => exact memRd_bounds hF
  | memWr => exact memWr_bounds hF
  | memData => exact memData_bounds hF
  | grantRetryTimeout => exact grantRetryTimeout_bounds hF
  | grantWaitTimeout => exact grantWaitTimeout_bounds hF
  | homeTimeout => exact homeTimeout_bounds hF
  | requesterTimeout => exact requesterTimeout_bounds hF
  | ack => exact ack_bounds hF
  | release => exact release_bounds hF
  | windowCloseDrained => exact windowCloseDrained_bounds hF
  | windowCloseReleased => exact windowCloseReleased_bounds hF
  | windowNoticeDone => exact windowNoticeDone_bounds hF
  | pairBufferExpiry => exact pairBufferExpiry_bounds hF
  | rankPowerDown => exact rankPowerDown_bounds hF
  | ddrAlert => exact ddrAlert_bounds hF
  | patrolScrub => exact patrolScrub_bounds hF
  | ecsCommand => exact ecsCommand_bounds hF
  | ecsCountRead => exact ecsCountRead_bounds hF
  | bucketLeak => exact bucketLeak_bounds hF
  | memScrubCfg => exact memScrubCfg_bounds hF
  | memMirrorSet => exact memMirrorSet_bounds hF
  | memMirrorResync => exact memMirrorResync_bounds hF
  | mirrorResyncDone => exact mirrorResyncDone_bounds hF
  | memSpareRank => exact memSpareRank_bounds hF
  | spareCopyDone => exact spareCopyDone_bounds hF
  | memPprSoft => exact memPprSoft_bounds hF
  | memPprHard => exact memPprHard_bounds hF
  | memRetire => exact memRetire_bounds hF
  | zeroFillDone => exact zeroFillDone_bounds hF
  | tileTestDone => exact tileTestDone_bounds hF
  | _ => cases hF

/-- Settles O51: the act of each command of chapters 02 to 05 and 15 stays within the command's frame. -/
theorem meshCommandsKeepTheRest : Obligations.MeshCommandsKeepTheRest := by
  unfold Obligations.MeshCommandsKeepTheRest
  intro c F s t hF h
  exact meshFrame_bounds hF t h

end Sys2Proof.Machine
end

section
/-! The fields of a physical address as fields of its line, and the set and tag of a line (R77, R78). -/

namespace Sys2Proof.Machine

/-- A field of a physical address above PA[5:0] is the same field of its line, 6 bits lower. -/
theorem toNat_extractLsb'_eq_line_field (pa : BitVec 48) (k w : Nat) :
    (pa.extractLsb' (6 + k) w).toNat = pa.toNat / 64 / 2 ^ k % 2 ^ w := by
  have hline : pa.toNat >>> 6 = pa.toNat / 64 := Nat.shiftRight_eq_div_pow pa.toNat 6
  calc (pa.extractLsb' (6 + k) w).toNat = pa.toNat >>> (6 + k) % 2 ^ w := BitVec.extractLsb'_toNat ..
    _ = pa.toNat >>> 6 >>> k % 2 ^ w := by rw [Nat.shiftRight_add]
    _ = pa.toNat / 64 / 2 ^ k % 2 ^ w := by rw [hline, Nat.shiftRight_eq_div_pow]

/-- A field that begins at PA[6] is the line's low bits. -/
theorem toNat_extractLsb'_eq_line_low (pa : BitVec 48) (w : Nat) :
    (pa.extractLsb' 6 w).toNat = pa.toNat / 64 % 2 ^ w :=
  (toNat_extractLsb'_eq_line_field pa 0 w).trans (by rw [Nat.pow_zero, Nat.div_one])

/-- R78's recovery: the low bits of a line are its set folded once more with the low bits of its tag. -/
theorem sliceSet_xor_tag (l : Nat) : sliceSet l ^^^ (l / 2048 % 2048) = l % 2048 := by
  rw [sliceSet, Nat.xor_assoc, Nat.xor_self, Nat.xor_zero]

/-- The set index and the tag name the line. -/
theorem line_eq_of_sliceSet_eq_of_tag_eq {l m : Nat} (hset : sliceSet l = sliceSet m) (htag : l / 2048 = m / 2048) :
    l = m := by
  have hlow : l % 2048 = m % 2048 := by rw [← sliceSet_xor_tag l, hset, htag, sliceSet_xor_tag m]
  rw [← Nat.div_add_mod l 2048, htag, hlow, Nat.div_add_mod]

/-- The tag PA[47:17] is the line without its low 11 bits: nothing stands above PA[47]. -/
theorem toNat_extractLsb'_tag (pa : BitVec 48) : (pa.extractLsb' 17 31).toNat = pa.toNat / 64 / 2048 := by
  rw [toNat_extractLsb'_eq_line_field pa 11 31]
  have hpa : pa.toNat < 2 ^ 48 := pa.isLt
  exact Nat.mod_eq_of_lt (by omega)

/-- The map index in the address's own bits: `mapIndex` folds the line, PA[47:6], in steps of 12 bits. -/
theorem mapIndex_line (pa : BitVec 48) :
    mapIndex (pa.toNat / 64) =
      (pa.extractLsb' 6 12 ^^^ pa.extractLsb' 18 12 ^^^ pa.extractLsb' 30 12 ^^^ (pa.extractLsb' 42 6).setWidth 12).toNat := by
  have htop : ((pa.extractLsb' 42 6).setWidth 12).toNat = pa.toNat / 64 / 2 ^ 36 % 64 :=
    (BitVec.toNat_setWidth_of_le (by decide)).trans (toNat_extractLsb'_eq_line_field pa 36 6)
  rw [BitVec.toNat_xor, BitVec.toNat_xor, BitVec.toNat_xor, htop, toNat_extractLsb'_eq_line_low pa 12,
    toNat_extractLsb'_eq_line_field pa 12 12, toNat_extractLsb'_eq_line_field pa 24 12]
  rfl

/-- The set index in the address's own bits. -/
theorem sliceSet_line (pa : BitVec 48) :
    sliceSet (pa.toNat / 64) = (pa.extractLsb' 6 11 ^^^ pa.extractLsb' 17 11).toNat := by
  rw [BitVec.toNat_xor, toNat_extractLsb'_eq_line_low pa 11, toNat_extractLsb'_eq_line_field pa 11 11]
  rfl

/-- Settles O59: the folds by the fields of the line, the recovery by cancelling PA[27:17], the line from set and tag. -/
theorem homeAndSetOfALine : Obligations.HomeAndSetOfALine := by
  unfold Obligations.HomeAndSetOfALine
  refine ⟨mapIndex_line, fun s l => rfl, fun pa => ⟨sliceSet_line pa, ?_⟩, fun pa pb hset htag => ?_⟩
  · rw [toNat_extractLsb'_eq_line_low pa 11, toNat_extractLsb'_eq_line_field pa 11 11]
    exact (sliceSet_xor_tag _).symm
  · refine line_eq_of_sliceSet_eq_of_tag_eq hset ?_
    rw [← toNat_extractLsb'_tag, htag, toNat_extractLsb'_tag]

end Sys2Proof.Machine
end

section
/-! What the engines share: translation through the IOTLB, message vectors, landing windows written to by an engine, and
destinations that become undefined (chapters 05, 06, 14 and 16). -/

set_option Elab.async false

namespace Sys2Proof.Machine

/-- What the raising of a message vector changes. -/
structure VectorFrame (ch : List Part) (R : Nat → Prop) : Prop where
  mesh : .mesh ∈ ch := by simp
  hrn : .hrn ∈ ch := by simp
  vec : ∀ a, vecRegs a → R a := by exact fun _ h => ⟨_, by simp, h⟩

/-- What an access of an engine through the IOTLB changes. -/
structure IoFrame (ch : List Part) (R : Nat → Prop) : Prop extends LogFrame ch R, MemoryFrame ch where
  iotlb : .iotlb ∈ ch := by simp
  xl : ∀ a, iotlbRegs a → R a := by exact fun _ h => ⟨_, by simp, h⟩

variable {ch : List Part} {R : Nat → Prop}

/-! ### Elementary effects -/

theorem loom_within {f : LoomSt → LoomSt} (h : .loom ∈ ch := by simp) : (Act.loom f).Within ch R := h
theorem drv_within {f : DrvSt → DrvSt} (h : .drv ∈ ch := by simp) : (Act.drv f).Within ch R := h
theorem pick_within {f : PickSt → PickSt} (h : .pick ∈ ch := by simp) : (Act.pick f).Within ch R := h
theorem shu_within {f : ShuSt → ShuSt} (h : .shu ∈ ch := by simp) : (Act.shu f).Within ch R := h
theorem reg_within {a : Nat} {v : W64} (h : R a := by simp) : (Act.reg a v).Within ch R := h
theorem withFree_within {k : Nat → Act} (hc : .clk ∈ ch) (hk : ∀ n, (k n).Within ch R) : (withFree k).Within ch R :=
  withFree_leaves (fun _ => hc) hk
/-- Acts gathered by a fold over a list. -/
theorem foldl_within {α β : Type} {l : List α} {g : Act × β → α → Act × β} {p : Act × β} (hp : p.1.Within ch R)
    (hg : ∀ q x, q.1.Within ch R → (g q x).1.Within ch R) : (l.foldl g p).1.Within ch R :=
  List.foldlRecOn (motive := fun q => q.1.Within ch R) l g hp fun q hq x _ => hg q x hq

/-! ### The Harness -/

theorem sourceRaise_within {n : Nat} (F : LineFrame ch R) : (sourceRaise n).Within ch R :=
  sourceRaise_leaves (fun _ => F.irq _ (irqRegs_src n)) (fun _ => F.hrn) fun _ _ => send_within F.mesh
theorem raiseVector_within {v : Nat} (V : VectorFrame ch R) : (vectorRaise v).Within ch R :=
  vectorRaise_leaves (fun _ => V.vec _ (.inr ⟨v, rfl⟩)) (fun _ => V.vec _ (.inl (by simp))) (fun _ => V.hrn)
    fun _ _ => send_within V.mesh
theorem vectorClear_within {v : Nat} (hm : .mesh ∈ ch) (hh : .hrn ∈ ch) (hv : R (HRN_VEC v)) :
    (vectorClear v).Within ch R := fun _ => ⟨hv, hrnEval_leaves (fun _ => hh) fun _ _ => send_within hm⟩

/-! ### The IOTLB -/

theorem ioDone_within {f va : Nat} {x : IoXl} (F : IoFrame ch R) : (ioDone f va x).Within ch R := by
  have counts {r : Nat} (h : r ∈ [PE_IOTLB_FAULT, PE_IOTLB_MISS, PE_IOTLB_PTE]) : R r := F.xl _ h
  refine fun s => ⟨leaves_when ⟨bump_within (counts (by simp)), addTo_within (counts (by simp)), trivial⟩, ?_, ?_, trivial⟩
  · split
    · exact rasLog_within F.toLogFrame
    · trivial
  · split
    · exact leaves_when (bump_within (counts (by simp)))
    · exact leaves_when ⟨leaves_each fun _ _ => wrCoh_within F.toMemoryFrame, F.iotlb, trivial⟩
theorem ioRange_within {f : Nat} {w : Bool} {bad : Act} {ok : List (Nat × Nat) → Act} {l got : List (Nat × Nat)}
    (F : IoFrame ch R) (hb : bad.Within ch R) (ho : ∀ m, (ok m).Within ch R) : (ioRange f w bad ok l got).Within ch R := by
  induction l generalizing got with
  | nil => exact ho _
  | cons p r ih =>
    refine fun s => ⟨ioDone_within F, ?_⟩
    split
    · exact hb
    · exact ih
/-- A range that an engine goes through: what follows its first fault, and what follows its translation. -/
theorem ioWith_within {f va n : Nat} {w : Bool} {bad : Act} {ok : List (Nat × Nat) → Act} (F : IoFrame ch R)
    (hb : bad.Within ch R) (ho : ∀ l, (ok l).Within ch R) : (ioWith f va n w bad ok).Within ch R := ioRange_within F hb ho
theorem wrPieces_within {p : Bool} {l : List (Nat × Nat)} {b : List Byte} (M : MemoryFrame ch) :
    (wrPieces p l b).Within ch R := by
  induction l generalizing b with
  | nil => trivial
  | cons q r ih => exact ⟨wrCoh_within M, ih⟩
theorem undefDest_within {f va n : Nat} (M : MemoryFrame ch) (hc : .clk ∈ ch) : (undefDest f va n).Within ch R := by
  refine withFree_within hc fun k s => leaves_each fun p => ?_
  split
  · trivial
  · exact wrCoh_within M
theorem iotlbDropFunc_within {f : Nat} (hi : .iotlb ∈ ch) (hr : R PE_IOTLB_INVCNT) : (iotlbDropFunc f).Within ch R :=
  ⟨hi, bump_within hr⟩
theorem iotlbInv_within {w world : Bool} {scope : Option Nat} {v : W64} (hi : .iotlb ∈ ch) (hr : ∀ k, R (PE_IOTLB_INV k)) :
    (iotlbInv w world scope v).Within ch R := fun _ =>
  leaves_ite trivial (leaves_ite (setF_within (hr _)) ⟨setFs_within (hr _), hi, trivial⟩)

/-! ### Landing windows -/

theorem winOpen_within {w d : Nat} {world : Bool} {u : Option (Nat × Nat × Nat)} {r : Option Nat} (W : WindowFrame ch R)
    (hm : .mesh ∈ ch) (ho : .coh ∈ ch) : (winOpen w d world u r).Within ch R := fun _ =>
  ⟨W.btn, setFs_within (W.state w), btnStat_within W.stat, leaves_each fun _ => winSend_within hm ho,
    leaves_when (winOpened_within W), trivial⟩
theorem winClose_within {w : Nat} {b : Bool} (W : WindowFrame ch R) : (winClose w b).Within ch R :=
  ⟨setF_within (W.state w), W.btn, trivial⟩

end Sys2Proof.Machine
end

section
/-! What the Pick unit and drive attach change (chapters 07 and 08). -/

set_option Elab.async false

namespace Sys2Proof.Machine

/-- What PICK_STAT and the unit's own line change. -/
structure PickFrame (ch : List Part) (R : Nat → Prop) : Prop where
  mesh : .mesh ∈ ch := by simp
  hrn : .hrn ∈ ch := by simp
  pick : .pick ∈ ch := by simp
  line : R (HRN_SRC 89) := by simp [logRegs]
  pickStat : R PICK_STAT := by simp

/-- What a change of state of angle clock `n` changes. -/
structure ClockFrame (ch : List Part) (R : Nat → Prop) (n : Nat) : Prop extends LogFrame ch R where
  pick : .pick ∈ ch := by simp
  pickStat : R PICK_STAT := by simp
  clock : R (PICK_CLK_STAT n) := by simp

/-- What the issue of waiting drive commands changes. -/
structure PlaceFrame (ch : List Part) (R : Nat → Prop) : Prop extends MemoryFrame ch where
  drv : .drv ∈ ch := by simp
  pair : ∀ q, R (DQ_QP q) := by simp
  cmds : R DQ_CMDS := by simp

/-- What the taking, the end and the freeing of command slots change. -/
structure SlotFrame (ch : List Part) (R : Nat → Prop) : Prop extends PlaceFrame ch R, PickFrame ch R where
  clk : .clk ∈ ch := by simp
  loom : .loom ∈ ch := by simp
  inflight : R LOOM_INFLIGHT := by simp
  port : ∀ p, R (PE_PORT_STAT p) := by simp

/-- What a change of state of the drive controllers on a port changes. -/
structure CtrlFrame (ch : List Part) (R : Nat → Prop) : Prop extends SlotFrame ch R, LogFrame ch R where
  ctrl : ∀ n, R (DQ_CTRL_A n) := by simp
  clock : ∀ n, R (PICK_CLK_STAT n) := by simp

variable {ch : List Part} {R : Nat → Prop}

theorem ClockFrame.toPickFrame {n : Nat} (C : ClockFrame ch R n) : PickFrame ch R :=
  ⟨C.mesh, C.hrn, C.pick, C.log _ (logRegs_of_irqRegs (irqRegs_src 89)), C.pickStat⟩
theorem CtrlFrame.toClockFrame (C : CtrlFrame ch R) (n : Nat) : ClockFrame ch R n :=
  ⟨C.toLogFrame, C.pick, C.pickStat, C.clock n⟩

/-! ### Angle clocks -/

theorem pickStat_within (P : PickFrame ch R) : pickStat.Within ch R := fun _ =>
  ⟨setFs_within P.pickStat, leaves_when (lineSet_leaves (fun _ => P.line) (fun _ => P.hrn) fun _ _ => send_within P.mesh),
    trivial⟩
theorem gotoClk_within {n st : Nat} (C : ClockFrame ch R n) : (gotoClk n st).Within ch R := fun _ =>
  ⟨C.pick, leaves_when (setF_within C.clock), setF_within C.clock, leaves_when (rasLog_within C.toLogFrame),
    pickStat_within C.toPickFrame, trivial⟩
theorem startClk_within {n : Nat} (C : ClockFrame ch R n) (hi : R (PICK_CLK_IDX n)) : (startClk n).Within ch R := fun _ =>
  ⟨hi, setFs_within C.clock, C.pick, gotoClk_within C, trivial⟩
theorem clkCtrlDown_within {n : Nat} (C : ClockFrame ch R n) : (clkCtrlDown n).Within ch R := fun _ =>
  leaves_ite trivial (gotoClk_within C)
theorem clkCtrlUp_within {n : Nat} (C : ClockFrame ch R n) : (clkCtrlUp n).Within ch R := fun _ =>
  leaves_ite (gotoClk_within C) trivial
theorem clkUpdate_within {n k i : Nat} {d : Int} (C : ClockFrame ch R n) (hc : .clk ∈ ch) (hi : R (PICK_CLK_IDX n)) :
    (clkUpdate n k d i).Within ch R :=
  have goes {st} : (gotoClk n st).Within ch R := gotoClk_within C
  withFree_within hc fun _ _ => ⟨setFs_within C.clock, hi, C.pick, leaves_ite goes <| leaves_ite (leaves_when goes) <|
    leaves_ite (leaves_when goes) <| leaves_ite goes goes, trivial⟩
theorem clkFirst_within {n : Nat} {m : AngleMsg} (C : ClockFrame ch R n) (hi : R (PICK_CLK_IDX n)) :
    (clkFirst n m).Within ch R := fun _ =>
  ⟨setF_within C.clock, hi, C.pick, leaves_when (gotoClk_within C), trivial⟩

/-! ### Command slots -/

theorem writeCmd_within {k q : Nat} (M : MemoryFrame ch) (hd : .drv ∈ ch) (hq : ∀ q, R (DQ_QP q)) :
    (writeCmd k q).Within ch R := by
  intro s
  dsimp only
  split
  · trivial
  · exact ⟨wrCoh_within M, hd, hd, setF_within (hq q), trivial⟩
theorem doorbell_within {q v : Nat} {b : Bool} (hd : .drv ∈ ch) : (doorbell q b v).Within ch R := fun _ => hd
theorem ringSlot_within {k : Nat} (hd : .drv ∈ ch) (hc : R DQ_CMDS) : (ringSlot k).Within ch R := by
  intro s
  dsimp only
  split
  · trivial
  · exact ⟨doorbell_within hd, hd, hd, bump_within hc, trivial⟩
theorem placeSlot_within {k : Nat} (P : PlaceFrame ch R) : (placeSlot k).Within ch R := by
  intro s
  dsimp only
  split
  · trivial
  · split
    · trivial
    · exact ⟨writeCmd_within P.toMemoryFrame P.drv P.pair, ringSlot_within P.drv P.cmds, trivial⟩
theorem pairFreed_within {n : Nat} (P : PlaceFrame ch R) : (pairFreed n).Within ch R := fun _ =>
  leaves_when (leaves_each fun _ => placeSlot_within P)
theorem endReq_within {r st v d : Nat} (hl : .loom ∈ ch) : (endReq r st v d).Within ch R := hl
theorem endSlot_within {k st v d : Nat} (hd : .drv ∈ ch) (hl : .loom ∈ ch) : (endSlot k st v d).Within ch R := by
  intro s
  dsimp only
  split
  · trivial
  · refine leaves_ite trivial ⟨hd, ?_, trivial⟩
    split
    · exact endReq_within hl
    · exact hd
theorem heapDrop_within {k : Nat} (P : PickFrame ch R) : (heapDrop k).Within ch R := by
  intro s
  dsimp only
  split
  · trivial
  · exact ⟨P.pick, P.pick, pickStat_within P, trivial⟩
theorem driveCount_within {n : Nat} (S : SlotFrame ch R) : (driveCount n).Within ch R := fun _ =>
  ⟨setF_within S.inflight, setF_within (S.port _), trivial⟩
theorem takeSlot_within {x : Slot} {k : Nat → Act} (S : SlotFrame ch R) (hk : ∀ i, (k i).Within ch R) :
    (takeSlot x k).Within ch R := by
  refine withFree_within S.clk fun u s => ?_
  dsimp only
  split
  · exact ⟨S.drv, driveCount_within S, hk _, trivial⟩
  · trivial
theorem freeSlot_within {k : Nat} (S : SlotFrame ch R) : (freeSlot k).Within ch R := by
  intro s
  dsimp only
  split
  · trivial
  · refine ⟨heapDrop_within S.toPickFrame, ?_, S.drv, driveCount_within S, pairFreed_within S.toPlaceFrame, trivial⟩
    split
    · trivial
    · exact ⟨setF_within (S.pair _), leaves_when S.drv, trivial⟩
theorem slotDown_within {k : Nat} (S : SlotFrame ch R) : (slotDown k).Within ch R := by
  intro s
  dsimp only
  split
  · trivial
  · exact ⟨endSlot_within S.drv S.loom, leaves_when (undefDest_within S.toMemoryFrame S.clk), freeSlot_within S, trivial⟩
theorem slotsDown_within {p : Nat → Slot → Bool} (S : SlotFrame ch R) : (slotsDown p).Within ch R := fun _ =>
  leaves_each fun _ => slotDown_within S
theorem revoke_within {k : Nat} (hd : .drv ∈ ch) : (revoke k).Within ch R := hd

/-! ### Controllers, pairs and root ports -/

theorem ctrlTo_within {n st : Nat} (S : SlotFrame ch R) (C : ClockFrame ch R n) (hc : R (DQ_CTRL_A n)) :
    (ctrlTo n st).Within ch R := fun _ =>
  ⟨setF_within hc, leaves_when ⟨clkCtrlDown_within C, leaves_each fun _ => slotDown_within S, trivial⟩,
    leaves_when (clkCtrlUp_within C), trivial⟩
theorem dqCtrlWrite_within {w : Bool} {n : Nat} {m v : W64} (S : SlotFrame ch R) (C : ClockFrame ch R n)
    (hc : R (DQ_CTRL_A n)) : (dqCtrlWrite w n m v).Within ch R := fun _ =>
  leaves_ite trivial ⟨hc, leaves_ite (fun _ => ctrlTo_within S C hc) <|
    leaves_ite ⟨ctrlTo_within S C hc, slotsDown_within S, trivial⟩ trivial, trivial⟩
theorem pairDown_within {q : Nat} (S : SlotFrame ch R) : (pairDown q).Within ch R := fun _ =>
  ⟨S.drv, slotsDown_within S, setF_within (S.pair q), fun _ => leaves_when (slotsDown_within S), trivial⟩
theorem dqQpWrite_within {w : Bool} {q : Nat} {m v : W64} (S : SlotFrame ch R) : (dqQpWrite w q m v).Within ch R := fun _ =>
  leaves_ite trivial ⟨S.pair q, leaves_ite
    (fun _ => leaves_ite ⟨setFs_within (S.pair q), S.drv, trivial⟩ (setFs_within (S.pair q)))
    (leaves_when (pairDown_within S)), trivial⟩
theorem portLine_within {p : Nat} (F : LineFrame ch R) : (portLine p).Within ch R := fun _ => lineSet_within F
theorem linkDown_within {p : Nat} (hd : .drv ∈ ch) (hp : R (PE_PORT_STAT p)) : (linkDown p).Within ch R :=
  ⟨setFs_within hp, hd, trivial⟩
/-- DPC containment (R202). The controllers are named, since their list of 1,024 is not to be unfolded by unification. -/
theorem contain_within {p b : Nat} (C : CtrlFrame ch R) : (contain p b).Within ch R := by
  intro s
  refine ⟨?_, slotsDown_within C.toSlotFrame, setF_within (C.port p), linkDown_within C.drv (C.port p), C.drv,
    rasLog_within C.toLogFrame, portLine_within C.toLogFrame.toLineFrame, trivial⟩
  generalize s.ctrlsOf p = l
  exact leaves_each fun n => ctrlTo_within C.toSlotFrame (C.toClockFrame n) (C.ctrl n)

/-! ### The release heap and the alarms -/

theorem scheduleGroup_within {f g : Nat} (P : PickFrame ch R) (hl : R PICK_LATEST) : (scheduleGroup f g).Within ch R :=
  fun _ => ⟨addTo_within hl, P.pick, pickStat_within P, trivial⟩
theorem heapAlone_within {k n a l : Nat} (P : PickFrame ch R) (hl : R PICK_LATEST) : (heapAlone k n a l).Within ch R :=
  fun _ => ⟨leaves_when (bump_within hl), P.pick, pickStat_within P, trivial⟩
theorem pickEnter_within {k f g n l : Nat} (P : PickFrame ch R) (Q : PlaceFrame ch R) (hh : ∀ a, heapRegs a → R a) :
    (pickEnter k f g n l).Within ch R := by
  have heap {a : Nat} (h : heapRegs a) : (bump a).Within ch R := bump_within (hh a h)
  have latest : R PICK_LATEST := hh _ (by simp [heapRegs])
  have place : (placeSlot k).Within ch R := placeSlot_within Q
  intro s
  dsimp only
  split
  · trivial
  · refine ⟨leaves_when (heap (by simp [heapRegs])), leaves_when (heap (by simp [heapRegs])), ?_,
      leaves_when ⟨?_, fun s => ?_, trivial⟩, pickStat_within P, trivial⟩
    · refine leaves_ite ⟨heap (by simp [heapRegs]), place, trivial⟩ ?_
      split
      · exact ⟨heap (by simp [heapRegs]), place, trivial⟩
      · exact leaves_ite (heapAlone_within P latest) P.pick
    · split
      · exact ⟨leaves_when (heap (by simp [heapRegs])), P.pick, trivial⟩
      · exact P.pick
    · dsimp only
      split
      · exact leaves_when (scheduleGroup_within P latest)
      · trivial
theorem releaseDrive_within {n : Nat} (P : PickFrame ch R) : (releaseDrive n).Within ch R := fun _ =>
  ⟨P.pick, P.pick, pickStat_within P, trivial⟩
theorem alarmWrite_within {w : Bool} {a : Nat} {m v : W64} (hp : .pick ∈ ch) (hr : R (PICK_ALARM a)) :
    (alarmWrite w a m v).Within ch R := fun _ =>
  leaves_ite trivial ⟨hr, leaves_ite (leaves_ite ⟨setFs_within hr, hp, trivial⟩ (setFs_within hr)) (leaves_when hp), trivial⟩

end Sys2Proof.Machine
end

section
/-! What the transform engines and the Loom engine change (chapters 06 and 11). -/

set_option Elab.async false

namespace Sys2Proof.Machine

/-- What a transform request changes as it starts, works and ends. -/
structure LaneFrame (ch : List Part) (R : Nat → Prop) : Prop extends IoFrame ch R where
  xf : .xf ∈ ch := by simp
  loom : .loom ∈ ch := by simp
  xfStat : R XF_STAT := by simp
  ended : R XF_REQ := by simp
  outFull : R XF_OUT_FULL := by simp
  tagFail : R XF_TAG_FAIL := by simp
  formatFail : R XF_FORMAT_FAIL := by simp

/-- What a change of state of function `f` changes. -/
structure FnFrame (ch : List Part) (R : Nat → Prop) (f : Nat) : Prop where
  loom : .loom ∈ ch := by simp
  fstat : R (LOOM_FSTAT f) := by simp
  loomStat : R LOOM_STAT := by simp

/-- What the start of requests changes. -/
structure StartFrame (ch : List Part) (R : Nat → Prop) : Prop extends SlotFrame ch R, IoFrame ch R, WindowFrame ch R where
  xf : .xf ∈ ch := by simp
  xfStat : R XF_STAT := by simp
  heap : ∀ a, heapRegs a → R a := by exact fun _ h => ⟨_, by simp, h⟩

/-- What the queues of all functions change as requests come and go. -/
structure QueueFrame (ch : List Part) (R : Nat → Prop) : Prop extends StartFrame ch R, VectorFrame ch R where
  qctl : ∀ f q, R (LOOM_QCTL f q) := by simp
  qerr : R LOOM_QERR := by simp
  fstat : ∀ f, R (LOOM_FSTAT f) := by simp
  loomStat : R LOOM_STAT := by simp

/-- What a doorbell write of function `f` changes. -/
structure DoorbellFrame (ch : List Part) (R : Nat → Prop) (f : Nat) : Prop extends FnFrame ch R f, VectorFrame ch R where
  db : R LOOM_DB := by simp
  dropped : R LOOM_DB_DROP := by simp
  frozen : R LOOM_FROZEN_DB := by simp
  parked : R LOOM_PARK := by simp
  qerr : R LOOM_QERR := by simp

/-- What the creation and the destruction of function `f` change. -/
structure TenantFrame (ch : List Part) (R : Nat → Prop) (f : Nat) : Prop extends MemoryFrame ch, FnFrame ch R f where
  iotlb : .iotlb ∈ ch := by simp
  inv : R PE_IOTLB_INVCNT := by simp
  vecs : ∀ v, R (HRN_VEC v) := by simp
  queues : ∀ a, queueRegs f a → R a := by exact fun _ h => ⟨_, by simp, h⟩

/-- What a function card changes before its own act: its gates, its refusals and its replies. -/
structure FuncCardFrame (ch : List Part) (R : Nat → Prop) : Prop extends ReplyFrame ch R where
  cards : R DBY_CARDS := by simp
  trans : ∀ a, transRegs a → R a := by exact fun _ h => ⟨_, by simp, h⟩

variable {ch : List Part} {R : Nat → Prop}

theorem QueueFrame.toFnFrame (Q : QueueFrame ch R) (f : Nat) : FnFrame ch R f := ⟨Q.loom, Q.fstat f, Q.loomStat⟩

/-! ### Key slots and lanes -/

theorem xfStat_within (h : R XF_STAT) : xfStat.Within ch R := fun _ => setFs_within h
theorem keyUncache_within {k : Nat} (hx : .xf ∈ ch) (hs : R XF_STAT) : (keyUncache k).Within ch R := ⟨hx, xfStat_within hs⟩
theorem keyErase_within {k : Nat} (hx : .xf ∈ ch) (hs : R XF_STAT) (hk : R (XF_SLOT k)) : (keyErase k).Within ch R :=
  ⟨setFs_within hk, keyUncache_within hx hs, trivial⟩
/-- The keys of a function. The act is named, since its list of 8,192 slots is not to be unfolded by unification. -/
theorem keyEraseFunc_within {f : Nat} {a : Act} (hx : .xf ∈ ch) (hs : R XF_STAT) (hk : ∀ k, R (XF_SLOT k))
    (ha : keyEraseFunc f = a) : a.Within ch R := by
  subst ha
  intro s
  dsimp only
  generalize List.filter _ _ = l
  exact leaves_each fun k => keyErase_within hx hs (hk k)
theorem xfDispatch_within {r : Nat} (hx : .xf ∈ ch) (hs : R XF_STAT) : (xfDispatch r).Within ch R := ⟨hx, xfStat_within hs⟩
theorem xfAbort_within {r : Nat} (M : MemoryFrame ch) (hc : .clk ∈ ch) (hx : .xf ∈ ch) (hs : R XF_STAT) :
    (xfAbort r).Within ch R := by
  intro s
  dsimp only
  split
  · exact ⟨hx, undefDest_within M hc, xfStat_within hs, trivial⟩
  · exact ⟨hx, xfStat_within hs⟩
theorem xfEnd_within {r st v w : Nat} (L : LaneFrame ch R) : (xfEnd r st v w).Within ch R :=
  ⟨L.xf, xfStat_within L.xfStat, bump_within L.ended, leaves_when (bump_within L.outFull), leaves_when (bump_within L.tagFail),
    leaves_when (bump_within L.formatFail), endReq_within L.loom, trivial⟩
theorem bindKey_within {k f : Nat} {bad : Act} {ok : Nat → Act} (L : LaneFrame ch R) (hm : R XF_KEY_MISS)
    (hk : R (XF_SLOT k)) (hb : bad.Within ch R) (ho : ∀ n, (ok n).Within ch R) : (bindKey k f bad ok).Within ch R := by
  refine leaves_read.2 fun s => ?_
  split
  · exact ⟨L.xf, ho _⟩
  · refine leaves_seq.2 ⟨bump_within hm, ?_⟩
    split
    · exact ⟨L.xf, xfStat_within L.xfStat, ho _, trivial⟩
    · exact ⟨keyErase_within L.xf L.xfStat hk, rasLog_within L.toLogFrame, hb, trivial⟩

/-! ### Functions

Where an act tests bytes of memory, the read before it is taken off by `leaves_read`: the kernel then does not evaluate the
test. -/

theorem loomStat_within {f : Nat} (F : FnFrame ch R f) : (loomStat f).Within ch R := fun _ =>
  ⟨setFs_within F.loomStat, setFs_within F.fstat, trivial⟩
theorem setFstate_within {f st : Nat} (F : FnFrame ch R f) : (setFstate f st).Within ch R :=
  ⟨setF_within F.fstat, leaves_when F.loom, loomStat_within F, trivial⟩
theorem fnTouched_within {f : Nat} (hl : .loom ∈ ch) : (fnTouched f).Within ch R := fun _ => hl
theorem park_within {f : Nat} (F : FnFrame ch R f) (hp : R LOOM_PARK) : (park f).Within ch R := fun _ =>
  leaves_ite trivial ⟨F.loom, bump_within hp, loomStat_within F, trivial⟩
theorem signalQ_within {f q : Nat} (V : VectorFrame ch R) (hl : .loom ∈ ch) : (signalQ f q).Within ch R := by
  refine fun s => ⟨hl, ?_, trivial⟩
  split
  · exact raiseVector_within V
  · trivial
theorem queueError_within {f q e : Nat} (V : VectorFrame ch R) (hl : .loom ∈ ch) (hq : R (LOOM_QCTL f q))
    (he : R LOOM_QERR) : (queueError f q e).Within ch R := fun _ =>
  leaves_ite trivial ⟨setFs_within hq, bump_within he, leaves_when (signalQ_within V hl), trivial⟩
theorem contextFail_within {f : Nat} (F : FnFrame ch R f) (L : LogFrame ch R) : (contextFail f).Within ch R := fun _ =>
  ⟨setFstate_within F, rasLog_within L, trivial⟩
theorem loadContext_within {f : Nat} (F : FnFrame ch R f) (L : LogFrame ch R) (hn : R LOOM_CTX_LOAD) :
    (loadContext f).Within ch R := leaves_read.2 fun _ =>
  leaves_ite (contextFail_within F L) ⟨setF_within F.fstat, F.loom, F.loom, bump_within hn, loomStat_within F, trivial⟩
theorem evictContext_within {f : Nat} (F : FnFrame ch R f) (M : MemoryFrame ch) (hc : .clk ∈ ch) (hn : R LOOM_CTX_EVICT) :
    (evictContext f).Within ch R := withFree_within hc fun _ _ =>
  ⟨wrCoh_within M, setF_within F.fstat, F.loom, bump_within hn, loomStat_within F, trivial⟩

/-! ### Doorbells and queue registers -/

theorem doorbellGate_within {f q : Nat} {a : Act} (D : DoorbellFrame ch R f) (ha : a.Within ch R) :
    (doorbellGate f q a).Within ch R := fun _ =>
  leaves_ite (bump_within D.dropped) <| leaves_ite (bump_within D.frozen) <| leaves_ite trivial
    ⟨bump_within D.db, ha, fnTouched_within D.loom, park_within D.toFnFrame D.parked, trivial⟩
theorem DoorbellFrame.error {f q e : Nat} (D : DoorbellFrame ch R f) (hq : R (LOOM_QCTL f q)) :
    (queueError f q e).Within ch R := queueError_within D.toVectorFrame D.loom hq D.qerr
theorem sqTailWrite_within {f q : Nat} {v : W64} (D : DoorbellFrame ch R f) (hq : R (LOOM_QCTL f q))
    (hs : R (LOOM_SQ_TAIL f q)) : (sqTailWrite f q v).Within ch R :=
  doorbellGate_within D fun _ => leaves_ite (D.error hq) (setF_within hs)
theorem cqHeadWrite_within {f q : Nat} {v : W64} (D : DoorbellFrame ch R f) (hq : R (LOOM_QCTL f q))
    (hs : R (LOOM_CQ_HEAD f q)) : (cqHeadWrite f q v).Within ch R :=
  doorbellGate_within D fun _ => leaves_ite (D.error hq) (setF_within hs)
theorem qctlWrite_within {f q : Nat} {m v : W64} (hl : .loom ∈ ch) (hq : R (LOOM_QCTL f q)) (ht : R (LOOM_SQ_TAIL f q))
    (hc : R (LOOM_CQ_HEAD f q)) : (qctlWrite f q m v).Within ch R := fun _ =>
  leaves_ite trivial <| leaves_ite (leaves_ite ⟨hq, setFs_within hq, ht, hc, hl, trivial⟩ ⟨hq, setFs_within hq, trivial⟩)
    ⟨hq, leaves_when (setF_within hq), trivial⟩

/-! ### Requests -/

theorem startMedia_within {r : Nat} {q : LoomReq} (F : StartFrame ch R) : (startMedia r q).Within ch R := fun _ =>
  leaves_ite (endReq_within F.loom) <| takeSlot_within F.toSlotFrame fun _ =>
    ⟨F.loom, leaves_ite (pickEnter_within F.toPickFrame F.toPlaceFrame F.heap) (placeSlot_within F.toPlaceFrame), trivial⟩
theorem startBatten_within {r : Nat} {q : LoomReq} (F : StartFrame ch R) : (startBatten r q).Within ch R := by
  have ends {st v d} : (endReq r st v d).Within ch R := endReq_within F.loom
  exact fun _ => leaves_ite
    (ioWith_within F.toIoFrame ends fun _ _ => leaves_ite ends <| leaves_ite ends <| leaves_ite ends <|
      winOpen_within F.toWindowFrame F.mesh F.coh)
    ⟨leaves_when (winClose_within F.toWindowFrame), ends⟩
/-- The start of a request, by its type (R175). -/
theorem startReq_within {r : Nat} (F : StartFrame ch R) : (startReq r).Within ch R := by
  intro s
  dsimp only
  split
  · trivial
  · refine ⟨F.loom, ?_, trivial⟩
    split
    · exact endReq_within F.loom
    · split
      · exact endReq_within F.loom
      · split
        · exact startMedia_within F
        · exact startMedia_within F
        · exact startBatten_within F
        · exact xfDispatch_within F.xf F.xfStat
        · trivial
theorem startQueue_within {f q : Nat} (F : StartFrame ch R) : (startQueue f q).Within ch R := fun _ =>
  leaves_each fun _ _ => leaves_ite (startReq_within F) trivial
theorem QueueFrame.error {f q e : Nat} (Q : QueueFrame ch R) : (queueError f q e).Within ch R :=
  queueError_within Q.toVectorFrame Q.loom (Q.qctl f q) Q.qerr
theorem writeCqe_within {q : LoomReq} {st v d : Nat} (Q : QueueFrame ch R) (hc : R LOOM_CQE) :
    (writeCqe q st v d).Within ch R := fun _ =>
  leaves_ite trivial <| ioWith_within Q.toIoFrame Q.error fun _ =>
    ⟨wrPieces_within Q.toMemoryFrame, bump_within hc, Q.loom, leaves_when (signalQ_within Q.toVectorFrame Q.loom), trivial⟩
theorem completeReq_within {r : Nat} (Q : QueueFrame ch R) (hc : R LOOM_CQE) : (completeReq r).Within ch R := by
  intro s
  dsimp only
  split
  · trivial
  · split
    · trivial
    · exact ⟨leaves_when (writeCqe_within Q hc), Q.loom, loomStat_within (Q.toFnFrame _), fnTouched_within Q.loom,
        startQueue_within Q.toStartFrame, trivial⟩
theorem fetchEntry_within {f q : Nat} (Q : QueueFrame ch R) (hn : R LOOM_FETCH_CNT) : (fetchEntry f q).Within ch R :=
  fun _ => ioWith_within Q.toIoFrame Q.error fun _ _ => leaves_ite Q.error <| leaves_ite trivial
    ⟨setF_within (Q.qctl f q), bump_within hn, Q.loom, loomStat_within (Q.toFnFrame f), fnTouched_within Q.loom,
      startQueue_within Q.toStartFrame, trivial⟩
theorem fetchOne_within {f : Nat} (Q : QueueFrame ch R) (hn : R LOOM_FETCH_CNT) : (fetchOne f).Within ch R := by
  refine fun s => leaves_ite trivial ?_
  split
  · trivial
  · exact ⟨Q.loom, fetchEntry_within Q hn⟩
theorem moveData_within {r f len fuel src dst n : Nat} {copy bad : Bool} (F : IoFrame ch R) (hl : .loom ∈ ch) :
    (moveData r f copy len fuel src dst n bad).Within ch R := by
  induction fuel generalizing src dst n bad with
  | zero => trivial
  | succ fuel ih =>
    have put {a k b p w x y z} : Act.Within ch R (ioWith f a k true (endReq r lsXlate b 0x0005) fun l =>
        .seq (wrPieces p l w) (moveData r f copy len fuel x y z (bad || p))) :=
      ioWith_within F (endReq_within hl) fun _ => ⟨wrPieces_within F.toMemoryFrame, ih⟩
    exact leaves_ite (endReq_within hl) <| leaves_ite (ioWith_within F (endReq_within hl) fun _ _ => put) put
/-- A forced quiesce takes back what a request holds (R186). -/
theorem abortReq_within {r : Nat} (Q : QueueFrame ch R) (hc : R LOOM_CQE) : (abortReq r).Within ch R := by
  have undef {f va n} : (undefDest f va n).Within ch R := undefDest_within Q.toMemoryFrame Q.clk
  intro s
  dsimp only
  split
  · trivial
  · refine ⟨leaves_ite trivial ⟨?_, leaves_when (xfAbort_within Q.toMemoryFrame Q.clk Q.xf Q.xfStat), leaves_when undef,
      endReq_within Q.loom, trivial⟩, Q.loom, completeReq_within Q hc, trivial⟩
    split
    · intro s
      dsimp only
      split
      · trivial
      · exact ⟨Q.drv, leaves_ite (freeSlot_within Q.toSlotFrame) ⟨revoke_within Q.drv, leaves_when undef, trivial⟩⟩
    · trivial

/-! ### Function cards -/

theorem FuncCardFrame.no {c : CardCtx} {op st d : Nat} (F : FuncCardFrame ch R) : (answer0 c op st d).Within ch R :=
  answer0_within F.toReplyFrame
theorem FuncCardFrame.ok {c : CardCtx} {op : Nat} (F : FuncCardFrame ch R) : (answerOk c op).Within ch R :=
  answerOk_within F.toReplyFrame
theorem FuncCardFrame.refuse {c : CardCtx} {op b t : Nat} (F : FuncCardFrame ch R) : (answerRefused c op b t).Within ch R :=
  answerRefused_within F.toReplyFrame F.trans
theorem funcCard_within {c : CardCtx} {op f : Nat} {row : Nat → Option Nat} {body : State → Act} (F : FuncCardFrame ch R)
    (hb : ∀ s, (body s).Within ch R) : (funcCard c op f row body).Within ch R := by
  refine gated_within F.toReplyFrame F.cards fun s => leaves_ite F.no (leaves_ite F.no ?_)
  split
  · exact hb s
  · exact leaves_ite F.refuse (leaves_ite F.ok F.no)
theorem TenantFrame.sqTail {f : Nat} (T : TenantFrame ch R f) (q : Nat) : R (LOOM_SQ_TAIL f q) := T.queues _ (by simp [queueRegs])
theorem TenantFrame.cqHead {f : Nat} (T : TenantFrame ch R f) (q : Nat) : R (LOOM_CQ_HEAD f q) := T.queues _ (by simp [queueRegs])
theorem TenantFrame.sqBase {f : Nat} (T : TenantFrame ch R f) (q : Nat) : R (LOOM_QSQB f q) := T.queues _ (by simp [queueRegs])
theorem TenantFrame.cqBase {f : Nat} (T : TenantFrame ch R f) (q : Nat) : R (LOOM_QCQB f q) := T.queues _ (by simp [queueRegs])
theorem TenantFrame.qctl {f : Nat} (T : TenantFrame ch R f) (q : Nat) : R (LOOM_QCTL f q) := T.queues _ (by simp [queueRegs])
/-- The registers of the queues of a function take their reset values. -/
theorem resetQueues_within {f : Nat} {l : List Nat} (T : TenantFrame ch R f) : Act.Within ch R (.each l fun q => .all [
    resetReg (LOOM_SQ_TAIL f q), resetReg (LOOM_CQ_HEAD f q), resetReg (LOOM_QSQB f q), resetReg (LOOM_QCQB f q),
    resetReg (LOOM_QCTL f q)]) :=
  leaves_each fun q => ⟨T.sqTail q, T.cqHead q, T.sqBase q, T.cqBase q, T.qctl q, trivial⟩
theorem allocFn_within {f nq nv n c p e : Nat} {ts : List Nat} (T : TenantFrame ch R f) (hc : .clk ∈ ch) :
    (allocFn f nq nv n c p e ts).Within ch R := by
  refine withFree_within hc fun u s => ?_
  dsimp only
  generalize List.map _ (pickFree _ _ _ _ _) = vecs
  refine ⟨leaves_each fun p => ?_, wrCoh_within T.toMemoryFrame, resetQueues_within T, T.loom, setFs_within T.fstat,
    iotlbDropFunc_within T.iotlb T.inv, trivial⟩
  split
  · exact T.vecs _
  · trivial
theorem loadRecord_within {f q a : Nat} (T : TenantFrame ch R f) : (loadRecord f q a).Within ch R := fun _ =>
  ⟨T.sqBase q, T.cqBase q, T.qctl q, setF_within (T.sqTail q), setF_within (T.cqHead q), T.loom, trivial⟩

end Sys2Proof.Machine
end

section
/-! What the Shuttle's ports change (chapter 09). -/

set_option Elab.async false

namespace Sys2Proof.Machine

/-- What the FIFOs and the pause state of Shuttle port `p` change. -/
structure PortFrame (ch : List Part) (R : Nat → Prop) (p : Nat) : Prop where
  shu : .shu ∈ ch := by simp
  stat : R (SHU_PORT_STAT p) := by simp

/-- What the card SHUTTLE.PORT_CFG changes for port `p`. -/
structure PortCardFrame (ch : List Part) (R : Nat → Prop) (p : Nat) : Prop extends ReplyFrame ch R, PortFrame ch R p where
  cards : R DBY_CARDS := by simp
  flushed : R (SHU_RSN p 0x17) := by simp
  cfg : R (SHU_PORT_CFG p) := by simp
  mac : R (SHU_PORT_MAC p) := by simp
  thr : ∀ c, R (SHU_PFC_THR p c) := by simp
  lane : ∀ l, R (SHU_LANE l) := by simp
  mode : R SHU_MODE := by simp

/-- What the frames that port `p` receives change. -/
structure ReceiveFrame (ch : List Part) (R : Nat → Prop) (p : Nat) : Prop extends PortFrame ch R p where
  frames : R (SHU_RX_FRAMES p) := by simp
  paused : R (SHU_PAUSE_RX p) := by simp
  control : R (SHU_RSN p 0x16) := by simp

variable {ch : List Part} {R : Nat → Prop} {p : Nat}

/-! ### FIFOs and link -/

theorem rxStat_within (P : PortFrame ch R p) : (rxStat p).Within ch R := fun _ => setF_within P.stat
theorem pauseStat_within (P : PortFrame ch R p) : (pauseStat p).Within ch R := fun _ => setFs_within P.stat
theorem txFill_within (hs : .shu ∈ ch) : (txFill p).Within ch R := fun _ => hs
theorem txPut_within {f : TxFrame} (hs : .shu ∈ ch) : (txPut p f).Within ch R := ⟨hs, txFill_within hs⟩
theorem flushRx_within (P : PortFrame ch R p) (hr : R (SHU_RSN p 0x17)) : (flushRx p).Within ch R := fun _ =>
  ⟨addTo_within hr, P.shu, rxStat_within P, trivial⟩
theorem flushTx_within (hs : .shu ∈ ch) (hr : R (SHU_RSN p 0x17)) : (flushTx p).Within ch R := fun _ =>
  ⟨addTo_within hr, hs, txFill_within hs, trivial⟩
theorem setLink_within {b : Bool} (F : LineFrame ch R) (hs : R (SHU_PORT_STAT p)) : (setLink p b).Within ch R := fun _ =>
  leaves_ite trivial ⟨setF_within hs, sourceRaise_within F, trivial⟩

/-! ### The card -/

theorem portDisable_within (C : PortCardFrame ch R p) : (portDisable p).Within ch R :=
  ⟨flushTx_within C.shu C.flushed, flushRx_within C.toPortFrame C.flushed, C.shu, setLink_within C.toLineFrame C.stat,
    fun _ => leaves_each fun l => setFs_within (C.lane l), trivial⟩
theorem portApply_within {cfg mac : W64} {thr : List W64} (C : PortCardFrame ch R p) :
    (portApply p cfg mac thr).Within ch R := fun _ =>
  ⟨leaves_when (portDisable_within C), C.cfg, C.mac, leaves_each fun c => C.thr c, leaves_when C.shu, trivial⟩
theorem portCard_within {c : CardCtx} {mode op inv : Nat} {cfg mac : W64} {thr : List W64} (C : PortCardFrame ch R p) :
    (portCard c mode p op inv cfg mac thr).Within ch R := by
  refine gated_within C.toReplyFrame C.cards fun s => ?_
  split
  · exact answer0_within C.toReplyFrame
  · exact ⟨leaves_when ⟨setF_within C.mode, leaves_each fun l => setF_within (C.lane l), trivial⟩,
      leaves_when (portApply_within C), leaves_when (flushRx_within C.toPortFrame C.flushed),
      leaves_when (flushTx_within C.shu C.flushed), answerOk_within C.toReplyFrame, trivial⟩

/-! ### PAUSE, PFC and the MAC -/

theorem ctlQueue_within {q : Tab Nat} (P : PortFrame ch R p) : (ctlQueue p q).Within ch R := fun _ =>
  leaves_ite trivial ⟨P.shu, pauseStat_within P, trivial⟩
theorem pfcCheck_within {k : Nat} (P : PortFrame ch R p) : (pfcCheck p k).Within ch R := fun _ =>
  leaves_when (ctlQueue_within P)
theorem loadTimers_within {q : List (Nat × Nat)} (V : ReceiveFrame ch R p) : (loadTimers p q).Within ch R := fun _ =>
  ⟨bump_within V.paused, V.shu, pauseStat_within V.toPortFrame, trivial⟩
theorem ctlFrame_within {d o e : Nat} {q : List Nat} {g : Bool} (V : ReceiveFrame ch R p) :
    (ctlFrame p d o e q g).Within ch R := fun _ =>
  leaves_ite trivial ⟨bump_within V.frames, leaves_ite (loadTimers_within V) <|
    leaves_ite (loadTimers_within V) (bump_within V.control), trivial⟩
theorem rxFrame_within {d : List Byte} {g : Bool} (P : PortFrame ch R p) (hr : ∀ c, R (SHU_RSN p c)) :
    (rxFrame p d g).Within ch R := fun _ =>
  leaves_ite ⟨P.shu, rxStat_within P, pfcCheck_within P, trivial⟩ (bump_within (hr _))

/-! ### Rings -/

theorem ringFault_within {raw b : Bool} {a : Nat} (F : LogFrame ch R) (hr : R (ringBase raw p)) :
    (ringFault raw p a b).Within ch R := ⟨setF_within hr, rasLog_within F, sourceRaise_within F.toLineFrame, trivial⟩
theorem ringWrite_within {w raw : Bool} {m v : W64} (hb : R (ringBase raw p)) (hi : R (ringIdx raw p)) :
    (ringWrite w p raw m v).Within ch R := fun _ =>
  leaves_ite trivial (leaves_ite hb (leaves_ite ⟨hb, hi, trivial⟩ hb))
theorem rawTailWrite_within {w : Bool} {m v : W64} (hi : R (SHU_RAWQ_IDX p)) : (rawTailWrite w p m v).Within ch R :=
  fun _ => leaves_ite trivial hi
theorem toExq_within {c : Nat} {f : RxFrame} (F : LogFrame ch R) (M : MemoryFrame ch) (hb : R (SHU_EXQ_BASE p))
    (hi : R (SHU_EXQ_IDX p)) (hr : ∀ c, R (SHU_RSN p c)) : (toExq p c f).Within ch R := by
  have counted {c} : (countReason p c).Within ch R := bump_within (hr c)
  exact fun _ => leaves_ite counted <| leaves_ite counted <| leaves_ite ⟨ringFault_within F hb, counted⟩
    ⟨wrCoh_within M, wrCoh_within M, setF_within hi, counted,
      fun _ => leaves_when (sourceRaise_within F.toLineFrame), trivial⟩

end Sys2Proof.Machine
end

section
/-! What the Shuttle transport changes (chapter 10). -/

set_option Elab.async false

namespace Sys2Proof.Machine

/-- What the status of queue pairs changes. -/
structure QpStatFrame (ch : List Part) (R : Nat → Prop) : Prop where
  shu : .shu ∈ ch := by simp
  xpStat : R SHU_XP_STAT := by simp [qpRegs, qpDoneRegs]
  qstat : ∀ f i, R (SHU_QSTAT f i) := by simp [qpRegs, qpDoneRegs]

/-- What completions of queue pairs, and their way to ERROR, change. -/
structure QpFrame (ch : List Part) (R : Nat → Prop) : Prop extends IoFrame ch R, VectorFrame ch R, QpStatFrame ch R where
  cqHead : ∀ f i, R (SHU_CQ_HEAD f i) := by simp [qpRegs, qpDoneRegs]

/-- What an operation of SHU_QP_CMD changes as it ends. -/
structure CmdFrame (ch : List Part) (R : Nat → Prop) : Prop extends QpStatFrame ch R where
  cmd : R SHU_QP_CMD := by simp [qpRegs]
  sqTail : ∀ f i, R (SHU_SQ_TAIL f i) := by simp [qpRegs]
  rqTail : ∀ f i, R (SHU_RQ_TAIL f i) := by simp [qpRegs]
  cqHead : ∀ f i, R (SHU_CQ_HEAD f i) := by simp [qpRegs]

/-- What a packet changes that comes to a queue pair (checks 1 to 4 of Table 10.11). -/
structure InboundFrame (ch : List Part) (R : Nat → Prop) : Prop extends QpFrame ch R, CmdFrame ch R where
  clk : .clk ∈ ch := by simp
  miss : R SHU_CTX_MISS := by simp
  cnp : R SHU_CNP_TX := by simp
  checks : ∀ c ∈ [1, 2, 3, 4], R (SHU_TRN c) := by simp

/-- What an RC request changes beyond that (checks of R290 and R294). -/
structure RequestFrame (ch : List Part) (R : Nat → Prop) : Prop extends InboundFrame ch R where
  served : R (SHU_TRN 0) := by simp
  refused : ∀ c ∈ [6, 7, 8, 9, 10], R (SHU_TRN c) := by simp

variable {ch : List Part} {R : Nat → Prop} {q : Nat}

theorem withQp_within {k : State → Qp → Act} (hk : ∀ s x, (k s x).Within ch R) : (withQp q k).Within ch R := by
  refine leaves_read.2 fun s => ?_
  split
  · exact hk s _
  · trivial
theorem trn_within {c : Nat} (h : R (SHU_TRN c) := by simp) : (trn c).Within ch R := bump_within h
theorem modQp_within {f : Qp → Qp} (hs : .shu ∈ ch) : (modQp q f).Within ch R := hs
theorem qpStat_within (S : QpStatFrame ch R) : (qpStat q).Within ch R := fun _ =>
  ⟨setFs_within S.xpStat, withQp_within fun _ _ => setFs_within (S.qstat _ _), trivial⟩

/-! ### Completions and errors -/

theorem qpSignal_within {x : Qp} (V : VectorFrame ch R) : (qpSignal x).Within ch R := by
  intro s
  dsimp only
  split
  · exact raiseVector_within V
  · trivial
theorem qpComplete_within {c : Cqe} (Q : QpFrame ch R) : (qpComplete q c).Within ch R :=
  withQp_within fun _ _ => leaves_ite trivial <| ioWith_within Q.toIoFrame
    ⟨rasLog_within Q.toLogFrame, modQp_within Q.shu, qpStat_within Q.toQpStatFrame, trivial⟩
    fun _ => ⟨wrPieces_within Q.toMemoryFrame, modQp_within Q.shu,
      leaves_when ⟨setF_within (Q.cqHead _ _), qpSignal_within Q.toVectorFrame⟩, trivial⟩
theorem flushRing_within {b lg h t n o k : Nat} (Q : QpFrame ch R) : (flushRing q b lg h t n o k).Within ch R :=
  withQp_within fun _ _ => leaves_each fun _ => ioWith_within Q.toIoFrame trivial fun _ => leaves_read.2 fun _ =>
    leaves_ite trivial (qpComplete_within Q)
theorem qpFlush_within (Q : QpFrame ch R) : (qpFlush q).Within ch R := by
  refine withQp_within fun s x => ⟨modQp_within Q.shu, leaves_each fun _ => qpComplete_within Q, ?_, flushRing_within Q,
    flushRing_within Q, trivial⟩
  split
  · exact leaves_when (qpComplete_within Q)
  · trivial
theorem qpError_within {c : Nat} (Q : QpFrame ch R) : (qpError q c).Within ch R :=
  withQp_within fun _ _ => leaves_ite trivial ⟨modQp_within Q.shu, qpFlush_within Q,
    leaves_when (qpSignal_within Q.toVectorFrame), qpStat_within Q.toQpStatFrame, trivial⟩
theorem touchCtx_within (Q : QpFrame ch R) (hc : .clk ∈ ch) (hm : R SHU_CTX_MISS) : (touchCtx q).Within ch R :=
  leaves_read.2 fun _ => leaves_ite trivial <| withFree_within hc fun _ => leaves_all_cons.2 ⟨bump_within hm,
    leaves_all_cons.2 ⟨leaves_ite trivial ⟨wrCoh_within Q.toMemoryFrame, Q.shu, trivial⟩, leaves_all_cons.2 ⟨Q.shu,
      leaves_all_cons.2 ⟨leaves_when ⟨rasLog_within Q.toLogFrame, qpError_within Q⟩,
        qpStat_within Q.toQpStatFrame, trivial⟩⟩⟩⟩

/-! ### Operations and doorbells -/

theorem cmdDone_within {st : Nat} (hs : .shu ∈ ch) (hc : R SHU_QP_CMD) : (cmdDone st).Within ch R := ⟨setFs_within hc, hs⟩
theorem CmdFrame.done {st : Nat} (C : CmdFrame ch R) : (cmdDone st).Within ch R := cmdDone_within C.shu C.cmd
theorem qpFree_within (C : CmdFrame ch R) : (qpFree q).Within ch R := withQp_within fun _ _ =>
  ⟨C.shu, C.sqTail _ _, C.rqTail _ _, C.cqHead _ _, C.qstat _ _, qpStat_within C.toQpStatFrame, trivial⟩
theorem cmdSettle_within (C : CmdFrame ch R) : cmdSettle.Within ch R := by
  intro s
  dsimp only
  split
  · split
    · exact leaves_when ⟨qpFree_within C, C.done⟩
    · exact C.done
  · exact leaves_when C.done
  · trivial
theorem qpCmd_within {w : Bool} {op id : Nat} {body : State → Act} (hc : R SHU_QP_CMD) (hb : ∀ s, (body s).Within ch R) :
    (qpCmd w op id body).Within ch R := fun s => leaves_ite trivial ⟨setFs_within hc, hb s⟩
/-- A doorbell of a queue pair writes its register, or puts the queue pair in ERROR (R291). -/
theorem doorbellWrite_within {f i a : Nat} {lg : Qp → Nat} {v : W64} {g : Qp → Qp} (Q : QpFrame ch R) (C : CmdFrame ch R)
    (ha : R a) : (doorbellWrite f i a lg v g).Within ch R := by
  intro s
  dsimp only
  split
  · trivial
  · exact leaves_ite trivial <| leaves_ite ⟨qpError_within Q, cmdSettle_within C⟩
      ⟨ha, modQp_within Q.shu, leaves_when (qpFlush_within Q), trivial⟩

/-! ### Packets out -/

theorem sendPkt_within {x : Qp} {k : RocePkt} (hs : .shu ∈ ch) : (sendPkt x k).Within ch R := txPut_within hs
theorem sendAck_within {n : Nat} {a : AckKind} (hs : .shu ∈ ch) : (sendAck q n a).Within ch R :=
  withQp_within fun _ _ => sendPkt_within hs
theorem ackNow_within (hs : .shu ∈ ch) : (ackNow q).Within ch R :=
  withQp_within fun _ _ => ⟨sendAck_within hs, modQp_within hs⟩
theorem served_within (hs : .shu ∈ ch) : (served q).Within ch R :=
  withQp_within fun _ _ => leaves_ite (ackNow_within hs) (modQp_within hs)
theorem nak_within {n c t : Nat} (hs : .shu ∈ ch) (ht : R (SHU_TRN t)) : (nak q n c t).Within ch R :=
  ⟨sendAck_within hs, trn_within ht⟩
theorem wrFail_within {w : SendWr} {st c : Nat} (Q : QpFrame ch R) : (wrFail q w st c).Within ch R := fun _ =>
  ⟨modQp_within Q.shu, qpComplete_within Q, qpError_within Q, trivial⟩
theorem sendWr_within {w : SendWr} {n : Nat} {b : Bool} (Q : QpFrame ch R) (hr : R SHU_RETX) : (sendWr q w n b).Within ch R :=
  withQp_within fun _ _ => leaves_ite ⟨sendPkt_within Q.shu, leaves_when (bump_within hr)⟩ <|
    ioWith_within Q.toIoFrame (wrFail_within Q) fun _ => leaves_read.2 fun _ => leaves_ite (wrFail_within Q) <|
      leaves_seq.2 ⟨leaves_each fun _ => sendPkt_within Q.shu, leaves_when (addTo_within hr)⟩
theorem qpResend_within (Q : QpFrame ch R) (hr : R SHU_RETX) : (qpResend q).Within ch R :=
  withQp_within fun _ _ => ⟨leaves_each fun _ => sendWr_within Q hr, modQp_within Q.shu⟩
theorem startRc_within {e : Line} (Q : QpFrame ch R) (hr : R SHU_RETX) : (startRc q e).Within ch R :=
  withQp_within fun _ _ => ⟨modQp_within Q.shu, sendWr_within Q hr, trivial⟩
theorem startUd_within {e : Line} (Q : QpFrame ch R) : (startUd q e).Within ch R :=
  withQp_within fun _ _ => ioWith_within Q.toIoFrame (wrFail_within Q) fun _ => leaves_read.2 fun _ =>
    leaves_ite (wrFail_within Q) ⟨sendPkt_within Q.shu, modQp_within Q.shu, leaves_when (qpComplete_within Q), trivial⟩

/-! ### Packets in -/

theorem cnpFor_within {k : InPkt} (hs : .shu ∈ ch) (hc : R SHU_CNP_TX) : (cnpFor q k).Within ch R :=
  withQp_within fun _ _ => leaves_ite trivial ⟨sendPkt_within hs, bump_within hc, modQp_within hs, trivial⟩
theorem InboundFrame.check {c : Nat} (I : InboundFrame ch R) (h : c ∈ [1, 2, 3, 4] := by simp) : (trn c).Within ch R :=
  trn_within (I.checks c h)
/-- A packet changes what its checks and its own service change. -/
theorem inbound_within {kind : Nat → Bool} {body : InPkt → Nat → Act} (I : InboundFrame ch R)
    (hb : ∀ k q, (body k q).Within ch R) : (inbound kind body).Within ch R := by
  have Q := I.toQpFrame
  refine leaves_read.2 fun s => ?_
  split
  · trivial
  · next k r _ =>
    refine leaves_ite trivial ⟨I.shu, leaves_ite I.check ?_, cmdSettle_within I.toCmdFrame, trivial⟩
    split
    · exact I.check
    · exact leaves_ite I.check ⟨touchCtx_within Q I.clk I.miss, withQp_within fun _ _ => leaves_ite I.check <|
        leaves_ite ⟨qpError_within Q, I.check⟩ <| leaves_ite I.check ⟨cnpFor_within I.shu I.cnp, hb k _⟩⟩
theorem RequestFrame.refuse {c : Nat} (F : RequestFrame ch R) (h : c ∈ [6, 7, 8, 9, 10] := by simp) :
    (trn c).Within ch R := trn_within (F.refused c h)
theorem RequestFrame.nak {n w c : Nat} (F : RequestFrame ch R) (h : c ∈ [6, 7, 8, 9, 10] := by simp) :
    (nak q n w c).Within ch R := nak_within F.shu (F.refused c h)
theorem rcRequest_within {k : InPkt} {a b : Act} (F : RequestFrame ch R) (ha : a.Within ch R) (hb : b.Within ch R) :
    (rcRequest k q a b).Within ch R :=
  withQp_within fun _ _ => leaves_ite ⟨sendAck_within F.shu, F.refuse⟩ <| leaves_ite F.nak <|
    leaves_ite ⟨modQp_within F.shu, ha⟩ <| leaves_ite
      ⟨F.refuse, leaves_ite trivial ⟨sendAck_within F.shu, modQp_within F.shu⟩⟩ ⟨F.refuse, hb⟩
theorem recvEntry_within {a b : Act} {k : Nat → Nat → Nat → Act} (Q : QpFrame ch R) (ha : a.Within ch R)
    (hb : b.Within ch R) (hk : ∀ x y z, (k x y z).Within ch R) : (recvEntry q a b k).Within ch R :=
  withQp_within fun _ _ => leaves_ite ha <| ioWith_within Q.toIoFrame hb fun _ => leaves_read.2 fun _ =>
    leaves_ite hb ⟨modQp_within Q.shu, hk _ _ _⟩
theorem psnStep_within {n : Nat} {b : Bool} (hs : .shu ∈ ch) : (psnStep q n b).Within ch R := modQp_within hs
theorem recvFail_within {k : InPkt} {w st : Nat} (F : RequestFrame ch R) : (recvFail k q w st).Within ch R :=
  ⟨modQp_within F.shu, qpComplete_within F.toQpFrame, nak_within F.shu F.served, qpError_within F.toQpFrame, trivial⟩
theorem sendData_within {k : InPkt} (F : RequestFrame ch R) : (sendData k q).Within ch R := by
  refine withQp_within fun s x => ?_
  split
  · trivial
  · exact leaves_ite (recvFail_within F) <| ioWith_within F.toIoFrame (recvFail_within F) fun _ =>
      ⟨wrPieces_within F.toMemoryFrame, modQp_within F.shu, psnStep_within F.shu,
        leaves_when (qpComplete_within F.toQpFrame), trn_within F.served, served_within F.shu, trivial⟩

/-! ### Regions and RDMA -/

theorem regionWith_within {k v n : Nat} {w : Bool} {a b : Act} (L : LogFrame ch R) (hs : .shu ∈ ch) (ha : a.Within ch R)
    (hb : b.Within ch R) : (regionWith q k v n w a b).Within ch R :=
  withQp_within fun _ _ => leaves_ite ha <| leaves_ite ⟨hs, rasLog_within L, ha, trivial⟩ (leaves_ite hb ha)
/-- What an inbound write into landing windows changes (R146). -/
structure LandFrame (ch : List Part) (R : Nat → Prop) : Prop where
  mesh : .mesh ∈ ch := by simp
  coh : .coh ∈ ch := by simp
  btn : .btn ∈ ch := by simp
  dup : R BTN_DUP := by simp
  linesIn : R BTN_LINES_IN := by simp
  reject : R BTN_REJECT := by simp
  stat : R BTN_STAT := by simp
theorem winReject_within {a f : Nat} (W : LandFrame ch R) : (winReject a f).Within ch R :=
  ⟨bump_within W.reject, leaves_when (bump_within W.dup), leaves_when W.btn, trivial⟩
theorem winLand_within {a : Nat} {d : Line} {b : Bool} (W : LandFrame ch R) : (winLand a d b).Within ch R := fun _ =>
  ⟨W.btn, bump_within W.linesIn, leaves_when W.btn, btnStat_within W.stat,
    leaves_each fun _ => leaves_ite (winSend_within W.mesh W.coh) (winSend_within W.mesh W.coh), trivial⟩
theorem winWrite_within {a n : Nat} {d : Line} {b : Bool} {x : WinSrc} (W : LandFrame ch R) :
    (winWrite a n d b x).Within ch R := by
  refine leaves_read.2 fun s => ?_
  split
  · exact winReject_within W
  · exact winLand_within W
theorem winWriteLines_within {f a : Nat} {b : List Byte} (W : LandFrame ch R) : (winWriteLines f a b).Within ch R :=
  leaves_each fun _ => winWrite_within W
/-- Each piece of an inbound write goes to memory or to a landing window. -/
theorem remoteWrite_within {f : Nat} {bad ok : Act} {l : List (Nat × Nat)} {got : List (Nat × Nat × Bool)} {b : List Byte}
    (F : IoFrame ch R) (W : LandFrame ch R) (hb : bad.Within ch R) (ho : ok.Within ch R) :
    (remoteWrite f bad ok l got b).Within ch R := by
  induction l generalizing got with
  | nil =>
    exact ⟨foldl_within trivial fun _ _ h => ⟨h, leaves_ite (winWriteLines_within W) (wrCoh_within F.toMemoryFrame)⟩, ho⟩
  | cons p r ih =>
    refine leaves_read.2 fun s => ?_
    dsimp only
    split
    · exact ih
    · refine leaves_seq.2 ⟨ioDone_within F, ?_⟩
      split
      · exact hb
      · exact ih
theorem writeData_within {k : InPkt} {o : Option Nat} (F : RequestFrame ch R) (W : LandFrame ch R) (hn : R (SHU_TRN 11)) :
    (writeData k q o).Within ch R := by
  refine withQp_within fun s x => ?_
  split
  · trivial
  · refine remoteWrite_within F.toIoFrame W ⟨modQp_within F.shu, nak_within F.shu hn⟩
      ⟨modQp_within F.shu, psnStep_within F.shu, ?_, trn_within F.served, served_within F.shu, trivial⟩
    split
    · exact qpComplete_within F.toQpFrame
    · trivial

/-! ### The initiator -/

theorem ackUpTo_within {n : Nat} {l : List SendWr} (Q : QpFrame ch R) : (ackUpTo q n l).Within ch R := by
  induction l with
  | nil => exact modQp_within Q.shu
  | cons w r ih =>
    exact leaves_read.2 fun _ =>
      leaves_ite ⟨modQp_within Q.shu, leaves_when (qpComplete_within Q), ih, trivial⟩ (modQp_within Q.shu)
theorem shuProgress_within (hs : .shu ∈ ch) : (shuProgress q).Within ch R := fun _ => modQp_within hs
theorem oldestFail_within {st c : Nat} (Q : QpFrame ch R) : (oldestFail q st c).Within ch R := by
  refine withQp_within fun s x => ?_
  split
  · exact wrFail_within Q
  · trivial

end Sys2Proof.Machine
end

section
/-! What the commands of chapters 06 and 11 and of the IOTLB leave unchanged. -/

set_option Elab.async false

namespace Sys2Proof.Machine

variable {F : Frame} {s : State}

/-! ### Function cards -/

theorem funcCreate_bounds {c : CardCtx} {f nq nv n x p e : Nat} {ts : List Nat}
    (hF : engineFrame (.funcCreate c f nq nv n x p e ts) = some F) :
    F.Bounds s (execFuncCreate c f nq nv n x p e ts s) := by
  have card : FuncCardFrame F.parts F.writes := by cases hF; exact {}
  have tenant : TenantFrame F.parts F.writes f := by cases hF; exact {}
  refine Frame.bounds_commit <| funcCard_within card fun s => ?_
  split
  · exact card.no
  · split
    · exact card.no
    · exact ⟨allocFn_within tenant (by cases hF; simp), setFstate_within tenant.toFnFrame, card.ok, trivial⟩
theorem funcQuiesce_bounds {c : CardCtx} {f t : Nat} {b : Bool} (hF : engineFrame (.funcQuiesce c f t b) = some F) :
    F.Bounds s (execFuncQuiesce c f t b s) := by
  have card : FuncCardFrame F.parts F.writes := by cases hF; exact { irq := fun _ h => by simp [logRegs_of_irqRegs h] }
  have queues : QueueFrame F.parts F.writes := by cases hF; exact {}
  have stat : F.writes DBY_STAT := by cases hF; simp
  have cqe : F.writes LOOM_CQE := by cases hF; simp
  have goes {st} : (setFstate f st).Within F.parts F.writes := setFstate_within (queues.toFnFrame f)
  exact Frame.bounds_commit <| funcCard_within card fun s => leaves_ite card.no <| accept_within card.toReplyFrame stat
    ⟨goes, queues.loom, leaves_when ⟨queues.loom, leaves_each fun _ => abortReq_within queues cqe, goes,
      finish_within card.toReplyFrame stat, trivial⟩, trivial⟩
theorem funcQuiesceDone_bounds {f : Nat} (hF : engineFrame (.funcQuiesceDone f) = some F) :
    F.Bounds s (execFuncQuiesceDone f s) := by
  cases hF
  exact Frame.bounds_commit (leaves_ite trivial ⟨setFstate_within {}, finish_within {} (by simp), trivial⟩)
theorem funcQuiesceTimeout_bounds {f : Nat} (hF : engineFrame (.funcQuiesceTimeout f) = some F) :
    F.Bounds s (execFuncQuiesceTimeout f s) := by
  cases hF
  exact Frame.bounds_commit (leaves_ite trivial ⟨advanceTo_within {}, finish_within {} (by simp), trivial⟩)
theorem funcFreeze_bounds {c : CardCtx} {f : Nat} (hF : engineFrame (.funcFreeze c f) = some F) :
    F.Bounds s (execFuncFreeze c f s) := by
  have card : FuncCardFrame F.parts F.writes := by cases hF; exact {}
  have fn : FnFrame F.parts F.writes f := by cases hF; exact {}
  exact Frame.bounds_commit <| funcCard_within card fun s => leaves_ite card.refuse ⟨setFstate_within fn, card.ok, trivial⟩
theorem funcSave_bounds {c : CardCtx} {f b : Nat} (hF : engineFrame (.funcSave c f b) = some F) :
    F.Bounds s (execFuncSave c f b s) := by
  have card : FuncCardFrame F.parts F.writes := by cases hF; exact {}
  have stat : F.writes DBY_STAT := by cases hF; simp
  exact Frame.bounds_commit <| funcCard_within card fun s => leaves_ite card.no <| leaves_ite card.no <|
    accept_within card.toReplyFrame stat ⟨wrCoh_within card.toMemoryFrame, finish_within card.toReplyFrame stat, trivial⟩
theorem funcRestore_bounds {c : CardCtx} {f nv x p e b : Nat} {ts : List Nat}
    (hF : engineFrame (.funcRestore c f nv x p e b ts) = some F) : F.Bounds s (execFuncRestore c f nv x p e b ts s) := by
  have card : FuncCardFrame F.parts F.writes := by cases hF; exact {}
  have tenant : TenantFrame F.parts F.writes f := by cases hF; exact {}
  have stat : F.writes DBY_STAT := by cases hF; simp
  refine Frame.bounds_commit <| funcCard_within card fun s => ?_
  split
  · exact card.no
  · exact accept_within card.toReplyFrame stat ⟨allocFn_within tenant (by cases hF; simp),
      leaves_each fun _ => loadRecord_within tenant, setFstate_within tenant.toFnFrame,
      finish_within card.toReplyFrame stat, trivial⟩
theorem funcResume_bounds {c : CardCtx} {f : Nat} (hF : engineFrame (.funcResume c f) = some F) :
    F.Bounds s (execFuncResume c f s) := by
  have card : FuncCardFrame F.parts F.writes := by cases hF; exact {}
  have fn : FnFrame F.parts F.writes f := by cases hF; exact {}
  have vectors : VectorFrame F.parts F.writes := by cases hF; exact {}
  exact Frame.bounds_commit <| funcCard_within card fun s =>
    ⟨setFstate_within fn, leaves_each fun _ => signalQ_within vectors fn.loom, fnTouched_within fn.loom,
      leaves_when (park_within fn (by cases hF; simp)), card.ok, trivial⟩
theorem funcDestroy_bounds {c : CardCtx} {f : Nat} (hF : engineFrame (.funcDestroy c f) = some F) :
    F.Bounds s (execFuncDestroy c f s) := by
  have card : FuncCardFrame F.parts F.writes := by cases hF; exact {}
  have tenant : TenantFrame F.parts F.writes f := by cases hF; exact {}
  obtain ⟨xf, stat, slots⟩ : .xf ∈ F.parts ∧ F.writes XF_STAT ∧ ∀ k, F.writes (XF_SLOT k) := by cases hF; simp
  unfold execFuncDestroy
  generalize he : keyEraseFunc f = erase
  exact Frame.bounds_commit <| funcCard_within card fun s => leaves_ite card.refuse
    ⟨wrCoh_within card.toMemoryFrame, leaves_each fun v => vectorClear_within card.mesh card.hrn (tenant.vecs v),
      keyEraseFunc_within xf stat slots he, iotlbDropFunc_within tenant.iotlb tenant.inv, resetQueues_within tenant, tenant.fstat, tenant.loom,
      loomStat_within tenant.toFnFrame, card.ok, trivial⟩
theorem funcReset_bounds {c : CardCtx} {f : Nat} (hF : engineFrame (.funcReset c f) = some F) :
    F.Bounds s (execFuncReset c f s) := by
  have card : FuncCardFrame F.parts F.writes := by cases hF; exact {}
  have fn : FnFrame F.parts F.writes f := by cases hF; exact {}
  have queue q : F.writes (LOOM_QCTL f q) ∧ F.writes (LOOM_SQ_TAIL f q) ∧ F.writes (LOOM_CQ_HEAD f q) := by
    cases hF; simp
  exact Frame.bounds_commit <| funcCard_within card fun s => leaves_ite card.refuse
    ⟨leaves_each fun q => ⟨setFs_within (queue q).1, (queue q).2.1, (queue q).2.2, fn.loom, trivial⟩,
      iotlbDropFunc_within (by cases hF; simp) (by cases hF; simp), setFstate_within fn, card.ok, trivial⟩

/-! ### Queues -/

theorem loomSqTailWrite_bounds {f q : Nat} {v : W64} (hF : engineFrame (.loomSqTailWrite f q v) = some F) :
    F.Bounds s (execLoomSqTailWrite f q v s) := by
  cases hF
  exact Frame.bounds_commit (sqTailWrite_within {} (by simp) (by simp))
theorem loomCqHeadWrite_bounds {f q : Nat} {v : W64} (hF : engineFrame (.loomCqHeadWrite f q v) = some F) :
    F.Bounds s (execLoomCqHeadWrite f q v s) := by
  cases hF
  exact Frame.bounds_commit (cqHeadWrite_within {} (by simp) (by simp))
theorem loomQueueEnable_bounds {f q : Nat} {v : W64} (hF : engineFrame (.loomQueueEnable f q v) = some F) :
    F.Bounds s (execLoomQueueEnable f q v s) := by
  cases hF
  exact Frame.bounds_commit (qctlWrite_within (by simp) (by simp) (by simp) (by simp))
theorem loomQueueDisable_bounds {f q : Nat} {v : W64} (hF : engineFrame (.loomQueueDisable f q v) = some F) :
    F.Bounds s (execLoomQueueDisable f q v s) := by
  cases hF
  exact Frame.bounds_commit (qctlWrite_within (by simp) (by simp) (by simp) (by simp))
theorem contextSwap_bounds (hF : engineFrame .contextSwap = some F) : F.Bounds s (execContextSwap s) := by
  have fn f : FnFrame F.parts F.writes f := by cases hF; exact {}
  have log : LogFrame F.parts F.writes := by cases hF; exact {}
  have load {g} : (loadContext g).Within F.parts F.writes := loadContext_within (fn g) log (by cases hF; simp)
  refine Frame.bounds_commit ?_
  split
  · trivial
  · refine leaves_ite load ?_
    split
    · trivial
    · next v _ =>
      exact leaves_ite (contextFail_within (fn v) log)
        ⟨evictContext_within (fn v) (by cases hF; exact {}) (by cases hF; simp) (by cases hF; simp),
          leaves_when (park_within (fn v) (by cases hF; simp)), load, trivial⟩
theorem residencyQuantumExpiry_bounds {f : Nat} (hF : engineFrame (.residencyQuantumExpiry f) = some F) :
    F.Bounds s (execResidencyQuantumExpiry f s) := by
  cases hF
  exact Frame.bounds_commit (leaves_ite trivial ⟨advanceTo_within {}, loom_within, trivial⟩)
theorem loomFetch_bounds (hF : engineFrame .loomFetch = some F) : F.Bounds s (execLoomFetch s) := by
  have queues : QueueFrame F.parts F.writes := by cases hF; exact {}
  refine Frame.bounds_commit ?_
  split
  · trivial
  · exact ⟨queues.loom, leaves_each fun _ => fetchOne_within queues (by cases hF; simp), trivial⟩
theorem loomCompletion_bounds {r : Nat} (hF : engineFrame (.loomCompletion r) = some F) :
    F.Bounds s (execLoomCompletion r s) := by
  have queues : QueueFrame F.parts F.writes := by cases hF; exact {}
  refine Frame.bounds_commit ?_
  split
  · trivial
  · exact ⟨leaves_when (moveData_within queues.toIoFrame queues.loom), completeReq_within queues (by cases hF; simp)⟩
theorem coalesceTimerExpiry_bounds {f q : Nat} (hF : engineFrame (.coalesceTimerExpiry f q) = some F) :
    F.Bounds s (execCoalesceTimerExpiry f q s) := by
  cases hF
  exact Frame.bounds_commit (leaves_ite trivial
    ⟨advanceTo_within {}, signalQ_within {} (by simp), fnTouched_within (by simp), trivial⟩)

/-! ### Transforms -/

theorem xformLaneStart_bounds {l : Nat} (hF : engineFrame (.xformLaneStart l) = some F) :
    F.Bounds s (execXformLaneStart l s) := by
  have lane : LaneFrame F.parts F.writes := by cases hF; exact {}
  have miss : F.writes XF_KEY_MISS := by cases hF; simp
  have slot k : F.writes (XF_SLOT k) := by cases hF; simp
  refine Frame.bounds_commit ?_
  split
  · trivial
  · next r _ =>
    split
    · trivial
    · have fail {st w} : (xfEnd r st 0 w).Within F.parts F.writes := xfEnd_within lane
      have go {f} : Act.Within F.parts F.writes (.all [.xf f, xfStat]) := ⟨lane.xf, xfStat_within lane.xfStat, trivial⟩
      exact leaves_ite fail <| ioWith_within lane.toIoFrame fail fun _ => leaves_read.2 fun _ =>
        leaves_ite ⟨rasLog_within lane.toLogFrame, fail, trivial⟩ <| leaves_ite fail <|
        leaves_ite (leaves_ite fail <| leaves_ite fail go) <| leaves_ite fail <| leaves_ite fail <| leaves_ite fail <|
        bindKey_within lane miss (slot _) fail fun _ => go
theorem xformComplete_bounds {r : Nat} (hF : engineFrame (.xformComplete r) = some F) :
    F.Bounds s (execXformComplete r s) := by
  have lane : LaneFrame F.parts F.writes := by cases hF; exact {}
  have memory : MemoryFrame F.parts := lane.toMemoryFrame
  have bytesOut {n} : (addTo XF_BYTES_OUT n).Within F.parts F.writes := addTo_within (by cases hF; simp)
  have undef {f va n} : (undefDest f va n).Within F.parts F.writes := undefDest_within memory (by cases hF; simp)
  have ends {st v w} : (xfEnd r st v w).Within F.parts F.writes := xfEnd_within lane
  refine Frame.bounds_commit ?_
  split
  · refine ioWith_within lane.toIoFrame ends fun l => leaves_read.2 fun s => leaves_seq.2
      ⟨addTo_within (by cases hF; simp), leaves_ite (leaves_all_cons.2 ⟨?_, rasLog_within lane.toLogFrame, ends, trivial⟩) ?_⟩
    · split
      · exact ioWith_within lane.toIoFrame trivial fun _ => wrPieces_within memory
      · exact undef
      · exact undef
      · trivial
    · split
      · exact ioWith_within lane.toIoFrame ends fun _ => ⟨wrPieces_within memory, bytesOut, ends, trivial⟩
      · exact ⟨undef, ends, trivial⟩
      · exact ioWith_within lane.toIoFrame ends fun _ =>
          ⟨wrPieces_within memory, leaves_when undef, bytesOut, ends, trivial⟩
  · trivial
theorem keyLoad_bounds {c : CardCtx} {k t f b : Nat} (hF : engineFrame (.keyLoad c k t f b) = some F) :
    F.Bounds s (execKeyLoad c k t f b s) := by
  have reply : ReplyFrame F.parts F.writes := by cases hF; exact {}
  have xf : .xf ∈ F.parts := by cases hF; simp
  have stat : F.writes XF_STAT := by cases hF; simp
  have slot : F.writes (XF_SLOT k) := by cases hF; simp
  have write {a l} : (wrCoh a l false).Within F.parts F.writes := wrCoh_within reply.toMemoryFrame
  have no {st d} : (answer0 c 0x0802 st d).Within F.parts F.writes := answer0_within reply
  exact Frame.bounds_commit <| gated_within reply (by cases hF; simp) fun s => leaves_ite no <| leaves_ite no <|
    leaves_ite no <| leaves_ite no <| leaves_ite no <| leaves_ite no <| leaves_ite
      ⟨write, keyErase_within xf stat slot, setF_within slot, answerOk_within reply, trivial⟩
      ⟨write, write, xf, setFs_within slot, keyUncache_within xf stat, answerOk_within reply, trivial⟩

/-! ### The IOTLB -/

theorem iotlbInvalidateFunction_bounds {w b : Bool} {v : W64} (hF : engineFrame (.iotlbInvalidateFunction w b v) = some F) :
    F.Bounds s (execIotlbInvalidateFunction w b v s) := by
  cases hF
  exact Frame.bounds_commit (iotlbInv_within (by simp) (by simp))
theorem iotlbInvalidatePage_bounds {w b : Bool} {v : W64} (hF : engineFrame (.iotlbInvalidatePage w b v) = some F) :
    F.Bounds s (execIotlbInvalidatePage w b v s) := by
  cases hF
  exact Frame.bounds_commit (iotlbInv_within (by simp) (by simp))
theorem iotlbInvalidateDone_bounds {w : Bool} (hF : engineFrame (.iotlbInvalidateDone w) = some F) :
    F.Bounds s (execIotlbInvalidateDone w s) := by
  cases hF
  exact Frame.bounds_commit (leaves_ite ⟨setF_within, bump_within, trivial⟩ trivial)

end Sys2Proof.Machine
end

section
/-! What the commands of chapters 07 and 08 leave unchanged. -/

set_option Elab.async false

namespace Sys2Proof.Machine

variable {F : Frame} {s : State}

/-! ### Root ports -/

theorem perstRelease_bounds {p : Nat} (hF : engineFrame (.perstRelease p) = some F) :
    F.Bounds s (execPerstRelease p s) := by
  cases hF
  refine Frame.bounds_commit ?_
  split
  · trivial
  · exact ⟨advanceTo_within {}, setF_within, fun _ => drv_within, trivial⟩
theorem pcieLinkUp_bounds {p b v l : Nat} (hF : engineFrame (.pcieLinkUp p b v l) = some F) :
    F.Bounds s (execPcieLinkUp p b v l s) := by
  cases hF
  exact Frame.bounds_commit <| whileLive_leaves <| leaves_ite trivial
    ⟨leaves_when setFs_within, drv_within, portLine_within {}, trivial⟩
theorem pcieLinkFailTimeout_bounds {p : Nat} (hF : engineFrame (.pcieLinkFailTimeout p) = some F) :
    F.Bounds s (execPcieLinkFailTimeout p s) := by
  cases hF
  refine Frame.bounds_commit <| whileLive_leaves ?_
  split
  · trivial
  · exact leaves_ite trivial ⟨advanceTo_within {}, rasLog_within {}, bump_within, drv_within, trivial⟩
theorem pcieSurpriseDown_bounds {p b : Nat} (hF : engineFrame (.pcieSurpriseDown p b) = some F) :
    F.Bounds s (execPcieSurpriseDown p b s) := by
  cases hF
  exact Frame.bounds_commit <| whileLive_leaves <| leaves_ite trivial (contain_within {})
theorem pcieErrorMessage_bounds {p b : Nat} {x y : Bool} (hF : engineFrame (.pcieErrorMessage p b x y) = some F) :
    F.Bounds s (execPcieErrorMessage p b x y s) := by
  cases hF
  exact Frame.bounds_commit <| whileLive_leaves <| leaves_ite trivial (leaves_ite (contain_within {}) (rasLog_within {}))
theorem pcieLaneLoss_bounds {p b l : Nat} (hF : engineFrame (.pcieLaneLoss p b l) = some F) :
    F.Bounds s (execPcieLaneLoss p b l s) := by
  cases hF
  exact Frame.bounds_commit <| whileLive_leaves <| leaves_ite trivial ⟨drv_within, rasLog_within {}, trivial⟩
/-- The controllers are named, as in `contain_within`. -/
theorem dpcRelease_bounds {p : Nat} (hF : engineFrame (.dpcRelease p) = some F) : F.Bounds s (execDpcRelease p s) := by
  have C : CtrlFrame F.parts F.writes := by cases hF; exact {}
  unfold execDpcRelease
  generalize List.filter _ (s.ctrlsOf p) = l
  exact Frame.bounds_commit <| leaves_ite trivial ⟨C.drv, setF_within (C.port p),
    leaves_each fun n => ctrlTo_within C.toSlotFrame (C.toClockFrame n) (C.ctrl n), portLine_within C.toLogFrame.toLineFrame,
    trivial⟩
theorem ptmRequest_bounds {p : Nat} (hF : engineFrame (.ptmRequest p) = some F) : F.Bounds s (execPtmRequest p s) := by
  cases hF
  exact Frame.bounds_commit <| whileLive_leaves <| leaves_ite trivial <| withFree_within (by simp) fun _ _ => drv_within

/-! ### Drive controllers and queue pairs -/

theorem dqCtrlEnable_bounds {w : Bool} {n : Nat} {v : W64} (hF : engineFrame (.dqCtrlEnable w n v) = some F) :
    F.Bounds s (execDqCtrlEnable w n v s) := by
  cases hF
  exact Frame.bounds_commit (dqCtrlWrite_within {} {} (by simp))
theorem dqCtrlDisable_bounds {w : Bool} {n : Nat} {v : W64} (hF : engineFrame (.dqCtrlDisable w n v) = some F) :
    F.Bounds s (execDqCtrlDisable w n v s) := by
  cases hF
  exact Frame.bounds_commit (dqCtrlWrite_within {} {} (by simp))
theorem dqQpEnable_bounds {w : Bool} {q : Nat} {v : W64} (hF : engineFrame (.dqQpEnable w q v) = some F) :
    F.Bounds s (execDqQpEnable w q v s) := by
  cases hF
  exact Frame.bounds_commit (dqQpWrite_within {})
theorem dqQpDisable_bounds {w : Bool} {q : Nat} {v : W64} (hF : engineFrame (.dqQpDisable w q v) = some F) :
    F.Bounds s (execDqQpDisable w q v s) := by
  cases hF
  exact Frame.bounds_commit (dqQpWrite_within {})
theorem driveCqDoorbell_bounds {q : Nat} (hF : engineFrame (.driveCqDoorbell q) = some F) :
    F.Bounds s (execDriveCqDoorbell q s) := by
  cases hF
  exact Frame.bounds_commit <| leaves_ite trivial
    ⟨leaves_when (advanceTo_within {}), doorbell_within (by simp), drv_within, trivial⟩
theorem driveCommandTimeout_bounds {k : Nat} (hF : engineFrame (.driveCommandTimeout k) = some F) :
    F.Bounds s (execDriveCommandTimeout k s) := by
  cases hF
  refine Frame.bounds_commit ?_
  split
  · split
    · exact leaves_ite trivial
        ⟨advanceTo_within {}, revoke_within (by simp), endSlot_within (by simp) (by simp), bump_within, trivial⟩
    · trivial
  · trivial

/-! ### Angle clocks -/

theorem angleMessage_bounds {m : AngleMsg} (hF : engineFrame (.angleMessage m) = some F) :
    F.Bounds s (execAngleMessage m s) := by
  have clock n : ClockFrame F.parts F.writes n := by cases hF; exact {}
  have idx n : F.writes (PICK_CLK_IDX n) := by cases hF; simp
  have hc : .clk ∈ F.parts := by cases hF; simp
  have drop : (bump PICK_MSG_DROP).Within F.parts F.writes := bump_within (by cases hF; simp)
  have taken : (bump PICK_MSG).Within F.parts F.writes := bump_within (by cases hF; simp)
  refine Frame.bounds_commit ?_
  split
  · exact bump_within (by cases hF; simp)
  · next n _ =>
    exact leaves_ite drop <| leaves_ite drop <| leaves_ite drop <| leaves_ite ⟨drop, gotoClk_within (clock n), trivial⟩ <|
      leaves_ite drop <| leaves_ite ⟨taken, clkFirst_within (clock n) (idx n), trivial⟩ <| leaves_ite drop
        ⟨taken, clkUpdate_within (clock n) hc (idx n), trivial⟩
theorem clockAcquireTimeout_bounds {n : Nat} (hF : engineFrame (.clockAcquireTimeout n) = some F) :
    F.Bounds s (execClockAcquireTimeout n s) := by
  cases hF
  exact Frame.bounds_commit (leaves_ite ⟨advanceTo_within {}, gotoClk_within {}, trivial⟩ trivial)
theorem clockCoastStart_bounds {n : Nat} (hF : engineFrame (.clockCoastStart n) = some F) :
    F.Bounds s (execClockCoastStart n s) := by
  cases hF
  exact Frame.bounds_commit (leaves_ite ⟨advanceTo_within {}, gotoClk_within {}, trivial⟩ trivial)
theorem clockCoastExpiry_bounds {n : Nat} (hF : engineFrame (.clockCoastExpiry n) = some F) :
    F.Bounds s (execClockCoastExpiry n s) := by
  cases hF
  exact Frame.bounds_commit (leaves_ite ⟨advanceTo_within {}, gotoClk_within {}, trivial⟩ trivial)

/-! ### The release heap -/

theorem groupGatherExpiry_bounds {f g : Nat} (hF : engineFrame (.groupGatherExpiry f g) = some F) :
    F.Bounds s (execGroupGatherExpiry f g s) := by
  cases hF
  refine Frame.bounds_commit ?_
  split
  · trivial
  · exact ⟨advanceTo_within {}, leaves_when bump_within, scheduleGroup_within {} (by simp), trivial⟩
theorem pickPairClaim_bounds {k : Nat} (hF : engineFrame (.pickPairClaim k) = some F) :
    F.Bounds s (execPickPairClaim k s) := by
  cases hF
  refine Frame.bounds_commit ?_
  split
  · trivial
  · split
    · trivial
    · next r _ =>
      generalize r / 256 - 1000 = t
      refine leaves_ite trivial ⟨advanceTo_within {}, fun s => ?_⟩
      dsimp only
      split
      · exact ⟨leaves_when bump_within, pick_within, trivial⟩
      · exact ⟨writeCmd_within {} (by simp) (by simp), drv_within, pick_within, trivial⟩
theorem pickRelease_bounds (hF : engineFrame .pickRelease = some F) : F.Bounds s (execPickRelease s) := by
  cases hF
  refine Frame.bounds_commit ?_
  split
  · trivial
  · refine ⟨advanceTo_within {}, fun _ => ⟨ringSlot_within (by simp) (by simp), pick_within, trivial⟩,
      leaves_when bump_within, ?_, heapDrop_within {}, pairFreed_within {}, trivial⟩
    split
    · exact bump_within
    · exact bump_within
    · trivial

/-! ### Angle alarms -/

theorem pickAlarmArm_bounds {w : Bool} {a : Nat} {v : W64} (hF : engineFrame (.pickAlarmArm w a v) = some F) :
    F.Bounds s (execPickAlarmArm w a v s) := by
  cases hF
  exact Frame.bounds_commit (alarmWrite_within (by simp) (by simp))
theorem pickAlarmDisarm_bounds {w : Bool} {a : Nat} {v : W64} (hF : engineFrame (.pickAlarmDisarm w a v) = some F) :
    F.Bounds s (execPickAlarmDisarm w a v s) := by
  cases hF
  exact Frame.bounds_commit (alarmWrite_within (by simp) (by simp))
theorem pickAlarmFire_bounds {a : Nat} (hF : engineFrame (.pickAlarmFire a) = some F) :
    F.Bounds s (execPickAlarmFire a s) := by
  cases hF
  exact Frame.bounds_commit <| leaves_ite trivial
    ⟨leaves_when (advanceTo_within {}), setFs_within, pick_within, raiseVector_within {}, trivial⟩

/-! ### Cards -/

theorem pickClockCfg_bounds {c : CardCtx} {n k t : Nat} {v : W64} (hF : engineFrame (.pickClockCfg c n k t v) = some F) :
    F.Bounds s (execPickClockCfg c n k t v s) := by
  have reply : ReplyFrame F.parts F.writes := by cases hF; exact { irq := fun _ h => by simp [logRegs_of_irqRegs h] }
  have clock n : ClockFrame F.parts F.writes n := by cases hF; exact {}
  have cfg n : F.writes (PICK_CLK_CFG n) := by cases hF; simp
  have nom n : F.writes (PICK_CLK_NOM n) := by cases hF; simp
  have idx n : F.writes (PICK_CLK_IDX n) := by cases hF; simp
  have no {st d} : (answer0 c 0x0501 st d).Within F.parts F.writes := answer0_within reply
  exact Frame.bounds_commit <| gated_within reply (by cases hF; simp) fun s => leaves_ite no <| leaves_ite no <|
    leaves_ite no <| leaves_ite no ⟨leaves_each fun i => ⟨cfg _, setF_within (nom _),
      releaseDrive_within (clock 0).toPickFrame, startClk_within (clock _) (idx _), trivial⟩, answerOk_within reply, trivial⟩
theorem pickMapLoad_bounds {c : CardCtx} {n z a : Nat} (hF : engineFrame (.pickMapLoad c n z a) = some F) :
    F.Bounds s (execPickMapLoad c n z a s) := by
  have reply : ReplyFrame F.parts F.writes := by cases hF; exact {}
  have nom : F.writes (PICK_CLK_NOM n) := by cases hF; simp
  have no {st d} : (answer0 c 0x0502 st d).Within F.parts F.writes := answer0_within reply
  exact Frame.bounds_commit <| gated_within reply (by cases hF; simp) fun s => leaves_ite no <| leaves_ite no <|
    leaves_ite no <| leaves_ite no <| leaves_ite no ⟨pick_within (by cases hF; simp), setF_within nom, answerOk_within reply, trivial⟩
theorem pickMode_bounds {c : CardCtx} {n m : Nat} (hF : engineFrame (.pickMode c n m) = some F) :
    F.Bounds s (execPickMode c n m s) := by
  have reply : ReplyFrame F.parts F.writes := by cases hF; exact { irq := fun _ h => by simp [logRegs_of_irqRegs h] }
  have clock n : ClockFrame F.parts F.writes n := by cases hF; exact {}
  have cfg n : F.writes (PICK_CLK_CFG n) := by cases hF; simp
  have idx n : F.writes (PICK_CLK_IDX n) := by cases hF; simp
  have no {st d} : (answer0 c 0x0503 st d).Within F.parts F.writes := answer0_within reply
  exact Frame.bounds_commit <| gated_within reply (by cases hF; simp) fun s => leaves_ite no <| leaves_ite no
    ⟨leaves_each fun n => ⟨setF_within (cfg n), releaseDrive_within (clock n).toPickFrame,
      startClk_within (clock n) (idx n), trivial⟩, answerOk_within reply, trivial⟩

end Sys2Proof.Machine
end

section
/-! What the commands of chapter 09 leave unchanged. -/

set_option Elab.async false

namespace Sys2Proof.Machine

variable {F : Frame} {s : State}

/-! ### Cards -/

theorem shuttlePortCfg_bounds {c : CardCtx} {m p o i : Nat} {v w : W64} {l : List W64}
    (hF : engineFrame (.shuttlePortCfg c m p o i v w l) = some F) : F.Bounds s (execShuttlePortCfg c m p o i v w l s) := by
  cases hF
  exact Frame.bounds_commit (portCard_within {})
theorem portFlushRx_bounds {c : CardCtx} {p : Nat} (hF : engineFrame (.portFlushRx c p) = some F) :
    F.Bounds s (execPortFlushRx c p s) := by
  cases hF
  exact Frame.bounds_commit (portCard_within {})
theorem portFlushTx_bounds {c : CardCtx} {p : Nat} (hF : engineFrame (.portFlushTx c p) = some F) :
    F.Bounds s (execPortFlushTx c p s) := by
  cases hF
  exact Frame.bounds_commit (portCard_within {})
theorem shuttleParseCfg_bounds {c : CardCtx} {v : W64} (hF : engineFrame (.shuttleParseCfg c v) = some F) :
    F.Bounds s (execShuttleParseCfg c v s) := by
  have reply : ReplyFrame F.parts F.writes := by cases hF; exact {}
  exact Frame.bounds_commit <| gated_within reply (by cases hF; simp) fun _ =>
    leaves_ite (answer0_within reply) ⟨reg_within (by cases hF; simp), answerOk_within reply, trivial⟩

/-! ### Receive, PAUSE and PFC -/

theorem frameReceive_bounds {p n k : Nat} {d : List (BitVec 8)} {b : Bool}
    (hF : engineFrame (.frameReceive p d b n k) = some F) : F.Bounds s (execFrameReceive p d b n k s) := by
  have receive : ReceiveFrame F.parts F.writes p := by cases hF; exact {}
  have fec : F.writes (SHU_FEC_CE p) ∧ F.writes (SHU_FEC_UCE p) ∧ ∀ c, F.writes (SHU_RSN p c) := by cases hF; simp
  obtain ⟨ce, uce, reasons⟩ := fec
  exact Frame.bounds_commit <| whileLive_leaves <| leaves_ite trivial ⟨addTo_within ce, addTo_within uce,
    leaves_ite (ctlFrame_within receive) ⟨bump_within receive.frames, rxFrame_within receive.toPortFrame reasons⟩, trivial⟩
theorem pfcResendTimer_bounds {p k : Nat} (hF : engineFrame (.pfcResendTimer p k) = some F) :
    F.Bounds s (execPfcResendTimer p k s) := by
  cases hF
  refine Frame.bounds_commit <| whileLive_leaves ?_
  split
  · exact leaves_ite trivial ⟨advanceTo_within {}, ctlQueue_within {}, trivial⟩
  · trivial
theorem pfcXonSend_bounds {p : Nat} (hF : engineFrame (.pfcXonSend p) = some F) : F.Bounds s (execPfcXonSend p s) := by
  cases hF
  exact Frame.bounds_commit <| whileLive_leaves <| ctlQueue_within {}
theorem pauseFrameReceive_bounds {p d q : Nat} {b : Bool} (hF : engineFrame (.pauseFrameReceive p d q b) = some F) :
    F.Bounds s (execPauseFrameReceive p d q b s) := by
  cases hF
  exact Frame.bounds_commit <| whileLive_leaves <| ctlFrame_within {}
theorem pfcFrameReceive_bounds {p d e : Nat} {q : List Nat} {b : Bool}
    (hF : engineFrame (.pfcFrameReceive p d e q b) = some F) : F.Bounds s (execPfcFrameReceive p d e q b s) := by
  cases hF
  exact Frame.bounds_commit <| whileLive_leaves <| ctlFrame_within {}
theorem pauseTimerExpiry_bounds {p k : Nat} (hF : engineFrame (.pauseTimerExpiry p k) = some F) :
    F.Bounds s (execPauseTimerExpiry p k s) := by
  cases hF
  refine Frame.bounds_commit ?_
  split
  · trivial
  · exact ⟨advanceTo_within {}, shu_within, pauseStat_within {}, trivial⟩
theorem pauseWatchdogExpiry_bounds {p k : Nat} (hF : engineFrame (.pauseWatchdogExpiry p k) = some F) :
    F.Bounds s (execPauseWatchdogExpiry p k s) := by
  have log : LogFrame F.parts F.writes := by cases hF; exact {}
  refine Frame.bounds_commit ?_
  split
  · exact leaves_ite trivial ⟨advanceTo_within (by cases hF; exact {}), rasLog_within log, bump_within (by cases hF; simp),
      shu_within (by cases hF; simp), sourceRaise_within log.toLineFrame, trivial⟩
  · trivial
theorem frameParse_bounds {p : Nat} (hF : engineFrame (.frameParse p) = some F) : F.Bounds s (execFrameParse p s) := by
  have port : PortFrame F.parts F.writes p := by cases hF; exact {}
  have reasons c : F.writes (SHU_RSN p c) := by cases hF; simp
  have counted {c} : (countReason p c).Within F.parts F.writes := bump_within (reasons c)
  refine Frame.bounds_commit ?_
  split
  · trivial
  · refine ⟨port.shu, rxStat_within port, leaves_ite counted ?_, trivial⟩
    split
    · exact ⟨counted, port.shu, trivial⟩
    · exact leaves_ite (toExq_within (by cases hF; exact {}) (by cases hF; exact {}) (by cases hF; simp) (by cases hF; simp)
        reasons) counted

/-! ### Transmit and the rings -/

theorem txFrameStart_bounds {p : Nat} {u b : Bool} (hF : engineFrame (.txFrameStart p u b) = some F) :
    F.Bounds s (execTxFrameStart p u b s) := by
  cases hF
  refine Frame.bounds_commit <| whileLive_leaves <| leaves_ite trivial ?_
  split
  · exact ⟨shu_within, shu_within, bump_within, bump_within, trivial⟩
  · split
    · trivial
    · exact ⟨shu_within, shu_within, leaves_ite bump_within (leaves_ite bump_within bump_within), txFill_within (by simp),
        trivial⟩
theorem shuRingEnable_bounds {w raw : Bool} {p : Nat} {v : W64} (hF : engineFrame (.shuRingEnable w p raw v) = some F) :
    F.Bounds s (execShuRingEnable w p raw v s) := by
  cases hF
  exact Frame.bounds_commit (ringWrite_within (by cases raw <;> simp [ringBase]) (by cases raw <;> simp [ringIdx]))
theorem shuRawqTailWrite_bounds {w : Bool} {p : Nat} {v : W64} (hF : engineFrame (.shuRawqTailWrite w p v) = some F) :
    F.Bounds s (execShuRawqTailWrite w p v s) := by
  cases hF
  exact Frame.bounds_commit (rawTailWrite_within (by simp))
theorem rawSlotSend_bounds {p : Nat} (hF : engineFrame (.rawSlotSend p) = some F) : F.Bounds s (execRawSlotSend p s) := by
  have fault {a b} : (ringFault true p a b).Within F.parts F.writes :=
    ringFault_within (by cases hF; exact {}) (by cases hF; simp [ringBase])
  have next {v} : (setF (SHU_RAWQ_IDX p) SHU_RAWQ_IDX_HEAD v).Within F.parts F.writes := setF_within (by cases hF; simp)
  exact Frame.bounds_commit <| leaves_ite trivial <| leaves_ite fault <| leaves_ite fault <|
    leaves_ite ⟨bump_within (by cases hF; simp), next⟩ <| withFree_within (by cases hF; simp) fun _ => leaves_read.2 fun _ =>
    leaves_ite trivial <| leaves_ite fault <| leaves_ite fault ⟨shu_within (by cases hF; simp), next, trivial⟩

/-! ### Links -/

theorem ethLinkChange_bounds {p : Nat} {u a b : Bool} {l : List Nat} (hF : engineFrame (.ethLinkChange p u a b l) = some F) :
    F.Bounds s (execEthLinkChange p u a b l s) := by
  cases hF
  exact Frame.bounds_commit <| whileLive_leaves <| leaves_ite trivial
    ⟨leaves_each fun _ => setFs_within, setFs_within, leaves_when shu_within, setLink_within {} (by simp), trivial⟩
theorem ethLinkFailTimeout_bounds {p : Nat} (hF : engineFrame (.ethLinkFailTimeout p) = some F) :
    F.Bounds s (execEthLinkFailTimeout p s) := by
  cases hF
  refine Frame.bounds_commit ?_
  split
  · trivial
  · exact ⟨advanceTo_within {}, rasLog_within {}, bump_within, shu_within, trivial⟩

end Sys2Proof.Machine
end

section
/-! What the commands of chapter 10 leave unchanged. -/

set_option Elab.async false

namespace Sys2Proof.Machine

variable {F : Frame} {s : State}

/-! ### Operations of SHU_QP_CMD -/

theorem qpCreate_bounds {w : Bool} {q : Nat} (hF : engineFrame (.qpCreate w q) = some F) :
    F.Bounds s (execQpCreate w q s) := by
  have cmd : CmdFrame F.parts F.writes := by cases hF; exact {}
  refine Frame.bounds_commit <| qpCmd_within cmd.cmd fun s => ?_
  dsimp only
  split
  · exact cmd.done
  · exact ⟨cmd.shu, fun _ => withQp_within fun _ _ =>
      ⟨cmd.sqTail _ _, cmd.rqTail _ _, cmd.cqHead _ _, leaves_when cmd.shu, trivial⟩,
      qpStat_within cmd.toQpStatFrame, cmd.done, trivial⟩
theorem qpError_bounds {w : Bool} {q : Nat} (hF : engineFrame (.qpError w q) = some F) :
    F.Bounds s (execQpError w q s) := by
  have cmd : F.writes SHU_QP_CMD := by cases hF; simp
  have pairs : QpFrame F.parts F.writes := by cases hF; exact {}
  refine Frame.bounds_commit <| qpCmd_within cmd fun s => ?_
  split
  · exact ⟨qpError_within pairs, cmdDone_within pairs.shu cmd⟩
  · exact cmdDone_within pairs.shu cmd
theorem qpDestroy_bounds {w : Bool} {q : Nat} (hF : engineFrame (.qpDestroy w q) = some F) :
    F.Bounds s (execQpDestroy w q s) := by
  have cmd : CmdFrame F.parts F.writes := by cases hF; exact {}
  refine Frame.bounds_commit <| qpCmd_within cmd.cmd fun s => ?_
  split
  · exact cmd.done
  · exact ⟨cmd.shu, qpStat_within cmd.toQpStatFrame, setF_within cmd.cmd, cmd.shu, cmdSettle_within cmd, trivial⟩
theorem mrReg_bounds {w : Bool} {r : Nat} (hF : engineFrame (.mrReg w r) = some F) : F.Bounds s (execMrReg w r s) := by
  cases hF
  refine Frame.bounds_commit <| qpCmd_within (by simp) fun s => ?_
  dsimp only
  split
  · exact cmdDone_within (by simp) (by simp)
  · exact ⟨wrCoh_within {}, shu_within, cmdDone_within (by simp) (by simp), trivial⟩
theorem mrDereg_bounds {w : Bool} {r : Nat} (hF : engineFrame (.mrDereg w r) = some F) :
    F.Bounds s (execMrDereg w r s) := by
  have cmd : CmdFrame F.parts F.writes := by cases hF; exact {}
  exact Frame.bounds_commit <| qpCmd_within cmd.cmd fun _ =>
    ⟨setF_within cmd.cmd, cmd.shu, cmdSettle_within cmd, trivial⟩

/-! ### Doorbells -/

theorem shuSqTailWrite_bounds {f i : Nat} {v : W64} (hF : engineFrame (.shuSqTailWrite f i v) = some F) :
    F.Bounds s (execShuSqTailWrite f i v s) := by
  cases hF
  exact Frame.bounds_commit (doorbellWrite_within {} {} (by simp))
theorem shuRqTailWrite_bounds {f i : Nat} {v : W64} (hF : engineFrame (.shuRqTailWrite f i v) = some F) :
    F.Bounds s (execShuRqTailWrite f i v s) := by
  cases hF
  exact Frame.bounds_commit (doorbellWrite_within {} {} (by simp))
theorem shuCqHeadWrite_bounds {f i : Nat} {v : W64} (hF : engineFrame (.shuCqHeadWrite f i v) = some F) :
    F.Bounds s (execShuCqHeadWrite f i v s) := by
  cases hF
  exact Frame.bounds_commit (doorbellWrite_within {} {} (by simp))

/-! ### Requests that go out -/

theorem qpWorkFetch_bounds {q : Nat} (hF : engineFrame (.qpWorkFetch q) = some F) : F.Bounds s (execQpWorkFetch q s) := by
  have pairs : QpFrame F.parts F.writes := by cases hF; exact {}
  have retx : F.writes SHU_RETX := by cases hF; simp
  have touch : (touchCtx q).Within F.parts F.writes := touchCtx_within pairs (by cases hF; simp) (by cases hF; simp)
  have fails {c} : (qpError q c).Within F.parts F.writes := qpError_within pairs
  refine Frame.bounds_commit ?_
  split
  · trivial
  · exact leaves_ite trivial <| leaves_ite fails <| leaves_ite trivial <| leaves_seq.2 ⟨touch, withQp_within fun _ _ =>
      leaves_ite trivial <| ioWith_within pairs.toIoFrame fails fun _ => leaves_read.2 fun _ => leaves_ite fails <|
        leaves_ite trivial <| leaves_seq.2 ⟨modQp_within pairs.shu, leaves_ite (wrFail_within pairs) <|
          leaves_ite (wrFail_within pairs) <| leaves_ite (startUd_within pairs) (startRc_within pairs retx)⟩⟩
theorem readResponseSend_bounds {q : Nat} (hF : engineFrame (.readResponseSend q) = some F) :
    F.Bounds s (execReadResponseSend q s) := by
  have pairs : QpFrame F.parts F.writes := by cases hF; exact {}
  have cmd : CmdFrame F.parts F.writes := by cases hF; exact {}
  refine Frame.bounds_commit ⟨withQp_within fun s x => ?_, cmdSettle_within cmd⟩
  split
  · trivial
  · exact leaves_ite trivial <| leaves_ite (qpError_within pairs) <| ioWith_within pairs.toIoFrame
      ⟨modQp_within cmd.shu, sendAck_within cmd.shu⟩ fun _ => leaves_read.2 fun _ => leaves_ite
        ⟨modQp_within cmd.shu, sendAck_within cmd.shu, rasLog_within pairs.toLogFrame, trivial⟩
        ⟨sendPkt_within cmd.shu, leaves_ite (modQp_within cmd.shu) (modQp_within cmd.shu), trivial⟩

/-! ### Requests that come in -/

theorem roceSend_bounds (hF : engineFrame .roceSend = some F) : F.Bounds s (execRoceSend s) := by
  have req : RequestFrame F.parts F.writes := by cases hF; exact {}
  have pairs : QpFrame F.parts F.writes := req.toQpFrame
  have rnr : (trn 12).Within F.parts F.writes := trn_within (by cases hF; simp)
  exact Frame.bounds_commit <| inbound_within req.toInboundFrame fun k q => rcRequest_within req
    (withQp_within fun _ _ => leaves_ite req.nak <| leaves_ite req.nak <| leaves_ite
      (recvEntry_within pairs ⟨sendAck_within req.shu, rnr⟩ ⟨qpError_within pairs, trn_within req.served⟩
        fun _ _ _ => ⟨modQp_within req.shu, sendData_within req⟩)
      (sendData_within req))
    (ackNow_within req.shu)
theorem udSend_bounds (hF : engineFrame .udSend = some F) : F.Bounds s (execUdSend s) := by
  have inb : InboundFrame F.parts F.writes := by cases hF; exact {}
  have pairs : QpFrame F.parts F.writes := inb.toQpFrame
  have counts : ∀ c ∈ [0, 5, 6, 7, 10, 12], F.writes (SHU_TRN c) := by cases hF; simp
  have counted {c : Nat} (h : c ∈ [0, 5, 6, 7, 10, 12]) : (trn c).Within F.parts F.writes := trn_within (counts c h)
  have fail {q c t} : (Act.all [qpComplete q c, trn 0, qpError q t]).Within F.parts F.writes :=
    ⟨qpComplete_within pairs, counted (by simp), qpError_within pairs, trivial⟩
  exact Frame.bounds_commit <| inbound_within inb fun k q => withQp_within fun _ _ => leaves_ite (counted (by simp)) <|
    leaves_ite (counted (by simp)) <| leaves_ite (counted (by simp)) <| leaves_ite (counted (by simp)) <|
    recvEntry_within pairs (counted (by simp)) ⟨qpError_within pairs, counted (by simp)⟩ fun _ _ _ => leaves_ite fail <|
      ioWith_within pairs.toIoFrame fail fun _ => ioWith_within pairs.toIoFrame trivial fun _ =>
        ⟨wrPieces_within pairs.toMemoryFrame, ioWith_within pairs.toIoFrame trivial fun _ =>
          ⟨wrPieces_within pairs.toMemoryFrame, qpComplete_within pairs, counted (by simp), trivial⟩⟩
theorem roceRdmaWrite_bounds (hF : engineFrame .roceRdmaWrite = some F) : F.Bounds s (execRoceRdmaWrite s) := by
  have req : RequestFrame F.parts F.writes := by cases hF; exact {}
  have pairs : QpFrame F.parts F.writes := req.toQpFrame
  have land : LandFrame F.parts F.writes := by cases hF; exact {}
  have access : F.writes (SHU_TRN 11) := by cases hF; simp
  have rnr {q n a} : (Act.seq (sendAck q n a) (trn 12)).Within F.parts F.writes :=
    ⟨sendAck_within req.shu, trn_within (by cases hF; simp)⟩
  have data {k q o} : (writeData k q o).Within F.parts F.writes := writeData_within req land access
  have go {k q a n w} {b : Bool} : Act.Within F.parts F.writes (if b then
      recvEntry q (.seq (sendAck q n a) (trn 12)) (.seq (qpError q 3) (trn 0)) fun _ _ w => writeData k q (some w)
      else writeData k q w) :=
    leaves_ite (recvEntry_within pairs rnr ⟨qpError_within pairs, trn_within req.served⟩ fun _ _ _ => data) data
  exact Frame.bounds_commit <| inbound_within req.toInboundFrame fun k q => rcRequest_within req
    (withQp_within fun _ _ => leaves_ite req.nak <| leaves_ite req.nak <| leaves_ite
      (regionWith_within pairs.toLogFrame req.shu (nak_within req.shu access)
        (leaves_ite rnr ⟨modQp_within req.shu, go⟩))
      go)
    (ackNow_within req.shu)
theorem roceRdmaReadRequest_bounds (hF : engineFrame .roceRdmaReadRequest = some F) :
    F.Bounds s (execRoceRdmaReadRequest s) := by
  have req : RequestFrame F.parts F.writes := by cases hF; exact {}
  have access : F.writes (SHU_TRN 11) := by cases hF; simp
  have bad {q n c} {b : Bool} : Act.Within F.parts F.writes (if b then nak q n c 11 else sendAck q n (.nak c)) :=
    leaves_ite (nak_within req.shu access) (sendAck_within req.shu)
  refine Frame.bounds_commit <| inbound_within req.toInboundFrame fun k q => rcRequest_within req ?_ ?_
  all_goals
    exact withQp_within fun _ _ => leaves_ite req.nak <| leaves_ite (leaves_ite req.nak (sendAck_within req.shu)) <|
      regionWith_within req.toLogFrame req.shu bad <| ioWith_within req.toIoFrame bad fun _ => ⟨modQp_within req.shu,
        leaves_when ⟨psnStep_within req.shu, trn_within req.served⟩, trivial⟩

/-! ### Responses that come in -/

theorem roceReadResponse_bounds (hF : engineFrame .roceReadResponse = some F) : F.Bounds s (execRoceReadResponse s) := by
  have inb : InboundFrame F.parts F.writes := by cases hF; exact {}
  have pairs : QpFrame F.parts F.writes := inb.toQpFrame
  have counted {c} : (trn c).Within F.parts F.writes := trn_within (by cases hF; simp)
  refine Frame.bounds_commit <| inbound_within inb fun k q => withQp_within fun _ x => ?_
  split
  · exact counted
  · exact leaves_ite counted <| leaves_ite counted ⟨ackUpTo_within pairs, ioWith_within pairs.toIoFrame
      ⟨wrFail_within pairs, counted⟩ fun _ => ⟨wrPieces_within pairs.toMemoryFrame, shuProgress_within pairs.shu, counted,
        leaves_ite (modQp_within pairs.shu) ⟨modQp_within pairs.shu, leaves_when (qpComplete_within pairs), trivial⟩,
        trivial⟩, trivial⟩
theorem roceAcknowledge_bounds (hF : engineFrame .roceAcknowledge = some F) : F.Bounds s (execRoceAcknowledge s) := by
  have inb : InboundFrame F.parts F.writes := by cases hF; exact {}
  have pairs : QpFrame F.parts F.writes := inb.toQpFrame
  have counts : ∀ c ∈ [0, 7, 8, 9], F.writes (SHU_TRN c) := by cases hF; simp
  have counted {c : Nat} (h : c ∈ [0, 7, 8, 9]) : (trn c).Within F.parts F.writes := trn_within (counts c h)
  have retx : F.writes SHU_RETX := by cases hF; simp
  have fails {q a b} : (oldestFail q a b).Within F.parts F.writes := oldestFail_within pairs
  refine Frame.bounds_commit <| inbound_within inb fun k q => withQp_within fun _ x =>
    leaves_ite (counted (by simp)) <| leaves_ite (counted (by simp)) ?_
  split
  · exact ⟨ackUpTo_within pairs, shuProgress_within pairs.shu, counted (by simp), trivial⟩
  · exact ⟨ackUpTo_within pairs, counted (by simp), leaves_ite fails (modQp_within pairs.shu), trivial⟩
  · refine ⟨ackUpTo_within pairs, counted (by simp), ?_, trivial⟩
    split
    · exact qpResend_within pairs retx
    · exact fails
    · exact fails
    · exact fails
    · trivial
  · exact counted (by simp)
theorem roceCnp_bounds (hF : engineFrame .roceCnp = some F) : F.Bounds s (execRoceCnp s) := by
  have inb : InboundFrame F.parts F.writes := by cases hF; exact {}
  exact Frame.bounds_commit <| inbound_within inb fun _ q => withQp_within fun _ _ =>
    ⟨trn_within (by cases hF; simp), leaves_ite trivial (modQp_within inb.shu)⟩

/-! ### Timers -/

theorem ackTimeout_bounds {q : Nat} (hF : engineFrame (.ackTimeout q) = some F) : F.Bounds s (execAckTimeout q s) := by
  have pairs : QpFrame F.parts F.writes := by cases hF; exact {}
  have cmd : CmdFrame F.parts F.writes := by cases hF; exact {}
  have time : TimeFrame F.parts F.writes := by cases hF; exact {}
  have retx : F.writes SHU_RETX := by cases hF; simp
  exact Frame.bounds_commit ⟨withQp_within fun _ _ => leaves_ite trivial ⟨advanceTo_within time,
    leaves_ite (oldestFail_within pairs) ⟨modQp_within pairs.shu, qpResend_within pairs retx⟩, trivial⟩, cmdSettle_within cmd⟩
theorem rnrTimerExpiry_bounds {q : Nat} (hF : engineFrame (.rnrTimerExpiry q) = some F) :
    F.Bounds s (execRnrTimerExpiry q s) := by
  have pairs : QpFrame F.parts F.writes := by cases hF; exact {}
  have time : TimeFrame F.parts F.writes := by cases hF; exact {}
  have retx : F.writes SHU_RETX := by cases hF; simp
  refine Frame.bounds_commit <| withQp_within fun _ x => ?_
  split
  · trivial
  · exact ⟨advanceTo_within time, modQp_within pairs.shu, qpResend_within pairs retx, trivial⟩
theorem responderAckTimer_bounds {q : Nat} (hF : engineFrame (.responderAckTimer q) = some F) :
    F.Bounds s (execResponderAckTimer q s) := by
  cases hF
  exact Frame.bounds_commit <| withQp_within fun _ _ => leaves_ite trivial (ackNow_within (by simp))
theorem cnpRateIncrease_bounds {q : Nat} (hF : engineFrame (.cnpRateIncrease q) = some F) :
    F.Bounds s (execCnpRateIncrease q s) := by
  cases hF
  exact Frame.bounds_commit <| withQp_within fun _ _ => leaves_ite trivial
    ⟨advanceTo_within {}, fun _ => modQp_within (by simp)⟩

/-! ### The frames together -/

/-- What a command of an engine changes is in its frame. -/
theorem engineFrame_bounds {c : Instr} (hF : engineFrame c = some F) : F.Bounds s (exec c s) := by
  cases c with
  | funcCreate => exact funcCreate_bounds hF
  | funcQuiesce => exact funcQuiesce_bounds hF
  | funcQuiesceDone => exact funcQuiesceDone_bounds hF
  | funcQuiesceTimeout => exact funcQuiesceTimeout_bounds hF
  | funcFreeze => exact funcFreeze_bounds hF
  | funcSave => exact funcSave_bounds hF
  | funcRestore => exact funcRestore_bounds hF
  | funcResume => exact funcResume_bounds hF
  | funcDestroy => exact funcDestroy_bounds hF
  | funcReset => exact funcReset_bounds hF
  | loomSqTailWrite => exact loomSqTailWrite_bounds hF
  | loomCqHeadWrite => exact loomCqHeadWrite_bounds hF
  | loomQueueEnable => exact loomQueueEnable_bounds hF
  | loomQueueDisable => exact loomQueueDisable_bounds hF
  | contextSwap => exact contextSwap_bounds hF
  | residencyQuantumExpiry => exact residencyQuantumExpiry_bounds hF
  | loomFetch => exact loomFetch_bounds hF
  | loomCompletion => exact loomCompletion_bounds hF
  | coalesceTimerExpiry => exact coalesceTimerExpiry_bounds hF
  | perstRelease => exact perstRelease_bounds hF
  | pcieLinkUp => exact pcieLinkUp_bounds hF
  | pcieLinkFailTimeout => exact pcieLinkFailTimeout_bounds hF
  | pcieSurpriseDown => exact pcieSurpriseDown_bounds hF
  | pcieLaneLoss => exact pcieLaneLoss_bounds hF
  | dpcRelease => exact dpcRelease_bounds hF
  | dqCtrlEnable => exact dqCtrlEnable_bounds hF
  | dqCtrlDisable => exact dqCtrlDisable_bounds hF
  | dqQpEnable => exact dqQpEnable_bounds hF
  | dqQpDisable => exact dqQpDisable_bounds hF
  | driveCqDoorbell => exact driveCqDoorbell_bounds hF
  | driveCommandTimeout => exact driveCommandTimeout_bounds hF
  | ptmRequest => exact ptmRequest_bounds hF
  | angleMessage => exact angleMessage_bounds hF
  | clockAcquireTimeout => exact clockAcquireTimeout_bounds hF
  | clockCoastStart => exact clockCoastStart_bounds hF
  | clockCoastExpiry => exact clockCoastExpiry_bounds hF
  | groupGatherExpiry => exact groupGatherExpiry_bounds hF
  | pickPairClaim => exact pickPairClaim_bounds hF
  | pickRelease => exact pickRelease_bounds hF
  | pickAlarmArm => exact pickAlarmArm_bounds hF
  | pickAlarmDisarm => exact pickAlarmDisarm_bounds hF
  | pickAlarmFire => exact pickAlarmFire_bounds hF
  | pickClockCfg => exact pickClockCfg_bounds hF
  | pickMapLoad => exact pickMapLoad_bounds hF
  | pickMode => exact pickMode_bounds hF
  | shuttlePortCfg => exact shuttlePortCfg_bounds hF
  | portFlushRx => exact portFlushRx_bounds hF
  | portFlushTx => exact portFlushTx_bounds hF
  | shuttleParseCfg => exact shuttleParseCfg_bounds hF
  | frameReceive => exact frameReceive_bounds hF
  | pfcResendTimer => exact pfcResendTimer_bounds hF
  | pfcXonSend => exact pfcXonSend_bounds hF
  | pauseFrameReceive => exact pauseFrameReceive_bounds hF
  | pfcFrameReceive => exact pfcFrameReceive_bounds hF
  | pauseTimerExpiry => exact pauseTimerExpiry_bounds hF
  | pauseWatchdogExpiry => exact pauseWatchdogExpiry_bounds hF
  | frameParse => exact frameParse_bounds hF
  | txFrameStart => exact txFrameStart_bounds hF
  | shuRingEnable => exact shuRingEnable_bounds hF
  | shuRawqTailWrite => exact shuRawqTailWrite_bounds hF
  | rawSlotSend => exact rawSlotSend_bounds hF
  | ethLinkChange => exact ethLinkChange_bounds hF
  | ethLinkFailTimeout => exact ethLinkFailTimeout_bounds hF
  | qpCreate => exact qpCreate_bounds hF
  | qpError => exact qpError_bounds hF
  | qpDestroy => exact qpDestroy_bounds hF
  | mrReg => exact mrReg_bounds hF
  | mrDereg => exact mrDereg_bounds hF
  | shuSqTailWrite => exact shuSqTailWrite_bounds hF
  | shuRqTailWrite => exact shuRqTailWrite_bounds hF
  | shuCqHeadWrite => exact shuCqHeadWrite_bounds hF
  | qpWorkFetch => exact qpWorkFetch_bounds hF
  | roceSend => exact roceSend_bounds hF
  | udSend => exact udSend_bounds hF
  | roceRdmaWrite => exact roceRdmaWrite_bounds hF
  | roceRdmaReadRequest => exact roceRdmaReadRequest_bounds hF
  | readResponseSend => exact readResponseSend_bounds hF
  | roceReadResponse => exact roceReadResponse_bounds hF
  | roceAcknowledge => exact roceAcknowledge_bounds hF
  | roceCnp => exact roceCnp_bounds hF
  | ackTimeout => exact ackTimeout_bounds hF
  | rnrTimerExpiry => exact rnrTimerExpiry_bounds hF
  | responderAckTimer => exact responderAckTimer_bounds hF
  | cnpRateIncrease => exact cnpRateIncrease_bounds hF
  | xformLaneStart => exact xformLaneStart_bounds hF
  | xformComplete => exact xformComplete_bounds hF
  | keyLoad => exact keyLoad_bounds hF
  | iotlbInvalidateFunction => exact iotlbInvalidateFunction_bounds hF
  | iotlbInvalidatePage => exact iotlbInvalidatePage_bounds hF
  | iotlbInvalidateDone => exact iotlbInvalidateDone_bounds hF
  | pcieErrorMessage => exact pcieErrorMessage_bounds hF
  | _ => cases hF

/-- Settles O52: the act of each command of chapters 06 to 11, or of the IOTLB, stays within the command's frame. -/
theorem engineCommandsKeepTheRest : Obligations.EngineCommandsKeepTheRest := by
  unfold Obligations.EngineCommandsKeepTheRest
  intro c F s t hF h
  exact engineFrame_bounds hF t h

end Sys2Proof.Machine
end

section
/-! What a hart changes as an instruction issues: its fetch, its translations, its traps and its retirement (chapters 12
to 14). -/

set_option Elab.async false

namespace Sys2Proof.Machine

/-- What the issue of an instruction changes, with its translations, its requests and the trap that it may take. -/
structure IssueFrame (ch : List Part) (R : Nat → Prop) : Prop
    extends TimeFrame ch R, LogFrame ch R, MemoryFrame ch where
  dbg : .dbg ∈ ch := by simp
  issue : ∀ a, issueRegs a → R a := by exact fun _ h => ⟨_, by simp, h⟩

/-- What a load, a store or an atomic counts at a line of the tile. -/
structure DemandFrame (ch : List Part) (R : Nat → Prop) : Prop where
  cache : .cache ∈ ch := by simp
  l1dMiss : ∀ n, R (CORE_L1D_MISS n) := by simp
  l2Miss : ∀ n, R (CORE_L2_MISS n) := by simp
  prefetchHit : ∀ n, R (CORE_PF_HIT n) := by simp

/-- What a trap that comes from outside an instruction changes: no access is made for it and no record is written. -/
structure TrapFrame (ch : List Part) (R : Nat → Prop) : Prop where
  core : .core ∈ ch := by simp
  cache : .cache ∈ ch := by simp
  dbg : .dbg ∈ ch := by simp
  flush : ∀ n, R (CORE_BP_FLUSH n) := by simp

variable {ch : List Part} {R : Nat → Prop}

theorem IssueFrame.toHartFrame (I : IssueFrame ch R) : HartFrame ch R :=
  ⟨I.toLogFrame, I.core, I.cache, I.dbg, fun _ => I.issue _ (by simp [issueRegs])⟩
theorem IssueFrame.toCacheFrame (I : IssueFrame ch R) : CacheFrame ch := ⟨I.mesh, I.cache, I.coh⟩

/-! ### The hart's own state -/

theorem modHart_within {h : Nat} {f : Hart → Hart} (hk : .core ∈ ch) : (modHart h f).Within ch R := hk
theorem modHdbg_within {h : Nat} {f : HartDbg → HartDbg} (hd : .dbg ∈ ch) : (modHdbg h f).Within ch R := hd
theorem modL2_within {n l : Nat} {f : L2Line → L2Line} (hc : .cache ∈ ch) : (modL2 n l f).Within ch R := hc
theorem retire_within {h n : Nat} (hk : .core ∈ ch) : (retire h n).Within ch R := hk
theorem retires_within {i : Ins} {f : Hart → Hart} (hk : .core ∈ ch) : (retires i f).Within ch R := ⟨hk, hk⟩
theorem jumpTo_within {i : Ins} {a : Nat} {f : Hart → Hart} (hk : .core ∈ ch) : (jumpTo i a f).Within ch R := ⟨hk, hk, hk⟩
theorem tlbRemove_within {h : Nat} {p : TlbEnt → Bool} {q : WalkEnt → Bool} (hk : .core ∈ ch) :
    (tlbRemove h p q).Within ch R := hk
theorem fenceVvma_within {h a b : Nat} (hk : .core ∈ ch) : (fenceVvma h a b).Within ch R := fun _ => tlbRemove_within hk
theorem sqPush_within {h k : Nat} {l : List (Nat × Nat × Nat)} {b : Bool} (hk : .core ∈ ch) :
    (sqPush h l b k).Within ch R := hk
theorem sqSent_within {h k l : Nat} {d : Line} (hk : .core ∈ ch) : (sqSent h k l d).Within ch R := hk
theorem hrn_within {f : HrnSt → HrnSt} (h : .hrn ∈ ch := by simp) : (Act.hrn f).Within ch R := h
theorem strideTrain_within {n pc l : Nat} (hc : .cache ∈ ch) : (strideTrain n pc l).Within ch R := hc
theorem bpClear_within {h : Nat} (hk : .core ∈ ch) (hf : ∀ n, R (CORE_BP_FLUSH n)) : (bpClear h).Within ch R := fun _ =>
  ⟨hk, bump_within (hf _), trivial⟩
theorem enterDebug_within {h c pc : Nat} (hk : .core ∈ ch) (hd : .dbg ∈ ch) : (enterDebug h c pc).Within ch R := fun _ =>
  ⟨hd, hk, trivial⟩
theorem askLine_within {n o l : Nat} {y : ReqWhy} {w : Bool} (hm : .mesh ∈ ch) (ho : .coh ∈ ch) :
    (askLine n o l y w).Within ch R := fun _ => leaves_ite trivial (tileReq_within hm ho)
theorem IssueFrame.ask {n o l : Nat} {y : ReqWhy} {w : Bool} (I : IssueFrame ch R) : (askLine n o l y w).Within ch R :=
  askLine_within I.mesh I.coh

/-! ### Traps -/

/-- R342: a trap by itself stays within the smaller frame; `takeTrap_within` gives it to an instruction. -/
theorem takeTrap_within_of_trapFrame {h pc : Nat} {e : Trap} (T : TrapFrame ch R) : (takeTrap h e pc).Within ch R :=
  fun _ => leaves_ite ⟨modHdbg_within T.dbg, T.dbg, trivial⟩ ⟨modHart_within T.core, T.cache,
    leaves_when (bpClear_within T.core T.flush), leaves_when fun _ => enterDebug_within T.core T.dbg, trivial⟩
theorem selfTrap_within {i : Ins} {e : Trap} (F : HartFrame ch R) : (selfTrap i e).Within ch R := fun _ => takeTrap_within F
theorem illegalIns_within {i : Ins} (F : HartFrame ch R) : (illegalIns i).Within ch R := selfTrap_within F
theorem virtualIns_within {i : Ins} (F : HartFrame ch R) : (virtualIns i).Within ch R := selfTrap_within F
theorem insTrap_within {i : Ins} {c : Nat} (F : HartFrame ch R) : (insTrap i c).Within ch R := selfTrap_within F
theorem stepCheck_within {h : Nat} {old : State} (F : HartFrame ch R) : (stepCheck h old).Within ch R := by
  have debug {c pc} : (enterDebug h c pc).Within ch R := enterDebug_within F.core F.dbg
  exact fun _ => leaves_ite trivial ⟨leaves_when ⟨F.dbg, leaves_when (leaves_ite (leaves_when debug) (takeTrap_within F)),
    trivial⟩, fun _ => leaves_when debug, trivial⟩

/-! ### Translation -/

theorem fillL1Tlb_within {h : Nat} {b : Bool} {e : TlbEnt} (hk : .core ∈ ch) (hc : .clk ∈ ch) :
    (fillL1Tlb h b e).Within ch R := by
  intro s
  dsimp only
  split
  · exact hk
  · exact withFree_within hc fun _ => hk
theorem fillL2Tlb_within {h : Nat} {e : TlbEnt} (hk : .core ∈ ch) : (fillL2Tlb h e).Within ch R := hk
/-- The L1 TLB that a miss is counted for depends on the access. -/
theorem IssueFrame.tlbMiss (I : IssueFrame ch R) (a : Acc) (n : Nat) :
    (bump (if a.acc = 2 then CORE_ITLB_MISS n else CORE_DTLB_MISS n)).Within ch R := by
  apply bump_within
  split
  · exact I.issue _ (by simp [issueRegs])
  · exact I.issue _ (by simp [issueRegs])
/-- A walk counts its misses and the PTEs that it has read. -/
theorem IssueFrame.l2tlbMiss (I : IssueFrame ch R) (n : Nat) : (bump (CORE_L2TLB_MISS n)).Within ch R :=
  bump_within (I.issue _ (by simp [issueRegs]))
theorem IssueFrame.pteReads (I : IssueFrame ch R) (n k : Nat) : (addTo (CORE_WALK_PTE n) k).Within ch R :=
  addTo_within (I.issue _ (by simp [issueRegs]))
theorem xlDone_within {h va : Nat} {a : Acc} {x : Xl} {w : XlFrom} (I : IssueFrame ch R) :
    (xlDone h a va x w).Within ch R := by
  have fill {e} : (fillL1Tlb h (a.acc == 2) e).Within ch R := fillL1Tlb_within I.core I.clk
  have update {n} : (bump (CORE_AD_UPDATE n)).Within ch R := bump_within (I.issue _ (by simp [issueRegs]))
  intro s
  cases w with
  | bare => trivial
  | l1 => trivial
  | l2 e => exact ⟨I.tlbMiss a _, fill, trivial⟩
  | walked =>
    exact ⟨I.tlbMiss a _, I.l2tlbMiss _, I.pteReads _ _,
      leaves_each fun _ => ⟨update, fun _ => wrCoh_within I.toMemoryFrame, trivial⟩, modHart_within I.core, fill,
      fillL2Tlb_within I.core, trivial⟩
theorem xlAll_within {h : Nat} {a : Acc} {l : List (Nat × Xl × XlFrom × Place)} (I : IssueFrame ch R) :
    (xlAll h a l).Within ch R := leaves_each fun _ => xlDone_within I
theorem xlMissed_within {h : Nat} {a : Acc} {e : Trap} (I : IssueFrame ch R) : (xlMissed h a e).Within ch R := by
  intro s
  have walk {k} : Act.Within ch R (.all [bump (if a.acc = 2 then CORE_ITLB_MISS (s.nodeOf h) else CORE_DTLB_MISS (s.nodeOf h)),
      bump (CORE_L2TLB_MISS (s.nodeOf h)), addTo (CORE_WALK_PTE (s.nodeOf h)) k]) :=
    ⟨I.tlbMiss a _, I.l2tlbMiss _, I.pteReads _ _, trivial⟩
  dsimp only
  split
  · exact I.tlbMiss a _
  · exact walk
  · trivial
  · exact leaves_when walk
theorem accessTrap_within {h n pc : Nat} {a : Acc} {e : Trap} (I : IssueFrame ch R) :
    (accessTrap h a n e pc).Within ch R := by
  have deny {n} : (bump (SEL_DENY n)).Within ch R := bump_within (I.issue _ (by simp [issueRegs]))
  refine fun s => ⟨xlMissed_within I, ?_, takeTrap_within I.toHartFrame, trivial⟩
  split
  · exact leaves_ite deny (leaves_when (poisonUse_within I.toLogFrame))
  · exact leaves_when deny

/-! ### Fetch and issue -/

/-- What the fetch of an instruction leaves behind, or asks for, stays within a frame. -/
def Gate.Within (ch : List Part) (R : Nat → Prop) (g : Gate) : Prop :=
  match g with
  | .ok a | .wait a => a.Within ch R
  | .trap .. | .debug => True

theorem fetchPart_within {s : State} {h : Nat} {p : Nat × Nat} (I : IssueFrame ch R) :
    (s.fetchPart h p).Within ch R := by
  have done {a va x w} : (xlDone h a va x w).Within ch R := xlDone_within I
  unfold State.fetchPart
  dsimp only
  split
  · trivial
  · split
    · trivial
    · split
      · exact done
      · split
        · split
          · exact done
          · exact ⟨I.core, I.ask, trivial⟩
        · split
          · split
            · trivial
            · exact ⟨done, fillL1_within I.cache⟩
          · exact I.ask
/-- An instruction that crosses a line is fetched in two parts. -/
theorem gate_within {s : State} {i : Ins} (I : IssueFrame ch R) : (s.gate i).Within ch R := by
  unfold State.gate
  dsimp only
  split
  · trivial
  split
  · trivial
  split
  · trivial
  split
  · split <;> trivial
  · trivial
  split
  · next a b _ =>
    have first := fetchPart_within (s := s) (h := i.hart) (p := a) I
    have second := fetchPart_within (s := s) (h := i.hart) (p := b) I
    split
    · next hx =>
      rw [hx] at first
      split
      · next hy =>
        rw [hy] at second
        exact ⟨first, second⟩
      · trivial
      · exact second
    · exact first
  · exact fetchPart_within I
  · trivial
/-- An instruction changes what stands before it and its body change. -/
theorem issue_within {i : Ins} {body : State → Act} (I : IssueFrame ch R) (hb : ∀ s, (body s).Within ch R) :
    (issue i body).Within ch R := by
  refine ⟨fun s => leaves_when ⟨leaves_ite trivial (advanceTo_within I.toTimeFrame), I.core⟩, fun s => ?_⟩
  have hg := gate_within (s := s) (i := i) I
  dsimp only
  generalize s.gate i = g at hg ⊢
  cases g with
  | ok a => exact ⟨hg, hb, stepCheck_within I.toHartFrame, trivial⟩
  | wait a => exact hg
  | trap e va n =>
    refine leaves_when ⟨?_, accessTrap_within I, trivial⟩
    split
    · exact poisonUse_within I.toLogFrame
    · trivial
  | debug => exact leaves_when (enterDebug_within I.core I.dbg)
theorem issueInOrder_within {i : Ins} {body : State → Act} (I : IssueFrame ch R) (hb : ∀ s, (body s).Within ch R) :
    (issueInOrder i body).Within ch R := issue_within I fun s => leaves_ite trivial (hb s)
theorem serialise_within {i : Ins} {body : State → Act} (I : IssueFrame ch R) (hb : ∀ s, (body s).Within ch R) :
    (serialise i body).Within ch R := issue_within I fun s => leaves_ite trivial (hb s)

end Sys2Proof.Machine
end

section
/-! What the instructions change beyond their issue (chapters 05, 12 to 14 and 18). -/

set_option Elab.async false

namespace Sys2Proof.Machine

variable {ch : List Part} {R : Nat → Prop}

/-! ### Ordinary instructions: each retires or takes a trap -/

theorem IssueFrame.retired {i : Ins} {f : Hart → Hart} (I : IssueFrame ch R) : (retires i f).Within ch R := retires_within I.core
theorem IssueFrame.illegal {i : Ins} (I : IssueFrame ch R) : (illegalIns i).Within ch R := illegalIns_within I.toHartFrame
theorem IssueFrame.virtual {i : Ins} (I : IssueFrame ch R) : (virtualIns i).Within ch R := virtualIns_within I.toHartFrame
theorem IssueFrame.ownTrap {i : Ins} {e : Trap} (I : IssueFrame ch R) : (selfTrap i e).Within ch R :=
  selfTrap_within I.toHartFrame
theorem IssueFrame.trap {h pc : Nat} {e : Trap} (I : IssueFrame ch R) : (takeTrap h e pc).Within ch R :=
  takeTrap_within I.toHartFrame
theorem fpIns_within {i : Ins} {op : FpOp} {rm rd rs1 rs2 rs3 : Nat} {d : Bool} (I : IssueFrame ch R) :
    (fpIns i op rm rd rs1 rs2 rs3 d).Within ch R := by
  refine fun s => leaves_ite I.illegal ?_
  split
  · exact I.illegal
  · exact leaves_ite I.ownTrap I.retired
theorem vecIns_within {i : Ins} {c vd vs1 vs2 rs1 : Nat} {f x y : Bool} (I : IssueFrame ch R) :
    (vecIns i c vd vs1 vs2 rs1 f x y).Within ch R := by
  refine fun s => leaves_ite I.illegal ?_
  dsimp only
  split
  · exact ⟨modHart_within I.core, I.ownTrap, trivial⟩
  · exact I.retired
theorem vsetIns_within {i : Ins} {rd rs1 vt k : Nat} (I : IssueFrame ch R) : (vsetIns i rd rs1 vt k).Within ch R := fun _ =>
  leaves_ite I.illegal (leaves_ite I.retired I.retired)
theorem fpMove_within {i : Ins} {f : Hart → Hart} (I : IssueFrame ch R) : (fpMove i f).Within ch R := fun _ =>
  leaves_ite I.illegal I.retired
theorem csrAccess_within {i : Ins} {rd num : Nat} {w : Bool} {f : W64 → W64} {k : W64 → Act} (I : IssueFrame ch R)
    (hk : ∀ v, (k v).Within ch R) : (csrAccess i rd num w f k).Within ch R := by
  intro s
  dsimp only
  split
  · exact I.ownTrap
  · exact withFree_within I.clk fun _ _ => ⟨I.retired, leaves_when (hk _)⟩
theorem wfiIns_within {i : Ins} (I : IssueFrame ch R) : (wfiIns i).Within ch R := fun _ =>
  leaves_ite I.illegal <| leaves_ite I.virtual <| leaves_ite I.illegal ⟨retire_within I.core, modHart_within I.core⟩
theorem ebreakIns_within {i : Ins} (I : IssueFrame ch R) : (ebreakIns i).Within ch R := fun _ =>
  leaves_ite (modHdbg_within I.dbg) (leaves_ite (enterDebug_within I.core I.dbg) I.ownTrap)
theorem coreIns_within {i : Ins} {op : CoreOp} (I : IssueFrame ch R) : (coreIns i op).Within ch R := by
  intro s
  cases op with
  | alu | aluImm | lui | auipc | hint => exact I.retired
  | branch => exact leaves_ite (jumpTo_within I.core) I.retired
  | jal | jalr => exact jumpTo_within I.core
  | fp => exact fpIns_within I
  | fsgnj | fmvToInt | fmvToFp => exact fpMove_within I
  | vec => exact vecIns_within I
  | vsetvl => exact vsetIns_within I
  | csrRead => exact csrAccess_within I fun _ => trivial
  | wfi => exact wfiIns_within I
  | ecall => exact fun _ => I.ownTrap
  | ebreak => exact ebreakIns_within I
  | illegal => exact I.illegal

/-! ### Loads, stores and atomics -/

theorem demand_within {n pc l : Nat} {b : Bool} (D : DemandFrame ch R) : (demand n pc l b).Within ch R := by
  have miss : (bump (CORE_L1D_MISS n)).Within ch R := bump_within (D.l1dMiss n)
  have train : (Act.when b (strideTrain n pc l)).Within ch R := leaves_when (strideTrain_within D.cache)
  intro s
  dsimp only
  split
  · exact ⟨leaves_when ⟨miss, train, trivial⟩,
      leaves_when ⟨bump_within (D.prefetchHit n), modL2_within D.cache, trivial⟩, trivial⟩
  · exact ⟨miss, bump_within (D.l2Miss n), train, trivial⟩
theorem trigData_within {i : Ins} {s : State} {k va : Nat} {a : Act} (I : IssueFrame ch R)
    (h : trigData i s k va = some a) : a.Within ch R := by
  unfold trigData at h
  split at h
  · split at h
    · cases h
      exact enterDebug_within I.core I.dbg
    · cases h
  · cases h
    exact I.ownTrap
  · cases h
theorem storeBody_within {i : Ins} {va size hyp v : Nat} {k : LoadKind} {a : Act} {s : State} (I : IssueFrame ch R)
    (ha : a.Within ch R) : (storeBody i va size k hyp v a s).Within ch R := by
  have translated {h a l} : (xlAll h a l).Within ch R := xlAll_within I
  unfold storeBody
  dsimp only
  split
  · exact accessTrap_within I
  · exact leaves_ite ⟨translated, I.retired, ha, trivial⟩ <| leaves_ite
      (leaves_ite I.trap ⟨translated, modHart_within I.core, trivial⟩) <| leaves_ite I.trap <|
      leaves_ite trivial ⟨translated, sqPush_within I.core, I.retired, ha, trivial⟩
theorem atomic_within {i : Ins} {r n acc : Nat} {f : Nat → Nat → Option Nat × (Hart → Hart)} {s : State}
    (I : IssueFrame ch R) (D : DemandFrame ch R) : (atomic i r n acc f s).Within ch R := by
  have asks {c : Prop} [Decidable c] {m o l y w} : Act.Within ch R (if c then .skip else tileReq m o l y w) :=
    leaves_ite trivial (tileReq_within I.mesh I.coh)
  unfold atomic
  refine leaves_ite I.ownTrap ?_
  split
  · exact accessTrap_within I
  · have translated {h a va x w} : (xlDone h a va x w).Within ch R := xlDone_within I
    refine leaves_ite ⟨translated, I.retired, trivial⟩ (leaves_ite I.trap ?_)
    dsimp only
    split
    · exact ⟨translated, asks, trivial⟩
    · refine leaves_ite ⟨translated, asks, trivial⟩ <| leaves_ite ⟨translated, poisonUse_within I.toLogFrame, I.trap, trivial⟩
        ⟨translated, demand_within D, ?_, fillL1_within I.cache, I.retired, trivial⟩
      split
      · exact modL2_within I.cache
      · trivial
theorem prefetchIns_within {i : Ins} {r acc : Nat} {imm : Int} {s : State} (I : IssueFrame ch R)
    (hm : ∀ n, R (CORE_L2_MISS n)) : (prefetchIns i r imm acc s).Within ch R := by
  refine ⟨?_, I.retired⟩
  dsimp only
  split
  · trivial
  · refine leaves_ite trivial ⟨xlDone_within I, ?_, trivial⟩
    split
    · exact leaves_ite I.ask (fillL1_within I.cache)
    · exact ⟨bump_within (hm _), I.ask, trivial⟩
theorem cboIns_within {i : Ins} {r b k : Nat} {s : State} (I : IssueFrame ch R) : (cboIns i r b k s).Within ch R := by
  unfold cboIns
  dsimp only
  split
  · exact I.ownTrap
  · split
    · exact accessTrap_within I
    · exact leaves_ite ⟨xlDone_within I, I.retired, trivial⟩ <|
        leaves_ite trivial ⟨xlDone_within I, sqPush_within I.core, I.retired, trivial⟩

/-! ### CSR writes -/

theorem detWrite_within {h : Nat} {v : W64} (I : IssueFrame ch R) (hs : ∀ n, R (CORE_DET_SWITCH n)) :
    (detWrite h v).Within ch R := by
  have switch {n} : (bump (CORE_DET_SWITCH n)).Within ch R := bump_within (hs n)
  exact fun _ => leaves_ite (leaves_ite trivial ⟨modHart_within I.core, switch, trivial⟩) <|
    leaves_ite (modHart_within I.core) <| leaves_ite trivial
      ⟨leaves_each fun _ => evictL2_within I.toCacheFrame, bpClear_within I.core I.toHartFrame.flush, I.cache,
        modHart_within I.core, switch, trivial⟩
theorem trigWrite_within {h k num : Nat} {v : W64} {b : Bool} (hd : .dbg ∈ ch) : (trigWrite h k num v b).Within ch R :=
  fun _ => leaves_ite trivial (modHdbg_within hd)
theorem csrApply_within {h num : Nat} {v : W64} {b : Bool} (I : IssueFrame ch R) (hs : ∀ n, R (CORE_DET_SWITCH n)) :
    (csrApply h num v b).Within ch R := by
  intro s
  dsimp only
  split
  · exact detWrite_within I hs
  · exact leaves_when (bpClear_within I.core I.toHartFrame.flush)
  · exact trigWrite_within I.dbg
  · exact trigWrite_within I.dbg
  · exact trigWrite_within I.dbg
  · exact modHdbg_within I.dbg
  · exact modHdbg_within I.dbg
  · exact modHart_within I.core
theorem csrIns_within {i : Ins} {rd num op r : Nat} {b : Bool} (I : IssueFrame ch R) (hs : ∀ n, R (CORE_DET_SWITCH n)) :
    (csrIns i rd num op r b).Within ch R := serialise_within I fun _ =>
  leaves_ite trivial (csrAccess_within I fun _ => csrApply_within I hs)

/-! ### Batten instructions -/

theorem macIns_within {i : Ins} {rd r1 r2 c : Nat} {s : State} (I : IssueFrame ch R) : (macIns i rd r1 r2 c s).Within ch R := by
  unfold macIns
  refine leaves_ite I.illegal (leaves_ite I.ownTrap (leaves_ite I.ownTrap ?_))
  dsimp only
  split
  · exact accessTrap_within I
  · split
    · exact accessTrap_within I
    · have translated {a va x w b vb y z} : Act.Within ch R (.all [xlDone i.hart a va x w, xlDone i.hart b vb y z]) :=
        ⟨xlDone_within I, xlDone_within I, trivial⟩
      have sent {n k l w t d m x y f} :
          Act.Within ch R (.seq (sendMsg n clsBTN k l y w t d m x) (.seq (retires i f) .skip)) :=
        ⟨sendMsg_within I.mesh I.coh, I.retired, trivial⟩
      refine leaves_ite ⟨translated, I.retired, trivial⟩ (leaves_ite trivial ?_)
      split
      · exact ⟨translated, sent⟩
      · split
        · exact leaves_ite ⟨translated, sent⟩ ⟨modHart_within I.core, I.ask, trivial⟩
        · exact ⟨translated, I.ask, trivial⟩
theorem wcloseIns_within {i : Ins} {rd r : Nat} {s : State} (I : IssueFrame ch R) (hb : .btn ∈ ch)
    (hw : ∀ w, R (BTN_WIN_STATE w)) : (wcloseIns i rd r s).Within ch R :=
  leaves_ite I.illegal ⟨leaves_when ⟨setF_within (hw _), hb, trivial⟩, I.retired⟩

end Sys2Proof.Machine
end

section
/-! What the Harness and the interrupt files change (chapter 16). -/

set_option Elab.async false

namespace Sys2Proof.Machine

/-- What the end of a service in file `f` of hart `h` changes in the controller. -/
structure ServiceFrame (ch : List Part) (R : Nat → Prop) (h f : Nat) : Prop where
  hrn : .hrn ∈ ch := by simp
  irq : ∀ a, irqRegs a → R a := by exact fun _ h => ⟨_, by simp, h⟩
  service : R (HRN_ISRV h f) := by simp

/-- What a claim in file `f` of hart `h` changes. -/
structure ClaimFrame (ch : List Part) (R : Nat → Prop) (h f : Nat) : Prop extends ServiceFrame ch R h f where
  io : .io ∈ ch := by simp
  vec : ∀ n, R (HRN_VEC n) := by simp
  claims : R HRN_CLAIMS := by simp
  chains : R HRN_CHAINS := by simp
  spurious : R HRN_SPURIOUS := by simp

variable {ch : List Part} {R : Nat → Prop} {h f : Nat}

/-! ### Sources and files -/

theorem hrnEval_within (hm : .mesh ∈ ch) (hh : .hrn ∈ ch) : (hrnEval h f).Within ch R :=
  hrnEval_leaves (fun _ => hh) fun _ _ => send_within hm
theorem hrnSend_within {o : Nat} (hm : .mesh ∈ ch) (hh : .hrn ∈ ch) : (hrnSend h f o).Within ch R :=
  hrnSend_leaves (fun _ => hh) fun _ _ => send_within hm
theorem srcEval_within {n : Nat} (hm : .mesh ∈ ch) (hh : .hrn ∈ ch) : (srcEval n).Within ch R :=
  srcEval_leaves (fun _ => hh) fun _ _ => send_within hm
theorem lineSet_within_of_src {n : Nat} {b : Bool} (hm : .mesh ∈ ch) (hh : .hrn ∈ ch) (hr : R (HRN_SRC n)) :
    (lineSet n b).Within ch R := lineSet_leaves (fun _ => hr) (fun _ => hh) fun _ _ => send_within hm
theorem vectorRaise_within_of_vec {v : Nat} (hm : .mesh ∈ ch) (hh : .hrn ∈ ch) (hv : R (HRN_VEC v)) (hd : R HRN_VEC_DROP) :
    (vectorRaise v).Within ch R := vectorRaise_leaves (fun _ => hv) (fun _ => hd) (fun _ => hh) fun _ _ => send_within hm
theorem setB_within {a : Nat} {x : Fld} {b : Bool} (h : R a) : (setB a x b).Within ch R := setB_leaves fun _ => h
theorem levelIp_within {n : Nat} (hr : R (HRN_SRC n)) : (levelIp n).Within ch R := levelIp_leaves fun _ => hr
theorem srcWrite_within {w b : Bool} {n : Nat} {v : W64} (hm : .mesh ∈ ch) (hh : .hrn ∈ ch) (hr : R (HRN_SRC n)) :
    (srcWrite w n b v).Within ch R := fun _ =>
  leaves_ite trivial ⟨hr, levelIp_within hr, hrnEval_within hm hh, srcEval_within hm hh, trivial⟩
theorem ioAnswer_within {v : W64} (hi : .io ∈ ch) : (ioAnswer v).Within ch R := hi
/-- An access to a file page changes what it answers and what its own world's access changes. -/
theorem fileAccess_within {w : Bool} {a : Act} (hi : .io ∈ ch) (ha : a.Within ch R) : (fileAccess w h f a).Within ch R :=
  leaves_ite hi (leaves_ite hi ha)
theorem timerEval_within (hm : .mesh ∈ ch) (hh : .hrn ∈ ch) : (timerEval h f).Within ch R := fun _ =>
  leaves_ite trivial ⟨hh, hrnSend_within hm hh, trivial⟩

/-! ### Claim and complete -/

theorem setService_within {l : List (Nat × Nat)} (S : ServiceFrame ch R h f) : (setService h f l).Within ch R :=
  ⟨S.hrn, setF_within S.service, trivial⟩
theorem ServiceFrame.src (S : ServiceFrame ch R h f) (n : Nat) : R (HRN_SRC n) := S.irq _ (irqRegs_src n)
theorem endService_within {p : Nat} {b : Bool} (S : ServiceFrame ch R h f) (hm : .mesh ∈ ch) :
    (endService h f p b).Within ch R := by
  intro s
  dsimp only
  split
  · trivial
  · exact ⟨setService_within S,
      leaves_ite ⟨levelIp_within (S.src _), leaves_when (srcEval_within hm S.hrn)⟩ trivial, trivial⟩
theorem tileApply_within {n q : Nat} {g : TileIrq → TileIrq} (hh : .hrn ∈ ch) : (tileApply n f q g).Within ch R := fun _ =>
  leaves_ite hh trivial
theorem fileAnswer_within {i p : Nat} (hi : .io ∈ ch) (hh : .hrn ∈ ch) : (fileAnswer h f i p).Within ch R := by
  refine fun s => ⟨hh, ioAnswer_within hi, ?_, trivial⟩
  split
  · exact tileApply_within hh
  · trivial
theorem claim_within {b : Bool} (C : ClaimFrame ch R h f) : (claim h f b).Within ch R := by
  have answer {i p} : (fileAnswer h f i p).Within ch R := fileAnswer_within C.io C.hrn
  intro s
  dsimp only
  split
  · exact ⟨leaves_ite (setF_within (C.src _)) (setF_within (C.vec _)), leaves_when C.hrn,
      setService_within C.toServiceFrame, bump_within C.claims, leaves_when (bump_within C.chains), answer, trivial⟩
  · exact leaves_ite answer (leaves_ite ⟨bump_within C.spurious, answer, trivial⟩ answer)

/-! ### Flits at a tile, and the edge latches -/

theorem hrnFlit_within {n : Nat} {x : Flit} {l : List Nat} {g : TileIrq → TileIrq} (hm : .mesh ∈ ch) (hh : .hrn ∈ ch) :
    (hrnFlit n x l g).Within ch R := ⟨hm, leaves_ite (tileApply_within hh) trivial⟩
theorem latchOut_within {n b : Nat} (L : LineFrame ch R) : (latchOut n b).Within ch R := by
  have src : R (HRN_SRC n) := L.irq _ (irqRegs_src n)
  exact fun _ => ⟨setF_within src, leaves_when (setF_within src), srcEval_within L.mesh L.hrn, trivial⟩

end Sys2Proof.Machine
end

section
/-! What the commands of chapters 05, 12 to 14 and 16 leave unchanged: the act of each command stays within its frame. -/

set_option Elab.async false

namespace Sys2Proof.Machine

variable {F : Frame} {s : State}

/-! ### Loads and stores -/

theorem load_bounds {i : Ins} {rd r n hyp : Nat} {imm : Int} {k : LoadKind}
    (hF : hartFrame (.load i rd r imm n k hyp) = some F) : F.Bounds s (execLoad i rd r imm n k hyp s) := by
  have I : IssueFrame F.parts F.writes := by cases hF; exact {}
  have D : DemandFrame F.parts F.writes := by cases hF; exact {}
  have partly {n} : (bump (CORE_FWD_PARTIAL n)).Within F.parts F.writes := bump_within (by cases hF; simp)
  have translated {h a l} : (xlAll h a l).Within F.parts F.writes := xlAll_within I
  have oldest {c : Prop} [Decidable c] {a : Act} (ha : a.Within F.parts F.writes) :
      Act.Within F.parts F.writes (if c then a else .skip) := leaves_ite ha trivial
  refine Frame.bounds_commit (issue_within I fun s => leaves_ite trivial (leaves_ite (oldest I.illegal) ?_))
  dsimp only
  split
  · exact oldest I.ownTrap
  · split
    · next h => exact oldest (trigData_within I h)
    · split
      · exact oldest (accessTrap_within I)
      · exact leaves_ite trivial <| leaves_ite (oldest ⟨translated, I.retired, trivial⟩) <| leaves_ite
          (leaves_ite trivial (leaves_ite I.trap ⟨translated, modHart_within I.core, trivial⟩)) <| leaves_ite I.trap <|
          leaves_ite
            (leaves_ite trivial ⟨translated, modHart_within I.core, leaves_each fun _ => I.ask, trivial⟩)
            ⟨translated, leaves_each fun _ => demand_within D, leaves_when partly,
              leaves_when (leaves_each fun _ => leaves_when I.ask), modHart_within I.core, loadPump_within I.toHartFrame, trivial⟩
theorem store_bounds {i : Ins} {r1 r2 n hyp : Nat} {imm : Int} {k : LoadKind}
    (hF : hartFrame (.store i r1 r2 imm n k hyp) = some F) : F.Bounds s (execStore i r1 r2 imm n k hyp s) := by
  have I : IssueFrame F.parts F.writes := by cases hF; exact {}
  refine Frame.bounds_commit (issueInOrder_within I fun s => leaves_ite I.illegal ?_)
  split
  · exact I.ownTrap
  · split
    · next h => exact trigData_within I h
    · exact storeBody_within I (leaves_ite (modHart_within I.core) trivial)
theorem storeDrain_bounds {h : Nat} (hF : hartFrame (.storeDrain h) = some F) : F.Bounds s (execStoreDrain h s) := by
  have H : HartFrame F.parts F.writes := by cases hF; exact {}
  have C : CacheFrame F.parts := by cases hF; exact {}
  have D : DemandFrame F.parts F.writes := by cases hF; exact {}
  have stream {n} : (bump (CORE_STREAM_LINES n)).Within F.parts F.writes := bump_within (by cases hF; simp)
  have send {n o l y w t d m} : (sendReq n o l y w t d m).Within F.parts F.writes := sendMsg_within C.mesh C.coh
  have ask {c : Prop} [Decidable c] {n o l y w} : Act.Within F.parts F.writes (if c then .skip else tileReq n o l y w) :=
    leaves_ite trivial (tileReq_within C.mesh C.coh)
  refine Frame.bounds_commit ?_
  split
  · trivial
  · have sent {f a} (ha : a.Within F.parts F.writes) : Act.Within F.parts F.writes (.all [modHart h f, a]) :=
      ⟨modHart_within H.core, ha, trivial⟩
    refine leaves_ite trivial <| leaves_ite (sent send) <| leaves_ite (sent send) <|
      leaves_ite (leaves_ite (sent send) (sent send)) <| leaves_ite ?_ <| leaves_ite
        ⟨stream, dropL2_within H.cache H.core, sqSent_within H.core, H.cache, send, trivial⟩ ?_
    · split
      · exact leaves_ite ⟨modL2_within H.cache, modHart_within H.core, H.cache, evictInDrain_within C, trivial⟩ ask
      · exact ask
    · split
      · exact leaves_ite ⟨demand_within D, modL2_within H.cache, fillL1_within H.cache, modHart_within H.core, H.cache,
          loadPump_within H, evictInDrain_within C, trivial⟩ ask
      · exact leaves_ite trivial
          ⟨bump_within (D.l1dMiss _), bump_within (D.l2Miss _), tileReq_within C.mesh C.coh, trivial⟩
theorem amo_bounds {i : Ins} {op : AmoOp} {rd r1 r2 n : Nat} (hF : hartFrame (.amo i op rd r1 r2 n) = some F) :
    F.Bounds s (execAmo i op rd r1 r2 n s) := by
  cases hF
  exact Frame.bounds_commit (serialise_within {} fun _ => atomic_within {} {})
theorem loadReserved_bounds {i : Ins} {rd r n : Nat} (hF : hartFrame (.loadReserved i rd r n) = some F) :
    F.Bounds s (execLoadReserved i rd r n s) := by
  cases hF
  exact Frame.bounds_commit (serialise_within {} fun _ => atomic_within {} {})
theorem storeConditional_bounds {i : Ins} {rd r1 r2 n : Nat} (hF : hartFrame (.storeConditional i rd r1 r2 n) = some F) :
    F.Bounds s (execStoreConditional i rd r1 r2 n s) := by
  have I : IssueFrame F.parts F.writes := by cases hF; exact {}
  have D : DemandFrame F.parts F.writes := by cases hF; exact {}
  exact Frame.bounds_commit (serialise_within I fun _ => leaves_ite I.retired (atomic_within I D))

/-! ### Events of the pipeline -/

theorem branchMispredict_bounds {h pc : Nat} (hF : hartFrame (.branchMispredict h pc) = some F) :
    F.Bounds s (execBranchMispredict h pc s) := by
  cases hF
  exact Frame.bounds_commit (leaves_ite bump_within trivial)
theorem memoryOrderFlush_bounds {h l q : Nat} (hF : hartFrame (.memoryOrderFlush h l q) = some F) :
    F.Bounds s (execMemoryOrderFlush h l q s) := by
  cases hF
  exact Frame.bounds_commit (leaves_ite trivial ⟨modHart_within (by simp), bump_within, trivial⟩)
theorem loadReplay_bounds {h : Nat} (hF : hartFrame (.loadReplay h) = some F) : F.Bounds s (execLoadReplay h s) := by
  cases hF
  exact Frame.bounds_commit <| leaves_ite trivial ⟨modHart_within (by simp), leaves_each fun _ => leaves_each fun _ _ =>
    leaves_when (askLine_within (by simp) (by simp)), loadPump_within {}, trivial⟩
theorem exception_bounds {h c v g : Nat} (hF : hartFrame (.exception h c v g) = some F) :
    F.Bounds s (execException h c v g s) := by
  cases hF
  exact Frame.bounds_commit (leaves_ite trivial (takeTrap_within_of_trapFrame {}))
theorem interruptTaken_bounds {h : Nat} (hF : hartFrame (.interruptTaken h) = some F) :
    F.Bounds s (execInterruptTaken h s) := by
  cases hF
  refine Frame.bounds_commit (leaves_ite trivial ?_)
  split
  · exact takeTrap_within_of_trapFrame {}
  · trivial

/-! ### Instructions that serialise or only retire -/

theorem xret_bounds {i : Ins} {b : Bool} (hF : hartFrame (.xret i b) = some F) : F.Bounds s (execXret i b s) := by
  have I : IssueFrame F.parts F.writes := by cases hF; exact {}
  have returns {f : Hart → Hart} : Act.Within F.parts F.writes (.seq (retire i.hart 0) (modHart i.hart f)) :=
    ⟨retire_within I.core, modHart_within I.core⟩
  exact Frame.bounds_commit <| serialise_within I fun _ => leaves_ite (leaves_ite returns I.illegal) <|
    leaves_ite (leaves_ite I.virtual I.illegal) <| leaves_ite (leaves_ite I.virtual returns) (leaves_ite I.illegal returns)
theorem fence_bounds {i : Ins} {p : Nat} (hF : hartFrame (.fence i p) = some F) : F.Bounds s (execFence i p s) := by
  have I : IssueFrame F.parts F.writes := by cases hF; exact {}
  exact Frame.bounds_commit (issue_within I fun _ => leaves_ite trivial I.retired)
theorem sfenceVma_bounds {i : Ins} {a b : Nat} (hF : hartFrame (.sfenceVma i a b) = some F) :
    F.Bounds s (execSfenceVma i a b s) := by
  have I : IssueFrame F.parts F.writes := by cases hF; exact {}
  exact Frame.bounds_commit <| serialise_within I fun _ => leaves_ite I.ownTrap <| leaves_ite I.virtual <|
    leaves_ite I.illegal ⟨leaves_ite (fenceVvma_within I.core) (tlbRemove_within I.core), I.retired⟩
theorem hfenceVvma_bounds {i : Ins} {a b : Nat} (hF : hartFrame (.hfenceVvma i a b) = some F) :
    F.Bounds s (execHfenceVvma i a b s) := by
  have I : IssueFrame F.parts F.writes := by cases hF; exact {}
  exact Frame.bounds_commit <| serialise_within I fun _ => leaves_ite I.virtual <|
    leaves_ite I.illegal ⟨fenceVvma_within I.core, I.retired⟩
theorem hfenceGvma_bounds {i : Ins} {a : Nat} (hF : hartFrame (.hfenceGvma i a) = some F) :
    F.Bounds s (execHfenceGvma i a s) := by
  have I : IssueFrame F.parts F.writes := by cases hF; exact {}
  exact Frame.bounds_commit <| serialise_within I fun _ => leaves_ite I.virtual <|
    leaves_ite I.illegal ⟨tlbRemove_within I.core, I.retired⟩
theorem fpsync_bounds {i : Ins} (hF : hartFrame (.fpsync i) = some F) : F.Bounds s (execFpsync i s) := by
  have I : IssueFrame F.parts F.writes := by cases hF; exact {}
  exact Frame.bounds_commit <| serialise_within I fun _ => leaves_ite I.illegal <|
    leaves_ite I.retired ⟨modHart_within I.core, I.ownTrap⟩
theorem wgate_bounds {i : Ins} {r : Nat} (hF : hartFrame (.wgate i r) = some F) : F.Bounds s (execWgate i r s) := by
  have I : IssueFrame F.parts F.writes := by cases hF; exact {}
  have fault {h l} : (setFs (SEL_GATE_FAULT h) l).Within F.parts F.writes := setFs_within (by cases hF; simp)
  have refused : (bump SEL_GATE_REFUSED).Within F.parts F.writes := bump_within (by cases hF; simp)
  have passed : (bump SEL_GATE_OK).Within F.parts F.writes := bump_within (by cases hF; simp)
  refine Frame.bounds_commit <| serialise_within I fun s => leaves_ite I.virtual (leaves_ite I.illegal ?_)
  split
  · exact I.trap
  · split
    · exact ⟨fault, refused, leaves_when (rasLog_within I.toLogFrame), I.illegal, trivial⟩
    · exact ⟨retire_within I.core, modHart_within I.core, bpClear_within I.core I.toHartFrame.flush, passed, I.cache, trivial⟩

/-! ### Batten instructions -/

theorem btnWopen_bounds {i : Ins} {rd a b : Nat} (hF : hartFrame (.btnWopen i rd a b) = some F) :
    F.Bounds s (execBtnWopen i rd a b s) := by
  have I : IssueFrame F.parts F.writes := by cases hF; exact {}
  have W : WindowFrame F.parts F.writes := by cases hF; exact {}
  exact Frame.bounds_commit <| issueInOrder_within I fun _ => leaves_ite I.illegal <| leaves_ite I.ownTrap <|
    leaves_ite I.retired ⟨modHart_within I.core, winOpen_within W I.mesh I.coh⟩
theorem btnFence_bounds {i : Ins} {rd : Nat} (hF : hartFrame (.btnFence i rd) = some F) :
    F.Bounds s (execBtnFence i rd s) := by
  have I : IssueFrame F.parts F.writes := by cases hF; exact {}
  exact Frame.bounds_commit (issueInOrder_within I fun _ => leaves_ite I.illegal (leaves_ite trivial I.retired))

/-! ### The Harness -/

theorem wiredLineChange_bounds {n : Nat} {b : Bool} (hF : hartFrame (.wiredLineChange n b) = some F) :
    F.Bounds s (execWiredLineChange n b s) := by
  cases hF
  exact Frame.bounds_commit (lineSet_within_of_src (by simp) (by simp) (by simp))
theorem vectorRaise_bounds {v : Nat} (hF : hartFrame (.vectorRaise v) = some F) : F.Bounds s (execVectorRaise v s) := by
  cases hF
  exact Frame.bounds_commit (vectorRaise_within_of_vec (by simp) (by simp) (by simp) (by simp))
theorem hrnThreshWrite_bounds {w : Bool} {h f : Nat} {v : W64} (hF : hartFrame (.hrnThreshWrite w h f v) = some F) :
    F.Bounds s (execHrnThreshWrite w h f v s) := by
  cases hF
  exact Frame.bounds_commit <| fileAccess_within (by simp)
    ⟨setF_within, hrnEval_within (by simp) (by simp), ioAnswer_within (by simp), trivial⟩
theorem hrnClaimRead_bounds {w : Bool} {h f : Nat} (hF : hartFrame (.hrnClaimRead w h f) = some F) :
    F.Bounds s (execHrnClaimRead w h f s) := by
  cases hF
  exact Frame.bounds_commit (fileAccess_within (by simp) (claim_within {}))
theorem hrnCompleteWrite_bounds {w : Bool} {h f n : Nat} (hF : hartFrame (.hrnCompleteWrite w h f n) = some F) :
    F.Bounds s (execHrnCompleteWrite w h f n s) := by
  cases hF
  refine Frame.bounds_commit fun s => fileAccess_within (by simp) ⟨?_, ioAnswer_within (by simp), trivial⟩
  split
  · exact ⟨endService_within {} (by simp), hrnEval_within (by simp) (by simp), trivial⟩
  · exact bump_within
theorem hrnChainRead_bounds {w : Bool} {h f : Nat} (hF : hartFrame (.hrnChainRead w h f) = some F) :
    F.Bounds s (execHrnChainRead w h f s) := by
  cases hF
  exact Frame.bounds_commit fun _ => fileAccess_within (by simp) <|
    leaves_ite (claim_within {}) ⟨endService_within {} (by simp), claim_within {}⟩
theorem hrnMsipWrite_bounds {w b : Bool} {h f : Nat} (hF : hartFrame (.hrnMsipWrite w h f b) = some F) :
    F.Bounds s (execHrnMsipWrite w h f b s) := by
  cases hF
  exact Frame.bounds_commit fun _ => fileAccess_within (by simp) <| leaves_ite
    ⟨setB_within (by simp), leaves_ite trivial ⟨hrn_within, hrnSend_within (by simp) (by simp), trivial⟩,
      ioAnswer_within (by simp), trivial⟩ (ioAnswer_within (by simp))
theorem hrnTimecmpWrite_bounds {w : Bool} {h f : Nat} {v : W64} (hF : hartFrame (.hrnTimecmpWrite w h f v) = some F) :
    F.Bounds s (execHrnTimecmpWrite w h f v s) := by
  cases hF
  exact Frame.bounds_commit <| fileAccess_within (by simp) <| leaves_ite
    ⟨reg_within, timerEval_within (by simp) (by simp), ioAnswer_within (by simp), trivial⟩ (ioAnswer_within (by simp))
theorem timerCompareMatch_bounds {h f : Nat} (hF : hartFrame (.timerCompareMatch h f) = some F) :
    F.Bounds s (execTimerCompareMatch h f s) := by
  cases hF
  exact Frame.bounds_commit (leaves_ite ⟨advanceTo_within {}, timerEval_within (by simp) (by simp), trivial⟩ trivial)
theorem undelivered_bounds {n : Nat} {x : Flit} (hF : hartFrame (.undelivered n x) = some F) :
    F.Bounds s (execUndelivered n x s) := by
  cases hF
  refine Frame.bounds_commit ⟨mesh_within, bump_within, ?_, trivial⟩
  split
  · exact hrn_within
  · trivial
theorem edgeLatchCapture_bounds {n : Nat} {b : Bool} (hF : hartFrame (.edgeLatchCapture n b) = some F) :
    F.Bounds s (execEdgeLatchCapture n b s) := by
  cases hF
  exact Frame.bounds_commit (leaves_ite hrn_within trivial)
theorem edgeLatchTransfer_bounds (hF : hartFrame .edgeLatchTransfer = some F) : F.Bounds s (execEdgeLatchTransfer s) := by
  cases hF
  exact Frame.bounds_commit <| leaves_ite trivial
    ⟨leaves_each fun _ => latchOut_within {}, leaves_each fun _ => latchOut_within {}, hrn_within, trivial⟩

/-! ### The frames together -/

/-- What a command of a hart or of the Harness changes is in its frame. -/
theorem hartFrame_bounds {c : Instr} (hF : hartFrame c = some F) : F.Bounds s (exec c s) := by
  cases c with
  | instructionExecute =>
    cases hF
    exact Frame.bounds_commit (issueInOrder_within {} fun _ => coreIns_within {})
  | fenceI =>
    cases hF
    exact Frame.bounds_commit (serialise_within {} fun _ => retires_within (by simp))
  | pause | wland =>
    cases hF
    exact Frame.bounds_commit (issueInOrder_within {} fun _ => retires_within (by simp))
  | csrWrite | deterministicEnter | deterministicExit | coreBpctlFlush | coreBpctxWrite | coreFpctlWrite =>
    cases hF
    exact Frame.bounds_commit (csrIns_within {} (by simp))
  | prefetchI | prefetchR | prefetchW =>
    cases hF
    exact Frame.bounds_commit (issueInOrder_within {} fun _ => prefetchIns_within {} (by simp))
  | cboZero | cboClean | cboFlush | cboInval =>
    cases hF
    exact Frame.bounds_commit (issueInOrder_within {} fun _ => cboIns_within {})
  | btnMac | btnXor =>
    cases hF
    exact Frame.bounds_commit (issueInOrder_within {} fun _ => macIns_within {})
  | btnWclose | btnWabort =>
    cases hF
    exact Frame.bounds_commit (issueInOrder_within {} fun _ => wcloseIns_within {} (by simp) (by simp))
  | hrnSrcEnable | hrnSrcDisable =>
    cases hF
    exact Frame.bounds_commit (srcWrite_within (by simp) (by simp) (by simp))
  | eipSet | eipClr | msipSet | msipClr | tipSet | tipClr =>
    cases hF
    exact Frame.bounds_commit (hrnFlit_within (by simp) (by simp))
  | load => exact load_bounds hF
  | store => exact store_bounds hF
  | storeDrain => exact storeDrain_bounds hF
  | amo => exact amo_bounds hF
  | loadReserved => exact loadReserved_bounds hF
  | storeConditional => exact storeConditional_bounds hF
  | branchMispredict => exact branchMispredict_bounds hF
  | memoryOrderFlush => exact memoryOrderFlush_bounds hF
  | loadReplay => exact loadReplay_bounds hF
  | exception => exact exception_bounds hF
  | interruptTaken => exact interruptTaken_bounds hF
  | xret => exact xret_bounds hF
  | fence => exact fence_bounds hF
  | sfenceVma => exact sfenceVma_bounds hF
  | hfenceVvma => exact hfenceVvma_bounds hF
  | hfenceGvma => exact hfenceGvma_bounds hF
  | fpsync => exact fpsync_bounds hF
  | wgate => exact wgate_bounds hF
  | btnWopen => exact btnWopen_bounds hF
  | btnFence => exact btnFence_bounds hF
  | wiredLineChange => exact wiredLineChange_bounds hF
  | vectorRaise => exact vectorRaise_bounds hF
  | hrnThreshWrite => exact hrnThreshWrite_bounds hF
  | hrnClaimRead => exact hrnClaimRead_bounds hF
  | hrnCompleteWrite => exact hrnCompleteWrite_bounds hF
  | hrnChainRead => exact hrnChainRead_bounds hF
  | hrnMsipWrite => exact hrnMsipWrite_bounds hF
  | hrnTimecmpWrite => exact hrnTimecmpWrite_bounds hF
  | timerCompareMatch => exact timerCompareMatch_bounds hF
  | undelivered => exact undelivered_bounds hF
  | edgeLatchCapture => exact edgeLatchCapture_bounds hF
  | edgeLatchTransfer => exact edgeLatchTransfer_bounds hF
  | _ => cases hF

/-- Settles O53: the act of each command of chapters 05, 12 to 14 and 16 stays within the command's frame. -/
theorem hartCommandsKeepTheRest : Obligations.HartCommandsKeepTheRest := by
  unfold Obligations.HartCommandsKeepTheRest
  intro c F s t hF h
  exact hartFrame_bounds hF t h

end Sys2Proof.Machine
end

section
/-! JTAG (chapter 23): what loading an instruction leaves in the TAP, and the device identification (R587). -/

namespace Sys2Proof.Machine

/-! ### The TAP -/

/-- While the IOD is powered, the instruction and its data register are loaded and nothing else changes (R585). -/
theorem run_tapLoad_of_tapOn {s : State} (hOn : s.tapOn = true) (code shift : Nat) :
    (tapLoad code shift).run s = { s with dbg := { s.dbg with ir := code, tapShift := shift } } := by
  simp [tapLoad, hOn, Act.run]

/-! ### The device identification (R587) -/

/-- The four fields of the IDCODE do not overlap, so that their sum is R587's bitwise OR. -/
theorem State.idcode_eq_or (s : State) :
    s.idcode =
      ((s.get DBY_CHIP_ID DBY_CHIP_ID_STEP % 16) <<< 28) ||| (0x0192 <<< 12) ||| (0x2B5 <<< 1) ||| 1 := by
  let step := s.get DBY_CHIP_ID DBY_CHIP_ID_STEP
  have hFixed : 0x0192 * 2 ^ 12 + 0x2B5 * 2 + 1 = 0x0192 <<< 12 ||| 0x2B5 <<< 1 ||| 1 := by decide
  have hBelow : 0x0192 * 2 ^ 12 + 0x2B5 * 2 + 1 < 2 ^ 28 := by decide
  calc s.idcode
      = (step % 16) <<< 28 + (0x0192 * 2 ^ 12 + 0x2B5 * 2 + 1) := by
        simp only [State.idcode, step, Nat.shiftLeft_eq, Nat.add_assoc]
    _ = (step % 16) <<< 28 ||| (0x0192 * 2 ^ 12 + 0x2B5 * 2 + 1) := Nat.shiftLeft_add_eq_or_of_lt hBelow _
    _ = (step % 16) <<< 28 ||| 0x0192 <<< 12 ||| 0x2B5 <<< 1 ||| 1 := by
        rw [hFixed, Nat.or_assoc, Nat.or_assoc, Nat.or_assoc]

/-- The device at its first stepping (R587). -/
theorem State.idcode_of_step_one {s : State} (h : s.get DBY_CHIP_ID DBY_CHIP_ID_STEP = 0x01) : s.idcode = 0x1019256B := by
  simp [State.idcode, h]

theorem exec_jtagIdcode (s : State) : exec .jtagIdcode s = commit (tapLoad 0x02 s.idcode) s := rfl

/-- Settles O60: IDCODE loads the data register with the device's identification, which is R587's OR of the stepping, the
part number, the maker and the constant 1. -/
theorem idcodeOfTheDevice : Obligations.IdcodeOfTheDevice := by
  unfold Obligations.IdcodeOfTheDevice
  intro s step hOn
  refine completes_commit (exec_jtagIdcode s) ?_
  rw [run_tapLoad_of_tapOn hOn]
  exact ⟨s.idcode_eq_or, State.idcode_of_step_one⟩

end Sys2Proof.Machine
end
